-- ==== Sys2Proof/Word.lean ====
section
/-!
DEFINITION. The word types of the CX128's register window and the plainest arithmetic on them (Table 0-1, R30: register
accesses are 32 bits wide).
-/

namespace Sys2Proof

/-- A register or memory word of 32 bits (R30). -/
abbrev Word := BitVec 32

/-- A byte. -/
abbrev Byte := BitVec 8

/-- A 64-bit quantity, as a `_LO` and `_HI` pair holds it (R3). -/
abbrev DWord := BitVec 64

end Sys2Proof
end

