-- ==== Sys2Proof/Machine/Units.lean ====
section
/-!
DEFINITION. The names the commands and the state are written with: the pages of Table 2-1, the access paths of R4, the clock
domains of Table 1-2, and the shapes of what the outside world hands to the block (frames, datagrams, fetched entries).
-/

namespace Sys2Proof

/-- The pages of the register window (R29, Table 2-1). -/
inductive Page where
  | dev | clk | pwr | sec | dbg | evt | cmd
  | net (p : Fin 4)
  | swt | ycp | hfr | tim | knt | hit | cam
  | axm (n : Fin 160)
  | grp (g : Fin 32)
  | lpa (n : Fin 128)
  | lpe (e : Fin 4)
  | mod (n : Fin 128)
  | bus (b : Fin 16)
  | fbk (n : Fin 128)
  | adc (c : Fin 16)
  | sdf (k : Fin 8)
  | fco (k : Fin 8)
  | dsp | trc | fld | bly | mem | kep | scb
  | snl (n : Fin 128)
deriving DecidableEq, Repr

/-- The access paths (R4), the debug UART among them (R478). -/
inductive Path where
  | pcie
  | ycp (s : Fin 4)
  | core (k : Fin 8)
  | uart
deriving DecidableEq, Repr

/-- The clock domains of Table 1-2. -/
inductive Clk where
  | sys | pwm | time | sense | adc | netTx
  | netRx (p : Fin 4)
  | host | mem | field | belay
deriving DecidableEq, Repr

/-- PLL A to PLL F (R468). -/
inductive Pll where
  | a | b | c | d | e | f
deriving DecidableEq, Repr

/-- The page states of Table 2-6. -/
inductive PgState where
  | off | ready | run | fault | splicing | safe
deriving DecidableEq, Repr

/-- The axis states of Table 6-1. -/
inductive AxState where
  | disabled | ready | holding | moving | stopping | slack | homing | fault | safe
deriving DecidableEq, Repr

/-- The memory regions of Table 19-1, with DRAM and keep memory (Table 19-3). -/
inductive Region where
  | deck | loop | core | net | trace | dram | keep
deriving DecidableEq, Repr

/-- A time of day (R6): seconds, nanoseconds and a 16-bit fraction of a nanosecond. -/
structure Stamp where
  s : Nat := 0
  ns : Nat := 0
  frac : Nat := 0
deriving DecidableEq, Repr

/-- The common part of a submission entry (Table 3-2), with the ring and the index it was fetched from. -/
structure Hdr where
  ring : Fin 4
  index : BitVec 12
  tag : Byte
  flags : Byte := 0
  start : Stamp := {}
deriving DecidableEq, Repr

/-- What one fetch of a submission entry returns: the 64 bytes (bit 0 is bit 0 of byte 0), and the contents of the operand
buffer the entry points to, `none` for a host-memory read error on the buffer (R56). -/
structure Fetched where
  entry : BitVec 512
  buf : Option (List DWord) := some []
deriving DecidableEq, Repr

/-- The PTP messages by kind. -/
inductive PtpKind where
  | sync | followUp | delayReq | delayResp | pdelayReq | pdelayResp | pdelayFollowUp | announce
deriving DecidableEq, Repr

/-- A PTP message that the engine sends (R107 to R110): its transport, domain, identities and fields. `corr` is the correctionField and
`time` the timestamp it carries, in units of 2^-16 ns; `rx` is the ingress time of a message that waits for its egress time, with the
ingress port's MPD where R110 adds it, and `defer` says that the residence goes into a later message. -/
structure PtpTx where
  kind : PtpKind
  udp : Bool := false
  /-- The UDP checksum is set to 0 (R110). -/
  sumZero : Bool := false
  domain : Nat := 0
  srcId : DWord := 0
  srcPort : BitVec 16 := 0
  seq : BitVec 16 := 0
  twoStep : Bool := false
  corr : Int := 0
  time : Int := 0
  reqId : DWord := 0
  reqPort : BitVec 16 := 0
  body : List Word := []
  /-- A message the engine forwards, whose residence time counts (R110). -/
  forwarded : Bool := false
  rx : Int := 0
  defer : Bool := false
deriving DecidableEq, Repr

/-- An Ethernet frame as the switch sees it (R68 to R72). A PTP message of the engine is given by its fields, the bytes of IEEE 1588
being that standard's. -/
structure EthFrame where
  dst : BitVec 48
  src : BitVec 48
  etype : BitVec 16
  pcp : Option (Fin 8) := none
  len : Nat
  data : List Byte := []
  vid : BitVec 12 := 0
  ptp : Option PtpTx := none
deriving DecidableEq, Repr

/-- The IPv4 header of a received datagram (R75): `total` is its length field, `frag` the flags and the fragment offset. -/
structure IpHdr where
  tos : Byte := 0
  total : BitVec 16 := 0
  ident : BitVec 16 := 0
  frag : BitVec 16 := 0
  ttl : Byte := 64
  sum : BitVec 16 := 0
  src : Word
  dst : Word
  options : List Byte := []
deriving DecidableEq, Repr

/-- A received YCP datagram (R75, R77, Table 4-2): its IPv4 and UDP headers, the YCP header but for TYPE, which the command's row
gives, and SESSION's number, which is the command's operand; the body as it was on the wire, and the tag of the types that carry one. -/
structure Dgram where
  ip : IpHdr
  sport : BitVec 16
  dport : BitVec 16
  udpLen : BitVec 16
  udpSum : BitVec 16 := 0
  magic : BitVec 16 := 0x5943
  version : Byte := 1
  /-- Bits [7:2] of byte 4, and byte 5. -/
  rsv4 : BitVec 6 := 0
  rsv5 : Byte := 0
  length : BitVec 16
  seq : Word := 0
  body : List Byte := []
  tag : BitVec 128 := 0
deriving DecidableEq, Repr

/-- The body of a REQUEST after its decryption (Table 4-5), but for OP, which the command's row gives; `op` is there where the byte
names none of the operations. `rest` is what follows byte 7. -/
structure YcpBody where
  size : Byte := 4
  count : BitVec 16 := 1
  addr : Word := 0
  rest : List Byte := []
  op : Option Byte := none
deriving DecidableEq, Repr

/-- One entry of a hitch frame (Table 4-7): position Q40.8, velocity Q16.16 counts per frame, status. -/
structure HitchEntry where
  pos : BitVec 48
  vel : BitVec 32
  status : BitVec 16
deriving DecidableEq, Repr

/-- The payload of a hitch frame (Table 4-7). -/
structure HitchFrame where
  ndiv : Fin 17
  locked : Bool
  restart : Bool
  step : Bool
  pubId : BitVec 16
  epoch : Word
  seq : Word
  sample : Stamp
  entries : List HitchEntry
deriving DecidableEq, Repr

/-- A received PTP message (R107 to R110), as far as the engine reads it. `corr` is the correctionField and the times are
nanoseconds since the epoch in units of 2^-16 ns; `rx` is the device time at which it crossed the port's interface (R74). -/
structure PtpMsg where
  version : Nat := 2
  domain : Nat := 0
  srcId : DWord := 0
  srcPort : BitVec 16 := 0
  seq : BitVec 16 := 0
  corr : Int := 0
  origin : Int := 0
  rx : Int := 0
  twoStep : Bool := false
  reqId : DWord := 0
  reqPort : BitVec 16 := 0
deriving DecidableEq, Repr

/-- A schedule entry of a downlink frame (Table 17-3). The action codes are those of the table. -/
structure SchedEntry where
  action : Fin 6 := 0
  pin : Fin 64 := 0
  tag : BitVec 16 := 0
  time : Stamp := {}
  width : Nat := 0
deriving DecidableEq, Repr

/-- An event entry of an uplink frame (Table 17-3). -/
structure EventEntry where
  kind : Fin 8 := 0
  reason : Fin 5 := 0
  pin : Fin 64 := 0
  tag : BitVec 16 := 0
  time : Stamp := {}
deriving DecidableEq, Repr

/-- One CFG slot of a downlink frame (Table 17-1). -/
structure CfgSlot where
  id : Byte := 0
  bly : Bool := false
  off : Nat := 0
  data : Word := 0
deriving DecidableEq, Repr

/-- A downlink frame (Table 17-1). -/
structure DownFrame where
  seq : Byte := 0
  ack : Byte := 0
  ackMap : Byte := 0
  resync : Bool := false
  tTx : Stamp := {}
  outLevel : DWord := 0
  cfg0 : CfgSlot := {}
  cfg1 : CfgSlot := {}
  sched : List SchedEntry := []
deriving DecidableEq, Repr

/-- The BELAY field of an uplink frame (Table 18-4). -/
structure BelayField where
  sto : BitVec 16 := 0xFFFF
  stopReq : BitVec 16 := 0
  fnRun : BitVec 12 := 0
  fault : BitVec 4 := 0
  sout : Byte := 0
  state : Fin 4 := 0
  parOk : Bool := false
  resetWait : Bool := false
  parVer : BitVec 4 := 0
deriving DecidableEq, Repr

/-- An uplink frame (Table 17-2). -/
structure UpFrame where
  seq : Byte := 0
  ack : Byte := 0
  ackMap : Byte := 0
  resync : Bool := false
  tField : Stamp := {}
  inLevel : DWord := 0
  vfield : BitVec 16 := 0
  groupOn : Byte := 0
  inputsValid : Bool := false
  warn : Bool := false
  uvlo : Bool := false
  cfgAck0 : Byte := 0
  cfgAck1 : Byte := 0
  belay : BelayField := {}
  events : List EventEntry := []
deriving DecidableEq, Repr

/-- A request of the debug UART (R478): the bytes between 0xA5 and the CRC, and the CRC received. -/
structure UartReq where
  seq : Byte
  op : Byte
  off : BitVec 24
  data : Word := 0
  crc : Byte
deriving DecidableEq, Repr

/-- The reference edges of a homing phase (Table 6-5): the home input has become active or inactive, the limit of the search direction
has become active, an index pulse has come. -/
inductive RefEdge where
  | home (active : Bool)
  | limit
  | index
deriving DecidableEq, Repr

/-- What a save meets: the length of its image in bytes, check bytes included, and whether the keep memory takes the writes, each of
which is read back (R449, R460). -/
structure SaveEnv where
  bytes : Nat := 0
  keepOk : Bool := true
deriving DecidableEq, Repr

/-- One record of a boot image (R456): register accesses, an image for filter cores, a loop-stage program for quarters, or one whose
type or length R456 does not define. The flags are the outcomes of the digest and signature checks (Table 14-4). -/
inductive BootRec where
  | batch (list : List DWord)
  | cores (mask : Byte) (image : List Byte) (digestOk sigOk : Bool)
  | loops (mask : Byte) (prog : List Byte) (digestOk sigOk : Bool)
  | other (typ : Byte)
deriving DecidableEq, Repr

/-- What the board and the keep memory present to the start-up sequence (R449, R456 to R458, R465): the xSPI device, the data bytes
it holds from offset 0 (their check bytes, two for each word of 16, left out), whether every word of the boot image reads without an
uncorrectable error, the outcomes of the DIGEST and SIGNATURE checks of the boot image and of the image in each of its records in order,
and the outcome of the checks on the save image. -/
structure BootEnv where
  keepMiB : Nat := 0
  keepId : BitVec 24 := 0
  boot : List Byte := []
  readOk : Bool := true
  digestOk : Bool := true
  sigOk : Bool := true
  recChecks : List (Bool × Bool) := []
  saveCrcOk : Bool := true
deriving DecidableEq, Repr

end Sys2Proof
end

