-- ==== Sys2Proof/Syntax.lean ====
section
/-!
DEFINITION. The commands of the CX128: one constructor per row of spec/opcode_table.json, in the table's order, with the operands that
the rows' rules give them. A command is one whole step of the part (95_what_each_step_holds.md); what the outside world decides
(a bit stream, a datagram, the contents of host memory) is an operand of the command that takes it in.
-/

namespace Sys2Proof

/-- An access through BAR 2 (R47): the bytes of a write, `none` where the byte enable is clear, or the length of a read. -/
inductive Bar2Access where
  | write (bytes : List (Option Byte))
  | read (n : Nat)
deriving DecidableEq, Repr

/-- The commands of the block, one per row of the opcode table. -/
inductive Instr where
  /-- CLOCK_LOSS (R16). A watched clock stops and its loss is detected within 2 µs, latching 0x02 and taking the domain's loss effect. -/
  | clockLoss (d : Clk)
  /-- FRAME_KNOT (R17). Knot 0 fires, and feedback, decimators and hitch samples latch for the frame. -/
  | frameKnot (late : List (Fin 160)) (pwmTicks : Nat)
  /-- CURRENT_SAMPLE (R18). Current sample i of the frame is taken, and the current and model stages run. -/
  | currentSample (i : Fin 16) (bits : List (Fin 384 × List Bool)) (phaseErr : List (Fin 128 × Int)) (overrun : List (Fin 4))
  /-- BLOCK_WATCHDOG (R9). A block engine with work makes no step for 1 ms, latches 0x05 and aborts its items. -/
  | blockWatchdog (p : Page)
  /-- PAGE_ENABLE (R33). A write of PG_CTL.EN = 1 checks the configuration and moves the page from OFF to READY. -/
  | pageEnable (path : Path) (p : Page)
  /-- PAGE_DISABLE (R33). A write of PG_CTL.EN = 0 moves the page to OFF and aborts its items in flight. -/
  | pageDisable (path : Path) (p : Page)
  /-- PGRESET (R34). A write of PGRESET = 1 starts a page reset to reset values. -/
  | pgReset (path : Path) (p : Page)
  /-- PAGE_RESET_COMPLETE (R34). A page reset completes, and PGRESET and BUSY clear. -/
  | pageResetComplete (p : Page)
  /-- SEAL (R35). A write of SEAL = 1 makes the page's RWL fields read-only and takes their CRC-32C. -/
  | sealPage (path : Path) (p : Page)
  /-- SEAL_CRC_CHECK (R35). The seal CRC is recomputed every 1 ms, and a mismatch latches 0x04. -/
  | sealCrcCheck (p : Page)
  /-- SPLICE_REQ (R484). A write of SPLICE_REQ = 1 requests a splice, which runs from the next apply point. -/
  | spliceReq (path : Path) (p : Page)
  /-- SPLICE_LIMIT_EXPIRY (R484). A splice reaches its limit, and the old content is kept or the page faults. -/
  | spliceLimitExpiry (p : Page) (intact : Bool)
  /-- PG_EVT_WRITE (R37). A W1C write clears event causes. -/
  | pgEvtWrite (path : Path) (p : Page) (v : Word)
  /-- PG_EVEN_WRITE (R37). A write of the cause enables raises the vector for bits that are already set. -/
  | pgEvenWrite (path : Path) (p : Page) (v : Word)
  /-- PG_EVSET_WRITE (R37). A write raises causes for test, as the causes themselves would. -/
  | pgEvsetWrite (path : Path) (p : Page) (v : Word)
  /-- PG_FLT_CLEAR (R36). A write of CLEAR = 1 clears the first fault latch, or is refused while the condition persists. -/
  | pgFltClear (path : Path) (p : Page)
  /-- PG_APPLY (R38). A write of 1 requests an apply of the page's shadows at its next apply point. -/
  | pgApply (path : Path) (p : Page)
  /-- APPLY (R38). At the apply point the shadows are copied to the active registers, or the apply is refused. -/
  | apply (p : Page)
  /-- PG_OWNER_WRITE (R41). A write sets or releases write ownership of the page. -/
  | pgOwnerWrite (path : Path) (p : Page) (v : Word)
  /-- REGISTER_WRITE (R40). A write to a register without a row of its own is checked and performed. A PCI Express write has the forms
  of R30: `more` are the DWs after the first, `full` says that every byte enable is set. -/
  | registerWrite (path : Path) (off : BitVec 24) (v : Word) (more : List Word) (full : Bool)
  /-- PAIR_LO_READ (R3). A read of a _LO half snapshots the _HI half for the reading path. The table has no other row for a read of
  the window, so this one serves every offset, and a PCI Express read of any form: `more` DWs after the first (R30). -/
  | pairLoRead (path : Path) (off : BitVec 24) (more : Fin 128) (full : Bool)
  /-- PAIR_LO_WRITE (R3). A write of a _LO half fills the path's staging latch. -/
  | pairLoWrite (path : Path) (off : BitVec 24) (v : Word)
  /-- PAIR_HI_WRITE (R3). A write of a _HI half commits the latch and the upper half as one write. -/
  | pairHiWrite (path : Path) (off : BitVec 24) (v : Word)
  /-- EVT_MASK_WRITE (R44). A write of EVT_MASK unmasks vectors, and pending vectors are then sent. -/
  | evtMaskWrite (path : Path) (hi : Bool) (v : Word)
  /-- VECTOR_MESSAGE (R44). A pending vector is sent as MSI-X or as an event message once its interval and coalescing allow. -/
  | vectorMessage (v : Fin 64)
  /-- SQ_TAIL_DB (R53). A doorbell write gives entries to a submission ring, or is refused. -/
  | sqTailDb (path : Path) (r : Fin 4) (v : Word)
  /-- SQ_RESET (R53). SQ_RESET discards unfetched entries and returns the ring to RUNNING. -/
  | sqReset (path : Path) (r : Fin 4)
  /-- CQ_HEAD_DB (R54). A write returns consumed completion entries, or is refused. -/
  | cqHeadDb (path : Path) (v : Word)
  /-- SQ_SIZE_WRITE (R55). A write of SQ_SIZE is applied, or held with RESIZE_PENDING. -/
  | sqSizeWrite (path : Path) (r : Fin 4) (v : Word)
  /-- CQ_SIZE_WRITE (R55). A write of CQ_SIZE is applied, or held with RESIZE_PENDING. -/
  | cqSizeWrite (path : Path) (v : Word)
  /-- RING_RESIZE_APPLY (R55). A held ring size applies once the ring is empty and no command is in flight. -/
  | ringResizeApply (ring : Option (Fin 4))
  /-- CQ_ENABLE (R67). Setting CQ_CTL.EN starts the posting of held completions. -/
  | cqEnable (path : Path)
  /-- HELD_COMPLETION_POST (R67). A held completion is posted once the ring has room. -/
  | heldCompletionPost
  /-- COMMAND_FETCH (R58). The engine fetches up to 4 entries by priority when a completion slot can be reserved. -/
  | commandFetch (entries : List (Option Fetched))
  /-- REG_BATCH (R63). The command runs a list of register accesses from the PCI Express path. -/
  | regBatch (h : Hdr) (list : Option (List DWord)) (count : BitVec 16) (cont : Bool)
  /-- MOVE_ABS (R127). The command starts a jerk-limited positioning move to an absolute target. -/
  | moveAbs (h : Hdr) (axis : Word) (pos vel acc dec jerk : DWord)
  /-- MOVE_REL (R129). The command starts a positioning move by a distance. -/
  | moveRel (h : Hdr) (axis : Word) (dist vel acc dec jerk : DWord)
  /-- MOVE_VEL (R131). The command changes the axis to a signed velocity. -/
  | moveVel (h : Hdr) (axis : Word) (vel acc dec jerk : DWord)
  /-- STOP (R137). The command stops an axis with a slack, quick or drop stop. -/
  | stop (h : Hdr) (axis : Word) (kind : Byte)
  /-- RESUME (R139). The command restarts the interrupted command of an axis in SLACK. -/
  | resume (h : Hdr) (axis : Word)
  /-- HOME (R143). The command runs a homing sequence. -/
  | home (h : Hdr) (axis : Word) (method flags : Byte) (search creep accel offset : DWord)
  /-- ENABLE (R122). The command enables or disables an axis. -/
  | enable (h : Hdr) (axis : Word) (en : Byte)
  /-- GROUP_MOVE (R152). The command moves a group's members along one straight path. -/
  | groupMove (h : Hdr) (group : Word) (targets : Option (List DWord)) (count : Byte) (relative : Bool) (vel acc dec jerk : DWord)
  /-- HITCH_SET (R159). The command checks and engages a hitch record. -/
  | hitchSet (h : Hdr) (hitch : Word) (record : BitVec 256)
  /-- CAM_READ_DONE (R159). The cam read for a CAM HITCH_SET ends, and the hitch passes or fails. -/
  | camReadDone (hitch : Fin 256)
  /-- HITCH_RELEASE (R163). The command disengages a hitch with a ramp or a stop. -/
  | hitchRelease (h : Hdr) (hitch : Word) (ramp : Bool)
  /-- CAM_LOAD (R171). The command writes cam nodes to DRAM and returns their CRC. -/
  | camLoad (h : Hdr) (first count : Word)
  /-- CAM_VERIFY (R171). The command computes and compares the CRC of a cam node range. -/
  | camVerify (h : Hdr) (first count crc : Word)
  /-- FCO_LOAD (R361). The command checks a filter-core image and splices it into the cores of its mask. -/
  | fcoLoad (h : Hdr) (mask len : Word)
  /-- TRACE_START (R389). The command starts trace and writes START at the next frame knot. -/
  | traceStart (h : Hdr)
  /-- TRACE_STOP (R389). The command forms STOP and stops trace. -/
  | traceStop (h : Hdr)
  /-- FAULT_CLEAR (R123). The command clears the first-fault latch of a named page. -/
  | faultClear (h : Hdr) (page : Word)
  /-- SAVE_TEST (R463). The command runs save steps 5 to 8 with a TEST marker while motion continues. -/
  | saveTest (h : Hdr)
  /-- BAR2_WRITE (R47). A BAR 2 write reaches DRAM through its segment, or is dropped. The table has no row for a BAR 2 read, so this
  one takes it too. -/
  | bar2Write (addr : BitVec 30) (access : Bar2Access)
  /-- FRAME_RX (R69). A received Ethernet frame is learned and forwarded by the switch. -/
  | frameRx (port : Fin 5) (f : EthFrame) (fcsOk : Bool)
  /-- FRAME_TRANSMIT (R71). An egress port starts the next frame from its highest open queue. -/
  | frameTransmit (port : Fin 4)
  /-- GCL_ENTRY_CHANGE (R72). A gate control list interval ends, and the next gate set opens. -/
  | gclEntryChange (port : Fin 4)
  /-- ADDRESS_AGEING (R69). A learned address ages out after SWT_AGE seconds. -/
  | addressAgeing (mac : BitVec 48)
  /-- LINK_UP (R92). A line port's link comes up. -/
  | linkUp (port : Fin 4) (anDone : Bool)
  /-- LINK_DOWN (R92). A line port's link goes down. -/
  | linkDown (port : Fin 4) (remoteFault : Bool)
  /-- NET_MDIO_GO (R92). A write of GO starts a clause 22 MDIO access. -/
  | netMdioGo (path : Path) (port : Fin 4) (v : Word)
  /-- MDIO_DONE (R92). The MDIO access ends, and GO clears. -/
  | mdioDone (port : Fin 4) (data : BitVec 16)
  /-- ICMP_ECHO_REQUEST (R75). An ICMP echo request to YCP_IP is answered when ICMP_EN is 1. -/
  | icmpEchoRequest (h : IpHdr) (data : List Byte)
  /-- OPEN (R79). A YCP OPEN datagram opens a session and is answered by OPEN_ACK. `rsv` are the reserved bytes of its body, and
  `devNonce` is what the random-number generator gives. -/
  | ycpOpen (ses : Fin 4) (g : Dgram) (slot : Byte) (rsv : BitVec 24) (clientNonce devNonce : BitVec 128)
  /-- KEEPALIVE (R79). A YCP KEEPALIVE datagram restarts the session timeout and is echoed. -/
  | ycpKeepalive (ses : Fin 4) (g : Dgram)
  /-- CLOSE (R79). A YCP CLOSE datagram closes the session. -/
  | ycpClose (ses : Fin 4) (g : Dgram)
  /-- READ (R81). A YCP REQUEST with OP READ reads one register. -/
  | ycpRead (ses : Fin 4) (g : Dgram) (b : YcpBody)
  /-- WRITE (R81). A YCP REQUEST with OP WRITE writes one register. -/
  | ycpWrite (ses : Fin 4) (g : Dgram) (b : YcpBody)
  /-- READ_BLOCK (R81). A YCP REQUEST reads up to 256 consecutive words. -/
  | ycpReadBlock (ses : Fin 4) (g : Dgram) (b : YcpBody)
  /-- WRITE_BLOCK (R81). A YCP REQUEST writes up to 256 consecutive words. -/
  | ycpWriteBlock (ses : Fin 4) (g : Dgram) (b : YcpBody)
  /-- COMMAND (R81). A YCP REQUEST runs a 64-byte submission entry as a command; `buf` is the operand buffer the entry points to. -/
  | ycpCommand (ses : Fin 4) (g : Dgram) (b : YcpBody) (buf : Option (List DWord))
  /-- SESSION_PENDING_TIMEOUT (R79). A PENDING session closes after 100 ms without an authentic datagram. -/
  | sessionPendingTimeout (ses : Fin 4)
  /-- SESSION_TIMEOUT (R79). An OPEN session closes after SES_TIMEOUT without an authentic datagram. -/
  | sessionTimeout (ses : Fin 4)
  /-- SES_CLOSE (R79). A write of SES_CLOSE = 1 closes the session. -/
  | sesClose (path : Path) (ses : Fin 4)
  /-- YCP_ORPHAN_POP (R83). A read of YCP_ORPHAN pops one orphaned end. -/
  | ycpOrphanPop (path : Path)
  /-- HITCH_FRAME_PUBLISH (R87). The publisher queues a hitch frame 1.0 µs after a publishing frame knot. -/
  | hitchFramePublish
  /-- HITCH_FRAME_RX (R89). A subscription receives a hitch frame and handles it per Table 4-8. `rx` is the device time in ns at which
  the frame's first bit crossed the interface of the port (R74). -/
  | hitchFrameRx (port : Fin 4) (rx : Nat) (f : HitchFrame)
  /-- SUBSCRIPTION_MISS (R89). A publish period ends at its deadline without a usable frame, and LOSS_FRAMES misses make it LOST. -/
  | subscriptionMiss (j : Fin 16)
  /-- PLL_LOCK (R97). PLL C regains lock after a relock, and the TIM page enters RUN. -/
  | pllLock
  /-- TIM_NOW_READ (R98). A read of TIM_NOW_S_LO snapshots the time for the path. -/
  | timNowRead (path : Path)
  /-- PPSIN_EDGE (R100). A PPSIN edge gives a servo offset sample. -/
  | ppsinEdge (falling : Bool)
  /-- TIM_HOST_OFS (R100). A write of TIM_HOST_OFS is one servo offset sample. -/
  | timHostOfs (path : Path) (v : Word)
  /-- TIM_SET_NS (R102). A write of TIM_SET_NS requests a step of the time at the step point. -/
  | timSetNs (path : Path) (v : Word)
  /-- TIME_STEP (R102). The time steps at the step point 2.0 µs after a frame knot. -/
  | timeStep
  /-- HOLDOVER (R103). No accepted sample arrives for HOLD_TIMEOUT, and the servo enters HOLDOVER. -/
  | holdover
  /-- SYNC_RX (R108). A PTP Sync is received on a SLAVE port, or forwarded by a transparent clock. -/
  | syncRx (port : Fin 4) (m : PtpMsg)
  /-- FOLLOW_UP_RX (R108). A PTP Follow_Up completes a two-step Sync and yields an offset. -/
  | followUpRx (port : Fin 4) (m : PtpMsg)
  /-- DELAY_REQ_RX (R107). A MASTER port answers a Delay_Req with Delay_Resp. -/
  | delayReqRx (port : Fin 4) (m : PtpMsg)
  /-- DELAY_RESP_RX (R108). A Delay_Resp gives an E2E delay sample. -/
  | delayRespRx (port : Fin 4) (m : PtpMsg)
  /-- PDELAY_REQ_RX (R107). A port answers a Pdelay_Req. -/
  | pdelayReqRx (port : Fin 4) (m : PtpMsg)
  /-- PDELAY_RESP_RX (R108). A Pdelay_Resp gives a P2P link-delay sample. -/
  | pdelayRespRx (port : Fin 4) (m : PtpMsg) (t2 t3 : Int)
  /-- ANNOUNCE_RX (R109). A received Announce is queued in PTP_ANN_RX. -/
  | announceRx (port : Fin 4) (m : PtpMsg) (body : List Word)
  /-- ANNOUNCE_POP (R119). A read of PTP_ANN_RX pops an Announce into PTP_ANN_MSG. -/
  | announcePop (path : Path)
  /-- SYNC_TX (R107). A MASTER port sends Sync every 2^SYNC_LOG s. -/
  | syncTx (port : Fin 4)
  /-- ANNOUNCE_TX (R107). A MASTER port sends the Announce template every 2^ANN_LOG s. -/
  | announceTx (port : Fin 4)
  /-- DELAY_REQ_TX (R108). A port sends Delay_Req or Pdelay_Req every 2^DREQ_LOG s. -/
  | delayReqTx (port : Fin 4)
  /-- KNOT_FIRE (R111). A knot fires at its target and drives its pins, converters, trace, dispatcher and events. -/
  | knotFire (k : Fin 32)
  /-- KNOT_PULSE_END (R115). A KNOT pin pulse of KN_PULSE ticks ends. -/
  | knotPulseEnd (pin : Fin 4)
  /-- CAPTURE_EDGE (R116). A filtered edge on CAP0 to CAP7 is timestamped into its FIFO. -/
  | captureEdge (c : Fin 8) (rising : Bool) (held : Nat)
  /-- CAP_POP (R116). A read of CAP_NS pops one capture entry. -/
  | capPop (path : Path) (c : Fin 8)
  /-- HARDWARE_LIMIT_EDGE (R141). A qualified limit edge in the direction of motion starts a limit stop with 0x12. -/
  | hardwareLimitEdge (n : Fin 160) (positive active : Bool)
  /-- HOME_REFERENCE_EDGE (R143). The reference edge of a homing phase is latched. -/
  | homeReferenceEdge (n : Fin 160) (kind : RefEdge)
  /-- HOME_DWELL_END (R145). AXM_HOME_DWELL ends, and home and index edges are accepted again. -/
  | homeDwellEnd (n : Fin 160)
  /-- LAT_ARM (R172). A write of LAT_ARM re-arms a SINGLE latch unit. -/
  | latArm (path : Path) (n : Fin 160) (l : Fin 2)
  /-- LATCH_EDGE (R173). A qualified latch edge gives a position that is written at the next frame knot. -/
  | latchEdge (n : Fin 160) (l : Fin 2) (rising : Bool)
  /-- LATF_POP (R174). A read of LATF_POP pops one latch FIFO entry. -/
  | latfPop (path : Path) (n : Fin 160) (l : Fin 2)
  /-- COMPARE_SPARE_SWITCH (R177). The modulator switches the spare gate output at the predicted crossing time. -/
  | compareSpareSwitch (n : Fin 128) (c : Fin 4)
  /-- LPA_OBS_SEQ_READ (R211). A read of LPA_OBS_SEQ snapshots the observables for the path. -/
  | lpaObsSeqRead (path : Path) (n : Fin 128)
  /-- MDL_WRITE (R207). A write to an MDL_ register sets MODEL_SETTLING for 16 frames. -/
  | mdlWrite (path : Path) (n : Fin 128) (reg : Fin 7) (v : Word)
  /-- ESTIMATE_STOP_END (R224). ESTIMATE_STOP ends in TORQUE_OFF_BRAKE at zero estimated speed or after 200 ms. -/
  | estimateStopEnd (n : Fin 128)
  /-- BRKFB_TIMEOUT (R231). BRKFB disagrees with the command for BRKFB_TIME, and 0x42 latches. -/
  | brkfbTimeout (b : Fin 16) (level : Bool)
  /-- TRIP_IN (R235). A qualified TRIPb edge trips every member port and latches 0x43. -/
  | tripIn (b : Fin 16) (level : Bool) (held : Nat)
  /-- BUS_V_MAX_WRITE (R239). A write of BUS_V_MAX restarts the peak at the present sample. -/
  | busVMaxWrite (path : Path) (b : Fin 16) (v : Word)
  /-- CARRIER_BOUNDARY (R248). A carrier period boundary applies the pending duty set and the narrow-pulse policy. -/
  | carrierBoundary (n : Fin 128)
  /-- CARRIER_CENTRE (R248). With DOUBLE_UPDATE, the carrier centre applies a pending duty set. -/
  | carrierCentre (n : Fin 128)
  /-- OC_TRIP (R259). An asserted overcurrent comparator trips the port and latches 0x50. -/
  | ocTrip (n : Fin 128) (x : Fin 3)
  /-- DELAY_LINE_CAL_DONE (R252). The 200 µs delay-line calibration ends, CAL_OK sets, and a held enable proceeds. -/
  | delayLineCalDone (n : Fin 128) (code : Byte)
  /-- FINE_FALLBACK (R253). A replica loses lock, so its group falls back to whole ticks with 0x51. -/
  | fineFallback (j : Fin 16) (code : Byte) (locked : Bool)
  /-- REPLICA_RELOCK (R253). A replica has held lock for 10 ms, and 0x51 clears. -/
  | replicaRelock (j : Fin 16) (code : Byte)
  /-- STO_ON (R264). An STO group line is asserted, and its ports' gates are forced inactive. -/
  | stoOn (j : Fin 16)
  /-- STO_OFF (R264). An STO group line is released. -/
  | stoOff (j : Fin 16)
  /-- ENCODER_EDGE (R274). An accepted quadrature, Hall or step edge updates the count. -/
  | encoderEdge (n : Fin 128) (f0 f1 f2 : Bool)
  /-- INDEX (R276). A gated Z edge captures the index position and time. -/
  | index (n : Fin 128)
  /-- TOOTH_EDGE (R280). A tooth edge counts and tracks the wheel reference. -/
  | toothEdge (n : Fin 128) (f1 : Bool)
  /-- SSI_READ_START (R284). The SSI clock falls at t_0 to start a word read. -/
  | ssiReadStart (n : Fin 128) (data : Bool)
  /-- SSI_WORD (R285). A received SSI word is checked and used, or discarded. -/
  | ssiWord (n : Fin 128) (word : BitVec 48) (started : Bool) (rtt : BitVec 16)
  /-- SSI_IDLE_TIMEOUT (R285). The data line has not returned high within SSI_TIMEOUT. -/
  | ssiIdleTimeout (n : Fin 128)
  /-- F2_EDGE (R291). An F2 switch level held for F2_DEB is accepted. -/
  | f2Edge (n : Fin 128) (level : Bool) (held : Nat)
  /-- ALIGN_END (R305). T_ALIGN elapses, and the sensorless drive enters RAMP. -/
  | alignEnd (n : Fin 128)
  /-- CATCH_TIMEOUT (R304). CATCH_TIME elapses without a valid catch. -/
  | catchTimeout (n : Fin 128)
  /-- COAST_END (R303). T_COAST elapses, and the drive retries. -/
  | coastEnd (n : Fin 128)
  /-- RETRY_CLEAR (R308). RUN has held for RETRY_CLR, and the failure count clears. -/
  | retryClear (n : Fin 128)
  /-- COMMAND_PIN_EDGE (R309). An edge on the command pin updates f_req. -/
  | commandPinEdge (n : Fin 128) (rising : Bool) (t : Nat)
  /-- CMD_LOST (R309). No command pin edge arrives for CMD_TMO, so x becomes 0. -/
  | cmdLost (n : Fin 128)
  /-- SNL_TEST_START (R311). A write of START runs the open-loop curve test. -/
  | snlTestStart (path : Path) (n : Fin 128)
  /-- CONVERSION_DONE (R320). A SAR conversion ends and writes its result. -/
  | conversionDone (c : Fin 16) (input : Fin 8) (decisions : BitVec 18) (slot : Option (Fin 16)) (ns : Nat) (shifted : Bool)
  /-- KNOT_LIST_START (R318). The knot lists of the named converters start at their common instant. -/
  | knotListStart (mask : BitVec 16) (delay : Nat)
  /-- ADC_SEQ_READ (R320). A read of ADC_SEQ snapshots the results for the path. -/
  | adcSeqRead (path : Path) (c : Fin 16)
  /-- START (R325). A write of START in ADC_CAL_CMD starts a recalibration, alone or covered. -/
  | adcStart (path : Path) (c : Fin 16)
  /-- CAL_ALL (R324). A write of CAL_ALL calibrates all 16 converters. -/
  | calAll (path : Path)
  /-- CAL_DONE (R322). A calibration ends, and its factors are committed or kept. -/
  | calDone (c : Fin 16) (ofs : BitVec 24) (gain : BitVec 24) (weights : List (BitVec 24))
  /-- REFERENCE_FAULT (R329). A reference stays outside ±2 % for 10 µs, and 0x82 latches. -/
  | referenceFault (refB : Bool)
  /-- STUCK (R333). A sigma-delta line shows no edge for STUCK × 64 periods, and 0x81 latches. -/
  | stuck (k : Fin 8) (ch : Fin 48)
  /-- SDF_SEQ_READ (R339). A read of SDF_SEQ snapshots the decimator results. -/
  | sdfSeqRead (path : Path) (k : Fin 8)
  /-- ALU_REGISTER (R347). A class 0 ALU instruction on registers. -/
  | aluRegister (k : Fin 8) (w : Word)
  /-- ALU_IMMEDIATE (R347). A class 1 ALU instruction with an immediate. -/
  | aluImmediate (k : Fin 8) (w : Word)
  /-- MAC (R344). The MAC instruction adds a product to an accumulator, with optional loads. -/
  | mac (k : Fin 8) (w : Word)
  /-- MSU (R344). The MSU instruction subtracts a product from an accumulator. -/
  | msu (k : Fin 8) (w : Word)
  /-- MPY (R344). The MPY instruction writes a product to an accumulator. -/
  | mpy (k : Fin 8) (w : Word)
  /-- MAC2 (R349). The MAC2 instruction runs two MACs with two pair loads. -/
  | mac2 (k : Fin 8) (w : Word)
  /-- LOCAL_LOAD (R345). A class 3 load from PM, DM0 or DM1 with pointer post-modify. -/
  | localLoad (k : Fin 8) (w : Word)
  /-- LOCAL_STORE (R345). A class 3 store to DM0 or DM1. -/
  | localStore (k : Fin 8) (w : Word)
  /-- EXTERNAL_LOAD (R357). A class 4 load through the fabric stalls the core until data returns. -/
  | externalLoad (k : Fin 8) (w : Word)
  /-- EXTERNAL_LOAD_RETURN (R357). External load data returns, or the access ends with XERR or denial. -/
  | externalLoadReturn (k : Fin 8) (timeout : Bool)
  /-- EXTERNAL_STORE (R357). A class 4 store is posted into the store buffer. -/
  | externalStore (k : Fin 8) (w : Word)
  /-- BRANCH (R347). A conditional branch instruction. -/
  | branch (k : Fin 8) (w : Word)
  /-- CALL (R347). A branch with CALL writes LK. -/
  | call (k : Fin 8) (w : Word)
  /-- RET (R347). A branch with RET returns through LK. -/
  | ret (k : Fin 8) (w : Word)
  /-- LOOP (R352). The LOOP instruction starts a zero-overhead hardware loop. -/
  | loopStart (k : Fin 8) (w : Word)
  /-- ITER (R351). The ITER instruction repeats the next instruction n times. -/
  | iterStart (k : Fin 8) (w : Word)
  /-- MINX (R350). The MINX instruction tracks a minimum and its index. -/
  | minx (k : Fin 8) (w : Word)
  /-- MAXX (R350). The MAXX instruction tracks a maximum and its index. -/
  | maxx (k : Fin 8) (w : Word)
  /-- CLRA (R347). The CLRA instruction clears an accumulator. -/
  | clra (k : Fin 8) (w : Word)
  /-- ADDA (R347). The ADDA instruction adds accumulators. -/
  | adda (k : Fin 8) (w : Word)
  /-- MVA (R344). The MVA instruction writes a rounded, shifted accumulator to a D register. -/
  | mva (k : Fin 8) (w : Word)
  /-- CWPK (R358). The CWPK instruction packs an accumulator into a coefficient word. -/
  | cwpk (k : Fin 8) (w : Word)
  /-- CWUP (R358). The CWUP instruction unpacks a coefficient word into an accumulator. -/
  | cwup (k : Fin 8) (w : Word)
  /-- NEXT (R355). The NEXT instruction waits for and takes a work item. -/
  | next (k : Fin 8) (w : Word)
  /-- DONE (R355). The DONE instruction ends the innermost item with status DONE. -/
  | done (k : Fin 8) (w : Word)
  /-- FAIL (R355). The FAIL instruction ends the innermost item FAILED with a detail. -/
  | fail (k : Fin 8) (w : Word)
  /-- YIELD (R355). The YIELD instruction returns the item for requeueing. -/
  | yield (k : Fin 8) (w : Word)
  /-- SYNC (R357). The SYNC instruction waits until posted stores are acknowledged. -/
  | sync (k : Fin 8) (w : Word)
  /-- HEVT (R359). The HEVT instruction raises an allowed host vector. -/
  | hevt (k : Fin 8) (w : Word)
  /-- RTI (R354). The RTI instruction returns from an interrupt. -/
  | rti (k : Fin 8) (w : Word)
  /-- MOVS (R343). The MOVS instruction moves to or from a system register. -/
  | movs (k : Fin 8) (w : Word)
  /-- CORE_INTERRUPT_ENTRY (R354). An enabled cause enters the core's handler at IRQ_ENTRY. -/
  | coreInterruptEntry (k : Fin 8)
  /-- ITEM_WATCHDOG (R362). An item runs for FCO_WDOG µs, and 0x93 latches. -/
  | itemWatchdog (k : Fin 8)
  /-- FCO_DOORBELL (R355). A write of FCO_DOORBELL sets the DOORBELL cause. -/
  | fcoDoorbell (path : Path) (k : Fin 8) (v : Word)
  /-- SUBMIT (R366). A write of DSP_SUB7 submits a work item. -/
  | submit (path : Path) (v : Word)
  /-- DISPATCHER_CYCLE (R372). The dispatcher runs admission, expiry, cancels, ends and core choice every 10 ns. -/
  | dispatcherCycle
  /-- DELAY_EXPIRY (R371). A delayed item reaches DUE and joins its flow queue. -/
  | delayExpiry (slot : Fin 16384)
  /-- PRE_LATE (R373). An offer is not taken within PRE_TMO and is withdrawn. -/
  | preLate (k : Fin 8)
  /-- AFFINITY_TIMEOUT (R374). AFF_TMO passes, and the item may go to another core. -/
  | affinityTimeout (slot : Fin 16384)
  /-- STARVED (R378). An item stays READY for STARVE_TMO and ends ABORTED 0x98. -/
  | starved (slot : Fin 16384)
  /-- DSP_CANCEL (R377). A write of an item ID cancels it if it has not started. -/
  | dspCancel (path : Path) (v : Word)
  /-- DSP_CANCEL_FLOW (R377). A write of a flow number cancels its items that have not started. -/
  | dspCancelFlow (path : Path) (v : Word)
  /-- DSP_FLOW_CFG (R369). A write sets a flow's EN, PRIO and CORE_MASK. -/
  | dspFlowCfg (path : Path) (v : Word)
  /-- DSP_CQ_HEAD (R376). A write returns consumed dispatcher completion records. -/
  | dspCqHead (path : Path) (v : Word)
  /-- DRAIN (R379). A write of a DRAIN bit stops new starts on a core. -/
  | drain (path : Path) (v : Word)
  /-- DRAINED (R379). The last item on a draining core ends. -/
  | drained (k : Fin 8)
  /-- DRAIN_TIMEOUT (R379). DRAIN_TMO passes, and the core's remaining items end ABORTED 0x99. -/
  | drainTimeout (k : Fin 8)
  /-- COIL_WRITE (R386). A staged record is written to the coil once it has room. -/
  | coilWrite
  /-- TRC_RP_WRITE (R386). A write of TRC_RP releases coil records. -/
  | trcRpWrite (path : Path) (v : Word)
  /-- TRC_COIL_SIZE_WRITE (R388). A write of TRC_COIL_SIZE applies at once or is held until the wrap. -/
  | trcCoilSizeWrite (path : Path) (v : Word)
  /-- TRC_FORCE (R391). A write of TRC_FORCE raises sequencer event 19. -/
  | trcForce (path : Path) (v : Word)
  /-- TRC_MARK (R385). A write of TRC_MARK forms a MARK record. -/
  | trcMark (path : Path) (v : Word)
  /-- SEQUENCER_TIMER (R391). A sequencer timer reaches TMR_LIM. -/
  | sequencerTimer (i : Fin 2)
  /-- HOLDOFF_END (R392). HOLDOFF passes after a trigger, and the sequencer restarts in state 0. -/
  | holdoffEnd
  /-- TRC_CAL_START (R394). A write of START to TRC_CAL_CMD starts skew calibration. -/
  | trcCalStart (path : Path) (v : Word)
  /-- TRC_CAL_DONE (R394). The calibration ends 1 ms after the knot and writes TRC_CAL_RES. -/
  | trcCalDone
  /-- FIELD_INPUT_EDGE (R398). A field input level held for DEB is accepted as an event. -/
  | fieldInputEdge (p : Fin 64) (level : Bool) (held : Nat)
  /-- TETHER_FRAME_TX (R403). A side starts a tether frame every 5.0 µs. -/
  | tetherFrameTx (uplink : Bool)
  /-- DOWNLINK_FRAME (R404). The field die receives a downlink frame and applies its levels, configuration and schedules. -/
  | downlinkFrame (f : DownFrame) (intact : Bool)
  /-- UPLINK_FRAME (R404). The main die receives an uplink frame with levels, events and belay status. -/
  | uplinkFrame (f : UpFrame) (intact : Bool) (arrival : Nat)
  /-- FLD_CONFIG_WRITE (R405). An FLD or BLY write is acknowledged once it holds a CFG slot. -/
  | fldConfigWrite (path : Path) (bly : Bool) (off : BitVec 12) (v : Word)
  /-- SCHEDULE_EXECUTE (R407). A schedule entry switches its output OUT_ADV before its time. -/
  | scheduleExecute (p : Fin 64)
  /-- SCHEDULE_PULSE_END (R407). A PULSE output reaches its off time. -/
  | schedulePulseEnd (p : Fin 64)
  /-- SHORT (R401). An output in current limit for 200 µs switches off, and SHORT latches. -/
  | short (p : Fin 64)
  /-- FLD_SHORT_CLEAR (R401). A W1C write of a SHORT bit restores the commanded level. -/
  | fldShortClear (path : Path) (hi : Bool) (v : Word)
  /-- GROUP_OVER (R402). A group above 4 A for 1 ms switches off and latches 0xB3. -/
  | groupOver (g : Fin 8)
  /-- FLD_GROUP_EN_WRITE (R409). A write enables or disables output groups. -/
  | fldGroupEnWrite (path : Path) (v : Word)
  /-- TETHER_SILENT (R408). No intact uplink frame arrives for SIL_M, and the main die applies R410. -/
  | tetherSilent
  /-- FIELD_SILENCE (R409). No intact downlink frame arrives for SIL_F, and outputs take their SIL actions. -/
  | fieldSilence
  /-- SIL2_EXPIRY (R409). A HOLD_THEN_OFF output switches off after SIL2 ms. -/
  | sil2Expiry (p : Fin 64)
  /-- VFIELD_SAMPLE (R411). VFIELD is measured every 10 µs against the supply thresholds. -/
  | vfieldSample (mV : BitVec 16)
  /-- FIELD_POWER_UP (R412). The field die powers up with pins as inputs and waits for RESYNC. -/
  | fieldPowerUp
  /-- BELAY_CYCLE (R416). A 500 µs belay cycle reads inputs, evaluates functions and applies outputs. -/
  | belayCycle (selfTestOk : Bool) (parCrcOk : Bool) (soutRead : Byte) (stoRead : BitVec 16)
  /-- BELAY_START_DONE (R417). START tests and the parameter load end, and the belay enters RUN; the levels of the reset inputs. -/
  | belayStartDone (testsOk parOk rstA rstB : Bool)
  /-- PROGRAM_FLOW_FAULT (R417). The monitor finds a bad signature or a cycle over 600 µs and asserts every STO line. -/
  | programFlowFault
  /-- MEMORY_MARCH (R417). The periodic march and program CRC tests run every 10 min. -/
  | memoryMarch (ok : Bool)
  /-- TEST_PULSE (R420). A TP output pulses low for 100 µs, and its channels are checked. -/
  | testPulse (x : Fin 4) (levels : BitVec 24)
  /-- SS1_ELAPSED (R424). SS1_T elapses, and the function enters SAFE. -/
  | ss1Elapsed (f : Fin 12)
  /-- RESET_PULSE (R426). A reset pulse on RST_A or RST_B takes effect at its falling edge. -/
  | resetPulse (b : Bool) (ms : Nat)
  /-- SOUT_TEST (R428). A SOUT is switched off for 300 µs and read back. -/
  | soutTest (k : Fin 8) (readLow : Bool)
  /-- BLY_COMMIT (R434). A write of a key requests a parameter commit, which is checked and accepted or refused. -/
  | blyCommit (path : Path) (key : Word)
  /-- COMMIT_WRITE_DONE (R434). The set is written to non-volatile memory, and PAR_VER increments. -/
  | commitWriteDone
  /-- RESTART (R418). A write of RESTART in HALTED runs START afresh. -/
  | restart (path : Path) (v : Word)
  /-- SCRUB_WORD (R447). The scrubber reads, corrects and writes back the next word. -/
  | scrubWord (upset : BitVec 144)
  /-- DRAM_REFRESH (R440). The controller refreshes every 7.8 µs, or 3.9 µs when hot. -/
  | dramRefresh
  /-- DRAM_TEMP_READ (R440). The device temperature is read every 32 ms. -/
  | dramTempRead (hot : Bool)
  /-- ZQ_CALIBRATION (R440). ZQ calibration runs every 128 ms. -/
  | zqCalibration
  /-- DRAM_TRAINED (R440). DRAM training and initialisation end, or 0xC0 latches. -/
  | dramTrained (failStep : Option (Fin 16))
  /-- DRAM_SELF_REFRESH (R480). In DOZE, DRAM enters self-refresh after 1 ms without access. -/
  | dramSelfRefresh
  /-- MEM_ELOG_POP (R448). A read of MEM_ELOG pops one error log entry. -/
  | memElogPop (path : Path)
  /-- MEM_INJ (R448). A write arms a one- or two-bit error in the next write to a region. -/
  | memInj (path : Path) (v : Word)
  /-- KEP_SAVE_BASE_WRITE (R449). A write moves the save area, or is dropped. -/
  | kepSaveBaseWrite (path : Path) (v : Word)
  /-- POWER_ON_RESET (R457). PORST_N rises, and the start-up sequence of Table 20-3 runs. -/
  | powerOnReset (env : BootEnv)
  /-- BOOT_DONE (R457). Start-up ends, and BOOT_DONE is raised. -/
  | bootDone
  /-- WARM_RESET_PIN (R454). WRST_N low for 1 µs resets every page and keeps DRAM. -/
  | warmResetPin (ns : Nat)
  /-- WARM_RESET (R454). A keyed write of WARM_RESET starts a warm reset. -/
  | warmReset (path : Path) (v : Word)
  /-- FLR (R454). A PCI Express function-level reset acts as a warm reset. -/
  | flr
  /-- RAIL (R453). A rail below its minimum for 2 µs latches 0xCB and is handled as a sag. -/
  | rail (r : Fin 6) (env : SaveEnv)
  /-- SAG (R459). A qualified supply sag starts the save sequence. -/
  | sag (env : SaveEnv)
  /-- SAVE_RESTART (R462). VSENSE stays above 1.050 V for 10 ms after a save, and the device restarts. -/
  | saveRestart (env : BootEnv)
  /-- NEW_CHALLENGE (R475). SEC_CMD NEW_CHALLENGE draws a 16-byte challenge. -/
  | newChallenge (path : Path) (rnd : BitVec 128)
  /-- CHALLENGE_LAPSE (R475). A challenge lapses 60 s after it is drawn. -/
  | challengeLapse
  /-- UNLOCK (R475). SEC_CMD UNLOCK checks a token and sets the debug level or the SCRAP authority. -/
  | unlock (path : Path) (hashOk sigOk : Bool)
  /-- UNLOCK_LOCKOUT_END (R475). The 1 s refusal after a refused token ends. -/
  | unlockLockoutEnd
  /-- LEVEL_LAPSED (R475). DBG_EXPIRY ends, and the level falls to OFF, releasing halts. -/
  | levelLapsed
  /-- PROVISION (R471). SEC_CMD PROVISION moves the lifecycle from BLANK to OPEN. -/
  | provision (path : Path) (key : BitVec 16)
  /-- SEAL_DEVICE (R471). SEC_CMD SEAL_DEVICE moves the lifecycle to SEALED. -/
  | sealDevice (path : Path) (key : BitVec 16)
  /-- SCRAP (R471). SEC_CMD SCRAP moves the lifecycle to SCRAPPED. -/
  | scrap (path : Path) (key : BitVec 16)
  /-- TRANSITION_DONE (R471). A lifecycle transition finishes programming its fuses. -/
  | transitionDone
  /-- PROGRAM_KEY (R472). SEC_CMD PROGRAM_KEY writes an image-key slot once. -/
  | programKey (path : Path)
  /-- REVOKE_KEY (R472). SEC_CMD REVOKE_KEY revokes an image-key slot. -/
  | revokeKey (path : Path)
  /-- STORE_PSK (R473). SEC_CMD STORE_PSK wraps and stores a YCP key slot. -/
  | storePsk (path : Path)
  /-- DBG_LEVEL_WRITE (R476). A write of DBG_LEVEL raises the level to a free one or lowers it. -/
  | dbgLevelWrite (path : Path) (v : Word)
  /-- UART_READ (R478). A debug UART READ request reads a register. -/
  | uartRead (r : UartReq)
  /-- UART_WRITE (R478). A debug UART WRITE request writes a register. -/
  | uartWrite (r : UartReq)
  /-- UART_GAP_TIMEOUT (R478). A byte gap of more than 10 ms discards a partial request. -/
  | uartGapTimeout
  /-- HALT (R479). DBG_HALT_CMD HALT halts the unit of the selected page. -/
  | halt (path : Path)
  /-- DEBUG_RESUME (R479). DBG_HALT_CMD RESUME releases a halt. -/
  | debugResume (path : Path)
  /-- DBG_FCO_STEP (R482). A write runs one instruction of a halted core. -/
  | dbgFcoStep (path : Path) (v : Word)
  /-- PWR_STATE_RUN (R480). A request returns the device to RUN at the next frame knot. -/
  | pwrStateRun (path : Path)
  /-- PWR_STATE_HOLD (R480). A request enters HOLD at the next frame knot, or is refused. -/
  | pwrStateHold (path : Path)
  /-- PWR_STATE_DOZE (R480). A request enters DOZE at the next frame knot, or is refused. -/
  | pwrStateDoze (path : Path)
  /-- DEV_SPLICE_LOG_POP (R491). A read of DEV_SPLICE_LOG pops one splice outcome. -/
  | devSpliceLogPop (path : Path)
  /-- PLL_UNLOCK (R469). A PLL loses lock while its output clock is still detected, latching 0xCC in the CLK page. -/
  | pllUnlock (x : Pll)
  /-- CLOCK_RETURN (R265). A lost clock runs again, after which the carrier can restart once the page is re-enabled. -/
  | clockReturn (d : Clk)
  /-- PCIE_LINK_UP (R45). The PCI Express link trains and comes up, setting DEV_SVC.PCIE. -/
  | pcieLinkUp
  /-- PCIE_LINK_DOWN (R12). The PCI Express link goes down while the HOST clock still runs. -/
  | pcieLinkDown
  /-- STEP_PULSE (R179). A carry out of bit 47 of the phase accumulator issues a STEP pulse and moves the commanded step count. -/
  | stepPulse (n : Fin 128)
  /-- CMP_PULSE_END (R175). A PULSE on the spare gate output ends after CMP_WIDTH. -/
  | cmpPulseEnd (n : Fin 128) (c : Fin 4)
  /-- LOAD_DONE (R171). CAM_LOAD finishes writing its nodes to DRAM and completes with their CRC. -/
  | loadDone (nodes : Option (List (BitVec 128)))
  /-- CAM_VERIFY_DONE (R171). CAM_VERIFY finishes reading its node range and completes, or fails with 0x09. -/
  | camVerifyDone
  /-- IMAGE_CHECKED (R361). The FCO_LOAD image has been read into the deck and its header, digest and signature checks end. -/
  | imageChecked (image : Option (List Byte)) (digestOk sigOk : Bool)
  /-- IMAGE_LOADED (R486). A core's PM, DM0 and DM1 are written, the core starts at RESET_ENTRY, and the next core of the mask begins its splice. -/
  | imageLoaded (k : Fin 8)
  /-- SAVE_TEST_DONE (R463). SAVE_TEST writes its TEST marker and completes with the image size and write time. -/
  | saveTestDone (env : SaveEnv) (ns : Nat)
  /-- COMPARATOR_RELEASE (R334). An overcurrent comparator evaluates inside its window and releases its OC flag. -/
  | comparatorRelease (n : Fin 128) (x : Fin 3)
  /-- TRIP_RELEASE (R235). A TRIPb input returns to its inactive level, which lifts the refusal of the 0x43 clear. -/
  | tripRelease (b : Fin 16)
  /-- REFERENCE_RECOVERED (R329). VREFA or VREFB comes back within ±2 % of nominal, REF_OK sets, and a clear of 0x82 becomes possible. -/
  | referenceRecovered (refB : Bool)
  /-- SAFETY_INPUT_EDGE (R419). A safety input's filtered level changes at the N-th consecutive 50 µs sample at its new level. -/
  | safetyInputEdge (i : Fin 24) (level : Bool)
  /-- PORST_N_LOW (R455). PORST_N is driven low and resets the main die at once, even during a save. -/
  | porstNLow
deriving DecidableEq, Repr

end Sys2Proof
end

