-- ==== Sys2Proof/Decode.lean ====
section
/-!
DEFINITION. The decoder of opcode-table words. The table of this block gives its rows no bits: commands are whole steps that the
outside world hands to the block, and no word spells one.
-/

namespace Sys2Proof

/-- The command that a word of the opcode table's bits spells: none, since no row of the table has bits. -/
def decodeTableWord (nbits w : Nat) : Option Instr :=
  match nbits, w with
  | _, _ => none

end Sys2Proof
end

