-- ==== Sys2Proof/Config.lean ====
section
/-!
DEFINITION. What the spec leaves open: constants without a body. Nothing can evaluate them and no proof can use a value of one,
so that a statement proved of the model holds whatever the silicon does there. Each constant names the rule that leaves it open
and its log entry.
-/

namespace Sys2Proof.Config

/-- A fresh free value for the n-th open value a run meets, as a bit pattern of 64 bits. Log entry 3. -/
opaque freeValue : Nat → BitVec 64

/-- The ALU result of a class 0 or class 1 instruction: the opcode field [27:22] is a 6-bit number to which the spec gives no
table of operations (R347, Table 14-3). Opcode, destination's old value and the two operands give the exact result. Log entry 10. -/
opaque aluExact : BitVec 6 → Word → Word → Word → Int

/-- The carry flag after an ALU instruction: the spec names SR[3] C and no rule that computes it (R343, R347). Log entry 10. -/
opaque aluCarry : BitVec 6 → Word → Word → Word → Bool

/-- Which of the 64 ALU opcodes are reserved, and so fault 0x90 (R347): the spec names none. Log entry 10. -/
opaque aluReserved : BitVec 6 → Bool

/-- V after an ALU instruction that does not saturate: R344 gives V under SAT = 1 alone. Log entry 10. -/
opaque aluOverflow : BitVec 6 → Word → Word → Word → Bool

/-- Where the offsets of branches and loops count from, in bytes from the instruction itself: R347 and Table 14-3 do not say.
Log entry 32. -/
opaque branchOrigin : BitVec 16

/-- The operand fields of the system instructions, which Table 14-3 leaves "per op": FAIL's register, HEVT's vector, and MOVS's
direction, data register and system register (in the order of Table 14-2), with the encodings that are reserved. Log entry 34. -/
opaque failReg : BitVec 24 → Fin 16
opaque hevtVector : BitVec 24 → Fin 64
opaque movsWrites : BitVec 24 → Bool
opaque movsData : BitVec 24 → Fin 16
opaque movsSystem : BitVec 24 → Fin 51
opaque movsReserved : BitVec 24 → Bool

/-- The 24-bit mantissa stored for a result that outgrows 24 bits although its stage's exponent has risen by 1 (R189): the spec states
what is stored at E = +31 alone. Applied to the exponent and the mantissa that does not fit. Log entry 171. -/
opaque overMant : Int → Int → BitVec 24

/-- x of a command pin, in 2^-16, for an input frequency in Hz while F_FULL is 0: R309 divides by F_FULL and states no value there. Log
entry 183. -/
opaque freqShareZero : Rat → Nat

/-- AES-128-GCM under key and nonce (R77, R78): the ciphertext of a body, and the tag over the additional data and the body as sent. The
functions are the standard's, outside the spec. Log entry 155. -/
opaque gcmCipher : BitVec 128 → List Byte → List Byte → List Byte
opaque gcmTag : BitVec 128 → List Byte → List Byte → List Byte → BitVec 128

/-- The type of service, the identification and the time to live of the IPv4 datagrams the device sends: R75 does not say. Log entry
156. -/
opaque ipTos : Byte
opaque ipIdent : BitVec 16
opaque ipTtl : Byte

/-- HMAC-SHA-256, its first 16 bytes, over key and message (R78). The function is the standard's, outside the spec. Log entry 12. -/
opaque hmac128 : BitVec 128 → List Byte → BitVec 128

/-- Which row of a DRAM word's address R444 hashes: the spec gives an 18-bit row address and not how a byte address gives it.
Log entry 13. -/
opaque dramRow : Nat → BitVec 18

/-- Where the dispatcher looks for a free slot for the n-th item it admits: R367 does not say which free slot an item takes. Log
entry 31. -/
opaque slotStart : Nat → Nat

/-- Design weights of the SAR decisions, held in fuses (R322). Log entry 14. -/
opaque designWeight : Fin 16 → Fin 18 → Nat

/-- Whether the SHA-256 of the PUBKEY of an unlock token is the fused hash of its ISSUER, and whether its ECDSA signature verifies
(R475): both functions are the standards', outside the spec. The fused owner hash is the first operand. The UNLOCK command carries the outcomes; a write of SEC_CMD by a path
without a command of its own takes them from here. Log entry 15. -/
opaque tokenHashOk : List Word → List Word → Bool
opaque tokenSigOk : List Word → Bool

/-- Whether the digest and the signature of a staged loop-stage program are right (R361, R485): SHA-256 and ECDSA P-256 are the
standards', outside the spec. Log entry 15. -/
opaque imageDigestOk : List Byte → Bool
opaque imageSigOk : List Byte → Bool

/-- Fused device identity and fused key hashes (R475, Table 21-7). Log entry 15. -/
opaque uid : DWord

end Sys2Proof.Config
end

