-- ==== Sys2Proof/Machine/Operands.lean ====
section
/-!
DEFINITION. Operand forms: bit fields, the fixed-point formats and their rounding (R5, R125), timestamps (R6), byte lists and
the three CRCs the spec names.
-/

namespace Sys2Proof.Machine

/-- The field [hi:lo] of a bit pattern, as a number. -/
def fld {n : Nat} (w : BitVec n) (hi lo : Nat) : Nat := (w.toNat >>> lo) % 2 ^ (hi + 1 - lo)

/-- One bit. -/
def bit {n : Nat} (w : BitVec n) (i : Nat) : Bool := w.getLsbD i

/-- A word with the field [hi:lo] set to `v`, every other bit kept. -/
def setFld (w : Word) (hi lo : Nat) (v : Nat) : Word :=
  let m : Word := BitVec.ofNat 32 ((2 ^ (hi + 1 - lo) - 1) <<< lo)
  (w &&& ~~~ m) ||| (BitVec.ofNat 32 (v <<< lo) &&& m)

/-- A flag as a number shifted to its bit. -/
def flag (b : Bool) (i : Nat) : Nat := if b then 2 ^ i else 0

/-- The signed value of an `n`-bit two's complement pattern given as a number. -/
def signed (n : Nat) (v : Nat) : Int :=
  let v := v % 2 ^ n
  if v < 2 ^ (n - 1) then (v : Int) else (v : Int) - (2 ^ n : Nat)

/-- A 64-bit quantity from its two halves (R3). -/
def joinHalves (hi lo : Word) : DWord := hi ++ lo

/-- Nearest integer, ties away from zero (R125). -/
def roundAway (x : Rat) : Int :=
  if 0 ≤ x then (2 * x + 1).floor / 2 else -((2 * (-x) + 1).floor / 2)

/-- A value rounded to `n` fractional bits. -/
def roundFrac (n : Nat) (x : Rat) : Rat := (roundAway (x * (2 ^ n : Nat)) : Rat) / (2 ^ n : Nat)

/-- The planner's internal values: 48 fractional bits (R125). -/
def q48 (x : Rat) : Rat := roundFrac 48 x

/-- A committed value: 24 fractional bits (R125). -/
def q24 (x : Rat) : Rat := roundFrac 24 x

/-- Q40.24 to a number of counts (R5). -/
def ofQ (d : DWord) : Rat := (d.toInt : Rat) / (2 ^ 24 : Nat)

/-- The number of 2^-24 counts of a value, saturated to the Q40.24 range (R5: other quantities). -/
def satQ (x : Rat) : DWord :=
  let i := roundAway (x * (2 ^ 24 : Nat))
  if i > 9223372036854775807 then BitVec.ofInt 64 9223372036854775807
  else if i < -9223372036854775808 then BitVec.ofInt 64 (-9223372036854775808)
  else BitVec.ofInt 64 i

/-- The same with wrapping modulo 2^40 counts (R5: positions). -/
def wrapQ (x : Rat) : DWord := BitVec.ofInt 64 (roundAway (x * (2 ^ 24 : Nat)))

/-- A position wrapped modulo 2^40 counts into the Q40.24 range (R5). -/
def wrapPos (x : Rat) : Rat := ofQ (wrapQ x)

/-- Whether a value lies in the Q40.24 range (R5). -/
def inQ (x : Rat) : Bool :=
  decide (-(549755813888 : Rat) ≤ x) && decide (x ≤ 549755813888 - 1 / 16777216)

/-- The same wrap without rounding: positions with more than 24 fractional bits (R5). -/
def modPos (x : Rat) : Rat := x - 1099511627776 * ((((x + 549755813888) / 1099511627776).floor : Int) : Rat)

/-- A time cut down to 48 fractional bits (R125, log entry 21). -/
def cut48 (x : Rat) : Rat := ((x * (2 ^ 48 : Nat)).floor : Rat) / (2 ^ 48 : Nat)

/-- A difference of positions, formed modulo 2^40 counts (R5). -/
def posDiff (x y : Rat) : Rat := wrapPos (x - y)

/-- A value held inside a range. -/
def clampRat (lo hi x : Rat) : Rat := if x < lo then lo else if hi < x then hi else x

def absRat (x : Rat) : Rat := if x < 0 then -x else x

def minRat (x y : Rat) : Rat := if y < x then y else x

def maxRat (x y : Rat) : Rat := if x < y then y else x

def absInt (x : Int) : Int := if x < 0 then -x else x

/-- The integer square root, one bit at a time from bit `b` down. -/
def isqrtFrom (n : Nat) : Nat → Nat → Nat
  | 0, r => r
  | b + 1, r => isqrtFrom n b (if (r + 2 ^ b) * (r + 2 ^ b) ≤ n then r + 2 ^ b else r)

/-- The square root of a non-negative value to 48 fractional bits, rounded down. -/
def sqrt48 (x : Rat) : Rat :=
  let n := (x * (2 ^ 96 : Nat)).floor.toNat
  (isqrtFrom n 100 0 : Rat) / (2 ^ 48 : Nat)

/-! ### Sine, cosine and the constants of the loop engines (R198, R200)

The spec defines the functions and gives no precision; each value is formed to 48 fractional bits. DESIGN CHOICE, log entry 11. -/

/-- 2π with 64 fractional bits. -/
def turn64 : Int := 115904311329233965478

/-- 2π. -/
def twoPi : Rat := (1768559438007110 : Rat) / (2 ^ 48 : Nat)

/-- √3. -/
def sqrt3 : Rat := sqrt48 3

/-- The terms that follow term `t` of the series of the sine or cosine, added up; in units of 2^-64. -/
def trigTerms (sq : Int) : Nat → Int → Int → Int → Int
  | 0, _, _, sum => sum
  | n + 1, k, t, sum =>
    let u := -(t * sq / 2 ^ 64 / ((k + 1) * (k + 2)))
    trigTerms sq n (k + 2) u (sum + u)

/-- Sine and cosine of an angle of less than a quarter turn, given in 2^-48 turn. -/
def trigQuarter (r : Nat) : Rat × Rat :=
  let th : Int := (r : Int) * turn64 / 2 ^ 48
  let sq := th * th / 2 ^ 64
  (q48 ((trigTerms sq 14 1 th th : Rat) / (2 ^ 64 : Nat)), q48 ((trigTerms sq 14 0 (2 ^ 64) (2 ^ 64) : Rat) / (2 ^ 64 : Nat)))

/-- Sine and cosine of an angle in turns. -/
def trigTurn (x : Rat) : Rat × Rat :=
  let a := (roundAway (x * (2 ^ 48 : Nat)) % 2 ^ 48).toNat
  let (s, co) := trigQuarter (a % 2 ^ 46)
  match a / 2 ^ 46 with
  | 0 => (s, co)
  | 1 => (co, -s)
  | 2 => (-s, -co)
  | _ => (-co, s)

def sinTurn (x : Rat) : Rat := (trigTurn x).1

def cosTurn (x : Rat) : Rat := (trigTurn x).2

/-- 2 to an integer power. -/
def pow2 (e : Int) : Rat := if 0 ≤ e then ((2 ^ e.toNat : Nat) : Rat) else 1 / ((2 ^ (-e).toNat : Nat) : Rat)

/-- The value of a coefficient word (R190). -/
def coefVal (w : Word) : Rat := (signed 24 (fld w 23 0) : Rat) * pow2 (signed 6 (fld w 29 24) - 23)

/-- The smallest exponent from `e` on, at most 31, with |c| < 2^e. -/
def coefExp (c : Rat) : Nat → Int → Int
  | 0, e => e
  | n + 1, e => if absRat c < pow2 e then e else coefExp c n (e + 1)

/-- A coefficient word from its mantissa and exponent. -/
def packCoef (m e : Int) : Word := BitVec.ofNat 32 ((m % 2 ^ 24).toNat + (e % 64).toNat * 2 ^ 24)

/-- The coefficient word of a value, and whether it saturated (R190, R358). -/
def toCoef (c : Rat) : Word × Bool :=
  if pow2 31 ≤ absRat c then (if c < 0 then 0x1F800001 else 0x1F7FFFFF, true)
  else
    let e := coefExp c 63 (-32)
    let m := roundAway (c * pow2 (23 - e))
    if m = 0 then (0, false)
    else if m = 2 ^ 23 then (if e < 31 then (packCoef (2 ^ 22) (e + 1), false) else (0x1F7FFFFF, true))
    else (packCoef m e, false)

/-- Nanoseconds since the epoch of a timestamp (R6), without its fraction. -/
def stampNs (t : Stamp) : Nat := t.s * 1000000000 + t.ns

/-- A timestamp of a time in nanoseconds. -/
def nsStamp (t : Nat) : Stamp := { s := t / 1000000000, ns := t % 1000000000 }

/-- Whether a nanoseconds field is valid (R7). -/
def nsValid (t : Stamp) : Bool := decide (t.ns ≤ 999999999)

/-- The bytes of a number, least significant first. -/
def toBytes : Nat → Nat → List Byte
  | 0, _ => []
  | k + 1, v => BitVec.ofNat 8 v :: toBytes k (v / 256)

/-- The number a list of bytes holds, least significant first. -/
def ofBytes : List Byte → Nat
  | [] => 0
  | b :: t => b.toNat + 256 * ofBytes t

/-- One bit of a reflected CRC. -/
def crcBitsLsb (poly : Nat) : Nat → Nat → Nat
  | 0, r => r
  | k + 1, r => crcBitsLsb poly k (if r % 2 = 1 then (r / 2) ^^^ poly else r / 2)

/-- CRC-32C (the standard's: polynomial 0x1EDC6F41 reflected, preset and final inversion; the spec names it and gives no
polynomial). PRESUMED, log entry 16. -/
def crc32c (bs : List Byte) : Word :=
  BitVec.ofNat 32 ((bs.foldl (fun r b => crcBitsLsb 0x82F63B78 8 (r ^^^ b.toNat)) 0xFFFFFFFF) ^^^ 0xFFFFFFFF)

/-- One bit of a CRC that takes the most significant bit first, of width `n`. -/
def crcBitsMsb (n poly : Nat) : Nat → Nat → Nat
  | 0, r => r
  | k + 1, r => crcBitsMsb n poly k (if r / 2 ^ (n - 1) % 2 = 1 then ((r * 2) ^^^ poly) % 2 ^ n else (r * 2) % 2 ^ n)

/-- A most-significant-first CRC of up to 8 bits over bytes. -/
def crcMsb (n poly init : Nat) (bs : List Byte) : Nat :=
  bs.foldl (fun r b =>
    (List.range 8).foldl (fun r i =>
      let inb := (b.toNat >>> (7 - i)) % 2
      crcBitsMsb n poly 1 (r ^^^ (inb * 2 ^ (n - 1)))) r) init

end Sys2Proof.Machine
end

