-- ==== Sys2Proof/Machine/RegMap.lean ====
section
/-!
DEFINITION. The block registers of every page, as the spec's register tables give them: offset, banks, access code, reset value,
defined bits, and the values each field may take (R2, R30 to R32, R40). A field whose range the tables state has every other
encoding reserved (log entry 20).
-/

namespace Sys2Proof.Machine

/-- The access codes of Table 0-1 (SC fields are noted at their registers). -/
inductive Acc where
  | ro | rw | wo | w1c | w1s | rws | rwl
deriving DecidableEq, Repr

/-- One register row: a bank of `n` registers (pairs, when `pair`) from `off` in steps of `stride`. `mask` and `hiMask` are the
defined bits; `legal` lists fields [hi:lo] with the values they may take. -/
structure Reg where
  name : String
  off : Nat
  stride : Nat := 0x1000
  n : Nat := 1
  acc : Acc
  reset : Word := 0
  mask : Word := 0xFFFFFFFF
  /-- Defined bits of a writable register that are read-only. -/
  ro : Word := 0
  pair : Bool := false
  hiMask : Word := 0xFFFFFFFF
  hiReset : Word := 0
  legal : List (Nat × Nat × List (Nat × Nat)) := []
deriving DecidableEq, Repr

/-- Whether an offset falls on a register of the row: `some false` on a register or a _LO half, `some true` on a _HI half. -/
def Reg.half (r : Reg) (off : Nat) : Option Bool :=
  if off < r.off then none
  else
    let d := off - r.off
    if d / r.stride < r.n then
      if d % r.stride = 0 then some false
      else if r.pair && d % r.stride == 4 then some true
      else none
    else none

/-- EVT registers (Table 2-12). -/
def rowsEvt : List Reg :=
  [
    { name := "EVT_PEND_LO", off := 0x040, acc := .ro },
    { name := "EVT_PEND_HI", off := 0x044, acc := .ro },
    { name := "EVT_MASK_LO", off := 0x048, acc := .rw, reset := 0xFFFFFFFF },
    { name := "EVT_MASK_HI", off := 0x04C, acc := .rw, reset := 0xFFFFFFFF },
    { name := "EVT_MODE", off := 0x050, acc := .rw, mask := 0x3, legal := [(1, 0, [(0, 2)])] },
    { name := "EVT_MOD", off := 0x100, stride := 0x4, n := 64, acc := .rw, mask := 0xFFFFFF },
    { name := "MSI-X table", off := 0x400, stride := 0x4, n := 256, acc := .rw } ]

/-- DEV registers (Tables 2-14 and 22-2). -/
def rowsDev : List Reg :=
  [
    { name := "DEV_ID", off := 0x040, acc := .ro, reset := 0x4E510128 },
    { name := "DEV_REV", off := 0x044, acc := .ro, reset := 0x13141, mask := 0xFFFFF },
    { name := "DEV_SVC", off := 0x048, acc := .ro, reset := 0x1, mask := 0x73 },
    { name := "DEV_MOTION", off := 0x04C, stride := 0x4, n := 4, acc := .ro },
    { name := "DEV_LAST_SAVE", off := 0x05C, acc := .ro, mask := 0x7 },
    { name := "DEV_FAULT_SEQ", off := 0x060, acc := .ro, mask := 0xFFFF },
    { name := "DEV_UPTIME", off := 0x064, acc := .ro },
    { name := "DEV_SPLICE_LOG", off := 0x200, acc := .ro, reset := 0x80000000, mask := 0x8FFFF000 },
    { name := "DEV_SPLICE_CNT", off := 0x204, acc := .ro },
    { name := "DEV_SPLICE_SRC", off := 0x208, acc := .rw, mask := 0x3FFFF0 },
    { name := "DEV_SPLICE_LEN", off := 0x20C, acc := .rw, mask := 0x1FFFF } ]

/-- CMD registers (Tables 3-4, 3-5). -/
def rowsCmd : List Reg :=
  [
    { name := "SQ_BASE", off := 0x040, stride := 0x20, n := 4, acc := .rw, mask := 0xFFFFFFC0, pair := true },
    { name := "SQ_SIZE", off := 0x048, stride := 0x20, n := 4, acc := .rw, reset := 0x10, mask := 0x1FFF, legal := [(12, 0, [(16, 4096)])] },
    { name := "SQ_CTL", off := 0x04C, stride := 0x20, n := 4, acc := .rw, mask := 0x3 },
    { name := "SQ_TAIL_DB", off := 0x050, stride := 0x20, n := 4, acc := .rw, mask := 0xFFF },
    { name := "SQ_HEAD", off := 0x054, stride := 0x20, n := 4, acc := .ro, mask := 0xFFF },
    { name := "SQ_STA", off := 0x058, stride := 0x20, n := 4, acc := .ro, mask := 0x1FF07 },
    { name := "SQ_ERR", off := 0x05C, stride := 0x20, n := 4, acc := .ro, mask := 0xFFF0003 },
    { name := "CQ_BASE", off := 0x0C0, acc := .rw, mask := 0xFFFFFFF0, pair := true },
    { name := "CQ_SIZE", off := 0x0C8, acc := .rw, reset := 0x10, mask := 0x1FFF, legal := [(12, 0, [(16, 4096)])] },
    { name := "CQ_CTL", off := 0x0CC, acc := .rw, mask := 0x1 },
    { name := "CQ_HEAD_DB", off := 0x0D0, acc := .rw, mask := 0xFFF },
    { name := "CQ_TAIL", off := 0x0D4, acc := .ro, reset := 0x10000, mask := 0x10FFF },
    { name := "CQ_STA", off := 0x0D8, acc := .ro, mask := 0x1FF000C },
    { name := "TAG_BUSY", off := 0x100, stride := 0x4, n := 8, acc := .ro },
    { name := "B2_SEG", off := 0x120, stride := 0x4, n := 4, acc := .rw, mask := 0x8000001F } ]

/-- NET registers (Tables 4-9, 4-10). -/
def rowsNet : List Reg :=
  [
    { name := "NET_CTL", off := 0x040, acc := .rw, reset := 0x102, mask := 0x107 },
    { name := "NET_STA", off := 0x044, acc := .ro, mask := 0xF },
    { name := "NET_MAC", off := 0x048, acc := .rw, pair := true, hiMask := 0xFFFF },
    { name := "NET_TX_LAT", off := 0x050, acc := .rw, mask := 0xFFFFF },
    { name := "NET_RX_LAT", off := 0x054, acc := .rw, mask := 0xFFFFF },
    { name := "NET_PCP_MAP", off := 0x058, acc := .rw, reset := 0xFAC688, mask := 0xFFFFFF },
    { name := "NET_MDIO", off := 0x05C, acc := .rw, mask := 0xC3FFFFFF },
    { name := "NET_RX_FRAMES, NET_RX_FCS_ERR, NET_TX_FRAMES, NET_DROPS", off := 0x060, stride := 0x4, n := 4, acc := .ro },
    { name := "GCL_CTL", off := 0x100, acc := .rw, mask := 0x1 },
    { name := "GCL_LEN", off := 0x104, acc := .rws, reset := 0x1, mask := 0x7F },
    { name := "GCL_CYCLE", off := 0x108, acc := .rws, reset := 0xF424, mask := 0x3FFFFFFF },
    { name := "GCL_BASE_NS", off := 0x10C, acc := .rws, mask := 0x3FFFFFFF },
    { name := "GCL_BASE_S", off := 0x110, acc := .rws, pair := true, hiMask := 0xFFFF },
    { name := "GCL_GATE", off := 0x200, stride := 0x8, n := 64, acc := .rws, reset := 0xFF, mask := 0xFF },
    { name := "GCL_TIME", off := 0x204, stride := 0x8, n := 64, acc := .rws, mask := 0xFFFFFF } ]

/-- SWT registers (Table 4-11). -/
def rowsSwt : List Reg :=
  [
    { name := "SWT_CTL", off := 0x040, acc := .rw, reset := 0x3, mask := 0x3 },
    { name := "SWT_HITCH_ETYPE", off := 0x044, acc := .rw, reset := 0x88B5, mask := 0xFFFF },
    { name := "SWT_AGE", off := 0x048, acc := .rw, reset := 0x12C, mask := 0xFFFF },
    { name := "SWT_PORT_MASK", off := 0x050, stride := 0x4, n := 5, acc := .rw, mask := 0x1F },
    { name := "SWT_CT_FRAMES", off := 0x070, acc := .ro },
    { name := "SWT_CT_STOMPED", off := 0x074, acc := .ro },
    { name := "SWT_TABLE_FULL", off := 0x078, acc := .ro } ]

/-- YCP registers (Table 4-12). -/
def rowsYcp : List Reg :=
  [
    { name := "YCP_CTL", off := 0x040, acc := .rw, reset := 0x10, mask := 0x11 },
    { name := "YCP_UDP_PORT", off := 0x044, acc := .rw, reset := 0xC8BE, mask := 0xFFFF },
    { name := "YCP_IP", off := 0x048, acc := .rw },
    { name := "YCP_NETMASK", off := 0x04C, acc := .rw },
    { name := "YCP_GATEWAY", off := 0x050, acc := .rw },
    { name := "YCP_VLAN", off := 0x054, acc := .rw, mask := 0xFFFF },
    { name := "YCP_ORPHAN", off := 0x058, acc := .ro, reset := 0x80000000, mask := 0x8000FFFF },
    { name := "YCP_EVM", off := 0x05C, acc := .rw, mask := 0x103 },
    { name := "YCP_EVM_PORT", off := 0x060, acc := .rw, mask := 0xFFFF },
    { name := "NBR_IP", off := 0x100, stride := 0x10, n := 16, acc := .rw },
    { name := "NBR_MAC", off := 0x104, stride := 0x10, n := 16, acc := .rw, pair := true, hiMask := 0x8000FFFF },
    { name := "SES_STA", off := 0x200, stride := 0x20, n := 4, acc := .ro, mask := 0x33 },
    { name := "SES_PEER_IP", off := 0x204, stride := 0x20, n := 4, acc := .ro },
    { name := "SES_PEER_PORT", off := 0x208, stride := 0x20, n := 4, acc := .ro, mask := 0xFFFF },
    { name := "SES_TIMEOUT", off := 0x20C, stride := 0x20, n := 4, acc := .rw, reset := 0x3E8, mask := 0xFFFF, legal := [(15, 0, [(10, 60000)])] },
    { name := "SES_EXP", off := 0x210, stride := 0x20, n := 4, acc := .ro },
    { name := "SES_ERR", off := 0x214, stride := 0x20, n := 4, acc := .ro },
    { name := "SES_CLOSE", off := 0x218, stride := 0x20, n := 4, acc := .wo, mask := 0x1 },
    { name := "SES_ALIVE", off := 0x21C, stride := 0x20, n := 4, acc := .ro } ]

/-- HFR registers (Table 4-13). -/
def rowsHfr : List Reg :=
  [
    { name := "HFR_CTL", off := 0x040, acc := .rw, reset := 0x60000, mask := 0x70FF1 },
    { name := "HFR_PUB_ID", off := 0x044, acc := .rw, mask := 0xFFFF },
    { name := "HFR_EPOCH", off := 0x048, acc := .ro },
    { name := "HFR_DEST", off := 0x04C, acc := .rw, reset := 0x1, pair := true, hiMask := 0xFFFF, hiReset := 0x300 },
    { name := "HFR_PUB_SEQ", off := 0x054, acc := .ro },
    { name := "HFR_PUB_AXIS", off := 0x080, stride := 0x4, n := 32, acc := .rw, mask := 0x800000FF, legal := [(7, 0, [(0, 159)])] },
    { name := "SUB_CTL", off := 0x100, stride := 0x10, n := 16, acc := .rw, reset := 0x120000, mask := 0x801FFFFF, legal := [(19, 16, [(1, 15)])] },
    { name := "SUB_ADOPT", off := 0x104, stride := 0x10, n := 16, acc := .rw, reset := 0x1000 },
    { name := "SUB_STA", off := 0x108, stride := 0x10, n := 16, acc := .ro, mask := 0xFFF3 },
    { name := "SUB_CNT", off := 0x10C, stride := 0x10, n := 16, acc := .ro } ]

/-- TIM registers (Table 5-4). -/
def rowsTim : List Reg :=
  [
    { name := "TIM_CTL", off := 0x040, acc := .rw, reset := 0x190300, mask := 0x3F3331, legal := [(21, 16, [(10, 50)])] },
    { name := "TIM_STA", off := 0x044, acc := .ro, mask := 0x7F0033 },
    { name := "TIM_NOW_S", off := 0x048, acc := .ro, pair := true, hiMask := 0xFFFF },
    { name := "TIM_NOW_NS", off := 0x050, acc := .ro, mask := 0x3FFFFFFF },
    { name := "TIM_NOW_FRAC", off := 0x054, acc := .ro, mask := 0xFFFF },
    { name := "TIM_RATE", off := 0x058, acc := .ro },
    { name := "TIM_INTEG", off := 0x05C, acc := .rw },
    { name := "TIM_KP", off := 0x060, acc := .rw, reset := 0xB333 },
    { name := "TIM_KI", off := 0x064, acc := .rw, reset := 0x4CCD },
    { name := "TIM_OFS", off := 0x068, acc := .ro },
    { name := "TIM_STEP_LIMIT", off := 0x06C, acc := .rw, reset := 0xF4240 },
    { name := "TIM_LOCK", off := 0x070, acc := .rw, reset := 0x40064, mask := 0xFFFFF, legal := [(19, 16, [(1, 15)])] },
    { name := "TIM_HOLD", off := 0x074, acc := .rw, reset := 0xBB8, mask := 0xFFFF, legal := [(15, 0, [(10, 65535)])] },
    { name := "TIM_HOST_OFS", off := 0x078, acc := .wo },
    { name := "TIM_OUTLIER", off := 0x07C, acc := .rw, reset := 0x403E8, mask := 0xFFFFF, legal := [(19, 16, [(0, 8)])] },
    { name := "TIM_PPS_DELAY", off := 0x080, acc := .rw },
    { name := "TIM_SET_S", off := 0x084, acc := .wo, pair := true, hiMask := 0xFFFF },
    { name := "TIM_SET_NS", off := 0x08C, acc := .wo, mask := 0x3FFFFFFF },
    { name := "CAP_CTL", off := 0x0A0, stride := 0x4, n := 8, acc := .rw, mask := 0xF3 },
    { name := "CAP_NS", off := 0x0C0, stride := 0x10, n := 8, acc := .ro, reset := 0x80000000 },
    { name := "CAP_S", off := 0x0C4, stride := 0x10, n := 8, acc := .ro, pair := true, hiMask := 0xFFFF },
    { name := "CAP_STA", off := 0x0CC, stride := 0x10, n := 8, acc := .ro, mask := 0xFF1F },
    { name := "PTP_CTL", off := 0x200, acc := .rw, mask := 0xFF3F, legal := [(2, 1, [(0, 2)])] },
    { name := "PTP_CLKID", off := 0x204, acc := .rw, pair := true },
    { name := "PTP_PARENT", off := 0x20C, acc := .rw, pair := true },
    { name := "PTP_PARENT_PORT", off := 0x214, acc := .rw, mask := 0xFFFF },
    { name := "PTP_PORT", off := 0x220, stride := 0x4, n := 4, acc := .rw, reset := 0xDD00, mask := 0xFFF07, legal := [(2, 0, [(0, 4)]), (11, 8, [(0, 1), (9, 15)]), (15, 12, [(0, 1), (9, 15)]), (19, 16, [(0, 1), (9, 15)])] },
    { name := "PTP_MPD", off := 0x230, stride := 0x4, n := 4, acc := .ro },
    { name := "PTP_CNT", off := 0x240, stride := 0x4, n := 4, acc := .ro },
    { name := "PTP_ANN_TX", off := 0x300, stride := 0x4, n := 16, acc := .rw } ] ++
  [
    { name := "PTP_ANN_RX", off := 0x340, acc := .ro, reset := 0x80000000, mask := 0x8000071F },
    { name := "PTP_ANN_MSG", off := 0x380, stride := 0x4, n := 16, acc := .ro } ]

/-- KNT registers (Table 5-5). -/
def rowsKnt : List Reg :=
  [
    { name := "KNT_FRAME", off := 0x040, acc := .rws, reset := 0x300, mask := 0xF03, legal := [(1, 0, [(0, 2)])] },
    { name := "KNT_PHASE", off := 0x044, acc := .rws, mask := 0x3FFFFFFF },
    { name := "KNT_FIRED", off := 0x048, acc := .w1c },
    { name := "KN_CTL", off := 0x100, stride := 0x20, n := 32, acc := .rws, mask := 0xFFFF7F03, legal := [(1, 0, [(0, 2)])] },
    { name := "KN_T_S", off := 0x104, stride := 0x20, n := 32, acc := .rws, pair := true, hiMask := 0xFFFF },
    { name := "KN_T_NS", off := 0x10C, stride := 0x20, n := 32, acc := .rws, mask := 0x3FFFFFFF },
    { name := "KN_PERIOD", off := 0x110, stride := 0x20, n := 32, acc := .rws, reset := 0xF424, legal := [(31, 0, [(100, 4294967295)])] },
    { name := "KN_PULSE", off := 0x114, stride := 0x20, n := 32, acc := .rws, reset := 0x19, legal := [(15, 0, [(1, 65535)])] },
    { name := "KN_LAST_NS", off := 0x118, stride := 0x20, n := 32, acc := .ro, mask := 0x3FFFFFFF },
    { name := "KN_STA", off := 0x11C, stride := 0x20, n := 32, acc := .ro, mask := 0x7FFFF } ]

/-- AXM registers (Tables 6-7, 7-6). -/
def rowsAxm : List Reg :=
  [
    { name := "AXM_CTL", off := 0x040, acc := .rws, mask := 0x7 },
    { name := "AXM_STA", off := 0x044, acc := .ro, mask := 0x71FFF },
    { name := "AXM_POS", off := 0x048, acc := .ro, pair := true },
    { name := "AXM_VEL", off := 0x050, acc := .ro, pair := true },
    { name := "AXM_ACC", off := 0x058, acc := .ro, pair := true },
    { name := "AXM_TARGET", off := 0x060, acc := .ro, pair := true },
    { name := "AXM_SLACK", off := 0x068, acc := .ro, pair := true },
    { name := "AXM_VMAX", off := 0x070, acc := .rws, pair := true },
    { name := "AXM_AMAX", off := 0x078, acc := .rws, pair := true },
    { name := "AXM_JMAX", off := 0x080, acc := .rws, pair := true },
    { name := "AXM_STOP_DEC", off := 0x088, acc := .rws, pair := true },
    { name := "AXM_QUICK_DEC", off := 0x090, acc := .rws, pair := true },
    { name := "AXM_QUICK_JERK", off := 0x098, acc := .rws, pair := true },
    { name := "AXM_LIM_DEC", off := 0x0A0, acc := .rws, pair := true },
    { name := "AXM_SWL_POS", off := 0x0A8, acc := .rws, pair := true },
    { name := "AXM_SWL_NEG", off := 0x0B0, acc := .rws, pair := true },
    { name := "AXM_INPUTS", off := 0x0B8, acc := .rws, mask := 0xFFFFFF, legal := [(6, 0, [(0, 65)]), (14, 8, [(0, 65)]), (22, 16, [(0, 65)])] },
    { name := "AXM_HOME_DWELL", off := 0x0BC, acc := .rws, reset := 0x32, mask := 0xFFFF },
    { name := "AXM_HOME_MAX", off := 0x0C0, acc := .rws, pair := true },
    { name := "AXM_HOME_BACKOFF", off := 0x0C8, acc := .rws, pair := true },
    { name := "AXM_INPOS", off := 0x0D0, acc := .rws },
    { name := "AXM_HOME_SEQ", off := 0x0D4, acc := .ro, mask := 0x1FFFF },
    { name := "AXM_HOME_LAT", off := 0x0D8, acc := .ro, pair := true },
    { name := "AXM_OVERSHOOT", off := 0x0E0, acc := .ro, pair := true },
    { name := "AXM_LIM_OVER", off := 0x0E8, acc := .ro, pair := true },
    { name := "AXM_STEP", off := 0x0F0, acc := .rws, reset := 0x32000A, legal := [(15, 0, [(10, 65535)])] },
    { name := "AXM_STEP_STA", off := 0x0F4, acc := .ro, mask := 0x1FFFF },
    { name := "LAT_CTL", off := 0x100, stride := 0x40, n := 2, acc := .rws, mask := 0x737F, legal := [(6, 0, [(0, 74)])] },
    { name := "LAT_SEQ", off := 0x104, stride := 0x40, n := 2, acc := .ro, mask := 0xFF07FFFF },
    { name := "LAT_POS", off := 0x108, stride := 0x40, n := 2, acc := .ro, pair := true } ] ++
  [
    { name := "LAT_NS", off := 0x110, stride := 0x40, n := 2, acc := .ro, mask := 0x3FFFFFFF },
    { name := "LAT_S", off := 0x114, stride := 0x40, n := 2, acc := .ro },
    { name := "LATF_POP", off := 0x118, stride := 0x40, n := 2, acc := .ro, reset := 0x80000000, mask := 0x8003FFFF },
    { name := "LATF_NS", off := 0x11C, stride := 0x40, n := 2, acc := .ro },
    { name := "LATF_POS", off := 0x120, stride := 0x40, n := 2, acc := .ro, pair := true },
    { name := "LATF_S", off := 0x128, stride := 0x40, n := 2, acc := .ro },
    { name := "LAT_ARM", off := 0x12C, stride := 0x40, n := 2, acc := .wo, mask := 0x1 },
    { name := "LAT_WIN_LO", off := 0x130, stride := 0x40, n := 2, acc := .rws, pair := true },
    { name := "LAT_WIN_HI", off := 0x138, stride := 0x40, n := 2, acc := .rws, pair := true },
    { name := "CMP_CTL", off := 0x200, stride := 0x40, n := 4, acc := .rws, mask := 0x77FFF, legal := [(1, 0, [(0, 2)]), (3, 2, [(0, 2)]), (14, 8, [(0, 65)])] },
    { name := "CMP_STA", off := 0x204, stride := 0x40, n := 4, acc := .ro, mask := 0x3FFFFF },
    { name := "CMP_POS", off := 0x208, stride := 0x40, n := 4, acc := .rws, pair := true },
    { name := "CMP_STEP", off := 0x210, stride := 0x40, n := 4, acc := .rws, pair := true },
    { name := "CMP_WIDTH", off := 0x218, stride := 0x40, n := 4, acc := .rws, reset := 0x64, mask := 0xFFFFF, legal := [(19, 0, [(1, 1000000)])] },
    { name := "CMP_T_NS", off := 0x21C, stride := 0x40, n := 4, acc := .ro, mask := 0x3FFFFFFF },
    { name := "CMP_T_S", off := 0x220, stride := 0x40, n := 4, acc := .ro } ]

/-- GRP registers (Table 7-7). -/
def rowsGrp : List Reg :=
  [
    { name := "GRP_CTL", off := 0x040, acc := .rws, mask := 0x1 },
    { name := "GRP_STA", off := 0x044, acc := .ro, mask := 0xFF1F07 },
    { name := "GRP_S", off := 0x048, acc := .ro, pair := true },
    { name := "GRP_L", off := 0x050, acc := .ro, pair := true },
    { name := "GRP_SLACK", off := 0x058, acc := .ro, pair := true },
    { name := "GRP_VMAX", off := 0x060, acc := .rws, pair := true },
    { name := "GRP_AMAX", off := 0x068, acc := .rws, pair := true },
    { name := "GRP_JMAX", off := 0x070, acc := .rws, pair := true },
    { name := "GRP_AXIS", off := 0x080, stride := 0x4, n := 16, acc := .rws, mask := 0x800000FF, legal := [(7, 0, [(0, 159)])] } ]

/-- HIT registers (Table 7-8). -/
def rowsHit : List Reg :=
  [
    { name := "HIT_CNT", off := 0x040, acc := .ro, mask := 0xF01FF },
    { name := "HIT_SEL", off := 0x044, acc := .rw, mask := 0xFF },
    { name := "HIT_REC", off := 0x060, stride := 0x4, n := 8, acc := .ro },
    { name := "HIT_STA", off := 0x400, stride := 0x4, n := 256, acc := .ro, mask := 0xFFFF3F } ]

/-- CAM registers (Table 7-9). -/
def rowsCam : List Reg :=
  [
    { name := "CAM_BASE", off := 0x040, acc := .rw, mask := 0xF },
    { name := "CAM_STA", off := 0x044, acc := .ro, mask := 0x3 },
    { name := "CAM_CRC", off := 0x048, acc := .ro },
    { name := "CAM_BAD", off := 0x04C, acc := .ro },
    { name := "CAM_BAD_NODE", off := 0x050, acc := .ro } ]

/-- LPA registers (Tables 8-8, 8-9, 9-2). -/
def rowsLpa : List Reg :=
  [
    { name := "LPA_MODE", off := 0x040, acc := .rws, reset := 0x1000, mask := 0x31F37, legal := [(2, 0, [(0, 3)]), (5, 4, [(0, 2)])] },
    { name := "LPA_STA", off := 0x044, acc := .ro, mask := 0x3F37 },
    { name := "LPA_EXP", off := 0x048, acc := .ro, mask := 0x3F3F3F3F },
    { name := "LPA_OBS_SEQ", off := 0x04C, acc := .ro, mask := 0x1FFFF },
    { name := "KPP", off := 0x050, acc := .rw, mask := 0x3FFFFFFF },
    { name := "KVFF", off := 0x054, acc := .rw, mask := 0x3FFFFFFF },
    { name := "VLIM", off := 0x058, acc := .rw, mask := 0x3FFFFFFF },
    { name := "KVP", off := 0x05C, acc := .rw, mask := 0x3FFFFFFF },
    { name := "KVI_D", off := 0x060, acc := .rw, mask := 0x3FFFFFFF },
    { name := "KAFF", off := 0x064, acc := .rw, mask := 0x3FFFFFFF },
    { name := "IVLIM", off := 0x068, acc := .rw, mask := 0x3FFFFFFF },
    { name := "ILIM", off := 0x06C, acc := .rw, mask := 0x3FFFFFFF },
    { name := "SLEW_I", off := 0x070, acc := .rw, reset := 0x1400000, mask := 0x3FFFFFFF },
    { name := "VEL_LPF", off := 0x074, acc := .rw, reset := 0x1400000, mask := 0x3FFFFFFF },
    { name := "ID_REF", off := 0x078, acc := .rw, mask := 0x3FFFFFFF },
    { name := "KCP", off := 0x080, acc := .rw, mask := 0x3FFFFFFF },
    { name := "KCI_D", off := 0x084, acc := .rw, mask := 0x3FFFFFFF },
    { name := "L_D", off := 0x088, acc := .rw, mask := 0x3FFFFFFF },
    { name := "L_Q", off := 0x08C, acc := .rw, mask := 0x3FFFFFFF },
    { name := "PSI_F", off := 0x090, acc := .rw, mask := 0x3FFFFFFF },
    { name := "VMOD", off := 0x094, acc := .rw, reset := 0x1400000, mask := 0x3FFFFFFF },
    { name := "SLEW_V", off := 0x098, acc := .rw, reset := 0x1400000, mask := 0x3FFFFFFF },
    { name := "ISCALE", off := 0x09C, acc := .rw, mask := 0x3FFFFFFF },
    { name := "LPA_MOTOR", off := 0x0A0, acc := .rws, reset := 0x1, mask := 0xFFFF00FF, legal := [(7, 0, [(1, 255)])] },
    { name := "LPA_CPR", off := 0x0A4, acc := .rws },
    { name := "BQ_B0", off := 0x0C0, stride := 0x20, n := 2, acc := .rw, reset := 0x1400000, mask := 0x3FFFFFFF },
    { name := "BQ_B1", off := 0x0C4, stride := 0x20, n := 2, acc := .rw, mask := 0x3FFFFFFF },
    { name := "BQ_B2", off := 0x0C8, stride := 0x20, n := 2, acc := .rw, mask := 0x3FFFFFFF },
    { name := "BQ_A1", off := 0x0CC, stride := 0x20, n := 2, acc := .rw, mask := 0x3FFFFFFF },
    { name := "BQ_A2", off := 0x0D0, stride := 0x20, n := 2, acc := .rw, mask := 0x3FFFFFFF } ] ++
  [
    { name := "BQ_CTL", off := 0x0D4, stride := 0x20, n := 2, acc := .rw, reset := 0x1, mask := 0x1 },
    { name := "MDL_KT_J", off := 0x100, acc := .rw, mask := 0x3FFFFFFF },
    { name := "MDL_B_J", off := 0x104, acc := .rw, mask := 0x3FFFFFFF },
    { name := "MDL_L1", off := 0x108, acc := .rw, mask := 0x3FFFFFFF },
    { name := "MDL_L2", off := 0x10C, acc := .rw, mask := 0x3FFFFFFF },
    { name := "MDL_L3", off := 0x110, acc := .rw, mask := 0x3FFFFFFF },
    { name := "MDL_R_L", off := 0x114, acc := .rw, mask := 0x3FFFFFFF },
    { name := "MDL_T_L", off := 0x118, acc := .rw, mask := 0x3FFFFFFF },
    { name := "MAN_IQ", off := 0x140, acc := .rw, mask := 0x3FFFFFFF },
    { name := "MAN_ID", off := 0x144, acc := .rw, mask := 0x3FFFFFFF },
    { name := "MAN_VQ", off := 0x148, acc := .rw, mask := 0x3FFFFFFF },
    { name := "MAN_VD", off := 0x14C, acc := .rw, mask := 0x3FFFFFFF },
    { name := "HOLD_IQ", off := 0x150, acc := .rw, mask := 0x3FFFFFFF },
    { name := "OBS_IQ_REF, OBS_IQ, OBS_ID, OBS_VQ, OBS_VD, OBS_VEL, OBS_VEL_EST, OBS_LOAD_EST, OBS_INTEG_V, OBS_RESID, OBS_VCMD", off := 0x180, stride := 0x4, n := 11, acc := .ro, mask := 0x3FFFFFFF },
    { name := "SUP_CTL", off := 0x200, acc := .rw, reset := 0x55550, mask := 0x7777F, legal := [(6, 4, [(0, 6)]), (10, 8, [(0, 6)]), (14, 12, [(4, 6)]), (18, 16, [(0, 6)])] },
    { name := "SUP_STA", off := 0x204, acc := .ro, mask := 0xFF1F },
    { name := "SUP_FE_LIMIT", off := 0x208, acc := .rw },
    { name := "SUP_FE_WARN", off := 0x20C, acc := .rw },
    { name := "SUP_FE_COUNT", off := 0x210, acc := .rw, reset := 0x2, mask := 0xFF, legal := [(7, 0, [(1, 255)])] },
    { name := "SUP_PR_LIMIT", off := 0x214, acc := .rw },
    { name := "SUP_CR_LIMIT", off := 0x218, acc := .rw, mask := 0x3FFFFFFF },
    { name := "SUP_PLAUS_CNT", off := 0x21C, acc := .rw, reset := 0x808, mask := 0xFFFF, legal := [(7, 0, [(1, 255)]), (15, 8, [(1, 255)])] },
    { name := "SUP_FRZ", off := 0x220, acc := .rw, reset := 0x14, mask := 0xFFFF, legal := [(15, 0, [(1, 1000)])] },
    { name := "SUP_FRZ_VMIN", off := 0x224, acc := .rw },
    { name := "SUP_OVERSPEED", off := 0x228, acc := .rw },
    { name := "SUP_CNT", off := 0x22C, acc := .ro, mask := 0xFFFFFF },
    { name := "SUP_BUS", off := 0x230, acc := .rws, mask := 0xF },
    { name := "SUP_BRAKE", off := 0x234, acc := .rws, mask := 0x7F, legal := [(6, 0, [(0, 64)])] } ]

/-- LPE registers (Table 8-10). -/
def rowsLpe : List Reg :=
  [
    { name := "LPE_STA", off := 0x040, acc := .ro, mask := 0x13F3F },
    { name := "LPE_T_DUTY", off := 0x044, acc := .ro, mask := 0xFFFF },
    { name := "LPE_T_SAMPLE0", off := 0x048, acc := .ro, mask := 0xFFFF },
    { name := "LPE_BUSY", off := 0x04C, acc := .ro },
    { name := "LPE_CNT", off := 0x050, acc := .ro },
    { name := "LPE_PROG", off := 0x054, acc := .ro } ]

/-- BUS registers (Table 9-3). -/
def rowsBus : List Reg :=
  [
    { name := "BUS_CTL", off := 0x040, acc := .rw, reset := 0x55040000, mask := 0x77771F03, legal := [(1, 0, [(0, 2)]), (18, 16, [(0, 6)]), (22, 20, [(0, 6)]), (26, 24, [(4, 5)]), (30, 28, [(4, 5)])] },
    { name := "BUS_SRC", off := 0x044, acc := .rws, mask := 0x7F },
    { name := "BUS_SCALE", off := 0x048, acc := .rws, mask := 0x3FFFFFFF },
    { name := "BUS_VNOM", off := 0x04C, acc := .rws, mask := 0x3FFFFFFF },
    { name := "V_UV, V_BRK_OFF, V_BRK_ON, V_REGEN_CLAMP, V_TRIP", off := 0x050, stride := 0x4, n := 5, acc := .rws, mask := 0x3FFFFFFF },
    { name := "CHOP_DROP", off := 0x064, acc := .rws, mask := 0x3FFFFFFF },
    { name := "BRKFB_TIME", off := 0x068, acc := .rws, reset := 0xA, mask := 0xFF, legal := [(7, 0, [(1, 255)])] },
    { name := "TRIP_FILT", off := 0x06C, acc := .rws, reset := 0x14, mask := 0xFF, legal := [(7, 0, [(1, 255)])] },
    { name := "BUS_STA", off := 0x070, acc := .ro, mask := 0xFF },
    { name := "BUS_V", off := 0x074, acc := .ro, mask := 0x3FFFFFFF },
    { name := "BUS_V_MAX", off := 0x078, acc := .rw },
    { name := "BUS_CHOP_TIME", off := 0x07C, acc := .ro },
    { name := "BUS_MEMBER", off := 0x080, stride := 0x4, n := 4, acc := .ro } ]

/-- MOD registers (Tables 10-4, 10-5). -/
def rowsMod : List Reg :=
  [
    { name := "MOD_CTL", off := 0x040, acc := .rws, reset := 0x5703, mask := 0xF3F771F, legal := [(14, 12, [(4, 5)])] },
    { name := "MOD_POL", off := 0x044, acc := .rwl, mask := 0x3F },
    { name := "MOD_PERIOD", off := 0x048, acc := .rws, reset := 0xF4240, mask := 0xFFFFFF, legal := [(23, 0, [(1000000, 16000000)])] },
    { name := "MOD_DEADTIME", off := 0x04C, acc := .rws, reset := 0x1F40, mask := 0xFFFF },
    { name := "MOD_MINPULSE", off := 0x050, acc := .rws, reset := 0x320, mask := 0x3FFF, legal := [(13, 0, [(0, 16000)])] },
    { name := "MOD_SPARE", off := 0x054, acc := .rws, mask := 0x3F07, legal := [(2, 0, [(0, 6)])] },
    { name := "MOD_DUTY_U", off := 0x058, acc := .ro, mask := 0x1FFFF },
    { name := "MOD_DUTY_V", off := 0x05C, acc := .ro, mask := 0x1FFFF },
    { name := "MOD_DUTY_W", off := 0x060, acc := .ro, mask := 0x1FFFF },
    { name := "MOD_STA", off := 0x064, acc := .ro, mask := 0x1F0FFF },
    { name := "MOD_NARROW", off := 0x068, acc := .ro },
    { name := "MOD_TRIM", off := 0x06C, acc := .ro },
    { name := "MOD_CAL", off := 0x070, acc := .ro },
    { name := "MOD_DUTY_SEQ", off := 0x074, acc := .ro } ]

/-- FBK registers (Table 11-4). -/
def rowsFbk : List Reg :=
  [
    { name := "FBK_CTL", off := 0x040, acc := .rws, reset := 0x300, mask := 0x1F3FF7, legal := [(2, 0, [(0, 5)]), (17, 16, [(0, 2)])] },
    { name := "FBK_STA", off := 0x044, acc := .ro, mask := 0x1FFF },
    { name := "FBK_POS", off := 0x048, acc := .ro, pair := true },
    { name := "FBK_VEL", off := 0x050, acc := .ro, pair := true },
    { name := "FBK_OFS", off := 0x058, acc := .rw, pair := true },
    { name := "FBK_QERR", off := 0x060, acc := .ro, mask := 0xFFFF },
    { name := "FBK_QLIM", off := 0x064, acc := .rws, reset := 0x3E80003, mask := 0xFFFF000F, legal := [(31, 16, [(1, 65535)])] },
    { name := "FBK_STILL", off := 0x068, acc := .rws, reset := 0x2710, mask := 0xFFFF, legal := [(15, 0, [(1, 65535)])] },
    { name := "FBK_F2_DEB", off := 0x06C, acc := .rws, reset := 0x3E8, mask := 0xFFFF },
    { name := "FBK_IDX_SEQ", off := 0x070, acc := .ro, mask := 0x1FFFF },
    { name := "FBK_IDX_POS", off := 0x074, acc := .ro, pair := true },
    { name := "FBK_IDX_NS", off := 0x07C, acc := .ro, mask := 0x3FFFFFFF },
    { name := "FBK_HALL_MAP", off := 0x080, acc := .rws, reset := 0xEEC287, mask := 0xFFFFFF, legal := [(2, 0, [(0, 5), (7, 7)]), (5, 3, [(0, 5), (7, 7)]), (8, 6, [(0, 5), (7, 7)]), (11, 9, [(0, 5), (7, 7)]), (14, 12, [(0, 5), (7, 7)]), (17, 15, [(0, 5), (7, 7)]), (20, 18, [(0, 5), (7, 7)]), (23, 21, [(0, 5), (7, 7)])] },
    { name := "FBK_TOOTH", off := 0x084, acc := .rws, reset := 0x20203C, mask := 0xFFFFFF, legal := [(11, 0, [(2, 4095)]), (23, 16, [(24, 255)])] },
    { name := "FBK_SSI_FMT", off := 0x088, acc := .rws, reset := 0x180119, mask := 0xF3F3F3F, legal := [(5, 0, [(8, 48)]), (21, 16, [(1, 48)]), (27, 24, [(0, 8)])] },
    { name := "FBK_SSI_FLAGS", off := 0x08C, acc := .rws, mask := 0x1FFFFFF },
    { name := "FBK_SSI_TIME", off := 0x090, acc := .rws, reset := 0x64, mask := 0x3FF03FF, legal := [(9, 0, [(25, 1000)]), (25, 16, [(0, 200)])] },
    { name := "FBK_SSI_TMO", off := 0x094, acc := .rws, reset := 0x2140028, mask := 0xFFFFFFF, legal := [(15, 0, [(1, 1000)]), (27, 24, [(1, 15)])] },
    { name := "FBK_SSI_WORD", off := 0x098, acc := .ro, pair := true, hiMask := 0xFFFF },
    { name := "FBK_SSI_RTT", off := 0x0A0, acc := .ro, mask := 0xFFFF },
    { name := "FBK_SSI_CNT", off := 0x0A4, acc := .ro } ]

/-- SNL registers (Table 12-4). -/
def rowsSnl : List Reg :=
  [
    { name := "SNL_CTL", off := 0x040, acc := .rws, reset := 0x10, mask := 0x3F },
    { name := "SNL_STA", off := 0x044, acc := .ro, mask := 0xFF7 },
    { name := "SNL_AIN", off := 0x048, acc := .rws, mask := 0x7F7F7F },
    { name := "SNL_SAMPLE", off := 0x04C, acc := .rws, mask := 0xFFFF },
    { name := "SNL_VSCALE", off := 0x050, acc := .rws, mask := 0x3FFFFFFF },
    { name := "SNL_RS", off := 0x054, acc := .rw, mask := 0x3FFFFFFF },
    { name := "SNL_PLL_KP", off := 0x058, acc := .rw, mask := 0x3FFFFFFF },
    { name := "SNL_PLL_KI", off := 0x05C, acc := .rw, mask := 0x3FFFFFFF },
    { name := "SNL_EMIN", off := 0x060, acc := .rw, mask := 0x3FFFFFFF },
    { name := "SNL_LOSS", off := 0x064, acc := .rws, reset := 0x4008, mask := 0xFFFF, legal := [(7, 0, [(1, 255)])] },
    { name := "SNL_SPEED_JUMP", off := 0x068, acc := .rws },
    { name := "SNL_AMP_VMIN", off := 0x06C, acc := .rws },
    { name := "SNL_COAST", off := 0x070, acc := .rws, reset := 0xA0014 },
    { name := "SNL_CATCH", off := 0x074, acc := .rws, reset := 0x3E80003, mask := 0xFFFF000F, legal := [(3, 0, [(1, 15)])] },
    { name := "SNL_CATCH_MIN", off := 0x078, acc := .rws, reset := 0x4E20 },
    { name := "SNL_ALIGN", off := 0x07C, acc := .rws, reset := 0x64 },
    { name := "SNL_I_ALIGN", off := 0x080, acc := .rw, mask := 0x3FFFFFFF },
    { name := "SNL_I_RAMP", off := 0x084, acc := .rw, mask := 0x3FFFFFFF },
    { name := "SNL_SYNC", off := 0x088, acc := .rws, reset := 0x40200400 },
    { name := "SNL_V_ON", off := 0x08C, acc := .rws },
    { name := "SNL_V_OFF", off := 0x090, acc := .rws },
    { name := "SNL_CMD", off := 0x094, acc := .rws, mask := 0xFF7F7F07, legal := [(14, 8, [(0, 64)]), (31, 24, [(1, 255)])] },
    { name := "SNL_F_FULL", off := 0x098, acc := .rws },
    { name := "SNL_V_FULL", off := 0x09C, acc := .rws },
    { name := "SNL_KVF", off := 0x0A0, acc := .rw, mask := 0x3FFFFFFF },
    { name := "SNL_VBOOST", off := 0x0A4, acc := .rw, mask := 0x3FFFFFFF },
    { name := "SNL_TEST", off := 0x0A8, acc := .wo, mask := 0x1 },
    { name := "SNL_TEST_RES", off := 0x0AC, acc := .ro, mask := 0x8000FFFF },
    { name := "SNL_ANGLE", off := 0x0B0, acc := .ro, mask := 0xFFFF },
    { name := "SNL_FREQ", off := 0x0B4, acc := .ro } ] ++
  [
    { name := "SNL_EMF", off := 0x0B8, acc := .ro, mask := 0x3FFFFFFF },
    { name := "SNL_CMD_X", off := 0x0BC, acc := .ro, mask := 0xFFFF },
    { name := "SNL_CNT", off := 0x0C0, acc := .ro, mask := 0xFFFFFF },
    { name := "SNL_ZC", off := 0x0C4, acc := .ro, mask := 0x7FFFFFF },
    { name := "SNL_CURVE", off := 0x100, stride := 0x4, n := 16, acc := .rws } ]

/-- The drive tables, which SNL 0 alone holds (R313). -/
def rowsSnlTab : List Reg :=
  [
    { name := "SNL_TAB", off := 0x400, stride := 0x4, n := 256, acc := .rws } ]

/-- ADC registers (Table 13-5). -/
def rowsAdc : List Reg :=
  [
    { name := "ADC_CTL", off := 0x040, acc := .rws, mask := 0x1 },
    { name := "ADC_STA", off := 0x044, acc := .ro, mask := 0xF1F37 },
    { name := "ADC_CAL_CMD", off := 0x048, acc := .wo, mask := 0x3 },
    { name := "ADC_CAL_OFS", off := 0x04C, acc := .ro, mask := 0xFFFFFF },
    { name := "ADC_CAL_GAIN", off := 0x050, acc := .ro, mask := 0xFFFFFF },
    { name := "ADC_CAL_TIME_S", off := 0x054, acc := .ro },
    { name := "ADC_KNOT_STA", off := 0x058, acc := .ro, mask := 0xFFFFFF },
    { name := "ADC_CAL_W", off := 0x080, stride := 0x4, n := 18, acc := .ro, mask := 0xFFFFFF },
    { name := "ADC_SSLOT", off := 0x100, stride := 0x4, n := 16, acc := .rws, mask := 0x80FFFF17, ro := 0x40000000 },
    { name := "ADC_KSLOT", off := 0x140, stride := 0x4, n := 8, acc := .rws, mask := 0x80000007 },
    { name := "ADC_CSLOT", off := 0x160, stride := 0x4, n := 8, acc := .rws, mask := 0x80000007 },
    { name := "ADC_SEQ", off := 0x200, acc := .ro, mask := 0x1FFFF },
    { name := "ADC_RES", off := 0x204, stride := 0x8, n := 8, acc := .ro, mask := 0x3FFFF },
    { name := "ADC_RES_NS", off := 0x208, stride := 0x8, n := 8, acc := .ro, mask := 0x3FFFFFFF } ]

/-- SDF registers (Table 13-6). -/
def rowsSdf : List Reg :=
  [
    { name := "SDF_CTL", off := 0x040, acc := .rws, reset := 0x4, mask := 0xFF },
    { name := "SDF_CLK", off := 0x044, acc := .rws, reset := 0x505, mask := 0xBFBF, legal := [(4, 0, [(4, 20)]), (12, 8, [(4, 20)])] },
    { name := "SDF_STUCK_CH", off := 0x048, acc := .ro, mask := 0xBF },
    { name := "SDF_PORT", off := 0x080, stride := 0x10, n := 16, acc := .rws, reset := 0x100040, mask := 0x7F3F01FF, legal := [(8, 0, [(16, 256)]), (21, 16, [(8, 32)])] },
    { name := "SDF_OC_THR", off := 0x084, stride := 0x10, n := 16, acc := .rw, reset := 0x80007FFF },
    { name := "SDF_STA", off := 0x088, stride := 0x10, n := 16, acc := .ro, mask := 0x77 },
    { name := "SDF_SEQ", off := 0x1FC, acc := .ro, mask := 0x1FFFF },
    { name := "SDF_RES", off := 0x200, stride := 0x4, n := 48, acc := .ro, mask := 0x80FFFFFF } ]

/-- FCO registers (Table 14-6). -/
def rowsFco : List Reg :=
  [
    { name := "FCO_CTL", off := 0x040, acc := .rw, mask := 0x1 },
    { name := "FCO_STA", off := 0x044, acc := .ro, mask := 0x1FF },
    { name := "FCO_IMG_VER", off := 0x048, acc := .ro },
    { name := "FCO_PC", off := 0x04C, acc := .ro, mask := 0xFFFF },
    { name := "FCO_WDOG", off := 0x050, acc := .rw, mask := 0xFFFF },
    { name := "FCO_HEVT", off := 0x054, acc := .rw, mask := 0x7FFFF },
    { name := "FCO_DENY_ADDR", off := 0x058, acc := .ro, mask := 0xC0FFFFFF },
    { name := "FCO_DOORBELL", off := 0x05C, acc := .w1s, mask := 0x1 },
    { name := "FCO_CYCLES", off := 0x060, acc := .ro, pair := true },
    { name := "FCO_ITEMS", off := 0x068, acc := .ro },
    { name := "FCO_FAULT_PC", off := 0x06C, acc := .ro, mask := 0xFFFF } ]

/-- DSP registers (Table 15-6). -/
def rowsDsp : List Reg :=
  [
    { name := "DSP_CTL", off := 0x040, acc := .rw, mask := 0xFF },
    { name := "DSP_TICK", off := 0x044, acc := .rws, reset := 0x320, mask := 0x1FFFF, legal := [(16, 0, [(200, 80000)])] },
    { name := "DSP_TICKS", off := 0x048, acc := .ro },
    { name := "DSP_AFF", off := 0x04C, acc := .rws, reset := 0x7D007D0, legal := [(31, 16, [(100, 65535)])] },
    { name := "DSP_TMO", off := 0x050, acc := .rws, reset := 0x3E80000 },
    { name := "DSP_SRC_BASE0", off := 0x054, acc := .rws, mask := 0xFFF0FFF },
    { name := "DSP_SRC_BASE1", off := 0x058, acc := .rws, mask := 0xFFF0FFF },
    { name := "DSP_STA", off := 0x060, acc := .ro, mask := 0xFFFF7FFF },
    { name := "DSP_CNT", off := 0x064, acc := .ro },
    { name := "DSP_SUB", off := 0x080, stride := 0x4, n := 8, acc := .wo },
    { name := "DSP_SUB_RES", off := 0x0A0, acc := .ro, mask := 0xF3 },
    { name := "DSP_SUB_ID", off := 0x0A4, acc := .ro },
    { name := "DSP_CANCEL", off := 0x0A8, acc := .wo },
    { name := "DSP_CANCEL_FLOW", off := 0x0AC, acc := .wo, mask := 0xFFF },
    { name := "DSP_CANCEL_RES", off := 0x0B0, acc := .ro, mask := 0x3FFF0003 },
    { name := "DSP_CQ_BASE", off := 0x0C0, acc := .rw, mask := 0x3FFFE0 },
    { name := "DSP_CQ_SIZE", off := 0x0C4, acc := .rw, reset := 0x10, mask := 0x1FFF, legal := [(12, 0, [(16, 4096)])] },
    { name := "DSP_CQ_HEAD", off := 0x0C8, acc := .rw, mask := 0xFFF },
    { name := "DSP_CQ_TAIL", off := 0x0CC, acc := .ro, reset := 0x10000, mask := 0x10FFF },
    { name := "DSP_FSEL", off := 0x0D0, acc := .rw, mask := 0xFFF },
    { name := "DSP_FLOW_CFG", off := 0x0D4, acc := .rw, mask := 0xFF71 },
    { name := "DSP_FLOW_STA", off := 0x0D8, acc := .ro, mask := 0x3FFF00F3 },
    { name := "DSP_FLOW_CNT", off := 0x0DC, acc := .ro },
    { name := "DSP_FLOW_CNT2", off := 0x0E0, acc := .ro },
    { name := "DSP_LAST_FAIL", off := 0x0E4, acc := .ro, mask := 0xFFFF0FFF } ]

/-- TRC registers (Table 16-4). -/
def rowsTrc : List Reg :=
  [
    { name := "TRC_CTL", off := 0x040, acc := .rws, mask := 0x7 },
    { name := "TRC_STA", off := 0x044, acc := .ro, mask := 0xFFF7F },
    { name := "TRC_COIL_BASE", off := 0x048, acc := .rw, mask := 0xFFFFF000, pair := true },
    { name := "TRC_COIL_SIZE", off := 0x050, acc := .rw, reset := 0x10000, mask := 0x7FFFF000 },
    { name := "TRC_WP", off := 0x054, acc := .ro, mask := 0x3FFFFFF8 },
    { name := "TRC_RP", off := 0x058, acc := .rw, mask := 0x3FFFFFF8 },
    { name := "TRC_WMARK", off := 0x05C, acc := .rw, mask := 0x3FFFF000 },
    { name := "TRC_CNT", off := 0x060, acc := .ro },
    { name := "TRC_LOST", off := 0x064, acc := .ro },
    { name := "TRC_FORCE", off := 0x068, acc := .wo, mask := 0x1 },
    { name := "TRC_MARK", off := 0x06C, acc := .wo, mask := 0xFFFF },
    { name := "TRC_TRIG_SEQ", off := 0x070, acc := .ro, mask := 0x1FFFF },
    { name := "TRC_TRIG_NS", off := 0x074, acc := .ro, mask := 0x3FFFFFFF },
    { name := "TRC_TRIG_S", off := 0x078, acc := .ro },
    { name := "TRC_WIN", off := 0x080, acc := .rws, mask := 0xFFFF0FFF },
    { name := "TRC_POST", off := 0x084, acc := .rws, mask := 0xFFFFFF },
    { name := "TRC_CAL_CMD", off := 0x090, acc := .wo, mask := 0x1F01 },
    { name := "TRC_CNT_CFG", off := 0x0A0, stride := 0x8, n := 2, acc := .rws, mask := 0x1F, legal := [(4, 0, [(0, 24)])] },
    { name := "TRC_CNT_LIM", off := 0x0A4, stride := 0x8, n := 2, acc := .rws, mask := 0xFFFFFF },
    { name := "TRC_TMR", off := 0x0B0, stride := 0x4, n := 2, acc := .rws, mask := 0xFFFFFF },
    { name := "TRC_SEQ_ST", off := 0x0C0, stride := 0x4, n := 8, acc := .rws, mask := 0xFFFFFF, legal := [(4, 0, [(0, 24)]), (12, 8, [(0, 24)])] },
    { name := "TRC_EDGE", off := 0x100, stride := 0x10, n := 8, acc := .rws, mask := 0x33F },
    { name := "TRC_LEVEL", off := 0x104, stride := 0x10, n := 8, acc := .rws },
    { name := "TRC_HYST", off := 0x108, stride := 0x10, n := 8, acc := .rws },
    { name := "TRC_CH_SEL", off := 0x200, stride := 0x10, n := 64, acc := .rws, legal := [(21, 16, [(0, 32)]), (23, 22, [(0, 2)])] },
    { name := "TRC_CH_ADDR", off := 0x204, stride := 0x10, n := 64, acc := .rws, mask := 0x3FFFFC },
    { name := "TRC_CH_TRIM", off := 0x208, stride := 0x10, n := 64, acc := .rws, mask := 0xFFFFF },
    { name := "TRC_CH_STA", off := 0x20C, stride := 0x10, n := 64, acc := .ro },
    { name := "TRC_CAL_RES", off := 0x600, stride := 0x4, n := 64, acc := .ro } ]

/-- FLD registers (Table 17-6). -/
def rowsFld : List Reg :=
  [
    { name := "FLD_STA", off := 0x040, acc := .ro, mask := 0x3FFFFF1F },
    { name := "FLD_VFIELD", off := 0x044, acc := .ro, mask := 0xFFFF },
    { name := "FLD_SIL_M", off := 0x048, acc := .rw, reset := 0x64, mask := 0xFFFFF, legal := [(19, 0, [(20, 1000000)])] },
    { name := "FLD_SIL_F", off := 0x04C, acc := .rw, reset := 0x64, mask := 0xFFFFF, legal := [(19, 0, [(20, 1000000)])] },
    { name := "FLD_SIL2", off := 0x050, acc := .rw, reset := 0x3E8, mask := 0xFFFF, legal := [(15, 0, [(1, 65535)])] },
    { name := "FLD_REACT", off := 0x054, acc := .rw, reset := 0x3, mask := 0x7, legal := [(2, 0, [(2, 6)])] },
    { name := "FLD_GROUP_EN", off := 0x058, acc := .rw, mask := 0xFF },
    { name := "FLD_OUT0", off := 0x060, acc := .rw },
    { name := "FLD_OUT1", off := 0x064, acc := .rw },
    { name := "FLD_IN0", off := 0x068, acc := .ro },
    { name := "FLD_IN1", off := 0x06C, acc := .ro },
    { name := "FLD_SHORT0", off := 0x070, acc := .w1c },
    { name := "FLD_SHORT1", off := 0x074, acc := .w1c },
    { name := "FLD_CNT", off := 0x078, acc := .ro },
    { name := "FLD_DELAY", off := 0x07C, acc := .ro, mask := 0xFFFF },
    { name := "FLD_PIN", off := 0x100, stride := 0x4, n := 64, acc := .rw, reset := 0x3E800C0, mask := 0xFFFF00F7, legal := [(31, 16, [(1, 65535)])] } ]

/-- BLY registers (Table 18-5). -/
def rowsBly : List Reg :=
  [
    { name := "BLY_STA", off := 0x040, acc := .ro, mask := 0x3FF },
    { name := "BLY_RUN", off := 0x044, acc := .ro, mask := 0xFFF },
    { name := "BLY_OUT", off := 0x048, acc := .ro, reset := 0xFFFF, mask := 0xFFFFFF },
    { name := "BLY_STOP_REQ", off := 0x04C, acc := .ro, mask := 0xFFFF },
    { name := "BLY_KEY", off := 0x050, acc := .ro },
    { name := "BLY_COMMIT", off := 0x054, acc := .wo },
    { name := "BLY_CMD", off := 0x058, acc := .wo, mask := 0x1 },
    { name := "BLY_CNT", off := 0x05C, acc := .ro, mask := 0xFFFFFF },
    { name := "BLY_PAIR", off := 0x100, stride := 0x4, n := 12, acc := .rw, reset := 0xA00, mask := 0xF3FFF },
    { name := "BLY_FN_CFG", off := 0x140, stride := 0x10, n := 12, acc := .rw, mask := 0x37FF07 },
    { name := "BLY_FN_TARGET", off := 0x144, stride := 0x10, n := 12, acc := .rw, mask := 0xFFFFFF },
    { name := "BLY_FN_TIME", off := 0x148, stride := 0x10, n := 12, acc := .rw, reset := 0x3E80064, mask := 0x3FFF1FFF },
    { name := "RESERVED", off := 0x14C, stride := 0x10, n := 12, acc := .rw },
    { name := "BLY_TP_CFG", off := 0x200, acc := .rw, reset := 0xA, mask := 0xF7F },
    { name := "BLY_SOUT_CFG", off := 0x204, acc := .rw, reset := 0xA0000, mask := 0x7FFFFF },
    { name := "RESERVED", off := 0x208, acc := .rw } ]

/-- MEM registers (Table 19-3). -/
def rowsMem : List Reg :=
  [
    { name := "MEM_CTL", off := 0x040, acc := .rwl, reset := 0x1, mask := 0xF, legal := [(3, 0, [(1, 2), (4, 4), (8, 8)])] },
    { name := "MEM_STA", off := 0x044, acc := .ro, mask := 0xF0F },
    { name := "MEM_CE_CNT", off := 0x048, acc := .ro },
    { name := "MEM_UE_CNT", off := 0x04C, acc := .ro },
    { name := "MEM_ELOG", off := 0x050, acc := .ro, reset := 0x80000000, mask := 0x8000FFFF },
    { name := "MEM_ELOG_ADDR", off := 0x054, acc := .ro, pair := true },
    { name := "MEM_INJ", off := 0x05C, acc := .wo, mask := 0xF3 } ]

/-- KEP registers (Table 19-4). -/
def rowsKep : List Reg :=
  [
    { name := "KEP_CTL", off := 0x040, acc := .rwl, mask := 0x3, legal := [(1, 0, [(0, 2)])] },
    { name := "KEP_STA", off := 0x044, acc := .ro, mask := 0x7 },
    { name := "KEP_ID", off := 0x048, acc := .ro, mask := 0xFFFFFF },
    { name := "KEP_CAP", off := 0x04C, acc := .ro, mask := 0xFF },
    { name := "KEP_SAVE_BASE", off := 0x050, acc := .rwl, mask := 0x3FFF000 },
    { name := "KEP_SAVE_SIZE", off := 0x054, acc := .ro, mask := 0x7FFFF } ]

/-- SCB registers (Table 19-5). -/
def rowsScb : List Reg :=
  [
    { name := "SCB_CTL", off := 0x040, acc := .rw, reset := 0x3, mask := 0x3 },
    { name := "SCB_SRAM_PERIOD", off := 0x044, acc := .rw, reset := 0xA, mask := 0xFFF, legal := [(11, 0, [(1, 3600)])] },
    { name := "SCB_DRAM_PERIOD", off := 0x048, acc := .rw, reset := 0xE10, mask := 0x1FFFF, legal := [(16, 0, [(60, 86400)])] },
    { name := "SCB_PASSES", off := 0x04C, acc := .ro },
    { name := "SCB_POS", off := 0x050, acc := .ro } ]

/-- PWR registers (Table 20-5). -/
def rowsPwr : List Reg :=
  [
    { name := "PWR_CTL", off := 0x040, acc := .rw, reset := 0x3, mask := 0xFFFF0007 },
    { name := "PWR_STA", off := 0x044, acc := .ro, mask := 0x3337 },
    { name := "PWR_RST_CAUSE", off := 0x048, acc := .ro, reset := 0x1, mask := 0x1F },
    { name := "PWR_SAG_CNT", off := 0x04C, acc := .ro },
    { name := "PWR_SAVE_TIME", off := 0x050, acc := .ro, mask := 0xFFFF },
    { name := "PWR_IMAGE", off := 0x054, acc := .ro, mask := 0xFF07FFFF },
    { name := "PWR_ORPHANS", off := 0x058, acc := .ro, mask := 0x1FF01FF },
    { name := "PWR_RAIL_STA", off := 0x05C, acc := .ro, reset := 0x3F },
    { name := "PWR_STATE_REQ", off := 0x060, acc := .rw, mask := 0x3, legal := [(1, 0, [(0, 2)])] } ]

/-- CLK registers (Table 20-6). -/
def rowsClk : List Reg :=
  [
    { name := "CLK_STA", off := 0x040, acc := .ro, mask := 0x3F3FFF },
    { name := "CLK_LOSS", off := 0x044, acc := .w1c, mask := 0x3FFF },
    { name := "CLK_GATED", off := 0x048, acc := .ro, mask := 0x3FFF } ]

/-- SEC registers (Table 21-7). -/
def rowsSec : List Reg :=
  [
    { name := "SEC_STA", off := 0x040, acc := .ro, mask := 0x1FFF3 },
    { name := "SEC_UID", off := 0x044, acc := .ro, pair := true },
    { name := "SEC_CMD", off := 0x04C, acc := .wo, mask := 0xFFFF000F },
    { name := "SEC_CMD_RES", off := 0x050, acc := .ro, mask := 0xF3 },
    { name := "SEC_KEY_SEL", off := 0x054, acc := .rw, mask := 0x3 },
    { name := "SEC_CHALLENGE", off := 0x060, stride := 0x4, n := 4, acc := .ro },
    { name := "SEC_OWNER_HASH", off := 0x080, stride := 0x4, n := 8, acc := .wo },
    { name := "SEC_KEY_DATA", off := 0x100, stride := 0x4, n := 16, acc := .wo },
    { name := "SEC_PSK_SEL", off := 0x140, acc := .rw, mask := 0x3 },
    { name := "SEC_PSK_DATA", off := 0x144, stride := 0x4, n := 4, acc := .wo },
    { name := "SEC_TOKEN", off := 0x200, stride := 0x4, n := 48, acc := .wo } ]

/-- DBG registers (Table 21-8). -/
def rowsDbg : List Reg :=
  [
    { name := "DBG_LEVEL", off := 0x040, acc := .rw, mask := 0x3 },
    { name := "DBG_STA", off := 0x044, acc := .ro, mask := 0xF },
    { name := "DBG_EXPIRY", off := 0x048, acc := .ro, mask := 0x1FFFF },
    { name := "DBG_BAUD", off := 0x04C, acc := .rw, reset := 0x1C200, mask := 0x3FFFFF, legal := [(21, 0, [(115200, 3000000)])] },
    { name := "DBG_HALT_SEL", off := 0x050, acc := .rw, mask := 0xFFF000 },
    { name := "DBG_HALT_CMD", off := 0x054, acc := .wo, mask := 0x3 },
    { name := "DBG_HALT_STA", off := 0x058, acc := .ro, mask := 0x1FFFF },
    { name := "DBG_FCO_BP", off := 0x080, stride := 0x4, n := 8, acc := .rw, mask := 0x8000FFFF },
    { name := "DBG_FCO_STEP", off := 0x0A0, acc := .wo, mask := 0xFF } ]

/-- The register rows of a page. -/
def pageRows : Page → List Reg
  | .dev => rowsDev | .clk => rowsClk | .pwr => rowsPwr | .sec => rowsSec | .dbg => rowsDbg | .evt => rowsEvt | .cmd => rowsCmd
  | .net _ => rowsNet | .swt => rowsSwt | .ycp => rowsYcp | .hfr => rowsHfr | .tim => rowsTim | .knt => rowsKnt | .hit => rowsHit
  | .cam => rowsCam | .axm _ => rowsAxm | .grp _ => rowsGrp | .lpa _ => rowsLpa | .lpe _ => rowsLpe | .mod _ => rowsMod
  | .bus _ => rowsBus | .fbk _ => rowsFbk | .adc _ => rowsAdc | .sdf _ => rowsSdf | .fco _ => rowsFco | .dsp => rowsDsp
  | .trc => rowsTrc | .fld => rowsFld | .bly => rowsBly | .mem => rowsMem | .kep => rowsKep | .scb => rowsScb
  | .snl n => if n.val = 0 then rowsSnl ++ rowsSnlTab else rowsSnl

/-- The row of a list that covers an offset, and which half of a pair the offset is. -/
def findRow : List Reg → Nat → Option (Reg × Bool)
  | [], _ => none
  | r :: t, off =>
    match r.half off with
    | some h => some (r, h)
    | none => findRow t off

end Sys2Proof.Machine
end

