-- ==== Sys2Proof/Machine/Tab.lean ====
section
/-!
DEFINITION. Sparse tables in one canonical form: keys strictly rising, and no entry equal to the default of its key. Register
files, per-instance state and memories are such tables, so that equal contents are equal data.
-/

namespace Sys2Proof.Machine

/-- A sparse table: the entries that differ from their default, in rising order of the key. -/
abbrev Tab (α : Type) := List (Nat × α)

/-- The entry of `k`, or the default `d`. -/
def tabGet {α : Type} (d : α) : Tab α → Nat → α
  | [], _ => d
  | (k', v) :: t, k => if k = k' then v else tabGet d t k

/-- Puts an entry in its place in the order of the keys, over an entry of the same key. -/
def tabPut {α : Type} : Tab α → Nat → α → Tab α
  | [], k, v => [(k, v)]
  | (k', v') :: t, k, v =>
    if k < k' then (k, v) :: (k', v') :: t
    else if k = k' then (k, v) :: t
    else (k', v') :: tabPut t k v

/-- Sets the entry of `k`; an entry equal to its default `d` is removed. -/
def tabSet {α : Type} [DecidableEq α] (d : α) (t : Tab α) (k : Nat) (v : α) : Tab α :=
  if v = d then t.filter (fun x => x.1 != k) else tabPut t k v

/-- Every key of the table is above `lo`, keys rise strictly, and no entry equals its default `d k`. -/
def tabWfFrom {α : Type} [DecidableEq α] (d : Nat → α) : Option Nat → Tab α → Bool
  | _, [] => true
  | lo, (k, v) :: t =>
    (match lo with | none => true | some l => decide (l < k)) && decide (v ≠ d k) && tabWfFrom d (some k) t

/-- The canonical form of a table. -/
def tabWf {α : Type} [DecidableEq α] (d : Nat → α) (t : Tab α) : Bool := tabWfFrom d none t

end Sys2Proof.Machine
end

