-- ==== Sys2Proof/Machine/StHost.lean ====
section
/-!
DEFINITION. The state of the register pages, the host and network conversations and the time base (chapters 2 to 5), as plain
data. Registers that software writes, and registers that hold the last value of something, live in the register file of
`State`; what stands here is what the chapters describe beside the registers.
-/

namespace Sys2Proof.Machine

/-- The common header of one page beyond PG_EVEN and PG_VEC, which the register file holds (Tables 2-2 to 2-11). -/
structure PageHdr where
  /-- PG_CTL.EN (Table 2-5). -/
  en : Bool := false
  /-- PG_STA.STATE (Table 2-6). -/
  state : PgState := .off
  /-- A page reset runs since this time (R34); PGRESET and BUSY read 1. -/
  resetSince : Option Nat := none
  /-- A write was dropped during the page reset, so RSVD_WRITE is raised at its end (R34). -/
  resetDropped : Bool := false
  /-- PG_CTL.SPLICE_REQ (R484). -/
  spliceReq : Bool := false
  /-- The state before the splice that runs, and when it began (R484). -/
  spliceFrom : Option PgState := none
  spliceSince : Nat := 0
  /-- SEAL and the CRC-32C taken at sealing (R35). -/
  sealedBit : Bool := false
  sealCrc : Word := 0
  /-- SHADOW_PENDING (R38). -/
  shadowPending : Bool := false
  /-- CLOCK_OK (R16). -/
  clockOk : Bool := true
  /-- PG_EVT (R37). -/
  evt : Word := 0
  /-- PG_FLT CODE, COUNT and SEQUENCE (R36). -/
  fltCode : Byte := 0
  fltCount : Nat := 0
  fltSeq : BitVec 16 := 0
  /-- The fault conditions that stand at present: a condition counts once while it stands (R36), a clear is refused while the
  latched one stands, and a standing one latches again once the page is enabled (Table 2-11). -/
  conds : List Byte := []
  /-- PG_SEQ (R39). -/
  gen : Word := 0
  /-- An apply is requested; applies completed (R38). -/
  applyReq : Bool := false
  applyCount : Word := 0
  /-- PG_OWNER (R41). -/
  owner : Nat := 0
  /-- The safe demands that stand (R33): a debug halt, an STO group, a supply-sag save. -/
  halted : Bool := false
  stoDemand : Bool := false
  sagDemand : Bool := false
deriving DecidableEq, Repr

/-- One access path's snapshot and staging latch (R4). -/
structure PathSt where
  snap : Word := 0
  stage : Word := 0
deriving DecidableEq, Repr

/-- Clocks and the model's real time. -/
structure ClkSt where
  /-- Real time since power-on in nanoseconds, as the blocks' timers measure it. -/
  now : Nat := 0
  /-- CLK_STA: domains running, in the order of Table 1-2, and PLLs locked (R468). -/
  running : BitVec 14 := 0
  pll : BitVec 6 := 0
  /-- PLLs that lost lock and have not regained it, in the order A to F (R469). -/
  unlocked : BitVec 6 := 0
  /-- Domains lost at present (R16). -/
  lost : BitVec 14 := 0
deriving DecidableEq, Repr

/-- The servo states of Table 5-1. -/
inductive Servo where
  | free | acquiring | locked | holdover
deriving DecidableEq, Repr

/-- One entry of a capture FIFO (R116). -/
structure CapEntry where
  s : Nat := 0
  ns : Nat := 0
  rising : Bool := false
deriving DecidableEq, Repr

/-- One PTP port (R107 to R110): the filtered delay in 1/16 ns, the two-step Sync that waits for its Follow_Up, the own
request that waits for its response, and the sequence numbers. -/
structure PtpPort where
  mpd : Option Int := none
  pendSync : Option (BitVec 16 × Int × Int) := none
  lastSync : Option (Int × Int × Int) := none
  reqSeq : BitVec 16 := 0
  /-- A request was sent and is not answered; its egress time, once it has left. -/
  reqWait : Bool := false
  reqT : Option Int := none
  /-- PTP samples are discarded until this device time, after a splice that changed the port's latencies (R490). -/
  quietTo : Nat := 0
  syncSeq : BitVec 16 := 0
  annSeq : BitVec 16 := 0
  lastSyncTx : Nat := 0
  lastAnnTx : Nat := 0
  lastReqTx : Nat := 0
deriving DecidableEq, Repr

/-- What the planner's part of a frame knot rests on: the length of the frame that begins, the device times of the knot before and of the
knot, and the last command accepted by then. -/
structure PlanDue where
  len : Nat
  prev : Nat
  t : Nat
  last : Nat
deriving DecidableEq, Repr

/-- The time base (R96 to R110) and the frame. -/
structure TimSt where
  /-- The time counter: seconds, nanoseconds, 32-bit fraction (R96). -/
  s : Nat := 0
  ns : Nat := 0
  frac : Nat := 0
  /-- TIM_RATE (R96). -/
  rate : Int := 0
  servo : Servo := .free
  /-- The last accepted θ for the outlier rule, the run of discards, the run inside LOCK_THRESH and the run outside four
  times it (R101, R103). -/
  thetaPrev : Option Rat := none
  discardRun : Nat := 0
  lockRun : Nat := 0
  bigRun : Nat := 0
  lastSample : Nat := 0
  /-- A step by this many nanoseconds, and a written time, wait for the step point (R102). -/
  stepReq : Option Rat := none
  setReq : Option Stamp := none
  /-- The real times of their step points, once the frame knot before each has fired. -/
  stepPoint : Option Nat := none
  setPoint : Option Nat := none
  /-- PLL C: locked, relocking, and the settings it runs on (R97). -/
  pllLock : Bool := false
  relocking : Bool := false
  pllSrc : Nat := 0
  pllMhz : Nat := 25
  /-- TRIM_PORT of TIM_STA (R118). -/
  trimPort : Nat := 0
  /-- Device time in ns at which the next frame knot fires, the number of the last frame knot, and its real time (R17, R105). -/
  nextKnot : Nat := 0
  /-- Length of the frame that runs, ns. -/
  lenNs : Nat := 62500
  /-- Its length as it began: the time the planner moves on in it (R105). -/
  planNs : Nat := 62500
  frameNo : Nat := 0
  /-- The planner works at this frame knot: a new plan starts from its block; else from the block already committed (R125). -/
  planning : Bool := false
  /-- The planner's part of this frame knot waits for the supervision of sample 0 (R24, Table 1-4). -/
  planDue : Option PlanDue := none
  lastKnot : Nat := 0
  /-- Current samples taken in this frame, and the sample counter (R18). -/
  sampleIdx : Nat := 0
  sampleNo : Nat := 0
  /-- The frame that runs contains a step or a frame change, so carriers restart at the next knot (R105, R246). -/
  realign : Bool := false
  /-- The last knot was a re-aligned one, or the first after a frame change. -/
  realigned : Bool := false
  /-- The ratio of the PWM clock to the time counter over the past frame, which sets every carrier period (R117). -/
  pwmRatio : Rat := 1
  caps : Tab (List CapEntry) := []
  capOvf : Tab Nat := []
  ptp : Tab PtpPort := []
  /-- Residence times of a two-step transparent clock that wait for the message that carries them (R110): whether of a request, the port
  left by, the identity and the sequence number, and the time in 2^-16 ns. -/
  resid : List (Bool × Nat × DWord × BitVec 16 × BitVec 16 × Int) := []
  annRx : List (Fin 4 × List Word) := []
deriving DecidableEq, Repr

/-- One knot (R111 to R115): armed, its next target (device time, ns × 2^16), its count and flags. -/
structure Knot where
  armed : Bool := false
  next : Nat := 0
  seq : BitVec 16 := 0
  valid : Bool := false
  late : Bool := false
deriving DecidableEq, Repr

/-- The knots, the KNOT pins' pulses and the apply of the frame registers (R113, R115). -/
structure KntSt where
  knots : Tab Knot := []
  /-- The real time at which the pulse on each KNOT pin ends; 0 = pin low. -/
  pinUntil : Tab Nat := []
  /-- KNT_FRAME or KNT_PHASE was written since the last apply. -/
  frameWritten : Bool := false
  /-- A KN_ register was written since the knots' last copy (R38, R113). -/
  knWritten : Bool := false
  /-- An apply request waits for the frame knot. -/
  frameApply : Bool := false
deriving DecidableEq, Repr

/-- One vector's moderation (R44): the time of the last message, or of the first raise gathered before any, and the raises
gathered since. -/
structure VecSt where
  last : Option Nat := none
  gathered : Nat := 0
deriving DecidableEq, Repr

/-- EVT_PEND and the moderation of the 64 vectors (R43, R44). -/
structure EvtSt where
  pend : BitVec 64 := 0
  vec : Tab VecSt := []
deriving DecidableEq, Repr

/-- Where an accepted command came from: a submission ring with its index, or a YCP session with its SEQ (R53, R81). -/
inductive CmdSrc where
  | ring (r : Fin 4) (index : BitVec 12)
  | ycp (s : Fin 4) (seq : Word)
deriving DecidableEq, Repr

/-- The commands of Table 3-7 with their operands; `none` in a buffer is a host-memory read error (R56). -/
inductive HostOp where
  | regBatch (list : Option (List DWord)) (count : BitVec 16) (cont : Bool)
  | moveAbs (axis : Word) (pos vel acc dec jerk : DWord)
  | moveRel (axis : Word) (dist vel acc dec jerk : DWord)
  | moveVel (axis : Word) (vel acc dec jerk : DWord)
  | stop (axis : Word) (kind : Byte)
  | resume (axis : Word)
  | home (axis : Word) (method flags : Byte) (search creep accel offset : DWord)
  | enable (axis : Word) (en : Byte)
  | groupMove (group : Word) (targets : Option (List DWord)) (count : Byte) (relative : Bool) (vel acc dec jerk : DWord)
  | hitchSet (hitch : Word) (record : BitVec 256)
  | hitchRelease (hitch : Word) (ramp : Bool)
  | camLoad (first count : Word)
  | camVerify (first count crc : Word)
  | fcoLoad (mask len : Word)
  | traceStart
  | traceStop
  | faultClear (page : Word)
  | saveTest
deriving DecidableEq, Repr

/-- A decoded submission entry (Table 3-2). -/
structure HostCmd where
  src : CmdSrc
  tag : Byte
  startAt : Bool := false
  fence : Bool := false
  start : Stamp := {}
  op : HostOp
deriving DecidableEq, Repr

/-- An accepted command that has not completed (R57, R65): `running` once it has taken effect. -/
structure InFlight where
  id : Nat
  cmd : HostCmd
  running : Bool := false
  late : Bool := false
deriving DecidableEq, Repr

/-- A completion (Table 3-3); `src` gives RING and SQ_INDEX. -/
structure Completion where
  /-- The acceptance number of its command. -/
  id : Nat := 0
  src : CmdSrc
  tag : Byte
  status : Byte
  detail : Byte := 0
  late : Bool := false
  result : DWord := 0
deriving DecidableEq, Repr

/-- One submission ring beyond its registers (R53, R55, R56). -/
structure Sq where
  head : Nat := 0
  tail : Nat := 0
  halted : Bool := false
  resize : Option Nat := none
  errKind : Nat := 0
  errVal : Nat := 0
deriving DecidableEq, Repr

/-- The command engine (R48 to R67). -/
structure CmdSt where
  sq : Tab Sq := []
  cqHead : Nat := 0
  cqTail : Nat := 0
  cqPhase : Bool := true
  /-- Posted, unconsumed completion entries (R58). -/
  cqPosted : Nat := 0
  cqResize : Option Nat := none
  full : Bool := false
  inflight : List InFlight := []
  nextId : Nat := 0
  /-- Completions decided while the completion ring is not enabled wait here (R67). -/
  waiting : List Completion := []
  /-- The retained store of held completions (R67). -/
  held : List Completion := []
  /-- Held completions are being posted, so nothing is fetched yet (R67). -/
  posting : Bool := false
deriving DecidableEq, Repr

/-- The network side of one line port (R68 to R74). -/
structure NetPort where
  link : Bool := false
  anDone : Bool := false
  remoteFault : Bool := false
  syncOk : Bool := false
  /-- The eight egress queues, highest number first out (R71). -/
  queues : Tab (List EthFrame) := []
  /-- The entry of the gate control list in force, and the device time in ns at which its cycle began (R72). -/
  gclIdx : Nat := 0
  gclSince : Nat := 0
  /-- The apply point of a requested list: a cycle start in device ns (R73). -/
  gclAt : Nat := 0
  /-- MDIO access in progress (R92). -/
  mdioBusy : Bool := false
  /-- Frames that NET_CTL.LOOPBACK returns to the port's receiver, and whether each is intact (R92). -/
  loop : List (EthFrame × Bool) := []
  /-- The device time in ns of the cycle start at which the running list takes the new time after a step (R73). -/
  gclRephase : Option Nat := none
  lastFcs : Option Nat := none
deriving DecidableEq, Repr

/-- The switch and the line ports (R68 to R74). -/
structure NetSt where
  ports : Tab NetPort := []
  /-- The learning table: address, port and the time of the last frame (R69). -/
  learned : List (BitVec 48 × Fin 5 × Nat) := []
  /-- Bytes of the 512 KiB network buffer in use (R69). -/
  bufUsed : Nat := 0
deriving DecidableEq, Repr

/-- The session states of Table 4-4. -/
inductive SesState where
  | closed | pending | opened
deriving DecidableEq, Repr

/-- The operations of a YCP REQUEST (Table 4-5). -/
inductive YcpKind where
  | read | write | readBlock | writeBlock | command
deriving DecidableEq, Repr

/-- A YCP REQUEST as an accepted request holds it; `buf` is the operand buffer of a COMMAND's entry. -/
structure YcpOp where
  kind : YcpKind
  body : YcpBody
  buf : Option (List DWord) := some []
deriving DecidableEq, Repr

/-- A RESPONSE body (Table 4-5). -/
structure YcpResp where
  seq : Word
  status : Byte
  detail : Byte := 0
  count : Nat := 0
  addr : Word := 0
  data : List Word := []
  completion : Option Completion := none
deriving DecidableEq, Repr

/-- One YCP session (R78 to R85). -/
structure Session where
  state : SesState := .closed
  keySlot : Nat := 0
  clientNonce : BitVec 128 := 0
  devNonce : BitVec 128 := 0
  key : BitVec 128 := 0
  ip : Word := 0
  port : BitVec 16 := 0
  exp : Word := 0
  alive : Word := 0
  /-- The time of the last authentic datagram (R79). -/
  lastAuth : Nat := 0
  /-- Requests held above a gap (R80). -/
  held : List (Word × YcpOp) := []
  /-- The replay cache: the 64 most recent responses, newest first (R80). -/
  cache : List YcpResp := []
  eventSeq : Word := 1
  lastError : Option Nat := none
deriving DecidableEq, Repr

/-- The YCP page's sessions and the YCP_ORPHAN FIFO (R83). -/
structure YcpSt where
  ses : Tab Session := []
  /-- Frames that the endpoint has handed to the switch and that the switch has not taken in at port 4. -/
  sendq : List EthFrame := []
  orphans : List (Byte × Byte) := []
deriving DecidableEq, Repr

/-- The subscription states of R89. -/
inductive SubState where
  | idle | valid | estimating | lost
deriving DecidableEq, Repr

/-- One subscription (R88 to R90): the newest sample (time in device ns, FRAME_SEQ, COUNT), and of each entry its newest value, the
velocity before it and the time of its sample. `period` is the sample time of the publish period judged last. -/
structure Sub where
  state : SubState := .idle
  misses : Nat := 0
  adopted : Bool := false
  epoch : Word := 0
  seq : Word := 0
  sampleT : Nat := 0
  ndiv : Nat := 1
  count : Nat := 0
  entries : List HitchEntry := []
  prevVel : List Int := []
  times : List Nat := []
  period : Nat := 0
  masterFault : Bool := false
deriving DecidableEq, Repr

/-- The publisher and the subscriptions (R86 to R90). -/
structure HfrSt where
  epoch : Word := 0
  pubSeq : Word := 0
  /-- HFR_CTL in force since the last frame knot (R95). -/
  ctl : Word := 0x00060000
  restart : Bool := true
  stepFlag : Bool := false
  /-- A sampled frame waits to be queued, since this time (R87). -/
  sampled : Option (Nat × Stamp × List HitchEntry) := none
  subs : Tab Sub := []
  /-- Hitches whose block for the next knot still waits for a frame that may arrive within 1.0 µs of the present one (R25). -/
  held : List Nat := []
deriving DecidableEq, Repr

end Sys2Proof.Machine
end

