-- ==== Sys2Proof/Machine/StMotion.lean ====
section
/-!
DEFINITION. The state of the motion planner (chapters 6 and 7), as plain data: axes, groups, hitches, latches, compares, step
generators and the cam engine. Positions are counts, velocities counts/s, and so on, as exact rationals whose rounding the
operations fix (R5, R125).
-/

namespace Sys2Proof.Machine

/-- A set-point block: position, velocity, acceleration (R125). -/
structure Sp where
  p : Rat := 0
  v : Rat := 0
  a : Rat := 0
deriving DecidableEq, Repr

/-- A segment of constant jerk with its start values (R125). -/
structure Seg where
  dur : Rat
  p : Rat
  v : Rat
  a : Rat
  j : Rat
deriving DecidableEq, Repr

/-- A profile: its segments, and the state it ends in, a position held for ever or a constant velocity (R125, R131). -/
structure Plan where
  segs : List Seg
  total : Rat
  endP : Rat
  endV : Rat := 0
  /-- Profile time of the present knot. -/
  t : Rat := 0
deriving DecidableEq, Repr

/-- The limits a profile runs under: velocity, acceleration, deceleration, jerk (0 = no jerk limit). -/
structure Lim where
  v : Rat := 0
  a : Rat := 0
  d : Rat := 0
  j : Rat := 0
deriving DecidableEq, Repr

/-- The kinds of stop of Table 6-3. -/
inductive StopKind where
  | slack | quick | limit | drop
deriving DecidableEq, Repr

/-- The move an axis runs, or the interrupted one it keeps for RESUME: the command, its original operands, its target. -/
structure Run where
  /-- The in-flight command; 0 = none (an activity whose command has completed). -/
  id : Nat := 0
  op : HostOp
  /-- The limits in force for it (R128). -/
  lim : Lim := {}
  target : Rat := 0
  /-- The overshoot of R133, the RESULT of the completion. -/
  result : Rat := 0
  /-- The command was resumed, so it completes with RESULT 0 (R139). -/
  resumed : Bool := false
  /-- MOVE_VEL has completed and its velocity is kept (R131, R139). -/
  vdone : Bool := false
  /-- A code that ends the move FAILED when the axis comes to rest (R136). -/
  failCode : Byte := 0
deriving DecidableEq, Repr

/-- A stop that runs (R137, R138): its kind, whether a reaction or limit governs it, the code of the fault that caused it (0 = host),
the STOP commands that complete at rest, and whether the axis then enters FAULT. -/
structure StopSt where
  kind : StopKind
  reaction : Bool := false
  code : Byte := 0
  toFault : Bool := false
  /-- The interrupted command completes FAILED, not INTERRUPTED (limit stops, HOME). -/
  failed : Bool := false
  ids : List Nat := []
  /-- The deceleration and jerk in force where they are not those of the kind: a software limit stop, a stop at QUICK_DEC on a limit, the
  stop at ACCEL of a search (R135, R136, R144). -/
  lim : Option Lim := none
  /-- A code latched as the axis comes to rest (R144: 0x16); 0 = none. -/
  restCode : Byte := 0
  /-- ESTIMATE_STOP: the deceleration runs on the model estimate (R224). -/
  estimate : Bool := false
  since : Nat := 0
deriving DecidableEq, Repr

/-- The homing sequence of an axis (R142 to R146). -/
structure HomeSt where
  id : Nat := 0
  method : Nat := 0
  flags : Byte := 0
  search : Rat := 0
  creep : Rat := 0
  accel : Rat := 0
  offset : Rat := 0
  /-- 0 = idle, else HOME_PHASE of Table 6-6. -/
  phase : Nat := 0
  reversed : Bool := false
  /-- The limit stop of a reversal runs (R144). -/
  reversing : Bool := false
  start : Rat := 0
  edge : Option Rat := none
  /-- The home edge of methods 7 and 8 has been latched. -/
  homeSeen : Bool := false
  /-- End of the dwell after a latched edge (R145). -/
  dwellEnd : Option Nat := none
deriving DecidableEq, Repr

/-- One entry of a latch FIFO, and the last latch (R173, R174). -/
structure LatEntry where
  seq : BitVec 16 := 0
  extrap : Bool := false
  rising : Bool := false
  pos : Rat := 0
  ns : Nat := 0
  s : Nat := 0
deriving DecidableEq, Repr

/-- One latch unit (R172 to R174). -/
structure LatSt where
  armed : Bool := true
  valid : Bool := false
  last : LatEntry := {}
  ovf : Nat := 0
  fifo : List LatEntry := []
  /-- Edges whose position is known and that the next frame knot writes, oldest first. -/
  pend : List LatEntry := []
deriving DecidableEq, Repr

/-- A schedule sent ahead for a compare (R177): switching time in device nanoseconds, the tag and the output. -/
structure CmpSched where
  time : Nat
  tag : BitVec 16
  output : Nat
  action : Nat
  width : Nat
  /-- The modulator has switched the spare output; the crossing has been found although the switching still lies ahead. -/
  switched : Bool := false
  confirmed : Bool := false
deriving DecidableEq, Repr

/-- One compare unit (R175 to R178). `pos` is C as REPEAT moves it. -/
structure CmpSt where
  armed : Bool := false
  behind : Bool := false
  late : Bool := false
  mispredict : Bool := false
  valid : Bool := false
  seq : BitVec 16 := 0
  pos : Rat := 0
  /-- The crossing variable x at the last knot, for the crossing test. -/
  xPrev : Option Rat := none
  /-- Switchings sent ahead and not yet confirmed, oldest first. -/
  sched : List CmpSched := []
  /-- CMP_CTL or CMP_POS was written since the last apply (R176). -/
  written : Bool := false
  /-- Crossings of earlier frames beyond the four per frame (R178): their times. -/
  backlog : List Nat := []
  tNs : Nat := 0
  tS : Nat := 0
  /-- The end of a pulse on the spare gate output, in device nanoseconds (R175). -/
  spareEnd : Option Nat := none
deriving DecidableEq, Repr

/-- The step generator of a pulse axis (R179 to R181). -/
structure StepSt where
  /-- Commanded steps issued. -/
  count : Int := 0
  /-- The phase accumulator, below 2^48. -/
  phase : Nat := 0
  inc : Nat := 0
  /-- DIR: true = negative. -/
  neg : Bool := false
  /-- Ticks of the frame already accounted for. -/
  ticks : Nat := 0
  /-- A step was due within DIR_SETUP of the DIR edge and waits. -/
  wait : Bool := false
  clamping : Bool := false
  clampRun : Nat := 0
  clamped : Nat := 0
  /-- Steps stopped by a drop stop. -/
  dropped : Bool := false
deriving DecidableEq, Repr

/-- One axis (R121 to R150). -/
structure Axis where
  state : AxState := .disabled
  torque : Bool := false
  referenced : Bool := false
  posSuspect : Bool := false
  stopLengthened : Bool := false
  settled : Bool := false
  slackKept : Bool := false
  /-- Set-point blocks: of the present knot, of the next one (committed), and the two before the present. -/
  cur : Sp := {}
  nxt : Sp := {}
  old1 : Sp := {}
  old2 : Sp := {}
  /-- The next block without the part of a SUPERIMPOSE hitch (R161). -/
  base : Sp := {}
  /-- Set-points at the last frame knots, newest first: device time in ns, position, velocity (R173). -/
  hist : List (Rat × Rat × Rat) := []
  target : Rat := 0
  plan : Option Plan := none
  run : Option Run := none
  /-- The interrupted activity that RESUME restarts (R139). -/
  kept : Option Run := none
  stop : Option StopSt := none
  home : HomeSt := {}
  /-- ENABLE waits for its knot: the command's id. -/
  enabling : Option Nat := none
  /-- A HOLD_PATH reaction waits for the end of the move (Table 6-2). -/
  holdPend : Bool := false
  /-- Settled frames counted for the in-position condition (R130). -/
  settle : Nat := 0
  waiting : Bool := false
  /-- The planner was late in the last frame (R22). -/
  late : Bool := false
  /-- Limit inputs as the last qualified edge left them. -/
  limPos : Bool := false
  limNeg : Bool := false
  /-- A qualified limit edge waits for the knot where its stop starts (R141): the positive limit, or the negative one. -/
  limEdge : Option Bool := none
  sto : Bool := false
  /-- Offset from feedback counts to the axis coordinate (R146). -/
  fbOfs : Rat := 0
  /-- The master value SRC 1 gives for the present block: the feedback of the knot before, advanced (R160). -/
  fbAhead : Rat := 0
  /-- A reaction of class 4 to 6 ends the running command FAILED with this code at the pulse block (R122). -/
  blockCode : Option Byte := none
  /-- The kind of the last stop (R147): 0 none, 1 slack, 2 quick, 3 limit, 4 drop. -/
  lastStop : Nat := 0
  step : StepSt := {}
  lat : Tab LatSt := []
  cmp : Tab CmpSt := []
deriving DecidableEq, Repr

/-- The group states of Table 7-7. -/
inductive GrpState where
  | idle | moving | stopping | slack | broken
deriving DecidableEq, Repr

/-- One interpolation group (R151 to R157). -/
structure Group where
  state : GrpState := .idle
  /-- Membership in force, in entry order. -/
  members : List Nat := []
  lead : Nat := 0
  /-- Path coordinate profile, start points, distances and length of the running path. -/
  plan : Option Plan := none
  start : List Rat := []
  delta : List Rat := []
  len : Rat := 0
  /-- The path limits in force (R153). -/
  lim : Lim := {}
  s : Sp := {}
  sNext : Sp := {}
  slack : Rat := 0
  run : Option Run := none
  kept : Option Run := none
  stop : Option StopSt := none
  /-- A replacing GROUP_MOVE waits for the old path to come to rest (R155): its id, command, targets, and s at the replacement. -/
  next : Option (Nat × HostOp × List Rat × Rat) := none
  result : Rat := 0
  waiting : Bool := false
deriving DecidableEq, Repr

/-- The kinds of hitch (Table 7-2). -/
inductive HitKind where
  | gear | line | cam | superimpose
deriving DecidableEq, Repr

/-- The states of a hitch (Table 7-8). -/
inductive HitState where
  | free | engaging | engaged | disengaging | suspended | fault
deriving DecidableEq, Repr

/-- A decoded hitch record (Table 7-2). -/
structure HitRec where
  kind : HitKind := .gear
  src : Nat := 0
  master : Nat := 0
  slave : Nat := 0
  entry : Nat := 0
  reaction : Nat := 2
  ramp : Nat := 0
  num : Int := 0
  den : Nat := 1
  offset : Rat := 0
  first : Nat := 0
  mPhase : Nat := 0
deriving DecidableEq, Repr

/-- One cam node, decoded (Table 7-5). -/
structure CamNode where
  m : Nat := 0
  s : Rat := 0
  v : Rat := 0
  typ : Nat := 0
  rsv : Bool := false
deriving DecidableEq, Repr

/-- One hitch (R158 to R166). -/
structure Hitch where
  state : HitState := .free
  raw : BitVec 256 := 0
  cfg : HitRec := {}
  setId : Nat := 0
  relId : Nat := 0
  resId : Nat := 0
  /-- The weight restarts at a release (R163): true while DISENGAGING on a ramp. -/
  ramping : Bool := false
  /-- A CAM HITCH_SET that waits for its cam read: the command's id, then the read's outcome. -/
  reading : Option Nat := none
  readDone : Bool := false
  camEnd : Nat := 0
  camP : Nat := 0
  camR : Rat := 0
  segIdx : Nat := 0
  /-- p_e, the master value of the last block, D of R162, Σ w Δm, and the coupled part of the slave set-point. -/
  pe : Rat := 0
  mPrev : Rat := 0
  dist : Rat := 0
  sum : Rat := 0
  part : Sp := {}
  partNext : Sp := {}
  /-- Release: the frozen slope and the D of the release; a slack stop in place of a ramp. -/
  sigma : Rat := 0
  relDist : Rat := 0
  relStop : Option Plan := none
  /-- The displacement that SUPERIMPOSE hitches of the slave have left to a LINE or CAM law (R161, R163). -/
  shift : Rat := 0
  overRun : Nat := 0
  /-- The hitch has been freed of its motion and its slave makes a quick stop of host kind (Table 7-4). -/
  engagedOnce : Bool := false
deriving DecidableEq, Repr

/-- The cam engine (R171): the command that runs, those that wait, in acceptance order. -/
structure CamSt where
  /-- id, load?, first, count, expected CRC. -/
  active : Option (Nat × Bool × Nat × Nat × Word) := none
  queue : List (Nat × Bool × Nat × Nat × Word) := []
  crc : Word := 0
  bad : Nat := 0
  badNode : Nat := 0
deriving DecidableEq, Repr

end Sys2Proof.Machine
end

