-- ==== Sys2Proof/Machine/StDrive.lean ====
section
/-!
DEFINITION. The state of the loop engines, supervision, bus groups, modulators, feedback channels, sensorless drives and
converters (chapters 8 to 13), as plain data. Times are real nanoseconds of `ClkSt.now` unless a field says otherwise.
-/

namespace Sys2Proof.Machine

/-- One stage of an axis in block-floating form (R189): the exponent and the count of evaluations with small mantissas. -/
structure StageExp where
  e : Int := 0
  small : Nat := 0
  /-- A mantissa saturated at E = +31 in the last evaluation. -/
  sat : Bool := false
deriving DecidableEq, Repr

/-- The loop-engine state of one axis (R195 to R211). Signals are the values their mantissas stand for. -/
structure LoopAx where
  ePos : StageExp := {}
  eVel : StageExp := {}
  eCur : StageExp := {}
  eMdl : StageExp := {}
  /-- Position and velocity stage. -/
  posErr : Rat := 0
  vCmd : Rat := 0
  vF : Rat := 0
  iV : Rat := 0
  z1 : List Rat := [0, 0]
  z2 : List Rat := [0, 0]
  bypass : List Bool := [true, true]
  uStage : Rat := 0
  /-- Current set-points in use, and those of the frame that samples after sample 0 use (R21). -/
  iqRef : Rat := 0
  idRef : Rat := 0
  /-- Current stage. -/
  iD : Rat := 0
  iQ : Rat := 0
  id : Rat := 0
  iq : Rat := 0
  iAlpha : Rat := 0
  iBeta : Rat := 0
  vD : Rat := 0
  vQ : Rat := 0
  theta : Rat := 0
  omega : Rat := 0
  eD : Rat := 0
  eQ : Rat := 0
  /-- Model stage: x̂ in Q40.24 counts, v̂, τ̂, î_q, the residuals and the prediction handed to supervision. -/
  xHat : Rat := 0
  vHat : Rat := 0
  tau : Rat := 0
  iqHat : Rat := 0
  resid : Rat := 0
  iResid : Rat := 0
  pred : Rat := 0
  /-- Gains of the last evaluation (R206). -/
  kvp : Rat := 0
  kcp : Rat := 0
  slewI : Bool := false
  slewV : Bool := false
  frozen : Bool := false
  vLimited : Bool := false
  iLimited : Bool := false
  regen : Bool := false
  /-- Frames of MODEL_SETTLING left (R207). -/
  settling : Nat := 0
  /-- A hand-over of the velocity stage with this u_prev happens at this frame knot (R208), and of the current stage. -/
  handI : Option Rat := none
  handV : Option (Rat × Rat) := none
  handFrame : Bool := false
  /-- Causes raised in this frame: VLIMIT, ILIMIT, REGEN_CLAMP (R214). -/
  raised : Nat := 0
  activeFrames : Nat := 0
  obs : List Word := []
deriving DecidableEq, Repr

/-- One loop engine (R188, R203, R23). -/
structure LpeSt where
  /-- Ports of the quarter that missed their apply point at the last sample. -/
  missRun : Nat := 0
  /-- A duty set missed its apply point since the last sample. -/
  missed : Bool := false
  halted : Bool := false
deriving DecidableEq, Repr

/-- Supervision of one axis (R219 to R226). -/
structure SupAx where
  /-- SUP_CTL to SUP_CNT, offsets 0x200 to 0x22C, as the last frame knot took them (R238). -/
  regs : List Word := []
  feRun : Nat := 0
  feWarn : Bool := false
  posCnt : Nat := 0
  curCnt : Nat := 0
  ovsRun : Nat := 0
  /-- The last feedback position and since when it has stood while |v̂| was above SUP_FRZ_VMIN (R223). -/
  lastPos : Rat := 0
  stillSince : Option Nat := none
  fbLost : Bool := false
  fbFrozen : Bool := false
  estimating : Bool := false
  estSince : Nat := 0
  /-- Frames since torque came on (R226). -/
  torqueFrames : Nat := 0
  /-- The reaction class in force and its code (R217). -/
  cls : Nat := 0
  code : Byte := 0
  reacting : Bool := false
  /-- The brake output is commanded on (released). -/
  brakeOn : Bool := false
deriving DecidableEq, Repr

/-- One bus group (R227 to R236). -/
structure BusSt where
  configured : Bool := false
  v : Rat := 0
  vMax : Rat := 0
  chopOn : Bool := false
  /-- The chopper window: its start and the voltage there (R231). -/
  window : Option (Nat × Rat) := none
  clamp : Bool := false
  undervolt : Bool := false
  tripped : Bool := false
  tripIn : Bool := false
  brkfb : Bool := false
  measOk : Bool := false
  chopTime : Nat := 0
  chopSince : Nat := 0
  /-- Fault codes latched since the last accepted clear (R230, R232). -/
  latched : List Byte := []
deriving DecidableEq, Repr

/-- A duty set (R247). -/
structure Duty where
  u : Nat := 0
  v : Nat := 0
  w : Nat := 0
deriving DecidableEq, Repr

/-- One edge of a gate output: its time after the period boundary in 125 ps, the output, and whether it becomes active (R250). -/
structure GateEdge where
  t : Int
  gate : Nat
  on : Bool
deriving DecidableEq, Repr

/-- The carrier period that runs (R244 to R250): the real time of its boundary, its length and MOD_PERIOD in force at its boundary, both in 2^-8 tick, the tick by which the
next period differs (R117), its edges, and which switch of each phase is on at its boundary, its centre and its end: the high one, the low one, or
neither. -/
structure CarSt where
  since : Nat := 0
  per : Nat := 0
  nom : Nat := 0
  trim : Int := 0
  edges : List GateEdge := []
  first : List (Option Bool) := [none, none, none]
  mid : List (Option Bool) := [none, none, none]
  last : List (Option Bool) := [none, none, none]
deriving DecidableEq, Repr

/-- One modulator (R241 to R268). -/
structure ModSt where
  shadow : Duty := {}
  /-- A set written and not yet applied, and since how many samples (R23, R248). -/
  pendingSet : Bool := false
  duty : Duty := {}
  carrier : Bool := false
  /-- OC latches of phases U, V, W; those a clear has released until the next boundary (R260). -/
  oc : List Bool := [false, false, false]
  ocClear : Bool := false
  ext : Bool := false
  extClear : Bool := false
  sto : Bool := false
  safeHeld : Bool := false
  /-- Pulse block in force, and one that waits for the next apply point with the brake it applies (R263, R218). -/
  block : Bool := true
  blockReq : Bool := false
  brakeReq : Bool := false
  /-- After an STO release outputs stay inactive until the axis is enabled again (R264). -/
  stoHold : Bool := false
  calOk : Bool := false
  calSince : Nat := 0
  /-- EN was written 1 before the calibration ended (R252). -/
  enHeld : Bool := false
  fallback : Bool := false
  lockSince : Option Nat := none
  code : Byte := 0
  code0 : Byte := 0
  m : Nat := 0
  narrowRaised : Bool := false
  /-- Level of the output a compare switches (R258). -/
  cmpLevel : Bool := false
  halted : Bool := false
  /-- EN has been 1 once since reset: until then the outputs are high-impedance (R499). -/
  driven : Bool := false
  /-- SYS was lost at the last period boundary (Table 10-3, row 4). -/
  sysHeld : Bool := false
  /-- Carrier trim (R117): phase error of the last sample in 125 ps, and frames above 1 µs. -/
  phaseErr : Int := 0
  bigErr : Nat := 0
  car : CarSt := {}
deriving DecidableEq, Repr

/-- The tooth reference states of Table 11-2. -/
inductive Tooth where
  | search | check | sync
deriving DecidableEq, Repr

/-- One feedback channel (R269 to R294). -/
structure FbkSt where
  count : Int := 0
  valid : Bool := false
  lost : Bool := false
  standstill : Bool := true
  neg : Bool := false
  f0 : Bool := false
  f1 : Bool := false
  f2 : Bool := false
  /-- The first latch instant after enable has not come yet (R270). -/
  fresh : Bool := true
  /-- Position and speed as delivered at the last latch instant, and at the last frame knot (R272). -/
  pos : Rat := 0
  vel : Rat := 0
  posK : Rat := 0
  velK : Rat := 0
  /-- Positions at the last latch instants, newest first: device time in ns, position, velocity (R173). -/
  hist : List (Rat × Rat × Rat) := []
  /-- Speed (R283): reference edge, last edge, an edge before the last reversal is discarded. -/
  ref : Option (Int × Nat) := none
  last : Option (Int × Nat) := none
  newEdges : Bool := false
  /-- Illegal transitions kept (R275), newest first; the cause was raised in this frame. -/
  bad : List Nat := []
  lastBad : Option Nat := none
  qerrRaised : Bool := false
  /-- HALL: the last valid sector, and frame knots with an invalid code in a row (R278). -/
  sector : Option Nat := none
  badKnots : Nat := 0
  /-- TOOTH (R279 to R281): times of the last two edges, teeth since the reference, the counted edge before an extra tooth. -/
  tooth : Tooth := .search
  t1 : Option Nat := none
  t2 : Option Nat := none
  teeth : Nat := 0
  /-- SSI (R284 to R287): last good field and t_0, speed, error run, error kind, a fifth check that waits, its deadline. -/
  field : Option Nat := none
  t0 : Nat := 0
  word : BitVec 48 := 0
  ssiVel : Rat := 0
  errRun : Nat := 0
  lastOk : Bool := false
  reading : Option (Nat × Bool) := none
  idleDue : Option Nat := none
  /-- A late return to idle counts as an error of the next read (R285). -/
  lateIdle : Bool := false
  wordSince : Nat := 0
  ssiWarn : Bool := false
  halted : Bool := false
deriving DecidableEq, Repr

/-- The states of Table 12-3. -/
inductive SnlState where
  | off | idle | catching | aligning | ramp | run | coast | fault
deriving DecidableEq, Repr

/-- One sensorless drive (R295 to R314). Angles are in turns. -/
structure SnlSt where
  state : SnlState := .off
  since : Nat := 0
  theta : Rat := 0
  omega : Rat := 0
  eAlpha : Rat := 0
  eBeta : Rat := 0
  eMag : Rat := 0
  /-- Position and speed delivered in place of feedback, counts. -/
  pos : Rat := 0
  vel : Rat := 0
  thetaPrev : Rat := 0
  omegaPrev : Rat := 0
  iAlphaPrev : Rat := 0
  iBetaPrev : Rat := 0
  /-- The angle handed to the loop engine (R299). -/
  outAngle : Rat := 0
  /-- Open-loop angle and the angle slewing toward θ̂ (R306). -/
  thetaOl : Rat := 0
  slewing : Bool := false
  syncRun : Nat := 0
  takeover : Bool := false
  lossRun : Nat := 0
  /-- Crossings: times and kinds of the last ones, newest first; the expected crossing and those missed in a row (R300). -/
  cross : List (Nat × Nat) := []
  missed : Nat := 0
  /-- The line voltages (uv, vw, wu) of the last sample and its time, for interpolation. -/
  linePrev : List Rat := []
  linePrevT : Nat := 0
  fails : Nat := 0
  runReq : Bool := false
  inhibit : Bool := false
  /-- The inhibit has seen x fall below V_OFF (R309). -/
  inhibitLow : Bool := false
  cmdLost : Bool := false
  testRefused : Bool := false
  x : Rat := 0
  fLocal : Rat := 0
  lastEdge : Option Nat := none
  lastRise : Option Nat := none
  highTime : Nat := 0
  /-- A STOP that brings the frequency down (R309): its id and kind. -/
  stopId : Option Nat := none
  stopDec : Rat := 0
  test : Bool := false
  testErr : Option Rat := none
  lostMeas : Bool := false
deriving DecidableEq, Repr

/-- The converter states of Table 13-5. -/
inductive AdcMode where
  | idle | calibrating | covered | covering
deriving DecidableEq, Repr

/-- One SAR converter (R315 to R329). -/
structure AdcSt where
  mode : AdcMode := .idle
  calValid : Bool := false
  calSince : Option Nat := none
  /-- A power-on calibration runs (R323); a covered one waits for its frame knot (R326); cover ends at the next knot. -/
  powerOn : Bool := false
  coverReq : Bool := false
  coverEnd : Bool := false
  spliceCal : Bool := false
  /-- A splice's calibration passed, and waits for the end of its cover. -/
  splicePass : Bool := false
  refBad : Bool := false
  halted : Bool := false
  /-- The knot list is pending or running until this time (R318). -/
  knotUntil : Nat := 0
  knotPend : Bool := false
  delayedRaised : Bool := false
  seq : BitVec 16 := 0
  /-- Result, validity, SHIFTED, instant (device ns), and the real time of the last conversion of each input. -/
  res : Tab (Nat × Bool × Bool × Nat × Nat) := []
deriving DecidableEq, Repr

/-- One sigma-delta channel (R330 to R336): its bits, newest first, how many have come since it was enabled. -/
structure SdfCh where
  bits : List Bool := []
  got : Nat := 0
  d : Int := 0
  valid : Bool := false
  asserted : Bool := false
  ocRun : Nat := 0
  stuck : Bool := false
  ocRaised : Bool := false
deriving DecidableEq, Repr

end Sys2Proof.Machine
end

