-- ==== Sys2Proof/Machine/StSys.lean ====
section
/-!
DEFINITION. The state of memory integrity, power and save, lifecycle, debug and splicing (chapters 19 to 22), as plain data.
-/

namespace Sys2Proof.Machine

/-- One entry of the memory error log (Table 19-3). -/
structure ElogEntry where
  syndrome : BitVec 9 := 0
  region : Nat := 0
  ue : Bool := false
  misaddr : Bool := false
  scrub : Bool := false
  addr : Nat := 0
deriving DecidableEq, Repr

/-- The MEM page beyond its registers (R440, R448). -/
structure MemCtlSt where
  trained : Bool := false
  dramOk : Bool := false
  selfRefresh : Bool := false
  hot : Bool := false
  failStep : Nat := 0
  /-- Fitted DRAM initialised so far, GiB (R440). -/
  initGiB : Nat := 0
  elog : List ElogEntry := []
  /-- Armed injections: region to number of bits (R448). -/
  inj : Tab Nat := []
  lastAccess : Nat := 0
  lastRefresh : Nat := 0
  lastTemp : Nat := 0
  lastZq : Nat := 0
deriving DecidableEq, Repr

/-- The scrubber (R447): the next word of the SRAM pass and of the DRAM pass, when each pass began. -/
structure ScbSt where
  sramPos : Nat := 0
  dramPos : Nat := 0
  sramSince : Nat := 0
  dramSince : Nat := 0
  halted : Bool := false
  sramLate : Bool := false
  dramLate : Bool := false
deriving DecidableEq, Repr

/-- What a save image carries (R461): the register file and the page enables of the saved pages, the axis items of R147, the
published epoch, the last record time, and the commands in flight with the completions already decided. -/
structure SaveImg where
  regs : Tab Word := []
  enabled : List Nat := []
  /-- Axis items (R147): number, set-point, target and REFERENCED. -/
  axes : List (Nat × Rat × Rat × Bool) := []
  integ : Word := 0
  epoch : Word := 0
  traceTime : Nat := 0
  ring : List Completion := []
  ycp : List (Byte × Byte) := []
deriving DecidableEq, Repr

/-- Keep memory (R441, R449): the save area as written and the wrapped key records. -/
structure KeepSt where
  present : Bool := false
  mib : Nat := 0
  /-- End of the boot image applied at start-up. -/
  bootEnd : Nat := 0
  /-- A START record stands; a marker with its kind (true = SAVE, false = TEST) and the image. -/
  startRec : Bool := false
  /-- Where the save area lay when it was written. -/
  base : Nat := 0
  marker : Option Bool := none
  image : Option SaveImg := none
  /-- PUB_EPOCH as keep memory holds it (R87). -/
  epoch : Word := 0
  /-- YCP keys wrapped under the device-unique key (R473). -/
  psk : Tab (Option (BitVec 128)) := []
deriving DecidableEq, Repr

/-- Power states (R480). -/
inductive Power where
  | run | hold | doze | save
deriving DecidableEq, Repr

/-- The PWR page beyond its registers (R459 to R467, R480). -/
structure PwrSt where
  state : Power := .run
  /-- A state change waits for the next frame knot. -/
  req : Option Power := none
  sag : Bool := false
  saveCapable : Bool := false
  lastSave : Nat := 0
  notSaved : Bool := false
  bootedFromKeep : Bool := false
  bootFail : Bool := false
  /-- TIM_INTEG of the save image restored at start-up (R99). -/
  savedInteg : Word := 0
  /-- The save that runs: since when, and whether it ends with an image. -/
  saveSince : Option Nat := none
  saveFailed : Bool := false
  /-- Start-up has passed step 3 of Table 20-3, and is complete (step 7). -/
  started : Bool := false
  booted : Bool := false
  resetAt : Nat := 0
  /-- SAVE_TEST that runs: the command's id. -/
  test : Option Nat := none
deriving DecidableEq, Repr

/-- The lifecycle and the key store (R470 to R475). -/
structure SecSt where
  /-- 0 BLANK, 1 OPEN, 2 SEALED, 3 SCRAPPED. -/
  life : Nat := 0
  slots : Tab (BitVec 512) := []
  programmed : BitVec 4 := 0
  revoked : BitVec 4 := 0
  psk : Tab (Option (BitVec 128)) := []
  /-- Which words of SEC_OWNER_HASH were written since reset (R471, Table 21-7) and their values, whether an owner hash is fused, and
  which. -/
  ownerHash : BitVec 8 := 0
  ownerWords : Tab Word := []
  ownerFused : Bool := false
  fusedOwner : Tab Word := []
  /-- A transition that programs its fuses: the next state, since when, and the path that asked. -/
  busy : Option (Nat × Nat × Path) := none
  /-- A transition was cut off (R471). -/
  cutOff : Bool := false
  challenge : Option (BitVec 128 × Nat) := none
  lockout : Option Nat := none
  scrapAuth : Option Nat := none
  /-- SEC_CMD_RES per path code. -/
  res : Tab Nat := []
deriving DecidableEq, Repr

/-- The debug level, the UART and the halts (R475 to R479). -/
structure DbgSt where
  level : Nat := 0
  byToken : Bool := false
  issuer : Bool := false
  /-- When the level lapses. -/
  expiry : Option Nat := none
  plannerHalt : Bool := false
  /-- The last UART request run and its response: status and data (R478). -/
  uartLast : Option (UartReq × Byte × Word) := none
  /-- Bytes of a partial request are in the receiver, since this time. -/
  uartPartial : Option Nat := none
deriving DecidableEq, Repr

/-- FCO_LOAD (R361, R486): the command that runs with its core mask, those that wait with theirs, the image once its checks have
passed, the cores spliced so far, and the core that splices now. -/
structure FcoJob where
  active : Option (Nat × Nat × Nat) := none
  queue : List (Nat × Nat × Nat) := []
  image : Option (List Byte) := none
  spliced : Nat := 0
  cur : Option Nat := none
deriving DecidableEq, Repr

/-- The splice log and what splices hold (R484 to R491). -/
structure SplSt where
  /-- Page number and outcome, oldest first. -/
  log : List (Nat × Nat) := []
  done : Nat := 0
  failed : Nat := 0
  lost : Nat := 0
  /-- Former active values of the pages that splice (R484). -/
  former : Tab (Tab Word) := []
  fco : FcoJob := {}
deriving DecidableEq, Repr

end Sys2Proof.Machine
end

