-- ==== Sys2Proof/Machine/StCompute.lean ====
section
/-!
DEFINITION. The state of the filter cores, the dispatcher and trace (chapters 14 to 16), as plain data.
-/

namespace Sys2Proof.Machine

/-- What a core waits for at its present instruction. -/
inductive CoreWait where
  | none
  /-- NEXT without an item (R355). -/
  | next
  /-- An external load: destination register, window offset, and since when (R357). -/
  | load (d : Nat) (off : Nat) (since : Nat)
deriving DecidableEq, Repr

/-- One filter core (Table 14-2 and R347 to R363). -/
structure CoreSt where
  d : Tab Word := []
  a : Tab (BitVec 72) := []
  ap : Tab Word := []
  as_ : Tab Word := []
  wb : Tab Word := []
  wl : Tab (BitVec 16) := []
  pc : BitVec 16 := 0
  lk : BitVec 16 := 0
  /-- SR without its loop-depth field, which `depth` holds. -/
  sr : Word := 0
  xpc : BitVec 16 := 0
  xsr : Word := 0
  loopCnt : Tab (BitVec 16) := []
  loopTop : Tab (BitVec 16) := []
  loopEnd : Tab (BitVec 16) := []
  /-- LOOPSTA: depth and the levels active. -/
  depth : Nat := 0
  lvlActive : BitVec 3 := 0
  /-- ITN of an ITER, or outside every loop; and of each loop level. -/
  itn : BitVec 16 := 0
  loopItn : Tab (BitVec 16) := []
  cause : BitVec 2 := 0
  ien : BitVec 8 := 0
  item : Tab Word := []
  /-- Loads whose value a register takes after the next instruction: register and value (R348). -/
  loads : List (Nat × Word) := []
  /-- Repetitions left of an ITER in force (R351). -/
  iter : Option Nat := none
  /-- The repeat cache: first body address of the body it holds (R352). -/
  cache : Option (BitVec 16) := none
  /-- A pass that captures the body runs. -/
  capture : Option (BitVec 16) := none
  /-- What the last instruction wrote, for the stalls of R346 and R348. -/
  wroteA : List Nat := []
  wrotePtr : List Nat := []
  wait : CoreWait := .none
  /-- Posted external stores, oldest first: window offset and data (R357). -/
  stores : List (Nat × Word) := []
  /-- The slots of the items that run here, innermost first (R355). -/
  nest : List Nat := []
  /-- The slot assigned or offered to this core, that the next NEXT takes (R373). -/
  assigned : Option Nat := none
  offer : Option Nat := none
  offerSince : Nat := 0
  /-- The offer a NEXT of the handler waits for has been withdrawn (R355). -/
  withdrawn : Bool := false
  /-- An offer timed out: no other until NEXT runs (R373). -/
  noOffer : Bool := false
  imageOk : Bool := false
  resetEntry : BitVec 16 := 0
  irqEntry : BitVec 16 := 0
  cycles : Nat := 0
  halted : Bool := false
  /-- A single step has been asked for (R482). -/
  stepping : Bool := false
  /-- A breakpoint hit at this PC has been reported, so a resume passes it. -/
  bpAt : Option (BitVec 16) := none
deriving DecidableEq, Repr

/-- The item states of Table 15-3 but FREE, which is an absent slot. -/
inductive ItemState where
  | delayed | queued | ready | offered | running | preempted
deriving DecidableEq, Repr

/-- One work item in its slot (R365, R373). -/
structure ItemSt where
  state : ItemState := .queued
  words : List Word := []
  flow : Nat := 0
  gen : BitVec 16 := 0
  /-- The hardware source (KIND and index) it came from (R368). -/
  src : Option (Nat × Nat) := none
  report : Bool := false
  /-- The priority it runs at, as its flow entered a ready list with (R369). -/
  prio : Nat := 0
  due : Word := 0
  /-- Admission order among items due at one tick. -/
  order : Nat := 0
  readySince : Nat := 0
  core : Nat := 0
  /-- Real time it has run for, without the time pre-empted, and when the present stretch began (R362). -/
  ran : Nat := 0
  since : Nat := 0
  /-- It has been yielded: it holds the head of its flow (R373). -/
  yielded : Bool := false
deriving DecidableEq, Repr

/-- One flow (R369 to R370). -/
structure FlowSt where
  en : Bool := false
  prio : Nat := 0
  mask : Byte := 0
  queue : List Nat := []
  /-- The item READY, OFFERED, RUNNING or PREEMPTED at its head. -/
  head : Option Nat := none
  last : Option Nat := none
  done : BitVec 16 := 0
  failed : Nat := 0
  aborted : Nat := 0
  cancelled : BitVec 16 := 0
  coalesced : Nat := 0
  ignored : Nat := 0
deriving DecidableEq, Repr

/-- The dispatcher (R365 to R380). -/
structure DspSt where
  slots : Tab ItemSt := []
  gens : Tab (BitVec 16) := []
  flows : Tab FlowSt := []
  /-- The eight ready lists of flows (R369). -/
  ready : Tab (List Nat) := []
  ticks : Word := 0
  /-- SYS cycles counted since the last tick. -/
  sub : Nat := 0
  nextOrder : Nat := 0
  /-- Cancels that wait for step 3 of the next cycle: path code, by flow?, value (R377). -/
  cancels : List (Nat × Bool × Nat) := []
  /-- Completion ring: head, tail, phase, records posted, records reserved (R376). -/
  cqHead : Nat := 0
  cqTail : Nat := 0
  cqPhase : Bool := true
  cqPosted : Nat := 0
  cqReserved : Nat := 0
  full : Nat := 0
  resetAborted : Nat := 0
  drained : Byte := 0
  /-- When draining of each core began (R379). -/
  drainSince : Tab Nat := []
  halted : Bool := false
deriving DecidableEq, Repr

/-- The trace states of Table 16-4. -/
inductive TrcState where
  | stopped | running | post | cal
deriving DecidableEq, Repr

/-- A trace record (Table 16-2): its type, its sequence number, its time, and the words after the header. -/
structure TrcRec where
  typ : Nat
  seq : BitVec 16 := 0
  time : Stamp := {}
  words : List Word := []
deriving DecidableEq, Repr

/-- A pending GAP (R387). -/
structure TrcGap where
  count : Nat
  unknown : Bool := false
  reason : Nat
  first : Stamp := {}
  last : Stamp := {}
deriving DecidableEq, Repr

/-- One edge unit (R390). -/
structure EdgeSt where
  armedUp : Bool := false
  armedDown : Bool := false
  level : Bool := false
  /-- The last fire was the rising one. -/
  firedUp : Bool := false
  prev : Option (Rat × Nat) := none
deriving DecidableEq, Repr

/-- One instant whose channels' values are being gathered (R382, R383): its device time, and per channel the values due. -/
structure TrcInst where
  time : Nat
  mask : DWord
  /-- Channels whose value has come. -/
  got : DWord := 0
  vals : Tab Word := []
deriving DecidableEq, Repr

/-- Skew calibration (R394): the knot, its firing's real time, and per channel the samples noted since,
oldest first, with their real times. -/
structure TrcCal where
  knot : Nat
  fired : Option Nat := none
  samples : Tab (List (Nat × Word)) := []
deriving DecidableEq, Repr

/-- Trace (R381 to R396). -/
structure TrcSt where
  state : TrcState := .stopped
  wp : Nat := 0
  rp : Nat := 0
  size : Nat := 0x10000
  resize : Option Nat := none
  staged : List TrcRec := []
  gap : Option TrcGap := none
  rseq : BitVec 16 := 0
  cnt : Word := 0
  lost : Word := 0
  /-- Records in the coil that are unread: offset, length in bytes, its type and time, oldest first. -/
  unread : List (Nat × Nat × Stamp) := []
  written : Nat := 0
  seqState : Nat := 0
  forced : Bool := false
  mark17 : Option Nat := none
  mark18 : Option Nat := none
  counters : Tab Nat := []
  /-- Real time of each timer's last start plus 1 (0 = not started), and the timers expired since. -/
  timers : Tab Nat := []
  timerExp : BitVec 2 := 0
  /-- MARK records formed at this knot that follow the DATA record of its instant (R385): time and word 4. -/
  marks : List (Stamp × Word) := []
  edges : Tab EdgeSt := []
  trigSeq : BitVec 16 := 0
  trigValid : Bool := false
  trigTime : Stamp := {}
  /-- A trigger has been taken without REARM, so that no other is. -/
  spent : Bool := false
  holdoff : Option Nat := none
  window : List TrcRec := []
  postLeft : Nat := 0
  /-- Instants whose records wait for channels read ahead by d_c periods, oldest first. -/
  insts : List TrcInst := []
  samples : Nat := 0
  frames : Nat := 0
  startId : Option Nat := none
  stopIds : List Nat := []
  /-- A STOP record that waits for room in staging, and the records written before it (R389). -/
  stopRec : Option TrcRec := none
  stopCount : Nat := 0
  startAt : Stamp := {}
  cal : Option TrcCal := none
  /-- A start after a reset is followed by a GAP of this reason (R395). -/
  afterReset : Nat := 0
  lastTime : Nat := 0
  halted : Bool := false
  missed : Nat := 0
  missFirst : Stamp := {}
  wmarkHigh : Bool := false
deriving DecidableEq, Repr

end Sys2Proof.Machine
end

