-- ==== Sys2Proof/Machine/StField.lean ====
section
/-!
DEFINITION. The state of the field die proxy, the field die and the belay (chapters 17 and 18), as plain data.
-/

namespace Sys2Proof.Machine

/-- The tether states of Table 17-4. -/
inductive Tether where
  | down | up | silent
deriving DecidableEq, Repr

/-- A schedule entry on its way to the field die, with the SEQ of the frame that last carried it (R404). -/
structure SchedOut where
  entry : SchedEntry
  /-- The SEQ of the frame that carried it last, and the time at which that frame ended, ns. -/
  sent : Option (Byte × Nat) := none
deriving DecidableEq, Repr

/-- The main die's side of the tether (R403 to R410). -/
structure FldSt where
  tether : Tether := .down
  /-- Consecutive intact uplink frames towards UP. -/
  run : Nat := 0
  lastIntact : Nat := 0
  lastCrcErr : Option Nat := none
  txSeq : Byte := 0
  rxSeq : Byte := 0
  rxMap : Byte := 0
  resync : Bool := true
  inLevel : DWord := 0
  vfield : BitVec 16 := 0
  groupOn : Byte := 0
  groupOver : Byte := 0
  inputsValid : Bool := false
  warn : Bool := false
  uvlo : Bool := false
  /-- FLD_DELAY, 1/16 ns. -/
  delay : Nat := 0
  /-- Configuration writes that wait for a CFG slot, then the two slots in force (R405). -/
  cfgQueue : List CfgSlot := []
  cfg0 : Option CfgSlot := none
  cfg1 : Option CfgSlot := none
  nextCfg : Byte := 1
  sched : List SchedOut := []
  nextTag : BitVec 16 := 0
  short : DWord := 0
  downBad : Nat := 0
  upBad : Nat := 0
  silences : Nat := 0
  evLost : Nat := 0
  /-- Field pins' events seen, to discard repeats: kind, pin, time (R404). -/
  seen : List EventEntry := []
  /-- The belay status as last reported, and what the BLY page counts. -/
  belay : BelayField := {}
  demands : Nat := 0
  refused : Nat := 0
  commitRefused : Bool := false
  key : Word := 0
  keyValid : Bool := false
  /-- A commit asked for: the key, PAR_VER before, whether the request was acknowledged and when, and whether COMMIT has been seen. -/
  commit : Option (Word × BitVec 4) := none
  commitAck : Option Nat := none
  commitSeen : Bool := false
  /-- A PG_FLT CLEAR is on its way to the belay, since this time (R437). -/
  clearSince : Option Nat := none
deriving DecidableEq, Repr

/-- One entry of the field die's schedule table (R407). -/
structure Sched where
  entry : SchedEntry
  order : Nat := 0
deriving DecidableEq, Repr

/-- The field die (R397 to R412). -/
structure FieldDie where
  powered : Bool := false
  waitResync : Bool := true
  /-- FLD_PIN, SIL_F and SIL2 as applied on the field die. -/
  pins : Tab Word := []
  silF : Nat := 100
  sil2 : Nat := 1000
  groups : Byte := 0
  /-- Groups that R402 or R411 switched off and that the host has not enabled since: silence switches none of their outputs on. -/
  lockOff : Byte := 0
  outLevel : DWord := 0
  inLevel : DWord := 0
  /-- The level each output drives, and the level of each SCHEDULE source. -/
  driven : DWord := 0
  schedLevel : DWord := 0
  short : DWord := 0
  groupOver : Byte := 0
  table : List Sched := []
  nextOrder : Nat := 0
  /-- Tags executed, newest first. -/
  done : List (BitVec 16) := []
  /-- Pending off times of pulses per pin, device time in ns. -/
  offAt : Tab Nat := []
  events : List EventEntry := []
  evLost : Nat := 0
  /-- Events sent and not yet acknowledged, with the SEQ of their frame and the time at which it ended, ns. -/
  sentEvents : List (Byte × Nat × List EventEntry) := []
  upSeq : Byte := 0
  rxSeq : Byte := 0
  rxMap : Byte := 0
  cfgAck0 : Byte := 0
  cfgAck1 : Byte := 0
  lastIntact : Nat := 0
  silence : Bool := false
  /-- Groups whose outputs keep their silence level until the host enables them (R409). -/
  silHold : Byte := 0
  silenceAt : Nat := 0
  vfield : BitVec 16 := 0
  warn : Bool := false
  uvlo : Bool := false
  invalid : Bool := true
deriving DecidableEq, Repr

/-- The belay states of Table 18-4. -/
inductive BelayState where
  | start | run | halted | commit
deriving DecidableEq, Repr

/-- The function states of Table 18-3. -/
inductive FnState where
  | safe | waitReset | run | stopping | fault
deriving DecidableEq, Repr

/-- One safety function. -/
structure FnSt where
  state : FnState := .safe
  interlock : Bool := true
  /-- Both channels of each pair have read not made since the function last left RUN. -/
  seenOpen : Bool := false
  /-- Cycles of SS1_T still to run. -/
  ss1 : Nat := 0
  /-- TWO_HAND: the cycle the first pair was made in, and a late second pair that waits for both hands to release (R425). -/
  firstMade : Option Nat := none
  late : Bool := false
deriving DecidableEq, Repr

/-- How a pair of channels stands (R422): made; one channel dropped from made, `a` telling whether A is the one still made; both
not made; a count of `n` cycles with one made; or shut out until both read not made together. -/
inductive PairPhase where
  | made
  | dropped (a : Bool)
  | opened
  | counting (n : Nat) (a : Bool)
  | blocked
deriving DecidableEq, Repr

/-- One pair of safety inputs (R419 to R422): its phase, its latched faults, and what their clear waits for. -/
structure PairSt where
  phase : PairPhase := .opened
  b8 : Bool := false
  b9 : Bool := false
  /-- Both channels have read not made together since the fault. -/
  openSince : Bool := false
  /-- The channels, A in bit 0 and B in bit 1, that failed a test pulse and have passed none since. -/
  tpBad : BitVec 2 := 0
deriving DecidableEq, Repr

/-- One safety output (R428, R429). -/
structure SoutSt where
  guardOpen : Bool := false
  ba : Bool := false
  badRun : Nat := 0
  agreed : Bool := false
  testDue : Nat := 0
deriving DecidableEq, Repr

/-- The belay (R415 to R434). -/
structure BlySt where
  state : BelayState := .start
  cycle : Nat := 0
  /-- The parameter set in force, the staging set, and the set in non-volatile memory (offset to word); validity and version. -/
  par : Tab Word := []
  staging : Tab Word := []
  parOk : Bool := false
  nvValid : Bool := false
  parVer : BitVec 4 := 0
  commitSince : Option Nat := none
  /-- A commit request that has arrived and waits for the next cycle: its key, and whether a function ran on arrival. -/
  req : Option (Word × Bool) := none
  /-- Filtered input levels, as the last edge left them. -/
  level : BitVec 24 := 0
  fns : Tab FnSt := []
  pairs : Tab PairSt := []
  souts : Tab SoutSt := []
  /-- Reset pulses accepted since the last cycle, and the times until which the inputs are ignored as stuck. -/
  rstA : Bool := false
  rstB : Bool := false
  ignA : Nat := 0
  ignB : Nat := 0
  /-- RST_A, RST_B were high as START ended and have not been low since (R426). -/
  stuckA : Bool := false
  stuckB : Bool := false
  /-- Outputs as applied, and as decided by the cycle that runs. -/
  sto : BitVec 16 := 0xFFFF
  sout : Byte := 0
  stoNext : BitVec 16 := 0xFFFF
  soutNext : Byte := 0
  stoBad : Nat := 0
  /-- Faults latched and not yet cleared, oldest first: the code's low nibble, and the pair or output it concerns. -/
  faults : List (Nat × Nat) := []
  /-- The status of the last completed cycle, as the uplink carries it (R431). -/
  report : BelayField := {}
  /-- A CLEAR has arrived and acts in the next cycle. -/
  clear : Bool := false
  clockLost : Bool := false
deriving DecidableEq, Repr

end Sys2Proof.Machine
end

