-- ==== Sys2Proof/Machine/State.lean ====
section
/-!
DEFINITION. The whole state of the CX128, the reasons a command can stop, and the state after reset.
The state is split in three: `Chip`, everything but memory contents and the queue; `Mem`, the coded memories; and the queue of
waiting commands. What the block sends to the outside world is appended to `Chip.out`, newest first.
-/

namespace Sys2Proof.Machine

/-- What an AER report says: an access without a target, a host-memory read that failed, a read that met an uncorrectable word. -/
inductive AerError where
  | unsupported | hostRead | poisoned
deriving DecidableEq, Repr

/-- How a BAR 2 read completes (R47). -/
inductive Bar2Res where
  | data (bytes : List Byte)
  | unsupported
  | poisoned
deriving DecidableEq, Repr

/-- What the block sends to the outside world (the model's own record of it, newest first in `Chip.out`). -/
inductive Output where
  /-- A register read of a path completes with this value; `none` = an unsupported-request completion (R30), or beside an AER report
  of an uncorrectable word a poisoned one (R445). -/
  | regRead (path : Path) (off : Nat) (v : Option Word)
  /-- A register write of a path ends: accepted or dropped without error (`true`), or as an unassigned address (`false`). -/
  | regWrite (path : Path) (off : Nat) (ok : Bool)
  /-- An error reported through AER (R30, R47, R56, R445). -/
  | aer (e : AerError)
  /-- A BAR 2 read completes (R47). -/
  | bar2Read (addr : Nat) (r : Bar2Res)
  /-- An MSI-X message for a vector, and the same as an event message of the YCP page (R44, R85). -/
  | msix (v : Nat)
  | eventMsg (v : Nat) (seq : Word)
  /-- A completion entry: one aligned 16-byte write to host memory (R51, Table 3-3). -/
  | completion (addr : Nat) (bytes : List Byte)
  /-- A host-memory write of a REG_BATCH read value (R63). -/
  | batchResult (i : Nat) (v : Word)
  /-- A frame leaves an egress port, or reaches the internal endpoint (port 4); `ok` is false for an inverted FCS (R70, R71). -/
  | frame (port : Nat) (f : EthFrame) (ok : Bool)
  /-- A clause 22 MDIO access starts on a port: PHY and register address, read or write with its data (R92). -/
  | mdio (port : Nat) (phy reg : Nat) (read : Bool) (data : BitVec 16)
  /-- An ICMP echo reply (R75). -/
  | icmpReply (dst : Word) (data : List Byte)
  /-- YCP datagrams handed to the switch, whose bytes are the frame that goes with each: OPEN_ACK, an echoed KEEPALIVE, a SESSION_ERROR,
  PENDING, CLOSE, a RESPONSE (R77 to R85). -/
  | openAck (s : Nat) (devNonce : BitVec 128) (timeout : Nat)
  | aliveEcho (s : Nat) (seq : Word)
  | ycpError (s : Nat) (ip : Word) (port : BitVec 16) (code : Byte) (seq : Word)
  | ycpPending (s : Nat) (seq : Word)
  | ycpClosed (s : Nat)
  | ycpResponse (s : Nat) (r : YcpResp)
  /-- A hitch frame queued by the publisher (R87). -/
  | hitchFrame (f : HitchFrame)
  /-- A tether frame starts (R403). -/
  | downlink (f : DownFrame) (bytes : List Byte)
  | uplink (f : UpFrame) (bytes : List Byte)
  /-- Bytes written to a coil in host memory at this offset (R386). -/
  | coil (off : Nat) (bytes : List Byte)
  /-- A debug UART response: SEQ, STATUS and data (R478). -/
  | uart (seq : Byte) (status : Byte) (data : Word) (bytes : List Byte)
  /-- A STEP pulse of an axis starts: high for this many 4 ns ticks, with DIR negative or not (R179, R180). -/
  | stepPulse (n : Nat) (neg : Bool) (ticks : Nat)
  /-- A pin takes a level: 0 to 3 the KNOT pins, else as the block's chapter numbers them. -/
  | pin (bank : Nat) (n : Nat) (level : Bool)
deriving DecidableEq, Repr

/-- Everything of the device but memory contents and the command queue. -/
structure Chip where
  /-- The register file: register window offset to value, active copies at +0x800 (R31). Unlisted = the reset value. -/
  regs : Tab Word := []
  pages : Tab PageHdr := []
  paths : Tab PathSt := []
  /-- Values held for one path (snapshots of popped or sampled register sets), keyed path code × 2^24 + window offset. -/
  held : Tab Word := []
  /-- The 16-bit device fault sequence (R36). -/
  faultSeq : BitVec 16 := 0
  clk : ClkSt := {}
  tim : TimSt := {}
  knt : KntSt := {}
  evt : EvtSt := {}
  cmd : CmdSt := {}
  net : NetSt := {}
  ycp : YcpSt := {}
  hfr : HfrSt := {}
  axes : Tab Axis := []
  grps : Tab Group := []
  hits : Tab Hitch := []
  cam : CamSt := {}
  loops : Tab LoopAx := []
  lpes : Tab LpeSt := []
  sups : Tab SupAx := []
  buses : Tab BusSt := []
  mods : Tab ModSt := []
  fbks : Tab FbkSt := []
  snls : Tab SnlSt := []
  adcs : Tab AdcSt := []
  /-- Sigma-delta channels, keyed 48 × bank + channel, and SDF_SEQ of each bank. -/
  sdfs : Tab SdfCh := []
  sdfSeq : Tab (BitVec 16) := []
  cores : Tab CoreSt := []
  dsp : DspSt := {}
  trc : TrcSt := {}
  fld : FldSt := {}
  field : FieldDie := {}
  bly : BlySt := {}
  memc : MemCtlSt := {}
  scb : ScbSt := {}
  keep : KeepSt := {}
  pwr : PwrSt := {}
  sec : SecSt := {}
  dbg : DbgSt := {}
  spl : SplSt := {}
  /-- The number of open values met so far: the argument of the next `Config.freeValue` (the model's own field). -/
  free : Nat := 0
  /-- DEV_SVC: SAFETY as the last intact uplink frame reported it, and PCIE (Table 2-14). -/
  svcSafety : Bool := false
  svcPcie : Bool := false
  /-- What the block has sent, newest first (the model's own record). -/
  out : List Output := []
deriving DecidableEq, Repr

/-- The memories: byte cells keyed by region and address, and the error pattern of each 144-bit code word (chapter 19). -/
structure Mem where
  cells : List Host.Cell := []
  err : Tab (BitVec 144) := []
deriving DecidableEq, Repr

/-- The state of the machine. -/
structure State where
  chip : Chip := {}
  mem : Mem := {}
  /-- The commands that wait, first in, first out. -/
  pending : List Instr := []
deriving DecidableEq, Repr

/-- The faults of a step. No command of the table ends in one: a block has no step that the spec leaves without an effect. -/
inductive Fault where
  /-- Raised by nobody; safe. It keeps the type closed and inhabited. -/
  | unreachable
deriving DecidableEq, Repr

/-- The refusals of a step. -/
inductive Refusal where
  /-- Raised by `exec` for a command that has no meaning yet, by its mnemonic; safe. -/
  | notModelled (mnemonic : String)
deriving DecidableEq, Repr

/-- The state after reset: every register at its reset value, nothing listed in memory, no command waiting. -/
def State.reset : State := {}

end Sys2Proof.Machine
end

