-- ==== Sys2Proof/Machine/Ops.lean ====
section
/-!
DEFINITION. The named operations over registers, page headers, events, faults and the outside world that every command's meaning
uses (chapter 2).
-/

namespace Sys2Proof.Machine

/-! ### Pages -/

/-- The page number: the page's window offset div 0x1000 (Table 2-1). -/
def pageNum : Page → Nat
  | .dev => 0x000 | .clk => 0x001 | .pwr => 0x002 | .sec => 0x003 | .dbg => 0x004 | .evt => 0x005 | .cmd => 0x006
  | .net p => 0x008 + p.val | .swt => 0x00C | .ycp => 0x00D | .hfr => 0x00E | .tim => 0x010 | .knt => 0x011 | .hit => 0x012
  | .cam => 0x013 | .axm n => 0x020 + n.val | .grp g => 0x0C0 + g.val | .lpa n => 0x100 + n.val | .lpe e => 0x180 + e.val
  | .mod n => 0x190 + n.val | .bus b => 0x210 + b.val | .fbk n => 0x220 + n.val | .adc c => 0x2A0 + c.val
  | .sdf k => 0x2B0 + k.val | .fco k => 0x2C0 + k.val | .dsp => 0x2C8 | .trc => 0x2D0 | .fld => 0x2E0 | .bly => 0x2E1
  | .mem => 0x2F0 | .kep => 0x2F1 | .scb => 0x2F2 | .snl n => 0x300 + n.val

/-- A bank of pages: number `base + i` for `i < n`. -/
def bankPage (n base : Nat) [NeZero n] (mk : Fin n → Page) (num : Nat) : Option Page :=
  if base ≤ num ∧ num < base + n then some (mk (Fin.ofNat n (num - base))) else none

/-- The page of a page number; `none` for the ranges that hold no page (R30). -/
def pageOfNum (num : Nat) : Option Page :=
  match num with
  | 0x000 => some .dev | 0x001 => some .clk | 0x002 => some .pwr | 0x003 => some .sec | 0x004 => some .dbg | 0x005 => some .evt
  | 0x006 => some .cmd | 0x00C => some .swt | 0x00D => some .ycp | 0x00E => some .hfr | 0x010 => some .tim | 0x011 => some .knt
  | 0x012 => some .hit | 0x013 => some .cam | 0x2C8 => some .dsp | 0x2D0 => some .trc | 0x2E0 => some .fld | 0x2E1 => some .bly
  | 0x2F0 => some .mem | 0x2F1 => some .kep | 0x2F2 => some .scb
  | _ =>
    (bankPage 4 0x008 .net num).orElse fun _ => (bankPage 160 0x020 .axm num).orElse fun _ =>
    (bankPage 32 0x0C0 .grp num).orElse fun _ => (bankPage 128 0x100 .lpa num).orElse fun _ =>
    (bankPage 4 0x180 .lpe num).orElse fun _ => (bankPage 128 0x190 .mod num).orElse fun _ =>
    (bankPage 16 0x210 .bus num).orElse fun _ => (bankPage 128 0x220 .fbk num).orElse fun _ =>
    (bankPage 16 0x2A0 .adc num).orElse fun _ => (bankPage 8 0x2B0 .sdf num).orElse fun _ =>
    (bankPage 8 0x2C0 .fco num).orElse fun _ => bankPage 128 0x300 .snl num

/-- The window offset of a page. -/
def pageBase (p : Page) : Nat := pageNum p * 0x1000

/-- The type code of a page (Table 2-1). -/
def pageType : Page → Nat
  | .dev => 0x01 | .clk => 0x02 | .pwr => 0x03 | .sec => 0x04 | .dbg => 0x05 | .evt => 0x06 | .cmd => 0x07 | .net _ => 0x08
  | .swt => 0x09 | .ycp => 0x0A | .hfr => 0x0B | .tim => 0x10 | .knt => 0x11 | .hit => 0x22 | .cam => 0x23 | .axm _ => 0x20
  | .grp _ => 0x21 | .lpa _ => 0x30 | .lpe _ => 0x31 | .mod _ => 0x40 | .bus _ => 0x41 | .fbk _ => 0x42 | .adc _ => 0x43
  | .sdf _ => 0x44 | .fco _ => 0x50 | .dsp => 0x51 | .trc => 0x52 | .fld => 0x60 | .bly => 0x61 | .mem => 0x70 | .kep => 0x71
  | .scb => 0x72 | .snl _ => 0x32

/-- The instance number of a page (Table 2-3). -/
def pageInst : Page → Nat
  | .net p => p.val | .axm n => n.val | .grp g => g.val | .lpa n => n.val | .lpe e => e.val | .mod n => n.val | .bus b => b.val
  | .fbk n => n.val | .adc c => c.val | .sdf k => k.val | .fco k => k.val | .snl n => n.val
  | _ => 0

/-- PG_ID (Table 2-3). -/
def pageId (p : Page) : Word := BitVec.ofNat 32 (pageType p * 0x1000000 + 0x010000 + pageInst p)

/-- The reset value of PG_VEC: (normal, fault) of Table 2-13. -/
def vecReset : Page → Nat × Nat
  | .dev => (44, 41) | .clk => (41, 41) | .pwr => (41, 41) | .kep => (41, 41) | .sec => (42, 42) | .dbg => (43, 43)
  | .evt => (43, 43) | .cmd => (0, 1) | .net p => (12 + p.val, 12 + p.val) | .swt => (12, 12) | .ycp => (16, 16)
  | .hfr => (17, 17) | .tim => (10, 10) | .knt => (11, 11) | .hit => (6, 2) | .cam => (6, 2)
  | .axm n => if n.val < 128 then (6 + n.val / 32, 2 + n.val / 32) else (6 + (n.val - 128) / 8, 2 + (n.val - 128) / 8)
  | .grp g => (6 + g.val / 8, 2 + g.val / 8) | .lpa n => (6 + n.val / 32, 2 + n.val / 32) | .lpe e => (6 + e.val, 2 + e.val)
  | .mod _ => (22, 22) | .bus b => (18 + b.val / 4, 18 + b.val / 4) | .fbk _ => (23, 23) | .snl _ => (24, 24) | .adc _ => (25, 25)
  | .sdf _ => (26, 26) | .fco k => (27 + k.val, 27 + k.val) | .dsp => (35, 35) | .trc => (36, 36) | .fld => (37, 37)
  | .bly => (38, 38) | .mem => (39, 40) | .scb => (39, 40)

/-! ### The register file -/

/-- The first quarter of table 0: round(16,384 × sin(2πj / 256)) for j = 0 to 64 (Table 12-2). -/
def sineQuarter : List Nat :=
  [0, 402, 804, 1205, 1606, 2006, 2404, 2801, 3196, 3590, 3981, 4370, 4756] ++
  [5139, 5520, 5897, 6270, 6639, 7005, 7366, 7723, 8076, 8423, 8765, 9102, 9434] ++
  [9760, 10080, 10394, 10702, 11003, 11297, 11585, 11866, 12140, 12406, 12665, 12916, 13160] ++
  [13395, 13623, 13842, 14053, 14256, 14449, 14635, 14811, 14978, 15137, 15286, 15426, 15557] ++
  [15679, 15791, 15893, 15986, 16069, 16143, 16207, 16261, 16305, 16340, 16364, 16379, 16384]

/-- The first quarter of table 1: round(16,384 × (sin φ + sin 3φ / 6)), φ = 2πj / 256, for j = 0 to 64 (Table 12-2). -/
def thirdQuarter : List Nat :=
  [0, 603, 1205, 1804, 2399, 2988, 3572, 4147, 4713, 5270, 5815, 6347, 6867] ++
  [7372, 7862, 8336, 8793, 9232, 9654, 10057, 10441, 10805, 11150, 11476, 11781, 12066] ++
  [12331, 12576, 12802, 13009, 13196, 13365, 13516, 13650, 13766, 13867, 13952, 14023, 14080] ++
  [14124, 14156, 14176, 14187, 14188, 14182, 14168, 14147, 14122, 14092, 14058, 14022, 13985] ++
  [13946, 13908, 13870, 13833, 13799, 13767, 13738, 13713, 13692, 13675, 13663, 13656, 13653]

/-- Entry j of drive table t after reset (Table 12-2). -/
def snlEntryReset (t j : Nat) : Nat :=
  let q := if j ≤ 64 then j else 128 - j
  match t with
  | 1 => thirdQuarter.getD q 0
  | 2 => if 22 ≤ j ∧ j ≤ 106 then 0x3A0B else 0
  | _ => sineQuarter.getD q 0

/-- One word of the drive tables' reset contents: entries 2(w mod 64) and the next of table w div 64 (R302, Table 12-2). -/
def snlTabReset (w : Nat) : Word :=
  BitVec.ofNat 32 (snlEntryReset (w / 64) (2 * (w % 64)) + 65536 * snlEntryReset (w / 64) (2 * (w % 64) + 1))

/-- The reset value of a register where it depends on the instance (R227, R93, Table 12-2). -/
def instReset (p : Page) (off : Nat) (d : Word) : Word :=
  match p with
  | .lpa n => if off = 0x230 then BitVec.ofNat 32 (n.val / 8) else d
  | .swt => if 0x050 ≤ off ∧ off < 0x064 ∧ off % 4 = 0 then BitVec.ofNat 32 (0x1F - 2 ^ ((off - 0x050) / 4)) else d
  | .snl n => if n.val = 0 ∧ 0x400 ≤ off ∧ off < 0x800 then snlTabReset ((off - 0x400) / 4) else d
  | _ => d

/-- The reset value of a block register by page and offset. -/
def blockReset (p : Page) (off : Nat) : Word :=
  match findRow (pageRows p) off with
  | some (r, hi) => instReset p off (if hi then r.hiReset else r.reset)
  | none => 0

/-- The reset value of what the register file holds at a window offset: PG_EVEN, PG_VEC, a block register, or an active copy. -/
def regReset (a : Nat) : Word :=
  match pageOfNum (a / 0x1000) with
  | none => 0
  | some p =>
    let off := a % 0x1000
    if off = 0x014 then 1
    else if off = 0x01C then BitVec.ofNat 32 ((vecReset p).1 + (vecReset p).2 * 256)
    else if off < 0x040 then 0
    else if off < 0x800 then blockReset p off
    else blockReset p (off - 0x800)

/-- What the register file holds at a window offset. -/
def regGet (c : Chip) (a : Nat) : Word := tabGet (regReset a) c.regs a

/-- The one write to the register file. -/
def regSet (a : Nat) (v : Word) (c : Chip) : Chip := { c with regs := tabSet (regReset a) c.regs a v }

/-- A register of a page as software wrote it (the shadow of a shadowed one), or as the hardware last wrote it. -/
def rd (c : Chip) (p : Page) (off : Nat) : Word := regGet c (pageBase p + off)

/-- The value in force of a shadowed register: its active copy (R31, R38). -/
def act (c : Chip) (p : Page) (off : Nat) : Word := regGet c (pageBase p + off + 0x800)

def wr (p : Page) (off : Nat) (v : Word) (c : Chip) : Chip := regSet (pageBase p + off) v c

/-- A _LO and _HI pair of a page, as written or in force. -/
def rdPair (c : Chip) (p : Page) (off : Nat) : DWord := joinHalves (rd c p (off + 4)) (rd c p off)

def actPair (c : Chip) (p : Page) (off : Nat) : DWord := joinHalves (act c p (off + 4)) (act c p off)

def wrPair (p : Page) (off : Nat) (v : DWord) (c : Chip) : Chip :=
  wr p (off + 4) (BitVec.extractLsb' 32 32 v) (wr p off (BitVec.extractLsb' 0 32 v) c)

/-- A Q40.24 pair in force, in counts. -/
def actQ (c : Chip) (p : Page) (off : Nat) : Rat := ofQ (actPair c p off)

/-- A field of a register in force, and of a register as written. -/
def actF (c : Chip) (p : Page) (off hi lo : Nat) : Nat := fld (act c p off) hi lo

def rdF (c : Chip) (p : Page) (off hi lo : Nat) : Nat := fld (rd c p off) hi lo

def wrF (p : Page) (off hi lo v : Nat) (c : Chip) : Chip := wr p off (setFld (rd c p off) hi lo v) c

/-- A counter field of a register incremented, saturating. -/
def cntSat (p : Page) (off hi lo : Nat) (c : Chip) : Chip :=
  let v := rdF c p off hi lo
  if v + 1 < 2 ^ (hi + 1 - lo) then wrF p off hi lo (v + 1) c else c

/-- A counter field incremented modulo its width. -/
def cntWrap (p : Page) (off hi lo : Nat) (c : Chip) : Chip :=
  wrF p off hi lo ((rdF c p off hi lo + 1) % 2 ^ (hi + 1 - lo)) c

/-! ### Values held per path -/

/-- The code of a path, as PG_OWNER names it (Table 2-10); 16 for the debug UART. -/
def pathCode : Path → Nat
  | .pcie => 1
  | .ycp s => 2 + s.val
  | .core k => 8 + k.val
  | .uart => 16

/-- A value held for one path at a window offset (snapshots of register sets). -/
def heldGet (c : Chip) (path : Path) (a : Nat) : Word := tabGet 0 c.held (pathCode path * 0x1000000 + a)

def heldSet (path : Path) (a : Nat) (v : Word) (c : Chip) : Chip :=
  { c with held := tabSet 0 c.held (pathCode path * 0x1000000 + a) v }

def pathSt (c : Chip) (path : Path) : PathSt := tabGet {} c.paths (pathCode path)

def setPath (path : Path) (x : PathSt) (c : Chip) : Chip := { c with paths := tabSet {} c.paths (pathCode path) x }

/-! ### The outside world -/

def emit (o : Output) (c : Chip) : Chip := { c with out := o :: c.out }

/-- The next free value, as a bit pattern (Config.freeValue). -/
def freshBits (c : Chip) : BitVec 64 := Config.freeValue c.free

def useFresh (c : Chip) : Chip := { c with free := c.free + 1 }

/-! ### Page headers -/

def hdr (c : Chip) (p : Page) : PageHdr := tabGet {} c.pages (pageNum p)

def setHdr (p : Page) (h : PageHdr) (c : Chip) : Chip := { c with pages := tabSet {} c.pages (pageNum p) h }

def modHdr (p : Page) (f : PageHdr → PageHdr) (c : Chip) : Chip := setHdr p (f (hdr c p)) c

/-- READY or RUN. -/
def isUp (c : Chip) (p : Page) : Bool :=
  match (hdr c p).state with
  | .ready | .run => true
  | _ => false

/-- A fault cause of a page: FAULT always; the others as the chapters class them (R37, Table 2-7). -/
def isFaultCause (p : Page) (b : Nat) : Bool :=
  b == 0 || match p with
    | .cmd => 9 ≤ b && b ≤ 13
    | .mem => b == 9
    | _ => false

/-- A vector is raised: its pending bit is set and the raise is gathered (R44). -/
def raiseVector (v : Nat) (c : Chip) : Chip :=
  let m := tabGet ({} : VecSt) c.evt.vec v
  { c with evt :=
    { c.evt with
      pend := c.evt.pend ||| (1#64 <<< v)
      vec := tabSet {} c.evt.vec v { last := some (m.last.getD c.clk.now), gathered := m.gathered + 1 } } }

/-- The vector of a cause of a page (Table 2-8). -/
def vecOf (c : Chip) (p : Page) (b : Nat) : Nat :=
  if isFaultCause p b then rdF c p 0x01C 13 8 else rdF c p 0x01C 5 0

/-- A cause sets its PG_EVT bit; it raises the page's vector if it is enabled and its bit was 0 (R37). -/
def raise (p : Page) (b : Nat) (c : Chip) : Chip :=
  let h := hdr c p
  if bit h.evt b then c
  else
    let c1 := setHdr p { h with evt := h.evt ||| (1#32 <<< b) } c
    if bit (rd c p 0x014) b then raiseVector (vecOf c p b) c1 else c1

def raiseIf (q : Bool) (p : Page) (b : Nat) (c : Chip) : Chip := if q then raise p b c else c

/-! ### Services (R26, R45) -/

/-- A resource is present and not failed: READY, RUN or SAFE, with its clock running (R45). -/
def present (c : Chip) (p : Page) : Bool :=
  let h := hdr c p
  h.clockOk && match h.state with
    | .ready | .run | .safe => true
    | _ => false

/-- The bus group of axis n in force (R227). -/
def busOf (c : Chip) (n : Fin 128) : Fin 16 := Fin.ofNat 16 (actF c (.lpa n) 0x230 3 0)

/-- A sensorless axis takes its angle from the observer: LPA_MODE.ANGLE_SRC = 1 (Table 8-9). -/
def sensorless (c : Chip) (n : Fin 128) : Bool := bit (act c (.lpa n) 0x040) 9

/-- The converters of the three phase-voltage channels of a sensorless axis (SNL_AIN). -/
def snlAdcs (c : Chip) (n : Fin 128) : List (Fin 16) :=
  let w := act c (.snl n) 0x048
  [Fin.ofNat 16 (fld w 6 0 / 8), Fin.ofNat 16 (fld w 14 8 / 8), Fin.ofNat 16 (fld w 22 16 / 8)]

/-- The YCP path: line port 0 is linked, with the switch and the YCP page in RUN (Tables 1-6, 2-14). -/
def ycpPath (c : Chip) : Bool :=
  (tabGet ({} : NetPort) c.net.ports 0).link && (hdr c .swt).state == .run && (hdr c .ycp).state == .run
/-- A page that its service needs whether or not it is enabled has not failed: neither FAULT nor SPLICING, its clock running. The DEV,
CLK, PWR and SEC pages serve in OFF, as DEV_SVC reads level 1 after reset (log entry 147). -/
def notFailed (c : Chip) (p : Page) : Bool :=
  let h := hdr c p
  h.clockOk && h.state != .fault && h.state != .splicing
/-- Register service: the DEV, CLK, PWR and SEC pages, and one host path (Table 1-6). -/
def registerService (c : Chip) : Bool :=
  notFailed c .dev && notFailed c .clk && notFailed c .pwr && notFailed c .sec && (c.svcPcie || ycpPath c)
/-- Command service: register service, deck bank 0 and the CMD page (Table 1-6). -/
def commandService (c : Chip) : Bool := registerService c && present c .cmd

/-- Motion service of a physical axis (R45, Table 1-6). -/
def motionService (c : Chip) (n : Fin 128) : Bool :=
  commandService c && present c .tim && present c (.axm (Fin.castLE (by decide) n)) && present c (.lpa n) &&
  present c (.lpe (Fin.ofNat 4 (n.val / 32))) && present c (.mod n) &&
  (if sensorless c n then present c (.snl n) && (snlAdcs c n).all (fun a => present c (.adc a)) else present c (.fbk n)) &&
  present c (.sdf (Fin.ofNat 8 (n.val / 16))) && present c (.bus (busOf c n))

/-- DEV_MOTION i (Table 2-14). -/
def devMotion (c : Chip) (i : Fin 4) : Word :=
  BitVec.ofNat 32 ((List.finRange 32).foldl
    (fun acc b => acc + flag (motionService c (Fin.ofNat 128 (32 * i.val + b.val))) b.val) 0)

/-- DEV_SVC (Table 2-14). -/
def devSvc (c : Chip) : Word :=
  let motion := commandService c && (List.finRange 128).any (motionService c)
  let level := if motion then 3 else if commandService c then 2 else 1
  BitVec.ofNat 32 (level + flag c.svcSafety 4 + flag c.svcPcie 5 + flag (ycpPath c) 6)

/-- SERVICE_CHANGE is raised when DEV_SVC or a DEV_MOTION bit has changed across `f` (R45). -/
def withService (f : Chip → Chip) (c : Chip) : Chip :=
  let c' := f c
  if devSvc c' = devSvc c ∧ (List.finRange 4).all (fun i => devMotion c' i == devMotion c i) then c' else raise .dev 9 c'

/-- The one change of a page's state. -/
def setState (p : Page) (st : PgState) (c : Chip) : Chip :=
  if (hdr c p).state = st then c else withService (modHdr p (fun h => { h with state := st })) c

/-! ### Splice outcomes (R484, R491) -/

/-- An outcome is pushed into the DEV log of 32 entries and counted: 1 DONE, 2 KEPT, 3 FAILED, 4 REFUSED, 5 ABORTED. -/
def logSplice (p : Page) (outcome : Nat) (c : Chip) : Chip :=
  let x := c.spl
  let full := decide (32 ≤ x.log.length)
  let c1 := { c with spl :=
    { x with
      log := if full then x.log else x.log ++ [(pageNum p, outcome)]
      lost := if full then min 255 (x.lost + 1) else x.lost
      done := if outcome = 1 then (x.done + 1) % 65536 else x.done
      failed := if outcome = 3 then min 255 (x.failed + 1) else x.failed } }
  raiseIf (!full) .dev 8 c1

/-- The former active values of a page come back (R484 step 5b). -/
def restoreFormer (p : Page) (c : Chip) : Chip :=
  let t := tabGet [] c.spl.former (pageNum p)
  { t.foldl (fun c q => regSet q.1 q.2 c) c with spl := { c.spl with former := tabSet [] c.spl.former (pageNum p) [] } }

/-- The former values are no longer kept. -/
def dropFormer (p : Page) (c : Chip) : Chip := { c with spl := { c.spl with former := tabSet [] c.spl.former (pageNum p) [] } }

/-- A splice ends: SPLICE_REQ and BUSY clear, SPLICE_DONE is raised, the outcome is logged (R484). -/
def spliceOver (p : Page) (outcome : Nat) (c : Chip) : Chip :=
  logSplice p outcome (raise p 5 (modHdr p (fun h => { h with spliceReq := false, spliceFrom := none }) c))

/-- A splice that has begun returns the page to its former state (R484 steps 5a and 5b). -/
def spliceEnd (p : Page) (outcome : Nat) (c : Chip) : Chip :=
  let h := hdr c p
  match h.spliceFrom with
  | none => c
  | some st =>
    let c1 := if outcome = 1 then dropFormer p c else restoreFormer p c
    spliceOver p outcome (setState p st c1)

/-- A splice that has begun is cut off with the rollback of R484 step 5b, by what the next state says (R485). -/
def spliceCut (p : Page) (c : Chip) : Chip :=
  if (hdr c p).spliceFrom.isSome then spliceOver p 5 (restoreFormer p c) else c

/-! ### Faults -/

/-- A page counts as not enabled while OFF, and while SAFE after EN was written 0 (R59). -/
def pageEnabled (c : Chip) (p : Page) : Bool :=
  let h := hdr c p
  match h.state with
  | .off => false
  | .safe => h.en
  | _ => true

/-- One occurrence of a fault (R36): COUNT counts it; the first since the last clear latches CODE and the device fault sequence,
raises FAULT, and moves a page in READY, RUN or SPLICING to FAULT (Table 2-11). -/
def latchFault (p : Page) (code : Byte) (c : Chip) : Chip :=
  let h := hdr c p
  let c1 :=
    if h.fltCode = 0 then
      raise p 0 (setHdr p { h with fltCode := code, fltCount := min 255 (h.fltCount + 1), fltSeq := c.faultSeq + 1 }
        { c with faultSeq := c.faultSeq + 1 })
    else setHdr p { h with fltCount := min 255 (h.fltCount + 1) } c
  match h.state with
  | .ready | .run => setState p .fault c1
  | .splicing => setState p .fault (spliceCut p c1)
  | _ => c1

/-- A fault condition stands. -/
def standing (c : Chip) (p : Page) (code : Byte) : Bool := (hdr c p).conds.contains code

/-- A condition that persists is counted once, when it arises (R36). -/
def latchCond (p : Page) (code : Byte) (c : Chip) : Chip :=
  if standing c p code then c
  else latchFault p code (modHdr p (fun h => { h with conds := code :: h.conds }) c)

/-- The condition has ended. -/
def endCond (p : Page) (code : Byte) (c : Chip) : Chip :=
  if standing c p code then modHdr p (fun h => { h with conds := h.conds.filter (· != code) }) c else c

/-! ### The parts of the state -/

def axis (c : Chip) (n : Nat) : Axis := tabGet {} c.axes n

def setAxis (n : Nat) (a : Axis) (c : Chip) : Chip := { c with axes := tabSet {} c.axes n a }

def group (c : Chip) (g : Nat) : Group := tabGet {} c.grps g

def setGroup (g : Nat) (x : Group) (c : Chip) : Chip := { c with grps := tabSet {} c.grps g x }

def hitch (c : Chip) (h : Nat) : Hitch := tabGet {} c.hits h

def setHitch (h : Nat) (x : Hitch) (c : Chip) : Chip := { c with hits := tabSet {} c.hits h x }

/-- The AXM page of an axis number. -/
def axmPage (n : Nat) : Page := .axm (Fin.ofNat 160 n)

/-- The physical axes of an STO group or SDCK line (R10). -/
def stoAxes (j : Fin 16) : List (Fin 128) := (List.finRange 8).map (fun i => Fin.ofNat 128 (8 * j.val + i.val))

/-- Device time in nanoseconds since the epoch (R96). -/
def timeNs (c : Chip) : Nat := c.tim.s * 1000000000 + c.tim.ns

/-- A fold over a list of state changes. -/
def each {α : Type} (l : List α) (f : α → Chip → Chip) (c : Chip) : Chip := l.foldl (fun c x => f x c) c

/-- A change of the chip lifted to the whole state: memory and queue stand. -/
def onChip (f : Chip → Chip) (s : State) : State := { s with chip := f s.chip }

/-- A meaning that touches the chip alone. -/
def run (f : Chip → Chip) (s : State) : Host.Outcome State Fault Refusal := .next (onChip f s)

end Sys2Proof.Machine
end

