-- ==== Sys2Proof/Machine/MemOps.lean ====
section
/-!
DEFINITION. The memories and their word code (chapter 19): bytes by region, the SECDED code of R442 to R445 as an error pattern
per 144-bit word, the error log, and the reads and writes every consumer uses.
-/

namespace Sys2Proof.Machine

/-- Region codes (Tables 19-1 and 19-3). -/
def regionCode : Region → Nat
  | .deck => 0 | .loop => 1 | .core => 2 | .net => 3 | .trace => 4 | .dram => 5 | .keep => 6

def regionOfCode : Nat → Option Region
  | 0 => some .deck | 1 => some .loop | 2 => some .core | 3 => some .net | 4 => some .trace | 5 => some .dram | 6 => some .keep
  | _ => none

/-- Bytes in each region; DRAM is the size in force in MEM_CTL, in GiB (R440). -/
def regionSize (c : Chip) : Region → Nat
  | .deck => 3 * 2 ^ 20 | .loop => 2 ^ 20 | .core => 2 ^ 20 | .net => 2 ^ 19 | .trace => 2 ^ 19
  | .dram => rdF c .mem 0x040 3 0 * 2 ^ 30 | .keep => c.keep.mib * 2 ^ 20

/-- The key of a byte: region code and byte address in the region. -/
def cellKey (r : Region) (a : Nat) : Nat := regionCode r * 2 ^ 40 + a

/-- A stored byte. What no write has reached reads 0: SRAM and DRAM are written with zero data at start-up (R440, R457); log entry 4. -/
def memByte (m : Mem) (r : Region) (a : Nat) : Byte := tabGet 0 m.cells (cellKey r a)

def setMemByte (r : Region) (a : Nat) (b : Byte) (m : Mem) : Mem := { m with cells := tabSet 0 m.cells (cellKey r a) b }

/-- The error pattern of a word: bits 0 to 127 data, 128 to 135 H, 136 P, 137 to 143 the row hash of a DRAM or keep word. -/
def wordErr (m : Mem) (r : Region) (i : Nat) : BitVec 144 := tabGet 0 m.err (cellKey r i)

def setWordErr (r : Region) (i : Nat) (e : BitVec 144) (m : Mem) : Mem := { m with err := tabSet 0 m.err (cellKey r i) e }

/-- The first `n` of `k` bytes from an address, as one number, least significant first. -/
def memNat (m : Mem) (r : Region) (a : Nat) : Nat → Nat
  | 0 => 0
  | n + 1 => (memByte m r a).toNat + 256 * memNat m r (a + 1) n

/-- Writes bytes in ascending order. -/
def setBytes (r : Region) (a : Nat) : List Byte → Mem → Mem
  | [], m => m
  | b :: t, m => setBytes r (a + 1) t (setMemByte r a b m)

/-- The canonical form of the memories: no stored byte or error pattern is 0, and keys rise. -/
def Mem.wf (m : Mem) : Bool := tabWf (fun _ => (0 : Byte)) m.cells && tabWf (fun _ => (0 : BitVec 144)) m.err

/-! ### The word code (R442, R443) -/

/-- The number of 1 bits below bit `n`. -/
def popCount (v : Nat) : Nat → Nat
  | 0 => 0
  | n + 1 => popCount v n + v / 2 ^ n % 2

/-- The 8-bit values with at least three 1 bits, in ascending order (R442). -/
def hColumns : List Nat := (List.range 256).filter (fun v => 3 ≤ popCount v 8)

/-- The column of a data bit (position 0 to 127) or an address bit (128 to 151). -/
def hColumn (i : Nat) : Nat := hColumns.getD i 0

/-- The Hamming syndrome of an error pattern: the columns of the bits in error. -/
def synOf (e : BitVec 144) : Nat :=
  let d := (List.range 128).foldl (fun s i => if e.getLsbD i then s ^^^ hColumn i else s) 0
  d ^^^ (e.toNat / 2 ^ 128 % 256)

/-- The parity over data, H and P. -/
def parOf (e : BitVec 144) : Bool := popCount (e.toNat % 2 ^ 137) 137 % 2 = 1

/-! #### The check bits themselves (R442, R444). The tables hold, for each word, the difference between what is stored and the word that its
data and address give; the syndrome and the parity that a reader computes are those of this difference, as the code is linear
(synRead_eq in Laws/Code.lean). -/

/-- The columns of the bits set in data, XORed. -/
def dataColumns (d : BitVec 128) : Nat := (List.range 128).foldl (fun s i => if d.getLsbD i then s ^^^ hColumn i else s) 0

/-- The folded address of an SRAM word: region code and word index; words of DRAM and keep memory have none. -/
def foldedAddr (r : Region) (i : Nat) : Nat := if regionCode r < 5 then regionCode r * 2 ^ 20 + i % 2 ^ 20 else 0

/-- The columns of the address bits, XORed. -/
def addrColumns (a : Nat) : Nat := (List.range 24).foldl (fun s j => if a.testBit j then s ^^^ hColumn (128 + j) else s) 0

/-- H of a word (R442). -/
def hammingOf (r : Region) (i : Nat) (d : BitVec 128) : Nat := dataColumns d ^^^ addrColumns (foldedAddr r i)

/-- P of a word: the parity over data, folded address and H. -/
def parityOf (r : Region) (i : Nat) (d : BitVec 128) : Bool :=
  (popCount d.toNat 128 + popCount (foldedAddr r i) 24 + popCount (hammingOf r i d) 8) % 2 == 1

/-- The row hash (R444): the CRC-7 over an 18-bit row address, most significant bit first. The spec leaves open which bits of a DRAM word's
index are its row (Config.dramRow); of keep memory it is the record's index (R441). -/
def rowHash (r : Region) (i : Nat) : Nat :=
  let row := match r with | .dram => (Config.dramRow i).toNat | _ => i
  crcMsb 7 0x09 0 (toBytes 3 row).reverse

/-- The 16 check bits of a DRAM or keep word, and the 9 of an SRAM word (R442, R444). -/
def checkBits (r : Region) (i : Nat) (d : BitVec 128) : Nat :=
  hammingOf r i d + flag (parityOf r i d) 8 + (if regionCode r < 5 then 0 else rowHash r i * 512)

/-- What is stored of a word: data in bits 0 to 127, the check bits above, with the difference that errors have made. -/
def storedBits (r : Region) (i : Nat) (d : BitVec 128) (e : BitVec 144) : BitVec 144 :=
  (BitVec.ofNat 144 (d.toNat + checkBits r i d * 2 ^ 128)) ^^^ e

/-- The syndrome a reader computes from what is stored, and the address it supplies (R443). -/
def synRead (r : Region) (i : Nat) (w : BitVec 144) : Nat :=
  hammingOf r i (w.setWidth 128) ^^^ (w.toNat / 2 ^ 128 % 256)

/-- What a reader makes of a word (R443, R444). -/
inductive WordRes where
  | clean
  /-- Correctable; the data bit to flip, none for a check bit. -/
  | fixed (flip : Option Nat)
  | bad (misaddr : Bool)
deriving DecidableEq, Repr

/-- The position of a value in a list. -/
def indexOf (v : Nat) : List Nat → Nat → Option Nat
  | [], _ => none
  | x :: t, i => if x = v then some i else indexOf v t (i + 1)

/-- Decoding by syndrome and parity, the rows of R443 in order; a row hash that does not match is MISADDR (R444). -/
def decodeErr (e : BitVec 144) : WordRes :=
  if e.toNat / 2 ^ 137 ≠ 0 then .bad true
  else
    let s := synOf e
    let p := parOf e
    if s = 0 then (if p then .fixed none else .clean)
    else if s = 255 then .bad true
    else match indexOf s hColumns 0 with
      | some i =>
        if 128 ≤ i ∧ i < 152 then .bad true
        else if i < 128 ∧ p then .fixed (some i)
        else .bad false
      | none => if popCount s 8 = 1 ∧ p then .fixed none else .bad false

/-- The syndrome and parity as MEM_ELOG shows them: parity in bit 8 (log entry 30). -/
def elogSyn (e : BitVec 144) : BitVec 9 := BitVec.ofNat 9 (synOf e + flag (parOf e) 8)

/-! ### The error log (R446, R448) -/

/-- One entry into the log of 16; a full log raises LOG_OVF. -/
def pushElog (x : ElogEntry) (c : Chip) : Chip :=
  if c.memc.elog.length < 16 then { c with memc := { c.memc with elog := c.memc.elog ++ [x] } }
  else raise .mem 13 c

/-- Counts an error in MEM_CE_CNT or MEM_UE_CNT; words of keep memory are in neither field (log entry 30). -/
def cntMem (off : Nat) (r : Region) (c : Chip) : Chip :=
  match r with
  | .dram => cntSat .mem off 31 16 c
  | .keep => c
  | _ => cntSat .mem off 15 0 c

def logCe (r : Region) (i : Nat) (e : BitVec 144) (scrub : Bool) (c : Chip) : Chip :=
  raise .mem 8 (cntMem 0x048 r
    (pushElog { syndrome := elogSyn e, region := regionCode r, scrub := scrub, addr := 16 * i } c))

def logUe (r : Region) (i : Nat) (e : BitVec 144) (misaddr scrub : Bool) (c : Chip) : Chip :=
  raiseIf misaddr .mem 10 (raise .mem 9 (cntMem 0x04C r
    (pushElog { syndrome := elogSyn e, region := regionCode r, ue := true, misaddr := misaddr, scrub := scrub, addr := 16 * i } c)))

/-! ### Reads and writes -/

/-- The bytes of a word as stored, its error pattern applied to the data. -/
def rawWord (m : Mem) (r : Region) (i : Nat) : BitVec 128 :=
  BitVec.ofNat 128 (memNat m r (16 * i) 16) ^^^ BitVec.ofNat 128 (wordErr m r i).toNat

/-- Puts 128 bits of data into a word with a valid code. -/
def putWord (r : Region) (i : Nat) (d : BitVec 128) (m : Mem) : Mem :=
  setWordErr r i 0 (setBytes r (16 * i) (toBytes 16 d.toNat) m)

/-- A poisoned word keeps its data, and its H is the code of that data XOR 0xFF (R445). -/
def poison (r : Region) (i : Nat) (m : Mem) : Mem :=
  setWordErr r i (BitVec.ofNat 144 (255 * 2 ^ 128)) (putWord r i (rawWord m r i) m)

/-- DRAM can be accessed: trained, initialised and its clock running (R12, R440). -/
def dramUp (c : Chip) : Bool := (hdr c .mem).clockOk && c.memc.dramOk

/-- Bytes of DRAM that accesses reach: the size in force, as far as it has been initialised (R440). -/
def dramBytes (c : Chip) : Nat := min (rdF c .mem 0x040 3 0) c.memc.initGiB * 2 ^ 30

/-- DRAM leaves self-refresh, in which it refreshed itself: the controller's intervals begin again. -/
def leaveSelf (now : Nat) (m : MemCtlSt) : MemCtlSt := if m.selfRefresh then { m with selfRefresh := false, lastRefresh := now } else m

/-- An access to DRAM ends its self-refresh (R480). The scrubber's reads pause with it and do not count (R447). -/
def dramTouch (r : Region) (scrub : Bool) (s : State) : State :=
  if r = .dram ∧ !scrub then
    { s with chip := { s.chip with memc := { leaveSelf s.chip.clk.now s.chip.memc with lastAccess := s.chip.clk.now } } }
  else s

/-- A consumer's read of one word (R446): corrected and written back when correctable; `none` when uncorrectable. -/
def readCode (r : Region) (i : Nat) (scrub : Bool) (s0 : State) : State × Option (BitVec 128) :=
  let s := dramTouch r scrub s0
  let e := wordErr s.mem r i
  let d := rawWord s.mem r i
  if e = 0 then (s, some d)
  else match decodeErr e with
    | .clean => (s, some d)
    | .fixed f =>
      let d := match f with
        | some b => d ^^^ (1#128 <<< b)
        | none => d
      ({ s with mem := putWord r i d s.mem, chip := logCe r i e scrub s.chip }, some d)
    | .bad m => ({ s with chip := logUe r i e m scrub s.chip }, none)

/-- Applies an armed injection to the word being written (R448): one data bit, or two; which bits is open, so they are free. -/
def injectErr (r : Region) (i : Nat) (s : State) : State :=
  match tabGet 0 s.chip.memc.inj (regionCode r) with
  | 0 => s
  | n =>
    let f := (freshBits s.chip).toNat
    let b0 := f % 128
    let b1 := (b0 + 1 + f / 128 % 127) % 128
    let pat : BitVec 144 := if n = 1 then 1#144 <<< b0 else (1#144 <<< b0) ||| (1#144 <<< b1)
    { s with
      mem := setWordErr r i pat s.mem
      chip := useFresh { s.chip with memc := { s.chip.memc with inj := tabSet 0 s.chip.memc.inj (regionCode r) 0 } } }

/-- A write of bytes inside one word: a whole word gets a new code, a part is merged by read-modify-write (R30), and a word found
uncorrectable on the way is poisoned (R445). -/
def writeInWord (r : Region) (a : Nat) (bs : List Byte) (s0 : State) : State :=
  let s := dramTouch r false s0
  let i := a / 16
  if bs.length = 16 then
    injectErr r i { s with mem := setWordErr r i 0 (setBytes r a bs s.mem) }
  else
    match readCode r i false s with
    | (s1, some _) => injectErr r i { s1 with mem := setBytes r a bs s1.mem }
    | (s1, none) => { s1 with mem := poison r i (setBytes r a bs (putWord r i (rawWord s1.mem r i) s1.mem)) }

/-- Puts the enabled bytes of a list from an address on. -/
def setEnabled (r : Region) (a : Nat) : List (Option Byte) → Mem → Mem
  | [], m => m
  | some b :: t, m => setEnabled r (a + 1) t (setMemByte r a b m)
  | none :: t, m => setEnabled r (a + 1) t m

/-- A write with byte enables inside one word: a whole word gets a new code; a part is merged by one read-modify-write (R30), and a word
found uncorrectable on the way is poisoned (R445); without an enabled byte nothing is written. -/
def mergeInWord (r : Region) (a : Nat) (bs : List (Option Byte)) (s0 : State) : State :=
  if bs.all (·.isNone) then s0
  else if bs.length = 16 ∧ bs.all (·.isSome) then writeInWord r a (bs.filterMap id) s0
  else
    let s := dramTouch r false s0
    let i := a / 16
    match readCode r i false s with
    | (s1, some _) => injectErr r i { s1 with mem := setEnabled r a bs s1.mem }
    | (s1, none) => { s1 with mem := poison r i (setEnabled r a bs (putWord r i (rawWord s1.mem r i) s1.mem)) }

/-- A 32-bit read at a 4-byte-aligned byte address. -/
def readMem32 (r : Region) (a : Nat) (s : State) : State × Option Word :=
  match readCode r (a / 16) false s with
  | (s1, some d) => (s1, some (BitVec.ofNat 32 (d.toNat / 2 ^ (8 * (a % 16)))))
  | (s1, none) => (s1, none)

/-- A 32-bit write at a 4-byte-aligned byte address. -/
def writeMem32 (r : Region) (a : Nat) (v : Word) (s : State) : State := writeInWord r a (toBytes 4 v.toNat) s

/-- Bytes split at word boundaries: the first chunk and the rest. -/
def writeMem (r : Region) : Nat → Nat → List Byte → State → State
  | 0, _, _, s => s
  | k + 1, a, bs, s =>
    match bs with
    | [] => s
    | _ =>
      let n := 16 - a % 16
      writeMem r k (a + n) (bs.drop n) (writeInWord r a (bs.take n) s)

/-- A write of any number of bytes. -/
def writeBytes (r : Region) (a : Nat) (bs : List Byte) (s : State) : State := writeMem r (bs.length / 16 + 2) a bs s

end Sys2Proof.Machine
end

