-- ==== Sys2Proof/Machine/PageOps.lean ====
section
/-!
DEFINITION. Operations over page headers that several chapters share: lists of pages, safe demands (R33), the clearing of a fault
latch (R36), and clock domains (R12, R16).
-/

namespace Sys2Proof.Machine

/-- The page numbers from `base` on, `n` of them, whose header is not at its reset value, less the base. -/
def listed (c : Chip) (base n : Nat) : List Nat :=
  ((c.pages.filter (fun x => base ≤ x.1 && x.1 < base + n)).map (fun x => x.1 - base))

/-- The numbers of either list, without repeats. -/
def mergeNums (a b : List Nat) : List Nat := a ++ b.filter (fun k => !a.contains k)

/-! ### Clock domains -/

/-- The index of a domain in the order of Table 1-2. -/
def clkIdx : Clk → Nat
  | .sys => 0 | .pwm => 1 | .time => 2 | .sense => 3 | .adc => 4 | .netTx => 5 | .netRx p => 6 + p.val
  | .host => 10 | .mem => 11 | .field => 12 | .belay => 13

/-- The domain is lost at present. -/
def clkLost (c : Chip) (d : Clk) : Bool := c.clk.lost.getLsbD (clkIdx d)

/-! ### Safe demands (R33) -/

def anyDemand (h : PageHdr) : Bool := h.halted || h.stoDemand || h.sagDemand

/-- A safe demand arises: a page in READY or RUN goes to SAFE, and so does one whose splice it aborts (R33, R485). -/
def demandOn (p : Page) (f : PageHdr → PageHdr) (c : Chip) : Chip :=
  let c1 := modHdr p f c
  match (hdr c1 p).state with
  | .ready | .run => setState p .safe c1
  | .splicing => setState p .safe (spliceCut p c1)
  | _ => c1

/-- A safe demand ends: a page in SAFE with no other one goes to READY or OFF. -/
def demandOff (p : Page) (f : PageHdr → PageHdr) (c : Chip) : Chip :=
  let c1 := modHdr p f c
  let h := hdr c1 p
  if h.state = .safe ∧ !anyDemand h then setState p (if h.en then .ready else .off) c1 else c1

/-! ### The fault latch -/

/-- A clear is accepted: CODE, COUNT and SEQUENCE read 0, and FAULT ends in READY, or in SAFE while a safe demand stands (Table 2-11). -/
def clearLatch (p : Page) (c : Chip) : Chip :=
  let c1 := modHdr p (fun h => { h with fltCode := 0, fltCount := 0, fltSeq := 0 }) c
  if (hdr c1 p).state = .fault then setState p (if anyDemand (hdr c1 p) then .safe else .ready) c1 else c1

/-- A page that acts: enabled, and neither off nor splicing. In FAULT the chapters' reactions still need its function. -/
def acting (c : Chip) (p : Page) : Bool :=
  let h := hdr c p
  h.en && h.state != .off && h.state != .splicing

end Sys2Proof.Machine
end

