-- ==== Sys2Proof/Machine/DspOps.lean ====
section
/-!
DEFINITION. The dispatcher's operations (chapter 15): admission, merging, queues, the choice of cores, offers, ends with their
completion records, and cancels.
-/

namespace Sys2Proof.Machine

/-! ### Access -/

def core (c : Chip) (k : Nat) : CoreSt := tabGet {} c.cores k

def setCore (k : Nat) (x : CoreSt) (c : Chip) : Chip := { c with cores := tabSet {} c.cores k x }

def modCore (k : Nat) (f : CoreSt → CoreSt) (c : Chip) : Chip := setCore k (f (core c k)) c

def fcoPage (k : Nat) : Page := .fco (Fin.ofNat 8 k)

/-- An item in its slot; a FREE slot holds no words. -/
def slotOf (c : Chip) (i : Nat) : Option ItemSt :=
  let x := tabGet ({} : ItemSt) c.dsp.slots i
  if x.words = [] then none else some x

def setSlot (i : Nat) (x : ItemSt) (c : Chip) : Chip := { c with dsp := { c.dsp with slots := tabSet {} c.dsp.slots i x } }

def modSlot (i : Nat) (f : ItemSt → ItemSt) (c : Chip) : Chip :=
  match slotOf c i with
  | some x => setSlot i (f x) c
  | none => c

def flow (c : Chip) (f : Nat) : FlowSt := tabGet {} c.dsp.flows f

def setFlow (f : Nat) (x : FlowSt) (c : Chip) : Chip := { c with dsp := { c.dsp with flows := tabSet {} c.dsp.flows f x } }

def readyList (c : Chip) (p : Nat) : List Nat := tabGet [] c.dsp.ready p

def setReady (p : Nat) (l : List Nat) (c : Chip) : Chip := { c with dsp := { c.dsp with ready := tabSet [] c.dsp.ready p l } }

/-- The generation of a slot, and the ID of its item (Table 15-1). -/
def slotGen (c : Chip) (i : Nat) : BitVec 16 := tabGet 0 c.dsp.gens i

def itemId (i : Nat) (g : BitVec 16) : Word := BitVec.ofNat 32 (i + g.toNat * 65536)

/-- The first free slot from `i` on, within `n` of the 16,384 slots, round their end (R367). -/
def freeSlot (c : Chip) : Nat → Nat → Nat
  | 0, i => i % 16384
  | n + 1, i => if (slotOf c (i % 16384)).isNone then i % 16384 else freeSlot c n (i + 1)

/-- The dispatcher admits, starts and expires: its page is up and not halted (Table 15-5). -/
def dspActive (c : Chip) : Bool := isUp c .dsp && !c.dsp.halted && !clkLost c .sys && c.pwr.state != .save

/-! ### Queues (R370, R373) -/

/-- The head of an idle flow's queue becomes READY, and the flow joins the tail of ready list PRIO. -/
def tryReady (f : Nat) (c : Chip) : Chip :=
  let x := flow c f
  match x.head, x.queue with
  | none, i :: t =>
    let c1 := setFlow f { x with head := some i, queue := t } c
    let c2 := modSlot i (fun it => { it with state := .ready, readySince := c.clk.now, prio := x.prio }) c1
    setReady x.prio (readyList c2 x.prio ++ [f]) c2
  | _, _ => c

/-- An item joins the tail of its flow's queue. -/
def enqueue (i : Nat) (c : Chip) : Chip :=
  match slotOf c i with
  | none => c
  | some it =>
    let x := flow c it.flow
    tryReady it.flow
      (setFlow it.flow { x with queue := x.queue ++ [i] } (setSlot i { it with state := .queued } c))

/-- A new item takes a slot and enters its queue, or its delay list (R371, R373). -/
def admitItem (f kind : Nat) (report delayed : Bool) (delay : Word) (payload : List Word) (src : Option (Nat × Nat)) (c : Chip) :
    Chip × Word :=
  let i := freeSlot c 16384 (Config.slotStart c.dsp.nextOrder)
  let g := slotGen c i
  let w0 := BitVec.ofNat 32 (f + kind * 4096 + flag report 16 + flag delayed 17)
  let words := [w0, delay, itemId i g, BitVec.ofNat 32 c.tim.ns] ++ payload
  let wait := delayed && delay != 0
  let it : ItemSt :=
    { state := if wait then .delayed else .queued, words := words, flow := f, gen := g, src := src, report := report,
      due := c.dsp.ticks + delay, order := c.dsp.nextOrder }
  let c1 := setSlot i it { c with dsp :=
    { c.dsp with
      nextOrder := c.dsp.nextOrder + 1
      cqReserved := c.dsp.cqReserved + (if report then 1 else 0) } }
  (if wait then c1 else enqueue i c1, itemId i g)

/-- The slot of a source's item that has not started yet (R368); a yielded item has. -/
def waitingFrom (c : Chip) (src : Nat × Nat) : Option Nat :=
  (c.dsp.slots.find? (fun p => p.2.src = some src ∧ p.2.state ≠ .running ∧ p.2.state ≠ .preempted ∧ !p.2.yielded)).map (·.1)

/-- A hardware raise (R367, R368): dropped where its flow is not enabled, merged into the source's waiting item, or admitted. -/
def hwRaise (kind index f : Nat) (payload : List Word) (c : Chip) : Chip :=
  if !isUp c .dsp then c
  else
    let x := flow c f
    if !x.en then setFlow f { x with ignored := min 255 (x.ignored + 1) } c
    else
      match waitingFrom c (kind, index) with
      | some i =>
        let c1 := modSlot i (fun it =>
          let w0 := it.words.headD 0
          { it with words := [setFld w0 31 24 (min 255 (fld w0 31 24 + 1)), it.words.getD 1 0, it.words.getD 2 0,
              BitVec.ofNat 32 c.tim.ns] ++ payload }) c
        setFlow f { x with coalesced := min 255 (x.coalesced + 1) } c1
      | none => (admitItem f kind false false 0 payload (some (kind, index)) c).1

/-- The bases of Table 15-2 in force. -/
def srcBase (c : Chip) (kind : Nat) : Nat :=
  match kind with
  | 2 => actF c .dsp 0x054 11 0
  | 3 => actF c .dsp 0x054 27 16
  | 4 => actF c .dsp 0x058 11 0
  | _ => actF c .dsp 0x058 27 16

/-- A raise of source `index` of a kind with its three payload words (Table 15-2). -/
def sourceRaise (kind index : Nat) (w4 w5 w6 : Word) (c : Chip) : Chip :=
  hwRaise kind index (srcBase c kind + index) [w4, w5, w6, 0] c

/-! ### Ends (R376) -/

/-- The completion record of an item in the deck ring, then COMPLETION. -/
def postRecord (i : Nat) (it : ItemSt) (status detail : Nat) (results : List Word) (s : State) : State :=
  let d := s.chip.dsp
  let size := rdF s.chip .dsp 0x0C4 12 0
  let base := (rd s.chip .dsp 0x0C0).toNat
  let w1 := status + it.core * 256 + flag d.cqPhase 15 + detail * 65536
  let words : List Word :=
    [itemId i it.gen, BitVec.ofNat 32 w1, BitVec.ofNat 32 it.flow, BitVec.ofNat 32 s.chip.tim.ns] ++
      (if status = 0 then results else [0, 0, 0, 0])
  let a := base + 32 * d.cqTail
  let s1 := if a + 32 ≤ regionSize s.chip .deck then writeBytes .deck a (words.flatMap (fun w => toBytes 4 w.toNat)) s else s
  let wrap := decide (size ≤ d.cqTail + 1)
  onChip (fun c => raise .dsp 8 { c with dsp :=
    { c.dsp with
      cqTail := if wrap then 0 else d.cqTail + 1
      cqPhase := if wrap then !d.cqPhase else d.cqPhase
      cqPosted := c.dsp.cqPosted + 1
      cqReserved := c.dsp.cqReserved - 1 } }) s1

/-- Counts an end in its flow; a FAILED end is shown and raised. -/
def countEnd (f status detail : Nat) (c : Chip) : Chip :=
  let x := flow c f
  match status with
  | 0 => setFlow f { x with done := x.done + 1 } c
  | 2 => setFlow f { x with cancelled := x.cancelled + 1 } c
  | 3 =>
    raise .dsp 10 (wr .dsp 0x0E4 (BitVec.ofNat 32 (f + detail * 65536)) (setFlow f { x with failed := min 255 (x.failed + 1) } c))
  | _ => setFlow f { x with aborted := min 255 (x.aborted + 1) } c

/-- Takes an item out of its flow, its ready list, its core and its slot. -/
def dropItem (i : Nat) (it : ItemSt) (c : Chip) : Chip :=
  let x := flow c it.flow
  let isHead := decide (x.head = some i)
  let c1 := setFlow it.flow { x with head := if isHead then none else x.head, queue := x.queue.filter (· != i) } c
  let c2 := if it.state = .ready ∨ it.state = .offered then
      setReady it.prio ((readyList c1 it.prio).filter (· != it.flow)) c1 else c1
  let c3 := match it.state with
    | .offered => modCore it.core (fun k =>
        { k with offer := none, cause := k.cause &&& 2, withdrawn := true }) c2
    | .running | .preempted => modCore it.core (fun k =>
        { k with nest := k.nest.filter (· != i), assigned := if k.assigned = some i then none else k.assigned }) c2
    | _ => c2
  let c4 := setSlot i {} c3
  tryReady it.flow { c4 with dsp := { c4.dsp with gens := tabSet 0 c4.dsp.gens i (it.gen + 1) } }

/-- The end of an item (R376): status 0 DONE, 2 CANCELLED, 3 FAILED, 4 ABORTED. -/
def endItem (i status detail : Nat) (results : List Word) (s : State) : State :=
  match slotOf s.chip i with
  | none => s
  | some it =>
    let s1 := onChip (countEnd it.flow status detail) s
    let s2 := if it.report then postRecord i it status detail results s1 else s1
    onChip (dropItem i it) s2

def eachState {α : Type} (l : List α) (f : α → State → State) (s : State) : State := l.foldl (fun s x => f x s) s

/-- Every item on a core ends ABORTED with a detail (Table 15-5, R362). -/
def abortCoreItems (k detail : Nat) (s : State) : State :=
  let x := core s.chip k
  let on := (match x.assigned with | some i => [i] | none => []) ++ x.nest
  eachState on (fun i => endItem i 4 detail []) s

/-- The last core of every flow that ran on `k` last is forgotten (R374). -/
def forgetCore (k : Nat) (c : Chip) : Chip :=
  { c with dsp := { c.dsp with flows := c.dsp.flows.map (fun p => (p.1, if p.2.last = some k then { p.2 with last := none } else p.2)) } }

/-- An outstanding offer of a core is withdrawn, and its item is READY again (R373, R379). -/
def withdrawOffer (k : Nat) (c : Chip) : Chip :=
  match (core c k).offer with
  | none => c
  | some i =>
    modSlot i (fun it => { it with state := .ready })
      (modCore k (fun x => { x with offer := none, cause := x.cause &&& 2, withdrawn := true }) c)

/-! ### Choice (R374, R375) -/

def draining (c : Chip) (k : Nat) : Bool := bit (rd c .dsp 0x040) k

/-- A core is eligible for a flow. -/
def eligible (c : Chip) (f : FlowSt) (k : Nat) : Bool :=
  bit f.mask k && decide ((hdr c (fcoPage k)).state = .run) && (core c k).imageOk && !draining c k && !(core c k).halted

/-- A core waits in NEXT with nothing running. -/
def coreIdle (c : Chip) (k : Nat) : Bool :=
  let x := core c k
  decide (x.wait = .next) && x.nest.isEmpty && x.assigned.isNone

/-- The priority of a core's innermost running item. -/
def topPrio (c : Chip) (k : Nat) : Option Nat :=
  let x := core c k
  match x.assigned, x.nest with
  | some i, _ => (slotOf c i).map (·.prio)
  | none, i :: _ => (slotOf c i).map (·.prio)
  | none, [] => none

/-- An item starts on an idle core: it fills the ITEM registers through NEXT. -/
def startOn (i k : Nat) (c : Chip) : Chip :=
  match slotOf c i with
  | none => c
  | some it =>
    let c1 := if it.state = .offered then withdrawOffer it.core c else c
    let c2 := modSlot i (fun it => { it with state := .running, core := k, since := c.clk.now }) c1
    let c3 := setFlow it.flow { flow c2 it.flow with last := some k } c2
    modCore k (fun x => { x with assigned := some i }) (setReady it.prio ((readyList c3 it.prio).filter (· != it.flow)) c3)

/-- An item is offered to a core, and PREEMPT sets. -/
def offerTo (i k : Nat) (c : Chip) : Chip :=
  modSlot i (fun it => { it with state := .offered, core := k })
    (modCore k (fun x => { x with offer := some i, offerSince := c.clk.now, cause := x.cause ||| 1, withdrawn := false }) c)

/-- The core an item of priority `p` may be offered to: the lowest innermost priority below `p`, then the lowest number. -/
def offerCore (c : Chip) (f : FlowSt) (p : Nat) : Option Nat :=
  (List.range 8).foldl (fun best k =>
    match topPrio c k with
    | some q =>
      if eligible c f k && decide (q < p) && (core c k).offer.isNone && !(core c k).noOffer then
        match best with
        | some (q', _) => if q < q' then some (q, k) else best
        | none => some (q, k)
      else best
    | none => best) (none : Option (Nat × Nat)) |>.map (·.2)

/-- The choice for one flow's READY or OFFERED item. -/
def chooseFor (f : Nat) (c : Chip) : Chip :=
  let x := flow c f
  match x.head with
  | none => c
  | some i =>
    match slotOf c i with
    | none => c
    | some it =>
      if it.state ≠ .ready ∧ it.state ≠ .offered then c
      else
        let aff := actF c .dsp 0x04C 15 0
        let lastIdle := match x.last with | some k => if eligible c x k && coreIdle c k then some k else none | none => none
        match lastIdle with
        | some k => startOn i k c
        | none =>
          let waits := match x.last with
            | some k => eligible c x k && decide (c.clk.now < it.readySince + aff)
            | none => false
          if waits then c
          else
            match (List.range 8).find? (fun k => eligible c x k && coreIdle c k) with
            | some k => startOn i k c
            | none =>
              if it.state = .ready then
                match offerCore c x it.prio with
                | some k => offerTo i k c
                | none => c
              else c

/-- Step 5 of the cycle: the ready lists from priority 7 down, each in FIFO order. -/
def chooseAll (c : Chip) : Chip :=
  [7, 6, 5, 4, 3, 2, 1, 0].foldl (fun c p => (readyList c p).foldl (fun c f => chooseFor f c) c) c

/-! ### Delays and cancels (R371, R377) -/

/-- A due instant has been reached, in signed 32-bit arithmetic. -/
def dueReached (ticks due : Word) : Bool := !(ticks - due).msb

/-- A delayed item whose DUE is reached joins its flow queue; a yielded one takes the head of it. -/
def expire (i : Nat) (c : Chip) : Chip :=
  match slotOf c i with
  | none => c
  | some it =>
    if it.state = .delayed ∧ dueReached c.dsp.ticks it.due then
      if it.yielded then
        let x := flow c it.flow
        tryReady it.flow (setFlow it.flow { x with head := none, queue := i :: x.queue }
          (setSlot i { it with state := .queued } c))
      else enqueue i c
    else c

/-- Whether a delayed item is due before another: by remaining ticks, then by admission order. -/
def dueBefore (ticks : Word) (a b : Nat × ItemSt) : Bool :=
  let ra := (a.2.due - ticks).toInt
  let rb := (b.2.due - ticks).toInt
  decide (ra < rb) || (decide (ra = rb) && decide (a.2.order ≤ b.2.order))

/-- Step 2 of the cycle. -/
def expireAll (c : Chip) : Chip :=
  let due := c.dsp.slots.filter (fun p => decide (p.2.state = .delayed) && dueReached c.dsp.ticks p.2.due)
  (due.mergeSort (dueBefore c.dsp.ticks)).foldl (fun c p => expire p.1 c) c

/-- An item that has not started can be cancelled. -/
def cancellable (it : ItemSt) : Bool := it.state ≠ .running && it.state ≠ .preempted

def setCancelRes (path : Nat) (v : Nat) (c : Chip) : Chip :=
  { c with held := tabSet 0 c.held (path * 0x1000000 + pageBase .dsp + 0x0B0) (BitVec.ofNat 32 v) }

/-- A cancel takes effect (R377), by flow or by ID. -/
def doCancel (path : Nat) (byFlow : Bool) (v : Nat) (s : State) : State :=
  if byFlow then
    let l := (s.chip.dsp.slots.filter (fun p => p.2.flow = v ∧ cancellable p.2)).map (·.1)
    let s1 := eachState l (fun i => endItem i 2 0 []) s
    onChip (setCancelRes path (l.length * 65536)) s1
  else
    let i := v % 16384
    match slotOf s.chip i with
    | some it =>
      if itemId i it.gen = BitVec.ofNat 32 v then
        if cancellable it then onChip (setCancelRes path 0) (endItem i 2 0 [] s)
        else onChip (setCancelRes path 1) s
      else onChip (setCancelRes path 2) s
    | none => onChip (setCancelRes path 2) s

/-- Step 3 of the cycle. -/
def doCancels (s : State) : State :=
  let l := s.chip.dsp.cancels
  eachState l (fun x => doCancel x.1 x.2.1 x.2.2) (onChip (fun c => { c with dsp := { c.dsp with cancels := [] } }) s)

/-- The tick counter over one dispatcher cycle of 8 SYS cycles (R371, R372). -/
def advanceTicks (c : Chip) : Chip :=
  let period := max 1 (actF c .dsp 0x044 16 0)
  let n := c.dsp.sub + 8
  { c with dsp := { c.dsp with ticks := c.dsp.ticks + BitVec.ofNat 32 (n / period), sub := n % period } }

/-- One dispatcher cycle (R372): admission happens where the submission and the raise stand, ends where the core reports them. -/
def dspCycle (s : State) : State :=
  if !isUp s.chip .dsp then s
  else if s.chip.dsp.halted then onChip advanceTicks s
  else onChip chooseAll (doCancels (onChip (fun c => expireAll (advanceTicks c)) s))

/-! ### Submission (R366) -/

/-- DSP_SUB w as a path holds it. -/
def subWord (c : Chip) (path : Path) (w : Nat) : Word := heldGet c path (pageBase .dsp + 0x080 + 4 * w)

/-- The write of DSP_SUB7 submits. -/
def submitItem (path : Path) (c : Chip) : Chip :=
  let w0 := subWord c path 0
  let w1 := subWord c path 1
  let f := fld w0 11 0
  let report := bit w0 16
  let delayed := bit w0 17
  let res (v : Nat) (c : Chip) : Chip := heldSet path (pageBase .dsp + 0x0A0) (BitVec.ofNat 32 v) c
  if !dspActive c then res 0 c
  else if !(flow c f).en then res (3 + 16) c
  else if fld w0 23 18 ≠ 0 ∨ w1.msb ∨ (!delayed ∧ w1 ≠ 0) then res (3 + 32) c
  else
    let used := (c.dsp.slots.filter (fun p => p.2.src.isNone)).length
    let noRec := report && decide (rdF c .dsp 0x0C4 12 0 ≤ c.dsp.cqPosted + c.dsp.cqReserved)
    if 15360 ≤ used ∨ noRec then
      res 2 (raise .dsp 9 { c with dsp := { c.dsp with full := min 65535 (c.dsp.full + 1) } })
    else
      let kind := match path with | .core _ => 1 | _ => 0
      let r := admitItem f kind report delayed w1 [subWord c path 4, subWord c path 5, subWord c path 6, subWord c path 7] none c
      heldSet path (pageBase .dsp + 0x0A4) r.2 (res 1 r.1)

/-- DSP_FLOW_CFG of the flow a path has selected (R369). -/
def flowCfg (f : Nat) (v : Word) (s : State) : State :=
  let x := flow s.chip f
  let s1 := onChip (setFlow f { x with en := bit v 0, prio := fld v 6 4, mask := BitVec.ofNat 8 (fld v 15 8) }) s
  if bit v 0 then s1
  else
    let l := (s1.chip.dsp.slots.filter (fun p => p.2.flow = f ∧ cancellable p.2)).map (·.1)
    eachState l (fun i => endItem i 2 0 []) s1

/-- DSP_CQ_SIZE: the record ring starts again at index 0 with PHASE 1, as the completion ring does (R55, log entry 186). -/
def dspCqSize (v : Word) (c : Chip) : Chip :=
  let c1 := wr .dsp 0x0C4 v c
  { c1 with dsp := { c1.dsp with cqHead := 0, cqTail := 0, cqPhase := true, cqPosted := 0 } }

/-- DSP_CQ_HEAD (R376 under the rules of R54). -/
def dspCqHeadWrite (v : Nat) (c : Chip) : Chip :=
  let size := rdF c .dsp 0x0C4 12 0
  let dist := (v + size - c.dsp.cqHead) % size
  if size ≤ v ∨ c.dsp.cqPosted < dist then raise .dsp 14 c
  else { c with dsp := { c.dsp with cqHead := v, cqPosted := c.dsp.cqPosted - dist } }

/-- Every item ends ABORTED without a record; the flow table is kept and the ring registers reset (Table 15-5). -/
def dspAbortAll (c : Chip) : Chip :=
  let n := c.dsp.slots.length
  let fl := c.dsp.flows.map (fun p => (p.1, { p.2 with
    queue := []
    head := none
    aborted := min 255 (p.2.aborted + (c.dsp.slots.filter (fun q => q.2.flow = p.1)).length) }))
  let gens := c.dsp.slots.foldl (fun g p => tabSet 0 g p.1 (p.2.gen + 1)) c.dsp.gens
  let c := wr .dsp 0x0C0 0 (wr .dsp 0x0C4 0x10 c)
  let cores := c.cores.map (fun p => (p.1, { p.2 with nest := [], assigned := none, offer := none, withdrawn := p.2.withdrawn || p.2.offer.isSome, cause := p.2.cause &&& 2 }))
  { c with
    cores := cores
    dsp :=
      { c.dsp with
        slots := []
        gens := gens
        flows := fl
        ready := []
        cancels := []
        cqHead := 0
        cqTail := 0
        cqPhase := true
        cqPosted := 0
        cqReserved := 0
        resetAborted := min 65535 n } }

/-! ### Draining (R379) -/

/-- Nothing runs on a core. -/
def coreEmpty (c : Chip) (k : Nat) : Bool := (core c k).nest.isEmpty && (core c k).assigned.isNone

/-- A DRAIN bit sets: starts and offers stop. -/
def drainSet (k : Nat) (c : Chip) : Chip :=
  let c1 := withdrawOffer k c
  { forgetCore k c1 with dsp := { (forgetCore k c1).dsp with drainSince := tabSet 0 c1.dsp.drainSince k (c.clk.now + 1) } }

/-- A DRAIN bit clears: the core returns to service. -/
def drainClear (k : Nat) (c : Chip) : Chip :=
  { c with dsp := { c.dsp with drained := c.dsp.drained &&& ~~~(1#8 <<< k), drainSince := tabSet 0 c.dsp.drainSince k 0 } }

/-- DSP_CTL is written: bits that rise drain, bits that fall return their core to service. -/
def drainWrite (v : Word) (c : Chip) : Chip :=
  let old := rd c .dsp 0x040
  let c1 := wr .dsp 0x040 (v &&& 0xFF) c
  (List.range 8).foldl (fun c k =>
    if bit v k && !bit old k then drainSet k c else if !bit v k && bit old k then drainClear k c else c) c1

/-- The last item of a draining core has ended. -/
def drainedEvent (k : Nat) (c : Chip) : Chip :=
  if draining c k && coreEmpty c k && !bit c.dsp.drained k then
    raise .dsp 13 { c with dsp := { c.dsp with drained := c.dsp.drained ||| (1#8 <<< k) } }
  else c

/-- DRAIN_TMO has passed with items left (R379). -/
def drainTimeoutEvent (k : Nat) (s : State) : State :=
  let since := tabGet 0 s.chip.dsp.drainSince k
  if draining s.chip k && since != 0 && decide (since - 1 + actF s.chip .dsp 0x050 31 16 * 1000 ≤ s.chip.clk.now) && !coreEmpty s.chip k then
    onChip (drainedEvent k) (abortCoreItems k 0x99 s)
  else s

end Sys2Proof.Machine
end

