-- ==== Sys2Proof/Machine/Flags.lean ====
section
/-!
DEFINITION. The flags of a filter core's SR and the results they go with (Table 14-2, R344, R350): saturation and wrapping of ALU
results, of accumulator results and of products.
-/

namespace Sys2Proof.Machine

/-- The bits of SR (Table 14-2). -/
def srZ : Nat := 0
def srN : Nat := 1
def srV : Nat := 2
def srC : Nat := 3
def srAV : Nat := 4
def srSAT : Nat := 5
def srFRAC : Nat := 6
def srIE : Nat := 8
def srINIRQ : Nat := 9
def srDENY : Nat := 12
def srXERR : Nat := 13

/-- One bit of a word set to a value. -/
def putBit (w : Word) (i : Nat) (b : Bool) : Word := setFld w i i (if b then 1 else 0)

/-- The sticky bits of SR: AV, DENY and XERR (Table 14-2). -/
def srSticky : Word := 0x3010

/-- The bits of SR a MOVS write reaches; AV, DENY and XERR only fall (R343), and the loop depth is read-only. -/
def srWrite (old v : Word) : Word :=
  (v &&& 0x036F) ||| (old &&& v &&& srSticky)

/-- An exact result brought to 32 bits (R344): saturated under SAT, else its low 32 bits; and whether it saturated. -/
def narrow32 (sat : Bool) (r : Int) : Word × Bool :=
  if sat then
    if r > 2147483647 then (0x7FFFFFFF, true)
    else if r < -2147483648 then (0x80000000, true)
    else (BitVec.ofInt 32 r, false)
  else (BitVec.ofInt 32 r, false)

/-- SR after an ALU instruction: Z and N of the result, V of its saturation, C as the open rule gives it (log entry 10). -/
def aluFlags (sr : Word) (op : BitVec 6) (d s t : Word) (res : Word × Bool) : Word :=
  let sr := putBit (putBit sr srZ (res.1 = 0)) srN res.1.msb
  let v := if bit sr srSAT then res.2 else Config.aluOverflow op d s t
  putBit (putBit sr srV v) srC (Config.aluCarry op d s t)

/-- The product of two D registers (R344), and whether the one FRAC case that does not fit set V. -/
def macProduct (frac : Bool) (x y : Word) : Int × Bool :=
  let p := x.toInt * y.toInt
  if frac then (if p = 2 ^ 62 then (2 ^ 63 - 1, true) else (2 * p, false)) else (p, false)

/-- A result outside 72 bits wraps and sets AV (R344). -/
def wrap72 (r : Int) : BitVec 72 × Bool := (BitVec.ofInt 72 r, decide ((BitVec.ofInt 72 r).toInt ≠ r))

/-- A result outside 72 bits saturates and sets AV (R358). -/
def sat72 (r : Int) : BitVec 72 × Bool :=
  if r > 2 ^ 71 - 1 then (BitVec.ofInt 72 (2 ^ 71 - 1), true)
  else if r < -(2 ^ 71) then (BitVec.ofInt 72 (-(2 ^ 71)), true)
  else (BitVec.ofInt 72 r, false)

/-- |x| of a 32-bit value, with |−2^31| taken as 2^31 − 1 (R350). -/
def abs32 (x : Word) : Word := if x.msb then (if x = 0x80000000 then 0x7FFFFFFF else -x) else x

/-- Whether `x` is less than `y`, signed or unsigned (R350). -/
def lessThan (u : Bool) (x y : Word) : Bool := if u then x.ult y else x.slt y

/-- A branch condition (Table 14-3). -/
def branchTaken (sr : Word) : Nat → Bool
  | 0 => true
  | 1 => bit sr srZ
  | 2 => !bit sr srZ
  | 3 => bit sr srN
  | 4 => !bit sr srN
  | 5 => bit sr srV
  | 6 => bit sr srC
  | 7 => !bit sr srC
  | _ => false

end Sys2Proof.Machine
end

