-- ==== Sys2Proof/Machine/CoreOps.lean ====
section
/-!
DEFINITION. The operations of a filter core (chapter 14) that its instructions share: registers, program flow with loops and
repeats, local addressing, faults, and the system registers.
-/

namespace Sys2Proof.Machine

/-! ### Registers (Table 14-2) -/

def dReg (x : CoreSt) (i : Nat) : Word := tabGet 0 x.d i
def setD (i : Nat) (v : Word) (x : CoreSt) : CoreSt := { x with d := tabSet 0 x.d i v }
def aReg (x : CoreSt) (i : Nat) : BitVec 72 := tabGet 0 x.a i
def setA (i : Nat) (v : BitVec 72) (x : CoreSt) : CoreSt := { x with a := tabSet 0 x.a i v }
def apReg (x : CoreSt) (i : Nat) : Word := tabGet 0 x.ap i
def setAp (i : Nat) (v : Word) (x : CoreSt) : CoreSt := { x with ap := tabSet 0 x.ap i v }
def asReg (x : CoreSt) (i : Nat) : Word := tabGet 0 x.as_ i
def wbReg (x : CoreSt) (i : Nat) : Word := tabGet 0 x.wb i
def wlReg (x : CoreSt) (i : Nat) : BitVec 16 := tabGet 0 x.wl i
def itemReg (x : CoreSt) (i : Nat) : Word := tabGet 0 x.item i

/-- SR as it reads, the loop depth in [17:16]. -/
def srRead (x : CoreSt) : Word := setFld x.sr 17 16 x.depth

/-- LOOPSTA: depth and the levels active. -/
def loopSta (x : CoreSt) : Word := BitVec.ofNat 32 (x.depth + x.lvlActive.toNat * 4)

/-- ITN: iterations completed by the innermost active LOOP or ITER. -/
def itnRead (x : CoreSt) : BitVec 16 :=
  if x.iter.isSome ∨ x.depth = 0 then x.itn else tabGet 0 x.loopItn (x.depth - 1)

/-! ### Program flow (R351, R352) -/

/-- A loop level is popped. -/
def popLoop (x : CoreSt) : CoreSt :=
  let l := x.depth - 1
  { x with depth := l, lvlActive := x.lvlActive &&& ~~~(1#3 <<< l), loopCnt := tabSet 0 x.loopCnt l 0, loopItn := tabSet 0 x.loopItn l 0 }

/-- The next PC after an instruction that falls through: the end of a loop body returns to its start while its count lasts,
free of cost out of the repeat cache and for 2 cycles else; the levels whose body ends here are taken innermost first. -/
def loopAdvance : Nat → CoreSt → CoreSt × Nat
  | 0, x => ({ x with pc := x.pc + 4 }, 0)
  | n + 1, x =>
    let l := x.depth - 1
    if 0 < x.depth ∧ bit x.lvlActive l ∧ tabGet 0 x.loopEnd l = x.pc then
      let cnt := tabGet 0 x.loopCnt l
      if cnt.toNat ≤ 1 then loopAdvance n (popLoop x)
      else
        let top := tabGet 0 x.loopTop l
        let short := decide ((x.pc - top).toNat / 4 + 1 ≤ 16)
        let hit := short && (decide (x.cache = some top) || decide (x.capture = some top))
        ({ x with
            pc := top
            loopCnt := tabSet 0 x.loopCnt l (cnt - 1)
            loopItn := tabSet 0 x.loopItn l (tabGet 0 x.loopItn l + 1)
            cache := if hit then some top else x.cache
            capture := if short then some top else none }, if hit then 0 else 2)
    else ({ x with pc := x.pc + 4 }, 0)

/-- Fall-through under ITER: the repeated instruction stands until its count is done. -/
def seqAdvance (x : CoreSt) : CoreSt × Nat :=
  match x.iter with
  | some n =>
    let x := { x with itn := x.itn + 1 }
    if 1 < n then ({ x with iter := some (n - 1) }, 0) else loopAdvance 3 { x with iter := none }
  | none => loopAdvance 3 x

/-- A taken branch from within loop bodies that leaves them pops their levels (R352); a handler's branches stand in none. -/
def leaveLoops : Nat → BitVec 16 → CoreSt → CoreSt
  | 0, _, x => x
  | n + 1, t, x =>
    let l := x.depth - 1
    let inBody := decide (tabGet 0 x.loopTop l ≤ x.pc) && decide (x.pc ≤ tabGet 0 x.loopEnd l)
    if 0 < x.depth ∧ bit x.lvlActive l ∧ inBody ∧ (t < tabGet 0 x.loopTop l ∨ tabGet 0 x.loopEnd l < t) then leaveLoops n t (popLoop x) else x

/-- The loads of the instruction before take effect (R348). -/
def commitLoads (x : CoreSt) : CoreSt := { x.loads.foldl (fun x p => setD p.1 p.2 x) x with loads := [] }

/-- The stall cycles of R346 and R348: pointers and accumulators read right after they were written. -/
def stalls (x : CoreSt) (ptrs accs : List Nat) : Nat :=
  (if ptrs.any (fun i => x.wrotePtr.contains i) then 1 else 0) + (if accs.any (fun i => x.wroteA.contains i) then 1 else 0)

/-- What one instruction leaves behind beyond its results. -/
structure Trail where
  cycles : Nat := 1
  loads : List (Nat × Word) := []
  accs : List Nat := []
  ptrs : List Nat := []
  useA : List Nat := []
  useP : List Nat := []
  jump : Option (BitVec 16) := none
deriving DecidableEq, Repr

/-- The end of an instruction: earlier loads land, its own begin, its cycles count, and the PC moves. -/
def finishCore (t : Trail) (x : CoreSt) : CoreSt :=
  let st := stalls x t.useP t.useA
  let y := commitLoads x
  let y := { y with loads := t.loads, wroteA := t.accs, wrotePtr := t.ptrs, bpAt := none, stepping := false }
  let r := match t.jump with
    | some p => ({ leaveLoops 3 p y with pc := p }, 0)
    | none => seqAdvance y
  { r.1 with cycles := (r.1.cycles + t.cycles + st + r.2) % 2 ^ 64 }

/-- The same over the chip. -/
def retire (k : Nat) (t : Trail) (f : CoreSt → CoreSt) (c : Chip) : Chip := modCore k (fun x => finishCore t (f x)) c

def retireS (k : Nat) (t : Trail) (f : CoreSt → CoreSt) (s : State) : State := onChip (retire k t f) s

/-! ### Faults (R362) -/

/-- A core fault: the core stops at the instruction, its PC is recorded, its items end ABORTED, and the page faults. -/
def coreFault (k : Nat) (code : Byte) (s : State) : State :=
  let x := core s.chip k
  let s1 := onChip (fun c => latchFault (fcoPage k) code (wr (fcoPage k) 0x06C (BitVec.ofNat 32 x.pc.toNat)
    (modCore k (fun x => { x with wait := .none, iter := none, stepping := false }) (withdrawOffer k c)))) s
  abortCoreItems k code.toNat s1

/-- A denial or an XERR (R357): its flag, FCO_DENY_ADDR, its cause; under TRAP_DENY fault 0x94 instead. -/
def coreRefused (k : Nat) (xerr : Bool) (off : Nat) (s : State) : State :=
  if bit (rd s.chip (fcoPage k) 0x040) 0 then coreFault k 0x94 s
  else onChip (fun c =>
    raise (fcoPage k) (if xerr then 10 else 9)
      (wr (fcoPage k) 0x058 (BitVec.ofNat 32 (off % 2 ^ 24 + flag xerr 30 + flag true 31))
        (modCore k (fun x => { x with sr := putBit x.sr (if xerr then srXERR else srDENY) true }) c))) s

/-! ### Issue -/

/-- A core can take an instruction: it runs, or it is halted and single-stepped, or it is halted within an ITER, which it ends first (R363). -/
def coreRuns (c : Chip) (k : Nat) : Bool :=
  let x := core c k
  x.imageOk && !clkLost c .sys && (match x.wait with | .load _ _ _ => false | _ => true) &&
    ((decide ((hdr c (fcoPage k)).state = .run) && !x.halted) || (x.halted && (x.stepping || x.iter.isSome)))

/-- An enabled breakpoint stands at the PC and has not just been reported (R482). -/
def atBreakpoint (c : Chip) (k : Nat) : Bool :=
  let b := rd c .dbg (0x080 + 4 * k)
  decide (2 ≤ c.dbg.level) && bit b 31 && decide (fld b 15 0 = (core c k).pc.toNat) && decide ((core c k).bpAt ≠ some (core c k).pc) &&
    !(core c k).stepping

/-- A filter core halts (R363, R479). -/
def haltCore (k : Nat) (c : Chip) : Chip :=
  let c1 := modHdr (fcoPage k) (fun h => { h with halted := true }) (modCore k (fun x => { x with halted := true }) c)
  match (hdr c1 (fcoPage k)).state with
  | .ready | .run => setState (fcoPage k) .safe c1
  | _ => c1

/-- Class and operation bits. -/
def cls (w : Word) : Nat := fld w 31 28

/-- Reserved classes, operations and field values (R347). -/
def reservedWord (w : Word) : Bool :=
  match cls w with
  | 0 | 1 => Config.aluReserved (w.extractLsb' 22 6)
  | 2 => fld w 27 26 == 3 && (fld w 25 24 % 2 == 1 || fld w 23 20 % 2 == 1 || fld w 19 16 % 2 == 1)
  | 3 => 4 ≤ fld w 22 20
  | 4 | 6 | 7 => false
  | 5 => 8 ≤ fld w 27 24 || (bit w 23 && bit w 22)
  | 8 => 5 ≤ fld w 27 24 || (fld w 27 24 == 2 && 40 < fld w 5 0)
  | 9 => 8 ≤ fld w 27 24 || (fld w 27 24 == 7 && Config.movsReserved (w.extractLsb' 0 24))
  | _ => true

/-- Instructions that may not stand under ITER, PM loads apart (R351). -/
def notUnderIter (w : Word) : Bool := [4, 5, 6, 9].contains (cls w)

/-- One instruction of core `k`: the word at its PC is `w` and `ok w` names this instruction; else nothing happens. -/
def issue (k : Nat) (w : Word) (ok : Word → Bool) (f : Nat → Word → State → State) (s : State) : State :=
  if !coreRuns s.chip k then s
  else if atBreakpoint s.chip k then
    onChip (fun c => raise .dbg 11 (haltCore k (modCore k (fun x => { x with bpAt := some x.pc }) c))) s
  else
    let x := core s.chip k
    if x.pc.toNat % 4 ≠ 0 then coreFault k 0x91 s
    else
      match readMem32 .core (k * 0x20000 + x.pc.toNat) s with
      | (s1, none) => coreFault k 0x01 s1
      | (s1, some v) =>
        if v ≠ w then s
        else if reservedWord w then coreFault k 0x90 s1
        else if !ok w then s
        else if x.iter.isSome && notUnderIter w then coreFault k 0x90 s1
        else f k w (onChip (modCore k (fun x => { x with wait := .none })) s1)

/-! ### Local addressing (R341, R342, R345) -/

/-- The pointer after a post-modify by a step of bytes. -/
def postMod (x : CoreSt) (n : Nat) (p : Word) (step : Int) : Word :=
  let len := (wlReg x n).toNat
  if len = 0 then BitVec.ofInt 32 (p.toInt + step)
  else
    let b : Int := (wbReg x n).toNat
    BitVec.ofInt 32 (b + ((p.toNat : Int) - b + step) % (len : Int))

/-- The memories of Table 14-1. -/
inductive LocalSpace where
  | pm | dm0 | dm1
deriving DecidableEq, Repr

/-- The local memory of a core address. -/
def localSpace (a : Word) : Option LocalSpace :=
  if a.toNat < 0x10000 then some .pm
  else if a.toNat < 0x18000 then some .dm0
  else if a.toNat < 0x20000 then some .dm1
  else none

/-- A local access is allowed: aligned, in one of the memories that `ok` admits. -/
def localOk (ok : LocalSpace → Bool) (a : Word) : Bool :=
  decide (a.toNat % 4 = 0) && match localSpace a with
    | some m => ok m
    | none => false

/-- Reads one or two words of local memory. -/
def readLocal (k : Nat) (a0 a1 : Word) (pair : Bool) (s : State) : State × Option (List Word) :=
  match readMem32 .core (k * 0x20000 + a0.toNat) s with
  | (s1, none) => (s1, none)
  | (s1, some v0) =>
    if pair then
      match readMem32 .core (k * 0x20000 + a1.toNat) s1 with
      | (s2, none) => (s2, none)
      | (s2, some v1) => (s2, some [v0, v1])
    else (s1, some [v0])

/-! ### System registers (R343, R353) -/

/-- A system register as MOVS reads it, in the order of Table 14-2: AS, WB, WL, PC, LK, SR, XPC, XSR, LOOPCNT, LOOPTOP, LOOPEND,
LOOPSTA, ITN, CAUSE, IEN, ITEM, TNOW. -/
def sysRead (c : Chip) (x : CoreSt) (i : Nat) : Word :=
  if i < 8 then asReg x i
  else if i < 16 then wbReg x (i - 8)
  else if i < 24 then (wlReg x (i - 16)).setWidth 32
  else if i = 24 then x.pc.setWidth 32
  else if i = 25 then x.lk.setWidth 32
  else if i = 26 then srRead x
  else if i = 27 then x.xpc.setWidth 32
  else if i = 28 then x.xsr
  else if i < 32 then (tabGet 0 x.loopCnt (i - 29)).setWidth 32
  else if i < 35 then (tabGet 0 x.loopTop (i - 32)).setWidth 32
  else if i < 38 then (tabGet 0 x.loopEnd (i - 35)).setWidth 32
  else if i = 38 then loopSta x
  else if i = 39 then (itnRead x).setWidth 32
  else if i = 40 then x.cause.setWidth 32
  else if i = 41 then x.ien.setWidth 32
  else if i < 50 then itemReg x (i - 42)
  else BitVec.ofNat 32 (c.tim.ns - c.tim.ns % 4)

/-- A system register as MOVS writes it. -/
def sysWrite (i : Nat) (v : Word) (x : CoreSt) : CoreSt :=
  let v16 : BitVec 16 := v.setWidth 16
  if i < 8 then { x with as_ := tabSet 0 x.as_ i v }
  else if i < 16 then { x with wb := tabSet 0 x.wb (i - 8) v }
  else if i < 24 then { x with wl := tabSet 0 x.wl (i - 16) (v16 &&& 0xFFFC) }
  else if i = 24 then x
  else if i = 25 then { x with lk := v16 }
  else if i = 26 then { x with sr := srWrite x.sr v }
  else if i = 27 then { x with xpc := v16 }
  else if i = 28 then { x with xsr := v }
  else if i < 32 then { x with loopCnt := tabSet 0 x.loopCnt (i - 29) v16 }
  else if i < 35 then { x with loopTop := tabSet 0 x.loopTop (i - 32) v16 }
  else if i < 38 then { x with loopEnd := tabSet 0 x.loopEnd (i - 35) v16 }
  else if i = 38 then { x with depth := fld v 1 0, lvlActive := BitVec.ofNat 3 (fld v 4 2) }
  else if i = 39 then
    (if x.iter.isSome ∨ x.depth = 0 then { x with itn := v16 } else { x with loopItn := tabSet 0 x.loopItn (x.depth - 1) v16 })
  else if i = 40 then { x with cause := if bit v 1 then x.cause &&& 1 else x.cause }
  else if i = 41 then { x with ien := v.setWidth 8 }
  else if i < 50 then { x with item := tabSet 0 x.item (i - 42) v }
  else x

/-! ### Items on a core (R355) -/

/-- The innermost running item stops counting its time, or counts again (R362, R373). -/
def pauseTop (k : Nat) (c : Chip) : Chip :=
  match (core c k).nest with
  | i :: _ => modSlot i (fun it => { it with state := .preempted, ran := it.ran + (c.clk.now - it.since) }) c
  | [] => c

def resumeTop (k : Nat) (c : Chip) : Chip :=
  match (core c k).nest with
  | i :: _ => modSlot i (fun it => { it with state := .running, since := c.clk.now }) c
  | [] => c

/-- NEXT takes an item: the ITEM registers fill and Z clears. -/
def takeItem (k i : Nat) (c : Chip) : Chip :=
  match slotOf c i with
  | none => c
  | some it =>
    let c1 := pauseTop k c
    let c2 := modSlot i (fun it => { it with state := .running, core := k, since := c.clk.now, ran := 0 }) c1
    let words := (it.words.zipIdx).foldl (fun t p => tabSet 0 t p.2 p.1) ([] : Tab Word)
    let c3 := setReady it.prio ((readyList c2 it.prio).filter (· != it.flow)) c2
    let c4 := setFlow it.flow { flow c3 it.flow with last := some k } c3
    modCore k (fun x => { x with
      item := words
      nest := i :: x.nest
      assigned := none
      offer := if x.offer = some i then none else x.offer
      cause := if x.offer = some i then x.cause &&& 2 else x.cause
      sr := putBit x.sr srZ false }) c4

/-- The innermost running item ends with a status (DONE, FAIL). -/
def endTop (k status detail : Nat) (s : State) : State :=
  let x := core s.chip k
  match x.nest with
  | [] => onChip (modCore k (fun x => { x with sr := putBit x.sr srXERR true })) s
  | i :: _ =>
    let s1 := endItem i status detail [itemReg x 4, itemReg x 5, itemReg x 6, itemReg x 7] s
    onChip (fun c => resumeTop k (wr (fcoPage k) 0x068 (rd c (fcoPage k) 0x068 + 1) c)) s1

/-- The innermost running item goes back to its flow with new contents (R373): it stays at the head, delayed under its new words. -/
def yieldTop (k : Nat) (c : Chip) : Chip :=
  let x := core c k
  match x.nest with
  | [] => modCore k (fun x => { x with sr := putBit x.sr srXERR true }) c
  | i :: rest =>
    match slotOf c i with
    | none => c
    | some it =>
      let old0 := it.words.headD 0
      let w0 := setFld (setFld (itemReg x 0) 15 0 (fld old0 15 0)) 16 16 (fld old0 16 16)
      let delayed := bit w0 17 && itemReg x 1 != 0
      let words := [w0, itemReg x 1, it.words.getD 2 0, it.words.getD 3 0, itemReg x 4, itemReg x 5, itemReg x 6, itemReg x 7]
      let it' := { it with
        words := words
        state := if delayed then .delayed else .queued
        due := c.dsp.ticks + itemReg x 1
        order := c.dsp.nextOrder
        yielded := true }
      let c1 := modCore k (fun x => { x with nest := rest }) { setSlot i it' c with dsp := { (setSlot i it' c).dsp with nextOrder := c.dsp.nextOrder + 1 } }
      let f := flow c1 it.flow
      let c2 := if delayed then c1 else tryReady it.flow (setFlow it.flow { f with head := none, queue := i :: f.queue } c1)
      resumeTop k (wr (fcoPage k) 0x068 (rd c2 (fcoPage k) 0x068 + 1) c2)

/-- A core starts at RESET_ENTRY (R361 to R363). -/
def startCore (k : Nat) (c : Chip) : Chip :=
  let x := core c k
  if x.imageOk then
    setState (fcoPage k) .run (modCore k (fun x =>
      { x with
        pc := x.resetEntry
        sr := 0
        depth := 0
        lvlActive := 0
        iter := none
        wait := .none
        loads := []
        stores := []
        cause := 0
        ien := 0
        cache := none
        capture := none
        nest := []
        assigned := none
        offer := none
        withdrawn := false
        noOffer := false }) c)
  else c

end Sys2Proof.Machine
end

