-- ==== Sys2Proof/Machine/CoreInstr.lean ====
section
/-!
DEFINITION. The meanings of the filter-core instructions that act inside the core and the dispatcher (R343 to R355, R358, R359).
Each command names a core and an instruction word; it acts when that word stands at the core's PC and is that instruction.
-/

namespace Sys2Proof.Machine

/-! ### ALU (classes 0 and 1) -/

/-- The ALU on a destination and two operands (R344, R347). -/
def doAlu (k : Nat) (w : Word) (t : Word) (s : State) : State :=
  let x := core s.chip k
  let op : BitVec 6 := w.extractLsb' 22 6
  let dd := fld w 19 16
  let src := if cls w = 0 then dReg x (fld w 15 12) else dReg x dd
  let d := dReg x dd
  let r := narrow32 (bit x.sr srSAT) (Config.aluExact op d src t)
  retireS k {} (fun x => { setD dd r.1 x with sr := aluFlags x.sr op d src t r }) s

/-- ALU_REGISTER (R347): Dd from Ds and Dt. -/
def execAluRegister (k : Fin 8) (w : Word) (s : State) : Host.Outcome State Fault Refusal :=
  .next (issue k w (fun w => cls w == 0) (fun k w s => doAlu k w (dReg (core s.chip k) (fld w 11 8)) s) s)

/-- ALU_IMMEDIATE (R347): Dd from Dd and the signed immediate. -/
def execAluImmediate (k : Fin 8) (w : Word) (s : State) : Host.Outcome State Fault Refusal :=
  .next (issue k w (fun w => cls w == 1) (fun k w s => doAlu k w (BitVec.ofInt 32 (signed 16 (fld w 15 0))) s) s)

/-! ### MAC (class 2) -/

/-- One accumulation into An: +1 adds, −1 subtracts, 0 replaces (R344). -/
def accumulate (kind : Int) (n : Nat) (p : Int × Bool) (x : CoreSt) : CoreSt :=
  let base : Int := if kind = 0 then 0 else (aReg x n).toInt
  let r := wrap72 (base + (if kind < 0 then -p.1 else p.1))
  let sr := if p.2 then putBit x.sr srV true else x.sr
  { setA n r.1 x with sr := if r.2 then putBit sr srAV true else sr }

/-- The pair load of class 2 on one side: pointer, destination, addresses; refused outside its memory (R345). -/
def macLoad (x : CoreSt) (w : Word) (dm1 : Bool) : Nat × Nat × Word × Word × Int :=
  let n := if dm1 then 4 + fld w 8 7 else fld w 14 13
  let f := if dm1 then fld w 6 4 else fld w 12 10
  let a := apReg x n
  let step := if bit w 3 then 8 else (asReg x n).toInt
  (n, 2 * f, a, postMod x n a 4, step)

/-- Class 2 (R344, R349): the products, then the pair loads with post-modify. -/
def doMac (kind : Int) (two : Bool) (k : Nat) (w : Word) (s : State) : State :=
  let x := core s.chip k
  let frac := bit x.sr srFRAC
  let n := fld w 25 24
  let dx := fld w 23 20
  let dy := fld w 19 16
  let acc (x : CoreSt) : CoreSt :=
    let y := accumulate kind n (macProduct frac (dReg x dx) (dReg x dy)) x
    if two then accumulate 1 (n + 1) (macProduct frac (dReg x (dx + 1)) (dReg x (dy + 1))) y else y
  let l0 := macLoad x w false
  let l1 := macLoad x w true
  let want0 := bit w 15
  let want1 := bit w 9
  let ok0 := !want0 || (localOk (· == .dm0) l0.2.2.1 && localOk (· == .dm0) l0.2.2.2.1)
  let ok1 := !want1 || (localOk (· == .dm1) l1.2.2.1 && localOk (· == .dm1) l1.2.2.2.1)
  if !(ok0 && ok1) then coreFault k 0x91 s
  else
    let r0 := if want0 then readLocal k l0.2.2.1 l0.2.2.2.1 true s else (s, some [])
    let r1 := if want1 then readLocal k l1.2.2.1 l1.2.2.2.1 true r0.1 else (r0.1, some [])
    match r0.2, r1.2 with
    | some v0, some v1 =>
      let ld0 := if want0 then [(l0.2.1, v0.getD 0 0), (l0.2.1 + 1, v0.getD 1 0)] else []
      let ld1 := if want1 then [(l1.2.1, v1.getD 0 0), (l1.2.1 + 1, v1.getD 1 0)] else []
      let accs := if two then [n, n + 1] else [n]
      let ptrs := (if want0 then [l0.1] else []) ++ (if want1 then [l1.1] else [])
      retireS k { loads := ld0 ++ ld1, accs := accs, useP := ptrs } (fun x =>
        let x := acc x
        let x := if want0 then setAp l0.1 (postMod x l0.1 l0.2.2.1 l0.2.2.2.2) x else x
        if want1 then setAp l1.1 (postMod x l1.1 l1.2.2.1 l1.2.2.2.2) x else x) r1.1
    | _, _ => coreFault k 0x01 r1.1

/-- MAC (R344): A + Dx × Dy. -/
def execMac (k : Fin 8) (w : Word) (s : State) : Host.Outcome State Fault Refusal :=
  .next (issue k w (fun w => cls w == 2 && fld w 27 26 == 0) (doMac 1 false) s)

/-- MSU (R344): A − Dx × Dy. -/
def execMsu (k : Fin 8) (w : Word) (s : State) : Host.Outcome State Fault Refusal :=
  .next (issue k w (fun w => cls w == 2 && fld w 27 26 == 1) (doMac (-1) false) s)

/-- MPY (R344): Dx × Dy. -/
def execMpy (k : Fin 8) (w : Word) (s : State) : Host.Outcome State Fault Refusal :=
  .next (issue k w (fun w => cls w == 2 && fld w 27 26 == 2) (doMac 0 false) s)

/-- MAC2 (R349): two MACs on both units. -/
def execMac2 (k : Fin 8) (w : Word) (s : State) : Host.Outcome State Fault Refusal :=
  .next (issue k w (fun w => cls w == 2 && fld w 27 26 == 3) (doMac 1 true) s)

/-! ### Local loads and stores (class 3) -/

/-- The address of a class 3 access and the pointer after it (R345). -/
def class3Addr (x : CoreSt) (w : Word) : Word × Word :=
  let n := fld w 25 23
  let p := apReg x n
  let imm := signed 16 (fld w 15 0)
  match fld w 22 20 with
  | 0 => (p, p)
  | 1 => (p, postMod x n p (asReg x n).toInt)
  | 2 => (p, postMod x n p imm)
  | _ => (BitVec.ofInt 32 (p.toInt + imm), p)

/-- A class 3 load: D, or the pair from D on, two instructions later (R345, R348). -/
def doLocalLoad (k : Nat) (w : Word) (s : State) : State :=
  let x := core s.chip k
  let n := fld w 25 23
  let r := class3Addr x w
  let a1 := postMod x n r.1 4
  let pair := bit w 26
  let d := fld w 19 16
  if !(localOk (fun _ => true) r.1 && (!pair || localOk (fun _ => true) a1)) then coreFault k 0x91 s
  else
    let pm := decide (localSpace r.1 = some .pm)
    if pm && x.iter.isSome then coreFault k 0x90 s
    else
      match readLocal k r.1 a1 pair s with
      | (s1, none) => coreFault k 0x01 s1
      | (s1, some v) =>
        let loads := if pair then [(d, v.getD 0 0), ((d + 1) % 16, v.getD 1 0)] else [(d, v.getD 0 0)]
        retireS k { cycles := if pm then 2 else 1, loads := loads, useP := [n] } (setAp n r.2) s1

/-- LOCAL_LOAD (R345). -/
def execLocalLoad (k : Fin 8) (w : Word) (s : State) : Host.Outcome State Fault Refusal :=
  .next (issue k w (fun w => cls w == 3 && !bit w 27) doLocalLoad s)

/-- A class 3 store of D, or of the pair from D on; a store to PM is fault 0x91 (R341, R345). -/
def doLocalStore (k : Nat) (w : Word) (s : State) : State :=
  let x := core s.chip k
  let n := fld w 25 23
  let r := class3Addr x w
  let a1 := postMod x n r.1 4
  let pair := bit w 26
  let d := fld w 19 16
  let ok := localOk (· != .pm)
  if !(ok r.1 && (!pair || ok a1)) then coreFault k 0x91 s
  else
    let s1 := writeMem32 .core (k * 0x20000 + r.1.toNat) (dReg x d) s
    let s2 := if pair then writeMem32 .core (k * 0x20000 + a1.toNat) (dReg x ((d + 1) % 16)) s1 else s1
    retireS k { useP := [n] } (setAp n r.2) s2

/-- LOCAL_STORE (R345). -/
def execLocalStore (k : Fin 8) (w : Word) (s : State) : Host.Outcome State Fault Refusal :=
  .next (issue k w (fun w => cls w == 3 && bit w 27) doLocalStore s)

/-! ### Branches (class 5) and loops (class 6) -/

/-- A branch: not taken 1 cycle, taken 3; CALL writes LK, RET goes to LK (R347). -/
def doBranch (k : Nat) (w : Word) (s : State) : State :=
  let x := core s.chip k
  if branchTaken x.sr (fld w 27 24) then
    let target := if bit w 22 then x.lk else x.pc + Config.branchOrigin + BitVec.ofInt 16 (4 * signed 16 (fld w 15 0))
    retireS k { cycles := 3, jump := some target } (fun x => if bit w 23 then { x with lk := x.pc + 4 } else x) s
  else retireS k {} id s

/-- BRANCH (R347). -/
def execBranch (k : Fin 8) (w : Word) (s : State) : Host.Outcome State Fault Refusal :=
  .next (issue k w (fun w => cls w == 5 && !bit w 23 && !bit w 22) doBranch s)

/-- CALL (R347): a branch that writes LK. -/
def execCall (k : Fin 8) (w : Word) (s : State) : Host.Outcome State Fault Refusal :=
  .next (issue k w (fun w => cls w == 5 && bit w 23 && !bit w 22) doBranch s)

/-- RET (R347): a branch to LK. -/
def execRet (k : Fin 8) (w : Word) (s : State) : Host.Outcome State Fault Refusal :=
  .next (issue k w (fun w => cls w == 5 && !bit w 23 && bit w 22) doBranch s)

/-- The count of a class 6 instruction: a D register, or the immediate. -/
def loopCount (x : CoreSt) (w : Word) : Nat :=
  if bit w 26 then (dReg x (fld w 19 16)).toNat else fld w 25 16

/-- LOOP (R352): a fourth level or a count above 65,535 is fault 0x92; a count of 0 goes on as at the end of the body. -/
def doLoop (k : Nat) (w : Word) (s : State) : State :=
  let x := core s.chip k
  let n := loopCount x w
  if 3 ≤ x.depth ∨ 65535 < n then coreFault k 0x92 s
  else
    let last := x.pc + Config.branchOrigin + BitVec.ofNat 16 (4 * fld w 15 0)
    if n = 0 then retireS k {} (fun x => { x with pc := last }) s
    else
      retireS k {} id (onChip (modCore k (fun x =>
        { x with
          loopCnt := tabSet 0 x.loopCnt x.depth (BitVec.ofNat 16 n)
          loopTop := tabSet 0 x.loopTop x.depth (x.pc + 4)
          loopEnd := tabSet 0 x.loopEnd x.depth last
          loopItn := tabSet 0 x.loopItn x.depth 0
          lvlActive := x.lvlActive ||| (1#3 <<< x.depth)
          depth := x.depth + 1
          capture := if (last - x.pc).toNat / 4 ≤ 16 then some (x.pc + 4) else none })) s)

/-- LOOP (R352). -/
def execLoopStart (k : Fin 8) (w : Word) (s : State) : Host.Outcome State Fault Refusal :=
  .next (issue k w (fun w => cls w == 6 && !bit w 27) doLoop s)

/-- ITER (R351): the next instruction n times; n = 0 skips it; a count above 1,024 is fault 0x92. -/
def doIter (k : Nat) (w : Word) (s : State) : State :=
  let x := core s.chip k
  let n := loopCount x w
  if 1024 < n then coreFault k 0x92 s
  else if n = 0 then retireS k {} (fun x => { x with pc := x.pc + 4 }) s
  else onChip (modCore k (fun x => { x with iter := some n, itn := 0 })) (retireS k {} id s)

/-- ITER (R351). -/
def execIterStart (k : Fin 8) (w : Word) (s : State) : Host.Outcome State Fault Refusal :=
  .next (issue k w (fun w => cls w == 6 && bit w 27) doIter s)

/-! ### MINX and MAXX (class 7) -/

/-- Dm and Dk follow the extreme and its index; equal values leave them (R350). Under ABS the value taken is |Ds| (log entry 35). -/
def doExtreme (isMax : Bool) (k : Nat) (w : Word) (s : State) : State :=
  let x := core s.chip k
  let dm := fld w 23 20
  let dk := fld w 19 16
  let v := if bit w 25 then abs32 (dReg x (fld w 15 12)) else dReg x (fld w 15 12)
  let better := if isMax then lessThan (bit w 26) (dReg x dm) v else lessThan (bit w 26) v (dReg x dm)
  let i := (itnRead x).setWidth 32
  retireS k {} (fun x => if better then setD dk i (setD dm v x) else x) s

/-- MINX (R350). -/
def execMinx (k : Fin 8) (w : Word) (s : State) : Host.Outcome State Fault Refusal :=
  .next (issue k w (fun w => cls w == 7 && !bit w 27) (doExtreme false) s)

/-- MAXX (R350). -/
def execMaxx (k : Fin 8) (w : Word) (s : State) : Host.Outcome State Fault Refusal :=
  .next (issue k w (fun w => cls w == 7 && bit w 27) (doExtreme true) s)

/-! ### Accumulators (class 8) -/

def isAcc (op : Nat) (w : Word) : Bool := cls w == 8 && fld w 27 24 == op

/-- CLRA: An becomes 0. -/
def doClra (k : Nat) (w : Word) (s : State) : State :=
  retireS k { accs := [fld w 23 22] } (setA (fld w 23 22) 0) s

/-- CLRA (R347). -/
def execClra (k : Fin 8) (w : Word) (s : State) : Host.Outcome State Fault Refusal :=
  .next (issue k w (isAcc 0) doClra s)

/-- ADDA: An + Am, wrapping with AV (R344). -/
def doAdda (k : Nat) (w : Word) (s : State) : State :=
  let n := fld w 23 22
  let m := fld w 21 20
  retireS k { accs := [n], useA := [n, m] } (fun x => accumulate 1 n ((aReg x m).toInt, false) x) s

/-- ADDA (R347). -/
def execAdda (k : Fin 8) (w : Word) (s : State) : Host.Outcome State Fault Refusal :=
  .next (issue k w (isAcc 1) doAdda s)

/-- MVA: round(A / 2^s) to Dd, ties away from zero, saturating under SAT (R344). -/
def doMva (k : Nat) (w : Word) (s : State) : State :=
  let n := fld w 23 22
  retireS k { useA := [n] } (fun x =>
    let r := narrow32 (bit x.sr srSAT) (roundAway ((((aReg x n).toInt : Int) : Rat) / ((2 ^ fld w 5 0 : Nat) : Rat)))
    { setD (fld w 19 16) r.1 x with sr := if r.2 then putBit x.sr srV true else x.sr }) s

/-- MVA (R344). -/
def execMva (k : Fin 8) (w : Word) (s : State) : Host.Outcome State Fault Refusal :=
  .next (issue k w (isAcc 2) doMva s)

/-- CWPK: the coefficient word of A × 2^−f (R358). -/
def doCwpk (k : Nat) (w : Word) (s : State) : State :=
  let n := fld w 23 22
  retireS k { useA := [n] } (fun x =>
    let r := toCoef ((((aReg x n).toInt : Int) : Rat) / ((2 ^ fld w 5 0 : Nat) : Rat))
    { setD (fld w 19 16) r.1 x with sr := if r.2 then putBit x.sr srV true else x.sr }) s

/-- CWPK (R358). -/
def execCwpk (k : Fin 8) (w : Word) (s : State) : Host.Outcome State Fault Refusal :=
  .next (issue k w (isAcc 3) doCwpk s)

/-- CWUP: A = value × 2^f, rounded, saturating with AV (R358). -/
def doCwup (k : Nat) (w : Word) (s : State) : State :=
  let n := fld w 23 22
  retireS k { accs := [n] } (fun x =>
    let r := sat72 (roundAway (coefVal (dReg x (fld w 19 16)) * ((2 ^ fld w 5 0 : Nat) : Rat)))
    { setA n r.1 x with sr := if r.2 then putBit x.sr srAV true else x.sr }) s

/-- CWUP (R358). -/
def execCwup (k : Fin 8) (w : Word) (s : State) : Host.Outcome State Fault Refusal :=
  .next (issue k w (isAcc 4) doCwup s)

/-! ### System (class 9) -/

def isSys (op : Nat) (w : Word) : Bool := cls w == 9 && fld w 27 24 == op

/-- NEXT (R355): the item assigned or offered is taken; a withdrawn offer returns Z = 1; else the core waits. -/
def doNext (k : Nat) (_ : Word) (s : State) : State :=
  let x := core s.chip k
  let inOffer := match x.offer with
    | some i => match slotOf s.chip i, topPrio s.chip k with
      | some it, some p => decide (p < it.prio)
      | some _, none => true
      | none, _ => false
    | none => false
  match x.assigned, x.offer with
  | some i, _ => retireS k {} (fun x => { x with noOffer := false }) (onChip (takeItem k i) s)
  | none, some i =>
    if inOffer then retireS k {} (fun x => { x with noOffer := false }) (onChip (takeItem k i) s)
    else onChip (modCore k (fun x => { x with wait := .next })) s
  | none, none =>
    if x.withdrawn then retireS k {} (fun x => { x with withdrawn := false, noOffer := false, sr := putBit x.sr srZ true }) s
    else onChip (modCore k (fun x => { x with wait := .next, noOffer := false })) s

/-- NEXT (R355). -/
def execNext (k : Fin 8) (w : Word) (s : State) : Host.Outcome State Fault Refusal :=
  .next (issue k w (isSys 0) doNext s)

/-- DONE (R355). -/
def execDone (k : Fin 8) (w : Word) (s : State) : Host.Outcome State Fault Refusal :=
  .next (issue k w (isSys 1) (fun k _ s => retireS k {} id (endTop k 0 0 s)) s)

/-- FAIL (R355): the low half of Ds is the detail. -/
def execFail (k : Fin 8) (w : Word) (s : State) : Host.Outcome State Fault Refusal :=
  .next (issue k w (isSys 2) (fun k w s =>
    retireS k {} id (endTop k 3 (fld (dReg (core s.chip k) (Config.failReg (w.extractLsb' 0 24)).val) 15 0) s)) s)

/-- YIELD (R355). -/
def execYield (k : Fin 8) (w : Word) (s : State) : Host.Outcome State Fault Refusal :=
  .next (issue k w (isSys 3) (fun k _ s => retireS k {} id (onChip (yieldTop k) s)) s)

/-- SYNC (R357): waits, standing at its PC, until every posted store has been acknowledged. -/
def execSync (k : Fin 8) (w : Word) (s : State) : Host.Outcome State Fault Refusal :=
  .next (issue k w (isSys 4) (fun k _ s =>
    if (core s.chip k).stores.isEmpty then retireS k {} id s
    else onChip (modCore k (fun x => { x with cycles := (x.cycles + 1) % 2 ^ 64 })) s) s)

/-- HEVT (R359): an allowed vector from 45 to 63 is raised; any other sets DENY and HEVT_REFUSED. -/
def execHevt (k : Fin 8) (w : Word) (s : State) : Host.Outcome State Fault Refusal :=
  .next (issue k w (isSys 5) (fun k w s =>
    let v := (Config.hevtVector (w.extractLsb' 0 24)).val
    if 45 ≤ v ∧ bit (rd s.chip (fcoPage k) 0x054) (v - 45) then retireS k {} id (onChip (raiseVector v) s)
    else retireS k {} (fun x => { x with sr := putBit x.sr srDENY true }) (onChip (raise (fcoPage k) 11) s)) s)

/-- RTI (R353, R354): PC and SR come back, and the repeat cache is invalid. A sticky bit set since the entry stays: only MOVS clears one (R343, log
entry 129). -/
def execRti (k : Fin 8) (w : Word) (s : State) : Host.Outcome State Fault Refusal :=
  .next (issue k w (isSys 6) (fun k _ s =>
    onChip (modCore k (fun x =>
      let y := commitLoads x
      { y with pc := y.xpc, sr := y.xsr ||| (y.sr &&& srSticky), cache := none, capture := none, cycles := (y.cycles + 1) % 2 ^ 64, wroteA := [],
               wrotePtr := [], bpAt := none, stepping := false })) s) s)

/-- MOVS (R343): a system register to or from a D register. -/
def execMovs (k : Fin 8) (w : Word) (s : State) : Host.Outcome State Fault Refusal :=
  .next (issue k w (isSys 7) (fun k w s =>
    let f : BitVec 24 := w.extractLsb' 0 24
    let d := (Config.movsData f).val
    let i := (Config.movsSystem f).val
    if Config.movsWrites f then
      let v := dReg (core s.chip k) d
      if i = 24 then retireS k { jump := some (v.setWidth 16) } id s
      else retireS k { ptrs := if i < 24 then [i % 8] else [] } (sysWrite i v) s
    else retireS k {} (fun x => setD d (sysRead s.chip x i) x) s) s)

/-! ### Interrupts and the watchdog -/

/-- CORE_INTERRUPT_ENTRY (R354): an enabled cause enters the handler at an instruction boundary, an ITER and an external load apart. -/
def execCoreInterruptEntry (k : Fin 8) (s : State) : Host.Outcome State Fault Refusal :=
  let x := core s.chip k
  let load := match x.wait with | .load _ _ _ => true | _ => false
  if decide ((hdr s.chip (fcoPage k)).state = .run) && !clkLost s.chip .sys && !x.halted && bit x.sr srIE && x.iter.isNone && !load &&
      (x.cause.setWidth 8 &&& x.ien) != 0 then
    .next (onChip (modCore k (fun x =>
      { x with
        xpc := x.pc
        xsr := srRead x
        sr := putBit (putBit x.sr srIE false) srINIRQ true
        pc := x.irqEntry
        wait := .none
        cycles := (x.cycles + 12) % 2 ^ 64 })) s)
  else .next s

/-- ITEM_WATCHDOG (R362): an item has run for FCO_WDOG µs, the time pre-empted left out. -/
def execItemWatchdog (k : Fin 8) (s : State) : Host.Outcome State Fault Refusal :=
  let limit := rdF s.chip (fcoPage k) 0x050 15 0 * 1000
  match (core s.chip k).nest with
  | i :: _ =>
    match slotOf s.chip i with
    | some it =>
      if limit ≠ 0 ∧ !clkLost s.chip .sys ∧ !(core s.chip k).halted ∧ limit ≤ it.ran + (s.chip.clk.now - it.since) then .next (coreFault k 0x93 s)
      else .next s
    | none => .next s
  | [] => .next s

/-! ### The dispatcher's own events (chapter 15) -/

/-- DELAY_EXPIRY (R371). -/
def execDelayExpiry (slot : Fin 16384) (s : State) : Host.Outcome State Fault Refusal :=
  run (fun c => if dspActive c then expire slot.val c else c) s

/-- PRE_LATE (R373): an offer untaken for PRE_TMO is withdrawn, and the core is offered nothing until it runs NEXT. -/
def execPreLate (k : Fin 8) (s : State) : Host.Outcome State Fault Refusal :=
  run (fun c =>
    let x := core c k.val
    if dspActive c && x.offer.isSome && decide (x.offerSince + actF c .dsp 0x04C 31 16 ≤ c.clk.now) then
      raise .dsp 12 (modCore k.val (fun x => { x with noOffer := true }) (withdrawOffer k.val c))
    else c) s

/-- AFFINITY_TIMEOUT (R374): once AFF_TMO has passed, the item may go to another core. -/
def execAffinityTimeout (slot : Fin 16384) (s : State) : Host.Outcome State Fault Refusal :=
  run (fun c =>
    match slotOf c slot.val with
    | some it =>
      if dspActive c && decide (it.state = .ready) && decide (it.readySince + actF c .dsp 0x04C 15 0 ≤ c.clk.now) then
        chooseFor it.flow c
      else c
    | none => c) s

/-- STARVED (R378): READY for STARVE_TMO without a start. -/
def execStarved (slot : Fin 16384) (s : State) : Host.Outcome State Fault Refusal :=
  let c := s.chip
  let tmo := actF c .dsp 0x050 15 0 * 1000
  match slotOf c slot.val with
  | some it =>
    if dspActive c && decide (it.state = .ready) && tmo != 0 && decide (it.readySince + tmo ≤ c.clk.now) then
      .next (onChip (raise .dsp 11) (endItem slot.val 4 0x98 [] s))
    else .next s
  | none => .next s

/-- DRAINED (R379): the last item on a draining core has ended. -/
def execDrained (k : Fin 8) (s : State) : Host.Outcome State Fault Refusal := run (fun c => if clkLost c .sys then c else drainedEvent k.val c) s

/-- DRAIN_TIMEOUT (R379): what still runs on the core ends ABORTED 0x99. -/
def execDrainTimeout (k : Fin 8) (s : State) : Host.Outcome State Fault Refusal := .next (if clkLost s.chip .sys then s else drainTimeoutEvent k.val s)

end Sys2Proof.Machine
end

