-- ==== Sys2Proof/Machine/NetWire.lean ====
section
/-!
DEFINITION. The bytes of the network (R75 to R78): checksums, IPv4 and UDP headers, the YCP header and its protection, and the queue of
frames that the endpoint hands to the switch.
-/

namespace Sys2Proof.Machine

/-- The bytes of a number, most significant first (R76). -/
def beBytes (k v : Nat) : List Byte := (toBytes k v).reverse

/-- The number that bytes hold, most significant first (R76). -/
def ofBe (l : List Byte) : Nat := ofBytes l.reverse

/-- The 32-bit words that bytes hold, most significant byte first. -/
def beWords : List Byte → List Word
  | a :: b :: c :: d :: t => BitVec.ofNat 32 (ofBe [a, b, c, d]) :: beWords t
  | _ => []

/-! ### The internet checksum -/

/-- The sum of the 16-bit words, the last byte of an odd number padded with zero. -/
def sum16 : List Byte → Nat
  | a :: b :: t => a.toNat * 256 + b.toNat + sum16 t
  | [a] => a.toNat * 256
  | [] => 0

/-- The carries added back. -/
def fold16 (n : Nat) : Nat :=
  let a := n % 65536 + n / 65536
  let b := a % 65536 + a / 65536
  b % 65536 + b / 65536

/-- The ones' complement of the ones' complement sum: the checksum of RFC 791, 768 and 792. PRESUMED, log entry 156. -/
def inetSum (l : List Byte) : BitVec 16 := ~~~ (BitVec.ofNat 16 (fold16 (sum16 l)))

/-! ### IPv4 and UDP (R75) -/

def ipBytes (h : IpHdr) (proto : Byte) : List Byte :=
  [BitVec.ofNat 8 (0x45 + h.options.length / 4), h.tos] ++ beBytes 2 h.total.toNat ++ beBytes 2 h.ident.toNat ++ beBytes 2 h.frag.toNat ++
  [h.ttl, proto] ++ beBytes 2 h.sum.toNat ++ beBytes 4 h.src.toNat ++ beBytes 4 h.dst.toNat ++ h.options

/-- The device takes a datagram: it is addressed to YCP_IP, is no fragment (neither more fragments nor an offset), has no options, and
its header checksum holds. -/
def ipTaken (c : Chip) (h : IpHdr) (proto : Byte) : Bool :=
  h.dst == rd c .ycp 0x048 && fld h.frag 13 0 == 0 && h.options == [] && inetSum (ipBytes h proto) == 0

def udpBytes (sport dport len sum : BitVec 16) : List Byte :=
  beBytes 2 sport.toNat ++ beBytes 2 dport.toNat ++ beBytes 2 len.toNat ++ beBytes 2 sum.toNat

/-- What a UDP checksum covers before the UDP header. -/
def udpPseudo (src dst : Word) (len : BitVec 16) : List Byte :=
  beBytes 4 src.toNat ++ beBytes 4 dst.toNat ++ [0, 17] ++ beBytes 2 len.toNat

/-- A UDP checksum of 0 is none; any other one must hold. -/
def udpOk (src dst : Word) (sport dport len sum : BitVec 16) (payload : List Byte) : Bool :=
  sum == 0 || inetSum (udpPseudo src dst len ++ udpBytes sport dport len sum ++ payload) == 0

/-- A UDP datagram from the device, its checksum with it: one that comes out as 0 is sent as 0xFFFF. -/
def udpOf (src dst : Word) (sport dport : BitVec 16) (payload : List Byte) : List Byte :=
  let len := BitVec.ofNat 16 (8 + payload.length)
  let s := inetSum (udpPseudo src dst len ++ udpBytes sport dport len 0 ++ payload)
  udpBytes sport dport len (if s = 0 then 0xFFFF else s) ++ payload

/-- An IPv4 datagram from the device. -/
def ipOf (c : Chip) (dst : Word) (proto : Byte) (l4 : List Byte) : List Byte :=
  let h : IpHdr :=
    { tos := Config.ipTos
      total := BitVec.ofNat 16 (20 + l4.length)
      ident := Config.ipIdent
      ttl := Config.ipTtl
      src := rd c .ycp 0x048
      dst := dst }
  ipBytes { h with sum := inetSum (ipBytes h proto) } proto ++ l4

/-! ### Sending (R75, R94) -/

/-- The place in the neighbour table of the next hop to an address. -/
def neighbour (c : Chip) (ip : Word) : Option Nat :=
  let mask := rd c .ycp 0x04C
  let hop := if ip &&& mask = rd c .ycp 0x048 &&& mask then ip else rd c .ycp 0x050
  (List.range 16).find? (fun i => rd c .ycp (0x100 + 16 * i) == hop && bit (rd c .ycp (0x108 + 16 * i)) 31)

/-- The next hop of a peer has a valid entry in the neighbour table. -/
def hasNeighbour (c : Chip) (ip : Word) : Bool := (neighbour c ip).isSome

/-- A MAC address held in two registers, its upper 16 bits in the second. -/
def macOf (lo hi : Word) : BitVec 48 := BitVec.ofNat 48 (fld hi 15 0 * 2 ^ 32 + lo.toNat)

/-- The endpoint's own MAC address: that of NET 0, which R86 and R75 do not name. DESIGN CHOICE, log entry 157. -/
def ownMac (c : Chip) : BitVec 48 := macOf (rd c (.net 0) 0x048) (rd c (.net 0) 0x04C)

/-- The frame that carries an IPv4 datagram, tagged as YCP_VLAN says. -/
def ipFrame (c : Chip) (dst : BitVec 48) (data : List Byte) : EthFrame :=
  let w := rd c .ycp 0x054
  let tag := bit w 15
  { dst := dst
    src := ownMac c
    etype := 0x0800
    pcp := if tag then some (Fin.ofNat 8 (fld w 14 12)) else none
    vid := if tag then BitVec.ofNat 12 (fld w 11 0) else 0
    len := max 64 ((if tag then 22 else 18) + data.length)
    data := data }

/-- A datagram is handed to the switch, or NO_NEIGHBOUR is raised. `o` records what it says. -/
def sendIp (ip : Word) (proto : Byte) (l4 : List Byte) (o : Output) (c : Chip) : Chip :=
  match neighbour c ip with
  | some i =>
    let f := ipFrame c (macOf (rd c .ycp (0x104 + 16 * i)) (rd c .ycp (0x108 + 16 * i))) (ipOf c ip proto l4)
    emit o { c with ycp := { c.ycp with sendq := c.ycp.sendq ++ [f] } }
  | none => raise .ycp 12 c

/-- ICMP messages of echo request (8) and reply (0), from the bytes after the checksum (RFC 792). -/
def icmpOf (kind : Byte) (rest : List Byte) : List Byte :=
  [kind, 0] ++ beBytes 2 (inetSum ([kind, 0, 0, 0] ++ rest)).toNat ++ rest

/-! ### YCP datagrams (R77, R78) -/

/-- YCP_UDP_PORT. -/
def ycpPort (c : Chip) : BitVec 16 := BitVec.ofNat 16 (rdF c .ycp 0x044 15 0)

/-- The YCP header (Table 4-2) as the device sends it. -/
def ycpHeader (typ : Byte) (ses len : Nat) (seq : Word) : List Byte :=
  beBytes 2 0x5943 ++ [1, typ, BitVec.ofNat 8 ses, 0] ++ beBytes 2 len ++ beBytes 4 seq.toNat

/-- The 96-bit GCM nonce (R78): 0 is the direction to the device, 1 from it. -/
def gcmNonce (dir : Byte) (typ : Byte) (ses : Nat) (seq : Word) : List Byte :=
  [dir, typ, BitVec.ofNat 8 ses, 0] ++ beBytes 4 seq.toNat ++ [0, 0, 0, 0]

/-- The protection of a type (Table 4-3). -/
inductive Protect where
  | plain | tagged | sealed
deriving DecidableEq, Repr

/-- A datagram from the device: header, body, and the tag of an authenticated type, the header as additional data. -/
def ycpBytes (key : BitVec 128) (pr : Protect) (typ : Byte) (ses : Nat) (seq : Word) (body : List Byte) : List Byte :=
  let h := ycpHeader typ ses body.length seq
  let n := gcmNonce 1 typ ses seq
  match pr with
  | .plain => h ++ body
  | .tagged => h ++ body ++ beBytes 16 (Config.gcmTag key n h body).toNat
  | .sealed =>
    let x := Config.gcmCipher key n body
    h ++ x ++ beBytes 16 (Config.gcmTag key n h x).toNat

end Sys2Proof.Machine
end

