-- ==== Sys2Proof/Machine/CmdOps.lean ====
section
/-!
DEFINITION. The command engine's operations (chapter 3, R81 to R83): completions and where they go, held completions, the rings'
doorbells and sizes.
-/

namespace Sys2Proof.Machine

/-! ### Completion statuses (Table 0-2) -/

def stDone : Byte := 0
def stInterrupted : Byte := 1
def stCancelled : Byte := 2
def stFailed : Byte := 3
def stAborted : Byte := 4
def stOrphaned : Byte := 5
def stRejected : Byte := 6
def stDupTag : Byte := 7
def stDenied : Byte := 8

/-! ### Rings -/

def sq (c : Chip) (r : Nat) : Sq := tabGet {} c.cmd.sq r

def setSq (r : Nat) (x : Sq) (c : Chip) : Chip := { c with cmd := { c.cmd with sq := tabSet {} c.cmd.sq r x } }

/-- A ring register: base offset 0x040 + 0x20 r (Table 3-4). -/
def sqOff (r off : Nat) : Nat := 0x040 + 0x20 * r + off

def sqSize (c : Chip) (r : Nat) : Nat := rdF c .cmd (sqOff r 0x08) 12 0

def sqEn (c : Chip) (r : Nat) : Bool := bit (rd c .cmd (sqOff r 0x0C)) 0

def cqSize (c : Chip) : Nat := rdF c .cmd 0x0C8 12 0

def cqEn (c : Chip) : Bool := bit (rd c .cmd 0x0CC) 0

/-- SQ_STA.STATE (Table 3-5). -/
def sqState (c : Chip) (r : Nat) : Nat := if !sqEn c r then 0 else if (sq c r).halted then 2 else 1

def isRing : CmdSrc → Bool
  | .ring _ _ => true
  | .ycp _ _ => false

def srcIsRing (r : Nat) : CmdSrc → Bool
  | .ring q _ => q.val == r
  | .ycp _ _ => false

/-- Accepted commands of a ring that have not completed, the completions that wait to be written included (R55). -/
def ringInFlight (c : Chip) (r : Nat) : Nat :=
  (c.cmd.inflight.filter (fun x => srcIsRing r x.cmd.src)).length + (c.cmd.waiting.filter (fun x => srcIsRing r x.src)).length

/-- Completion slots reserved (R58). -/
def cqReserved (c : Chip) : Nat := (c.cmd.inflight.filter (fun x => isRing x.cmd.src)).length + c.cmd.waiting.length

def cqFull (c : Chip) : Bool := decide (cqSize c ≤ c.cmd.cqPosted + cqReserved c)

/-- FULL follows its condition; CQ_FULL is raised each time it sets (R58). -/
def updateFull (c : Chip) : Chip :=
  let f := cqFull c
  raiseIf (f && !c.cmd.full) .cmd 14 { c with cmd := { c.cmd with full := f } }

/-- A tag is busy until its completion entry is written (R57); a held completion frees it (R67). -/
def tagBusy (c : Chip) (tag : Byte) : Bool :=
  c.cmd.inflight.any (fun x => x.cmd.tag == tag) || c.cmd.waiting.any (fun x => x.tag == tag)

/-! ### Completions -/

/-- RING and SQ_INDEX of a completion; a YCP command counts as ring 0 with the low bits of its SEQ (Table 3-3, R81). -/
def srcRing : CmdSrc → Nat
  | .ring r _ => r.val
  | .ycp _ _ => 0

def srcIndex : CmdSrc → Nat
  | .ring _ i => i.toNat
  | .ycp _ q => q.toNat % 4096

/-- The 16 bytes of a completion entry (Table 3-3). -/
def entryBytes (phase : Bool) (x : Completion) : List Byte :=
  [x.tag, x.status, x.detail, BitVec.ofNat 8 (srcRing x.src + flag x.late 2 + flag phase 7)] ++
    toBytes 2 (srcIndex x.src) ++ toBytes 2 0 ++ toBytes 8 x.result.toNat

/-- The host-memory address of entry i of the completion ring. -/
def cqAddr (c : Chip) (i : Nat) : Nat := (rd c .cmd 0x0C0).toNat + (rd c .cmd 0x0C4).toNat * 2 ^ 32 + 16 * i

/-- One completion entry written to the ring (R51, R52). -/
def postCq (x : Completion) (c : Chip) : Chip :=
  let m := c.cmd
  let wrap := decide (cqSize c ≤ m.cqTail + 1)
  raise .cmd 8 (emit (.completion (cqAddr c m.cqTail) (entryBytes m.cqPhase x)) { c with cmd :=
    { m with
      cqTail := if wrap then 0 else m.cqTail + 1
      cqPhase := if wrap then !m.cqPhase else m.cqPhase
      cqPosted := m.cqPosted + 1 } })

def session (c : Chip) (i : Nat) : Session := tabGet {} c.ycp.ses i

def setSession (i : Nat) (x : Session) (c : Chip) : Chip := { c with ycp := { c.ycp with ses := tabSet {} c.ycp.ses i x } }

/-- A YCP datagram of session i to an address and UDP port, from YCP_UDP_PORT. -/
def sendYcp (i : Nat) (ip : Word) (port : BitVec 16) (pr : Protect) (typ : Byte) (seq : Word) (body : List Byte) (o : Output) (c : Chip) : Chip :=
  sendIp ip 17 (udpOf (rd c .ycp 0x048) ip (ycpPort c) port (ycpBytes (session c i).key pr typ i seq body)) o c

/-- A RESPONSE body (Table 4-5); a completion entry in it has PHASE = 1. -/
def respBody (r : YcpResp) : List Byte :=
  [r.status, r.detail] ++ beBytes 2 r.count ++ beBytes 4 r.addr.toNat ++ r.data.flatMap (fun w => beBytes 4 w.toNat) ++
  (match r.completion with | some x => entryBytes true x | none => [])

/-- A RESPONSE leaves, the same bytes each time (R78, R80). -/
def sendResp (i : Nat) (r : YcpResp) (c : Chip) : Chip :=
  let x := session c i
  sendYcp i x.ip x.port .sealed 0x04 r.seq (respBody r) (.ycpResponse i r) c

/-- A RESPONSE is sent and cached (R80). -/
def respond (i : Nat) (r : YcpResp) (c : Chip) : Chip :=
  sendResp i r (setSession i { session c i with cache := (r :: (session c i).cache).take 64 } c)

/-- Completions that wait are written in their order while the ring has room (R58). -/
def postWaiting (c : Chip) : Chip :=
  each c.cmd.waiting (fun x c =>
    if cqSize c ≤ c.cmd.cqPosted then { c with cmd := { c.cmd with waiting := c.cmd.waiting ++ [x] } } else postCq x c)
    { c with cmd := { c.cmd with waiting := [] } }

/-- A completion reaches its receiver: the completion ring; the waiting list while the ring is not enabled, or while a ring made smaller
meanwhile has no room (R55, R58); or the RESPONSE of its YCP request (R51, R67, R81). -/
def deliver (x : Completion) (c : Chip) : Chip :=
  match x.src with
  | .ring _ _ =>
    if cqEn c && isUp c .cmd && c.cmd.waiting == [] && decide (c.cmd.cqPosted < cqSize c) then updateFull (postCq x c)
    else { c with cmd := { c.cmd with waiting := c.cmd.waiting ++ [x] } }
  | .ycp s seq => respond s.val { seq := seq, status := x.status, detail := x.detail, count := if x.status = stDone then 1 else 0, completion := some x } c

/-- The in-flight command of a number. -/
def cmdOf (c : Chip) (id : Nat) : Option InFlight := c.cmd.inflight.find? (fun x => x.id == id)

/-- Ends a command: exactly one completion (R28, R66). Number 0 names no command. -/
def finish (id : Nat) (status detail : Byte) (result : DWord) (c : Chip) : Chip :=
  match cmdOf c id with
  | none => c
  | some x =>
    deliver { id := id, src := x.cmd.src, tag := x.cmd.tag, status := status, detail := detail, late := x.late, result := result }
      { c with cmd := { c.cmd with inflight := c.cmd.inflight.filter (fun y => y.id != id) } }

def finishAll (ids : List Nat) (status detail : Byte) (result : DWord) (c : Chip) : Chip :=
  each ids (fun i c => finish i status detail result c) c

/-- A read error on an operand buffer: FAILED 0x07, reported through AER (R56). -/
def bufferError (id : Nat) (c : Chip) : Chip := finish id stFailed 0x07 0 (emit (.aer .hostRead) c)

/-- The command has taken effect and runs on. -/
def markRunning (id : Nat) (c : Chip) : Chip :=
  { c with cmd := { c.cmd with inflight := c.cmd.inflight.map (fun x => if x.id = id then { x with running := true } else x) } }

/-- Completions in acceptance order. -/
def insertById (x : Completion) : List Completion → List Completion
  | [] => [x]
  | y :: t => if x.id < y.id then x :: y :: t else y :: insertById x t

/-- Every ring command in flight ends with a status that the retained store holds, beside the completions already decided
(R66, R67); every YCP command ends in YCP_ORPHAN or its response (R83). -/
def holdRing (status detail : Byte) (c : Chip) : Chip :=
  let ended := (c.cmd.inflight.filter (fun x => isRing x.cmd.src)).map (fun x =>
    ({ id := x.id, src := x.cmd.src, tag := x.cmd.tag, status := status, detail := detail, late := x.late } : Completion))
  { c with cmd := { c.cmd with
    held := (c.cmd.waiting ++ ended).foldl (fun l x => insertById x l) c.cmd.held
    waiting := []
    posting := false
    inflight := c.cmd.inflight.filter (fun x => !isRing x.cmd.src) } }

/-- An orphaned end is pushed into YCP_ORPHAN (R83). -/
def pushOrphan (tag status : Byte) (c : Chip) : Chip :=
  raise .ycp 13 { c with ycp := { c.ycp with orphans := c.ycp.orphans ++ [(tag, status)] } }

/-- The next held completion is written while the ring has room; after the last, HELD_POSTED is raised and fetching begins (R67). -/
def postHeld (c : Chip) : Chip :=
  if !(isUp c .cmd && cqEn c && c.cmd.posting) then c
  else
    match c.cmd.held with
    | [] => { c with cmd := { c.cmd with posting := false } }
    | x :: t =>
      if cqSize c ≤ c.cmd.cqPosted then c
      else
        let c1 := updateFull (postCq x { c with cmd := { c.cmd with held := t } })
        if t = [] then raise .cmd 15 { c1 with cmd := { c1.cmd with posting := false } } else c1

/-- CQ_CTL.EN written 1: waiting completions are written and the posting of held ones begins (R67). The ring goes on at the tail and
PHASE it had: R55 restarts them on a resize alone. DESIGN CHOICE, log entry 150. -/
def cqEnabled (c : Chip) : Chip :=
  let c1 := if isUp c .cmd then postWaiting c else c
  updateFull { c1 with cmd := { c1.cmd with posting := decide (c1.cmd.held ≠ []) } }

/-! ### Doorbells and sizes (R53 to R55) -/

/-- A refused doorbell (R53). -/
def refuseDb (r kind v cause : Nat) (c : Chip) : Chip :=
  raise .cmd cause (setSq r { sq c r with errKind := kind, errVal := v } c)

/-- A doorbell value T for ring r (R53). -/
def sqDoorbell (r t : Nat) (c : Chip) : Chip :=
  let x := sq c r
  let size := sqSize c r
  if sqState c r ≠ 1 then refuseDb r 1 t 9 c
  else if size ≤ t then refuseDb r 1 t 9 c
  else
    let occ := (x.tail + size - x.head) % size
    let adv := (t + size - x.tail) % size
    if size - 1 - occ < adv then refuseDb r 2 t 10 (setSq r { x with halted := true } c)
    else setSq r { x with tail := t } c

/-- SQ_RESET (R53). -/
def sqResetRing (r : Nat) (c : Chip) : Chip := setSq r { sq c r with head := 0, tail := 0, halted := false } c

/-- A write of CQ_HEAD_DB (R54). -/
def cqHeadWrite (v : Nat) (c : Chip) : Chip :=
  let size := cqSize c
  let dist := (v + size - c.cmd.cqHead) % size
  if size ≤ v ∨ c.cmd.cqPosted < (if v < size ∧ c.cmd.cqHead = v then 0 else dist) then raise .cmd 12 c
  else
    let d := if c.cmd.cqHead = v then 0 else dist
    let c1 := { c with cmd := { c.cmd with cqHead := v, cqPosted := c.cmd.cqPosted - d } }
    updateFull (if cqEn c && isUp c .cmd then postWaiting c1 else c1)

/-- SQ_SIZE written (R55): held while the ring is enabled, else in force at once. -/
def sqSizeSet (r size : Nat) (c : Chip) : Chip :=
  if sqEn c r then setSq r { sq c r with resize := some size } c
  else setSq r { sq c r with head := 0, tail := 0, resize := none } (wr .cmd (sqOff r 0x08) (BitVec.ofNat 32 size) c)

def cqSizeSet (size : Nat) (c : Chip) : Chip :=
  if cqEn c then { c with cmd := { c.cmd with cqResize := some size } }
  else
    let c1 := wr .cmd 0x0C8 (BitVec.ofNat 32 size) c
    updateFull { c1 with cmd := { c1.cmd with cqResize := none, cqHead := 0, cqTail := 0, cqPhase := true, cqPosted := 0 } }

/-- A held ring size applies once its two conditions hold (R55). -/
def sqResizeApply (r : Nat) (c : Chip) : Chip :=
  let x := sq c r
  match x.resize with
  | none => c
  | some n =>
    if x.head = x.tail ∧ ringInFlight c r = 0 then
      setSq r { x with head := 0, tail := 0, resize := none } (wr .cmd (sqOff r 0x08) (BitVec.ofNat 32 n) c)
    else c

def cqResizeApply (c : Chip) : Chip :=
  match c.cmd.cqResize with
  | none => c
  | some n =>
    if c.cmd.cqPosted = 0 ∧ cqReserved c = 0 then
      let c1 := wr .cmd 0x0C8 (BitVec.ofNat 32 n) c
      updateFull { c1 with cmd := { c1.cmd with cqResize := none, cqHead := 0, cqTail := 0, cqPhase := true } }
    else c

end Sys2Proof.Machine
end

