-- ==== Sys2Proof/Machine/BlyOps.lean ====
section
/-!
DEFINITION. The belay safety island (chapter 18): its parameter set, its inputs, functions and outputs, its cycle, its diagnostics
and the commit. It sits on the field die and reads nothing of the main die's state.
-/

namespace Sys2Proof.Machine

/-! ### The parameter set (R433, Table 18-5) -/

/-- The offsets of the set, in ascending order (R433). -/
def blyOffsets : List Nat := (List.range 67).map (fun i => 0x100 + 4 * i)

/-- A word of a set. -/
def parWord (t : Tab Word) (off : Nat) : Word := tabGet (blockReset .bly off) t off

def setPar (t : Tab Word) (off : Nat) (v : Word) : Tab Word := tabSet (blockReset .bly off) t off v

/-- The key of a set: the CRC-32C over its words in ascending offset (R433). -/
def blyKey (t : Tab Word) : Word := crc32c (blyOffsets.flatMap (fun o => toBytes 4 (parWord t o).toNat))

def pairWord (t : Tab Word) (i : Nat) : Word := parWord t (0x100 + 4 * i)
def fnCfg (t : Tab Word) (f : Nat) : Word := parWord t (0x140 + 16 * f)
def fnTarget (t : Tab Word) (f : Nat) : Word := parWord t (0x144 + 16 * f)
def fnTime (t : Tab Word) (f : Nat) : Word := parWord t (0x148 + 16 * f)
def tpCfg (t : Tab Word) : Word := parWord t 0x200
def soutCfg (t : Tab Word) : Word := parWord t 0x204

def pairMode (t : Tab Word) (i : Nat) : Nat := fld (pairWord t i) 1 0
def fnKind (t : Tab Word) (f : Nat) : Nat := fld (fnCfg t f) 2 0

/-- The pairs a function takes (R423). -/
def fnPairs (t : Tab Word) (f : Nat) : List Nat :=
  let w := fnCfg t f
  match fnKind t f with
  | 0 => []
  | 3 => [fld w 11 8, fld w 15 12]
  | _ => [fld w 11 8]

/-- The functions of a set that are not OFF. -/
def fnsOn (t : Tab Word) : List Nat := (List.range 12).filter (fun f => fnKind t f != 0)

/-- Whether a set holds a reserved encoding (Table 18-5). -/
def blyReserved (t : Tab Word) : Bool :=
  (List.range 12).any (fun i =>
    let w := pairWord t i
    4 < fld w 4 2 || 4 < fld w 7 5 || fld w 13 8 < 1 || 40 < fld w 13 8 || (fld w 1 0 == 3 && (fld w 19 16 < 1 || 10 < fld w 19 16))) ||
  (List.range 12).any (fun f =>
    let w := fnCfg t f
    4 < fld w 2 0 || fld w 21 20 == 3 || (fld w 2 0 != 0 && 11 < fld w 11 8) || (fld w 2 0 == 3 && 11 < fld w 15 12)) ||
  fld (tpCfg t) 6 0 < 1 || 100 < fld (tpCfg t) 6 0 || fld (soutCfg t) 22 16 < 5 || 100 < fld (soutCfg t) 22 16

/-- A list without repeats. -/
def noRepeat : List Nat → Bool
  | [] => true
  | x :: t => !t.contains x && noRepeat t

/-- The checks of R434 on a set, the key and the running functions apart. -/
def blyChecks (t : Tab Word) : Bool :=
  let on := fnsOn t
  !blyReserved t &&
  noRepeat (on.flatMap (fnPairs t)) &&
  on.all (fun f =>
    let w := fnCfg t f
    let modes := (fnPairs t f).map (pairMode t)
    (match fnKind t f with
      | 1 | 2 => modes.all (fun m => m == 1 || m == 2)
      | 3 => modes.all (· == 2)
      | _ => modes.all (· == 3)) &&
    !(fnKind t f == 1 && bit w 17) &&
    20 ≤ fld (fnTime t f) 12 0 && fld (fnTime t f) 12 0 ≤ 6000 &&
    (!bit w 16 || (100 ≤ fld (fnTime t f) 29 16 && fld (fnTime t f) 29 16 ≤ 10000)) &&
    fld (fnTarget t f) 23 0 != 0) &&
  (List.range 12).all (fun i =>
    let w := pairWord t i
    (pairMode t i != 3 || (fld w 19 16 < fld w 13 8 * 5 && fld w 4 2 == 0 && fld w 7 5 == 0)) &&
    (fld w 4 2 == 0 || bit (tpCfg t) (8 + (fld w 4 2 - 1))) && (fld w 7 5 == 0 || bit (tpCfg t) (8 + (fld w 7 5 - 1))))

/-! ### State access -/

def fnSt (b : BlySt) (f : Nat) : FnSt := tabGet {} b.fns f
def setFn (f : Nat) (x : FnSt) (b : BlySt) : BlySt := { b with fns := tabSet {} b.fns f x }
def pairSt (b : BlySt) (i : Nat) : PairSt := tabGet {} b.pairs i
def setPair (i : Nat) (x : PairSt) (b : BlySt) : BlySt := { b with pairs := tabSet {} b.pairs i x }
def soutSt (b : BlySt) (k : Nat) : SoutSt := tabGet {} b.souts k
def setSout (k : Nat) (x : SoutSt) (b : BlySt) : BlySt := { b with souts := tabSet {} b.souts k x }

/-- The functions that run: those of the set in force while it is valid (R417). -/
def fnsIn (b : BlySt) : List Nat := if b.parOk then fnsOn b.par else []

def fnOn (b : BlySt) (f : Nat) : Bool := (fnSt b f).state == .run || (fnSt b f).state == .stopping

/-- A fault latches: its low nibble and the pair or output it concerns (R438). -/
def blyLatch (nib x : Nat) (b : BlySt) : BlySt :=
  if b.faults.contains (nib, x) then b else { b with faults := b.faults ++ [(nib, x)] }

/-- The FAULT nibble: the first fault that stands (R431, R437). -/
def faultNibble (b : BlySt) : Nat := match b.faults with | (n, _) :: _ => n | [] => 0

/-- The status as the uplink carries it (Table 18-4). -/
def belayStatus (b : BlySt) : BelayField :=
  let fs := fnsIn b
  { sto := b.sto
    stopReq := fs.foldl (fun a f => if (fnSt b f).state = .stopping then a ||| BitVec.ofNat 16 (fld (fnTarget b.par f) 15 0) else a) 0
    fnRun := fs.foldl (fun a f => if fnOn b f then a ||| (1#12 <<< f) else a) 0
    fault := BitVec.ofNat 4 (faultNibble b)
    sout := b.sout
    state := match b.state with | .start => 0 | .run => 1 | .halted => 2 | .commit => 3
    parOk := b.parOk
    resetWait := fs.any (fun f => (fnSt b f).state == .waitReset)
    parVer := b.parVer }

/-! ### Outputs (R427, R429) -/

/-- The STO lines to assert: every line unless the belay runs with a valid set and each function naming it runs. -/
def stoWanted (b : BlySt) : BitVec 16 :=
  if b.state = .run ∧ b.parOk then
    (fnsIn b).foldl (fun a f => if fnOn b f then a else a ||| BitVec.ofNat 16 (fld (fnTarget b.par f) 15 0)) 0
  else 0xFFFF

/-- The SOUTs to switch on; one whose guard switch is open stays off. -/
def soutWanted (b : BlySt) : Byte :=
  if b.state = .run ∧ b.parOk then
    let named := (fnsIn b).foldl (fun a f => if fnOn b f then a else a ||| BitVec.ofNat 8 (fld (fnTarget b.par f) 23 16)) (0 : Byte)
    let open_ := (List.range 8).foldl (fun a k => if (soutSt b k).guardOpen then a ||| (1#8 <<< k) else a) (0 : Byte)
    ~~~(named ||| open_)
  else 0

/-- Every function goes SAFE with its start interlock pending (Table 18-3, last row). -/
def allSafe (b : BlySt) : BlySt := { b with fns := [], rstA := false, rstB := false }

/-- Every STO line asserted and every SOUT off at once. -/
def outputsSafe (b : BlySt) : BlySt := { b with sto := 0xFFFF, sout := 0, stoNext := 0xFFFF, soutNext := 0 }

/-- HALTED with the fault that caused it: outputs safe, guard switches open, no input evaluated (R418). -/
def blyHalt (nib : Nat) (b : BlySt) : BlySt :=
  let c := { blyLatch nib 0 (allSafe b) with state := .halted, stoNext := 0xFFFF, soutNext := 0 }
  (List.range 8).foldl (fun b k => setSout k { soutSt b k with guardOpen := true } b) c

/-- START afresh (R417, R418): outputs safe, functions SAFE, guards closed but those of a latched 0xBA. -/
def blyStart (b : BlySt) : BlySt :=
  let c := { outputsSafe (allSafe b) with state := .start, pairs := b.pairs.map (fun p => (p.1, { p.2 with phase := .opened })), stoBad := 0 }
  (List.range 8).foldl (fun b k => setSout k { soutSt b k with guardOpen := (soutSt b k).ba, badRun := 0 } b) c

/-! ### Inputs (R419 to R422) -/

/-- Whether channels A and B of a pair are made, by its MODE; none is while the field supply is too low (R411). -/
def channelsMade (b : BlySt) (invalid : Bool) (i : Nat) : Bool × Bool :=
  let la := bit b.level (2 * i)
  let lb := bit b.level (2 * i + 1)
  if invalid then (false, false)
  else match pairMode b.par i with
    | 1 | 3 => (la, lb)
    | 2 => (la, !lb)
    | _ => (false, false)

/-- One cycle of a pair's discrepancy rule (R422); the answer tells whether 0xB8 latches. -/
def pairStep (tdisc : Nat) (p : PairPhase) (a b : Bool) : PairPhase × Bool :=
  match a, b with
  | false, false => (.opened, false)
  | true, true =>
    match p with
    | .made | .dropped _ | .opened => (.made, false)
    | .counting n _ => if n + 1 ≤ tdisc then (.made, false) else (.blocked, true)
    | .blocked => (.blocked, false)
  | _, _ =>
    match p with
    | .made => (.dropped a, false)
    | .dropped c => if c = a then (.dropped c, false) else (.blocked, false)
    | .opened => (.counting 0 a, false)
    | .counting n c => if c ≠ a then (.blocked, false) else if n + 1 ≤ tdisc then (.counting (n + 1) c, false) else (.blocked, true)
    | .blocked => (.blocked, false)

/-- One cycle of one pair of a function. -/
def pairCycle (invalid : Bool) (f i : Nat) (b : BlySt) : BlySt :=
  let ch := channelsMade b invalid i
  let x := pairSt b i
  let r := pairStep (fld (fnTime b.par f) 12 0) x.phase ch.1 ch.2
  let both := !ch.1 && !ch.2
  let y := { x with phase := r.1, b8 := x.b8 || r.2, openSince := if r.2 then false else x.openSince || ((x.b8 || x.b9) && both) }
  let b1 := setPair i y b
  if r.2 then blyLatch 8 i b1 else b1

def pairMade (b : BlySt) (i : Nat) : Bool := (pairSt b i).phase == .made && !(pairSt b i).b8 && !(pairSt b i).b9

/-- Both channels of every pair of a function read not made together. -/
def pairsOpen (b : BlySt) (invalid : Bool) (f : Nat) : Bool :=
  (fnPairs b.par f).all (fun i => !(channelsMade b invalid i).1 && !(channelsMade b invalid i).2)

/-! ### Functions (R423 to R426) -/

/-- A latched fault that keeps a function in FAULT. -/
def fnFaulted (b : BlySt) (f : Nat) : Bool :=
  (fnPairs b.par f).any (fun i => (pairSt b i).b8 || (pairSt b i).b9) ||
  (List.range 8).any (fun k => (soutSt b k).ba && bit (fnTarget b.par f) (16 + k))

/-- A demand in RUN: STOP_CAT 1 starts the SS1 timing, STOP_CAT 0 goes SAFE. -/
def fnDemand (b : BlySt) (f : Nat) (x : FnSt) : FnSt :=
  if bit (fnCfg b.par f) 16 then
    { x with state := .stopping, ss1 := 2 * fld (fnTime b.par f) 29 16, seenOpen := false, firstMade := none, late := false }
  else { x with state := .safe, seenOpen := false, firstMade := none, late := false }

/-- A two-hand function in SAFE (R425). -/
def twoHandSafe (b : BlySt) (f : Nat) (x : FnSt) : FnSt :=
  let made := (fnPairs b.par f).map (pairMade b)
  if made.all (fun m => m) then
    let inTime : Bool := match x.firstMade with | some c => decide (b.cycle ≤ c + 1000) | none => true
    if x.seenOpen ∧ !x.late ∧ inTime then { x with state := .run, firstMade := none, interlock := false }
    else { x with late := true }
  else if made.any (fun m => m) then
    { x with firstMade := match x.firstMade with | some c => some c | none => some b.cycle }
  else { x with firstMade := none }

/-- Whether a reset pulse serves a function. -/
def resetServes (b : BlySt) (f : Nat) : Bool :=
  match fld (fnCfg b.par f) 21 20 with
  | 0 => b.rstA
  | 1 => b.rstB
  | _ => b.rstA || b.rstB

/-- One cycle of one function (Table 18-3). -/
def fnCycle (invalid : Bool) (f : Nat) (b : BlySt) : BlySt :=
  let w := fnCfg b.par f
  let opened := pairsOpen b invalid f
  let x0 := fnSt b f
  let x := if opened && x0.state != .run then { x0 with seenOpen := true, late := false } else x0
  let made := (fnPairs b.par f).all (pairMade b)
  let y : FnSt :=
    if x.state ≠ .fault ∧ fnFaulted b f then { x with state := .fault, seenOpen := false }
    else match x.state with
      | .safe =>
        if fnKind b.par f = 3 then twoHandSafe b f x
        else if made && x.seenOpen then
          (if bit w 17 && !(bit w 18 && x.interlock) then { x with state := .run, interlock := false } else { x with state := .waitReset })
        else x
      | .waitReset =>
        if !made then { x with state := .safe }
        else if resetServes b f then { x with state := .run, interlock := false } else x
      | .run => if made then x else fnDemand b f x
      | .stopping => if x.ss1 ≤ 1 then { x with state := .safe, ss1 := 0 } else { x with ss1 := x.ss1 - 1 }
      | .fault => if fnFaulted b f then x else { x with state := .safe }
  setFn f y b

/-! ### Clears (R418, R422, R429, R437) -/

/-- Whether a latched fault's clear condition holds. -/
def clearHolds (now : Nat) (b : BlySt) (x : Nat × Nat) : Bool :=
  match x.1 with
  | 8 => (pairSt b x.2).openSince
  | 9 => (pairSt b x.2).openSince && (pairSt b x.2).tpBad == 0
  | 10 => (soutSt b x.2).agreed
  | 12 => b.parOk
  | 14 => if x.2 = 0 then !b.stuckA && decide (b.ignA ≤ now) else !b.stuckB && decide (b.ignB ≤ now)
  | _ => false

/-- One latched fault is cleared. -/
def clearOne (x : Nat × Nat) (b : BlySt) : BlySt :=
  let b1 := { b with faults := b.faults.filter (· != x) }
  match x.1 with
  | 8 => setPair x.2 { pairSt b1 x.2 with b8 := false } b1
  | 9 => setPair x.2 { pairSt b1 x.2 with b9 := false } b1
  | 10 => setSout x.2 { soutSt b1 x.2 with ba := false, guardOpen := false, badRun := 0 } b1
  | _ => b1

/-- A CLEAR in one cycle clears every fault whose condition holds, and keeps the others. -/
def blyClear (now : Nat) (b : BlySt) : BlySt :=
  let l := b.faults.filter (clearHolds now b)
  { l.foldl (fun b x => clearOne x b) b with clear := false }

/-! ### The cycle (R416 to R418, R429) -/

/-- Readback of the SOUTs against the levels applied: two cycles of disagreement in a row latch 0xBA and open the guard switch. -/
def soutReadback (readb : Byte) (b : BlySt) : BlySt :=
  (List.range 8).foldl (fun b k =>
    let x := soutSt b k
    let ok := bit readb k == bit b.sout k
    if x.ba then setSout k { x with agreed := x.agreed || (!bit b.sout k && !bit readb k) } b
    else if ok then setSout k { x with badRun := 0 } b
    else if x.badRun + 1 < 2 then setSout k { x with badRun := x.badRun + 1 } b
    else blyLatch 10 k (setSout k { x with badRun := 0, ba := true, guardOpen := true, agreed := false } b)) b

/-- A commit request that has arrived is judged (R434): the set it accepts is the one written to non-volatile memory. -/
def blyJudge (now : Nat) (b : BlySt) : BlySt :=
  match b.req with
  | none => b
  | some (key, running) =>
    if b.state = .run ∧ !running ∧ key = blyKey b.staging ∧ blyChecks b.staging then
      { allSafe b with state := .commit, par := b.staging, req := none, commitSince := some now }
    else { b with req := none }

/-- The evaluation of one cycle in RUN. -/
def blyEvaluate (invalid : Bool) (b : BlySt) : BlySt :=
  let fs := fnsIn b
  let b1 := fs.foldl (fun b f => (fnPairs b.par f).foldl (fun b i => pairCycle invalid f i b) b) b
  let b2 := fs.foldl (fun b f => fnCycle invalid f b) b1
  { b2 with rstA := false, rstB := false }

/-- The cycle in RUN: a clear, the self-test and the parameter CRC, the readbacks, a commit request, the evaluation, the next levels. -/
def blyRun (now : Nat) (invalid selfOk crcOk : Bool) (soutRead : Byte) (stoRead : BitVec 16) (b : BlySt) : BlySt :=
  let b := if b.clear then blyClear now b else b
  if !selfOk then blyHalt 13 b
  else
    let b := if crcOk || !b.parOk then b else { blyLatch 12 0 (allSafe b) with parOk := false }
    let b := soutReadback soutRead b
    let bad := if stoRead = b.sto then 0 else b.stoBad + 1
    if 2 ≤ bad then blyHalt 11 { b with stoBad := 0 }
    else
      let b := blyJudge now { b with stoBad := bad }
      let b := if b.state = .run then blyEvaluate invalid b else b
      { b with stoNext := stoWanted b, soutNext := soutWanted b }

/-- The cycle in START, COMMIT and HALTED: a clear, and outputs safe next. -/
def blyRest (now : Nat) (b : BlySt) : BlySt :=
  { (if b.clear then blyClear now b else b) with stoNext := 0xFFFF, soutNext := 0 }

/-- The levels decided in the last cycle are applied, and the status that the uplink carries is taken. -/
def blyApply (b : BlySt) : BlySt :=
  let b := { b with sto := b.stoNext, sout := b.soutNext, cycle := b.cycle + 1 }
  { b with report := belayStatus b }

/-- One belay cycle (R416): the levels decided in the last one are applied, the inputs read, the functions evaluated, and the next
levels decided. `invalid` says that the field supply is below 15 V. -/
def blyCycle (now : Nat) (invalid selfOk crcOk : Bool) (soutRead : Byte) (stoRead : BitVec 16) (b : BlySt) : BlySt :=
  if b.clockLost then b
  else if b.state = .run then blyRun now invalid selfOk crcOk soutRead stoRead (blyApply b)
  else blyRest now (blyApply b)

/-- START ends (R417): its tests, then the parameter load. A reset input that is high then is stuck: 0xBE (R426). -/
def blyStartDone (now : Nat) (testsOk parOk rstA rstB : Bool) (b : BlySt) : BlySt :=
  if b.state ≠ .start then b
  else if !testsOk then blyHalt 13 b
  else
    let ok := parOk && b.nvValid
    let b1 := { allSafe b with
      state := .run
      parOk := ok
      stuckA := rstA
      stuckB := rstB
      faults := b.faults.filter (fun x => x.1 != 11 && x.1 != 13) }
    let b2 := if ok then b1 else blyLatch 12 0 b1
    let b3 := if rstA then blyLatch 14 0 b2 else b2
    if rstB then blyLatch 14 1 b3 else b3

/-- A reset pulse at its falling edge (R426): 50 ms to 3 s; longer latches 0xBE, and the input is ignored until it has been low for 1 s,
as one that was high at START is. -/
def blyReset (now : Nat) (isB : Bool) (ms : Nat) (b : BlySt) : BlySt :=
  let ign := if isB then b.ignB else b.ignA
  let stuck := if isB then b.stuckB else b.stuckA
  let began := now - ms * 1000000
  if stuck ∨ began < ign ∨ 3000 < ms then
    let b1 := if isB then { b with ignB := now + 1000000000, stuckB := false } else { b with ignA := now + 1000000000, stuckA := false }
    if 3000 < ms ∧ !stuck then blyLatch 14 (if isB then 1 else 0) b1 else b1
  else if ms < 50 then b
  else if isB then { b with rstB := true } else { b with rstA := true }

/-- Safety inputs of a pair as a set of its channels: an even number is A, an odd one B. -/
def channelBits (l : List Nat) : BitVec 2 := l.foldl (fun a s => a ||| (1#2 <<< (s % 2))) 0
/-- A test pulse of TPx (R420): a closed channel fed from it must read low. -/
def blyTestPulse (x : Nat) (levels : BitVec 24) (b : BlySt) : BlySt :=
  if b.state ≠ .run ∨ !bit (tpCfg b.par) (8 + x) then b
  else
    (List.range 12).foldl (fun b i =>
      let w := pairWord b.par i
      let used := pairMode b.par i != 0 && (fnsIn b).any (fun f => (fnPairs b.par f).contains i)
      let fed := (if fld w 4 2 = x + 1 then [2 * i] else []) ++ (if fld w 7 5 = x + 1 then [2 * i + 1] else [])
      let closed := fed.filter (fun s => bit b.level s)
      let bad := channelBits (closed.filter (fun s => bit levels s))
      let good := channelBits (closed.filter (fun s => !bit levels s))
      let y := pairSt b i
      let z := { y with tpBad := (y.tpBad &&& ~~~good) ||| bad }
      if !used ∨ closed = [] then b
      else if bad ≠ 0 then blyLatch 9 i (setPair i { z with b9 := true, openSince := false } b)
      else setPair i z b) b

/-- A SOUT test pulse (R428): due, on, and no switch-off pending; a readback that is not low latches 0xBA. -/
def blySoutTest (now k : Nat) (readLow : Bool) (b : BlySt) : BlySt :=
  let x := soutSt b k
  let interval := fld (soutCfg b.par) 22 16 * 100000000
  let pendingOff := !bit b.soutNext k || (fnsIn b).any (fun f => (fnSt b f).state == .stopping && bit (fnTarget b.par f) (16 + k))
  if b.state ≠ .run ∨ !b.parOk ∨ !bit (soutCfg b.par) k ∨ !bit b.sout k ∨ now < x.testDue then b
  else if pendingOff then setSout k { x with testDue := now + interval } b
  else if readLow then setSout k { x with testDue := now + interval } b
  else
    let b1 := blyLatch 10 k (setSout k { x with ba := true, guardOpen := true, agreed := false, testDue := now + interval } b)
    { b1 with sout := b1.sout &&& ~~~(1#8 <<< k), soutNext := b1.soutNext &&& ~~~(1#8 <<< k) }

/-- The commit's write to non-volatile memory is done (R434). -/
def blyCommitDone (b : BlySt) : BlySt :=
  if b.state = .commit then
    { allSafe b with
      state := .run
      parOk := true
      nvValid := true
      parVer := b.parVer + 1
      commitSince := none
      pairs := b.pairs.map (fun p => (p.1, { p.2 with phase := .opened })) }
  else b

end Sys2Proof.Machine
end

