-- ==== Sys2Proof/Machine/FieldOps.lean ====
section
/-!
DEFINITION. The field die and the tether (chapter 17): pins, outputs and their protection, schedules, frames in both directions,
silence, and the field supply.
-/

namespace Sys2Proof.Machine

/-! ### Field pins (R397 to R400) -/

def fldPinReset : Word := 0x03E800C0

/-- FLD_PIN p as the field die applies it. -/
def pinCfg (f : FieldDie) (p : Nat) : Word := tabGet fldPinReset f.pins p

def isOut (f : FieldDie) (p : Nat) : Bool := bit (pinCfg f p) 0
def isSched (f : FieldDie) (p : Nat) : Bool := isOut f p && bit (pinCfg f p) 2

/-- One bit of a 64-bit level set. -/
def put64 (w : DWord) (i : Nat) (b : Bool) : DWord := if b then w ||| (1#64 <<< i) else w &&& ~~~(1#64 <<< i)

/-- The level an output is commanded to. -/
def commanded (f : FieldDie) (p : Nat) : Bool := if bit (pinCfg f p) 2 then bit f.schedLevel p else bit f.outLevel p

/-- An output takes its level (R400, R401, R409): on only while its group is enabled, short-free; in a silence hold it keeps it. -/
def refreshPin (p : Nat) (f : FieldDie) : FieldDie :=
  let g := p / 8
  if !isOut f p ∨ f.uvlo ∨ !f.powered then { f with driven := put64 f.driven p false }
  else if bit f.groups g then { f with driven := put64 f.driven p (commanded f p && !bit f.short p) }
  else if bit f.silHold g then { f with driven := put64 f.driven p (bit f.driven p && !bit f.short p) }
  else { f with driven := put64 f.driven p false }

def refreshAll (f : FieldDie) : FieldDie := (List.range 64).foldl (fun f p => refreshPin p f) f

/-- An event into the FIFO of 256; one that finds it full is lost (R399). -/
def pushEvent (e : EventEntry) (f : FieldDie) : FieldDie :=
  if f.events.length < 256 then { f with events := f.events ++ [e] } else { f with evLost := f.evLost + 1 }

/-- An input level held for DEB is accepted (R398): its time is the first sample's less 290 ns. -/
def fieldInput (now : Nat) (p : Fin 64) (level : Bool) (held : Nat) (f : FieldDie) : FieldDie :=
  let w := pinCfg f p.val
  if !f.powered ∨ f.invalid ∨ isOut f p.val ∨ held < fld w 31 16 * 1000 ∨ bit f.inLevel p.val = level then f
  else
    let f1 := { f with inLevel := put64 f.inLevel p.val level }
    if bit w (if level then 6 else 7) then
      pushEvent { kind := if level then 1 else 2, pin := p, time := nsStamp (now - held - 290) } f1
    else f1

/-! ### Schedules (R407) -/

/-- A schedule event: kind, reject reason, pin, tag and time. -/
def schedEvent (kind : Fin 8) (reason : Fin 5) (e : SchedEntry) (now : Nat) (f : FieldDie) : FieldDie :=
  pushEvent { kind := kind, reason := reason, pin := e.pin, tag := e.tag, time := nsStamp now } f

/-- An entry acts on its pin. -/
def schedAct (e : SchedEntry) (at_ : Nat) (f : FieldDie) : FieldDie :=
  let p := e.pin.val
  let f1 : FieldDie := match e.action.val with
    | 1 => { f with schedLevel := put64 f.schedLevel p true, offAt := tabSet 0 f.offAt p 0 }
    | 2 => { f with schedLevel := put64 f.schedLevel p false, offAt := tabSet 0 f.offAt p 0 }
    | 3 => { f with schedLevel := put64 f.schedLevel p (!bit f.schedLevel p), offAt := tabSet 0 f.offAt p 0 }
    | 4 => { f with schedLevel := put64 f.schedLevel p true, offAt := tabSet 0 f.offAt p (max (tabGet 0 f.offAt p) (at_ + e.width * 1000)) }
    | _ => f
  refreshPin p f1

/-- Whether an entry comes before another: by time, then by arrival. -/
def schedBefore (a b : Sched) : Bool :=
  decide (stampNs a.entry.time < stampNs b.entry.time) ||
    (decide (stampNs a.entry.time = stampNs b.entry.time) && decide (a.order ≤ b.order))

/-- A schedule entry arrives (R404, R407). -/
def schedArrive (now : Nat) (e : SchedEntry) (f : FieldDie) : FieldDie :=
  if e.action.val = 0 then f
  else if f.table.any (fun x => x.entry = e) then f
  else if f.done.contains e.tag then schedEvent 5 3 e now f
  else if e.action.val = 5 then { f with table := f.table.filter (fun x => x.entry.tag != e.tag) }
  else if !isSched f e.pin.val then schedEvent 5 1 e now f
  else if !bit f.groups (e.pin.val / 8) then schedEvent 5 4 e now f
  else
    let rest := f.table.filter (fun x => x.entry.tag != e.tag)
    let f0 := { f with table := rest }
    if stampNs e.time < now then
      schedEvent 4 0 e now (schedAct e now { f0 with done := (e.tag :: f0.done).take 256 })
    else if 32 ≤ rest.length then schedEvent 5 2 e now f0
    else { f0 with table := rest ++ [{ entry := e, order := f0.nextOrder }], nextOrder := f0.nextOrder + 1 }

/-- The next entry of a pin executes OUT_ADV, 1.5 µs, before its time. -/
def schedExecute (now : Nat) (p : Nat) (f : FieldDie) : FieldDie :=
  let mine := (f.table.filter (fun x => x.entry.pin.val = p)).mergeSort schedBefore
  match mine with
  | [] => f
  | x :: _ =>
    if stampNs x.entry.time ≤ now + 1500 then
      schedEvent 3 0 x.entry now (schedAct x.entry (stampNs x.entry.time)
        { f with table := f.table.filter (fun y => y != x), done := (x.entry.tag :: f.done).take 256 })
    else f

/-- A pulse reaches its off time. -/
def pulseEnd (now : Nat) (p : Nat) (f : FieldDie) : FieldDie :=
  let t := tabGet 0 f.offAt p
  if t ≠ 0 ∧ t ≤ now + 1500 then
    refreshPin p { f with offAt := tabSet 0 f.offAt p 0, schedLevel := put64 f.schedLevel p false }
  else f

/-! ### Protection and silence (R401, R402, R409, R411) -/

/-- SHORT: the output switches off, and its bit latches. -/
def shortPin (now : Nat) (p : Fin 64) (f : FieldDie) : FieldDie :=
  if bit f.driven p.val then
    pushEvent { kind := 6, pin := p, time := nsStamp now }
      (refreshPin p.val { f with short := put64 f.short p.val true, driven := put64 f.driven p.val false })
  else f

/-- A group is disabled, and its outputs switch off until the host enables it again (R402). -/
def groupOff (g : Nat) (f : FieldDie) : FieldDie :=
  refreshAll { f with groups := f.groups &&& ~~~(1#8 <<< g), silHold := f.silHold &&& ~~~(1#8 <<< g), lockOff := f.lockOff ||| (1#8 <<< g) }

/-- The silence action of one output (R409): ON switches it on whatever its group's enable bit, but not where R401, R402 or R411 keep it
off until a host action. -/
def silencePin (p : Nat) (f : FieldDie) : FieldDie :=
  if !isOut f p then f
  else match fld (pinCfg f p) 5 4 with
    | 0 => { f with driven := put64 f.driven p false }
    | 1 => { f with driven := put64 f.driven p (!bit f.short p && !f.uvlo && !bit f.lockOff (p / 8)) }
    | _ => f

/-- Silence on the field die. -/
def fieldSilence (now : Nat) (f : FieldDie) : FieldDie :=
  let f1 := (List.range 64).foldl (fun f p => silencePin p f) { f with table := [], offAt := [] }
  { f1 with silence := true, silenceAt := now, silHold := 0xFF, groups := 0 }

/-- A HOLD_THEN_OFF output switches off SIL2 after silence began. -/
def sil2Pin (now : Nat) (p : Nat) (f : FieldDie) : FieldDie :=
  if isOut f p ∧ fld (pinCfg f p) 5 4 = 3 ∧ bit f.silHold (p / 8) ∧ f.silenceAt + f.sil2 * 1000000 ≤ now then
    { f with driven := put64 f.driven p false }
  else f

/-- The field die after power-up: pins are inputs at their reset values, groups disabled, waiting for RESYNC (R412). -/
def fieldPowerUp (now : Nat) (f : FieldDie) : FieldDie :=
  { powered := true, vfield := f.vfield, warn := f.warn, uvlo := f.uvlo, invalid := f.invalid, lastIntact := now }

/-- VFIELD against Table 17-5, each threshold with its release. -/
def vfieldStep (mV : BitVec 16) (f : FieldDie) : FieldDie :=
  let v := mV.toNat
  let hys (old : Bool) (lo hi : Nat) : Bool := if v < lo then true else if hi < v then false else old
  let uv := hys f.uvlo 16000 16500
  let f1 := { f with vfield := mV, warn := hys f.warn 19200 19700, uvlo := uv, invalid := hys f.invalid 15000 15500 }
  let f2 := if uv then { f1 with driven := 0, groups := 0, silHold := 0, lockOff := 0xFF } else f1
  if v < 12000 then { f2 with powered := false, pins := [], driven := 0, groups := 0, table := [], offAt := [], events := [], waitResync := true }
  else f2

/-! ### Configuration slots (R405) -/

/-- A write of the FLD or BLY page waits for a CFG slot. -/
def pushCfg (bly : Bool) (off : Nat) (v : Word) (c : Chip) : Chip :=
  let id := c.fld.nextCfg
  { c with fld := { c.fld with
    cfgQueue := c.fld.cfgQueue ++ [{ id := id, bly := bly, off := off, data := v }]
    nextCfg := if id = 0xFF then 1 else id + 1 } }

/-- A configuration write acts on the field die, once per ID. -/
def applyFldCfg (off : Nat) (v : Word) (f : FieldDie) : FieldDie :=
  if off = 0x04C then { f with silF := fld v 19 0 }
  else if off = 0x050 then { f with sil2 := fld v 15 0 }
  else if off = 0x058 then
    let on := BitVec.ofNat 8 (fld v 7 0)
    refreshAll { f with groups := if f.uvlo then 0 else on, silHold := f.silHold &&& ~~~on
                        lockOff := if f.uvlo then f.lockOff else f.lockOff &&& ~~~on }
  else if off = 0x070 then refreshAll { f with short := f.short &&& ~~~(v.setWidth 64) }
  else if off = 0x074 then refreshAll { f with short := f.short &&& ~~~(v.setWidth 64 <<< 32) }
  else if 0x100 ≤ off ∧ off < 0x200 then
    let p := (off - 0x100) / 4
    let old := isOut f p
    let f1 := { f with pins := tabSet fldPinReset f.pins p v }
    if isOut f1 p ≠ old then { f1 with driven := put64 f1.driven p false, schedLevel := put64 f1.schedLevel p false } else f1
  else f

/-- A write of the BLY page acts on the belay: a clear, a commit request, RESTART, or a word of the staging set. -/
def applyBlyCfg (off : Nat) (v : Word) (b : BlySt) : BlySt :=
  if off = 0x020 then { b with clear := true }
  else if off = 0x054 then { b with req := some (v, (fnsIn b).any (fnOn b)) }
  else if off = 0x058 then (if bit v 0 && b.state == .halted then blyStart b else b)
  else if 0x100 ≤ off ∧ off ≤ 0x208 then { b with staging := setPar b.staging off v }
  else b

/-- One CFG slot of a downlink frame. -/
def takeCfg (first : Bool) (s : CfgSlot) (c : Chip) : Chip :=
  let seen := if first then c.field.cfgAck0 else c.field.cfgAck1
  if s.id = 0 ∨ s.id = seen then c
  else
    let f := if first then { c.field with cfgAck0 := s.id } else { c.field with cfgAck1 := s.id }
    if s.bly then { c with field := f, bly := applyBlyCfg s.off s.data c.bly }
    else { c with field := applyFldCfg s.off s.data f }

/-! ### Frames (R403 to R406) -/

/-- Whether a frame with sequence `q` is acknowledged by ACK and ACK_MAP. -/
def acked (ack map q : Byte) : Bool :=
  q == ack || (List.range 8).any (fun i => bit map i && q == ack - 1 - BitVec.ofNat 8 i)

/-- The acknowledgement map after a frame `seq` follows `last` with `map`. -/
def nextMap (last map seq : Byte) : Byte :=
  let d := (seq - last).toNat
  if d = 0 then map else if 8 < d then 0 else (map <<< d) ||| (1#8 <<< (d - 1))

/-- The length of a frame on its lane, ns (R403). -/
def frameNs : Nat := 4900
/-- Whether a frame of the other direction that starts at `start` decides on what was sent in a frame that ended at `ended`: it starts after
that one's end (R404). -/
def decides (start ended : Nat) : Bool := decide (ended ≤ start)
/-- A time field of 4 bytes: nanoseconds and seconds modulo 4 (R403). -/
def timeField (t : Stamp) : Nat := t.ns % 2 ^ 30 + t.s % 4 * 2 ^ 30
/-- A schedule entry of 12 bytes (Table 17-3). -/
def schedBytes (e : SchedEntry) : List Byte :=
  [BitVec.ofNat 8 e.action.val, BitVec.ofNat 8 e.pin.val] ++ toBytes 2 e.tag.toNat ++ toBytes 4 (timeField e.time) ++ toBytes 4 (e.width % 2 ^ 20)
/-- An event entry of 8 bytes (Table 17-3). -/
def eventBytes (e : EventEntry) : List Byte :=
  [BitVec.ofNat 8 (e.kind.val + e.reason.val * 16), BitVec.ofNat 8 e.pin.val] ++ toBytes 2 e.tag.toNat ++ toBytes 4 (timeField e.time)
/-- A CFG slot of 8 bytes (Table 17-1). -/
def cfgBytes (s : CfgSlot) : List Byte :=
  toBytes 4 (s.id.toNat + flag s.bly 8 + s.off / 4 % 2048 * 512) ++ toBytes 4 s.data.toNat
/-- The BELAY field of 8 bytes (Table 18-4). -/
def belayBytes (b : BelayField) : List Byte :=
  toBytes 2 b.sto.toNat ++ toBytes 2 b.stopReq.toNat ++ toBytes 2 (b.fnRun.toNat + b.fault.toNat * 4096) ++
  [b.sout, BitVec.ofNat 8 (b.state.val + flag b.parOk 2 + flag b.resetWait 3 + b.parVer.toNat * 16)]
/-- `n` bytes of 0. -/
def zeroBytes (n : Nat) : List Byte := List.replicate n 0
/-- A list of bytes brought to `n` with zeros. -/
def padTo (n : Nat) (bs : List Byte) : List Byte := bs ++ zeroBytes (n - bs.length)
/-- The 92 data bytes of a frame and their CRC-32C (R403). -/
def sealFrame (bs : List Byte) : List Byte := bs ++ toBytes 4 (crc32c bs).toNat
/-- Bytes 0 to 7 of a frame: KIND 1 with VERSION 1, SEQ, ACK, FLAGS and the time of its first start character. -/
def frameHead (seq ack : Byte) (resync : Bool) (t : Stamp) : List Byte :=
  [0x11, seq, ack, if resync then 1 else 0] ++ toBytes 4 (timeField t)
/-- The 96 bytes of a downlink frame (Table 17-1). -/
def downBytes (f : DownFrame) : List Byte :=
  sealFrame (frameHead f.seq f.ack f.resync f.tTx ++ toBytes 8 f.outLevel.toNat ++ cfgBytes f.cfg0 ++ cfgBytes f.cfg1 ++
    padTo 48 ((f.sched.take 4).flatMap schedBytes) ++ [f.ackMap] ++ zeroBytes 11)
/-- The 96 bytes of an uplink frame (Table 17-2). -/
def upBytes (f : UpFrame) : List Byte :=
  sealFrame (frameHead f.seq f.ack f.resync f.tField ++ toBytes 8 f.inLevel.toNat ++ toBytes 2 f.vfield.toNat ++
    [f.groupOn, BitVec.ofNat 8 (flag f.inputsValid 0 + flag f.warn 1 + flag f.uvlo 2), f.cfgAck0, f.cfgAck1] ++ zeroBytes 2 ++
    belayBytes f.belay ++ padTo 56 ((f.events.take 7).flatMap eventBytes) ++ [f.ackMap] ++ zeroBytes 3)
/-- The level of each pin as an uplink frame reports it: the debounced input, or the readback of an output (Table 17-2). -/
def pinLevels (f : FieldDie) : DWord :=
  let outs := (List.range 64).foldl (fun w p => put64 w p (isOut f p)) 0
  (f.inLevel &&& ~~~outs) ||| (f.driven &&& outs)
/-- A downlink frame at the field die (R404 to R407). -/
def downlinkRx (f : DownFrame) (intact : Bool) (c : Chip) : Chip :=
  if !c.field.powered then c
  else if !intact then { c with fld := { c.fld with downBad := min 255 (c.fld.downBad + 1) } }
  else if c.field.waitResync && !f.resync then { c with field := { c.field with lastIntact := c.clk.now } }
  else
    let fd := c.field
    let fd := if f.resync then { fd with waitResync := false, rxMap := 0, table := [], sentEvents := [], done := [], cfgAck0 := 0, cfgAck1 := 0
                                         events := fd.sentEvents.flatMap (·.2.2) ++ fd.events } else fd
    let open_ := fd.sentEvents.filter (fun p => !acked f.ack f.ackMap p.1)
    let lost := open_.filter (fun p => decides (stampNs f.tTx) p.2.1)
    let fd := { fd with
      lastIntact := c.clk.now
      silence := false
      rxMap := if f.resync then 0 else nextMap fd.rxSeq fd.rxMap f.seq
      rxSeq := f.seq
      sentEvents := open_.filter (fun p => !decides (stampNs f.tTx) p.2.1)
      events := lost.flatMap (·.2.2) ++ fd.events
      outLevel := f.outLevel }
    let c1 := takeCfg false f.cfg1 (takeCfg true f.cfg0 { c with field := fd })
    let now := timeNs c
    { c1 with field := refreshAll (f.sched.foldl (fun fd e => schedArrive now e fd) c1.field) }

/-- The next uplink frame (R399, R403). -/
def uplinkTx (c : Chip) : Chip :=
  if !c.field.powered then c
  else
    let fd := c.field
    let lost : List EventEntry := if fd.evLost = 0 then [] else [{ kind := 7, tag := BitVec.ofNat 16 fd.evLost, time := nsStamp (timeNs c) }]
    let ev := (fd.events ++ lost).take 7
    let sentLost := lost ≠ [] ∧ fd.events.length < 7
    let frame : UpFrame :=
      { seq := fd.upSeq, ack := fd.rxSeq, ackMap := fd.rxMap, tField := nsStamp (timeNs c), inLevel := pinLevels fd, vfield := fd.vfield
        groupOn := fd.groups, inputsValid := !fd.invalid, warn := fd.warn, uvlo := fd.uvlo, cfgAck0 := fd.cfgAck0, cfgAck1 := fd.cfgAck1
        belay := c.bly.report, events := ev }
    emit (.uplink frame (upBytes frame)) { c with field := { fd with
      upSeq := fd.upSeq + 1
      events := fd.events.drop 7
      evLost := if sentLost then 0 else fd.evLost
      sentEvents := if ev = [] then fd.sentEvents else fd.sentEvents ++ [(fd.upSeq, timeNs c + frameNs, ev)] } }

/-- The next downlink frame (R403 to R405): levels, two CFG slots, up to four schedule entries. -/
def downlinkTx (c : Chip) : Chip :=
  let m := c.fld
  let cfg0 := match m.cfg0 with | some s => some s | none => m.cfgQueue.head?
  let q1 := if m.cfg0.isNone then m.cfgQueue.drop 1 else m.cfgQueue
  let cfg1 := match m.cfg1 with | some s => some s | none => q1.head?
  let q2 := if m.cfg1.isNone then q1.drop 1 else q1
  let send := (m.sched.filter (fun s => s.sent.isNone)).take 4
  let frame : DownFrame :=
    { seq := m.txSeq, ack := m.rxSeq, ackMap := m.rxMap, resync := m.resync, tTx := nsStamp (timeNs c)
      outLevel := joinHalves (rd c .fld 0x064) (rd c .fld 0x060), cfg0 := cfg0.getD {}, cfg1 := cfg1.getD {}
      sched := send.map (·.entry) }
  emit (.downlink frame (downBytes frame)) { c with fld := { m with
    txSeq := m.txSeq + 1
    resync := false
    cfg0 := cfg0
    cfg1 := cfg1
    cfgQueue := q2
    sched := m.sched.map (fun s => if send.contains s then { s with sent := some (m.txSeq, timeNs c + frameNs) } else s) } }

/-- The configuration the FLD page sends when the tether comes UP (R412). -/
def sendFldConfig (c : Chip) : Chip :=
  let offs := [0x04C, 0x050, 0x058] ++ (List.range 64).map (fun p => 0x100 + 4 * p)
  offs.foldl (fun c o => pushCfg false o (rd c .fld o) c) c

/-- The compare unit whose schedule carried a tag is mispredicted (R177, R407). -/
def mispredictTag (tag : BitVec 16) (c : Chip) : Chip :=
  { c with axes := c.axes.map (fun a => (a.1, { a.2 with cmp := a.2.cmp.map (fun u =>
      (u.1, if u.2.sched.any (fun s => s.tag = tag ∧ s.output ≠ 65) then { u.2 with mispredict := true } else u.2)) })) }

/-- Every schedule that no frame has yet brought to the field die acknowledged is cancelled, and reported by MISPREDICT of the compare that sent it
(R28, R177, R410). -/
def schedCancel (c : Chip) : Chip :=
  let tags := c.fld.sched.map (fun x => x.entry.tag)
  let c1 := tags.foldl (fun c t => mispredictTag t c) c
  { c1 with
    fld := { c1.fld with sched := [] }
    axes := c1.axes.map (fun a => (a.1, { a.2 with cmp := a.2.cmp.map (fun u =>
      (u.1, { u.2 with sched := u.2.sched.filter (fun q => q.output == 65 || !tags.contains q.tag) })) })) }

/-- One event entry at the main die; what its edge does to latches, limits and command pins is those events' own commands. -/
def takeEvent (e : EventEntry) (c : Chip) : Chip :=
  if e.kind.val = 0 ∨ c.fld.seen.any (fun x => x.kind = e.kind ∧ x.pin = e.pin ∧ x.time = e.time) then c
  else
    let c := { c with fld := { c.fld with seen := (e :: c.fld.seen).take 64 } }
    match e.kind.val with
    | 5 => raise .fld 15 (mispredictTag e.tag c)
    | 6 => raise .fld 13 { c with fld := { c.fld with short := put64 c.fld.short e.pin.val true } }
    | 7 => raise .fld 16 { c with fld := { c.fld with evLost := min 255 (c.fld.evLost + e.tag.toNat) } }
    | _ => c

/-- The belay status an uplink brings (R431, R434, R437): the BLY page's causes, counters, fault code and commit outcome. -/
def takeBelay (b : BelayField) (c : Chip) : Chip :=
  let o := c.fld.belay
  let dropped := o.fnRun &&& ~~~b.fnRun
  let c1 := { c with
    svcSafety := decide (b.state = 1) && b.parOk
    fld := { c.fld with belay := b, demands := min 65535 (c.fld.demands + (if dropped != 0 then 1 else 0)) } }
  let c2 := raiseIf (dropped != 0) .bly 8 c1
  let c3 := raiseIf (b.fnRun &&& ~~~o.fnRun != 0) .bly 9 c2
  let c4 := raiseIf (b.resetWait && !o.resetWait) .bly 10 c3
  let c5 := raiseIf (b.sto != o.sto) .bly 11 c4
  let c6 := raiseIf (decide (b.state = 2) && decide (o.state ≠ 2)) .bly 14 c5
  let c7 := if b.fault ≠ 0 ∧ b.fault ≠ o.fault ∧ c.fld.clearSince = none then latchFault .bly (0xB0 ||| b.fault.setWidth 8) c6 else c6
  let done := match c.fld.commit with
    | some (_, v) => decide (b.parVer ≠ v)
    | none => false
  let c8 := match c.fld.commit with
    | some (k, _) =>
      if done then
        raise .bly 12 { c7 with fld := { c7.fld with commit := none, commitAck := none, commitSeen := false, key := k, keyValid := true, commitRefused := false } }
      else if b.state = 3 then { c7 with fld := { c7.fld with commitSeen := true } }
      else match c.fld.commitAck with
        | some t =>
          if !c.fld.commitSeen ∧ t + 1000000 ≤ c.clk.now then
            raise .bly 13 { c7 with fld := { c7.fld with commit := none, commitAck := none, commitRefused := true, refused := min 255 (c7.fld.refused + 1) } }
          else c7
        | none => c7
    | none => c7
  match c.fld.clearSince with
  | some t =>
    if t + 1000000 ≤ c.clk.now then
      let c9 := { c8 with fld := { c8.fld with clearSince := none } }
      if b.fault = 0 then clearLatch .bly c9
      else raise .bly 7 (modHdr .bly (fun h => { h with fltCode := 0xB0 ||| b.fault.setWidth 8 }) c9)
    else c8
  | none => c8

/-- A CFG acknowledgement frees its slot; a commit request acknowledged starts the two cycles of R434. -/
def ackCfg (s : Option CfgSlot) (id : Byte) (c : Chip) : Option CfgSlot × Chip :=
  match s with
  | some x =>
    if x.id = id then
      (none, if x.bly ∧ x.off = 0x054 then { c with fld := { c.fld with commitAck := some c.clk.now } }
             else if x.bly ∧ x.off = 0x020 then { c with fld := { c.fld with clearSince := some c.clk.now } } else c)
    else (some x, c)
  | none => (none, c)

/-- An uplink frame at the main die, its STOP_REQ and the axis faults of R410 apart (R399, R404 to R408, R431). -/
def uplinkRx (f : UpFrame) (intact : Bool) (arrival : Nat) (c : Chip) : Chip :=
  if !intact then
    let err := match c.fld.lastCrcErr with | some t => decide (t + 1000000 ≤ c.clk.now) | none => true
    let c1 := { c with fld := { c.fld with run := 0, upBad := min 255 (c.fld.upBad + 1) } }
    if err then raise .fld 17 { c1 with fld := { c1.fld with lastCrcErr := some c.clk.now } } else c1
  else
    let m := c.fld
    let n := m.run + 1
    let rises := decide (m.tether ≠ .up) && decide (4 ≤ n)
    let up := decide (m.tether = .up) || rises
    let valid := up && f.inputsValid
    let d := (((arrival : Int) - (stampNs f.tField : Int)) * 16 + m.delay) / 2
    let m1 := { m with
      run := n
      lastIntact := c.clk.now
      tether := if rises then .up else m.tether
      rxMap := nextMap m.rxSeq m.rxMap f.seq
      rxSeq := f.seq
      inLevel := f.inLevel
      vfield := f.vfield
      groupOn := f.groupOn
      warn := f.warn
      uvlo := f.uvlo
      inputsValid := valid
      delay := d.toNat % 65536
      sched := (m.sched.filter (fun s => match s.sent with | some q => !acked f.ack f.ackMap q.1 | none => true)).map
        (fun s => match s.sent with
          | some q => if decides (stampNs f.tField) q.2 then { s with sent := none } else s
          | none => s) }
    let c1 := { c with fld := m1 }
    let a0 := ackCfg m1.cfg0 f.cfgAck0 c1
    let a1 := ackCfg m1.cfg1 f.cfgAck1 a0.2
    let c2 := { a1.2 with fld := { a1.2.fld with cfg0 := a0.1, cfg1 := a1.1 } }
    let c3 := if rises then raise .fld 8 (if m.tether = .down then sendFldConfig c2 else c2) else c2
    let c4 := if rises then endCond .fld 0xB0 c3 else c3
    let c5 := raiseIf (f.warn && !m.warn) .fld 10 c4
    let c6 := if f.uvlo && !m.uvlo then raise .fld 11 (latchCond .fld 0xB2 c5) else if f.uvlo then c5 else endCond .fld 0xB2 c5
    let c7 := raiseIf (m.inputsValid && !valid) .fld 12 c6
    let c8 := f.events.foldl (fun c e => takeEvent e c) c7
    takeBelay f.belay c8

end Sys2Proof.Machine
end

