-- ==== Sys2Proof/Machine/Profile.lean ====
section
/-!
DEFINITION. Profiles of constant-jerk segments (R125 to R127, R131 to R133): velocity changes, stops, positioning moves. The values a
profile holds (durations, start values, distances, square roots and the speeds of the bisection) carry 48 fractional bits (R125, log
entry 21).
-/

namespace Sys2Proof.Machine

/-- The state of a segment `tau` after its start (R125). -/
def segAt (g : Seg) (tau : Rat) : Sp :=
  { p := g.p + g.v * tau + g.a * tau * tau / 2 + g.j * tau * tau * tau / 6
    v := g.v + g.a * tau + g.j * tau * tau / 2
    a := g.a + g.j * tau }

/-- Lays segments of (duration, jerk, start acceleration if it steps) one after another from a state; answers them and the end. -/
def laySegs : Sp → List (Rat × Rat × Option Rat) → List Seg × Sp
  | x, [] => ([], x)
  | x, (d, j, a) :: t =>
    if d ≤ 0 then laySegs (match a with | some a => { x with a := a } | none => x) t
    else
      let g : Seg := { dur := d, p := x.p, v := x.v, a := a.getD x.a, j := j }
      let r := laySegs (segAt g d) t
      (g :: r.1, r.2)

/-- The velocity pulse of R126 from speed `v0` with acceleration `a0` to speed `v2`, in the direction `up`, under acceleration
limit `A` and jerk `j`: (duration, jerk, stepped acceleration). An acceleration beyond the limit is first ramped down (R132). -/
def pulse (up : Bool) (v0 a0 v2 A j : Rat) : List (Rat × Rat × Option Rat) :=
  let s : Rat := if up then 1 else -1
  if j = 0 then
    [((absRat (v2 - v0) / A), 0, some (s * A)), (0, 0, some 0)]
  else
    let b := s * a0                      -- acceleration in the direction of the change
    let dv := s * (v2 - v0)
    let peak2 := j * dv + b * b / 2
    let peak := sqrt48 (maxRat 0 peak2)
    if A < b then
      let dvR := (b * b - A * A) / (2 * j)
      let hold := (dv - dvR - A * A / (2 * j)) / A
      [(((b - A) / j), -s * j, none), ((maxRat 0 hold), 0, some (s * A)), ((A / j), -s * j, some (s * A)), (0, 0, some 0)]
    else if A < peak then
      let hold := (dv - (2 * A * A - b * b) / (2 * j)) / A
      [(((A - b) / j), s * j, none), ((maxRat 0 hold), 0, some (s * A)), ((A / j), -s * j, some (s * A)), (0, 0, some 0)]
    else
      [(((peak - b) / j), s * j, none), ((peak / j), -s * j, some (s * peak)), (0, 0, some 0)]

/-- The speed reached when the present acceleration is ramped to 0 at the jerk limit (R126). -/
def speedAfterRamp (v a j : Rat) : Rat :=
  if j = 0 then v else v + a * absRat a / (2 * j)

/-- A velocity change from (v0, a0) to v2 (R126): the acceleration limit where |v| rises, the deceleration limit where it falls;
where the present acceleration carries the speed through zero, the smaller of the two (log entry 22). -/
def velChange (x : Sp) (v2 : Rat) (l : Lim) : List (Rat × Rat × Option Rat) :=
  let va := speedAfterRamp x.v x.a l.j
  let sg : Rat := if x.v < 0 ∨ (x.v = 0 ∧ v2 < 0) ∨ (x.v = 0 ∧ v2 = 0 ∧ x.a < 0) then -1 else 1
  let up := decide (va < v2)
  if va = v2 then
    if l.j = 0 then (if x.a = 0 then [] else [(0, 0, some 0)])
    else [((absRat x.a / l.j), if x.a < 0 then l.j else -l.j, none), (0, 0, some 0)]
  else
    let rising := decide (0 < sg * (v2 - va))
    let through := decide (sg * va < 0)
    let A := if through then minRat l.a l.d else if rising then l.a else l.d
    -- falling from an acceleration that still drives |v| up: ramp it to 0 first, then the stop from the speed reached (R126)
    if !rising && decide (0 < sg * x.a) && decide (l.j ≠ 0) then
      ((absRat x.a / l.j), if x.a < 0 then l.j else -l.j, none) :: pulse up va 0 v2 A l.j
    else pulse up x.v x.a v2 A l.j

/-- The distance and the end state of a list of segments. -/
def laySum (l : List Seg) : Rat := l.foldl (fun t g => t + g.dur) 0

/-- A velocity change laid out, ending exactly at v2 with a = 0. -/
def layVel (x : Sp) (v2 : Rat) (l : Lim) : List Seg × Sp :=
  let r := laySegs x (velChange x v2 l)
  (r.1, { p := r.2.p, v := v2, a := 0 })

/-- A segment as the planner holds it: 48 fractional bits, its duration cut down (R125, log entry 21). -/
def held48 (g : Seg) : Seg := { dur := cut48 g.dur, p := q48 g.p, v := q48 g.v, a := q48 g.a, j := g.j }

/-- A plan that ends at constant velocity (R131), or at rest when `v2 = 0` (R137). -/
def planVel (x : Sp) (v2 : Rat) (l : Lim) : Plan :=
  let r := layVel x v2 l
  { segs := r.1.map held48, total := cut48 (laySum r.1), endP := q48 r.2.p, endV := v2 }

/-- Where the axis comes to rest under a stop with these limits (R126, R133). -/
def stopPoint (x : Sp) (l : Lim) : Rat := q48 (layVel x 0 l).2.p

/-- The distance from a state through peak speed `vp` to rest, in the direction `s`. -/
def moveDist (x : Sp) (s vp : Rat) (l : Lim) : Rat :=
  let r := layVel x (s * vp) l
  let e := layVel r.2 0 l
  q48 (s * (e.2.p - x.p))

/-- The bisection of R127 between a speed that fits and one that does not. -/
def bisect (x : Sp) (s len : Rat) (l : Lim) : Nat → Rat → Rat → Rat
  | 0, lo, _ => lo
  | k + 1, lo, hi =>
    if hi - lo < 1 / 256 ∧ hi - lo < lo / 256 then lo
    else
      let m := q48 ((lo + hi) / 2)
      if m ≤ lo ∨ hi ≤ m then lo
      else if moveDist x s m l ≤ len then bisect x s len l k m hi else bisect x s len l k lo m

/-- A positioning move from a state in motion or at rest to a target ahead of its stopping point, in the direction `s` (R127). -/
def planAhead (x : Sp) (target : Rat) (s : Rat) (l : Lim) : Plan :=
  let len := s * (target - x.p)
  let vp :=
    if moveDist x s l.v l ≤ len then l.v
    else
      -- the start of the bisection: the speed after a ramp of the present acceleration if it fits, else 0 (log entry 23)
      let va := s * speedAfterRamp x.v x.a l.j
      let lo := if 0 < va ∧ va < l.v ∧ moveDist x s va l ≤ len then va else 0
      bisect x s len l 200 lo l.v
  if vp ≤ 0 then
    let r := layVel x 0 l
    { segs := r.1.map held48, total := cut48 (laySum r.1), endP := if s * (r.2.p - x.p) ≤ len then target else r.2.p }
  else
    let up := layVel x (s * vp) l
    let dn := layVel { up.2 with p := 0 } 0 l
    let rest := len - s * (up.2.p - x.p) - s * dn.2.p
    let cruise : List Seg :=
      if rest ≤ 0 then [] else [{ dur := rest / vp, p := up.2.p, v := s * vp, a := 0, j := 0 }]
    let base := target - dn.2.p
    let tail := dn.1.map (fun g => { g with p := g.p + base })
    let segs := up.1 ++ cruise ++ tail
    { segs := segs.map held48, total := cut48 (laySum segs), endP := target }

/-- Whether a target lies behind the stopping point, or behind the present position, in the direction of motion (R133). -/
def needsReversal (x : Sp) (target : Rat) (l : Lim) : Bool :=
  if x.v = 0 ∧ x.a = 0 then false
  else
    let s : Rat := if x.v < 0 ∨ (x.v = 0 ∧ x.a < 0) then -1 else 1
    decide (s * (target - stopPoint x l) < 0) || decide (s * (target - x.p) < 0)

/-- Two plans in sequence: the second starts where the first ends. -/
def appendPlan (p1 p2 : Plan) : Plan :=
  { segs := p1.segs ++ p2.segs, total := p1.total + p2.total, endP := p2.endP, endV := p2.endV }

/-- A positioning move (R127, R133), with the overshoot of a reversal. -/
def planPos (x : Sp) (target : Rat) (l : Lim) : Plan × Rat :=
  if needsReversal x target l then
    let st := planVel x 0 l
    let xs := st.endP
    let back := planAhead { p := xs } target (if target < xs then -1 else 1) l
    (appendPlan st back, absRat (xs - target))
  else
    (planAhead x target (if target < x.p then -1 else 1) l, 0)

/-- A velocity move (R131, R133): a new velocity of the opposite sign is reached through rest. -/
def planSpeed (x : Sp) (v2 : Rat) (l : Lim) : Plan × Bool :=
  if x.v * v2 < 0 then
    let st := planVel x 0 l
    (appendPlan st (planVel { p := st.endP } v2 l), true)
  else (planVel x v2 l, false)

/-- The state of a list of segments at profile time `t`; `none` past their end. -/
def segsAt : List Seg → Rat → Option Sp
  | [], _ => none
  | g :: t, tau => if tau < g.dur then some (segAt g tau) else segsAt t (tau - g.dur)

/-- The plan's state at profile time `t` (R125): past its end, the target exactly, or the constant velocity. -/
def planAt (p : Plan) (t : Rat) : Sp :=
  if t < p.total then
    match segsAt p.segs t with
    | some x => x
    | none => { p := p.endP, v := p.endV }
  else { p := p.endP + p.endV * (t - p.total), v := p.endV }

/-- A committed block: rounded to Q40.24, the position wrapped modulo 2^40 (R5, R125). -/
def commitSp (x : Sp) : Sp := { p := wrapPos x.p, v := ofQ (satQ x.v), a := ofQ (satQ x.a) }

end Sys2Proof.Machine
end

