-- ==== Sys2Proof/Machine/AxisOps.lean ====
section
/-!
DEFINITION. Axis operations the planner and the drive share: the parts of one physical axis, feedback as the planner sees it, the
pulse block and the brake, and what ends the commands of an axis (chapter 6, R216 to R218, R263).
-/

namespace Sys2Proof.Machine

/-! ### The parts of an axis -/

def isPhys (n : Nat) : Bool := decide (n < 128)

def f128 (n : Nat) : Fin 128 := Fin.ofNat 128 n

def modAxis (n : Nat) (f : Axis → Axis) (c : Chip) : Chip := setAxis n (f (axis c n)) c

def loopAx (c : Chip) (n : Nat) : LoopAx := tabGet {} c.loops n
def setLoop (n : Nat) (x : LoopAx) (c : Chip) : Chip := { c with loops := tabSet {} c.loops n x }
def supAx (c : Chip) (n : Nat) : SupAx := tabGet {} c.sups n
def setSup (n : Nat) (x : SupAx) (c : Chip) : Chip := { c with sups := tabSet {} c.sups n x }
def modSup (n : Nat) (f : SupAx → SupAx) (c : Chip) : Chip := setSup n (f (supAx c n)) c
def modSt (c : Chip) (n : Nat) : ModSt := tabGet {} c.mods n
def setMod (n : Nat) (x : ModSt) (c : Chip) : Chip := { c with mods := tabSet {} c.mods n x }
def modMod (n : Nat) (f : ModSt → ModSt) (c : Chip) : Chip := setMod n (f (modSt c n)) c
def fbkSt (c : Chip) (n : Nat) : FbkSt := tabGet {} c.fbks n
def setFbk (n : Nat) (x : FbkSt) (c : Chip) : Chip := { c with fbks := tabSet {} c.fbks n x }
def modFbk (n : Nat) (f : FbkSt → FbkSt) (c : Chip) : Chip := setFbk n (f (fbkSt c n)) c
def snlSt (c : Chip) (n : Nat) : SnlSt := tabGet {} c.snls n
def setSnl (n : Nat) (x : SnlSt) (c : Chip) : Chip := { c with snls := tabSet {} c.snls n x }
def busSt (c : Chip) (b : Nat) : BusSt := tabGet {} c.buses b
def setBus (b : Nat) (x : BusSt) (c : Chip) : Chip := { c with buses := tabSet {} c.buses b x }

def busPage (b : Nat) : Page := .bus (Fin.ofNat 16 b)

/-- MOD_CTL.MODE in force: 0 BRIDGE, 1 PULSE, 2 CHOPPER, 3 SPARE (Table 10-1). -/
def modMode (c : Chip) (n : Nat) : Nat := actF c (.mod (f128 n)) 0x040 1 0

/-- A pulse axis: its port is in PULSE mode (R148). -/
def pulseAxis (c : Chip) (n : Nat) : Bool := isPhys n && modMode c n == 1

/-- FBK_CTL.MODE in force (Table 11-1). -/
def fbkMode (c : Chip) (n : Nat) : Nat := actF c (.fbk (f128 n)) 0x040 2 0

/-- A pulse axis reports its commanded steps unless its channel reads them back (R147, R282). -/
def commandedSteps (c : Chip) (n : Nat) : Bool := pulseAxis c n && fbkMode c n != 5

/-- The accumulator state A of a step generator in steps (R179), in the axis coordinate, modulo 2^40 counts (R5). -/
def stepPos (a : Axis) : Rat :=
  let f : Rat := (a.step.phase : Rat) / (2 ^ 48 : Nat)
  modPos ((a.step.count : Rat) + (if a.step.neg then 1 - f else f) + a.fbOfs)

/-- The feedback position and speed latched at the last frame knot (R124, R272). -/
def fbPos (c : Chip) (n : Nat) : Rat :=
  if sensorless c (f128 n) then modPos ((snlSt c n).pos + (axis c n).fbOfs)
  else if commandedSteps c n then stepPos (axis c n)
  else (fbkSt c n).posK

def fbVel (c : Chip) (n : Nat) : Rat :=
  if sensorless c (f128 n) then (snlSt c n).vel
  else if commandedSteps c n then 0
  else (fbkSt c n).velK

/-- The observer counts as synchronised, and the drive releases pulses (R299, R303). -/
def snlSynced (s : SnlState) : Bool := s == .aligning || s == .ramp || s == .run

/-- A sensorless axis that takes its speed from a pin or an AIN channel: SNL_CMD.CMD_SRC ≠ 0 (R309). -/
def selfCommanded (c : Chip) (n : Nat) : Bool := isPhys n && sensorless c (f128 n) && actF c (.snl (f128 n)) 0x094 1 0 != 0

/-- The channel of a sensorless axis reports loss of its measurement (R222). -/
def fbValid (c : Chip) (n : Nat) : Bool :=
  if !isPhys n then true
  else if sensorless c (f128 n) then (snlSt c n).state != .off && (snlSt c n).state != .fault && !(snlSt c n).lostMeas
  else if commandedSteps c n then true
  else (fbkSt c n).valid && !(fbkSt c n).lost


/-- The nominal frame period in force (R17): 62.5, 125 or 250 µs. -/
def periodNs (c : Chip) : Nat := 62500 * 2 ^ actF c .knt 0x040 1 0

/-- The length of the frame in seconds, as it began; the planner counts a frame that contains a step as one frame (R105). -/
def frameSec (c : Chip) : Rat := (c.tim.planNs : Rat) / 1000000000

/-- Device time of the last frame knot, in ns; the grid begins at 0, so a knot before the first frame has a negative time. -/
def knotNs (c : Chip) : Int := (c.tim.nextKnot : Int) - c.tim.lenNs

/-- S, the current samples of a frame (R18), and their period in seconds. -/
def samplesPer (c : Chip) : Nat := actF c .knt 0x040 11 8 + 1

def sampleSec (c : Chip) : Rat := (periodNs c : Rat) / 1000000000 / (samplesPer c : Rat)

/-- The sample period in ns (R18). -/
def sampleNs (c : Chip) : Rat := (periodNs c : Rat) / (samplesPer c : Rat)

/-! ### The lock of the time base (R104) -/

/-- The state of PTP_PORT p. -/
def ptpState (c : Chip) (p : Nat) : Nat := rdF c .tim (0x220 + 4 * p) 2 0

def ptpEn (c : Chip) : Bool := bit (rd c .tim 0x200) 0 && isUp c .tim

/-- TIME_LOCKED (R104). -/
def timeLocked (c : Chip) : Bool :=
  (c.tim.servo == .locked && rdF c .tim 0x040 5 4 == 1) ||
  (bit (rd c .tim 0x040) 12 && (List.range 4).all (fun p => ptpState c p != 2) && ptpEn c)

/-! ### Limit and home inputs (R141, Table 6-7) -/

/-- The level of the input whose source, with its polarity above it, stands at bit `lo` of AXM_INPUTS, after the debounce of its pin; a
source of 0 or a reserved one is no input. -/
def srcLevel (c : Chip) (n lo : Nat) : Bool :=
  let w := act c (axmPage n) 0x0B8
  let src := fld w (lo + 6) lo
  let level := if src = 65 then (fbkSt c n).f2 else bit c.fld.inLevel (src - 1)
  decide (1 ≤ src) && (decide (src ≤ 64) || (decide (src = 65) && isPhys n)) && (level != bit w (lo + 7))

/-- The positive or the negative limit is active. -/
def limLevel (c : Chip) (n : Nat) (positive : Bool) : Bool := srcLevel c n (if positive then 0 else 8)

/-- HOME_IN: the home input is active. -/
def homeLevel (c : Chip) (n : Nat) : Bool := srcLevel c n 16

/-- The feedback of an axis gives an index: QUAD with Z as the index (R148, R276, Table 11-1). -/
def fbIndex (c : Chip) (n : Nat) : Bool :=
  isPhys n && fbkMode c n == 1 && actF c (.fbk (f128 n)) 0x040 6 6 == 0

/-! ### Positions at a time (R143, R173) -/

/-- Samples of a position, newest first: device time in ns, position, velocity in counts/s. -/
abbrev History := List (Rat × Rat × Rat)

/-- The position at a time between two samples, the later one given: interpolated between those that bracket it; before the oldest
sample kept, that one carried back with its velocity (log entry 167). -/
def bracketAt (t : Rat) : Rat × Rat × Rat → History → Rat
  | (t1, x1, v1), [] => wrapPos (x1 + v1 * (t - t1) / 1000000000)
  | (t1, x1, _), (t0, x0, v0) :: rest =>
    if t0 ≤ t then (if t1 ≤ t0 then x0 else wrapPos (x0 + posDiff x1 x0 * (t - t0) / (t1 - t0)))
    else bracketAt t (t0, x0, v0) rest

/-- The position at a time (R173): extrapolated from the newest sample with its velocity where the time lies past it, and whether it was. -/
def positionAt (t : Rat) : History → Rat × Bool
  | [] => (0, true)
  | (t1, x1, v1) :: rest =>
    if t1 < t then (wrapPos (x1 + v1 * (t - t1) / 1000000000), true) else (bracketAt t (t1, x1, v1) rest, false)

/-- A history moved by a distance, as the coordinates are redefined (R146). -/
def shiftHistory (d : Rat) (h : History) : History := h.map (fun s => (s.1, wrapPos (s.2.1 + d), s.2.2))

/-! ### The brake, the pulse block and torque -/

/-- A schedule entry goes to the field die (R405, R407). -/
def sendSched (e : SchedEntry) (c : Chip) : Chip :=
  { c with fld := { c.fld with sched := c.fld.sched ++ [{ entry := { e with tag := c.fld.nextTag } }], nextTag := c.fld.nextTag + 1 } }

/-- The brake output switches with the modulator apply point (R218): on releases, off applies. -/
def brake (n : Nat) (release : Bool) (c : Chip) : Chip :=
  let out := actF c (.lpa (f128 n)) 0x234 6 0
  let c1 := modSup n (fun x => { x with brakeOn := release }) c
  if out = 0 then c1
  else sendSched { action := if release then 1 else 2, pin := Fin.ofNat 64 (out - 1), time := nsStamp (timeNs c) } c1

/-- The slack of an axis: the interrupted target minus the position set-point, exact, so that the registers and RESULT saturate (R5, R124,
R137); 0 where nothing positional is kept. -/
def slackOf (a : Axis) : Rat :=
  match a.kept with
  | some r =>
    match r.op with
    | .moveAbs .. => r.target - a.cur.p
    | .moveRel .. => r.target - a.cur.p
    | _ => 0
  | none => 0

/-- The slack of a running command at this knot (R122). -/
def runSlack (a : Axis) : Rat :=
  match a.run with
  | some r => slackOf { a with kept := some r }
  | none => slackOf a

/-- Whether a run is a HOME. -/
def isHome (r : Run) : Bool := match r.op with | .home .. => true | _ => false

/-- Whether RESUME can restart it: not HOME, and not a MOVE_VEL that has completed (R139). -/
def resumable (r : Run) : Bool := !isHome r && !r.vdone

/-- The loop states of an axis are reset where its pulses are blocked (R209). -/
def resetLoops (n : Nat) (c : Chip) : Chip :=
  setLoop n { loopAx c n with
    iV := 0
    vF := 0
    z1 := [0, 0]
    z2 := [0, 0]
    iD := 0
    iQ := 0
    iqRef := 0
    idRef := 0
    vD := 0
    vQ := 0
    slewI := false
    slewV := false
    frozen := false } c

/-- The block in which the drive outputs of a port go inactive (R263): the loops are reset under R209 and the axis loses torque. -/
def blockPulses (n : Nat) (withBrake : Bool) (c : Chip) : Chip :=
  let c1 := modMod n (fun m => { m with block := true, blockReq := false, brakeReq := false }) c
  let c2 := if withBrake then brake n false c1 else c1
  let a := axis c2 n
  let c3 := resetLoops n (setAxis n { a with torque := false } c2)
  match a.blockCode with
  | none => c3
  | some code =>
    -- the reaction of class 4 to 6 ends here: the running command and every STOP complete FAILED (R122)
    let q := satQ (runSlack a)
    let c4 := match a.run with
      | some r => finish r.id stFailed code (if isHome r then 0 else q) c3
      | none => c3
    let ids := match a.stop with | some s => s.ids | none => []
    let c5 := finishAll ids stFailed code q c4
    let keep := match a.run with | some r => if resumable r then some { r with id := 0 } else a.kept | none => a.kept
    setAxis n { axis c5 n with
      state := .fault
      blockCode := none
      run := none
      kept := keep
      slackKept := keep.isSome || a.slackKept
      stop := none
      plan := none
      waiting := false
      home := {}
      holdPend := false
      enabling := none } c5

/-- A pulse block acts at the port's next apply point: the next carrier event of a BRIDGE port with a running carrier, at once on
any other (R263). -/
def requestBlock (n : Nat) (withBrake : Bool) (c : Chip) : Chip :=
  if modMode c n = 0 ∧ (modSt c n).carrier then
    modMod n (fun m => { m with blockReq := true, brakeReq := m.brakeReq || withBrake }) c
  else blockPulses n withBrake c

/-! ### Ends of an axis's commands -/

/-- Every command that runs on an axis ends with a status (R122, R147), a STOP of its sensorless drive too (R309). -/
def endAxisCommands (n : Nat) (status detail : Byte) (c0 : Chip) : Chip :=
  let a := axis c0 n
  let c := match (snlSt c0 n).stopId with
    | some i => finish i status detail 0 (setSnl n { snlSt c0 n with stopId := none } c0)
    | none => c0
  let c1 := match a.run with | some r => finish r.id status detail 0 c | none => c
  let ids := match a.stop with | some s => s.ids | none => []
  let c2 := finishAll ids status detail 0 c1
  match a.enabling with | some i => finish i status detail 0 c2 | none => c2

/-- The motion of an axis is forgotten: nothing runs, nothing is kept. -/
def clearMotion (a : Axis) : Axis :=
  { a with
    plan := none
    run := none
    kept := none
    stop := none
    home := {}
    enabling := none
    holdPend := false
    waiting := false
    slackKept := false
    settle := 0
    blockCode := none }

/-! ### Groups and hitches an axis belongs to -/

/-- The group that is not IDLE and has the axis as a member. -/
def groupOf (c : Chip) (n : Nat) : Option Nat :=
  (c.grps.find? (fun g => g.2.state != .idle && g.2.members.contains n)).map (·.1)

/-- The hitch is engaging, engaged or disengaging. -/
def hitActive (h : Hitch) : Bool := h.state == .engaging || h.state == .engaged || h.state == .disengaging

/-- The GEAR, LINE or CAM hitch of a slave that is not FREE. -/
def coupledOf (c : Chip) (n : Nat) : Option Nat :=
  (c.hits.find? (fun h => h.2.state != .free && h.2.cfg.slave == n && h.2.cfg.kind != .superimpose)).map (·.1)

/-- The SUPERIMPOSE hitch of a slave that is not FREE. -/
def simpOf (c : Chip) (n : Nat) : Option Nat :=
  (c.hits.find? (fun h => (h.2.state != .free || h.2.relStop.isSome) && h.2.cfg.slave == n && h.2.cfg.kind == .superimpose)).map (·.1)

/-- A GEAR, LINE or CAM hitch drives the slave. -/
def coupledActive (c : Chip) (n : Nat) : Bool :=
  match coupledOf c n with | some h => hitActive (hitch c h) | none => false

/-- Any hitch drives the slave, wholly or in part (R161). -/
def anyActive (c : Chip) (n : Nat) : Bool :=
  c.hits.any (fun h => h.2.cfg.slave == n && hitActive h.2)

/-- The part a SUPERIMPOSE hitch adds to the slave's own profile at the present block (R161). -/
def simpPart (c : Chip) (n : Nat) : Sp :=
  match simpOf c n with | some h => (hitch c h).part | none => {}

/-- The own profile's state at the present knot. -/
def ownNow (c : Chip) (n : Nat) : Sp :=
  let a := axis c n
  let x := simpPart c n
  { p := a.cur.p - x.p, v := a.cur.v - x.v, a := a.cur.a - x.a }

/-- The state an axis at rest with nothing to follow reports: MOVING while a hitch drives it, HOLDING after HOLD_PATH, else READY. -/
def restState (c : Chip) (n : Nat) : AxState :=
  let a := axis c n
  if anyActive c n then .moving else if a.holdPend then .holding else .ready

/-! ### Limits (Table 6-3, R128) -/

def stopLim (c : Chip) (n : Nat) (k : StopKind) : Lim :=
  let p := axmPage n
  match k with
  | .slack => { a := actQ c p 0x088, d := actQ c p 0x088, j := actQ c p 0x080 }
  | .quick => { a := actQ c p 0x090, d := actQ c p 0x090, j := actQ c p 0x098 }
  | .limit => { a := actQ c p 0x0A0, d := actQ c p 0x0A0, j := actQ c p 0x098 }
  | .drop => {}

/-- Reduces a value to a limit; whether it was reduced. -/
def reduce (x l : Rat) : Rat × Bool := if l < x then (l, true) else (x, false)

/-- The limits of a move from its operands (R128): `none` where an operand is out of range or a reduced value is 0. `signedV` is
MOVE_VEL, whose velocity has a sign (R131). -/
def moveLim (c : Chip) (n : Nat) (signedV : Bool) (vel acc dec jerk : DWord) : Option (Lim × Bool) :=
  let p := axmPage n
  let vmax := actQ c p 0x070
  let amax := actQ c p 0x078
  let jmax := actQ c p 0x080
  let v := if signedV then absRat (ofQ vel) else ofQ vel
  if decide (v ≤ 0) || decide (ofQ acc ≤ 0) || decide (ofQ dec ≤ 0) || decide (ofQ jerk < 0) ||
     decide (vmax ≤ 0) || decide (amax ≤ 0) then none
  else
    let rv := reduce v vmax
    let ra := reduce (ofQ acc) amax
    let rd' := reduce (ofQ dec) amax
    let rj := if ofQ jerk = 0 then (jmax, false) else if jmax = 0 then (ofQ jerk, false) else reduce (ofQ jerk) jmax
    some ({ v := rv.1, a := ra.1, d := rd'.1, j := rj.1 }, rv.2 || ra.2 || rd'.2 || rj.2)

def swlEn (c : Chip) (n : Nat) : Bool := bit (act c (axmPage n) 0x040) 0
def hlimEn (c : Chip) (n : Nat) : Bool := bit (act c (axmPage n) 0x040) 1
def rejectReversal (c : Chip) (n : Nat) : Bool := bit (act c (axmPage n) 0x040) 2
def swlPos (c : Chip) (n : Nat) : Rat := actQ c (axmPage n) 0x0A8
def swlNeg (c : Chip) (n : Nat) : Rat := actQ c (axmPage n) 0x0B0

/-- A target outside the enabled software limits (R135). -/
def outsideSwl (c : Chip) (n : Nat) (t : Rat) : Bool := swlEn c n && (decide (swlPos c n < t) || decide (t < swlNeg c n))

end Sys2Proof.Machine
end

