-- ==== Sys2Proof/Machine/CarrierOps.lean ====
section
/-!
DEFINITION. The carrier period of a bridge port and the edges of its gate outputs (R117, R244, R246, R250, R253, R254). Times are counted
from the period boundary in units of 125 ps: 32 to a PWM tick.
-/

namespace Sys2Proof.Machine

/-- What a phase does in a half-period: its low switch is on throughout, its high one is, or they commute at this duty. -/
inductive PhaseRun where
  | low
  | high
  | switch (d : Rat)
deriving DecidableEq, Repr

/-- A duty in 16 fractional bits under the narrow-pulse policy (Table 10-2); `tc`, dead time and minimum pulse in 125 ps. -/
def phaseRun (tc dt mn : Rat) (stretch : Bool) (d : Nat) : PhaseRun :=
  let hi := (d : Rat) / 65536 * tc
  let lo := tc - hi
  if hi ≤ 0 then .low
  else if lo ≤ 0 then .high
  else if hi < dt + mn then (if stretch then .switch ((dt + mn) / tc) else .low)
  else if lo < dt + mn then (if stretch then .switch (1 - (dt + mn) / tc) else .high)
  else .switch ((d : Rat) / 65536)

/-- A commutation about time `t`: turn-off and turn-on, rounded to 125 ps with the dead time between them kept; in fallback to whole ticks,
off downward and on upward (R250, R253). -/
def commuteAt (fallback : Bool) (dt : Nat) (t : Rat) : Int × Int :=
  if fallback then (((t - dt / 2) / 32).floor * 32, ((t + dt / 2) / 32).ceil * 32)
  else
    let off := max 0 (roundAway (t - dt / 2))
    (off, off + dt)

/-- The gate output of a phase's high or low switch (Table 10-1). -/
def switchGate (x : Nat) (high : Bool) : Nat := 2 * x + (if high then 0 else 1)

/-- One switch off, the other on; with neither on before, the turn-on alone. -/
def commuteEdges (x : Nat) (from_ : Option Bool) (toHigh : Bool) (t : Int × Int) : List GateEdge :=
  (match from_ with | some h => [{ t := t.1, gate := switchGate x h, on := false }] | none => []) ++
  [{ t := t.2, gate := switchGate x toHigh, on := true }]

/-- A half-period of phase x: its edges, and the switch on at its end. `start` is its beginning, `mid` the time about which it commutes, `side` the
switch that is on when it begins. A switch that is on already makes no edge there, and one whose turn-off comes before its turn-on is not turned
on. -/
def halfEdges (x : Nat) (falling fallback : Bool) (dt : Nat) (start mid : Rat) (side : Option Bool) (r : PhaseRun) : List GateEdge × Option Bool :=
  let begins : Bool := match r with | .low => false | .high => true | .switch _ => falling
  let gap : Nat := if side.isNone && !falling then 0 else dt
  let t0 : Int × Int := if fallback then ((start / 32).floor * 32, ((start + gap) / 32).ceil * 32) else (roundAway start, roundAway start + gap)
  let e0 := if side = some begins then [] else commuteEdges x side begins t0
  match r with
  | .low => (e0, some false)
  | .high => (e0, some true)
  | .switch _ =>
    let t := commuteAt fallback dt mid
    if e0 ≠ [] ∧ t.1 ≤ t0.2 then
      ((match side with
        | some h => [{ t := t0.1, gate := switchGate x h, on := false }]
        | none => []) ++ [{ t := max t.2 t0.2, gate := switchGate x (!begins), on := true }], some (!begins))
    else (e0 ++ commuteEdges x (some begins) (!begins) t, some (!begins))

/-- One half-period of the three phases: `at_` is its beginning, and the carrier's centre is `cen`. -/
def halfPeriod (falling fallback stretch : Bool) (tc dt mn : Nat) (at_ cen : Rat) (sides : List (Option Bool)) (d : Duty) :
    List GateEdge × List (Option Bool) :=
  let one (x d : Nat) : List GateEdge × Option Bool :=
    let r := phaseRun tc dt mn stretch d
    let off : Rat := match r with | .switch q => q * tc / 2 | _ => 0
    halfEdges x falling fallback dt at_ (if falling then cen + off else cen - off) (sides.getD x none) r
  let u := one 0 d.u
  let v := one 1 d.v
  let w := one 2 d.w
  (u.1 ++ v.1 ++ w.1, [u.2, v.2, w.2])

/-- The level of gate output i at a time after the boundary, the outputs driven. -/
def edgeLevel (k : CarSt) (i : Nat) (t : Int) : Bool :=
  match (k.edges.filter (fun e => e.gate == i && decide (e.t ≤ t))).getLast? with
  | some e => e.on
  | none => k.first.getD (i / 2) none == some (i % 2 == 0)

/-- The switch of each phase that is on at a time after the boundary. -/
def sidesAt (k : CarSt) (t : Int) : List (Option Bool) :=
  [0, 1, 2].map (fun x => if edgeLevel k (2 * x) t then some true else if edgeLevel k (2 * x + 1) t then some false else none)

end Sys2Proof.Machine
end

