-- ==== Sys2Proof/Machine/StopOps.lean ====
section
/-!
DEFINITION. Stops, fault reactions and what they do to groups and hitches (R122, R137, R138, R156, R157, R164, R216, R217).
-/

namespace Sys2Proof.Machine

/-! ### Stops of one axis -/

/-- Strength of a stop (R138): slack below quick below drop, a reaction above a host stop of the same kind, a limit stop with a
quick-stop reaction. -/
def stopRank (s : StopSt) : Nat :=
  match s.kind with
  | .slack => if s.reaction then 2 else 1
  | .quick => if s.reaction then 4 else 3
  | .limit => 4
  | .drop => 5

def kindCode : StopKind → Nat
  | .slack => 1
  | .quick => 2
  | .limit => 3
  | .drop => 4

/-- What a new plan starts from: the block of this knot while the planner works at it, else the block already committed (R24, R125). -/
def baseSp (c : Chip) (a : Axis) : Sp := if c.tim.planning then a.cur else a.nxt

/-- Profile time 0 is the knot of that block. -/
def startPlan (c : Chip) (p : Plan) : Plan := if c.tim.planning then p else { p with t := -frameSec c }

/-- A plan shifted by a distance. -/
def shiftPlan (d : Rat) (p : Plan) : Plan :=
  { p with segs := p.segs.map (fun g => { g with p := g.p + d }), endP := p.endP + d }

/-- The part a SUPERIMPOSE hitch adds to the slave's next block (R161). -/
def partNext (c : Chip) (n : Nat) : Sp := match simpOf c n with | some h => (hitch c h).partNext | none => {}

/-- The next block of an axis from what it would be without a SUPERIMPOSE hitch: the slave's set-point is the sum (R161). -/
def setNext (n : Nat) (y : Sp) (c : Chip) : Chip :=
  let x := partNext c n
  modAxis n (fun a => { a with base := y, nxt := commitSp { p := y.p + x.p, v := y.v + x.v, a := y.a + x.a } }) c

/-- What an axis follows in place of a plan of its own moves by a distance: its path's start, or its coupled hitch's start and law. -/
def shiftFollowed (n : Nat) (d : Rat) (c : Chip) : Chip :=
  let c1 := match groupOf c n with
    | some g =>
      let x := group c g
      setGroup g { x with start := (x.members.zip x.start).map (fun m => if m.1 = n then m.2 + d else m.2) } c
    | none => c
  match coupledOf c1 n with
  | some h => let x := hitch c1 h; setHitch h { x with pe := x.pe + d, shift := x.shift + d } c1
  | none => c1

/-- The coupled part of a SUPERIMPOSE hitch joins what the slave follows: the profile with its target, the path or the law moves by it
(R161). -/
def mergeSimp (n : Nat) (c : Chip) : Chip :=
  match simpOf c n with
  | none => c
  | some h =>
    let x := hitch c h
    let d := x.part.p
    let c1 := setHitch h { x with part := {}, partNext := {}, sum := 0, relStop := none } c
    if d = 0 then c1
    else shiftFollowed n d <| modAxis n (fun a => { a with
      plan := a.plan.map (shiftPlan d)
      target := a.target + d
      run := a.run.map (fun r => { r with target := r.target + d })
      kept := a.kept.map (fun r => { r with target := r.target + d }) }) c1

/-- The limit stop that reverses a search runs, and governs a stop of this rank: it ranks as a limit stop (R138, R144). -/
def reversingGoverns (a : Axis) (st : StopSt) : Bool := a.home.reversing && decide (stopRank st ≤ 4)

/-- A stop meets an axis (R137, R138): it starts, replaces a weaker one, or adds its end state and its commands to a stronger one. A
search that is being reversed at a limit keeps that limit stop's deceleration, unless the new stop is stronger (R144). -/
def axisStop (n : Nat) (st : StopSt) (c : Chip) : Chip :=
  let a := axis c n
  match a.stop with
  | some s0 =>
    let m : StopSt := { s0 with
      toFault := s0.toFault || st.toFault
      failed := s0.failed
      code := if s0.code = 0 ∨ (st.reaction ∧ stopRank s0 < stopRank st) then st.code else s0.code
      ids := s0.ids ++ st.ids }
    if stopRank s0 < stopRank st then
      setAxis n { a with
        stop := some { m with kind := st.kind, reaction := st.reaction, lim := st.lim }
        plan := some (startPlan c (planVel (baseSp c a) 0 (st.lim.getD (stopLim c n st.kind))))
        lastStop := kindCode st.kind } c
    else setAxis n { a with stop := some m } c
  | none =>
    let c1 := mergeSimp n c
    let a := axis c1 n
    let keep := reversingGoverns a st
    let kind := if keep then .limit else st.kind
    setAxis n { a with
      state := .stopping
      stop := some { st with kind := kind, since := c.clk.now }
      plan := if keep then a.plan else some (startPlan c (planVel (baseSp c a) 0 (st.lim.getD (stopLim c n st.kind))))
      lastStop := kindCode kind
      stopLengthened := false
      settled := false
      waiting := false
      home := {} } c1

/-! ### Hitches -/

/-- A hitch ends its running commands. -/
def hitFinish (h : Nat) (status detail : Byte) (c : Chip) : Chip :=
  let x := hitch c h
  let c1 := finish x.resId status detail 0 (finish x.relId status detail 0 (finish x.setId status detail 0 c))
  let c2 := match x.reading with | some i => finish i status detail 0 c1 | none => c1
  setHitch h { hitch c2 h with setId := 0, relId := 0, resId := 0, reading := none, readDone := false } c2

/-- A hitch is FREE again; its record stays readable (Table 7-8). -/
def hitFree (h : Nat) (c : Chip) : Chip :=
  let x := hitch c h
  setHitch h { raw := x.raw, cfg := x.cfg } c

/-- The hitches of a slave that a limit stop has put to FAULT end the commands they still hold. -/
def faultedFinish (n : Nat) (code : Byte) (c : Chip) : Chip :=
  each ((c.hits.filter (fun h => h.2.cfg.slave == n && h.2.state == .fault)).map (·.1)) (fun h c => hitFinish h stFailed code c) c

/-- The hitches that drive a slave go to FAULT at the start of its limit stop; their running commands end at rest (R135, R141). -/
def limitHitches (n : Nat) (c : Chip) : Chip :=
  let hs := (c.hits.filter (fun h => h.2.cfg.slave == n && hitActive h.2)).map (·.1)
  each hs (fun h c => let c1 := mergeSimp n c; raise .hit 11 (setHitch h { hitch c1 h with state := .fault } c1)) c

/-- The hitches of a slave that drive it go to FAULT because the slave itself reacts (log entry 41). -/
def breakHitches (n : Nat) (code : Byte) (c : Chip) : Chip := faultedFinish n code (limitHitches n c)

/-- A host STOP suspends the hitches of its slave; a release that runs continues (Table 7-4). -/
def suspendHitches (n : Nat) (c : Chip) : Chip :=
  let hs := (c.hits.filter (fun h => h.2.cfg.slave == n && (h.2.state == .engaging || h.2.state == .engaged))).map (·.1)
  each hs (fun h c => raise .hit 10 (setHitch h { hitch c h with state := .suspended } c)) c

/-! ### Groups -/

/-- The smallest of a list, 0 for an empty one. -/
def minList : List Rat → Rat
  | [] => 0
  | [x] => x
  | x :: t => minRat x (minList t)

/-- Members with a distance, and L / |Δ| of each (R153). -/
def groupScales (x : Group) : List (Nat × Rat) :=
  ((x.members.zip x.delta).filter (fun m => decide (m.2 ≠ 0))).map (fun m => (m.1, x.len / absRat m.2))

/-- Path deceleration and jerk of a stop kind (R156): the smallest member value scaled by L / |Δ|. -/
def groupStopLim (c : Chip) (x : Group) (k : StopKind) : Lim :=
  let ls := (groupScales x).map (fun m => (stopLim c m.1 k, m.2))
  let d := minList (ls.map (fun l => l.1.d * l.2))
  { a := d, d := d, j := minList ((ls.filter (fun l => decide (l.1.j ≠ 0))).map (fun l => l.1.j * l.2)) }

/-- A stop along a group's path (R156, R157). Members report STOPPING; those that then go to FAULT are marked by the caller. -/
def groupStop (g : Nat) (st : StopSt) (c : Chip) : Chip :=
  let x := group c g
  match x.stop with
  | some s0 =>
    let m : StopSt := { s0 with
      ids := s0.ids ++ st.ids
      failed := s0.failed || st.failed
      code := if s0.code = 0 ∨ (st.reaction ∧ stopRank s0 < stopRank st) then st.code else s0.code }
    if stopRank s0 < stopRank st then
      setGroup g { x with
        stop := some { m with kind := st.kind, reaction := st.reaction }
        plan := some (startPlan c (planVel (if c.tim.planning then x.s else x.sNext) 0 (groupStopLim c x st.kind))) } c
    else setGroup g { x with stop := some m } c
  | none =>
    let c1 := setGroup g { x with
      state := .stopping
      stop := some st
      plan := some (startPlan c (planVel (if c.tim.planning then x.s else x.sNext) 0 (groupStopLim c x st.kind))) } c
    each x.members (fun m c =>
      let a := axis c m
      if a.state = .moving then setAxis m { a with
        state := .stopping
        stop := some { kind := st.kind, reaction := st.reaction, toFault := st.failed }
        lastStop := kindCode st.kind
        stopLengthened := false
        waiting := false } c
      else c) c1

/-- A member's stop ends in FAULT with a code. -/
def memberToFault (code : Byte) (n : Nat) (c : Chip) : Chip :=
  modAxis n (fun a => { a with stop := a.stop.map (fun s => { s with toFault := true, code := code }) }) c

/-- A group that loses a member's torque, or meets a member's limit, is broken (Table 7-1): the other members stop along the path
with a code of their own. -/
def groupBreak (g member : Nat) (k : StopKind) (code other : Byte) (c : Chip) : Chip :=
  let x := group c g
  let c1 := groupStop g { kind := k, reaction := true, failed := true, code := code } c
  each (x.members.filter (· != member)) (fun m c => memberToFault other m (latchFault (axmPage m) other c)) c1

/-- A group's commands end ABORTED and it is IDLE (R182); members still moving are brought to rest by a quick stop of host kind
(log entry 42). -/
def groupAbort (g : Nat) (c : Chip) : Chip :=
  let x := group c g
  let c1 := match x.run with | some r => finish r.id stAborted 0 0 c | none => c
  let c1 := match x.next with | some q => finish q.1 stAborted 0 0 c1 | none => c1
  let c2 := match x.stop with | some s => finishAll s.ids stAborted 0 0 c1 | none => c1
  let c3 := setGroup g { members := x.members, lead := x.lead } c2
  each x.members (fun m c =>
    let a := axis c m
    if a.torque ∧ (a.state = .moving ∨ a.state = .stopping) then
      axisStop m { kind := .quick } (setAxis m { a with stop := none, run := none } c)
    else if a.state = .slack then setAxis m { a with state := restState c m, slackKept := false } c
    else c) c3

/-- A slave at rest in SLACK from a suspended hitch enters READY with its slack discarded (Table 7-4). -/
def leaveSlack (suspended : Bool) (n : Nat) (c : Chip) : Chip :=
  let a := axis c n
  if suspended && a.state == .slack then setAxis n { a with state := .ready, kept := none, slackKept := false } c else c

/-- A slave whose motion was a hitch's alone comes to rest with it: READY, or HOLDING where HOLD_PATH waits (R163, Table 7-4). -/
def slaveRest (n : Nat) (c : Chip) : Chip :=
  let a := axis c n
  if a.state = .moving ∧ a.run.isNone ∧ (groupOf c n).isNone then
    setAxis n { a with state := restState c n, holdPend := if restState c n = .holding then false else a.holdPend } c
  else c

/-- A hitch is freed by its page or its slave: its commands end ABORTED and the coupled motion of a slave still enabled is brought
to rest by a quick stop of host kind (Table 7-4). -/
def hitAbort (h : Nat) (c : Chip) : Chip :=
  let x := hitch c h
  if x.state = .free ∧ x.reading.isNone then c
  else
    let n := x.cfg.slave
    let c1 := hitFinish h stAborted 0 c
    let a := axis c1 n
    if x.cfg.kind = .superimpose then
      if hitActive x ∧ a.torque then
        setHitch h { raw := x.raw, cfg := x.cfg, part := x.part, partNext := x.partNext, relStop := some (startPlan c1 (planVel (if c1.tim.planning then x.part else x.partNext) 0 (stopLim c1 n .quick))) } c1
      else leaveSlack (x.state == .suspended) n (hitFree h (mergeSimp n c1))
    else
      let c2 := hitFree h c1
      if hitActive x ∧ a.torque ∧ a.state = .moving then axisStop n { kind := .quick } c2
      else leaveSlack (x.state == .suspended) n c2

/-- The hitches of a slave are freed (Table 7-4: slave DISABLED or SAFE). -/
def freeSlave (n : Nat) (c : Chip) : Chip :=
  let hs := (c.hits.filter (fun h => h.2.cfg.slave == n && h.2.state != .free)).map (·.1)
  each hs (fun h c => hitFree h (hitFinish h stAborted 0 (mergeSimp n c))) c

/-! ### Reactions -/

/-- The order of R217: 5, 4, 6, 3, 2, 1, 0. -/
def clsRank : Nat → Nat
  | 5 => 6
  | 4 => 5
  | 6 => 4
  | 3 => 3
  | 2 => 2
  | 1 => 1
  | _ => 0

/-- The axis is enabled in the sense of chapter 6. -/
def axEnabled (s : AxState) : Bool :=
  match s with
  | .ready | .holding | .moving | .stopping | .slack | .homing => true
  | _ => false

/-- A virtual axis under a class 4 to 6: its set-point freezes and TORQUE_ON reads 0 (R124). -/
def freezeVirtual (n : Nat) (c : Chip) : Chip :=
  modAxis n (fun a => { a with cur := { p := a.cur.p }, nxt := { p := a.cur.p } }) (blockPulses n false c)

/-- Classes 2 and 3: a stop that keeps torque and ends in FAULT. -/
def reactStop (n : Nat) (k : StopKind) (code : Byte) (c : Chip) : Chip :=
  let a := axis c n
  match groupOf c n with
  | some g =>
    if (group c g).state = .moving ∨ (group c g).state = .stopping then
      memberToFault code n (groupStop g { kind := k, reaction := true, code := code } c)
    else setAxis n { a with state := .fault } c
  | none =>
    if (a.state = .ready ∨ a.state = .holding ∨ a.state = .slack) ∧ a.plan.isNone then setAxis n { a with state := .fault } c
    else axisStop n { kind := k, reaction := true, code := code, toFault := true } (breakHitches n code c)

/-- Classes 4 and 5: the pulse block. -/
def reactBlock (n : Nat) (withBrake : Bool) (code : Byte) (c : Chip) : Chip :=
  let a := axis c n
  let c1 := if axEnabled a.state then setAxis n { a with blockCode := some code } c else c
  let c2 := match groupOf c1 n with
    | some g => if (group c1 g).state = .moving ∨ (group c1 g).state = .stopping then groupBreak g n .quick code 0x10 c1 else c1
    | none => c1
  let c3 := breakHitches n code c2
  if isPhys n then requestBlock n withBrake c3 else freezeVirtual n c3

/-- Class 6: the deceleration runs on the model estimate (R224). -/
def reactEstimate (n : Nat) (code : Byte) (c : Chip) : Chip :=
  if !isPhys n then reactBlock n false code c
  else
    let c1 := match groupOf c n with
      | some g => if (group c g).state = .moving ∨ (group c g).state = .stopping then groupBreak g n .quick code 0x10 c else c
      | none => c
    let c2 := breakHitches n code c1
    let a := axis c2 n
    if axEnabled a.state then
      let l := loopAx c2 n
      let x : Sp := { p := l.xHat, v := l.vHat }
      modSup n (fun s => { s with estimating := true, estSince := c.clk.now }) (setAxis n { a with
        state := .stopping
        blockCode := some code
        stop := some { kind := .quick, reaction := true, code := code, toFault := true, estimate := true, ids := (match a.stop with | some s => s.ids | none => []), since := c.clk.now }
        plan := some (startPlan c2 (planVel x 0 (stopLim c2 n .quick)))
        lastStop := 2 } c2)
    else if a.torque then requestBlock n true c2
    else c2

/-- A reaction class acts on an axis (R216, R217, Table 6-2). -/
def react (n cls : Nat) (code : Byte) (c : Chip) : Chip :=
  let a := axis c n
  let s := supAx c n
  if a.state = .safe ∨ cls = 0 then c
  else if s.reacting ∧ clsRank cls ≤ clsRank s.cls then c
  else if a.state = .disabled then
    if cls < 2 then c
    else
      let c1 := match a.enabling with | some i => finish i stFailed code 0 c | none => c
      setAxis n { axis c1 n with state := .fault, enabling := none } (modSup n (fun s => { s with reacting := true, cls := cls, code := code }) c1)
  else
    let c1 := modSup n (fun s => { s with reacting := true, cls := cls, code := code }) c
    match cls with
    | 1 =>
      if a.state = .ready ∨ a.state = .slack then setAxis n { a with state := .holding } c1
      else if a.state = .moving ∨ a.state = .homing then setAxis n { a with holdPend := true } c1
      else c1
    | 2 => if axEnabled a.state then reactStop n .slack code c1 else c1
    | 3 => if axEnabled a.state then reactStop n .quick code c1 else c1
    | 4 => if axEnabled a.state || a.torque then reactBlock n false code c1 else c1
    | 5 => if axEnabled a.state || a.torque then reactBlock n true code c1 else (if isPhys n then brake n false c1 else c1)
    | _ => reactEstimate n code c1

/-- A fault of the axis's own page with its reaction. -/
def axisFault (n cls : Nat) (code : Byte) (c : Chip) : Chip := react n cls code (latchFault (axmPage n) code c)

/-- A hitch faults (Table 7-4): code in the slave's page, its running commands FAILED, the slave takes REACTION. -/
def hitchFault (h : Nat) (code : Byte) (c : Chip) : Chip :=
  let x := hitch c h
  let n := x.cfg.slave
  let c1 := hitFinish h stFailed code (latchFault (axmPage n) code c)
  let c2 := raise .hit 11 (setHitch h { hitch c1 h with state := .fault } (mergeSimp n c1))
  react n x.cfg.reaction code c2

/-! ### Loss of enable (R147, Table 6-2) -/

/-- The axis leaves its group and hitches as its page goes off. -/
def axisLeaves (n : Nat) (c : Chip) : Chip :=
  let c1 := match groupOf c n with | some g => groupAbort g c | none => c
  freeSlave n c1

/-- EN = 0, PGRESET or a planner halt: commands ABORTED, TORQUE_OFF_BRAKE if torque was on, DISABLED (R147). -/
def axisOff (n : Nat) (c : Chip) : Chip :=
  let had := (axis c n).torque
  let c1 := axisLeaves n (endAxisCommands n stAborted 0 c)
  let c2 := if isPhys n then (if had then requestBlock n true (modAxis n (fun a => { a with blockCode := none }) c1) else c1)
    else freezeVirtual n (modAxis n (fun a => { a with blockCode := none }) c1)
  let c3 := modSup n (fun s => { s with reacting := false, cls := 0, code := 0, estimating := false }) c2
  modAxis n (fun a => { clearMotion a with state := if a.sto then .safe else .disabled }) c3

/-- The STO group of the axis is asserted (Table 6-2). -/
def axisSto (n : Nat) (c : Chip) : Chip :=
  let a := axis c n
  if a.state = .safe then setAxis n { a with sto := true } c
  else
    let c1 := endAxisCommands n stAborted 0 c
    let c2 := match groupOf c1 n with
      | some g => if (group c1 g).state = .moving ∨ (group c1 g).state = .stopping then groupBreak g n .quick 0 0x10 c1 else groupAbort g c1
      | none => c1
    let c3 := freeSlave n c2
    let c4 := modSup n (fun s => { s with reacting := false, cls := 0, code := 0, estimating := false }) c3
    modAxis n (fun a => { clearMotion a with state := .safe, sto := true, torque := false }) c4

/-! ### Codes and their classes (R123, Table 6-2 on STO release) -/

/-- The reaction class of a resource that an axis loses (R27): where the resource's own codes or Table 1-2 name one, that class. The time base stops
quickly (Table 1-2, TIME); a loop engine takes the torque off (Table 8-5); a modulator takes its OC_REACT; feedback takes FB_REACT; the LPA page,
the bus group and the sigma-delta bank take the torque off with the brake (R213, Tables 9-4 and 13-8). DEDUCED, log entry 175. -/
def lostClass (c : Chip) (n : Nat) (p : Page) : Nat :=
  match p with
  | .tim => 3
  | .lpe _ => 4
  | .mod m => fld (act c (.mod m) 0x040) 14 12
  | .fbk _ | .snl _ => fld (rd c (.lpa (f128 n)) 0x200) 14 12
  | .lpa _ | .axm _ | .bus _ | .sdf _ => 5
  | _ => 0

/-- The motion service of axis n rests on a page (Table 1-6). -/
def restsOn (c : Chip) (n : Nat) (p : Page) : Bool :=
  p == .tim || p == axmPage n || p == .lpa (f128 n) || p == .lpe (Fin.ofNat 4 (n / 32)) || p == .mod (f128 n) ||
  p == (if sensorless c (f128 n) then .snl (f128 n) else .fbk (f128 n)) || p == .sdf (Fin.ofNat 8 (n / 16)) || p == .bus (busOf c (f128 n))

/-- A page no longer serves: every enabled physical axis whose motion service rests on it takes the class of the lost resource (R27). -/
def resourceLost (code : Byte) (p : Page) (c : Chip) : Chip :=
  each ((c.axes.filter (fun a => isPhys a.1 && axEnabled a.2.state && restsOn c a.1 p)).map (·.1)) (fun n c => react n (lostClass c n p) code c) c

/-- The reaction class that a code latched in one of the pages of R123 has for axis n; 0 where it has none. -/
def codeClass (c : Chip) (n : Nat) (p : Page) (code : Nat) : Nat :=
  let sup := rd c (.lpa (f128 n)) 0x200
  if code = 0 then 0 else if code = 0x05 ∨ code = 0x02 then lostClass c n p else
  match p with
  | .axm _ =>
    if code = 0x10 ∨ code = 0x1B ∨ code = 0x1F then 3
    else if code = 0xB1 then rdF c .fld 0x054 2 0
    else if code = 0x18 ∨ code = 0x19 ∨ code = 0x1A ∨ code = 0x1C ∨ code = 0x22 ∨ code = 0x23 then
      match c.hits.find? (fun h => h.2.cfg.slave == n) with | some h => h.2.cfg.reaction | none => 3
    else if code = 0x01 then 5
    else 0
  | .lpa _ =>
    if code = 0x30 then fld sup 6 4
    else if code = 0x31 ∨ code = 0x32 then fld sup 10 8
    else if code = 0x33 ∨ code = 0x34 then fld sup 14 12
    else if code = 0x35 then fld sup 18 16
    else if code = 0x39 then 4
    else if code = 0x38 ∨ code = 0x01 then 5
    else 0
  | .lpe _ => if code = 0x3C ∨ code = 0x3E then 4 else 0
  | .mod m => if code = 0x50 then fld (act c (.mod m) 0x040) 14 12 else 0
  | .fbk _ => fld sup 14 12
  | .snl _ => fld sup 14 12
  | .bus b =>
    let w := rd c (.bus b) 0x040
    if code = 0x40 then fld w 18 16
    else if code = 0x41 then fld w 30 28
    else if code = 0x42 then fld w 22 20
    else if code = 0x43 then fld w 26 24
    else if code = 0x44 then 5
    else 0
  | _ => 0

/-- The pages whose faults act on an axis (R123). -/
def axisPages (c : Chip) (n : Nat) : List Page :=
  let line := c.hits.any (fun h => h.2.state != .free && h.2.cfg.slave == n && h.2.cfg.src == 2)
  [axmPage n] ++
    (if isPhys n then [.lpa (f128 n), .lpe (Fin.ofNat 4 (n / 32)), .mod (f128 n), .fbk (f128 n), .snl (f128 n), .bus (busOf c (f128 n))] else []) ++
    [.hit] ++ (if line then [.hfr] else [])

/-- One of those pages holds a code. -/
def axisFaulted (c : Chip) (n : Nat) : Bool := (axisPages c n).any (fun p => (hdr c p).fltCode != 0)

/-- The STO group of the axis is released (Table 6-2): DISABLED, or FAULT while a code of class 2 to 6 stands. -/
def axisStoOff (n : Nat) (c : Chip) : Chip :=
  let a := axis c n
  if a.state ≠ .safe then setAxis n { a with sto := false } c
  else
    let worst := ((axisPages c n).map (fun p => codeClass c n p (hdr c p).fltCode.toNat)).foldl max 0
    let c1 := if 2 ≤ worst then modSup n (fun s => { s with reacting := true, cls := worst }) c else c
    setAxis n { axis c1 n with sto := false, state := if 2 ≤ worst then .fault else .disabled } (if isPhys n then brake n false c1 else c1)

end Sys2Proof.Machine
end

