-- ==== Sys2Proof/Machine/ModOps.lean ====
section
/-!
DEFINITION. Modulators (chapter 10): carriers, duty sets, narrow pulses, trips, blocking and the states of the gate outputs, with
the admission check of the loop engines that their apply depends on (R203).
-/

namespace Sys2Proof.Machine

def modPage (n : Nat) : Page := .mod (f128 n)

def lpaPage (n : Nat) : Page := .lpa (f128 n)

def lpePage (e : Nat) : Page := .lpe (Fin.ofNat 4 e)

def lpe (c : Chip) (e : Nat) : LpeSt := tabGet {} c.lpes e

def setLpe (e : Nat) (x : LpeSt) (c : Chip) : Chip := { c with lpes := tabSet {} c.lpes e x }

/-- The numbers of the ports whose modulator page or state is not at reset. -/
def modNums (c : Chip) : List Nat := mergeNums (listed c 0x190 128) (c.mods.map (·.1))

/-! ### Admission (R188, R203) -/

/-- LPA_MODE.MODE in force: 0 OFF, 1 CURRENT, 2 VELOCITY, 3 POSITION. -/
def lpaMode (c : Chip) (n : Nat) : Nat := actF c (lpaPage n) 0x040 2 0

/-- The active axes of a quarter for R203: LPA MODE not OFF on a port in BRIDGE mode (R242). -/
def activeAxes (c : Chip) (e : Nat) : List Nat :=
  ((List.range 32).map (fun i => 32 * e + i)).filter (fun n => lpaMode c n != 0 && modMode c n == 0)

/-- The carrier period in force, in ns (R244). -/
def carrierNs (c : Chip) (n : Nat) : Rat := (actF c (modPage n) 0x048 23 0 : Rat) / 64

/-- T_s in ns. -/
def sampleLen (c : Chip) : Rat := (periodNs c : Rat) / (samplesPer c : Rat)

/-- The carrier periods in one current sample, and whether they fit (R245). -/
def carrierM (c : Chip) (n : Nat) : Nat := (roundAway (sampleLen c / carrierNs c n)).toNat

def carrierFits (c : Chip) (n : Nat) : Bool :=
  let m := carrierM c n
  decide (absRat ((m : Rat) * (actF c (modPage n) 0x048 23 0 : Rat) - sampleLen c * 64) ≤ (m : Rat))

/-- t_duty and t_0 of Table 8-3, in ns. -/
def tDuty (nc : Nat) : Rat := 200 + (nc : Rat) * 225 / 2

def tZero (nc np : Nat) : Rat := 200 + (nc : Rat) * 1125 / 4 + (np : Rat) * 375 / 2

/-- The conditions of Table 8-3 for a quarter, on the values in force. -/
def admitted (c : Chip) (e : Nat) : Bool :=
  let ax := activeAxes c e
  let nc := ax.length
  let np := (ax.filter (fun n => 2 ≤ lpaMode c n)).length
  let ts := sampleLen c
  ax.all (fun n => decide (tDuty nc ≤ carrierNs c n / 2 - 500) && carrierFits c n) &&
  decide (tZero nc np ≤ ts - 400) && decide ((15625 : Rat) ≤ ts)

/-! ### Gate outputs (Table 10-3) -/

/-- What the gate outputs of a port do. -/
inductive OutState where
  | inactive
  | driveInactive
  | lowSwitchesOn
  | driven
deriving DecidableEq, Repr

def tripped (m : ModSt) : Bool := m.ext || m.oc.any id

/-- Row 7 of Table 10-3 applies: a debug halt of the MOD page or its loop engine, or HOLD. -/
def safeCond (c : Chip) (n : Nat) : Bool :=
  (modSt c n).halted || (lpe c (n / 32)).halted || c.pwr.state == .hold

/-- The page lets its outputs switch: neither off, nor splicing, nor in FAULT with torque off (row 9). -/
def outPage (c : Chip) (n : Nat) : Bool :=
  match (hdr c (modPage n)).state with
  | .off | .splicing => false
  | .fault => (axis c n).torque
  | _ => true

/-- The first row of Table 10-3 that applies. -/
def outState (c : Chip) (n : Nat) : OutState :=
  let m := modSt c n
  if m.sto || clkLost c .pwm || tripped m || (m.sysHeld && clkLost c .sys) || c.pwr.state == .save then .inactive
  else if m.stoHold && modMode c n ≤ 2 then .inactive
  else if m.block && modMode c n ≤ 1 then .driveInactive
  else if m.safeHeld then (if bit (act c (modPage n) 0x040) 4 && modMode c n == 0 then .lowSwitchesOn else .inactive)
  else if c.pwr.state == .doze && !(axis c n).torque then .inactive
  else if outPage c n then .driven
  else .inactive

/-- What one gate output is given by its mode (Table 10-1): `switching` by the edges of its carrier period (R250) or by the step pulses. -/
inductive Gate where
  | inactive
  | active
  | switching
deriving DecidableEq, Repr

def gateIf (b : Bool) : Gate := if b then .active else .inactive

/-- A spare output: its LEVEL bit, or the compare's level where CMP_PIN names it (R258). -/
def spareGate (c : Chip) (n i : Nat) : Gate :=
  let w := act c (modPage n) 0x054
  if fld w 2 0 = i + 1 then gateIf (modSt c n).cmpLevel else gateIf (bit w (8 + i))

/-- Output i is spare in the MODE in force. -/
def isSpare (c : Chip) (n i : Nat) : Bool := modMode c n == 3 || (modMode c n == 1 && 3 ≤ i)

/-- Gate output i of port n (R241, R255, R256, R258, R265). -/
def gateOut (c : Chip) (n i : Nat) : Gate :=
  let w := act c (modPage n) 0x040
  let free : Gate := match modMode c n with
    | 0 => .switching
    | 1 => if i = 0 then .switching else if i = 1 then gateIf (axis c n).step.neg else if i = 2 then gateIf (axis c n).torque else spareGate c n i
    | 2 => gateIf (bit w (16 + i) && (busSt c (fld w 27 24)).chopOn)
    | _ => spareGate c n i
  match outState c n with
  | .inactive => .inactive
  | .driveInactive => if isSpare c n i then spareGate c n i else if i = 1 ∧ modMode c n = 1 then gateIf (axis c n).step.neg else .inactive
  | .lowSwitchesOn => gateIf (i % 2 = 1)
  | .driven => free

/-- Whether gate output i of a port is active at a time after its period boundary, in 125 ps (R250, R265). -/
def gateAt (c : Chip) (n i : Nat) (t : Int) : Bool :=
  match gateOut c n i with
  | .inactive => false
  | .active => true
  | .switching => modMode c n == 0 && edgeLevel (modSt c n).car i t

/-- The level of pin AXnnn_Gi at a time after its period boundary (R243): high-impedance until the page is first enabled (R499). -/
def gatePin (c : Chip) (n i : Nat) (t : Int) : Option Bool :=
  if (modSt c n).driven then some (gateAt c n i t != bit (rd c (modPage n) 0x044) i) else none

/-! ### Trips (R259 to R262) -/

/-- No switch of a port is on: what its next edges start from. -/
def offSides (n : Nat) (c : Chip) : Chip :=
  modMod n (fun m => { m with car := { m.car with edges := [], first := [none, none, none], mid := [none, none, none], last := [none, none, none] } }) c

/-- A trip latches on a port: the outputs go inactive, and TRIP is raised. In PULSE mode STEP stops. -/
def tripPort (n : Nat) (oc : Option Nat) (c : Chip) : Chip :=
  let c1 := modMod n (fun m => match oc with
    | some x => { m with oc := m.oc.set x true }
    | none => { m with ext := true, extClear := false }) c
  let c2 := if modMode c1 n = 1 then modAxis n (fun a => { a with step := { a.step with inc := 0 } }) c1 else c1
  raise (modPage n) 8 (offSides n c2)

/-- The latches that an accepted clear has released go at the next apply point (R260, R261). -/
def releaseTrips (n : Nat) (c : Chip) : Chip :=
  modMod n (fun m => { m with
    oc := if m.ocClear then [false, false, false] else m.oc
    ocClear := false
    ext := if m.extClear then false else m.ext
    extClear := false }) c

/-- A port whose carrier runs waits for its period boundary; any other acts at the next PWM tick (R263). -/
def atBoundary (n : Nat) (f : Chip → Chip) (c : Chip) : Chip :=
  if modMode c n = 0 ∧ (modSt c n).carrier then c else f c

/-- OC_TRIP (R259, R260): the comparator of phase x asserts on a port that enables it. -/
def ocTripOn (n x : Nat) (c : Chip) : Chip :=
  let w := act c (modPage n) 0x040
  if !bit w (8 + x) then c
  else
    let again := (modSt c n).oc.any id
    let c1 := tripPort n (some x) c
    if again then c1 else react n (fld w 14 12) 0x50 (latchFault (modPage n) 0x50 c1)

/-! ### Duties (R23, R247, R248) -/

/-- A duty in 16 fractional bits. -/
def dutyBits (d : Rat) : Nat := (roundAway (clampRat 0 1 d * 65536)).toNat

/-- The loop engine writes a port's duties as one set (R23); a set not yet applied is superseded. -/
def writeDuties (n : Nat) (d : Duty) (c : Chip) : Chip :=
  let m := modSt c n
  if modMode c n ≠ 0 then c
  else
    let c1 := setMod n { m with shadow := d, pendingSet := true } c
    if m.pendingSet then cntWrap (modPage n) 0x074 31 16 c1 else c1

/-- The pending set applies. -/
def applyDuties (n : Nat) (c : Chip) : Chip :=
  let m := modSt c n
  if m.pendingSet then cntWrap (modPage n) 0x074 15 0 (setMod n { m with duty := m.shadow, pendingSet := false } c) else c

/-- One phase against Table 10-2, in units of 125 ps: the report where one of its switches is narrow (R254). -/
def narrowOf (tc dt mn : Rat) (stretch : Bool) (d : Nat) : Option Int :=
  let hi := (d : Rat) / 65536 * tc
  let lo := tc - hi
  let rep (r : Rat) : Option Int :=
    if 0 < r ∧ r < dt + mn then
      some (if stretch then roundAway (mn - maxRat 0 (r - dt)) else roundAway (-r))
    else none
  match rep hi with
  | some e => some e
  | none => rep lo

def satInt16 (i : Int) : Nat :=
  ((if i > 32767 then 32767 else if i < -32768 then -32768 else i) % 65536).toNat

/-- The narrow-pulse check of the three phases at an apply point. -/
def narrowCheck (n : Nat) (c : Chip) : Chip :=
  let p := modPage n
  let tc : Rat := carrierNs c n * 8
  let dt : Rat := (actF c p 0x04C 15 0 : Nat)
  let mn : Rat := (actF c p 0x050 13 0 : Nat)
  let d := (modSt c n).duty
  each [d.u, d.v, d.w] (fun x c =>
    match narrowOf tc dt mn (bit (act c p 0x040) 3) x with
    | none => c
    | some e =>
      let c1 := wrF p 0x068 31 16 (satInt16 e) (cntSat p 0x068 15 0 c)
      if (modSt c1 n).narrowRaised then c1 else raise p 9 (modMod n (fun m => { m with narrowRaised := true }) c1)) c

/-- The pulse block that waits acts (R263). -/
def actBlock (n : Nat) (c : Chip) : Chip :=
  let m := modSt c n
  if m.blockReq then blockPulses n m.brakeReq c else c

/-! ### The carrier's edges (R117, R244, R246, R250) -/

/-- The length of a period from its boundary on, in 2^-8 tick: MOD_PERIOD at the measured rate of the PWM clock, and the phase correction of one
tick (R117). -/
def nextPeriod (c : Chip) (n : Nat) : Nat :=
  (roundAway ((actF c (modPage n) 0x048 23 0 : Rat) * c.tim.pwmRatio) + 256 * (modSt c n).car.trim).toNat

/-- One half-period of a port from the duties and the settings in force; edges keep their distance from the centre of a corrected period
(R245). -/
def portHalf (c : Chip) (n : Nat) (falling : Bool) (at_ cen : Rat) (sides : List (Option Bool)) : List GateEdge × List (Option Bool) :=
  let p := modPage n
  halfPeriod falling (modSt c n).fallback (bit (act c p 0x040) 3) (actF c p 0x048 23 0 / 8) (actF c p 0x04C 15 0) (actF c p 0x050 13 0) at_ cen sides
    (modSt c n).duty

/-- The edges of the period that begins at this boundary (R250). -/
def planPeriod (n : Nat) (c : Chip) : Chip :=
  let k := (modSt c n).car
  let per := nextPeriod c n
  let cen : Rat := (per : Rat) / 16
  let base : CarSt := { k with since := c.clk.now, per := per, nom := actF c (modPage n) 0x048 23 0, trim := 0 }
  if outState c n = .driven then
    let r := portHalf c n false 0 cen k.last
    let f := portHalf c n true cen cen r.2
    modMod n (fun m => { m with car := { base with edges := r.1 ++ f.1, first := k.last, mid := r.2, last := f.2 } }) c
  else offSides n (modMod n (fun m => { m with car := base }) c)

/-- The falling half of the running period anew, for a set applied at the centre (R248) or a carrier placed at its centre (R246). -/
def planFalling (n : Nat) (sides : List (Option Bool)) (c : Chip) : Chip :=
  let k := (modSt c n).car
  let cen : Rat := (k.per : Rat) / 16
  if outState c n = .driven then
    let f := portHalf c n true cen cen sides
    modMod n (fun m => { m with car := { k with
      edges := k.edges.filter (fun e => decide ((e.t : Rat) < cen)) ++ f.1
      mid := sides
      last := f.2 } }) c
  else offSides n c

/-- The carrier starts again at its centre (R246): the switches keep their levels up to the knot, and the second half of a new period follows. -/
def restartCarrier (n : Nat) (c : Chip) : Chip :=
  let k := (modSt c n).car
  let sides := sidesAt k (8 * ((c.clk.now : Int) - k.since))
  let per := nextPeriod c n
  planFalling n sides (modMod n (fun m => { m with car := { k with
    since := c.clk.now - per / 128
    per := per
    nom := actF c (modPage n) 0x048 23 0
    trim := 0
    edges := []
    first := sides } }) c)

/-- CARRIER_BOUNDARY (R248, R249, R250, R252, R254, R260, R261, R263, R265). -/
def carrierBoundary (n : Nat) (c : Chip) : Chip :=
  if modMode c n ≠ 0 ∨ !(modSt c n).carrier ∨ clkLost c .pwm then c
  else
    let c1 := narrowCheck n (applyDuties n c)
    let c2 := releaseTrips n (actBlock n c1)
    let c3 := modMod n (fun m => { m with safeHeld := safeCond c2 n, sysHeld := clkLost c2 .sys }) c2
    let c4 := if (modSt c3 n).fallback then c3 else cntWrap (modPage n) 0x070 31 16 c3
    planPeriod n (if clkLost c4 .sys && !(modSt c4 n).block then blockPulses n false c4 else c4)

/-- CARRIER_CENTRE (R248): with DOUBLE_UPDATE the centre is an apply point too; a set applied there has missed its boundary (R23). -/
def carrierCentre (n : Nat) (c : Chip) : Chip :=
  if modMode c n ≠ 0 ∨ !(modSt c n).carrier ∨ clkLost c .pwm ∨ !bit (act c (modPage n) 0x040) 2 then c
  else
    let late := (modSt c n).pendingSet
    let c1 := if late then (let c2 := narrowCheck n (applyDuties n c); planFalling n (modSt c2 n).car.mid c2) else c
    let e := n / 32
    let c2 := if late then setLpe e { lpe c1 e with missed := true } c1 else c1
    actBlock n c2

/-! ### Carriers at the frame knot (R246, R249, R117, R118) -/

/-- The carrier of a port may run. -/
def carrierWanted (c : Chip) (n : Nat) : Bool :=
  modMode c n == 0 && (hdr c (modPage n)).state != .off && !clkLost c .pwm && !(c.pwr.state == .doze && !(axis c n).torque)

/-- A carrier restart waits for the frame knot (R246): a requested apply changes the period or takes the port into BRIDGE, the frame is
re-aligned, or the carrier is wanted and does not run. -/
def restartPending (c : Chip) (n : Nat) : Bool :=
  let p := modPage n
  ((hdr c p).applyReq && rdF c p 0x040 1 0 == 0 && (rd c p 0x048 != act c p 0x048 || modMode c n != 0)) ||
  (c.tim.realign && (modSt c n).carrier) || (carrierWanted c n && !(modSt c n).carrier)

/-- One port at a frame knot: restarts, and the alarm of R118. -/
def modKnot (n : Nat) (c : Chip) : Chip :=
  let m := modSt c n
  let want := carrierWanted c n
  let big := if 8000 < m.phaseErr.natAbs then m.bigErr + 1 else 0
  let c1 := setMod n { m with
    carrier := want
    narrowRaised := false
    m := if want then carrierM c n else m.m
    bigErr := if want then min 16 big else 0 } c
  let restart := want && (!m.carrier || c.tim.realigned || actF c (modPage n) 0x048 23 0 != m.car.nom)
  let c2 := if m.carrier && !want then releaseTrips n (actBlock n c1) else if restart then restartCarrier n c1 else c1
  let c3 := if want && (hdr c2 (modPage n)).state == .ready then setState (modPage n) .run c2 else c2
  if want && decide (big = 16) then raise .tim 14 { c3 with tim := { c3.tim with trimPort := n } } else c3

/-- The phase correction of one port at a current sample (R117): an error of 4 ns or more makes its next period one tick longer or shorter. The
error is the centre's time minus the sample instant's, so a late centre shortens. DESIGN CHOICE, log entry 174. -/
def trimPhase (n : Nat) (err : Int) (c : Chip) : Chip :=
  if modMode c n ≠ 0 ∨ !(modSt c n).carrier then c
  else
    let c1 := modMod n (fun m => { m with phaseErr := err }) c
    let c2 := wrF (modPage n) 0x06C 15 0 (satInt16 err) c1
    if 32 ≤ err.natAbs then cntWrap (modPage n) 0x06C 31 16 (modMod n (fun m => { m with car := { m.car with trim := if 0 < err then -1 else 1 } }) c2) else c2

/-! ### Delay lines (R252, R253) -/

/-- The calibration ends: CAL_OK sets, and a held enable proceeds. -/
def delayCalDone (n : Nat) (code : Byte) (c : Chip) : Chip :=
  let m := modSt c n
  if m.calOk ∨ c.clk.now < max m.calSince c.pwr.resetAt + 200000 then c
  else
    let c1 := setMod n { m with calOk := true, enHeld := false, code := code, code0 := code } c
    let h := hdr c1 (modPage n)
    if m.enHeld && h.en && h.state == .off then setState (modPage n) .ready c1 else c1

/-- The replica of a group reports its code and whether it is locked (R253). -/
def replicaReport (j : Nat) (code : Byte) (locked : Bool) (c : Chip) : Chip :=
  each ((List.range 8).map (fun i => 8 * j + i)) (fun n c =>
    let m := modSt c n
    let bad := !locked || decide (2 * code.toNat < m.code0.toNat) || decide (2 * m.code0.toNat < code.toNat)
    let c1 := setMod n { m with code := code, fallback := m.fallback || bad, lockSince := if bad then none else some (m.lockSince.getD c.clk.now) } c
    if bad then latchCond (modPage n) 0x51 (raiseIf (!m.fallback) (modPage n) 10 c1) else c1) c

/-- A replica has held lock for 10 ms, and 0x51 clears. -/
def replicaRelock (j : Nat) (code : Byte) (c : Chip) : Chip :=
  each ((List.range 8).map (fun i => 8 * j + i)) (fun n c =>
    if (modSt c n).fallback then
      let c1 := endCond (modPage n) 0x51 (modMod n (fun m => { m with code := code, fallback := false, lockSince := some c.clk.now }) c)
      if (hdr c1 (modPage n)).fltCode = 0x51 then clearLatch (modPage n) c1 else c1
    else c) c

/-! ### STO (R264) -/

def stoOn (j : Fin 16) (c : Chip) : Chip :=
  each (stoAxes j) (fun n c =>
    if (modSt c n.val).sto then c
    else
      let c1 := resetLoops n.val (modMod n.val (fun m => { m with sto := true, stoHold := true, block := true, blockReq := false, brakeReq := false }) c)
      axisSto n.val (raise (.mod n) 11 (demandOn (.mod n) (fun h => { h with stoDemand := true }) c1))) c

def stoOff (j : Fin 16) (c : Chip) : Chip :=
  each (stoAxes j) (fun n c =>
    if (modSt c n.val).sto then
      let c1 := modMod n.val (fun m => { m with sto := false }) c
      axisStoOff n.val (raise (.mod n) 12 (demandOff (.mod n) (fun h => { h with stoDemand := false }) c1))
    else c) c

end Sys2Proof.Machine
end

