-- ==== Sys2Proof/Machine/MoveOps.lean ====
section
/-!
DEFINITION. What the motion commands do at the frame knot where they take effect: ENABLE, the moves, STOP, RESUME and HOME (checks 9
and 10 of Table 3-8, Tables 6-2 to 6-6).
-/

namespace Sys2Proof.Machine

/-- REJECTED with a check code. -/
def reject (id : Nat) (detail : Byte) (c : Chip) : Chip := finish id stRejected detail 0 c

/-- The direction of a speed. -/
def sgn (x : Rat) : Rat := if x < 0 then -1 else if 0 < x then 1 else 0

/-- The direction of the first motion of a move: that of the present motion, else towards the target. -/
def firstDir (x : Sp) (d : Rat) : Rat := if x.v = 0 then sgn d else sgn x.v

/-- First motion towards an active limit, or towards a software limit the set-point stands on or beyond (R135, R141). -/
def blockedDir (c : Chip) (n : Nat) (s : Rat) : Bool :=
  let a := axis c n
  (decide (0 < s) && ((hlimEn c n && limLevel c n true) || (swlEn c n && decide (swlPos c n ≤ a.cur.p)))) ||
  (decide (s < 0) && ((hlimEn c n && limLevel c n false) || (swlEn c n && decide (a.cur.p ≤ swlNeg c n))))

/-- Slack of a group path is discarded and the group returns to IDLE (R156). -/
def dropGroupSlack (n : Nat) (c : Chip) : Chip :=
  match groupOf c n with
  | some g =>
    let x := group c g
    if x.state = .slack then setGroup g { members := x.members, lead := x.lead } c else c
  | none => c

/-- A suspended hitch whose slave gives up its slack is free (R161: a suspended slave is in SLACK; log entry 43). -/
def dropSuspended (n : Nat) (c : Chip) : Chip :=
  let hs := (c.hits.filter (fun h => h.2.cfg.slave == n && h.2.state == .suspended)).map (·.1)
  each hs (fun h c => raise .hit 9 (hitFree h c)) c

/-- Slack is discarded by another move, HOME or ENABLE 0 (R139). -/
def dropSlack (n : Nat) (c : Chip) : Chip :=
  modAxis n (fun a => { a with kept := none, slackKept := false }) (dropSuspended n (dropGroupSlack n c))

/-- The axis may start a move of its own: its state, its group and its hitches permit (Table 6-2, R152, log entry 44). -/
def movable (c : Chip) (n : Nat) : Bool :=
  let a := axis c n
  let stateOk := match a.state with | .ready | .slack | .moving => true | _ => false
  let groupOk := match groupOf c n with | some g => (group c g).state == .slack | none => true
  pageEnabled c (axmPage n) && stateOk && !a.holdPend && groupOk && !coupledActive c n && !selfCommanded c n

/-- The running move ends as another takes effect: DONE if it only waits to settle, else CANCELLED with the set-point (R130, R132). -/
def endRunning (n : Nat) (c : Chip) : Chip :=
  let a := axis c n
  match a.run with
  | none => c
  | some r =>
    let c1 := if a.waiting then raise (axmPage n) 8 (finish r.id stDone 0 (if r.resumed then 0 else satQ r.result) c)
      else finish r.id stCancelled 0 (wrapQ a.cur.p) c
    setAxis n { a with run := none, waiting := false } c1

/-- A move replaces what ran: state, run and plan. -/
def installMove (n : Nat) (r : Run) (p : Plan) (target : Rat) (c : Chip) : Chip :=
  modAxis n (fun a => { a with
    state := .moving
    run := some r
    plan := some (startPlan c p)
    target := target
    settle := 0
    settled := false
    waiting := false
    stopLengthened := false }) c

/-- The reversal of R133 begins: REVERSED, and the overshoot (R133). -/
def noteReversal (n : Nat) (ovr : Option Rat) (c : Chip) : Chip :=
  let c1 := raise (axmPage n) 14 c
  match ovr with | some d => wrPair (axmPage n) 0x0E0 (satQ d) c1 | none => c1

/-- A reversal whose stopping point lies beyond a software limit (R136): the limit it would cross. -/
def reversalLimit (c : Chip) (n : Nat) (x : Sp) (l : Lim) : Option Rat :=
  let xs := stopPoint x l
  if !swlEn c n then none
  else if 0 < x.v ∧ swlPos c n < xs then some (swlPos c n)
  else if x.v < 0 ∧ xs < swlNeg c n then some (swlNeg c n)
  else none

/-- The stop of R136: at QUICK_DEC and QUICK_JERK to rest on the limit, or as early as those allow. -/
def reversalStop (n : Nat) (r : Run) (x : Sp) (lim : Rat) (c : Chip) : Chip :=
  let q := stopLim c n .quick
  let xq := stopPoint x q
  let s := sgn x.v
  let ovr := s * (xq - lim)
  let plan := if 0 < ovr then planVel x 0 q else planAhead x lim s { q with v := absRat x.v }
  let c1 := if 0 < ovr then wrPair (axmPage n) 0x0E8 (satQ ovr) c else c
  let c2 := raise (axmPage n) 11 (latchFault (axmPage n) 0x14 c1)
  modAxis n (fun a => { a with
    state := .stopping
    run := some r
    plan := some (startPlan c plan)
    stop := some { kind := .limit, reaction := true, code := 0x14, toFault := true, failed := true, lim := some q, since := c.clk.now }
    lastStop := 3
    settled := false
    waiting := false }) c2

/-- The positioning move completes (R130): its RESULT is the overshoot of R133, 0 for a RESUME. -/
def moveDone (n : Nat) (c : Chip) : Chip :=
  let a := axis c n
  match a.run with
  | none => c
  | some r =>
    let c1 := raise (axmPage n) 8 (finish r.id stDone 0 (if r.resumed then 0 else satQ r.result) c)
    let a1 := { axis c1 n with run := none, plan := none, waiting := false }
    let c2 := setAxis n a1 c1
    setAxis n { a1 with state := restState c2 n, holdPend := if restState c2 n = .holding then false else a1.holdPend } c2

/-- In position at this knot: |feedback − set-point| ≤ WINDOW (R130). -/
def inWindow (c : Chip) (n : Nat) : Bool :=
  decide (absRat (posDiff (fbPos c n) (axis c n).cur.p) ≤ (actF c (axmPage n) 0x0D0 15 0 : Rat))

/-- The settling count of an axis whose profile has ended (R130): whether the condition holds now. -/
def settleStep (n : Nat) (c : Chip) : Chip × Bool :=
  let a := axis c n
  let win := actF c (axmPage n) 0x0D0 15 0
  if !isPhys n || win = 0 then (c, true)
  else
    let k := if inWindow c n then a.settle + 1 else 0
    let ok := decide (max 1 (actF c (axmPage n) 0x0D0 31 16) ≤ k)
    (setAxis n { a with settle := k, settled := ok, waiting := true } c, ok)

/-- A positioning move or a velocity move reaches its end at this knot (R130, R131). -/
def moveDue (n : Nat) (c : Chip) : Chip :=
  let a := axis c n
  match a.state, a.run, a.plan with
  | .moving, some r, some p =>
    if p.t < p.total then c
    else
      match r.op with
      | .moveVel .. =>
        if r.vdone then c
        else
          raise (axmPage n) 8 (setAxis n { a with run := some { r with id := 0, vdone := true, resumed := false } }
            (finish r.id stDone 0 (if r.resumed then 0 else wrapQ a.cur.p) c))
      | _ =>
        let s := settleStep n c
        if s.2 then moveDone n s.1 else s.1
  | _, _, _ => c

/-- Another command takes effect on an axis that only waits to settle: its move completes DONE (R130). -/
def settleEnds (n : Nat) (c : Chip) : Chip :=
  if (axis c n).waiting && (groupOf c n).isNone then moveDone n c else c

/-- A move of distance 0 has reached its end at the knot where it takes effect (R127). -/
def dueAtOnce (n : Nat) (p : Plan) (c : Chip) : Chip := if p.total ≤ 0 then moveDue n c else c

/-- Starts a positioning move towards a target after its checks; `resumed` marks RESUME (R127, R133, R134, R136). -/
def startPos (n : Nat) (r : Run) (target : Rat) (clamped : Bool) (c : Chip) : Chip :=
  let x := ownNow c n
  let rev := needsReversal x target r.lim
  if rev && rejectReversal c n then reject r.id 0x0A c
  else
    let c1 := dropSlack n (endRunning n (raiseIf clamped (axmPage n) 10 (markRunning r.id c)))
    let pl := planPos x target r.lim
    let r1 := { r with target := target, result := pl.2 }
    if rev then
      let c2 := noteReversal n (some pl.2) c1
      match reversalLimit c2 n x r.lim with
      | some lim => reversalStop n r1 x lim (modAxis n (fun a => { a with target := target }) c2)
      | none => installMove n r1 pl.1 target c2
    else dueAtOnce n pl.1 (installMove n r1 pl.1 target c1)

/-- MOVE_ABS and MOVE_REL (R127 to R130). -/
def startMove (n id : Nat) (op : HostOp) (rel : Bool) (pos vel acc dec jerk : DWord) (c : Chip) : Chip :=
  let a := axis c n
  let x := ownNow c n
  let moving := match a.run with | some r => (match r.op with | .moveAbs .. => true | .moveRel .. => true | _ => false) | none => false
  let base := if rel then (if a.state == .moving && moving then a.target else x.p) else 0
  let target := base + ofQ pos
  match moveLim c n false vel acc dec jerk with
  | none => reject id 0x08 c
  | some (l, clamped) =>
    if !inQ target || outsideSwl c n target then reject id 0x08 c
    else if !movable c n || blockedDir c n (firstDir x (target - x.p)) then reject id 0x06 c
    else startPos n { id := id, op := op, lim := l } target clamped c

/-- Starts a velocity move after its checks (R131, R133). -/
def startSpeed (n : Nat) (r : Run) (v2 : Rat) (clamped : Bool) (c : Chip) : Chip :=
  let x := ownNow c n
  let pl := planSpeed x v2 r.lim
  if pl.2 && rejectReversal c n then reject r.id 0x0A c
  else
    let c1 := dropSlack n (endRunning n (raiseIf clamped (axmPage n) 10 (markRunning r.id c)))
    let t := (axis c1 n).target
    if pl.2 then
      let c2 := noteReversal n none c1
      match reversalLimit c2 n x r.lim with
      | some lim => reversalStop n r x lim c2
      | none => installMove n r pl.1 t c2
    else installMove n r pl.1 t c1

/-- MOVE_VEL (R131). -/
def startVel (n id : Nat) (op : HostOp) (vel acc dec jerk : DWord) (c : Chip) : Chip :=
  match moveLim c n true vel acc dec jerk with
  | none => reject id 0x08 c
  | some (l, clamped) =>
    let v2 := sgn (ofQ vel) * l.v
    if !movable c n || blockedDir c n (firstDir (ownNow c n) v2) then reject id 0x06 c
    else startSpeed n { id := id, op := op, lim := l } v2 clamped c

/-- ENABLE (Table 6-2, R122, R194). -/
def startEnable (n id : Nat) (en : Byte) (c : Chip) : Chip :=
  let a := axis c n
  let p := axmPage n
  if 1 < en.toNat ∨ (en = 1 ∧ (actQ c p 0x088 = 0 ∨ actQ c p 0x090 = 0 ∨ actQ c p 0x0A0 = 0)) then reject id 0x08 c
  else if c.pwr.state = .hold ∨ c.pwr.state = .doze then reject id 0x06 c
  else if !pageEnabled c p then reject id 0x06 c
  else if en = 1 then
    if a.state ≠ .disabled ∨ a.enabling.isSome then reject id 0x06 c
    else if isPhys n && modMode c n == 0 && actF c (.lpa (f128 n)) 0x040 2 0 == 0 then reject id 0x06 c
    else if !fbValid c n || (isPhys n && sensorless c (f128 n) && (snlSt c n).state != .idle) then reject id 0x06 c
    else if isPhys n then setAxis n { a with enabling := some id } (markRunning id c)
    else finish id stDone 0 0 (setState p .run (setAxis n { a with state := .ready, torque := true } c))
  else
    match a.state with
    | .ready | .holding | .slack =>
      let c1 := modAxis n (fun a => { clearMotion a with state := .disabled }) (freeSlave n (dropSlack n c))
      let c2 := if isPhys n then requestBlock n true c1 else freezeVirtual n c1
      finish id stDone 0 0 (if (hdr c2 p).state = .run then setState p .ready c2 else c2)
    | .fault =>
      let c1 := dropSlack n c
      let c2 := if a.torque then (if isPhys n then requestBlock n true c1 else freezeVirtual n c1) else c1
      finish id stDone 0 0 (modAxis n (fun a => { a with kept := none, slackKept := false }) c2)
    | _ => reject id 0x06 c

/-- The enable completes at the knot after it took effect (Table 6-2): set-point from feedback, loops closed with the velocity stage
handing over from HOLD_IQ (R209), brake released. A sensorless drive that does not run keeps the pulses blocked (R303). -/
def enableDone (n : Nat) (c : Chip) : Chip :=
  let a := axis c n
  match a.enabling with
  | none => c
  | some id =>
    let l := loopAx c n
    let x : Sp := { p := wrapPos (fbPos c n) }
    let held := sensorless c (f128 n) && !snlSynced (snlSt c n).state
    let c1 := setAxis n { a with state := .ready, torque := !held, enabling := none, cur := x, nxt := x } c
    let hold := coefVal (rd c (.lpa (f128 n)) 0x150)
    let c2 := raise (.lpa (f128 n)) 8 (setLoop n { l with handFrame := true, handI := some hold, handV := none, iD := 0, iQ := 0, frozen := false } c1)
    let c3 := modSup n (fun s => { s with torqueFrames := 0, feRun := 0, posCnt := 0, curCnt := 0, ovsRun := 0 }) c2
    let c4 := modMod n (fun m => { m with block := held, blockReq := false, brakeReq := false, stoHold := false }) c3
    finish id stDone 0 0 (brake n true (if (hdr c4 (axmPage n)).state = .ready then setState (axmPage n) .run c4 else c4))

/-- The axis comes to rest under its stop (R122, R138, R139). -/
def stopRest (n : Nat) (c : Chip) : Chip :=
  let a := axis c n
  match a.stop with
  | none => c
  | some st =>
    let slack := if st.kind == .drop && pulseAxis c n && !st.toFault then 0 else satQ (runSlack a)
    let released := (c.hits.filter (fun h => h.2.cfg.slave == n && h.2.state == .disengaging)).map (·.1)
    let hitched := (c.hits.any (fun h => h.2.cfg.slave == n && (h.2.state == .suspended || h.2.state == .fault))) && !st.failed
    let c1 := match a.run with
      | none => c
      | some r =>
        if isHome r then (if st.toFault then finish r.id stFailed st.code 0 c else finish r.id stCancelled 0 0 c)
        else if st.failed then finish r.id stFailed st.code 0 c
        else finish r.id stInterrupted st.code slack c
    let c1 := if st.restCode = 0 then c1 else latchFault (axmPage n) st.restCode c1
    let c2 := faultedFinish n st.code (finishAll st.ids stDone 0 slack c1)
    -- a running HITCH_SET or RESUME of a hitch completes INTERRUPTED (Table 7-4); a release completes DONE
    let c3 := each ((c.hits.filter (fun h => h.2.cfg.slave == n && h.2.state == .suspended)).map (·.1))
      (fun h c => hitFinish h stInterrupted 0 c) c2
    let c4 := each released (fun h c =>
      raise .hit 9 (raise (axmPage n) 28 (hitFree h (finish (hitch c h).relId stDone 0 (wrapQ a.cur.p) c)))) c3
    let keep := match a.run with | some r => if resumable r && !st.failed then some { r with id := 0 } else none | none => if st.failed then none else a.kept
    let a4 := axis c4 n
    let sk := keep.isSome || hitched
    let c5 := setAxis n { a4 with
      stop := none
      plan := none
      run := none
      kept := keep
      slackKept := sk } c4
    let next : AxState :=
      if st.toFault then .fault else if a4.holdPend then .holding else if sk then .slack else .ready
    raise (axmPage n) 9 (modAxis n (fun a => { a with state := next, holdPend := if next = .holding then false else a.holdPend }) c5)

/-- A drop stop of a pulse axis: no further step is issued, at rest at once (Table 6-3, R138). Slack is discarded, unless a reaction that
the drop stop outranks brings the axis to FAULT with its slack kept (R138). -/
def dropPulse (n id : Nat) (c : Chip) : Chip :=
  let a := axis c n
  let x : Sp := { p := stepPos a }
  let st : StopSt := match a.stop with
    | some s => { s with kind := .drop, ids := s.ids ++ [id] }
    | none => { kind := .drop, ids := [id] }
  let c1 := stopRest n (setAxis n { a with
    stop := some st
    referenced := false
    posSuspect := true
    cur := x
    nxt := x
    home := {}
    waiting := false
    settle := 0
    step := { a.step with inc := 0, dropped := true }
    lastStop := 4 } c)
  let c2 := raise (axmPage n) 15 c1
  if st.toFault then c2
  else
    let c3 := dropSuspended n c2
    modAxis n (fun a => { a with
      kept := none
      slackKept := false
      state := if a.state = .holding then .holding else .ready }) c3

/-- STOP of a drive that takes its speed from a pin or an AIN channel (R309): kinds 0 and 1 bring the frequency down and complete
once it is IDLE; kind 2 blocks the pulses at once, and any kind ends a test (R311). A STOP before it completes with it. INHIBIT sets. -/
def snlStop (n id : Nat) (kind : Byte) (c : Chip) : Chip :=
  let x := snlSt c n
  let running := snlSynced x.state || x.state == .catching || x.state == .coast
  let c0 := match x.stopId with | some i => finish i stDone 0 0 c | none => c
  let y := { x with inhibit := true, inhibitLow := false, runReq := false, stopId := none }
  if !running then finish id stDone 0 0 (setSnl n y c0)
  else if kind = 2 || x.test then
    requestBlock n false (finish id stDone 0 0 (setSnl n { y with
      state := .idle
      since := c.clk.now
      test := false
      takeover := false
      slewing := false
      syncRun := 0
      lossRun := 0
      missed := 0
      cross := []
      linePrev := [] } c0))
  else
    let d := (stopLim c n (if kind = 0 then .slack else .quick)).d
    setSnl n { x with stopId := some id, stopDec := d } (markRunning id c0)

/-- STOP on an axis (R137, R138, R156, Table 6-2); it ends a test of its sensorless drive (R311). -/
def startStop (n id : Nat) (kind : Byte) (c : Chip) : Chip :=
  let k : StopKind := match kind.toNat with | 0 => .slack | 1 => .quick | _ => .drop
  if 2 < kind.toNat then reject id 0x08 c
  else if !pageEnabled c (axmPage n) then finish id stDone 0 0 c
  else if selfCommanded c n && axEnabled (axis c n).state then snlStop n id kind c
  else
    let cT : Chip := if (snlSt c n).test then
        requestBlock n false (setSnl n { snlSt c n with test := false, state := .idle, since := c.clk.now, takeover := false } c)
      else c
    let c0 := settleEnds n cT
    let a := axis c0 n
    let st : StopSt := { kind := k, ids := [id] }
    let inGroup : Option Nat := (groupOf c0 n).filter (fun g => (group c0 g).state == .moving || (group c0 g).state == .stopping)
    match inGroup with
    | some g => groupStop g st (markRunning id c0)
    | none =>
      match a.state with
      | .ready | .holding | .slack | .disabled => finish id stDone 0 (satQ (slackOf a)) c0
      | .moving | .homing | .stopping =>
        if k == .drop && pulseAxis c0 n then dropPulse n id (suspendHitches n c0)
        else axisStop n st (suspendHitches n (markRunning id c0))
      | _ => reject id 0x06 c0

/-- The limits an interrupted move restarts under, whether they reduce it, and its velocity where it is a MOVE_VEL (R128, R139); the outer
`none` for what RESUME cannot restart, the inner one for a reduced velocity or acceleration of 0. -/
def resumeLim (c : Chip) (n : Nat) (r : Run) : Option (Option (Lim × Bool) × Option DWord) :=
  match r.op with
  | .moveVel _ vel acc dec jerk => some (moveLim c n true vel acc dec jerk, some vel)
  | .moveAbs _ _ vel acc dec jerk => some (moveLim c n false vel acc dec jerk, none)
  | .moveRel _ _ vel acc dec jerk => some (moveLim c n false vel acc dec jerk, none)
  | _ => none

/-- The check code of a RESUME of an own move, 0 where it restarts (R139, R141). -/
def resumeCheck (c : Chip) (n : Nat) (r : Run) : Byte :=
  match resumeLim c n r with
  | none => 0x06
  | some (none, _) => 0x08
  | some (some (l, _), v) =>
    let d := match v with | some vel => sgn (ofQ vel) * l.v | none => r.target - (ownNow c n).p
    if blockedDir c n (firstDir (ownNow c n) d) then 0x06 else 0

/-- RESUME of an axis's own move, its checks passed (R139). -/
def resumeMove (n id : Nat) (r : Run) (c : Chip) : Chip :=
  match resumeLim c n r with
  | some (some (l, clamped), v) =>
    let r1 : Run := { r with id := id, lim := l, resumed := true, vdone := false, result := 0 }
    (match v with
    | some vel => startSpeed n r1 (sgn (ofQ vel) * l.v) clamped c
    | none => startPos n r1 r.target clamped c)
  | _ => reject id 0x06 c

/-! ### Homing (R142 to R146) -/

/-- Search direction of a method, and whether its reference is the home input, a limit, or the index (Table 6-5). -/
def homeDir (m : Nat) : Rat := if m % 2 = 1 then 1 else -1

def homeNeedsIndex (m : Nat) : Bool := 5 ≤ m && m ≤ 8

/-- The source field of AXM_INPUTS a method needs; 1 where it needs none. -/
def homeSource (c : Chip) (n m : Nat) : Nat :=
  let w := act c (axmPage n) 0x0B8
  match m with
  | 1 | 2 | 7 | 8 => fld w 22 16
  | 3 => fld w 6 0
  | 4 => fld w 14 8
  | _ => 1

/-- The present direction of the search. -/
def searchDir (h : HomeSt) : Rat := if h.reversed then -(homeDir h.method) else homeDir h.method

/-- The limits of a homing phase at a speed. -/
def homeLim (c : Chip) (n : Nat) (h : HomeSt) (v : Rat) : Lim :=
  { v := v, a := h.accel, d := h.accel, j := actQ c (axmPage n) 0x080 }

/-- A phase that moves at a constant speed in the search direction. -/
def homeRun (n : Nat) (phase : Nat) (v : Rat) (c : Chip) : Chip :=
  let a := axis c n
  let h := a.home
  setAxis n { a with
    state := .homing
    stopLengthened := false
    home := { h with phase := phase }
    plan := some (startPlan c (planVel (baseSp c a) (searchDir h * v) (homeLim c n h v))) } c

/-- The axis decelerates at ACCEL to rest (phases 2, 4 and 5). -/
def homeBrake (n : Nat) (c : Chip) : Chip :=
  let a := axis c n
  setAxis n { a with
    stopLengthened := false
    plan := some (startPlan c (planVel (baseSp c a) 0 (homeLim c n a.home 0))) } c

/-- A limit stop during homing that ends in FAULT with a code (R144). -/
def homeFail (n : Nat) (code : Byte) (c : Chip) : Chip :=
  axisStop n { kind := .limit, reaction := true, code := code, toFault := true, failed := true } (latchFault (axmPage n) code c)

/-- The reference edge of a phase is latched at a feedback position (R143, R145). -/
def homeLatch (n : Nat) (pos : Rat) (c : Chip) : Chip :=
  let a := axis c n
  let h := a.home
  let dwell := c.clk.now + actF c (axmPage n) 0x0BC 15 0 * 1000000
  let h1 := { h with edge := some pos, homeSeen := true, dwellEnd := some dwell }
  homeBrake n (setAxis n { a with home := if h.phase = 1 then { h1 with phase := 2 } else h1 } c)

/-- A limit met in the search direction (R144): the reference of methods 3 and 4, a reversal, or a fault. -/
def homeLimit (n : Nat) (positive : Bool) (c : Chip) : Chip :=
  let a := axis c n
  let h := a.home
  let seeking := (h.phase = 1 ∧ h.edge.isNone) ∨ ((h.phase = 4 ∨ h.phase = 5) ∧ ¬ h.homeSeen)
  let toward := decide (0 < searchDir h) == positive
  if a.state ≠ .homing ∨ h.reversing ∨ ¬ seeking then c
  else if (h.method = 3 ∨ h.method = 4) ∧ toward then c
  else if !toward then homeFail n 0x17 c
  else if h.reversed then homeFail n 0x17 c
  else if bit h.flags 0 && h.method != 3 && h.method != 4 then
    setAxis n { a with
      stopLengthened := false
      home := { h with reversing := true }
      plan := some (startPlan c (planVel (baseSp c a) 0 (stopLim c n .limit)))
      lastStop := 3 } c
  else homeFail n 0x15 c

/-- The search begins, or begins again after a reversal. A limit of the search direction that is active already counts as met at once
(R141): the reference of methods 3 and 4, whose position is the present feedback. -/
def homeSearch (n : Nat) (c : Chip) : Chip :=
  let a := axis c n
  let c1 := homeRun n 1 a.home.search (setAxis n { a with
    referenced := false
    home := { a.home with start := a.cur.p, edge := none, homeSeen := false, reversing := false, dwellEnd := none } } c)
  let h := (axis c1 n).home
  let pos := decide (0 < searchDir h)
  if hlimEn c1 n && limLevel c1 n pos then
    (if h.method = 3 ∨ h.method = 4 then homeLatch n (fbPos c1 n) c1 else homeLimit n pos c1)
  else c1

/-- The positions that the loop engine and supervision keep for an axis move with its coordinates (R146); those of a sensorless axis
stand beside its offset. -/
def shiftEstimates (n : Nat) (d : Rat) (c : Chip) : Chip :=
  if sensorless c (f128 n) then c
  else
    let x := loopAx c n
    modSup n (fun s => { s with lastPos := s.lastPos + d }) (setLoop n { x with xHat := wrapPos (x.xHat + d), pred := x.pred + d } c)

/-- The master values that hitches of this master keep move with it (R146, R161): the change of the coordinates is no motion. -/
def shiftMasters (n : Nat) (d : Rat) (c : Chip) : Chip :=
  each ((c.hits.filter (fun h => h.2.state != .free && h.2.cfg.src != 2 && h.2.cfg.master == n)).map (·.1))
    (fun h c => setHitch h { hitch c h with mPrev := (hitch c h).mPrev + d } c) c

/-- A sequence whose redefinition would carry the kept target outside the range: REJECTED 0x08, and nothing is redefined (R5). -/
def homeOut (n id : Nat) (c : Chip) : Chip :=
  let c1 := modAxis n (fun a => { a with home := {}, plan := none, run := none }) (reject id 0x08 c)
  modAxis n (fun a => { a with state := restState c1 n, holdPend := false }) c1

/-- Phase 6 (R146): the coordinates move by OFFSET − x_l, together with every position the axis keeps; HOME completes DONE. -/
def homeDone (n id : Nat) (xl offset : Rat) (c : Chip) : Chip :=
  let d := offset - xl
  let sh (x : Sp) : Sp := { x with p := wrapPos (x.p + d) }
  let a := axis c n
  let a1 : Axis := { a with
    state := .ready
    referenced := true
    posSuspect := false
    home := { phase := 6 }
    plan := none
    run := none
    stop := none
    cur := sh a.cur
    nxt := sh a.nxt
    old1 := sh a.old1
    old2 := sh a.old2
    hist := shiftHistory d a.hist
    target := a.target + d
    fbOfs := a.fbOfs + d
    fbAhead := a.fbAhead + d
    cmp := a.cmp.map (fun u => (u.1, { u.2 with xPrev := u.2.xPrev.map (· + d) })) }
  let c1 := shiftMasters n d (setAxis n a1 c)
  let c2 :=
    if !isPhys n then c1
    else
      let f := fbkSt c1 n
      let p := Page.fbk (f128 n)
      shiftEstimates n d (setFbk n { f with pos := wrapPos (f.pos + d), posK := wrapPos (f.posK + d), hist := shiftHistory d f.hist } (wrPair p 0x058 (wrapQ (ofQ (rdPair c1 p 0x058) + d)) c1))
  let p := axmPage n
  let seq := rdF c2 p 0x0D4 15 0 + 1
  let c3 := wrPair p 0x0D8 (wrapQ xl) (wr p 0x0D4 (BitVec.ofNat 32 (seq % 65536 + 65536)) c2)
  let c4 := raise p 13 (finish id stDone 0 (wrapQ xl) c3)
  modAxis n (fun a => { a with
    state := restState c4 n
    holdPend := false }) c4

/-- HOME (R142, R143). -/
def startHome (n id : Nat) (op : HostOp) (method flags : Byte) (search creep accel offset : DWord) (c : Chip) : Chip :=
  let a := axis c n
  let p := axmPage n
  let m := method.toNat
  let bad := decide (8 < m) || (m != 0 && !isPhys n) || (homeNeedsIndex m && (pulseAxis c n || !fbIndex c n)) || homeSource c n m == 0
  let vmax := actQ c p 0x070
  let amax := actQ c p 0x078
  let badOps := m != 0 && (decide (ofQ search ≤ 0) || decide (ofQ creep < 0) || decide (ofQ search < ofQ creep) || decide (ofQ accel ≤ 0) ||
    decide (vmax ≤ 0) || decide (amax ≤ 0))
  let idle := pageEnabled c p && !selfCommanded c n && (a.state == .ready || a.state == .slack) && !a.holdPend &&
    (match groupOf c n with | some g => (group c g).state == .slack | none => true)
  if bad || badOps then reject id 0x08 c
  else if m = 0 ∧ !inQ (a.target + (ofQ offset - a.cur.p)) then reject id 0x08 c
  else if !idle then reject id 0x06 c
  else if m = 0 then homeDone n id a.cur.p (ofQ offset) (dropSlack n (markRunning id c))
  else
    let rs := reduce (ofQ search) vmax
    let ra := reduce (ofQ accel) amax
    let c1 := raiseIf (rs.2 || ra.2) p 10 (dropSlack n (markRunning id c))
    let h : HomeSt := { id := id, method := m, flags := flags, search := rs.1, creep := minRat (ofQ creep) rs.1, accel := ra.1, offset := ofQ offset }
    homeSearch n (modAxis n (fun a => { a with run := some { id := id, op := op }, home := h, settled := false }) c1)

/-- A homing axis at a frame knot: the phase at rest moves on, a search that has travelled too far stops (R143, R144). -/
def homeKnot (n : Nat) (c : Chip) : Chip :=
  let a := axis c n
  let h := a.home
  match a.plan with
  | none => c
  | some p =>
    let rest := decide (p.total ≤ p.t) && decide (p.endV = 0)
    let maxD := actQ c (axmPage n) 0x0C0
    if a.state ≠ .homing then c
    else if h.phase = 1 ∧ ¬ h.reversing ∧ h.edge.isNone ∧ maxD ≠ 0 ∧ maxD ≤ absRat (posDiff a.cur.p h.start) then
      axisStop n { kind := .limit, reaction := true, code := 0x16, toFault := true, failed := true, lim := some (homeLim c n h 0), restCode := 0x16 } c
    else if !rest then c
    else if h.reversing then homeSearch n (setAxis n { a with home := { h with reversed := true } } c)
    else
      match h.edge with
      | none => c
      | some x =>
        let index := decide (7 ≤ h.method)
        if h.phase = 2 ∧ h.creep ≠ 0 then
          -- the latched point as the planner sees it from its set-point, modulo 2^40 counts (R5)
          let t := a.cur.p + posDiff x a.cur.p - searchDir h * actQ c (axmPage n) 0x0C8
          let l := homeLim c n h h.search
          setAxis n { a with
            home := { h with phase := 3 }
            plan := some (startPlan c (planAhead a.cur t (if t < a.cur.p then -1 else 1) l)) } c
        else if h.phase = 3 then homeRun n 4 h.creep (setAxis n { a with home := { h with homeSeen := false } } c)
        else if (h.phase = 2 ∨ h.phase = 4) ∧ index then
          homeRun n 5 (if h.creep = 0 then h.search else h.creep) (setAxis n { a with home := { h with homeSeen := false } } c)
        else if !inQ (a.target + (h.offset - x)) then homeOut n h.id c
        else homeDone n h.id x h.offset c

/-- The feedback position at this instant: the counter itself where the channel counts edges, else the last delivered position
advanced by its speed (R143, R173). -/
def fbNow (c : Chip) (n : Nat) : Rat :=
  if sensorless c (f128 n) || commandedSteps c n then fbPos c n
  else
    let f := fbkSt c n
    if fbkMode c n = 4 then f.pos + f.vel * ((c.clk.now - c.tim.lastKnot : Nat) : Rat) / 1000000000
    else wrapPos ((f.count : Rat) + ofQ (rdPair c (.fbk (f128 n)) 0x058))

/-- The time of an edge of a field pin: that of its last event (R398), else the present device time. -/
def pinTime (c : Chip) (pin : Nat) (rising : Bool) : Nat :=
  match c.fld.seen.find? (fun e => e.pin.val = pin ∧ e.kind.val = (if rising then 1 else 2)) with
  | some e => stampNs e.time
  | none => timeNs c

/-- The feedback position at a device time (R143, R173). A channel that delivers no samples of its own gives the present position. -/
def fbAt (c : Chip) (n : Nat) (t : Rat) : Rat × Bool :=
  if sensorless c (f128 n) || commandedSteps c n then (fbNow c n, false) else positionAt t (fbkSt c n).hist

/-- The position of a reference edge (R143): the feedback at the edge for an AXnnn_F pin and the index, the interpolated one for a field
pin. `lo` is the place of the source in AXM_INPUTS; an edge to `active`, with the polarity of the source. -/
def refPos (c : Chip) (n lo : Nat) (active : Bool) : Rat :=
  let w := act c (axmPage n) 0x0B8
  let src := fld w (lo + 6) lo
  if 1 ≤ src ∧ src ≤ 64 then (fbAt c n (pinTime c (src - 1) (active != bit w (lo + 7)) : Nat)).1 else fbNow c n

/-- A reference edge reaches a homing axis (R143, R145): the one its phase waits for is latched. Home and limit edges come from the source
in AXM_INPUTS, so its level is the one the edge leads to; FLAGS.EDGE chooses the edge of the home input (Table 6-4). The dwell shuts out
edges of the home input and the index alone (R145). -/
def homeEdge (n : Nat) (kind : RefEdge) (c : Chip) : Chip :=
  let a := axis c n
  let h := a.home
  let limit := h.method == 3 || h.method == 4
  let index := h.method == 5 || h.method == 6 || h.phase == 5
  let waits := (h.phase == 1 && h.edge.isNone) || ((h.phase == 4 || h.phase == 5) && !h.homeSeen)
  if a.state ≠ .homing ∨ !waits ∨ h.reversing then c
  else
    match kind with
    | .limit =>
      let positive := h.method == 3
      if limit && limLevel c n positive then homeLatch n (refPos c n (if positive then 0 else 8) true) c else c
    | .index => if !limit && index && h.dwellEnd.isNone && fbIndex c n then homeLatch n (fbNow c n) c else c
    | .home active =>
      if !limit && !index && h.dwellEnd.isNone && active != bit h.flags 1 && homeLevel c n == active then
        homeLatch n (refPos c n 16 active) c
      else c

end Sys2Proof.Machine
end

