-- ==== Sys2Proof/Machine/HitOps.lean ====
section
/-!
DEFINITION. Hitches and the cam store: records, checks, master values, laws, engagement and release (R88, R158 to R171).
-/

namespace Sys2Proof.Machine

/-! ### Records (Table 7-2) -/

/-- Byte field of a record: `n` bytes from byte `i`. -/
def recField (r : BitVec 256) (i n : Nat) : Nat := fld r (8 * (i + n) - 1) (8 * i)

def decodeHit (r : BitVec 256) : HitRec :=
  let kind : HitKind := match recField r 0 1 % 8 with | 0 => .gear | 1 => .line | 2 => .cam | _ => .superimpose
  { kind := kind
    src := recField r 1 1 % 4
    master := recField r 2 1
    slave := recField r 3 1
    entry := recField r 4 1
    reaction := recField r 5 1 % 8
    ramp := recField r 6 2
    num := signed 32 (recField r 8 4)
    den := recField r 12 4
    offset := ofQ (BitVec.ofNat 64 (recField r 16 8))
    first := recField r 24 4
    mPhase := recField r 28 4 }

/-- Reserved bits and fields of a record (Table 7-2, R50). -/
def hitReserved (r : BitVec 256) : Bool :=
  let kind := recField r 0 1 % 8
  decide (8 ≤ recField r 0 1) || decide (4 ≤ recField r 1 1) || decide (8 ≤ recField r 5 1) ||
  (recField r 1 1 % 4 != 2 && recField r 4 1 != 0) ||
  (kind != 1 && kind != 2 && recField r 16 8 != 0) ||
  (kind != 2 && (recField r 24 4 != 0 || recField r 28 4 != 0))

/-- The hitches that are not FREE and whose slave is `n`: the axis that is the master of each, `none` for a line subscription. -/
def mastersOf (c : Chip) (n : Nat) : List (Option Nat) :=
  (c.hits.filter (fun h => h.2.state != .free && h.2.cfg.slave == n)).map (fun h => if h.2.cfg.src = 2 then none else some h.2.cfg.master)

/-- The hitches above an axis: length of the longest chain of masters, in which a line hitch is the last (R159). -/
def chainUp (c : Chip) : Nat → Nat → Nat
  | 0, _ => 0
  | k + 1, n => ((mastersOf c n).map (fun m => match m with | some m => 1 + chainUp c k m | none => 1)).foldl max 0

/-- The hitches below an axis. -/
def chainDown (c : Chip) : Nat → Nat → Nat
  | 0, _ => 0
  | k + 1, n =>
    ((c.hits.filter (fun h => h.2.state != .free && h.2.cfg.src != 2 && h.2.cfg.master == n)).map
      (fun h => 1 + chainDown c k h.2.cfg.slave)).foldl max 0

/-- Whether axis `t` stands above `n` in a chain. -/
def reaches (c : Chip) (t : Nat) : Nat → Nat → Bool
  | 0, _ => false
  | k + 1, n => (mastersOf c n).any (fun m => match m with | some m => m == t || reaches c t k m | none => false)

/-- The deepest chain (HIT_CNT): each hitch that is not FREE ends one, at its slave. -/
def deepest (c : Chip) : Nat := (c.hits.map (fun h => if h.2.state = .free then 0 else chainUp c 9 h.2.cfg.slave)).foldl max 0

/-- The causes with DETAIL 0x08 of R159. -/
def hitBad (c : Chip) (raw : BitVec 256) : Bool :=
  let r := decodeHit raw
  let axm := r.src != 2
  let chain := if axm then 1 + chainUp c 9 r.master + chainDown c 9 r.slave else 1 + chainDown c 9 r.slave
  decide (4 ≤ recField raw 0 1 % 8) || (axm && decide (160 ≤ r.master)) || (r.src == 1 && decide (128 ≤ r.master)) ||
  (!axm && (decide (16 ≤ r.master) || decide (32 ≤ r.entry))) || decide (160 ≤ r.slave) || r.den == 0 ||
  decide (r.reaction < 2) || r.reaction == 7 || (axm && r.master == r.slave) ||
  (r.kind == .cam && decide (2 ^ 25 ≤ r.first)) ||
  (axm && (reaches c r.slave 9 r.master || decide (8 < chain))) || (!axm && decide (8 < chain))

/-- The causes with DETAIL 0x06 of R159 that concern the hitch and the slave. -/
def hitBusy (c : Chip) (h id : Nat) (r : HitRec) : Bool :=
  let x := hitch c h
  let n := r.slave
  let a := axis c n
  let other := match x.reading with | some i => i != id | none => false
  (hdr c .hit).state == .off || !pageEnabled c .hit || x.state != .free || x.relStop.isSome || other || !pageEnabled c (axmPage n) || a.holdPend ||
  (if r.kind = .superimpose then
    !(a.state == .ready || a.state == .slack || a.state == .moving) || (simpOf c n).isSome
  else
    !(a.state == .ready || a.state == .slack) || (coupledOf c n).isSome ||
    (match groupOf c n with | some _ => true | none => false))

/-! ### Master values (Table 7-3) -/

def sub (c : Chip) (j : Nat) : Sub := tabGet {} c.hfr.subs j

def setSub (j : Nat) (x : Sub) (c : Chip) : Chip := { c with hfr := { c.hfr with subs := tabSet {} c.hfr.subs j x } }

/-- R88: the position of an entry of a subscription at a time in ns; velocity and acceleration per second. -/
def subAt (c : Chip) (j e : Nat) (t : Int) : Option Sp :=
  let x := sub c j
  match x.entries[e]? with
  | none => none
  | some en =>
    let fr : Rat := c.tim.lenNs
    let dl : Rat := ((t - (x.times[e]?).getD x.sampleT : Int) : Rat) / fr
    let v : Rat := (en.vel.toInt : Rat) / 65536
    let v' : Rat := (((x.prevVel[e]?).getD en.vel.toInt : Int) : Rat) / 65536
    let acc : Rat := (v - v') / x.ndiv
    let per : Rat := 1000000000 / fr
    some { p := (en.pos.toInt : Rat) / 256 + v * dl + acc * dl * dl / 2, v := (v + acc * dl) * per, a := acc * per * per }

/-- The master value for the block of this knot, or for the next block (R160). -/
def masterVal (c : Chip) (r : HitRec) (next : Bool) : Option Sp :=
  let m := axis c r.master
  match r.src with
  | 0 => some (if next then m.nxt else m.cur)
  | 1 => some (if next then { p := wrapPos (fbPos c r.master + fbVel c r.master * frameSec c), v := fbVel c r.master }
               else { p := m.fbAhead, v := fbVel c r.master })
  | 2 => subAt c r.master r.entry (knotNs c - (if next then 1 else 2) * c.tim.lenNs)
  | _ => some (if next then m.old1 else m.old2)

/-- A master is available (Table 7-3). -/
def masterOk (c : Chip) (r : HitRec) : Bool :=
  match r.src with
  | 1 => fbValid c r.master
  | 2 => (sub c r.master).state == .valid && (sub c r.master).times[r.entry]? == some (sub c r.master).sampleT && timeLocked c
  | _ => let m := axis c r.master; axEnabled m.state || (m.state == .fault && m.torque)

/-- The master of a hitch that is not FREE has stopped being available (R166): of a line hitch, its subscription is IDLE, or the device's
own time base is no longer locked (Table 1-7). A subscription that misses frames still gives values (R89). -/
def masterGone (c : Chip) (r : HitRec) : Bool :=
  if r.src = 2 then (sub c r.master).state == .idle || !timeLocked c else !masterOk c r

/-! ### Cam nodes (R167 to R170) -/

def decodeNode (w : BitVec 128) : CamNode :=
  { m := fld w 127 96
    s := (signed 48 (fld w 95 48) : Rat) / 256
    v := (signed 32 (fld w 47 16) : Rat) / (2 ^ 24 : Nat)
    typ := fld w 15 13
    rsv := fld w 12 0 != 0 }

/-- A node with a reserved TYPE or reserved bits set. -/
def badNode (x : CamNode) : Bool := x.rsv || decide (4 ≤ x.typ)

/-- The DRAM word of a node. -/
def nodeWord (c : Chip) (i : Nat) : Nat := rdF c .cam 0x040 3 0 * 2 ^ 25 + i

/-- Reads one node; `none` for an uncorrectable word, or while DRAM has no clock (R170). -/
def readNode (i : Nat) (s : State) : State × Option CamNode :=
  if !dramUp s.chip || decide (dramBytes s.chip < 16 * (nodeWord s.chip i + 1)) then (s, none)
  else
    let r := readCode .dram (nodeWord s.chip i) false s
    (r.1, r.2.map decodeNode)

/-- The read of a cam before a CAM hitch engages (R159): its end node, or the code it fails with. -/
def scanCam : Nat → Nat → Option Nat → State → State × Except Byte (Nat × CamNode)
  | 0, _, _, s => (s, .error 0x1A)
  | k + 1, i, prev, s =>
    if 2 ^ 25 ≤ i ∨ 2 ^ 30 * rdF s.chip .mem 0x040 3 0 ≤ 16 * nodeWord s.chip i then (s, .error 0x1A)
    else
      let r := readNode i s
      match r.2 with
      | none => (r.1, .error 0x19)
      | some x =>
        let bad := badNode x || (match prev with | none => x.m != 0 || x.typ == 3 | some m => decide (x.m ≤ m))
        if bad then (r.1, .error 0x1A)
        else if x.typ = 3 then (r.1, .ok (i, x))
        else scanCam k (i + 1) (some x.m) r.1

/-- The segment that holds M, found by walking from a segment at most `k` nodes (R170): forward or backward with wrap. -/
def walkCam (first last : Nat) (m : Rat) (fwd : Bool) : Nat → Nat → State → State × Except Byte (Nat × CamNode × CamNode)
  | k, i, s =>
    let r0 := readNode i s
    let r1 := readNode (i + 1) r0.1
    match r0.2, r1.2 with
    | some a, some b =>
      if badNode a || badNode b || decide (b.m ≤ a.m) then (r1.1, .error 0x1A)
      else if (a.m : Rat) ≤ m ∧ m < (b.m : Rat) then (r1.1, .ok (i, a, b))
      else
        match k with
        | 0 => (r1.1, .error 0xFF)
        | k + 1 =>
          let j := if fwd then (if i + 1 = last then first else i + 1) else (if i = first then last - 1 else i - 1)
          walkCam first last m fwd k j r1.1
    | _, _ => (r1.1, .error 0x19)
  termination_by structural k => k

/-- Slave position, slope and curvature at a cam coordinate (R169). -/
def camSegment (a b : CamNode) (m : Rat) : Rat × Rat × Rat :=
  let h : Rat := (b.m : Rat) - a.m
  let u := (m - a.m) / h
  match a.typ with
  | 0 => (a.s + u * (b.s - a.s), (b.s - a.s) / h, 0)
  | 1 =>
    let u2 := u * u
    let u3 := u2 * u
    ((2 * u3 - 3 * u2 + 1) * a.s + (u3 - 2 * u2 + u) * h * a.v + (3 * u2 - 2 * u3) * b.s + (u3 - u2) * h * b.v,
     ((6 * u2 - 6 * u) * a.s + (3 * u2 - 4 * u + 1) * h * a.v + (6 * u - 6 * u2) * b.s + (3 * u2 - 2 * u) * h * b.v) / h,
     ((12 * u - 6) * a.s + (6 * u - 4) * h * a.v + (6 - 12 * u) * b.s + (6 * u - 2) * h * b.v) / (h * h))
  | _ => (a.s, 0, 0)

def hitRatio (r : HitRec) : Rat := (r.num : Rat) / (r.den : Nat)

/-- The segment index of a CAM hitch that engages: the segment that holds the master's cam coordinate, found among all the nodes its read
has checked (R159, R170; DEDUCED, log entry 170). -/
def seatCam (h : Nat) (s : State) : State :=
  let x := hitch s.chip h
  if x.cfg.kind ≠ .cam then s
  else
    let X := hitRatio x.cfg * ((masterVal s.chip x.cfg false).getD {}).p + x.cfg.mPhase
    let M := X - (X / x.camP).floor * x.camP
    let f := walkCam x.cfg.first x.camEnd M true (x.camEnd - x.cfg.first) x.cfg.first s
    match f.2 with
    | .ok (i, _, _) => onChip (fun c => setHitch h { hitch c h with segIdx := i } c) f.1
    | .error _ => f.1

/-- The value of a cam for a master state (R169): S(M) with its turns, slope and curvature by the master. The walk follows the motion of
the cam coordinate, at most 16 nodes (R170). -/
def camLaw (h : Nat) (m : Rat) (s : State) : State × Except Byte (Rat × Rat × Rat) :=
  let x := hitch s.chip h
  let r := hitRatio x.cfg
  let X := r * m + x.cfg.mPhase
  let n := (X / x.camP).floor
  let M := X - n * x.camP
  let start := if x.segIdx < x.cfg.first ∨ x.camEnd ≤ x.segIdx then x.cfg.first else x.segIdx
  let fwd := decide (0 ≤ r * posDiff m x.mPrev)
  let found := walkCam x.cfg.first x.camEnd M fwd 16 start s
  match found.2 with
  | .error 0xFF => (found.1, .error 0x1A)
  | .error e => (found.1, .error e)
  | .ok (i, a, b) =>
    let v := camSegment a b M
    (onChip (fun c => setHitch h { hitch c h with segIdx := i } c) found.1, .ok (n * x.camR + v.1, v.2.1 * r, v.2.2 * r * r))

/-- The full law of LINE and CAM at a master value: position, slope and curvature by the master (R161). -/
def absLaw (h : Nat) (m : Rat) (s : State) : State × Except Byte (Rat × Rat × Rat) :=
  let x := hitch s.chip h
  match x.cfg.kind with
  | .cam =>
    let r := camLaw h m s
    match r.2 with | .ok (p, s1, s2) => (r.1, .ok (x.cfg.offset + x.shift + p, s1, s2)) | .error e => (r.1, .error e)
  | _ => (s, .ok (x.cfg.offset + x.shift + hitRatio x.cfg * m, hitRatio x.cfg, 0))

/-! ### Engagement (R159, R162) -/

/-- The hitch becomes ENGAGED: HITCH_SET and a RESUME complete DONE. -/
def hitEngaged (h : Nat) (c : Chip) : Chip :=
  let x := hitch c h
  let c1 := finish x.resId stDone 0 0 (finish x.setId stDone 0 0 c)
  raise (axmPage x.cfg.slave) 27 (raise .hit 8 (setHitch h { hitch c1 h with state := .engaged, setId := 0, resId := 0 } c1))

/-- The hitch engages at this knot: p_e and the master value are recorded (Table 7-4). -/
def hitEngage (h setId resId : Nat) (c : Chip) : Chip :=
  let x := hitch c h
  let n := x.cfg.slave
  let m := (masterVal c x.cfg false).getD {}
  let c1 := setHitch h { x with
    state := .engaging
    setId := setId
    resId := resId
    reading := none
    readDone := false
    pe := if x.cfg.kind = .superimpose then 0 else (ownNow c n).p
    mPrev := m.p
    dist := 0
    sum := 0
    part := {}
    partNext := {}
    sigma := 0
    relDist := 0
    ramping := false
    relStop := none
    overRun := 0 } c
  let c2 := modAxis n (fun a => { a with state := .moving, settled := false }) c1
  if x.cfg.ramp = 0 then hitEngaged h c2 else c2

/-- With RAMP = 0 a LINE or CAM hitch must stand within 1 count of its law (R162). -/
def hitOnLaw (h : Nat) (s : State) : State × Bool :=
  let x := hitch s.chip h
  if x.cfg.ramp ≠ 0 ∨ x.cfg.kind = .gear ∨ x.cfg.kind = .superimpose then (s, true)
  else
    let m := (masterVal s.chip x.cfg false).getD {}
    let r := absLaw h m.p s
    match r.2 with
    | .ok (p, _, _) => (r.1, decide (absRat (posDiff p (ownNow s.chip x.cfg.slave).p) ≤ 1))
    | .error _ => (r.1, false)

/-- HITCH_SET at the knot where it takes effect, its cam read (R159). -/
def hitTake (h id : Nat) (raw : BitVec 256) (s : State) : State :=
  let r := decodeHit raw
  let c := s.chip
  let x := hitch c h
  let free := onChip (fun c => reject id 0x06 (setHitch h { hitch c h with reading := none, readDone := false } c))
  if hitBusy c h id r || !masterOk c r then free s
  else
    let s1 := seatCam h (onChip (setHitch h { x with raw := raw, cfg := r, segIdx := r.first, shift := 0 }) s)
    let t := hitOnLaw h s1
    if t.2 then
      onChip (fun c =>
        let c0 := settleEnds r.slave c
        let c1 := if r.kind = .superimpose then modAxis r.slave (fun a => if a.state = .slack then { a with kept := none, slackKept := false } else a) c0
          else dropSlack r.slave c0
        hitEngage h id 0 (markRunning id c1)) t.1
    else free t.1

/-- The checks of a HITCH_SET before anything is read (R159). -/
def hitChecks (c : Chip) (h id : Nat) (raw : BitVec 256) : Byte :=
  if hitBad c raw then 0x08 else if hitBusy c h id (decodeHit raw) then 0x06 else 0

/-- The read of a cam ends (R159): the hitch has its end node, P and R, or HITCH_SET completes FAILED. -/
def camRead (h : Nat) (s : State) : State :=
  let x := hitch s.chip h
  match x.reading with
  | none => s
  | some id =>
    if x.readDone then s
    else
      let r := decodeHit x.raw
      let t := scanCam (2 ^ 25) r.first none s
      match t.2 with
      | .error e => onChip (fun c => finish id stFailed e 0 (setHitch h { hitch c h with reading := none } c)) t.1
      | .ok (i, node) =>
        let f := readNode r.first t.1
        onChip (fun c => setHitch h { hitch c h with
          readDone := true
          camEnd := i
          camP := node.m
          camR := node.s - (match f.2 with | some a => a.s | none => 0) } c) f.1

/-! ### The next block (R161 to R163, R165, R166) -/

/-- w = 3x² − 2x³ with its first two derivatives. -/
def weight (x : Rat) : Rat × Rat × Rat := (3 * x * x - 2 * x * x * x, 6 * x - 6 * x * x, 6 - 12 * x)

/-- Engagement x after a distance D (R162). -/
def engX (ramp : Nat) (d : Rat) : Rat := if ramp = 0 then 1 else minRat 1 (d / (256 * ramp : Nat))

/-- The part of a hitch for the next block, by its law or its release ramp: the coupled state, and the hitch. -/
def hitLaw (h : Nat) (m : Sp) (s : State) : State × Except Byte (Sp × Hitch) :=
  let x := hitch s.chip h
  let r := hitRatio x.cfg
  let dm := posDiff m.p x.mPrev
  let span : Rat := (256 * x.cfg.ramp : Nat)
  if x.state = .disengaging then
    let d := x.relDist + absRat dm
    let e := engX x.cfg.ramp d
    let w := weight e
    let sum := x.sum + (1 - w.1) * dm
    let xd := if x.cfg.ramp = 0 ∨ 1 ≤ e then 0 else absRat m.v / span
    let y : Sp := { p := x.pe + x.sigma * sum, v := x.sigma * (1 - w.1) * m.v, a := x.sigma * ((1 - w.1) * m.a - w.2.1 * xd * m.v) }
    (s, .ok (y, { x with relDist := d, sum := sum, mPrev := m.p }))
  else
    let d := x.dist + absRat dm
    let e := engX x.cfg.ramp d
    let w := weight e
    let xd := if x.cfg.ramp = 0 ∨ 1 ≤ e then 0 else absRat m.v / span
    match x.cfg.kind with
    | .gear | .superimpose =>
      let sum := x.sum + w.1 * dm
      let y : Sp := { p := x.pe + r * sum, v := r * w.1 * m.v, a := r * (w.1 * m.a + w.2.1 * xd * m.v) }
      (s, .ok (y, { x with dist := d, sum := sum, mPrev := m.p, sigma := r * w.1 }))
    | _ =>
      let t := absLaw h m.p s
      match t.2 with
      | .error e => (t.1, .error e)
      | .ok (p, s1, s2) =>
        let x := hitch t.1.chip h
        let v := s1 * m.v
        let a := s2 * m.v * m.v + s1 * m.a
        let gap := posDiff p x.pe
        let xdd := if x.cfg.ramp = 0 ∨ 1 ≤ e then 0 else sgn m.v * m.a / span
        let y : Sp :=
          { p := x.pe + w.1 * gap
            v := w.1 * v + w.2.1 * xd * gap
            a := w.1 * a + 2 * w.2.1 * xd * v + (w.2.2 * xd * xd + w.2.1 * xdd) * gap }
        let slope := w.1 * s1 + (if x.cfg.ramp = 0 ∨ 1 ≤ e then 0 else w.2.1 * gap * sgn m.v / span)
        (t.1, .ok (y, { x with dist := d, mPrev := m.p, sigma := slope }))

/-- The set-points of a slave's next block over its limits (R165). -/
def overLimit (c : Chip) (n : Nat) : Bool :=
  let y := (axis c n).nxt
  decide (actQ c (axmPage n) 0x070 < absRat y.v) || decide (actQ c (axmPage n) 0x078 < absRat y.a)

/-- A release ends: FREE, HITCH_RELEASE DONE with the slave set-point (R163). -/
def hitReleased (h : Nat) (c : Chip) : Chip :=
  let x := hitch c h
  let n := x.cfg.slave
  let c1 := finish x.relId stDone 0 (wrapQ (axis c n).cur.p) c
  slaveRest n (raise .hit 9 (raise (axmPage n) 28 (hitFree h (if x.cfg.kind = .superimpose then mergeSimp n c1 else c1))))

/-- One hitch computes its slave's next block (R161): the law of GEAR, LINE and CAM, or the part that SUPERIMPOSE adds. -/
def hitCommit (h : Nat) (s : State) : State :=
  let c := s.chip
  let x := hitch c h
  let n := x.cfg.slave
  let a := axis c n
  let simp := x.cfg.kind = .superimpose
  if hitActive x ∧ masterGone c x.cfg then onChip (hitchFault h 0x18) s
  else
  match x.relStop with
  | some p =>
    -- the coupled part of a SUPERIMPOSE hitch stops (R163)
    onChip (fun c => setNext n (axis c n).base (setHitch h { x with partNext := planAt p (p.t + frameSec c) } c)) s
  | none =>
    if !hitActive x ∨ (a.state = .stopping ∧ ¬ simp) then s
    else
      match masterVal c x.cfg true with
      | none => s
      | some m =>
        let t := hitLaw h m s
        match t.2 with
        | .error e => onChip (fun c => hitchFault h e (raiseIf (e = 0x1A) .cam 10 c)) t.1
        | .ok (y, x1) =>
          if simp then onChip (fun c => setNext n (axis c n).base (setHitch h { x1 with partNext := y } c)) t.1
          else onChip (fun c => setNext n y (setHitch h x1 c)) t.1

/-- What the block just computed does to a hitch (R162, R163): it is engaged at x = 1, and a release by a ramp ends there. -/
def hitProgress (h : Nat) (c : Chip) : Chip :=
  let x := hitch c h
  if x.state = .engaging ∧ engX x.cfg.ramp x.dist = 1 then hitEngaged h c
  else if x.state = .disengaging ∧ x.ramping ∧ x.relStop.isNone ∧ engX x.cfg.ramp x.relDist = 1 then
    (if x.cfg.kind = .superimpose then setHitch h { x with relStop := some { segs := [], total := 0, endP := x.partNext.p } } c
     else hitReleased h c)
  else c

/-- The order in which hitches are computed (R160): the hitches above a hitch's slave, so that the block of a master is final before those
of its slaves, and the hitches of one slave come together. -/
def hitDepth (c : Chip) (h : Nat) : Nat := chainUp c 9 (hitch c h).cfg.slave

/-- HITCH_RELEASE at the knot where it takes effect (R163, Table 7-4). -/
def startRelease (h id : Nat) (ramp : Bool) (c : Chip) : Chip :=
  let x := hitch c h
  let n := x.cfg.slave
  let a := axis c n
  if !pageEnabled c .hit then reject id 0x06 c
  else
    match x.state with
    | .free | .disengaging => reject id 0x06 c
    | .suspended =>
      let c1 := finish id stDone 0 (wrapQ a.cur.p) (hitFree h (hitFinish h stAborted 0 c))
      raise .hit 9 (modAxis n (fun a => if a.state = .slack then { a with state := .ready, kept := none, slackKept := false } else a) c1)
    | .fault =>
      raise .hit 9 (modAxis n (fun a => { a with slackKept := a.kept.isSome }) (finish id stDone 0 (wrapQ a.cur.p)
        (hitFree h (hitFinish h stFailed (match a.stop with | some s => s.code | none => 0) c))))
    | _ =>
      let c1 := settleEnds n (finish x.resId stCancelled 0 0 (finish x.setId stCancelled 0 0 (markRunning id c)))
      let x1 := { hitch c1 h with state := .disengaging, setId := 0, resId := 0, relId := id }
      if ramp ∧ x.cfg.ramp ≠ 0 then
        setHitch h { x1 with
          ramping := true
          relDist := 0
          sum := 0
          pe := if x.cfg.kind = .superimpose then x.part.p else (ownNow c1 n).p } c1
      else if x.cfg.kind = .superimpose then
        setHitch h { x1 with relStop := some (startPlan c1 (planVel x.part 0 (stopLim c1 n .slack))) } c1
      else axisStop n { kind := .slack } (setHitch h x1 c1)

/-- Whether the suspended hitches of a slave may engage again at this knot: their masters are available, and a LINE or CAM hitch with
RAMP = 0 stands on its law (R159, R162). -/
def resumeReady : List Nat → State → State × Bool
  | [], s => (s, true)
  | h :: t, s =>
    if !masterOk s.chip (hitch s.chip h).cfg then (s, false)
    else
      let r := hitOnLaw h (seatCam h s)
      if r.2 then resumeReady t r.1 else (r.1, false)

/-- RESUME of the suspended hitches of a slave (Table 7-4): the engagement of each restarts from the present set-point. A RESUME without an
own move to restart completes at the engagement of the first. -/
def resumeHitches (n : Nat) (hs : List Nat) (id : Nat) (c : Chip) : Chip :=
  let c1 := modAxis n (fun a => { a with slackKept := a.kept.isSome }) c
  each (hs.drop 1) (fun h c => hitEngage h 0 0 c) (match hs.head? with | some h => hitEngage h 0 id c1 | none => c1)

/-- The parts of SUPERIMPOSE hitches at a frame knot: the block committed becomes the present one, and a stop of the coupled part that
has ended frees its hitch. -/
def hitShift (dt : Rat) (c : Chip) : Chip :=
  let c1 := { c with hits := c.hits.map (fun h => (h.1, { h.2 with part := h.2.partNext, relStop := h.2.relStop.map (fun p => { p with t := p.t + dt }) })) }
  each ((c1.hits.filter (fun h => match h.2.relStop with | some p => decide (p.total ≤ p.t) | none => false)).map (·.1)) (fun h c =>
    if (hitch c h).state = .disengaging then hitReleased h c
    else slaveRest (hitch c h).cfg.slave (hitFree h (mergeSimp (hitch c h).cfg.slave c))) c1

end Sys2Proof.Machine
end

