-- ==== Sys2Proof/Machine/GrpOps.lean ====
section
/-!
DEFINITION. Interpolation groups: GROUP_MOVE, its path, replacement, completion and RESUME (R151 to R157).
-/

namespace Sys2Proof.Machine

def grpPage (g : Nat) : Page := .grp (Fin.ofNat 32 g)

/-- The smaller of two limits, where 0 is no limit. -/
def capBy (x l : Rat) : Rat := if l = 0 then x else minRat x l

/-- Path limits (R153) for the members and distances of `x`: the operands, the GRP limits and the members' own, scaled by L / |Δ|. -/
def pathLim (c : Chip) (g : Nat) (x : Group) (op : Lim) : Lim :=
  let p := grpPage g
  let ms := groupScales x
  let v := (ms.map (fun m => actQ c (axmPage m.1) 0x070 * m.2)).foldl minRat (capBy op.v (actQ c p 0x060))
  let am := ms.map (fun m => actQ c (axmPage m.1) 0x078 * m.2)
  let a := am.foldl minRat (capBy op.a (actQ c p 0x068))
  let d := am.foldl minRat (capBy op.d (actQ c p 0x068))
  let js := ((ms.map (fun m => actQ c (axmPage m.1) 0x080 * m.2)) ++ [actQ c p 0x070, op.j]).filter (fun j => decide (j ≠ 0))
  { v := v, a := a, d := d, j := minList js }

/-- Operand limits of a GROUP_MOVE. -/
def groupOps (vel acc dec jerk : DWord) : Lim := { v := ofQ vel, a := ofQ acc, d := ofQ dec, j := ofQ jerk }

def maxAbs (l : List Rat) : Rat := l.foldl (fun m x => maxRat m (absRat x)) 0

/-- The leading axis: the first member with |Δ| = L (R153). -/
def leadOf (ms : List Nat) (ds : List Rat) (len : Rat) : Nat :=
  match (ms.zip ds).find? (fun m => decide (absRat m.2 = len)) with | some m => m.1 | none => 0

/-- A path ends (R154): the members are READY, or HOLDING where HOLD_PATH waits. -/
def groupDone (g : Nat) (c : Chip) : Chip :=
  let x := group c g
  let c1 := match x.run with | some r => finish r.id stDone 0 (if r.resumed then 0 else satQ x.result) c | none => c
  let c2 := each x.members (fun m c =>
    let a := axis c m
    let st : AxState := if a.holdPend then .holding else .ready
    raise (axmPage m) 8 (setAxis m { a with state := st, holdPend := false, waiting := false } c)) c1
  raise (grpPage g) 8 (setGroup g { members := x.members, lead := x.lead } c2)

/-- A path has reached its end: it completes once every physical member has met its in-position condition (R154). -/
def groupSettle (g : Nat) (c : Chip) : Chip :=
  let r := (group c g).members.foldl (fun (acc : Chip × Bool) m => let t := settleStep m acc.1; (t.1, acc.2 && t.2)) (c, true)
  if r.2 then groupDone g r.1 else r.1

/-- A fresh path from rest through given distances (R153, R156). One of length 0 completes at the knot where it takes effect (R153); one
that follows a path brought to rest completes under R154, with that path's overshoot (R155). -/
def groupPath (g : Nat) (r : Run) (op : Lim) (ds : List Rat) (result : Rat) (c : Chip) : Chip :=
  let x := group c g
  let len := maxAbs ds
  let x1 : Group := { x with
    start := x.members.map (fun m => (ownNow c m).p)
    delta := ds
    len := len
    lead := leadOf x.members ds len
    slack := 0
    kept := none
    next := none
    result := result
    waiting := false
    stop := none
    s := {}
    sNext := {} }
  let l := pathLim c g x1 op
  let clamped := decide (l.v < op.v) || decide (l.a < op.a) || decide (l.d < op.d) || (decide (op.j ≠ 0) && decide (l.j < op.j))
  let c1 := setGroup g { x1 with
    state := .moving
    run := some r
    lim := l
    plan := some (if len = 0 then { segs := [], total := 0, endP := 0 } else (planPos {} len l).1) } c
  let c2 := each x.members (fun m c => modAxis m (fun a => { a with
    state := .moving
    kept := none
    slackKept := false
    settle := 0
    settled := false
    waiting := false
    stop := none }) c) c1
  if len ≠ 0 then raiseIf clamped (grpPage g) 10 c2
  else if x.state = .moving then groupSettle g c2
  else groupDone g c2

/-- The operand checks of R152 (DETAIL 0x08). -/
def groupBad (c : Chip) (x : Group) (ts : List Rat) (count : Nat) (op : Lim) : Bool :=
  let ds := (x.members.zip ts).map (fun m => (m.1, m.2, m.2 - (ownNow c m.1).p))
  count != x.members.length || ts.length != x.members.length || decide (op.v ≤ 0) || decide (op.a ≤ 0) || decide (op.d ≤ 0) || decide (op.j < 0) ||
  ds.any (fun d => !inQ d.2.1 || outsideSwl c d.1 d.2.1) ||
  ds.any (fun d => decide (d.2.2 ≠ 0) && (decide (actQ c (axmPage d.1) 0x070 ≤ 0) || decide (actQ c (axmPage d.1) 0x078 ≤ 0)))

/-- A member that stops a GROUP_MOVE from starting (DETAIL 0x06). -/
def memberBusy (c : Chip) (n : Nat) : Bool :=
  let a := axis c n
  !pageEnabled c (axmPage n) || a.holdPend || !(a.state == .ready || a.state == .slack) || (coupledOf c n).isSome

/-- GROUP_MOVE at the knot where it takes effect (R152 to R155). -/
def startGroup (g id : Nat) (op : HostOp) (targets : Option (List DWord)) (count : Byte) (relative : Bool) (vel acc dec jerk : DWord)
    (c : Chip) : Chip :=
  let x := group c g
  let l := groupOps vel acc dec jerk
  match targets with
  | none => bufferError id c
  | some ws =>
    let ts := (x.members.zip ws).map (fun m => (if relative then (axis c m.1).cur.p else 0) + ofQ m.2)
    if groupBad c x ts count.toNat l ∨ ws.length < x.members.length then reject id 0x08 c
    else if !pageEnabled c (grpPage g) then reject id 0x06 c
    else
      let r : Run := { id := id, op := op, lim := l }
      if x.state = .moving then
        if bit (act c (grpPage g) 0x040) 0 then reject id 0x0A c
        else
          -- the old path comes to rest along its line at the new limits, then the new one starts (R155)
          let c1 := match x.run with | some q => finish q.id stCancelled 0 (satQ x.s.p) (markRunning id c) | none => markRunning id c
          let nl := pathLim c g x l
          setGroup g { x with
            run := some r
            plan := some (planVel x.s 0 nl)
            next := some (id, op, ts, x.s.p)
            waiting := false } c1
      else if x.state ≠ .idle ∧ x.state ≠ .slack then reject id 0x06 c
      else if x.members.any (memberBusy c) then reject id 0x06 c
      else
        let c1 := each x.members dropSlack (markRunning id c)
        groupPath g r l ((x.members.zip ts).map (fun m => m.2 - (ownNow c1 m.1).p)) 0 c1

/-- RESUME of a stopped path (R156): the rest of the line from rest, with the original operands, while every member is in SLACK. -/
def resumeGroup (g id : Nat) (c : Chip) : Chip :=
  let x := group c g
  match x.kept with
  | none => reject id 0x06 c
  | some r =>
    match r.op with
    | .groupMove _ _ _ _ vel acc dec jerk =>
      if x.members.any (fun m => (axis c m).state != .slack) then reject id 0x06 c
      else
        let l := groupOps vel acc dec jerk
        let rest := if x.len = 0 then 0 else x.slack / x.len
        let ds := match x.next with
          | some (_, _, ts, _) => (x.members.zip ts).map (fun m => m.2 - (ownNow c m.1).p)
          | none => x.delta.map (fun d => d * rest)
        let bad := (x.members.zip ds).any (fun d => decide (d.2 ≠ 0) && (decide (actQ c (axmPage d.1) 0x070 ≤ 0) || decide (actQ c (axmPage d.1) 0x078 ≤ 0)))
        if bad then reject id 0x08 c
        else groupPath g { r with id := id, resumed := true } l ds 0 (markRunning id c)
    | _ => reject id 0x06 c

/-- A path comes to rest under a stop (R156, R157). -/
def groupRest (g : Nat) (c : Chip) : Chip :=
  let x := group c g
  match x.stop with
  | none => c
  | some st =>
    let slack := x.len - x.s.p
    let c1 := match x.run with
      | none => c
      | some r =>
        if st.failed then (if st.code = 0 then finish r.id stAborted 0 0 c else finish r.id stFailed st.code 0 c)
        else finish r.id stInterrupted st.code (satQ slack) c
    let c2 := finishAll st.ids stDone 0 0 c1
    let c3 := each x.members (fun m c =>
      let a := axis c m
      if a.state ≠ .stopping then c
      else
        let tf := match a.stop with | some s => s.toFault | none => false
        raise (axmPage m) 9 (setAxis m { a with
          state := if tf then .fault else if a.holdPend then .holding else .slack
          slackKept := !st.failed
          holdPend := false
          stop := none } c)) c2
    let x1 : Group := { x with
      stop := none
      plan := none
      run := none
      sNext := { p := x.s.p } }
    if st.failed then raise (grpPage g) 11 (setGroup g { x1 with state := .broken, kept := none, slack := 0 } c3)
    else raise (grpPage g) 9 (setGroup g { x1 with state := .slack, kept := x.run.map (fun r => { r with id := 0 }), slack := slack } c3)

/-- A group at a frame knot: what ends here. -/
def groupKnot (g : Nat) (c : Chip) : Chip :=
  let x := group c g
  match x.state, x.plan with
  | .moving, some p =>
    if p.t < p.total then c
    else
      match x.next, x.run with
      | some (_, _, ts, s0), some r =>
        groupPath g r r.lim ((x.members.zip ts).map (fun m => m.2 - (ownNow c m.1).p)) (x.s.p - s0) c
      | _, _ =>
        groupSettle g c
  | .stopping, some p => if p.t < p.total then c else groupRest g c
  | .broken, _ =>
    if x.members.any (fun m => (axis c m).state == .fault || (axis c m).state == .safe) then c
    else setGroup g { members := x.members, lead := x.lead } c
  | _, _ => c

/-- A bus group that clamps regeneration lengthens the stops of its axes (R140). -/
def regenClamped (c : Chip) (n : Nat) : Bool := isPhys n && (busSt c (busOf c (f128 n)).val).clamp

/-- The members of a stopping path that a clamp keeps from decelerating to a path speed (R140), and the path speed that the feedback of the
fastest of them stands for. -/
def groupRegen (c : Chip) (x : Group) (y : Sp) : List Nat × Rat :=
  ((groupScales x).filter (fun m => regenClamped c m.1 && decide (y.v < absRat (fbVel c m.1) * m.2))).foldl
    (fun acc m => (acc.1 ++ [m.1], maxRat acc.2 (absRat (fbVel c m.1) * m.2))) ([], y.v)

/-- The next path coordinate, and the members' next blocks (R153). A stop that a clamp lengthens goes on from the speed reached, with
STOP_LENGTHENED once per stop for the members concerned (R140). -/
def groupCommit (g : Nat) (c : Chip) : Chip :=
  let x := group c g
  if x.state ≠ .moving ∧ x.state ≠ .stopping then c
  else
    match x.plan with
    | none => c
    | some p =>
      let T := frameSec c
      let y0 := planAt p (p.t + T)
      let r := groupRegen c x y0
      let long := x.state == .stopping && decide (y0.v < x.s.v) && !r.1.isEmpty
      let y : Sp := if long then { p := x.s.p + (x.s.v + r.2) / 2 * T, v := r.2 } else y0
      let l := match x.stop with | some st => st.lim.getD (groupStopLim c x st.kind) | none => groupStopLim c x .slack
      let plan := if long then { planVel y 0 l with t := -T } else p
      let c1 := setGroup g { x with sNext := y, plan := some plan } c
      let c2 := if long then each r.1 (fun m c =>
          if (axis c m).stopLengthened then c else raise (axmPage m) 16 (modAxis m (fun a => { a with stopLengthened := true }) c)) c1
        else c1
      each (x.members.zip (x.start.zip x.delta)) (fun m c =>
        if !(axis c m.1).torque then c
        else
          let k := m.2.2 / x.len
          setNext m.1 { p := m.2.1 + k * y.p, v := k * y.v, a := k * y.a } c) c2

/-- Software limits of a path's members (R135): the path stops so that the member rests on its limit, at the path's own deceleration. -/
def groupSwl (g : Nat) (c : Chip) : Chip :=
  let x := group c g
  if x.state ≠ .moving then c
  else
    match x.plan with
    | none => c
    | some p =>
      let y := planAt p (p.t + frameSec c)
      let sStop := stopPoint y x.lim
      let hit := (x.members.zip (x.start.zip x.delta)).find? (fun m =>
        let t := m.2.1 + m.2.2 * sStop / x.len
        swlEn c m.1 && (simpOf c m.1).isNone && ((decide (0 < m.2.2) && decide (swlPos c m.1 ≤ t)) || (decide (m.2.2 < 0) && decide (t ≤ swlNeg c m.1))) &&
          decide (m.2.1 + m.2.2 ≠ (if 0 < m.2.2 then swlPos c m.1 else swlNeg c m.1)))
      match hit with
      | none => c
      | some m =>
        let lim := if 0 < m.2.2 then swlPos c m.1 else swlNeg c m.1
        let sLim := (lim - m.2.1) * x.len / m.2.2
        let c1 := raise (axmPage m.1) 11 (latchFault (axmPage m.1) 0x13 c)
        let c2 := memberToFault 0x13 m.1 (groupBreak g m.1 .limit 0x13 0x11 c1)
        let x2 := group c2 g
        let plan := if stopPoint x.s x.lim ≤ sLim then planAhead x.s sLim 1 { x.lim with v := absRat x.s.v } else planVel x.s 0 x.lim
        setGroup g { x2 with plan := some plan, stop := x2.stop.map (fun st => { st with lim := some x.lim }) } c2

end Sys2Proof.Machine
end

