-- ==== Sys2Proof/Machine/AdcOps.lean ====
section
/-!
DEFINITION. Converters (chapter 13): SAR conversions, their lists, calibration and cover; sigma-delta decimators and overcurrent
comparators.
-/

namespace Sys2Proof.Machine

/-! ### SAR converters -/

def adcPage (k : Nat) : Page := .adc (Fin.ofNat 16 k)

def adcSt (c : Chip) (k : Nat) : AdcSt := tabGet {} c.adcs k

def setAdc (k : Nat) (x : AdcSt) (c : Chip) : Chip := { c with adcs := tabSet {} c.adcs k x }

def modAdc (k : Nat) (f : AdcSt → AdcSt) (c : Chip) : Chip := setAdc k (f (adcSt c k)) c

/-- The partner of a converter (R325). -/
def partner (k : Nat) : Nat := if k % 2 = 0 then k + 1 else k - 1

/-- A result as kept: value, VALID_CH, SHIFTED, sampling instant (device ns), real time. -/
def adcRes (c : Chip) (k m : Nat) : Nat × Bool × Bool × Nat × Nat := tabGet (0, false, false, 0, 0) (adcSt c k).res m

/-- The sample slots and knot slots enabled, in force. -/
def sampleSlots (c : Chip) (k : Nat) : List Word :=
  ((List.range 16).map (fun s => act c (adcPage k) (0x100 + 4 * s))).filter (fun w => bit w 31)

def knotSlots (c : Chip) (k : Nat) : List Word :=
  ((List.range 8).map (fun s => act c (adcPage k) (0x140 + 4 * s))).filter (fun w => bit w 31)

/-- Calibration factors: weight k, offset in 2^-8 LSB, gain in Q2.22. -/
def calW (c : Chip) (k i : Nat) : Nat := rdF c (adcPage k) (0x080 + 4 * i) 23 0

def calOfs (c : Chip) (k : Nat) : Int := signed 24 (rdF c (adcPage k) 0x04C 23 0)

def calGain (c : Chip) (k : Nat) : Nat := rdF c (adcPage k) 0x050 23 0

/-- A conversion's value from its 18 decisions, d_0 the most significant (R321); `d` holds d_k in bit 17 − k. -/
def convert (c : Chip) (k : Nat) (d : BitVec 18) : Nat :=
  let raw : Rat := ((((List.range 18).map (fun i => if d.getLsbD (17 - i) then calW c k i else 0)).foldl (· + ·) 0 : Nat) : Rat) / 256
  let x := (raw - (calOfs c k : Rat) / 256) * (calGain c k : Rat) / (2 ^ 22 : Nat)
  let r := roundAway x
  if r < 0 then 0 else if 65535 < r then 65535 else r.toNat

/-- A converter takes conversions: its page acts and is not halted, its clock runs, and no calibration without cover is under way. -/
def converts (c : Chip) (k : Nat) : Bool :=
  let x := adcSt c k
  (acting c (adcPage k) || x.mode == .covered) && !x.halted && !clkLost c .adc && x.mode != .calibrating && !standing c (adcPage k) 0x80

/-- CONVERSION_DONE (R320): the result of one input and its instant. While covered, the partner's factors apply (R326), and an entry
sampled later than its instant sets SHIFTED (R327). The first conversion starts the page's function (log entry 48). -/
def conversionDone (k m : Nat) (d : BitVec 18) (ns : Nat) (shifted : Bool) (c : Chip) : Chip :=
  let x := adcSt c k
  if !converts c k then c
  else
    let v := convert c (if x.mode == .covered then partner k else k) d
    let c1 := setAdc k { x with res := tabSet (0, false, false, 0, 0) x.res m (v, !x.refBad, shifted && x.mode == .covered, ns, c.clk.now) } c
    if (hdr c1 (adcPage k)).state = .ready then setState (adcPage k) .run c1 else c1

/-- The latest result of AIN channel `ch`, unless it is invalid or older than a current-sample period (R228, R297). -/
def freshAin (c : Chip) (ch : Nat) : Option Rat :=
  let r := adcRes c (ch / 8) (ch % 8)
  if r.2.1 ∧ !(adcSt c (ch / 8)).refBad ∧ (c.clk.now : Rat) ≤ (r.2.2.2.2 : Rat) + sampleLen c then some ((r.1 : Rat) / 65536) else none

/-! Sequence rules (Table 13-2). -/

/-- Instants of sample slots in ns relative to the sample (R317). -/
def slotInstants : List Word → Option Rat → List Rat
  | [], _ => []
  | w :: t, prev =>
    let own : Rat := (signed 16 (fld w 23 8) : Rat) * 4
    let a := match prev with | some p => maxRat own (p + 500) | none => own
    a :: slotInstants t (some a)

/-- The Offset and Time rules for a combined pair of lists: sample slots and the number of knot slots. -/
def seqFits (c : Chip) (ss : List Word) (k : Nat) : Bool :=
  let ts := sampleLen c
  ss.all (fun w => decide (absRat ((signed 16 (fld w 23 8) : Rat) * 4) < ts / 2)) &&
  (match (slotInstants ss none).getLast? with
    | some a => decide (a + 500 + (k : Rat) * 500 + 500 ≤ ts)
    | none => decide ((k : Rat) * 500 + 500 ≤ ts))

/-- The instant of the slot that carries AIN channel `ch` for a sensorless axis. -/
def snlInstant (c : Chip) (ch : Nat) : Option Rat :=
  let ss := sampleSlots c (ch / 8)
  ((ss.zip (slotInstants ss none)).find? (fun x => bit x.1 30 && fld x.1 2 0 == ch % 8)).map (·.2)

/-- The three channels of SNL n in force. -/
def snlChannels (c : Chip) (n : Nat) : List Nat :=
  let w := act c (.snl (f128 n)) 0x048
  [fld w 6 0, fld w 14 8, fld w 22 16]

/-- The Sensorless rule for the axes whose entries lie on converter k (Table 13-2). -/
def snlRule (c : Chip) (k : Nat) : Bool :=
  (listed c 0x300 128).all (fun n =>
    let chs := snlChannels c n
    if sensorless c (f128 n) && chs.any (fun ch => ch / 8 == k) then
      match chs.map (snlInstant c) with
      | [some x, some y, some z] => x == y && y == z
      | _ => true
    else true)

/-- Every condition of Table 13-2 for converter k. -/
def seqOk (c : Chip) (k : Nat) : Bool := seqFits c (sampleSlots c k) (knotSlots c k).length && snlRule c k

/-! Knot lists (R318). -/

/-- A knot names a converter: its list becomes pending, or the firing merges into one that is pending or runs. -/
def knotTrigger (k : Nat) (c : Chip) : Chip :=
  let x := adcSt c k
  if (knotSlots c k).isEmpty ∨ !isUp c (adcPage k) then c
  else if x.knotPend ∨ c.clk.now < x.knotUntil then cntSat (adcPage k) 0x058 23 16 c
  else setAdc k { x with knotPend := true } c

/-- KNOT_LIST_START: the lists of the converters that wait start at their common instant, `delay` ADC cycles after the firing. -/
def knotListStart (mask : BitVec 16) (delay : Nat) (c : Chip) : Chip :=
  each ((List.range 16).filter (fun k => mask.getLsbD k)) (fun k c =>
    let x := adcSt c k
    if x.knotPend then
      let c1 := setAdc k { x with knotPend := false, knotUntil := c.clk.now + 500 * (knotSlots c k).length, delayedRaised := x.delayedRaised || decide (0 < delay) } c
      raiseIf (decide (0 < delay) && !x.delayedRaised) (adcPage k) 14 (wrF (adcPage k) 0x058 15 0 (min delay 65535) c1)
    else c) c

/-! Calibration and cover (R321 to R328). -/

/-- A calibration starts: alone, or under cover. As a splice it puts the page in SPLICING (R325, R484). -/
def calStart (k : Nat) (covered : Bool) (c : Chip) : Chip :=
  let x := adcSt c k
  let p := adcPage k
  let c1 := setAdc k { x with mode := if covered then .covered else .calibrating, calSince := some c.clk.now } c
  let h := hdr c1 p
  if x.spliceCal ∧ (h.state = .ready ∨ h.state = .run) then
    setState p .splicing (setHdr p { h with spliceFrom := some h.state, spliceSince := c.clk.now } c1)
  else c1

/-- START or SPLICE_REQ of ADC k (R323, R325): whether it is accepted. -/
def calRequest (k : Nat) (splice : Bool) (c : Chip) : Chip × Bool :=
  let p := adcPage k
  let x := adcSt c k
  let q := partner k
  let y := adcSt c q
  let empty := (sampleSlots c k).isEmpty && (knotSlots c k).isEmpty
  let failed := (hdr c p).state == .fault
  if !(isUp c p || failed) ∨ x.mode ≠ .idle ∨ x.coverReq then (raise p 12 c, false)
  else if failed || empty then (calStart k false (modAdc k (fun x => { x with spliceCal := splice }) c), true)
  else if (hdr c (adcPage q)).state ≠ .run ∨ y.mode ≠ .idle ∨ y.coverReq ∨
      !seqFits c (sampleSlots c q ++ sampleSlots c k) ((knotSlots c q).length + (knotSlots c k).length) then (raise p 12 c, false)
  else (setAdc k { x with coverReq := true, spliceCal := splice } c, true)

/-- CAL_ALL (R324). -/
def calAllStart (c : Chip) : Chip :=
  if (List.range 16).any (fun k => !(sampleSlots c k).isEmpty || !(knotSlots c k).isEmpty) then raise (adcPage 0) 12 c
  else each (List.range 16) (fun k c => if (adcSt c k).mode = .idle then calStart k false c else c) c

/-- The checks of R322 on measured factors. -/
def calPasses (ofs gain : BitVec 24) (ws : List (BitVec 24)) (k : Nat) : Bool :=
  decide ((signed 24 ofs.toNat).natAbs ≤ 512 * 256) &&
  decide (98 * 2 ^ 22 ≤ 100 * gain.toNat) && decide (100 * gain.toNat ≤ 102 * 2 ^ 22) && decide (ws.length = 18) &&
  (List.range 18).all (fun i =>
    let w := (ws.getD i 0).toNat
    let d := Config.designWeight (Fin.ofNat 16 k) (Fin.ofNat 18 i)
    decide (97 * d ≤ 100 * w) && decide (100 * w ≤ 103 * d))

/-- The 20 factors are committed between two conversions. -/
def calCommit (k : Nat) (ofs gain : BitVec 24) (ws : List (BitVec 24)) (c : Chip) : Chip :=
  let p := adcPage k
  let c1 := wr p 0x050 (gain.setWidth 32) (wr p 0x04C (ofs.setWidth 32) c)
  let c2 := each (List.range 18) (fun i c => wr p (0x080 + 4 * i) ((ws.getD i 0).setWidth 32) c) c1
  wr p 0x054 (BitVec.ofNat 32 c2.tim.s) c2

/-- CAL_DONE (R322, R323): 9 ms after its start the calibration ends; cover stays until the next frame knot. -/
def calDone (k : Nat) (ofs gain : BitVec 24) (ws : List (BitVec 24)) (c : Chip) : Chip :=
  let x := adcSt c k
  let p := adcPage k
  match x.calSince with
  | none => c
  | some t =>
    if c.clk.now < t + 9000000 then c
    else
      let pass := calPasses ofs gain ws k
      let covered := x.mode == .covered
      let done := { x with
        mode := if covered then .covered else .idle
        calSince := none
        calValid := x.calValid || pass
        powerOn := false
        spliceCal := x.spliceCal && covered
        splicePass := pass
        coverEnd := covered }
      let c1 := setAdc k done c
      let c2 := if pass then raise p 8 (calCommit k ofs gain ws c1) else raise p 9 c1
      let c3 := if pass then endCond p 0x80 c2 else if x.powerOn then latchCond p 0x80 c2 else c2
      let h := hdr c3 p
      let c4 := if pass && x.powerOn && h.en && h.state == .off then setState p .ready c3 else c3
      if x.spliceCal && !covered then spliceEnd p (if pass then 1 else 2) c4 else c4

/-- Cover ends: each converter is on its own lists again. -/
def coverOff (k : Nat) (c : Chip) : Chip :=
  let f (x : AdcSt) : AdcSt := { x with mode := .idle, coverReq := false, coverEnd := false }
  modAdc (partner k) f (modAdc k f c)

/-- Converters at a frame knot (R326): cover closes and opens. A partner that has left RUN since the request covers nothing (R328, log
entry 185). -/
def adcKnot (k : Nat) (c : Chip) : Chip :=
  let c0 := modAdc k (fun x => { x with delayedRaised := false }) c
  let x := adcSt c0 k
  if x.coverEnd then
    let c1 := raise (adcPage k) 11 (coverOff k c0)
    if x.spliceCal then spliceEnd (adcPage k) (if x.splicePass then 1 else 2) (modAdc k (fun x => { x with spliceCal := false }) c1) else c1
  else if x.coverReq ∧ (hdr c0 (adcPage (partner k))).state ≠ .run then
    raise (adcPage k) 15 (modAdc k (fun x => { x with coverReq := false, spliceCal := false }) c0)
  else if x.coverReq then
    raise (adcPage k) 10 (modAdc (partner k) (fun y => { y with mode := .covering }) (modAdc k (fun x => { x with coverReq := false }) (calStart k true c0)))
  else c0

/-- Cover is aborted: the partner has left RUN, or either page is reset (R328). -/
def coverAbort (k : Nat) (c : Chip) : Chip :=
  let go (a : Nat) (c : Chip) : Chip :=
    let x := adcSt c a
    if x.mode == .covered then
      let c1 := modAdc a (fun x => { x with calSince := none, spliceCal := false }) c
      let c2 := raiseIf x.calSince.isSome (adcPage a) 15 (coverOff a c1)
      if a ≠ k ∧ x.spliceCal then spliceEnd (adcPage a) 2 c2 else c2
    else c
  go (partner k) (go k c)

/-- REFERENCE_FAULT (R329): converters 0 to 7 refer to VREFA, 8 to 15 to VREFB. -/
def refAdcs (refB : Bool) : List Nat := (List.range 8).map (fun i => if refB then i + 8 else i)

/-- Every result with VALID_CH = 0. -/
def lostResults (t : Tab (Nat × Bool × Bool × Nat × Nat)) : Tab (Nat × Bool × Bool × Nat × Nat) :=
  t.foldl (fun a r => tabSet (0, false, false, 0, 0) a r.1 (r.2.1, false, r.2.2.2.1, r.2.2.2.2.1, r.2.2.2.2.2)) []

def referenceFault (refB : Bool) (c : Chip) : Chip :=
  each (refAdcs refB) (fun k c => latchCond (adcPage k) 0x82 (modAdc k (fun x => { x with refBad := true, res := lostResults x.res }) c)) c

def referenceRecovered (refB : Bool) (c : Chip) : Chip :=
  each (refAdcs refB) (fun k c => endCond (adcPage k) 0x82 (modAdc k (fun x => { x with refBad := false }) c)) c

/-- Power-on and warm-reset calibration of all converters (R323). -/
def calPowerOn (c : Chip) : Chip :=
  each (List.range 16) (fun k c => setAdc k { calSince := some c.clk.now, powerOn := true, mode := .calibrating } c) c

/-! ### Sigma-delta channels -/

def sdfPage (k : Nat) : Page := .sdf (Fin.ofNat 8 k)

/-- Channel number 0 to 383: 48 × bank + 3 × port in the bank + input. -/
def sdfCh (c : Chip) (i : Nat) : SdfCh := tabGet {} c.sdfs i

def setSdf (i : Nat) (x : SdfCh) (c : Chip) : Chip := { c with sdfs := tabSet {} c.sdfs i x }

/-- The channel of input Sx of port n. -/
def portCh (n x : Nat) : Nat := 48 * (n / 16) + 3 * (n % 16) + x

def sdfPort (c : Chip) (i : Nat) : Word := act c (sdfPage (i / 48)) (0x080 + 16 * (i % 48 / 3))

/-- Channel i is enabled, its line is driven and its clock runs. -/
def sdfOn (c : Chip) (i : Nat) : Bool :=
  let w := act c (sdfPage (i / 48)) 0x044
  bit (sdfPort c i) (28 + i % 3) && bit w (if i % 48 < 24 then 7 else 15) && !clkLost c .sense && acting c (sdfPage (i / 48))

/-- Tap j of the sinc3 and sinc2 filters of ratio R: coefficients of (1 + z^-1 + … + z^-(R-1)) cubed and squared. -/
def tri (j : Nat) : Int := ((j + 1) * (j + 2) / 2 : Nat)

def sinc3Tap (r j : Nat) : Int :=
  tri j - (if r ≤ j then 3 * tri (j - r) else 0) + (if 2 * r ≤ j then 3 * tri (j - 2 * r) else 0)

def sinc2Tap (m j : Nat) : Int := ((j + 1 : Nat) : Int) - (if m ≤ j then 2 * ((j - m + 1 : Nat) : Int) else 0)

/-- Σ h_j b over bits, the newest first, with 1 as +1 and 0 as −1. -/
def firSum (h : Nat → Int) : Nat → List Bool → Int
  | _, [] => 0
  | j, b :: t => (if b then h j else -(h j)) + firSum h (j + 1) t

/-- The decimator's output in Q1.23, clamped (R331). -/
def decimate (r : Nat) (bits : List Bool) : Int :=
  let s := firSum (sinc3Tap r) 0 (bits.take (3 * r - 2))
  let d := roundAway ((s : Rat) * (2 ^ 23 : Nat) / (r * r * r : Nat))
  if d > 8388607 then 8388607 else if d < -8388607 then -8388607 else d

/-- One comparator evaluation over the last 2M − 1 bits (R334): outside its window. -/
def ocOutside (w thr : Word) (bits : List Bool) : Bool :=
  let m := fld w 21 16
  let s : Rat := (firSum (sinc2Tap m) 0 (bits.take (2 * m - 1)) : Rat) / (m * m : Nat)
  let hi : Rat := (signed 16 (fld thr 15 0) : Rat) / 32768
  let lo : Rat := (signed 16 (fld thr 31 16) : Rat) / 32768
  decide (hi < s) || decide (s < lo)

/-- One more bit, oldest first, of a channel: comparator and counts. -/
def sdfBit (w thr : Word) (x : SdfCh) (b : Bool) : SdfCh :=
  let bits := (b :: x.bits).take 766
  let got := min 766 (x.got + 1)
  let out := decide (2 * fld w 21 16 - 1 ≤ got) && ocOutside w thr bits
  let run := if out then min 16 (x.ocRun + 1) else 0
  { x with
    bits := bits
    got := got
    ocRun := run
    asserted := if out then x.asserted || decide (fld w 27 24 + 1 ≤ run) else false }

/-- The bits since the last latch instant, oldest first, and whether the comparator asserted among them. -/
def sdfBits (w thr : Word) (x : SdfCh) (new : List Bool) : SdfCh × Bool :=
  new.foldl (fun (a : SdfCh × Bool) b =>
    let y := sdfBit w thr a.1 b
    (y, a.2 || (y.asserted && !a.1.asserted))) (x, false)

/-- The bank has raised OC in this frame (R339). -/
def ocNoted (c : Chip) (k : Nat) : Bool := (List.range 48).any (fun i => (sdfCh c (48 * k + i)).ocRaised)

/-- 0x81 stands no longer once no line of the bank is stuck (R333). -/
def stuckEnds (k : Nat) (c : Chip) : Chip :=
  if (List.range 48).any (fun i => (sdfCh c (48 * k + i)).stuck) then c else endCond (sdfPage k) 0x81 c

/-- A comparator runs: its channel is enabled, the SENSE clock runs and the page is not OFF (R334, R336). -/
def compares (c : Chip) (i : Nat) : Bool :=
  bit (sdfPort c i) (28 + i % 3) && !clkLost c .sense && (hdr c (sdfPage (i / 48))).state != .off

/-- The bits a channel has taken in since the last latch instant, then its decimator (R331, R334). An edge ends a stuck line (R333). -/
def sdfSample (i : Nat) (new : List Bool) (c : Chip) : Chip :=
  let w := sdfPort c i
  let p := sdfPage (i / 48)
  if !sdfOn c i then c
  else
    let x0 := sdfCh c i
    let (x1, rise) := sdfBits w (rd c p (0x084 + 16 * (i % 48 / 3))) x0 new
    let edge := match new with
      | [] => false
      | b :: _ => new.any (fun y => y != b) || (match x0.bits with | y :: _ => y != b | [] => false)
    let r := fld w 8 0
    let ok := decide (3 * r - 2 ≤ x1.got)
    let x2 := { x1 with
      d := if ok then decimate r x1.bits else 0
      valid := ok
      stuck := x1.stuck && !edge
      ocRaised := x1.ocRaised || rise }
    let c2 := raiseIf (rise && !ocNoted c (i / 48)) p 8 (setSdf i x2 c)
    if x0.stuck && edge then stuckEnds (i / 48) c2 else c2

/-- A channel's output as the loops read it: normalised to −1 to +1. -/
def sdfVal (c : Chip) (i : Nat) : Rat := ((sdfCh c i).d : Rat) / (2 ^ 23 : Nat)

/-- STUCK (R333): no edge for STUCK × 64 periods. -/
def stuckLine (i : Nat) (c : Chip) : Chip :=
  let k := i / 48
  let p := sdfPage k
  if actF c p 0x040 7 0 = 0 ∨ !sdfOn c i then c
  else
    let c1 := setSdf i { sdfCh c i with stuck := true } c
    let c2 := if bit (rd c1 p 0x048) 7 then c1 else wr p 0x048 (BitVec.ofNat 32 (0x80 + i % 48)) c1
    react (16 * k + i % 48 / 3) 5 0x81 (latchCond p 0x81 (raise p 9 c2))

/-- A change of OSR or CH_EN empties the channel's filter (R331). -/
def sdfRestart (i : Nat) (c : Chip) : Chip := setSdf i {} c

/-- The comparator of a channel asserts or releases between samples (R334). -/
def comparator (n x : Nat) (on : Bool) (c : Chip) : Chip :=
  let i := portCh n x
  if compares c i then
    let s := sdfCh c i
    raiseIf (on && !ocNoted c (i / 48)) (sdfPage (i / 48)) 8 (setSdf i { s with asserted := on, ocRaised := s.ocRaised || on } c)
  else c

/-- A comparator that runs asserts between two samples. -/
def comparatorTrip (n x : Nat) (c : Chip) : Chip :=
  if compares c (portCh n x) then ocTripOn n x (comparator n x true c) else c

/-- A new frame: OC can be raised again (R339). -/
def sdfKnot (c : Chip) : Chip :=
  each ((c.sdfs.filter (fun x => x.2.ocRaised)).map (·.1)) (fun i c => setSdf i { sdfCh c i with ocRaised := false } c) c

end Sys2Proof.Machine
end

