-- ==== Sys2Proof/Machine/BusOps.lean ====
section
/-!
DEFINITION. Bus groups (chapter 9, R227 to R236): the DC-link measurement, chopper, regeneration clamp and trips.
-/

namespace Sys2Proof.Machine

/-- The member axes of a group (R227). -/
def busMembers (c : Chip) (b : Nat) : List Nat := (List.range 128).filter (fun n => (busOf c (f128 n)).val == b)

/-- A member has torque on. -/
def busTorque (c : Chip) (b : Nat) : Bool :=
  c.axes.any (fun x => x.2.torque && isPhys x.1 && (busOf c (f128 x.1)).val == b)

/-- A voltage threshold in force: V_UV, V_BRK_OFF, V_BRK_ON, V_REGEN_CLAMP, V_TRIP for i = 0 to 4. -/
def busThr (c : Chip) (b i : Nat) : Rat := coefVal (act c (busPage b) (0x050 + 4 * i))

/-- The measured DC link; `none` for a lost measurement (R228). -/
def busMeasure (c : Chip) (b : Nat) : Option Rat :=
  let p := busPage b
  let src := actF c p 0x044 6 0
  let scale := coefVal (act c p 0x048)
  match rdF c p 0x040 1 0 with
  | 0 => if clkLost c .adc then none else (freshAin c src).map (· * scale)
  | 1 => if sdfOn c (portCh src 2) && (sdfCh c (portCh src 2)).valid && !(sdfCh c (portCh src 2)).stuck then some (sdfVal c (portCh src 2) * scale) else none
  | _ => some (coefVal (act c p 0x04C))

/-- Every member port trips as an external trip (R233). -/
def busTrip (b : Nat) (c : Chip) : Chip :=
  let x := busSt c b
  each (busMembers c b) (fun n c => if (modSt c n).ext then c else tripPort n none c) (setBus b { x with tripped := true } c)

/-- The class that prevails among faults detected together, and its code: the first of the order in R236 within that class. -/
def busPrevails : List (Byte × Nat) → Nat × Byte → Nat × Byte
  | [], best => best
  | (code, cls) :: t, best => busPrevails t (if clsRank best.1 < clsRank cls then (cls, code) else best)

/-- Faults of one sample, in the order of R236: each latches, those that trip trip the members, and each member takes the highest
class. -/
def busFaults (b : Nat) (fs : List (Byte × Nat)) (c : Chip) : Chip :=
  match fs with
  | [] => c
  | (code0, cls0) :: t =>
    let p := busPage b
    let c1 := each fs (fun f c =>
      let c' := latchFault p f.1 (modHdr p (fun h => { h with conds := if f.1 = 0x42 ∨ h.conds.contains f.1 then h.conds else f.1 :: h.conds }) c)
      setBus b { busSt c' b with latched := f.1 :: (busSt c' b).latched } c') c
    let c2 := if fs.any (fun f => f.1 == 0x44 || f.1 == 0x41 || f.1 == 0x43) then busTrip b c1 else c1
    let top := busPrevails t (cls0, code0)
    each (busMembers c2 b) (fun n c => react n top.1 top.2 c) c2

/-- The chopper command changes. -/
def chopSet (b : Nat) (on : Bool) (v : Rat) (c : Chip) : Chip :=
  let x := busSt c b
  if on == x.chopOn then c
  else
    raiseIf on (busPage b) 8 (setBus b { x with
      chopOn := on
      window := if on then some (c.clk.now, v) else none
      chopSince := c.clk.now
      chopTime := if on then x.chopTime else x.chopTime + (c.clk.now - x.chopSince) } c)

/-- The level of pin BRKb (R257): the chopper command of a configured group, low without the PWM clock. -/
def brkPin (c : Chip) (b : Nat) : Bool :=
  let x := busSt c b
  x.configured && x.chopOn && !clkLost c .pwm && (match (hdr c (busPage b)).state with
    | .run | .fault | .safe | .splicing => true
    | _ => false)

/-- The regeneration clamp changes (R232). -/
def clampSet (b : Nat) (on : Bool) (c : Chip) : Chip :=
  let x := busSt c b
  if on == x.clamp then c
  else raise (busPage b) (if on then 9 else 10) (setBus b { x with clamp := on } c)

/-- 0x42 latches: the command goes off and the clamp holds (R230, R232). -/
def chopFault (b : Nat) (c : Chip) : Chip :=
  let w := rd c (busPage b) 0x040
  clampSet b true (chopSet b false (busSt c b).v (busFaults b [(0x42, fld w 22 20)] c))

/-- BUS_GROUP_SAMPLE of a configured group (R228 to R236). -/
def busSampleOn (b : Nat) (c : Chip) : Chip :=
  let p := busPage b
  let w := rd c p 0x040
  let x := busSt c b
  match busMeasure c b with
  | none =>
    let c1 := setBus b { x with measOk := false } c
    if standing c p 0x44 then c1 else busFaults b [(0x44, 5)] c1
  | some v =>
    let uv := decide (v < busThr c b 0)
    let c1 := endCond p 0x44 (setBus b { x with measOk := true, v := v, vMax := maxRat x.vMax v, undervolt := uv } c)
    let c2 := raiseIf (uv && !x.undervolt) p 11 c1
    -- the chopper's window (R231)
    let stuck := match x.window with
      | some (t, v0) => x.chopOn && decide (t + 200000 ≤ c.clk.now) && decide (v0 - coefVal (act c p 0x064) < v)
      | none => false
    let c3 := match x.window with
      | some (t, _) => if t + 200000 ≤ c.clk.now then setBus b { busSt c2 b with window := some (c.clk.now, v) } c2 else c2
      | none => c2
    let trip := decide (busThr c b 4 ≤ v)
    let under := uv && busTorque c b
    let c4 := if v < busThr c b 3 then endCond p 0x41 c3 else c3
    let c5 := if under then c4 else endCond p 0x40 c4
    let fs : List (Byte × Nat) :=
      (if trip && !standing c5 p 0x41 then [(0x41, fld w 30 28)] else []) ++
      (if stuck then [(0x42, fld w 22 20)] else []) ++
      (if under && !standing c5 p 0x40 then [(0x40, fld w 18 16)] else [])
    let c6 := busFaults b fs c5
    let l := (busSt c6 b).latched
    let bad := l.contains 0x42
    let c7 := if busThr c b 3 ≤ v ∨ bad then clampSet b true c6 else if v ≤ busThr c b 2 then clampSet b false c6 else c6
    let off := bad || l.contains 0x40 || !bit w 8
    if off then chopSet b false v c7
    else if busThr c b 2 ≤ v then chopSet b true v c7
    else if v ≤ busThr c b 1 then chopSet b false v c7
    else c7

/-- The groups that a current sample concerns: those with a state, and those that an axis with torque on belongs to (R229). -/
def busNums (c : Chip) : List Nat :=
  mergeNums (c.buses.map (·.1)) ((c.axes.filter (fun a => a.2.torque && isPhys a.1)).map (fun a => (busOf c (f128 a.1)).val)).eraseDups

/-- One group at a current sample. A group that is not configured has lost its measurement while an axis has torque on (R229). -/
def busSample (b : Nat) (c : Chip) : Chip :=
  if (busSt c b).configured then busSampleOn b c
  else if !busTorque c b then endCond (busPage b) 0x44 c
  else if standing c (busPage b) 0x44 then c
  else busFaults b [(0x44, 5)] c

/-- BRKFB_TIMEOUT (R231). -/
def brkfbTimeout (b : Nat) (level : Bool) (c : Chip) : Chip :=
  let w := rd c (busPage b) 0x040
  let x := busSt c b
  let c1 := setBus b { x with brkfb := level } c
  if x.configured && bit w 11 && (level != bit w 12) != x.chopOn then chopFault b c1 else c1

/-- TRIP_IN (R235): a qualified edge on TRIPb at the active level. -/
def tripIn (b : Nat) (level : Bool) (held : Nat) (c : Chip) : Chip :=
  let p := busPage b
  let w := rd c p 0x040
  let x := busSt c b
  if !x.configured ∨ !bit w 9 ∨ level = bit w 10 ∨ held < actF c p 0x06C 7 0 ∨ x.tripIn then c
  else busFaults b [(0x43, fld w 26 24)] (raise p 13 (setBus b { x with tripIn := true } c))

def tripReleased (b : Nat) (c : Chip) : Chip :=
  endCond (busPage b) 0x43 (setBus b { busSt c b with tripIn := false } c)

/-- A clear of the BUS page is accepted: its latches end, and the members' EXT latches go at their next boundary (R261). -/
def busCleared (b : Nat) (c : Chip) : Chip :=
  let c1 := setBus b { busSt c b with latched := [], tripped := false, configured := false } c
  each (busMembers c1 b) (fun n c =>
    if (modSt c n).ext then atBoundary n (releaseTrips n) (modMod n (fun m => { m with extClear := true }) c) else c) c1

/-- The order of the thresholds, and CHOP_EN without a measurement (R229), on a chip with the candidate values in force. -/
def busThreshOk (c : Chip) (b : Nat) : Bool :=
  let w := rd c (busPage b) 0x040
  decide (busThr c b 0 < busThr c b 1) && decide (busThr c b 1 < busThr c b 2) && decide (busThr c b 2 < busThr c b 3) &&
  decide (busThr c b 3 < busThr c b 4) && !(bit w 8 && fld w 1 0 == 2)

end Sys2Proof.Machine
end

