-- ==== Sys2Proof/Machine/FbkOps.lean ====
section
/-!
DEFINITION. Feedback channels (chapter 11): quadrature, Hall, tooth, step and SSI counting, speed, index, losses and the switch input.
-/

namespace Sys2Proof.Machine

def fbkPage (n : Nat) : Page := .fbk (f128 n)

/-- The channel counts, samples and delivers (R270). -/
def fbkOn (c : Chip) (n : Nat) : Bool :=
  !clkLost c .sense && match (hdr c (fbkPage n)).state with
    | .ready | .run | .safe => true
    | .fault => (hdr c (fbkPage n)).en
    | _ => false

def fbkBit (c : Chip) (n i : Nat) : Bool := bit (act c (fbkPage n) 0x040) i

/-- A count wraps at ±2^39 (R273). -/
def wrapCount (k : Int) : Int := signed 40 (k % 2 ^ 40).toNat

/-! ### Loss (R275, R289) -/

/-- Feedback is declared lost: LOST, FB_LOST, the code, and REFERENCED where counts may be missing. -/
def fbkLose (n : Nat) (code : Byte) (c : Chip) : Chip :=
  let m := fbkMode c n
  let c1 := modFbk n (fun x => { x with lost := true, valid := false }) c
  let c2 := latchFault (fbkPage n) code (raise (fbkPage n) 9 c1)
  if 1 ≤ m ∧ m ≤ 3 then modAxis n (fun a => { a with referenced := false }) c2 else c2

/-! ### Counting -/

/-- The real time of an edge that is accepted now: that of its first sample, FILT samples of 10 ns with it (R271). -/
def edgeNow (c : Chip) (n : Nat) : Nat := (c.clk.now - 10 * actF c (fbkPage n) 0x040 11 8) / 10 * 10

/-- An illegal transition (R275, R278). -/
def fbkIllegal (n : Nat) (c : Chip) : Chip :=
  let p := fbkPage n
  let x := fbkSt c n
  let lim := actF c p 0x064 3 0 + 1
  let win := actF c p 0x064 31 16 * 1000
  let now := edgeNow c n
  let bad := (now :: x.bad).take lim
  let lost := decide (bad.length = lim) && decide (now ≤ bad.getLastD 0 + win)
  let c1 := setFbk n { x with bad := if lost then [] else bad, lastBad := some now, qerrRaised := true } c
  let c2 := cntWrap p 0x060 15 0 (raiseIf (!x.qerrRaised) p 8 c1)
  if lost then fbkLose n 0x60 c2 else c2

/-- An accepted edge moves the count and the speed's edge memory (R283): the first edge after an enable or a reversal becomes the
reference. -/
def fbkCount (n : Nat) (d : Int) (c : Chip) : Chip :=
  let x := fbkSt c n
  let k := wrapCount (x.count + d)
  let neg := decide (d < 0)
  let e := some (k, edgeNow c n)
  let fresh := x.ref.isNone || neg != x.neg
  setFbk n { x with count := k, neg := neg, ref := if fresh then e else x.ref, last := e, newEdges := true, standstill := false } c

/-- One quadrature transition (R274): +1 for 00, 10, 11, 01. -/
def quadStep (a b a' b' : Bool) : Option Int :=
  if a == a' && b == b' then some 0
  else if a != a' && b != b' then none
  else if a != a' then some (if a' != b then 1 else -1)
  else some (if b' == a then 1 else -1)

/-- The sector of a Hall code; `none` for an invalid one (R277). -/
def hallSector (c : Chip) (n : Nat) (u v w : Bool) : Option Nat :=
  let code := flag u 0 + flag v 1 + flag w 2
  let s := fld (act c (fbkPage n) 0x080) (3 * code + 2) (3 * code)
  if 6 ≤ s then none else some s

/-- ENCODER_EDGE (R274, R277, R278, R282): the accepted levels of F0 to F2. -/
def encoderEdge (n : Nat) (f0 f1 f2 : Bool) (c : Chip) : Chip :=
  let x := fbkSt c n
  let inv : Int := if fbkBit c n 4 then -1 else 1
  let c1 := setFbk n { x with f0 := f0, f1 := f1, f2 := if fbkMode c n = 2 ∨ (fbkMode c n = 1 ∧ !fbkBit c n 6) then f2 else x.f2 } c
  if !fbkOn c n ∨ x.halted then c1
  else
    match fbkMode c n with
    | 1 =>
      match quadStep x.f0 x.f1 f0 f1 with
      | some d => if d = 0 then c1 else fbkCount n (inv * d) c1
      | none => fbkIllegal n c1
    | 2 =>
      match hallSector c n f0 f1 f2, x.sector with
      | none, some _ => if hallSector c n x.f0 x.f1 x.f2 = none then c1 else fbkIllegal n c1
      | none, none => c1
      | some s, none => modFbk n (fun y => { y with sector := some s, valid := y.valid || !y.lost }) c1
      | some s, some s0 =>
        let c2 := modFbk n (fun y => { y with sector := some s }) c1
        if s = s0 then c2
        else if s = (s0 + 1) % 6 then fbkCount n 1 c2
        else if s0 = (s + 1) % 6 then fbkCount n (-1) c2
        else fbkIllegal n c2
    | 5 => if f0 && !x.f0 then fbkCount n (if f1 then -inv else inv) c1 else c1
    | _ => c1

/-- INDEX (R276): a rising edge of Z that its gate accepts. -/
def fbkIndex (n : Nat) (c : Chip) : Chip :=
  let x := fbkSt c n
  let p := fbkPage n
  let g := actF c p 0x040 13 12
  if fbkMode c n ≠ 1 ∨ fbkBit c n 6 ∨ !fbkOn c n ∨ (g % 2 = 1 ∧ !x.f0) ∨ (2 ≤ g ∧ !x.f1) then c
  else
    let c1 := wrPair p 0x074 (wrapQ ((x.count : Rat) + ofQ (rdPair c p 0x058))) c
    let c2 := wr p 0x07C (BitVec.ofNat 32 ((timeNs c - 10 * actF c p 0x040 11 8) / 10 * 10 % 1000000000)) c1
    raise p 10 (wr p 0x070 (BitVec.ofNat 32 ((rdF c2 p 0x070 15 0 + 1) % 65536 + 65536)) c2)

/-! ### Tooth wheel (R279 to R281) -/

/-- The direction of a tooth: true = down. -/
def toothDown (c : Chip) (n : Nat) (f1 : Bool) : Bool :=
  match actF c (fbkPage n) 0x040 17 16 with
  | 0 => false
  | 1 => f1
  | _ => decide ((axis c n).cur.v < 0)

/-- The reference of a revolution: SEARCH to CHECK, CHECK to SYNC, or a loss (Table 11-2). `teeth` are the counted teeth since the last. -/
def toothRef (n teeth : Nat) (e : Nat) (c : Chip) : Chip :=
  let x := fbkSt c n
  let whole := decide (x.count % ((actF c (fbkPage n) 0x084 11 0 : Nat) : Int) = 0)
  match x.tooth with
  | .search => setFbk n { x with tooth := .check, count := 0, teeth := 0, ref := none, last := none, newEdges := false } c
  | .check =>
    if teeth = e then raise (fbkPage n) 13 (setFbk n { x with tooth := .sync, teeth := 0, valid := x.valid || !x.lost } c)
    else setFbk n { x with teeth := 0, count := 0, ref := none, last := none, newEdges := false } c
  | .sync =>
    if teeth = e ∧ whole then setFbk n { x with teeth := 0 } c
    else fbkLose n 0x62 (setFbk n { x with tooth := .search, teeth := 0 } c)

/-- TOOTH_EDGE (R280, R281). -/
def toothEdge (n : Nat) (f1 : Bool) (c : Chip) : Chip :=
  let x := fbkSt c n
  if fbkMode c n ≠ 3 ∨ !fbkOn c n ∨ x.halted then c
  else
    let p := fbkPage n
    let w := act c p 0x084
    let missing := fld w 15 12
    let g : Rat := (fld w 23 16 : Rat) / 16
    let now := edgeNow c n
    let down := toothDown c n f1
    let ratio : Option Rat := match x.t1, x.t2 with
      | some a, some b => if b < a then some (((now - a : Nat) : Rat) / ((a - b : Nat) : Rat)) else none
      | _, _ => none
    let isMissing := missing != 0 && (match ratio with | some r => decide (g ≤ r) | none => false)
    let isExtra := missing == 0 && (match ratio with | some r => decide (r * g ≤ 1) | none => false)
    let e := fld w 11 0 - missing
    let searching := x.tooth == .search
    if isExtra then toothRef n x.teeth e c
    else
      let jump : Int := if isMissing then ((missing + 1 : Nat) : Int) else 1
      let c1 := setFbk n { x with t1 := some now, t2 := x.t1, teeth := x.teeth + 1, f1 := f1 } c
      let c2 := if searching then c1 else fbkCount n (if down then -jump else jump) c1
      if isMissing then toothRef n (x.teeth + 1) e c2
      else if x.tooth = .sync ∧ (if missing = 0 then e < x.teeth + 1 else e ≤ x.teeth + 1) then
        fbkLose n 0x62 (modFbk n (fun y => { y with tooth := .search, teeth := 0, count := x.count }) c2)
      else c2

/-! ### SSI (R284 to R288) -/

/-- Gray code to binary. -/
def grayToBin : Nat → Nat → Nat
  | 0, g => g
  | k + 1, g => g ^^^ grayToBin k (g / 2)

/-- The CRC of Table 11-3 over bits, most significant first. -/
def ssiCrc (n poly : Nat) (bits : List Bool) : Nat :=
  bits.foldl (fun r b =>
    let top := (r / 2 ^ (n - 1)) % 2 = 1
    let s := (r * 2) % 2 ^ n
    if top != b then s ^^^ (poly % 2 ^ n) else s) 0

/-- The kinds of SSI error, by the byte of FBK_SSI_CNT that counts them. -/
inductive SsiErr where
  | crc
  | errorBit
  | busy
  | timeout
deriving DecidableEq, Repr

def SsiErr.byte : SsiErr → Nat
  | .crc => 0 | .errorBit => 1 | .busy => 2 | .timeout => 3

/-- An errored read (R285, R286). -/
def ssiError (n : Nat) (e : SsiErr) (c : Chip) : Chip :=
  let p := fbkPage n
  let x := fbkSt c n
  let run := x.errRun + 1
  let c1 := raise p 11 (cntSat p 0x0A4 (8 * e.byte + 7) (8 * e.byte) (setFbk n { x with errRun := min 15 run, lastOk := false } c))
  if run = actF c p 0x094 27 24 then fbkLose n (match e with | .crc | .errorBit => 0x63 | _ => 0x64) c1 else c1

/-- SSI_READ_START (R284): the clock falls at t_0, with the data line's level there. -/
def ssiReadStart (n : Nat) (data : Bool) (c : Chip) : Chip :=
  if fbkMode c n ≠ 4 ∨ !fbkOn c n ∨ (fbkSt c n).halted then c
  else modFbk n (fun x => { x with reading := some (c.clk.now, data), idleDue := none }) c

/-- The error of a received word, if any (Table 11-3, checks 1 to 4; a late idle of the word before counts here). -/
def ssiCheck (c : Chip) (n : Nat) (word : BitVec 48) (data started : Bool) : Option SsiErr :=
  let p := fbkPage n
  let f := act c p 0x088
  let g := act c p 0x08C
  let nb := fld f 5 0
  let kc := fld f 27 24
  let bits := (List.range nb).map (fun i => word.getLsbD (nb - 1 - i))
  let crc := ssiCrc kc (fld g 23 16) (bits.take (nb - kc))
  let want := if bit g 24 then 2 ^ kc - 1 - crc else crc
  if !data then some .busy
  else if !started then some .timeout
  else if kc ≠ 0 ∧ word.toNat % 2 ^ kc ≠ want then some .crc
  else if bit g 6 ∧ word.getLsbD (fld g 5 0) ≠ bit g 7 then some .errorBit
  else if (fbkSt c n).lateIdle then some .timeout
  else none

/-- A good word (R287). -/
def ssiGood (n t0 : Nat) (word : BitVec 48) (c : Chip) : Chip :=
  let p := fbkPage n
  let f := act c p 0x088
  let g := act c p 0x08C
  let x := fbkSt c n
  let nb := fld f 21 16
  let raw := (word.toNat >>> fld f 13 8) % 2 ^ nb
  let pos := if fbkBit c n 19 then grayToBin 48 raw else raw
  let warn := bit g 14 && word.getLsbD (fld g 13 8) != bit g 15
  let y : FbkSt := match x.field with
    | none => { x with count := if fbkBit c n 20 then wrapCount (pos : Int) else 0, ssiVel := 0, wordSince := t0 }
    | some q =>
      let d := signed nb ((pos + 2 ^ nb - q) % 2 ^ nb)
      { x with
        count := wrapCount (x.count + d)
        ssiVel := if x.t0 < t0 then q24 ((d : Rat) * 1000000000 / ((t0 - x.t0 : Nat) : Rat)) else x.ssiVel
        neg := if d = 0 then x.neg else decide (d < 0)
        wordSince := if d = 0 then x.wordSince else t0 }
  let c1 := setFbk n { y with field := some pos, t0 := t0, errRun := 0, lastOk := true, valid := x.valid || !x.lost, ssiWarn := warn } c
  raiseIf (warn && !x.ssiWarn) p 12 c1

/-- SSI_WORD (R285 to R287): the word of the read in progress. -/
def ssiWord (n : Nat) (word : BitVec 48) (started : Bool) (rtt : BitVec 16) (c : Chip) : Chip :=
  let p := fbkPage n
  match (fbkSt c n).reading with
  | none => c
  | some (t0, data) =>
    let err := ssiCheck c n word data started
    let c1 := modFbk n (fun x => { x with
      reading := none
      word := word
      lateIdle := false
      idleDue := some (c.clk.now + 1000 * actF c p 0x094 15 0) }) c
    let c2 := wr p 0x0A0 (rtt.setWidth 32) c1
    match err with
    | some e => ssiError n e c2
    | none => ssiGood n t0 word c2

/-- SSI_IDLE_TIMEOUT (R285): the line is still low; the word has been used, so it is an error of the next read. -/
def ssiIdleTimeout (n : Nat) (c : Chip) : Chip :=
  let x := fbkSt c n
  match x.idleDue with
  | some t => if t ≤ c.clk.now then setFbk n { x with lateIdle := true, idleDue := none } c else c
  | none => c

/-- T_ssi in ns (R284), on the values in force. -/
def ssiTime (c : Chip) (n : Nat) : Nat :=
  let p := fbkPage n
  let w := act c p 0x090
  actF c p 0x088 5 0 * fld w 9 0 * 10 + (if fbkBit c n 7 then rdF c p 0x0A0 15 0 * 10 else fld w 25 16 * 10)

/-- The read interval admits the read (R288). -/
def ssiFits (c : Chip) (n : Nat) : Bool :=
  fbkMode c n != 4 ||
    decide (((ssiTime c n + 100 + actF c (fbkPage n) 0x094 23 16 * 1000 : Nat) : Rat) ≤ (if fbkBit c n 18 then sampleLen c else (periodNs c : Rat)))

/-! ### Latch instants (R272, R283) -/

/-- The speed at a latch instant, in counts/s, and STANDSTILL. -/
def fbkSpeed (c : Chip) (n : Nat) : Rat × Bool :=
  let x := fbkSt c n
  let now := c.clk.now
  let still := actF c (fbkPage n) 0x068 15 0 * 1000
  if fbkMode c n = 4 then (x.ssiVel, decide (x.wordSince + still ≤ now))
  else
    match x.ref, x.last with
    | some (cr, tr), some (ce, te) =>
      if x.newEdges then
        (if tr < te then q24 ((wrapCount (ce - cr) : Rat) * 1000000000 / ((te - tr : Nat) : Rat)) else 0, false)
      else if te + still ≤ now then (0, true)
      else
        let v : Rat := q24 (1000000000 / ((now - te : Nat) : Rat))
        if v < absRat x.vel then (if x.neg then -v else v, false) else (x.vel, false)
    | _, _ => (0, true)

/-- The position delivered: count + FBK_OFS, extrapolated in SSI mode (R272, R273, R287). -/
def fbkPos (c : Chip) (n : Nat) (read : Bool) : Rat :=
  let x := fbkSt c n
  let ofs := ofQ (rdPair c (fbkPage n) 0x058)
  let ext : Rat :=
    if fbkMode c n = 4 ∧ (fbkBit c n 5 ∨ !read ∨ !x.lastOk) then q24 (x.ssiVel * ((c.clk.now - x.t0 : Nat) : Rat) / 1000000000) else 0
  wrapPos ((x.count : Rat) + ofs + ext)

/-- The device time of a latch instant: a frame knot, or the current sample of this frame that is due (R18). -/
def latchNs (c : Chip) (knot : Bool) : Rat :=
  if clkLost c .time then timeNs c
  else if knot then c.tim.nextKnot
  else (knotNs c : Rat) + sampleNs c * (c.tim.sampleIdx : Rat)

/-- One channel at a latch instant; `knot` at a frame knot. -/
def fbkLatch (n : Nat) (knot : Bool) (c : Chip) : Chip :=
  let m := fbkMode c n
  let x0 := fbkSt c n
  if !fbkOn c n ∨ m = 0 then (if x0.valid then modFbk n (fun x => { x with valid := false }) c else c)
  else if x0.halted then c
  else
    -- the first latch instant after the enable
    let c1 := if x0.fresh then
        let c' := modFbk n (fun x => { x with fresh := false, valid := if (m = 1 ∨ m = 5) then !x.lost else x.valid }) c
        if (hdr c' (fbkPage n)).state = .ready then setState (fbkPage n) .run c' else c'
      else c
    let x := fbkSt c1 n
    let c2 := if m = 2 then
        match hallSector c1 n x.f0 x.f1 x.f2 with
        | some s => setFbk n { x with sector := some (x.sector.getD s), valid := x.valid || !x.lost, badKnots := if knot then 0 else x.badKnots } c1
        | none =>
          if knot then
            let k := x.badKnots + 1
            let c' := setFbk n { x with badKnots := min 2 k } c1
            if k = 2 then fbkLose n 0x61 c' else c'
          else c1
      else c1
    let v := fbkSpeed c2 n
    let p := fbkPos c2 n (knot || fbkBit c2 n 18)
    let y := fbkSt c2 n
    let z : FbkSt := { y with
      pos := p
      hist := ((latchNs c2 knot, p, v.1) :: y.hist).take 64
      vel := v.1
      standstill := v.2
      ref := if y.newEdges then y.last else y.ref
      newEdges := false }
    if knot then
      wrPair (fbkPage n) 0x050 (satQ v.1) (wrPair (fbkPage n) 0x048 (wrapQ p) (setFbk n { z with posK := p, velK := v.1, qerrRaised := false } c2))
    else setFbk n z c2

/-- The channels that a latch instant concerns: every page that is not at its reset state, and every channel with a state. -/
def fbkNums (c : Chip) : List Nat := mergeNums (listed c 0x220 128) (c.fbks.map (·.1))

/-- A change of MODE, or EN = 1 (R270): the count is 0 and VALID 0; the pin levels stand. -/
def fbkRestart (n : Nat) (c : Chip) : Chip :=
  let x := fbkSt c n
  setFbk n { f0 := x.f0, f1 := x.f1, f2 := x.f2, halted := x.halted } c

/-- The condition of R290 for a clear of the FBK code. -/
def fbkClearOk (c : Chip) (n : Nat) : Bool :=
  let x := fbkSt c n
  let quiet := match x.lastBad with
    | some t => decide (t + actF c (fbkPage n) 0x064 31 16 * 1000 < c.clk.now)
    | none => true
  match fbkMode c n with
  | 1 => quiet
  | 2 => quiet && x.badKnots == 0 && (hallSector c n x.f0 x.f1 x.f2).isSome
  | 3 => x.tooth == .sync
  | 4 => x.lastOk
  | _ => true

/-- An accepted clear sets VALID and clears LOST. -/
def fbkCleared (n : Nat) (c : Chip) : Chip :=
  modFbk n (fun x => { x with lost := false, valid := x.valid || x.lost }) c

/-- F2_EDGE (R291): a switch level that has held for F2_DEB µs. -/
def f2Edge (n : Nat) (level : Bool) (held : Nat) (c : Chip) : Chip :=
  let m := fbkMode c n
  let switch := m != 2 && (m != 1 || fbkBit c n 6)
  if !switch ∨ !fbkOn c n ∨ held < actF c (fbkPage n) 0x06C 15 0 ∨ (fbkSt c n).f2 = level then c
  else raise (fbkPage n) 14 (modFbk n (fun x => { x with f2 := level }) c)

end Sys2Proof.Machine
end

