-- ==== Sys2Proof/Machine/PortOps.lean ====
section
/-!
DEFINITION. Line ports (R68 to R73): the port's page and state, its gate control list, and its egress queues.
-/

namespace Sys2Proof.Machine

def netPage (p : Nat) : Page := .net (Fin.ofNat 4 p)

def netPort (c : Chip) (p : Nat) : NetPort := tabGet {} c.net.ports p

def setPort (p : Nat) (x : NetPort) (c : Chip) : Chip := { c with net := { c.net with ports := tabSet {} c.net.ports p x } }

def modPort (p : Nat) (f : NetPort → NetPort) (c : Chip) : Chip := setPort p (f (netPort c p)) c

/-- The port's page and its clocks run (R12). -/
def netUp (c : Chip) (p : Nat) : Bool :=
  isUp c (netPage p) && !clkLost c .netTx && !clkLost c (.netRx (Fin.ofNat 4 p))

/-! ### Gate control lists (R72, R73). Times within a cycle are offsets in ns from its start. -/

def gclEn (c : Chip) (p : Nat) : Bool := bit (rd c (netPage p) 0x100) 0

def gclCycle (c : Chip) (p : Nat) : Nat := max 1 (actF c (netPage p) 0x108 29 0)

def gclBaseNs (w : Nat → Word) : Nat :=
  (fld (w 0x114) 15 0 * 2 ^ 32 + (w 0x110).toNat) * 1000000000 + fld (w 0x10C) 29 0

/-- The intervals of the list in force: gates and end offset, cut at the cycle end; the last one holds until then, and one that the cut
leaves no time is none (R72). -/
def gclList (c : Chip) (p : Nat) : List (Byte × Nat) :=
  let g := netPage p
  let n := actF c g 0x104 6 0
  let cyc := gclCycle c p
  ((List.range n).foldl (fun (acc : List (Byte × Nat) × Nat) i =>
    let e := if i + 1 = n then cyc else min cyc (acc.2 + actF c g (0x204 + 8 * i) 23 0)
    if acc.2 = e then acc else (acc.1 ++ [(BitVec.ofNat 8 (actF c g (0x200 + 8 * i) 7 0), e)], e)) ([], 0)).1

/-- The cycle start of the base's grid at or before a time. -/
def cycleStart (base cyc t : Nat) : Nat :=
  if base ≤ t then base + (t - base) / cyc * cyc else base - (base - t + cyc - 1) / cyc * cyc

/-- The list begins afresh at the present time: cycle start and entry. -/
def gclStart (p : Nat) (c : Chip) : Chip :=
  let t := timeNs c
  let st := cycleStart (gclBaseNs (act c (netPage p))) (gclCycle c p) t
  let i := ((gclList c p).filter (fun x => decide (x.2 ≤ t - st))).length
  modPort p (fun x => { x with gclIdx := i, gclSince := st, gclRephase := none }) c

/-- A time-base step of `d` ns, the time already stepped: the running cycle goes on in its old phase until the next cycle start of the
new time (R73). -/
def gclStep (d : Int) (c : Chip) : Chip :=
  each (List.range 4) (fun p c =>
    let cyc := gclCycle c p
    let next := cycleStart (gclBaseNs (act c (netPage p))) cyc (timeNs c) + cyc
    modPort p (fun x => { x with gclSince := ((x.gclSince : Int) + d).toNat, gclRephase := some next }) c) c

/-- GCL_ENTRY_CHANGE (R72): the interval ends and the next gate set opens; at the cycle end the list starts again on the base's grid,
or goes on in its old phase while a step of the time waits for the next cycle start (R73). -/
def gclEntryChange (p : Nat) (c : Chip) : Chip :=
  let x := netPort c p
  let t := timeNs c
  let l := gclList c p
  let e := x.gclSince + ((l[x.gclIdx]?).map (·.2)).getD (gclCycle c p)
  let stepped : Bool := match x.gclRephase with | some r => decide (r ≤ t) | none => false
  if !(gclEn c p && isUp c (netPage p)) then c
  else if stepped then gclStart p c
  else if t < e then c
  else if x.gclSince + gclCycle c p ≤ e then
    (if x.gclRephase.isSome then setPort p { x with gclIdx := 0, gclSince := x.gclSince + gclCycle c p } c else gclStart p c)
  else setPort p { x with gclIdx := x.gclIdx + 1 } c

/-- Queue q's gate. -/
def gateOpen (c : Chip) (p q : Nat) : Bool :=
  !gclEn c p || (((gclList c p)[(netPort c p).gclIdx]?).map (fun x => bit x.1 q)).getD true

/-- The time from now until queue q's gate closes, over at most the entries of one cycle; `none` = it does not close. -/
def gateTime (c : Chip) (p q : Nat) : Option Nat :=
  if !gclEn c p then none
  else
    let x := netPort c p
    let l := gclList c p
    let cyc := gclCycle c p
    let t := timeNs c - x.gclSince
    let ahead := (l.drop x.gclIdx) ++ (l.take x.gclIdx).map (fun y => (y.1, y.2 + cyc))
    if ahead.all (fun y => bit y.1 q) then none
    else
      let open_ := ahead.takeWhile (fun y => bit y.1 q)
      some ((open_.getLast?.map (·.2)).getD t - t)

/-- The guard band of R72: the frame with its preamble and inter-frame gap completes before the gate closes. -/
def frameFits (c : Chip) (p q len : Nat) : Bool :=
  gateOpen c p q && match gateTime c p q with
    | none => true
    | some t => decide ((len + 20) * 8 ≤ t)

/-- The apply point of a requested list (R73): the first cycle start at or after GCL_BASE, or after the request where that has passed. -/
def gclRequest (p : Nat) (c : Chip) : Chip :=
  let base := gclBaseNs (rd c (netPage p))
  let cyc := max 1 (rdF c (netPage p) 0x108 29 0)
  let t := timeNs c
  modPort p (fun x => { x with gclAt := if t ≤ base then base else base + ((t - base) / cyc + 1) * cyc }) c

/-- The list is refused (R73). -/
def gclBad (c : Chip) (p : Nat) : Bool :=
  let g := netPage p
  let n := rdF c g 0x104 6 0
  let cyc := rdF c g 0x108 29 0
  n == 0 || decide (64 < n) || decide (cyc < 1000) || decide (999999999 < cyc) ||
  (List.range (min n 64)).any (fun i => rdF c g (0x204 + 8 * i) 23 0 == 0)

/-! ### Egress queues (R69, R71) -/

def mapQueue (c : Chip) (p : Nat) (f : EthFrame) : Nat :=
  let k := match f.pcp with | some k => k.val | none => 0
  rdF c (netPage p) 0x058 (3 * k + 2) (3 * k)

def queueOf (c : Chip) (p q : Nat) : List EthFrame := tabGet [] (netPort c p).queues q

def setQueue (p q : Nat) (l : List EthFrame) (c : Chip) : Chip :=
  modPort p (fun x => { x with queues := tabSet [] x.queues q l }) c

/-- The 512 KiB network buffer (R69). -/
def netBufBytes : Nat := 524288

/-- A frame enters an egress queue, or is dropped and counted when the network buffer has no room (R69). Frames for a port whose link is
down or whose page is off queue like any other and hold their room. DESIGN CHOICE, log entry 158. -/
def netEnqueue (p q : Nat) (f : EthFrame) (c : Chip) : Chip :=
  if netBufBytes < c.net.bufUsed + f.len then cntWrap (netPage p) 0x06C 31 0 c
  else setQueue p q (queueOf c p q ++ [f]) { c with net := { c.net with bufUsed := c.net.bufUsed + f.len } }

/-- The frames of a port's queues are gone, and their room is free again. -/
def dropQueues (p : Nat) (c : Chip) : Chip :=
  let n := ((List.range 8).flatMap (queueOf c p)).foldl (fun s f => s + f.len) 0
  modPort p (fun x => { x with queues := [] }) { c with net := { c.net with bufUsed := c.net.bufUsed - n } }

end Sys2Proof.Machine
end

