-- ==== Sys2Proof/Machine/TrcOps.lean ====
section
/-!
DEFINITION. Trace records, staging and the coil (R384 to R389, R392, R395).
-/

namespace Sys2Proof.Machine

/-- Bytes of a record: header and words, rounded up to 8 (Table 16-2). -/
def recBytes (r : TrcRec) : Nat := (16 + 4 * r.words.length + 7) / 8 * 8

/-- The bytes of a record as written (Table 16-2). -/
def recData (r : TrcRec) : List Byte :=
  let h0 : Nat := r.typ + recBytes r / 8 * 256 + r.seq.toNat * 65536
  let ws : List Nat := [h0, r.time.ns, r.time.s % 2 ^ 32, r.time.s / 2 ^ 32 % 65536 + r.time.frac * 65536] ++ r.words.map (·.toNat)
  let bs := ws.flatMap (toBytes 4)
  bs ++ List.replicate (recBytes r - bs.length) 0

/-- 512 KiB of staging, of which 32 bytes stay free for a GAP (R387). -/
def stagingBytes : Nat := 524288

def stagedBytes (t : TrcSt) : Nat := (t.staged.map recBytes).foldl (· + ·) 0

def trcRunning (t : TrcSt) : Bool := t.state == .running || t.state == .post

def modTrc (f : TrcSt → TrcSt) (c : Chip) : Chip := { c with trc := f c.trc }

/-- A record with the next RSEQ. -/
def takeSeq (typ : Nat) (time : Stamp) (words : List Word) (t : TrcSt) : TrcRec × TrcSt :=
  ({ typ := typ, seq := t.rseq, time := time, words := words }, { t with rseq := t.rseq + 1 })

/-- A loss merges into the pending GAP (R387). -/
def noteLoss (reason : Nat) (time : Stamp) (t : TrcSt) : TrcSt :=
  { t with
    lost := t.lost + 1
    gap := some (match t.gap with
      | some g => { g with count := g.count + 1, last := time }
      | none => { count := 1, reason := reason, first := time, last := time }) }

/-- Words 4 on of a GAP (Table 16-2). -/
def gapWords (g : TrcGap) : List Word :=
  [if g.unknown then 0xFFFFFFFF else BitVec.ofNat 32 g.count, BitVec.ofNat 32 g.reason, BitVec.ofNat 32 g.last.ns, BitVec.ofNat 32 g.last.s]

/-- A record that already has its RSEQ enters staging, after the pending GAP where both fit, or is lost (R387). -/
def stageRec (reason : Nat) (r : TrcRec) (t : TrcSt) : TrcSt × Bool :=
  let used := stagedBytes t
  match t.gap with
  | none =>
    if used + recBytes r + 32 ≤ stagingBytes then ({ t with staged := t.staged ++ [r], written := t.written + 1 }, true)
    else (noteLoss reason r.time t, false)
  | some g =>
    if used + 32 + recBytes r + 32 ≤ stagingBytes then
      -- the GAP takes the RSEQ of the record it precedes, and the record the next one
      let gr : TrcRec := { typ := 3, seq := r.seq, time := g.first, words := gapWords g }
      ({ t with staged := t.staged ++ [gr, { r with seq := r.seq + 1 }], rseq := t.rseq + 1, gap := none, written := t.written + 2 }, true)
    else (noteLoss reason r.time t, false)

/-- The reason of a loss: backpressure, or MEM while a DRAM coil has no memory (R395). -/
def lossReason (c : Chip) : Nat :=
  if bit (act c .trc 0x040) 0 && !dramUp c then 6 else 1

/-- Forms a record and stages it (R384, R387); GAP is raised when a GAP is formed. -/
def formRecord (typ : Nat) (time : Stamp) (words : List Word) (c : Chip) : Chip :=
  let r := takeSeq typ time words c.trc
  let had := r.2.gap.isSome
  let x := stageRec (lossReason c) r.1 r.2
  raiseIf (had && x.1.gap.isNone) .trc 9 { c with trc := x.1 }

/-- The STOP record that has been formed enters staging, at once or at a later frame knot when staging has room (R389). -/
def stopStage (c : Chip) : Chip :=
  match c.trc.stopRec with
  | none => c
  | some r =>
    let t := { c.trc with stopRec := none }
    let x := stageRec (lossReason c) r t
    if x.2 then raiseIf (t.gap.isSome && x.1.gap.isNone) .trc 9 { c with trc := x.1 } else c

/-- The end of a WINDOW without REARM, and of TRACE_STOP: STOP is formed and STATE is STOPPED (R389, R392). -/
def trcStop (c : Chip) : Chip :=
  let r := takeSeq 7 (nsStamp (timeNs c)) [BitVec.ofNat 32 c.trc.written, 0] c.trc
  stopStage { c with trc := { r.2 with state := .stopped, window := [], insts := [], postLeft := 0, stopRec := some r.1, stopCount := c.trc.written } }

/-- `n` records counted against POST (R392): a record, or the GAP before it too. -/
def countPost (n : Nat) (c : Chip) : Chip :=
  if c.trc.state ≠ .post then c
  else if n < c.trc.postLeft then modTrc (fun t => { t with postLeft := t.postLeft - n }) c
  else if bit (act c .trc 0x040) 2 then modTrc (fun t => { t with state := .running, postLeft := 0 }) c
  else raise .trc 12 (trcStop c)

/-- A DATA or MARK record in its mode (R392): STREAM writes it; WINDOW keeps the newest PRE DATA records until the trigger. -/
def emitRecord (typ : Nat) (time : Stamp) (words : List Word) (c : Chip) : Chip :=
  if !trcRunning c.trc then c
  else if bit (act c .trc 0x040) 1 && c.trc.state == .running then
    let r := takeSeq typ time words c.trc
    let pre := actF c .trc 0x080 11 0
    if typ = 1 then
      let w := r.2.window ++ [r.1]
      { c with trc := { r.2 with window := w.drop (w.length - pre) } }
    else { c with trc := r.2 }
  else
    let c1 := formRecord typ time words c
    countPost (if c.trc.gap.isSome && c1.trc.gap.isNone then 2 else 1) c1

/-- MARK records that waited for the DATA record of their instant (R385). -/
def flushMarks (c : Chip) : Chip :=
  each c.trc.marks (fun m c => emitRecord 2 m.1 [m.2, 0] c) (modTrc (fun t => { t with marks := [] }) c)

/-- A MARK record (R385): SRC, knot or axis, compare unit, SEQ or value. At a frame knot it follows the DATA record of sample 0. -/
def trcMarkRec (src idx unit : Nat) (v : BitVec 16) (time : Stamp) (c : Chip) : Chip :=
  if !trcRunning c.trc ∨ c.trc.halted then c
  else
    let w : Word := BitVec.ofNat 32 (src + idx * 16 + unit * 4096 + v.toNat * 65536)
    let c1 := if c.tim.sampleIdx = 0 then modTrc (fun t => { t with marks := t.marks ++ [(time, w)] }) c else emitRecord 2 time [w, 0] c
    if src = 1 then modTrc (fun t => { t with mark17 := some (stampNs time) }) c1
    else if src = 2 then modTrc (fun t => { t with mark18 := some (stampNs time) }) c1
    else c1

/-- The sequencer enters a state (R391): its marked counters are cleared and its marked timers restart. -/
def seqEnter (st : Nat) (c : Chip) : Chip :=
  let w := act c .trc (0x0C0 + 4 * st)
  let upd (t : TrcSt) (i : Nat) : TrcSt :=
    { t with
      counters := if bit w (20 + i) then tabSet 0 t.counters i 0 else t.counters
      timers := if bit w (22 + i) then tabSet 0 t.timers i (c.clk.now + 1) else t.timers
      timerExp := if bit w (22 + i) then t.timerExp &&& ~~~(1#2 <<< i) else t.timerExp }
  modTrc (fun t => { upd (upd t 0) 1 with seqState := st }) c

/-! ### The coil (R386 to R388) -/

/-- Bytes unread in the coil. -/
def coilUsed (t : TrcSt) : Nat := (t.wp + t.size - t.rp) % t.size

/-- The coil's size in force. -/
def coilBase (c : Chip) : Nat := (rdPair c .trc 0x048).toNat

/-- Whether a DRAM coil can be written now. -/
def coilReady (c : Chip) : Bool :=
  !bit (act c .trc 0x040) 0 || (dramUp c && decide (coilBase c + c.trc.size ≤ dramBytes c))

/-- Bytes written at a coil offset: to DRAM, or to host memory. -/
def coilBytes (off : Nat) (bs : List Byte) (s : State) : State :=
  if bit (act s.chip .trc 0x040) 0 then writeBytes .dram (coilBase s.chip + off) bs s else onChip (emit (.coil off bs)) s

/-- A record written at WP, which then advances; WP at the size wraps to 0. -/
def coilPut (r : TrcRec) (s : State) : State :=
  let t := s.chip.trc
  let s1 := coilBytes t.wp (recData r) s
  onChip (fun c =>
    let t := c.trc
    let n := t.wp + recBytes r
    let t1 := { t with
      wp := if t.size ≤ n then 0 else n
      unread := t.unread ++ [(t.wp, recBytes r, r.time)]
      cnt := t.cnt + 1
      lastTime := stampNs r.time }
    let used := coilUsed t1
    let wm := rdF c .trc 0x05C 29 12 * 4096
    let high := decide (wm ≠ 0 ∧ wm ≤ used)
    raiseIf (high && !t.wmarkHigh) .trc 15 { c with trc := { t1 with wmarkHigh := high } }) s1

/-- WP wraps to 0; a held size applies: records beyond it are discarded and the first record at 0 is a GAP with REASON RESIZE (R388). -/
def coilWrap (s : State) : State :=
  let t := s.chip.trc
  match t.resize with
  | none => onChip (modTrc (fun t => { t with wp := 0 })) s
  | some n =>
    let gone := t.unread.filter (fun u => decide (n ≤ u.1))
    let first := match gone with | u :: _ => u.2.2 | [] => nsStamp (timeNs s.chip)
    let last := match gone.getLast? with | some u => u.2.2 | none => first
    let g : TrcGap := { count := gone.length, reason := 2, first := first, last := last }
    let s1 := onChip (fun c => raise .trc 10 (wr .trc 0x050 (BitVec.ofNat 32 n) (modTrc (fun t => { t with
      wp := 0
      rp := 0
      size := n
      resize := none
      unread := []
      wmarkHigh := false
      rseq := t.rseq + 1 }) c))) s
    coilPut { typ := 3, seq := t.rseq, time := first, words := gapWords g } s1

/-- The oldest staged record is written to the coil once it has room (R386). -/
def coilWrite (s : State) : State :=
  let t := s.chip.trc
  match t.staged with
  | [] => s
  | r :: rest =>
    if !coilReady s.chip then s
    else
      let n := recBytes r
      let pad := if t.size < t.wp + n then t.size - t.wp else 0
      if t.size < coilUsed t + pad + n + 8 then s
      else
        let s1 := onChip (modTrc (fun t => { t with staged := rest })) s
        let s2 :=
          if pad = 0 then s1
          else coilWrap (coilBytes t.wp (toBytes 4 (5 + pad / 8 * 256) ++ List.replicate (pad - 4) 0) s1)
        let s3 := coilPut r s2
        -- a record that ends at the end of the coil wraps too
        if pad = 0 ∧ t.wp + n = t.size ∧ t.resize.isSome then coilWrap s3 else s3

/-- A write of TRC_RP (R386): refused at or beyond the size, or past what has been written. -/
def coilRelease (v : Nat) (c : Chip) : Chip :=
  let t := c.trc
  let used := coilUsed t
  let dist := (v + t.size - t.rp) % t.size
  if t.size ≤ v ∨ used < dist then raise .trc 11 c
  else
    let keep := t.unread.filter (fun u => decide (dist ≤ (u.1 + t.size - t.rp) % t.size ∧ dist ≠ 0) || decide (dist = 0))
    let t1 := { t with rp := v, unread := keep }
    let wm := rdF c .trc 0x05C 29 12 * 4096
    { c with trc := { t1 with wmarkHigh := decide (wm ≠ 0 ∧ wm ≤ coilUsed t1) } }

/-- A write of TRC_COIL_SIZE (R388). While trace runs a size outside 64 KiB to 1 GiB is not held (log entry 187). -/
def coilResize (v : Nat) (c : Chip) : Chip :=
  if c.trc.state = .stopped then
    wr .trc 0x050 (BitVec.ofNat 32 v) (modTrc (fun t => { t with size := v, resize := none, wp := 0, rp := 0, unread := [], wmarkHigh := false }) c)
  else if v < 65536 ∨ 2 ^ 30 < v then raise .trc 1 c
  else modTrc (fun t => { t with resize := some v }) c

/-! ### START and STOP (R389) -/

/-- The coil is usable (R389). -/
def coilUsable (c : Chip) : Bool :=
  let size := rdF c .trc 0x050 30 0
  decide (65536 ≤ size) && decide (size ≤ 2 ^ 30) && decide (coilBase c % 4096 = 0) &&
  (!bit (act c .trc 0x040) 0 || decide (coilBase c + size ≤ rdF c .mem 0x040 3 0 * 2 ^ 30))

/-- TRACE_START and TRACE_STOP at the instant they take effect. -/
def startTrace (id : Nat) (c : Chip) : Chip :=
  if !pageEnabled c .trc ∨ c.trc.state ≠ .stopped ∨ c.trc.startId.isSome ∨ !coilUsable c then finish id stRejected 0x06 0 c
  else modTrc (fun t => { t with startId := some id, startAt := nsStamp (timeNs c) }) (markRunning id c)

def stopTrace (id : Nat) (c : Chip) : Chip :=
  if !pageEnabled c .trc ∨ !trcRunning c.trc then finish id stRejected 0x06 0 c
  else modTrc (fun t => { t with stopIds := t.stopIds ++ [id] }) (markRunning id c)

/-- The mask of the enabled channels in force. -/
def trcMask (c : Chip) : DWord :=
  BitVec.ofNat 64 ((List.range 64).foldl (fun m i =>
    let w := act c .trc (0x200 + 16 * i)
    m + flag (fld w 3 0 != 0 && fld w 23 22 != 0) i) 0)

/-- A start that waits takes effect: START is formed, after the STOP of the run before, and a GAP follows where the trace was reset (R389, R395). -/
def trcBegin (c : Chip) : Chip :=
  match c.trc.startId, c.trc.stopRec with
  | some id, none =>
    let m := trcMask c
    let t := c.trc
    let gap : Option TrcGap := if t.afterReset = 0 then t.gap else
      some { count := 0, unknown := true, reason := t.afterReset, first := nsStamp t.lastTime, last := nsStamp t.lastTime }
    let c2 := modTrc (fun t => { t with
      state := .running
      startId := none
      seqState := 0
      spent := false
      holdoff := none
      counters := []
      timers := []
      timerExp := 0
      marks := []
      edges := []
      window := []
      insts := []
      samples := 0
      frames := 0
      gap := none
      forced := false
      mark17 := none
      mark18 := none }) c
    let c3 := formRecord 6 t.startAt [BitVec.extractLsb' 0 32 m, BitVec.extractLsb' 32 32 m] c2
    let c4 := seqEnter 0 (modTrc (fun t => { t with gap := gap, afterReset := 0, written := 0 }) c3)
    finish id stDone 0 (BitVec.ofNat 64 t.wp) (setState .trc .run c4)
  | _, _ => c

/-- Stops that wait: STOP is formed, and they complete once it has entered staging (R389). -/
def trcEnd (c : Chip) : Chip :=
  match c.trc.stopIds with
  | [] => c
  | ids =>
    let c2 := if trcRunning c.trc then trcStop c else c
    if c2.trc.stopRec.isSome then c2
    else finishAll ids stDone 0 (BitVec.ofNat 64 c2.trc.stopCount) (modTrc (fun t => { t with stopIds := [] }) c2)

/-- Trace at a frame knot: marks that waited, a STOP that waits for staging, then starts and stops (R389). -/
def trcKnot (c : Chip) : Chip := trcEnd (trcBegin (stopStage (flushMarks c)))

/-- PGRESET, EN = 0 or a fault of TRC (reason 3), warm reset, FLR or sag (reason 4): staged records are discarded (R395). -/
def trcReset (reason : Nat) (c : Chip) : Chip :=
  let t := c.trc
  let ids := (match t.startId with | some i => [i] | none => []) ++ t.stopIds
  finishAll ids stAborted 0 0 (modTrc (fun t => { t with
    state := .stopped
    staged := []
    stopRec := none
    gap := none
    startId := none
    stopIds := []
    window := []
    insts := []
    marks := []
    postLeft := 0
    cal := none
    holdoff := none
    afterReset := reason }) c)

end Sys2Proof.Machine
end

