-- ==== Sys2Proof/Machine/PlanOps.lean ====
section
/-!
DEFINITION. The planner at a frame knot: blocks shift, moves, stops, homing and paths end, the next blocks are committed, latches are
written, compares fire and are predicted, step increments are set (R20 to R22, R121 to R181).
-/

namespace Sys2Proof.Machine

/-- The axes with a state of their own, in order. -/
def axisList (c : Chip) : List Nat := c.axes.map (·.1)

def groupList (c : Chip) : List Nat := (c.grps.filter (fun g => g.2.state != .idle)).map (·.1)

/-- The physical axes that torque-off following may concern, and every axis with a state. -/
def knotAxes (c : Chip) : List Nat :=
  (List.range 160).filter (fun n => (tabGet ({} : Axis) c.axes n) != {} || ((hdr c (axmPage n)).state != .off))

/-! ### Shift of blocks (R22, R125) -/

/-- The block of this knot: the committed one; a late axis continues its present block at the present velocity (R22). R22 speaks of
position and velocity; the model keeps the acceleration set-point (DESIGN CHOICE, log entry 168). -/
def blockOf (dt : Rat) (late : Bool) (a : Axis) : Sp :=
  if late then commitSp { p := a.cur.p + a.cur.v * dt, v := a.cur.v, a := a.cur.a } else a.nxt

/-- The block committed becomes the present one; a late axis is extrapolated (R22). Its sample joins the history (R173). -/
def shiftAxis (dt : Rat) (late : Bool) (n : Nat) (c : Chip) : Chip :=
  let t : Rat := if clkLost c .time then timeNs c else c.tim.nextKnot
  modAxis n (fun a => { a with
    old2 := a.old1
    old1 := a.cur
    cur := blockOf dt late a
    hist := ((t, (blockOf dt late a).p, (blockOf dt late a).v) :: a.hist).take 8
    plan := a.plan.map (fun p => { p with t := p.t + dt }) }) c

def shiftGroup (dt : Rat) (g : Nat) (c : Chip) : Chip :=
  let x := group c g
  setGroup g { x with s := x.sNext, plan := x.plan.map (fun p => { p with t := p.t + dt }) } c

/-- A late planner (R22): PLAN_LATE (cause 8) in the quarter's LPE page, and 0x1F after two late frames in a row. -/
def lateAxis (late : List (Fin 160)) (n : Nat) (c : Chip) : Chip :=
  let l := late.any (fun m => m.val == n)
  let was := (axis c n).late
  let c1 := if l ∧ isPhys n then raise (.lpe (Fin.ofNat 4 (n / 32))) 8 c else c
  let c2 := if l ∧ was then axisFault n 3 0x1F c1 else c1
  if l = was then c2 else modAxis n (fun a => { a with late := l }) c2

/-! ### What ends at the knot -/

/-- A class 6 deceleration has ended: the estimated speed is 0, or 200 ms have passed (R224). -/
def estimateOver (c : Chip) (n : Nat) : Bool :=
  let s := supAx c n
  let a := axis c n
  s.estimating && (decide (s.estSince + 200000000 ≤ c.clk.now) ||
    (match a.plan with | some p => decide (p.total ≤ p.t) | none => true))

def endEstimate (n : Nat) (c : Chip) : Chip :=
  if estimateOver c n then requestBlock n true (modSup n (fun s => { s with estimating := false }) c) else c

/-- HOME_PHASE reads 6 from the knot of the redefinition to the next one (Table 6-6, log entry 169). -/
def homePhaseEnd (n : Nat) (c : Chip) : Chip :=
  if (axis c n).home.phase = 6 ∧ (axis c n).state ≠ .homing then modAxis n (fun a => { a with home := {} }) c else c

/-- One axis at the knot: settling, completed moves, stops at rest, homing phases, an ENABLE that completes. -/
def axisKnot (n : Nat) (c0 : Chip) : Chip :=
  let c := homePhaseEnd n c0
  let a := axis c n
  let c1 := match a.limEdge with
    | some pos =>
      let c := modAxis n (fun a => { a with limEdge := none }) c
      let toward := if pos then decide (0 < a.cur.v) else decide (a.cur.v < 0)
      if a.state = .homing then homeLimit n pos c
      else if a.state = .moving ∧ toward ∧ hlimEn c n then
        let c2 := raise (axmPage n) 12 (latchFault (axmPage n) 0x12 c)
        match groupOf c2 n with
        | some g => memberToFault 0x12 n (groupBreak g n .limit 0x12 0x11 c2)
        | none => axisStop n { kind := .limit, reaction := true, code := 0x12, toFault := true, failed := true } (limitHitches n c2)
      else c
    | none => c
  let a := axis c1 n
  match a.state with
  | .disabled => if a.enabling.isSome then enableDone n c1 else c1
  | .moving => if (groupOf c1 n).isSome then c1 else moveDue n c1
  | .homing => homeKnot n c1
  | .stopping =>
    if a.stop.isNone || (groupOf c1 n).isSome || (match a.stop with | some s => s.estimate | none => false) then endEstimate n c1
    else
      match a.plan with
      | some p => if p.total ≤ p.t ∧ a.cur.v = 0 ∧ a.cur.a = 0 then stopRest n c1 else c1
      | none => stopRest n c1
  | _ => c1

/-- R123: an axis in FAULT or HOLDING leaves it once no page that acts on it holds a code. -/
def faultExit (n : Nat) (c : Chip) : Chip :=
  let a := axis c n
  if (a.state ≠ .fault ∧ a.state ≠ .holding) ∨ axisFaulted c n then c
  else
    let c1 := modSup n (fun s => { s with reacting := false, cls := 0, code := 0 }) c
    let hs := (c1.hits.filter (fun h => h.2.cfg.slave == n && h.2.state == .fault)).map (·.1)
    if !a.torque then
      let c2 := each hs (fun h c => hitFree h c) (setAxis n { a with state := .disabled } c1)
      if isPhys n then brake n false c2 else c2
    else if a.slackKept then
      each hs (fun h c => setHitch h { hitch c h with state := .suspended } c) (setAxis n { a with state := .slack } c1)
    else
      let c2 := each hs (fun h c => hitFree h c) (setAxis n { a with state := .ready } c1)
      modAxis n (fun a => { a with state := restState c2 n }) c2

/-! ### Commit of the next block -/

/-- Software limits under MOVE_VEL and hitches (R135): the limit the stopping point reaches within the frame, which it does when it lies
beyond the limit at the frame's end. -/
def swlHit (c : Chip) (n : Nat) (y : Sp) (l : Lim) : Option Rat :=
  if !swlEn c n then none
  else
    let xs := stopPoint y l
    if 0 < y.v ∧ swlPos c n < xs then some (swlPos c n)
    else if y.v < 0 ∧ xs < swlNeg c n then some (swlNeg c n)
    else none

/-- The highest speed of a stop that first ramps a rising speed's acceleration down (R126). -/
def stopPeak (y : Sp) (l : Lim) : Rat :=
  if 0 < y.a * y.v ∧ 0 < l.j then absRat y.v + y.a * y.a / (2 * l.j) else absRat y.v

/-- The limit stop of R135 from the present block, to rest on the limit. -/
def swlStop (n : Nat) (lim : Rat) (l : Lim) (c : Chip) : Chip :=
  let c1 := raise (axmPage n) 11 (latchFault (axmPage n) 0x13 c)
  let c2 := axisStop n { kind := .limit, reaction := true, code := 0x13, toFault := true, failed := true, lim := some l } (limitHitches n c1)
  modAxis n (fun a =>
    let s := sgn a.cur.v
    let plan := if s * (lim - stopPoint a.cur l) < 0 ∨ s = 0 then planVel a.cur 0 l else planAhead a.cur lim s { l with v := stopPeak a.cur l }
    { a with plan := some plan }) c2

/-- The deceleration of the stop an axis is in (R140): the stop's own, or that of a homing phase that comes to rest. -/
def brakeLim (c : Chip) (n : Nat) : Option Lim :=
  let a := axis c n
  match a.state, a.stop, a.plan with
  | .stopping, some s, _ => some (s.lim.getD (stopLim c n s.kind))
  | .stopping, none, _ => some (stopLim c n .slack)
  | .homing, _, some p => if p.endV = 0 then some (if a.home.reversing then stopLim c n .limit else homeLim c n a.home 0) else none
  | _, _, _ => none

/-- The speed a stop may not fall below while the bus group clamps regeneration: the feedback velocity where that is the larger (R140). -/
def regenSpeed (c : Chip) (n : Nat) (now own : Sp) : Option Rat :=
  if regenClamped c n ∧ absRat own.v < absRat now.v ∧ absRat own.v < absRat (fbVel c n) then some (fbVel c n) else none

/-- The axis's own next block from its plan, before hitches (R125, R135, R140, R141). -/
def ownCommit (n : Nat) (c : Chip) : Chip :=
  let a := axis c n
  let T := frameSec c
  if isPhys n ∧ !a.torque then
    let y : Sp := { p := fbPos c n, v := fbVel c n }
    setAxis n { a with base := y, nxt := commitSp y } c
  else if (groupOf c n).isSome ∧ (a.state = .moving ∨ a.state = .stopping) then c
  else if coupledActive c n ∧ a.state = .moving then c
  else
    let x := ownNow c n
    let own : Sp := match a.plan with | some p => planAt p (p.t + T) | none => { p := x.p }
    let vel := match a.run with | some r => (match r.op with | .moveVel .. => some r.lim | _ => none) | none => none
    -- beside a SUPERIMPOSE hitch the limits apply to the sum (R161)
    match (if a.state = .moving ∧ (simpOf c n).isNone then vel.bind (fun l => (swlHit c n own l).map (fun lim => (lim, l))) else none) with
    | some (lim, l) =>
      let c1 := swlStop n lim l c
      let a1 := axis c1 n
      setNext n (match a1.plan with | some p => planAt p (p.t + T) | none => { p := a1.cur.p }) c1
    | none =>
      match (brakeLim c n).bind (fun l => (regenSpeed c n x own).map (fun v => (l, v))) with
      | some (l, v) =>
        -- the velocity set-point follows the feedback, and the stop goes on from there (R140)
        let y : Sp := { p := x.p + (x.v + v) / 2 * T, v := v }
        let c1 := setNext n y (setAxis n { a with
          plan := some { planVel y 0 l with t := -T }
          stopLengthened := true } c)
        if a.stopLengthened then c1 else raise (axmPage n) 16 c1
      | none => setNext n own c

/-- One hitch of the dependency order computes its slave's block (R160); a slave that a fault of the hitch stops follows its stop. -/
def hitStep (h : Nat) (s : State) : State :=
  let n := (hitch s.chip h).cfg.slave
  let s1 := hitCommit h s
  if (axis s1.chip n).state = .stopping ∧ (axis s.chip n).state ≠ .stopping then onChip (ownCommit n) s1 else s1

/-- The limit stop of R135 for a hitched slave: of its group's path where it is a member, else its own. -/
def hitSwlStop (n : Nat) (lim : Rat) (c : Chip) : Chip :=
  match groupOf c n with
  | some g =>
    let c1 := raise (axmPage n) 11 (latchFault (axmPage n) 0x13 c)
    groupCommit g (memberToFault 0x13 n (groupBreak g n .limit 0x13 0x11 (limitHitches n c1)))
  | none => ownCommit n (swlStop n lim (stopLim c n .slack) c)

/-- A hitched slave whose block is complete meets its software limits, with the sum under SUPERIMPOSE (R135, R161), and its velocity and
acceleration limits, which two blocks in a row over them break (R165); else the hitch goes on (R162, R163). -/
def hitLimits (h : Nat) (c : Chip) : Chip :=
  let x := hitch c h
  let n := x.cfg.slave
  if !hitActive x ∨ (axis c n).state ≠ .moving then c
  else
    match swlHit c n (axis c n).nxt (stopLim c n .slack) with
    | some lim => hitSwlStop n lim c
    | none =>
      let bad := overLimit c n
      if bad && decide (1 ≤ x.overRun) then ownCommit n (hitchFault h 0x1C c)
      else hitProgress h (setHitch h { x with overRun := if bad then 1 else 0 } c)

/-- The first block of a motion towards an active limit counts as an edge (R141): its stop starts at the next knot. -/
def limitBlock (n : Nat) (c : Chip) : Chip :=
  let a := axis c n
  if a.state = .moving ∧ hlimEn c n ∧ a.limEdge.isNone then
    if 0 < a.nxt.v ∧ limLevel c n true then setAxis n { a with limEdge := some true } c
    else if a.nxt.v < 0 ∧ limLevel c n false then setAxis n { a with limEdge := some false } c
    else c
  else c

/-- The registers of the last committed block (Table 6-7), and SRC 1's value for the block after this knot (R160). -/
def publishAxis (n : Nat) (c : Chip) : Chip :=
  let a := axis c n
  let p := axmPage n
  let c1 := wrPair p 0x058 (satQ a.nxt.a) (wrPair p 0x050 (satQ a.nxt.v) (wrPair p 0x048 (wrapQ a.nxt.p) c))
  let f := if isPhys n then wrapPos (fbPos c n + fbVel c n * frameSec c) else 0
  if a.fbAhead = f then c1 else setAxis n { axis c1 n with fbAhead := f } c1

/-- Hitches in dependency order (R160): each depth computes its slaves' blocks, those of coupled hitches first, and then checks them. -/
def commitHits (hs : List Nat) (s : State) : State :=
  let c := s.chip
  eachState (List.range 10) (fun d s =>
    let now := hs.filter (fun h => hitDepth c h == d)
    let simp (h : Nat) : Bool := (hitch c h).cfg.kind == .superimpose
    onChip (each now hitLimits) (eachState (now.filter simp) hitStep (eachState (now.filter (fun h => !simp h)) hitStep s))) s

/-- The registers of the blocks just committed, and the limits that stand active in their way. -/
def closeBlocks (ns : List Nat) (c : Chip) : Chip := each ns (fun n c => publishAxis n (limitBlock n c)) c

/-- The hitches whose slaves' next blocks are to be computed. -/
def blockHits (c : Chip) : List Nat := (c.hits.filter (fun h => hitActive h.2 || h.2.relStop.isSome)).map (·.1)

/-- A line hitch may still get the frame of its block: the next publish period's sample has not come, and its deadline, 1.0 µs after this
knot, lies ahead (R25). -/
def awaitsFrame (c : Chip) (h : Nat) : Bool :=
  let r := (hitch c h).cfg
  let x := sub c r.master
  r.src == 2 && x.adopted && isUp c .hfr &&
    decide (x.period + x.ndiv * c.tim.lenNs < (knotNs c).toNat) && decide (timeNs c < x.period + x.ndiv * c.tim.lenNs + c.tim.lenNs + 1000)

/-- The slaves of some hitches, and those of the hitches that follow their set-points, down a chain of 8 (R159, R160). -/
def heldAxes (c : Chip) (hs : List Nat) : Nat → List Nat → List Nat
  | 0, ns => ns
  | k + 1, ns =>
    heldAxes c hs k (mergeNums ns ((hs.filter (fun h => (hitch c h).cfg.src == 0 && ns.contains (hitch c h).cfg.master)).map
      (fun h => (hitch c h).cfg.slave)))

/-- All next blocks (R22): own profiles, paths, then hitches in dependency order. The blocks that a line frame may still change wait for it
(R25). -/
def commitBlocks (ns : List Nat) (s : State) : State :=
  let c1 := each (groupList s.chip) (fun g c => groupCommit g (groupSwl g c)) (each ns ownCommit s.chip)
  let hs := blockHits c1
  let wait := heldAxes c1 hs 8 (((hs.filter (awaitsFrame c1)).map (fun h => (hitch c1 h).cfg.slave)))
  let held := hs.filter (fun h => wait.contains (hitch c1 h).cfg.slave)
  let s2 := commitHits (hs.filter (fun h => !held.contains h)) { s with chip := { c1 with hfr := { c1.hfr with held := held } } }
  onChip (closeBlocks (ns.filter (fun n => !wait.contains n))) s2

/-- The slaves whose next blocks wait (R25). -/
def heldSlaves (c : Chip) : List Nat := (c.hfr.held.map (fun h => (hitch c h).cfg.slave)).eraseDups

/-- The law of a CAM hitch at a master position, as a read of the cam store gives it (R169). -/
def camAt (s : State) (h : Nat) (m : Rat) : Option Rat := match (camLaw h m s).2 with | .ok v => some v.1 | .error _ => none

/-! ### Latches (R172 to R174) -/

def latBase (l : Nat) : Nat := 0x100 + 0x40 * l

def latSt (a : Axis) (l : Nat) : LatSt := tabGet {} a.lat l

def setLat (n l : Nat) (x : LatSt) (c : Chip) : Chip := modAxis n (fun a => { a with lat := tabSet {} a.lat l x }) c

/-- The position an edge latches, at a device time in ns (R173). -/
def latchPos (c : Chip) (n l : Nat) (t : Rat) : Rat × Bool :=
  let w := act c (axmPage n) (latBase l)
  if bit w 12 && isPhys n then (if fld w 6 0 ≤ 2 then (fbNow c n, false) else fbAt c n t)
  else positionAt t (axis c n).hist

/-- The time of a qualified edge: that of the field event or capture entry it comes from, else the present device time (R173). -/
def edgeTime (c : Chip) (src : Nat) (rising : Bool) : Nat :=
  if 11 ≤ src then pinTime c (src - 11) rising
  else if 3 ≤ src then
    match (tabGet [] c.tim.caps (src - 3)).getLast? with
    | some e => e.s * 1000000000 + e.ns
    | none => timeNs c
  else timeNs c

/-- A latch edge (R172, R173): an armed unit whose edge, mode and window accept it notes the position for the next frame knot. -/
def latchEdge (n l : Nat) (rising : Bool) (c : Chip) : Chip :=
  let w := act c (axmPage n) (latBase l)
  let x := latSt (axis c n) l
  let src := fld w 6 0
  let edgeOk := bit w (if rising then 8 else 9)
  let single := !bit w 13
  -- a field pin is a source while it is configured as an input (R172)
  if src = 0 ∨ !edgeOk ∨ (single && !x.armed) ∨ (src ≤ 2 ∧ !isPhys n) ∨ (11 ≤ src ∧ isOut c.field (src - 11)) ∨ !pageEnabled c (axmPage n) then c
  else
    let t := edgeTime c src rising
    let p := latchPos c n l t
    let inWin := !bit w 14 || (decide (actQ c (axmPage n) (latBase l + 0x30) ≤ p.1) && decide (p.1 ≤ actQ c (axmPage n) (latBase l + 0x38)))
    if !inWin then c
    else
      let e : LatEntry := { extrap := p.2, rising := rising, pos := p.1, ns := t % 1000000000, s := t / 1000000000 }
      setLat n l { x with armed := !single && x.armed, pend := x.pend ++ [e] } c

/-- The latches of an axis are written at a frame knot (R174). -/
def latchKnot (n : Nat) (c : Chip) : Chip :=
  let a := axis c n
  each (a.lat.map (·.1)) (fun l c =>
    let x := latSt (axis c n) l
    each x.pend (fun e c =>
      let x := latSt (axis c n) l
      let seq := x.last.seq + 1
      let e := { e with seq := seq }
      let full := decide (16 ≤ x.fifo.length)
      let b := latBase l
      let p := axmPage n
      let c1 := setLat n l { x with
        last := e
        valid := true
        ovf := if full then min 255 (x.ovf + 1) else x.ovf
        fifo := if full then x.fifo else x.fifo ++ [e]
        pend := x.pend.drop 1 } c
      let c2 := wr p (b + 0x14) (BitVec.ofNat 32 e.s) (wr p (b + 0x10) (BitVec.ofNat 32 e.ns) (wrPair p (b + 0x08) (wrapQ e.pos) c1))
      raise p (20 + l) (raiseIf full p 22 c2)) c) c

/-! ### Compares (R175 to R178) -/

def cmpBase (u : Nat) : Nat := 0x200 + 0x40 * u

def cmpSt (a : Axis) (u : Nat) : CmpSt := tabGet {} a.cmp u

def setCmp (n u : Nat) (x : CmpSt) (c : Chip) : Chip := modAxis n (fun a => { a with cmp := tabSet {} a.cmp u x }) c

/-- x at this knot (R175). -/
def cmpX (c : Chip) (n u : Nat) : Rat :=
  if bit (act c (axmPage n) (cmpBase u)) 4 && isPhys n then fbPos c n else (axis c n).cur.p

/-- A change from d0 to d1 of x − C is a crossing in the direction DIR (R175). -/
def crosses (dir : Nat) (d0 d1 : Rat) : Bool :=
  (dir != 2 && decide (d0 < 0) && decide (0 ≤ d1)) || (dir != 1 && decide (0 < d0) && decide (d1 ≤ 0))

/-- The tether carries schedules (R177, R408). -/
def tetherUp (c : Chip) : Bool := c.fld.tether == .up

/-- The switching of an output (R175): by schedule to the field die, by the modulator on the spare output. -/
def cmpSwitch (n u : Nat) (t : Nat) (c : Chip) : Chip × BitVec 16 :=
  let w := act c (axmPage n) (cmpBase u)
  let out := fld w 14 8
  let width := actF c (axmPage n) (cmpBase u + 0x18) 19 0
  let tag := c.fld.nextTag
  if out = 0 then (c, tag)
  else if out = 65 then (c, tag)
  else (sendSched { action := Fin.ofNat 6 (fld w 7 6 + 1), pin := Fin.ofNat 64 (out - 1), time := nsStamp t, width := width } c, tag)

/-- The switchings sent ahead whose crossing has not been found yet. -/
def openSched (x : CmpSt) : List CmpSched := x.sched.filter (fun s => !s.confirmed)

/-- The schedule list once the crossing of its first open entry has been found; a spare output still switches at its time (R177). -/
def confirmSched (x : CmpSt) : List CmpSched :=
  match (openSched x).head? with
  | none => x.sched
  | some s =>
    if s.output == 65 && !s.switched then x.sched.map (fun q => if q = s then { q with confirmed := true } else q)
    else x.sched.filter (fun q => q != s)

/-- A compare fires (R175): what acts at the knot after the crossing. -/
def cmpFire (n u : Nat) (t : Nat) (late : Bool) (c : Chip) : Chip :=
  let p := axmPage n
  let w := act c p (cmpBase u)
  let x := cmpSt (axis c n) u
  let out := fld w 14 8
  -- an output whose switching was not sent ahead is switched now (log entry 46), unless a silent tether has cancelled it; one that was is
  -- confirmed (R177)
  let head := (openSched x).head?
  let c1 : Chip := match head with
    | some _ => c
    | none => if out ≠ 65 ∧ !tetherUp c then c else (cmpSwitch n u t c).1
  let wrong := match head with | some s => decide (t + 1000 < s.time) || decide (s.time + 1000 < t) | none => false
  let mis := wrong && out != 0
  let seq := x.seq + 1
  let repeatMode := fld w 1 0 == 2
  let x1 := { cmpSt (axis c1 n) u with
    seq := seq
    valid := true
    late := late
    mispredict := x.mispredict || mis
    behind := false
    armed := repeatMode
    pos := if repeatMode then wrapPos (x.pos + actQ c p (cmpBase u + 0x10)) else x.pos
    sched := confirmSched x
    tNs := t % 1000000000
    tS := t / 1000000000 }
  let c2 := setCmp n u x1 c1
  let c3 := wr p (cmpBase u + 0x20) (BitVec.ofNat 32 (t / 1000000000)) (wr p (cmpBase u + 0x1C) (BitVec.ofNat 32 (t % 1000000000)) c2)
  let c4 := raiseIf late p 25 (raiseIf mis p 26 (raiseIf (bit w 16) p 23 c3))
  let c5 := if out = 65 ∧ head.isNone ∧ isPhys n then
      let y := cmpSt (axis c4 n) u
      let s : CmpSched := { time := t, tag := 0, output := 65, action := fld w 7 6, width := actF c p (cmpBase u + 0x18) 19 0, confirmed := true }
      setCmp n u { y with sched := y.sched ++ [s] } c4
    else c4
  -- a spare output that CMP_PIN does not name is not switched (R258)
  let c5 := if out = 65 ∧ isPhys n ∧ actF c (.mod (f128 n)) 0x054 2 0 = 0 then raise (.mod (f128 n)) 14 c5 else c5
  let c6 := if bit w 17 then sourceRaise 5 (4 * n + u) (BitVec.ofNat 32 n) (BitVec.ofNat 32 u) (seq.setWidth 32) c5 else c5
  if bit w 18 then trcMarkRec 2 n u seq (nsStamp t) c6 else c6

/-- Crossings of one frame (R175, R178): the time of each, oldest first, up to a bound, from the positions at its two knots. -/
def crossings (dir : Nat) (t0 : Nat) (len : Rat) (x0 x1 step : Rat) : Nat → Rat → List Nat
  | 0, _ => []
  | k + 1, pos =>
    let d0 := posDiff x0 pos
    let d1 := posDiff x1 pos
    if crosses dir d0 d1 then
      let t := t0 + (len * d0 / (d0 - d1)).floor.toNat
      t :: (if step = 0 then [] else crossings dir t0 len x0 x1 step k (wrapPos (pos + step)))
    else []

/-- The most crossings a frame can hold: one, and one more for each step that the motion covers. -/
def crossBound (x0 x1 step : Rat) : Nat := if step = 0 then 1 else (absRat (posDiff x1 x0) / absRat step).floor.toNat + 1

/-- An armed unit at a frame knot (R175, R178): at most four firings, those that earlier frames left over first, as late ones, then the
crossings of the frame that has ended; the rest waits for the next knot. -/
def cmpKnot (prevKnot : Nat) (len : Rat) (n u : Nat) (c : Chip) : Chip :=
  let p := axmPage n
  let w := act c p (cmpBase u)
  let x := cmpSt (axis c n) u
  let xn := cmpX c n u
  let c1 := setCmp n u { x with xPrev := some xn } c
  if !x.armed ∨ fld w 1 0 = 0 then c1
  else
    match x.xPrev with
    | none => c1
    | some x0 =>
      let rep := fld w 1 0 == 2
      let step := if rep then actQ c p (cmpBase u + 0x10) else 0
      -- C as the firings left over will have moved it
      let pos := wrapPos (x.pos + step * x.backlog.length)
      let ts := crossings (fld w 3 2) prevKnot len x0 xn step (crossBound x0 xn step) pos
      let all := x.backlog.map (fun t => (t, true)) ++ ts.map (fun t => (t, false))
      let c3 := each (all.take 4) (fun f c => cmpFire n u f.1 f.2 c) c1
      let c4 := setCmp n u { cmpSt (axis c3 n) u with backlog := (all.drop 4).map (·.1) } c3
      -- a switching whose crossing did not occur (R177)
      let z := cmpSt (axis c4 n) u
      let gone := z.sched.filter (fun s => decide (s.time < timeNs c4) && !s.confirmed && (s.output != 65 || s.switched))
      if gone = [] then c4
      else raise p 26 (setCmp n u { z with mispredict := true, sched := z.sched.filter (fun s => !gone.contains s) } c4)

/-! ### Prediction (R177) -/

/-- The law of a hitch at a master position, from the block already committed: the slave's position, or its coupled part (R161 to R163).
`cam` gives the law of a CAM hitch. -/
def hitValue (cam : Nat → Rat → Option Rat) (c : Chip) (h : Nat) (m : Rat) : Option Rat :=
  let x := hitch c h
  let dm := posDiff m x.mPrev
  let onLaw (w law : Rat) : Rat := x.pe + w * posDiff law x.pe
  if x.state = .disengaging then
    some (x.pe + x.sigma * (x.sum + (1 - (weight (engX x.cfg.ramp (x.relDist + absRat dm))).1) * dm))
  else
    let w := (weight (engX x.cfg.ramp (x.dist + absRat dm))).1
    match x.cfg.kind with
    | .gear | .superimpose => some (x.pe + hitRatio x.cfg * (x.sum + w * dm))
    | .line => some (onLaw w (x.cfg.offset + x.shift + hitRatio x.cfg * m))
    | .cam => (cam h m).map (fun p => onLaw w (x.cfg.offset + x.shift + p))

/-- The position that the planner predicts `t` seconds after this knot (R177): the closed-form profile, path or hitch law, its masters
extrapolated under R88 or Table 7-3, down a chain of hitches. -/
def predictPos (cam : Nat → Rat → Option Rat) (c : Chip) : Nat → Nat → Rat → Rat
  | 0, n, t => let a := axis c n; let d := t - frameSec c; a.nxt.p + a.nxt.v * d + a.nxt.a * d * d / 2
  | k + 1, n, t =>
    let a := axis c n
    let T := frameSec c
    let d := t - T
    let ext : Rat := a.base.p + a.base.v * d + a.base.a * d * d / 2
    let master (r : HitRec) : Option Rat :=
      match r.src with
      | 0 => some (predictPos cam c k r.master t)
      | 1 => some (fbPos c r.master + fbVel c r.master * t)
      | 2 => (subAt c r.master r.entry (knotNs c - 2 * c.tim.lenNs + (t * 1000000000).floor)).map (·.p)
      | _ => some (if t < 2 * T then (positionAt ((knotNs c : Rat) + (t - 2 * T) * 1000000000) (axis c r.master).hist).1
                   else predictPos cam c k r.master (t - 2 * T))
    let coupled : Option Nat := (coupledOf c n).filter (fun h => hitActive (hitch c h) && a.state == .moving)
    let own : Rat :=
      match coupled with
      | some h => ((master (hitch c h).cfg).bind (hitValue cam c h)).getD ext
      | none =>
        match groupOf c n with
        | some g =>
          let x := group c g
          (match x.plan, (x.members.zip (x.start.zip x.delta)).find? (fun m => m.1 == n) with
          | some p, some m => if x.len = 0 then ext else m.2.1 + m.2.2 * (planAt p (p.t + t)).p / x.len
          | _, _ => ext)
        | none => match a.plan with | some p => (planAt p (p.t + t)).p | none => ext
    let part : Rat :=
      match simpOf c n with
      | none => 0
      | some h =>
        let x := hitch c h
        match x.relStop with
        | some p => (planAt p (p.t + t)).p
        | none => if hitActive x then ((master x.cfg).bind (hitValue cam c h)).getD x.partNext.p else x.partNext.p
    own + part

/-- Bisection of a crossing time in nanoseconds after this knot. -/
def bisectCross (f : Rat → Rat) (s : Rat) : Nat → Rat → Rat → Rat
  | 0, lo, _ => lo
  | k + 1, lo, hi =>
    let m := (lo + hi) / 2
    if s * f m < 0 then bisectCross f s k m hi else bisectCross f s k lo m

/-- The crossing of C predicted between two times after this knot, in device nanoseconds (R177). -/
def predictCross (cam : Nat → Rat → Option Rat) (c : Chip) (n u : Nat) (pos : Rat) (t0 t1 : Rat) : Option Nat :=
  let w := act c (axmPage n) (cmpBase u)
  let err := if bit w 4 && isPhys n then posDiff (axis c n).cur.p (fbPos c n) else 0
  let f (t : Rat) : Rat := posDiff (predictPos cam c 9 n t - err) pos
  if crosses (fld w 3 2) (f t0) (f t1) then
    some (knotNs c + (bisectCross f (if f t0 < 0 then 1 else -1) 24 t0 t1 * 1000000000).floor).toNat
  else none

/-- Prediction and correction for one unit while the next block is committed (R177). -/
def cmpPredict (cam : Nat → Rat → Option Rat) (n u : Nat) (c : Chip) : Chip :=
  let p := axmPage n
  let w := act c p (cmpBase u)
  let x := cmpSt (axis c n) u
  let out := fld w 14 8
  let T := frameSec c
  let reach := out = 65 ∨ tetherUp c
  if !x.armed ∨ out = 0 then c
  else
    let rep := fld w 1 0 == 2
    let step := if rep then actQ c p (cmpBase u + 0x10) else 0
    -- corrections of what is already sent
    let c1 := each (List.range (openSched x).length) (fun i c =>
      let x := cmpSt (axis c n) u
      match (openSched x)[i]? with
      | none => c
      | some s =>
        if s.time ≤ timeNs c ∨ ¬ reach then c
        else
          let new := predictCross cam c n u (x.pos + step * i) 0 (3 * T)
          let first := match new with | some t => min t s.time | none => s.time
          let moved := match new with | some t => decide (t + 500 < s.time) || decide (s.time + 500 < t) | none => true
          if moved && decide (timeNs c + 20000 ≤ first) then
            match new with
            | some t =>
              let c2 := if out = 65 then c else { c with fld := { c.fld with sched := c.fld.sched ++
                [{ entry := { action := Fin.ofNat 6 (s.action + 1), pin := Fin.ofNat 64 (out - 1), tag := s.tag, time := nsStamp t, width := s.width } }] } }
              setCmp n u { x with sched := x.sched.map (fun q => if q = s then { q with time := t } else q) } c2
            | none =>
              let c2 := if out = 65 then c else { c with fld := { c.fld with sched := c.fld.sched ++
                [{ entry := { action := 5, pin := Fin.ofNat 64 (out - 1), tag := s.tag, time := nsStamp s.time } }] } }
              setCmp n u { x with sched := x.sched.filter (fun q => q != s) } c2
          else c) c
    -- a new switching in [t(k + 2), t(k + 3))
    let go (c : Chip) : Chip :=
      let x := cmpSt (axis c n) u
      if (openSched x).length ≥ (if rep then 8 else 1) then c
      else
        match predictCross cam c n u (x.pos + step * (openSched x).length) (2 * T) (3 * T) with
        | none => c
        | some t =>
          -- a schedule that a silent tether cannot deliver is cancelled (R177)
          if ¬ reach then raise p 26 (setCmp n u { x with mispredict := true } c)
          else
          let r := cmpSwitch n u t c
          let s : CmpSched := { time := t, tag := r.2, output := out, action := fld w 7 6, width := actF c p (cmpBase u + 0x18) 19 0 }
          setCmp n u { cmpSt (axis r.1 n) u with sched := x.sched ++ [s] } r.1
    if rep then go (go (go (go c1))) else go c1

/-- A unit is armed at the AXM apply point after a write of CMP_CTL or CMP_POS (R176). -/
def cmpArm (n u : Nat) (c : Chip) : Chip :=
  let p := axmPage n
  let w := act c p (cmpBase u)
  let x := cmpSt (axis c n) u
  if !x.written then c
  else
    let pos := actQ c p (cmpBase u + 0x08)
    let on := fld w 1 0 == 1 || fld w 1 0 == 2
    let v := (axis c n).cur.v
    let d := posDiff (cmpX c n u) pos
    let passed := on && ((decide (0 < v) && decide (0 < d)) || (decide (v < 0) && decide (d < 0)))
    let dir := fld w 3 2
    let allow := dir == 0 || (dir == 1 && decide (0 < v)) || (dir == 2 && decide (v < 0))
    let c1 := setCmp n u { x with
      written := false
      armed := on
      behind := passed
      pos := pos
      xPrev := some (cmpX c n u)
      sched := []
      backlog := [] } c
    let c2 := raiseIf passed p 24 c1
    -- BEHIND stays set beside a firing at once (R176)
    if passed && bit w 5 && allow then
      let c3 := cmpFire n u (timeNs c) true c2
      setCmp n u { cmpSt (axis c3 n) u with behind := true } c3
    else c2

/-! ### Step generator (R179 to R181) -/

/-- The accumulator advanced by a number of ticks: its phase, and the carries that moved the count. -/
def stepAdvance (x : StepSt) (ticks : Nat) : StepSt :=
  let total := x.phase + x.inc * ticks
  let carries : Nat := total / 2 ^ 48
  { x with phase := total % 2 ^ 48, count := if x.neg then x.count - (carries : Int) else x.count + (carries : Int), ticks := x.ticks + ticks }

/-- The largest increment (R180): the smaller of 10 MHz and 1 / (2 × STEP_WIDTH × 4 ns). -/
def stepMax (c : Chip) (n : Nat) : Nat :=
  let w := actF c (axmPage n) 0x0F0 15 0
  let byWidth : Rat := ((2 ^ 48 : Nat) : Rat) / ((2 * w : Nat) : Rat)
  let byRate : Rat := ((2 ^ 48 : Nat) : Rat) / 25
  Int.toNat (minRat byWidth byRate).floor

/-- The accumulator closes its frame (R179). -/
def stepClose (frameTicks : Nat) (n : Nat) (c : Chip) : Chip :=
  if !pulseAxis c n then c
  else modAxis n (fun a => { a with step := { stepAdvance a.step (frameTicks - a.step.ticks) with ticks := 0 } }) c

/-- The planner sets the increment of the next frame (R179, R180), the distance formed modulo 2^40 counts (R5); STEP_CLAMP in every frame
it is clamped. -/
def stepKnot (n : Nat) (c : Chip) : Chip :=
  let a := axis c n
  if !pulseAxis c n then c
  else
    let x := a.step
    let nt := c.tim.lenNs / 4
    let d := modPos (a.nxt.p - stepPos a)
    let want := (roundAway (absRat d * (2 ^ 48 : Nat) / (nt : Nat))).toNat
    let lim := stepMax c n
    let on := a.torque && !(modSt c n).block && !x.dropped
    let neg := if want = 0 then x.neg else decide (d < 0)
    let clamp := on && decide (lim < want)
    let flip := on && neg != x.neg
    let y : StepSt := { x with
      inc := if on then min want lim else 0
      neg := if on then neg else x.neg
      phase := if flip then 2 ^ 48 - x.phase else x.phase
      wait := flip
      clamping := clamp
      clampRun := if clamp then x.clampRun + 1 else 0
      clamped := if clamp then min 65535 (x.clamped + 1) else x.clamped
      dropped := x.dropped && a.state == .ready }
    let c1 := raiseIf clamp (axmPage n) 29 (setAxis n { a with step := y } c)
    if clamp ∧ y.clampRun = 2 then axisFault n 3 0x1B c1 else c1

/-- Ticks of the frame that have passed. -/
def frameTicksNow (c : Chip) : Nat := min (c.tim.lenNs / 4) ((c.clk.now - c.tim.lastKnot) / 4)

/-- A carry that is due issues a STEP pulse, high for STEP_WIDTH ticks (R179 to R181): its ticks pass and the count moves. -/
def stepPulse (n : Nat) (c : Chip) : Chip :=
  let a := axis c n
  let x := a.step
  let setup := actF c (axmPage n) 0x0F0 31 16
  if !pulseAxis c n ∨ x.inc = 0 then c
  else
    let m := (2 ^ 48 - x.phase + x.inc - 1) / x.inc
    let due := max (x.ticks + m) (if x.wait then setup else 0)
    if due ≤ frameTicksNow c then
      emit (.stepPulse n x.neg (actF c (axmPage n) 0x0F0 15 0)) (setAxis n { a with step := { stepAdvance x m with wait := x.wait && decide (x.ticks + m < setup) } } c)
    else c

end Sys2Proof.Machine
end

