-- ==== Sys2Proof/Machine/SnlOps.lean ====
section
/-!
DEFINITION. The sensorless drive (chapter 12): measurement, observer, crossings, state machine, curve, speed command and test.
Electrical angles are in turns, ω̂ in rad/s, frequencies in Hz.
-/

namespace Sys2Proof.Machine

def snlPage (n : Nat) : Page := .snl (f128 n)

def modSnl (n : Nat) (f : SnlSt → SnlSt) (c : Chip) : Chip := setSnl n (f (snlSt c n)) c

/-- A coefficient word of SNL n or LPA n as written (neither is shadowed). -/
def snlCoef (c : Chip) (n off : Nat) : Rat := coefVal (rd c (snlPage n) off)

def lpaCoef (c : Chip) (n off : Nat) : Rat := coefVal (rd c (lpaPage n) off)

/-- A frequency register in mHz, in Hz. -/
def snlHz (c : Chip) (n off : Nat) : Rat := ((act c (snlPage n) off).toNat : Rat) / 1000

/-- Milliseconds fields. -/
def msNs (v : Nat) : Nat := v * 1000000

def polePairs (c : Chip) (n : Nat) : Nat := actF c (lpaPage n) 0x0A0 7 0

def cpr (c : Chip) (n : Nat) : Nat := (act c (lpaPage n) 0x0A4).toNat

/-- Counts per electrical turn. -/
def elCounts (c : Chip) (n : Nat) : Rat := (cpr c n : Rat) / (polePairs c n : Nat)

/-- The fractional part, and an angle difference in the half-open turn about 0. -/
def frac (x : Rat) : Rat := x - (x.floor : Rat)

def halfTurn (x : Rat) : Rat := frac (x + 1 / 2) - 1 / 2

/-! ### Requests (R309) -/

/-- The signed speed a MOVE_VEL asks for under the limits in force for it (R128, R131); `none` for any other run. -/
def runSpeed (r : Run) : Option Rat :=
  match r.op with
  | .moveVel _ vel .. => some (sgn (ofQ vel) * r.lim.v)
  | _ => none

/-- The electrical frequency requested; a MOVE_VEL that is being stopped asks for none (log entry 80). -/
def snlFreq (c : Chip) (n : Nat) : Rat :=
  let w := act c (snlPage n) 0x094
  if fld w 1 0 = 0 then
    let a := axis c n
    if a.state = .moving then ((a.run.bind runSpeed).getD 0) / elCounts c n else 0
  else
    let f := (snlSt c n).x * snlHz c n 0x09C
    if bit w 2 then -f else f

/-- The direction requested: DIR for the sources 1 to 3, whatever x is, and the sign of f_req for the planner (R309). -/
def snlDir (c : Chip) (n : Nat) : Rat :=
  let w := act c (snlPage n) 0x094
  if (if fld w 1 0 = 0 then decide (snlFreq c n < 0) else bit w 2) then -1 else 1

/-- RUN_REQ with its hysteresis, and INHIBIT (R309). -/
def snlRequest (n : Nat) (c : Chip) : Chip :=
  let x := snlSt c n
  let f := absRat (snlFreq c n)
  let hi := decide (snlHz c n 0x08C ≤ f)
  let lo := decide (f < snlHz c n 0x090)
  let low := x.inhibitLow || lo
  let inh := x.inhibit && !(low && hi)
  setSnl n { x with inhibit := inh, inhibitLow := inh && low, runReq := !inh && (if hi then true else if lo then false else x.runReq) } c

/-! ### Pulses and states (R303) -/

/-- Pulses are released for an enabled axis; trips, STO and the other conditions of Table 10-3 still act. -/
def snlRelease (n : Nat) (c : Chip) : Chip :=
  if !axEnabled (axis c n).state ∨ (modSt c n).sto then c
  else if (axis c n).torque then
    -- a block that SNL n asked for and that has not reached its apply point is taken back
    if (supAx c n).reacting then c else modMod n (fun m => { m with blockReq := m.blockReq && m.brakeReq }) c
  else
    modSup n (fun s => { s with torqueFrames := 0 })
      (modAxis n (fun a => { a with torque := true }) (modMod n (fun m => { m with block := false, blockReq := false }) c))

def snlBlock (n : Nat) (c : Chip) : Chip := if (modSt c n).block then c else requestBlock n false c

/-- Enters a state that blocks pulses, or one that releases them. -/
def snlEnter (n : Nat) (st : SnlState) (c : Chip) : Chip :=
  let c1 := modSnl n (fun x => { x with
    state := st
    since := c.clk.now
    syncRun := 0
    lossRun := 0
    missed := 0
    takeover := false
    slewing := false
    cross := []
    linePrev := [] }) c
  if snlSynced st then snlRelease n c1 else snlBlock n c1

/-- IDLE; a STOP that waits for it completes, with INHIBIT (R309). -/
def snlIdle (n : Nat) (c : Chip) : Chip :=
  let c1 := snlEnter n .idle c
  match (snlSt c1 n).stopId with
  | some id => finish id stDone 0 0 (modSnl n (fun x => { x with stopId := none, inhibit := true, inhibitLow := false, runReq := false }) c1)
  | none => c1

/-- The page faults, and the drive is in FAULT (R314). -/
def snlFault (n : Nat) (code : Byte) (c : Chip) : Chip :=
  let c1 := snlEnter n .fault c
  if code = 0x70 then latchCond (snlPage n) code c1 else latchFault (snlPage n) code c1

/-- COAST: the position is only an estimate, so REFERENCED is cleared (R303). -/
def snlCoast (n : Nat) (c : Chip) : Chip := snlEnter n .coast (modAxis n (fun a => { a with referenced := false }) c)

/-- One failure (R308): CATCH_FAIL, and FAULT once CATCH_RETRIES is reached. -/
def snlFail (n : Nat) (c : Chip) : Chip :=
  let p := snlPage n
  let k := (snlSt c n).fails + 1
  let c1 := cntSat p 0x0C0 23 16 (raise p 11 (modSnl n (fun x => { x with fails := min 15 k }) c))
  if actF c p 0x074 3 0 ≤ k then snlFault n 0x72 c1 else c1

/-- The points of the curve: (ms after the point before, Hz), the first at 0 (R310). -/
def curvePoints (c : Chip) (n : Nat) : List (Nat × Rat) :=
  let pt (i : Nat) : Nat × Rat := let w := act c (snlPage n) (0x100 + 4 * i); (fld w 15 0, (fld w 31 16 : Rat) / 10)
  (0, (pt 0).2) :: (((List.range 15).map (fun i => pt (i + 1))).takeWhile (fun x => x.1 != 0))

/-- The curve's frequency at a time in ms, and whether it has ended. -/
def curveAt : List (Nat × Rat) → Rat → Rat × Bool
  | [], _ => (0, true)
  | [(_, f)], _ => (f, true)
  | (_, f0) :: (d, f1) :: t, x => if x < (d : Rat) then (f0 + (f1 - f0) * x / (d : Nat), false) else curveAt ((d, f1) :: t) (x - d)

/-- ALIGN, or CATCH when CATCH_EN = 1. -/
def snlStart (n : Nat) (c : Chip) : Chip :=
  if bit (act c (snlPage n) 0x040) 4 then snlEnter n .catching c
  else snlEnter n .aligning (modSnl n (fun x => { x with outAngle := (actF c (snlPage n) 0x07C 31 16 : Rat) / 65536 }) c)

/-- ALIGN starts at ALIGN_ANGLE. -/
def snlAlign (n : Nat) (c : Chip) : Chip :=
  snlEnter n .aligning (modSnl n (fun x => { x with outAngle := (actF c (snlPage n) 0x07C 31 16 : Rat) / 65536 }) c)

/-- ALIGN_END (R305, R306): the estimates start at ALIGN_ANGLE and 0, and RAMP begins, or 0x71 for a curve of fewer than two points. -/
def snlAlignEnd (n : Nat) (c : Chip) : Chip :=
  let x := snlSt c n
  if x.state ≠ .aligning ∨ c.clk.now < x.since + msNs (actF c (snlPage n) 0x07C 15 0) then c
  else
    let a : Rat := (actF c (snlPage n) 0x07C 31 16 : Rat) / 65536
    let c1 := modSnl n (fun x => { x with theta := a, omega := 0, thetaOl := a, outAngle := a }) c
    if (curvePoints c n).length < 2 then snlFault n 0x71 c1 else snlEnter n .ramp c1

/-! ### Crossings (R300) -/

/-- The place of a crossing in the positive order of angles 30°, 90°, …: kind is row × 2 + falling (Table 12-1). -/
def crossPlace (kind : Nat) : Nat :=
  match kind with
  | 4 => 0 | 3 => 1 | 0 => 2 | 5 => 3 | 2 => 4 | _ => 5

/-- The angle of a crossing in turns for a direction of rotation; for negative rotation the columns of Table 12-1 swap. -/
def crossAngle (kind : Nat) (positive : Bool) : Rat :=
  let a : Rat := (1 + 2 * (crossPlace kind : Rat)) / 12
  if positive then a else frac (a + 1 / 2)

/-- Crossings between two sets of line voltages, with their times by linear interpolation. -/
def lineCross (t0 t1 : Nat) : Nat → List Rat → List Rat → List (Nat × Nat)
  | _, [], _ => []
  | _, _, [] => []
  | r, x :: xs, y :: ys =>
    let rest := lineCross t0 t1 (r + 1) xs ys
    let at_ : Nat := t0 + (((t1 - t0 : Nat) : Rat) * x / (x - y)).floor.toNat
    if x < 0 ∧ 0 ≤ y then (at_, 2 * r) :: rest
    else if 0 < x ∧ y ≤ 0 then (at_, 2 * r + 1) :: rest
    else rest

/-- The line voltages of three phase voltages: uv, vw, wu. -/
def lineOf (u v w : Rat) : List Rat := [u - v, v - w, w - u]

/-- New crossings are noted, and shown in SNL_ZC. -/
def noteCross (n : Nat) (line : List Rat) (c : Chip) : Chip :=
  let x := snlSt c n
  let found := if x.linePrev.isEmpty then [] else lineCross x.linePrevT c.clk.now 0 x.linePrev line
  let c1 := setSnl n { x with linePrev := line, linePrevT := c.clk.now } c
  each found (fun f c =>
    let y := snlSt c n
    let gap := match y.cross with | (t, _) :: _ => (f.1 - t) / 10 | [] => 0
    wr (snlPage n) 0x0C4 (BitVec.ofNat 32 (min gap 0xFFFFFF + f.2 * 0x1000000)) (setSnl n { y with cross := (f :: y.cross).take 4 } c)) c1

/-! ### The observer (R298) -/

/-- Clarke transform (R198). -/
def clarke (u v w : Rat) : Rat × Rat := ((2 * u - v - w) / 3, (v - w) / sqrt3)

/-- Phase currents of a port (R198); TWO_SENSE takes the third from the other two. -/
def phaseCurrents (c : Chip) (n : Nat) : Rat × Rat × Rat :=
  let k := lpaCoef c n 0x09C
  let u := sdfVal c (portCh n 0) * k
  let v := sdfVal c (portCh n 1) * k
  (u, v, if bit (act c (lpaPage n) 0x040) 10 then -(u + v) else sdfVal c (portCh n 2) * k)

/-- V_dc of the port's bus group, not less than 1 V (R199). -/
def vdc (c : Chip) (n : Nat) : Rat := maxRat 1 (busSt c (busOf c (f128 n)).val).v

/-- The measured terminal voltages; `none` for a lost measurement (R297). -/
def snlMeasure (c : Chip) (n : Nat) : Option (Rat × Rat × Rat) :=
  let k := coefVal (act c (snlPage n) 0x050)
  match (snlChannels c n).map (freshAin c) with
  | [some u, some v, some w] => if clkLost c .adc then none else some (u * k, v * k, w * k)
  | _ => none

/-- The phase voltages relative to the star point. -/
def snlPhaseV (c : Chip) (n : Nat) (m : Rat × Rat × Rat) : Rat × Rat × Rat :=
  let (u, v, w) :=
    if bit (act c (snlPage n) 0x040) 3 then m
    else
      let d := (modSt c n).duty
      let k := vdc c n / 65536
      ((d.u : Rat) * k, (d.v : Rat) * k, (d.w : Rat) * k)
  let mean := (u + v + w) / 3
  (u - mean, v - mean, w - mean)

/-- One observer update: the estimates, and the back-EMF. -/
def observe (n : Nat) (m : Rat × Rat × Rat) (c : Chip) : Chip :=
  let x := snlSt c n
  let ts := sampleSec c
  let (u, v, w) := snlPhaseV c n m
  let (va, vb) := clarke u v w
  let (iu, iv, iw) := phaseCurrents c n
  let (ia, ib) := clarke iu iv iw
  let rs := snlCoef c n 0x054
  let lq := lpaCoef c n 0x08C
  let ea := va - rs * ia - lq * (ia - x.iAlphaPrev) / ts
  let eb := vb - rs * ib - lq * (ib - x.iBetaPrev) / ts
  let mag := sqrt48 (ea * ea + eb * eb)
  let s : Rat := if x.omega < 0 then -1 else 1
  let eps := if mag < snlCoef c n 0x060 ∨ mag = 0 then 0 else s * (-ea * cosTurn x.theta - eb * sinTurn x.theta) / mag
  let om := x.omega + snlCoef c n 0x05C * eps
  let th := frac (x.theta + (ts * om + snlCoef c n 0x058 * eps) / twoPi)
  setSnl n { x with
    iAlphaPrev := ia
    iBetaPrev := ib
    eAlpha := ea
    eBeta := eb
    eMag := mag
    thetaPrev := x.theta
    omegaPrev := x.omega
    omega := om
    theta := th } c

/-- The electrical frequency estimated, in Hz. -/
def snlHat (c : Chip) (n : Nat) : Rat := (snlSt c n).omega / twoPi

/-! ### One sample -/

/-- x of an input frequency against F_FULL, at most 1 (R309); with F_FULL = 0 the rule states no value (log entry 183). -/
def freqShare (c : Chip) (n : Nat) (hz : Rat) : Rat :=
  let full : Rat := ((act c (snlPage n) 0x098).toNat : Rat)
  if full = 0 then minRat 1 ((Config.freqShareZero hz : Nat) / (65536 : Rat)) else minRat 1 (hz / full)

/-- The state does not permit pulses any more: a reaction of class 4 to 6, STO, or the axis not enabled (Table 12-3). -/
def snlCut (c : Chip) (n : Nat) : Bool :=
  let s := supAx c n
  !axEnabled (axis c n).state || (s.reacting && decide (4 ≤ s.cls)) || (modSt c n).sto

/-- The three crossings of R304, evenly spaced: frequency with sign, and the angle and time of the last. -/
def catchSeen (x : SnlSt) : Option (Rat × Rat × Nat) :=
  match x.cross with
  | (t2, k2) :: (t1, k1) :: (t0, k0) :: _ =>
    let up := (crossPlace k1 = (crossPlace k0 + 1) % 6) && (crossPlace k2 = (crossPlace k1 + 1) % 6)
    let down := (crossPlace k0 = (crossPlace k1 + 1) % 6) && (crossPlace k1 = (crossPlace k2 + 1) % 6)
    let d : Rat := ((t2 - t0 : Nat) : Rat) / 2
    let even := decide (absRat (((t2 - t1 : Nat) : Rat) - d) ≤ d / 4) && decide (absRat (((t1 - t0 : Nat) : Rat) - d) ≤ d / 4) && decide (0 < d)
    if (up || down) && even then
      let f : Rat := 1000000000 / (6 * d)
      some (if up then f else -f, crossAngle k2 up, t2)
    else none
  | _ => none

/-- CATCH at a sample (R304). -/
def snlCatch (n : Nat) (c : Chip) : Chip :=
  match catchSeen (snlSt c n) with
  | none => c
  | some (f, _, _) =>
    if absRat f < snlHz c n 0x078 then snlAlign n c
    else if 0 < f * snlDir c n then modSnl n (fun x => { x with takeover := true }) c
    else snlFail n (snlCoast n c)

/-- RAMP at a sample (R306), and the test's curve (R311). -/
def snlRamp (n : Nat) (c : Chip) : Chip :=
  let x := snlSt c n
  let ms : Rat := ((c.clk.now - x.since : Nat) : Rat) / 1000000
  let (f, ended) := curveAt (curvePoints c n) ms
  let ol := frac (x.thetaOl + snlDir c n * f * sampleSec c)
  let w := act c (snlPage n) 0x088
  let err := halfTurn (x.theta - ol)
  let strong := decide (snlCoef c n 0x060 ≤ x.eMag)
  if x.test then
    let worst := if strong || x.testErr.isSome then some (maxRat (absRat err) (x.testErr.getD 0)) else x.testErr
    let c1 := setSnl n { x with thetaOl := ol, outAngle := ol, testErr := worst } c
    if ended then
      let res := match worst with | some e => BitVec.ofNat 32 ((roundAway (e * 65536)).toNat % 65536 + 2 ^ 31) | none => 0
      modSnl n (fun x => { x with test := false }) (snlIdle n (raise (snlPage n) 13 (wr (snlPage n) 0x0AC res c1)))
    else c1
  else
    let good := decide (absRat err ≤ (fld w 15 0 : Rat) / 65536) && strong
    let run := if good then x.syncRun + 1 else 0
    let slew := x.slewing || decide (fld w 23 16 ≤ run)
    let step : Rat := (fld w 31 24 : Rat) / 65536
    let out := if slew then frac (x.outAngle + clampRat (-step) step (halfTurn (x.theta - x.outAngle))) else ol
    let c1 := setSnl n { x with thetaOl := ol, outAngle := out, syncRun := min 255 run, slewing := slew, takeover := slew } c
    if ended && !slew then snlFail n (snlCoast n c1) else c1

/-- The crossing expected when θ̂ passes 30° beyond one of the table's angles has not come (R300): the run of missing ones. -/
def missedRun (x : SnlSt) : Nat :=
  let s0 := (x.thetaPrev * 6).floor
  let s1 := (x.theta * 6).floor
  if s0 = s1 then x.missed
  else
    let up := !decide (x.omega < 0)
    let place := if up then ((s1 + 5) % 6).toNat else ((s1 + 1) % 6).toNat
    let seen := match x.cross with | (_, k) :: _ => decide (crossPlace k = (if up then place else (place + 3) % 6)) | [] => false
    if seen then 0 else x.missed + 1

/-- RUN at a sample: synchronism (R307), and the end of the request. -/
def snlRunning (n : Nat) (c : Chip) : Chip :=
  let x := snlSt c n
  let p := snlPage n
  let w := act c p 0x064
  let psi := lpaCoef c n 0x090
  let om := absRat x.omega
  let tol : Rat := (fld w 15 8 : Rat) / 256
  let amp := decide (twoPi * snlHz c n 0x06C ≤ om) &&
    (decide (x.eMag < (1 - tol) * psi * om) || decide ((1 + tol) * psi * om < x.eMag))
  let jump := decide (twoPi * snlHz c n 0x068 < absRat (x.omega - x.omegaPrev))
  let missed := missedRun x
  let bad := amp || jump || decide (2 ≤ missed)
  let run := if bad then x.lossRun + 1 else 0
  let c1 := setSnl n { x with lossRun := min 255 run, missed := min 15 missed, outAngle := x.theta } c
  if fld w 7 0 ≤ run then
    let c2 := snlCoast n (cntSat p 0x0C0 7 0 (raise p 9 c1))
    if c.clk.now < x.since + msNs (actF c p 0x074 31 16) then snlFail n c2 else c2
  else if !x.runReq ∧ absRat (snlHat c1 n) ≤ snlHz c1 n 0x090 then snlIdle n c1
  else c1

/-- The observer and the state machine of one sensorless axis at a current sample. -/
def snlSample (n : Nat) (c : Chip) : Chip :=
  let x0 := snlSt c n
  if x0.state = .off then c
  else
    let p := snlPage n
    let w := act c p 0x094
    -- the command input of CMD_SRC 1
    let c0 := if fld w 1 0 = 1 then
        match freshAin c (fld w 22 16) with
        | some v => modSnl n (fun x => { x with x := v, cmdLost := false }) c
        | none => raiseIf (!x0.cmdLost) p 12 (modSnl n (fun x => { x with x := 0, cmdLost := true }) c)
      else c
    let c1 := snlRequest n c0
    match snlMeasure c1 n with
    | none =>
      let c2 := modSnl n (fun x => { x with lostMeas := true }) c1
      if x0.state = .fault then latchCond p 0x70 c2 else snlFault n 0x70 c2
    | some m =>
      let before := (snlSt c1 n).outAngle
      let c2 := endCond p 0x70 (observe n m (modSnl n (fun x => { x with lostMeas := false }) c1))
      let x := snlSt c2 n
      let line := if x.state == .run then
          let u := x.eAlpha
          let v := (-x.eAlpha + sqrt3 * x.eBeta) / 2
          lineOf u v (-u - v)
        else lineOf m.1 m.2.1 m.2.2
      let c3 := noteCross n line c2
      let c4 := match x.state with
        | .catching => if snlCut c3 n ∨ !x.runReq then snlIdle n c3 else if x.takeover then c3 else snlCatch n c3
        | .aligning => if snlCut c3 n ∨ (if x.test then x.runReq else !x.runReq) then modSnl n (fun x => { x with test := false }) (snlIdle n c3) else c3
        | .ramp => if snlCut c3 n ∨ (if x.test then x.runReq else !x.runReq) then modSnl n (fun x => { x with test := false }) (snlIdle n c3) else snlRamp n c3
        | .run => if snlCut c3 n then snlIdle n c3 else snlRunning n c3
        | .coast => if snlCut c3 n ∨ !x.runReq then snlIdle n c3 else modSnl n (fun x => { x with outAngle := x.theta }) c3
        | .idle => if !snlCut c3 n ∧ x.runReq then snlStart n c3 else modSnl n (fun x => { x with outAngle := x.theta }) c3
        | _ => c3
      -- the position advances by the change of the electrical angle (R295)
      let y := snlSt c4 n
      let d := halfTurn (y.outAngle - before) * elCounts c4 n
      setSnl n { y with pos := wrapPos (y.pos + d), vel := y.omega / twoPi * elCounts c4 n } c4

/-! ### Timed events and the frame knot -/

def snlCatchTimeout (n : Nat) (c : Chip) : Chip :=
  let x := snlSt c n
  if x.state ≠ .catching ∨ x.takeover ∨ c.clk.now < x.since + msNs (actF c (snlPage n) 0x070 31 16) then c else snlAlign n c

def snlCoastEnd (n : Nat) (c : Chip) : Chip :=
  let x := snlSt c n
  if x.state ≠ .coast ∨ c.clk.now < x.since + msNs (actF c (snlPage n) 0x070 15 0) then c
  else if x.runReq then snlStart n c else snlIdle n c

def snlRetryClear (n : Nat) (c : Chip) : Chip :=
  let x := snlSt c n
  if x.state ≠ .run ∨ c.clk.now < x.since + msNs (actF c (snlPage n) 0x074 31 16) then c else setSnl n { x with fails := 0 } c

/-- COMMAND_PIN_EDGE (R309): duty or frequency of the input, from edge times in ns; AXnnn_F0 is timed to 10 ns. -/
def snlPinEdge (n : Nat) (rising : Bool) (t0 : Nat) (c : Chip) : Chip :=
  let w := act c (snlPage n) 0x094
  let t := if fld w 14 8 = 0 then t0 / 10 * 10 else t0
  let x := snlSt c n
  if fld w 1 0 < 2 then c
  else
    let x1 := { x with lastEdge := some c.clk.now, cmdLost := false }
    let y : SnlSt :=
      if rising then
        match x.lastRise with
        | some r =>
          let per : Rat := ((t - r : Nat) : Rat)
          let v : Rat :=
            if per = 0 then x.x
            else if fld w 1 0 = 2 then minRat 1 ((x.highTime : Rat) / per)
            else freqShare c n (1000000000 / per)
          { x1 with x := v, lastRise := some t }
        | none => { x1 with lastRise := some t }
      else match x.lastRise with
        | some r => { x1 with highTime := t - r }
        | none => x1
    snlRequest n (setSnl n y c)

def snlCmdLost (n : Nat) (c : Chip) : Chip :=
  let w := act c (snlPage n) 0x094
  let x := snlSt c n
  if fld w 1 0 < 2 ∨ x.cmdLost ∨ x.state = .off ∨ c.clk.now < x.lastEdge.getD 0 + msNs (fld w 31 24) then c
  else snlRequest n (raise (snlPage n) 12 (setSnl n { x with x := 0, cmdLost := true, lastRise := none } c))

/-- START of SNL_TEST is accepted (R311). -/
def snlTestOk (n : Nat) (c : Chip) : Bool :=
  (snlSt c n).state == .idle && (axis c n).state == .ready

/-- START of SNL_TEST (R311). -/
def snlTest (n : Nat) (c : Chip) : Chip :=
  let x := snlSt c n
  if snlTestOk n c then
    snlAlign n (wr (snlPage n) 0x0AC 0 (setSnl n { x with test := true, testErr := none, testRefused := false } c))
  else setSnl n { x with testRefused := true } c

/-- A host STOP or a reaction ends a test (R311). -/
def snlEndTest (n : Nat) (c : Chip) : Chip :=
  if (snlSt c n).test then modSnl n (fun x => { x with test := false }) (snlIdle n c) else c

/-- The local frequency of sources 1 to 3 over one frame (R309). -/
def snlLocal (c : Chip) (n : Nat) : Rat :=
  let x := snlSt c n
  let t := frameSec c
  let k := elCounts c n
  let up := actQ c (axmPage n) 0x078 / k * t
  let down := (if x.stopId.isSome then x.stopDec else (stopLim c n .slack).d) / k * t
  let f := if x.stopId.isSome ∨ !x.runReq then snlHz c n 0x090 else absRat (snlFreq c n)
  let cur := absRat x.fLocal
  (if cur < f then minRat f (cur + up) else maxRat f (cur - down)) * snlDir c n

/-- A sensorless axis at a frame knot: catches and ramps hand over (R304, R306), and the speed it follows (R309). -/
def snlKnot (n : Nat) (c : Chip) : Chip :=
  let x := snlSt c n
  let p := snlPage n
  if !sensorless c (f128 n) ∨ x.state = .off then c
  else
    let hand (i : Rat) (c : Chip) : Chip :=
      raise (lpaPage n) 8 (setLoop n { loopAx c n with handI := some i, handFrame := true } c)
    let c1 :=
      if x.takeover ∧ x.state = .catching then
        match catchSeen x with
        | some (f, a, t) =>
          let om := twoPi * f
          let c2 := snlEnter n .run c
          let c3 := modSnl n (fun y => { y with
            theta := frac (a + f * ((c.clk.now - t : Nat) : Rat) / 1000000000)
            omega := om
            fLocal := f }) c2
          let c4 := setLoop n { loopAx c3 n with iD := 0, iQ := om * lpaCoef c3 n 0x090 } c3
          cntSat p 0x0C0 15 8 (raise p 10 (hand 0 c4))
        | none => c
      else if x.takeover ∧ x.state = .ramp then
        let i := snlCoef c n 0x084 * snlDir c n
        let c2 := modSnl n (fun y => { y with outAngle := y.theta, fLocal := y.omega / twoPi }) (snlEnter n .run c)
        -- in table drive the vector's amplitude goes on from the curve; the velocity stage still takes over the speed (R208, R306)
        raise p 8 (if bit (act c p 0x040) 0 then raise (lpaPage n) 8 (setLoop n { loopAx c2 n with handFrame := true } c2) else hand i c2)
      else c
    let y := snlSt c1 n
    if selfCommanded c1 n then
      let c2 := modSnl n (fun z => { z with fLocal := if y.state = .run then snlLocal c1 n else 0 }) c1
      let a := axis c2 n
      let moving := y.state == .catching || y.state == .aligning || y.state == .ramp || y.state == .run || y.state == .coast
      let c3 := if a.state = .ready ∨ a.state = .moving then setAxis n { a with state := if moving then .moving else .ready } c2 else c2
      if y.state == .run && y.stopId.isSome && decide (absRat (snlSt c3 n).fLocal ≤ snlHz c3 n 0x090) then snlIdle n c3 else c3
    else if y.state ≠ .run ∧ axEnabled (axis c1 n).state then
      -- the planner takes its set-point state from SNL n until RUN is reached; a stop ends with the drive IDLE (log entry 80)
      let a := axis c1 n
      let rest := a.state == .stopping && y.state == .idle
      let sp : Sp := { p := wrapPos (fbPos c1 n), v := if rest then 0 else fbVel c1 n }
      let pl :=
        if rest then none
        else if a.state = .moving then
          match a.run.bind runSpeed with
          | some v => some (planSpeed sp v (match a.run with | some r => r.lim | none => {})).1
          | none => a.plan
        else a.plan
      setAxis n { a with cur := sp, nxt := sp, plan := pl } c1
    else c1

/-! ### The apply (R296, R319) -/

/-- CMD_SRC 2 or 3 with the pin AXnnn_F0 while FBK n is not OFF. -/
def snlPinBusy (c : Chip) (n : Nat) : Bool :=
  let w := act c (snlPage n) 0x094
  decide (2 ≤ fld w 1 0) && fld w 14 8 == 0 && fbkMode c n != 0

/-- The SNL slots that the axis holds on a converter go, in the shadow and in force. -/
def dropSlots (chs : List Nat) (c : Chip) : Chip :=
  each chs (fun ch c =>
    each (List.range 16) (fun s c =>
      let p := adcPage (ch / 8)
      let off := 0x100 + 4 * s
      let w := act c p off
      if bit w 30 && fld w 2 0 == ch % 8 then wr p (off + 0x800) 0 (wr p off 0 c) else c) c) c

/-- An entry in the lowest free sample slot of its converter; `none` where all 16 are taken. -/
def placeSlot (ofs : Nat) (ch : Nat) (c : Chip) : Option Chip :=
  let p := adcPage (ch / 8)
  match (List.range 16).find? (fun s => !bit (act c p (0x100 + 4 * s)) 31) with
  | none => none
  | some s =>
    let w : Word := BitVec.ofNat 32 (ch % 8 + ofs * 256 + 0xC0000000)
    some (wr p (0x900 + 4 * s) w (wr p (0x100 + 4 * s) w c))

/-- The candidate after an apply of SNL n: its entries placed, or `none` where R296 refuses it. `c` holds the candidate values in force,
`old` the channels that were in force. -/
def snlApply (n : Nat) (old : List Nat) (c : Chip) : Option Chip :=
  let p := snlPage n
  let chs := snlChannels c n
  let conv := chs.map (fun ch => ch / 8)
  let distinct := match conv with | [a, b, d] => a != b && b != d && a != d | _ => false
  let w := act c p 0x04C
  let sampleAt := bit (act c p 0x040) 5
  let ofsOk := !sampleAt || decide (absRat ((signed 16 (fld w 15 0) : Rat) * 4) < carrierNs c n / 2)
  if !distinct || !ofsOk || fld (act c p 0x050) 23 0 == 0 || decide (act c p 0x08C ≤ act c p 0x090) || snlPinBusy c n then none
  else
    let ofs := if sampleAt then fld w 15 0 else 0
    let placed := chs.foldl (fun o ch => o.bind (placeSlot ofs ch)) (some (dropSlots old c))
    placed.filter (fun c' => conv.all (fun k => seqOk c' k))

end Sys2Proof.Machine
end

