-- ==== Sys2Proof/Machine/LoopOps.lean ====
section
/-!
DEFINITION. Loop engines (chapter 8): block-floating stages, the current, model, position and velocity stages, hand-over and
observables.
-/

namespace Sys2Proof.Machine

/-! ### Block-floating storage (R189) -/

def mantOf (e : Int) (x : Rat) : Int := roundAway (x * pow2 (23 - e))

/-- After an evaluation in which a mantissa reaches 2^22, E rises by 1 and every mantissa shifts right with rounding, up to E = +31. -/
def growExp (e : Int) (ms : List Int) : Int × List Int :=
  if ms.any (fun m => decide (2 ^ 22 ≤ m.natAbs)) && decide (e < 31) then (e + 1, ms.map (fun (m : Int) => roundAway ((m : Rat) / 2))) else (e, ms)

/-- A mantissa as its 24 bits hold it: saturated at E = +31; below, one that does not fit is a free value (log entry 171). -/
def fitMant (e m : Int) : Int :=
  if -(2 ^ 23) ≤ m ∧ m < 2 ^ 23 then m
  else if e < 31 then (Config.overMant e m).toInt
  else if 0 ≤ m then 2 ^ 23 - 1 else -(2 ^ 23)

/-- One evaluation's results stored in a stage block: its exponent, with the note that a mantissa saturated at E = +31, and the values
the mantissas stand for. -/
def storeBlock (st : StageExp) (xs : List Rat) : StageExp × List Rat :=
  let g := growExp st.e (xs.map (mantOf st.e))
  let sat := decide (g.1 = 31) && g.2.any (fun m => decide (2 ^ 23 ≤ m.natAbs))
  let ms := g.2.map (fitMant g.1)
  let small := ms.all (fun m => decide (m.natAbs < 2 ^ 20))
  let run := if small then st.small + 1 else 0
  let down := decide (16 ≤ run) && decide (-32 < g.1)
  ({ e := if down then g.1 - 1 else g.1, small := if down then 0 else min 16 run, sat := sat }, ms.map (fun (m : Int) => (m : Rat) * pow2 (g.1 - 23)))

/-- EXP_SAT and 0x38 (R189, R212), once while a stage of the axis stays saturated (R36). -/
def expSat (n : Nat) (c : Chip) : Chip :=
  let x := loopAx c n
  let p := lpaPage n
  if !(x.ePos.sat || x.eVel.sat || x.eCur.sat || x.eMdl.sat) then endCond p 0x38 c
  else if standing c p 0x38 then c
  else react n 5 0x38 (latchCond p 0x38 (raise p 12 c))

/-! ### Which axes run -/

def lpaBit (c : Chip) (n i : Nat) : Bool := bit (act c (lpaPage n) 0x040) i

/-- The engine of an axis runs its stages: the axis's LPA page acts, no halt, SYS clock present. The engines run their program from boot,
whatever PG_CTL.EN of their own page (R213). -/
def engineRuns (c : Chip) (n : Nat) : Bool :=
  !(lpe c (n / 32)).halted && acting c (lpaPage n) && !clkLost c .sys

/-- The axes whose LPA MODE in force is not OFF, in ascending order. -/
def loopAxes (c : Chip) : List Nat :=
  (listed c 0x100 128).filter (fun n => lpaMode c n != 0 && engineRuns c n)

/-! ### Hand-over (R208) -/

/-- What produces i_q*: 0 nothing, 1 KAFF × a_ref, 2 the velocity stage, 3 MAN_IQ. -/
def srcI (w : Word) : Nat :=
  match fld w 2 0 with
  | 0 => 0
  | 1 => if fld w 5 4 = 1 then 3 else 1
  | _ => if fld w 5 4 = 1 then 3 else 2

/-- What produces the voltage vector: 0 nothing, 1 the PI stage, 2 MAN_VD and MAN_VQ. -/
def srcV (w : Word) : Nat := if fld w 2 0 = 0 then 0 else if fld w 5 4 = 2 then 2 else 1

/-- The bus group clamps regenerative torque, and this i_q* would regenerate (R201). -/
def regenClamps (c : Chip) (n : Nat) (iq : Rat) : Bool :=
  (busSt c (busOf c (f128 n)).val).clamp && decide (iq * (loopAx c n).vF < 0)

/-- i_q* in force: 0 while the clamp of R201 acts on it. -/
def iqInForce (c : Chip) (n : Nat) : Rat := if regenClamps c n (loopAx c n).iqRef then 0 else (loopAx c n).iqRef

/-- An applied LPA_MODE hands over each output whose source changes to another that produces it. -/
def loopHandover (n : Nat) (old new : Word) (c : Chip) : Chip :=
  let x := loopAx c n
  let i := srcI old != srcI new && srcI new != 0
  let v := srcV old != srcV new && srcV new != 0
  if i || v then
    raise (lpaPage n) 8 (setLoop n { x with
      handFrame := true
      handI := if i then some (iqInForce c n) else x.handI
      handV := if v then some (x.vD, x.vQ) else x.handV } c)
  else c

/-! ### Current stage (R198 to R201) -/

/-- Electrical angle in turns and electrical frequency in Hz at the sample (R198, R299). -/
def loopAngle (c : Chip) (n : Nat) : Rat × Rat :=
  if sensorless c (f128 n) then
    let x := snlSt c n
    -- the estimate of the sample before, advanced by ω̂ × T_s; ALIGN and RAMP give their own angle (R299)
    (if x.state == .aligning || x.state == .ramp then x.outAngle else frac (x.outAngle + snlHat c n * sampleSec c), snlHat c n)
  else
    let x := fbkSt c n
    let k := (polePairs c n : Rat) / (cpr c n : Nat)
    let pos := if commandedSteps c n then stepPos (axis c n) else x.pos
    (frac (k * pos + (actF c (lpaPage n) 0x0A0 31 16 : Rat) / 65536), k * x.vel)

/-- A slewed output (R208): the previous output moved toward the stage output, and whether it has met it. -/
def slewTo (prev target lim : Rat) : Rat × Bool :=
  let d := target - prev
  if absRat d ≤ lim then (target, true) else (prev + (if d < 0 then -lim else lim), false)

/-- Clamps to ±l: the value, and whether it was clamped. -/
def clampSym (l x : Rat) : Rat × Bool := if l < x then (l, true) else if x < -l then (-l, true) else (x, false)

/-- A duty set from phase voltages by min-max injection (R200). -/
def spaceVector (va vb vc v : Rat) : Duty :=
  let v0 := -(maxRat va (maxRat vb vc) + minRat va (minRat vb vc)) / 2
  let d (x : Rat) := dutyBits (1 / 2 + (x + v0) / v)
  { u := d va, v := d vb, w := d vc }

/-- T_adv = T_c / 2 + T_s / 2, in seconds. -/
def tAdv (c : Chip) (n : Nat) : Rat := (carrierNs c n + sampleLen c) / 2000000000

/-- Table W of a drive table at an angle in turns (R302). -/
def tabW (c : Chip) (t : Nat) (a : Rat) : Rat :=
  let q := ((frac a) * 65536).floor.toNat % 65536
  let entry (j : Nat) : Int :=
    let i := j % 128
    let w := act c (.snl 0) (0x400 + 4 * (64 * t + i / 2))
    let v := signed 16 (if i % 2 = 0 then fld w 15 0 else fld w 31 16)
    if 128 ≤ j % 256 then -v else v
  let e0 := entry (q / 256)
  let e1 := entry (q / 256 + 1)
  ((e0 : Rat) + ((e1 - e0 : Int) : Rat) * ((q % 256 : Nat) : Rat) / 256) / 16384

/-- DRIVE = 1 (R301): the duties of the table drive. -/
def tableDuties (c : Chip) (n : Nat) (th f : Rat) : Duty :=
  let x := snlSt c n
  let v := vdc c n
  let fe := if x.state == .ramp then (curveAt (curvePoints c n) (((c.clk.now - x.since : Nat) : Rat) / 1000000)).1 else absRat f
  let amp :=
    if x.state == .aligning then snlCoef c n 0x0A4
    else minRat (snlCoef c n 0x0A4 + snlCoef c n 0x0A0 * fe) (lpaCoef c n 0x094 * v / sqrt3)
  let t := actF c (snlPage n) 0x040 2 1
  -- in RAMP the speed is the curve's, as the amplitude's (log entry 184)
  let adv := if x.state == .aligning then 0 else if x.state == .ramp then fe * snlDir c n else f
  let a := th + adv * tAdv c n
  let d (k : Nat) := dutyBits (1 / 2 + amp * tabW c t (a - (k : Rat) / 3) / v)
  { u := d 0, v := d 1, w := d 2 }

/-- The current set-points in use: the sensorless ALIGN and RAMP replace them (R301). -/
def currentRefs (c : Chip) (n : Nat) : Rat × Rat :=
  let x := loopAx c n
  if sensorless c (f128 n) then
    match (snlSt c n).state with
    | .aligning => (snlCoef c n 0x080, 0)
    | .ramp => (0, snlCoef c n 0x084 * snlDir c n)
    | _ => (x.idRef, x.iqRef)
  else (x.idRef, x.iqRef)

/-- The current stage of one axis at a sample, and its duties. -/
def currentStage (n i : Nat) (c : Chip) : Chip :=
  let p := lpaPage n
  let w := act c p 0x040
  let x := loopAx c n
  let pulses := !(modSt c n).block
  let (th, f) := loopAngle c n
  let om := twoPi * f
  let (iu, iv, iw) := phaseCurrents c n
  let (ia, ib) := clarke iu iv iw
  let co := cosTurn th
  let si := sinTurn th
  let id := ia * co + ib * si
  let iq := -ia * si + ib * co
  let (idr, iqr0) := currentRefs c n
  let clamped := regenClamps c n iqr0
  let iqr := if clamped then 0 else iqr0
  let kcp := lpaCoef c n 0x080
  let kci := lpaCoef c n 0x084
  let v := vdc c n
  let vmax := lpaCoef c n 0x094 * v / sqrt3
  let ed := idr - id
  let eq := iqr - iq
  let dec := bit w 11
  let ffd := if dec then -om * lpaCoef c n 0x08C * iqr else 0
  let ffq := if dec then om * (lpaCoef c n 0x088 * idr + lpaCoef c n 0x090) else 0
  -- a changed gain (R206), then a hand-over at sample 0 (R208)
  let bump := bit w 12 && kcp != x.kcp
  let b (integ e : Rat) : Rat × Bool := if bump then clampSym vmax (integ - (kcp - x.kcp) * e) else (integ, false)
  let (bd, cd) := b x.iD ed
  let (bq, cq) := b x.iQ eq
  let man := fld w 5 4 == 2
  let hand := if i = 0 ∧ !man then x.handV else none
  let (hd, gd) := match hand with | some (ud, _) => clampSym vmax (ud - kcp * ed - ffd) | none => (bd, false)
  let (hq, gq) := match hand with | some (_, uq) => clampSym vmax (uq - kcp * eq - ffq) | none => (bq, false)
  let slew0 := x.slewV || cd || cq || gd || gq || (i == 0 && x.handV.isSome && man)
  let ud := if man then lpaCoef c n 0x14C else kcp * ed + hd + ffd
  let uq := if man then lpaCoef c n 0x148 else kcp * eq + hq + ffq
  -- the slew limit, then the voltage limit
  let lim := lpaCoef c n 0x098
  let (sd, md) := if slew0 then slewTo x.vD ud lim else (ud, true)
  let (sq_, mq) := if slew0 then slewTo x.vQ uq lim else (uq, true)
  let (vd, ld) := clampSym vmax sd
  let (vq, lq) := clampSym (sqrt48 (maxRat 0 (vmax * vmax - vd * vd))) sq_
  let hold (integ e u : Rat) (l : Bool) : Rat :=
    (clampSym vmax (if x.frozen || !pulses || man || (l && decide (0 < e * u)) then integ else integ + kci * e)).1
  let iD := hold hd ed sd ld
  let iQ := hold hq eq sq_ lq
  let st := storeBlock x.eCur [id, iq, iD, iQ, vd, vq, ia, ib]
  let g (k : Nat) : Rat := st.2.getD k 0
  let vlim := ld || lq
  let blocked := !pulses
  let y : LoopAx := { x with
    eCur := st.1
    id := g 0
    iq := g 1
    iD := if blocked then 0 else g 2
    iQ := if blocked then 0 else g 3
    vD := if blocked then 0 else g 4
    vQ := if blocked then 0 else g 5
    iAlpha := g 6
    iBeta := g 7
    theta := th
    omega := om
    kcp := kcp
    slewV := slew0 && !(md && mq) && pulses
    vLimited := vlim
    regen := clamped
    handV := if i = 0 then none else x.handV
    raised := x.raised ||| (if vlim then 1 else 0) ||| (if clamped then 4 else 0) }
  let c1 := setLoop n y c
  let c2 := raiseIf (vlim && !x.vLimited && !x.raised.testBit 0) p 10 c1
  let c3 := raiseIf (clamped && !x.regen && !x.raised.testBit 2) p 14 c2
  let c4 := raiseIf (gd || gq) p 9 c3
  let c5 := expSat n c4
  if modMode c5 n ≠ 0 then c5
  else
    let duty :=
      if sensorless c5 (f128 n) && bit (act c5 (snlPage n) 0x040) 0 then tableDuties c5 n th f
      else
        let a := th + f * tAdv c5 n
        let ca := cosTurn a
        let sa := sinTurn a
        let al := vd * ca - vq * sa
        let be := vd * sa + vq * ca
        let h := sqrt3 / 2 * be
        spaceVector al (-al / 2 + h) (-al / 2 - h) v
    let c6 := writeDuties n duty c5
    if bit w 16 then
      sourceRaise 2 n (BitVec.ofNat 32 n) (BitVec.ofNat 32 (c6.tim.sampleNo % 65536)) (BitVec.ofNat 32 i) c6
    else c6

/-! ### Model stage (R202) -/

def modelStage (n : Nat) (c : Chip) : Chip :=
  let x := loopAx c n
  let s := supAx c n
  let pulses := !(modSt c n).block
  let valid := fbValid c n
  if !valid && !s.estimating && !pulses then c
  else
    let ts := sampleSec c
    let xs := if sensorless c (f128 n) then (snlSt c n).pos else if commandedSteps c n then stepPos (axis c n) else (fbkSt c n).pos
    let r := clampRat (-(2 ^ 31)) (2 ^ 31) (posDiff xs x.xHat)
    let on (off : Nat) : Rat := if s.estimating then 0 else lpaCoef c n off
    let iq := if pulses then x.iq else 0
    let xh := wrapPos (x.xHat + ts * x.vHat + on 0x108 * r)
    let vh := x.vHat + lpaCoef c n 0x100 * iq - lpaCoef c n 0x104 * x.vHat - x.tau + on 0x10C * r
    let tau := x.tau - on 0x110 * r
    let iqh := x.iqHat + lpaCoef c n 0x118 * (x.vQ - x.omega * lpaCoef c n 0x090) - lpaCoef c n 0x114 * x.iqHat
    let st := storeBlock x.eMdl [vh, tau, iqh, r, iq - iqh]
    let g (k : Nat) : Rat := st.2.getD k 0
    expSat n (setLoop n { x with
      eMdl := st.1
      xHat := xh
      vHat := g 0
      tau := g 1
      iqHat := g 2
      resid := g 3
      iResid := g 4
      pred := xh + g 0 * frameSec c } c)

/-! ### Position and velocity stages (R195 to R197) -/

/-- One biquad (R197): its output, its states, and the bypass it evaluated with. -/
def biquad (c : Chip) (n b : Nat) (x : Rat) (z1 z2 : Rat) (was : Bool) : Rat × Rat × Rat × Bool :=
  let k (i : Nat) : Rat := lpaCoef c n (0x0C0 + 0x20 * b + 4 * i)
  if bit (rd c (lpaPage n) (0x0D4 + 0x20 * b)) 0 then (x, z1, z2, true)
  else
    let w1 := if was then (k 1 + k 2 - k 3 - k 4) * x else z1
    let w2 := if was then (k 2 - k 4) * x else z2
    let y := k 0 * x + w1
    (y, k 1 * x - k 3 * y + w2, k 2 * x - k 4 * y, false)

/-- The speed filter of R196, with which the velocity stage begins: v_raw is the speed latched at the knot, or v̂ of sample 0. In CURRENT
mode, where no velocity stage runs (Table 8-2), it runs at the same place, since R201 and R225 use v_f there too. DEDUCED, log entry 172. -/
def speedFilter (n : Nat) (c : Chip) : Chip :=
  let x := loopAx c n
  let raw := if lpaBit c n 8 || (supAx c n).estimating then x.vHat else fbVel c n
  setLoop n { x with vF := x.vF + lpaCoef c n 0x074 * (raw - x.vF) } c

/-- The velocity set-point: the planner's, or the local frequency of a self-commanded drive (R309). -/
def vRef (c : Chip) (n : Nat) : Rat :=
  if selfCommanded c n then (snlSt c n).fLocal * elCounts c n else (axis c n).cur.v

/-- The current set-points of CURRENT mode (Table 8-2): KAFF × a_ref and ID_REF, or the manual values; a hand-over moves them through the
slew limit, once a frame (R208). -/
def directRefs (i n : Nat) (c : Chip) : Chip :=
  let w := act c (lpaPage n) 0x040
  let x := loopAx c n
  let man := srcI w == 3
  let tq := if man then lpaCoef c n 0x140 else lpaCoef c n 0x064 * (axis c n).cur.a
  let td := if man then lpaCoef c n 0x144 else lpaCoef c n 0x078
  if (modSt c n).block then setLoop n { x with iqRef := 0, idRef := 0, slewI := false, handI := none } c
  else if i = 0 ∧ (x.slewI ∨ x.handI.isSome) then
    let q := slewTo (x.handI.getD x.iqRef) tq (lpaCoef c n 0x070)
    let d := slewTo x.idRef td (lpaCoef c n 0x070)
    setLoop n { x with iqRef := q.1, idRef := d.1, slewI := !(q.2 && d.2), handI := none } c
  else if x.slewI then c
  else setLoop n { x with iqRef := tq, idRef := td } c

/-- The position and velocity stages of one axis, after the model stage of sample 0: its current set-points, used from the next sample on
(R21). -/
def frameStages (n : Nat) (c0 : Chip) : Chip :=
  let c := speedFilter n c0
  let p := lpaPage n
  let w := act c p 0x040
  let mode := fld w 2 0
  let a := axis c n
  let x := loopAx c n
  let s := supAx c n
  let pulses := !(modSt c n).block
  let fb := if s.estimating then x.xHat else fbPos c n
  let ep := clampRat (-(2 ^ 31)) (2 ^ 31) (posDiff a.cur.p fb)
  let kvff := lpaCoef c n 0x054
  let vcmd := if mode = 3 then (clampSym (lpaCoef c n 0x058) (lpaCoef c n 0x050 * ep + kvff * vRef c n)).1 else kvff * vRef c n
  let sp := storeBlock x.ePos [ep, vcmd]
  let vc := sp.2.getD 1 0
  let ff := lpaCoef c n 0x064 * a.cur.a
  let kvp := lpaCoef c n 0x05C
  let ev := vc - x.vF
  let ivlim := minRat (lpaCoef c n 0x068) (lpaCoef c n 0x06C)
  let bump := bit w 12 && kvp != x.kvp
  let (bv, cb) := if bump then clampSym ivlim (x.iV - (kvp - x.kvp) * ev) else (x.iV, false)
  let (hv, gv) := match x.handI with
    | some u => if srcI w = 2 then clampSym ivlim (u - kvp * ev - ff) else (bv, false)
    | none => (bv, false)
  let u0 := kvp * ev + hv + ff
  let q0 := biquad c n 0 u0 (x.z1.getD 0 0) (x.z2.getD 0 0) (x.bypass.getD 0 true)
  let q1 := biquad c n 1 q0.1 (x.z1.getD 1 0) (x.z2.getD 1 0) (x.bypass.getD 1 true)
  let (us, il) := clampSym (lpaCoef c n 0x06C) q1.1
  let vel := decide (2 ≤ mode)
  let target := match srcI w with
    | 3 => lpaCoef c n 0x140
    | 2 => us
    | _ => ff
  let slew0 := x.slewI || cb || gv || (x.handI.isSome && srcI w != 2)
  let prev := x.handI.getD x.iqRef
  let (out, met) := if slew0 then slewTo prev target (lpaCoef c n 0x070) else (target, true)
  let idt := if srcI w = 3 then lpaCoef c n 0x144 else lpaCoef c n 0x078
  let (ido, metD) := if slew0 then slewTo x.idRef idt (lpaCoef c n 0x070) else (idt, true)
  let iv1 := (clampSym ivlim (if x.frozen || x.regen || !pulses || (il && decide (0 < ev * us)) then hv else hv + lpaCoef c n 0x060 * ev)).1
  let sv := storeBlock x.eVel [x.vF, iv1, q0.2.1, q1.2.1, q0.2.2.1, q1.2.2.1, us, out, ido]
  let g (k : Nat) : Rat := sv.2.getD k 0
  let y : LoopAx := { x with
    ePos := sp.1
    eVel := sv.1
    posErr := sp.2.getD 0 0
    vCmd := vc
    vF := g 0
    iV := if pulses then g 1 else 0
    z1 := if pulses then [g 2, g 3] else [0, 0]
    z2 := if pulses then [g 4, g 5] else [0, 0]
    bypass := [q0.2.2.2, q1.2.2.2]
    uStage := g 6
    iqRef := if pulses then g 7 else 0
    idRef := if pulses then g 8 else 0
    kvp := kvp
    slewI := slew0 && !(met && metD) && pulses
    iLimited := il && vel
    handI := none
    raised := x.raised ||| (if il && vel then 2 else 0) }
  let c1 := setLoop n y c
  let c2 := raiseIf (il && vel && !x.iLimited && !x.raised.testBit 1) p 11 c1
  let c3 := raiseIf gv p 9 c2
  let c4 := expSat n c3
  if vel && bit w 17 then sourceRaise 3 n (BitVec.ofNat 32 n) (BitVec.ofNat 32 c4.tim.frameNo) 0 c4 else c4

/-! ### Observables (R211) and engine status -/

/-- The OBS_ registers, in the order of Table 8-8. -/
def observables (c : Chip) (n : Nat) : List Word :=
  let x := loopAx c n
  let kt := lpaCoef c n 0x100
  ([iqInForce c n, x.iq, x.id, x.vQ, x.vD, x.vF, x.vHat, if kt = 0 then 0 else x.tau / kt, x.iV, x.resid, x.vCmd]).map (fun v => (toCoef v).1)

/-- The observables are valid once the axis has been active for one frame (R211). -/
def obsValid (c : Chip) (n : Nat) : Bool := lpaMode c n != 0 && decide (1 ≤ (loopAx c n).activeFrames)

def storeObs (n : Nat) (c : Chip) : Chip :=
  setLoop n { loopAx c n with obs := observables c n } c

/-- Code 0x39: torque is on while the observer is not synchronised (R212, R299). -/
def angleCheck (n : Nat) (c : Chip) : Chip :=
  if sensorless c (f128 n) && (axis c n).torque && !snlSynced (snlSt c n).state then react n 4 0x39 (latchCond (lpaPage n) 0x39 c)
  else endCond (lpaPage n) 0x39 c

/-- Every axis of a quarter takes TORQUE_OFF (R212). -/
def quarterOff (e : Nat) (code : Byte) (c : Chip) : Chip :=
  each ((List.range 32).map (fun i => 32 * e + i)) (fun n c => react n 4 code c) c

/-- Apply points missed since the last sample (R23): a set of the last sample that still waits, or one that waited for a centre. Whether the
two consecutive samples must miss at the same port R23 leaves open; they are counted per quarter, so misses of two ports of a quarter in
consecutive samples fault as well. DESIGN CHOICE, log entry 173. -/
def missCheck (e : Nat) (c : Chip) : Chip :=
  let x := lpe c e
  let late := x.missed || (c.mods.any (fun m => m.1 / 32 == e && m.2.pendingSet && m.2.carrier))
  let p := lpePage e
  if late then
    let run := x.missRun + 1
    let c1 := cntSat p 0x050 31 16 (raise p 10 (setLpe e { x with missed := false, missRun := min 2 run } c))
    if run = 2 then quarterOff e 0x3E (latchFault p 0x3E c1) else c1
  else setLpe e { x with missed := false, missRun := 0 } c

/-- A stage of sample 0 did not complete in time (R212). -/
def overrunFault (e : Nat) (c : Chip) : Chip := quarterOff e 0x3C (latchFault (lpePage e) 0x3C (raise (lpePage e) 11 c))

end Sys2Proof.Machine
end

