-- ==== Sys2Proof/Machine/SupOps.lean ====
section
/-!
DEFINITION. Supervision of an axis (chapter 9, R219 to R226).
-/

namespace Sys2Proof.Machine

/-- A supervision register as the last frame knot took it (R238). -/
def supReg (c : Chip) (n off : Nat) : Word := (supAx c n).regs.getD ((off - 0x200) / 4) 0

def supFld (c : Chip) (n off hi lo : Nat) : Nat := fld (supReg c n off) hi lo

/-- A check of an axis fails: its code latches in LPA n once while the condition stands (R36), REACTION is raised, and the axis takes
the class. -/
def supCond (n : Nat) (code : Byte) (cls cause : Nat) (c : Chip) : Chip :=
  let p := lpaPage n
  if standing c p code then c
  else react n cls code (latchCond p code (raise p 19 (if cause = 0 then c else raise p cause c)))

/-- Feedback unusable for the checks on v_f and e_p (R226). -/
def fbGone (s : SupAx) : Bool := s.fbLost || s.fbFrozen

/-- PLAUS_SUPPRESSED (R226). -/
def plausSuppressed (c : Chip) (n : Nat) : Bool :=
  let s := supAx c n
  decide (0 < (loopAx c n).settling) || !(axis c n).torque || decide (s.torqueFrames < 16) || fbGone s

/-- FBK n or SNL n reports loss (R222): LOST of the channel in use (R289), or a sensorless axis whose SNL n is in FAULT or without
measurement (R297). -/
def fbLoss (c : Chip) (n : Nat) : Bool :=
  if sensorless c (f128 n) then (snlSt c n).state == .fault || (snlSt c n).lostMeas
  else if commandedSteps c n then false
  else (fbkSt c n).lost

/-- The latched feedback position that R223 watches. -/
def watchedPos (c : Chip) (n : Nat) : Rat :=
  if sensorless c (f128 n) then (snlSt c n).pos else if commandedSteps c n then stepPos (axis c n) else (fbkSt c n).posK

/-- The freeze check is made, the position has not changed and the speed asks for a change (R223, R226). -/
def standsStill (c : Chip) (n : Nat) (pos : Rat) : Bool :=
  let s := supAx c n
  let x := loopAx c n
  let vmin : Rat := ((supReg c n 0x224).toNat : Rat)
  decide (pos = s.lastPos) && decide (vmin ≤ absRat x.vHat) && x.settling == 0 && (axis c n).torque && decide (16 ≤ s.torqueFrames)

/-- A standstill that has lasted T_FREEZE, or a freeze that goes on (R223). -/
def freezeNow (c : Chip) (n : Nat) (since : Option Nat) (same : Bool) : Bool :=
  match since with
  | some t => decide (t + supFld c n 0x220 15 0 * 1000000 ≤ c.clk.now)
  | none => (supAx c n).fbFrozen && same

/-- Loss and freeze of the feedback (R222, R223), which always run. -/
def supFeedback (n : Nat) (c : Chip) : Chip :=
  let p := lpaPage n
  let cls := supFld c n 0x200 14 12
  let s := supAx c n
  let lost := fbLoss c n
  let pos := watchedPos c n
  let since : Option Nat := if !lost && standsStill c n pos then some (s.stillSince.getD c.clk.now) else none
  let frozen := freezeNow c n since (decide (pos = s.lastPos) && !lost)
  let c1 := setSup n { s with lastPos := pos, stillSince := since, fbLost := lost, fbFrozen := frozen } c
  let c2 := if lost then supCond n 0x33 cls 16 c1 else endCond p 0x33 c1
  let c3 := if frozen then supCond n 0x34 cls 17 c2 else endCond p 0x34 c2
  setLoop n { loopAx c3 n with frozen := lost || frozen } c3

/-- A check's condition stands or has ended (R36). -/
def supHolds (on : Bool) (n : Nat) (code : Byte) (cls cause : Nat) (c : Chip) : Chip :=
  if on then supCond n code cls cause c else endCond (lpaPage n) code c

/-- Following error (R220). -/
def supFollow (n : Nat) (c : Chip) : Chip :=
  let p := lpaPage n
  let w := supReg c n 0x200
  let s := supAx c n
  let e := absRat (posDiff (axis c n).cur.p (fbPos c n))
  let run := bit w 0 && lpaMode c n == 3 && !(loopAx c n).handFrame && (axis c n).torque && !fbGone s && !s.estimating
  if !run then endCond p 0x30 (setSup n { s with feRun := 0, feWarn := false } c)
  else
    let warn := decide (((supReg c n 0x20C).toNat : Rat) < e)
    let lim := supFld c n 0x210 7 0
    let k := if ((supReg c n 0x208).toNat : Rat) < e then min lim (s.feRun + 1) else 0
    let c1 := raiseIf (warn && !s.feWarn) p 15 (setSup n { s with feRun := k, feWarn := warn } c)
    supHolds (k == lim) n 0x30 (fld w 6 4) 0 c1

/-- Plausibility of the model residuals (R221). -/
def supPlaus (n : Nat) (c : Chip) : Chip :=
  let p := lpaPage n
  let w := supReg c n 0x200
  let s := supAx c n
  let x := loopAx c n
  if !bit w 1 ∨ plausSuppressed c n then endCond p 0x31 (endCond p 0x32 c)
  else
    let count (k : Nat) (big : Bool) (lim : Nat) : Nat := if big then min lim (k + 1) else k - 1
    let l1 := supFld c n 0x21C 7 0
    let l2 := supFld c n 0x21C 15 8
    let k1 := count s.posCnt (decide (((supReg c n 0x214).toNat : Rat) < absRat x.resid)) l1
    let k2 := count s.curCnt (decide (coefVal (supReg c n 0x218) < absRat x.iResid)) l2
    let c1 := setSup n { s with posCnt := k1, curCnt := k2 } c
    supHolds (k2 == l2) n 0x32 (fld w 10 8) 18 (supHolds (k1 == l1) n 0x31 (fld w 10 8) 18 c1)

/-- Overspeed (R225). -/
def supSpeed (n : Nat) (c : Chip) : Chip :=
  let p := lpaPage n
  let w := supReg c n 0x200
  let s := supAx c n
  if !bit w 3 ∨ fbGone s then endCond p 0x35 (setSup n { s with ovsRun := 0 } c)
  else
    let k := if ((supReg c n 0x228).toNat : Rat) < absRat (loopAx c n).vF then min 2 (s.ovsRun + 1) else 0
    supHolds (k == 2) n 0x35 (fld w 18 16) 0 (setSup n { s with ovsRun := k } c)

/-- The frame's checks of one axis in an active mode, after the stages of sample 0 (R219, step 8 of Table 1-4). -/
def supervise (n : Nat) (c : Chip) : Chip :=
  let c1 := supFeedback n c
  supSpeed n (supPlaus n (supFollow n c1))

/-- The frame's counts of one axis, at its knot: settling (R207), frames with torque on (R226), frames active (R211). -/
def supCount (n : Nat) (c : Chip) : Chip :=
  let x := loopAx c n
  let on := lpaMode c n != 0
  let c1 := setLoop n { x with
    settling := x.settling - 1
    handFrame := false
    raised := 0
    activeFrames := if on then min 2 (x.activeFrames + 1) else 0 } c
  modSup n (fun s => { s with regs := (List.range 12).map (fun i => rd c (lpaPage n) (0x200 + 4 * i)), torqueFrames := if (axis c1 n).torque then min 17 (s.torqueFrames + 1) else 0 }) c1

end Sys2Proof.Machine
end

