-- ==== Sys2Proof/Machine/TimOps.lean ====
section
/-!
DEFINITION. The time base (chapter 5): the servo, steps, PTP, knots 1 to 31 and capture inputs.
-/

namespace Sys2Proof.Machine

def modTim (f : TimSt → TimSt) (c : Chip) : Chip := { c with tim := f c.tim }

/-! ### Servo (R100 to R104) -/

/-- TIM_RATE for a correction y in 1/16 ppb (R101). -/
def rateOf (y : Rat) : Int := roundAway (y / 16 * 4 * (2 ^ 32 : Nat) / 1000000000)

/-- TIM_RATE limited to ±500 ppm (R96). -/
def clampRate (r : Int) : Int := if r > 8589935 then 8589935 else if r < -8589935 then -8589935 else r

/-- I, as TIM_INTEG holds it. -/
def integ (c : Chip) : Int := signed 32 (rd c .tim 0x05C).toNat

/-- The rate from I alone (R101). -/
def rateFromI (c : Chip) : Chip := modTim (fun t => { t with rate := clampRate (rateOf (-(integ c : Rat))) }) c

/-- TIM_INTEG and the rate it gives, as the save image held them, where the last power-down completed a save (R99). -/
def restoreInteg (c : Chip) : Chip := if c.pwr.lastSave = 1 then rateFromI (wr .tim 0x05C c.pwr.savedInteg c) else c

/-- The PI update for an accepted sample (R101); a clamped rate leaves I as it was. -/
def servoPi (th : Rat) (c : Chip) : Chip :=
  let kp : Rat := ((rd c .tim 0x060).toNat : Rat) / 65536
  let ki : Rat := ((rd c .tim 0x064).toNat : Rat) / 65536
  let i := roundAway ((integ c : Rat) + 16 * ki * th)
  let r := rateOf (-(16 * kp * th + (i : Rat)))
  let c1 := modTim (fun t => { t with rate := clampRate r }) c
  if clampRate r = r then wr .tim 0x05C (BitVec.ofInt 32 i) c1 else c1

/-- An accepted sample moves the servo (Table 5-1), by a PI update or a step request (R102). -/
def servoAccept (th : Rat) (c : Chip) : Chip :=
  let t := c.tim
  let ofs : Int := let r := roundAway th; if r > 2147483647 then 2147483647 else if r < -2147483648 then -2147483648 else r
  let c0 := wr .tim 0x068 (BitVec.ofInt 32 ofs) (modTim (fun t => { t with thetaPrev := some th, discardRun := 0, lastSample := c.clk.now }) c)
  let big := decide (((rd c .tim 0x06C).toNat : Rat) < absRat th)
  let thr : Rat := (rdF c .tim 0x070 15 0 : Rat)
  let inside := decide (absRat th ≤ thr)
  let act1 : Chip → Chip := if big ∧ bit (rd c .tim 0x040) 9 then modTim (fun t => { t with stepReq := some (-th) }) else servoPi th
  match t.servo with
  | .free | .holdover => act1 (modTim (fun t => { t with servo := .acquiring, lockRun := 0, bigRun := 0 }) c0)
  | .acquiring =>
    let run := if inside && !big then t.lockRun + 1 else 0
    let lock := decide (rdF c .tim 0x070 19 16 ≤ run)
    act1 (raiseIf lock .tim 8 (modTim (fun t => { t with servo := if lock then .locked else .acquiring, lockRun := if lock then 0 else run, bigRun := 0 }) c0))
  | .locked =>
    let wide := decide (4 * thr < absRat th)
    let k := if wide then t.bigRun + 1 else 0
    let out := big || decide (2 ≤ k)
    act1 (raiseIf out .tim 9 (modTim (fun t => { t with servo := if out then .acquiring else .locked, bigRun := if out then 0 else k, lockRun := 0 }) c0))

/-- An offset sample from a source (1 PTP, 2 PPSIN, 3 HOST); `port` counts a discarded one. -/
def servoSample (src : Nat) (port : Option Nat) (th : Rat) (c : Chip) : Chip :=
  let w := rd c .tim 0x040
  if !isUp c .tim ∨ !bit w 8 ∨ fld w 5 4 ≠ src then c
  else
    let lim := rdF c .tim 0x07C 15 0
    let outlier := src != 3 && lim != 0 && decide (c.tim.discardRun < 3) &&
      (match c.tim.thetaPrev with | some p => decide ((lim : Rat) < absRat (th - p)) | none => false)
    if outlier then
      let c1 := modTim (fun t => { t with discardRun := t.discardRun + 1 }) c
      match port with
      | some p => cntSat .tim (0x240 + 4 * p) 23 16 c1
      | none => c1
    else servoAccept th c

/-- TIM_CTL is written (Table 5-1, last row). -/
def timCtlWritten (c : Chip) : Chip :=
  let w := rd c .tim 0x040
  if !bit w 8 ∨ fld w 5 4 = 0 then
    rateFromI (modTim (fun t => { t with servo := .free, thetaPrev := none, discardRun := 0, lockRun := 0, bigRun := 0, stepReq := none }) c)
  else c

/-- HOLDOVER (R103). -/
def holdover (c : Chip) : Chip :=
  let t := c.tim
  let due := decide (t.lastSample + rdF c .tim 0x074 15 0 * 1000000 ≤ c.clk.now)
  match t.servo with
  | .acquiring => if due then raise .tim 11 (rateFromI (modTim (fun t => { t with servo := .holdover }) c)) else c
  | .locked => if due then raise .tim 11 (raise .tim 9 (rateFromI (modTim (fun t => { t with servo := .holdover }) c))) else c
  | _ => c

/-- A PPSIN edge (R100): its time less TIM_PPS_DELAY and the whole second nearest to the edge. -/
def ppsinEdge (falling : Bool) (c : Chip) : Chip :=
  if bit (rd c .tim 0x040) 13 != falling then c
  else
    let t : Int := timeNs c
    let s := (t + 500000000) / 1000000000
    servoSample 2 none (((t - signed 32 (rd c .tim 0x080).toNat - s * 1000000000 : Int) : Rat)) c

/-! ### PLL C (R97) -/

/-- EN of the TIM page goes to 1. -/
def timEnable (c : Chip) : Chip :=
  let w := rd c .tim 0x040
  if flag (bit w 0) 0 ≠ c.tim.pllSrc ∨ fld w 21 16 ≠ c.tim.pllMhz then
    modTim (fun t => { t with relocking := true, pllLock := false, pllSrc := flag (bit w 0) 0, pllMhz := fld w 21 16 }) c
  else if c.tim.pllLock then setState .tim .run c
  else c

/-- PLL C loses lock: PLL_LOCK reads 0, and the page returns to READY while it relocks (R97). -/
def timUnlock (c : Chip) : Chip :=
  let c1 := modTim (fun t => { t with pllLock := false, relocking := true }) c
  if (hdr c1 .tim).state = .run then setState .tim .ready c1 else c1

/-- PLL_LOCK. -/
def pllLockEvent (c : Chip) : Chip :=
  if !c.tim.relocking && c.tim.pllLock then c
  else
    let c1 := modTim (fun t => { t with relocking := false, pllLock := true }) c
    if (hdr c1 .tim).state = .ready then setState .tim .run c1 else c1

/-! ### Capture inputs (R116) -/

def captureEdge (k : Nat) (rising : Bool) (held : Nat) (c : Chip) : Chip :=
  let w := rd c .tim (0x0A0 + 4 * k)
  if !bit w (if rising then 0 else 1) ∨ held < fld w 7 4 ∨ !isUp c .tim then c
  else
    let t := timeNs c - 4 * held
    let q := tabGet [] c.tim.caps k
    if 16 ≤ q.length then
      raise .tim 13 (modTim (fun x => { x with capOvf := tabSet 0 x.capOvf k (min 255 (tabGet 0 x.capOvf k + 1)) }) c)
    else modTim (fun x => { x with caps := tabSet [] x.caps k (q ++ [{ s := t / 1000000000, ns := t % 1000000000, rising := rising }]) }) c

/-- The read of CAP_NS pops one entry; its seconds are held for the path. -/
def capPop (path : Path) (k : Nat) (c : Chip) : Chip × Word :=
  match tabGet [] c.tim.caps k with
  | [] =>
    let b := pageBase .tim + 0x0C4 + 16 * k
    (heldSet path (b + 4) 0 (heldSet path b 0 c), 0x80000000)
  | e :: t =>
    let b := pageBase .tim + 0x0C4 + 16 * k
    let c1 := modTim (fun x => { x with caps := tabSet [] x.caps k t }) c
    (heldSet path (b + 4) (BitVec.ofNat 32 (e.s / 2 ^ 32)) (heldSet path b (BitVec.ofNat 32 e.s) c1), BitVec.ofNat 32 (e.ns + flag e.rising 30))

/-- The read of TIM_NOW_S_LO snapshots the other three (R98). -/
def timNow (path : Path) (c : Chip) : Chip × Word :=
  let b := pageBase .tim
  let t := c.tim
  (heldSet path (b + 0x054) (BitVec.ofNat 32 (t.frac / 65536)) (heldSet path (b + 0x050) (BitVec.ofNat 32 t.ns)
    (heldSet path (b + 0x04C) (BitVec.ofNat 32 (t.s / 2 ^ 32)) c)), BitVec.ofNat 32 t.s)

/-! ### Knots 1 to 31 (R106, R111 to R115) -/

def knot (c : Chip) (k : Nat) : Knot := tabGet {} c.knt.knots k

def setKnot (k : Nat) (x : Knot) (c : Chip) : Chip := { c with knt := { c.knt with knots := tabSet {} c.knt.knots k x } }

def knBase (k : Nat) : Nat := 0x100 + 0x20 * k

/-- Target and period in force, in 2^-16 ns. -/
def knTarget (c : Chip) (k : Nat) : Nat :=
  let b := knBase k
  (((actF c .knt (b + 0x08) 15 0 * 2 ^ 32 + (act c .knt (b + 0x04)).toNat) * 1000000000 + actF c .knt (b + 0x0C) 29 0) * 65536)

def knPeriod (c : Chip) (k : Nat) : Nat := (act c .knt (knBase k + 0x10)).toNat * 65536 + actF c .knt (knBase k + 0x14) 31 16

/-- The device time in 2^-16 ns. -/
def time16 (c : Chip) : Nat := timeNs c * 65536 + c.tim.frac / 65536

/-- The first target after a time (R112, R113). -/
def nextTarget (t0 per after : Nat) : Nat :=
  if after < t0 then t0 else if per = 0 then t0 else t0 + ((after - t0) / per + 1) * per

/-- A firing drives every target selected in KN_CTL (R112, R115). -/
def fireKnot (k : Nat) (late : Bool) (c : Chip) : Chip :=
  let b := knBase k
  let w := act c .knt b
  let x := knot c k
  let seq := x.seq + 1
  let now := timeNs c
  let per := fld w 1 0 == 2
  let c1 := setKnot k { x with
    seq := seq
    valid := true
    late := late
    armed := per
    next := if per then (if late then nextTarget (knTarget c k) (knPeriod c k) (time16 c) else x.next + knPeriod c k) else x.next } c
  let c2 := wr .knt (b + 0x18) (BitVec.ofNat 32 (now % 1000000000)) c1
  let c3 := each (List.range 4) (fun i c =>
    if bit w (8 + i) then
      let u := tabGet 0 c.knt.pinUntil i
      let e := c.clk.now + 4 * actF c .knt (b + 0x14) 15 0
      let c' := { c with knt := { c.knt with pinUntil := tabSet 0 c.knt.pinUntil i (max u e) } }
      if u = 0 then emit (.pin 0 i true) c' else raise .knt 10 c'
    else c) c2
  let c4 := each (List.range 16) (fun a c => if bit w (16 + a) then knotTrigger a c else c) c3
  let c5 := if bit w 12 then trcMarkRec 1 k 0 seq (nsStamp now) c4 else c4
  let c6 := if bit w 13 then sourceRaise 4 k (BitVec.ofNat 32 k) (seq.setWidth 32) (BitVec.ofNat 32 (flag late 0)) c5 else c5
  let c7 := if bit w 14 then raise .knt 11 (wr .knt 0x048 (rd c6 .knt 0x048 ||| (1#32 <<< k)) c6) else c6
  raiseIf late .knt 8 c7

/-- KNOT_FIRE: an armed knot whose target time has come. -/
def knotFire (k : Nat) (c : Chip) : Chip :=
  let x := knot c k
  if k ≠ 0 ∧ x.armed ∧ x.next ≤ time16 c ∧ isUp c .knt then fireKnot k false c else c

/-- KNOT_PULSE_END. -/
def knotPulseEnd (i : Nat) (c : Chip) : Chip :=
  let u := tabGet 0 c.knt.pinUntil i
  if u ≠ 0 ∧ u ≤ c.clk.now then emit (.pin 0 i false) { c with knt := { c.knt with pinUntil := tabSet 0 c.knt.pinUntil i 0 } } else c

/-- One knot takes its applied registers (R113). A knot whose registers the apply does not change goes on (log entry 49). -/
def armKnot (k : Nat) (changed : Bool) (c : Chip) : Chip :=
  if !changed then c
  else
    let x := knot c k
    let now := time16 c
    match actF c .knt (knBase k) 1 0 with
    | 1 =>
      let c1 := setKnot k { x with armed := true, next := knTarget c k } c
      if knTarget c k < now then fireKnot k true c1 else c1
    | 2 => setKnot k { x with armed := true, next := if now ≤ knTarget c k then knTarget c k else nextTarget (knTarget c k) (knPeriod c k) now } c
    | _ => setKnot k { x with armed := false } c

/-- Knots after a step from time `old` (R106), both in 2^-16 ns. -/
def stepKnots (old : Nat) (c : Chip) : Chip :=
  let now := time16 c
  each (List.range 31) (fun i c =>
    let k := i + 1
    let x := knot c k
    if !x.armed then c
    else if old ≤ now then (if x.next ≤ now then fireKnot k true c else c)
    else if actF c .knt (knBase k) 1 0 = 2 then setKnot k { x with next := nextTarget (knTarget c k) (knPeriod c k) now } c
    else c) c

/-! ### The frame grid (R17, R105, R114) and time steps (R102) -/

/-- The first time at or after `t` on the frame grid, in ns. -/
def gridAt (c : Chip) (t : Nat) : Nat :=
  let per := periodNs c
  let ph := actF c .knt 0x044 29 0
  if t ≤ ph then ph - (ph - t) / per * per else ph + (t - ph + per - 1) / per * per

/-- The time counter in units of 2^-32 ns (R96). -/
def time32 (c : Chip) : Int := (timeNs c : Int) * 2 ^ 32 + c.tim.frac

/-- The time becomes `new`, in 2^-32 ns: the frame knot re-aligns (R105), and knots and gate lists follow (R73, R106). -/
def timeTo (new32 : Int) (c : Chip) : Chip :=
  let old := time16 c
  let oldNs := timeNs c
  let t := c.tim
  let new : Nat := (new32 / 2 ^ 32).toNat
  let since := c.clk.now - t.lastKnot
  let knotAt := new - since
  let next := gridAt c (knotAt + periodNs c / 2)
  let moving := (List.range 128).any (fun n => match (axis c n).state with | .moving | .stopping | .homing => true | _ => false)
  let c1 := modTim (fun t => { t with
    s := new / 1000000000
    ns := new % 1000000000
    frac := (new32 % 2 ^ 32).toNat
    nextKnot := next
    lenNs := next - knotAt
    realign := true }) c
  let c2 := raiseIf moving .tim 12 (raise .tim 10 (gclStep ((new : Int) - oldNs) c1))
  let c3 := stepKnots old c2
  { c3 with hfr := { c3.hfr with stepFlag := true } }

/-- TIME_STEP (R102): what is due at the step point. A written time governs over a sample's step due with it; the sample's step is by
−θ exactly. -/
def timeStep (c : Chip) : Chip :=
  let t := c.tim
  let due (p : Option Nat) : Bool := match p with | some p => decide (p ≤ c.clk.now) | none => false
  match (if due t.setPoint then t.setReq else none) with
  | some s =>
    timeTo ((stampNs s : Int) * 2 ^ 32) (modTim (fun t =>
      { t with
        setReq := none
        setPoint := none
        stepReq := if due t.stepPoint then none else t.stepReq
        stepPoint := if due t.stepPoint then none else t.stepPoint }) c)
  | none =>
    if due t.stepPoint then
      timeTo (time32 c + roundAway (t.stepReq.getD 0 * 2 ^ 32)) (modTim (fun t => { t with stepReq := none, stepPoint := none }) c)
    else c

/-- TIM_SET_NS is written (R102); an invalid time is ignored (R7). -/
def timSet (v : Word) (c : Chip) : Chip :=
  let ns := fld v 29 0
  if 999999999 < ns then c
  else modTim (fun t => { t with setReq := some { s := rdF c .tim 0x088 15 0 * 2 ^ 32 + (rd c .tim 0x084).toNat, ns := ns } }) c

/-! ### PTP (R107 to R110). Times are in 2^-16 ns. -/

def ptpPort (c : Chip) (p : Nat) : PtpPort := tabGet {} c.tim.ptp p

def setPtp (p : Nat) (x : PtpPort) (c : Chip) : Chip := modTim (fun t => { t with ptp := tabSet {} t.ptp p x }) c

def clockId (c : Chip) : DWord := rdPair c .tim 0x204

def ptpDrop (p : Nat) (c : Chip) : Chip := cntSat .tim (0x240 + 4 * p) 31 24 c

/-- A message that the engine takes: enabled, version and domain right. -/
def ptpTakes (c : Chip) (m : PtpMsg) : Bool := m.version == 2 && m.domain == rdF c .tim 0x200 15 8

def isP2p (c : Chip) : Bool := bit (rd c .tim 0x200) 3

/-- TWO_STEP. -/
def ptpTwoStep (c : Chip) : Bool := bit (rd c .tim 0x200) 4

def ptpTransparent (c : Chip) : Bool := rdF c .tim 0x200 2 1 == 2

/-- A delay in 1/16 ns, in 2^-16 ns. -/
def mpd16 (x : Int) : Int := x * 4096

/-- Timestamps are taken at a port (R74). -/
def tsEn (c : Chip) (p : Nat) : Bool := bit (rd c (netPage p) 0x040) 8

/-- The ingress time at the medium: the stamp less NET_RX_LAT; none where the port takes no timestamps (R74, log entry 163). -/
def rxTime (c : Chip) (p : Nat) (m : PtpMsg) : Option Int :=
  if tsEn c p then some (m.rx - mpd16 (rdF c (netPage p) 0x054 19 0)) else none

/-- The egress time at the medium of what leaves now: the stamp and NET_TX_LAT (R74). -/
def txTime (c : Chip) (p : Nat) : Int := (time16 c : Int) + mpd16 (rdF c (netPage p) 0x050 19 0)

/-- The SLAVE port that samples come from: the lowest-numbered one (R107). -/
def slavePort (c : Chip) : Option Nat := (List.range 4).find? (fun p => ptpState c p == 2)

/-! #### Sending (R107) -/

/-- The length of a message with its PTP header. -/
def ptpLen : PtpKind → Nat
  | .sync | .followUp | .delayReq => 44
  | .delayResp | .pdelayReq | .pdelayResp | .pdelayFollowUp => 54
  | .announce => 64

/-- The frame of a message: Ethernet, or UDP over IPv4 under UDP = 1, to the multicast addresses of IEEE 1588, from the port's own MAC
address. PRESUMED, log entry 165. -/
def ptpFrame (c : Chip) (p : Nat) (m : PtpTx) : EthFrame :=
  let peer : Bool := match m.kind with | .pdelayReq | .pdelayResp | .pdelayFollowUp => true | _ => false
  { dst := if m.udp then (if peer then 0x01005E00006B else 0x01005E000181) else if peer then 0x0180C200000E else 0x011B19000000
    src := BitVec.ofNat 48 (rdF c (netPage p) 0x04C 15 0 * 2 ^ 32 + (rd c (netPage p) 0x048).toNat)
    etype := if m.udp then 0x0800 else 0x88F7
    len := max 64 (18 + (if m.udp then 28 else 0) + ptpLen m.kind)
    ptp := some m }

/-- A message enters egress queue 7 of a port (R107). -/
def ptpSend (p : Nat) (m : PtpTx) (c : Chip) : Chip := netEnqueue p 7 (ptpFrame c p m) c

/-- A message of the port's own: transport, domain and identity as PTP_CTL and PTP_CLKID give them. -/
def ptpOwnMsg (c : Chip) (p : Nat) (kind : PtpKind) (seq : BitVec 16) : PtpTx :=
  { kind := kind
    udp := bit (rd c .tim 0x200) 5
    domain := rdF c .tim 0x200 15 8
    srcId := clockId c
    srcPort := BitVec.ofNat 16 (p + 1)
    seq := seq }

/-- The residence of a forwarded message waits for the message that carries it (R110). -/
def keepResid (req : Bool) (p : Nat) (id : DWord) (port seq : BitVec 16) (r : Int) (c : Chip) : Chip :=
  modTim (fun t => { t with resid := t.resid ++ [(req, p, id, port, seq, r)] }) c

/-- The residence kept for a message, taken out. -/
def takeResid (req : Bool) (p : Nat) (id : DWord) (port seq : BitVec 16) (c : Chip) : Int × Chip :=
  let hit (x : Bool × Nat × DWord × BitVec 16 × BitVec 16 × Int) : Bool :=
    x.1 == req && x.2.1 == p && x.2.2.1 == id && x.2.2.2.1 == port && x.2.2.2.2.1 == seq
  match c.tim.resid.find? hit with
  | some x => (x.2.2.2.2.2, modTim (fun t => { t with resid := t.resid.filter (fun y => !hit y) }) c)
  | none => (0, c)

/-- What the egress time of a message does (R74, R107, R110): it stamps a one-step Sync, it goes into the Follow_Up of a two-step one,
it is the start of the port's own request, the turnaround of a Pdelay answer, and the end of a residence. -/
def ptpEgress (p : Nat) (m : PtpTx) (c : Chip) : PtpTx × Chip :=
  let t := txTime c p
  if m.forwarded then
    if m.defer then (m, keepResid (m.kind == .delayReq) p m.srcId m.srcPort m.seq (t - m.rx) c)
    else ({ m with corr := m.corr + (t - m.rx) }, c)
  else
    match m.kind with
    | .sync =>
      if m.twoStep then (m, ptpSend p { ptpOwnMsg c p .followUp m.seq with time := t } c) else ({ m with time := t }, c)
    | .delayReq | .pdelayReq =>
      let x := ptpPort c p
      (m, if x.reqWait ∧ x.reqSeq = m.seq then setPtp p { x with reqT := some t } c else c)
    | .pdelayResp =>
      if m.twoStep then
        (m, ptpSend p { ptpOwnMsg c p .pdelayFollowUp m.seq with time := t, corr := m.corr, reqId := m.reqId, reqPort := m.reqPort } c)
      else ({ m with corr := m.corr + (t - m.rx) }, c)
    | _ => (m, c)

/-! #### Delays and offsets (R108) -/

/-- A port whose latencies a splice has just changed discards its samples (R490). -/
def ptpQuiet (c : Chip) (p : Nat) : Bool := decide (c.clk.now < (ptpPort c p).quietTo)

/-- A delay sample enters the filter (R108). A Sync from before the first one has given no offset and gives none now (Table 5-2, log
entry 141). -/
def ptpDelay (p : Nat) (d : Rat) (c : Chip) : Chip :=
  if ptpQuiet c p then c
  else
  let x := ptpPort c p
  let d16 := d / 4096
  let k := rdF c .tim 0x07C 19 16
  let m := match x.mpd with
    | none => roundAway d16
    | some v => roundAway ((v : Rat) + (d16 - (v : Rat)) / (2 ^ k : Nat))
  wr .tim (0x230 + 4 * p) (BitVec.ofInt 32 m) (setPtp p { x with mpd := some m } c)

/-- A complete Sync: t1, t2 and the corrections give an offset once the delay is known. -/
def ptpOffset (p : Nat) (t1 t2 corr : Int) (c : Chip) : Chip :=
  if ptpQuiet c p then c
  else
  let x := ptpPort c p
  let c1 := setPtp p { x with lastSync := some (t1, t2, corr) } c
  match x.mpd with
  | some m => if slavePort c = some p then servoSample 1 (some p) (((t2 - t1 - corr - mpd16 m : Int) : Rat) / 65536) c1 else c1
  | none => c1

/-! #### The transparent clock (R110) -/

/-- The kinds whose residence counts. -/
def ptpTimed : PtpKind → Bool
  | .sync | .delayReq | .pdelayReq | .pdelayResp => true
  | _ => false

/-- A transparent clock forwards a message to every other enabled port. The residence of a timed one, with the ingress port's MPD for a
Sync under P2P, goes into it as it leaves, or in two-step operation into the Follow_Up or Delay_Resp that matches; a Pdelay message and
a Sync without Follow_Up have none and are corrected as they leave (log entry 166). -/
def ptpForward (p : Nat) (kind : PtpKind) (m : PtpMsg) (c : Chip) : Chip :=
  let rx := (rxTime c p m).getD (time16 c)
  let add := if kind == .sync && isP2p c then mpd16 ((ptpPort c p).mpd.getD 0) else 0
  let later := ptpTwoStep c && (match kind with | .sync => m.twoStep | .delayReq => true | _ => false)
  each ((List.range 4).filter (fun q => q != p && ptpState c q != 0)) (fun q c =>
    let r : Int × Chip := match kind with
      | .followUp => takeResid false q m.srcId m.srcPort m.seq c
      | .delayResp => takeResid true p m.reqId m.reqPort m.seq c
      | _ => (0, c)
    ptpSend q
      { kind := kind
        udp := bit (rd c .tim 0x200) 5
        sumZero := bit (rd c .tim 0x200) 5
        domain := m.domain
        srcId := m.srcId
        srcPort := m.srcPort
        seq := m.seq
        twoStep := m.twoStep
        corr := m.corr + r.1
        time := m.origin
        reqId := m.reqId
        reqPort := m.reqPort
        forwarded := ptpTimed kind
        rx := rx - add
        defer := later } r.2) c

/-- What a transparent clock does with a received message. -/
def ptpRelay (p : Nat) (kind : PtpKind) (m : PtpMsg) (c : Chip) : Chip := if ptpTransparent c then ptpForward p kind m c else c

/-! #### Received messages (R109) -/

/-- SYNC_RX. -/
def syncRx (p : Nat) (m : PtpMsg) (c : Chip) : Chip :=
  if !ptpEn c then c
  else if !ptpTakes c m then ptpDrop p c
  else
    let c0 := ptpRelay p .sync m c
    if ptpState c p ≠ 2 then c0
    else if m.srcId ≠ rdPair c .tim 0x20C ∨ m.srcPort.toNat ≠ rdF c .tim 0x214 15 0 then ptpDrop p c0
    else
      let x := ptpPort c0 p
      let c1 := if x.pendSync.isSome then cntSat .tim (0x240 + 4 * p) 7 0 (setPtp p { x with pendSync := none } c0) else c0
      match rxTime c p m with
      | none => c1
      | some rx =>
        if m.twoStep then setPtp p { ptpPort c1 p with pendSync := some (m.seq, m.corr, rx) } c1
        else ptpOffset p m.origin rx m.corr c1

/-- FOLLOW_UP_RX. -/
def followUpRx (p : Nat) (m : PtpMsg) (c : Chip) : Chip :=
  if !ptpEn c then c
  else if !ptpTakes c m then ptpDrop p c
  else
    let c0 := ptpRelay p .followUp m c
    if ptpState c p ≠ 2 then c0
    else
      match (ptpPort c0 p).pendSync with
      | some (seq, corr, rx) =>
        if seq = m.seq ∧ m.srcId = rdPair c .tim 0x20C then ptpOffset p m.origin rx (corr + m.corr) (setPtp p { ptpPort c0 p with pendSync := none } c0)
        else ptpDrop p c0
      | none => ptpDrop p c0

/-- A response is for this port's own request. -/
def ptpOwn (c : Chip) (p : Nat) (m : PtpMsg) : Bool :=
  m.reqId == clockId c && m.reqPort.toNat == p + 1 && m.seq == (ptpPort c p).reqSeq

/-- DELAY_RESP_RX: the E2E delay sample. -/
def delayRespRx (p : Nat) (m : PtpMsg) (c : Chip) : Chip :=
  if !ptpEn c then c
  else if !ptpTakes c m then ptpDrop p c
  else
    let c0 := ptpRelay p .delayResp m c
    if !ptpOwn c0 p m then ptpDrop p c0
    else if ptpState c p ≠ 2 ∨ isP2p c then c0
    else
      let x := ptpPort c0 p
      match x.reqT, x.lastSync with
      | some t3, some (t1, t2, cs) =>
        ptpDelay p (((t2 - t1 - cs + (m.origin - t3 - m.corr) : Int) : Rat) / 2) (setPtp p { x with reqT := none, reqWait := false } c0)
      | _, _ => ptpDrop p c0

/-- PDELAY_RESP_RX: the P2P link-delay sample from t1 to t4. Without P2P a transparent clock passes the message on. -/
def pdelayRespRx (p : Nat) (m : PtpMsg) (t2 t3 : Int) (c : Chip) : Chip :=
  if !ptpEn c then c
  else if !ptpTakes c m then ptpDrop p c
  else if ptpTransparent c && !isP2p c then ptpForward p .pdelayResp m c
  else if !isP2p c ∨ !ptpOwn c p m then ptpDrop p c
  else
    let x := ptpPort c p
    match x.reqT, rxTime c p m with
    | some t1, some t4 =>
      ptpDelay p (((t4 - t1 - (t3 - t2) - m.corr : Int) : Rat) / 2) (setPtp p { x with reqT := none, reqWait := false } c)
    | _, _ => ptpDrop p c

/-- DELAY_REQ_RX: a MASTER port answers with Delay_Resp. -/
def delayReqRx (p : Nat) (m : PtpMsg) (c : Chip) : Chip :=
  if !ptpEn c then c
  else if !ptpTakes c m then ptpDrop p c
  else
    let c0 := ptpRelay p .delayReq m c
    match rxTime c p m with
    | some rx =>
      if ptpState c p = 3 ∧ !isP2p c then
        ptpSend p { ptpOwnMsg c p .delayResp m.seq with corr := m.corr, time := rx, reqId := m.srcId, reqPort := m.srcPort } c0
      else c0
    | none => c0

/-- PDELAY_REQ_RX: every enabled port answers with P2P = 1, two-step with t2 and then t3, or one-step with the turnaround in the
correction. -/
def pdelayReqRx (p : Nat) (m : PtpMsg) (c : Chip) : Chip :=
  if !ptpEn c then c
  else if !ptpTakes c m then ptpDrop p c
  else if isP2p c ∧ ptpState c p ≠ 0 then
    match rxTime c p m with
    | some rx =>
      ptpSend p
        { ptpOwnMsg c p .pdelayResp m.seq with
          twoStep := ptpTwoStep c
          corr := m.corr
          time := if ptpTwoStep c then rx else 0
          reqId := m.srcId
          reqPort := m.srcPort
          rx := rx } c
    | none => c
  else ptpRelay p .pdelayReq m c

/-- ANNOUNCE_RX. -/
def announceRx (p : Nat) (m : PtpMsg) (body : List Word) (c : Chip) : Chip :=
  if !ptpEn c then c
  else if !ptpTakes c m then ptpDrop p c
  else if 16 ≤ c.tim.annRx.length then ptpDrop p c
  else raise .tim 15 (modTim (fun t => { t with annRx := t.annRx ++ [(Fin.ofNat 4 p, (body ++ List.replicate 16 0).take 16)] }) c)

/-- The read of PTP_ANN_RX pops an Announce into PTP_ANN_MSG for the path. -/
def announcePop (path : Path) (c : Chip) : Chip × Word :=
  match c.tim.annRx with
  | [] => (c, 0x80000000)
  | (p, body) :: t =>
    let c1 := modTim (fun x => { x with annRx := t }) c
    let c2 := each (List.range 16) (fun i c => heldSet path (pageBase .tim + 0x380 + 4 * i) (body.getD i 0) c) c1
    (c2, BitVec.ofNat 32 (min 31 (t.length + 1) + p.val * 256))

/-! #### What ports send of themselves (R107, R108) -/

/-- An interval 2^k s of PTP_PORT in ns: SYNC_LOG, DREQ_LOG or ANN_LOG at bit `lo`. -/
def ptpInterval (c : Chip) (p lo : Nat) : Nat :=
  (pow2 (signed 4 (rdF c .tim (0x220 + 4 * p) (lo + 3) lo)) * 1000000000).floor.toNat

/-- SYNC_TX. -/
def syncTx (p : Nat) (c : Chip) : Chip :=
  let x := ptpPort c p
  if !ptpEn c ∨ ptpState c p ≠ 3 ∨ c.clk.now < x.lastSyncTx + ptpInterval c p 8 then c
  else ptpSend p { ptpOwnMsg c p .sync x.syncSeq with twoStep := ptpTwoStep c } (setPtp p { x with syncSeq := x.syncSeq + 1, lastSyncTx := c.clk.now } c)

/-- ANNOUNCE_TX: the template of PTP_ANN_TX with the sequence number. -/
def announceTx (p : Nat) (c : Chip) : Chip :=
  let x := ptpPort c p
  if !ptpEn c ∨ ptpState c p ≠ 3 ∨ c.clk.now < x.lastAnnTx + ptpInterval c p 16 then c
  else
    ptpSend p { ptpOwnMsg c p .announce x.annSeq with body := (List.range 16).map (fun i => rd c .tim (0x300 + 4 * i)) }
      (setPtp p { x with annSeq := x.annSeq + 1, lastAnnTx := c.clk.now } c)

/-- DELAY_REQ_TX: Delay_Req of a SLAVE port, or Pdelay_Req of any enabled port with P2P; an answer still missing is counted. -/
def delayReqTx (p : Nat) (c : Chip) : Chip :=
  let x := ptpPort c p
  let own := if isP2p c then ptpState c p ≠ 0 else ptpState c p = 2
  if !ptpEn c ∨ !own ∨ c.clk.now < x.lastReqTx + ptpInterval c p 12 then c
  else
    let c1 := if x.reqWait then cntSat .tim (0x240 + 4 * p) 15 8 c else c
    let seq := x.reqSeq + 1
    ptpSend p (ptpOwnMsg c p (if isP2p c then .pdelayReq else .delayReq) seq)
      (setPtp p { x with reqSeq := seq, reqT := none, reqWait := true, lastReqTx := c.clk.now } c1)

end Sys2Proof.Machine
end

