-- ==== Sys2Proof/Machine/NetOps.lean ====
section
/-!
DEFINITION. Line ports, switch, YCP sessions and hitch frames (chapter 4, R68 to R95), but for the register accesses that a YCP
REQUEST runs.
-/

namespace Sys2Proof.Machine

/-! ### The switch (R69 to R71). Port 4 is the endpoint. -/

/-- Learning (R69, R93). -/
def learn (src : BitVec 48) (port : Fin 5) (c : Chip) : Chip :=
  if !bit (rd c .swt 0x040) 1 then c
  else
    let old := c.net.learned
    let new := (src, port, c.clk.now)
    if old.any (fun x => x.1 == src) then { c with net := { c.net with learned := old.map (fun x => if x.1 = src then new else x) } }
    else if 1024 ≤ old.length then wr .swt 0x078 (rd c .swt 0x078 + 1) c
    else raiseIf (old.length + 1 = 1024) .swt 8 { c with net := { c.net with learned := old ++ [new] } }

/-- The egress ports of a frame (R69). -/
def egress (c : Chip) (inp : Fin 5) (dst : BitVec 48) : List Nat :=
  match (if dst.getLsbD 40 then none else c.net.learned.find? (fun x => x.1 == dst)) with
  | some x => [x.2.1.val]
  | none => (List.range 5).filter (fun i => i != inp.val && bit (rd c .swt (0x050 + 4 * inp.val)) i)

/-- Cut-through holds at an egress port (R70). -/
def cutThrough (c : Chip) (p : Nat) (f : EthFrame) : Bool :=
  let q := mapQueue c p f
  f.etype == BitVec.ofNat 16 (rdF c .swt 0x044 15 0) && bit (rd c .swt 0x040) 0 && (queueOf c p q).isEmpty && frameFits c p q f.len &&
  (netPort c p).link

/-- A frame leaves a port, counted: on the line, or back to the port's receiver under LOOPBACK (R92). A PTP message takes its egress
time as it leaves (R74). -/
def launch (p : Nat) (f0 : EthFrame) (ok : Bool) (c0 : Chip) : Chip :=
  let r : Option PtpTx × Chip := match f0.ptp with
    | some m => let r := ptpEgress p m c0; (some r.1, r.2)
    | none => (none, c0)
  let f := { f0 with ptp := r.1 }
  let c := r.2
  cntWrap (netPage p) 0x068 31 0
    (if bit (rd c (netPage p) 0x040) 2 then modPort p (fun x => { x with loop := x.loop ++ [(f, ok)] }) c else emit (.frame p f ok) c)

/-- One frame to one egress port. A flooded frame that is cut through counts once for each egress port: whether it does R93 leaves
open. DESIGN CHOICE, log entry 159. -/
def forward (p : Nat) (f : EthFrame) (ok : Bool) (c : Chip) : Chip :=
  if p = 4 then (if ok then emit (.frame 4 f true) c else c)
  else if cutThrough c p f then
    let c1 := wr .swt 0x070 (rd c .swt 0x070 + 1) (launch p f ok c)
    if ok then c1 else wr .swt 0x074 (rd c1 .swt 0x074 + 1) c1
  else if !ok then c
  else netEnqueue p (mapQueue c p f) f c

/-- The switch takes a frame in at a port. -/
def switchIn (inp : Fin 5) (f : EthFrame) (ok : Bool) (c : Chip) : Chip :=
  let c1 := if ok then learn f.src inp c else c
  each (egress c1 inp f.dst) (fun p c => forward p f ok c) c1

/-- FCS_ERR at most once per second (R92). -/
def fcsError (p : Nat) (c : Chip) : Chip :=
  let c1 := cntWrap (netPage p) 0x064 31 0 c
  let due := match (netPort c p).lastFcs with
    | none => true
    | some t => decide (t + 1000000000 ≤ c.clk.now)
  if due then raise (netPage p) 10 (modPort p (fun x => { x with lastFcs := some c.clk.now }) c1) else c1

/-- A frame at a line port's receiver. One of a size that R68 does not allow is dropped and counted in NET_DROPS of its port. -/
def portRx (inp : Fin 5) (f : EthFrame) (fcsOk : Bool) (c : Chip) : Chip :=
  let p := inp.val
  if f.len < 64 ∨ 1522 < f.len then cntWrap (netPage p) 0x06C 31 0 c
  else if fcsOk then switchIn inp f true (cntWrap (netPage p) 0x060 31 0 c)
  else switchIn inp f false (fcsError p c)

/-- FRAME_RX (R68, R69). At port 4 the switch takes in the next frame of the endpoint, and at a port in LOOPBACK the port receives what it
sent, not the line (R92, log entry 160). -/
def frameRx (inp : Fin 5) (f : EthFrame) (fcsOk : Bool) (c : Chip) : Chip :=
  if !isUp c .swt then c
  else if inp.val = 4 then
    match c.ycp.sendq with
    | [] => c
    | g :: t => switchIn inp g true { c with ycp := { c.ycp with sendq := t } }
  else
    let p := inp.val
    if !(netUp c p && (netPort c p).link) then c
    else if bit (rd c (netPage p) 0x040) 2 then
      match (netPort c p).loop with
      | [] => c
      | (g, ok) :: t => portRx inp g ok (modPort p (fun x => { x with loop := t }) c)
    else portRx inp f fcsOk c

/-- FRAME_TRANSMIT (R71, R72): the highest queue whose gate is open long enough for its first frame. Whether a lower queue may go while
the highest open one waits for a longer window R71 leaves open; it may. DESIGN CHOICE, log entry 161. -/
def frameTransmit (p : Nat) (c : Chip) : Chip :=
  if !(netUp c p && (netPort c p).link) then c
  else
    let can := (List.range 8).filter (fun q => match queueOf c p q with | [] => false | f :: _ => frameFits c p q f.len)
    match can.getLast? with
    | none => c
    | some q =>
      match queueOf c p q with
      | [] => c
      | f :: t =>
        let c1 := setQueue p q t { c with net := { c.net with bufUsed := c.net.bufUsed - f.len } }
        launch p f true c1

/-- ADDRESS_AGEING (R69): SWT_AGE seconds without a frame; 0 = none. -/
def ageOut (mac : BitVec 48) (c : Chip) : Chip :=
  let age := rdF c .swt 0x048 15 0
  if age = 0 then c
  else { c with net := { c.net with learned := c.net.learned.filter (fun x => !(x.1 == mac && decide (x.2.2 + age * 1000000000 ≤ c.clk.now))) } }

/-! ### Links and MDIO (R92) -/

def linkUp (p : Nat) (anDone : Bool) (c : Chip) : Chip :=
  if !netUp c p then c
  else
    let was := (netPort c p).link
    withService (fun c => raiseIf (!was) (netPage p) 8
      (modPort p (fun x => { x with link := true, anDone := anDone, remoteFault := false, syncOk := true }) c)) c

/-- The port loses its link; its queues keep their frames. -/
def linkDown (p : Nat) (remote : Bool) (c : Chip) : Chip :=
  let was := (netPort c p).link
  withService (fun c => raiseIf was (netPage p) 9
    (modPort p (fun x => { x with link := false, anDone := false, remoteFault := remote, syncOk := false }) c)) c

/-- NET_MDIO written: GO starts an access unless one runs. -/
def mdioWrite (p : Nat) (v : Word) (c : Chip) : Chip :=
  let c1 := wr (netPage p) 0x05C (setFld v 31 31 0) c
  if bit v 31 ∧ !(netPort c p).mdioBusy then
    emit (.mdio p (fld v 25 21) (fld v 20 16) (bit v 30) (BitVec.ofNat 16 (fld v 15 0))) (modPort p (fun x => { x with mdioBusy := true }) c1)
  else c1

def mdioDone (p : Nat) (data : BitVec 16) (c : Chip) : Chip :=
  if !(netPort c p).mdioBusy then c
  else
    let c1 := modPort p (fun x => { x with mdioBusy := false }) c
    raise (netPage p) 12 (if bit (rd c (netPage p) 0x05C) 30 then wrF (netPage p) 0x05C 15 0 data.toNat c1 else c1)

/-! ### IPv4 (R75) -/

/-- ICMP_ECHO_REQUEST (R75): `data` is what follows the ICMP checksum, and returns in the reply. -/
def icmpEcho (h : IpHdr) (data : List Byte) (c : Chip) : Chip :=
  if isUp c .ycp && bit (rd c .ycp 0x040) 4 && ipTaken c h 1 then sendIp h.src 1 (icmpOf 0 data) (.icmpReply h.src data) c else c

/-! ### Sessions (R77 to R85) -/

def ycpActive (c : Chip) : Bool := isUp c .ycp && bit (rd c .ycp 0x040) 0

def modSession (i : Nat) (f : Session → Session) (c : Chip) : Chip := setSession i (f (session c i)) c

/-- The offset of a session register. -/
def sesOff (i off : Nat) : Nat := 0x200 + 0x20 * i + off

/-- SES_ERR: 0 AUTH, 1 WINDOW, 2 STALE, 3 TRUNC. -/
def sesErr (i k : Nat) (c : Chip) : Chip :=
  let c1 := cntSat .ycp (sesOff i 0x14) (8 * k + 7) (8 * k) c
  if k = 0 then raise .ycp 11 c1 else c1

/-- SESSION_ERROR with the SEQ of the datagram, at most one per session per millisecond (R79). -/
def sesError (i : Nat) (g : Dgram) (code : Byte) (c : Chip) : Chip :=
  let due := match (session c i).lastError with
    | none => true
    | some t => decide (t + 1000000 ≤ c.clk.now)
  if due then
    sendYcp i g.ip.src g.sport .plain 0x08 g.seq [code] (.ycpError i g.ip.src g.sport code g.seq)
      (modSession i (fun x => { x with lastError := some c.clk.now }) c)
  else c

/-- Pages owned by a path revert (R42). -/
def ownerLapse (code : Nat) (c : Chip) : Chip :=
  each ((c.pages.filter (fun x => x.2.owner == code)).map (·.1)) (fun n c =>
    match pageOfNum n with
    | some p => raise p 6 (modHdr p (fun h => { h with owner := 0 }) c)
    | none => c) c

/-- The next command of the cam engine begins, in acceptance order (R171). -/
def camNext (c : Chip) : Chip :=
  match c.cam.active, c.cam.queue with
  | none, x :: t => { c with cam := { c.cam with active := some x, queue := t } }
  | _, _ => c

/-- A command leaves the cam engine. -/
def camDrop (id : Nat) (c : Chip) : Chip :=
  let m := c.cam
  camNext { c with cam := { m with
    active := if (m.active.map (·.1)) = some id then none else m.active
    queue := m.queue.filter (fun q => q.1 != id) } }

/-- A running command ends ABORTED, and the axis or group that executes it takes QUICK_STOP with slack kept (R66, R83). -/
def abortRunning (x : InFlight) (c : Chip) : Chip :=
  let ax (w : Word) : Chip :=
    let n := w.toNat
    match (axis c n).state with
    | .moving | .homing | .stopping =>
      if !x.running then c
      else match (groupOf c n).filter (fun g => (group c g).state == .moving || (group c g).state == .stopping) with
        | some g => groupStop g { kind := .quick } c
        | none => axisStop n { kind := .quick } c
    | _ => c
  match x.cmd.op with
  | .moveAbs n .. | .moveRel n .. | .moveVel n .. | .resume n | .home n .. | .stop n _ => ax n
  | .groupMove g .. => if x.running ∧ ((group c g.toNat).state = .moving ∨ (group c g.toNat).state = .stopping) then groupStop g.toNat { kind := .quick } c else c
  | .hitchSet h _ | .hitchRelease h _ =>
    let y := hitch c h.toNat
    if y.reading = some x.id then setHitch h.toNat { y with reading := none, readDone := false } c
    else if x.running then ax (BitVec.ofNat 32 y.cfg.slave) else c
  | .enable n _ =>
    if (axis c n.toNat).enabling = some x.id then setAxis n.toNat { axis c n.toNat with enabling := none } c else c
  | .camLoad .. | .camVerify .. => camDrop x.id c
  | .fcoLoad .. =>
    let j := c.spl.fco
    { c with spl := { c.spl with fco := { j with
      active := if (j.active.map (·.1)) = some x.id then none else j.active
      image := if (j.active.map (·.1)) = some x.id then none else j.image
      queue := j.queue.filter (fun q => q.1 != x.id) } } }
  | .traceStart => if c.trc.startId = some x.id then { c with trc := { c.trc with startId := none } } else c
  | .traceStop => { c with trc := { c.trc with stopIds := c.trc.stopIds.filter (· != x.id) } }
  | .saveTest => if c.pwr.test = some x.id then { c with pwr := { c.pwr with test := none } } else c
  | _ => c

/-- The commands of a list no longer belong to anything that runs: the motion that ends them finds no command. -/
def dropIds (ids : List Nat) (c : Chip) : Chip :=
  { c with cmd := { c.cmd with inflight := c.cmd.inflight.filter (fun x => !ids.contains x.id) } }

/-- R83: held requests go; commands in flight end ABORTED in YCP_ORPHAN and their axes take QUICK_STOP. -/
def sessionWork (i : Nat) (c : Chip) : Chip :=
  let mine := c.cmd.inflight.filter (fun x => match x.cmd.src with | .ycp s _ => s.val == i | .ring _ _ => false)
  let c1 := each mine (fun x c => pushOrphan x.cmd.tag stAborted c) (dropIds (mine.map (·.id)) c)
  each mine abortRunning c1

/-- A session goes to CLOSED (R42, R79, R83). -/
def closeSession (i : Nat) (c : Chip) : Chip :=
  let c1 := sessionWork i (modSession i (fun x => { x with state := .closed, held := [], cache := [] }) c)
  ownerLapse (2 + i) c1

/-- A close that Table 4-4 reports: CLOSE is sent to the peer and SESSION_CLOSED is raised. -/
def endSession (i : Nat) (c : Chip) : Chip :=
  let ip := (session c i).ip
  let port := (session c i).port
  raise .ycp 9 (sendYcp i ip port .tagged 0x07 0 [] (.ycpClosed i) (closeSession i c))

/-- The YCP header of a received datagram, as its bytes are on the wire. -/
def dgramHeader (typ : Byte) (i : Nat) (g : Dgram) : List Byte :=
  beBytes 2 g.magic.toNat ++ [g.version, typ, BitVec.ofNat 8 (g.rsv4.toNat * 4 + i), g.rsv5] ++ beBytes 2 g.length.toNat ++ beBytes 4 g.seq.toNat

/-- The UDP payload of a received datagram; a tag is there in the authenticated types. -/
def dgramBytes (typ : Byte) (i : Nat) (tagged : Bool) (g : Dgram) : List Byte :=
  dgramHeader typ i g ++ g.body ++ (if tagged then beBytes 16 g.tag.toNat else [])

/-- IPv4 and UDP hand the datagram to YCP: it is taken, its UDP checksum holds, and it is for YCP_UDP_PORT (R75, R77). -/
def ycpTaken (c : Chip) (typ : Byte) (i : Nat) (tagged : Bool) (g : Dgram) : Bool :=
  ipTaken c g.ip 17 && g.dport == ycpPort c && udpOk g.ip.src g.ip.dst g.sport g.dport g.udpLen g.udpSum (dgramBytes typ i tagged g)

/-- MAGIC, the reserved bits and the UDP length are right (R79). -/
def ycpIntact (tagged : Bool) (g : Dgram) : Bool :=
  g.magic == 0x5943 && g.rsv4 == 0 && g.rsv5 == 0 && g.length.toNat == g.body.length &&
  g.udpLen.toNat == 8 + 12 + g.length.toNat + (if tagged then 16 else 0)

/-- From the peer's address, with a tag that verifies (R77 to R79). `plain` is what the body says; an encrypted type carries it as
ciphertext. -/
def authentic (x : Session) (typ : Byte) (i : Nat) (pr : Protect) (plain : List Byte) (g : Dgram) : Bool :=
  let n := gcmNonce 0 typ i g.seq
  x.ip == g.ip.src && x.port == g.sport && g.body == (if pr = .sealed then Config.gcmCipher x.key n plain else plain) &&
  g.tag == Config.gcmTag x.key n (dgramHeader typ i g) g.body

/-- The body of an OPEN (Table 4-3). -/
def openBody (slot : Byte) (rsv : BitVec 24) (cn : BitVec 128) : List Byte := [slot] ++ beBytes 3 rsv.toNat ++ beBytes 16 cn.toNat

/-- OPEN_ACK: DEVICE_NONCE and TIMEOUT_MS (R84). -/
def openAck (i : Nat) (c : Chip) : Chip :=
  let x := session c i
  let ms := rdF c .ycp (sesOff i 0x0C) 15 0
  sendYcp i x.ip x.port .tagged 0x02 0 (beBytes 16 x.devNonce.toNat ++ beBytes 4 ms) (.openAck i x.devNonce ms) c

/-- OPEN (R78, R79, R84). -/
def sesOpen (i : Nat) (g : Dgram) (slot : Byte) (rsv : BitVec 24) (cn dn : BitVec 128) (c : Chip) : Chip :=
  let x := session c i
  if !(ycpActive c && ycpTaken c 0x01 i false g) then c
  else if !(ycpIntact false g) || rsv != 0 || g.body != openBody slot rsv cn then sesErr i 3 c
  else if g.version ≠ 1 then sesError i g 4 c
  else
    match x.state with
    | .closed =>
      match (if slot.toNat < 4 then tabGet none c.sec.psk slot.toNat else none) with
      | none => sesError i g 2 c
      | some psk =>
        let msg := [0x59, 0x43, 0x50, 0x31] ++ beBytes 16 cn.toNat ++ beBytes 16 dn.toNat ++ [BitVec.ofNat 8 i]
        let x1 : Session :=
          { state := .pending
            keySlot := slot.toNat
            clientNonce := cn
            devNonce := dn
            key := Config.hmac128 psk msg
            ip := g.ip.src
            port := g.sport
            exp := 1
            lastAuth := c.clk.now
            lastError := x.lastError }
        openAck i (setSession i x1 (wr .ycp (sesOff i 0x14) 0 c))
    | _ =>
      if x.state = .pending ∧ x.ip = g.ip.src ∧ x.port = g.sport ∧ x.clientNonce = cn then openAck i c
      else sesError i g 1 c

/-- What every authenticated type does first (Table 4-4): `true` where the datagram is to be handled as in OPEN. -/
def sesAccept (i : Nat) (typ : Byte) (pr : Protect) (plain : List Byte) (g : Dgram) (opens : Bool) (c : Chip) : Chip × Bool :=
  let x := session c i
  if !(ycpActive c && ycpTaken c typ i true g) then (c, false)
  else if !ycpIntact true g then (sesErr i 3 c, false)
  else if g.version ≠ 1 then (sesError i g 4 c, false)
  else
    match x.state with
    | .closed => (sesError i g 3 c, false)
    | .pending =>
      if authentic x typ i pr plain g && opens then
        (raise .ycp 8 (setSession i { x with state := .opened, lastAuth := c.clk.now } c), true)
      else (c, false)
    | .opened => if authentic x typ i pr plain g then (c, true) else (sesErr i 0 c, false)

/-- KEEPALIVE (R79). -/
def sesKeepalive (i : Nat) (g : Dgram) (c : Chip) : Chip :=
  let r := sesAccept i 0x06 .tagged [] g true c
  if !r.2 then r.1
  else
    let x := session r.1 i
    if x.alive.toNat < g.seq.toNat then
      sendYcp i x.ip x.port .tagged 0x06 g.seq [] (.aliveEcho i g.seq) (setSession i { x with alive := g.seq, lastAuth := r.1.clk.now } r.1)
    else sesErr i 2 r.1

/-- CLOSE (R79). -/
def sesClose (i : Nat) (g : Dgram) (c : Chip) : Chip :=
  let r := sesAccept i 0x07 .tagged [] g false c
  if r.2 then endSession i r.1 else r.1

/-- SES_CLOSE written 1 (R79): it acts on a session in OPEN. -/
def sesCloseWrite (i : Nat) (c : Chip) : Chip := if (session c i).state = .opened then endSession i c else c

/-- SESSION_PENDING_TIMEOUT: 100 ms (R79). -/
def sesPendingTimeout (i : Nat) (c : Chip) : Chip :=
  let x := session c i
  if x.state = .pending ∧ x.lastAuth + 100000000 ≤ c.clk.now then closeSession i c else c

/-- SESSION_TIMEOUT: SES_TIMEOUT ms without an authentic datagram (R79, R84). -/
def sesTimeout (i : Nat) (c : Chip) : Chip :=
  let x := session c i
  if x.state = .opened ∧ x.lastAuth + rdF c .ycp (sesOff i 0x0C) 15 0 * 1000000 ≤ c.clk.now then
    raise .ycp 10 (raise .ycp 9 (closeSession i c))
  else c

/-- Every session closes: YCP page reset or EN = 0, warm reset, FLR (R79). -/
def closeAll (c : Chip) : Chip :=
  each (List.range 4) (fun i c => if (session c i).state = .closed then c else raise .ycp 9 (closeSession i c)) c

/-- YCP_ORPHAN read: one entry popped (R83). -/
def orphanPop (c : Chip) : Chip × Word :=
  match c.ycp.orphans with
  | [] => (c, 0x80000000)
  | (tag, st) :: t => ({ c with ycp := { c.ycp with orphans := t } }, BitVec.ofNat 32 (tag.toNat + st.toNat * 256))

/-- Entries of YCP_ORPHAN in use or reserved (R83). -/
def orphanUse (c : Chip) : Nat := c.ycp.orphans.length + (c.cmd.inflight.filter (fun x => !isRing x.cmd.src)).length

/-- The session that carries event messages (R85). -/
def evmSession (c : Chip) : Option Nat :=
  let w := rd c .ycp 0x05C
  let i := fld w 1 0
  if bit w 8 ∧ (session c i).state = .opened ∧ ycpActive c then some i else none

/-! ### Hitch frames (R86 to R90) -/

/-- Publisher entry of an axis (Table 4-7): the set-point of the knot sampled, so that R88 and SRC 3 agree (R160). -/
def hitchEntry (c : Chip) (n : Nat) : HitchEntry :=
  let a := axis c n
  let st : AxState → Nat
    | .disabled => 0 | .ready => 1 | .holding => 2 | .moving => 3 | .stopping => 4 | .slack => 5 | .homing => 6 | .fault => 7 | .safe => 8
  { pos := BitVec.ofInt 48 (roundAway (a.cur.p * 256))
    vel := BitVec.ofInt 32 (max (-2147483648) (min 2147483647 (roundAway (a.cur.v * frameSec c * 65536))))
    status := BitVec.ofNat 16 (st a.state + flag (isPhys n && fbValid c n) 4 + flag (a.state == .fault) 5) }

/-- The axes published, in register order. -/
def pubAxes (c : Chip) : List Nat :=
  ((List.range 32).map (fun i => rd c .hfr (0x080 + 4 * i))).filterMap (fun w => if bit w 31 then some (fld w 7 0) else none)

/-- A new epoch begins (R87): the counter kept in keep memory, or a random value without it. -/
def newEpoch (c : Chip) : Chip :=
  let e : Word := if c.keep.present then c.keep.epoch + 1 else (freshBits c).setWidth 32
  { (if c.keep.present then { c with keep := { c.keep with epoch := e } } else useFresh c) with hfr :=
    { c.hfr with
      epoch := e
      pubSeq := 0
      restart := true
      sampled := none } }

/-- At a frame knot HFR_CTL comes into force, and the publisher samples (R87, R95). The number k of a knot, which R87 does not define, is
the count of frame knots fired since reset. DESIGN CHOICE, log entry 162. -/
def publisherKnot (c : Chip) : Chip :=
  if !(isUp c .hfr) || clkLost c .time then c
  else
    let w := rd c .hfr 0x040
    let c1 := { c with hfr := { c.hfr with ctl := w } }
    let c2 := if fld w 11 4 ≠ fld c.hfr.ctl 11 4 then newEpoch c1 else c1
    let c3 := setState .hfr .run c2
    let n := fld w 7 4 + 1
    let ax := pubAxes c3
    if bit w 0 ∧ c3.tim.frameNo % n = fld w 11 8 ∧ ax ≠ [] then
      let t := (knotNs c3).toNat
      { c3 with hfr := { c3.hfr with sampled := some (c3.clk.now, nsStamp t, ax.map (hitchEntry c3)) } }
    else c3

/-- The payload of a hitch frame (Table 4-7). -/
def hitchPayload (f : HitchFrame) : List Byte :=
  [1, BitVec.ofNat 8 f.entries.length, BitVec.ofNat 8 f.ndiv.val, BitVec.ofNat 8 (flag f.locked 0 + flag f.restart 1 + flag f.step 2)] ++
  beBytes 2 f.pubId.toNat ++ beBytes 4 f.epoch.toNat ++ beBytes 4 f.seq.toNat ++ beBytes 6 f.sample.s ++ beBytes 4 f.sample.ns ++
  f.entries.flatMap (fun e => beBytes 6 e.pos.toNat ++ beBytes 4 e.vel.toNat ++ beBytes 2 e.status.toNat)

/-- HITCH_FRAME_PUBLISH (R86, R87): the sampled frame is queued 1.0 µs after its knot, through the endpoint's switch port. R86 names no
source address; it is that of NET 0. DESIGN CHOICE, log entry 157. -/
def hitchPublish (c : Chip) : Chip :=
  match c.hfr.sampled with
  | none => c
  | some (t0, st, es) =>
    if c.clk.now < t0 + 1000 ∨ !isUp c .hfr then c
    else
      let h := c.hfr
      let f : HitchFrame :=
        { ndiv := Fin.ofNat 17 (fld h.ctl 7 4 + 1)
          locked := timeLocked c
          restart := h.restart
          step := h.stepFlag
          pubId := BitVec.ofNat 16 (rdF c .hfr 0x044 15 0)
          epoch := h.epoch
          seq := h.pubSeq
          sample := st
          entries := es }
      let c1 := emit (.hitchFrame f) { c with hfr :=
        { h with
          sampled := none
          pubSeq := h.pubSeq + 1
          restart := false
          stepFlag := false } }
      let e : EthFrame :=
        { dst := BitVec.ofNat 48 (rdF c .hfr 0x050 15 0 * 2 ^ 32 + (rd c .hfr 0x04C).toNat)
          src := ownMac c
          etype := BitVec.ofNat 16 (rdF c .swt 0x044 15 0)
          pcp := some (Fin.ofNat 8 (fld h.ctl 18 16))
          len := max 64 (46 + 12 * es.length)
          data := hitchPayload f }
      if isUp c .swt then switchIn 4 e true c1 else c1

def subOff (j off : Nat) : Nat := 0x100 + 16 * j + off

def subCtl (c : Chip) (j : Nat) : Word := rd c .hfr (subOff j 0)

def subEn (c : Chip) (j : Nat) : Bool := isUp c .hfr && bit (subCtl c j) 31

/-- A counter of SUB_CNT: 0 LOST, 1 LATE, 2 DUP_STALE, 3 REJECT. -/
def subCount (j k : Nat) (c : Chip) : Chip := cntSat .hfr (subOff j 0xC) (8 * k + 7) (8 * k) c

/-- The hitches that use a subscription and have not been freed. -/
def subHitches (c : Chip) (j : Nat) : List Nat :=
  (c.hits.filter (fun h => hitActive h.2 && h.2.cfg.src == 2 && h.2.cfg.master == j)).map (·.1)

/-- The deadline of a sample in the subscriber's device time (R25). -/
def subDeadline (c : Chip) (t : Nat) : Nat := t + c.tim.lenNs + 1000

/-- A frame of sample time `t` that arrived at `at16`, in 1/16 ns, misses its deadline (R25). -/
def subLate (c : Chip) (t : Nat) (at16 : Int) : Bool := decide ((subDeadline c t * 16 : Int) ≤ at16)

/-- The arrival time of a frame in 1/16 ns of device time: its ingress timestamp less NET_RX_LAT; without timestamps (TS_EN = 0) the
present time (R74, log entry 163). -/
def arrival16 (c : Chip) (port rx : Nat) : Int :=
  if bit (rd c (netPage port) 0x040) 8 then (rx * 16 : Int) - rdF c (netPage port) 0x054 19 0 else (timeNs c * 16 : Int)

/-- A usable or late sample becomes the newest; entries it lacks keep their own newest sample (Table 4-8). -/
def takeSample (f : HitchFrame) (fresh : Bool) (x : Sub) : Sub :=
  let n := f.entries.length
  let t := stampNs f.sample
  let keep {α : Type} (l : List α) : List α := if fresh then [] else l.drop n
  { x with
    epoch := f.epoch
    seq := f.seq
    sampleT := t
    ndiv := f.ndiv.val
    count := n
    entries := f.entries ++ keep x.entries
    prevVel := ((List.range n).map (fun e =>
      match (if fresh then none else x.entries[e]?) with
      | some o => o.vel.toInt
      | none => ((f.entries[e]?).map (·.vel.toInt)).getD 0)) ++ keep x.prevVel
    times := List.replicate n t ++ keep x.times }

/-- MASTER_FAULT once per run of frames that carry FAULT (Table 4-8). -/
def noteMaster (j : Nat) (f : HitchFrame) (c : Chip) : Chip :=
  let bad := f.entries.any (fun e => e.status.getLsbD 5)
  let x := sub c j
  raiseIf (bad && !x.masterFault) .hfr 11 (setSub j { x with masterFault := bad } c)

/-- Hitches whose entry the frame lacks count a miss of their own (Table 4-8). -/
def missingEntries (j : Nat) (c : Chip) : Chip :=
  let x := sub c j
  let loss := fld (subCtl c j) 19 16
  each (subHitches c j) (fun h c =>
    let e := (hitch c h).cfg.entry
    let t := (x.times[e]?).getD 0
    let per := max 1 (x.ndiv * c.tim.lenNs)
    if x.count ≤ e ∧ loss * per ≤ x.sampleT - t then hitchFault h 0x22 c else c) c

/-- A usable frame (Table 4-8, Normal). -/
def subUse (j : Nat) (f : HitchFrame) (fresh : Bool) (c : Chip) : Chip :=
  let x := takeSample f fresh (sub c j)
  missingEntries j (noteMaster j f (setSub j { x with state := .valid, misses := 0, adopted := true, period := x.sampleT } c))

/-- A hitch frame that arrived at `at16` at one subscription (R89, R90). A late first frame is adopted too, but its own period is a miss:
what state that leaves R89 and R90 do not say. DESIGN CHOICE, log entry 164. -/
def subRx (j : Nat) (f : HitchFrame) (at16 : Int) (c : Chip) : Chip :=
  if !subEn c j || BitVec.ofNat 16 (fld (subCtl c j) 15 0) != f.pubId then c
  else
    let x := sub c j
    let t := stampNs f.sample
    let ph := actF c .knt 0x044 29 0
    let onGrid := ((t : Int) - ph) % (periodNs c : Int) == 0
    let late := subLate c t at16
    if !f.locked || !onGrid then subCount j 3 c
    else if !x.adopted then
      (if late then raise .hfr 10 (subCount j 1 (setSub j { takeSample f true x with
          adopted := true
          misses := 1
          period := t
          state := if fld (subCtl c j) 19 16 ≤ 1 then .lost else .estimating } c))
       else subUse j f true c)
    else if f.epoch = x.epoch then
      if f.seq.toNat ≤ x.seq.toNat then subCount j 2 c
      else if late then raise .hfr 10 (subCount j 1 (setSub j (takeSample f false x) c))
      else subUse j f false c
    else
      let used := ((subHitches c j).filter (fun h => (hitch c h).state == .engaged)).map (fun h => (hitch c h).cfg.entry)
      let near (e : Nat) : Bool :=
        match f.entries[e]?, subAt c j e t with
        | some en, some p => decide (absRat (posDiff ((en.pos.toInt : Rat) / 256) p.p) ≤ ((rd c .hfr (subOff j 4)).toNat : Rat))
        | _, _ => false
      if bit (subCtl c j) 20 && used.all near then
        raise .hfr 8 (if late then raise .hfr 10 (subCount j 1 (setSub j (takeSample f false x) c)) else subUse j f false c)
      else
        let c1 := each (subHitches c j) (fun h c => hitchFault h 0x23 c) c
        if late then raise .hfr 10 (subCount j 1 (setSub j (takeSample f true (sub c1 j)) c1)) else subUse j f true c1

/-- HITCH_FRAME_RX: every subscription of the publisher handles it. -/
def hitchFrameRx (port rx : Nat) (f : HitchFrame) (c : Chip) : Chip :=
  each (List.range 16) (fun j c => subRx j f (arrival16 c port rx) c) c

/-- SUBSCRIPTION_MISS (R89): the next publish period has reached its deadline without a usable frame. -/
def subMiss (j : Nat) (c : Chip) : Chip :=
  let x := sub c j
  let next := x.period + x.ndiv * c.tim.lenNs
  if !subEn c j || !x.adopted || decide (timeNs c < subDeadline c next) then c
  else
    let m := min 15 (x.misses + 1)
    let lost := decide (fld (subCtl c j) 19 16 ≤ m)
    let c1 := setSub j { x with misses := m, period := next, state := if lost then .lost else .estimating } c
    if lost && x.state != .lost then
      each (subHitches c1 j) (fun h c => hitchFault h 0x22 c) (raise .hfr 9 (subCount j 0 c1))
    else c1

/-- SUB_CTL.EN written: a cleared or newly set subscription is IDLE (R89). -/
def subCtlWritten (j : Nat) (old new : Word) (c : Chip) : Chip :=
  if bit old 31 = bit new 31 then c else setSub j {} c

/-- SUB_STA (Table 4-13). -/
def subSta (c : Chip) (j : Nat) : Word :=
  let x := sub c j
  let s : Nat := match x.state with | .idle => 0 | .valid => 1 | .estimating => 2 | .lost => 3
  BitVec.ofNat 32 (s + 16 * x.misses + 256 * x.count)

end Sys2Proof.Machine
end

