-- ==== Sys2Proof/Machine/EndOps.lean ====
section
/-!
DEFINITION. How the items in flight of a page end (R28, Table 1-8, R66, R9): by EN = 0, a page reset, or the block watchdog.
-/

namespace Sys2Proof.Machine

/-- EN = 0 of the CMD page, its reset, FLR and warm reset (R66): every command in flight ends ABORTED, those of the rings into the
retained store, and the axes that executed them take QUICK_STOP with slack kept. -/
def cmdAbort (detail : Byte) (c : Chip) : Chip :=
  let l := c.cmd.inflight
  let c1 := holdRing stAborted detail c
  let c2 := finishAll ((l.filter (fun x => !isRing x.cmd.src)).map (·.id)) stAborted detail 0 c1
  updateFull (each l abortRunning c2)

/-- The cam engine's commands (R66, R171). -/
def camAbort (status detail : Byte) (c : Chip) : Chip :=
  let m := c.cam
  let ids := (match m.active with | some x => [x.1] | none => []) ++ m.queue.map (·.1)
  finishAll ids status detail 0 { c with cam := { m with active := none, queue := [] } }

/-- The commands that execute in a page which faults without a reaction of an axis end FAILED with the code (R66). -/
def failItems (p : Page) (code : Byte) (c : Chip) : Chip :=
  match p with
  | .cam => camAbort stFailed code c
  | .trc =>
    let t := c.trc
    finishAll ((match t.startId with | some i => [i] | none => []) ++ t.stopIds) stFailed code 0
      { c with trc := { t with startId := none, stopIds := [] } }
  | _ => c

/-- The commands that run in the HIT page end with a detail of their own before their hitches are freed. -/
def hitEndAll (detail : Byte) (c : Chip) : Chip :=
  each (c.hits.map (·.1)) (fun h c => hitAbort h (if detail = 0 then c else hitFinish h stAborted detail c)) c

/-- The commands of a group end with a detail of their own. -/
def grpEnd (g : Nat) (detail : Byte) (c : Chip) : Chip :=
  let x := group c g
  let ids := (match x.run with | some r => [r.id] | none => []) ++ (match x.stop with | some s => s.ids | none => []) ++
    (match x.next with | some q => [q.1] | none => [])
  groupAbort g (finishAll ids stAborted detail 0 c)

/-- A YCP session's held requests are answered ABORTED (Table 1-8). -/
def ycpEnd (detail : Byte) (c : Chip) : Chip :=
  each (List.range 4) (fun i c =>
    let x := session c i
    each (x.held.map (·.1)) (fun q c => respond i { seq := q, status := stAborted, detail := detail } c)
      (setSession i { x with held := [] } c)) c

/-- The items in flight of a page end ABORTED with a detail. -/
def endItems (p : Page) (detail : Byte) (s : State) : State :=
  match p with
  | .cmd => onChip (cmdAbort detail) s
  | .axm n => onChip (fun c => axisOff n.val (endAxisCommands n.val stAborted detail c)) s
  | .grp g => onChip (grpEnd g.val detail) s
  | .hit => onChip (hitEndAll detail) s
  | .cam => onChip (camAbort stAborted detail) s
  | .fco k => abortCoreItems k.val detail.toNat (onChip (withdrawOffer k.val) s)
  | .dsp => onChip dspAbortAll s
  | .trc => onChip (fun c =>
      let t := c.trc
      trcReset 3 (finishAll ((match t.startId with | some i => [i] | none => []) ++ t.stopIds) stAborted detail 0 c)) s
  | .ycp => onChip (ycpEnd detail) s
  | .adc a => onChip (fun c => coverAbort a.val c) s
  | .fld => onChip schedCancel s
  | _ => s

end Sys2Proof.Machine
end

