-- ==== Sys2Proof/Machine/ClkOps.lean ====
section
/-!
DEFINITION. The loss and return of clocks (R12, R16), PLL lock (R97, R468, R469), the PCI Express link, and the block watchdog (R9).
-/

namespace Sys2Proof.Machine

/-- The pages a domain owns (Table 1-2). -/
def ownPages : Clk → List Page
  | .sys => [.clk]
  | .pwm => (List.finRange 128).map .mod
  | .time => [.tim]
  | .sense => (List.finRange 128).map .fbk ++ (List.finRange 8).map .sdf
  | .adc => (List.finRange 16).map .adc
  | .netTx => (List.finRange 4).map .net ++ [.swt]
  | .netRx p => [.net p]
  | .host => [.cmd]
  | .mem => [.mem]
  | .field => [.fld]
  | .belay => [.bly]

/-- The pages a domain clocks: its own; SYS clocks the fabric, the planner, the loop engines, the filter cores, the dispatcher and the
deck, and every page that no other domain clocks. DEDUCED, log entry 50. -/
def clockedPages : Clk → List Page
  | .sys => [.dev, .clk, .pwr, .sec, .dbg, .evt, .cmd, .ycp, .hfr, .hit, .cam, .dsp, .trc, .kep, .scb] ++
      (List.finRange 160).map .axm ++ (List.finRange 32).map .grp ++ (List.finRange 128).map .lpa ++ (List.finRange 4).map .lpe ++
      (List.finRange 16).map .bus ++ (List.finRange 8).map .fco ++ (List.finRange 128).map .snl
  | .time => [.tim, .knt]
  | d => ownPages d

/-- Every other domain that clocks a page runs. -/
def otherClocksOk (c : Chip) (d : Clk) : Page → Bool
  | .net p => (d == .netTx || !clkLost c .netTx) && (d == .netRx p || !clkLost c (.netRx p))
  | .cmd => (d == .sys || !clkLost c .sys) && (d == .host || !clkLost c .host)
  | _ => true

/-- The physical axes whose AXM page acts. -/
def physOn (c : Chip) : List Nat := (listed c 0x020 128).filter (fun n => acting c (axmPage n))

/-- A reaction on every physical axis. -/
def reactPhys (cls : Nat) (code : Byte) (c : Chip) : Chip := each (physOn c) (fun n c => react n cls code c) c

/-- The link of the PCI Express path goes down, or comes up (R12, R45). -/
def pcieLink (up : Bool) (c : Chip) : Chip := withService (fun c => { c with svcPcie := up }) c

/-- The effect of a loss (Table 1-2), the clock already lost. -/
def lossEffect (d : Clk) (c : Chip) : Chip :=
  match d with
  | .sys => each (modNums c) (fun n c => if (modSt c n).carrier then c else
      let c1 := modMod n (fun m => { m with sysHeld := true }) c
      if (modSt c1 n).block then c1 else blockPulses n false c1) c
  | .pwm => each ((List.finRange 128).map .mod) (resourceLost 0x02) c
  | .time => reactPhys 3 0x02 c
  | .sense =>
    let c1 := each (c.fbks.map (·.1)) (fun n c => modFbk n (fun x => { x with valid := false }) c) c
    reactPhys 5 0x02 (each (busNums c1) busSample c1)
  | .adc =>
    let c1 := each ((physOn c).filter (fun n => sensorless c (f128 n))) (fun n c => react n 4 0x02 c) c
    each (busNums c1) busSample c1
  | .netTx => each (List.range 4) (fun p c => linkDown p false c) c
  | .netRx p => linkDown p.val false c
  | .host => pcieLink false c
  | .mem => each ((c.hits.filter (fun h => h.2.cfg.kind == .cam && hitActive h.2)).map (·.1)) (fun h c => hitchFault h 0x19 c) c
  | .field => { c with bly := outputsSafe (blyHalt 13 c.bly) }
  | .belay => { c with bly := { outputsSafe (blyHalt 13 c.bly) with clockLost := true } }

/-- CLOCK_LOSS: a clock of the device stops, and the loss is detected (R12, R16). -/
def clockLossOf (d : Clk) (c : Chip) : Chip :=
  if clkLost c d then c
  else
    let m : BitVec 14 := 1#14 <<< clkIdx d
    let c1 := { c with clk := { c.clk with lost := c.clk.lost ||| m, running := c.clk.running &&& ~~~m } }
    let c2 := raise .clk 9 (wr .clk 0x044 (rd c1 .clk 0x044 ||| m.setWidth 32) c1)
    let c3 := withService (each (clockedPages d) (fun p c => modHdr p (fun h => { h with clockOk := false }) c)) c2
    lossEffect d (each (ownPages d) (fun p c => latchCond p 0x02 c) c3)

/-- The place of a PLL in CLK_STA (R468). -/
def pllIdx : Pll → Nat
  | .a => 0 | .b => 1 | .c => 2 | .d => 3 | .e => 4 | .f => 5

/-- PLLs have lock again: CLK_STA shows it, and 0xCC stands no longer once none is without (R36, R468). -/
def pllsBack (m : BitVec 6) (c : Chip) : Chip :=
  let c1 := { c with clk := { c.clk with pll := c.clk.pll ||| m, unlocked := c.clk.unlocked &&& ~~~m } }
  if c1.clk.unlocked = 0 then endCond .clk 0xCC c1 else c1

/-- The PLL whose lock a domain's return shows (Table 1-2): a clock that runs again runs from a locked PLL. PLL C has a command of its
own. DEDUCED, log entry 148. -/
def pllOf : Clk → BitVec 6
  | .sys => 1#6 <<< pllIdx .a
  | .pwm | .sense => 1#6 <<< pllIdx .b
  | .adc => 1#6 <<< pllIdx .d
  | .netTx => 1#6 <<< pllIdx .e
  | .mem => 1#6 <<< pllIdx .f
  | _ => 0

/-- CLOCK_RETURN: the clock runs again; CLOCK_OK sets where every clock of the page runs, and the conditions end (R16, R36). -/
def clockReturnOf (d : Clk) (c : Chip) : Chip :=
  if !clkLost c d then c
  else
    let m : BitVec 14 := 1#14 <<< clkIdx d
    let c1 := { c with clk := { c.clk with lost := c.clk.lost &&& ~~~m, running := c.clk.running ||| m } }
    let back (p : Page) : Bool := otherClocksOk c1 d p
    let c2 := withService (each ((clockedPages d ++ ownPages d).filter back) (fun p c => modHdr p (fun h => { h with clockOk := true }) c)) c1
    let c3 := pllsBack (pllOf d &&& c2.clk.unlocked) (each ((ownPages d).filter back) (fun p c => endCond p 0x02 c) c2)
    match d with
    | .belay => { c3 with bly := { c3.bly with clockLost := false } }
    | _ => c3

/-- PLL_UNLOCK: a PLL loses lock while its clock is still detected (R469). The condition stands until every PLL that lost lock has it
again (R36). PLL C is the time base's, whose page returns to READY meanwhile (R97). -/
def pllUnlockOf (x : Pll) (c : Chip) : Chip :=
  let m := 1#6 <<< pllIdx x
  if c.clk.unlocked &&& m ≠ 0 then c
  else
    let c1 := { c with clk := { c.clk with pll := c.clk.pll &&& ~~~m, unlocked := c.clk.unlocked ||| m } }
    let c2 := match x with | .c => timUnlock c1 | _ => c1
    latchFault .clk 0xCC (modHdr .clk (fun h => { h with conds := 0xCC :: h.conds.filter (· != 0xCC) }) (raise .clk 8 c2))

/-- PLL_LOCK of PLL C, as CLK_STA shows it too. -/
def pllLocked (c : Chip) : Chip :=
  let c1 := pllLockEvent c
  if c1.tim.pllLock then pllsBack (1#6 <<< pllIdx .c) c1 else c1

/-- The block watchdog finds the engine of a page without progress (Table 0-4): its items end ABORTED with DETAIL 0x05, and the page
enters FAULT. Whether the engine responds again when its code is cleared is open (log entry 51). -/
def watchdogOn (p : Page) (s : State) : State :=
  let h := hdr s.chip p
  let working := h.resetSince.isSome || (match h.state with | .ready | .run | .splicing => true | _ => false)
  if working then endItems p 0x05 (onChip (fun c => resourceLost 0x05 p (latchFault p 0x05 c)) s) else s

end Sys2Proof.Machine
end

