-- ==== Sys2Proof/Machine/MemCtl.lean ====
section
/-!
DEFINITION. The DRAM controller, the scrubber, the error log and the save area's place (R440, R447 to R450).
-/

namespace Sys2Proof.Machine

/-- KEP_SAVE_BASE as start-up sets it: the capacity minus 516 KiB (R449). -/
def saveTop (mib : Nat) : Nat := if 4 ≤ mib then 1024 * (1024 * mib - 516) else 0

def modMemc (f : MemCtlSt → MemCtlSt) (c : Chip) : Chip := { c with memc := f c.memc }

/-- The controller refreshes and calibrates: trained, its clock running, out of self-refresh. -/
def dramRuns (c : Chip) : Bool := dramUp c && !c.memc.selfRefresh

/-- The refresh interval in ns: 7.8 µs, or 3.9 µs above 85 °C. -/
def refreshNs (c : Chip) : Nat := if c.memc.hot then 3900 else 7800

/-- DRAM_REFRESH: a refresh that is due; more than 8 intervals behind latches 0xC1 (R440, Table 19-6). -/
def dramRefreshStep (c : Chip) : Chip :=
  let t := c.memc.lastRefresh + refreshNs c
  if !dramRuns c ∨ c.clk.now < t then c
  else
    let c1 := modMemc (fun m => { m with lastRefresh := c.clk.now }) c
    if t + 8 * refreshNs c < c.clk.now then latchFault .mem 0xC1 c1 else c1

/-- DRAM_TEMP_READ, every 32 ms. -/
def dramTemp (hot : Bool) (c : Chip) : Chip :=
  if !dramRuns c ∨ c.clk.now < c.memc.lastTemp + 32000000 then c
  else modMemc (fun m => { m with hot := hot, lastTemp := c.clk.now }) c

/-- ZQ_CALIBRATION, every 128 ms. -/
def zqCal (c : Chip) : Chip :=
  if !dramRuns c ∨ c.clk.now < c.memc.lastZq + 128000000 then c else modMemc (fun m => { m with lastZq := c.clk.now }) c

/-- DRAM_SELF_REFRESH: in DOZE, after 1 ms without access (R480). -/
def dramSelf (c : Chip) : Chip :=
  if c.pwr.state = .doze ∧ dramRuns c ∧ c.memc.lastAccess + 1000000 ≤ c.clk.now then modMemc (fun m => { m with selfRefresh := true }) c
  else c

/-- DRAM from a byte address on is written with zero data and a valid code. -/
def zeroDram (base : Nat) (m : Mem) : Mem :=
  let gone (k : Nat) : Bool := cellKey .dram base ≤ k && k < cellKey .dram 0 + 2 ^ 40
  { m with cells := m.cells.filter (fun x => !gone x.1), err := m.err.filter (fun x => !(cellKey .dram (base / 16) ≤ x.1 && x.1 < cellKey .dram 0 + 2 ^ 40)) }

/-- DRAM_TRAINED (R440): training and initialisation end, or a step fails. Of a DRAM already trained, the words that a larger SIZE has
added are initialised. -/
def dramTrainedStep (failStep : Option (Fin 16)) (s : State) : State :=
  let c := s.chip
  let size := rdF c .mem 0x040 3 0
  if c.memc.dramOk then
    if c.memc.initGiB < size ∧ (hdr c .mem).clockOk then
      { s with
        mem := zeroDram (c.memc.initGiB * 2 ^ 30) s.mem
        chip := raise .mem 11 (modMemc (fun m => { m with initGiB := size }) c) }
    else s
  else if clkLost c .mem ∨ standing c .mem 0xC0 then s
  else match failStep with
    | some k =>
      onChip (fun c =>
        let c1 := raise .mem 12 (latchCond .mem 0xC0 (modMemc (fun m => { m with failStep := k.val }) c))
        each ((c1.hits.filter (fun h => h.2.cfg.kind == .cam && hitActive h.2)).map (·.1)) (fun h c => hitchFault h 0x19 c) c1) s
    | none =>
      { s with
        mem := zeroDram 0 s.mem
        chip := raise .mem 11 (modMemc (fun m => { m with
          trained := true
          dramOk := true
          initGiB := size
          lastAccess := c.clk.now
          lastRefresh := c.clk.now
          lastTemp := c.clk.now
          lastZq := c.clk.now }) c) }

/-- MEM_STA (Table 19-3). -/
def memSta (c : Chip) : Word :=
  let m := c.memc
  BitVec.ofNat 32 (flag m.trained 0 + flag m.dramOk 1 + flag m.selfRefresh 2 + flag m.hot 3 + m.failStep * 256)

/-- The read of MEM_ELOG pops one entry; its address goes into MEM_ELOG_ADDR (R448). -/
def elogPop (c : Chip) : Chip × Word :=
  match c.memc.elog with
  | [] => (c, 0x80000000)
  | x :: t =>
    (wrPair .mem 0x054 (BitVec.ofNat 64 x.addr) (modMemc (fun m => { m with elog := t }) c),
      BitVec.ofNat 32 (x.syndrome.toNat + x.region * 512 + flag x.ue 13 + flag x.misaddr 14 + flag x.scrub 15))

/-- MEM_INJ: one bit or two in the next write to a region (R448). -/
def memInject (v : Word) (c : Chip) : Chip :=
  let n := if bit v 1 then 2 else if bit v 0 then 1 else 0
  if fld v 7 4 ≤ 6 ∧ n ≠ 0 then modMemc (fun m => { m with inj := tabSet 0 m.inj (fld v 7 4) n }) c else c

/-- KEP_SAVE_BASE may take a value (R449): the save area of 512 KiB above the boot image applied and below the key records. -/
def saveBaseOk (c : Chip) (v : Word) : Bool :=
  let b := fld v 25 12 * 4096
  decide (c.keep.bootEnd ≤ b) && decide (b + 524288 + 4096 ≤ c.keep.mib * 2 ^ 20)

/-! ### The scrubber (R447, R450) -/

/-- The SRAM regions and their words, in the order of Table 19-1. -/
def sramRegions : List (Region × Nat) := [(.deck, 196608), (.loop, 65536), (.core, 65536), (.net, 32768), (.trace, 32768)]

def sramWords : Nat := 393216

/-- The region and the word of a place in the SRAM pass. -/
def sramPlace : List (Region × Nat) → Nat → Region × Nat
  | [], _ => (.deck, 0)
  | (r, n) :: t, i => if i < n then (r, i) else sramPlace t (i - n)

/-- The scrubber works (R447): its page acts, and neither a halt nor a save pauses it. -/
def scrubs (c : Chip) : Bool := acting c .scb && !c.scb.halted && c.pwr.state != .save && !clkLost c .sys

/-- The time a word of a pass is due: the reads are spread evenly over the period. -/
def scrubDue (since period pos words : Nat) : Nat := since + pos * period / words

/-- A word is read, corrected and written back, or poisoned (R445 to R447). `upset` is what has befallen it since. -/
def scrubOne (r : Region) (i : Nat) (upset : BitVec 144) (s : State) : State :=
  let s1 := { s with mem := setWordErr r i (wordErr s.mem r i ^^^ upset) s.mem }
  let s2 := onChip (wr .scb 0x050 (BitVec.ofNat 32 (regionCode r + i * 16))) s1
  match readCode r i true s2 with
  | (s3, some _) => s3
  | (s3, none) => { s3 with mem := poison r i s3.mem }

/-- RATE_LOW once in a pass that runs 10 % over its period. -/
def overRate (since period now : Nat) : Bool := decide (since * 10 + period * 11 < now * 10)

/-- When the next pass begins. -/
def nextPass (since period now : Nat) : Nat := if now < since + period then since + period else now

/-- SCRUB_WORD: the next word that is due, of the SRAM pass or the DRAM pass (R447). -/
def scrubStep (upset : BitVec 144) (s : State) : State :=
  let c := s.chip
  let x := c.scb
  let now := c.clk.now
  let sp := rdF c .scb 0x044 11 0 * 1000000000
  let dp := rdF c .scb 0x048 16 0 * 1000000000
  let dw := dramBytes c / 16
  let sOn := bit (rd c .scb 0x040) 0
  let dOn := bit (rd c .scb 0x040) 1 && dramRuns c && decide (0 < dw)
  let sDue := scrubDue x.sramSince sp x.sramPos sramWords
  let dDue := scrubDue x.dramSince dp x.dramPos dw
  if !scrubs c then s
  else if sOn && decide (sDue ≤ now) && (!dOn || decide (sDue ≤ dDue)) then
    let q := sramPlace sramRegions x.sramPos
    let late := overRate x.sramSince sp now
    let s1 := onChip (raiseIf (late && !x.sramLate) .scb 10) (scrubOne q.1 q.2 upset s)
    if x.sramPos + 1 < sramWords then onChip (fun c => { c with scb := { c.scb with sramPos := x.sramPos + 1, sramLate := x.sramLate || late } }) s1
    else onChip (fun c => raise .scb 8 (cntWrap .scb 0x04C 15 0
      { c with scb := { c.scb with sramPos := 0, sramLate := false, sramSince := nextPass x.sramSince sp now } })) s1
  else if dOn && decide (dDue ≤ now) then
    let i := if x.dramPos < dw then x.dramPos else 0
    let late := overRate x.dramSince dp now
    let s1 := onChip (raiseIf (late && !x.dramLate) .scb 10) (scrubOne .dram i upset s)
    if i + 1 < dw then onChip (fun c => { c with scb := { c.scb with dramPos := i + 1, dramLate := x.dramLate || late } }) s1
    else onChip (fun c => raise .scb 9 (cntWrap .scb 0x04C 31 16
      { c with scb := { c.scb with dramPos := 0, dramLate := false, dramSince := nextPass x.dramSince dp now } })) s1
  else s

end Sys2Proof.Machine
end

