-- ==== Sys2Proof/Machine/TrcSample.lean ====
section
/-!
DEFINITION. Trace sampling: channels and their values (R381 to R383), the edge units, the sequencer and triggers (R390 to R393),
and skew calibration (R394).
-/

namespace Sys2Proof.Machine

def chSel (c : Chip) (i : Nat) : Word := act c .trc (0x200 + 16 * i)

def chGroup (c : Chip) (i : Nat) : Nat := fld (chSel c i) 3 0

def chIndex (c : Chip) (i : Nat) : Nat := fld (chSel c i) 11 4

def chField (c : Chip) (i : Nat) : Nat := fld (chSel c i) 15 12

def chRate (c : Chip) (i : Nat) : Nat := fld (chSel c i) 23 22

def chDiv (c : Chip) (i : Nat) : Nat := fld (chSel c i) 31 24 + 1

def chOn (c : Chip) (i : Nat) : Bool := chGroup c i != 0 && chRate c i != 0

/-- The channels enabled. -/
def chans (c : Chip) : List Nat := (List.range 64).filter (chOn c)

/-- Bits [SHIFT + 31:SHIFT] of a 64-bit source, saturated (R381). -/
def chShift (c : Chip) (i : Nat) (d : DWord) : Word :=
  let x := d.toInt / (2 ^ fld (chSel c i) 21 16 : Nat)
  BitVec.ofInt 32 (if x > 2147483647 then 2147483647 else if x < -2147483648 then -2147483648 else x)

/-! ### Status words that trace shares with the register window -/

/-- SNL_ANGLE, SNL_FREQ and SNL_EMF (Table 12-4). -/
def snlAngleReg (c : Chip) (n : Nat) : Word := BitVec.ofNat 32 ((frac (snlSt c n).theta * 65536).floor.toNat % 65536)

def snlFreqReg (c : Chip) (n : Nat) : Word :=
  let x := roundAway (snlHat c n * 1000)
  BitVec.ofInt 32 (if x > 2147483647 then 2147483647 else if x < -2147483648 then -2147483648 else x)

def snlEmfReg (c : Chip) (n : Nat) : Word := (toCoef (snlSt c n).eMag).1

/-- The page of a signal group's source. -/
def chPage (c : Chip) (i : Nat) : Option Page :=
  let n := chIndex c i
  match chGroup c i with
  | 1 => some (axmPage n)
  | 2 => some (lpaPage n)
  | 3 => some (fbkPage n)
  | 4 => some (sdfPage (n / 16))
  | 5 => some (adcPage n)
  | 6 => some (busPage n)
  | 7 => some (modPage n)
  | 8 => some (snlPage n)
  | 9 => some .fld
  | 11 => some .tim
  | _ => none

/-- The value of a channel now (R382); 0 from a page that is off or splicing, or without validity. -/
def chVal (i : Nat) (s : State) : State × Word :=
  let c := s.chip
  let n := chIndex c i
  let f := chField c i
  let gone : Bool := match chPage c i with
    | some p => (hdr c p).state == .off || (hdr c p).state == .splicing
    | none => false
  if gone then (s, 0)
  else
    match chGroup c i with
    | 1 => let a := (axis c n).cur; (s, chShift c i (if f = 0 then wrapQ a.p else if f = 1 then satQ a.v else satQ a.a))
    | 2 => (s, if obsValid c n then ((loopAx c n).obs[f]?).getD 0 else 0)
    | 3 =>
      let x := fbkSt c n
      (s, if x.valid then chShift c i (if f = 0 then wrapQ x.pos else satQ x.vel) else 0)
    | 4 => let x := sdfCh c (portCh n f); (s, if x.valid then BitVec.ofInt 32 x.d else 0)
    | 5 => let r := adcRes c n f; (s, if r.2.1 then BitVec.ofNat 32 r.1 else 0)
    | 6 => (s, (toCoef (busSt c n).v).1)
    | 7 => let m := modSt c n
           -- the result of the evaluation for t: the set it wrote, which waits for its apply point
           let d := if m.pendingSet then m.shadow else m.duty
           (s, if f = 0 then BitVec.ofNat 32 d.u else if f = 1 then BitVec.ofNat 32 d.v
               else if f = 2 then BitVec.ofNat 32 d.w else BitVec.ofInt 32 m.phaseErr)
    | 8 => (s, if f = 0 then snlAngleReg c n else if f = 1 then snlFreqReg c n else snlEmfReg c n)
    | 9 => (s, rd c .fld (0x068 + 4 * n))
    | 10 =>
      let r := readMem32 .deck (fld (act c .trc (0x204 + 16 * i)) 21 2 * 4) s
      (r.1, r.2.getD 0)
    | 11 => (s, if f = 0 then rd c .tim 0x068 else BitVec.ofInt 32 c.tim.rate)
    | _ => (s, 0)

/-- A value in its group's format (Table 16-1), for comparing. -/
def chNum (c : Chip) (i : Nat) (w : Word) : Rat :=
  let uns : Bool := match chGroup c i with
    | 5 | 9 | 10 => true
    | 7 => chField c i != 3
    | 8 => chField c i == 0
    | _ => false
  let coef : Bool := chGroup c i == 2 || chGroup c i == 6 || (chGroup c i == 8 && chField c i == 2)
  if coef then coefVal w else if uns then (w.toNat : Rat) else (w.toInt : Rat)

/-! ### Skew (R383) -/

/-- T_c: the channel's sample period in ns. -/
def chPeriod (c : Chip) (i : Nat) : Rat :=
  (if chRate c i = 2 then (c.tim.lenNs : Rat) else (c.tim.lenNs : Rat) / samplesPer c) * chDiv c i

/-- NOM_c in ns. -/
def chNom (c : Chip) (i : Nat) : Int :=
  let n := chIndex c i
  match chGroup c i with
  | 4 =>
    let ck := act c (sdfPage (n / 16)) 0x044
    let dv := if n % 16 < 8 then fld ck 4 0 else fld ck 12 8
    let r := fld (sdfPort c (portCh n 0)) 8 0
    roundAway ((3 * (r - 1) * dv * 10 : Nat) / 2)
  | 5 =>
    let ss := sampleSlots c n
    match ((ss.zip (slotInstants ss none)).find? (fun x => fld x.1 2 0 == chField c i)) with
    | some x => roundAway x.2
    | none => 0
  | _ => 0

/-- d_c. -/
def chDelay (c : Chip) (i : Nat) : Nat :=
  let sk : Rat := (chNom c i : Rat) + (signed 20 (actF c .trc (0x208 + 16 * i) 19 0) : Rat)
  let d := roundAway (sk / chPeriod c i)
  if d < 0 then 0 else min 255 d.toNat

/-- TRC_CH_STA (Table 16-4). -/
def chSta (c : Chip) (i : Nat) : Word :=
  if chOn c i then BitVec.ofNat 32 (chDelay c i + ((chNom c i) % 2 ^ 24).toNat * 256) else 0

/-- The largest d_c × T_c, ns. -/
def maxSkew (c : Chip) : Nat :=
  ((chans c).map (fun i => (chDelay c i * chPeriod c i).floor.toNat)).foldl max 0

/-! ### Edge units and sequencer (R390 to R392) -/

/-- One edge unit at a record: whether it fires, and the edge point in device ns. -/
def edgeStep (c : Chip) (e : Nat) (x : EdgeSt) (v : Rat) (t : Nat) : EdgeSt × Option Nat :=
  let cfg := act c .trc (0x100 + 16 * e)
  let ch := fld cfg 5 0
  let dir := fld cfg 9 8
  let lv := chNum c ch (act c .trc (0x104 + 16 * e))
  let hy := chNum c ch (act c .trc (0x108 + 16 * e))
  let up := (dir == 1 || dir == 3) && x.armedUp && decide (lv ≤ v)
  let down := (dir == 2 || dir == 3) && x.armedDown && decide (v ≤ lv)
  let armU := (dir == 1 || dir == 3) && decide (v ≤ lv - hy)
  let armD := (dir == 2 || dir == 3) && decide (lv + hy ≤ v)
  let fire := up || down
  let fu := if fire then up else x.firedUp
  let x1 : EdgeSt :=
    { armedUp := if up then false else x.armedUp || armU
      armedDown := if down then false else x.armedDown || armD
      level := if fire then true else if (fu && armU) || (!fu && armD) then false else x.level
      firedUp := fu
      prev := some (v, t) }
  let at_ : Nat := match x.prev with
    | some (v0, t0) => if v0 = v then t else ((t0 : Rat) + ((t : Rat) - t0) * (lv - v0) / (v - v0)).floor.toNat
    | none => t
  (x1, if fire then some at_ else none)

/-- Whether a sequencer event holds (Table 16-3), with its trigger point. -/
def seqEvent (c : Chip) (fires : List (Nat × Nat)) (now code : Nat) : Option Nat :=
  let t := c.trc
  let yes (b : Bool) : Option Nat := if b then some now else none
  if 1 ≤ code ∧ code ≤ 8 then (fires.find? (fun x => x.1 == code - 1)).map (·.2)
  else if 9 ≤ code ∧ code ≤ 16 then yes (tabGet {} t.edges (code - 9)).level
  else match code with
    | 17 => t.mark17
    | 18 => t.mark18
    | 19 => yes t.forced
    | 20 => yes (decide (actF c .trc 0x0A4 23 0 ≤ tabGet 0 t.counters 0))
    | 21 => yes (decide (actF c .trc 0x0AC 23 0 ≤ tabGet 0 t.counters 1))
    | 22 => yes (bit t.timerExp 0)
    | 23 => yes (bit t.timerExp 1)
    | 24 => some now
    | _ => none

/-- The trigger (R392). -/
def trigger (st : Nat) (isB : Bool) (code point : Nat) (c : Chip) : Chip :=
  let t := c.trc
  let sq := t.trigSeq + 1
  let rearm := bit (act c .trc 0x040) 2
  let hold := actF c .trc 0x080 31 16
  let c1 := raise .trc 8 (modTrc (fun t => { t with
    trigSeq := sq
    trigValid := true
    trigTime := nsStamp point
    spent := !rearm
    holdoff := if rearm then some (c.clk.now + hold * 1000000) else none }) c)
  let ws : List Word := [BitVec.ofNat 32 (st + flag isB 3 + code * 16 + sq.toNat * 65536), 0]
  if bit (act c .trc 0x040) 1 then
    let old := t.window
    let c2 := each old (fun r c =>
      let x := stageRec (lossReason c) r c.trc
      raiseIf (c.trc.gap.isSome && x.1.gap.isNone) .trc 9 { c with trc := x.1 }) (modTrc (fun t => { t with window := [] }) c1)
    let c3 := formRecord 4 (nsStamp point) ws c2
    let post := actF c .trc 0x084 23 0
    let c4 := modTrc (fun t => { t with state := .post, postLeft := post }) c3
    if post = 0 then (if rearm then modTrc (fun t => { t with state := .running }) c4 else raise .trc 12 (trcStop c4)) else c4
  else formRecord 4 (nsStamp point) ws c1

/-- A holdoff of 0 ms ends at once; else HOLDOFF_END ends it (R392). -/
def holdoffEnd (c : Chip) : Chip :=
  match c.trc.holdoff with
  | some t => if t ≤ c.clk.now then seqEnter 0 (modTrc (fun t => { t with holdoff := none }) c) else c
  | none => c

/-- SEQUENCER_TIMER (R391). -/
def seqTimer (i : Nat) (c : Chip) : Chip :=
  let t := tabGet 0 c.trc.timers i
  if t ≠ 0 ∧ t - 1 + actF c .trc (0x0B0 + 4 * i) 23 0 * 1000 ≤ c.clk.now then
    modTrc (fun x => { x with timerExp := x.timerExp ||| (1#2 <<< i) }) c
  else c

/-- The sequencer at an instant that forms a DATA record (R391). -/
def seqStep (inst : TrcInst) (c : Chip) : Chip :=
  let t := c.trc
  -- 1: edge units
  let es := (List.range 8).map (fun e =>
    let ch := actF c .trc (0x100 + 16 * e) 5 0
    if actF c .trc (0x100 + 16 * e) 9 8 ≠ 0 ∧ inst.mask.getLsbD ch then
      let r := edgeStep c e (tabGet {} t.edges e) (chNum c ch (tabGet 0 inst.vals ch)) inst.time
      (e, r.1, r.2)
    else (e, tabGet {} t.edges e, none))
  let fires := es.filterMap (fun x => x.2.2.map (fun p => (x.1, p)))
  let c1 := modTrc (fun t => { t with edges := es.foldl (fun l x => tabSet {} l x.1 x.2.1) t.edges }) c
  let stop := t.spent || t.holdoff.isSome || t.state != .running
  -- 2: counters
  let w := act c .trc (0x0C0 + 4 * t.seqState)
  let bump (i : Nat) (c : Chip) : Chip :=
    if bit w (18 + i) ∧ (seqEvent c1 fires inst.time (actF c .trc (0x0A0 + 8 * i) 4 0)).isSome then
      modTrc (fun t => { t with counters := tabSet 0 t.counters i (tabGet 0 t.counters i + 1) }) c
    else c
  -- 3: timers
  let c2 := if stop then c1 else seqTimer 1 (seqTimer 0 (bump 1 (bump 0 c1)))
  -- 4: at most one transition
  let go (isB : Bool) (ev next : Nat) (trig : Bool) (point : Nat) (c : Chip) : Chip :=
    let c3 := if trig then trigger t.seqState isB ev point c else c
    let c4 := seqEnter next c3
    if trig ∧ bit (act c .trc 0x040) 2 ∧ actF c .trc 0x080 31 16 = 0 then holdoffEnd c4 else c4
  let c3 :=
    if stop then c2
    else match seqEvent c2 fires inst.time (fld w 4 0) with
      | some p => go false (fld w 4 0) (fld w 7 5) (bit w 16) p c2
      | none =>
        match seqEvent c2 fires inst.time (fld w 12 8) with
        | some p => go true (fld w 12 8) (fld w 15 13) (bit w 17) p c2
        | none => c2
  modTrc (fun t => { t with forced := false, mark17 := none, mark18 := none }) c3

/-! ### One sample instant -/

/-- The channels due at this current sample (R382). -/
def chDue (c : Chip) (sample0 : Bool) : List Nat :=
  (chans c).filter (fun i =>
    if chRate c i = 1 then c.trc.samples % chDiv c i == 0
    else sample0 && c.trc.frames % chDiv c i == 0)

/-- A channel's value goes to the instant d_c of its own sample instants back (R383); the instants stand oldest first. -/
def placeVal (i d : Nat) (v : Word) (l : List TrcInst) : List TrcInst :=
  let step (acc : List TrcInst × Nat) (x : TrcInst) : List TrcInst × Nat :=
    if x.mask.getLsbD i then
      (if acc.2 = 0 then { x with got := x.got ||| (1#64 <<< i), vals := tabSet 0 x.vals i v } :: acc.1 else x :: acc.1, if acc.2 = 0 then 65536 else acc.2 - 1)
    else (x :: acc.1, acc.2)
  (l.reverse.foldl step ([], d)).1

/-- The DATA record of an instant, and the evaluation that follows it (R384, R391). -/
def formData (x : TrcInst) (c : Chip) : Chip :=
  let vals := ((List.range 64).filter (fun i => x.mask.getLsbD i)).map (fun i => tabGet 0 x.vals i)
  seqStep x (emitRecord 1 (nsStamp x.time) ([BitVec.extractLsb' 0 32 x.mask, BitVec.extractLsb' 32 32 x.mask] ++ vals) c)

/-- Instants whose values have all come and whose skew has passed, oldest first. -/
def formReady : Nat → Chip → Chip
  | 0, c => c
  | k + 1, c =>
    match c.trc.insts with
    | [] => c
    | x :: t =>
      if x.got = x.mask ∧ x.time + maxSkew c ≤ timeNs c then
        formReady k (formData x (modTrc (fun y => { y with insts := t }) c))
      else c

/-- Trace at current sample i (R382 to R385). -/
def trcSample (i : Nat) (s : State) : State :=
  let c := s.chip
  let t := c.trc
  let count (c : Chip) : Chip := modTrc (fun t => { t with samples := t.samples + 1, frames := if i = 0 then t.frames + 1 else t.frames }) c
  match t.cal with
  | some cal =>
    if t.halted then s
    else if cal.fired.isNone then s
    else eachState (chans c) (fun ch s =>
      let r := chVal ch s
      onChip (modTrc (fun t => { t with cal := t.cal.map (fun k => { k with
        samples := tabSet [] k.samples ch (tabGet [] k.samples ch ++ [(c.clk.now, r.2)]) }) })) r.1) s
  | none =>
    if !trcRunning t then onChip flushMarks s
    else
      let due := chDue c (i == 0)
      if t.halted then
        onChip (fun c => count (if due = [] then c else
          modTrc (fun t => { t with missed := t.missed + 1, missFirst := if t.missed = 0 then nsStamp (timeNs c) else t.missFirst }) c)) s
      else
        let mask : DWord := BitVec.ofNat 64 (due.foldl (fun m k => m + 2 ^ k) 0)
        let s1 := if due = [] then s else
          onChip (modTrc (fun t => { t with insts := t.insts ++ [{ time := timeNs c, mask := mask }] })) s
        let s2 := eachState due (fun k s =>
          let r := chVal k s
          onChip (modTrc (fun t => { t with insts := placeVal k (chDelay c k) r.2 t.insts })) r.1) s1
        onChip (fun c => flushMarks (count (formReady 512 c))) s2

/-! ### Configuration, timers, calibration -/

/-- PRE × the largest DATA record exceeds 262,144 bytes (R392). -/
def trcBad (c : Chip) : Bool :=
  let n := ((List.range 64).filter (fun i => rdF c .trc (0x200 + 16 * i) 3 0 != 0 && rdF c .trc (0x200 + 16 * i) 23 22 != 0)).length
  decide (262144 < rdF c .trc 0x080 11 0 * ((24 + 4 * n + 7) / 8 * 8))

/-- After the copy of the shadows (R393): a sequencer or edge change restarts the sequencer, edge units disarmed. -/
def trcApplied (old : Chip) (c : Chip) : Chip :=
  let same := ((List.range 72).map (fun k => 0x0A0 + 4 * k)).all (fun o => act old .trc o == act c .trc o)
  if same then c
  else seqEnter 0 (modTrc (fun t => { t with edges := [], spent := false, holdoff := none }) c)

/-- TRC_CAL_CMD (R394). -/
def calCmd (v : Word) (c : Chip) : Chip :=
  let k := fld v 12 8
  if bit v 0 ∧ c.trc.state = .stopped ∧ k ≠ 0 ∧ isUp c .trc then
    modTrc (fun t => { t with state := .cal, cal := some { knot := k } }) c
  else c

/-- Runs a step in which knots may fire, and notes v0 of every channel where the calibration's knot fired (R394). -/
def withCal (f : State → State) (s : State) : State :=
  let s1 := f s
  match s1.chip.trc.cal with
  | none => s1
  | some cal =>
    if cal.fired.isNone ∧ (knot s.chip cal.knot).seq ≠ (knot s1.chip cal.knot).seq then
      let now := s1.chip.clk.now
      let s2 := onChip (modTrc (fun t => { t with cal := some { knot := cal.knot, fired := some now } })) s1
      eachState (chans s2.chip) (fun ch s =>
        let r := chVal ch s
        onChip (modTrc (fun t => { t with cal := t.cal.map (fun k => { k with samples := tabSet [] k.samples ch [(now, r.2)] }) })) r.1) s2
    else s1

/-- The first crossing of a level by samples, interpolated. -/
def firstCross (lv : Rat) : List (Nat × Rat) → Option Rat
  | (t0, v0) :: (t1, v1) :: t =>
    if v0 ≠ v1 ∧ ((v0 ≤ lv ∧ lv ≤ v1) ∨ (v1 ≤ lv ∧ lv ≤ v0)) then
      some ((t0 : Rat) + ((t1 : Rat) - t0) * (lv - v0) / (v1 - v0))
    else firstCross lv ((t1, v1) :: t)
  | _ => none

/-- TRC_CAL_DONE: one millisecond after the knot (R394). -/
def calFinish (s : State) : State :=
  match s.chip.trc.cal with
  | none => s
  | some cal =>
    match cal.fired with
    | none => s
    | some t0 =>
      if s.chip.clk.now < t0 + 1000000 then s
      else
        let s1 := eachState (chans s.chip) (fun ch s =>
          let r := chVal ch s
          let c := r.1.chip
          let l := (tabGet [] cal.samples ch ++ [(c.clk.now, r.2)]).map (fun x => (x.1, chNum c ch x.2))
          let v0 := ((l.head?).map (·.2)).getD 0
          let v1 := chNum c ch r.2
          let w : Word :=
            if v0 = v1 then 0
            else match firstCross ((v0 + v1) / 2) l with
              | some t => BitVec.ofNat 32 (2 ^ 31 + ((roundAway (t - t0)) % 2 ^ 31).toNat)
              | none => 0
          onChip (wr .trc (0x600 + 4 * ch) w) r.1) s
        onChip (fun c => raise .trc 14 (modTrc (fun t => { t with cal := none, state := .stopped }) c)) s1

/-- Debug halt of TRC ends: a GAP with REASON HALT counts the instants missed (R395). -/
def trcResume (c : Chip) : Chip :=
  let t := c.trc
  let now := nsStamp (timeNs c)
  modTrc (fun t => { t with
    halted := false
    missed := 0
    gap := if t.missed = 0 then t.gap else some (match t.gap with
      | some g => { g with count := g.count + t.missed, last := now }
      | none => { count := t.missed, reason := 5, first := t.missFirst, last := now }) }) { c with trc := t }

/-- TRC_STA (Table 16-4). -/
def trcSta (c : Chip) : Word :=
  let t := c.trc
  let st : Nat := match t.state with | .stopped => 0 | .running => 1 | .post => 2 | .cal => 3
  BitVec.ofNat 32 (st + flag t.resize.isSome 2 + flag t.gap.isSome 3 + t.seqState * 16 + (stagedBytes t + 127) / 128 % 4096 * 256)

end Sys2Proof.Machine
end

