-- ==== Sys2Proof/Machine/SecOps.lean ====
section
/-!
DEFINITION. Lifecycle, keys, unlock tokens, debug levels and halts (R470 to R479, R481, R482).
-/

namespace Sys2Proof.Machine

def modSec (f : SecSt → SecSt) (c : Chip) : Chip := { c with sec := f c.sec }

def modDbg (f : DbgSt → DbgSt) (c : Chip) : Chip := { c with dbg := f c.dbg }

/-- Every physical axis is DISABLED or SAFE (R471, R477, R480). -/
def axesQuiet (c : Chip) : Bool :=
  c.axes.all (fun p => !isPhys p.1 || p.2.state == .disabled || p.2.state == .safe)

/-- SEC_CMD_RES of a path: 1 BUSY, 2 DONE, 3 REFUSED, with a reason in [7:4]. -/
def secRes (path : Path) (r reason : Nat) (c : Chip) : Chip :=
  modSec (fun x => { x with res := tabSet 0 x.res (pathCode path) (r + 16 * reason) }) c

/-! ### Lifecycle (R470, R471) -/

/-- The reason that refuses a transition to a state; 0 = none (R471). -/
def transReason (c : Chip) (target : Nat) : Nat :=
  let x := c.sec
  if !axesQuiet c then 1
  else if c.pwr.state ≠ .run then 2
  else if target ≠ 3 ∧ target ≠ x.life + 1 then 3
  else if target = 1 ∧ x.ownerHash ≠ 0xFF then 4
  else if target = 2 ∧ x.programmed &&& ~~~x.revoked = 0 then 5
  else if target == 3 && x.life == 2 && (match x.scrapAuth with | some t => decide (t + 60000000000 < c.clk.now) | none => true) then 6
  else 0

/-- PROVISION, SEAL_DEVICE and SCRAP: the fuses begin to be programmed, or the write is refused (R471). A wrong KEY, or a command
while a transition runs, is refused with reason 0 (log entry 52). -/
def transition (path : Path) (key : BitVec 16) (target : Nat) (c : Chip) : Chip :=
  if key ≠ 0x4C43 ∨ c.sec.busy.isSome then secRes path 3 0 c
  else
    let r := transReason c target
    if r ≠ 0 then secRes path 3 r c
    else secRes path 1 0 (modSec (fun x => { x with busy := some (target, c.clk.now, path) }) c)

/-- TRANSITION_DONE: the word that holds the state is programmed last (R471). SCRAP erases the device-unique key and the owner hash. -/
def transitionEnd (c : Chip) : Chip :=
  match c.sec.busy with
  | none => c
  | some (target, _, path) =>
    let c1 := modSec (fun x => { x with
      life := target
      busy := none
      ownerFused := if target = 1 then true else if target = 3 then false else x.ownerFused
      fusedOwner := if target = 1 then x.ownerWords else if target = 3 then [] else x.fusedOwner }) c
    let c2 := if target = 3 then { c1 with keep := { c1.keep with psk := [] } } else c1
    raise .sec 11 (secRes path 2 0 c2)

/-! ### Keys (R472, R473) -/

def keyRefused (path : Path) (c : Chip) : Chip := raise .sec 14 (secRes path 3 0 c)

/-- The 16 words of SEC_KEY_DATA as one key. -/
def keyData (c : Chip) : BitVec 512 :=
  BitVec.ofNat 512 ((List.range 16).foldl (fun a i => a + 2 ^ (32 * i) * (rd c .sec (0x100 + 4 * i)).toNat) 0)

/-- PROGRAM_KEY: a slot once, in BLANK or OPEN. -/
def keyProgram (path : Path) (c : Chip) : Chip :=
  let i := rdF c .sec 0x054 1 0
  if 2 ≤ c.sec.life ∨ bit c.sec.programmed i then keyRefused path c
  else raise .sec 13 (secRes path 2 0 (modSec (fun x => { x with
    slots := tabSet 0 x.slots i (keyData c)
    programmed := x.programmed ||| (1#4 <<< i) }) c))

/-- REVOKE_KEY, in any state before SCRAPPED; in SEALED not the last slot that still stands. -/
def keyRevoke (path : Path) (c : Chip) : Chip :=
  let i := rdF c .sec 0x054 1 0
  let x := c.sec
  if x.life = 3 ∨ (x.life = 2 ∧ x.programmed &&& ~~~x.revoked = 1#4 <<< i) then keyRefused path c
  else secRes path 2 0 (modSec (fun x => { x with revoked := x.revoked ||| (1#4 <<< i) }) c)

/-- Who may write a YCP key slot (R473). -/
def pskAllowed (c : Chip) (path : Path) (i : Nat) : Bool :=
  match path with
  | .core _ => false
  | .pcie => c.sec.life != 3
  | .ycp s => c.sec.life < 2 || (c.sec.life == 2 && (session c s.val).state == .opened && (session c s.val).keySlot == i)
  | .uart => c.sec.life < 2

/-- STORE_PSK: the key is in force for the next OPEN, and its wrapped record stands in keep memory. -/
def pskStore (path : Path) (c : Chip) : Chip :=
  let i := rdF c .sec 0x140 1 0
  let k : BitVec 128 := rd c .sec 0x150 ++ rd c .sec 0x14C ++ rd c .sec 0x148 ++ rd c .sec 0x144
  if !pskAllowed c path i then keyRefused path c
  else
    let c1 := modSec (fun x => { x with psk := tabSet none x.psk i (some k) }) c
    let c2 := if c1.keep.present then { c1 with keep := { c1.keep with psk := tabSet none c1.keep.psk i (some k) } } else c1
    raise .sec 13 (secRes path 2 0 c2)

/-! ### Levels (R475 to R477) -/

/-- A level that a write of DBG_LEVEL reaches without a token (Table 21-3). -/
def levelFree (life level : Nat) : Bool :=
  level == 0 || (life == 0 && level ≤ 2) || (life == 1 && level == 1) || (life == 3 && level ≤ 2)

/-- The levels and issuers a token may carry (Table 21-3, R471); a free level takes either issuer (log entry 53). -/
def tokenPermits (life level issuer : Nat) : Bool :=
  (1 ≤ level && level ≤ 3 && levelFree life level) || (level == 4 && issuer == 0) ||
  (level == 3 && life != 2 && issuer == 1) || (level == 2 && (life == 1 || life == 2) && issuer == 0) ||
  (level == 1 && life == 2 && issuer == 0)

/-! ### Halts (R479, Table 21-4) -/

/-- The units of R479. -/
inductive HaltUnit where
  | planner
  | engine (e : Nat)
  | page (p : Page)
deriving DecidableEq, Repr

/-- The unit of a page; `none` for a page that cannot be halted. -/
def haltUnit : Page → Option HaltUnit
  | .axm _ | .grp _ | .hit | .cam => some .planner
  | .lpa n => some (.engine (n.val / 32))
  | .lpe e => some (.engine e.val)
  | .mod n => some (.page (.mod n))
  | .fbk n => some (.page (.fbk n))
  | .snl n => some (.page (.snl n))
  | .adc a => some (.page (.adc a))
  | .fco k => some (.page (.fco k))
  | .dsp => some (.page .dsp)
  | .trc => some (.page .trc)
  | .scb => some (.page .scb)
  | _ => none

/-- The planner's pages with a header of their own. -/
def plannerPages (c : Chip) : List Page :=
  (listed c 0x020 160).map axmPage ++ (listed c 0x0C0 32).map grpPage ++ [.hit, .cam]

/-- The pages of a loop engine with a header of their own. -/
def enginePages (c : Chip) (e : Nat) : List Page :=
  [lpePage e] ++ ((listed c 0x100 128).filter (fun n => n / 32 == e)).map lpaPage

def haltPages (c : Chip) : HaltUnit → List Page
  | .planner => plannerPages c
  | .engine e => enginePages c e
  | .page p => [p]

/-- Compare schedules on their way are cancelled (R182). -/
def cancelCmp (n : Nat) (c : Chip) : Chip :=
  let a := axis c n
  let sent := (a.cmp.flatMap (fun u => u.2.sched)).filter (fun q => q.output != 65)
  let out := sent.map (fun q => ({ entry := { action := 5, pin := Fin.ofNat 64 (q.output - 1), tag := q.tag, time := nsStamp q.time } } : SchedOut))
  let c1 := { c with fld := { c.fld with sched := c.fld.sched ++ out } }
  a.cmp.foldl (fun c u => setCmp n u.1 { u.2 with sched := [], backlog := [] } c) c1

/-- What a halt does beside the safe demand. The axes of a halted planner, engine, channel or drive follow R147. -/
def haltEffect (u : HaltUnit) (c : Chip) : Chip :=
  match u with
  | .planner =>
    let c1 := camAbort stAborted 0 (hitEndAll 0 (each (groupList c) (fun g c => grpEnd g 0 c) c))
    modDbg (fun d => { d with plannerHalt := true }) (each (axisList c1) (fun n c => cancelCmp n (axisOff n c)) c1)
  | .engine e =>
    let mine := (axisList c).filter (fun n => isPhys n && n / 32 == e)
    let c1 := each mine (fun n c => if (snlSt c n).state == .off then axisOff n c else snlIdle n (axisOff n c)) c
    setLpe e { lpe c1 e with halted := true } (each mine resetLoops c1)
  | .page (.mod n) => modMod n.val (fun m => { m with halted := true }) c
  | .page (.fbk n) => modFbk n.val (fun x => { x with halted := true }) (if (axis c n.val).state == .disabled then c else axisOff n.val c)
  | .page (.snl n) =>
    let c1 := if (axis c n.val).state == .disabled then c else axisOff n.val c
    if (snlSt c1 n.val).state == .off then c1 else snlIdle n.val c1
  | .page (.adc a) => modAdc a.val (fun x => { x with halted := true }) c
  | .page (.fco k) => modCore k.val (fun x => { x with halted := true }) c
  | .page .dsp => { c with dsp := { c.dsp with halted := true } }
  | .page .trc => modTrc (fun t => { t with halted := true }) c
  | .page .scb => { c with scb := { c.scb with halted := true } }
  | _ => c

/-- HALT: a safe demand on the unit's pages with the unit's own effect (R33, R479). -/
def haltOn (u : HaltUnit) (c : Chip) : Chip :=
  let c1 := haltEffect u c
  raise .dbg 8 (each (haltPages c1 u) (fun p c => demandOn p (fun h => { h with halted := true }) c) c1)

/-- A unit whose function goes on where it stood is in RUN again: a core with its items, a port whose carrier runs, trace that
records (log entry 54). -/
def resumeRun (p : Page) (c : Chip) : Chip :=
  if (hdr c p).state ≠ .ready then c
  else match p with
    | .fco k => if (core c k.val).imageOk then setState p .run c else c
    | .mod n => if (modSt c n.val).carrier then setState p .run c else c
    | .trc => if c.trc.state = .stopped then c else setState p .run c
    | _ => c

/-- What the end of a halt does beside the end of the demand; axes stay DISABLED (R147). -/
def resumeEffect (u : HaltUnit) (c : Chip) : Chip :=
  match u with
  | .planner => modDbg (fun d => { d with plannerHalt := false }) c
  | .engine e => setLpe e { lpe c e with halted := false } c
  | .page (.mod n) => modMod n.val (fun m => { m with halted := false }) c
  | .page (.fbk n) => modFbk n.val (fun x => { x with halted := false }) c
  | .page (.adc a) => modAdc a.val (fun x => { x with halted := false }) c
  | .page (.fco k) => modCore k.val (fun x => { x with halted := false, stepping := false }) c
  | .page .dsp => { c with dsp := { c.dsp with halted := false } }
  | .page .trc => trcResume c
  | .page .scb => { c with scb := { c.scb with halted := false } }
  | _ => c

def haltOff (u : HaltUnit) (c : Chip) : Chip :=
  let c1 := resumeEffect u c
  each (haltPages c1 u) (fun p c => resumeRun p (demandOff p (fun h => { h with halted := false }) c)) c1

/-- The units that stand halted. -/
def haltedUnits (c : Chip) : List HaltUnit :=
  (if c.dbg.plannerHalt then [.planner] else []) ++
  ((List.range 4).filter (fun e => (lpe c e).halted)).map .engine ++
  (c.pages.filterMap (fun p => if p.2.halted then
    (match pageOfNum p.1 with
      | some q => (match haltUnit q with | some (.page x) => some (.page x) | _ => none)
      | none => none) else none))

/-- Every halt is released (R479, Table 21-5). -/
def releaseHalts (c : Chip) : Chip :=
  let us := haltedUnits c
  if us.isEmpty then c else raise .dbg 9 (each us haltOff c)

/-- DBG_HALT_SEL names a page. -/
def haltSelected (c : Chip) : Option HaltUnit := (pageOfNum (rdF c .dbg 0x050 23 12)).bind haltUnit

/-- A write of DBG_HALT_CMD, at STEER or FACTORY (R479); below STEER it is refused with HALT_REFUSED (log entry 55). -/
def haltCmd (v : Word) (c : Chip) : Chip :=
  if fld v 1 0 ≠ 1 ∧ fld v 1 0 ≠ 2 then c
  else if c.dbg.level < 2 then raise .dbg 10 c
  else match haltSelected c with
    | none => raise .dbg 10 c
    | some u =>
      let on := (haltedUnits c).contains u
      if fld v 1 0 = 1 then (if on then c else haltOn u c) else if on then haltOff u c else c

/-- DBG_FCO_STEP: one instruction of each named core that is halted (R482). -/
def coreStep (v : Word) (c : Chip) : Chip :=
  if c.dbg.level < 2 then c
  else each ((List.range 8).filter (fun k => bit v k && (core c k).halted)) (fun k c => modCore k (fun x => { x with stepping := true }) c) c

/-- DBG_HALT_STA (Table 21-8). -/
def haltSta (c : Chip) : Word :=
  let other := (haltedUnits c).any (fun u => match u with | .page (.mod _) | .page (.fbk _) | .page (.snl _) | .page (.adc _) => true | _ => false)
  BitVec.ofNat 32 (flag c.dbg.plannerHalt 0 + (List.range 4).foldl (fun a e => a + flag (lpe c e).halted (1 + e)) 0 +
    (List.range 8).foldl (fun a k => a + flag (core c k).halted (5 + k)) 0 + flag c.dsp.halted 13 + flag c.trc.halted 14 +
    flag c.scb.halted 15 + flag other 16)

/-! ### Changes of level -/

/-- The level changes; below STEER every halt is released (R479). -/
def setLevel (level : Nat) (c : Chip) : Chip :=
  let c1 := modDbg (fun d => if level = 0 then { d with level := 0, byToken := false, issuer := false, expiry := none } else { d with level := level }) c
  if level < 2 then releaseHalts c1 else c1

/-- FACTORY is refused unless every physical axis is DISABLED or SAFE (R477). -/
def levelAllowed (c : Chip) (level : Nat) : Bool := level != 3 || axesQuiet c

/-- A write of DBG_LEVEL (R476): any path but a filter core lowers it; a free level is raised to. -/
def writeLevel (path : Path) (v : Word) (c : Chip) : Chip :=
  let l := fld v 1 0
  let isCore := match path with | .core _ => true | _ => false
  if l < c.dbg.level then (if isCore then c else setLevel l c)
  else if c.dbg.level < l ∧ levelFree c.sec.life l ∧ levelAllowed c l then
    setLevel l (modDbg (fun d => { d with byToken := false, issuer := false, expiry := none }) c)
  else c

/-- LEVEL_LAPSED: DBG_EXPIRY has ended (R475). -/
def levelLapse (c : Chip) : Chip :=
  match c.dbg.expiry with
  | some t => if t ≤ c.clk.now then raise .sec 10 (setLevel 0 c) else c
  | none => c

/-! ### Challenges and tokens (R475) -/

/-- NEW_CHALLENGE: 16 bytes from the random-number generator. -/
def drawChallenge (path : Path) (rnd : BitVec 128) (c : Chip) : Chip :=
  secRes path 2 0 (modSec (fun x => { x with challenge := some (rnd, c.clk.now) }) c)

/-- CHALLENGE_LAPSE: 60 s after it was drawn. -/
def lapseChallenge (c : Chip) : Chip :=
  match c.sec.challenge with
  | some (_, t) => if t + 60000000000 ≤ c.clk.now then modSec (fun x => { x with challenge := none }) c else c
  | none => c

/-- The token words a path has written. -/
def tokenWord (c : Chip) (path : Path) (i : Nat) : Word := heldGet c path (pageBase .sec + 0x200 + 4 * i)

/-- A token passes every rule of Table 21-2 and Table 21-3. -/
def tokenOk (c : Chip) (path : Path) (hashOk sigOk : Bool) : Bool :=
  let w := tokenWord c path
  let level := fld (w 1) 7 0
  let issuer := fld (w 1) 15 8
  let chal : Nat := (w 4).toNat + (w 5).toNat * 2 ^ 32 + (w 6).toNat * 2 ^ 64 + (w 7).toNat * 2 ^ 96
  w 0 == 0x4E4B4F54 && decide (issuer ≤ 1) && fld (w 1) 31 16 == 0 && joinHalves (w 3) (w 2) == Config.uid &&
  (match c.sec.challenge with | some (x, t) => x.toNat == chal && decide (c.clk.now < t + 60000000000) | none => false) &&
  decide (1 ≤ (w 8).toNat) && decide ((w 8).toNat ≤ 86400) && ((List.range 7).all (fun i => w (9 + i) == 0)) &&
  hashOk && sigOk && tokenPermits c.sec.life level issuer && levelAllowed c level

/-- UNLOCK is refused for 1 s after a refusal (R475). -/
def unlockLocked (c : Chip) : Bool :=
  match c.sec.lockout with
  | some t => decide (c.clk.now < t + 1000000000)
  | none => false

/-- UNLOCK: the token sets the level, or records the SCRAP authority; a refused one locks UNLOCK for 1 s (R475). A challenge serves
one UNLOCK. -/
def unlockToken (path : Path) (hashOk sigOk : Bool) (c : Chip) : Chip :=
  if unlockLocked c then secRes path 3 0 c
  else
    let c1 := modSec (fun x => { x with challenge := none, lockout := none }) c
    if !tokenOk c path hashOk sigOk then
      raise .sec 9 (secRes path 3 0 (modSec (fun x => { x with lockout := some c.clk.now }) c1))
    else
      let level := fld (tokenWord c path 1) 7 0
      let dur := (tokenWord c path 8).toNat
      let c2 := if level = 4 then modSec (fun x => { x with scrapAuth := some c.clk.now }) c1
        else setLevel level (modDbg (fun d => { d with byToken := true, issuer := bit (tokenWord c path 1) 8 }) c1)
      raise .sec 8 (secRes path 2 0 (modDbg (fun d => { d with expiry := some (c.clk.now + dur * 1000000000) }) c2))

/-- UNLOCK_LOCKOUT_END. -/
def lockoutEnd (c : Chip) : Chip :=
  match c.sec.lockout with
  | some t => if t + 1000000000 ≤ c.clk.now then modSec (fun x => { x with lockout := none }) c else c
  | none => c

/-- A write of SEC_CMD by any path (Table 21-7). The random words of NEW_CHALLENGE are free values, the outcomes of the token's
hash and signature those of Config. -/
def secCmd (path : Path) (v : Word) (c : Chip) : Chip :=
  let key : BitVec 16 := BitVec.ofNat 16 (fld v 31 16)
  match fld v 3 0 with
  | 1 =>
    let lo := freshBits c
    let c1 := useFresh c
    drawChallenge path (freshBits c1 ++ lo) (useFresh c1)
  | 2 =>
    let ws := (List.range 48).map (tokenWord c path)
    unlockToken path (Config.tokenHashOk ((List.range 8).map (tabGet 0 c.sec.fusedOwner)) ws) (Config.tokenSigOk ws) c
  | 3 => transition path key 1 c
  | 4 => transition path key 2 c
  | 5 => transition path key 3 c
  | 6 => keyProgram path c
  | 7 => keyRevoke path c
  | 8 => pskStore path c
  | _ => secRes path 3 0 c

/-- A write of SEC_CMD that the operation did not refuse, by the result it left for the path (R39, R471). -/
def secTaken (path : Path) (c : Chip) : Bool := tabGet 0 c.sec.res (pathCode path) % 4 != 3

/-- SEC_STA (Table 21-7). -/
def secSta (c : Chip) : Word :=
  let x := c.sec
  let psk := (List.range 4).foldl (fun a i => a + flag (tabGet none x.psk i).isSome (12 + i)) 0
  BitVec.ofNat 32 (x.life + x.programmed.toNat * 16 + x.revoked.toNat * 256 + psk + flag x.busy.isSome 16)

/-- DBG_EXPIRY: the seconds left. -/
def expirySecs (c : Chip) : Nat :=
  match c.dbg.expiry with
  | some t => (t - c.clk.now + 999999999) / 1000000000
  | none => 0

end Sys2Proof.Machine
end

