-- ==== Sys2Proof/Machine/PwrOps.lean ====
section
/-!
DEFINITION. The supply-sag save (R459 to R463), the resets of the main die (R454, R455, Table 20-2), and the power states (R480).
-/

namespace Sys2Proof.Machine

def modPwr (f : PwrSt → PwrSt) (c : Chip) : Chip := { c with pwr := f c.pwr }

/-- KEP_STA.SAVE_CAPABLE: NVRAM of at least 4 MiB (R441, Table 19-4). -/
def saveCapable (c : Chip) : Bool := c.keep.present && rdF c .kep 0x040 1 0 == 1 && decide (4 ≤ c.keep.mib)

/-- The offset of the save area. -/
def saveBase (c : Chip) : Nat := rdF c .kep 0x050 25 12 * 4096

/-! ### The save image (R461) -/

/-- Pages whose chapters name their configuration as saved. -/
def savedPage : Page → Bool
  | .lpa _ | .lpe _ | .bus _ | .mod _ | .fbk _ | .snl _ | .adc _ | .sdf _ => true
  | _ => false

/-- A register of the file that belongs to the configuration of a saved page, its active copy included. -/
def savedReg (a : Nat) : Bool :=
  match pageOfNum (a / 0x1000) with
  | none => false
  | some p =>
    let off := a % 0x1000
    savedPage p && decide (0x040 ≤ off) &&
      (match findRow (pageRows p) (if off < 0x800 then off else off - 0x800) with
      | some (r, _) => r.acc == .rw || r.acc == .rws || r.acc == .rwl
      | none => false)

/-- The active copies of a page that splices are those from before its splice (R461). -/
def formerActives (c : Chip) : Tab Word :=
  c.spl.former.foldl (fun t p =>
    if (tabGet ({} : PageHdr) c.pages p.1).state = .splicing then
      p.2.foldl (fun t q => tabSet (regReset q.1) t q.1 q.2) (t.filter (fun q => q.1 / 0x1000 ≠ p.1 || q.1 % 0x1000 < 0x800))
    else t) c.regs

/-- What a ring command in flight becomes (R66). -/
def asOrphan (x : InFlight) : Completion :=
  { id := x.id, src := x.cmd.src, tag := x.cmd.tag, status := stOrphaned, late := x.late }

def saveImage (c : Chip) : SaveImg :=
  let ring := c.cmd.inflight.filter (fun x => isRing x.cmd.src)
  { regs := (formerActives c).filter (fun p => savedReg p.1)
    enabled := (c.pages.filter (fun p => p.2.en && (match pageOfNum p.1 with | some q => savedPage q | none => false))).map (·.1)
    axes := c.axes.map (fun p => (p.1, p.2.cur.p, p.2.target, p.2.referenced))
    integ := rd c .tim 0x05C
    epoch := c.hfr.epoch
    traceTime := c.trc.lastTime
    ring := (c.cmd.waiting ++ ring.map asOrphan).foldl (fun l x => insertById x l) c.cmd.held
    ycp := (c.cmd.inflight.filter (fun x => !isRing x.cmd.src)).map (fun x => (x.cmd.tag, stOrphaned)) }

/-! ### The save (R459 to R463) -/

/-- The marker of a save is written 3.6 ms after the sag, and the START record at 25 µs (Table 20-4). -/
def markerNs : Nat := 3600000

def startNs : Nat := 25000

/-- Steps 1 to 4: everything stops, and all gate outputs and brakes go to their safe states. -/
def saveStop (s : State) : State :=
  let c0 := releaseHalts s.chip
  let c1 := modPwr (fun w => { w with
    sag := true
    state := .save
    req := none
    test := none
    saveSince := some c0.clk.now }) c0
  let c2 := trcReset 4 c1
  let c3 := each ((physOn c2).filter (fun n => (supAx c2 n).brakeOn)) (fun n c => brake n false c) c2
  let c4 := each (c3.pages.filterMap (fun p => pageOfNum p.1)) (fun p c => demandOn p (fun h => { h with sagDemand := true }) c) c3
  { s with chip := each (List.range 4) (fun p c => linkDown p false c) (pcieLink false c4) }

/-- Steps 5 to 8: the START record, the image and its marker; the time they take is not given to the microsecond, so it is free. -/
def saveWrite (bytes : Nat) (c : Chip) : Chip :=
  let f := freshBits c
  let c1 := useFresh c
  let gen := rdF c1 .pwr 0x054 31 24 + 1
  let c2 := { c1 with keep :=
    { c1.keep with
      startRec := true
      base := saveBase c1
      marker := some true
      image := some (saveImage c1) } }
  let c3 := wr .pwr 0x054 (BitVec.ofNat 32 (bytes + 2 ^ 24 * (gen % 256))) c2
  let c4 := wr .pwr 0x050 (BitVec.ofNat 32 (f.toNat % 65536)) c3
  raise .pwr 9 (cntWrap .pwr 0x04C 31 16 (wr .kep 0x054 (BitVec.ofNat 32 bytes) c4))

/-- A write to keep memory whose read-back differs (R449). -/
def keepBad (c : Chip) : Chip := raise .kep 9 (latchFault .kep 0xC3 c)

/-- A save that stops after step 4 (R460). -/
def saveNot (c : Chip) : Chip := raise .pwr 10 (modPwr (fun w => { w with saveFailed := true }) c)

/-- A qualified sag (R459): ignored before start-up step 3 and while a save runs. -/
def sagSave (env : SaveEnv) (s : State) : State :=
  let c := s.chip
  if !c.pwr.started ∨ c.pwr.state = .save then s
  else
    let s1 := saveStop (onChip (fun c => raise .pwr 8 (cntWrap .pwr 0x04C 15 0 c)) s)
    let able := bit (rd c .pwr 0x040) 0 && saveCapable c
    onChip (fun c =>
      if c.sec.life = 3 then c
      else if !able ∨ 262144 < env.bytes then saveNot c
      else if !env.keepOk then saveNot (keepBad c)
      else saveWrite env.bytes c) s1

/-- SAG with SAG_EN = 1 (R459). -/
def sagOn (env : SaveEnv) (s : State) : State := if bit (rd s.chip .pwr 0x040) 1 then sagSave env s else s

/-- RAIL (R453): the rail reads out of range; fault 0xCB; handled as a sag under R459. -/
def railLow (r : Nat) (env : SaveEnv) (s : State) : State :=
  sagOn env (onChip (fun c =>
    latchFault .pwr 0xCB (modHdr .pwr (fun h => { h with conds := 0xCB :: h.conds.filter (· != 0xCB) })
      (raise .pwr 14 (wr .pwr 0x05C (rd c .pwr 0x05C &&& ~~~(1#32 <<< r)) c)))) s)

/-- SAVE_TEST takes effect (R463): steps 5 to 8 begin, with motion going on. One test runs at a time; it needs what a save needs. -/
def saveTestStart (id : Nat) (c : Chip) : Chip :=
  if c.pwr.test.isSome then finish id stRejected 0x06 0 c
  else if !saveCapable c ∨ c.sec.life = 3 then finish id stFailed 0xCA 0 c
  else
    markRunning id (modPwr (fun w => { w with test := some id })
      { c with keep :=
        { c.keep with
          startRec := true
          base := saveBase c
          marker := none
          image := none } })

/-- SAVE_TEST_DONE: the TEST marker is written, and RESULT gives the image bytes and the time of step 7. An image too long, or a write that
does not read back, ends the test as it would end a save. -/
def saveTestEnd (env : SaveEnv) (ns : Nat) (c : Chip) : Chip :=
  match c.pwr.test with
  | none => c
  | some id =>
    let b := env.bytes
    let c0 := modPwr (fun w => { w with test := none }) c
    if 262144 < b then finish id stFailed 0xCA 0 c0
    else if !env.keepOk then finish id stFailed 0xCA 0 (keepBad c0)
    else
    let c1 := modPwr (fun w => { w with test := none }) { c with keep := { c.keep with marker := some false } }
    let gen := rdF c1 .pwr 0x054 31 24 + 1
    let c2 := wr .pwr 0x054 (BitVec.ofNat 32 (b + 2 ^ 24 * (gen % 256))) c1
    let c3 := wr .kep 0x054 (BitVec.ofNat 32 b) (wr .pwr 0x050 (BitVec.ofNat 32 (ns / 1000 % 65536)) c2)
    finish id stDone 0 (BitVec.ofNat 64 (b + 2 ^ 32 * (ns % 2 ^ 32))) c3

/-! ### Resets of the main die (Table 20-2) -/

/-- The page headers after a reset: what clocks and STO lines hold stands, and a fault condition that persists latches again once its
page is enabled (Table 2-11). -/
def resetPages (warm : Bool) (c : Chip) : Tab PageHdr :=
  c.pages.foldl (fun t p => tabSet {} t p.1
    { clockOk := p.2.clockOk, stoDemand := p.2.stoDemand, conds := p.2.conds.filter (fun x => x == 0x02 || x == 0x82 || (warm && (x == 0xC0 || x == 0xC2 || x == 0xCB || x == 0xCC))) }) []

/-- Axes after a reset: DISABLED, or SAFE under STO. -/
def resetAxes (c : Chip) : Tab Axis :=
  c.axes.foldl (fun t p => tabSet {} t p.1 (if p.2.sto then { state := .safe, sto := true } else {})) []

/-- What a reset leaves of the DRAM port: a warm one keeps training and contents, of the 1 GiB that SIZE resets to (R440). -/
def resetMemc (warm : Bool) (c : Chip) : MemCtlSt :=
  let m := c.memc
  if warm then
    { trained := m.trained, dramOk := m.dramOk, initGiB := min 1 m.initGiB, hot := m.hot, lastAccess := c.clk.now,
      lastRefresh := c.clk.now, lastTemp := m.lastTemp, lastZq := m.lastZq }
  else {}

/-- PLL and clock state as they stand; the time counter starts at 0 with the servo in FREE (R99). -/
def resetTim (c : Chip) : TimSt :=
  { pllLock := c.tim.pllLock, pllSrc := c.tim.pllSrc, pllMhz := c.tim.pllMhz, relocking := c.tim.relocking, lastKnot := c.clk.now }

/-- The lifecycle fuses and key slots, which no reset clears; a transition that was cut off is reported (R471). -/
def resetSec (c : Chip) : SecSt :=
  let x := c.sec
  { life := x.life, slots := x.slots, programmed := x.programmed, revoked := x.revoked, psk := x.psk, ownerFused := x.ownerFused,
    fusedOwner := x.fusedOwner, cutOff := x.cutOff || x.busy.isSome }

/-- A transition that a reset or a loss of power cut off is reported at the next start (R471). -/
def transitionFailed (c : Chip) : Chip :=
  if c.sec.cutOff then raise .sec 12 { c with sec := { c.sec with cutOff := false } } else c

/-- PWR_RST_CAUSE bits. -/
def causePowerOn : Nat := 1
def causePin : Nat := 2
def causeReg : Nat := 4
def causeFlr : Nat := 8
def causeSave : Nat := 16

/-- The main die's registers, pages and SRAM right after a reset; the field die, the belay, keep memory, fuses, clocks and what the
block has sent stand. -/
def resetChip (warm : Bool) (cause : Nat) (c : Chip) : Chip :=
  let c0 : Chip :=
    { clk := c.clk
      out := c.out
      free := c.free
      field := c.field
      bly := c.bly
      keep := c.keep
      sec := resetSec c
      memc := resetMemc warm c
      scb := { sramSince := c.clk.now, dramSince := c.clk.now }
      pages := resetPages warm c
      axes := resetAxes c
      mods := c.mods.foldl (fun t p => tabSet {} t p.1 { sto := p.2.sto }) []
      buses := c.buses.foldl (fun t p => tabSet {} t p.1 { tripIn := p.2.tripIn }) []
      tim := resetTim c
      trc := { afterReset := 4 } }
  let c1 := calPowerOn c0
  let c2 := each ((c.adcs.filter (fun p => p.2.refBad)).map (·.1)) (fun k c => modAdc k (fun x => { x with refBad := true }) c) c1
  wr .pwr 0x048 (BitVec.ofNat 32 cause) c2

/-- What a warm reset keeps beside (R66, R67, R83, R99): held completions, the command numbers, orphaned YCP ends, the publisher's
epoch, and the account of the last power-down. -/
def warmKeeps (old c : Chip) : Chip :=
  let c1 : Chip :=
    { c with
      cmd := { c.cmd with held := old.cmd.held, nextId := old.cmd.nextId }
      ycp := { c.ycp with orphans := old.ycp.orphans }
      pwr :=
      { c.pwr with
        lastSave := old.pwr.lastSave
        notSaved := old.pwr.notSaved
        bootedFromKeep := old.pwr.bootedFromKeep
        bootFail := old.pwr.bootFail
        savedInteg := old.pwr.savedInteg
        started := old.pwr.started
        booted := old.pwr.booted
        resetAt := old.clk.now } }
  let c2 := wr .kep 0x050 (BitVec.ofNat 32 (saveTop c1.keep.mib)) c1
  let c3 := restoreInteg c2
  let c4 := wr .pwr 0x05C (rd old .pwr 0x05C) (wr .kep 0x04C (rd old .kep 0x04C) (wr .kep 0x048 (rd old .kep 0x048) c3))
  newEpoch (transitionFailed c4)

/-- The memories after a reset: SRAM holds zero data; DRAM and keep memory stand under a warm one, keep memory alone else. -/
def resetMem (warm : Bool) (m : Mem) : Mem :=
  let lo := if warm then cellKey .dram 0 else cellKey .keep 0
  { cells := m.cells.filter (fun p => lo ≤ p.1), err := m.err.filter (fun p => lo ≤ p.1) }

/-- A warm reset: dropped during a save; every command ends ABORTED into the retained store, and the sessions close (R454, R455, R66). -/
def warmReset (cause : Nat) (s : State) : State :=
  if s.chip.pwr.state = .save then s
  else
    let c0 := cmdAbort 0 (closeAll s.chip)
    { s with mem := resetMem true s.mem, chip := warmKeeps c0 (resetChip true cause c0) }

/-- FLR: as warm reset with the link up; pages that the PCI Express path owned report OWNER_LAPSED (R42, R454). -/
def flrReset (s : State) : State :=
  if s.chip.pwr.state = .save then s
  else
    let owned := (s.chip.pages.filter (fun p => p.2.owner = 1)).filterMap (fun p => pageOfNum p.1)
    let up := s.chip.svcPcie
    onChip (fun c => each owned (fun p c => raise p 6 c) { c with svcPcie := up }) (warmReset causeFlr s)

/-- PORST_N low: the main die resets at once; a save that runs leaves what it has written by now (R455, Table 20-4). -/
def cutSave (c : Chip) : Chip :=
  match c.pwr.saveSince with
  | some t =>
    if c.pwr.saveFailed then c
    else if c.clk.now < t + startNs then
      { c with keep :=
        { c.keep with
          startRec := false
          marker := none
          image := none } }
    else if c.clk.now < t + markerNs then
      { c with keep :=
        { c.keep with
          marker := none
          image := none } }
    else c
  | none => c

/-- A power-on reset of the main die, before its start-up. -/
def coldReset (cause : Nat) (s : State) : State :=
  { s with mem := resetMem false s.mem, chip := resetChip false cause (cutSave s.chip) }

/-! ### Power states (R480) -/

/-- A request for a state: HOLD and DOZE are refused while a physical axis is not DISABLED or SAFE, else the state changes at the
next frame knot. -/
def pwrRequest (p : Power) (c : Chip) : Chip :=
  if c.pwr.state = .save ∨ p = .save then c
  else if (p = .hold ∨ p = .doze) ∧ !axesQuiet c then raise .pwr 15 c
  else modPwr (fun w => { w with req := some p }) c

/-- At a frame knot a requested state is taken. -/
def pwrKnot (c : Chip) : Chip :=
  match c.pwr.req with
  | none => c
  | some p =>
    if (p = .hold ∨ p = .doze) ∧ !axesQuiet c then raise .pwr 15 (modPwr (fun w => { w with req := none }) c)
    else
      let c1 := if c.pwr.state = .doze ∧ p ≠ .doze then modMemc (leaveSelf c.clk.now) c else c
      modPwr (fun w => { w with state := p, req := none }) c1

/-- PWR_STA (Table 20-5). -/
def pwrSta (c : Chip) : Word :=
  let w := c.pwr
  let st := match w.state with | .run => 0 | .hold => 1 | .doze => 2 | .save => 3
  BitVec.ofNat 32 (st + flag w.sag 4 + flag (saveCapable c) 5 + w.lastSave % 4 * 256 + flag w.bootedFromKeep 12 + flag w.bootFail 13)

end Sys2Proof.Machine
end

