-- ==== Sys2Proof/Machine/ApplyOps.lean ====
section
/-!
DEFINITION. Apply points (R38): what each page checks before its shadows come into force, and what the change does there.
-/

namespace Sys2Proof.Machine

/-! ### The copy -/

/-- The offset of a page is a shadowed register's. -/
def rwsOff (p : Page) (off : Nat) : Bool :=
  match findRow (pageRows p) off with
  | some (r, _) => r.acc == .rws
  | none => false

/-- The shadowed registers of a page whose shadow or active copy stands in the register file. -/
def shadowOffs (c : Chip) (p : Page) : List Nat :=
  ((c.regs.filter (fun x => x.1 / 0x1000 == pageNum p)).map (fun x => x.1 % 0x800)).filter (fun o => decide (0x040 ≤ o) && rwsOff p o)

/-- The selected shadows are copied to their active registers. -/
def copyShadows (p : Page) (sel : Nat → Bool) (c : Chip) : Chip :=
  each ((shadowOffs c p).filter sel) (fun o c => regSet (pageBase p + o + 0x800) (rd c p o) c) c

/-- A register changes with an apply; so does a field of one. -/
def changes (old new : Chip) (p : Page) (off : Nat) : Bool := act old p off != act new p off

def changesF (old new : Chip) (p : Page) (off hi lo : Nat) : Bool := actF old p off hi lo != actF new p off hi lo

/-- The axis of a port is DISABLED or SAFE. -/
def axisQuiet (c : Chip) (n : Nat) : Bool := (axis c n).state == .disabled || (axis c n).state == .safe

/-! ### Checks: `c` before the apply, `x` the candidate with the shadows in force. A refusal names pages and causes. -/

def applyAxm (n : Nat) (c x : Chip) : List (Page × Nat) :=
  let p := axmPage n
  let decZero := !axisQuiet c n && (actPair x p 0x088 == 0 || actPair x p 0x090 == 0 || actPair x p 0x0A0 == 0)
  let swlBad := bit (act x p 0x040) 0 && decide (actQ x p 0x0A8 ≤ actQ x p 0x0B0)
  if decZero || swlBad then [(p, 1)] else []

/-- The members that the GRP_AXIS entries in force name, in entry order (R151). -/
def groupEntries (c : Chip) (g : Nat) : List Nat :=
  (((List.range 16).map (fun i => act c (grpPage g) (0x080 + 4 * i))).filter (fun w => bit w 31)).map (fun w => fld w 7 0)

def applyGrp (g : Nat) (c x : Chip) : List (Page × Nat) :=
  let p := grpPage g
  let ms := groupEntries x g
  let other := c.grps.any (fun q => q.1 != g && ms.any (fun n => q.2.members.contains n))
  if (List.range 16).any (fun i => changes c x p (0x080 + 4 * i)) && ((group c g).state != .idle || !noRepeat ms || other) then [(p, 12)] else []

/-- LPA: a change of MODE under R193 with the admission of R203, and of SUP_BUS under R227. -/
def applyLpa (n : Nat) (c x : Chip) : List (Page × Nat) :=
  let p := lpaPage n
  let st := (axis c n).state
  let m := lpaMode x n
  let moving := st == .moving || st == .stopping || st == .homing
  let zero := lpaCoef x n 0x06C == 0 || lpaCoef x n 0x094 == 0 || lpaCoef x n 0x09C == 0 || cpr x n == 0 || polePairs x n == 0
  let adm := admitted x (n / 32)
  let modeBad := changesF c x p 0x040 2 0 && (moving || (m != 0 && zero) || (m == 3 && bit (act x p 0x040) 9) || !adm)
  let busBad := changes c x p 0x230 && !axisQuiet c n
  (if modeBad then [(p, 13)] else []) ++ (if changesF c x p 0x040 2 0 && !adm then [(lpePage (n / 32), 9)] else []) ++
    (if busBad then [(p, 20)] else [])

/-- MOD: R242 and R245. -/
def applyMod (n : Nat) (c x : Chip) : List (Page × Nat) :=
  let p := modPage n
  let modeCh := changesF c x p 0x040 1 0
  let perCh := changesF c x p 0x048 23 0
  let dead : Rat := (actF x p 0x04C 15 0 : Rat) / 8
  let minP : Rat := (actF x p 0x050 13 0 : Rat) / 8
  let adm := admitted x (n / 32)
  let bridge := modMode x n == 0
  let perBad := bridge && (!carrierFits x n || decide (carrierNs x n < 2 * (dead + minP)) || ((modeCh || perCh) && !adm) ||
    (perCh && (axis c n).torque))
  (if modeCh && !axisQuiet c n then [(p, 15)] else []) ++ (if perBad then [(p, 13)] else []) ++
    (if bridge && (modeCh || perCh) && !adm then [(lpePage (n / 32), 9)] else [])

/-- FBK: R270 and R288. -/
def applyFbk (n : Nat) (c x : Chip) : List (Page × Nat) :=
  let p := fbkPage n
  let quietOnly := changesF c x p 0x040 2 0 || [0x080, 0x084, 0x088, 0x08C, 0x090].any (changes c x p)
  let ssi := changes c x p 0x040 || [0x088, 0x08C, 0x090, 0x094].any (changes c x p)
  if (quietOnly && !axisQuiet c n) || (ssi && !ssiFits x n) then [(p, 15)] else []

/-- SDF: R330 and R332. -/
def sdfPortChanged (k q : Nat) (c x : Chip) : Bool :=
  changesF c x (sdfPage k) (0x080 + 16 * q) 8 0 || changesF c x (sdfPage k) (0x080 + 16 * q) 30 28

def applySdf (k : Nat) (c x : Chip) : List (Page × Nat) :=
  let p := sdfPage k
  let clkBad := [0, 1].any (fun i => changesF c x p 0x044 (8 * i + 5) (8 * i) &&
    (List.range 8).any (fun q => !axisQuiet c (16 * k + 8 * i + q)))
  let osrBad := (List.range 16).any (fun q => sdfPortChanged k q c x && !axisQuiet c (16 * k + q))
  (if clkBad then [(p, 10)] else []) ++ (if osrBad then [(p, 11)] else [])

/-- What refuses an apply; empty = accepted. -/
def applyRefusal (p : Page) (c x : Chip) : List (Page × Nat) :=
  match p with
  | .axm n => applyAxm n.val c x
  | .grp g => applyGrp g.val c x
  | .lpa n => applyLpa n.val c x
  | .mod n => applyMod n.val c x
  | .fbk n => applyFbk n.val c x
  | .snl n => if (snlApply n.val (snlChannels c n.val) x).isNone then [(p, 14)] else []
  | .adc k => if seqOk x k.val then [] else [(p, 13)]
  | .sdf k => applySdf k.val c x
  | .bus b => if busThreshOk x b.val then [] else [(p, 12)]
  | .net q => if gclBad c q.val then [(p, 11)] else []
  | .trc => if trcBad c then [(p, 13)] else []
  | _ => []

/-! ### What an accepted apply does beside the copy -/

/-- On entering POSITION the set-point is re-based to the feedback of the knot (R193). -/
def rebasePos (n : Nat) (c : Chip) : Chip :=
  let y : Sp := { p := fbPos c n, v := fbVel c n }
  modAxis n (fun a => { a with cur := y, nxt := y }) c

/-- The limit inputs are those of the sources now in force (R148): their levels stand, and the next edge is one of theirs. -/
def limitsTaken (n : Nat) (c : Chip) : Chip :=
  modAxis n (fun a => { a with limPos := limLevel c n true, limNeg := limLevel c n false }) c

def applyEffect (p : Page) (c x : Chip) : Chip :=
  match p with
  | .axm n => each (List.range 4) (fun u x => cmpArm n.val u x) (limitsTaken n.val x)
  | .grp g => setGroup g.val { group x g.val with members := groupEntries x g.val } x
  | .lpa n =>
    let x1 := loopHandover n.val (act c p 0x040) (act x p 0x040) x
    if lpaMode c n.val ≠ 3 ∧ lpaMode x n.val = 3 then rebasePos n.val x1 else x1
  | .fbk n => if changesF c x p 0x040 2 0 then fbkRestart n.val x else x
  | .snl n =>
    let x1 := (snlApply n.val (snlChannels c n.val) x).getD x
    let x2 := if (snlSt x1 n.val).state = .off ∧ isUp x1 p then modSnl n.val (fun y => { y with state := .idle, since := c.clk.now }) x1 else x1
    if (hdr x2 p).state = .ready then setState p .run x2 else x2
  | .sdf k => each ((List.range 16).filter (fun q => sdfPortChanged k.val q c x))
      (fun q x => stuckEnds k.val (each (List.range 3) (fun i x => sdfRestart (48 * k.val + 3 * q + i) x) x)) x
  | .bus b =>
    if (hdr x p).state = .ready then setState p .run (setBus b.val { busSt x b.val with configured := true } x) else x
  | .net q => gclStart q.val x
  | .trc => trcApplied c x
  | _ => x

/-! ### The apply itself (R38) -/

/-- The shadows of a page other than KNT come into force, or nothing changes but the refusal's causes. -/
def applyTake (p : Page) (c : Chip) : Chip × Bool :=
  let x := copyShadows p (fun _ => true) c
  match applyRefusal p c x with
  | [] => (applyEffect p c x, true)
  | rs => (each rs (fun r c => raise r.1 r.2 c) c, false)

def applyDone (p : Page) (c : Chip) : Chip :=
  raise p 4 (modHdr p (fun h => { h with applyReq := false, shadowPending := false, applyCount := h.applyCount + 1 }) c)

/-- The completion of a KNT request: shadows written after the copy of their set still wait (R38). -/
def kntDone (c : Chip) : Chip :=
  modHdr .knt (fun h => { h with shadowPending := c.knt.knWritten || c.knt.frameWritten }) (applyDone .knt c)

/-- Knots 1 to 31 take their registers (R113). R113 does not place KN_CTL 0 and KN_PULSE 0: they are copied here, with the knots, at the
TIME tick. DESIGN CHOICE, log entry 149. -/
def knotSetApply (c : Chip) : Chip :=
  let x0 := copyShadows .knt (fun o => decide (0x100 ≤ o)) c
  let x := { x0 with knt := { x0.knt with knWritten := false } }
  each ((List.range 31).map (· + 1)) (fun k x =>
    armKnot k ([0x00, 0x04, 0x08, 0x0C, 0x10, 0x14].any (fun o => changes c x .knt (knBase k + o))) x) x

/-- The candidate frame set fits (R114, R21): the phase within its period, and every quarter, SSI channel and converter list. -/
def frameFitsAll (x : Chip) : Bool :=
  decide (actF x .knt 0x044 29 0 < periodNs x) && (List.range 4).all (fun e => admitted x e) &&
  (fbkNums x).all (fun n => ssiFits x n) && (List.range 16).all (fun k => seqOk x k)

/-- KNT_FRAME and KNT_PHASE at a frame knot (R114): refused unless every physical axis is DISABLED or SAFE and the set fits; a quarter
that would not be admitted says so (R203), and a converter whose lists would not fit (R319). A changed set moves the next frame knot to the first place of the new grid at least half a new
period ahead. -/
def frameSetApply (c : Chip) : Chip :=
  let x := copyShadows .knt (fun o => decide (o < 0x100)) c
  let done (c : Chip) : Chip := { c with knt := { c.knt with frameApply := false } }
  let quiet := c.axes.all (fun p => !isPhys p.1 || axisQuiet c p.1)
  if !quiet || !frameFitsAll x then
    let c1 := each ((List.range 4).filter (fun e => !admitted x e)) (fun e c => raise (lpePage e) 9 c) c
    let c2 := each ((List.range 16).filter (fun k => !seqOk x k)) (fun k c => raise (adcPage k) 13 c) c1
    kntDone (raise .knt 9 (done c2))
  else if !(changes c x .knt 0x040 || changes c x .knt 0x044) then kntDone (done { x with knt := { x.knt with frameWritten := false } })
  else
    let t := (knotNs c).toNat
    let next := gridAt x (t + periodNs x / 2)
    kntDone (done { x with
      knt := { x.knt with frameWritten := false }
      tim :=
      { x.tim with
        nextKnot := next
        lenNs := next - t
        planNs := next - t
        realign := true } })

/-- The KNT page at a TIME tick (R113): the knots, and the whole request where no frame register was written. -/
def kntApply (c : Chip) : Chip :=
  let c1 := knotSetApply c
  if c.knt.frameWritten then modHdr .knt (fun h => { h with applyReq := false }) { c1 with knt := { c1.knt with frameApply := true } }
  else if c.knt.frameApply then modHdr .knt (fun h => { h with applyReq := false }) c1
  else kntDone c1

/-- A requested apply at its apply point. -/
def pageApply (p : Page) (c : Chip) : Chip :=
  if !(hdr c p).applyReq then c
  else match p with
    | .knt => kntApply c
    | _ =>
      -- a bus group, an angle source or a channel that an apply changes can change a service (R45)
      withService (fun c =>
        let r := applyTake p c
        if r.2 then applyDone p r.1 else modHdr p (fun h => { h with applyReq := false }) r.1) c

/-! ### When (R17, R18, R105; R12 for the substitute of a lost TIME clock) -/

/-- The frame knot has come: by the time counter, or by the SYS-derived substitute while the TIME clock is lost. -/
def knotDue (c : Chip) : Bool :=
  if clkLost c .time then decide (c.tim.lastKnot + c.tim.lenNs ≤ c.clk.now) else decide (c.tim.nextKnot ≤ timeNs c)

/-- Current sample i has come: it is the next one, it lies before the next knot, and its time is reached. -/
def sampleDue (i : Nat) (c : Chip) : Bool :=
  let at_ : Rat := sampleNs c * (i : Rat)
  i == c.tim.sampleIdx && decide (i < samplesPer c) && decide (at_ < (c.tim.lenNs : Rat)) &&
    (if clkLost c .time then decide ((c.tim.lastKnot : Rat) + at_ ≤ c.clk.now)
     else decide ((knotNs c : Rat) + at_ ≤ timeNs c) && decide (timeNs c < c.tim.nextKnot))

/-- The pages whose apply point is the next frame knot. -/
def appliesAtKnot : Page → Bool
  | .axm _ | .grp _ | .lpa _ | .lpe _ | .mod _ | .fbk _ | .snl _ | .adc _ | .sdf _ | .trc => true
  | _ => false

/-- The apply point of a page has come: the frame knot, the cycle start of R73, else the next cycle. -/
def applyDue (c : Chip) (p : Page) : Bool :=
  if appliesAtKnot p then knotDue c
  else match p with
    | .bus _ => sampleDue c.tim.sampleIdx c
    | .net q => decide ((netPort c q.val).gclAt ≤ timeNs c)
    | _ => true

/-- Pages with a header of their own that the test takes. -/
def pagesWith (c : Chip) (f : PageHdr → Bool) : List Page := (c.pages.filter (fun p => f p.2)).filterMap (fun p => pageOfNum p.1)

end Sys2Proof.Machine
end

