-- ==== Sys2Proof/Machine/SplOps.lean ====
section
/-!
DEFINITION. Splices (R483 to R491): images for filter cores and loop engines (R360, R361), classes and preconditions (Table 22-1),
and the sequence of R484.
-/

namespace Sys2Proof.Machine

/-! ### Images (R360, R361) -/

/-- A little-endian field of an image. -/
def imgField (img : List Byte) (off n : Nat) : Nat := ofBytes ((img.drop off).take n)

/-- The rules of Table 14-4 on the header, with the length. -/
def imgRules (magic : Nat) (img : List Byte) : Bool :=
  let pm := imgField img 12 4
  let d0 := imgField img 16 4
  let d1 := imgField img 20 4
  let entry (o : Nat) : Bool := imgField img o 4 % 4 == 0 && decide (imgField img o 4 < pm)
  img.length == 160 + pm + d0 + d1 && imgField img 0 4 == magic && imgField img 4 2 == 1 && decide (imgField img 6 2 < 2) &&
  pm % 8 == 0 && decide (8 ≤ pm) && decide (pm ≤ 65536) && d0 % 4 == 0 && decide (d0 ≤ 32768) && d1 % 4 == 0 && decide (d1 ≤ 32768) &&
  entry 24 && entry 28 && decide (imgField img 32 1 ≤ 3) && imgField img 33 31 == 0

/-- The digest, the signature and the lifecycle admit the image (R361, R470, R472). -/
def imgAllowed (c : Chip) (img : List Byte) (digestOk sigOk : Bool) : Bool :=
  let signed := imgField img 6 2 == 1
  let slot := imgField img 32 1
  digestOk && decide (c.sec.life < 3) &&
    (if signed then sigOk && bit c.sec.programmed slot && !bit c.sec.revoked slot else decide (c.sec.life < 2))

def fcoMagic : Nat := 0x31494346

/-- A range of core memory takes zero data with valid codes. -/
def clearCore (a n : Nat) (m : Mem) : Mem :=
  let lo := cellKey .core a
  let lw := cellKey .core (a / 16)
  { cells := m.cells.filter (fun p => p.1 < lo || lo + n ≤ p.1), err := m.err.filter (fun p => p.1 < lw || lw + n / 16 ≤ p.1) }

/-- PM, DM0 and DM1 of core k are loaded, IMAGE_OK sets and IMAGE_LOADED is raised (R361, R486 step 3). -/
def loadCore (k : Nat) (img : List Byte) (s : State) : State :=
  let b := k * 0x20000
  let pm := imgField img 12 4
  let d0 := imgField img 16 4
  let body := img.drop 160
  let s1 := { s with mem := clearCore (b + 0x10000) 0x10000 s.mem }
  let s2 := writeBytes .core b (body.take pm) s1
  let s3 := writeBytes .core (b + 0x10000) ((body.drop pm).take d0) s2
  let s4 := writeBytes .core (b + 0x18000) ((body.drop (pm + d0)).take (imgField img 20 4)) s3
  onChip (fun c =>
    raise (fcoPage k) 8 (wr (fcoPage k) 0x048 (BitVec.ofNat 32 (imgField img 8 4)) (modCore k (fun x =>
      { x with
        imageOk := true
        resetEntry := BitVec.ofNat 16 (imgField img 24 4)
        irqEntry := BitVec.ofNat 16 (imgField img 28 4) }) c))) s4

/-! ### Filter-core splices (R486) -/

def modFco (f : FcoJob → FcoJob) (c : Chip) : Chip := { c with spl := { c.spl with fco := f c.spl.fco } }

/-- The next core of a mask above `from_`. -/
def nextCore (mask from_ : Nat) : Option Nat := (List.range 8).find? (fun k => from_ ≤ k && mask.testBit k)

/-- The command that runs ends, and the next one begins (R361). -/
def fcoEnd (status detail : Byte) (c : Chip) : Chip :=
  let j := c.spl.fco
  let c1 := match j.active with
    | some (id, _, _) => finish id status detail (BitVec.ofNat 64 (if detail = 0 ∨ detail = 3 then j.spliced else 0)) c
    | none => c
  match j.queue with
  | [] => modFco (fun _ => {}) c1
  | q :: t => markRunning q.1 (modFco (fun _ => { active := some q, queue := t }) c1)

/-- Core k begins its splice, or is loaded where it stands OFF; a page that can take no splice refuses it, and the command fails. -/
def fcoBegin (k : Nat) (c : Chip) : Chip :=
  let p := fcoPage k
  let h := hdr c p
  match h.state with
  | .off => modFco (fun j => { j with cur := some k }) c
  | .ready | .run =>
    let c1 := setState p .splicing (setHdr p { h with spliceFrom := some h.state, spliceSince := c.clk.now } c)
    modFco (fun j => { j with cur := some k }) (drainWrite (rd c1 .dsp 0x040 ||| (1#32 <<< k)) c1)
  | _ => fcoEnd stFailed 0x03 (logSplice p 4 c)

/-- The next core of the mask from `from_` on, or the command's end: DONE with the whole mask (R361). -/
def fcoGo (from_ : Nat) (c : Chip) : Chip :=
  match c.spl.fco.active with
  | none => fcoEnd stDone 0 c
  | some (_, mask, _) =>
    match nextCore mask from_ with
    | some k => fcoBegin k c
    | none => if c.spl.fco.spliced = mask then fcoEnd stDone 0 c else fcoEnd stFailed 0x03 c

/-- FCO_LOAD takes effect (R361): one image at a time. -/
def startFcoLoad (id : Nat) (mask len : Word) (c : Chip) : Chip :=
  let m := fld mask 7 0
  if m = 0 then finish id stRejected 0x08 0 c
  else if c.spl.fco.active.isSome ∨ c.spl.fco.cur.isSome then modFco (fun j => { j with queue := j.queue ++ [(id, m, len.toNat)] }) c
  else markRunning id (modFco (fun j => { j with active := some (id, m, len.toNat) }) c)

/-- IMAGE_CHECKED: the image has been read, and its checks end (R361). -/
def imageChecked (image : Option (List Byte)) (digestOk sigOk : Bool) (c : Chip) : Chip :=
  match c.spl.fco.active with
  | none => c
  | some (_, _, len) =>
    if c.spl.fco.image.isSome ∨ c.spl.fco.cur.isSome then c
    else match image with
      | none => emit (.aer .hostRead) (fcoEnd stFailed 0x07 c)
      | some img =>
        if img.length ≠ len ∨ !imgRules fcoMagic img then fcoEnd stFailed 0x95 c
        else if !imgAllowed c img digestOk sigOk then fcoEnd stFailed 0x96 c
        else fcoGo 0 (modFco (fun j => { j with image := some img }) c)

/-- A core's splice ends without its new image, and the command fails: 2 KEPT, 3 FAILED, 5 ABORTED. -/
def fcoFail (k outcome : Nat) (c : Chip) : Chip :=
  let p := fcoPage k
  let c1 := drainWrite (rd c .dsp 0x040 &&& ~~~(1#32 <<< k)) c
  let c2 :=
    if (hdr c1 p).spliceFrom.isNone then c1
    else if outcome = 3 then
      latchFault p 0x03 (spliceOver p 3 (modCore k (fun x => { x with imageOk := false }) c1))
    else spliceEnd p outcome c1
  fcoEnd stFailed 0x03 (modFco (fun j => { j with cur := none }) c2)

/-- IMAGE_LOADED: once the core is drained, or DRAIN_TMO has ended its items, it takes the image and starts (R486 steps 2 to 4). -/
def imageLoaded (k : Nat) (s : State) : State :=
  let j := s.chip.spl.fco
  let p := fcoPage k
  if j.cur ≠ some k then s
  else match j.active, j.image with
    | some _, some img =>
      let h := hdr s.chip p
      let cont (c : Chip) : Chip := fcoGo (k + 1) (modFco (fun j => { j with cur := none, spliced := j.spliced ||| (1 <<< k) }) c)
      if h.state = .off then onChip (fun c => cont (logSplice p 1 c)) (loadCore k img (onChip (ownerLapse (8 + k)) s))
      else if h.state ≠ .splicing then onChip (fcoFail k 5) s
      else
        let s1 := drainTimeoutEvent k s
        if !coreEmpty s1.chip k then s1
        else
          let s2 := loadCore k img (onChip (fun c => ownerLapse (8 + k) (drainedEvent k c)) s1)
          onChip (fun c =>
            let c1 := drainWrite (rd c .dsp 0x040 &&& ~~~(1#32 <<< k)) (forgetCore k c)
            cont (startCore k (spliceEnd p 1 c1))) s2
    | _, _ => onChip (fcoFail k 5) s

/-! ### Preconditions (Table 22-1) -/

/-- Pages that can be spliced while their axis is SAFE (R485). -/
def splicesInSafe : Page → Bool
  | .lpa _ | .mod _ | .fbk _ | .snl _ | .lpe _ | .bus _ | .sdf _ => true
  | _ => false

/-- Class N: a splice is refused. -/
def spliceNone : Page → Bool
  | .dev | .clk | .pwr | .sec | .dbg | .evt | .cmd | .mem | .kep | .bly | .fco _ => true
  | _ => false

/-- The registers of a page that act at its splice together, beside the shadowed ones (R490). -/
def heldOffs : Page → List Nat
  | .net _ => [0x040, 0x050, 0x054, 0x058]
  | .ycp => [0x044, 0x048, 0x04C, 0x050]
  | _ => []

/-- The settings in force are noted, so that a later splice can see what changes and go back (R484, R490). -/
def noteFormer (p : Page) (c : Chip) : Chip :=
  let t := (heldOffs p).foldl (fun t o => tabSet (regReset (pageBase p + o) + 1) t (pageBase p + o) (rd c p o)) []
  if (heldOffs p).isEmpty then c else { c with spl := { c.spl with former := tabSet [] c.spl.former (pageNum p) t } }

/-- A held register has changed since the settings in force were noted. -/
def heldChanged (c : Chip) (p : Page) (offs : List Nat) : Bool :=
  (tabGet [] c.spl.former (pageNum p)).any (fun q => offs.any (fun o => q.1 == pageBase p + o) && regGet c q.1 != q.2)

/-- The PCS or the auto-negotiation of a port has changed: it retrains (R490). -/
def netRetrains (c : Chip) (q : Nat) : Bool :=
  (tabGet [] c.spl.former (pageNum (netPage q))).any (fun x => x.1 == pageBase (netPage q) + 0x040 && fld (regGet c x.1 ^^^ x.2) 1 0 != 0)

/-- The latencies act from the next timestamp; samples of the port are discarded until two Sync intervals have passed (R490). -/
def newLatencies (q : Nat) (c : Chip) : Chip :=
  if heldChanged c (netPage q) [0x050, 0x054] then
    setPtp q { ptpPort c q with quietTo := c.clk.now + 2 * ptpInterval c q 8 } c
  else c

def snlTabChanged (c x : Chip) : Bool := (shadowOffs c (.snl 0)).any (fun o => decide (0x400 ≤ o) && changes c x (.snl 0) o)

/-- The precondition of a page's splice; `x` has the shadows in force. -/
def splicePre (p : Page) (c x : Chip) : Bool :=
  match p with
  | .ycp => !heldChanged c .ycp (heldOffs .ycp) || (List.range 4).all (fun i => (session c i).state == .closed)
  | .grp g => (group c g.val).state == .idle
  | .hit => c.hits.all (fun h => !hitActive h.2)
  | .cam => c.hits.all (fun h => !(h.2.cfg.kind == .cam && hitActive h.2))
  | .axm n => (axis c n.val).state == .disabled || (axis c n.val).state == .ready || (axis c n.val).state == .slack
  | .lpa n => axisQuiet c n.val
  | .mod n => axisQuiet c n.val
  | .fbk n => axisQuiet c n.val
  | .snl n => axisQuiet c n.val &&
      (n.val != 0 || !snlTabChanged c x || (List.range 128).all (fun i => !sensorless c (f128 i) || axisQuiet c i))
  | .lpe e => (List.range 32).all (fun i => axisQuiet c (32 * e.val + i))
  | .bus b => (busMembers c b.val).all (axisQuiet c)
  | .sdf k => (List.range 16).all (fun q => !changes c x (sdfPage k.val) (0x080 + 16 * q) || axisQuiet c (16 * k.val + q))
  | .dsp => c.dsp.slots.isEmpty
  | .trc => c.trc.state != .cal
  | .fld => tetherUp c
  | _ => true

/-! ### The sequence (R484) -/

/-- The page passes through SPLICING and back. -/
def throughSplicing (p : Page) (c : Chip) : Chip :=
  let st := (hdr c p).state
  setState p st (setState p .splicing (modHdr p (fun h => { h with spliceFrom := some st }) c))

/-- Class R at its apply point: the change is taken in one apply, or the former values stay (KEPT). -/
def spliceR (p : Page) (c : Chip) : Chip :=
  let c0 := throughSplicing p c
  match p with
  | .knt =>
    let n := (hdr c0 p).applyCount
    let c1 := frameSetApply (knotSetApply c0)
    let kept := (hdr c1 p).shadowPending && n != (hdr c1 p).applyCount
    spliceOver p (if kept then 2 else 1) c1
  | .net q =>
    if netRetrains c q.val then
      let st := (hdr c p).state
      linkDown q.val false (setState p .splicing (modHdr p (fun h => { h with spliceFrom := some st, spliceSince := c.clk.now }) c))
    else spliceOver p 1 (noteFormer p (newLatencies q.val c0))
  | _ =>
    let r := applyTake p c0
    if r.2 then noteFormer p (spliceOver p 1 (applyDone p r.1)) else spliceOver p 2 r.1

/-- A staged loop-stage program at a frame knot (R485): its bytes in the deck, checked under R361; LPE_PROG shows its version. -/
def spliceLpe (e : Nat) (s : State) : State :=
  let p := lpePage e
  let a := rdF s.chip .dev 0x208 21 4 * 16
  let n := rdF s.chip .dev 0x20C 16 0
  let words := (List.range ((n + 15) / 16)).foldl (fun (acc : State × List Byte × Bool) i =>
    match readCode .deck (a / 16 + i) false acc.1 with
    | (s1, some d) => (s1, acc.2.1 ++ toBytes 16 d.toNat, acc.2.2)
    | (s1, none) => (s1, acc.2.1, false)) (s, [], true)
  let img := words.2.1.take n
  let ok := words.2.2 && decide (a + n ≤ 3 * 2 ^ 20) && imgRules 0x3145504C img && imgField img 16 8 == 0 &&
    imgAllowed s.chip img (Config.imageDigestOk img) (Config.imageSigOk img)
  onChip (fun c =>
    let c0 := throughSplicing p c
    if ok then spliceOver p 1 (wr p 0x054 (BitVec.ofNat 32 (imgField img 8 4)) c0) else spliceOver p 2 c0) words.1

/-- A requested splice at its apply point (R484 steps 2 to 5). -/
def spliceRun (p : Page) (s : State) : State :=
  let c := s.chip
  let h := hdr c p
  if !h.spliceReq ∨ h.spliceFrom.isSome then s
  else
    let up := h.state == .ready || h.state == .run || (h.state == .safe && splicesInSafe p)
    if !up ∨ spliceNone p ∨ !splicePre p c (copyShadows p (fun _ => true) c) then onChip (spliceOver p 4) s
    else match p with
      | .lpe e => spliceLpe e.val s
      | .adc k => onChip (fun c =>
          let r := calRequest k.val true c
          if r.2 then r.1 else spliceOver p 4 r.1) s
      | _ => onChip (spliceR p) s

/-- Whether a splice waits for an apply point of its own; else it runs with its request. -/
def spliceWaits : Page → Bool
  | .knt | .bus _ | .dsp => true
  | .adc _ => false
  | p => appliesAtKnot p

/-- The limit of a splice that is under way, in ns (Table 22-1). -/
def spliceLimit (c : Chip) : Page → Nat
  | .net _ => 1000000000
  | .adc _ => 9000000 + 2 * periodNs c
  | .fco _ => actF c .dsp 0x050 31 16 * 1000 + 1000000
  | _ => 0

/-- SPLICE_LIMIT_EXPIRY: the old content stands and is kept, or is gone and the page faults (R484 steps 5b and 5c). -/
def spliceExpiry (p : Page) (intact : Bool) (c : Chip) : Chip :=
  let h := hdr c p
  if h.state ≠ .splicing ∨ h.spliceFrom.isNone ∨ c.clk.now < h.spliceSince + spliceLimit c p then c
  else match p with
    | .fco k => fcoFail k.val (if intact then 2 else 3) c
    | .adc k =>
      let c1 := modAdc k.val (fun x => { x with spliceCal := false }) c
      if intact then spliceEnd p 2 c1 else latchFault p 0x03 (spliceOver p 3 c1)
    | _ => noteFormer p (spliceEnd p 2 c)

/-- The link of a port that retrains for a splice comes up (R490). -/
def spliceLink (q : Nat) (c : Chip) : Chip :=
  let p := netPage q
  if (hdr c p).spliceFrom.isSome then noteFormer p (spliceEnd p 1 (newLatencies q c)) else c

/-- DEV_SPLICE_LOG read: one outcome popped (R491). -/
def splicePop (c : Chip) : Chip × Word :=
  match c.spl.log with
  | [] => (c, 0x80000000)
  | (n, o) :: t => ({ c with spl := { c.spl with log := t } }, BitVec.ofNat 32 (n * 4096 + o * 2 ^ 24))

/-- DEV_SPLICE_CNT. -/
def spliceCnt (c : Chip) : Word := BitVec.ofNat 32 (c.spl.done + c.spl.failed * 65536 + c.spl.lost * 2 ^ 24)

end Sys2Proof.Machine
end

