-- ==== Sys2Proof/Machine/PageCmd.lean ====
section
/-!
DEFINITION. Writes of the common header (R33 to R41): enable and disable, page reset, seal, events, the fault clear, the apply and
splice requests, ownership.
-/

namespace Sys2Proof.Machine

/-- An accepted write counts in PG_SEQ (R39). -/
def countWrite (p : Page) (c : Chip) : Chip := modHdr p (fun h => { h with gen := h.gen + 1 }) c

/-! ### EN (Table 2-11) -/

/-- A fault whose condition persists latches again once the page is enabled (Table 2-11). -/
def relatch (p : Page) (c : Chip) : Chip :=
  let h := hdr c p
  if h.fltCode = 0 then each h.conds.reverse (latchFault p) c else c

/-- The YCP page is in RUN while its protocol is enabled. -/
def ycpRun (c : Chip) : Chip :=
  if (hdr c .ycp).state = .ready ∧ bit (rd c .ycp 0x040) 0 then setState .ycp .run c else c

/-- A page that its chapter holds OFF with EN = 1 until a calibration ends (R252, R323). -/
def enableHeld (c : Chip) (p : Page) : Bool :=
  match p with
  | .mod n =>
    let m := modSt c n.val
    !m.calOk && decide (c.clk.now < max m.calSince c.pwr.resetAt + 200000)
  | .adc k => (adcSt c k.val).powerOn
  | _ => false

/-- What each chapter does when its page is enabled. -/
def enableEffect (p : Page) (c : Chip) : Chip :=
  match p with
  | .mod n => modMod n.val (fun m => { m with driven := true }) c
  | .fbk n => fbkRestart n.val c
  | .tim => timEnable c
  | .swt => if (hdr c .swt).state = .ready then setState .swt .run c else c
  | .ycp => noteFormer .ycp (ycpRun c)
  | .net _ => noteFormer p c
  | .fco k => if (hdr c p).state = .ready then startCore k.val c else c
  | .sdf k => each (List.range 48) (fun i c => sdfRestart (48 * k.val + i) c) c
  | _ => c

/-- EN written 1. -/
def pageOn (p : Page) (c : Chip) : Chip :=
  let h := hdr c p
  if h.en then c
  else
    let c1 := setHdr p { h with en := true } c
    if h.state ≠ .off then c1
    else if enableHeld c p then
      match p with
      | .mod n => modMod n.val (fun m => { m with enHeld := true, driven := true }) c1
      | _ => c1
    else
      match p with
      | .mod n =>
        let c2 := modMod n.val (fun m => if m.calOk then m else { m with calOk := true }) c1
        relatch p (enableEffect p (setState p (if anyDemand h then .safe else .ready) c2))
      | _ => relatch p (enableEffect p (setState p (if anyDemand h then .safe else .ready) c1))

/-- What each chapter does when its page is disabled or reset, beside the end of the items in flight; axes that lose a resource by it react (R27).
A bus group's axes do so at the next sample (R229), a feedback channel's at the next evaluation (R222). -/
def disableEffect (p : Page) (c0 : Chip) : Chip :=
  let c := match p with
    | .tim | .lpe _ | .lpa _ | .mod _ | .sdf _ | .snl _ => resourceLost 0 p c0
    | _ => c0
  match p with
  | .axm n => cancelCmp n.val c
  | .net q => linkDown q.val false c
  | .ycp => closeAll c
  | .fbk n =>
    if axEnabled (axis c n.val).state then
      let m := fbkMode c n.val
      let c1 := raise p 9 (modFbk n.val (fun x => { x with lost := true, valid := false }) c)
      if 1 ≤ m ∧ m ≤ 3 then modAxis n.val (fun a => { a with referenced := false }) c1 else c1
    else modFbk n.val (fun x => { x with valid := false }) c
  | .bus b => setBus b.val { busSt c b.val with configured := false } c
  | .snl n => if (snlSt c n.val).state = .off then c else modSnl n.val (fun x => { x with state := .off }) (snlIdle n.val c)
  | .mod n => modMod n.val (fun m => { m with enHeld := false }) c
  | _ => c

/-- A splice that the page cannot finish is cut off (R485); that of a filter core ends its FCO_LOAD (R486). -/
def cutSplice (p : Page) (c : Chip) : Chip :=
  match p with
  | .fco k => if c.spl.fco.cur = some k.val then fcoFail k.val 5 c else spliceCut p c
  | _ => spliceCut p c

/-- EN written 0: the items in flight end ABORTED; a page in SAFE stays there while its demand lasts. Of a page that is SPLICING, for which Table 2-11
and R485 have no row, the splice is cut off ABORTED and the page goes to OFF. DESIGN CHOICE, log entry 176. -/
def pageOff (p : Page) (s : State) : State :=
  if !(hdr s.chip p).en then s
  else
    let s1 := endItems p 0 (onChip (cutSplice p) s)
    onChip (fun c =>
      let c1 := modHdr p (fun h => { h with en := false }) (disableEffect p c)
      if (hdr c1 p).state = .safe then c1 else setState p .off c1) s1

/-! ### PGRESET (R34) -/

/-- The registers that a page reset leaves: PG_VEC, a converter's factors, what the keep-memory device reports, and the version of the
loop-stage program that runs. -/
def resetKeepsReg (p : Page) (off : Nat) : Bool :=
  off == 0x01C || (match p with
    | .adc _ => (decide (0x04C ≤ off) && decide (off < 0x058)) || (decide (0x080 ≤ off) && decide (off < 0x0C8))
    | .kep => off == 0x048 || off == 0x04C
    | .lpe _ => off == 0x054
    | .hfr => off == 0x048
    | _ => false)

/-- Conditions that a page reset does not end: clocks, references, DRAM, calibrations, trips and replicas that stand outside the page. -/
def outerCond (b : Byte) : Bool := b == 0x02 || b == 0xCC || b == 0xCB || b == 0x82 || b == 0x80 || b == 0xC0 || b == 0xC2 || b == 0x43 || b == 0x51

/-- The state of a page beside its registers after a page reset. -/
def resetTyped (p : Page) (c : Chip) : Chip :=
  match p with
  | .dev => { c with spl := { c.spl with log := [], done := 0, failed := 0, lost := 0 } }
  | .pwr => modPwr (fun w => { w with req := none }) c
  | .sec => modSec (fun x => { x with challenge := none, res := [], ownerHash := 0, ownerWords := [] }) c
  | .dbg => setLevel 0 c
  | .evt => { c with evt := {} }
  | .cmd => { c with cmd := { held := c.cmd.held, nextId := c.cmd.nextId } }
  | .net q => setPort q.val {} (dropQueues q.val c)
  | .swt => { c with net := { c.net with learned := [] } }
  | .ycp => { c with ycp := { orphans := c.ycp.orphans } }
  | .hfr => newEpoch { c with hfr := { held := c.hfr.held } }
  | .tim =>
    let since := c.clk.now - c.tim.lastKnot
    let t := c.tim
    let next := gridAt c (periodNs c / 2)
    restoreInteg { c with tim :=
      { pllLock := t.pllLock
        relocking := t.relocking
        pllSrc := t.pllSrc
        pllMhz := t.pllMhz
        nextKnot := next
        lenNs := next + since
        frameNo := t.frameNo
        lastKnot := t.lastKnot
        sampleIdx := t.sampleIdx
        sampleNo := t.sampleNo
        planning := t.planning
        planDue := t.planDue
        realign := true } }
  | .knt => { c with knt := {} }
  | .axm n => setAxis n.val (if (axis c n.val).sto then { state := .safe, sto := true } else {}) c
  | .grp g => setGroup g.val {} c
  -- a coupled part that a quick stop still brings to rest keeps its plan (Table 7-4)
  | .hit => { c with hits := (c.hits.filter (fun h => h.2.relStop.isSome)).map (fun h => (h.1, { h.2 with raw := 0 })) }
  | .cam => { c with cam := {} }
  | .lpa n => setSup n.val { brakeOn := (supAx c n.val).brakeOn } (setLoop n.val {} c)
  | .lpe e => setLpe e.val { halted := (lpe c e.val).halted } c
  | .mod n =>
    let m := modSt c n.val
    setMod n.val { sto := m.sto, halted := m.halted, driven := m.driven, calSince := c.clk.now } c
  | .bus b => setBus b.val { tripIn := (busSt c b.val).tripIn } c
  | .fbk n => fbkRestart n.val c
  | .snl n => setSnl n.val {} c
  | .adc k =>
    let x := adcSt c k.val
    setAdc k.val { calValid := x.calValid, refBad := x.refBad, halted := x.halted, powerOn := x.powerOn,
                   calSince := if x.powerOn then x.calSince else none, mode := if x.powerOn then .calibrating else .idle } c
  | .sdf k => { each (List.range 48) (fun i c => sdfRestart (48 * k.val + i) c) c with sdfSeq := tabSet 0 c.sdfSeq k.val 0 }
  | .fco k =>
    let x := core c k.val
    ownerLapse (8 + k.val) (forgetCore k.val (setCore k.val
      { imageOk := x.imageOk, resetEntry := x.resetEntry, irqEntry := x.irqEntry, halted := x.halted } c))
  | .dsp => { c with dsp := { flows := c.dsp.flows, gens := c.dsp.gens, resetAborted := c.dsp.resetAborted, halted := c.dsp.halted } }
  | .trc => modTrc (fun t => { afterReset := 3, lastTime := t.lastTime, halted := t.halted }) c
  | .fld =>
    let m := c.fld
    { c with fld :=
      { belay := m.belay, demands := m.demands, refused := m.refused, commitRefused := m.commitRefused, key := m.key
        keyValid := m.keyValid, commit := m.commit, commitAck := m.commitAck, commitSeen := m.commitSeen
        clearSince := m.clearSince, cfgQueue := m.cfgQueue.filter (·.bly) } }
  | .bly => { c with fld := { c.fld with belay := {}, demands := 0, refused := 0, commitRefused := false, key := 0, keyValid := false,
                                         commit := none, commitAck := none, commitSeen := false, clearSince := none } }
  | .mem => modMemc (fun m => { m with elog := [], inj := [], initGiB := min 1 m.initGiB }) c
  | .kep => wr .kep 0x050 (BitVec.ofNat 32 (saveTop c.keep.mib)) c
  | .scb => { c with scb := { sramSince := c.clk.now, dramSince := c.clk.now, halted := c.scb.halted } }
  | .clk => c

/-- The engine of a page restarts from its reset state, the page's configuration kept (Table 0-4, 0x05): what a page reset leaves of the
state beside the registers, but links, calibrations and levels, which are no engine's. -/
def engineRestart (p : Page) (c : Chip) : Chip :=
  match p with
  | .dev | .clk | .pwr | .sec | .dbg | .adc _ => c
  | .net q =>
    let x := netPort c q.val
    modPort q.val (fun y => { y with link := x.link, anDone := x.anDone, remoteFault := x.remoteFault, syncOk := x.syncOk })
      (resetTyped p c)
  | .mod n => modMod n.val (fun m => { m with shadow := {}, pendingSet := false, duty := {}, carrier := false, block := true,
                                              blockReq := false, brakeReq := false }) c
  | .cmd => updateFull (resetTyped p c)
  | _ => resetTyped p c

/-- A page reset returns the registers and shadows of a page to their reset values. -/
def dropRegs (p : Page) (c : Chip) : Chip :=
  { c with regs := c.regs.filter (fun x => x.1 / 0x1000 != pageNum p || resetKeepsReg p (x.1 % 0x1000)) }

/-- PGRESET written 1; dropped during a save (R455). It counts in PG_SEQ, which is kept with PG_OWNER, PG_VEC and the apply count. -/
def pageReset (p : Page) (s : State) : State :=
  if s.chip.pwr.state = .save then s
  else
    let s1 := endItems p 0 (onChip (cutSplice p) s)
    onChip (fun c =>
      let c1 := withService (fun c => resetTyped p (dropRegs p (disableEffect p c))) c
      let h := hdr c1 p
      let c2 := setState p .off (setHdr p
        { state := h.state
          owner := h.owner
          gen := h.gen + 1
          applyCount := h.applyCount
          clockOk := h.clockOk
          halted := h.halted
          stoDemand := h.stoDemand
          sagDemand := h.sagDemand
          conds := h.conds.filter outerCond
          resetSince := some c.clk.now } c1)
      match p with
      | .cmd => updateFull c2
      | _ => c2) s1

/-- The page reset completes: BUSY and PGRESET clear, and a write dropped meanwhile is reported (R34). -/
def pageResetEnd (p : Page) (c : Chip) : Chip :=
  let h := hdr c p
  match h.resetSince with
  | none => c
  | some _ => raiseIf h.resetDropped p 1 (setHdr p { h with resetSince := none, resetDropped := false } c)

/-! ### SEAL (R35) -/

/-- The bytes of every RWL register of a page, in rising order of the offset. -/
def sealBytes (c : Chip) (p : Page) : List Byte :=
  ((pageRows p).filter (fun r => r.acc == .rwl)).flatMap (fun r => toBytes 4 (rd c p r.off).toNat)

/-- SEAL written 1. -/
def pageSeal (p : Page) (c : Chip) : Chip :=
  let h := hdr c p
  if h.sealedBit then c else setHdr p { h with sealedBit := true, sealCrc := crc32c (sealBytes c p) } c

/-- SEAL_CRC_CHECK: the CRC is recomputed. -/
def sealCheck (p : Page) (c : Chip) : Chip :=
  let h := hdr c p
  if !h.sealedBit then c
  else if crc32c (sealBytes c p) = h.sealCrc then endCond p 0x04 c
  else if standing c p 0x04 then c
  else failItems p 0x04 (latchCond p 0x04 c)

/-! ### Requests -/

/-- SPLICE_REQ written 1 (R484): the splice waits for its apply point, or runs at once where its chapter names none. -/
def spliceAsk (p : Page) (s : State) : State :=
  let h := hdr s.chip p
  if h.spliceReq then s
  else
    let s1 := onChip (setHdr p { h with spliceReq := true }) s
    if spliceWaits p then s1 else spliceRun p s1

/-- A write of PG_CTL. One event takes effect: the page reset, else the change of EN, else the splice request (R33). -/
def ctlWrite (p : Page) (v : Word) (s : State) : State :=
  if bit v 2 then (if s.chip.pwr.state = .save then s else pageReset p s)
  else
    let h := hdr s.chip p
    let s1 := onChip (countWrite p) s
    let s2 := if bit v 0 == h.en then s1 else if bit v 0 then onChip (pageOn p) s1 else pageOff p s1
    let s3 := if bit v 8 then onChip (pageSeal p) s2 else s2
    if bit v 4 && bit v 0 == h.en then spliceAsk p s3 else s3

/-- PG_EVT written: 1 clears (R37). -/
def evtClear (p : Page) (v : Word) (c : Chip) : Chip := modHdr p (fun h => { h with evt := h.evt &&& ~~~v }) c

/-- PG_EVEN written: newly enabled causes whose bit is 1 raise their vector (R37). -/
def evenWrite (p : Page) (v : Word) (c : Chip) : Chip :=
  let now := v &&& ~~~(rd c p 0x014) &&& (hdr c p).evt
  each ((List.range 32).filter (bit now)) (fun b c => raiseVector (vecOf c p b) c) (wr p 0x014 v c)

/-- PG_EVSET written: each bit acts as its cause, with PG_FLT unchanged (R37). -/
def evSet (p : Page) (v : Word) (c : Chip) : Chip := each ((List.range 32).filter (bit v)) (fun b c => raise p b c) c

/-- PG_VEC written. -/
def vecWrite (p : Page) (v : Word) (c : Chip) : Chip := countWrite p (wr p 0x01C (v &&& 0x3F3F) c)

/-- PG_APPLY written with 1 (R38, R73). -/
def applyAsk (p : Page) (v : Word) (c : Chip) : Chip :=
  if v = 1 then
    let c1 := modHdr p (fun h => { h with applyReq := true }) c
    match p with
    | .net q => gclRequest q.val c1
    | _ => c1
  else c

/-- PG_OWNER written: 6 and 7 are reserved (Table 2-10). -/
def ownerWrite (p : Page) (v : Word) (c : Chip) : Chip :=
  let n := fld v 3 0
  if n = 6 ∨ n = 7 then countWrite p (raise p 1 c) else countWrite p (modHdr p (fun h => { h with owner := n }) c)

/-! ### The fault clear (R36) -/

/-- A comparator whose latch is set is still asserted (R260). -/
def ocStands (c : Chip) (n : Nat) : Bool :=
  (List.range 3).any (fun x => (modSt c n).oc.getD x false && (sdfCh c (portCh n x)).asserted)

/-- The condition of a page's latched code persists, so that a clear is refused. Whether an engine that the block watchdog stopped
responds again is open: a free value of each clear (R9, log entry 51). -/
def clearStands (c : Chip) (p : Page) : Bool :=
  let h := hdr c p
  standing c p h.fltCode || (h.fltCode == 0x05 && !bit (freshBits c) 0) || (match p with
    | .fbk n => h.fltCode.toNat / 16 == 6 && !fbkClearOk c n.val
    | .mod n => ocStands c n.val
    | .bus b => (busSt c b.val).latched.any (fun q => standing c p q)
    | .lpa n => (h.fltCode == 0x33 || h.fltCode == 0x34) && fbGone (supAx c n.val)
    | .snl n => h.fltCode == 0x70 && (snlSt c n.val).lostMeas
    | _ => false)

/-- What each chapter does with an accepted clear, the latch already cleared. -/
def clearEffect (p : Page) (c : Chip) : Chip :=
  match p with
  | .fbk n => fbkCleared n.val c
  | .mod n => atBoundary n.val (releaseTrips n.val) (modMod n.val (fun m => { m with ocClear := true }) c)
  | .bus b => busCleared b.val c
  | .snl n => if (snlSt c n.val).state = .fault then modSnl n.val (fun x => { x with fails := 0 }) (snlIdle n.val c)
      else modSnl n.val (fun x => { x with fails := 0 }) c
  | .fco k => if (hdr c p).state = .ready then startCore k.val c else c
  | .swt => if (hdr c p).state = .ready then setState p .run c else c
  | .ycp => ycpRun c
  | .tim => if (hdr c p).state = .ready ∧ c.tim.pllLock then setState p .run c else c
  | _ => c

/-- A write of CLEAR, or FAULT_CLEAR: whether it was accepted. With CODE 0x00 there is nothing to clear. A clear of a belay code goes
to the belay (R437). -/
def fltClear (p : Page) (c : Chip) : Chip × Bool :=
  let h := hdr c p
  let belay := p == .bly && decide (0xB0 ≤ h.fltCode.toNat)
  if belay then (pushCfg true 0x020 1 { c with fld := { c.fld with clearSince := some c.clk.now } }, true)
  else if h.fltCode = 0 then (c, true)
  else
    let watchdog := h.fltCode == 0x05
    let c1 := if watchdog then useFresh c else c
    if clearStands c p then (raise p 7 c1, false)
    else (clearEffect p (clearLatch p (if watchdog then engineRestart p c1 else c1)), true)

end Sys2Proof.Machine
end

