-- ==== Sys2Proof/Machine/RegRead.lean ====
section
/-!
DEFINITION. Reads of the register window (R3, R4, R29 to R32): the header, the status words each chapter defines, the reads that
pop a queue or take a snapshot for their path, active copies, and the three memory windows. One definition serves every path.
-/

namespace Sys2Proof.Machine

/-- How a 32-bit read of the window ends: a value, an address that holds nothing, or an uncorrectable word. -/
inductive ReadRes where
  | ok (v : Word)
  | unassigned
  | bad
deriving DecidableEq, Repr

/-- The word of a natural number. -/
def w32 (n : Nat) : Word := BitVec.ofNat 32 n

/-- A signed field of `n` bits placed at bit `lo`. -/
def sfld (n lo : Nat) (i : Int) : Nat := (i % (2 ^ n : Nat)).toNat * 2 ^ lo

/-- A half of a 64-bit quantity. -/
def half (d : DWord) (hi : Bool) : Word := if hi then (d >>> 32).setWidth 32 else d.setWidth 32

/-! ### The header (Tables 2-2 to 2-10) -/

/-- PG_CAP of each page. -/
def pageCap (c : Chip) : Page → Word
  | .dev => 0x2010
  | .axm n => if n.val < 128 then w32 (1 + flag (pulseAxis c n.val) 1 + flag (fbIndex c n.val) 2) else 0
  | .lpa n => w32 (flag (modMode c n.val == 0) 0)
  | .lpe _ => 0x2004
  | .mod _ => 0x61
  | .fbk _ => 3
  | .snl n => w32 (flag (decide (n.val = 0)) 0)
  | .adc _ => 0x18
  | .sdf _ => 48
  | .fco _ => 0x01202040
  | .dsp => 0x084000
  | .trc => 0x0840
  | .fld => 0x0840
  | .bly => 0x018C
  | _ => 0

def stateCode : PgState → Nat
  | .off => 0 | .ready => 1 | .run => 2 | .fault => 3 | .splicing => 4 | .safe => 5

/-- One word of the common header. -/
def headerWord (c : Chip) (p : Page) (off : Nat) : Word :=
  let h := hdr c p
  match off with
  | 0x000 => pageId p
  | 0x004 => pageCap c p
  | 0x008 => w32 (flag h.en 0 + flag h.resetSince.isSome 2 + flag h.spliceReq 4 + flag h.sealedBit 8)
  | 0x00C => w32 (stateCode h.state + flag (h.resetSince.isSome || h.state == .splicing) 8 + flag h.shadowPending 9 + flag h.sealedBit 10 +
      flag h.clockOk 11)
  | 0x010 => h.evt
  | 0x014 => rd c p 0x014
  | 0x01C => rd c p 0x01C
  | 0x020 => w32 (h.fltCode.toNat + h.fltCount * 256 + h.fltSeq.toNat * 65536)
  | 0x024 => h.gen
  | 0x028 => h.applyCount
  | 0x02C => w32 h.owner
  | _ => 0

/-! ### Status words -/

def axCode : AxState → Nat
  | .disabled => 0 | .ready => 1 | .holding => 2 | .moving => 3 | .stopping => 4 | .slack => 5 | .homing => 6 | .fault => 7 | .safe => 8

/-- AXM_STA (Table 6-7): the axis, and the levels of its positive limit, negative limit and home input. -/
def axmSta (a : Axis) (limP limN homeIn : Bool) : Word :=
  w32 (axCode a.state + flag a.referenced 4 + flag a.torque 5 + flag limP 6 + flag limN 7 + flag homeIn 8 + flag a.posSuspect 9 +
    flag a.stopLengthened 10 + flag a.settled 11 + flag a.slackKept 12 + a.home.phase % 8 * 65536)

/-- LAT_SEQ (R174). -/
def latSeq (x : LatSt) : Word :=
  w32 (x.last.seq.toNat + flag x.valid 16 + flag x.last.extrap 17 + flag x.last.rising 18 + x.ovf * 2 ^ 24)

/-- The read of LATF_POP (R174): the popped entry goes to the path. -/
def latfPop (path : Path) (n l : Nat) (c : Chip) : Chip × Word :=
  let x := latSt (axis c n) l
  let b := pageBase (axmPage n) + latBase l
  let put (ns s : Nat) (pos : DWord) (c : Chip) : Chip :=
    heldSet path (b + 0x28) (w32 s) (heldSet path (b + 0x24) (half pos true) (heldSet path (b + 0x20) (half pos false)
      (heldSet path (b + 0x1C) (w32 ns) c)))
  match x.fifo with
  | [] => (put 0 0 0 c, 0x80000000)
  | e :: t => (put e.ns e.s (wrapQ e.pos) (setLat n l { x with fifo := t } c), w32 (e.seq.toNat + flag e.extrap 16 + flag e.rising 17))

/-- CMP_STA (Table 7-6). -/
def cmpSta (x : CmpSt) : Word :=
  w32 (x.seq.toNat + flag x.valid 16 + flag x.armed 17 + flag x.behind 18 + flag x.late 19 + flag x.mispredict 20 + flag (!x.sched.isEmpty) 21)

/-- AXM words (Tables 6-7, 7-6). -/
def axmWord (c : Chip) (n off : Nat) : Word :=
  let a := axis c n
  let p := axmPage n
  match off with
  | 0x044 => axmSta a (limLevel c n true) (limLevel c n false) (homeLevel c n)
  | 0x060 => half (wrapQ a.target) false
  | 0x064 => half (wrapQ a.target) true
  | 0x068 => half (satQ (runSlack a)) false
  | 0x06C => half (satQ (runSlack a)) true
  | 0x0F4 => w32 (a.step.clamped + flag a.step.clamping 16)
  | 0x104 => latSeq (latSt a 0)
  | 0x144 => latSeq (latSt a 1)
  | _ =>
    if 0x204 ≤ off ∧ off < 0x300 ∧ off % 0x40 = 4 then cmpSta (cmpSt a ((off - 0x204) / 0x40)) else rd c p off

def grpWord (c : Chip) (g off : Nat) : Word :=
  let x := group c g
  let st : Nat := match x.state with | .idle => 0 | .moving => 1 | .stopping => 2 | .slack => 3 | .broken => 4
  match off with
  | 0x044 => w32 (st + x.members.length * 256 + x.lead * 65536)
  | 0x048 => half (satQ x.s.p) false
  | 0x04C => half (satQ x.s.p) true
  | 0x050 => half (satQ x.len) false
  | 0x054 => half (satQ x.len) true
  | 0x058 => half (satQ x.slack) false
  | 0x05C => half (satQ x.slack) true
  | _ => rd c (grpPage g) off

def hitWord (c : Chip) (off : Nat) : Word :=
  if off = 0x040 then w32 ((c.hits.filter (fun h => h.2.state != .free)).length + deepest c * 65536)
  else if 0x060 ≤ off ∧ off < 0x080 then
    ((hitch c (rdF c .hit 0x044 7 0)).raw >>> (8 * (off - 0x060))).setWidth 32
  else if 0x400 ≤ off ∧ off < 0x800 then
    let h := hitch c ((off - 0x400) / 4)
    let st : Nat := match h.state with
      | .free => 0 | .engaging => 1 | .engaged => 2 | .disengaging => 3 | .suspended => 4 | .fault => 5
    let kind : Nat := match h.cfg.kind with | .gear => 0 | .line => 1 | .cam => 2 | .superimpose => 3
    w32 (st + kind * 8 + h.cfg.slave % 256 * 256 + h.cfg.master % 256 * 65536)
  else rd c .hit off

def camWord (c : Chip) (off : Nat) : Word :=
  match off with
  | 0x044 => w32 (flag c.cam.active.isSome 0 + flag (dramUp c) 1)
  | 0x048 => c.cam.crc
  | 0x04C => w32 c.cam.bad
  | 0x050 => w32 c.cam.badNode
  | _ => rd c .cam off

def lpaWord (c : Chip) (path : Path) (n off : Nat) : Word :=
  let x := loopAx c n
  let p := lpaPage n
  match off with
  | 0x044 => w32 (actF c p 0x040 2 0 + actF c p 0x040 5 4 * 16 + flag x.vLimited 8 + flag x.iLimited 9 + flag (x.slewI || x.slewV) 10 +
      flag x.frozen 11 + flag x.regen 12 + flag (decide (0 < x.settling)) 13)
  | 0x048 => w32 (sfld 6 0 x.ePos.e + sfld 6 8 x.eVel.e + sfld 6 16 x.eCur.e + sfld 6 24 x.eMdl.e)
  | 0x204 =>
    let s := supAx c n
    w32 (flag s.feWarn 0 + flag s.fbLost 1 + flag s.fbFrozen 2 + flag s.estimating 3 + flag (plausSuppressed c n) 4 + s.cls % 8 * 256 +
      flag s.reacting 11 + (busOf c (f128 n)).val * 4096)
  | 0x22C =>
    let s := supAx c n
    w32 (min 255 s.posCnt + min 255 s.curCnt * 256 + min 255 s.feRun * 65536)
  | _ => if 0x180 ≤ off ∧ off < 0x1AC then heldGet c path (pageBase p + off) else rd c p off

def lpeWord (c : Chip) (e off : Nat) : Word :=
  let ax := activeAxes c e
  let nc := ax.length
  let np := (ax.filter (fun n => 2 ≤ lpaMode c n)).length
  let one (x : Rat) : Nat := min 65535 x.ceil.toNat
  match off with
  | 0x040 => w32 (nc + np * 256 + flag (ax.any (engineRuns c)) 16)
  | 0x044 => w32 (if nc = 0 then 0 else one (tDuty nc))
  | 0x048 => w32 (if nc = 0 then 0 else one (tZero nc np))
  | 0x04C => w32 (if nc = 0 then 0 else one (tZero nc np) + one (tZero nc 0) * 65536)
  | _ => rd c (lpePage e) off

def busWord (c : Chip) (b off : Nat) : Word :=
  let x := busSt c b
  match off with
  | 0x070 => w32 (flag x.chopOn 0 + flag x.clamp 1 + flag x.undervolt 2 + flag x.tripped 3 + flag (x.latched.contains 0x43) 4 + flag x.tripIn 5 +
      flag x.brkfb 6 + flag x.measOk 7)
  | 0x074 => (toCoef x.v).1
  | 0x078 => (toCoef x.vMax).1
  | 0x07C => w32 ((x.chopTime + (if x.chopOn then c.clk.now - x.chopSince else 0)) / 1000)
  | _ =>
    if 0x080 ≤ off ∧ off < 0x090 then
      w32 ((List.range 32).foldl (fun a i => a + flag ((busOf c (f128 ((off - 0x080) * 8 + i))).val == b) i) 0)
    else rd c (busPage b) off

def modWord (c : Chip) (n off : Nat) : Word :=
  let x := modSt c n
  match off with
  | 0x058 => w32 x.shadow.u
  | 0x05C => w32 x.shadow.v
  | 0x060 => w32 x.shadow.w
  | 0x064 => w32 (flag x.carrier 0 + flag (tripped x) 1 + flag (x.oc.getD 0 false) 2 + flag (x.oc.getD 1 false) 3 + flag (x.oc.getD 2 false) 4 +
      flag x.ext 5 + flag x.sto 6 + flag x.safeHeld 7 + flag x.block 8 + flag x.calOk 9 + flag x.fallback 10 + flag (restartPending c n) 11 + x.m % 32 * 65536)
  | 0x070 => w32 (x.code.toNat + x.code0.toNat * 256) ||| (rd c (modPage n) 0x070 &&& 0xFFFF0000)
  | _ => rd c (modPage n) off

def fbkWord (c : Chip) (n off : Nat) : Word :=
  let x := fbkSt c n
  match off with
  | 0x044 =>
    let t : Nat := match x.tooth with | .search => 0 | .check => 1 | .sync => 2
    let hall := decide (actF c (fbkPage n) 0x040 2 0 = 2)
    w32 (flag x.valid 0 + flag x.lost 1 + flag x.standstill 2 + flag x.neg 3 + t * 16 + flag (hall && x.f0) 6 + flag (hall && x.f1) 7 + flag (hall && x.f2) 8 + flag x.ssiWarn 9 +
      flag x.f0 10 + flag x.f1 11 + flag x.f2 12)
  | 0x098 => x.word.setWidth 32
  | 0x09C => (x.word >>> 32).setWidth 32
  | _ => rd c (fbkPage n) off

def snlWord (c : Chip) (n off : Nat) : Word :=
  let x := snlSt c n
  match off with
  | 0x044 =>
    let st : Nat := match x.state with
      | .off => 0 | .idle => 1 | .catching => 2 | .aligning => 3 | .ramp => 4 | .run => 5 | .coast => 6 | .fault => 7
    w32 (st + flag x.runReq 4 + flag x.inhibit 5 + flag x.cmdLost 6 + flag x.testRefused 7 + x.fails % 16 * 256)
  | 0x0B0 => snlAngleReg c n
  | 0x0B4 => snlFreqReg c n
  | 0x0B8 => snlEmfReg c n
  | 0x0BC => w32 (min 65535 (roundAway (x.x * 65536)).toNat)
  | _ => rd c (snlPage n) off

/-- ADC_RES m and ADC_RES_NS m as they stand. -/
def adcResWord (c : Chip) (k m : Nat) : Word :=
  let r := adcRes c k m
  w32 (r.1 + flag r.2.1 16 + flag r.2.2.1 17)

def adcNsWord (c : Chip) (k m : Nat) : Word := w32 ((adcRes c k m).2.2.2.1 % 1000000000)

/-- The read of ADC_SEQ (R320). -/
def adcSeqRead (path : Path) (k : Nat) (c : Chip) : Chip × Word :=
  let b := pageBase (adcPage k)
  let x := adcSt c k
  (each (List.range 8) (fun m c => heldSet path (b + 0x208 + 8 * m) (adcNsWord c k m) (heldSet path (b + 0x204 + 8 * m) (adcResWord c k m) c)) c,
    w32 (x.seq.toNat + flag (!x.res.isEmpty) 16))

def adcWord (c : Chip) (path : Path) (k off : Nat) : Word :=
  let x := adcSt c k
  match off with
  | 0x044 =>
    let st : Nat := match x.mode with | .idle => 0 | .calibrating => 1 | .covered => 2 | .covering => 3
    w32 (st + flag x.calValid 4 + flag (!x.refBad) 5 + (sampleSlots c k).length * 256 + (knotSlots c k).length * 65536)
  | _ => if 0x204 ≤ off ∧ off < 0x244 then heldGet c path (pageBase (adcPage k) + off) else rd c (adcPage k) off

/-- SDF_RES of a channel as it stands. -/
def sdfResWord (c : Chip) (i : Nat) : Word :=
  let x := sdfCh c i
  w32 (sfld 24 0 x.d + flag x.valid 31)

/-- The read of SDF_SEQ (R335). -/
def sdfSeqRead (path : Path) (k : Nat) (c : Chip) : Chip × Word :=
  let b := pageBase (sdfPage k)
  let v := (List.range 48).any (fun i => (sdfCh c (48 * k + i)).valid)
  (each (List.range 48) (fun i c => heldSet path (b + 0x200 + 4 * i) (sdfResWord c (48 * k + i)) c) c, w32 ((tabGet 0 c.sdfSeq k).toNat + flag v 16))

def sdfWord (c : Chip) (path : Path) (k off : Nat) : Word :=
  if 0x200 ≤ off ∧ off < 0x2C0 then heldGet c path (pageBase (sdfPage k) + off)
  else if 0x088 ≤ off ∧ off < 0x180 ∧ off % 16 = 8 then
    let q := (off - 0x088) / 16
    w32 ((List.range 3).foldl (fun a x => a + flag (sdfCh c (48 * k + 3 * q + x)).asserted x + flag (sdfCh c (48 * k + 3 * q + x)).stuck (4 + x)) 0)
  else rd c (sdfPage k) off

def fcoWord (c : Chip) (k off : Nat) : Word :=
  let x := core c k
  match off with
  | 0x044 => w32 (flag x.imageOk 0 + flag (x.wait == .next) 1 + flag (bit x.sr 18) 2 + flag x.iter.isSome 3 + x.nest.length * 16 + flag x.halted 8)
  | 0x04C => w32 x.pc.toNat
  | 0x05C => w32 (flag (x.cause.getLsbD 1) 0)
  | 0x060 => w32 x.cycles
  | 0x064 => w32 (x.cycles / 2 ^ 32)
  | _ => rd c (fcoPage k) off

/-- The flow DSP_FSEL of a path names. -/
def flowSel (c : Chip) (path : Path) : Nat := fld (heldGet c path (pageBase .dsp + 0x0D0)) 11 0

/-- DSP_FLOW_STA (Table 15-6): the state of the flow's head item. -/
def flowSta (c : Chip) (f : Nat) : Word :=
  let x := flow c f
  let held := x.queue.length + (if x.head.isSome then 1 else 0) + (c.dsp.slots.filter (fun s => s.2.flow == f && s.2.state == .delayed)).length
  let st : Nat :=
    match x.head.bind (slotOf c) with
    | some it => match it.state with
      | .running | .preempted => 2
      | .ready | .offered => 1
      | _ => 3
    | none => if held = 0 then 0 else 3
  w32 (st + (match x.last with | some k => k * 16 + 128 | none => 0) + held % 16384 * 65536)

def dspWord (c : Chip) (path : Path) (off : Nat) : Word :=
  let d := c.dsp
  let f := flow c (flowSel c path)
  match off with
  | 0x048 => d.ticks
  | 0x060 => w32 (d.slots.length + d.drained.toNat * 65536 + (List.range 8).foldl (fun a k => a + flag (coreIdle c k) (24 + k)) 0)
  | 0x064 => w32 (min 65535 d.full + d.resetAborted % 65536 * 65536)
  | 0x0A0 | 0x0A4 | 0x0B0 | 0x0D0 => heldGet c path (pageBase .dsp + off)
  | 0x0C8 => w32 d.cqHead
  | 0x0CC => w32 (d.cqTail + flag d.cqPhase 16)
  | 0x0D4 => w32 (flag f.en 0 + f.prio * 16 + f.mask.toNat * 256)
  | 0x0D8 => flowSta c (flowSel c path)
  | 0x0DC => w32 (f.done.toNat + min 255 f.failed * 65536 + min 255 f.aborted * 2 ^ 24)
  | 0x0E0 => w32 (f.cancelled.toNat + min 255 f.coalesced * 65536 + min 255 f.ignored * 2 ^ 24)
  | _ => rd c .dsp off

def trcWord (c : Chip) (off : Nat) : Word :=
  let t := c.trc
  match off with
  | 0x044 => trcSta c
  | 0x054 => w32 t.wp
  | 0x058 => w32 t.rp
  | 0x060 => t.cnt
  | 0x064 => t.lost
  | 0x070 => w32 (t.trigSeq.toNat + flag t.trigValid 16)
  | 0x074 => w32 t.trigTime.ns
  | 0x078 => w32 t.trigTime.s
  | _ => if 0x20C ≤ off ∧ off < 0x600 ∧ off % 16 = 12 then chSta c ((off - 0x20C) / 16) else rd c .trc off

def fldWord (c : Chip) (off : Nat) : Word :=
  let f := c.fld
  match off with
  | 0x040 =>
    let t : Nat := match f.tether with | .down => 0 | .up => 1 | .silent => 2
    w32 (t + flag f.inputsValid 2 + flag f.warn 3 + flag f.uvlo 4 + f.groupOn.toNat * 256 + f.groupOver.toNat * 65536 + f.sched.length % 64 * 2 ^ 24)
  | 0x044 => w32 f.vfield.toNat
  | 0x068 => half f.inLevel false
  | 0x06C => half f.inLevel true
  | 0x070 => half f.short false
  | 0x074 => half f.short true
  | 0x078 => w32 (min 255 f.downBad + min 255 f.upBad * 256 + min 255 f.silences * 65536 + min 255 f.evLost * 2 ^ 24)
  | 0x07C => w32 (f.delay % 65536)
  | _ => rd c .fld off

def blyWord (c : Chip) (off : Nat) : Word :=
  let f := c.fld
  let b := f.belay
  match off with
  | 0x040 => w32 (b.state.val + flag b.parOk 2 + flag b.resetWait 3 + b.parVer.toNat * 16 + flag f.commitRefused 8 + flag f.keyValid 9)
  | 0x044 => w32 b.fnRun.toNat
  | 0x048 => w32 (b.sto.toNat + b.sout.toNat * 65536)
  | 0x04C => w32 b.stopReq.toNat
  | 0x050 => f.key
  | 0x05C => w32 (min 65535 f.demands + min 255 f.refused * 65536)
  | _ => rd c .bly off

def cmdWord (c : Chip) (off : Nat) : Word :=
  let m := c.cmd
  if 0x040 ≤ off ∧ off < 0x0C0 then
    let r := (off - 0x040) / 0x20
    let x := sq c r
    match off % 0x20 with
    | 0x10 => w32 x.tail
    | 0x14 => w32 x.head
    | 0x18 => w32 (sqState c r + flag x.resize.isSome 2 + min 511 (ringInFlight c r) * 256)
    | 0x1C => w32 (x.errKind + x.errVal % 4096 * 65536)
    | 0x0C => w32 (flag (sqEn c r) 0)
    | _ => rd c .cmd off
  else if 0x100 ≤ off ∧ off < 0x120 then
    w32 ((List.range 32).foldl (fun a b => a + flag (tagBusy c (BitVec.ofNat 8 ((off - 0x100) * 8 + b))) b) 0)
  else match off with
    | 0x0D0 => w32 m.cqHead
    | 0x0D4 => w32 (m.cqTail + flag m.cqPhase 16)
    | 0x0D8 => w32 (flag m.cqResize.isSome 2 + flag m.full 3 + min 256 m.held.length * 65536)
    | _ => rd c .cmd off

def netWord (c : Chip) (p off : Nat) : Word :=
  let x := netPort c p
  match off with
  | 0x044 => w32 (flag x.link 0 + flag x.anDone 1 + flag x.remoteFault 2 + flag x.syncOk 3)
  | 0x05C => rd c (netPage p) 0x05C ||| w32 (flag x.mdioBusy 31)
  | _ => rd c (netPage p) off

def ycpWord (c : Chip) (off : Nat) : Word :=
  if 0x200 ≤ off ∧ off < 0x280 then
    let x := session c ((off - 0x200) / 0x20)
    match off % 0x20 with
    | 0x00 => w32 ((match x.state with | .closed => 0 | .pending => 1 | .opened => 2) + x.keySlot % 4 * 16)
    | 0x04 => x.ip
    | 0x08 => w32 x.port.toNat
    | 0x10 => x.exp
    | 0x1C => x.alive
    | _ => rd c .ycp off
  else rd c .ycp off

def hfrWord (c : Chip) (off : Nat) : Word :=
  match off with
  | 0x048 => c.hfr.epoch
  | 0x054 => c.hfr.pubSeq
  | _ => if 0x108 ≤ off ∧ off < 0x200 ∧ off % 16 = 8 then subSta c ((off - 0x108) / 16) else rd c .hfr off

def timWord (c : Chip) (path : Path) (off : Nat) : Word :=
  let t := c.tim
  match off with
  | 0x044 =>
    let s : Nat := match t.servo with | .free => 0 | .acquiring => 1 | .locked => 2 | .holdover => 3
    w32 (s + flag (timeLocked c) 4 + flag t.pllLock 5 + t.trimPort * 65536)
  | 0x04C | 0x050 | 0x054 => heldGet c path (pageBase .tim + off)
  | 0x058 => BitVec.ofInt 32 t.rate
  | _ =>
    if 0x0C0 ≤ off ∧ off < 0x140 then
      let k := (off - 0x0C0) / 16
      match off % 16 with
      | 0x0C => w32 (min 31 (tabGet [] t.caps k).length + min 255 (tabGet 0 t.capOvf k) * 256)
      | _ => heldGet c path (pageBase .tim + off)
    else if 0x380 ≤ off ∧ off < 0x3C0 then heldGet c path (pageBase .tim + off)
    else rd c .tim off

def kntWord (c : Chip) (off : Nat) : Word :=
  if 0x100 ≤ off ∧ off < 0x500 ∧ off % 0x20 = 0x1C then
    let x := knot c ((off - 0x100) / 0x20)
    w32 (x.seq.toNat + flag x.valid 16 + flag x.late 17 + flag (x.armed || off == 0x11C) 18)
  else match off with
  | 0x100 => setFld (rd c .knt off) 1 0 2
  | 0x104 => w32 (c.tim.nextKnot / 1000000000)
  | 0x108 => w32 (c.tim.nextKnot / 1000000000 / 2 ^ 32)
  | 0x10C => w32 (c.tim.nextKnot % 1000000000)
  | 0x110 => w32 (periodNs c)
  | _ => rd c .knt off

def devWord (c : Chip) (off : Nat) : Word :=
  match off with
  | 0x048 => devSvc c
  | 0x04C => devMotion c 0
  | 0x050 => devMotion c 1
  | 0x054 => devMotion c 2
  | 0x058 => devMotion c 3
  | 0x05C => w32 (c.pwr.lastSave % 4 + flag c.pwr.notSaved 2)
  | 0x060 => w32 c.faultSeq.toNat
  | 0x064 => w32 ((c.clk.now - c.pwr.resetAt) / 1000000000)
  | 0x204 => spliceCnt c
  | _ => rd c .dev off

def secWord (c : Chip) (path : Path) (off : Nat) : Word :=
  match off with
  | 0x040 => secSta c
  | 0x044 => half Config.uid false
  | 0x048 => half Config.uid true
  | 0x050 => w32 (tabGet 0 c.sec.res (pathCode path))
  | _ =>
    if 0x060 ≤ off ∧ off < 0x070 then
      match c.sec.challenge with
      | some (v, _) => (v >>> (8 * (off - 0x060))).setWidth 32
      | none => 0
    else rd c .sec off

def dbgWord (c : Chip) (off : Nat) : Word :=
  let d := c.dbg
  match off with
  | 0x040 => w32 d.level
  | 0x044 => w32 (d.level + flag d.byToken 2 + flag d.issuer 3)
  | 0x048 => w32 (min 131071 (expirySecs c))
  | 0x058 => haltSta c
  | _ => rd c .dbg off

/-- A block register as it reads, with no effect of the read. -/
def blockWord (c : Chip) (path : Path) (p : Page) (off : Nat) : Word :=
  match p with
  | .dev => devWord c off
  | .clk => if off = 0x040 then w32 (c.clk.running.toNat + c.clk.pll.toNat * 65536) else rd c .clk off
  | .pwr =>
    if off = 0x044 then pwrSta c
    else if off = 0x060 then
      w32 (match c.pwr.req with | some .hold => 1 | some .doze => 2 | some _ => 0 | none => match c.pwr.state with | .hold => 1 | .doze => 2 | _ => 0)
    else rd c .pwr off
  | .sec => secWord c path off
  | .dbg => dbgWord c off
  | .evt => if off = 0x040 then c.evt.pend.setWidth 32 else if off = 0x044 then (c.evt.pend >>> 32).setWidth 32 else rd c .evt off
  | .cmd => cmdWord c off
  | .net q => netWord c q.val off
  | .ycp => ycpWord c off
  | .hfr => hfrWord c off
  | .tim => timWord c path off
  | .knt => kntWord c off
  | .hit => hitWord c off
  | .cam => camWord c off
  | .axm n =>
    if 0x11C ≤ off ∧ off < 0x180 ∧ [0x1C, 0x20, 0x24, 0x28].contains (off % 0x40) then heldGet c path (pageBase p + off)
    else axmWord c n.val off
  | .grp g => grpWord c g.val off
  | .lpa n => lpaWord c path n.val off
  | .lpe e => lpeWord c e.val off
  | .mod n => modWord c n.val off
  | .bus b => busWord c b.val off
  | .fbk n => fbkWord c n.val off
  | .snl n => snlWord c n.val off
  | .adc k => adcWord c path k.val off
  | .sdf k => sdfWord c path k.val off
  | .fco k => fcoWord c k.val off
  | .dsp => dspWord c path off
  | .trc => trcWord c off
  | .fld => fldWord c off
  | .bly => blyWord c off
  | .mem => if off = 0x044 then memSta c else rd c .mem off
  | .kep => if off = 0x044 then w32 (flag c.keep.present 0 + flag (saveCapable c) 1 + flag c.pwr.saveSince.isSome 2) else rd c .kep off
  | .swt | .scb => rd c p off

/-! ### Reads that act -/

/-- The read of LPA_OBS_SEQ (R211). -/
def obsSeqRead (path : Path) (n : Nat) (c : Chip) : Chip × Word :=
  let x := loopAx c n
  let b := pageBase (lpaPage n) + 0x180
  let valid := obsValid c n
  (each (List.range 11) (fun i c => heldSet path (b + 4 * i) (if valid then x.obs.getD i 0 else 0) c) c, w32 (c.tim.sampleNo % 65536 + flag valid 16))

/-- The _LO read of a pair leaves the _HI half as the path's snapshot (R3, R4). -/
def takeSnap (path : Path) (v : Word) (c : Chip) : Chip := setPath path { pathSt c path with snap := v } c

/-- A block register read at its offset (0x040 to 0x7FF), with the effects the chapters give the read. -/
def blockRead (path : Path) (p : Page) (off : Nat) (hi : Bool) (r : Reg) (c : Chip) : Chip × Word :=
  match p, off with
  | .tim, 0x048 =>
    let (c1, v) := timNow path c
    (takeSnap path (heldGet c1 path (pageBase .tim + 0x04C)) c1, v)
  | .tim, 0x340 => announcePop path c
  | .ycp, 0x058 => orphanPop c
  | .dev, 0x200 => splicePop c
  | .mem, 0x050 => elogPop c
  | .axm n, 0x118 => latfPop path n.val 0 c
  | .axm n, 0x158 => latfPop path n.val 1 c
  | .lpa n, 0x04C => obsSeqRead path n.val c
  | .adc k, 0x200 => adcSeqRead path k.val c
  | .sdf k, 0x1FC => sdfSeqRead path k.val c
  | _, _ =>
    if p == .tim && r.name == "CAP_NS" then capPop path ((off - 0x0C0) / 16) c
    else if r.acc == .wo then (c, 0)
    else if r.pair then
      if hi then (c, (pathSt c path).snap)
      else (takeSnap path (blockWord c path p (off + 4)) c, blockWord c path p off)
    else (c, blockWord c path p off)

/-- A value in force as the active copies show it, by the offset of its shadow (R31): the register file's, the target and period of
knot 0, which are the frame's (R114), and the duties, which take no part in applies (R247). -/
def activeWord (c : Chip) (p : Page) (off : Nat) : Word :=
  match p with
  | .knt =>
    if off = 0x100 then setFld (act c p off) 1 0 2
    else if 0x100 < off ∧ off ≤ 0x110 then kntWord c off
    else act c p off
  | .mod n =>
    let d := (modSt c n.val).duty
    if off = 0x058 then w32 d.u else if off = 0x05C then w32 d.v else if off = 0x060 then w32 d.w else act c p off
  | _ => act c p off

/-- A register with an active copy: a shadowed one, or a duty (R31, R247). -/
def hasActive (p : Page) (off : Nat) (r : Reg) : Bool :=
  r.acc == .rws || (match p with | .mod _ => decide (0x058 ≤ off) && decide (off ≤ 0x060) | _ => false)

/-- A page register read. -/
def pageRead (path : Path) (p : Page) (off : Nat) (c : Chip) : Chip × Word :=
  if off < 0x040 then (c, headerWord c p off)
  else if 0x800 ≤ off then
    match findRow (pageRows p) (off - 0x800) with
    | some (r, hi) =>
      if !hasActive p (off - 0x800) r then (c, 0)
      else if r.pair && hi then (c, (pathSt c path).snap)
      else if r.pair then (takeSnap path (activeWord c p (off - 0x800 + 4)) c, activeWord c p (off - 0x800))
      else (c, activeWord c p (off - 0x800))
    | none => (c, 0)
  else
    match findRow (pageRows p) off with
    | some (r, hi) => blockRead path p off hi r c
    | none => (c, 0)

/-! ### The window -/

/-- What an offset of the window addresses (Table 2-1). -/
inductive Target where
  | page (p : Page) (off : Nat)
  | mem (r : Region) (addr : Nat)
  | nothing
deriving DecidableEq, Repr

/-- Filter-core memory within a core's 128 KiB: PM 64 KiB, DM0 and DM1 32 KiB each (R342). -/
def targetOf (off : Nat) : Target :=
  if off < 0x400000 then
    match pageOfNum (off / 0x1000) with
    | some p => .page p (off % 0x1000)
    | none => .nothing
  else if off < 0x500000 then .mem .core (off - 0x400000)
  else if off < 0x600000 then .mem .loop (off - 0x500000)
  else if 0x800000 ≤ off ∧ off < 0xB00000 then .mem .deck (off - 0x800000)
  else .nothing

/-- The fabric answers: the SYS clock runs and no save is under way; PCI Express also needs its own clock (R12, R16, R459). -/
def fabricUp (c : Chip) (path : Path) : Bool :=
  c.pwr.state != .save && !clkLost c .sys && !(path == .pcie && clkLost c .host)

/-- A 32-bit read of the window by a path. -/
def readWindow (path : Path) (off : Nat) (s : State) : State × ReadRes :=
  if off % 4 ≠ 0 then (s, .unassigned)
  else
    match targetOf off with
    | .nothing => (s, .unassigned)
    | .page p o =>
      let (c, v) := pageRead path p o s.chip
      ({ s with chip := c }, .ok v)
    | .mem r a =>
      let (s1, v) := readMem32 r a s
      (s1, match v with | some v => .ok v | none => .bad)

end Sys2Proof.Machine
end

