-- ==== Sys2Proof/Machine/RegWrite.lean ====
section
/-!
DEFINITION. Writes of the register window (R3, R4, R30 to R41): the checks every write passes, the reserved bits and encodings of
R40, and what each register's write does. One definition serves every path.
-/

namespace Sys2Proof.Machine

/-- How a 32-bit write of the window ends (R30, R41). -/
inductive WriteRes where
  | ok
  | unassigned
  | denied
deriving DecidableEq, Repr

/-- Table 15-2: the number of flows a base spans. -/
def srcSpan (off hi : Nat) : Nat := if off = 0x054 then 128 else if hi = 11 then 32 else 640

/-- A field whose new value is one of its reserved encodings keeps the old one (R40): the value that results, and whether any did. -/
def keepLegal (old new : Word) : List (Nat × Nat × List (Nat × Nat)) → Word × Bool
  | [] => (new, false)
  | (hi, lo, ok) :: t =>
    let r := keepLegal old new t
    let x := fld new hi lo
    if ok.any (fun q => decide (q.1 ≤ x) && decide (x ≤ q.2)) then r else (setFld r.1 hi lo (fld old hi lo), true)

/-- Fields whose range depends on more than a row states: the sources' flow spans (R367). -/
def moreLegal (p : Page) (off : Nat) : List (Nat × Nat × List (Nat × Nat)) :=
  match p with
  | .dsp => if off = 0x054 ∨ off = 0x058 then [(11, 0, [(0, 4096 - srcSpan off 11)]), (27, 16, [(0, 4096 - srcSpan off 27)])] else []
  | _ => []

/-- What a written word becomes (R40): reserved bits ignored, reserved encodings not taken; whether RSVD_WRITE is raised. -/
def cleanWord (mask old v : Word) (legal : List (Nat × Nat × List (Nat × Nat))) : Word × Bool :=
  let r := keepLegal old (v &&& mask) legal
  (r.1, r.2 || (v &&& ~~~mask) != 0)

/-- R191: a coefficient register of the loop whose value must be positive, and for VMOD and VEL_LPF at most 1.0. -/
def loopCoefOk (off : Nat) (v : Word) : Bool :=
  if off = 0x070 ∨ off = 0x098 ∨ off = 0x09C then decide (0 < coefVal v)
  else if off = 0x074 ∨ off = 0x094 then decide (0 < coefVal v) && decide (coefVal v ≤ 1)
  else true

/-- Table 16-1: whether a signal group has the source an INDEX and a FIELD name (R381). -/
def signalExists (g i f : Nat) : Bool :=
  match g with
  | 0 => true
  | 1 => decide (i < 160) && decide (f ≤ 2)
  | 2 => decide (i < 128) && decide (f ≤ 10)
  | 3 => decide (i < 128) && decide (f ≤ 1)
  | 4 => decide (i < 128) && decide (f ≤ 2)
  | 5 => decide (i < 16) && decide (f ≤ 7)
  | 6 => decide (i < 16) && f == 0
  | 7 => decide (i < 128) && decide (f ≤ 3)
  | 8 => decide (i < 128) && decide (f ≤ 2)
  | 9 => decide (i < 2) && f == 0
  | 10 => f == 0
  | 11 => decide (f ≤ 1)
  | _ => false

/-- A field that keeps its old value when a condition says its new one is reserved, and whether it did. -/
def keepFld (ok : Bool) (hi lo : Nat) (old : Word) (v : Word × Bool) : Word × Bool :=
  if ok then v else (setFld v.1 hi lo (fld old hi lo), true)

/-- R334: an OC_LO not below OC_HI is kept; an OC_HI that does not lie above the OC_LO so kept is kept too. -/
def keepWindow (old v : Word) : Word × Bool :=
  let w := keepFld (decide (signed 16 (fld v 31 16) < signed 16 (fld v 15 0))) 31 16 old (v, false)
  keepFld (decide (signed 16 (fld w.1 31 16) < signed 16 (fld w.1 15 0))) 15 0 old w

/-- The reserved encodings that rest on more than one field, or on the rest of the state: the loop's coefficients (R191), a compare's
OUTPUT on a virtual axis, its REPEAT mode while CMP_STEP is 0 (R178) and MOD_SPARE.CMP_PIN (R258), the SSI word's fields (R287), the comparator window (R334), the trace's signals
(R381), the publisher's PHASE below N (R95). The word that results keeps the fields concerned; the flag says whether any was kept. -/
def crossKeep (c : Chip) (p : Page) (off : Nat) (old v : Word) : Word × Bool :=
  match p with
  | .hfr =>
    if off = 0x040 then
      let w := keepFld (decide (fld v 11 8 ≤ fld v 7 4)) 11 8 old (v, false)
      keepFld (decide (fld w.1 11 8 ≤ fld w.1 7 4)) 7 4 old w
    else (v, false)
  | .axm n =>
    if 0x200 ≤ off ∧ off % 0x40 = 0 then
      keepFld (fld v 1 0 != 2 || rdPair c p (off + 0x10) != 0) 1 0 old (keepFld (decide (n.val < 128) || fld v 14 8 != 65) 14 8 old (v, false))
    else (v, false)
  | .lpa _ => if loopCoefOk off v then (v, false) else (old, true)
  | .mod n =>
    if off = 0x054 then keepFld (fld v 2 0 == 0 || isSpare c n.val (fld v 2 0 - 1)) 2 0 old (v, false) else (v, false)
  | .fbk _ =>
    if off = 0x088 ∧ fld v 5 0 < fld v 13 8 + fld v 21 16 then
      keepFld false 21 16 old (keepFld false 13 8 old (keepFld false 5 0 old (v, false)))
    else (v, false)
  | .sdf _ => if 0x084 ≤ off ∧ off < 0x184 ∧ off % 16 = 4 then keepWindow old v else (v, false)
  | .trc =>
    if 0x200 ≤ off ∧ off % 16 = 0 then keepFld (signalExists (fld v 3 0) (fld v 11 4) (fld v 15 12)) 15 0 old (v, false) else (v, false)
  | _ => (v, false)

/-- A 32-bit register's written value under every check of R40; the belay's parameter registers are exempt (R433). -/
def cleanReg (c : Chip) (path : Path) (p : Page) (off : Nat) (r : Reg) (v : Word) : Word × Bool :=
  if p == .bly && decide (0x100 ≤ off) then (v, false)
  else
    let old := blockWord c path p off
    -- read-only bits of a writable register are ignored and not reserved
    let a := cleanWord r.mask old (v &&& ~~~(r.ro &&& ~~~r.mask)) (r.legal ++ moreLegal p off)
    let w := crossKeep c p off old a.1
    (w.1, a.2 || w.2)

/-- R178: a CMP_STEP of 0 in REPEAT mode. -/
def zeroStep (c : Chip) (p : Page) (off : Nat) (v : DWord) : Bool :=
  match p with
  | .axm _ => decide (0x200 ≤ off) && off % 0x40 == 0x10 && fld (rd c p (off - 0x10)) 1 0 == 2 && v == 0
  | _ => false

/-- The outcome of one register's write: the state, and whether it was accepted (R39). -/
abbrev Wrote := State × Bool

/-- An accepted write with an effect on the chip. -/
def took (f : Chip → Chip) (s : State) : Wrote := (onChip f s, true)

/-- A write dropped with RSVD_WRITE. -/
def dropRsvd (p : Page) (s : State) : Wrote := (onChip (raise p 1) s, false)

/-- Accepted unless a condition refuses it. -/
def takeIf (ok : Chip → Bool) (f : Chip → Chip) (s : State) : Wrote :=
  let s1 := onChip f s
  (s1, ok s1.chip)

/-! ### Registers of the CMD page (R53 to R55) -/

def cmdWrite (off : Nat) (v : Word) (s : State) : Wrote :=
  let c := s.chip
  let r := (off - 0x040) / 0x20
  if off < 0x0C0 then
    match off % 0x20 with
    | 0x08 => took (sqSizeSet r v.toNat) s
    | 0x0C => took (fun c =>
        let c1 := if bit v 1 then sqResetRing r c else c
        wr .cmd off (v &&& 1) c1) s
    | 0x10 =>
      let t := v.toNat
      takeIf (fun c1 => sqState c r == 1 && sqState c1 r == 1 && decide (t < sqSize c r)) (sqDoorbell r t) s
    | _ => took (wr .cmd off v) s
  else match off with
    | 0x0C8 => took (cqSizeSet v.toNat) s
    | 0x0CC => took (fun c =>
        let c1 := wr .cmd off v c
        if bit v 0 then cqEnabled c1 else c1) s
    | 0x0D0 => takeIf (fun c1 => decide (c1.cmd.cqHead = v.toNat)) (cqHeadWrite v.toNat) s
    | _ => took (wr .cmd off v) s

/-- SQ_BASE and CQ_BASE (R55). -/
def cmdPair (off : Nat) (v : DWord) (s : State) : Wrote :=
  let c := s.chip
  let on := if off = 0x0C0 then cqEn c else sqEn c ((off - 0x040) / 0x20)
  if on then (onChip (raise .cmd 13) s, false) else took (wrPair .cmd off v) s

/-! ### Registers of the other pages -/

def netWrite (q off : Nat) (v : Word) (c : Chip) : Chip :=
  match off with
  | 0x05C => mdioWrite q v c
  | 0x100 =>
    let was := gclEn c q
    let c1 := wr (netPage q) off v c
    if bit v 0 && !was then gclStart q c1 else c1
  | _ => wr (netPage q) off v c

def ycpWrite (off : Nat) (v : Word) (c : Chip) : Chip :=
  if off = 0x040 then
    let c1 := wr .ycp off v c
    if bit v 0 then ycpRun c1
    else
      let c2 := closeAll c1
      if (hdr c2 .ycp).state = .run then setState .ycp .ready c2 else c2
  else if 0x200 ≤ off ∧ off < 0x280 ∧ off % 0x20 = 0x18 then
    if bit v 0 then sesCloseWrite ((off - 0x200) / 0x20) c else c
  else wr .ycp off v c

def hfrWrite (off : Nat) (v : Word) (c : Chip) : Chip :=
  if 0x100 ≤ off ∧ off < 0x200 ∧ off % 16 = 0 then
    let j := (off - 0x100) / 16
    subCtlWritten j (rd c .hfr off) v (wr .hfr off v c)
  else wr .hfr off v c

def timWrite (off : Nat) (v : Word) (c : Chip) : Chip :=
  match off with
  | 0x040 => timCtlWritten (wr .tim off v c)
  | 0x05C =>
    let c1 := wr .tim off v c
    if c1.tim.servo = .free ∨ c1.tim.servo = .holdover then rateFromI c1 else c1
  | 0x078 => servoSample 3 none (v.toInt : Rat) c
  | 0x08C => timSet v c
  | _ => wr .tim off v c

/-- A shadowed register: the shadow takes the value and SHADOW_PENDING sets (R38). -/
def shadowWrite (p : Page) (off : Nat) (v : Word) (c : Chip) : Chip :=
  modHdr p (fun h => { h with shadowPending := true }) (wr p off v c)

def shadowPair (p : Page) (off : Nat) (v : DWord) (c : Chip) : Chip :=
  modHdr p (fun h => { h with shadowPending := true }) (wrPair p off v c)

/-- A KN_ shadow written waits for the knots' next copy (R38, R113). -/
def knWrite (f : Chip → Chip) (c : Chip) : Chip :=
  let c1 := f c
  { c1 with knt := { c1.knt with knWritten := true } }

/-- KNT: knot 0's target and period are the frame's, and its MODE stays PERIODIC (R114); an invalid KN_T_NS is ignored (R7). -/
def kntWrite (off : Nat) (v : Word) (s : State) : Wrote :=
  if off = 0x048 then took (fun c => wr .knt off (rd c .knt off &&& ~~~v) c) s
  else if off = 0x040 ∨ off = 0x044 then
    took (fun c => let c1 := shadowWrite .knt off v c; { c1 with knt := { c1.knt with frameWritten := true } }) s
  else if 0x104 ≤ off ∧ off ≤ 0x110 then dropRsvd .knt s
  else if off = 0x100 then took (knWrite (shadowWrite .knt off (setFld v 1 0 2))) s
  else if off % 0x20 = 0x0C ∧ 999999999 < fld v 29 0 then (s, false)
  else took (knWrite (shadowWrite .knt off v)) s

def axmWrite (n off : Nat) (v : Word) (c : Chip) : Chip :=
  let p := axmPage n
  if off = 0x12C ∨ off = 0x16C then
    let l := (off - 0x12C) / 0x40
    if bit v 0 then setLat n l { latSt (axis c n) l with armed := true } c else c
  else if 0x200 ≤ off ∧ off < 0x300 ∧ off % 0x40 = 0 then
    let u := (off - 0x200) / 0x40
    let c1 := shadowWrite p off v c
    setCmp n u { cmpSt (axis c1 n) u with written := true } c1
  else shadowWrite p off v c

def axmPair (n off : Nat) (v : DWord) (c : Chip) : Chip :=
  let c1 := shadowPair (axmPage n) off v c
  if 0x200 ≤ off ∧ off < 0x300 ∧ off % 0x40 = 8 then
    let u := (off - 0x200) / 0x40
    setCmp n u { cmpSt (axis c1 n) u with written := true } c1
  else c1

def lpaWrite (n off : Nat) (v : Word) (c : Chip) : Chip :=
  let c1 := wr (lpaPage n) off v c
  if 0x100 ≤ off ∧ off < 0x11C then setLoop n { loopAx c1 n with settling := 16 } c1 else c1

def busWrite (b off : Nat) (v : Word) (c : Chip) : Chip :=
  if off = 0x078 then setBus b { busSt c b with vMax := (busSt c b).v } c else wr (busPage b) off v c

/-- ADC_CAL_CMD: START and CAL_ALL (R324, R325). -/
def calCmdWrite (k : Nat) (v : Word) (s : State) : Wrote :=
  if bit v 1 ∧ k = 0 then
    let refused := (List.range 16).any (fun j => !(sampleSlots s.chip j).isEmpty || !(knotSlots s.chip j).isEmpty)
    (onChip calAllStart s, !refused)
  else if bit v 0 then
    let r := calRequest k false s.chip
    ({ s with chip := r.1 }, r.2)
  else (s, true)

/-- FCO_DOORBELL sets the DOORBELL cause of the core (R358). -/
def doorbell (k : Nat) (c : Chip) : Chip := modCore k (fun x => { x with cause := x.cause ||| 2 }) c

/-- A cancel waits for step 3 of the next dispatcher cycle (R377). -/
def cancelAsk (path : Path) (byFlow : Bool) (v : Nat) (c : Chip) : Chip :=
  { c with dsp := { c.dsp with cancels := c.dsp.cancels ++ [(pathCode path, byFlow, v)] } }

def dspWrite (path : Path) (off : Nat) (v : Word) (s : State) : Wrote :=
  let c := s.chip
  let b := pageBase .dsp
  if 0x080 ≤ off ∧ off < 0x0A0 then
    let s1 := onChip (heldSet path (b + off) v) s
    if off = 0x09C then took (submitItem path) s1 else (s1, true)
  else match off with
    | 0x040 => took (drainWrite v) s
    | 0x0A8 => took (cancelAsk path false v.toNat) s
    | 0x0AC => took (cancelAsk path true (fld v 11 0)) s
    | 0x0C0 => if c.dsp.cqReserved = 0 then took (wr .dsp off v) s else dropRsvd .dsp s
    | 0x0C4 => if c.dsp.cqReserved = 0 then took (dspCqSize v) s else dropRsvd .dsp s
    | 0x0C8 => takeIf (fun c1 => decide (c1.dsp.cqHead = v.toNat)) (dspCqHeadWrite v.toNat) s
    | 0x0D0 => took (heldSet path (b + off) v) s
    | 0x0D4 => (flowCfg (flowSel c path) v s, true)
    | 0x04C | 0x044 | 0x050 | 0x054 | 0x058 => took (shadowWrite .dsp off v) s
    | _ => took (wr .dsp off v) s

def trcWrite (off : Nat) (v : Word) (s : State) : Wrote :=
  let c := s.chip
  match off with
  | 0x040 =>
    if c.trc.state ≠ .stopped ∧ bit v 0 ≠ bit (rd c .trc 0x040) 0 then
      took (fun c => raise .trc 1 (shadowWrite .trc off (setFld v 0 0 (fld (rd c .trc 0x040) 0 0)) c)) s
    else took (shadowWrite .trc off v) s
  | 0x050 => took (coilResize v.toNat) s
  | 0x058 => takeIf (fun c1 => decide (c1.trc.rp = v.toNat)) (coilRelease v.toNat) s
  | 0x05C => took (wr .trc off v) s
  | 0x068 => took (fun c => if bit v 0 then modTrc (fun t => { t with forced := true }) c else c) s
  | 0x06C => took (fun c => trcMarkRec 3 0 0 (BitVec.ofNat 16 (fld v 15 0)) (nsStamp (timeNs c)) c) s
  | 0x090 => took (calCmd v) s
  | _ => took (shadowWrite .trc off v) s

/-- A write of an FLD register: those of the field die travel in CFG slots (R405). -/
def fldWrite (off : Nat) (v : Word) (c : Chip) : Chip :=
  match off with
  | 0x070 => pushCfg false off v { c with fld := { c.fld with short := c.fld.short &&& ~~~(v.setWidth 64) } }
  | 0x074 => pushCfg false off v { c with fld := { c.fld with short := c.fld.short &&& ~~~(v.setWidth 64 <<< 32) } }
  | 0x058 =>
    let on : Byte := v.setWidth 8
    let c1 := wr .fld off v { c with fld := { c.fld with groupOver := c.fld.groupOver &&& ~~~on } }
    pushCfg false off v (if c1.fld.groupOver = 0 then endCond .fld 0xB3 c1 else c1)
  | 0x04C | 0x050 => pushCfg false off v (wr .fld off v c)
  | _ => if 0x100 ≤ off then pushCfg false off v (wr .fld off v c) else wr .fld off v c

/-- A write of a BLY register (R433 to R435): parameters as written, a commit request with its key, RESTART. -/
def blyWrite (off : Nat) (v : Word) (c : Chip) : Chip :=
  match off with
  | 0x054 =>
    pushCfg true off v { c with fld := { c.fld with
      commit := some (v, c.fld.belay.parVer)
      commitAck := none
      commitSeen := false
      commitRefused := false } }
  | 0x058 => if bit v 0 then pushCfg true off v c else c
  | _ => pushCfg true off v (wr .bly off v c)

def memWrite (off : Nat) (v : Word) (c : Chip) : Chip :=
  match off with
  | 0x040 => modMemc (fun m => { m with initGiB := min m.initGiB (fld v 3 0) }) (wr .mem off v c)
  | 0x05C => memInject v c
  | _ => wr .mem off v c

def pwrWrite (off : Nat) (v : Word) (s : State) : Wrote :=
  match off with
  | 0x060 =>
    let q : Power := match fld v 1 0 with | 1 => .hold | 2 => .doze | _ => .run
    let refused := q != .run && !axesQuiet s.chip
    (onChip (pwrRequest q) s, !refused)
  | 0x040 =>
    let s1 := onChip (wr .pwr off (v &&& 3)) s
    if bit v 2 ∧ fld v 31 16 = 0x5752 then (warmReset causeReg s1, false)
    else (s1, true)
  | _ => took (wr .pwr off v) s

def secWrite (path : Path) (off : Nat) (v : Word) (s : State) : Wrote :=
  if off = 0x04C then takeIf (secTaken path) (secCmd path v) s
  else if 0x080 ≤ off ∧ off < 0x0A0 then
    if s.chip.sec.life = 0 then took (modSec (fun x => { x with
      ownerHash := x.ownerHash ||| (1#8 <<< ((off - 0x080) / 4))
      ownerWords := tabSet 0 x.ownerWords ((off - 0x080) / 4) v })) s else (s, false)
  else if 0x200 ≤ off then took (heldSet path (pageBase .sec + off) v) s
  else took (wr .sec off v) s

def dbgWrite (path : Path) (off : Nat) (v : Word) (s : State) : Wrote :=
  match off with
  | 0x040 => takeIf (fun c => decide (c.dbg.level = fld v 1 0)) (writeLevel path v) s
  | 0x054 => takeIf (fun _ => decide (2 ≤ s.chip.dbg.level) && (haltSelected s.chip).isSome) (haltCmd v) s
  | 0x0A0 => takeIf (fun _ => decide (2 ≤ s.chip.dbg.level)) (coreStep v) s
  | _ =>
    if 0x080 ≤ off ∧ off < 0x0A0 then
      if 2 ≤ s.chip.dbg.level then took (wr .dbg off v) s else (s, false)
    else took (wr .dbg off v) s

/-- The write of a 32-bit block register whose checks have passed, its value cleaned under R40. -/
def blockWrite (path : Path) (p : Page) (off : Nat) (r : Reg) (v : Word) (s : State) : Wrote :=
  match p with
  | .cmd => cmdWrite off v s
  | .net q =>
    -- a base time with invalid nanoseconds is ignored (R7)
    if off = 0x10C ∧ 999999999 < fld v 29 0 then (s, false)
    else if r.acc = .rws then took (shadowWrite p off v) s
    else took (netWrite q.val off v) s
  | .ycp => took (ycpWrite off v) s
  | .hfr => took (hfrWrite off v) s
  | .tim => if off = 0x08C ∧ 999999999 < fld v 29 0 then (s, false) else took (timWrite off v) s
  | .knt => kntWrite off v s
  | .axm n => took (axmWrite n.val off v) s
  | .lpa n => if r.acc = .rws then took (shadowWrite p off v) s else took (lpaWrite n.val off v) s
  | .bus b => if r.acc = .rws then took (shadowWrite p off v) s else took (busWrite b.val off v) s
  | .mod _ =>
    if off = 0x044 then (if (hdr s.chip p).en then dropRsvd p s else took (wr p off v) s) else took (shadowWrite p off v) s
  | .snl n =>
    if off = 0x0A8 then
      if bit v 0 then (onChip (snlTest n.val) s, snlTestOk n.val s.chip) else (s, true)
    else if r.acc = .rws then took (shadowWrite p off v) s
    else took (wr p off v) s
  | .adc k =>
    if off = 0x048 then calCmdWrite k.val v s
    else if 0x100 ≤ off ∧ off < 0x140 ∧ bit (rd s.chip p off) 30 then dropRsvd p s
    else took (shadowWrite p off v) s
  | .fco k => if off = 0x05C then took (fun c => if bit v 0 then doorbell k.val c else c) s else took (wr p off v) s
  | .dsp => dspWrite path off v s
  | .trc => trcWrite off v s
  | .fld => took (fldWrite off v) s
  | .bly => took (blyWrite off v) s
  | .mem => took (memWrite off v) s
  | .kep =>
    if off = 0x050 then (if saveBaseOk s.chip v then took (wr p off v) s else dropRsvd p s) else took (wr p off v) s
  | .pwr => pwrWrite off v s
  | .cam =>
    if s.chip.hits.any (fun h => h.2.cfg.kind == .cam && h.2.state != .free) then (onChip (raise p 11) s, false) else took (wr p off v) s
  | .clk => took (fun c => wr p off (rd c p off &&& ~~~v) c) s
  | .sec => secWrite path off v s
  | .dbg => dbgWrite path off v s
  | _ => if r.acc = .rws then took (shadowWrite p off v) s else took (wr p off v) s

/-- The commit of a pair (R3). -/
def blockPair (p : Page) (off : Nat) (r : Reg) (v : DWord) (s : State) : Wrote :=
  match p with
  | .cmd => cmdPair off v s
  | .axm n => took (axmPair n.val off v) s
  | .fbk n =>
    if r.acc = .rws then took (shadowPair p off v) s
    else if (axis s.chip n.val).state = .disabled then took (wrPair p off v) s
    else dropRsvd p s
  | .trc => if s.chip.trc.state = .stopped then took (wrPair p off v) s else dropRsvd p s
  | .knt => if off = 0x104 then dropRsvd p s else took (knWrite (shadowPair p off v)) s
  | _ => if r.acc = .rws then took (shadowPair p off v) s else took (wrPair p off v) s

/-! ### The window -/

/-- The header registers (Tables 2-2 to 2-10). Reserved bits raise RSVD_WRITE (R40). -/
def headerWrite (p : Page) (off : Nat) (v : Word) (s : State) : State :=
  let rsvd (mask : Word) : State → State := onChip (raiseIf ((v &&& ~~~mask) != 0) p 1)
  match off with
  | 0x008 => rsvd 0x115 (ctlWrite p v s)
  | 0x010 => onChip (evtClear p v) s
  | 0x014 => onChip (evenWrite p v) s
  | 0x018 => onChip (evSet p v) s
  | 0x01C => rsvd 0x3F3F (onChip (vecWrite p v) s)
  | 0x020 => if bit v 0 then onChip (fun c => (fltClear p c).1) s else s
  | 0x028 => onChip (applyAsk p v) s
  | 0x02C => rsvd 0xF (onChip (ownerWrite p v) s)
  | 0x00C => rsvd 0xF0F s
  | 0x030 | 0x034 | 0x038 | 0x03C => rsvd 0 s
  | _ => s

/-- A block register written by a path that may write the page: the page reset (R34), undefined offsets (R32), read-only registers, the
staging latch of a pair (R3), the seal (R35) and reserved bits (R40); an accepted write counts (R39). -/
def blockStore (path : Path) (p : Page) (off : Nat) (v : Word) (s : State) : State :=
  let c := s.chip
  if (hdr c p).resetSince.isSome then onChip (modHdr p (fun h => { h with resetDropped := true })) s
  else
    match (if off < 0x800 then findRow (pageRows p) off else none) with
    | none => onChip (raise p 1) s
    | some (r, hi) =>
      if r.acc = .ro then
        -- read-only: the write is ignored; a duty (R247) and reserved bits raise RSVD_WRITE
        onChip (raiseIf (hasActive p off r || (v &&& ~~~(if hi then r.hiMask else r.mask)) != 0) p 1) s
      else if r.acc = .rwl ∧ (hdr c p).sealedBit then onChip (raise p 3) s
      else
        let w : State × Bool × Bool :=
          if r.pair then
            let off := if hi then off - 4 else off
            let st := (pathSt c path).stage
            let a := cleanWord r.mask (rd c p off) st []
            let b := cleanWord r.hiMask (rd c p (off + 4)) v r.legal
            if zeroStep c p off (joinHalves b.1 a.1) then (s, false, true)
            else
              let o := blockPair p off r (joinHalves b.1 a.1) s
              (o.1, o.2, a.2 || b.2)
          else
            let a := cleanReg c path p off r v
            -- a reserved ring size leaves the ring, and a resize that waits, as they are (R40, R55)
            let o := if p = .cmd ∧ (off % 0x20 = 8) ∧ off < 0x0D0 ∧ a.1 ≠ v &&& r.mask then (s, true) else blockWrite path p off r a.1 s
            (o.1, o.2, a.2)
        onChip (fun c => raiseIf w.2.2 p 1 (if w.2.1 then countWrite p c else c)) w.1

/-- Whether a write only fills the path's staging latch (R3). -/
def isStaging (p : Page) (off : Nat) : Bool :=
  decide (0x040 ≤ off) && decide (off < 0x800) &&
  (match findRow (pageRows p) off with
   | some (r, hi) => r.pair && !hi && r.acc != .ro
   | none => false)

/-- A page register written by a path (R41). -/
def pageWrite (path : Path) (p : Page) (off : Nat) (v : Word) (s : State) : State × WriteRes :=
  let h := hdr s.chip p
  if isStaging p off then (onChip (fun c => setPath path { pathSt c path with stage := v } c) s, .ok)
  else if h.owner ≠ 0 ∧ h.owner ≠ pathCode path then (onChip (raise p 2) s, .denied)
  else if off < 0x040 then (headerWrite p off v s, .ok)
  else (blockStore path p off v s, .ok)

/-- A core's memory may be written by a host path while its page is OFF, or under debug halt at STEER or FACTORY (R342). -/
def coreOpen (c : Chip) (k : Nat) : Bool :=
  (hdr c (fcoPage k)).state == .off || ((core c k).halted && decide (2 ≤ c.dbg.level))

/-- A memory window written by a path (R30, R342, R356). A write to PM invalidates the repeat cache. -/
def windowStore (path : Path) (r : Region) (a : Nat) (v : Word) (s : State) : State × WriteRes :=
  match r with
  | .core =>
    let k := a / 0x20000
    match path with
    | .core _ => (s, .denied)
    | _ =>
      if coreOpen s.chip k then
        let s1 := writeMem32 r a v s
        (if a % 0x20000 < 0x10000 then onChip (modCore k (fun x => { x with cache := none })) s1 else s1, .ok)
      else (s, .unassigned)
  | .loop => if 2 ≤ s.chip.dbg.level then (writeMem32 r a v s, .ok) else (s, .unassigned)
  | _ => (writeMem32 r a v s, .ok)

/-- A 32-bit write of the window by a path. -/
def writeWindow (path : Path) (off : Nat) (v : Word) (s : State) : State × WriteRes :=
  if off % 4 ≠ 0 then (s, .unassigned)
  else
    match targetOf off with
    | .nothing => (s, .unassigned)
    | .page p o => pageWrite path p o v s
    | .mem r a => windowStore path r a v s

/-! ### Register commands -/

/-- A write command of a path: nothing happens while the fabric is down; the end is recorded (R30, R41). -/
def regWrite (path : Path) (off : Nat) (v : Word) (s : State) : State :=
  if !fabricUp s.chip path then s
  else
    let r := writeWindow path off v s
    onChip (emit (.regWrite path off (r.2 != .unassigned))) r.1

/-- A read command of a path. An uncorrectable word completes a PCI Express read poisoned, which AER reports (R445). -/
def regRead (path : Path) (off : Nat) (s : State) : State :=
  if !fabricUp s.chip path then s
  else
    let r := readWindow path off s
    onChip (emit (.regRead path off (match r.2 with | .ok v => some v | _ => none)))
      (if r.2 = .bad ∧ path = .pcie then onChip (emit (.aer .poisoned)) r.1 else r.1)

/-! ### Forms of a BAR 0 access (R30) -/

/-- The memory window an offset lies in. -/
def windowOf (off : Nat) : Option Region :=
  match targetOf off with
  | .mem r _ => some r
  | _ => none

/-- A PCI Express access of `n` DWs is performed: all byte enables are set, and it is one DW, or no more than `cap` DWs of one memory
window. -/
def bar0Ok (off n cap : Nat) (full : Bool) : Bool :=
  full && (n == 1 || (decide (n ≤ cap) && (windowOf off).isSome && windowOf off == windowOf (off + 4 * (n - 1))))

/-- Consecutive 32-bit writes in ascending address order. -/
def regWrites (path : Path) : Nat → List Word → State → State
  | _, [], s => s
  | off, v :: t, s => regWrites path (off + 4) t (regWrite path off v s)

/-- Consecutive 32-bit reads in ascending address order. -/
def regReads (path : Path) : Nat → Nat → State → State
  | 0, _, s => s
  | n + 1, off, s => regReads path n (off + 4) (regRead path off s)

/-- A write transaction: `more` are its further DWs and `full` says that every byte enable is set, which only PCI Express can vary. A
form that R30 does not perform is dropped and reported through AER. -/
def writeAccess (path : Path) (off : Nat) (v : Word) (more : List Word) (full : Bool) (s : State) : State :=
  if path ≠ .pcie then regWrite path off v s
  else if bar0Ok off (more.length + 1) 64 full then regWrites path off (v :: more) s
  else if fabricUp s.chip path then onChip (emit (.aer .unsupported)) s else s

/-- A read transaction of `1 + more` DWs. A form that R30 does not perform completes as an unsupported request. -/
def readAccess (path : Path) (off more : Nat) (full : Bool) (s : State) : State :=
  if path ≠ .pcie then regRead path off s
  else if bar0Ok off (more + 1) 128 full then regReads path (more + 1) off s
  else if fabricUp s.chip path then onChip (emit (.regRead path off none)) s else s

/-- A write of a register of a page. -/
def regPage (path : Path) (p : Page) (off : Nat) (v : Word) (s : State) : State := regWrite path (pageBase p + off) v s

end Sys2Proof.Machine
end

