-- ==== Sys2Proof/Machine/CoreExt.lean ====
section
/-!
DEFINITION. The external accesses of the filter cores (R356, R357): loads that stall the core, stores posted into a buffer of eight.
-/

namespace Sys2Proof.Machine

/-- The window offset of a class 4 access, `none` outside the external space (Table 14-1). -/
def extOff (x : CoreSt) (w : Word) : Option Nat :=
  let a := (dReg x (fld w 26 23) + BitVec.ofInt 32 (signed 16 (fld w 15 0))).toNat
  if 0x01000000 ≤ a ∧ a < 0x02000000 then some (a - 0x01000000) else none

/-- A store to a sealed field, which is a denial for a core (R357). -/
def sealDrop (c : Chip) (off : Nat) : Bool :=
  match targetOf off with
  | .page p o =>
    (hdr c p).sealedBit && (match findRow (pageRows p) o with | some (r, _) => r.acc == .rwl | none => false)
  | _ => false

/-- The oldest posted store of a core is performed on its path. -/
def drainStore (k : Nat) (s : State) : State :=
  match (core s.chip k).stores with
  | [] => s
  | (off, v) :: t =>
    let path : Path := .core (Fin.ofNat 8 k)
    if !fabricUp s.chip path then s
    else
      let sealed_ := sealDrop s.chip off
      let r := writeWindow path off v (onChip (modCore k (fun x => { x with stores := t })) s)
      if r.2 = .denied ∨ sealed_ then coreRefused k false off r.1
      else if r.2 = .unassigned then coreRefused k true off r.1
      else r.1

/-- Every posted store, at most the eight of the buffer. -/
def drainStores (k : Nat) (s : State) : State := eachState (List.range 8) (fun _ s => drainStore k s) s

def isExt (store : Bool) (w : Word) : Bool := cls w == 4 && bit w 27 == store

/-- EXTERNAL_STORE: posted while the buffer has room; on a full buffer the core stalls at the store. -/
def doExtStore (k : Nat) (w : Word) (s : State) : State :=
  let x := core s.chip k
  match extOff x w with
  | none => coreFault k 0x91 s
  | some off =>
    if 8 ≤ x.stores.length then onChip (modCore k (fun x => { x with cycles := (x.cycles + 1) % 2 ^ 64 })) s
    else retireS k {} (fun x => { x with stores := x.stores ++ [(off, dReg x (fld w 19 16))] }) s

/-- EXTERNAL_LOAD: the core stalls until data returns. -/
def doExtLoad (k : Nat) (w : Word) (s : State) : State :=
  match extOff (core s.chip k) w with
  | none => coreFault k 0x91 s
  | some off => onChip (modCore k (fun x => { x with wait := .load (fld w 19 16) off s.chip.clk.now })) s

/-- Cycles of the SYS clock (1.25 ns) that a load has stalled, at least the 20 of R357. -/
def loadCycles (since now : Nat) : Nat := max 20 ((now - since) * 4 / 5)

/-- EXTERNAL_LOAD_RETURN: the stores posted before it are performed first (program order), then the read. -/
def extReturn (k : Nat) (timeout : Bool) (s : State) : State :=
  match (core s.chip k).wait with
  | .load d off since =>
    if !fabricUp s.chip (.core (Fin.ofNat 8 k)) then s
    else
      let n := loadCycles since s.chip.clk.now
      let finish (v : Word) (s : State) : State := retireS k { cycles := n } (fun x => setD d v { x with wait := .none }) s
      let refused (s : State) : State :=
        let s1 := coreRefused k true off s
        match (core s1.chip k).wait with
        | .load _ _ _ => finish 0 s1
        | _ => s1
      let s1 := drainStores k s
      match (core s1.chip k).wait with
      | .load _ _ _ =>
        if timeout then refused s1
        else
          match readWindow (.core (Fin.ofNat 8 k)) off s1 with
          | (s2, .ok v) => finish v s2
          | (s2, _) => refused s2
      | _ => s1
  | _ => s

end Sys2Proof.Machine
end

