-- ==== Sys2Proof/Machine/HostCmd.lean ====
section
/-!
DEFINITION. Commands from their acceptance to the point where they take effect (chapter 3): the layouts of Table 3-7, the checks of
Table 3-8, the order of R64 and R65, and what each command starts.
-/

namespace Sys2Proof.Machine

/-! ### Submission entries (Tables 3-2 and 3-7) -/

/-- Bytes `i` to `i + n − 1` of an entry. -/
def entField (e : BitVec 512) (i n : Nat) : Nat := fld e (8 * (i + n) - 1) (8 * i)

def entD (e : BitVec 512) (i : Nat) : DWord := BitVec.ofNat 64 (entField e i 8)

def entW (e : BitVec 512) (i : Nat) : Word := BitVec.ofNat 32 (entField e i 4)

def entB (e : BitVec 512) (i : Nat) : Byte := BitVec.ofNat 8 (entField e i 1)

/-- The 64-bit words of an operand buffer as the command reads them; a buffer too short for it counts as a read error. -/
def bufWords (n : Nat) (b : Option (List DWord)) : Option (List DWord) :=
  match b with
  | some l => if n ≤ l.length then some (l.take n) else none
  | none => none

/-- The command of an entry, whether one of its reserved bits is set, and whether an operand fails a check that only the entry
shows: the alignment of a list or of a node source. -/
def decodeEntry (f : Fetched) : Option (HostOp × Bool × Bool) :=
  let e := f.entry
  let t := entW e 4
  let zero (i n : Nat) : Bool := entField e i n != 0
  let pos : DWord × DWord × DWord × DWord × DWord := (entD e 20, entD e 28, entD e 36, entD e 44, entD e 52)
  match (entB e 0).toNat with
  | 0x01 =>
    let count := BitVec.ofNat 16 (entField e 28 2)
    some (.regBatch (bufWords count.toNat f.buf) count (bit (entB e 30) 0), zero 31 33 || entField e 30 1 / 2 != 0, entField e 20 8 % 8 != 0)
  | 0x10 => some (.moveAbs t pos.1 pos.2.1 pos.2.2.1 pos.2.2.2.1 pos.2.2.2.2, zero 60 4, false)
  | 0x11 => some (.moveRel t pos.1 pos.2.1 pos.2.2.1 pos.2.2.2.1 pos.2.2.2.2, zero 60 4, false)
  | 0x12 => some (.moveVel t pos.1 pos.2.2.1 pos.2.2.2.1 pos.2.2.2.2, zero 28 8 || zero 60 4, false)
  | 0x18 => some (.stop t (entB e 20), zero 21 43, false)
  | 0x19 => some (.resume t, zero 20 44, false)
  | 0x1A => some (.home t (entB e 20) (entB e 21) (entD e 24) (entD e 32) (entD e 40) (entD e 48), zero 22 2 || zero 56 8, false)
  | 0x1B => some (.enable t (entB e 20), zero 21 43, false)
  | 0x20 =>
    let count := entB e 28
    some (.groupMove t (bufWords count.toNat f.buf) count (bit (entB e 29) 0) (entD e 32) (entD e 40) (entD e 48) (entD e 56),
      zero 30 2 || entField e 29 1 / 2 != 0, false)
  | 0x28 => some (.hitchSet t (BitVec.ofNat 256 (entField e 20 32)), zero 52 12, false)
  | 0x29 => some (.hitchRelease t (bit (entB e 20) 0), zero 21 43 || entField e 20 1 / 2 != 0, false)
  | 0x30 => some (.camLoad (entW e 28) (entW e 32), zero 36 28, entField e 20 8 % 16 != 0)
  | 0x31 => some (.camVerify (entW e 28) (entW e 32) (entW e 36), zero 20 8 || zero 40 24, false)
  | 0x38 => some (.fcoLoad t (entW e 28), zero 32 32, false)
  | 0x40 => some (.traceStart, zero 20 44, false)
  | 0x41 => some (.traceStop, zero 20 44, false)
  | 0x48 => some (.faultClear t, zero 20 44, false)
  | 0x50 => some (.saveTest, zero 20 44, false)
  | _ => none

/-- An operation whose TARGET Table 3-7 gives as 0. -/
def zeroTarget : HostOp → Bool
  | .regBatch .. | .camLoad .. | .camVerify .. | .traceStart | .traceStop | .saveTest => true
  | _ => false

/-! ### The checks at acceptance (Table 3-8, orders 1 to 8) -/

/-- The page that FAULT_CLEAR names, by its offset in the window. -/
def clearPage (w : Word) : Option Page := if w.toNat % 0x1000 = 0 then pageOfNum (w.toNat / 0x1000) else none

/-- TARGET in range and of the right kind. -/
def targetOk : HostOp → Bool
  | .moveAbs n .. | .moveRel n .. | .moveVel n .. | .stop n _ | .resume n | .home n .. | .enable n _ => decide (n.toNat < 160)
  | .groupMove g .. => decide (g.toNat < 32)
  | .hitchSet h _ | .hitchRelease h _ => decide (h.toNat < 256)
  | .fcoLoad m _ => decide (m.toNat < 256)
  | .faultClear p => (clearPage p).isSome
  | _ => true

/-- Reserved bits of a command beyond those an entry's own layout shows: HOME FLAGS [7:2] and the hitch record (Tables 6-5, 7-2). -/
def opReserved : HostOp → Bool
  | .home _ _ flags .. => decide (4 ≤ flags.toNat)
  | .hitchSet _ r => hitReserved r
  | _ => false

/-- Motion that SCRAPPED refuses (Table 21-1). -/
def motionOp : HostOp → Bool
  | .enable _ en => en == 1
  | .moveAbs .. | .moveRel .. | .moveVel .. | .groupMove .. | .home .. | .hitchSet .. | .hitchRelease .. => true
  | _ => false

/-- The lifecycle or the debug level refuses the command (R470, R477). -/
def levelDenies (c : Chip) (op : HostOp) : Bool :=
  let resume : Bool := match op with | .resume _ => true | _ => false
  (c.sec.life == 3 && (motionOp op || match op with | .enable .. => true | _ => false)) ||
  (c.dbg.level == 3 && (motionOp op || resume))

/-- The target pages whose ownership is judged (R41, R59). -/
def targetPages (op : HostOp) : List Page :=
  match op with
  | .moveAbs n .. | .moveRel n .. | .moveVel n .. | .stop n _ | .resume n | .home n .. | .enable n _ => [axmPage n.toNat]
  | .groupMove g .. => [grpPage g.toNat]
  | .hitchSet .. | .hitchRelease .. => [.hit]
  | .camLoad .. | .camVerify .. => [.cam]
  | .fcoLoad m _ => ((List.finRange 8).filter (fun k => m.getLsbD k.val)).map .fco
  | .traceStart | .traceStop => [.trc]
  | .faultClear p => (clearPage p).toList
  | .regBatch .. | .saveTest => []

/-- The owner code a command's source counts as (Table 2-10): the rings are the PCI Express path. -/
def srcOwner : CmdSrc → Nat
  | .ring _ _ => 1
  | .ycp s _ => 2 + s.val

/-- A start time in units of 2^-16 ns. -/
def start16 (t : Stamp) : Nat := stampNs t * 65536 + t.frac % 65536

/-- The present device time in the same unit. -/
def now16 (c : Chip) : Nat := timeNs c * 65536 + c.tim.frac / 65536

/-- The first failing check: status and detail. `bad` is an operand check that only the entry shows. -/
def acceptCheck (c : Chip) (src : CmdSrc) (tag flags : Byte) (start : Stamp) (op : Option HostOp) (rsv bad : Bool) : Option (Byte × Byte) :=
  let at_ : Bool := bit flags 0
  if tagBusy c tag then some (stDupTag, 0)
  else
    match op with
    | none => some (stRejected, 0x01)
    | some op =>
      if rsv || decide (4 ≤ flags.toNat) || decide (2 ^ 30 ≤ start.ns) || opReserved op then some (stRejected, 0x02)
      else if !targetOk op then some (stRejected, 0x03)
      else if at_ && !nsValid start then some (stRejected, 0x04)
      else if at_ && (decide (now16 c + 1000 * 1000000000 * 65536 < start16 start) || (hdr c .tim).state != .run) then some (stRejected, 0x05)
      else if levelDenies c op then some (stDenied, 0x0B)
      else if (targetPages op).any (fun p => (hdr c p).owner != 0 && (hdr c p).owner != srcOwner src) then some (stDenied, 0x0C)
      else if bad then some (stRejected, 0x08)
      else none

/-- A fetched command is accepted: it is in flight, or it ends at its first failing check (R57, R59). -/
def acceptCmd (src : CmdSrc) (tag flags : Byte) (start : Stamp) (op : Option HostOp) (rsv bad : Bool) (c : Chip) : Chip :=
  let id := c.cmd.nextId + 1
  let c1 := { c with cmd := { c.cmd with nextId := id } }
  match acceptCheck c src tag flags start op rsv bad, op with
  | none, some op =>
    let at_ := bit flags 0
    let x : HostCmd := { src := src, tag := tag, startAt := at_, fence := bit flags 1, start := start, op := op }
    updateFull { c1 with cmd := { c1.cmd with
      inflight := c1.cmd.inflight ++ [{ id := id, cmd := x, late := at_ && decide (start16 start < now16 c) }] } }
  | some (st, d), _ => deliver { id := id, src := src, tag := tag, status := st, detail := d } c1
  | none, none => c1

/-! ### Order (R64, R65) -/

def sameSrc : CmdSrc → CmdSrc → Bool
  | .ring r _, .ring q _ => r == q
  | .ycp s _, .ycp t _ => s == t
  | _, _ => false

/-- The slaves of the HITCH_SETs of hitch `h` that the same source handed in before `x` and that have not taken effect. -/
def slavesBefore (c : Chip) (x : InFlight) (h : Word) : List Nat :=
  (c.cmd.inflight.filter (fun y => decide (y.id < x.id) && !y.running && sameSrc y.cmd.src x.cmd.src)).filterMap (fun y =>
    match y.cmd.op with
    | .hitchSet k r => if k = h then some (decodeHit r).slave else none
    | _ => none)

/-- The axis set of a command (R64). The slave of a HITCH_RELEASE is that of its hitch, or of a HITCH_SET before it. -/
def axisSet (c : Chip) (x : InFlight) : List Nat :=
  match x.cmd.op with
  | .moveAbs n .. | .moveRel n .. | .moveVel n .. | .stop n _ | .resume n | .home n .. | .enable n _ => [n.toNat]
  | .groupMove g .. => (group c g.toNat).members
  | .hitchSet _ r => [(decodeHit r).slave]
  | .hitchRelease h _ => (if (hitch c h.toNat).state = .free then [] else [(hitch c h.toNat).cfg.slave]) ++ slavesBefore c x h
  | _ => []

def setsMeet (a b : List Nat) : Bool := (a == [] && b == []) || a.any (fun n => b.contains n)

/-- A command waits behind an earlier one of its ring: one that has not taken effect and whose axis set intersects, or, with FENCE, any
that has not completed. -/
def blocked (c : Chip) (x : InFlight) : Bool :=
  c.cmd.inflight.any (fun y => decide (y.id < x.id) && sameSrc y.cmd.src x.cmd.src &&
    (x.cmd.fence || (!y.running && setsMeet (axisSet c y) (axisSet c x))))

/-- Its start time has come at a knot of this device time in ns. -/
def startDue (t : Nat) (x : InFlight) : Bool := !x.cmd.startAt || x.late || decide (start16 x.cmd.start ≤ t * 65536)

/-! ### What each command starts -/

/-- One access of a batch: what remains to be done by its outcome. -/
inductive BatchEnd where
  | performed
  | refused
  | bad
deriving DecidableEq, Repr

/-- One REG_BATCH access, on the PCI Express path (R63). What non-zero reserved bits [30:24] of word 0 do the spec leaves open; they are
ignored. DESIGN CHOICE, log entry 151. -/
def batchAccess (i : Nat) (e : DWord) (s : State) : State × BatchEnd :=
  let off := fld e 23 0
  if bit e 31 then
    match readWindow .pcie off s with
    | (s1, .ok v) => (onChip (emit (.batchResult i v)) s1, .performed)
    | (s1, .unassigned) => (s1, .refused)
    | (s1, .bad) => (s1, .bad)
  else
    let drop := sealDrop s.chip off
    match writeWindow .pcie off (half e true) s with
    | (s1, .ok) => (s1, if drop then .refused else .performed)
    | (s1, _) => (s1, .refused)

/-- The list from entry `i` on: accesses performed so far, and whether one was refused. A batch stops when its command has ended under
it, as a warm reset in its own list ends it. -/
def runBatch (id : Nat) (cont : Bool) : List DWord → Nat → Nat → Bool → State → State
  | [], _, n, refused, s => onChip (finish id (if refused then stFailed else stDone) (if refused then 0x0D else 0) (BitVec.ofNat 64 n)) s
  | e :: t, i, n, refused, s =>
    if (cmdOf s.chip id).isNone then s
    else
      match batchAccess i e s with
      | (s1, .performed) => runBatch id cont t (i + 1) (n + 1) refused s1
      | (s1, .refused) =>
        if cont then runBatch id cont t (i + 1) n true s1 else onChip (finish id stFailed 0x0D (BitVec.ofNat 64 n)) s1
      | (s1, .bad) => onChip (finish id stFailed 0x01 (BitVec.ofNat 64 n)) s1

def startBatch (id : Nat) (list : Option (List DWord)) (count : BitVec 16) (cont : Bool) (s : State) : State :=
  let n := count.toNat
  if n = 0 ∨ 1024 < n then onChip (reject id 0x08) s
  else
    match bufWords n list with
    | none => onChip (bufferError id) s
    | some l => runBatch id cont l 0 0 false s

/-- RESUME (R139, R156, Table 7-4): a stopped path, a suspended hitch, or the interrupted command of the axis. -/
def startResume (n id : Nat) (s : State) : State :=
  let c := s.chip
  let a := axis c n
  if !pageEnabled c (axmPage n) ∨ a.state ≠ .slack then onChip (reject id 0x06) s
  else
    match (groupOf c n).filter (fun g => (group c g).state == .slack) with
    | some g => onChip (resumeGroup g id) s
    | none =>
      -- every suspended hitch of the slave engages again, and an own move that was interrupted with it restarts (R139, R164)
      let hs := (c.hits.filter (fun h => h.2.cfg.slave == n && h.2.state == .suspended)).map (·.1)
      let t := resumeReady hs s
      match a.kept with
      | some r =>
        if !t.2 then onChip (reject id 0x06) t.1
        else
          let d := resumeCheck c n r
          if d ≠ 0 then onChip (reject id d) t.1 else onChip (fun c => resumeMove n id r (resumeHitches n hs 0 c)) t.1
      | none =>
        if hs = [] ∨ !t.2 then onChip (reject id 0x06) t.1
        else onChip (fun c => resumeHitches n hs id (markRunning id c)) t.1

/-- The node range of a CAM command reaches past the cam store or the fitted DRAM (R171). -/
def camRangeBad (c : Chip) (first count : Nat) : Bool :=
  count == 0 || decide (2 ^ 25 < first + count) ||
  decide (rdF c .mem 0x040 3 0 * 2 ^ 30 < 16 * (nodeWord c first + count))

/-- A CAM_LOAD overlaps the nodes of a CAM hitch that is not FREE. -/
def camOverlap (c : Chip) (first count : Nat) : Bool :=
  c.hits.any (fun h => h.2.state != .free && h.2.cfg.kind == .cam && decide (h.2.cfg.first < first + count) && decide (first ≤ h.2.camEnd))

def startCam (id : Nat) (load : Bool) (first count crc : Word) (c : Chip) : Chip :=
  let f := first.toNat
  let n := count.toNat
  if camRangeBad c f n then reject id 0x08 c
  else if (load && camOverlap c f n) || !pageEnabled c .cam then reject id 0x06 c
  else camNext { c with cam := { c.cam with queue := c.cam.queue ++ [(id, load, f, n, crc)] } }

/-- FAULT_CLEAR: RESULT is PG_FLT before the clear. -/
def startFaultClear (id : Nat) (w : Word) (c : Chip) : Chip :=
  match clearPage w with
  | none => reject id 0x03 c
  | some p =>
    let before := headerWord c p 0x020
    let r := fltClear p c
    if r.2 then finish id stDone 0 (before.setWidth 64) r.1 else reject id 0x06 r.1

/-- A HITCH_SET begins: a CAM hitch reads its cam first, any other kind engages at this knot (R159). -/
def startHitch (h id : Nat) (raw : BitVec 256) (s : State) : State :=
  let d := hitChecks s.chip h id raw
  if d ≠ 0 then onChip (reject id d) s
  else hitTake h id raw (onChip (markRunning id) s)

def isCam (raw : BitVec 256) : Bool := (decodeHit raw).kind == .cam

/-- A CAM HITCH_SET that nothing holds back begins its read (R159). -/
def startCamRead (x : InFlight) (h : Nat) (raw : BitVec 256) (c : Chip) : Chip :=
  if (hitch c h).reading = some x.id then c
  else
    let d := hitChecks c h x.id raw
    if d ≠ 0 then reject x.id d c else setHitch h { hitch c h with raw := raw, reading := some x.id, readDone := false } c

/-- A command takes effect. Checks 9 and 10 of Table 3-8, operands in range and target state, are made here, where the state is the one
that earlier commands left (R64), not at acceptance; of check 9 only what the entry alone shows is made there. DESIGN CHOICE, log entry
152. -/
def takeEffect (x : InFlight) (s : State) : State :=
  let id := x.id
  let s1 := onChip (markRunning id) s
  match x.cmd.op with
  | .regBatch list count cont => startBatch id list count cont s1
  | .moveAbs n pos vel acc dec jerk => onChip (startMove n.toNat id x.cmd.op false pos vel acc dec jerk) s1
  | .moveRel n dist vel acc dec jerk => onChip (startMove n.toNat id x.cmd.op true dist vel acc dec jerk) s1
  | .moveVel n vel acc dec jerk => onChip (startVel n.toNat id x.cmd.op vel acc dec jerk) s1
  | .stop n kind => onChip (startStop n.toNat id kind) s1
  | .resume n => startResume n.toNat id s1
  | .home n method flags search creep accel offset => onChip (startHome n.toNat id x.cmd.op method flags search creep accel offset) s1
  | .enable n en => onChip (startEnable n.toNat id en) s1
  | .groupMove g ts count relative vel acc dec jerk =>
    onChip (startGroup g.toNat id x.cmd.op (bufWords count.toNat ts) count relative vel acc dec jerk) s1
  | .hitchSet h raw =>
    if isCam raw then
      if (hitch s.chip h.toNat).reading = some id ∧ (hitch s.chip h.toNat).readDone then hitTake h.toNat id raw s1
      else onChip (startCamRead x h.toNat raw) s
    else startHitch h.toNat id raw s1
  | .hitchRelease h ramp => onChip (startRelease h.toNat id ramp) s1
  | .camLoad first count => onChip (startCam id true first count 0) s1
  | .camVerify first count crc => onChip (startCam id false first count crc) s1
  | .fcoLoad mask len => onChip (startFcoLoad id mask len) s1
  | .traceStart => onChip (startTrace id) s1
  | .traceStop => onChip (stopTrace id) s1
  | .faultClear p => onChip (startFaultClear id p) s1
  | .saveTest => onChip (saveTestStart id) s1

/-! ### When commands take effect -/

/-- Commands with an empty axis set and no start time need no frame: they take effect once nothing of their ring holds them back, and a
CAM HITCH_SET begins its read (R65, R159). -/
def settleOne (id : Nat) (s : State) : State :=
  match cmdOf s.chip id with
  | none => s
  | some x =>
    if x.running || blocked s.chip x then s
    else
      match x.cmd.op with
      | .hitchSet h raw => if isCam raw then onChip (startCamRead x h.toNat raw) s else s
      | _ => if axisSet s.chip x = [] ∧ zeroAxes x.cmd.op ∧ !x.cmd.startAt then takeEffect x s else s
where
  /-- Operations without axes at all; a release of a free hitch and a move of a group without members wait for the knot. -/
  zeroAxes : HostOp → Bool
    | .groupMove .. | .hitchRelease .. => false
    | _ => true

def eachS {α : Type} (l : List α) (f : α → State → State) (s : State) : State := l.foldl (fun s x => f x s) s

/-- What waits without needing a frame. -/
def settleCmds (s : State) : State := eachS (s.chip.cmd.inflight.map (·.id)) settleOne s

/-- The order in which sources are applied at one knot (R64): ring 0 first, then the YCP sessions. -/
def srcRank : CmdSrc → Nat
  | .ring r _ => r.val
  | .ycp s _ => 4 + s.val

/-- One command at a frame knot of device time `t`. -/
def knotOne (t id : Nat) (s : State) : State :=
  match cmdOf s.chip id with
  | none => s
  | some x =>
    if x.running || !startDue t x || blocked s.chip x then s
    else if s.chip.dbg.plannerHalt ∧ axisSet s.chip x ≠ [] then s
    else takeEffect x s

/-- The commands accepted up to number `last` that are due at a frame knot, ring by ring (R64, R65). -/
def knotCmds (t last : Nat) (s : State) : State :=
  let l := s.chip.cmd.inflight.filter (fun x => decide (x.id ≤ last))
  let ids := (List.range 8).flatMap (fun r => (l.filter (fun x => srcRank x.cmd.src == r)).map (·.id))
  eachS ids (knotOne t) s

/-- A time step skips the start times between the old and the new time (R65). -/
def skipStarts (old new : Nat) (c : Chip) : Chip :=
  { c with cmd := { c.cmd with inflight := c.cmd.inflight.map (fun x =>
    if x.cmd.startAt && !x.running && decide (old ≤ start16 x.cmd.start) && decide (start16 x.cmd.start < new) then { x with late := true } else x) } }

/-! ### Commands from the rings (R53, R56, R58) -/

/-- A ring may be fetched from: the completion ring takes a slot for each command (R58), and every held completion has been posted
(R67). -/
def fetchable (c : Chip) (r : Nat) : Bool :=
  fabricUp c .pcie && isUp c .cmd && sqState c r == 1 && cqEn c && c.cmd.held == [] && c.cmd.cqResize.isNone && !cqFull c

/-- The ring that a fetch reads: the first that may be fetched and holds entries (R48). -/
def fetchRing (c : Chip) : Option (Fin 4) := (List.finRange 4).find? (fun r => fetchable c r.val && (sq c r.val).head != (sq c r.val).tail)

/-- The entry at the head of a ring has been fetched. -/
def advanceHead (r : Nat) (c : Chip) : Chip :=
  let x := sq c r
  setSq r { x with head := if x.head + 1 < sqSize c r then x.head + 1 else 0 } c

/-- The entry at `h.index` of ring `h.ring` is the next that the engine fetches (R48). -/
def nextEntry (c : Chip) (h : Hdr) : Bool := fetchRing c == some h.ring && h.index.toNat == (sq c h.ring.val).head

/-- A command handed over as its row's operands: its entry, the next of the ring that priority chooses, is fetched and accepted. -/
def ringCommand (h : Hdr) (op : HostOp) (s : State) : State :=
  if nextEntry s.chip h then
    settleCmds (onChip (fun c => acceptCmd (.ring h.ring h.index) h.tag h.flags h.start (some op) false false (advanceHead h.ring.val c)) s)
  else s

/-- The common part of an entry: FLAGS, TAG, start time, and whether byte 3 is set. -/
def acceptEntry (src : CmdSrc) (f : Fetched) (c : Chip) : Chip :=
  let e := f.entry
  let start : Stamp := { s := entField e 8 6, ns := entField e 14 4, frac := entField e 18 2 }
  let d := decodeEntry f
  let rsv := entField e 3 1 != 0 || (match d with | some x => x.2.1 | none => false)
  let target : Bool := match d with | some x => zeroTarget x.1 && entW e 4 != 0 | none => false
  -- a TARGET that must be 0 is check 4, which the operation alone does not show
  if target && !tagBusy c (entB e 2) && !rsv && decide (entField e 1 1 < 4) && decide (start.ns < 2 ^ 30) then
    let id := c.cmd.nextId + 1
    deliver { id := id, src := src, tag := entB e 2, status := stRejected, detail := 0x03 } { c with cmd := { c.cmd with nextId := id } }
  else
    acceptCmd src (entB e 2) (entB e 1) start (d.map (·.1)) rsv (match d with | some x => x.2.2 | none => false) c

/-- One entry of a fetch: `none` is a host-memory read error, which halts the ring and is reported through AER (R56). -/
def fetchEntry (r : Fin 4) (f : Option Fetched) (s : State) : State :=
  let c := s.chip
  let x := sq c r.val
  if !fetchable c r.val ∨ x.head = x.tail then s
  else
    match f with
    | none => onChip (fun c => emit (.aer .hostRead) (raise .cmd 11 (setSq r.val { sq c r.val with halted := true, errKind := 3 } c))) s
    | some e =>
      let src : CmdSrc := .ring r (BitVec.ofNat 12 x.head)
      settleCmds (onChip (fun c => acceptEntry src e (advanceHead r.val c)) s)

/-- COMMAND_FETCH: at most 4 consecutive entries of one ring. -/
def fetchCmds (es : List (Option Fetched)) (s : State) : State :=
  match fetchRing s.chip with
  | none => s
  | some r => eachS (es.take 4) (fetchEntry r) s

/-! ### YCP requests (R80 to R83) -/

/-- The response of a register operation. -/
def ycpAnswer (i : Nat) (q : Word) (status detail : Byte) (count : Nat) (addr : Word) (data : List Word) (s : State) : State :=
  onChip (respond i { seq := q, status := status, detail := detail, count := count, addr := addr, data := data }) s

/-- The outcome of one access of a session: the value read, or status and detail. -/
def ycpReadOne (i : Fin 4) (off : Nat) (s : State) : State × Except (Byte × Byte) Word :=
  match readWindow (.ycp i) off s with
  | (s1, .ok v) => (s1, .ok v)
  | (s1, .unassigned) => (s1, .error (0x10, 0))
  | (s1, .bad) => (s1, .error (stFailed, 0x01))

def ycpWriteOne (i : Fin 4) (off : Nat) (v : Word) (s : State) : State × Option (Byte × Byte) :=
  let drop := sealDrop s.chip off
  match writeWindow (.ycp i) off v s with
  | (s1, .ok) => (s1, if drop then some (stDenied, 0) else none)
  | (s1, .unassigned) => (s1, some (0x10, 0))
  | (s1, .denied) => (s1, some (stDenied, 0x0C))

/-- A block read: the words read so far, newest first. -/
def ycpReadWords (i : Fin 4) (q : Word) : Nat → Nat → List Word → State → State
  | 0, _, acc, s => ycpAnswer i.val q stDone 0 acc.length 0 acc.reverse s
  | n + 1, off, acc, s =>
    match ycpReadOne i off s with
    | (s1, .ok v) => ycpReadWords i q n (off + 4) (v :: acc) s1
    | (s1, .error (st, d)) => ycpAnswer i.val q st d acc.length (BitVec.ofNat 32 off) acc.reverse s1

def ycpWriteWords (i : Fin 4) (q : Word) : List Word → Nat → Nat → State → State
  | [], _, n, s => ycpAnswer i.val q stDone 0 n 0 [] s
  | v :: t, off, n, s =>
    match ycpWriteOne i off v s with
    | (s1, none) => ycpWriteWords i q t (off + 4) (n + 1) s1
    | (s1, some (st, d)) => ycpAnswer i.val q st d n (BitVec.ofNat 32 off) [] s1

/-- The command engine takes commands over YCP: its page serves, or has lost the PCI Express clock alone (R12, Table 1-2: service over
YCP continues). -/
def commandServes (c : Chip) : Bool :=
  let h := hdr c .cmd
  isUp c .cmd || (h.state == .fault && h.fltCode == 0x02 && clkLost c .host)

/-- The OP byte of a kind (Table 4-5). -/
def ycpCode : YcpKind → Byte
  | .read => 1 | .write => 2 | .readBlock => 3 | .writeBlock => 4 | .command => 5

/-- The bytes of a REQUEST body. -/
def ycpPlain (r : YcpOp) : List Byte :=
  [r.body.op.getD (ycpCode r.kind), r.body.size] ++ beBytes 2 r.body.count.toNat ++ beBytes 4 r.body.addr.toNat ++ r.body.rest

/-- OP is known, COUNT is in range, and the body's length matches both (R82). -/
def ycpLenOk (r : YcpOp) : Bool :=
  let n := r.body.count.toNat
  let k := r.body.rest.length
  decide (r.body.op.getD (ycpCode r.kind) = ycpCode r.kind) && (match r.kind with
    | .read => n == 1 && k == 0
    | .write => n == 1 && k == 4
    | .readBlock => decide (1 ≤ n) && decide (n ≤ 256) && k == 0
    | .writeBlock => decide (1 ≤ n) && decide (n ≤ 256) && k == 4 * n
    | .command => n == 1 && k == 64)

/-- The checks on a body: LENGTH, WIDTH, ADDRESS, in this order. A COMMAND has no register address. -/
def ycpBad (r : YcpOp) : Option Byte :=
  if !ycpLenOk r then some 0x12
  else if r.body.size ≠ 4 then some 0x11
  else if r.kind ≠ .command ∧ r.body.addr.toNat % 4 ≠ 0 then some 0x10
  else none

/-- A request runs. -/
def ycpRunOp (i : Fin 4) (q : Word) (r : YcpOp) (s : State) : State :=
  let off := fld r.body.addr 23 0
  match ycpBad r with
  | some e => ycpAnswer i.val q e 0 0 (if r.kind = .command then 0 else r.body.addr) [] s
  | none =>
    match r.kind with
    | .read | .readBlock => ycpReadWords i q r.body.count.toNat off [] s
    | .write | .writeBlock => ycpWriteWords i q (beWords r.body.rest) off 0 s
    | .command =>
      if 256 ≤ orphanUse s.chip then ycpAnswer i.val q 0x13 0 0 0 [] s
      else if !commandServes s.chip then ycpAnswer i.val q stRejected 0x06 0 0 [] s
      else settleCmds (onChip (acceptEntry (.ycp i q) { entry := BitVec.ofNat 512 (ofBytes r.body.rest), buf := r.buf }) s)

/-- Held requests run as soon as the gap below them fills. -/
def ycpDrain (i : Fin 4) : Nat → State → State
  | 0, s => s
  | n + 1, s =>
    let x := session s.chip i.val
    match x.held.find? (fun h => h.1 == x.exp) with
    | none => s
    | some h =>
      let x1 := { x with exp := x.exp + 1, held := x.held.filter (fun y => y.1 != h.1) }
      ycpDrain i n (ycpRunOp i h.1 h.2 (onChip (setSession i.val x1) s))

/-- The session has a command of this SEQ in flight. -/
def ycpInFlight (c : Chip) (i : Fin 4) (q : Word) : Bool :=
  c.cmd.inflight.any (fun x => match x.cmd.src with | .ycp s k => s == i && k == q | .ring _ _ => false)

/-- A REQUEST by its SEQ (R80). -/
def ycpRequest (i : Fin 4) (g : Dgram) (op : YcpOp) (s : State) : State :=
  let r := sesAccept i.val 0x03 .sealed (ycpPlain op) g true s.chip
  let s1 := { s with chip := r.1 }
  if !r.2 then s1
  else
    let x0 := session s1.chip i.val
    let x := { x0 with lastAuth := s1.chip.clk.now }
    let s2 := onChip (setSession i.val x) s1
    let d : Int := (g.seq.toNat : Int) - x.exp.toNat
    if 16 ≤ d then onChip (sesErr i.val 1) s2
    else if 0 ≤ d then
      if x.held.any (fun h => h.1 == g.seq) then s2
      else ycpDrain i 16 (onChip (setSession i.val { x with held := x.held ++ [(g.seq, op)] }) s2)
    else if d < -64 then onChip (sesErr i.val 2) s2
    else
      match x.cache.find? (fun y => y.seq == g.seq) with
      | some y => onChip (sendResp i.val y) s2
      | none =>
        if ycpInFlight s2.chip i g.seq then onChip (sendYcp i.val x.ip x.port .tagged 0x05 g.seq [] (.ycpPending i.val g.seq)) s2 else s2

/-! ### The debug UART (R477, R478) -/

/-- The request is intact: its CRC-8 over bytes 0 to 9 holds (offset and data most significant byte first). -/
def uartIntact (r : UartReq) : Bool :=
  let bs : List Byte := [0xA5, r.seq, r.op] ++ (toBytes 3 r.off.toNat).reverse ++ (toBytes 4 r.data.toNat).reverse
  crcMsb 8 0x07 0 bs == r.crc.toNat

/-- What the debug level lets the UART do (R477): at OFF it reads PG_ID, the SEC page and DBG_STA and writes SEC_TOKEN; from OBSERVE it
reads everything; from STEER it writes everything. -/
def uartMay (c : Chip) (write : Bool) (off : Nat) : Bool :=
  let o := off % 0x1000
  let sec := off / 0x1000 == pageNum .sec
  let token := sec && decide (0x200 ≤ o) && decide (o < 0x2C0)
  if write then token || decide (2 ≤ c.dbg.level)
  else (decide (off < 0x400000) && o == 0) || sec || off == pageBase .dbg + 0x044 || decide (1 ≤ c.dbg.level)

/-- A response of 8 bytes, closed by CRC-8 over those before it (R478). -/
def uartReply (seq st : Byte) (v : Word) : Output :=
  let bs : List Byte := [0x5A, seq, st] ++ (toBytes 4 v.toNat).reverse
  .uart seq st v (bs ++ [BitVec.ofNat 8 (crcMsb 8 0x07 0 bs)])

def uartSend (r : UartReq) (st : Byte) (v : Word) (c : Chip) : Chip :=
  emit (uartReply r.seq st v) (modDbg (fun d => { d with uartLast := some (r, st, v), uartPartial := none }) c)

/-- A request of the UART. -/
def uartRequest (r : UartReq) (s : State) : State :=
  let c := s.chip
  if !fabricUp c .uart then s
  else if !uartIntact r ∨ r.off.toNat % 4 ≠ 0 then onChip (fun c => emit (uartReply r.seq 0x12 0) (modDbg (fun d => { d with uartPartial := none }) c)) s
  else
    match c.dbg.uartLast with
    | some (q, st, v) => if q = r then onChip (emit (uartReply r.seq st v)) s else go s
    | none => go s
where
  go (s : State) : State :=
    if r.op = 1 then
      if !uartMay s.chip false r.off.toNat then onChip (uartSend r stDenied 0) s
      else
        match readWindow .uart r.off.toNat s with
        | (s1, .ok v) => onChip (uartSend r stDone v) s1
        | (s1, .unassigned) => onChip (uartSend r 0x10 0) s1
        | (s1, .bad) => onChip (uartSend r stFailed 0) s1
    else if r.op = 2 then
      if !uartMay s.chip true r.off.toNat then onChip (uartSend r stDenied 0) s
      else
        let drop := sealDrop s.chip r.off.toNat
        match writeWindow .uart r.off.toNat r.data s with
        | (s1, .ok) => onChip (uartSend r (if drop then stDenied else stDone) 0) s1
        | (s1, .unassigned) => onChip (uartSend r 0x10 0) s1
        | (s1, .denied) => onChip (uartSend r stDenied 0) s1
    else onChip (uartSend r 0x12 0) s

/-- A gap of more than 10 ms discards what has arrived of a request. -/
def uartGap (c : Chip) : Chip :=
  match c.dbg.uartPartial with
  | some t => if t + 10000000 ≤ c.clk.now then modDbg (fun d => { d with uartPartial := none }) c else c
  | none => c

end Sys2Proof.Machine
end

