-- ==== Sys2Proof/Machine/LinkOps.lean ====
section
/-!
DEFINITION. What passes between the main die and what surrounds it, beside the rings: vector messages (R44, R85), writes through BAR 2
(R47), a link that comes up (R92, R490), and what the tether does to the axes (R408, R410, R432).
-/

namespace Sys2Proof.Machine

/-! ### Vector messages (R44, R85) -/

/-- The interval and the coalescing count let vector v be sent. -/
def vectorDue (c : Chip) (v : Nat) : Bool :=
  let w := rd c .evt (0x100 + 4 * v)
  let m := tabGet ({} : VecSt) c.evt.vec v
  let ns := fld w 15 0 * 1000
  let last := m.last.getD c.clk.now
  decide (last + ns ≤ c.clk.now) && (fld w 23 16 == 0 || decide (fld w 23 16 ≤ m.gathered) || decide (last + 2 * ns ≤ c.clk.now))

/-- Vector v is masked in EVT_MASK, or in the MSI-X table where that path is used. -/
def vectorMasked (c : Chip) (v : Nat) (msix : Bool) : Bool :=
  bit (rd c .evt (if v < 32 then 0x048 else 0x04C)) (v % 32) || (msix && bit (rd c .evt (0x400 + 16 * v + 12)) 0)

/-- The body of an EVENT (Table 4-6). -/
def eventBody (v : Nat) (c : Chip) : List Byte :=
  [BitVec.ofNat 8 v, 0, 0, 0] ++ beBytes 8 c.evt.pend.toNat ++ beBytes 6 c.tim.s ++ beBytes 4 c.tim.ns ++ [0, 0]

/-- VECTOR_MESSAGE: each path that EVT_MODE selects sends it; with none able to, the pending bit stands. -/
def sendVector (v : Nat) (c : Chip) : Chip :=
  let mode := rdF c .evt 0x050 1 0
  let msix := mode != 1
  if !bit c.evt.pend v ∨ !isUp c .evt ∨ vectorMasked c v msix ∨ !vectorDue c v then c
  else
    let byPcie := msix && c.svcPcie && !clkLost c .host
    let ses := if mode = 0 then none else evmSession c
    let c1 := if byPcie then emit (.msix v) c else c
    let c2 := match ses with
      | some i =>
        let x := session c1 i
        setSession i { session c1 i with eventSeq := x.eventSeq + 1 }
          (sendYcp i x.ip (BitVec.ofNat 16 (rdF c1 .ycp 0x060 15 0)) .sealed 0x09 x.eventSeq (eventBody v c1) (.eventMsg v x.eventSeq) c1)
      | none => c1
    if byPcie || ses.isSome then
      { c2 with evt :=
        { c2.evt with
          pend := c2.evt.pend &&& ~~~(1#64 <<< v)
          vec := tabSet {} c2.evt.vec v { last := some c2.clk.now, gathered := 0 } } }
    else c2

/-! ### BAR 2 (R47) -/

/-- The DRAM byte that a BAR 2 offset reaches; `none` where its segment is not mapped or lies beyond the fitted DRAM. -/
def bar2Target (c : Chip) (a : Nat) : Option Nat :=
  let w := rd c .cmd (0x120 + 4 * (a / 2 ^ 28))
  let d := fld w 4 0 * 2 ^ 28 + a % 2 ^ 28
  if bit w 31 ∧ d < dramBytes c ∧ dramUp c then some d else none

/-- The bytes of a BAR 2 write from offset `a` on, word by word; `none` is a byte whose enable is clear. `k` bounds the words. -/
def bar2Bytes : Nat → Nat → List (Option Byte) → State → State
  | 0, _, _, s => s
  | k + 1, a, bs, s =>
    match bs with
    | [] => s
    | _ =>
      let n := 16 - a % 16
      bar2Bytes k (a + n) (bs.drop n) (match bar2Target s.chip a with
        | some d => mergeInWord .dram d (bs.take n) s
        | none => s)

/-- Every byte of an access from offset `a` on has a target. -/
def bar2Mapped (c : Chip) (a n : Nat) : Bool := decide (a + n ≤ 2 ^ 30) && (List.range n).all (fun i => (bar2Target c (a + i)).isSome)

/-- A read of `n` bytes; `none` once a word is uncorrectable. A correctable word is corrected at its first byte. -/
def bar2Read : Nat → Nat → State → State × Option (List Byte)
  | 0, _, s => (s, some [])
  | n + 1, a, s =>
    match bar2Target s.chip a with
    | none => (s, none)
    | some d =>
      match readCode .dram (d / 16) false s with
      | (s1, none) => (s1, none)
      | (s1, some w) =>
        let rest := bar2Read n (a + 1) s1
        (rest.1, rest.2.map (fun l => BitVec.ofNat 8 (w.toNat / 2 ^ (8 * (d % 16))) :: l))

/-- A BAR 2 access: performed in DRAM; without a target a write is dropped and reported, and a read is an unsupported request. -/
def bar2 (a : Nat) (x : Bar2Access) (s : State) : State :=
  if fabricUp s.chip .pcie ∧ s.chip.svcPcie then
    match x with
    | .write bs => if bar2Mapped s.chip a bs.length then bar2Bytes (bs.length / 16 + 2) a bs s else onChip (emit (.aer .unsupported)) s
    | .read n =>
      if bar2Mapped s.chip a n then
        match bar2Read n a s with
        | (s1, some l) => onChip (emit (.bar2Read a (.data l))) s1
        | (s1, none) => onChip (fun c => emit (.bar2Read a .poisoned) (emit (.aer .poisoned) c)) s1
      else onChip (emit (.bar2Read a .unsupported)) s
  else s

/-! ### Links (R92, R490) -/

/-- LINK_UP: the page runs, and a splice that retrained the port is done. -/
def portLinkUp (p : Nat) (anDone : Bool) (c : Chip) : Chip :=
  if !netUp c p then c
  else
    let c1 := spliceLink p (linkUp p anDone c)
    if (hdr c1 (netPage p)).state = .ready then setState (netPage p) .run c1 else c1

/-- LINK_DOWN: the page no longer runs. -/
def portLinkDown (p : Nat) (remote : Bool) (c : Chip) : Chip :=
  let c1 := linkDown p remote c
  if (hdr c1 (netPage p)).state = .run then setState (netPage p) .ready c1 else c1

/-! ### The tether and the axes (R408, R410, R432) -/

/-- A field pin feeds one of the inputs of an axis or its command pin (R410). -/
def usesFieldInput (c : Chip) (n : Nat) : Bool :=
  let w := act c (axmPage n) 0x0B8
  let isPin (v : Nat) : Bool := decide (1 ≤ v) && decide (v ≤ 64)
  let snl := act c (.snl (f128 n)) 0x094
  isPin (fld w 6 0) || isPin (fld w 14 8) || isPin (fld w 22 16) || (isPhys n && decide (2 ≤ fld snl 1 0) && isPin (fld snl 14 8))

/-- The axis has a brake output on the field die (R218). -/
def usesFieldBrake (c : Chip) (n : Nat) : Bool := isPhys n && actF c (.lpa (f128 n)) 0x234 6 0 != 0

/-- 0xB1 stands for an axis: it uses a field pin while the tether is SILENT, or a field input while the inputs are not valid. -/
def fieldLost (c : Chip) (n : Nat) : Bool :=
  match c.fld.tether with
  | .down => false
  | .silent => usesFieldInput c n || usesFieldBrake c n
  | .up => !c.fld.inputsValid && usesFieldInput c n

/-- The field faults of every axis follow their condition; one that arises is latched, and the axis takes TETHER_REACT (R410). -/
def fieldFaults (c : Chip) : Chip :=
  each (List.range 160) (fun n c =>
    let p := axmPage n
    if fieldLost c n then
      if standing c p 0xB1 then c else react n (rdF c .fld 0x054 2 0) 0xB1 (latchCond p 0xB1 c)
    else endCond p 0xB1 c) c

/-- A STOP_REQ bit sets: a quick stop of reaction rank that latches no code (R432). -/
def stopReqAxis (n : Nat) (c : Chip) : Chip :=
  let a := axis c n
  let st : StopSt := { kind := .quick, reaction := true }
  if !a.torque then c
  else if selfCommanded c n && axEnabled a.state then snlStop n 0 1 c
  else match (groupOf c n).filter (fun g => (group c g).state == .moving || (group c g).state == .stopping) with
    | some g => groupStop g st c
    | none =>
      match a.state with
      | .moving | .homing | .stopping => axisStop n st (suspendHitches n c)
      | _ => c

/-- The main die acts: its SYS clock runs and no save is under way (R12, R459). -/
def mainRuns (c : Chip) : Bool := !clkLost c .sys && c.pwr.state != .save

/-- An event of the main die, which happens only while it acts. -/
def whileRuns (f : Chip → Chip) (c : Chip) : Chip := if mainRuns c then f c else c

/-- UPLINK_FRAME at the main die, with what it does to the axes. -/
def uplinkFull (f : UpFrame) (intact : Bool) (arrival : Nat) (c : Chip) : Chip :=
  if !mainRuns c then c
  else
    let old := c.fld.belay.stopReq
    let c1 := uplinkRx f intact arrival c
    let rising := (List.finRange 16).filter (fun j => intact && bit f.belay.stopReq j.val && !bit old j.val)
    fieldFaults (each (rising.flatMap stoAxes) (fun n c => stopReqAxis n.val c) c1)

/-- TETHER_SILENT (R408, R410): schedules not yet acknowledged are cancelled, and the compares that sent them are mispredicted (R177). -/
def tetherLost (c : Chip) : Chip :=
  if !mainRuns c ∨ c.fld.tether ≠ .up ∨ c.clk.now < c.fld.lastIntact + rdF c .fld 0x048 19 0 * 1000 then c
  else
    let c2 := schedCancel c
    let valid := c2.fld.inputsValid
    let c3 := { c2 with fld :=
      { c2.fld with
        tether := .silent
        run := 0
        inputsValid := false
        silences := min 255 (c2.fld.silences + 1) } }
    fieldFaults (latchCond .fld 0xB0 (raise .fld 9 (raiseIf valid .fld 12 c3)))

end Sys2Proof.Machine
end

