-- ==== Sys2Proof/Machine/FrameOps.lean ====
section
/-!
DEFINITION. The frame knot and the current sample (R17, R18): what happens at each, in the order of Table 1-4 and of
"What each step holds".
-/

namespace Sys2Proof.Machine

/-- The axes whose engine runs: none in DOZE, where every axis is DISABLED or SAFE (R213, R480). -/
def engAxes (c : Chip) : List Nat := if c.pwr.state == .doze then [] else loopAxes c

/-! ### The frame knot -/

/-- The knot's own bookkeeping, the next knot of the grid, and the step point where a step is asked for (R17, R102, R105). -/
def knotAdvance (pwmTicks : Nat) (c : Chip) : Chip :=
  let t := c.tim
  let lost := clkLost c .time
  let at_ := if lost then timeNs c else t.nextKnot
  let next := gridAt c (at_ + periodNs c / 2)
  let point (asked : Bool) (p : Option Nat) : Option Nat := if asked && p.isNone then some (c.clk.now + 2000) else p
  modTim (fun t => { t with
    nextKnot := next
    lenNs := if lost then periodNs c else next - at_
    planNs := if lost then periodNs c else next - at_
    lastKnot := c.clk.now
    frameNo := t.frameNo + 1
    sampleIdx := 0
    planning := true
    realign := false
    realigned := t.realign
    stepPoint := point t.stepReq.isSome t.stepPoint
    setPoint := point t.setReq.isSome t.setPoint
    pwmRatio := if pwmTicks = 0 ∨ t.lenNs = 0 then t.pwmRatio else ((pwmTicks * 4 : Nat) : Rat) / (t.lenNs : Rat) }) c

/-- The blocks committed for this knot come into force (R22, R125). -/
def knotShift (late : List (Fin 160)) (c : Chip) : Chip :=
  let dt := frameSec c
  let isLate (n : Nat) : Bool := late.any (fun m => m.val == n)
  let ns := knotAxes c
  each ns (fun n c => lateAxis late n c) (hitShift dt (each (groupList c) (fun g c => shiftGroup dt g c)
    (each ns (fun n c => shiftAxis dt (isLate n) n c) c)))

/-- The applies and splices whose apply point is a frame knot (R21, R38, R114, R484). -/
def knotApplies (s : State) : State :=
  let s1 := onChip (fun c => if c.knt.frameApply then frameSetApply c else c) s
  let s2 := onChip (fun c => each ((pagesWith c (fun h => h.applyReq)).filter appliesAtKnot) pageApply c) s1
  eachState ((pagesWith s2.chip (fun h => h.spliceReq)).filter (fun p => spliceWaits p && (appliesAtKnot p || p == .knt))) spliceRun s2

/-- The sensorless hand-overs (R304, R306). -/
def knotLoops (c : Chip) : Chip := each ((listed c 0x300 128).filter (fun n => sensorless c (f128 n))) snlKnot c

/-- What ends at the knot, and what a cleared fault lets go (R123, R130, R138, R146, R154, R224). -/
def knotEnds (ns : List Nat) (c : Chip) : Chip :=
  each ns faultExit (each (groupList c) groupKnot (each ns axisKnot c))

/-- Every compare unit with a state, axis by axis. -/
def eachCmp (ns : List Nat) (f : Nat → Nat → Chip → Chip) (c : Chip) : Chip :=
  each ns (fun n c => each ((axis c n).cmp.map (·.1)) (fun u c => f n u c) c) c

/-- What rests on the next blocks of some axes: the switchings predicted, and the step increments (R177, R179). -/
def unitsAhead (ns : List Nat) (s : State) : State :=
  onChip (fun c => each ns stepKnot (eachCmp ns (cmpPredict (camAt s)) c)) s

/-- After the blocks are committed: latches, compares, steps (R174 to R180); what rests on a block that still waits comes with it (R25). -/
def knotUnits (len : Nat) (prev : Nat) (ns : List Nat) (s : State) : State :=
  let wait := heldSlaves s.chip
  unitsAhead (ns.filter (fun n => !wait.contains n))
    (onChip (fun c => each ns (stepClose (len / 4)) (eachCmp ns (cmpKnot prev len) (each ns latchKnot c))) s)

/-- The blocks that waited for a line frame are computed, with what rests on them (R25). -/
def heldCommit (s : State) : State :=
  if s.chip.hfr.held = [] then s
  else
    let ns := heldSlaves s.chip
    let s1 := onChip (fun c => modTim (fun t => { t with planning := true }) { c with hfr := { c.hfr with held := [] } }) s
    onChip (modTim (fun t => { t with planning := false })) (unitsAhead ns (onChip (closeBlocks ns) (commitHits s.chip.hfr.held s1)))

/-- The same once no line frame that could change them is awaited any more. -/
def heldDue (s : State) : State := if s.chip.hfr.held.any (awaitsFrame s.chip) then s else heldCommit s

/-- Knot 0 drives the targets of KN_CTL 0 (R112, R114). -/
def knotZero (c : Chip) : Chip := if isUp c .knt then fireKnot 0 false c else c

/-- The axes with a loop state or an LPA page that is not at reset. -/
def lpaNums (c : Chip) : List Nat := mergeNums (listed c 0x100 128) (c.loops.map (·.1))

/-- What comes first at a knot: the supervision's counts, the positions of the knot, and the committed blocks (R17, R22, R125). -/
def knotBegin (late : List (Fin 160)) (c : Chip) : Chip :=
  knotShift late (each (fbkNums c) (fun n c => fbkLatch n true c) (each (lpaNums c) supCount c))

/-- What happens at the knot itself: applies, the ends of moves, the sample of a published frame, triggers and carriers. The planner's part is
due. -/
def knotHead (len prev t : Nat) (s : State) : State :=
  let s1 := knotApplies s
  onChip (fun c =>
    let c1 := publisherKnot (knotEnds (knotAxes c) (knotLoops c))
    let c2 := each (modNums c1) modKnot (each (List.range 16) adcKnot (sdfKnot c1))
    modTim (fun x => { x with planDue := some { len := len, prev := prev, t := t, last := c2.cmd.nextId } }) c2) s1

/-- The planner's part of a knot: commands that take effect, the blocks of the next frame, and the units that act on them. -/
def knotPlan (d : PlanDue) (s : State) : State :=
  let s1 := knotCmds d.t d.last (settleCmds s)
  let ns := knotAxes s1.chip
  onChip (fun c => modTim (fun t => { t with planning := false, planDue := none }) (trcKnot (pwrKnot c)))
    (knotUnits d.len d.prev ns (commitBlocks ns s1))

/-- The planner's part that is due, if one is. -/
def planNow (s : State) : State :=
  match s.chip.tim.planDue with
  | none => s
  | some d => knotPlan d s

/-- A frame knot at device time `t`, the knot before it at `prev` and `len` ns long. While a loop engine runs an axis, the planner's part comes after
the supervision of sample 0, so that a reaction goes before a command of the frame and acts from the next block (R24, Table 1-4; DEDUCED, log
entry 177). -/
def knotRest (len prev t : Nat) (s : State) : State :=
  let s1 := knotHead len prev t s
  if engAxes s1.chip = [] then planNow s1 else s1

/-- FRAME_KNOT (R17). -/
def frameKnot (late : List (Fin 160)) (pwmTicks : Nat) (s0 : State) : State :=
  if !mainRuns s0.chip || !knotDue s0.chip then s0
  else
    let s := heldCommit (planNow s0)
    let c := s.chip
    let prev := (knotNs c).toNat
    let t := if clkLost c .time then timeNs c else c.tim.nextKnot
    knotRest c.tim.lenNs prev t { s with chip := knotZero (knotAdvance pwmTicks (knotBegin late c)) }

/-! ### The current sample -/

def isBus : Page → Bool
  | .bus _ => true
  | _ => false

/-- The applies and splices of the bus pages, whose apply point is a current sample (R239). -/
def sampleApplies (s : State) : State :=
  let s1 := onChip (fun c => each ((pagesWith c (fun h => h.applyReq)).filter isBus) pageApply c) s
  eachState ((pagesWith s1.chip (fun h => h.spliceReq)).filter isBus) spliceRun s1

/-- The current stage of an axis, with the set-points of its mode (R192). -/
def currentOf (i n : Nat) (c : Chip) : Chip := currentStage n i (if lpaMode c n = 1 then directRefs i n c else c)

/-- The engines at a sample: current stages, model stages, and at sample 0 the position and velocity stages (R188) and the supervision
(R219). -/
def sampleStages (i : Nat) (c : Chip) : Chip :=
  let ns := engAxes c
  let c1 := each ns modelStage (each ns (currentOf i) c)
  if i = 0 then each ns supervise (each ns (fun n c => if 2 ≤ lpaMode c n then frameStages n c else speedFilter n c) c1) else c1

/-- SEQ of the converters and of the sigma-delta banks (Tables 13-8 and 13-9). -/
def sampleSeqs (c : Chip) : Chip :=
  let c1 := each ((List.range 16).filter (fun k => isUp c (adcPage k) && !clkLost c .adc)) (fun k c => modAdc k (fun x => { x with seq := x.seq + 1 }) c) c
  each ((List.range 8).filter (fun k => isUp c (sdfPage k) && !clkLost c .sense)) (fun k c =>
    { c with sdfSeq := tabSet 0 c.sdfSeq k (tabGet 0 c.sdfSeq k + 1) }) c1

/-- The bits of a channel; a comparator that asserts among them drives the OC flag of its phase into its port (R259, R334). -/
def sdfTake (i : Nat) (new : List Bool) (c : Chip) : Chip :=
  let thr := rd c (sdfPage (i / 48)) (0x084 + 16 * (i % 48 / 3))
  let c1 := sdfSample i new c
  if sdfOn c i && (sdfBits (sdfPort c i) thr (sdfCh c i) new).2 then ocTripOn (16 * (i / 48) + i % 48 / 3) (i % 3) c1 else c1

/-- What comes first at a sample: the decimators' bits, the positions of the sample, the errors of the carrier centres, the slots missed and
the engines that overran (R18, R116, R203). -/
def sampleBegin (i : Nat) (bits : List (Fin 384 × List Bool)) (phaseErr : List (Fin 128 × Int)) (overrun : List (Fin 4)) (c : Chip) : Chip :=
  let c1 := each bits (fun b c => sdfTake b.1.val b.2 c) c
  let c2 := if i = 0 then c1 else each (fbkNums c1) (fun n c => fbkLatch n false c) c1
  each overrun (fun e c => overrunFault e.val c) (each (List.range 4) missCheck (each phaseErr (fun p c => trimPhase p.1.val p.2 c) c2))

/-- The rest of a sample: the bus pages, the stages of the engines, the observables, the planner's part of the knot that waited for sample 0,
and the trace. -/
def sampleRest (i : Nat) (s : State) : State :=
  let s4 := sampleApplies s
  let c5 := sampleStages i (each (busNums s4.chip) busSample s4.chip)
  let snl := (listed c5 0x300 128).filter (fun n => sensorless c5 (f128 n))
  let c6 := each (engAxes c5) storeObs (each snl snlSample (each (engAxes c5) angleCheck c5))
  trcSample i (planNow { s4 with chip := sampleSeqs c6 })

/-- CURRENT_SAMPLE (R18): what the decimators took in, the errors of the carrier centres, and the engines that overran are the world's. -/
def currentSample (i : Nat) (bits : List (Fin 384 × List Bool)) (phaseErr : List (Fin 128 × Int)) (overrun : List (Fin 4)) (s : State) : State :=
  if !mainRuns s.chip || !sampleDue i s.chip then s
  else
    onChip (modTim (fun t => { t with sampleIdx := t.sampleIdx + 1, sampleNo := t.sampleNo + 1 }))
      (sampleRest i (onChip (sampleBegin i bits phaseErr overrun) (if i = 0 then s else heldCommit (planNow s))))

end Sys2Proof.Machine
end

