-- ==== Sys2Proof/Machine/AxisExec.lean ====
section
/-!
DEFINITION. The meanings of the commands of the axes (chapters 6 and 7): limit and reference edges, latches, compares, step pulses.
-/

namespace Sys2Proof.Machine

/-- A qualified limit edge (R141, R144): for a moving or homing axis, the edge its next frame knot takes. The edge is one of the source in
AXM_INPUTS, whose level after the debounce of its pin is the one it leads to; an input that no source feeds gives no edge. -/
def limitEdge (n : Nat) (positive active : Bool) (c : Chip) : Chip :=
  let a := axis c n
  let was := if positive then a.limPos else a.limNeg
  let a1 : Axis := if positive then { a with limPos := active } else { a with limNeg := active }
  let starts := active && !was && (a.state == .homing || (a.state == .moving && hlimEn c n))
  if limLevel c n positive != active then c
  else setAxis n (if starts then { a1 with limEdge := some positive } else a1) c

/-- AXM_HOME_DWELL has passed since the edge of the phase (R145). -/
def dwellOver (n : Nat) (c : Chip) : Chip :=
  modAxis n (fun a => match a.home.dwellEnd with
    | some t => if t ≤ c.clk.now then { a with home := { a.home with dwellEnd := none } } else a
    | none => a) c

/-- What an action leaves on the spare gate output, and the end of its pulse (R175, R258). -/
def spareAct (n u : Nat) (s : CmpSched) (c : Chip) : Chip :=
  if actF c (modPage n) 0x054 2 0 = 0 then c
  else
    let level := match s.action with | 1 => false | 2 => !(modSt c n).cmpLevel | _ => true
    let c1 := modMod n (fun m => { m with cmpLevel := level }) c
    -- pulses of one unit merge into their union (R178)
    let x := cmpSt (axis c1 n) u
    let e := s.time + s.width * 1000
    setCmp n u { x with spareEnd := if s.action = 3 then some (match x.spareEnd with | some f => max f e | none => e) else none } c1

/-- COMPARE_SPARE_SWITCH: the switching whose time has come (R177). -/
def spareSwitch (n u : Nat) (c : Chip) : Chip :=
  let x := cmpSt (axis c n) u
  match x.sched.find? (fun s => s.output == 65 && !s.switched && decide (s.time ≤ timeNs c)) with
  | none => c
  | some s =>
    let c1 := setCmp n u { x with
      sched := if s.confirmed then x.sched.filter (fun q => q != s)
        else x.sched.map (fun q => if q = s then { q with switched := true } else q) } c
    spareAct n u s c1

/-- A PULSE on the spare gate output ends (R175); the output stays active while a pulse of another unit of the axis lasts (R178). -/
def sparePulseEnd (n u : Nat) (c : Chip) : Chip :=
  let x := cmpSt (axis c n) u
  match x.spareEnd with
  | some t =>
    if t ≤ timeNs c then
      let other := (List.range 4).any (fun v => v != u && (match (cmpSt (axis c n) v).spareEnd with | some e => decide (timeNs c < e) | none => false))
      setCmp n u { x with spareEnd := none } (if other then c else modMod n (fun m => { m with cmpLevel := false }) c)
    else c
  | none => c

/-- HARDWARE_LIMIT_EDGE (R141). -/
def execHardwareLimitEdge (n : Fin 160) (positive active : Bool)  (s : State) : Host.Outcome State Fault Refusal :=
  run (whileRuns (limitEdge n.val positive active)) s

/-- HOME_REFERENCE_EDGE (R143, R145). -/
def execHomeReferenceEdge (n : Fin 160) (kind : RefEdge)  (s : State) : Host.Outcome State Fault Refusal :=
  run (whileRuns (homeEdge n.val kind)) s

/-- HOME_DWELL_END (R145). -/
def execHomeDwellEnd (n : Fin 160)  (s : State) : Host.Outcome State Fault Refusal :=
  run (whileRuns (dwellOver n.val)) s

/-- LAT_ARM (R172). -/
def execLatArm (path : Path) (n : Fin 160) (l : Fin 2)  (s : State) : Host.Outcome State Fault Refusal :=
  .next (regPage path (.axm n) (latBase l.val + 0x2C) 1 s)

/-- LATCH_EDGE (R172, R173). -/
def execLatchEdge (n : Fin 160) (l : Fin 2) (rising : Bool)  (s : State) : Host.Outcome State Fault Refusal :=
  run (whileRuns (latchEdge n.val l.val rising)) s

/-- LATF_POP (R174). -/
def execLatfPop (path : Path) (n : Fin 160) (l : Fin 2)  (s : State) : Host.Outcome State Fault Refusal :=
  .next (regRead path (pageBase (.axm n) + latBase l.val + 0x18) s)

/-- COMPARE_SPARE_SWITCH (R177). -/
def execCompareSpareSwitch (n : Fin 128) (c : Fin 4)  (s : State) : Host.Outcome State Fault Refusal :=
  run (whileRuns (spareSwitch n.val c.val)) s

/-- STEP_PULSE (R179, R181). -/
def execStepPulse (n : Fin 128)  (s : State) : Host.Outcome State Fault Refusal :=
  run (whileRuns (stepPulse n.val)) s

/-- CMP_PULSE_END (R175). -/
def execCmpPulseEnd (n : Fin 128) (c : Fin 4)  (s : State) : Host.Outcome State Fault Refusal :=
  run (whileRuns (sparePulseEnd n.val c.val)) s

end Sys2Proof.Machine
end

