-- ==== Sys2Proof/Machine/ComputeExec.lean ====
section
/-!
DEFINITION. The meanings of the commands of the filter cores' external path, of the dispatcher's registers and of trace (chapters 14 to 16).
-/

namespace Sys2Proof.Machine

/-- EXTERNAL_LOAD (R357). -/
def execExternalLoad (k : Fin 8) (w : Word)  (s : State) : Host.Outcome State Fault Refusal :=
  .next (issue k w (isExt false) doExtLoad s)

/-- EXTERNAL_LOAD_RETURN (R357). -/
def execExternalLoadReturn (k : Fin 8) (timeout : Bool)  (s : State) : Host.Outcome State Fault Refusal :=
  .next (if mainRuns s.chip then extReturn k timeout s else s)

/-- EXTERNAL_STORE (R357). -/
def execExternalStore (k : Fin 8) (w : Word)  (s : State) : Host.Outcome State Fault Refusal :=
  .next (issue k w (isExt true) doExtStore s)

/-- DISPATCHER_CYCLE (R372): a requested splice of the dispatcher runs between two cycles (Table 22-1). -/
def execDispatcherCycle (s : State) : Host.Outcome State Fault Refusal :=
  .next (if mainRuns s.chip then dspCycle (if (hdr s.chip .dsp).spliceReq then spliceRun .dsp s else s) else s)

/-- FCO_DOORBELL (R358). -/
def execFcoDoorbell (path : Path) (k : Fin 8) (v : Word)  (s : State) : Host.Outcome State Fault Refusal :=
  .next (regPage path (.fco k) 0x05C v s)

/-- SUBMIT (R366): the write of DSP_SUB7. -/
def execSubmit (path : Path) (v : Word)  (s : State) : Host.Outcome State Fault Refusal :=
  .next (regPage path .dsp 0x09C v s)

/-- DSP_CANCEL (R377). -/
def execDspCancel (path : Path) (v : Word)  (s : State) : Host.Outcome State Fault Refusal :=
  .next (regPage path .dsp 0x0A8 v s)

/-- DSP_CANCEL_FLOW (R377). -/
def execDspCancelFlow (path : Path) (v : Word)  (s : State) : Host.Outcome State Fault Refusal :=
  .next (regPage path .dsp 0x0AC v s)

/-- DSP_FLOW_CFG (R369). -/
def execDspFlowCfg (path : Path) (v : Word)  (s : State) : Host.Outcome State Fault Refusal :=
  .next (regPage path .dsp 0x0D4 v s)

/-- DSP_CQ_HEAD (R376). -/
def execDspCqHead (path : Path) (v : Word)  (s : State) : Host.Outcome State Fault Refusal :=
  .next (regPage path .dsp 0x0C8 v s)

/-- DRAIN (R379): the write of DSP_CTL. -/
def execDrain (path : Path) (v : Word)  (s : State) : Host.Outcome State Fault Refusal :=
  .next (regPage path .dsp 0x040 v s)

/-- COIL_WRITE (R386). -/
def execCoilWrite (s : State) : Host.Outcome State Fault Refusal :=
  .next (if mainRuns s.chip then coilWrite s else s)

/-- TRC_RP_WRITE (R386). -/
def execTrcRpWrite (path : Path) (v : Word)  (s : State) : Host.Outcome State Fault Refusal :=
  .next (regPage path .trc 0x058 v s)

/-- TRC_COIL_SIZE_WRITE (R388). -/
def execTrcCoilSizeWrite (path : Path) (v : Word)  (s : State) : Host.Outcome State Fault Refusal :=
  .next (regPage path .trc 0x050 v s)

/-- TRC_FORCE (R391). -/
def execTrcForce (path : Path) (v : Word)  (s : State) : Host.Outcome State Fault Refusal :=
  .next (regPage path .trc 0x068 v s)

/-- TRC_MARK (R385). -/
def execTrcMark (path : Path) (v : Word)  (s : State) : Host.Outcome State Fault Refusal :=
  .next (regPage path .trc 0x06C v s)

/-- SEQUENCER_TIMER (R391). -/
def execSequencerTimer (i : Fin 2)  (s : State) : Host.Outcome State Fault Refusal :=
  run (whileRuns (seqTimer i.val)) s

/-- HOLDOFF_END (R392). -/
def execHoldoffEnd (s : State) : Host.Outcome State Fault Refusal :=
  run (whileRuns (holdoffEnd)) s

/-- TRC_CAL_START (R394). -/
def execTrcCalStart (path : Path) (v : Word)  (s : State) : Host.Outcome State Fault Refusal :=
  .next (regPage path .trc 0x090 v s)

/-- TRC_CAL_DONE (R394). -/
def execTrcCalDone (s : State) : Host.Outcome State Fault Refusal :=
  .next (if mainRuns s.chip then calFinish s else s)

end Sys2Proof.Machine
end

