-- ==== Sys2Proof/Machine/DriveExec.lean ====
section
/-!
DEFINITION. The meanings of the commands of the drives (chapters 8 to 13): loop engine pages, supervision, bus groups, modulators, STO,
feedback, sensorless drives, converters and sigma-delta channels.
-/

namespace Sys2Proof.Machine

/-- LPA_OBS_SEQ_READ (R211). -/
def execLpaObsSeqRead (path : Path) (n : Fin 128)  (s : State) : Host.Outcome State Fault Refusal :=
  .next (regRead path (pageBase (.lpa n) + 0x04C) s)

/-- MDL_WRITE (R207). -/
def execMdlWrite (path : Path) (n : Fin 128) (reg : Fin 7) (v : Word)  (s : State) : Host.Outcome State Fault Refusal :=
  .next (regPage path (.lpa n) (0x100 + 4 * reg.val) v s)

/-- ESTIMATE_STOP_END (R224). -/
def execEstimateStopEnd (n : Fin 128)  (s : State) : Host.Outcome State Fault Refusal :=
  run (whileRuns (endEstimate n.val)) s

/-- BRKFB_TIMEOUT (R231). -/
def execBrkfbTimeout (b : Fin 16) (level : Bool)  (s : State) : Host.Outcome State Fault Refusal :=
  run (whileRuns (brkfbTimeout b.val level)) s

/-- TRIP_IN (R235). -/
def execTripIn (b : Fin 16) (level : Bool) (held : Nat)  (s : State) : Host.Outcome State Fault Refusal :=
  run (whileRuns (tripIn b.val level held)) s

/-- TRIP_RELEASE (R235). -/
def execTripRelease (b : Fin 16)  (s : State) : Host.Outcome State Fault Refusal :=
  run (whileRuns (tripReleased b.val)) s

/-- BUS_V_MAX_WRITE (R239). -/
def execBusVMaxWrite (path : Path) (b : Fin 16) (v : Word)  (s : State) : Host.Outcome State Fault Refusal :=
  .next (regPage path (.bus b) 0x078 v s)

/-- CARRIER_BOUNDARY (R248): the modulator runs on the PWM clock alone (R12). -/
def execCarrierBoundary (n : Fin 128)  (s : State) : Host.Outcome State Fault Refusal :=
  run (carrierBoundary n.val) s

/-- CARRIER_CENTRE (R248). -/
def execCarrierCentre (n : Fin 128)  (s : State) : Host.Outcome State Fault Refusal :=
  run (carrierCentre n.val) s

/-- OC_TRIP (R259): the comparator of a phase asserts. -/
def execOcTrip (n : Fin 128) (x : Fin 3)  (s : State) : Host.Outcome State Fault Refusal :=
  run (whileRuns (comparatorTrip n.val x.val)) s

/-- COMPARATOR_RELEASE (R334). -/
def execComparatorRelease (n : Fin 128) (x : Fin 3)  (s : State) : Host.Outcome State Fault Refusal :=
  run (whileRuns (comparator n.val x.val false)) s

/-- DELAY_LINE_CAL_DONE (R252). -/
def execDelayLineCalDone (n : Fin 128) (code : Byte)  (s : State) : Host.Outcome State Fault Refusal :=
  run (whileRuns (delayCalDone n.val code)) s

/-- FINE_FALLBACK (R253). -/
def execFineFallback (j : Fin 16) (code : Byte) (locked : Bool)  (s : State) : Host.Outcome State Fault Refusal :=
  run (whileRuns (replicaReport j.val code locked)) s

/-- REPLICA_RELOCK (R253). -/
def execReplicaRelock (j : Fin 16) (code : Byte)  (s : State) : Host.Outcome State Fault Refusal :=
  run (whileRuns (replicaRelock j.val code)) s

/-- STO_ON (R264): an STO line acts whatever the clocks do. -/
def execStoOn (j : Fin 16)  (s : State) : Host.Outcome State Fault Refusal :=
  run (stoOn j) s

/-- STO_OFF (R264). -/
def execStoOff (j : Fin 16)  (s : State) : Host.Outcome State Fault Refusal :=
  run (stoOff j) s

/-- ENCODER_EDGE (R274). -/
def execEncoderEdge (n : Fin 128) (f0 f1 f2 : Bool)  (s : State) : Host.Outcome State Fault Refusal :=
  run (whileRuns (encoderEdge n.val f0 f1 f2)) s

/-- INDEX (R276). -/
def execIndex (n : Fin 128)  (s : State) : Host.Outcome State Fault Refusal :=
  run (whileRuns (fbkIndex n.val)) s

/-- TOOTH_EDGE (R279). -/
def execToothEdge (n : Fin 128) (f1 : Bool)  (s : State) : Host.Outcome State Fault Refusal :=
  run (whileRuns (toothEdge n.val f1)) s

/-- SSI_READ_START (R284). -/
def execSsiReadStart (n : Fin 128) (data : Bool)  (s : State) : Host.Outcome State Fault Refusal :=
  run (whileRuns (ssiReadStart n.val data)) s

/-- SSI_WORD (R285). -/
def execSsiWord (n : Fin 128) (word : BitVec 48) (started : Bool) (rtt : BitVec 16)  (s : State) : Host.Outcome State Fault Refusal :=
  run (whileRuns (ssiWord n.val word started rtt)) s

/-- SSI_IDLE_TIMEOUT (R285). -/
def execSsiIdleTimeout (n : Fin 128)  (s : State) : Host.Outcome State Fault Refusal :=
  run (whileRuns (ssiIdleTimeout n.val)) s

/-- F2_EDGE (R291). -/
def execF2Edge (n : Fin 128) (level : Bool) (held : Nat)  (s : State) : Host.Outcome State Fault Refusal :=
  run (whileRuns (f2Edge n.val level held)) s

/-- ALIGN_END (R305). -/
def execAlignEnd (n : Fin 128)  (s : State) : Host.Outcome State Fault Refusal :=
  run (whileRuns (snlAlignEnd n.val)) s

/-- CATCH_TIMEOUT (R304). -/
def execCatchTimeout (n : Fin 128)  (s : State) : Host.Outcome State Fault Refusal :=
  run (whileRuns (snlCatchTimeout n.val)) s

/-- COAST_END (R308). -/
def execCoastEnd (n : Fin 128)  (s : State) : Host.Outcome State Fault Refusal :=
  run (whileRuns (snlCoastEnd n.val)) s

/-- RETRY_CLEAR (R308). -/
def execRetryClear (n : Fin 128)  (s : State) : Host.Outcome State Fault Refusal :=
  run (whileRuns (snlRetryClear n.val)) s

/-- COMMAND_PIN_EDGE (R309). -/
def execCommandPinEdge (n : Fin 128) (rising : Bool) (t : Nat)  (s : State) : Host.Outcome State Fault Refusal :=
  run (whileRuns (snlPinEdge n.val rising t)) s

/-- CMD_LOST (R309). -/
def execCmdLost (n : Fin 128)  (s : State) : Host.Outcome State Fault Refusal :=
  run (whileRuns (snlCmdLost n.val)) s

/-- SNL_TEST_START (R311). -/
def execSnlTestStart (path : Path) (n : Fin 128)  (s : State) : Host.Outcome State Fault Refusal :=
  .next (regPage path (.snl n) 0x0A8 1 s)

/-- A conversion from the sample list names its slot: it must be enabled with that input, and a slot with RATE = 1 converts only at
sample 0 (R317). The lists of R316 name none. -/
def slotTakes (k m : Nat) (slot : Option (Fin 16)) (c : Chip) : Bool :=
  match slot with
  | none => true
  | some s =>
    let w := act c (adcPage k) (0x100 + 4 * s.val)
    bit w 31 && fld w 2 0 == m && (!bit w 4 || decide (c.tim.sampleIdx ≤ 1))

/-- CONVERSION_DONE (R320, R321). -/
def execConversionDone (c : Fin 16) (input : Fin 8) (decisions : BitVec 18) (slot : Option (Fin 16)) (ns : Nat) (shifted : Bool)  (s : State) : Host.Outcome State Fault Refusal :=
  run (whileRuns (fun x => if slotTakes c.val input.val slot x then conversionDone c.val input.val decisions ns shifted x else x)) s

/-- KNOT_LIST_START (R318). -/
def execKnotListStart (mask : BitVec 16) (delay : Nat)  (s : State) : Host.Outcome State Fault Refusal :=
  run (whileRuns (knotListStart mask delay)) s

/-- ADC_SEQ_READ (R320). -/
def execAdcSeqRead (path : Path) (c : Fin 16)  (s : State) : Host.Outcome State Fault Refusal :=
  .next (regRead path (pageBase (.adc c) + 0x200) s)

/-- START (R325): ADC_CAL_CMD written with START = 1. -/
def execAdcStart (path : Path) (c : Fin 16)  (s : State) : Host.Outcome State Fault Refusal :=
  .next (regPage path (.adc c) 0x048 1 s)

/-- CAL_ALL (R324): ADC_CAL_CMD of converter 0 written with CAL_ALL = 1. -/
def execCalAll (path : Path)  (s : State) : Host.Outcome State Fault Refusal :=
  .next (regPage path (.adc 0) 0x048 2 s)

/-- CAL_DONE (R322). -/
def execCalDone (c : Fin 16) (ofs : BitVec 24) (gain : BitVec 24) (weights : List (BitVec 24))  (s : State) : Host.Outcome State Fault Refusal :=
  run (whileRuns (calDone c.val ofs gain weights)) s

/-- REFERENCE_FAULT (R329). -/
def execReferenceFault (refB : Bool)  (s : State) : Host.Outcome State Fault Refusal :=
  run (whileRuns (referenceFault refB)) s

/-- REFERENCE_RECOVERED (R329). -/
def execReferenceRecovered (refB : Bool)  (s : State) : Host.Outcome State Fault Refusal :=
  run (whileRuns (referenceRecovered refB)) s

/-- STUCK (R333). -/
def execStuck (k : Fin 8) (ch : Fin 48)  (s : State) : Host.Outcome State Fault Refusal :=
  run (whileRuns (stuckLine (48 * k.val + ch.val))) s

/-- SDF_SEQ_READ (R335). -/
def execSdfSeqRead (path : Path) (k : Fin 8)  (s : State) : Host.Outcome State Fault Refusal :=
  .next (regRead path (pageBase (.sdf k) + 0x1FC) s)

end Sys2Proof.Machine
end

