-- ==== Sys2Proof/Machine/Field.lean ====
section
/-!
DEFINITION. The meanings of the commands of the field die and the belay that touch neither axes nor the register window's own
rules (chapters 17 and 18).
-/

namespace Sys2Proof.Machine

def modField (f : FieldDie → FieldDie) (c : Chip) : Chip := { c with field := f c.field }

def modBly (f : BlySt → BlySt) (c : Chip) : Chip := { c with bly := f c.bly }

/-- The field die acts: powered, its clock running (R12, R412). -/
def fieldRuns (c : Chip) : Bool := c.field.powered && !clkLost c .field

/-- An event of the field die, which happens only while it acts. -/
def onField (f : Chip → Chip) (c : Chip) : Chip := if fieldRuns c then f c else c

/-- An event of the belay, which happens only while its clock runs and it is powered (R12, R436). -/
def onBly (f : BlySt → BlySt) (c : Chip) : Chip := if c.field.powered && !c.bly.clockLost then modBly f c else c

/-- Group enables fall in FLD_GROUP_EN with the field die's (R402, R409, R411). -/
def clearGroupEn (m : Byte) (c : Chip) : Chip := wr .fld 0x058 (rd c .fld 0x058 &&& ~~~(m.setWidth 32)) c

/-- FIELD_INPUT_EDGE (R398). -/
def execFieldInputEdge (p : Fin 64) (level : Bool) (held : Nat) (s : State) : Host.Outcome State Fault Refusal :=
  run (onField (fun c => modField (fieldInput (timeNs c) p level held) c)) s

/-- TETHER_FRAME_TX (R403): the field die's or the main die's next frame. -/
def execTetherFrameTx (uplink : Bool) (s : State) : Host.Outcome State Fault Refusal :=
  run (fun c => if uplink then onField uplinkTx c else if clkLost c .sys || c.pwr.state == .save then c else downlinkTx c) s

/-- DOWNLINK_FRAME (R404 to R407). -/
def execDownlinkFrame (f : DownFrame) (intact : Bool) (s : State) : Host.Outcome State Fault Refusal := run (onField (downlinkRx f intact)) s

/-- SCHEDULE_EXECUTE (R407). -/
def execScheduleExecute (p : Fin 64) (s : State) : Host.Outcome State Fault Refusal :=
  run (onField (fun c => modField (schedExecute (timeNs c) p.val) c)) s

/-- SCHEDULE_PULSE_END (R407). -/
def execSchedulePulseEnd (p : Fin 64) (s : State) : Host.Outcome State Fault Refusal :=
  run (onField (fun c => modField (pulseEnd (timeNs c) p.val) c)) s

/-- SHORT (R401). -/
def execShort (p : Fin 64) (s : State) : Host.Outcome State Fault Refusal :=
  run (onField (fun c => modField (shortPin (timeNs c) p) c)) s

/-- GROUP_OVER (R402): the group is disabled, 0xB3 latches, and GROUP_OVER is raised. -/
def execGroupOver (g : Fin 8) (s : State) : Host.Outcome State Fault Refusal :=
  run (fun c =>
    if fieldRuns c && (bit c.field.groups g.val || bit c.field.silHold g.val) then
      raise .fld 14 (latchFault .fld 0xB3 (clearGroupEn (1#8 <<< g.val)
        { modField (groupOff g.val) c with fld := { c.fld with groupOver := c.fld.groupOver ||| (1#8 <<< g.val) } }))
    else c) s

/-- FIELD_SILENCE (R409): no intact downlink frame for SIL_F. -/
def execFieldSilence (s : State) : Host.Outcome State Fault Refusal :=
  run (fun c =>
    if fieldRuns c && !c.field.silence && decide (c.field.lastIntact + c.field.silF * 1000 ≤ c.clk.now) then
      clearGroupEn 0xFF (modField (fieldSilence c.clk.now) c)
    else c) s

/-- SIL2_EXPIRY (R409). -/
def execSil2Expiry (p : Fin 64) (s : State) : Host.Outcome State Fault Refusal :=
  run (onField (fun c => modField (sil2Pin c.clk.now p.val) c)) s

/-- VFIELD_SAMPLE (R411); below 15 V the belay takes every safety input as a demand, below 12 V its outputs are safe (R436). -/
def execVfieldSample (mV : BitVec 16) (s : State) : Host.Outcome State Fault Refusal :=
  run (fun c =>
    let c1 := modField (vfieldStep mV) c
    let c2 := if c1.field.uvlo then clearGroupEn 0xFF c1 else c1
    if mV.toNat < 12000 then modBly outputsSafe c2 else c2) s

/-- FIELD_POWER_UP (R412, R436): VFIELD has passed 13 V; the belay enters START. -/
def execFieldPowerUp (s : State) : Host.Outcome State Fault Refusal :=
  run (fun c => if c.field.powered then c else modBly blyStart (modField (fieldPowerUp c.clk.now) c)) s

/-- BELAY_CYCLE (R416). -/
def execBelayCycle (selfTestOk parCrcOk : Bool) (soutRead : Byte) (stoRead : BitVec 16) (s : State) : Host.Outcome State Fault Refusal :=
  run (fun c => onBly (blyCycle c.clk.now c.field.invalid selfTestOk parCrcOk soutRead stoRead) c) s

/-- BELAY_START_DONE (R417, R426). -/
def execBelayStartDone (testsOk parOk rstA rstB : Bool) (s : State) : Host.Outcome State Fault Refusal :=
  run (fun c => onBly (blyStartDone c.clk.now testsOk parOk rstA rstB) c) s

/-- PROGRAM_FLOW_FAULT (R417, Table 18-1): the monitor makes every output safe at once, and 0xBD latches. -/
def execProgramFlowFault (s : State) : Host.Outcome State Fault Refusal :=
  run (fun c => if c.field.powered then modBly (fun b => outputsSafe (blyHalt 13 b)) c else c) s

/-- MEMORY_MARCH (R417, Table 18-1): a failed march or program check latches 0xBD. -/
def execMemoryMarch (ok : Bool) (s : State) : Host.Outcome State Fault Refusal :=
  run (onBly (fun b => if ok then b else blyHalt 13 b)) s

/-- TEST_PULSE (R420). -/
def execTestPulse (x : Fin 4) (levels : BitVec 24) (s : State) : Host.Outcome State Fault Refusal :=
  run (onBly (blyTestPulse x.val levels)) s

/-- SS1_ELAPSED (R424): the last cycle of SS1_T is over, and the function is SAFE. -/
def execSs1Elapsed (f : Fin 12) (s : State) : Host.Outcome State Fault Refusal :=
  run (onBly (fun b =>
    let x := fnSt b f.val
    if x.state = .stopping ∧ x.ss1 ≤ 1 ∧ b.state = .run then
      let b1 := setFn f.val { x with state := .safe, ss1 := 0 } b
      { b1 with stoNext := stoWanted b1, soutNext := soutWanted b1 }
    else b)) s

/-- RESET_PULSE (R426). -/
def execResetPulse (b : Bool) (ms : Nat) (s : State) : Host.Outcome State Fault Refusal :=
  run (fun c => onBly (blyReset c.clk.now b ms) c) s

/-- SOUT_TEST (R428, R429). -/
def execSoutTest (k : Fin 8) (readLow : Bool) (s : State) : Host.Outcome State Fault Refusal :=
  run (fun c => onBly (blySoutTest c.clk.now k.val readLow) c) s

/-- COMMIT_WRITE_DONE (R434). -/
def execCommitWriteDone (s : State) : Host.Outcome State Fault Refusal := run (onBly blyCommitDone) s

/-- SAFETY_INPUT_EDGE (R419): the filtered level of one safety input. -/
def execSafetyInputEdge (i : Fin 24) (level : Bool) (s : State) : Host.Outcome State Fault Refusal :=
  run (onBly (fun b => { b with level := if level then b.level ||| (1#24 <<< i.val) else b.level &&& ~~~(1#24 <<< i.val) })) s

end Sys2Proof.Machine
end

