-- ==== Sys2Proof/Machine/FieldExec.lean ====
section
/-!
DEFINITION. The meanings of the commands of the tether and of the belay at the main die (chapters 17 and 18).
-/

namespace Sys2Proof.Machine

/-- UPLINK_FRAME (R404). -/
def execUplinkFrame (f : UpFrame) (intact : Bool) (arrival : Nat)  (s : State) : Host.Outcome State Fault Refusal :=
  run (uplinkFull f intact arrival) s

/-- TETHER_SILENT (R410). -/
def execTetherSilent (s : State) : Host.Outcome State Fault Refusal :=
  run tetherLost s

/-- FLD_CONFIG_WRITE (R405): a configuration write of the FLD page, or of the belay. -/
def execFldConfigWrite (path : Path) (bly : Bool) (off : BitVec 12) (v : Word) (s : State) : Host.Outcome State Fault Refusal :=
  .next (regPage path (if bly then .bly else .fld) off.toNat v s)

/-- FLD_SHORT_CLEAR (R400): FLD_SHORT_LO or _HI written. -/
def execFldShortClear (path : Path) (hi : Bool) (v : Word)  (s : State) : Host.Outcome State Fault Refusal :=
  .next (regPage path .fld (if hi then 0x074 else 0x070) v s)

/-- FLD_GROUP_EN_WRITE (R401). -/
def execFldGroupEnWrite (path : Path) (v : Word)  (s : State) : Host.Outcome State Fault Refusal :=
  .next (regPage path .fld 0x058 v s)

/-- BLY_COMMIT (R434). -/
def execBlyCommit (path : Path) (key : Word)  (s : State) : Host.Outcome State Fault Refusal :=
  .next (regPage path .bly 0x054 key s)

/-- RESTART (R418). -/
def execRestart (path : Path) (v : Word)  (s : State) : Host.Outcome State Fault Refusal :=
  .next (regPage path .bly 0x058 v s)

end Sys2Proof.Machine
end

