-- ==== Sys2Proof/Machine/NetExec.lean ====
section
/-!
DEFINITION. The meanings of the commands of the line ports, the control protocol and the hitch frames (chapter 4).
-/

namespace Sys2Proof.Machine

/-- FRAME_RX (R69, R70). -/
def execFrameRx (port : Fin 5) (f : EthFrame) (fcsOk : Bool) (s : State) : Host.Outcome State Fault Refusal :=
  run (whileRuns (frameRx port f fcsOk)) s

/-- FRAME_TRANSMIT (R71). -/
def execFrameTransmit (port : Fin 4) (s : State) : Host.Outcome State Fault Refusal :=
  run (whileRuns (frameTransmit port.val)) s

/-- GCL_ENTRY_CHANGE (R72). -/
def execGclEntryChange (port : Fin 4) (s : State) : Host.Outcome State Fault Refusal :=
  run (whileRuns (gclEntryChange port.val)) s

/-- ADDRESS_AGEING (R69). -/
def execAddressAgeing (mac : BitVec 48) (s : State) : Host.Outcome State Fault Refusal :=
  run (whileRuns (ageOut mac)) s

/-- LINK_UP (R92). -/
def execLinkUp (port : Fin 4) (anDone : Bool) (s : State) : Host.Outcome State Fault Refusal :=
  run (whileRuns (portLinkUp port.val anDone)) s

/-- LINK_DOWN (R92). -/
def execLinkDown (port : Fin 4) (remoteFault : Bool) (s : State) : Host.Outcome State Fault Refusal :=
  run (whileRuns (portLinkDown port.val remoteFault)) s

/-- NET_MDIO_GO (R92): NET_MDIO written with GO = 1. -/
def execNetMdioGo (path : Path) (port : Fin 4) (v : Word) (s : State) : Host.Outcome State Fault Refusal :=
  .next (regPage path (.net port) 0x05C (v ||| 0x80000000) s)

/-- MDIO_DONE (R92). -/
def execMdioDone (port : Fin 4) (data : BitVec 16) (s : State) : Host.Outcome State Fault Refusal :=
  run (whileRuns (mdioDone port.val data)) s

/-- ICMP_ECHO_REQUEST (R75). -/
def execIcmpEchoRequest (h : IpHdr) (data : List Byte) (s : State) : Host.Outcome State Fault Refusal :=
  run (whileRuns (icmpEcho h data)) s

/-- OPEN (R78, R79). -/
def execYcpOpen (ses : Fin 4) (g : Dgram) (slot : Byte) (rsv : BitVec 24) (clientNonce devNonce : BitVec 128) (s : State) : Host.Outcome State Fault Refusal :=
  run (whileRuns (sesOpen ses.val g slot rsv clientNonce devNonce)) s

/-- KEEPALIVE (R79). -/
def execYcpKeepalive (ses : Fin 4) (g : Dgram) (s : State) : Host.Outcome State Fault Refusal :=
  run (whileRuns (sesKeepalive ses.val g)) s

/-- CLOSE (R79). -/
def execYcpClose (ses : Fin 4) (g : Dgram) (s : State) : Host.Outcome State Fault Refusal :=
  run (whileRuns (sesClose ses.val g)) s

/-- READ (R80 to R83). -/
def execYcpRead (ses : Fin 4) (g : Dgram) (b : YcpBody) (s : State) : Host.Outcome State Fault Refusal :=
  .next (if mainRuns s.chip then ycpRequest ses g { kind := .read, body := b } s else s)

/-- WRITE (R80 to R83). -/
def execYcpWrite (ses : Fin 4) (g : Dgram) (b : YcpBody) (s : State) : Host.Outcome State Fault Refusal :=
  .next (if mainRuns s.chip then ycpRequest ses g { kind := .write, body := b } s else s)

/-- READ_BLOCK (R80 to R83). -/
def execYcpReadBlock (ses : Fin 4) (g : Dgram) (b : YcpBody) (s : State) : Host.Outcome State Fault Refusal :=
  .next (if mainRuns s.chip then ycpRequest ses g { kind := .readBlock, body := b } s else s)

/-- WRITE_BLOCK (R80 to R83). -/
def execYcpWriteBlock (ses : Fin 4) (g : Dgram) (b : YcpBody) (s : State) : Host.Outcome State Fault Refusal :=
  .next (if mainRuns s.chip then ycpRequest ses g { kind := .writeBlock, body := b } s else s)

/-- COMMAND (R80 to R83). -/
def execYcpCommand (ses : Fin 4) (g : Dgram) (b : YcpBody) (buf : Option (List DWord)) (s : State) : Host.Outcome State Fault Refusal :=
  .next (if mainRuns s.chip then ycpRequest ses g { kind := .command, body := b, buf := buf } s else s)

/-- SESSION_PENDING_TIMEOUT (R79). -/
def execSessionPendingTimeout (ses : Fin 4) (s : State) : Host.Outcome State Fault Refusal :=
  run (whileRuns (sesPendingTimeout ses.val)) s

/-- SESSION_TIMEOUT (R79). -/
def execSessionTimeout (ses : Fin 4) (s : State) : Host.Outcome State Fault Refusal :=
  run (whileRuns (sesTimeout ses.val)) s

/-- SES_CLOSE (R79). -/
def execSesClose (path : Path) (ses : Fin 4) (s : State) : Host.Outcome State Fault Refusal :=
  .next (regPage path .ycp (sesOff ses.val 0x18) 1 s)

/-- YCP_ORPHAN_POP (R83). -/
def execYcpOrphanPop (path : Path) (s : State) : Host.Outcome State Fault Refusal :=
  .next (regRead path (pageBase .ycp + 0x058) s)

/-- HITCH_FRAME_PUBLISH (R87). -/
def execHitchFramePublish (s : State) : Host.Outcome State Fault Refusal :=
  run (whileRuns (hitchPublish)) s

/-- HITCH_FRAME_RX (R89). -/
def execHitchFrameRx (port : Fin 4) (rx : Nat) (f : HitchFrame) (s : State) : Host.Outcome State Fault Refusal :=
  .next (heldDue (onChip (whileRuns (hitchFrameRx port.val rx f)) s))

/-- SUBSCRIPTION_MISS (R89). -/
def execSubscriptionMiss (j : Fin 16) (s : State) : Host.Outcome State Fault Refusal :=
  .next (heldDue (onChip (whileRuns (subMiss j.val)) s))

end Sys2Proof.Machine
end

