-- ==== Sys2Proof/Machine/PageExec.lean ====
section
/-!
DEFINITION. The meanings of the commands of the clocks and of the register pages (chapters 1 and 2): page enables and resets, seals,
splice requests, events, fault clears, applies, ownership, plain register accesses and the vectors.
-/

namespace Sys2Proof.Machine

/-- CLOCK_LOSS (R16). -/
def execClockLoss (d : Clk) (s : State) : Host.Outcome State Fault Refusal :=
  run (clockLossOf d) s

/-- CLOCK_RETURN (R16, R265). -/
def execClockReturn (d : Clk) (s : State) : Host.Outcome State Fault Refusal :=
  run (clockReturnOf d) s

/-- PLL_UNLOCK (R469). -/
def execPllUnlock (x : Pll) (s : State) : Host.Outcome State Fault Refusal :=
  run (pllUnlockOf x) s

/-- PCIE_LINK_UP (R45). -/
def execPcieLinkUp (s : State) : Host.Outcome State Fault Refusal :=
  run (pcieLink true) s

/-- PCIE_LINK_DOWN (R12). -/
def execPcieLinkDown (s : State) : Host.Outcome State Fault Refusal :=
  run (pcieLink false) s

/-- BLOCK_WATCHDOG (R9). -/
def execBlockWatchdog (p : Page) (s : State) : Host.Outcome State Fault Refusal :=
  .next (watchdogOn p s)

/-- PAGE_ENABLE (R33): PG_CTL written with EN = 1. -/
def execPageEnable (path : Path) (p : Page) (s : State) : Host.Outcome State Fault Refusal :=
  .next (regPage path p 0x008 1 s)

/-- PAGE_DISABLE (R33): PG_CTL written with EN = 0. -/
def execPageDisable (path : Path) (p : Page) (s : State) : Host.Outcome State Fault Refusal :=
  .next (regPage path p 0x008 0 s)

/-- PGRESET (R34). -/
def execPgReset (path : Path) (p : Page) (s : State) : Host.Outcome State Fault Refusal :=
  .next (regPage path p 0x008 4 s)

/-- PAGE_RESET_COMPLETE (R34). -/
def execPageResetComplete (p : Page) (s : State) : Host.Outcome State Fault Refusal :=
  run (whileRuns (pageResetEnd p)) s

/-- SEAL (R35): PG_CTL written with SEAL = 1 and EN as it stands. -/
def execSealPage (path : Path) (p : Page) (s : State) : Host.Outcome State Fault Refusal :=
  .next (regPage path p 0x008 (w32 (flag (hdr s.chip p).en 0 + 0x100)) s)

/-- SEAL_CRC_CHECK (R35). -/
def execSealCrcCheck (p : Page) (s : State) : Host.Outcome State Fault Refusal :=
  run (whileRuns (sealCheck p)) s

/-- SPLICE_REQ (R484): PG_CTL written with SPLICE_REQ = 1 and EN as it stands. -/
def execSpliceReq (path : Path) (p : Page) (s : State) : Host.Outcome State Fault Refusal :=
  .next (regPage path p 0x008 (w32 (flag (hdr s.chip p).en 0 + 0x010)) s)

/-- SPLICE_LIMIT_EXPIRY (R484). -/
def execSpliceLimitExpiry (p : Page) (intact : Bool) (s : State) : Host.Outcome State Fault Refusal :=
  run (whileRuns (spliceExpiry p intact)) s

/-- PG_EVT_WRITE (R37). -/
def execPgEvtWrite (path : Path) (p : Page) (v : Word) (s : State) : Host.Outcome State Fault Refusal :=
  .next (regPage path p 0x010 v s)

/-- PG_EVEN_WRITE (R37). -/
def execPgEvenWrite (path : Path) (p : Page) (v : Word) (s : State) : Host.Outcome State Fault Refusal :=
  .next (regPage path p 0x014 v s)

/-- PG_EVSET_WRITE (R37). -/
def execPgEvsetWrite (path : Path) (p : Page) (v : Word) (s : State) : Host.Outcome State Fault Refusal :=
  .next (regPage path p 0x018 v s)

/-- PG_FLT_CLEAR (R36). -/
def execPgFltClear (path : Path) (p : Page) (s : State) : Host.Outcome State Fault Refusal :=
  .next (regPage path p 0x020 1 s)

/-- PG_APPLY (R38). -/
def execPgApply (path : Path) (p : Page) (s : State) : Host.Outcome State Fault Refusal :=
  .next (regPage path p 0x028 1 s)

/-- APPLY (R38): the apply point of a page whose apply is requested. -/
def execApply (p : Page) (s : State) : Host.Outcome State Fault Refusal :=
  run (fun c => if mainRuns c && applyDue c p then pageApply p c else c) s

/-- PG_OWNER_WRITE (R41). -/
def execPgOwnerWrite (path : Path) (p : Page) (v : Word) (s : State) : Host.Outcome State Fault Refusal :=
  .next (regPage path p 0x02C v s)

/-- REGISTER_WRITE (R40). -/
def execRegisterWrite (path : Path) (off : BitVec 24) (v : Word) (more : List Word) (full : Bool) (s : State) : Host.Outcome State Fault Refusal :=
  .next (writeAccess path off.toNat v more full s)

/-- PAIR_LO_READ (R3). -/
def execPairLoRead (path : Path) (off : BitVec 24) (more : Fin 128) (full : Bool) (s : State) : Host.Outcome State Fault Refusal :=
  .next (readAccess path off.toNat more.val full s)

/-- PAIR_LO_WRITE (R3). -/
def execPairLoWrite (path : Path) (off : BitVec 24) (v : Word) (s : State) : Host.Outcome State Fault Refusal :=
  .next (regWrite path off.toNat v s)

/-- PAIR_HI_WRITE (R3). -/
def execPairHiWrite (path : Path) (off : BitVec 24) (v : Word) (s : State) : Host.Outcome State Fault Refusal :=
  .next (regWrite path off.toNat v s)

/-- EVT_MASK_WRITE (R44). -/
def execEvtMaskWrite (path : Path) (hi : Bool) (v : Word) (s : State) : Host.Outcome State Fault Refusal :=
  .next (regPage path .evt (if hi then 0x04C else 0x048) v s)

/-- VECTOR_MESSAGE (R44, R85). -/
def execVectorMessage (v : Fin 64) (s : State) : Host.Outcome State Fault Refusal :=
  run (whileRuns (sendVector v.val)) s

/-- DEV_SPLICE_LOG_POP (R491). -/
def execDevSpliceLogPop (path : Path) (s : State) : Host.Outcome State Fault Refusal :=
  .next (regRead path (pageBase .dev + 0x200) s)

end Sys2Proof.Machine
end

