-- ==== Sys2Proof/Machine/CamOps.lean ====
section
/-!
DEFINITION. The ends of CAM_LOAD and CAM_VERIFY (R171, R186).
-/

namespace Sys2Proof.Machine

/-- The running CRC-32C after the 16 bytes of a node, before the final inversion. -/
def crcNode (r : Nat) (w : BitVec 128) : Nat := (toBytes 16 w.toNat).foldl (fun r b => crcBitsLsb 0x82F63B78 8 (r ^^^ b.toNat)) r

/-- The CRC-32C that a running value stands for. -/
def crcFinal (r : Nat) : Word := BitVec.ofNat 32 (r ^^^ 0xFFFFFFFF)

/-- The command that runs in the cam engine ends, and the next one begins. -/
def camEnd (id : Nat) (status detail : Byte) (result : DWord) (c : Chip) : Chip := camDrop id (finish id status detail result c)

/-- Nodes written from node `i` on. -/
def writeNodes : List (BitVec 128) → Nat → State → State
  | [], _, s => s
  | w :: t, i, s => writeNodes t (i + 1) (writeBytes .dram (16 * nodeWord s.chip i) (toBytes 16 w.toNat) s)

/-- LOAD_DONE: every node is written, the malformed ones too, which are counted and fail the command with 0x1A; a source that cannot be
read fails it with 0x07, and an unavailable DRAM with 0x19. -/
def loadDone (nodes : Option (List (BitVec 128))) (s : State) : State :=
  match s.chip.cam.active with
  | some (id, true, first, n, _) =>
    if !isUp s.chip .cam then s
    else if !dramUp s.chip then onChip (camEnd id stFailed 0x19 0) s
    else
      match nodes with
      | none => onChip (fun c => emit (.aer .hostRead) (camEnd id stFailed 0x07 0 c)) s
      | some l =>
        if l.length < n then onChip (fun c => emit (.aer .hostRead) (camEnd id stFailed 0x07 0 c)) s
        else
          let ws := l.take n
          let crc := crcFinal (ws.foldl crcNode 0xFFFFFFFF)
          let bad := (ws.map (fun w => badNode (decodeNode w)))
          let k := (bad.filter (fun b => b)).length
          onChip (fun c =>
            let c1 := { c with cam :=
              { c.cam with
                crc := crc
                bad := k
                badNode := if k = 0 then 0 else first + (bad.takeWhile (fun b => !b)).length } }
            raise .cam 8 (camEnd id (if k = 0 then stDone else stFailed) (if k = 0 then 0 else 0x1A) (crc.setWidth 64) c1))
            (writeNodes ws first s)
  | _ => s

/-- The running CRC over `n` nodes from node `i`; `none` at an uncorrectable word. -/
def readNodes : Nat → Nat → Nat → State → State × Option Nat
  | 0, _, r, s => (s, some r)
  | n + 1, i, r, s =>
    match readCode .dram (nodeWord s.chip i) false s with
    | (s1, some w) => readNodes n (i + 1) (crcNode r w) s1
    | (s1, none) => (s1, none)

/-- CAM_VERIFY_DONE: the CRC of the range against the expected one; a mismatch fails with 0x09, an uncorrectable word or an unavailable
DRAM with 0x19. -/
def verifyDone (s : State) : State :=
  match s.chip.cam.active with
  | some (id, false, first, n, want) =>
    if !isUp s.chip .cam then s
    else if !dramUp s.chip then onChip (camEnd id stFailed 0x19 0) s
    else
      match readNodes n first 0xFFFFFFFF s with
      | (s1, none) => onChip (camEnd id stFailed 0x19 0) s1
      | (s1, some r) =>
        let crc := crcFinal r
        onChip (fun c =>
          let c1 := { c with cam := { c.cam with crc := crc } }
          if crc = want then camEnd id stDone 0 (crc.setWidth 64) c1 else raise .cam 9 (camEnd id stFailed 0x09 (crc.setWidth 64) c1)) s1
  | _ => s

end Sys2Proof.Machine
end

