-- ==== Sys2Proof/Machine/RingExec.lean ====
section
/-!
DEFINITION. The meanings of the commands of chapter 3: doorbells, ring sizes, fetches, and the commands of the rings as their rows
give them, with the ends of the work that a command leaves to a block.
-/

namespace Sys2Proof.Machine

/-- SQ_TAIL_DB (R53). -/
def execSqTailDb (path : Path) (r : Fin 4) (v : Word) (s : State) : Host.Outcome State Fault Refusal :=
  .next (regPage path .cmd (sqOff r.val 0x10) v s)

/-- SQ_RESET (R53): SQ_CTL written with SQ_RESET = 1 and EN as it stands. -/
def execSqReset (path : Path) (r : Fin 4) (s : State) : Host.Outcome State Fault Refusal :=
  .next (regPage path .cmd (sqOff r.val 0x0C) (w32 (flag (sqEn s.chip r.val) 0 + 2)) s)

/-- CQ_HEAD_DB (R54). -/
def execCqHeadDb (path : Path) (v : Word) (s : State) : Host.Outcome State Fault Refusal :=
  .next (regPage path .cmd 0x0D0 v s)

/-- SQ_SIZE_WRITE (R55). -/
def execSqSizeWrite (path : Path) (r : Fin 4) (v : Word) (s : State) : Host.Outcome State Fault Refusal :=
  .next (regPage path .cmd (sqOff r.val 0x08) v s)

/-- CQ_SIZE_WRITE (R55). -/
def execCqSizeWrite (path : Path) (v : Word) (s : State) : Host.Outcome State Fault Refusal :=
  .next (regPage path .cmd 0x0C8 v s)

/-- RING_RESIZE_APPLY (R55): of a submission ring, or of the completion ring. -/
def execRingResizeApply (ring : Option (Fin 4)) (s : State) : Host.Outcome State Fault Refusal :=
  run (fun c =>
    if !mainRuns c then c
    else match ring with
      | some r => sqResizeApply r.val c
      | none => cqResizeApply c) s

/-- CQ_ENABLE (R67): CQ_CTL written with EN = 1. -/
def execCqEnable (path : Path) (s : State) : Host.Outcome State Fault Refusal :=
  .next (regPage path .cmd 0x0CC 1 s)

/-- HELD_COMPLETION_POST (R67). -/
def execHeldCompletionPost (s : State) : Host.Outcome State Fault Refusal :=
  run (whileRuns postHeld) s

/-- COMMAND_FETCH (R48, R56, R58). -/
def execCommandFetch (entries : List (Option Fetched)) (s : State) : Host.Outcome State Fault Refusal :=
  .next (fetchCmds entries s)

/-- REG_BATCH (R63). -/
def execRegBatch (h : Hdr) (list : Option (List DWord)) (count : BitVec 16) (cont : Bool) (s : State) : Host.Outcome State Fault Refusal :=
  .next (ringCommand h (.regBatch list count cont) s)

/-- MOVE_ABS (R127). -/
def execMoveAbs (h : Hdr) (axis : Word) (pos vel acc dec jerk : DWord) (s : State) : Host.Outcome State Fault Refusal :=
  .next (ringCommand h (.moveAbs axis pos vel acc dec jerk) s)

/-- MOVE_REL (R129). -/
def execMoveRel (h : Hdr) (axis : Word) (dist vel acc dec jerk : DWord) (s : State) : Host.Outcome State Fault Refusal :=
  .next (ringCommand h (.moveRel axis dist vel acc dec jerk) s)

/-- MOVE_VEL (R131). -/
def execMoveVel (h : Hdr) (axis : Word) (vel acc dec jerk : DWord) (s : State) : Host.Outcome State Fault Refusal :=
  .next (ringCommand h (.moveVel axis vel acc dec jerk) s)

/-- STOP (R137). -/
def execStop (h : Hdr) (axis : Word) (kind : Byte) (s : State) : Host.Outcome State Fault Refusal :=
  .next (ringCommand h (.stop axis kind) s)

/-- RESUME (R139). -/
def execResume (h : Hdr) (axis : Word) (s : State) : Host.Outcome State Fault Refusal :=
  .next (ringCommand h (.resume axis) s)

/-- HOME (R143). -/
def execHome (h : Hdr) (axis : Word) (method flags : Byte) (search creep accel offset : DWord) (s : State) : Host.Outcome State Fault Refusal :=
  .next (ringCommand h (.home axis method flags search creep accel offset) s)

/-- ENABLE (R122). -/
def execEnable (h : Hdr) (axis : Word) (en : Byte) (s : State) : Host.Outcome State Fault Refusal :=
  .next (ringCommand h (.enable axis en) s)

/-- GROUP_MOVE (R152). -/
def execGroupMove (h : Hdr) (group : Word) (targets : Option (List DWord)) (count : Byte) (relative : Bool) (vel acc dec jerk : DWord) (s : State) : Host.Outcome State Fault Refusal :=
  .next (ringCommand h (.groupMove group targets count relative vel acc dec jerk) s)

/-- HITCH_SET (R159). -/
def execHitchSet (h : Hdr) (hitch : Word) (record : BitVec 256) (s : State) : Host.Outcome State Fault Refusal :=
  .next (ringCommand h (.hitchSet hitch record) s)

/-- HITCH_RELEASE (R163). -/
def execHitchRelease (h : Hdr) (hitch : Word) (ramp : Bool) (s : State) : Host.Outcome State Fault Refusal :=
  .next (ringCommand h (.hitchRelease hitch ramp) s)

/-- CAM_LOAD (R171). -/
def execCamLoad (h : Hdr) (first count : Word) (s : State) : Host.Outcome State Fault Refusal :=
  .next (ringCommand h (.camLoad first count) s)

/-- CAM_VERIFY (R171). -/
def execCamVerify (h : Hdr) (first count crc : Word) (s : State) : Host.Outcome State Fault Refusal :=
  .next (ringCommand h (.camVerify first count crc) s)

/-- FCO_LOAD (R361). -/
def execFcoLoad (h : Hdr) (mask len : Word) (s : State) : Host.Outcome State Fault Refusal :=
  .next (ringCommand h (.fcoLoad mask len) s)

/-- TRACE_START (R389). -/
def execTraceStart (h : Hdr) (s : State) : Host.Outcome State Fault Refusal :=
  .next (ringCommand h (.traceStart) s)

/-- TRACE_STOP (R389). -/
def execTraceStop (h : Hdr) (s : State) : Host.Outcome State Fault Refusal :=
  .next (ringCommand h (.traceStop) s)

/-- FAULT_CLEAR (R123). -/
def execFaultClear (h : Hdr) (page : Word) (s : State) : Host.Outcome State Fault Refusal :=
  .next (ringCommand h (.faultClear page) s)

/-- SAVE_TEST (R463). -/
def execSaveTest (h : Hdr) (s : State) : Host.Outcome State Fault Refusal :=
  .next (ringCommand h (.saveTest) s)

/-- CAM_READ_DONE (R159). -/
def execCamReadDone (hitch : Fin 256) (s : State) : Host.Outcome State Fault Refusal :=
  .next (if mainRuns s.chip then camRead hitch.val s else s)

/-- LOAD_DONE (R171). -/
def execLoadDone (nodes : Option (List (BitVec 128))) (s : State) : Host.Outcome State Fault Refusal :=
  .next (if mainRuns s.chip then loadDone nodes s else s)

/-- CAM_VERIFY_DONE (R171). -/
def execCamVerifyDone (s : State) : Host.Outcome State Fault Refusal :=
  .next (if mainRuns s.chip then verifyDone s else s)

/-- IMAGE_CHECKED (R361). -/
def execImageChecked (image : Option (List Byte)) (digestOk sigOk : Bool) (s : State) : Host.Outcome State Fault Refusal :=
  run (whileRuns (imageChecked image digestOk sigOk)) s

/-- IMAGE_LOADED (R486). -/
def execImageLoaded (k : Fin 8) (s : State) : Host.Outcome State Fault Refusal :=
  .next (if mainRuns s.chip then imageLoaded k.val s else s)

/-- BAR2_WRITE (R47). -/
def execBar2Write (addr : BitVec 30) (access : Bar2Access) (s : State) : Host.Outcome State Fault Refusal :=
  .next (bar2 addr.toNat access s)

end Sys2Proof.Machine
end

