-- ==== Sys2Proof/Machine/BootOps.lean ====
section
/-!
DEFINITION. Start-up (R457, Table 20-3): keep memory, the boot image and its records, the save image, and the restart after a save
(R449, R456 to R458, R462, R465, R466).
-/

namespace Sys2Proof.Machine

/-- Steps 1 to 3: PLLs locked, clocks running; the keep device's parameter table is read (R449) and the key records unwrapped (R473). A
device that does not answer or is too small latches 0xC2 and serves as none. -/
def bootKeep (env : BootEnv) (c : Chip) : Chip :=
  let ok := decide (4 ≤ env.keepMiB)
  let mib := if ok then min 255 env.keepMiB else 0
  let c1 : Chip :=
    { c with
      clk := { c.clk with running := ~~~c.clk.lost, pll := 0x3F, unlocked := 0 }
      tim := { c.tim with pllLock := true, relocking := false, pllSrc := 0, pllMhz := 25 }
      keep := { c.keep with present := ok, mib := mib, bootEnd := 0 }
      sec := { c.sec with psk := if ok then c.keep.psk else [] }
      pwr := { c.pwr with started := true, resetAt := c.clk.now } }
  let c2 := wr .kep 0x04C (BitVec.ofNat 32 (min 255 env.keepMiB)) (wr .kep 0x048 (if 1 ≤ env.keepMiB then env.keepId.setWidth 32 else 0) c1)
  let c3 := wr .kep 0x050 (BitVec.ofNat 32 (saveTop mib)) c2
  if ok then raise .kep 8 c3 else latchCond .kep 0xC2 c3

/-! ### The boot image (R456) -/

/-- Bytes 0 to 3 hold MAGIC. -/
def bootMagic (env : BootEnv) : Bool := imgField env.boot 0 4 == 0x544F4F42

/-- The bytes of the image, header and body. -/
def bootLen (env : BootEnv) : Nat := 160 + imgField env.boot 12 4

/-- The bytes of keep memory that `n` data bytes take: 18 for each word of 16 (R441). -/
def keepBytes (n : Nat) : Nat := (n + 15) / 16 * 18

/-- The body split into records, each a TYPE and its bytes: `none` unless the records fill it. -/
def splitRecords : Nat → List Byte → Option (List (Nat × List Byte))
  | 0, bs => if bs.isEmpty then some [] else none
  | n + 1, bs =>
    let len := imgField bs 1 3
    if bs.length < 4 + len then none
    else (splitRecords n (bs.drop (4 + len))).map (fun l => (imgField bs 0 1, (bs.drop 4).take len) :: l)

/-- The records of the body. -/
def bootBody (env : BootEnv) : Option (List (Nat × List Byte)) :=
  splitRecords (imgField env.boot 16 2) ((env.boot.drop 160).take (imgField env.boot 12 4))

/-- The list entries of a TYPE 1 record. -/
def bootEntries : Nat → List Byte → List DWord
  | 0, _ => []
  | n + 1, bs => BitVec.ofNat 64 (imgField bs 0 8) :: bootEntries n (bs.drop 8)

/-- One record: TYPE 2 and TYPE 3 begin with their mask, a 32-bit word. -/
def bootRec (typ : Nat) (bs : List Byte) (ok : Bool × Bool) : BootRec :=
  match typ with
  | 1 => if bs.length % 8 = 0 then .batch (bootEntries (bs.length / 8) bs) else .other 1
  | 2 => if imgField bs 0 4 < 256 then .cores (BitVec.ofNat 8 (imgField bs 0 4)) (bs.drop 4) ok.1 ok.2 else .other 2
  | 3 => if imgField bs 0 4 < 256 then .loops (BitVec.ofNat 8 (imgField bs 0 4)) (bs.drop 4) ok.1 ok.2 else .other 3
  | t => .other (BitVec.ofNat 8 t)

/-- The records with the outcomes of their images' checks. -/
def bootRecList : List (Nat × List Byte) → List (Bool × Bool) → List BootRec
  | [], _ => []
  | (t, bs) :: l, oks => bootRec t bs (oks.headD (false, false)) :: bootRecList l (oks.drop 1)

/-- The checks that an image passes by itself: its header, its length, its records and its digest, and no uncorrectable word in it
(R456, R458, Table 19-2). -/
def bootForm (env : BootEnv) : Bool :=
  env.readOk && imgField env.boot 4 2 == 1 && decide (imgField env.boot 6 2 < 2) && decide (imgField env.boot 32 1 ≤ 3) &&
  decide (bootLen env ≤ env.boot.length) && decide (keepBytes (bootLen env) ≤ 4 * 2 ^ 20) && (bootBody env).isSome && env.digestOk

/-- Those that rest on the device: the save area above it, and the signature that the lifecycle asks for (R456, R470). -/
def bootAllowed (c : Chip) (env : BootEnv) : Bool :=
  let slot := imgField env.boot 32 1
  decide (keepBytes (bootLen env) ≤ saveBase c) && decide (c.sec.life < 3) &&
  (if imgField env.boot 6 2 = 1 then env.sigOk && bit c.sec.programmed slot && !bit c.sec.revoked slot else decide (c.sec.life < 2))

/-- A rejected image or a record that failed (R458). -/
def bootFailed (c : Chip) : Chip := raise .pwr 13 (latchFault .pwr 0xC8 (modPwr (fun w => { w with bootFail := true }) c))

/-- The writes of a TYPE 1 record, with CONTINUE = 0: whether every one was performed. -/
def bootBatch : List DWord → State → State × Bool
  | [], s => (s, true)
  | e :: t, s =>
    let off := fld e 23 0
    let drop := sealDrop s.chip off
    match writeWindow .pcie off (half e true) s with
    | (s1, .ok) => if drop then (s1, false) else bootBatch t s1
    | (s1, _) => (s1, false)

/-- One record of the boot image (R456). -/
def bootRecord (r : BootRec) (s : State) : State × Bool :=
  match r with
  | .batch l => bootBatch l s
  | .cores mask img digestOk sigOk =>
    if mask = 0 ∨ !imgRules fcoMagic img ∨ !imgAllowed s.chip img digestOk sigOk then (s, false)
    else
      (((List.range 8).filter (fun k => bit mask k)).foldl (fun s k =>
        onChip (fun c => if isUp c (fcoPage k) then startCore k c else c) (loadCore k img s)) s, true)
  | .loops mask img digestOk sigOk =>
    if mask = 0 ∨ 16 ≤ mask.toNat ∨ !imgRules 0x3145504C img ∨ imgField img 16 8 ≠ 0 ∨ !imgAllowed s.chip img digestOk sigOk then (s, false)
    else
      (((List.range 4).filter (fun e => bit mask e)).foldl (fun s e =>
        onChip (wr (lpePage e) 0x054 (BitVec.ofNat 32 (imgField img 8 4))) s) s, true)
  | .other _ => (s, false)

/-- The records in order; a record that fails stops the boot there (R458). -/
def bootRecords : List BootRec → State → State × Bool
  | [], s => (s, true)
  | r :: t, s =>
    match bootRecord r s with
    | (s1, true) => bootRecords t s1
    | (s1, false) => (s1, false)

/-- Step 5: the boot image (R456, R458, R470). -/
def bootImage (env : BootEnv) (s : State) : State :=
  let c := s.chip
  if !c.keep.present ∨ !bootMagic env then s
  else if !bootForm env ∨ !bootAllowed c env then onChip bootFailed s
  else
    let recs := bootRecList ((bootBody env).getD []) env.recChecks
    match bootRecords recs (onChip (fun c => { c with keep := { c.keep with bootEnd := keepBytes (bootLen env) } }) s) with
      | (s1, true) => onChip (modPwr (fun w => { w with bootedFromKeep := true })) s1
      | (s1, false) => onChip bootFailed s1

/-- The configuration of the saved pages comes from the image, in shadows and active registers alike (R466). -/
def restoreRegs (m : SaveImg) (c : Chip) : Chip :=
  let kept := c.regs.filter (fun x => !savedReg x.1)
  { c with regs := m.regs.foldl (fun t x => tabSet (regReset x.1) t x.1 x.2) kept }

/-- Each saved page takes its saved EN (R466). -/
def restoreEn (m : SaveImg) (s : State) : State :=
  let on := m.enabled.filterMap pageOfNum
  let off := (s.chip.pages.filter (fun x => x.2.en && !m.enabled.contains x.1 &&
    (match pageOfNum x.1 with | some p => savedPage p | none => false))).filterMap (fun x => pageOfNum x.1)
  onChip (fun c => each on pageOn c) (eachS off pageOff s)

/-- Axes start DISABLED; REFERENCED is restored for virtual axes and for absolute SSI feedback alone (R147). -/
def restoreAxes (m : SaveImg) (c : Chip) : Chip :=
  each m.axes (fun x c =>
    let n := x.1
    let absolute := isPhys n && fbkMode c n == 4 && bit (act c (.fbk (f128 n)) 0x040) 20
    let sp : Sp := { p := x.2.1 }
    modAxis n (fun a => { a with
      cur := sp
      nxt := sp
      old1 := sp
      old2 := sp
      target := x.2.2.1
      referenced := x.2.2.2 && (!isPhys n || absolute) }) c) c

/-- Commands in flight at the sag are held ORPHANED, decided completions with their own status, and YCP commands go to YCP_ORPHAN. -/
def restoreCmds (m : SaveImg) (c : Chip) : Chip :=
  let orphans := (m.ring.filter (fun x => x.status == stOrphaned)).length
  let c1 := { c with cmd :=
    { c.cmd with
      held := m.ring
      nextId := m.ring.foldl (fun n x => max n x.id) c.cmd.nextId } }
  wr .pwr 0x058 (BitVec.ofNat 32 (orphans % 512 + m.ycp.length % 512 * 65536)) (each m.ycp (fun x c => pushOrphan x.1 x.2 c) c1)

/-- A save image written over the configuration (R466). -/
def restoreSave (m : SaveImg) (s : State) : State :=
  let s1 := restoreEn m (onChip (restoreRegs m) s)
  onChip (fun c =>
    let c1 := restoreCmds m (restoreAxes m c)
    let c2 := restoreInteg (modPwr (fun w => { w with lastSave := 1, notSaved := false, savedInteg := m.integ }) c1)
    raise .pwr 11 { c2 with trc := { c2.trc with lastTime := m.traceTime } }) s1

/-- Step 6: the save area, read where KEP_SAVE_BASE points and erased once it has been read (R465). -/
def bootSave (env : BootEnv) (s : State) : State :=
  let c := s.chip
  let k := c.keep
  if !k.present ∨ !k.startRec ∨ k.base ≠ saveBase c then onChip (modPwr (fun w => { w with lastSave := 0, notSaved := true })) s
  else
    let s1 := onChip (fun c => { c with keep := { c.keep with startRec := false, marker := none, image := none } }) s
    match k.marker, k.image with
    | none, _ => onChip (fun c => latchFault .pwr 0xCA (modPwr (fun w => { w with lastSave := 3, notSaved := true }) c)) s1
    | some true, some m =>
      if env.saveCrcOk then restoreSave m s1
      else onChip (fun c => latchFault .pwr 0xC9 (modPwr (fun w => { w with lastSave := 2, notSaved := true }) c)) s1
    | _, _ => onChip (fun c => latchFault .pwr 0xC9 (modPwr (fun w => { w with lastSave := 2, notSaved := true }) c)) s1

/-- Start-up after PORST_N rises: steps 1 to 6 of Table 20-3 (step 4 is the calibration that the reset began). -/
def startUp (env : BootEnv) (s : State) : State := bootSave env (bootImage env (onChip (fun c => newEpoch (transitionFailed (bootKeep env c))) s))

/-- POWER_ON_RESET. -/
def powerOn (env : BootEnv) (s : State) : State := startUp env (coldReset causePowerOn s)

/-- SAVE_RESTART (R462): the save has run to its end, and the device restarts as after a power-on; a save that was not possible latches
0xCA now that the supply has recovered (R460). -/
def saveRestart (env : BootEnv) (s : State) : State :=
  match s.chip.pwr.saveSince with
  | some t =>
    if s.chip.pwr.state ≠ .save ∨ s.chip.clk.now < t + 4000000 then s
    else
      let failed := s.chip.pwr.saveFailed
      let s1 := startUp env (coldReset causeSave s)
      if failed then onChip (latchFault .pwr 0xCA) s1 else s1
  | none => s

/-- BOOT_DONE, step 7: start-up is complete once DRAM is trained and initialised, or its training has failed (R457, R440). -/
def bootDone (c : Chip) : Chip :=
  if !c.pwr.started ∨ c.pwr.booted ∨ c.pwr.state = .save ∨ !(c.memc.trained || standing c .mem 0xC0) then c
  else raise .pwr 12 (modPwr (fun w => { w with booted := true }) c)

end Sys2Proof.Machine
end

