-- ==== Sys2Proof/Machine/SysExec.lean ====
section
/-!
DEFINITION. The meanings of the commands of memory integrity, of power and reset, of security and of debug (chapters 19 to 21).
-/

namespace Sys2Proof.Machine

/-- SCRUB_WORD (R447). -/
def execScrubWord (upset : BitVec 144)  (s : State) : Host.Outcome State Fault Refusal :=
  .next (scrubStep upset s)

/-- DRAM_REFRESH (R440). -/
def execDramRefresh (s : State) : Host.Outcome State Fault Refusal :=
  run (whileRuns (dramRefreshStep)) s

/-- DRAM_TEMP_READ (R440). -/
def execDramTempRead (hot : Bool)  (s : State) : Host.Outcome State Fault Refusal :=
  run (whileRuns (dramTemp hot)) s

/-- ZQ_CALIBRATION (R440). -/
def execZqCalibration (s : State) : Host.Outcome State Fault Refusal :=
  run (whileRuns (zqCal)) s

/-- DRAM_TRAINED (R440). -/
def execDramTrained (failStep : Option (Fin 16))  (s : State) : Host.Outcome State Fault Refusal :=
  .next (if mainRuns s.chip then dramTrainedStep failStep s else s)

/-- DRAM_SELF_REFRESH (R480). -/
def execDramSelfRefresh (s : State) : Host.Outcome State Fault Refusal :=
  run (whileRuns (dramSelf)) s

/-- MEM_ELOG_POP (R446). -/
def execMemElogPop (path : Path)  (s : State) : Host.Outcome State Fault Refusal :=
  .next (regRead path (pageBase .mem + 0x050) s)

/-- MEM_INJ (R448). -/
def execMemInj (path : Path) (v : Word)  (s : State) : Host.Outcome State Fault Refusal :=
  .next (regPage path .mem 0x05C v s)

/-- KEP_SAVE_BASE_WRITE (R449). -/
def execKepSaveBaseWrite (path : Path) (v : Word)  (s : State) : Host.Outcome State Fault Refusal :=
  .next (regPage path .kep 0x050 v s)

/-- POWER_ON_RESET (R457). -/
def execPowerOnReset (env : BootEnv)  (s : State) : Host.Outcome State Fault Refusal :=
  .next (powerOn env s)

/-- BOOT_DONE (R457). -/
def execBootDone (s : State) : Host.Outcome State Fault Refusal :=
  run (whileRuns (bootDone)) s

/-- WARM_RESET_PIN (R454): WRST_N low for at least 1 µs. -/
def execWarmResetPin (ns : Nat)  (s : State) : Host.Outcome State Fault Refusal :=
  .next (if 1000 ≤ ns then warmReset causePin s else s)

/-- WARM_RESET (R454): PWR_CTL written with its key. -/
def execWarmReset (path : Path) (v : Word)  (s : State) : Host.Outcome State Fault Refusal :=
  .next (regPage path .pwr 0x040 v s)

/-- FLR (R454). -/
def execFlr (s : State) : Host.Outcome State Fault Refusal :=
  .next (flrReset s)

/-- RAIL (R453). -/
def execRail (r : Fin 6) (env : SaveEnv) (s : State) : Host.Outcome State Fault Refusal :=
  .next (railLow r.val env s)

/-- SAG (R459). -/
def execSag (env : SaveEnv) (s : State) : Host.Outcome State Fault Refusal :=
  .next (sagOn env s)

/-- SAVE_RESTART (R462). -/
def execSaveRestart (env : BootEnv)  (s : State) : Host.Outcome State Fault Refusal :=
  .next (saveRestart env s)

/-- SAVE_TEST_DONE (R463). -/
def execSaveTestDone (env : SaveEnv) (ns : Nat) (s : State) : Host.Outcome State Fault Refusal :=
  run (whileRuns (saveTestEnd env ns)) s

/-- PORST_N_LOW (R454, R455). -/
def execPorstNLow (s : State) : Host.Outcome State Fault Refusal :=
  .next (coldReset causePowerOn s)

/-- A write of SEC_CMD whose outcome the row carries: the checks of any page write, then the operation (R41, R481). -/
def secOp (path : Path) (f : Chip → Chip) (s : State) : State :=
  if !fabricUp s.chip path then s
  else onChip (fun c =>
    let h := hdr c .sec
    let c1 := if h.owner ≠ 0 ∧ h.owner ≠ pathCode path then raise .sec 2 c
      else if h.resetSince.isSome then modHdr .sec (fun h => { h with resetDropped := true }) c
      else
        let c2 := f c
        if secTaken path c2 then countWrite .sec c2 else c2
    emit (.regWrite path (pageBase .sec + 0x04C) true) c1) s

/-- NEW_CHALLENGE (R475): the random words are the generator's. -/
def execNewChallenge (path : Path) (rnd : BitVec 128)  (s : State) : Host.Outcome State Fault Refusal :=
  .next (secOp path (drawChallenge path rnd) s)

/-- CHALLENGE_LAPSE (R475). -/
def execChallengeLapse (s : State) : Host.Outcome State Fault Refusal :=
  run (whileRuns (lapseChallenge)) s

/-- UNLOCK (R475): whether the token's hash and signature are right is the world's. -/
def execUnlock (path : Path) (hashOk sigOk : Bool)  (s : State) : Host.Outcome State Fault Refusal :=
  .next (secOp path (unlockToken path hashOk sigOk) s)

/-- UNLOCK_LOCKOUT_END (R475). -/
def execUnlockLockoutEnd (s : State) : Host.Outcome State Fault Refusal :=
  run (whileRuns (lockoutEnd)) s

/-- LEVEL_LAPSED (R476). -/
def execLevelLapsed (s : State) : Host.Outcome State Fault Refusal :=
  run (whileRuns (levelLapse)) s

/-- PROVISION (R471): SEC_CMD written with its key. -/
def execProvision (path : Path) (key : BitVec 16)  (s : State) : Host.Outcome State Fault Refusal :=
  .next (regPage path .sec 0x04C (w32 (3 + key.toNat * 65536)) s)

/-- SEAL_DEVICE (R471): SEC_CMD written with its key. -/
def execSealDevice (path : Path) (key : BitVec 16)  (s : State) : Host.Outcome State Fault Refusal :=
  .next (regPage path .sec 0x04C (w32 (4 + key.toNat * 65536)) s)

/-- SCRAP (R471): SEC_CMD written with its key. -/
def execScrap (path : Path) (key : BitVec 16)  (s : State) : Host.Outcome State Fault Refusal :=
  .next (regPage path .sec 0x04C (w32 (5 + key.toNat * 65536)) s)

/-- TRANSITION_DONE (R471). -/
def execTransitionDone (s : State) : Host.Outcome State Fault Refusal :=
  run (whileRuns (transitionEnd)) s

/-- PROGRAM_KEY (R472). -/
def execProgramKey (path : Path)  (s : State) : Host.Outcome State Fault Refusal :=
  .next (regPage path .sec 0x04C 6 s)

/-- REVOKE_KEY (R472). -/
def execRevokeKey (path : Path)  (s : State) : Host.Outcome State Fault Refusal :=
  .next (regPage path .sec 0x04C 7 s)

/-- STORE_PSK (R473). -/
def execStorePsk (path : Path)  (s : State) : Host.Outcome State Fault Refusal :=
  .next (regPage path .sec 0x04C 8 s)

/-- DBG_LEVEL_WRITE (R476). -/
def execDbgLevelWrite (path : Path) (v : Word)  (s : State) : Host.Outcome State Fault Refusal :=
  .next (regPage path .dbg 0x040 v s)

/-- UART_READ (R478). -/
def execUartRead (r : UartReq) (s : State) : Host.Outcome State Fault Refusal :=
  .next (uartRequest r s)

/-- UART_WRITE (R478). -/
def execUartWrite (r : UartReq) (s : State) : Host.Outcome State Fault Refusal :=
  .next (uartRequest r s)

/-- UART_GAP_TIMEOUT (R478). -/
def execUartGapTimeout (s : State) : Host.Outcome State Fault Refusal :=
  run (whileRuns (uartGap)) s

/-- HALT (R479): DBG_HALT_CMD written with 1. -/
def execHalt (path : Path)  (s : State) : Host.Outcome State Fault Refusal :=
  .next (regPage path .dbg 0x054 1 s)

/-- DEBUG_RESUME (R479): DBG_HALT_CMD written with 2. -/
def execDebugResume (path : Path)  (s : State) : Host.Outcome State Fault Refusal :=
  .next (regPage path .dbg 0x054 2 s)

/-- DBG_FCO_STEP (R482). -/
def execDbgFcoStep (path : Path) (v : Word)  (s : State) : Host.Outcome State Fault Refusal :=
  .next (regPage path .dbg 0x0A0 v s)

/-- PWR_STATE_RUN (R480). -/
def execPwrStateRun (path : Path)  (s : State) : Host.Outcome State Fault Refusal :=
  .next (regPage path .pwr 0x060 0 s)

/-- PWR_STATE_HOLD (R480). -/
def execPwrStateHold (path : Path)  (s : State) : Host.Outcome State Fault Refusal :=
  .next (regPage path .pwr 0x060 1 s)

/-- PWR_STATE_DOZE (R480). -/
def execPwrStateDoze (path : Path)  (s : State) : Host.Outcome State Fault Refusal :=
  .next (regPage path .pwr 0x060 2 s)

end Sys2Proof.Machine
end

