-- ==== Sys2Proof/Machine/TimeExec.lean ====
section
/-!
DEFINITION. The meanings of the commands of the time base and of the frame (chapter 5; R17, R18): knots, samples, time servo, PTP and
captures.
-/

namespace Sys2Proof.Machine

/-- FRAME_KNOT (R17). -/
def execFrameKnot (late : List (Fin 160)) (pwmTicks : Nat)  (s : State) : Host.Outcome State Fault Refusal :=
  .next (withCal (frameKnot late pwmTicks) s)

/-- CURRENT_SAMPLE (R18). -/
def execCurrentSample (i : Fin 16) (bits : List (Fin 384 × List Bool)) (phaseErr : List (Fin 128 × Int)) (overrun : List (Fin 4))  (s : State) : Host.Outcome State Fault Refusal :=
  .next (currentSample i.val bits phaseErr overrun s)

/-- PLL_LOCK (R97). -/
def execPllLock (s : State) : Host.Outcome State Fault Refusal :=
  run (whileRuns pllLocked) s

/-- TIM_NOW_READ (R98). -/
def execTimNowRead (path : Path)  (s : State) : Host.Outcome State Fault Refusal :=
  .next (regRead path (pageBase .tim + 0x048) s)

/-- PPSIN_EDGE (R100). -/
def execPpsinEdge (falling : Bool)  (s : State) : Host.Outcome State Fault Refusal :=
  run (whileRuns (ppsinEdge falling)) s

/-- TIM_HOST_OFS (R100). -/
def execTimHostOfs (path : Path) (v : Word)  (s : State) : Host.Outcome State Fault Refusal :=
  .next (regPage path .tim 0x078 v s)

/-- TIM_SET_NS (R102). -/
def execTimSetNs (path : Path) (v : Word)  (s : State) : Host.Outcome State Fault Refusal :=
  .next (regPage path .tim 0x08C v s)

/-- A time step, with the knots it fires and the command start times it skips (R65, R102, R105, R106). -/
def stepTime (c : Chip) : Chip :=
  let c1 := timeStep c
  if time16 c < time16 c1 then skipStarts (time16 c) (time16 c1) c1 else c1

/-- TIME_STEP (R102). -/
def execTimeStep (s : State) : Host.Outcome State Fault Refusal :=
  .next (withCal (onChip (whileRuns stepTime)) s)

/-- HOLDOVER (R103). -/
def execHoldover (s : State) : Host.Outcome State Fault Refusal :=
  run (whileRuns (holdover)) s

/-- SYNC_RX (R109). -/
def execSyncRx (port : Fin 4) (m : PtpMsg)  (s : State) : Host.Outcome State Fault Refusal :=
  run (whileRuns (syncRx port.val m)) s

/-- FOLLOW_UP_RX (R109). -/
def execFollowUpRx (port : Fin 4) (m : PtpMsg)  (s : State) : Host.Outcome State Fault Refusal :=
  run (whileRuns (followUpRx port.val m)) s

/-- DELAY_REQ_RX (R107). -/
def execDelayReqRx (port : Fin 4) (m : PtpMsg)  (s : State) : Host.Outcome State Fault Refusal :=
  run (whileRuns (delayReqRx port.val m)) s

/-- DELAY_RESP_RX (R108). -/
def execDelayRespRx (port : Fin 4) (m : PtpMsg)  (s : State) : Host.Outcome State Fault Refusal :=
  run (whileRuns (delayRespRx port.val m)) s

/-- PDELAY_REQ_RX (R107). -/
def execPdelayReqRx (port : Fin 4) (m : PtpMsg)  (s : State) : Host.Outcome State Fault Refusal :=
  run (whileRuns (pdelayReqRx port.val m)) s

/-- PDELAY_RESP_RX (R108). -/
def execPdelayRespRx (port : Fin 4) (m : PtpMsg) (t2 t3 : Int)  (s : State) : Host.Outcome State Fault Refusal :=
  run (whileRuns (pdelayRespRx port.val m t2 t3)) s

/-- ANNOUNCE_RX (R109). -/
def execAnnounceRx (port : Fin 4) (m : PtpMsg) (body : List Word)  (s : State) : Host.Outcome State Fault Refusal :=
  run (whileRuns (announceRx port.val m body)) s

/-- ANNOUNCE_POP (R119). -/
def execAnnouncePop (path : Path)  (s : State) : Host.Outcome State Fault Refusal :=
  .next (regRead path (pageBase .tim + 0x340) s)

/-- SYNC_TX (R107). -/
def execSyncTx (port : Fin 4)  (s : State) : Host.Outcome State Fault Refusal :=
  run (whileRuns (syncTx port.val)) s

/-- ANNOUNCE_TX (R107). -/
def execAnnounceTx (port : Fin 4)  (s : State) : Host.Outcome State Fault Refusal :=
  run (whileRuns (announceTx port.val)) s

/-- DELAY_REQ_TX (R107). -/
def execDelayReqTx (port : Fin 4)  (s : State) : Host.Outcome State Fault Refusal :=
  run (whileRuns (delayReqTx port.val)) s

/-- KNOT_FIRE (R112). -/
def execKnotFire (k : Fin 32)  (s : State) : Host.Outcome State Fault Refusal :=
  .next (withCal (onChip (whileRuns (knotFire k.val))) s)

/-- KNOT_PULSE_END (R115). -/
def execKnotPulseEnd (pin : Fin 4)  (s : State) : Host.Outcome State Fault Refusal :=
  run (whileRuns (knotPulseEnd pin.val)) s

/-- CAPTURE_EDGE (R116). -/
def execCaptureEdge (c : Fin 8) (rising : Bool) (held : Nat)  (s : State) : Host.Outcome State Fault Refusal :=
  run (whileRuns (captureEdge c.val rising held)) s

/-- CAP_POP (R116). -/
def execCapPop (path : Path) (c : Fin 8)  (s : State) : Host.Outcome State Fault Refusal :=
  .next (regRead path (pageBase .tim + 0x0C0 + 16 * c.val) s)

end Sys2Proof.Machine
end

