-- ==== Sys2Proof/Machine/Dispatch.lean ====
section
/-!
DEFINITION. One arm per command: each calls the meaning of its own.
-/

namespace Sys2Proof.Machine

/-- The effect of a command on everything but the queue. -/
def exec (i : Instr) (s : State) : Host.Outcome State Fault Refusal :=
  match i with
  | .clockLoss d => Sys2Proof.Machine.execClockLoss d s
  | .frameKnot late pwmTicks => Sys2Proof.Machine.execFrameKnot late pwmTicks s
  | .currentSample k bits phaseErr overrun => Sys2Proof.Machine.execCurrentSample k bits phaseErr overrun s
  | .blockWatchdog p => Sys2Proof.Machine.execBlockWatchdog p s
  | .pageEnable path p => Sys2Proof.Machine.execPageEnable path p s
  | .pageDisable path p => Sys2Proof.Machine.execPageDisable path p s
  | .pgReset path p => Sys2Proof.Machine.execPgReset path p s
  | .pageResetComplete p => Sys2Proof.Machine.execPageResetComplete p s
  | .sealPage path p => Sys2Proof.Machine.execSealPage path p s
  | .sealCrcCheck p => Sys2Proof.Machine.execSealCrcCheck p s
  | .spliceReq path p => Sys2Proof.Machine.execSpliceReq path p s
  | .spliceLimitExpiry p intact => Sys2Proof.Machine.execSpliceLimitExpiry p intact s
  | .pgEvtWrite path p v => Sys2Proof.Machine.execPgEvtWrite path p v s
  | .pgEvenWrite path p v => Sys2Proof.Machine.execPgEvenWrite path p v s
  | .pgEvsetWrite path p v => Sys2Proof.Machine.execPgEvsetWrite path p v s
  | .pgFltClear path p => Sys2Proof.Machine.execPgFltClear path p s
  | .pgApply path p => Sys2Proof.Machine.execPgApply path p s
  | .apply p => Sys2Proof.Machine.execApply p s
  | .pgOwnerWrite path p v => Sys2Proof.Machine.execPgOwnerWrite path p v s
  | .registerWrite path off v more full => Sys2Proof.Machine.execRegisterWrite path off v more full s
  | .pairLoRead path off more full => Sys2Proof.Machine.execPairLoRead path off more full s
  | .pairLoWrite path off v => Sys2Proof.Machine.execPairLoWrite path off v s
  | .pairHiWrite path off v => Sys2Proof.Machine.execPairHiWrite path off v s
  | .evtMaskWrite path hi v => Sys2Proof.Machine.execEvtMaskWrite path hi v s
  | .vectorMessage v => Sys2Proof.Machine.execVectorMessage v s
  | .sqTailDb path r v => Sys2Proof.Machine.execSqTailDb path r v s
  | .sqReset path r => Sys2Proof.Machine.execSqReset path r s
  | .cqHeadDb path v => Sys2Proof.Machine.execCqHeadDb path v s
  | .sqSizeWrite path r v => Sys2Proof.Machine.execSqSizeWrite path r v s
  | .cqSizeWrite path v => Sys2Proof.Machine.execCqSizeWrite path v s
  | .ringResizeApply ring => Sys2Proof.Machine.execRingResizeApply ring s
  | .cqEnable path => Sys2Proof.Machine.execCqEnable path s
  | .heldCompletionPost => Sys2Proof.Machine.execHeldCompletionPost s
  | .commandFetch entries => Sys2Proof.Machine.execCommandFetch entries s
  | .regBatch h list count cont => Sys2Proof.Machine.execRegBatch h list count cont s
  | .moveAbs h axis pos vel acc dec jerk => Sys2Proof.Machine.execMoveAbs h axis pos vel acc dec jerk s
  | .moveRel h axis dist vel acc dec jerk => Sys2Proof.Machine.execMoveRel h axis dist vel acc dec jerk s
  | .moveVel h axis vel acc dec jerk => Sys2Proof.Machine.execMoveVel h axis vel acc dec jerk s
  | .stop h axis kind => Sys2Proof.Machine.execStop h axis kind s
  | .resume h axis => Sys2Proof.Machine.execResume h axis s
  | .home h axis method flags search creep accel offset => Sys2Proof.Machine.execHome h axis method flags search creep accel offset s
  | .enable h axis en => Sys2Proof.Machine.execEnable h axis en s
  | .groupMove h group targets count relative vel acc dec jerk => Sys2Proof.Machine.execGroupMove h group targets count relative vel acc dec jerk s
  | .hitchSet h hitch record => Sys2Proof.Machine.execHitchSet h hitch record s
  | .camReadDone hitch => Sys2Proof.Machine.execCamReadDone hitch s
  | .hitchRelease h hitch ramp => Sys2Proof.Machine.execHitchRelease h hitch ramp s
  | .camLoad h first count => Sys2Proof.Machine.execCamLoad h first count s
  | .camVerify h first count crc => Sys2Proof.Machine.execCamVerify h first count crc s
  | .fcoLoad h mask len => Sys2Proof.Machine.execFcoLoad h mask len s
  | .traceStart h => Sys2Proof.Machine.execTraceStart h s
  | .traceStop h => Sys2Proof.Machine.execTraceStop h s
  | .faultClear h page => Sys2Proof.Machine.execFaultClear h page s
  | .saveTest h => Sys2Proof.Machine.execSaveTest h s
  | .bar2Write addr access => Sys2Proof.Machine.execBar2Write addr access s
  | .frameRx port f fcsOk => Sys2Proof.Machine.execFrameRx port f fcsOk s
  | .frameTransmit port => Sys2Proof.Machine.execFrameTransmit port s
  | .gclEntryChange port => Sys2Proof.Machine.execGclEntryChange port s
  | .addressAgeing mac => Sys2Proof.Machine.execAddressAgeing mac s
  | .linkUp port anDone => Sys2Proof.Machine.execLinkUp port anDone s
  | .linkDown port remoteFault => Sys2Proof.Machine.execLinkDown port remoteFault s
  | .netMdioGo path port v => Sys2Proof.Machine.execNetMdioGo path port v s
  | .mdioDone port data => Sys2Proof.Machine.execMdioDone port data s
  | .icmpEchoRequest h data => Sys2Proof.Machine.execIcmpEchoRequest h data s
  | .ycpOpen ses g slot rsv clientNonce devNonce => Sys2Proof.Machine.execYcpOpen ses g slot rsv clientNonce devNonce s
  | .ycpKeepalive ses g => Sys2Proof.Machine.execYcpKeepalive ses g s
  | .ycpClose ses g => Sys2Proof.Machine.execYcpClose ses g s
  | .ycpRead ses g b => Sys2Proof.Machine.execYcpRead ses g b s
  | .ycpWrite ses g b => Sys2Proof.Machine.execYcpWrite ses g b s
  | .ycpReadBlock ses g b => Sys2Proof.Machine.execYcpReadBlock ses g b s
  | .ycpWriteBlock ses g b => Sys2Proof.Machine.execYcpWriteBlock ses g b s
  | .ycpCommand ses g b buf => Sys2Proof.Machine.execYcpCommand ses g b buf s
  | .sessionPendingTimeout ses => Sys2Proof.Machine.execSessionPendingTimeout ses s
  | .sessionTimeout ses => Sys2Proof.Machine.execSessionTimeout ses s
  | .sesClose path ses => Sys2Proof.Machine.execSesClose path ses s
  | .ycpOrphanPop path => Sys2Proof.Machine.execYcpOrphanPop path s
  | .hitchFramePublish => Sys2Proof.Machine.execHitchFramePublish s
  | .hitchFrameRx port rx f => Sys2Proof.Machine.execHitchFrameRx port rx f s
  | .subscriptionMiss j => Sys2Proof.Machine.execSubscriptionMiss j s
  | .pllLock => Sys2Proof.Machine.execPllLock s
  | .timNowRead path => Sys2Proof.Machine.execTimNowRead path s
  | .ppsinEdge falling => Sys2Proof.Machine.execPpsinEdge falling s
  | .timHostOfs path v => Sys2Proof.Machine.execTimHostOfs path v s
  | .timSetNs path v => Sys2Proof.Machine.execTimSetNs path v s
  | .timeStep => Sys2Proof.Machine.execTimeStep s
  | .holdover => Sys2Proof.Machine.execHoldover s
  | .syncRx port m => Sys2Proof.Machine.execSyncRx port m s
  | .followUpRx port m => Sys2Proof.Machine.execFollowUpRx port m s
  | .delayReqRx port m => Sys2Proof.Machine.execDelayReqRx port m s
  | .delayRespRx port m => Sys2Proof.Machine.execDelayRespRx port m s
  | .pdelayReqRx port m => Sys2Proof.Machine.execPdelayReqRx port m s
  | .pdelayRespRx port m t2 t3 => Sys2Proof.Machine.execPdelayRespRx port m t2 t3 s
  | .announceRx port m body => Sys2Proof.Machine.execAnnounceRx port m body s
  | .announcePop path => Sys2Proof.Machine.execAnnouncePop path s
  | .syncTx port => Sys2Proof.Machine.execSyncTx port s
  | .announceTx port => Sys2Proof.Machine.execAnnounceTx port s
  | .delayReqTx port => Sys2Proof.Machine.execDelayReqTx port s
  | .knotFire k => Sys2Proof.Machine.execKnotFire k s
  | .knotPulseEnd pin => Sys2Proof.Machine.execKnotPulseEnd pin s
  | .captureEdge c rising held => Sys2Proof.Machine.execCaptureEdge c rising held s
  | .capPop path c => Sys2Proof.Machine.execCapPop path c s
  | .hardwareLimitEdge n positive active => Sys2Proof.Machine.execHardwareLimitEdge n positive active s
  | .homeReferenceEdge n kind => Sys2Proof.Machine.execHomeReferenceEdge n kind s
  | .homeDwellEnd n => Sys2Proof.Machine.execHomeDwellEnd n s
  | .latArm path n l => Sys2Proof.Machine.execLatArm path n l s
  | .latchEdge n l rising => Sys2Proof.Machine.execLatchEdge n l rising s
  | .latfPop path n l => Sys2Proof.Machine.execLatfPop path n l s
  | .compareSpareSwitch n c => Sys2Proof.Machine.execCompareSpareSwitch n c s
  | .lpaObsSeqRead path n => Sys2Proof.Machine.execLpaObsSeqRead path n s
  | .mdlWrite path n reg v => Sys2Proof.Machine.execMdlWrite path n reg v s
  | .estimateStopEnd n => Sys2Proof.Machine.execEstimateStopEnd n s
  | .brkfbTimeout b level => Sys2Proof.Machine.execBrkfbTimeout b level s
  | .tripIn b level held => Sys2Proof.Machine.execTripIn b level held s
  | .busVMaxWrite path b v => Sys2Proof.Machine.execBusVMaxWrite path b v s
  | .carrierBoundary n => Sys2Proof.Machine.execCarrierBoundary n s
  | .carrierCentre n => Sys2Proof.Machine.execCarrierCentre n s
  | .ocTrip n x => Sys2Proof.Machine.execOcTrip n x s
  | .delayLineCalDone n code => Sys2Proof.Machine.execDelayLineCalDone n code s
  | .fineFallback j code locked => Sys2Proof.Machine.execFineFallback j code locked s
  | .replicaRelock j code => Sys2Proof.Machine.execReplicaRelock j code s
  | .stoOn j => Sys2Proof.Machine.execStoOn j s
  | .stoOff j => Sys2Proof.Machine.execStoOff j s
  | .encoderEdge n f0 f1 f2 => Sys2Proof.Machine.execEncoderEdge n f0 f1 f2 s
  | .index n => Sys2Proof.Machine.execIndex n s
  | .toothEdge n f1 => Sys2Proof.Machine.execToothEdge n f1 s
  | .ssiReadStart n data => Sys2Proof.Machine.execSsiReadStart n data s
  | .ssiWord n word started rtt => Sys2Proof.Machine.execSsiWord n word started rtt s
  | .ssiIdleTimeout n => Sys2Proof.Machine.execSsiIdleTimeout n s
  | .f2Edge n level held => Sys2Proof.Machine.execF2Edge n level held s
  | .alignEnd n => Sys2Proof.Machine.execAlignEnd n s
  | .catchTimeout n => Sys2Proof.Machine.execCatchTimeout n s
  | .coastEnd n => Sys2Proof.Machine.execCoastEnd n s
  | .retryClear n => Sys2Proof.Machine.execRetryClear n s
  | .commandPinEdge n rising t => Sys2Proof.Machine.execCommandPinEdge n rising t s
  | .cmdLost n => Sys2Proof.Machine.execCmdLost n s
  | .snlTestStart path n => Sys2Proof.Machine.execSnlTestStart path n s
  | .conversionDone c input decisions slot ns shifted => Sys2Proof.Machine.execConversionDone c input decisions slot ns shifted s
  | .knotListStart mask delay => Sys2Proof.Machine.execKnotListStart mask delay s
  | .adcSeqRead path c => Sys2Proof.Machine.execAdcSeqRead path c s
  | .adcStart path c => Sys2Proof.Machine.execAdcStart path c s
  | .calAll path => Sys2Proof.Machine.execCalAll path s
  | .calDone c ofs gain weights => Sys2Proof.Machine.execCalDone c ofs gain weights s
  | .referenceFault refB => Sys2Proof.Machine.execReferenceFault refB s
  | .stuck k ch => Sys2Proof.Machine.execStuck k ch s
  | .sdfSeqRead path k => Sys2Proof.Machine.execSdfSeqRead path k s
  | .aluRegister k w => Sys2Proof.Machine.execAluRegister k w s
  | .aluImmediate k w => Sys2Proof.Machine.execAluImmediate k w s
  | .mac k w => Sys2Proof.Machine.execMac k w s
  | .msu k w => Sys2Proof.Machine.execMsu k w s
  | .mpy k w => Sys2Proof.Machine.execMpy k w s
  | .mac2 k w => Sys2Proof.Machine.execMac2 k w s
  | .localLoad k w => Sys2Proof.Machine.execLocalLoad k w s
  | .localStore k w => Sys2Proof.Machine.execLocalStore k w s
  | .externalLoad k w => Sys2Proof.Machine.execExternalLoad k w s
  | .externalLoadReturn k timeout => Sys2Proof.Machine.execExternalLoadReturn k timeout s
  | .externalStore k w => Sys2Proof.Machine.execExternalStore k w s
  | .branch k w => Sys2Proof.Machine.execBranch k w s
  | .call k w => Sys2Proof.Machine.execCall k w s
  | .ret k w => Sys2Proof.Machine.execRet k w s
  | .loopStart k w => Sys2Proof.Machine.execLoopStart k w s
  | .iterStart k w => Sys2Proof.Machine.execIterStart k w s
  | .minx k w => Sys2Proof.Machine.execMinx k w s
  | .maxx k w => Sys2Proof.Machine.execMaxx k w s
  | .clra k w => Sys2Proof.Machine.execClra k w s
  | .adda k w => Sys2Proof.Machine.execAdda k w s
  | .mva k w => Sys2Proof.Machine.execMva k w s
  | .cwpk k w => Sys2Proof.Machine.execCwpk k w s
  | .cwup k w => Sys2Proof.Machine.execCwup k w s
  | .next k w => Sys2Proof.Machine.execNext k w s
  | .done k w => Sys2Proof.Machine.execDone k w s
  | .fail k w => Sys2Proof.Machine.execFail k w s
  | .yield k w => Sys2Proof.Machine.execYield k w s
  | .sync k w => Sys2Proof.Machine.execSync k w s
  | .hevt k w => Sys2Proof.Machine.execHevt k w s
  | .rti k w => Sys2Proof.Machine.execRti k w s
  | .movs k w => Sys2Proof.Machine.execMovs k w s
  | .coreInterruptEntry k => Sys2Proof.Machine.execCoreInterruptEntry k s
  | .itemWatchdog k => Sys2Proof.Machine.execItemWatchdog k s
  | .fcoDoorbell path k v => Sys2Proof.Machine.execFcoDoorbell path k v s
  | .submit path v => Sys2Proof.Machine.execSubmit path v s
  | .dispatcherCycle => Sys2Proof.Machine.execDispatcherCycle s
  | .delayExpiry slot => Sys2Proof.Machine.execDelayExpiry slot s
  | .preLate k => Sys2Proof.Machine.execPreLate k s
  | .affinityTimeout slot => Sys2Proof.Machine.execAffinityTimeout slot s
  | .starved slot => Sys2Proof.Machine.execStarved slot s
  | .dspCancel path v => Sys2Proof.Machine.execDspCancel path v s
  | .dspCancelFlow path v => Sys2Proof.Machine.execDspCancelFlow path v s
  | .dspFlowCfg path v => Sys2Proof.Machine.execDspFlowCfg path v s
  | .dspCqHead path v => Sys2Proof.Machine.execDspCqHead path v s
  | .drain path v => Sys2Proof.Machine.execDrain path v s
  | .drained k => Sys2Proof.Machine.execDrained k s
  | .drainTimeout k => Sys2Proof.Machine.execDrainTimeout k s
  | .coilWrite => Sys2Proof.Machine.execCoilWrite s
  | .trcRpWrite path v => Sys2Proof.Machine.execTrcRpWrite path v s
  | .trcCoilSizeWrite path v => Sys2Proof.Machine.execTrcCoilSizeWrite path v s
  | .trcForce path v => Sys2Proof.Machine.execTrcForce path v s
  | .trcMark path v => Sys2Proof.Machine.execTrcMark path v s
  | .sequencerTimer j => Sys2Proof.Machine.execSequencerTimer j s
  | .holdoffEnd => Sys2Proof.Machine.execHoldoffEnd s
  | .trcCalStart path v => Sys2Proof.Machine.execTrcCalStart path v s
  | .trcCalDone => Sys2Proof.Machine.execTrcCalDone s
  | .fieldInputEdge p level held => Sys2Proof.Machine.execFieldInputEdge p level held s
  | .tetherFrameTx uplink => Sys2Proof.Machine.execTetherFrameTx uplink s
  | .downlinkFrame f intact => Sys2Proof.Machine.execDownlinkFrame f intact s
  | .uplinkFrame f intact arrival => Sys2Proof.Machine.execUplinkFrame f intact arrival s
  | .fldConfigWrite path bly off v => Sys2Proof.Machine.execFldConfigWrite path bly off v s
  | .scheduleExecute p => Sys2Proof.Machine.execScheduleExecute p s
  | .schedulePulseEnd p => Sys2Proof.Machine.execSchedulePulseEnd p s
  | .short p => Sys2Proof.Machine.execShort p s
  | .fldShortClear path hi v => Sys2Proof.Machine.execFldShortClear path hi v s
  | .groupOver g => Sys2Proof.Machine.execGroupOver g s
  | .fldGroupEnWrite path v => Sys2Proof.Machine.execFldGroupEnWrite path v s
  | .tetherSilent => Sys2Proof.Machine.execTetherSilent s
  | .fieldSilence => Sys2Proof.Machine.execFieldSilence s
  | .sil2Expiry p => Sys2Proof.Machine.execSil2Expiry p s
  | .vfieldSample mV => Sys2Proof.Machine.execVfieldSample mV s
  | .fieldPowerUp => Sys2Proof.Machine.execFieldPowerUp s
  | .belayCycle selfTestOk parCrcOk soutRead stoRead => Sys2Proof.Machine.execBelayCycle selfTestOk parCrcOk soutRead stoRead s
  | .belayStartDone testsOk parOk rstA rstB => Sys2Proof.Machine.execBelayStartDone testsOk parOk rstA rstB s
  | .programFlowFault => Sys2Proof.Machine.execProgramFlowFault s
  | .memoryMarch ok => Sys2Proof.Machine.execMemoryMarch ok s
  | .testPulse x levels => Sys2Proof.Machine.execTestPulse x levels s
  | .ss1Elapsed f => Sys2Proof.Machine.execSs1Elapsed f s
  | .resetPulse b ms => Sys2Proof.Machine.execResetPulse b ms s
  | .soutTest k readLow => Sys2Proof.Machine.execSoutTest k readLow s
  | .blyCommit path key => Sys2Proof.Machine.execBlyCommit path key s
  | .commitWriteDone => Sys2Proof.Machine.execCommitWriteDone s
  | .restart path v => Sys2Proof.Machine.execRestart path v s
  | .scrubWord upset => Sys2Proof.Machine.execScrubWord upset s
  | .dramRefresh => Sys2Proof.Machine.execDramRefresh s
  | .dramTempRead hot => Sys2Proof.Machine.execDramTempRead hot s
  | .zqCalibration => Sys2Proof.Machine.execZqCalibration s
  | .dramTrained failStep => Sys2Proof.Machine.execDramTrained failStep s
  | .dramSelfRefresh => Sys2Proof.Machine.execDramSelfRefresh s
  | .memElogPop path => Sys2Proof.Machine.execMemElogPop path s
  | .memInj path v => Sys2Proof.Machine.execMemInj path v s
  | .kepSaveBaseWrite path v => Sys2Proof.Machine.execKepSaveBaseWrite path v s
  | .powerOnReset env => Sys2Proof.Machine.execPowerOnReset env s
  | .bootDone => Sys2Proof.Machine.execBootDone s
  | .warmResetPin ns => Sys2Proof.Machine.execWarmResetPin ns s
  | .warmReset path v => Sys2Proof.Machine.execWarmReset path v s
  | .flr => Sys2Proof.Machine.execFlr s
  | .rail r env => Sys2Proof.Machine.execRail r env s
  | .sag env => Sys2Proof.Machine.execSag env s
  | .saveRestart env => Sys2Proof.Machine.execSaveRestart env s
  | .newChallenge path rnd => Sys2Proof.Machine.execNewChallenge path rnd s
  | .challengeLapse => Sys2Proof.Machine.execChallengeLapse s
  | .unlock path hashOk sigOk => Sys2Proof.Machine.execUnlock path hashOk sigOk s
  | .unlockLockoutEnd => Sys2Proof.Machine.execUnlockLockoutEnd s
  | .levelLapsed => Sys2Proof.Machine.execLevelLapsed s
  | .provision path key => Sys2Proof.Machine.execProvision path key s
  | .sealDevice path key => Sys2Proof.Machine.execSealDevice path key s
  | .scrap path key => Sys2Proof.Machine.execScrap path key s
  | .transitionDone => Sys2Proof.Machine.execTransitionDone s
  | .programKey path => Sys2Proof.Machine.execProgramKey path s
  | .revokeKey path => Sys2Proof.Machine.execRevokeKey path s
  | .storePsk path => Sys2Proof.Machine.execStorePsk path s
  | .dbgLevelWrite path v => Sys2Proof.Machine.execDbgLevelWrite path v s
  | .uartRead r => Sys2Proof.Machine.execUartRead r s
  | .uartWrite r => Sys2Proof.Machine.execUartWrite r s
  | .uartGapTimeout => Sys2Proof.Machine.execUartGapTimeout s
  | .halt path => Sys2Proof.Machine.execHalt path s
  | .debugResume path => Sys2Proof.Machine.execDebugResume path s
  | .dbgFcoStep path v => Sys2Proof.Machine.execDbgFcoStep path v s
  | .pwrStateRun path => Sys2Proof.Machine.execPwrStateRun path s
  | .pwrStateHold path => Sys2Proof.Machine.execPwrStateHold path s
  | .pwrStateDoze path => Sys2Proof.Machine.execPwrStateDoze path s
  | .devSpliceLogPop path => Sys2Proof.Machine.execDevSpliceLogPop path s
  | .pllUnlock x => Sys2Proof.Machine.execPllUnlock x s
  | .clockReturn d => Sys2Proof.Machine.execClockReturn d s
  | .pcieLinkUp => Sys2Proof.Machine.execPcieLinkUp s
  | .pcieLinkDown => Sys2Proof.Machine.execPcieLinkDown s
  | .stepPulse n => Sys2Proof.Machine.execStepPulse n s
  | .cmpPulseEnd n c => Sys2Proof.Machine.execCmpPulseEnd n c s
  | .loadDone nodes => Sys2Proof.Machine.execLoadDone nodes s
  | .camVerifyDone => Sys2Proof.Machine.execCamVerifyDone s
  | .imageChecked image digestOk sigOk => Sys2Proof.Machine.execImageChecked image digestOk sigOk s
  | .imageLoaded k => Sys2Proof.Machine.execImageLoaded k s
  | .saveTestDone env ns => Sys2Proof.Machine.execSaveTestDone env ns s
  | .comparatorRelease n x => Sys2Proof.Machine.execComparatorRelease n x s
  | .tripRelease b => Sys2Proof.Machine.execTripRelease b s
  | .referenceRecovered refB => Sys2Proof.Machine.execReferenceRecovered refB s
  | .safetyInputEdge j level => Sys2Proof.Machine.execSafetyInputEdge j level s
  | .porstNLow => Sys2Proof.Machine.execPorstNLow s

end Sys2Proof.Machine
end

