-- ==== Sys2Proof/Machine/Tick.lean ====
section
/-!
DEFINITION. What passes while no command waits: time (R96). One idle step is one tick of the TIME clock, 4 ns (log entry 1).
-/

namespace Sys2Proof.Machine

/-- 250 MHz: one TIME tick in nanoseconds (R96). -/
def timeTickNs : Nat := 4

/-- The nominal increment of the time counter per tick, in units of 2^-32 ns, with TIM_RATE ppm × 2^-16 trim (R96). -/
def tickInc (rate : Int) : Int := 4 * 2 ^ 32 + rate

/-- One TIME tick of the time counter (R96): seconds, nanoseconds and the 32-bit fraction. -/
def tickTim (t : TimSt) : TimSt :=
  let total : Int := (t.frac : Int) + tickInc t.rate
  let ns := t.ns + (total / 2 ^ 32).toNat
  { t with frac := (total % 2 ^ 32).toNat, ns := ns % 1000000000, s := (t.s + ns / 1000000000) % 2 ^ 48 }

/-- One idle step: real time advances by a TIME tick, and the time counter with it while its clock runs and PLL C is locked (R97). -/
def tickClock (c : Chip) : Chip :=
  { c with
    clk := { c.clk with now := c.clk.now + timeTickNs }
    tim := if c.tim.relocking || c.clk.lost.getLsbD 2 then c.tim else tickTim c.tim }

/-- What acts at a tick of the main die: one posted store of each core leaves it (R357), and a requested splice of the knots runs
(Table 22-1). -/
def tickWork (s : State) : State :=
  if mainRuns s.chip then eachState (List.range 8) drainStore (if (hdr s.chip .knt).spliceReq then spliceRun .knt s else s) else s

/-- One idle step. -/
def idleTick (s : State) : State := tickWork (onChip tickClock s)

end Sys2Proof.Machine
end

