-- ==== Sys2Proof/Laws/Tab.lean ====
section
/-!
SUPPORT. Sparse tables: what a read gives after a write, and the canonical form that every write keeps.
-/

namespace Sys2Proof.Machine

theorem tabGet_tabPut_same {α : Type} (d v : α) (k : Nat) : ∀ t : Tab α, tabGet d (tabPut t k v) k = v := by
  intro t
  induction t with
  | nil => simp [tabPut, tabGet]
  | cons x t ih =>
    obtain ⟨k', v'⟩ := x
    simp only [tabPut]
    split
    · simp [tabGet]
    · split
      · simp [tabGet]
      · rename_i h2; simp [tabGet, h2, ih]

theorem tabGet_tabPut_ne {α : Type} (d v : α) (k j : Nat) (h : j ≠ k) : ∀ t : Tab α, tabGet d (tabPut t k v) j = tabGet d t j := by
  intro t
  induction t with
  | nil => simp [tabPut, tabGet, h]
  | cons x t ih =>
    obtain ⟨k', v'⟩ := x
    simp only [tabPut]
    split
    · simp [tabGet, h]
    · split
      · rename_i h2; simp [tabGet, ← h2, h]
      · simp [tabGet, ih]

theorem tabGet_filter_same {α : Type} (d : α) (k : Nat) : ∀ t : Tab α, tabGet d (t.filter (fun x => x.1 != k)) k = d := by
  intro t
  induction t with
  | nil => rfl
  | cons x t ih =>
    obtain ⟨k', v'⟩ := x
    by_cases h : k' = k
    · simp [h, ih]
    · have h2 : k ≠ k' := fun e => h e.symm
      simp [h, h2, tabGet, ih]

theorem tabGet_filter_ne {α : Type} (d : α) (k j : Nat) (hj : j ≠ k) :
    ∀ t : Tab α, tabGet d (t.filter (fun x => x.1 != k)) j = tabGet d t j := by
  intro t
  induction t with
  | nil => rfl
  | cons x t ih =>
    obtain ⟨k', v'⟩ := x
    by_cases h : k' = k
    · simp [h, ih, tabGet, hj]
    · simp [h, tabGet, ih]

/-- What was written is read back. -/
@[simp] theorem tabGet_tabSet_same {α : Type} [DecidableEq α] (d v : α) (k : Nat) (t : Tab α) :
    tabGet d (tabSet d t k v) k = v := by
  unfold tabSet
  split
  · rename_i h; rw [h]; exact tabGet_filter_same d k t
  · exact tabGet_tabPut_same d v k t

/-- A write of one key leaves every other key alone. -/
theorem tabGet_tabSet_ne {α : Type} [DecidableEq α] (d d' v : α) (k j : Nat) (h : j ≠ k) (t : Tab α) :
    tabGet d' (tabSet d t k v) j = tabGet d' t j := by
  unfold tabSet
  split
  · exact tabGet_filter_ne d' k j h t
  · exact tabGet_tabPut_ne d' v k j h t

theorem tabWfFrom_mono {α : Type} [DecidableEq α] (d : Nat → α) (lo lo' : Nat) (h : lo' ≤ lo) (t : Tab α) :
    tabWfFrom d (some lo) t = true → tabWfFrom d (some lo') t = true := by
  cases t with
  | nil => intro _; rfl
  | cons x t =>
    obtain ⟨k', v'⟩ := x
    simp only [tabWfFrom, Bool.and_eq_true, decide_eq_true_eq]
    rintro ⟨⟨h1, h2⟩, h3⟩
    exact ⟨⟨by omega, h2⟩, h3⟩

theorem tabWfFrom_weaken {α : Type} [DecidableEq α] (d : Nat → α) (lo : Option Nat) (k : Nat) (h : ∀ l, lo = some l → l ≤ k) (t : Tab α)
    (ht : tabWfFrom d (some k) t = true) : tabWfFrom d lo t = true := by
  cases lo with
  | some l => exact tabWfFrom_mono d k l (h l rfl) t ht
  | none =>
    cases t with
    | nil => rfl
    | cons x t =>
      obtain ⟨k', v'⟩ := x
      simp only [tabWfFrom, Bool.and_eq_true, decide_eq_true_eq] at ht ⊢
      exact ⟨⟨trivial, ht.1.2⟩, ht.2⟩

theorem tabWfFrom_filter {α : Type} [DecidableEq α] (d : Nat → α) (q : Nat × α → Bool) :
    ∀ (lo : Option Nat) (t : Tab α), tabWfFrom d lo t = true → tabWfFrom d lo (t.filter q) = true := by
  intro lo t
  induction t generalizing lo with
  | nil => intro _; rfl
  | cons x t ih =>
    obtain ⟨k', v'⟩ := x
    intro h
    simp only [tabWfFrom, Bool.and_eq_true] at h
    by_cases hq : q (k', v') = true
    · simp only [List.filter_cons, hq, if_true, tabWfFrom, h.1.1, h.1.2, ih (some k') h.2, Bool.and_self]
    · simp only [List.filter_cons, hq]
      refine ih lo (tabWfFrom_weaken d lo k' ?_ t h.2)
      intro l hl
      have h1 := h.1.1
      subst hl
      simp only [decide_eq_true_eq] at h1
      omega

theorem tabWfFrom_tabPut {α : Type} [DecidableEq α] (d : Nat → α) (k : Nat) (v : α) (hv : v ≠ d k) :
    ∀ (lo : Option Nat) (t : Tab α), (∀ l, lo = some l → l < k) → tabWfFrom d lo t = true →
      tabWfFrom d lo (tabPut t k v) = true := by
  intro lo t
  induction t generalizing lo with
  | nil =>
    intro hlo _
    cases lo with
    | none => simp [tabPut, tabWfFrom, hv]
    | some l => simp [tabPut, tabWfFrom, hv, hlo l rfl]
  | cons x t ih =>
    obtain ⟨k', v'⟩ := x
    intro hlo h
    simp only [tabWfFrom, Bool.and_eq_true] at h
    obtain ⟨⟨h1, h2⟩, h3⟩ := h
    simp only [tabPut]
    split
    · rename_i hk
      cases lo with
      | none => simp only [tabWfFrom, h2, h3, Bool.and_true, Bool.true_and, Bool.and_eq_true, decide_eq_true_eq]; exact ⟨hv, hk⟩
      | some l =>
        simp only [tabWfFrom, h2, h3, Bool.and_true, Bool.and_eq_true, decide_eq_true_eq]
        exact ⟨⟨hlo l rfl, hv⟩, hk⟩
    · split
      · rename_i hk; subst hk
        simp only [tabWfFrom, h1, h3, Bool.and_true, Bool.true_and, decide_eq_true_eq]
        exact hv
      · rename_i hk1 hk2
        simp only [tabWfFrom, h1, h2, Bool.true_and]
        exact ih (some k') (by intro l hl; cases hl; omega) h3

/-- Every write keeps the canonical form. -/
theorem tabWf_tabSet {α : Type} [DecidableEq α] (d : Nat → α) (k : Nat) (v : α) (t : Tab α) (h : tabWf d t = true) :
    tabWf d (tabSet (d k) t k v) = true := by
  unfold tabSet
  split
  · exact tabWfFrom_filter d _ none t h
  · rename_i hv; exact tabWfFrom_tabPut d k v hv none t (by intro l hl; cases hl) h

/-- Dropping entries keeps the canonical form. -/
theorem tabWf_filter {α : Type} [DecidableEq α] (d : Nat → α) (q : Nat × α → Bool) (t : Tab α) (h : tabWf d t = true) :
    tabWf d (t.filter q) = true := tabWfFrom_filter d q none t h

theorem tabPut_tabPut {α : Type} (k : Nat) (a b : α) : ∀ t : Tab α, tabPut (tabPut t k a) k b = tabPut t k b := by
  intro t
  induction t with
  | nil => simp [tabPut]
  | cons x t ih =>
    obtain ⟨k', v'⟩ := x
    by_cases h1 : k < k'
    · simp [tabPut, h1]
    · by_cases h2 : k = k'
      · simp [tabPut, h2]
      · simp [tabPut, h1, h2, ih]

theorem filter_tabPut {α : Type} (k : Nat) (a : α) :
    ∀ t : Tab α, (tabPut t k a).filter (fun x => x.1 != k) = t.filter (fun x => x.1 != k) := by
  intro t
  induction t with
  | nil => simp [tabPut]
  | cons x t ih =>
    obtain ⟨k', v'⟩ := x
    by_cases h1 : k < k'
    · simp [tabPut, h1]
    · by_cases h2 : k = k'
      · simp [tabPut, h2]
      · have h3 : (k' != k) = true := by simp; omega
        simp [tabPut, h1, h2, h3, ih]

/-- Of two settings of one entry the second alone counts, where the first was no default. -/
theorem tabSet_tabSet {α : Type} [DecidableEq α] (d a b : α) (k : Nat) (t : Tab α) (ha : a ≠ d) :
    tabSet d (tabSet d t k a) k b = tabSet d t k b := by
  unfold tabSet
  rw [if_neg ha]
  split
  · exact filter_tabPut k a t
  · exact tabPut_tabPut k a b t

end Sys2Proof.Machine
end

