-- ==== Sys2Proof/Laws/Memory.lean ====
section
/-!
SUPPORT. The memories: every operation keeps the canonical form of chapter 19's cells and error patterns, and a byte reads back as
it was written and leaves every other byte alone.
-/

namespace Sys2Proof.Machine

theorem Mem.wf_iff {m : Mem} : m.wf = true ↔ tabWf (fun _ => (0 : Byte)) m.cells = true ∧ tabWf (fun _ => (0 : BitVec 144)) m.err = true := by
  unfold Mem.wf; simp

theorem setMemByte_wf {m : Mem} (h : m.wf = true) (r : Region) (a : Nat) (b : Byte) : (setMemByte r a b m).wf = true := by
  obtain ⟨h1, h2⟩ := Mem.wf_iff.mp h
  exact Mem.wf_iff.mpr ⟨tabWf_tabSet (fun _ => (0 : Byte)) _ b _ h1, h2⟩

theorem setWordErr_wf {m : Mem} (h : m.wf = true) (r : Region) (i : Nat) (e : BitVec 144) : (setWordErr r i e m).wf = true := by
  obtain ⟨h1, h2⟩ := Mem.wf_iff.mp h
  exact Mem.wf_iff.mpr ⟨h1, tabWf_tabSet (fun _ => (0 : BitVec 144)) _ e _ h2⟩

theorem setBytes_wf (r : Region) : ∀ (bs : List Byte) (a : Nat) {m : Mem}, m.wf = true → (setBytes r a bs m).wf = true
  | [], _, _, h => h
  | b :: t, a, _, h => setBytes_wf r t (a + 1) (setMemByte_wf h r a b)

theorem setEnabled_wf (r : Region) : ∀ (bs : List (Option Byte)) (a : Nat) {m : Mem}, m.wf = true → (setEnabled r a bs m).wf = true
  | [], _, _, h => h
  | some b :: t, a, _, h => setEnabled_wf r t (a + 1) (setMemByte_wf h r a b)
  | none :: t, a, _, h => setEnabled_wf r t (a + 1) h

theorem putWord_wf {m : Mem} (h : m.wf = true) (r : Region) (i : Nat) (d : BitVec 128) : (putWord r i d m).wf = true :=
  setWordErr_wf (setBytes_wf r _ _ h) r i 0

theorem poison_wf {m : Mem} (h : m.wf = true) (r : Region) (i : Nat) : (poison r i m).wf = true :=
  setWordErr_wf (putWord_wf h r i _) r i _

theorem zeroDram_wf {m : Mem} (h : m.wf = true) (keep : Nat) : (zeroDram keep m).wf = true := by
  obtain ⟨h1, h2⟩ := Mem.wf_iff.mp h
  exact Mem.wf_iff.mpr ⟨tabWf_filter _ _ _ h1, tabWf_filter _ _ _ h2⟩

theorem clearCore_wf {m : Mem} (h : m.wf = true) (a n : Nat) : (clearCore a n m).wf = true := by
  obtain ⟨h1, h2⟩ := Mem.wf_iff.mp h
  exact Mem.wf_iff.mpr ⟨tabWf_filter _ _ _ h1, tabWf_filter _ _ _ h2⟩

theorem resetMem_wf {m : Mem} (h : m.wf = true) (warm : Bool) : (resetMem warm m).wf = true := by
  obtain ⟨h1, h2⟩ := Mem.wf_iff.mp h
  exact Mem.wf_iff.mpr ⟨tabWf_filter _ _ _ h1, tabWf_filter _ _ _ h2⟩

@[simp] theorem memByte_setMemByte_same (r : Region) (a : Nat) (b : Byte) (m : Mem) : memByte (setMemByte r a b m) r a = b := by
  unfold memByte setMemByte; simp

theorem memByte_setMemByte_ne (r r' : Region) (a a' : Nat) (b : Byte) (m : Mem) (h : cellKey r' a' ≠ cellKey r a) :
    memByte (setMemByte r a b m) r' a' = memByte m r' a' := by
  unfold memByte setMemByte; exact tabGet_tabSet_ne _ _ _ _ _ h _

@[simp] theorem memByte_setWordErr (r r' : Region) (i a : Nat) (e : BitVec 144) (m : Mem) :
    memByte (setWordErr r i e m) r' a = memByte m r' a := rfl

@[simp] theorem wordErr_setWordErr_same (r : Region) (i : Nat) (e : BitVec 144) (m : Mem) : wordErr (setWordErr r i e m) r i = e := by
  unfold wordErr setWordErr; simp

theorem memByte_setBytes_out (r r' : Region) (a' : Nat) : ∀ (bs : List Byte) (a : Nat) (m : Mem),
    (∀ k < bs.length, cellKey r' a' ≠ cellKey r (a + k)) → memByte (setBytes r a bs m) r' a' = memByte m r' a'
  | [], _, _, _ => rfl
  | b :: t, a, m, h => by
    unfold setBytes
    rw [memByte_setBytes_out r r' a' t (a + 1) _ (fun k hk => by have := h (k + 1) (by simp; omega); rwa [show a + 1 + k = a + (k + 1) by omega])]
    exact memByte_setMemByte_ne _ _ _ _ _ _ (by simpa using h 0 (by simp))

theorem memByte_setBytes_in (r : Region) : ∀ (bs : List Byte) (a : Nat) (m : Mem) (k : Nat) (hk : k < bs.length),
    memByte (setBytes r a bs m) r (a + k) = bs[k]
  | b :: t, a, m, 0, _ => by
    unfold setBytes
    rw [memByte_setBytes_out r r _ t (a + 1) _ (fun k _ => by unfold cellKey; omega)]
    simp
  | b :: t, a, m, k + 1, hk => by
    unfold setBytes
    have := memByte_setBytes_in r t (a + 1) (setMemByte r a b m) k (by simpa using hk)
    rw [show a + (k + 1) = a + 1 + k by omega, this]; simp

end Sys2Proof.Machine
end

