-- ==== Sys2Proof/Safety.lean ====
section
/-!
DEFINITION. The terms in which claims are made of the block: a path that may write a page, the end of an accepted register access,
a core that stands at a word, a session that hears a datagram, a belay that acts, and the like. Each is a condition on the state (and
on operands) alone, or the state an effect leaves, written over the operations of the model.
-/

namespace Sys2Proof.Machine

/-- The fabric answers the path, the page is free or the path's own, and no page reset runs in it (R12, R34, R41). -/
def CanWrite (s : State) (path : Path) (p : Page) : Prop :=
  fabricUp s.chip path = true ∧ ((hdr s.chip p).owner = 0 ∨ (hdr s.chip p).owner = pathCode path) ∧ (hdr s.chip p).resetSince = none

/-- A write that was taken: it counts in PG_SEQ (R39), and its path sees it end without error (R30). -/
def taken (path : Path) (p : Page) (off : Nat) (c : Chip) : Chip := emit (.regWrite path (pageBase p + off) true) (countWrite p c)

/-- A write that ends without error and counts nowhere. -/
def ended (path : Path) (p : Page) (off : Nat) (c : Chip) : Chip := emit (.regWrite path (pageBase p + off) true) c

/-- A read of a page register that returns `v`. -/
def answered (path : Path) (p : Page) (off : Nat) (v : Word) (c : Chip) : Chip := emit (.regRead path (pageBase p + off) (some v)) c

/-- The pages whose accepted apply does nothing beside the copy of the shadows. -/
def plainApply (p : Page) : Bool := match p with | .mod _ | .adc _ | .lpe _ => true | _ => false

/-- Pages with no rule of their own for a write of a register. -/
def plainWrites (p : Page) : Bool := match p with | .dev | .evt | .swt | .hit | .grp _ | .lpe _ | .sdf _ | .fbk _ | .scb => true | _ => false

/-- Pages whose registers are read without a rule of their own. -/
def plainReads (p : Page) : Bool := match p with | .tim | .ycp | .dev | .mem | .lpa _ | .adc _ | .sdf _ => false | _ => true

/-- The command in flight that an entry of a ring becomes (R57, R65): its place, its flags, and whether its START time is already past. -/
def ringEntry (h : Hdr) (op : HostOp) (c : Chip) : InFlight :=
  { id := c.cmd.nextId + 1, cmd := { src := .ring h.ring h.index, tag := h.tag, startAt := bit h.flags 0, fence := bit h.flags 1, start := h.start, op := op },
    late := bit h.flags 0 && decide (start16 h.start < now16 c) }

/-- The CMD page after it has taken a command from the head of a ring. -/
def ringTaken (h : Hdr) (op : HostOp) (c0 : Chip) : Chip :=
  let c := advanceHead h.ring.val c0
  updateFull { c with cmd := { c.cmd with nextId := c.cmd.nextId + 1, inflight := c.cmd.inflight ++ [ringEntry h op c] } }

/-- The entry is the next that is fetched (R48), and every check made at its acceptance passes (Table 3-8). -/
def Admits (h : Hdr) (op : HostOp) (s : State) : Prop :=
  nextEntry s.chip h = true ∧ acceptCheck s.chip (.ring h.ring h.index) h.tag h.flags h.start (some op) false false = none

/-- IPv4 and UDP hand an intact datagram of the version spoken to the protocol, which is enabled (R75, R77, R79). -/
def Arrives (s : State) (typ : Byte) (i : Fin 4) (tagged : Bool) (g : Dgram) : Prop :=
  mainRuns s.chip = true ∧ ycpActive s.chip = true ∧ ycpTaken s.chip typ i.val tagged g = true ∧ ycpIntact tagged g = true ∧ g.version = 1

/-- A session that is open hears a datagram: it arrives, and is authentic (R78, R79, R81). -/
def Heard (s : State) (typ : Byte) (i : Fin 4) (pr : Protect) (plain : List Byte) (g : Dgram) : Prop :=
  Arrives s typ i true g ∧ (session s.chip i.val).state = .opened ∧ authentic (session s.chip i.val) typ i.val pr plain g = true

/-- The session after a request has been taken in its turn. -/
def inOrder (i : Fin 4) (c : Chip) : Chip :=
  setSession i.val { session c i.val with lastAuth := c.clk.now, exp := (session c i.val).exp + 1 } c

/-- The five request commands with a body, and the operation that each carries (Table 4-5). -/
def ycpRequests (i : Fin 4) (g : Dgram) (b : YcpBody) (buf : Option (List DWord)) : List (Instr × YcpOp) :=
  [(.ycpRead i g b, { kind := .read, body := b }), (.ycpWrite i g b, { kind := .write, body := b }),
   (.ycpReadBlock i g b, { kind := .readBlock, body := b }), (.ycpWriteBlock i g b, { kind := .writeBlock, body := b }),
   (.ycpCommand i g b buf, { kind := .command, body := b, buf := buf })]

/-- The two last tooth intervals' quotient (R279): this interval over the one before. -/
def toothRatio (x : FbkSt) (now : Nat) : Option Rat :=
  match x.t1, x.t2 with
  | some a, some b => if b < a then some (((now - a : Nat) : Rat) / ((a - b : Nat) : Rat)) else none
  | _, _ => none

/-- A channel counts: its page delivers and no halt holds it. -/
def Counts (s : State) (n : Fin 128) : Prop := mainRuns s.chip = true ∧ fbkOn s.chip n.val = true ∧ (fbkSt s.chip n.val).halted = false

/-- The word at the core's PC, and the state after its fetch. -/
def fetched (s : State) (k : Fin 8) : State × Option Word := readMem32 .core (k.val * 0x20000 + (core s.chip k.val).pc.toNat) s

/-- The core stands at the word `w`, which it can take now: it runs, no breakpoint stops it, the PC is aligned and the word is no reserved one. -/
def Stands (s : State) (k : Fin 8) (w : Word) : Prop :=
  coreRuns s.chip k.val = true ∧ atBreakpoint s.chip k.val = false ∧ (core s.chip k.val).pc.toNat % 4 = 0 ∧ (fetched s k).2 = some w ∧
  reservedWord w = false ∧ ((core s.chip k.val).iter = none ∨ notUnderIter w = false)

/-- The state in which the instruction acts: its word fetched, the core no longer waiting. -/
def atIssue (s : State) (k : Fin 8) : State := onChip (modCore k.val (fun x => { x with wait := .none })) (fetched s k).1

/-- The core in which the instruction acts. -/
def coreAt (s : State) (k : Fin 8) : CoreSt := core (atIssue s k).chip k.val

/-- What the pair loads of class 2 read: the memory's two words where the instruction asks for them. -/
def macRead (k : Fin 8) (w : Word) (dm1 : Bool) (x : CoreSt) (s : State) : State × Option (List Word) :=
  if bit w (if dm1 then 9 else 15) then
    readLocal k.val (macLoad x w dm1).2.2.1 (macLoad x w dm1).2.2.2.1 true s
  else (s, some [])

/-- The addresses that class 2 may read: both words in DM0 for the first load and in DM1 for the second. -/
def macAllowed (w : Word) (x : CoreSt) : Prop :=
  (bit w 15 = true → localOk (· == .dm0) (macLoad x w false).2.2.1 = true ∧ localOk (· == .dm0) (macLoad x w false).2.2.2.1 = true) ∧
  (bit w 9 = true → localOk (· == .dm1) (macLoad x w true).2.2.1 = true ∧ localOk (· == .dm1) (macLoad x w true).2.2.2.1 = true)

/-- Class 2 after its reads: the accumulations, the loads begun, the pointers stepped (R345, R349). -/
def macEnd (k : Fin 8) (w : Word) (accs : List Nat) (f : CoreSt → CoreSt) (x : CoreSt) (v0 v1 : List Word) (s : State) : State :=
  let l0 := macLoad x w false
  let l1 := macLoad x w true
  retireS k.val
    { loads := (if bit w 15 then [(l0.2.1, v0.getD 0 0), (l0.2.1 + 1, v0.getD 1 0)] else []) ++ (if bit w 9 then [(l1.2.1, v1.getD 0 0), (l1.2.1 + 1, v1.getD 1 0)] else []), accs := accs, useP := (if bit w 15 then [l0.1] else []) ++ (if bit w 9 then [l1.1] else []) }
    (fun x =>
      let x := f x
      let x := if bit w 15 then setAp l0.1 (postMod x l0.1 l0.2.2.1 l0.2.2.2.2) x else x
      if bit w 9 then setAp l1.1 (postMod x l1.1 l1.2.2.1 l1.2.2.2.2) x else x) s

/-- A class 3 address is usable: every word of the access lies aligned in a memory that the instruction may reach. -/
def localAllowed (ok : LocalSpace → Bool) (x : CoreSt) (w : Word) : Prop :=
  localOk ok (class3Addr x w).1 = true ∧ (bit w 26 = true → localOk ok (postMod x (fld w 25 23) (class3Addr x w).1 4) = true)

/-- The dispatcher as the write of DSP_SUB7 finds it: the eighth word held on the path. -/
def withSub7 (path : Path) (v : Word) (c : Chip) : Chip := heldSet path (pageBase .dsp + 0x09C) v c

/-- A submission that passes every check of R366. -/
def Submits (c : Chip) (path : Path) : Prop :=
  dspActive c = true ∧ (flow c (fld (subWord c path 0) 11 0)).en = true ∧ fld (subWord c path 0) 23 18 = 0 ∧ (subWord c path 1).msb = false ∧
  (bit (subWord c path 0) 17 = false → subWord c path 1 = 0)

/-- The host's and the cores' items leave the hardware sources their slots, and a reported end finds a record. -/
def Room (c : Chip) (path : Path) : Prop :=
  (c.dsp.slots.filter (fun p => p.2.src.isNone)).length < 15360 ∧
  (bit (subWord c path 0) 16 = true → c.dsp.cqPosted + c.dsp.cqReserved < rdF c .dsp 0x0C4 12 0)

/-- The item a submission admits. -/
def submitted (c : Chip) (path : Path) : Chip × Word :=
  admitItem (fld (subWord c path 0) 11 0) (match path with | .core _ => 1 | _ => 0) (bit (subWord c path 0) 16) (bit (subWord c path 0) 17)
    (subWord c path 1) [subWord c path 4, subWord c path 5, subWord c path 6, subWord c path 7] none c

/-- The compares whose schedules wait at the main die forget them, mispredicted (R177, R408). -/
def forgetSchedules (c : Chip) : Chip :=
  let tags := c.fld.sched.map (fun x => x.entry.tag)
  let c1 := tags.foldl (fun c t => mispredictTag t c) c
  each (axisList c1) (fun n c => each ((axis c n).cmp.map (·.1)) (fun u c => setCmp n u { cmpSt (axis c n) u with sched := (cmpSt (axis c n) u).sched.filter (fun q => q.output == 65 || !tags.contains q.tag) } c) c) c1

/-- The belay acts: the field die is powered and the belay's clock runs. -/
def BelayUp (s : State) : Prop := s.chip.field.powered = true ∧ s.chip.bly.clockLost = false

/-- The next word of the SRAM pass is due, before the DRAM pass's. -/
def SramDue (c : Chip) : Prop :=
  scrubs c = true ∧ bit (rd c .scb 0x040) 0 = true ∧
  scrubDue c.scb.sramSince (rdF c .scb 0x044 11 0 * 1000000000) c.scb.sramPos sramWords ≤ c.clk.now ∧
  (bit (rd c .scb 0x040) 1 = true → dramRuns c = true → 0 < dramBytes c / 16 →
    scrubDue c.scb.sramSince (rdF c .scb 0x044 11 0 * 1000000000) c.scb.sramPos sramWords ≤
      scrubDue c.scb.dramSince (rdF c .scb 0x048 16 0 * 1000000000) c.scb.dramPos (dramBytes c / 16))

/-- The pages and the planner's items as a reset of the main die leaves them (R454, Table 20-2). -/
def Fresh (c : Chip) : Prop :=
  (∀ p : Page, (hdr c p).en = false ∧ (hdr c p).state = .off ∧ (hdr c p).owner = 0 ∧ (hdr c p).sealedBit = false ∧ (hdr c p).fltCode = 0) ∧
  (∀ n : Nat, ((axis c n).state = .disabled ∨ (axis c n).state = .safe) ∧ (axis c n).run = none) ∧
  (∀ i : Nat, (session c i).state = .closed) ∧ c.cmd.inflight = [] ∧ c.hits = [] ∧ c.pwr.state = .run

/-- The header of a page as a reset leaves it. -/
def hdrFresh (h : PageHdr) : Prop := h.en = false ∧ h.state = .off ∧ h.owner = 0 ∧ h.sealedBit = false ∧ h.fltCode = 0

/-- What start-up leaves, after a reset of the main die (R449, R457, R458, R465, Table 20-3). -/
def Starts (i : Instr) (cause : Word) (env : BootEnv) (s : State) : Prop :=
  (env.keepMiB < 4 → ∃ t, exec i s = .next t ∧ t.mem = resetMem false s.mem ∧ t.pending = s.pending ∧ rd t.chip .pwr 0x048 = cause ∧ t.chip.pwr.started = true ∧
    t.chip.keep.present = false ∧ t.chip.pwr.lastSave = 0 ∧ t.chip.pwr.notSaved = true ∧ t.chip.pwr.bootedFromKeep = false ∧ t.chip.pwr.bootFail = false ∧
    standing t.chip .kep 0xC2 = true ∧ (∀ p, (hdr t.chip p).en = false) ∧ (∀ n, (axis t.chip n).state = .disabled ∨ (axis t.chip n).state = .safe)) ∧
  (4 ≤ env.keepMiB → bootMagic env = false → (cutSave s.chip).keep.startRec = false →
    ∃ t, exec i s = .next t ∧ t.mem = resetMem false s.mem ∧ rd t.chip .pwr 0x048 = cause ∧ t.chip.keep.present = true ∧ t.chip.keep.mib = min 255 env.keepMiB ∧
    rd t.chip .kep 0x050 = BitVec.ofNat 32 (saveTop (min 255 env.keepMiB)) ∧ t.chip.pwr.lastSave = 0 ∧ t.chip.pwr.bootedFromKeep = false ∧
    t.chip.pwr.bootFail = false ∧ (∀ p, (hdr t.chip p).en = false) ∧ (∀ n, (axis t.chip n).state = .disabled ∨ (axis t.chip n).state = .safe)) ∧
  (4 ≤ env.keepMiB → bootMagic env = true → bootForm env = false → (cutSave s.chip).keep.startRec = false →
    ∃ t, exec i s = .next t ∧ t.mem = resetMem false s.mem ∧ t.chip.pwr.bootFail = true ∧ t.chip.pwr.bootedFromKeep = false ∧ t.chip.pwr.lastSave = 0 ∧
    (∀ p, (hdr t.chip p).en = false)) ∧
  (4 ≤ env.keepMiB → env.keepMiB ≤ 64 → bootMagic env = false → (cutSave s.chip).keep.startRec = true →
    (cutSave s.chip).keep.base = saveTop env.keepMiB →
    ∃ t, exec i s = .next t ∧
    (t.chip.pwr.lastSave ≠ 1 → t.chip.keep.startRec = false ∧ t.chip.keep.image = none) ∧
    (t.chip.pwr.lastSave = if (cutSave s.chip).keep.marker = none then 3 else if (cutSave s.chip).keep.marker = some true ∧ env.saveCrcOk = true ∧ (cutSave s.chip).keep.image.isSome then 1 else 2) ∧
    t.chip.pwr.notSaved = !(decide (t.chip.pwr.lastSave = 1)) ∧
    (∀ m, (cutSave s.chip).keep.image = some m → t.chip.pwr.lastSave = 1 → t.chip.cmd.held = m.ring))

/-- SEC_CMD_RES of a path after a command: its state and the reason in [7:4] (Table 21-7). -/
def secEnd (path : Path) (r reason : Nat) (x : SecSt) : SecSt := { x with res := tabSet 0 x.res (pathCode path) (r + 16 * reason) }

/-- A write of SEC_CMD: it counts in PG_SEQ but where its command is refused (R39, R471). -/
def secWritten (path : Path) (c : Chip) : Chip := if secTaken path c then taken path .sec 0x04C c else ended path .sec 0x04C c

/-- A lifecycle transition begins: BUSY (R471). -/
def secBegin (path : Path) (target now : Nat) (x : SecSt) : SecSt := secEnd path 1 0 { x with busy := some (target, now, path) }

/-- No refusal of the last second stands against UNLOCK (R475). -/
def NotLocked (c : Chip) : Prop := ∀ t, c.sec.lockout = some t → t + 1000000000 ≤ c.clk.now

/-- Word i of the token that a path has written. -/
def token (c : Chip) (path : Path) (i : Nat) : Word := heldGet c path (pageBase .sec + 0x200 + 4 * i)

/-- The fields of a token as Table 21-2 states them, but for the hash and the signature. -/
def TokenFields (c : Chip) (path : Path) (level issuer secs : Nat) : Prop :=
  token c path 0 = 0x4E4B4F54 ∧ fld (token c path 1) 7 0 = level ∧ fld (token c path 1) 15 8 = issuer ∧ fld (token c path 1) 31 16 = 0 ∧
  joinHalves (token c path 3) (token c path 2) = Config.uid ∧
  (∃ x t, c.sec.challenge = some (x, t) ∧ c.clk.now < t + 60000000000 ∧
    x.toNat = (token c path 4).toNat + (token c path 5).toNat * 2 ^ 32 + (token c path 6).toNat * 2 ^ 64 + (token c path 7).toNat * 2 ^ 96) ∧
  (token c path 8).toNat = secs ∧ 1 ≤ secs ∧ secs ≤ 86400 ∧ (∀ i < 7, token c path (9 + i) = 0)

/-- The UART has sent the answer to a request, which it keeps for a repetition (R478). -/
def uartAnswer (r : UartReq) (st : Byte) (v : Word) (c : Chip) : Chip :=
  emit (uartReply r.seq st v) { c with dbg := { c.dbg with uartLast := some (r, st, v), uartPartial := none } }

/-- A new request, whole and aligned, that the fabric may carry. -/
def UartNew (s : State) (r : UartReq) : Prop :=
  fabricUp s.chip .uart = true ∧ uartIntact r = true ∧ r.off.toNat % 4 = 0 ∧ (∀ x, s.chip.dbg.uartLast = some x → x.1 ≠ r)

end Sys2Proof.Machine
end

