-- ==== Sys2Proof/Certificates/Slice0/Obligations.lean ====
section
/-!
DEFINITION. The obligations: what is claimed of the model, chapter by chapter of the specification. Each docstring names the rules
it formalises; where a clause rests on a choice of the model, it names the log entry.
-/

open Sys2Proof Sys2Proof.Machine

/-- Clock loss and return, PLL unlock, the PCI Express link and the block watchdog take effect. CLOCK_LOSS of a running domain marks it lost, sets its bit
of CLK_LOSS and the cause CLOCK_LOSS, clears CLOCK_OK in the pages the domain clocks and in no other, and then latches 0x02 in the owning pages and
takes the effect of Table 1-2. CLOCK_RETURN ends the loss: CLOCK_OK returns in the pages whose other clocks run, and 0x02 no longer stands. PLL_UNLOCK
latches 0xCC in CLK with its cause while that PLL had lock, and PLL C also unlocks the time counter. PCIE_LINK_UP and PCIE_LINK_DOWN change the link and
no register. BLOCK_WATCHDOG of a page that works latches 0x05, takes the reactions of what rests on the page and aborts its items. Which pages a domain clocks beside Table 1-2 is the model’s reading (log entry
50). (R9, R12, R16, R453, R468; derived) -/
def Obligations.ClocksAndLinks : Prop :=
  (∀ (s : State) (d : Clk), clkLost s.chip d = false →
    ∃ c3 : Chip, c3.clk.lost = s.chip.clk.lost ||| (1#14 <<< clkIdx d) ∧ c3.clk.running = s.chip.clk.running &&& ~~~(1#14 <<< clkIdx d) ∧
      clkLost c3 d = true ∧ bit (rd c3 .clk 0x044) (clkIdx d) = true ∧ bit (hdr c3 .clk).evt 9 = true ∧
      (∀ p ∈ clockedPages d, (hdr c3 p).clockOk = false) ∧ (∀ p ∉ clockedPages d, (hdr c3 p).clockOk = (hdr s.chip p).clockOk) ∧
      exec (.clockLoss d) s = .next (onChip (fun _ => lossEffect d (each (ownPages d) (fun p c => latchCond p 0x02 c) c3)) s)) ∧
  (∀ (s : State) (d : Clk), clkLost s.chip d = true →
    ∃ t, exec (.clockReturn d) s = .next t ∧ t.chip.clk.lost = s.chip.clk.lost &&& ~~~(1#14 <<< clkIdx d) ∧ clkLost t.chip d = false ∧
      (∀ p ∈ clockedPages d, otherClocksOk t.chip d p = true → (hdr t.chip p).clockOk = true) ∧
      (∀ p ∈ ownPages d, otherClocksOk t.chip d p = true → standing t.chip p 0x02 = false) ∧ t.mem = s.mem) ∧
  (∀ (s : State) (x : Pll), s.chip.clk.unlocked &&& (1#6 <<< pllIdx x) = 0 → (hdr s.chip .clk).fltCode = 0 →
    ∃ t, exec (.pllUnlock x) s = .next t ∧ t.chip.clk.pll = s.chip.clk.pll &&& ~~~(1#6 <<< pllIdx x) ∧ (hdr t.chip .clk).fltCode = 0xCC ∧
      bit (hdr t.chip .clk).evt 8 = true ∧ (x = .c → t.chip.tim.pllLock = false) ∧ (x ≠ .c → t.chip.tim = s.chip.tim) ∧ t.mem = s.mem) ∧
  (∀ (s : State), ∃ t, exec .pcieLinkUp s = .next t ∧ t.chip.svcPcie = true ∧ bit (devSvc t.chip) 5 = true ∧ t.chip.regs = s.chip.regs ∧ t.mem = s.mem) ∧
  (∀ (s : State), ∃ t, exec .pcieLinkDown s = .next t ∧ t.chip.svcPcie = false ∧ t.chip.regs = s.chip.regs ∧ t.mem = s.mem) ∧
  (∀ (s : State) (p : Page), (hdr s.chip p).state = .ready ∨ (hdr s.chip p).state = .run ∨ (hdr s.chip p).state = .splicing →
    exec (.blockWatchdog p) s = .next (endItems p 0x05 (onChip (fun c => resourceLost 0x05 p (latchFault p 0x05 c)) s)))

/-- A frame knot that is due advances the frame, and a due current sample advances the sample count. FRAME_KNOT, while the main die acts and the knot is due,
first computes the blocks that still wait for a line frame and then begins a new frame: the sample index is 0, planning is on, the frame number
advances by 1, the knot’s time is kept, and the step goes on with the rest of the knot on that chip. CURRENT_SAMPLE i, when it is due, takes the
sample’s stages (after the first sample, with the blocks that waited computed) and then advances the sample index and the sample number by 1, with
axes, registers and memory as those stages left them. The instant at which blocks that wait for line frames are computed is the model’s reading (log entry 178). (R17, R18, R20, R22; derived) -/
def Obligations.FrameKnotAndCurrentSample : Prop :=
  (∀ (s u : State) (late : List (Fin 160)) (pwmTicks : Nat), mainRuns s.chip = true → knotDue s.chip = true → u = heldCommit (planNow s) →
    ∃ c : Chip, c = knotAdvance pwmTicks (knotBegin late u.chip) ∧ c.tim.sampleIdx = 0 ∧ c.tim.planning = true ∧
      c.tim.lastKnot = (knotBegin late u.chip).clk.now ∧ c.tim.frameNo = (knotBegin late u.chip).tim.frameNo + 1 ∧
      exec (.frameKnot late pwmTicks) s =
        .next (withCal (fun _ => knotRest u.chip.tim.lenNs (knotNs u.chip).toNat (if clkLost u.chip .time then timeNs u.chip else u.chip.tim.nextKnot) { u with chip := knotZero c }) s)) ∧
  (∀ (s : State) (i : Fin 16) (bits : List (Fin 384 × List Bool)) (ph : List (Fin 128 × Int)) (ov : List (Fin 4)), mainRuns s.chip = true → sampleDue i.val s.chip = true →
    ∃ t u : State, u = sampleRest i.val (onChip (sampleBegin i.val bits ph ov) (if i.val = 0 then s else heldCommit (planNow s))) ∧ exec (.currentSample i bits ph ov) s = .next t ∧
      t.chip.tim = { u.chip.tim with sampleIdx := u.chip.tim.sampleIdx + 1, sampleNo := u.chip.tim.sampleNo + 1 } ∧
      t.chip.axes = u.chip.axes ∧ t.chip.regs = u.chip.regs ∧ t.mem = u.mem)

/-- Page enable, disable, PGRESET and its completion follow the page state machine. PAGE_ENABLE of a page in OFF that nothing holds back, with no
condition standing and no safe demand, sets EN, takes the page to READY or RUN and counts in PG_SEQ. PAGE_DISABLE of an enabled page clears EN and
leaves it OFF or SAFE. PGRESET, outside a save, clears EN, state, fault latch, seal, pending shadows and splice request, and marks the reset as
running. PAGE_RESET_COMPLETE ends it and raises RSVD_WRITE exactly if a write was dropped meanwhile. (R33, R34, R39; derived) -/
def Obligations.PageEnableDisableReset : Prop :=
  (∀ (s : State) (path : Path) (p : Page), CanWrite s path p → (hdr s.chip p).en = false → (hdr s.chip p).state = .off →
    enableHeld s.chip p = false → (hdr s.chip p).conds = [] → anyDemand (hdr s.chip p) = false →
    ∃ t, exec (.pageEnable path p) s = .next t ∧ (hdr t.chip p).en = true ∧ ((hdr t.chip p).state = .ready ∨ (hdr t.chip p).state = .run) ∧
      (hdr t.chip p).gen = (hdr s.chip p).gen + 1 ∧ t.mem = s.mem) ∧
  (∀ (s : State) (path : Path) (p : Page), CanWrite s path p → (hdr s.chip p).en = true →
    ∃ t, exec (.pageDisable path p) s = .next t ∧ (hdr t.chip p).en = false ∧ ((hdr t.chip p).state = .off ∨ (hdr t.chip p).state = .safe)) ∧
  (∀ (s : State) (path : Path) (p : Page), CanWrite s path p → s.chip.pwr.state ≠ .save →
    ∃ t, exec (.pgReset path p) s = .next t ∧ (hdr t.chip p).en = false ∧ (hdr t.chip p).state = .off ∧
      (hdr t.chip p).resetSince.isSome = true ∧ (hdr t.chip p).fltCode = 0 ∧ (hdr t.chip p).fltCount = 0 ∧ (hdr t.chip p).fltSeq = 0 ∧
      (hdr t.chip p).sealedBit = false ∧ (hdr t.chip p).shadowPending = false ∧ (hdr t.chip p).spliceReq = false) ∧
  (∀ (s : State) (p : Page) (b : Nat), mainRuns s.chip = true → (hdr s.chip p).resetSince = some b →
    exec (.pageResetComplete p) s = .next (onChip (fun c => raiseIf (hdr s.chip p).resetDropped p 1
      (setHdr p { hdr s.chip p with resetSince := none, resetDropped := false } c)) s))

/-- Event causes clear, enable and set as PG_EVT, PG_EVEN and PG_EVSET say, and a fault clears unless its condition stands. PG_EVT_WRITE clears exactly
the written causes. PG_EVEN_WRITE stores the enables, changes no header, and makes the vector pending of every cause that is set and newly enabled.
PG_EVSET_WRITE raises the written causes and makes the vector pending of each that was clear and is enabled. PG_FLT_CLEAR of a page without a code changes
nothing; with a code it clears CODE, COUNT and SEQUENCE and leaves FAULT when no condition stands; while the condition stands the write ends with the
cause CLEAR_REFUSED and the latch unchanged. For the code 0x05 a free value decides whether the engine responds again (log entry 51), and each asking
uses one. A belay code (from 0xB0 on) in BLY is cleared by the belay itself: the write travels to it in the next configuration slot. (R36, R37, R44,
R437; derived) -/
def Obligations.PageEventsAndFaultClear : Prop :=
  (∀ (s : State) (path : Path) (p : Page) (v : Word), CanWrite s path p →
    exec (.pgEvtWrite path p v) s =
      .next (onChip (fun c => ended path p 0x010 (setHdr p { hdr c p with evt := (hdr c p).evt &&& ~~~v } c)) s)) ∧
  (∀ (s : State) (path : Path) (p : Page) (v : Word), CanWrite s path p →
    ∃ t, exec (.pgEvenWrite path p v) s = .next t ∧ rd t.chip p 0x014 = v ∧ (∀ q, hdr t.chip q = hdr s.chip q) ∧
      (∀ b < 32, bit v b = true → bit (hdr s.chip p).evt b = true → bit (rd s.chip p 0x014) b = false →
        bit t.chip.evt.pend (vecOf s.chip p b) = true) ∧ t.mem = s.mem) ∧
  (∀ (s : State) (path : Path) (p : Page) (v : Word), CanWrite s path p →
    ∃ t, exec (.pgEvsetWrite path p v) s = .next t ∧ hdr t.chip p = { hdr s.chip p with evt := (hdr s.chip p).evt ||| v } ∧
      (∀ b < 32, bit v b = true → bit (hdr s.chip p).evt b = false → bit (rd s.chip p 0x014) b = true →
        bit t.chip.evt.pend (vecOf s.chip p b) = true) ∧ t.chip.regs = s.chip.regs ∧ t.mem = s.mem) ∧
  (∀ (s : State) (path : Path) (p : Page), CanWrite s path p → (hdr s.chip p).fltCode = 0 →
    exec (.pgFltClear path p) s = .next (onChip (ended path p 0x020) s)) ∧
  (∀ (s : State) (path : Path), CanWrite s path .bly → 0xB0 ≤ (hdr s.chip .bly).fltCode.toNat →
    exec (.pgFltClear path .bly) s = .next (onChip (fun c => ended path .bly 0x020 (pushCfg true 0x020 1 { c with fld := { c.fld with clearSince := some c.clk.now } })) s)) ∧
  (∀ (s : State) (path : Path) (p : Page), CanWrite s path p → (p = .bly → (hdr s.chip p).fltCode.toNat < 0xB0) → (hdr s.chip p).fltCode ≠ 0 → clearStands s.chip p = false →
    ∃ t, exec (.pgFltClear path p) s = .next t ∧ (hdr t.chip p).fltCode = 0 ∧ (hdr t.chip p).fltCount = 0 ∧ (hdr t.chip p).fltSeq = 0 ∧
      (hdr t.chip p).state ≠ .fault ∧ t.mem = s.mem) ∧
  (∀ (s : State) (path : Path) (p : Page), CanWrite s path p → (p = .bly → (hdr s.chip p).fltCode.toNat < 0xB0) → (hdr s.chip p).fltCode ≠ 0 → clearStands s.chip p = true →
    exec (.pgFltClear path p) s = .next (onChip (fun c => ended path p 0x020 (raise p 7 (if (hdr s.chip p).fltCode = 0x05 then useFresh c else c))) s))

/-- Sealing takes the CRC of the sealed fields, a mismatch latches 0x04, and splice requests run, are refused or expire. SEAL sets SEAL with the CRC-32C
of the page’s sealed registers and counts in PG_SEQ, and changes no other header and no register. SEAL_CRC_CHECK with a differing CRC latches 0x04,
takes the page to FAULT and stamps the next device fault sequence; with an equal CRC the condition ends. SPLICE_REQ on a page that splices at an apply
point is recorded; on a page that has no splice, or in OFF or FAULT, it is REFUSED and logged. SPLICE_LIMIT_EXPIRY with the old content intact returns
the page to the state before the splice, logs KEPT and raises SPLICE_DONE. (R35, R484, R491; derived) -/
def Obligations.SealAndSplice : Prop :=
  (∀ (s : State) (path : Path) (p : Page), CanWrite s path p → (hdr s.chip p).sealedBit = false →
    ∃ t, exec (.sealPage path p) s = .next t ∧ hdr t.chip p = { hdr s.chip p with gen := (hdr s.chip p).gen + 1, sealedBit := true, sealCrc := crc32c (sealBytes s.chip p) } ∧
      (∀ q, q ≠ p → hdr t.chip q = hdr s.chip q) ∧ t.chip.regs = s.chip.regs ∧ t.mem = s.mem) ∧
  (∀ (s : State) (p : Page), mainRuns s.chip = true → (hdr s.chip p).sealedBit = true →
    crc32c (sealBytes s.chip p) ≠ (hdr s.chip p).sealCrc → standing s.chip p 0x04 = false → (hdr s.chip p).fltCode = 0 →
    ((hdr s.chip p).state = .ready ∨ (hdr s.chip p).state = .run) →
    ∃ t, exec (.sealCrcCheck p) s = .next t ∧ (hdr t.chip p).state = .fault ∧ (hdr t.chip p).fltCode = 0x04 ∧ standing t.chip p 0x04 = true ∧
      (hdr t.chip p).fltSeq = s.chip.faultSeq + 1 ∧ bit (hdr t.chip p).evt 0 = true ∧ t.chip.regs = s.chip.regs ∧ t.mem = s.mem) ∧
  (∀ (s : State) (p : Page), mainRuns s.chip = true → (hdr s.chip p).sealedBit = true →
    crc32c (sealBytes s.chip p) = (hdr s.chip p).sealCrc →
    exec (.sealCrcCheck p) s = .next (onChip (endCond p 0x04) s)) ∧
  (∀ (s : State) (path : Path) (p : Page), CanWrite s path p → spliceWaits p = true → (hdr s.chip p).spliceReq = false →
    ∃ t, exec (.spliceReq path p) s = .next t ∧ hdr t.chip p = { hdr s.chip p with gen := (hdr s.chip p).gen + 1, spliceReq := true } ∧
      (∀ q, q ≠ p → hdr t.chip q = hdr s.chip q) ∧ t.chip.regs = s.chip.regs ∧ t.mem = s.mem) ∧
  (∀ (s : State) (path : Path) (p : Page), CanWrite s path p → spliceWaits p = false → (hdr s.chip p).spliceReq = false →
    (hdr s.chip p).spliceFrom = none → spliceNone p = true ∨ (hdr s.chip p).state = .off ∨ (hdr s.chip p).state = .fault →
    ∃ t, exec (.spliceReq path p) s = .next t ∧ (hdr t.chip p).spliceReq = false ∧ bit (hdr t.chip p).evt 5 = true ∧
      (s.chip.spl.log.length < 32 → t.chip.spl.log = s.chip.spl.log ++ [(pageNum p, 4)]) ∧ t.chip.regs = s.chip.regs ∧ t.mem = s.mem) ∧
  (∀ (s : State) (p : Page) (st : PgState), mainRuns s.chip = true → (∀ k, p ≠ .fco k) → (hdr s.chip p).state = .splicing → st ≠ .splicing →
    (hdr s.chip p).spliceFrom = some st → (hdr s.chip p).spliceSince + spliceLimit s.chip p ≤ s.chip.clk.now →
    ∃ t, exec (.spliceLimitExpiry p true) s = .next t ∧ (hdr t.chip p).state = st ∧ (hdr t.chip p).spliceReq = false ∧ (hdr t.chip p).spliceFrom = none ∧
      bit (hdr t.chip p).evt 5 = true ∧ (s.chip.spl.log.length < 32 → t.chip.spl.log = s.chip.spl.log ++ [(pageNum p, 2)]) ∧ t.mem = s.mem)

/-- PG_APPLY requests an apply, an apply copies every shadow to its active register, and PG_OWNER takes its value. PG_APPLY sets the request and nothing
else. APPLY at the apply point of a page whose accepted apply does nothing more, with no refusal, makes every shadowed register’s active copy equal to
its shadow, clears the request and SHADOW_PENDING, counts the apply and raises APPLIED. PG_OWNER_WRITE with a legal value sets the owner, counts in
PG_SEQ, and changes no other header and no register. (R38, R39, R41; derived) -/
def Obligations.ShadowApplyAndOwner : Prop :=
  (∀ (s : State) (path : Path) (p : Page), CanWrite s path p →
    ∃ t, exec (.pgApply path p) s = .next t ∧ hdr t.chip p = { hdr s.chip p with applyReq := true } ∧
      (∀ q, q ≠ p → hdr t.chip q = hdr s.chip q) ∧ t.chip.regs = s.chip.regs ∧ t.mem = s.mem) ∧
  (∀ (s : State) (p : Page), mainRuns s.chip = true → applyDue s.chip p = true → (hdr s.chip p).applyReq = true → plainApply p = true →
    applyRefusal p s.chip (copyShadows p (fun _ => true) s.chip) = [] →
    ∃ t, exec (.apply p) s = .next t ∧ hdr t.chip p = { hdr s.chip p with
        applyReq := false
        shadowPending := false
        applyCount := (hdr s.chip p).applyCount + 1
        evt := (hdr s.chip p).evt ||| (1#32 <<< 4) } ∧
      (∀ off, 0x040 ≤ off → off < 0x800 → rwsOff p off = true → act t.chip p off = rd s.chip p off ∧ rd t.chip p off = rd s.chip p off) ∧ t.mem = s.mem) ∧
  (∀ (s : State) (path : Path) (p : Page) (v : Word), CanWrite s path p → v.toNat < 16 → v ≠ 6 → v ≠ 7 →
    ∃ t, exec (.pgOwnerWrite path p v) s = .next t ∧ hdr t.chip p = { hdr s.chip p with owner := v.toNat, gen := (hdr s.chip p).gen + 1 } ∧
      (∀ q, q ≠ p → hdr t.chip q = hdr s.chip q) ∧ t.chip.regs = s.chip.regs ∧ t.mem = s.mem)

/-- Writes and reads of the register window by any path have the effect of the register’s access kind. REGISTER_WRITE of a plain shadowed register stores
the shadow and sets SHADOW_PENDING; of a plain register it stores the value; both count in PG_SEQ and end without error. A write by a path that does
not own an owned page raises OWNER_DENIED alone. A write to an unassigned offset ends in error with no effect. A write of the deck window stores the
word. PAIR_LO_READ returns the low half and snapshots the high half for the path, PAIR_LO_WRITE fills the path’s staging latch, and PAIR_HI_WRITE
commits latch and high half as one write. A PCI Express access of several DWs in one memory window, all bytes enabled, is performed DW by DW in
ascending order; of any other form a write is dropped and reported through AER and a read completes as unsupported. No other path has such forms. (R2, R3, R30, R32, R38, R39, R40, R41; derived) -/
def Obligations.RegisterWindowAccess : Prop :=
  (∀ (s : State) (path : Path) (p : Page) (off : BitVec 24) (o : Nat) (v : Word) (r : Reg) (hi : Bool), CanWrite s path p →
    off.toNat = pageBase p + o → plainWrites p = true → o % 4 = 0 → 0x040 ≤ o → o < 0x800 → findRow (pageRows p) o = some (r, hi) → r.pair = false →
    r.acc = .rws → v &&& r.mask = v → cleanReg s.chip path p o r v = (v, false) →
    exec (.registerWrite path off v [] true) s = .next (onChip (fun c => taken path p o (setHdr p { hdr c p with shadowPending := true } (wr p o v c))) s)) ∧
  (∀ (s : State) (path : Path) (p : Page) (off : BitVec 24) (o : Nat) (v : Word) (r : Reg) (hi : Bool), CanWrite s path p →
    off.toNat = pageBase p + o → plainWrites p = true → o % 4 = 0 → 0x040 ≤ o → o < 0x800 → findRow (pageRows p) o = some (r, hi) → r.pair = false →
    r.acc = .rw → v &&& r.mask = v → cleanReg s.chip path p o r v = (v, false) →
    exec (.registerWrite path off v [] true) s = .next (onChip (fun c => taken path p o (wr p o v c)) s)) ∧
  (∀ (s : State) (path : Path) (p : Page) (off : BitVec 24) (o : Nat) (v : Word), fabricUp s.chip path = true →
    off.toNat = pageBase p + o → o % 4 = 0 → o < 0x1000 → (hdr s.chip p).owner ≠ 0 → (hdr s.chip p).owner ≠ pathCode path → isStaging p o = false →
    exec (.registerWrite path off v [] true) s = .next (onChip (fun c => ended path p o (raise p 2 c)) s)) ∧
  (∀ (s : State) (path : Path) (off : BitVec 24) (v : Word), fabricUp s.chip path = true → off.toNat % 4 = 0 → targetOf off.toNat = .nothing →
    exec (.registerWrite path off v [] true) s = .next (onChip (emit (.regWrite path off.toNat false)) s)) ∧
  (∀ (s : State) (path : Path) (off : BitVec 24) (v : Word), fabricUp s.chip path = true → off.toNat % 4 = 0 → 0x800000 ≤ off.toNat → off.toNat < 0xB00000 →
    exec (.registerWrite path off v [] true) s = .next (onChip (emit (.regWrite path off.toNat true)) (writeMem32 .deck (off.toNat - 0x800000) v s))) ∧
  (∀ (s : State) (path : Path) (p : Page) (off : BitVec 24) (o : Nat) (r : Reg), fabricUp s.chip path = true → off.toNat = pageBase p + o → o % 4 = 0 →
    0x040 ≤ o → o < 0x800 → plainReads p = true → findRow (pageRows p) o = some (r, false) → r.pair = true → r.acc ≠ .wo →
    exec (.pairLoRead path off 0 true) s = .next (onChip (fun c => answered path p o (blockWord c path p o)
      (setPath path { pathSt c path with snap := blockWord c path p (o + 4) } c)) s)) ∧
  (∀ (s : State) (path : Path) (p : Page) (off : BitVec 24) (o : Nat) (v : Word), fabricUp s.chip path = true → off.toNat = pageBase p + o → o % 4 = 0 →
    isStaging p o = true →
    exec (.pairLoWrite path off v) s = .next (onChip (fun c => ended path p o (setPath path { pathSt c path with stage := v } c)) s)) ∧
  (∀ (s : State) (path : Path) (p : Page) (off : BitVec 24) (o : Nat) (v : Word) (r : Reg), CanWrite s path p → off.toNat = pageBase p + o → o % 4 = 0 →
    0x044 ≤ o → o < 0x800 → plainWrites p = true → (∀ n, p ≠ .fbk n) → findRow (pageRows p) o = some (r, true) → r.pair = true → r.acc = .rws →
    cleanWord r.mask (rd s.chip p (o - 4)) (pathSt s.chip path).stage [] = ((pathSt s.chip path).stage, false) →
    cleanWord r.hiMask (rd s.chip p o) v r.legal = (v, false) →
    exec (.pairHiWrite path off v) s = .next (onChip (fun c => taken path p o
      (setHdr p { hdr c p with shadowPending := true } (wrPair p (o - 4) (joinHalves v (pathSt c path).stage) c))) s)) ∧
  (∀ (s : State) (path : Path) (off : BitVec 24), path ≠ .pcie →
    (∀ (v : Word) (more : List Word) (full : Bool), exec (.registerWrite path off v more full) s = exec (.registerWrite path off v [] true) s) ∧
    (∀ (more : Fin 128) (full : Bool), exec (.pairLoRead path off more full) s = exec (.pairLoRead path off 0 true) s)) ∧
  (∀ (s : State) (off : BitVec 24) (v : Word) (more : List Word) (full : Bool),
    (bar0Ok off.toNat (more.length + 1) 64 full = true →
      exec (.registerWrite .pcie off v more full) s = .next (regWrites .pcie (off.toNat + 4) more (regWrite .pcie off.toNat v s))) ∧
    (bar0Ok off.toNat (more.length + 1) 64 full = false → fabricUp s.chip .pcie = true →
      exec (.registerWrite .pcie off v more full) s = .next (onChip (emit (.aer .unsupported)) s))) ∧
  (∀ (s : State) (off : BitVec 24) (more : Fin 128) (full : Bool),
    (bar0Ok off.toNat (more.val + 1) 128 full = true →
      exec (.pairLoRead .pcie off more full) s = .next (regReads .pcie more.val (off.toNat + 4) (regRead .pcie off.toNat s))) ∧
    (bar0Ok off.toNat (more.val + 1) 128 full = false → fabricUp s.chip .pcie = true →
      exec (.pairLoRead .pcie off more full) s = .next (onChip (emit (.regRead .pcie off.toNat none)) s)))

/-- Vector masks, MSI-X messages and the splice log. EVT_MASK_WRITE stores the mask half. VECTOR_MESSAGE of a pending, unmasked vector that is due, in
MSI-X mode with the EVT page up and the link and the HOST clock there, sends the vector and clears its pending bit. DEV_SPLICE_LOG_POP answers the
oldest entry of the splice log and removes it. (R44, R45, R491; derived) -/
def Obligations.EventVectorsAndSpliceLog : Prop :=
  (∀ (s : State) (path : Path) (hi : Bool) (v : Word), CanWrite s path .evt →
    exec (.evtMaskWrite path hi v) s = .next (onChip (fun c => taken path .evt (if hi then 0x04C else 0x048) (wr .evt (if hi then 0x04C else 0x048) v c)) s)) ∧
  (∀ (s : State) (v : Fin 64), mainRuns s.chip = true → bit s.chip.evt.pend v.val = true → isUp s.chip .evt = true →
    rdF s.chip .evt 0x050 1 0 = 0 → vectorMasked s.chip v.val true = false → vectorDue s.chip v.val = true → s.chip.svcPcie = true →
    clkLost s.chip .host = false →
    exec (.vectorMessage v) s = .next (onChip (fun c => emit (.msix v.val) { c with evt :=
      { c.evt with pend := c.evt.pend &&& ~~~(1#64 <<< v.val), vec := tabSet {} c.evt.vec v.val { last := some c.clk.now, gathered := 0 } } }) s)) ∧
  (∀ (s : State) (path : Path) (n o : Nat) (t : List (Nat × Nat)), fabricUp s.chip path = true → s.chip.spl.log = (n, o) :: t →
    exec (.devSpliceLogPop path) s = .next (onChip (fun c => answered path .dev 0x200 (w32 (n * 4096 + o * 2 ^ 24))
      { c with spl := { c.spl with log := t } }) s))

/-- Doorbells and ring resets move heads and tails, or are refused with their error. SQ_TAIL_DB with a tail below the ring’s size on an enabled, unhalted
ring sets the tail when the new entries fit in the free ones, and otherwise halts the ring with error kind 2, records the value and raises SQ_OVERRUN;
on a ring that is not in its enabled state, or with a tail outside the ring, it records error kind 1, raises DB_ERR and moves nothing. SQ_RESET sets
head and tail to 0 and ends the halt. CQ_HEAD_DB that does not pass what was posted advances the head and frees that many completions, and the
ring, if it works, takes those that wait; a head outside the ring raises CQ_ERR alone. (R53, R54, R61; derived) -/
def Obligations.RingDoorbellsAndReset : Prop :=
  (∀ (s : State) (path : Path) (r : Fin 4) (v : Word), CanWrite s path .cmd → v &&& 0xFFF = v → sqEn s.chip r.val = true →
    (Machine.sq s.chip r.val).halted = false → v.toNat < sqSize s.chip r.val →
    exec (.sqTailDb path r v) s = .next (onChip (
      if (v.toNat + sqSize s.chip r.val - (Machine.sq s.chip r.val).tail) % sqSize s.chip r.val ≤
        sqSize s.chip r.val - 1 - ((Machine.sq s.chip r.val).tail + sqSize s.chip r.val - (Machine.sq s.chip r.val).head) % sqSize s.chip r.val
      then fun c => taken path .cmd (sqOff r.val 0x10) (setSq r.val { Machine.sq s.chip r.val with tail := v.toNat } c)
      else fun c => ended path .cmd (sqOff r.val 0x10) (raise .cmd 10 (setSq r.val
        { Machine.sq s.chip r.val with halted := true, errKind := 2, errVal := v.toNat } (setSq r.val { Machine.sq s.chip r.val with halted := true } c)))) s)) ∧
  (∀ (s : State) (path : Path) (r : Fin 4) (v : Word), CanWrite s path .cmd → v &&& 0xFFF = v →
    sqState s.chip r.val ≠ 1 ∨ sqSize s.chip r.val ≤ v.toNat →
    exec (.sqTailDb path r v) s = .next (onChip (fun c => ended path .cmd (sqOff r.val 0x10) (raise .cmd 9 (setSq r.val
        { Machine.sq s.chip r.val with errKind := 1, errVal := v.toNat } c))) s)) ∧
  (∀ (s : State) (path : Path) (r : Fin 4), CanWrite s path .cmd →
    exec (.sqReset path r) s = .next (onChip (fun c => taken path .cmd (sqOff r.val 0x0C)
      (wr .cmd (sqOff r.val 0x0C) (if sqEn s.chip r.val then 1 else 0) (setSq r.val { Machine.sq s.chip r.val with head := 0, tail := 0, halted := false } c))) s)) ∧
  (∀ (s : State) (path : Path) (v : Word), CanWrite s path .cmd → v &&& 0xFFF = v → v.toNat < cqSize s.chip → s.chip.cmd.cqHead ≠ v.toNat →
    (v.toNat + cqSize s.chip - s.chip.cmd.cqHead) % cqSize s.chip ≤ s.chip.cmd.cqPosted →
    exec (.cqHeadDb path v) s = .next (onChip (fun c => taken path .cmd 0x0D0 (updateFull ((if cqEn c && isUp c .cmd then postWaiting else id) { c with cmd := { c.cmd with
      cqHead := v.toNat, cqPosted := c.cmd.cqPosted - (v.toNat + cqSize c - c.cmd.cqHead) % cqSize c } }))) s)) ∧
  (∀ (s : State) (path : Path) (v : Word), CanWrite s path .cmd → v &&& 0xFFF = v → cqSize s.chip ≤ v.toNat → s.chip.cmd.cqHead ≠ v.toNat →
    exec (.cqHeadDb path v) s = .next (onChip (fun c => ended path .cmd 0x0D0 (raise .cmd 12 c)) s))

/-- Ring resizes, the start of the completion ring, held completions and BAR 2 writes. SQ_SIZE and CQ_SIZE in 16 to 4096 wait as a pending resize while
the ring is enabled, and otherwise set the size and restart the ring. RING_RESIZE_APPLY sets the new size once the ring is empty and nothing of it is
in flight (nothing posted or reserved for the completion ring). CQ_CTL with EN = 1 posts the waiting completions and starts the posting of held ones;
HELD_COMPLETION_POST posts the oldest held one, and the last one raises HELD_POSTED. A BAR 2 write merges its enabled bytes into the DRAM words its
addresses select, and a read returns their bytes or, of an uncorrectable word, completes poisoned; an access outside the mapped segments is dropped or
unsupported, and AER reports a dropped write and a poisoned completion. (R47, R54, R55, R67; derived) -/
def Obligations.RingSizesCompletionsAndBar2 : Prop :=
  (∀ (s : State) (path : Path) (r : Fin 4) (v : Word), CanWrite s path .cmd → v &&& 0x1FFF = v → 16 ≤ v.toNat → v.toNat ≤ 4096 →
    exec (.sqSizeWrite path r v) s = .next (onChip (fun c => taken path .cmd (sqOff r.val 0x08)
      (if sqEn s.chip r.val then setSq r.val { Machine.sq s.chip r.val with resize := some v.toNat } c
       else setSq r.val { Machine.sq s.chip r.val with head := 0, tail := 0, resize := none } (wr .cmd (sqOff r.val 0x08) v c))) s)) ∧
  (∀ (s : State) (path : Path) (v : Word), CanWrite s path .cmd → v &&& 0x1FFF = v → 16 ≤ v.toNat → v.toNat ≤ 4096 →
    exec (.cqSizeWrite path v) s = .next (onChip (fun c => taken path .cmd 0x0C8
      (if cqEn s.chip then { c with cmd := { c.cmd with cqResize := some v.toNat } }
       else updateFull { wr .cmd 0x0C8 v c with cmd := { c.cmd with cqResize := none, cqHead := 0, cqTail := 0, cqPhase := true, cqPosted := 0 } })) s)) ∧
  (∀ (s : State) (r : Fin 4) (n : Nat), mainRuns s.chip = true → (Machine.sq s.chip r.val).resize = some n → (Machine.sq s.chip r.val).head = (Machine.sq s.chip r.val).tail →
    ringInFlight s.chip r.val = 0 →
    exec (.ringResizeApply (some r)) s = .next (onChip (fun c =>
      setSq r.val { Machine.sq s.chip r.val with head := 0, tail := 0, resize := none } (wr .cmd (sqOff r.val 0x08) (BitVec.ofNat 32 n) c)) s)) ∧
  (∀ (s : State) (n : Nat), mainRuns s.chip = true → s.chip.cmd.cqResize = some n → s.chip.cmd.cqPosted = 0 → cqReserved s.chip = 0 →
    exec (.ringResizeApply none) s = .next (onChip (fun c => updateFull { wr .cmd 0x0C8 (BitVec.ofNat 32 n) c with cmd :=
      { c.cmd with cqResize := none, cqHead := 0, cqTail := 0, cqPhase := true } }) s)) ∧
  (∀ (s : State) (path : Path), CanWrite s path .cmd → isUp s.chip .cmd = true →
    exec (.cqEnable path) s = .next (onChip (fun c => taken path .cmd 0x0CC
      (updateFull (let c1 := postWaiting (wr .cmd 0x0CC 1 c)
        { c1 with cmd := { c1.cmd with posting := decide (c1.cmd.held ≠ []) } }))) s)) ∧
  (∀ (s : State) (x : Completion) (l : List Completion), mainRuns s.chip = true → isUp s.chip .cmd = true → cqEn s.chip = true →
    s.chip.cmd.posting = true → s.chip.cmd.held = x :: l → s.chip.cmd.cqPosted < cqSize s.chip →
    exec .heldCompletionPost s = .next (onChip (fun c =>
      (if l = [] then fun c => raise .cmd 15 { c with cmd := { c.cmd with posting := false } } else id)
        (updateFull (postCq x { c with cmd := { c.cmd with held := l } }))) s)) ∧
  (∀ (s : State) (addr : BitVec 30) (bs : List (Option Byte)), fabricUp s.chip .pcie = true → s.chip.svcPcie = true →
    exec (.bar2Write addr (.write bs)) s = .next (if bar2Mapped s.chip addr.toNat bs.length then bar2Bytes (bs.length / 16 + 2) addr.toNat bs s
      else onChip (emit (.aer .unsupported)) s)) ∧
  (∀ (s : State) (k a d : Nat) (b : Option Byte) (t : List (Option Byte)), bar2Target s.chip a = some d →
    bar2Bytes (k + 1) a (b :: t) s = bar2Bytes k (a + (16 - a % 16)) ((b :: t).drop (16 - a % 16)) (mergeInWord .dram d ((b :: t).take (16 - a % 16)) s)) ∧
  (∀ (s s1 : State) (addr : BitVec 30) (n : Nat) (l : List Byte), fabricUp s.chip .pcie = true → s.chip.svcPcie = true → bar2Mapped s.chip addr.toNat n = true →
    bar2Read n addr.toNat s = (s1, some l) →
    exec (.bar2Write addr (.read n)) s = .next (onChip (emit (.bar2Read addr.toNat (.data l))) s1)) ∧
  (∀ (s s1 : State) (addr : BitVec 30) (n : Nat), fabricUp s.chip .pcie = true → s.chip.svcPcie = true → bar2Mapped s.chip addr.toNat n = true →
    bar2Read n addr.toNat s = (s1, none) →
    exec (.bar2Write addr (.read n)) s = .next (onChip (fun c => emit (.bar2Read addr.toNat .poisoned) (emit (.aer .poisoned) c)) s1)) ∧
  (∀ (s : State) (addr : BitVec 30) (n : Nat), fabricUp s.chip .pcie = true → s.chip.svcPcie = true → bar2Mapped s.chip addr.toNat n = false →
    exec (.bar2Write addr (.read n)) s = .next (onChip (emit (.bar2Read addr.toNat .unsupported)) s))

/-- A motion command that passes the checks is accepted and taken up. MOVE_ABS, MOVE_REL, MOVE_VEL, STOP, RESUME, HOME, ENABLE, GROUP_MOVE, HITCH_SET and
HITCH_RELEASE on a ring that is fetched, each passing every acceptance check, enter the command engine with the next command number, their tag, flags,
start time and LATE mark, and the command engine then gives effect to what nothing holds back. The statement MotionCommandsTakeEffect says what each
does when it takes effect. (R58, R59, R62, R64, R65; derived) -/
def Obligations.RingCommandsAreAccepted : Prop :=
  (∀ (s : State) (h : Hdr) (axis : Word) (pos vel acc dec jerk : DWord), Admits h (.moveAbs axis pos vel acc dec jerk) s →
    exec (.moveAbs h axis pos vel acc dec jerk) s = .next (settleCmds (onChip (ringTaken h (.moveAbs axis pos vel acc dec jerk)) s))) ∧
  (∀ (s : State) (h : Hdr) (axis : Word) (dist vel acc dec jerk : DWord), Admits h (.moveRel axis dist vel acc dec jerk) s →
    exec (.moveRel h axis dist vel acc dec jerk) s = .next (settleCmds (onChip (ringTaken h (.moveRel axis dist vel acc dec jerk)) s))) ∧
  (∀ (s : State) (h : Hdr) (axis : Word) (vel acc dec jerk : DWord), Admits h (.moveVel axis vel acc dec jerk) s →
    exec (.moveVel h axis vel acc dec jerk) s = .next (settleCmds (onChip (ringTaken h (.moveVel axis vel acc dec jerk)) s))) ∧
  (∀ (s : State) (h : Hdr) (axis : Word) (kind : Byte), Admits h (.stop axis kind) s →
    exec (.stop h axis kind) s = .next (settleCmds (onChip (ringTaken h (.stop axis kind)) s))) ∧
  (∀ (s : State) (h : Hdr) (axis : Word), Admits h (.resume axis) s →
    exec (.resume h axis) s = .next (settleCmds (onChip (ringTaken h (.resume axis)) s))) ∧
  (∀ (s : State) (h : Hdr) (axis : Word) (method flags : Byte) (search creep accel offset : DWord), Admits h (.home axis method flags search creep accel offset) s →
    exec (.home h axis method flags search creep accel offset) s = .next (settleCmds (onChip (ringTaken h (.home axis method flags search creep accel offset)) s))) ∧
  (∀ (s : State) (h : Hdr) (axis : Word) (en : Byte), Admits h (.enable axis en) s →
    exec (.enable h axis en) s = .next (settleCmds (onChip (ringTaken h (.enable axis en)) s))) ∧
  (∀ (s : State) (h : Hdr) (group : Word) (targets : Option (List DWord)) (count : Byte) (relative : Bool) (vel acc dec jerk : DWord),
    Admits h (.groupMove group targets count relative vel acc dec jerk) s →
    exec (.groupMove h group targets count relative vel acc dec jerk) s =
      .next (settleCmds (onChip (ringTaken h (.groupMove group targets count relative vel acc dec jerk)) s))) ∧
  (∀ (s : State) (h : Hdr) (hitch : Word) (record : BitVec 256), Admits h (.hitchSet hitch record) s →
    exec (.hitchSet h hitch record) s = .next (settleCmds (onChip (ringTaken h (.hitchSet hitch record)) s))) ∧
  (∀ (s : State) (h : Hdr) (hitch : Word) (ramp : Bool), Admits h (.hitchRelease hitch ramp) s →
    exec (.hitchRelease h hitch ramp) s = .next (settleCmds (onChip (ringTaken h (.hitchRelease hitch ramp)) s)))

/-- Commands that name no axis start when they are accepted with nothing before them. With no command in flight and no start time, REG_BATCH, CAM_LOAD,
CAM_VERIFY, FCO_LOAD, TRACE_START, TRACE_STOP, FAULT_CLEAR and SAVE_TEST are accepted, marked running and begin their own effect in the same step.
That a command with an empty axis set takes effect at acceptance is the model’s reading (log entry 24). (R58, R63, R64, R171, R360, R388, R463; derived) -/
def Obligations.ImmediateCommandsStart : Prop :=
  (∀ (s : State) (h : Hdr) (list : Option (List DWord)) (count : BitVec 16) (cont : Bool), Admits h (.regBatch list count cont) s →
    s.chip.cmd.inflight = [] → bit h.flags 0 = false → 
    exec (.regBatch h list count cont) s = .next (startBatch (s.chip.cmd.nextId + 1) list count cont
      (onChip (fun c => markRunning (s.chip.cmd.nextId + 1) (ringTaken h (.regBatch list count cont) c)) s))) ∧
  (∀ (s : State) (h : Hdr) (first count : Word), Admits h (.camLoad first count) s → s.chip.cmd.inflight = [] → bit h.flags 0 = false →
    exec (.camLoad h first count) s = .next (onChip (fun c => startCam (s.chip.cmd.nextId + 1) true first count 0
      (markRunning (s.chip.cmd.nextId + 1) (ringTaken h (.camLoad first count) c))) s)) ∧
  (∀ (s : State) (h : Hdr) (first count crc : Word), Admits h (.camVerify first count crc) s → s.chip.cmd.inflight = [] → bit h.flags 0 = false →
    exec (.camVerify h first count crc) s = .next (onChip (fun c => startCam (s.chip.cmd.nextId + 1) false first count crc
      (markRunning (s.chip.cmd.nextId + 1) (ringTaken h (.camVerify first count crc) c))) s)) ∧
  (∀ (s : State) (h : Hdr) (mask len : Word), Admits h (.fcoLoad mask len) s → s.chip.cmd.inflight = [] → bit h.flags 0 = false →
    exec (.fcoLoad h mask len) s = .next (onChip (fun c => startFcoLoad (s.chip.cmd.nextId + 1) mask len
      (markRunning (s.chip.cmd.nextId + 1) (ringTaken h (.fcoLoad mask len) c))) s)) ∧
  (∀ (s : State) (h : Hdr), Admits h .traceStart s → s.chip.cmd.inflight = [] → bit h.flags 0 = false →
    exec (.traceStart h) s = .next (onChip (fun c => startTrace (s.chip.cmd.nextId + 1) (markRunning (s.chip.cmd.nextId + 1) (ringTaken h .traceStart c))) s)) ∧
  (∀ (s : State) (h : Hdr), Admits h .traceStop s → s.chip.cmd.inflight = [] → bit h.flags 0 = false →
    exec (.traceStop h) s = .next (onChip (fun c => stopTrace (s.chip.cmd.nextId + 1) (markRunning (s.chip.cmd.nextId + 1) (ringTaken h .traceStop c))) s)) ∧
  (∀ (s : State) (h : Hdr) (page : Word), Admits h (.faultClear page) s → s.chip.cmd.inflight = [] → bit h.flags 0 = false →
    exec (.faultClear h page) s = .next (onChip (fun c => startFaultClear (s.chip.cmd.nextId + 1) page
      (markRunning (s.chip.cmd.nextId + 1) (ringTaken h (.faultClear page) c))) s)) ∧
  (∀ (s : State) (h : Hdr), Admits h .saveTest s → s.chip.cmd.inflight = [] → bit h.flags 0 = false →
    exec (.saveTest h) s = .next (onChip (fun c => saveTestStart (s.chip.cmd.nextId + 1) (markRunning (s.chip.cmd.nextId + 1) (ringTaken h .saveTest c))) s))

/-- Entries are fetched, and cam loads, cam checks, image loads and SAVE_TEST run to their ends. COMMAND_FETCH takes up to four entries of the chosen ring
in order; a host read error halts the ring with error kind 3 and raises SQ_FETCH_ERR; an entry read is accepted at the ring’s head, which advances
modulo the size. CAM_READ_DONE of a hitch that waits for its cam keeps the end node, the period and the rise, or ends the command FAILED with the
scan’s code. LOAD_DONE with sound nodes writes them and ends DONE with their CRC-32C; CAM_VERIFY_DONE ends DONE where the CRC agrees and FAILED 0x09
with VERIFY_FAIL where it does not. IMAGE_CHECKED with an allowed image goes to the first core named, IMAGE_LOADED loads a core that is OFF, logs the
splice and goes on. SAVE_TEST_DONE writes a TEST marker, the next generation, the image size and the time, or ends FAILED 0xCA where the image is too
long. (R51, R56, R167, R168, R171, R360, R463;
derived) -/
def Obligations.FetchLoadsAndSaveTest : Prop :=
  (∀ (s : State) (r : Fin 4) (es : List (Option Fetched)), fetchRing s.chip = some r →
    exec (.commandFetch es) s = .next (eachS (es.take 4) (fetchEntry r) s)) ∧
  (∀ (s : State) (r : Fin 4), fetchable s.chip r.val = true → (Machine.sq s.chip r.val).head ≠ (Machine.sq s.chip r.val).tail →
    fetchEntry r none s = onChip (fun c => emit (.aer .hostRead) (raise .cmd 11 (setSq r.val { Machine.sq c r.val with halted := true, errKind := 3 } c))) s) ∧
  (∀ (s : State) (r : Fin 4) (e : Fetched), fetchable s.chip r.val = true → (Machine.sq s.chip r.val).head ≠ (Machine.sq s.chip r.val).tail →
    fetchEntry r (some e) s = settleCmds (onChip (fun c => acceptEntry (.ring r (BitVec.ofNat 12 (Machine.sq c r.val).head)) e
      (setSq r.val { Machine.sq c r.val with head := if (Machine.sq c r.val).head + 1 < sqSize c r.val then (Machine.sq c r.val).head + 1 else 0 } c)) s)) ∧
  (∀ (s : State) (h : Fin 256) (id : Nat) (t u : State) (i : Nat) (node : CamNode) (a : Option CamNode), mainRuns s.chip = true →
    (hitch s.chip h.val).reading = some id → (hitch s.chip h.val).readDone = false →
    scanCam (2 ^ 25) (decodeHit (hitch s.chip h.val).raw).first none s = (t, .ok (i, node)) →
    readNode (decodeHit (hitch s.chip h.val).raw).first t = (u, a) →
    exec (.camReadDone h) s = .next (onChip (fun c => setHitch h.val { hitch c h.val with
      readDone := true, camEnd := i, camP := node.m, camR := node.s - (match a with | some a => a.s | none => 0) } c) u)) ∧
  (∀ (s : State) (h : Fin 256) (id : Nat) (t : State) (e : Byte), mainRuns s.chip = true →
    (hitch s.chip h.val).reading = some id → (hitch s.chip h.val).readDone = false →
    scanCam (2 ^ 25) (decodeHit (hitch s.chip h.val).raw).first none s = (t, .error e) →
    exec (.camReadDone h) s = .next (onChip (fun c => finish id stFailed e 0 (setHitch h.val { hitch c h.val with reading := none } c)) t)) ∧
  (∀ (s : State) (l : List (BitVec 128)) (id first : Nat) (w : Word), mainRuns s.chip = true → s.chip.cam.active = some (id, true, first, l.length, w) →
    isUp s.chip .cam = true → dramUp s.chip = true → (∀ w ∈ l, badNode (decodeNode w) = false) →
    exec (.loadDone (some l)) s = .next (onChip (fun c => raise .cam 8 (camEnd id stDone 0 ((crcFinal (l.foldl crcNode 0xFFFFFFFF)).setWidth 64)
      { c with cam := { c.cam with crc := crcFinal (l.foldl crcNode 0xFFFFFFFF), bad := 0, badNode := 0 } })) (writeNodes l first s))) ∧
  (∀ (s t : State) (id first n : Nat) (want : Word) (r : Nat), mainRuns s.chip = true → s.chip.cam.active = some (id, false, first, n, want) →
    isUp s.chip .cam = true → dramUp s.chip = true → readNodes n first 0xFFFFFFFF s = (t, some r) →
    exec .camVerifyDone s = .next (onChip (fun c =>
      if crcFinal r = want then camEnd id stDone 0 ((crcFinal r).setWidth 64) { c with cam := { c.cam with crc := crcFinal r } }
      else raise .cam 9 (camEnd id stFailed 0x09 ((crcFinal r).setWidth 64) { c with cam := { c.cam with crc := crcFinal r } })) t)) ∧
  (∀ (s : State) (img : List Byte) (d g : Bool) (id mask : Nat), mainRuns s.chip = true → s.chip.spl.fco.active = some (id, mask, img.length) →
    s.chip.spl.fco.image = none → s.chip.spl.fco.cur = none → imgRules fcoMagic img = true → imgAllowed s.chip img d g = true →
    exec (.imageChecked (some img) d g) s = .next (onChip (fun c => fcoGo 0 (modFco (fun j => { j with image := some img }) c)) s)) ∧
  (∀ (s : State) (k : Fin 8) (id mask len : Nat) (img : List Byte), mainRuns s.chip = true → s.chip.spl.fco.cur = some k.val →
    s.chip.spl.fco.active = some (id, mask, len) → s.chip.spl.fco.image = some img → (hdr s.chip (fcoPage k.val)).state = .off →
    exec (.imageLoaded k) s = .next (onChip (fun c => fcoGo (k.val + 1) (modFco (fun j => { j with cur := none, spliced := j.spliced ||| (1 <<< k.val) })
      (logSplice (fcoPage k.val) 1 c))) (loadCore k.val img (onChip (ownerLapse (8 + k.val)) s)))) ∧
  (∀ (s : State) (env : SaveEnv) (ns id : Nat), mainRuns s.chip = true → s.chip.pwr.test = some id → env.bytes ≤ 262144 → env.keepOk = true →
    ∃ t, exec (.saveTestDone env ns) s = .next t ∧ t.chip.pwr.test = none ∧ t.chip.keep.marker = some false ∧
      rdF t.chip .pwr 0x054 31 24 = (rdF s.chip .pwr 0x054 31 24 + 1) % 256 ∧ rdF t.chip .pwr 0x054 23 0 = env.bytes ∧
      rd t.chip .kep 0x054 = BitVec.ofNat 32 env.bytes ∧ rdF t.chip .pwr 0x050 15 0 = ns / 1000 % 65536 ∧ t.mem = s.mem) ∧
  (∀ (s : State) (env : SaveEnv) (ns id : Nat), mainRuns s.chip = true → s.chip.pwr.test = some id → 262144 < env.bytes →
    exec (.saveTestDone env ns) s = .next (onChip (fun c => finish id stFailed 0xCA 0 { c with pwr := { c.pwr with test := none } }) s))

/-- What each motion command does when it takes effect. For an axis free to take it: MOVE_ABS, MOVE_REL and MOVE_VEL install the planned profile to their
target under their limits; STOP of a moving axis suspends its hitches and stops it by the kind given, and STOP of an axis at rest is DONE with the
slack as RESULT; RESUME of an axis in SLACK takes up the kept move; HOME method 0 sets the position at once; ENABLE of a virtual axis makes it READY,
and of a physical axis with its limits, mode and feedback in order begins the enabling; GROUP_MOVE of an idle group with free members plans its path;
HITCH_SET of a lawful record without a cam takes the hitch; HITCH_RELEASE without a ramp of an engaged, not superimposed hitch ends the hitch’s
commands CANCELLED and stops the slave. (R123, R124, R129, R131, R133, R135, R136, R140, R154, R159, R163, R194; derived) -/
def Obligations.MotionCommandsTakeEffect : Prop :=
  (∀ (s : State) (x : InFlight) (axisNo : Word) (pos vel acc dec jerk : DWord) (l : Lim), x.cmd.op = .moveAbs axisNo pos vel acc dec jerk →
    (axis s.chip axisNo.toNat).run = none → moveLim (markRunning x.id s.chip) axisNo.toNat false vel acc dec jerk = some (l, false) → inQ (ofQ pos) = true →
    outsideSwl s.chip axisNo.toNat (ofQ pos) = false → movable s.chip axisNo.toNat = true →
    blockedDir s.chip axisNo.toNat (firstDir (ownNow s.chip axisNo.toNat) (ofQ pos - (ownNow s.chip axisNo.toNat).p)) = false →
    needsReversal (ownNow s.chip axisNo.toNat) (ofQ pos) l = false →
    takeEffect x s = onChip (fun c => dueAtOnce axisNo.toNat (planPos (ownNow c axisNo.toNat) (ofQ pos) l).1
      (installMove axisNo.toNat { id := x.id, op := x.cmd.op, lim := l, target := ofQ pos, result := (planPos (ownNow c axisNo.toNat) (ofQ pos) l).2 }
        (planPos (ownNow c axisNo.toNat) (ofQ pos) l).1 (ofQ pos) (dropSlack axisNo.toNat (markRunning x.id (markRunning x.id c))))) s) ∧
  (∀ (s : State) (x : InFlight) (axisNo : Word) (dist vel acc dec jerk : DWord) (l : Lim), x.cmd.op = .moveRel axisNo dist vel acc dec jerk →
    (axis s.chip axisNo.toNat).run = none → moveLim (markRunning x.id s.chip) axisNo.toNat false vel acc dec jerk = some (l, false) →
    inQ ((ownNow s.chip axisNo.toNat).p + ofQ dist) = true →
    outsideSwl s.chip axisNo.toNat ((ownNow s.chip axisNo.toNat).p + ofQ dist) = false → movable s.chip axisNo.toNat = true →
    blockedDir s.chip axisNo.toNat (firstDir (ownNow s.chip axisNo.toNat) ((ownNow s.chip axisNo.toNat).p + ofQ dist - (ownNow s.chip axisNo.toNat).p)) = false →
    needsReversal (ownNow s.chip axisNo.toNat) ((ownNow s.chip axisNo.toNat).p + ofQ dist) l = false →
    takeEffect x s = onChip (fun c => dueAtOnce axisNo.toNat (planPos (ownNow c axisNo.toNat) ((ownNow c axisNo.toNat).p + ofQ dist) l).1
      (installMove axisNo.toNat { id := x.id, op := x.cmd.op, lim := l, target := (ownNow c axisNo.toNat).p + ofQ dist, result := (planPos (ownNow c axisNo.toNat) ((ownNow c axisNo.toNat).p + ofQ dist) l).2 }
        (planPos (ownNow c axisNo.toNat) ((ownNow c axisNo.toNat).p + ofQ dist) l).1 ((ownNow c axisNo.toNat).p + ofQ dist)
        (dropSlack axisNo.toNat (markRunning x.id (markRunning x.id c))))) s) ∧
  (∀ (s : State) (x : InFlight) (axisNo : Word) (vel acc dec jerk : DWord) (l : Lim), x.cmd.op = .moveVel axisNo vel acc dec jerk →
    (axis s.chip axisNo.toNat).run = none → moveLim (markRunning x.id s.chip) axisNo.toNat true vel acc dec jerk = some (l, false) →
    movable s.chip axisNo.toNat = true →
    blockedDir s.chip axisNo.toNat (firstDir (ownNow s.chip axisNo.toNat) (sgn (ofQ vel) * l.v)) = false →
    (planSpeed (ownNow s.chip axisNo.toNat) (sgn (ofQ vel) * l.v) l).2 = false →
    ∃ target, takeEffect x s = onChip (fun c => installMove axisNo.toNat { id := x.id, op := x.cmd.op, lim := l }
      (planSpeed (ownNow c axisNo.toNat) (sgn (ofQ vel) * l.v) l).1 target (dropSlack axisNo.toNat (markRunning x.id (markRunning x.id c)))) s) ∧
  (∀ (s : State) (x : InFlight) (axisNo : Word) (kind : Byte), x.cmd.op = .stop axisNo kind → kind.toNat ≤ 2 → pageEnabled s.chip (axmPage axisNo.toNat) = true →
    selfCommanded s.chip axisNo.toNat = false → (snlSt s.chip axisNo.toNat).test = false → (axis s.chip axisNo.toNat).waiting = false →
    groupOf s.chip axisNo.toNat = none → (axis s.chip axisNo.toNat).state = .moving → pulseAxis s.chip axisNo.toNat = false →
    takeEffect x s = onChip (fun c => axisStop axisNo.toNat { kind := match kind.toNat with | 0 => .slack | 1 => .quick | _ => .drop, ids := [x.id] }
      (suspendHitches axisNo.toNat (markRunning x.id (markRunning x.id c)))) s) ∧
  (∀ (s : State) (x : InFlight) (axisNo : Word) (kind : Byte), x.cmd.op = .stop axisNo kind → kind.toNat ≤ 2 → pageEnabled s.chip (axmPage axisNo.toNat) = true →
    selfCommanded s.chip axisNo.toNat = false → (snlSt s.chip axisNo.toNat).test = false → (axis s.chip axisNo.toNat).waiting = false →
    groupOf s.chip axisNo.toNat = none → (axis s.chip axisNo.toNat).state = .ready ∨ (axis s.chip axisNo.toNat).state = .holding ∨
      (axis s.chip axisNo.toNat).state = .slack ∨ (axis s.chip axisNo.toNat).state = .disabled →
    takeEffect x s = onChip (fun c => finish x.id stDone 0 (satQ (slackOf (axis c axisNo.toNat))) (markRunning x.id c)) s) ∧
  (∀ (s : State) (x : InFlight) (axisNo : Word) (r : Run), x.cmd.op = .resume axisNo → pageEnabled s.chip (axmPage axisNo.toNat) = true →
    (axis s.chip axisNo.toNat).state = .slack → groupOf s.chip axisNo.toNat = none →
    s.chip.hits.filter (fun h => h.2.cfg.slave == axisNo.toNat && h.2.state == .suspended) = [] → (axis s.chip axisNo.toNat).kept = some r →
    resumeCheck (markRunning x.id s.chip) axisNo.toNat r = 0 →
    takeEffect x s = onChip (fun c => resumeMove axisNo.toNat x.id r (modAxis axisNo.toNat (fun a => { a with slackKept := true }) (markRunning x.id c))) s) ∧
  (∀ (s : State) (x : InFlight) (axisNo : Word) (flags : Byte) (search creep accel offset : DWord), x.cmd.op = .home axisNo 0 flags search creep accel offset →
    pageEnabled s.chip (axmPage axisNo.toNat) = true → selfCommanded s.chip axisNo.toNat = false →
    (axis s.chip axisNo.toNat).state = .ready ∨ (axis s.chip axisNo.toNat).state = .slack → (axis s.chip axisNo.toNat).holdPend = false → groupOf s.chip axisNo.toNat = none →
    inQ ((axis s.chip axisNo.toNat).target + (ofQ offset - (axis s.chip axisNo.toNat).cur.p)) = true →
    takeEffect x s = onChip (fun c => homeDone axisNo.toNat x.id (axis c axisNo.toNat).cur.p (ofQ offset) (dropSlack axisNo.toNat (markRunning x.id (markRunning x.id c)))) s) ∧
  (∀ (s : State) (x : InFlight) (axisNo : Word), x.cmd.op = .enable axisNo 1 → s.chip.pwr.state = .run → pageEnabled s.chip (axmPage axisNo.toNat) = true →
    128 ≤ axisNo.toNat → (axis s.chip axisNo.toNat).state = .disabled → (axis s.chip axisNo.toNat).enabling = none →
    actQ s.chip (axmPage axisNo.toNat) 0x088 ≠ 0 → actQ s.chip (axmPage axisNo.toNat) 0x090 ≠ 0 → actQ s.chip (axmPage axisNo.toNat) 0x0A0 ≠ 0 →
    takeEffect x s = onChip (fun c => finish x.id stDone 0 0 (setState (axmPage axisNo.toNat) .run
      (setAxis axisNo.toNat { axis c axisNo.toNat with state := .ready, torque := true } (markRunning x.id c)))) s) ∧
  (∀ (s : State) (x : InFlight) (axisNo : Word), x.cmd.op = .enable axisNo 1 → s.chip.pwr.state = .run → pageEnabled s.chip (axmPage axisNo.toNat) = true →
    axisNo.toNat < 128 → (axis s.chip axisNo.toNat).state = .disabled → (axis s.chip axisNo.toNat).enabling = none →
    (modMode s.chip axisNo.toNat = 0 → actF s.chip (.lpa (f128 axisNo.toNat)) 0x040 2 0 ≠ 0) →
    actQ s.chip (axmPage axisNo.toNat) 0x088 ≠ 0 → actQ s.chip (axmPage axisNo.toNat) 0x090 ≠ 0 → actQ s.chip (axmPage axisNo.toNat) 0x0A0 ≠ 0 →
    fbValid s.chip axisNo.toNat = true → (sensorless s.chip (f128 axisNo.toNat) = true → (snlSt s.chip axisNo.toNat).state = .idle) →
    takeEffect x s = onChip (fun c => setAxis axisNo.toNat { axis c axisNo.toNat with enabling := some x.id } (markRunning x.id (markRunning x.id c))) s) ∧
  (∀ (s : State) (x : InFlight) (g : Word) (ts : List DWord) (count : Byte) (relative : Bool) (vel acc dec jerk : DWord),
    x.cmd.op = .groupMove g (some ts) count relative vel acc dec jerk → ts.length = count.toNat → (group s.chip g.toNat).members.length ≤ count.toNat →
    groupBad s.chip (group s.chip g.toNat) (((group s.chip g.toNat).members.zip ts).map (fun m => (if relative then (axis s.chip m.1).cur.p else 0) + ofQ m.2))
      count.toNat (groupOps vel acc dec jerk) = false → pageEnabled s.chip (grpPage g.toNat) = true → (group s.chip g.toNat).state = .idle ∨ (group s.chip g.toNat).state = .slack →
    (group s.chip g.toNat).members.any (memberBusy s.chip) = false →
    takeEffect x s = onChip (fun c => groupPath g.toNat { id := x.id, op := x.cmd.op, lim := groupOps vel acc dec jerk } (groupOps vel acc dec jerk)
      (((group c g.toNat).members.zip (((group c g.toNat).members.zip ts).map (fun m => (if relative then (axis c m.1).cur.p else 0) + ofQ m.2))).map
        (fun m => m.2 - (ownNow (each (group c g.toNat).members dropSlack (markRunning x.id (markRunning x.id c))) m.1).p)) 0
      (each (group c g.toNat).members dropSlack (markRunning x.id (markRunning x.id c)))) s) ∧
  (∀ (s : State) (x : InFlight) (h : Word) (raw : BitVec 256), x.cmd.op = .hitchSet h raw → isCam raw = false →
    hitBad s.chip raw = false → hitBusy s.chip h.toNat x.id (decodeHit raw) = false →
    takeEffect x s = hitTake h.toNat x.id raw (onChip (fun c => markRunning x.id (markRunning x.id c)) s)) ∧
  (∀ (s : State) (x : InFlight) (h : Word), x.cmd.op = .hitchRelease h false → pageEnabled s.chip .hit = true →
    (hitch s.chip h.toNat).state = .engaged → (hitch s.chip h.toNat).cfg.kind ≠ .superimpose → 
    ∃ c1 : Chip, c1 = settleEnds (hitch s.chip h.toNat).cfg.slave
        (finish (hitch s.chip h.toNat).resId stCancelled 0 0 (finish (hitch s.chip h.toNat).setId stCancelled 0 0 (markRunning x.id (markRunning x.id s.chip)))) ∧
      takeEffect x s = onChip (fun _ => axisStop (hitch s.chip h.toNat).cfg.slave { kind := .slack }
        (setHitch h.toNat { hitch c1 h.toNat with state := .disengaging, setId := 0, resId := 0, relId := x.id } c1)) s)

/-- The switch stores, forwards and sends frames, and links, time windows, ageing and MDIO take effect. FRAME_RX of a legal length on a port with its link
up is counted and switched, one with a bad FCS is counted as an FCS error, one of another length is counted in NET_DROPS; a port in loopback takes the
oldest frame it sent itself, and the endpoint port the oldest frame the endpoint has ready. A stored frame goes to the queue its port and class give and
takes its length of the buffer; with no room it is dropped and counted. FRAME_TRANSMIT launches the head of the highest queue whose head fits.
GCL_ENTRY_CHANGE goes to the next entry or starts the next cycle. ADDRESS_AGEING removes exactly that address if it is old enough. LINK_UP and LINK_DOWN
set the link and its causes and leave the page’s state; queues stay at LINK_DOWN. NET_MDIO_GO starts an exchange and MDIO_DONE ends it. An echo request to
the block’s own address is answered to a known neighbour. (R68, R69, R71, R72, R73, R74; derived) -/
def Obligations.SwitchAndLinePorts : Prop :=
  (∀ (s : State) (p : Fin 5) (f : EthFrame), mainRuns s.chip = true → isUp s.chip .swt = true → p.val ≠ 4 → netUp s.chip p.val = true →
    (netPort s.chip p.val).link = true → bit (rd s.chip (netPage p.val) 0x040) 2 = false → 64 ≤ f.len → f.len ≤ 1522 →
    exec (.frameRx p f true) s = .next (onChip (fun c => switchIn p f true (cntWrap (netPage p.val) 0x060 31 0 c)) s) ∧
    exec (.frameRx p f false) s = .next (onChip (fun c => switchIn p f false (fcsError p.val c)) s)) ∧
  (∀ (s : State) (p : Fin 5) (f : EthFrame) (ok : Bool), mainRuns s.chip = true → isUp s.chip .swt = true → p.val ≠ 4 → netUp s.chip p.val = true →
    (netPort s.chip p.val).link = true → bit (rd s.chip (netPage p.val) 0x040) 2 = false → f.len < 64 ∨ 1522 < f.len →
    exec (.frameRx p f ok) s = .next (onChip (cntWrap (netPage p.val) 0x06C 31 0) s)) ∧
  (∀ (s : State) (p : Fin 5) (f g : EthFrame) (ok ok2 : Bool) (l : List (EthFrame × Bool)), mainRuns s.chip = true → isUp s.chip .swt = true → p.val ≠ 4 →
    netUp s.chip p.val = true → (netPort s.chip p.val).link = true → bit (rd s.chip (netPage p.val) 0x040) 2 = true → (netPort s.chip p.val).loop = (g, ok2) :: l →
    exec (.frameRx p f ok) s = .next (onChip (fun c => portRx p g ok2 (modPort p.val (fun x => { x with loop := l }) c)) s)) ∧
  (∀ (s : State) (f g : EthFrame) (ok : Bool) (l : List EthFrame), mainRuns s.chip = true → isUp s.chip .swt = true → s.chip.ycp.sendq = g :: l →
    exec (.frameRx 4 f ok) s = .next (onChip (fun c => switchIn 4 g true { c with ycp := { c.ycp with sendq := l } }) s)) ∧
  (∀ (p : Nat) (f : EthFrame) (c : Chip), p ≠ 4 → cutThrough c p f = false → c.net.bufUsed + f.len ≤ 524288 →
    queueOf (forward p f true c) p (mapQueue c p f) = queueOf c p (mapQueue c p f) ++ [f] ∧
    (forward p f true c).net.bufUsed = c.net.bufUsed + f.len ∧ (forward p f true c).regs = c.regs ∧ (forward p f true c).pages = c.pages) ∧
  (∀ (p : Nat) (f : EthFrame) (c : Chip), p ≠ 4 → cutThrough c p f = false → 524288 < c.net.bufUsed + f.len →
    forward p f true c = cntWrap (netPage p) 0x06C 31 0 c) ∧
  (∀ (s : State) (p : Fin 4) (q : Nat) (f : EthFrame) (t : List EthFrame), mainRuns s.chip = true → netUp s.chip p.val = true →
    (netPort s.chip p.val).link = true → q < 8 → queueOf s.chip p.val q = f :: t → frameFits s.chip p.val q f.len = true →
    (∀ k g l, q < k → k < 8 → queueOf s.chip p.val k = g :: l → frameFits s.chip p.val k g.len = false) →
    exec (.frameTransmit p) s = .next (onChip (fun c => launch p.val f true
      (setQueue p.val q t { c with net := { c.net with bufUsed := c.net.bufUsed - f.len } })) s)) ∧
  (∀ (p : Nat) (f : EthFrame) (c : Chip), f.ptp = none → bit (rd c (netPage p) 0x040) 2 = false →
    launch p f true c = cntWrap (netPage p) 0x068 31 0 (emit (.frame p f true) c)) ∧
  (∀ (s : State) (p : Fin 4) (g : Byte) (e : Nat), mainRuns s.chip = true → gclEn s.chip p.val = true → isUp s.chip (netPage p.val) = true →
    (netPort s.chip p.val).gclRephase = none →
    (gclList s.chip p.val)[(netPort s.chip p.val).gclIdx]? = some (g, e) → (netPort s.chip p.val).gclSince + e ≤ timeNs s.chip →
    exec (.gclEntryChange p) s = .next (onChip (if gclCycle s.chip p.val ≤ e then gclStart p.val
      else setPort p.val { netPort s.chip p.val with gclIdx := (netPort s.chip p.val).gclIdx + 1 }) s)) ∧
  (∀ (s : State) (mac : BitVec 48), mainRuns s.chip = true → rdF s.chip .swt 0x048 15 0 ≠ 0 →
    exec (.addressAgeing mac) s = .next (onChip (fun c => { c with net := { c.net with learned := c.net.learned.filter (fun x => !(x.1 == mac && decide (x.2.2 + rdF s.chip .swt 0x048 15 0 * 1000000000 ≤ c.clk.now))) } }) s)) ∧
  (∀ (s : State) (p : Fin 4) (an : Bool), mainRuns s.chip = true → netUp s.chip p.val = true →
    ∃ t, exec (.linkUp p an) s = .next t ∧ (netPort t.chip p.val).link = true ∧ (netPort t.chip p.val).anDone = an ∧
      (netPort t.chip p.val).remoteFault = false ∧ (∀ q, (hdr t.chip q).state = (hdr s.chip q).state) ∧
      ((netPort s.chip p.val).link = false → bit (hdr t.chip (netPage p.val)).evt 8 = true) ∧ t.chip.regs = s.chip.regs ∧ t.mem = s.mem) ∧
  (∀ (s : State) (p : Fin 4) (remote : Bool), mainRuns s.chip = true → (netPort s.chip p.val).link = true →
    ∃ t, exec (.linkDown p remote) s = .next t ∧ (netPort t.chip p.val).link = false ∧ (netPort t.chip p.val).anDone = false ∧
      (netPort t.chip p.val).remoteFault = remote ∧ (netPort t.chip p.val).queues = (netPort s.chip p.val).queues ∧
      (∀ q, (hdr t.chip q).state = (hdr s.chip q).state) ∧ bit (hdr t.chip (netPage p.val)).evt 9 = true ∧ t.chip.regs = s.chip.regs ∧ t.mem = s.mem) ∧
  (∀ (s : State) (path : Path) (p : Fin 4) (v : Word), CanWrite s path (.net p) → v &&& 0x43FFFFFF = v → (netPort s.chip p.val).mdioBusy = false →
    exec (.netMdioGo path p v) s = .next (onChip (fun c => taken path (.net p) 0x05C
      (emit (.mdio p.val (fld v 25 21) (fld v 20 16) (bit v 30) (BitVec.ofNat 16 (fld v 15 0)))
        (modPort p.val (fun x => { x with mdioBusy := true }) (wr (.net p) 0x05C v c)))) s)) ∧
  (∀ (s : State) (p : Fin 4) (data : BitVec 16), mainRuns s.chip = true → (netPort s.chip p.val).mdioBusy = true →
    exec (.mdioDone p data) s = .next (onChip (fun c => raise (netPage p.val) 12
      (if bit (rd c (netPage p.val) 0x05C) 30 then wrF (netPage p.val) 0x05C 15 0 data.toNat (modPort p.val (fun x => { x with mdioBusy := false }) c)
       else modPort p.val (fun x => { x with mdioBusy := false }) c)) s)) ∧
  (∀ (s : State) (h : IpHdr) (data : List Byte), mainRuns s.chip = true → isUp s.chip .ycp = true → bit (rd s.chip .ycp 0x040) 4 = true →
    ipTaken s.chip h 1 = true →
    exec (.icmpEchoRequest h data) s = .next (onChip (sendIp h.src 1 (icmpOf 0 data) (.icmpReply h.src data)) s)) ∧
  (∀ (c : Chip) (ip : Word) (proto : Byte) (l4 : List Byte) (o : Output),
    (∀ i, neighbour c ip = some i → sendIp ip proto l4 o c = emit o { c with ycp := { c.ycp with sendq := c.ycp.sendq ++
      [ipFrame c (macOf (rd c .ycp (0x104 + 16 * i)) (rd c .ycp (0x108 + 16 * i))) (ipOf c ip proto l4)] } }) ∧
    (neighbour c ip = none → sendIp ip proto l4 o c = raise .ycp 12 c))

/-- YCP sessions open, are kept alive, are closed and time out. OPEN of a closed session with a key slot that holds a key makes it PENDING with the
derived key and is acknowledged with the device’s nonce and the session’s timeout; an empty or absent slot is answered with error 2, and a body that is
not an OPEN’s only counts. An authentic keepalive with a newer number is echoed and restarts the timeout; an older one only counts. A datagram that does
not authenticate only counts and raises its cause. CLOSE, SES_CLOSE, the PENDING timeout and the session timeout close the session with the causes the
spec names. YCP_ORPHAN_POP answers the oldest orphan and removes it. (R77, R78, R79, R83, R84, R85; derived) -/
def Obligations.SessionsOpenLiveAndClose : Prop :=
  (∀ (s : State) (i : Fin 4) (g : Dgram) (slot : Byte) (cn dn psk : BitVec 128), Arrives s 0x01 i false g → g.body = openBody slot 0 cn →
    (session s.chip i.val).state = .closed → slot.toNat < 4 → tabGet none s.chip.sec.psk slot.toNat = some psk →
    exec (.ycpOpen i g slot 0 cn dn) s = .next (onChip (fun c => openAck i.val (setSession i.val
      { state := .pending, keySlot := slot.toNat, clientNonce := cn, devNonce := dn, key := Config.hmac128 psk ([0x59, 0x43, 0x50, 0x31] ++ beBytes 16 cn.toNat ++ beBytes 16 dn.toNat ++ [BitVec.ofNat 8 i.val]), ip := g.ip.src, port := g.sport, exp := 1, lastAuth := c.clk.now, lastError := (session c i.val).lastError }
      (wr .ycp (sesOff i.val 0x14) 0 c))) s)) ∧
  (∀ (s : State) (i : Fin 4) (g : Dgram) (slot : Byte) (cn dn : BitVec 128), Arrives s 0x01 i false g → g.body = openBody slot 0 cn →
    (session s.chip i.val).state = .closed → 4 ≤ slot.toNat ∨ tabGet none s.chip.sec.psk slot.toNat = none →
    exec (.ycpOpen i g slot 0 cn dn) s = .next (onChip (sesError i.val g 2) s)) ∧
  (∀ (s : State) (i : Fin 4) (g : Dgram) (slot : Byte) (rsv : BitVec 24) (cn dn : BitVec 128), Arrives s 0x01 i false g → rsv ≠ 0 ∨ g.body ≠ openBody slot rsv cn →
    exec (.ycpOpen i g slot rsv cn dn) s = .next (onChip (sesErr i.val 3) s)) ∧
  (∀ (s : State) (i : Fin 4) (g : Dgram), Heard s 0x06 i .tagged [] g → (session s.chip i.val).alive.toNat < g.seq.toNat →
    exec (.ycpKeepalive i g) s = .next (onChip (fun c => sendYcp i.val (session c i.val).ip (session c i.val).port .tagged 0x06 g.seq [] (.aliveEcho i.val g.seq)
      (setSession i.val { session c i.val with alive := g.seq, lastAuth := c.clk.now } c)) s)) ∧
  (∀ (s : State) (i : Fin 4) (g : Dgram), Heard s 0x06 i .tagged [] g → g.seq.toNat ≤ (session s.chip i.val).alive.toNat →
    exec (.ycpKeepalive i g) s = .next (onChip (sesErr i.val 2) s)) ∧
  (∀ (s : State) (i : Fin 4) (g : Dgram), (session s.chip i.val).state = .opened →
    (Arrives s 0x06 i true g → authentic (session s.chip i.val) 0x06 i.val .tagged [] g = false → exec (.ycpKeepalive i g) s = .next (onChip (sesErr i.val 0) s)) ∧
    (Arrives s 0x07 i true g → authentic (session s.chip i.val) 0x07 i.val .tagged [] g = false → exec (.ycpClose i g) s = .next (onChip (sesErr i.val 0) s))) ∧
  (∀ (s : State) (i : Fin 4) (g : Dgram), Heard s 0x07 i .tagged [] g →
    exec (.ycpClose i g) s = .next (onChip (endSession i.val) s)) ∧
  (∀ (s : State) (i : Fin 4), mainRuns s.chip = true → (session s.chip i.val).state = .pending → (session s.chip i.val).lastAuth + 100000000 ≤ s.chip.clk.now →
    exec (.sessionPendingTimeout i) s = .next (onChip (closeSession i.val) s)) ∧
  (∀ (s : State) (i : Fin 4), mainRuns s.chip = true → (session s.chip i.val).state = .opened →
    (session s.chip i.val).lastAuth + rdF s.chip .ycp (sesOff i.val 0x0C) 15 0 * 1000000 ≤ s.chip.clk.now →
    exec (.sessionTimeout i) s = .next (onChip (fun c => raise .ycp 10 (raise .ycp 9 (closeSession i.val c))) s)) ∧
  (∀ (s : State) (path : Path) (i : Fin 4), CanWrite s path .ycp → (session s.chip i.val).state = .opened →
    exec (.sesClose path i) s = .next (onChip (fun c => taken path .ycp (sesOff i.val 0x18) (endSession i.val c)) s)) ∧
  (∀ (c : Chip) (i : Nat), endSession i c =
    raise .ycp 9 (sendYcp i (session c i).ip (session c i).port .tagged 0x07 0 [] (.ycpClosed i) (closeSession i c))) ∧
  (∀ (s : State) (path : Path) (tag st : Byte) (t : List (Byte × Byte)), fabricUp s.chip path = true → s.chip.ycp.orphans = (tag, st) :: t →
    exec (.ycpOrphanPop path) s = .next (onChip (fun c => answered path .ycp 0x058 (BitVec.ofNat 32 (tag.toNat + st.toNat * 256))
      { c with ycp := { c.ycp with orphans := t } }) s))

/-- A YCP request that is in order runs, is answered, and drains the held requests. In an OPEN session, an authentic request whose sequence number is the
expected one advances EXP and runs, for READ, WRITE, READ_BLOCK, WRITE_BLOCK and COMMAND, and the held requests that follow are then run. One ahead by 1 to
15 is held, one further ahead or more than 64 behind only counts, and one answered before gets the same answer again. A READ or WRITE of one word is
answered DONE with the word read or written; a block goes word by word and ends at the first word that is refused. A body out of form is answered 0x12, a
wrong width 0x11, a misaligned address 0x10, in this order (the model’s reading, log entry 194), with no access made. A COMMAND with CMD serving and room goes
to the command acceptance as an entry of the session. (R80, R81, R82, R83; derived) -/
def Obligations.YcpRequestsRunInOrder : Prop :=
  (∀ (s : State) (i : Fin 4) (g : Dgram) (b : YcpBody), g.seq = (session s.chip i.val).exp → (∀ h ∈ (session s.chip i.val).held, h.1 ≠ g.seq) →
    (Heard s 0x03 i .sealed (ycpPlain { kind := .read, body := b }) g → exec (.ycpRead i g b) s =
      .next (ycpDrain i 15 (ycpRunOp i g.seq { kind := .read, body := b } (onChip (inOrder i) s)))) ∧
    (Heard s 0x03 i .sealed (ycpPlain { kind := .write, body := b }) g → exec (.ycpWrite i g b) s =
      .next (ycpDrain i 15 (ycpRunOp i g.seq { kind := .write, body := b } (onChip (inOrder i) s)))) ∧
    (Heard s 0x03 i .sealed (ycpPlain { kind := .readBlock, body := b }) g → exec (.ycpReadBlock i g b) s =
      .next (ycpDrain i 15 (ycpRunOp i g.seq { kind := .readBlock, body := b } (onChip (inOrder i) s)))) ∧
    (Heard s 0x03 i .sealed (ycpPlain { kind := .writeBlock, body := b }) g → exec (.ycpWriteBlock i g b) s =
      .next (ycpDrain i 15 (ycpRunOp i g.seq { kind := .writeBlock, body := b } (onChip (inOrder i) s)))) ∧
    (∀ buf, Heard s 0x03 i .sealed (ycpPlain { kind := .command, body := b, buf := buf }) g → exec (.ycpCommand i g b buf) s =
      .next (ycpDrain i 15 (ycpRunOp i g.seq { kind := .command, body := b, buf := buf } (onChip (inOrder i) s))))) ∧
  (∀ (s : State) (i : Fin 4) (g : Dgram) (b : YcpBody) (buf : Option (List DWord)) (x : Instr) (op : YcpOp), (x, op) ∈ ycpRequests i g b buf →
    Heard s 0x03 i .sealed (ycpPlain op) g →
    ((session s.chip i.val).exp.toNat < g.seq.toNat → g.seq.toNat < (session s.chip i.val).exp.toNat + 16 → (∀ h ∈ (session s.chip i.val).held, h.1 ≠ g.seq ∧ h.1 ≠ (session s.chip i.val).exp) →
      exec x s = .next (onChip (fun c => setSession i.val { session c i.val with lastAuth := c.clk.now, held := (session c i.val).held ++ [(g.seq, op)] } c) s)) ∧
    ((session s.chip i.val).exp.toNat + 16 ≤ g.seq.toNat →
      exec x s = .next (onChip (fun c => sesErr i.val 1 (setSession i.val { session c i.val with lastAuth := c.clk.now } c)) s)) ∧
    (g.seq.toNat + 64 < (session s.chip i.val).exp.toNat →
      exec x s = .next (onChip (fun c => sesErr i.val 2 (setSession i.val { session c i.val with lastAuth := c.clk.now } c)) s)) ∧
    (∀ y, g.seq.toNat < (session s.chip i.val).exp.toNat → (session s.chip i.val).exp.toNat ≤ g.seq.toNat + 64 → (session s.chip i.val).cache.find? (fun y => y.seq == g.seq) = some y →
      exec x s = .next (onChip (fun c => sendResp i.val y (setSession i.val { session c i.val with lastAuth := c.clk.now } c)) s))) ∧
  (∀ (s : State) (i : Fin 4) (q v : Word) (b : YcpBody),
    (ycpBad { kind := .read, body := b } = none → ∀ t, ycpReadOne i (fld b.addr 23 0) s = (t, .ok v) →
      ycpRunOp i q { kind := .read, body := b } s = ycpAnswer i.val q stDone 0 1 0 [v] t) ∧
    (ycpBad { kind := .write, body := b } = none → beWords b.rest = [v] → ∀ t, ycpWriteOne i (fld b.addr 23 0) v s = (t, none) →
      ycpRunOp i q { kind := .write, body := b } s = ycpAnswer i.val q stDone 0 1 0 [] t) ∧
    (ycpBad { kind := .readBlock, body := b } = none → ycpRunOp i q { kind := .readBlock, body := b } s = ycpReadWords i q b.count.toNat (fld b.addr 23 0) [] s) ∧
    (ycpBad { kind := .writeBlock, body := b } = none → ycpRunOp i q { kind := .writeBlock, body := b } s = ycpWriteWords i q (beWords b.rest) (fld b.addr 23 0) 0 s)) ∧
  (∀ (s t : State) (i : Fin 4) (q v : Word) (n off : Nat) (acc l : List Word) (st d : Byte),
    ycpReadWords i q 0 off acc s = ycpAnswer i.val q stDone 0 acc.length 0 acc.reverse s ∧
    (ycpReadOne i off s = (t, .ok v) → ycpReadWords i q (n + 1) off acc s = ycpReadWords i q n (off + 4) (v :: acc) t) ∧
    (ycpReadOne i off s = (t, .error (st, d)) → ycpReadWords i q (n + 1) off acc s = ycpAnswer i.val q st d acc.length (BitVec.ofNat 32 off) acc.reverse t) ∧
    ycpWriteWords i q [] off n s = ycpAnswer i.val q stDone 0 n 0 [] s ∧
    (ycpWriteOne i off v s = (t, none) → ycpWriteWords i q (v :: l) off n s = ycpWriteWords i q l (off + 4) (n + 1) t) ∧
    (ycpWriteOne i off v s = (t, some (st, d)) → ycpWriteWords i q (v :: l) off n s = ycpAnswer i.val q st d n (BitVec.ofNat 32 off) [] t)) ∧
  (∀ (s : State) (i : Fin 4) (q : Word) (op : YcpOp),
    (ycpLenOk op = false → ycpRunOp i q op s = ycpAnswer i.val q 0x12 0 0 (if op.kind = .command then 0 else op.body.addr) [] s) ∧
    (ycpLenOk op = true → op.body.size ≠ 4 → ycpRunOp i q op s = ycpAnswer i.val q 0x11 0 0 (if op.kind = .command then 0 else op.body.addr) [] s) ∧
    (ycpLenOk op = true → op.body.size = 4 → op.kind ≠ .command → op.body.addr.toNat % 4 ≠ 0 → ycpRunOp i q op s = ycpAnswer i.val q 0x10 0 0 op.body.addr [] s)) ∧
  (∀ (s : State) (i : Fin 4) (q : Word) (b : YcpBody) (buf : Option (List DWord)), ycpBad { kind := .command, body := b, buf := buf } = none →
    (256 ≤ orphanUse s.chip → ycpRunOp i q { kind := .command, body := b, buf := buf } s = ycpAnswer i.val q 0x13 0 0 0 [] s) ∧
    (orphanUse s.chip < 256 → commandServes s.chip = false → ycpRunOp i q { kind := .command, body := b, buf := buf } s = ycpAnswer i.val q stRejected 0x06 0 0 [] s) ∧
    (orphanUse s.chip < 256 → commandServes s.chip = true → ycpRunOp i q { kind := .command, body := b, buf := buf } s =
      settleCmds (onChip (acceptEntry (.ycp i q) { entry := BitVec.ofNat 512 (ofBytes b.rest), buf := buf }) s)))

/-- Hitch frames are published, taken in by the subscriptions, and missed. HITCH_FRAME_PUBLISH, when the sampled frame is due, sends it with the sequence,
stamp, entries, epoch and flags that stand, hands it to the switch when that is up, advances the sequence and clears the restart and step flags. A
received frame goes to each of the 16 subscriptions in turn, with its arrival by the port’s time stamp less its ingress latency where the port stamps;
one that arrives before its deadline is adopted, or taken when it is of the adopted epoch, or counted when its sequence number is not newer; a late one
is counted, and serves the next estimate. SUBSCRIPTION_MISS below the limit makes the subscription ESTIMATING; at the limit it is LOST, counted, raised in
HFR, and its hitches go to FAULT with 0x22. Blocks that waited for a frame are then computed (log entry 178). (R74, R86, R87, R88, R89, R90; derived) -/
def Obligations.HitchFramesPublishAndSubscribe : Prop :=
  (∀ (s : State) (t0 : Nat) (st : Stamp) (es : List HitchEntry), mainRuns s.chip = true → s.chip.hfr.sampled = some (t0, st, es) →
    t0 + 1000 ≤ s.chip.clk.now → isUp s.chip .hfr = true →
    ∃ (t : State) (f : HitchFrame) (e : EthFrame), exec .hitchFramePublish s = .next t ∧
      f.seq = s.chip.hfr.pubSeq ∧ f.sample = st ∧ f.entries = es ∧ f.epoch = s.chip.hfr.epoch ∧ f.restart = s.chip.hfr.restart ∧
      f.step = s.chip.hfr.stepFlag ∧ f.locked = timeLocked s.chip ∧ e.data = hitchPayload f ∧ e.len = max 64 (46 + 12 * es.length) ∧
      t = onChip (fun c => (if isUp s.chip .swt then switchIn 4 e true else id) (emit (.hitchFrame f) { c with hfr :=
        { c.hfr with sampled := none, pubSeq := c.hfr.pubSeq + 1, restart := false, stepFlag := false } })) s) ∧
  (∀ (s : State) (port : Fin 4) (rx : Nat) (f : HitchFrame), mainRuns s.chip = true →
    exec (.hitchFrameRx port rx f) s = .next (heldDue (onChip (fun c => each (List.range 16) (fun j c => subRx j f (arrival16 c port.val rx) c) c) s))) ∧
  (∀ (c : Chip) (port rx : Nat), bit (rd c (netPage port) 0x040) 8 = true → arrival16 c port rx = (rx * 16 : Int) - rdF c (netPage port) 0x054 19 0) ∧
  (∀ (c : Chip) (port rx : Nat), bit (rd c (netPage port) 0x040) 8 = false → arrival16 c port rx = (timeNs c * 16 : Int)) ∧
  (∀ (c : Chip) (j : Nat) (f : HitchFrame) (at16 : Int), subEn c j = true → fld (subCtl c j) 15 0 = f.pubId.toNat → f.locked = true →
    ((stampNs f.sample : Int) - actF c .knt 0x044 29 0) % (periodNs c : Int) = 0 → at16 < (subDeadline c (stampNs f.sample) * 16 : Int) →
    ((sub c j).adopted = true → f.epoch = (sub c j).epoch →
      subRx j f at16 c = if f.seq.toNat ≤ (sub c j).seq.toNat then subCount j 2 c else
        missingEntries j (noteMaster j f (setSub j { takeSample f false (sub c j) with state := .valid, misses := 0, adopted := true, period := stampNs f.sample } c))) ∧
    ((sub c j).adopted = false →
      subRx j f at16 c = missingEntries j (noteMaster j f (setSub j { takeSample f true (sub c j) with state := .valid, misses := 0, adopted := true, period := stampNs f.sample } c)))) ∧
  (∀ (c : Chip) (j : Nat) (f : HitchFrame) (at16 : Int), subEn c j = true → fld (subCtl c j) 15 0 = f.pubId.toNat → f.locked = true →
    ((stampNs f.sample : Int) - actF c .knt 0x044 29 0) % (periodNs c : Int) = 0 → (subDeadline c (stampNs f.sample) * 16 : Int) ≤ at16 →
    (sub c j).adopted = true → f.epoch = (sub c j).epoch → (sub c j).seq.toNat < f.seq.toNat →
    subRx j f at16 c = raise .hfr 10 (subCount j 1 (setSub j (takeSample f false (sub c j)) c))) ∧
  (∀ (s : State) (j : Fin 16), mainRuns s.chip = true → subEn s.chip j.val = true → (sub s.chip j.val).adopted = true →
    subDeadline s.chip ((sub s.chip j.val).period + (sub s.chip j.val).ndiv * s.chip.tim.lenNs) ≤ timeNs s.chip →
    min 15 ((sub s.chip j.val).misses + 1) < fld (subCtl s.chip j.val) 19 16 →
    exec (.subscriptionMiss j) s = .next (heldDue (onChip (setSub j.val { sub s.chip j.val with misses := min 15 ((sub s.chip j.val).misses + 1), period := (sub s.chip j.val).period + (sub s.chip j.val).ndiv * s.chip.tim.lenNs, state := .estimating }) s))) ∧
  (∀ (s : State) (j : Fin 16), mainRuns s.chip = true → subEn s.chip j.val = true → (sub s.chip j.val).adopted = true →
    subDeadline s.chip ((sub s.chip j.val).period + (sub s.chip j.val).ndiv * s.chip.tim.lenNs) ≤ timeNs s.chip →
    fld (subCtl s.chip j.val) 19 16 ≤ min 15 ((sub s.chip j.val).misses + 1) → (sub s.chip j.val).state ≠ .lost →
    ∃ c1, c1 = setSub j.val { sub s.chip j.val with misses := min 15 ((sub s.chip j.val).misses + 1), period := (sub s.chip j.val).period + (sub s.chip j.val).ndiv * s.chip.tim.lenNs, state := .lost } s.chip ∧
    exec (.subscriptionMiss j) s = .next (heldDue (onChip (fun _ => each (subHitches c1 j.val) (fun h c => hitchFault h 0x22 c) (raise .hfr 9 (subCount j.val 0 c1))) s)))

/-- PLL lock, time reads, servo samples, time steps and holdover take effect. PLL_LOCK ends the relocking with the source and rate taken at its start, and takes
TIM from READY to RUN. TIM_NOW_READ answers the seconds and snapshots the other parts. PPSIN_EDGE of the selected edge and TIM_HOST_OFS give the servo an
offset; an accepted offset within the lock limit locks at LOCK_COUNT. TIM_SET_NS with a legal value requests a time step; at its point the time takes
the given value, as a servo’s step moves it by the exact offset, the knot grid is made anew, TIME_STEP is raised and registers and axes stay. HOLDOVER, when no sample came for the timeout, takes
LOCKED or ACQUIRING to HOLDOVER and raises the causes. (R97, R98, R99, R100, R101, R102, R103, R104; derived) -/
def Obligations.TimeServoAndDeviceTime : Prop :=
  (∀ (s : State), mainRuns s.chip = true → s.chip.tim.relocking = true ∨ s.chip.tim.pllLock = false →
    ∃ t, exec .pllLock s = .next t ∧ t.chip.tim.pllLock = true ∧ t.chip.tim.relocking = false ∧
      t.chip.tim.pllSrc = s.chip.tim.pllSrc ∧ t.chip.tim.pllMhz = s.chip.tim.pllMhz ∧
      ((hdr s.chip .tim).state = .ready → (hdr t.chip .tim).state = .run) ∧ t.chip.clk.pll = s.chip.clk.pll ||| (1#6 <<< pllIdx .c) ∧
      t.chip.regs = s.chip.regs ∧ t.mem = s.mem) ∧
  (∀ (s : State) (path : Path), fabricUp s.chip path = true →
    exec (.timNowRead path) s = .next (onChip (fun c => answered path .tim 0x048 (BitVec.ofNat 32 c.tim.s)
      (heldSet path (pageBase .tim + 0x054) (BitVec.ofNat 32 (c.tim.frac / 65536)) (heldSet path (pageBase .tim + 0x050) (BitVec.ofNat 32 c.tim.ns)
        (heldSet path (pageBase .tim + 0x04C) (BitVec.ofNat 32 (c.tim.s / 2 ^ 32)) c)))) s)) ∧
  (∀ (s : State) (falling : Bool), mainRuns s.chip = true → bit (rd s.chip .tim 0x040) 13 = falling →
    exec (.ppsinEdge falling) s = .next (onChip (fun c => servoSample 2 none
      ((((timeNs c : Int) - signed 32 (rd c .tim 0x080).toNat - ((timeNs c : Int) + 500000000) / 1000000000 * 1000000000 : Int)) : Rat) c) s)) ∧
  (∀ (s : State) (path : Path) (v : Word), CanWrite s path .tim →
    exec (.timHostOfs path v) s = .next (onChip (fun c => taken path .tim 0x078 (servoSample 3 none (v.toInt : Rat) c)) s)) ∧
  (∀ (src : Nat) (port : Option Nat) (th : Rat) (c : Chip), isUp c .tim = true → bit (rd c .tim 0x040) 8 = true → fld (rd c .tim 0x040) 5 4 = src →
    src = 3 ∨ rdF c .tim 0x07C 15 0 = 0 ∨ 3 ≤ c.tim.discardRun ∨ c.tim.thetaPrev = none → servoSample src port th c = servoAccept th c) ∧
  (∀ (th : Rat) (c : Chip), c.tim.servo = .acquiring → absRat th ≤ (rd c .tim 0x06C).toNat → absRat th ≤ (rdF c .tim 0x070 15 0 : Rat) →
    (servoAccept th c).tim.servo = (if rdF c .tim 0x070 19 16 ≤ c.tim.lockRun + 1 then .locked else .acquiring) ∧
    (servoAccept th c).tim.thetaPrev = some th ∧ (servoAccept th c).tim.lastSample = c.clk.now) ∧
  (∀ (s : State) (path : Path) (v : Word), CanWrite s path .tim → v &&& 0x3FFFFFFF = v → v.toNat ≤ 999999999 →
    exec (.timSetNs path v) s = .next (onChip (fun c => taken path .tim 0x08C (modTim (fun t => { t with setReq := some { s := rdF c .tim 0x088 15 0 * 2 ^ 32 + (rd c .tim 0x084).toNat, ns := v.toNat } }) c)) s)) ∧
  (∀ (c : Chip) (p : Nat) (st : Stamp), c.tim.setPoint = some p → p ≤ c.clk.now → c.tim.setReq = some st → (∀ q, c.tim.stepPoint = some q → c.clk.now < q) →
    timeStep c = timeTo ((stampNs st : Int) * 2 ^ 32) { c with tim := { c.tim with setReq := none, setPoint := none } }) ∧
  (∀ (c : Chip) (p : Nat) (r : Rat), c.tim.setPoint = none → c.tim.stepPoint = some p → p ≤ c.clk.now → c.tim.stepReq = some r →
    timeStep c = timeTo (time32 c + roundAway (r * 2 ^ 32)) { c with tim := { c.tim with stepReq := none, stepPoint := none } }) ∧
  (∀ (c : Chip) (new32 : Int) (new : Nat), new = (new32 / 2 ^ 32).toNat →
    ∃ c1 : Chip, timeTo new32 c = { stepKnots (time16 c) c1 with hfr := { (stepKnots (time16 c) c1).hfr with stepFlag := true } } ∧
      c1.tim = { c.tim with s := new / 1000000000, ns := new % 1000000000, frac := (new32 % 2 ^ 32).toNat, nextKnot := gridAt c (new - (c.clk.now - c.tim.lastKnot) + periodNs c / 2), lenNs := gridAt c (new - (c.clk.now - c.tim.lastKnot) + periodNs c / 2) - (new - (c.clk.now - c.tim.lastKnot)), realign := true } ∧
      bit (hdr c1 .tim).evt 10 = true ∧ c1.regs = c.regs ∧ c1.axes = c.axes) ∧
  (∀ (s : State), exec .timeStep s = .next (withCal (onChip (whileRuns stepTime)) s)) ∧
  (∀ (s : State), mainRuns s.chip = true → s.chip.tim.servo = .locked →
    s.chip.tim.lastSample + rdF s.chip .tim 0x074 15 0 * 1000000 ≤ s.chip.clk.now →
    exec .holdover s = .next (onChip (fun c => raise .tim 11 (raise .tim 9 (rateFromI (modTim (fun t => { t with servo := .holdover }) c)))) s)) ∧
  (∀ (s : State), mainRuns s.chip = true → s.chip.tim.servo = .acquiring →
    s.chip.tim.lastSample + rdF s.chip .tim 0x074 15 0 * 1000000 ≤ s.chip.clk.now →
    exec .holdover s = .next (onChip (fun c => raise .tim 11 (rateFromI (modTim (fun t => { t with servo := .holdover }) c))) s))

/-- PTP messages received give offsets, delays and replies, and the ones due are sent. As a slave of the configured source, a SYNC of one step or a SYNC
with its FOLLOW_UP gives the servo the offset of the four stamps and corrections less the mean path delay, but for the time after a step in which stamps
are not used. A master answers DELAY_REQ; DELAY_RESP gives the end to end delay; PDELAY_REQ is answered and PDELAY_RESP gives the peer delay. Stamps are
those of ports that stamp, less the ingress latency. A transparent clock forwards the event messages to the other ports. ANNOUNCE is queued and raises
its cause, or dropped when the queue holds 16; ANNOUNCE_POP answers the oldest and removes it. SYNC_TX, ANNOUNCE_TX and DELAY_REQ_TX put their message in
queue 7 of the port and advance their sequence numbers when due. (R71, R74, R107, R108, R109, R110, R119; derived) -/
def Obligations.PrecisionTimeMessages : Prop :=
  (∀ (s : State) (p : Fin 4) (m : PtpMsg) (rx : Int), mainRuns s.chip = true → ptpEn s.chip = true → ptpTakes s.chip m = true → ptpTransparent s.chip = false →
    ptpState s.chip p.val = 2 → m.srcId = rdPair s.chip .tim 0x20C → m.srcPort.toNat = rdF s.chip .tim 0x214 15 0 →
    (ptpPort s.chip p.val).pendSync = none → rxTime s.chip p.val m = some rx →
    exec (.syncRx p m) s = .next (onChip (fun c => if m.twoStep then setPtp p.val { ptpPort c p.val with pendSync := some (m.seq, m.corr, rx) } c
      else ptpOffset p.val m.origin rx m.corr c) s)) ∧
  (∀ (c : Chip) (p : Nat) (m : PtpMsg), rxTime c p m = if tsEn c p then some (m.rx - mpd16 (rdF c (netPage p) 0x054 19 0)) else none) ∧
  (∀ (s : State) (p : Fin 4) (m : PtpMsg), mainRuns s.chip = true → ptpEn s.chip = true → ptpTakes s.chip m = true → ptpTransparent s.chip = true →
    (ptpState s.chip p.val ≠ 2 → exec (.syncRx p m) s = .next (onChip (ptpForward p.val .sync m) s)) ∧
    (ptpState s.chip p.val ≠ 2 → exec (.followUpRx p m) s = .next (onChip (ptpForward p.val .followUp m) s)) ∧
    (ptpState s.chip p.val ≠ 3 ∨ isP2p s.chip = true → exec (.delayReqRx p m) s = .next (onChip (ptpForward p.val .delayReq m) s)) ∧
    (isP2p s.chip = false → exec (.pdelayReqRx p m) s = .next (onChip (ptpForward p.val .pdelayReq m) s)) ∧
    (∀ t2 t3, isP2p s.chip = false → exec (.pdelayRespRx p m t2 t3) s = .next (onChip (ptpForward p.val .pdelayResp m) s))) ∧
  (∀ (s : State) (p : Fin 4) (m : PtpMsg) (corr rx : Int), mainRuns s.chip = true → ptpEn s.chip = true → ptpTakes s.chip m = true → ptpTransparent s.chip = false →
    ptpState s.chip p.val = 2 → m.srcId = rdPair s.chip .tim 0x20C → (ptpPort s.chip p.val).pendSync = some (m.seq, corr, rx) →
    exec (.followUpRx p m) s = .next (onChip (fun c => ptpOffset p.val m.origin rx (corr + m.corr) (setPtp p.val { ptpPort c p.val with pendSync := none } c)) s)) ∧
  (∀ (p : Nat) (t1 t2 corr d : Int) (c : Chip), ptpQuiet c p = false → (ptpPort c p).mpd = some d → slavePort c = some p →
    ptpOffset p t1 t2 corr c = servoSample 1 (some p) (((t2 - t1 - corr - mpd16 d : Int) : Rat) / 65536)
      (setPtp p { ptpPort c p with lastSync := some (t1, t2, corr) } c)) ∧
  (∀ (p : Nat) (t1 t2 corr : Int) (d : Rat) (c : Chip), ptpQuiet c p = true → ptpOffset p t1 t2 corr c = c ∧ ptpDelay p d c = c) ∧
  (∀ (s : State) (p : Fin 4) (m : PtpMsg) (rx : Int), mainRuns s.chip = true → ptpEn s.chip = true → ptpTakes s.chip m = true → ptpTransparent s.chip = false →
    ptpState s.chip p.val = 3 → isP2p s.chip = false → rxTime s.chip p.val m = some rx →
    exec (.delayReqRx p m) s = .next (onChip (fun c => ptpSend p.val { ptpOwnMsg c p.val .delayResp m.seq with corr := m.corr, time := rx, reqId := m.srcId, reqPort := m.srcPort } c) s)) ∧
  (∀ (s : State) (p : Fin 4) (m : PtpMsg) (t1 t2 t3 cs : Int), mainRuns s.chip = true → ptpEn s.chip = true → ptpTakes s.chip m = true → ptpTransparent s.chip = false →
    ptpState s.chip p.val = 2 → isP2p s.chip = false → (ptpPort s.chip p.val).reqT = some t3 → (ptpPort s.chip p.val).lastSync = some (t1, t2, cs) →
    ptpOwn s.chip p.val m = true →
    exec (.delayRespRx p m) s = .next (onChip (fun c => ptpDelay p.val (((t2 - t1 - cs + (m.origin - t3 - m.corr) : Int) : Rat) / 2)
      (setPtp p.val { ptpPort c p.val with reqT := none, reqWait := false } c)) s)) ∧
  (∀ (s : State) (p : Fin 4) (m : PtpMsg) (rx : Int), mainRuns s.chip = true → ptpEn s.chip = true → ptpTakes s.chip m = true → isP2p s.chip = true →
    ptpState s.chip p.val ≠ 0 → rxTime s.chip p.val m = some rx →
    exec (.pdelayReqRx p m) s = .next (onChip (fun c => ptpSend p.val { ptpOwnMsg c p.val .pdelayResp m.seq with twoStep := ptpTwoStep c, corr := m.corr, time := if ptpTwoStep c then rx else 0, reqId := m.srcId, reqPort := m.srcPort, rx := rx } c) s)) ∧
  (∀ (s : State) (p : Fin 4) (m : PtpMsg) (t1 t2 t3 t4 : Int), mainRuns s.chip = true → ptpEn s.chip = true → ptpTakes s.chip m = true → isP2p s.chip = true →
    (ptpPort s.chip p.val).reqT = some t1 → ptpOwn s.chip p.val m = true → rxTime s.chip p.val m = some t4 →
    exec (.pdelayRespRx p m t2 t3) s = .next (onChip (fun c => ptpDelay p.val (((t4 - t1 - (t3 - t2) - m.corr : Int) : Rat) / 2)
      (setPtp p.val { ptpPort c p.val with reqT := none, reqWait := false } c)) s)) ∧
  (∀ (s : State) (p : Fin 4) (m : PtpMsg) (body : List Word), mainRuns s.chip = true → ptpEn s.chip = true → ptpTakes s.chip m = true →
    exec (.announceRx p m body) s = .next (onChip (if 16 ≤ s.chip.tim.annRx.length then ptpDrop p.val
      else fun c => raise .tim 15 (modTim (fun t => { t with annRx := t.annRx ++ [(p, (body ++ List.replicate 16 0).take 16)] }) c)) s)) ∧
  (∀ (s : State) (path : Path) (p : Fin 4) (body : List Word) (l : List (Fin 4 × List Word)), fabricUp s.chip path = true → s.chip.tim.annRx = (p, body) :: l →
    exec (.announcePop path) s = .next (onChip (fun c => answered path .tim 0x340 (BitVec.ofNat 32 (min 31 (l.length + 1) + p.val * 256))
      (each (List.range 16) (fun i c => heldSet path (pageBase .tim + 0x380 + 4 * i) (body.getD i 0) c) (modTim (fun x => { x with annRx := l }) c))) s)) ∧
  (∀ (s : State) (p : Fin 4), mainRuns s.chip = true → ptpEn s.chip = true → ptpState s.chip p.val = 3 →
    (ptpPort s.chip p.val).lastSyncTx + ptpInterval s.chip p.val 8 ≤ s.chip.clk.now →
    exec (.syncTx p) s = .next (onChip (fun c => ptpSend p.val { ptpOwnMsg c p.val .sync (ptpPort c p.val).syncSeq with twoStep := ptpTwoStep c }
      (setPtp p.val { ptpPort c p.val with syncSeq := (ptpPort c p.val).syncSeq + 1, lastSyncTx := c.clk.now } c)) s)) ∧
  (∀ (s : State) (p : Fin 4), mainRuns s.chip = true → ptpEn s.chip = true → ptpState s.chip p.val = 3 →
    (ptpPort s.chip p.val).lastAnnTx + ptpInterval s.chip p.val 16 ≤ s.chip.clk.now →
    exec (.announceTx p) s = .next (onChip (fun c => ptpSend p.val { ptpOwnMsg c p.val .announce (ptpPort c p.val).annSeq with body := (List.range 16).map (fun i => rd c .tim (0x300 + 4 * i)) }
      (setPtp p.val { ptpPort c p.val with annSeq := (ptpPort c p.val).annSeq + 1, lastAnnTx := c.clk.now } c)) s)) ∧
  (∀ (s : State) (p : Fin 4), mainRuns s.chip = true → ptpEn s.chip = true → (if isP2p s.chip = true then ptpState s.chip p.val ≠ 0 else ptpState s.chip p.val = 2) →
    (ptpPort s.chip p.val).lastReqTx + ptpInterval s.chip p.val 12 ≤ s.chip.clk.now →
    exec (.delayReqTx p) s = .next (onChip (fun c => ptpSend p.val (ptpOwnMsg c p.val (if isP2p c then .pdelayReq else .delayReq) ((ptpPort c p.val).reqSeq + 1))
      (setPtp p.val { ptpPort c p.val with reqSeq := (ptpPort c p.val).reqSeq + 1, reqT := none, reqWait := true, lastReqTx := c.clk.now }
        (if (ptpPort c p.val).reqWait then cntSat .tim (0x240 + 4 * p.val) 15 8 c else c))) s)) ∧
  (∀ (p : Nat) (m : PtpTx) (c : Chip), c.net.bufUsed + (ptpFrame c p m).len ≤ 524288 →
    queueOf (ptpSend p m c) p 7 = queueOf c p 7 ++ [ptpFrame c p m])

/-- An armed knot that is due fires, its pulse ends, and capture inputs fill and empty their FIFOs. KNOT_FIRE of an armed knot that is due fires it while
KNT is up. KNOT_PULSE_END, when due, drives the pin low. CAPTURE_EDGE of an enabled edge held for the filter time adds an entry with the time of the
edge to the FIFO, or raises the overflow cause and counts when 16 entries stand. CAP_POP answers the oldest entry and removes it. (R111, R112, R114,
R115; derived) -/
def Obligations.KnotsAndCaptures : Prop :=
  (∀ (s : State) (k : Fin 32), k.val ≠ 0 → mainRuns s.chip = true → (knot s.chip k.val).armed = true → (knot s.chip k.val).next ≤ time16 s.chip → isUp s.chip .knt = true →
    exec (.knotFire k) s = .next (withCal (onChip (fireKnot k.val false)) s)) ∧
  (∀ (s : State) (i : Fin 4), mainRuns s.chip = true → tabGet 0 s.chip.knt.pinUntil i.val ≠ 0 → tabGet 0 s.chip.knt.pinUntil i.val ≤ s.chip.clk.now →
    exec (.knotPulseEnd i) s = .next (onChip (fun c => emit (.pin 0 i.val false) { c with knt := { c.knt with pinUntil := tabSet 0 c.knt.pinUntil i.val 0 } }) s)) ∧
  (∀ (s : State) (k : Fin 8) (rising : Bool) (held : Nat), mainRuns s.chip = true → bit (rd s.chip .tim (0x0A0 + 4 * k.val)) (if rising then 0 else 1) = true →
    fld (rd s.chip .tim (0x0A0 + 4 * k.val)) 7 4 ≤ held → isUp s.chip .tim = true →
    exec (.captureEdge k rising held) s = .next (onChip (fun c =>
      if 16 ≤ (tabGet [] s.chip.tim.caps k.val).length then raise .tim 13 (modTim (fun x => { x with capOvf := tabSet 0 x.capOvf k.val (min 255 (tabGet 0 x.capOvf k.val + 1)) }) c)
      else modTim (fun x => { x with caps := tabSet [] x.caps k.val (tabGet [] x.caps k.val ++
        [{ s := (timeNs s.chip - 4 * held) / 1000000000, ns := (timeNs s.chip - 4 * held) % 1000000000, rising := rising }]) }) c) s)) ∧
  (∀ (s : State) (path : Path) (k : Fin 8) (e : CapEntry) (l : List CapEntry), fabricUp s.chip path = true → tabGet [] s.chip.tim.caps k.val = e :: l →
    exec (.capPop path k) s = .next (onChip (fun c => answered path .tim (0x0C0 + 16 * k.val) (BitVec.ofNat 32 (e.ns + flag e.rising 30))
      (heldSet path (pageBase .tim + 0x0C4 + 16 * k.val + 4) (BitVec.ofNat 32 (e.s / 2 ^ 32)) (heldSet path (pageBase .tim + 0x0C4 + 16 * k.val) (BitVec.ofNat 32 e.s)
        (modTim (fun x => { x with caps := tabSet [] x.caps k.val l }) c)))) s))

/-- Limit edges, homing, latches, compares and step pulses of an axis take effect. HARDWARE_LIMIT_EDGE, where the named limit’s source has the level,
stores it, marks the edge for the frame’s end when the axis is homing or moves with limits enabled, and changes no state, no other axis, page or register.
A reference edge in phase 1 of homing latches the position: of the home input for methods 1, 2, 7 and 8, of the limit for 3 and 4, of the index for 5 and
6. HOME_DWELL_END ends a dwell that is over. LAT_ARM arms the latch; an enabled edge of
an armed latch disarms it and holds one entry with position and time; LATF_POP answers the oldest entry and removes it. COMPARE_SPARE_SWITCH carries
out the due switching, CMP_PULSE_END drives the output low unless another unit’s pulse holds it, and STEP_PULSE emits the pulse whose phase falls in the frame and advances the step
generator. (R141, R142, R144, R145, R172, R174, R179, R181; derived) -/
def Obligations.AxisLimitsLatchesAndCompares : Prop :=
  (∀ (s : State) (n : Fin 160) (positive active : Bool), limLevel s.chip n.val positive ≠ active → exec (.hardwareLimitEdge n positive active) s = .next s) ∧
  (∀ (s : State) (n : Fin 160) (positive active : Bool), mainRuns s.chip = true → limLevel s.chip n.val positive = active →
    ∃ t, exec (.hardwareLimitEdge n positive active) s = .next t ∧ t.mem = s.mem ∧ t.chip.pages = s.chip.pages ∧ t.chip.regs = s.chip.regs ∧
      (axis t.chip n.val).limPos = (if positive then active else (axis s.chip n.val).limPos) ∧
      (axis t.chip n.val).limNeg = (if positive then (axis s.chip n.val).limNeg else active) ∧
      (axis t.chip n.val).limEdge = (if active && !(if positive then (axis s.chip n.val).limPos else (axis s.chip n.val).limNeg) &&
        ((axis s.chip n.val).state == .homing || ((axis s.chip n.val).state == .moving && hlimEn s.chip n.val)) then some positive else (axis s.chip n.val).limEdge) ∧
      (axis t.chip n.val).state = (axis s.chip n.val).state ∧ (∀ k, k ≠ n.val → axis t.chip k = axis s.chip k)) ∧
  (∀ (s : State) (n : Fin 160), mainRuns s.chip = true → (axis s.chip n.val).state = .homing → (axis s.chip n.val).home.phase = 1 →
    (axis s.chip n.val).home.edge = none → (axis s.chip n.val).home.reversing = false →
    (∀ active, (axis s.chip n.val).home.method ∈ [1, 2, 7, 8] → (axis s.chip n.val).home.dwellEnd = none → active ≠ bit (axis s.chip n.val).home.flags 1 →
      homeLevel s.chip n.val = active → exec (.homeReferenceEdge n (.home active)) s = .next (onChip (homeLatch n.val (refPos s.chip n.val 16 active)) s)) ∧
    ((axis s.chip n.val).home.method = 3 → limLevel s.chip n.val true = true →
      exec (.homeReferenceEdge n .limit) s = .next (onChip (homeLatch n.val (refPos s.chip n.val 0 true)) s)) ∧
    ((axis s.chip n.val).home.method = 4 → limLevel s.chip n.val false = true →
      exec (.homeReferenceEdge n .limit) s = .next (onChip (homeLatch n.val (refPos s.chip n.val 8 true)) s)) ∧
    ((axis s.chip n.val).home.method = 5 ∨ (axis s.chip n.val).home.method = 6 → (axis s.chip n.val).home.dwellEnd = none → fbIndex s.chip n.val = true →
      exec (.homeReferenceEdge n .index) s = .next (onChip (homeLatch n.val (fbNow s.chip n.val)) s))) ∧
  (∀ (s : State) (n : Fin 160) (t : Nat), mainRuns s.chip = true → (axis s.chip n.val).home.dwellEnd = some t → t ≤ s.chip.clk.now →
    exec (.homeDwellEnd n) s = .next (onChip (modAxis n.val (fun a => { a with home := { a.home with dwellEnd := none } })) s)) ∧
  (∀ (s : State) (path : Path) (n : Fin 160) (l : Fin 2), CanWrite s path (.axm n) →
    exec (.latArm path n l) s = .next (onChip (fun c => taken path (.axm n) (latBase l.val + 0x2C) (setLat n.val l.val { latSt (axis c n.val) l.val with armed := true } c)) s)) ∧
  (∀ (s : State) (n : Fin 160) (l : Fin 2) (rising : Bool), mainRuns s.chip = true → fld (act s.chip (axmPage n.val) (latBase l.val)) 6 0 ≠ 0 →
    (fld (act s.chip (axmPage n.val) (latBase l.val)) 6 0 ≤ 2 → n.val < 128) →
    (11 ≤ fld (act s.chip (axmPage n.val) (latBase l.val)) 6 0 → isOut s.chip.field (fld (act s.chip (axmPage n.val) (latBase l.val)) 6 0 - 11) = false) →
    bit (act s.chip (axmPage n.val) (latBase l.val)) (if rising then 8 else 9) = true → (latSt (axis s.chip n.val) l.val).armed = true →
    bit (act s.chip (axmPage n.val) (latBase l.val)) 13 = false → bit (act s.chip (axmPage n.val) (latBase l.val)) 14 = false → pageEnabled s.chip (axmPage n.val) = true →
    exec (.latchEdge n l rising) s = .next (onChip (fun c => setLat n.val l.val { latSt (axis c n.val) l.val with armed := false, pend := (latSt (axis c n.val) l.val).pend ++ [{ extrap := (latchPos c n.val l.val (edgeTime c (fld (act c (axmPage n.val) (latBase l.val)) 6 0) rising)).2, rising := rising, pos := (latchPos c n.val l.val (edgeTime c (fld (act c (axmPage n.val) (latBase l.val)) 6 0) rising)).1, ns := edgeTime c (fld (act c (axmPage n.val) (latBase l.val)) 6 0) rising % 1000000000, s := edgeTime c (fld (act c (axmPage n.val) (latBase l.val)) 6 0) rising / 1000000000 }] } c) s)) ∧
  (∀ (s : State) (path : Path) (n : Fin 160) (l : Fin 2) (e : LatEntry) (f : List LatEntry), fabricUp s.chip path = true →
    (latSt (axis s.chip n.val) l.val).fifo = e :: f →
    exec (.latfPop path n l) s = .next (onChip (fun c => answered path (.axm n) (latBase l.val + 0x18) (w32 (e.seq.toNat + flag e.extrap 16 + flag e.rising 17))
      (heldSet path (pageBase (.axm n) + latBase l.val + 0x28) (w32 e.s) (heldSet path (pageBase (.axm n) + latBase l.val + 0x24) (half (wrapQ e.pos) true)
        (heldSet path (pageBase (.axm n) + latBase l.val + 0x20) (half (wrapQ e.pos) false) (heldSet path (pageBase (.axm n) + latBase l.val + 0x1C) (w32 e.ns)
          (setLat n.val l.val { latSt (axis c n.val) l.val with fifo := f } c)))))) s)) ∧
  (∀ (s : State) (n : Fin 128) (u : Fin 4) (x : CmpSched), mainRuns s.chip = true →
    (cmpSt (axis s.chip n.val) u.val).sched.find? (fun s' => s'.output == 65 && !s'.switched && decide (s'.time ≤ timeNs s.chip)) = some x →
    exec (.compareSpareSwitch n u) s = .next (onChip (fun c => spareAct n.val u.val x (setCmp n.val u.val { cmpSt (axis c n.val) u.val with sched := if x.confirmed then (cmpSt (axis c n.val) u.val).sched.filter (fun q => q != x) else (cmpSt (axis c n.val) u.val).sched.map (fun q => if q = x then { q with switched := true } else q) } c)) s)) ∧
  (∀ (s : State) (n : Fin 128) (u : Fin 4) (t : Nat), mainRuns s.chip = true → (cmpSt (axis s.chip n.val) u.val).spareEnd = some t → t ≤ timeNs s.chip →
    exec (.cmpPulseEnd n u) s = .next (onChip (fun c => setCmp n.val u.val { cmpSt (axis c n.val) u.val with spareEnd := none }
      (if (List.range 4).any (fun v => v != u.val && (match (cmpSt (axis c n.val) v).spareEnd with | some e => decide (timeNs c < e) | none => false)) then c
       else modMod n.val (fun m => { m with cmpLevel := false }) c)) s)) ∧
  (∀ (s : State) (n : Fin 128) (m : Nat), mainRuns s.chip = true → pulseAxis s.chip n.val = true → (axis s.chip n.val).step.inc ≠ 0 →
    m = (2 ^ 48 - (axis s.chip n.val).step.phase + (axis s.chip n.val).step.inc - 1) / (axis s.chip n.val).step.inc →
    max ((axis s.chip n.val).step.ticks + m) (if (axis s.chip n.val).step.wait then actF s.chip (axmPage n.val) 0x0F0 31 16 else 0) ≤ frameTicksNow s.chip →
    exec (.stepPulse n) s = .next (onChip (fun c => emit (.stepPulse n.val (axis c n.val).step.neg (actF c (axmPage n.val) 0x0F0 15 0)) (setAxis n.val { axis c n.val with step := { stepAdvance (axis c n.val).step m with wait := (axis c n.val).step.wait && decide ((axis c n.val).step.ticks + m < actF c (axmPage n.val) 0x0F0 31 16) } } c)) s))

/-- Observation reads, model writes, estimate stops and the bus group’s inputs take effect. LPA_OBS_SEQ_READ answers the observation sequence and
snapshots for the path. MDL_WRITE of a legal coefficient stores it and starts 16 settling samples. ESTIMATE_STOP_END blocks the outputs and ends the
estimate. BRKFB_TIMEOUT compares the brake feedback with the chopper and faults on a difference. TRIP_IN held for the filter time raises the cause and
faults the group with 0x43; TRIP_RELEASE ends its condition. BUS_V_MAX_WRITE makes the maximum the present voltage. (R207, R211, R224, R231, R235,
R239; derived) -/
def Obligations.LoopEngineAndBusGroups : Prop :=
  (∀ (s : State) (path : Path) (n : Fin 128), fabricUp s.chip path = true →
    exec (.lpaObsSeqRead path n) s = .next (onChip (fun c => answered path (.lpa n) 0x04C (obsSeqRead path n.val c).2 (obsSeqRead path n.val c).1) s)) ∧
  (∀ (s : State) (path : Path) (n : Fin 128) (reg : Fin 7) (v : Word), CanWrite s path (.lpa n) → v &&& 0x3FFFFFFF = v → loopCoefOk (0x100 + 4 * reg.val) v = true →
    exec (.mdlWrite path n reg v) s = .next (onChip (fun c => taken path (.lpa n) (0x100 + 4 * reg.val)
      (setLoop n.val { loopAx c n.val with settling := 16 } (wr (lpaPage n.val) (0x100 + 4 * reg.val) v c))) s)) ∧
  (∀ (s : State) (n : Fin 128), mainRuns s.chip = true → estimateOver s.chip n.val = true →
    exec (.estimateStopEnd n) s = .next (onChip (fun c => requestBlock n.val true (modSup n.val (fun s => { s with estimating := false }) c)) s)) ∧
  (∀ (s : State) (b : Fin 16) (level : Bool), mainRuns s.chip = true → (busSt s.chip b.val).configured = true → bit (rd s.chip (busPage b.val) 0x040) 11 = true →
    exec (.brkfbTimeout b level) s = .next (onChip (fun c => (if (level != bit (rd s.chip (busPage b.val) 0x040) 12) = (busSt s.chip b.val).chopOn then id else chopFault b.val)
      (setBus b.val { busSt c b.val with brkfb := level } c)) s)) ∧
  (∀ (s : State) (b : Fin 16) (level : Bool) (held : Nat), mainRuns s.chip = true → (busSt s.chip b.val).configured = true → bit (rd s.chip (busPage b.val) 0x040) 9 = true →
    level ≠ bit (rd s.chip (busPage b.val) 0x040) 10 → actF s.chip (busPage b.val) 0x06C 7 0 ≤ held → (busSt s.chip b.val).tripIn = false →
    exec (.tripIn b level held) s = .next (onChip (fun c => busFaults b.val [(0x43, fld (rd c (busPage b.val) 0x040) 26 24)]
      (raise (busPage b.val) 13 (setBus b.val { busSt c b.val with tripIn := true } c))) s)) ∧
  (∀ (s : State) (b : Fin 16), mainRuns s.chip = true →
    exec (.tripRelease b) s = .next (onChip (fun c => endCond (busPage b.val) 0x43 (setBus b.val { busSt c b.val with tripIn := false } c)) s)) ∧
  (∀ (s : State) (path : Path) (b : Fin 16) (v : Word), CanWrite s path (.bus b) →
    exec (.busVMaxWrite path b v) s = .next (onChip (fun c => taken path (.bus b) 0x078 (setBus b.val { busSt c b.val with vMax := (busSt c b.val).v } c)) s))

/-- Carrier points apply duties, comparators trip, delay lines calibrate, and STO blocks. At a carrier boundary pending duties are applied, the block
request and trip release act, the boundary is counted, a lost SYS clock blocks, and the period’s gate edges are laid out; in double update the centre
applies too and marks a late set. A phase that commutes turns the one switch off and the other on about its instant with the dead time between, rounded
to 125 ps; duty 0 keeps the low switch on and duty 1 the high one. Applied duties become the shadow ones and count. OC_TRIP of an enabled comparator that
compares sets that phase’s over-current bit, raises the cause, latches 0x50 and takes the configured reaction. DELAY_LINE_CAL_DONE stores the code and releases an enable that waited. FINE_FALLBACK and REPLICA_RELOCK act on the replica. STO_ON blocks
each axis of the input and raises the cause, STO_OFF ends the demand, and while STO is on the outputs are inactive. (R248, R249, R250, R252,
R253, R259, R264, R334; derived) -/
def Obligations.ModulatorCarriersTripsAndSto : Prop :=
  (∀ (s : State) (n : Fin 128), modMode s.chip n.val = 0 → (modSt s.chip n.val).carrier = true → clkLost s.chip .pwm = false →
    ∃ c2 c4 : Chip, c2 = releaseTrips n.val (actBlock n.val (narrowCheck n.val (applyDuties n.val s.chip))) ∧
      c4 = (if (modSt c2 n.val).fallback then id else cntWrap (modPage n.val) 0x070 31 16)
        (modMod n.val (fun m => { m with safeHeld := safeCond c2 n.val, sysHeld := clkLost c2 .sys }) c2) ∧
      exec (.carrierBoundary n) s = .next (onChip (fun _ => planPeriod n.val (if clkLost c4 .sys && !(modSt c4 n.val).block then blockPulses n.val false c4 else c4)) s)) ∧
  (∀ (x dt : Nat) (falling fallback : Bool) (start mid d : Rat),
    halfEdges x falling fallback dt start mid (some falling) (.switch d) =
      ([{ t := (commuteAt fallback dt mid).1, gate := switchGate x falling, on := false }, { t := (commuteAt fallback dt mid).2, gate := switchGate x (!falling), on := true }], some (!falling)) ∧
    halfEdges x falling fallback dt start mid (some false) .low = ([], some false) ∧ halfEdges x falling fallback dt start mid (some true) .high = ([], some true)) ∧
  (∀ (tc dt mn : Rat) (stretch : Bool), 0 < tc → phaseRun tc dt mn stretch 0 = .low ∧ phaseRun tc dt mn stretch 65536 = .high) ∧
  (∀ (dt : Nat) (t : Rat), commuteAt false dt t = (max 0 (roundAway (t - dt / 2)), max 0 (roundAway (t - dt / 2)) + dt)) ∧
  (∀ (c : Chip) (n : Nat), (modSt c n).pendingSet = true →
    (modSt (applyDuties n c) n).duty = (modSt c n).shadow ∧ (modSt (applyDuties n c) n).pendingSet = false ∧
    rd (applyDuties n c) (modPage n) 0x074 = setFld (rd c (modPage n) 0x074) 15 0 ((rdF c (modPage n) 0x074 15 0 + 1) % 65536)) ∧
  (∀ (s : State) (n : Fin 128), modMode s.chip n.val = 0 → (modSt s.chip n.val).carrier = true → clkLost s.chip .pwm = false →
    bit (act s.chip (modPage n.val) 0x040) 2 = true →
    exec (.carrierCentre n) s = .next (onChip (fun c => actBlock n.val (if (modSt c n.val).pendingSet then
        (let c1 := planFalling n.val (modSt (narrowCheck n.val (applyDuties n.val c)) n.val).car.mid (narrowCheck n.val (applyDuties n.val c))
         setLpe (n.val / 32) { lpe c1 (n.val / 32) with missed := true } c1) else c)) s)) ∧
  (∀ (s : State) (n : Fin 128) (x : Fin 3), compares s.chip (portCh n.val x.val) = false → exec (.ocTrip n x) s = .next s) ∧
  (∀ (s : State) (n : Fin 128) (x : Fin 3), mainRuns s.chip = true → compares s.chip (portCh n.val x.val) = true → bit (act (comparator n.val x.val true s.chip) (modPage n.val) 0x040) (8 + x.val) = true →
    (modSt (comparator n.val x.val true s.chip) n.val).oc.any id = false →
    exec (.ocTrip n x) s = .next (onChip (fun c => react n.val (fld (act (comparator n.val x.val true c) (modPage n.val) 0x040) 14 12) 0x50
      (latchFault (modPage n.val) 0x50 (tripPort n.val (some x.val) (comparator n.val x.val true c)))) s)) ∧
  (∀ (c : Chip) (n x : Nat), (modSt (tripPort n (some x) c) n).oc = (modSt c n).oc.set x true ∧ bit (hdr (tripPort n (some x) c) (modPage n)).evt 8 = true) ∧
  (∀ (s : State) (n : Fin 128) (x : Fin 3), mainRuns s.chip = true →
    exec (.comparatorRelease n x) s = .next (onChip (comparator n.val x.val false) s)) ∧
  (∀ (s : State) (n : Fin 128) (code : Byte), mainRuns s.chip = true → (modSt s.chip n.val).calOk = false →
    max (modSt s.chip n.val).calSince s.chip.pwr.resetAt + 200000 ≤ s.chip.clk.now →
    exec (.delayLineCalDone n code) s = .next (onChip (fun c =>
      (if (modSt c n.val).enHeld && (hdr c (modPage n.val)).en && (hdr c (modPage n.val)).state == .off then setState (modPage n.val) .ready else id)
        (setMod n.val { modSt c n.val with calOk := true, enHeld := false, code := code, code0 := code } c)) s)) ∧
  (∀ (s : State) (j : Fin 16) (code : Byte) (locked : Bool), mainRuns s.chip = true →
    exec (.fineFallback j code locked) s = .next (onChip (replicaReport j.val code locked) s)) ∧
  (∀ (s : State) (j : Fin 16) (code : Byte), mainRuns s.chip = true →
    exec (.replicaRelock j code) s = .next (onChip (replicaRelock j.val code) s)) ∧
  (∀ (s : State) (j : Fin 16), exec (.stoOn j) s = .next (onChip (each (stoAxes j) (fun n c => if (modSt c n.val).sto then c else
      axisSto n.val (raise (.mod n) 11 (demandOn (.mod n) (fun h => { h with stoDemand := true })
        (resetLoops n.val (modMod n.val (fun m => { m with sto := true, stoHold := true, block := true, blockReq := false, brakeReq := false }) c)))))) s)) ∧
  (∀ (s : State) (j : Fin 16), exec (.stoOff j) s = .next (onChip (each (stoAxes j) (fun n c => if (modSt c n.val).sto then
      axisStoOff n.val (raise (.mod n) 12 (demandOff (.mod n) (fun h => { h with stoDemand := false }) (modMod n.val (fun m => { m with sto := false }) c))) else c)) s)) ∧
  (∀ (c : Chip) (n : Nat), (modSt c n).sto = true → outState c n = .inactive)

/-- Encoder, Hall and tooth edges move the count as the mode says, and the index latches it. In quadrature mode a legal step of one changes the count by
one in the sense of INVERT and an illegal one is counted as such; in Hall mode the sector steps by one either way or is illegal; in pulse mode a
rising edge counts by the direction input. The index, where its gates allow, latches count plus offset, stamps the time, counts itself and raises
INDEX. In tooth mode the ratio of the two last intervals tells the gap: at or above the limit the reference is taken and the count moves by the
missing teeth plus one, below it by one. F2_EDGE held for the filter time raises its cause. (R274, R275, R277, R278, R279, R280; derived) -/
def Obligations.EncoderHallAndToothCounting : Prop :=
  (∀ (s : State) (n : Fin 128) (f0 f1 f2 : Bool) (d : Int), Counts s n → fbkMode s.chip n.val = 1 →
    quadStep (fbkSt s.chip n.val).f0 (fbkSt s.chip n.val).f1 f0 f1 = some d → d ≠ 0 →
    exec (.encoderEdge n f0 f1 f2) s = .next (onChip (fun c => fbkCount n.val ((if fbkBit c n.val 4 then -1 else 1) * d)
      (setFbk n.val { fbkSt c n.val with f0 := f0, f1 := f1, f2 := if fbkBit c n.val 6 then (fbkSt c n.val).f2 else f2 } c)) s)) ∧
  (∀ (s : State) (n : Fin 128) (f0 f1 f2 : Bool), Counts s n → fbkMode s.chip n.val = 1 →
    quadStep (fbkSt s.chip n.val).f0 (fbkSt s.chip n.val).f1 f0 f1 = none →
    exec (.encoderEdge n f0 f1 f2) s = .next (onChip (fun c => fbkIllegal n.val
      (setFbk n.val { fbkSt c n.val with f0 := f0, f1 := f1, f2 := if fbkBit c n.val 6 then (fbkSt c n.val).f2 else f2 } c)) s)) ∧
  (∀ (s : State) (n : Fin 128) (u v w : Bool) (s0 s1 : Nat), Counts s n → fbkMode s.chip n.val = 2 →
    (fbkSt s.chip n.val).sector = some s0 → hallSector s.chip n.val u v w = some s1 → s0 < 6 →
    exec (.encoderEdge n u v w) s = .next (onChip (fun c => (if s1 = s0 then id else if s1 = (s0 + 1) % 6 then fbkCount n.val 1 else
      if s0 = (s1 + 1) % 6 then fbkCount n.val (-1) else fbkIllegal n.val)
      (modFbk n.val (fun y => { y with sector := some s1 }) (setFbk n.val { fbkSt c n.val with f0 := u, f1 := v, f2 := w } c))) s)) ∧
  (∀ (s : State) (n : Fin 128) (f1 f2 : Bool), Counts s n → fbkMode s.chip n.val = 5 → (fbkSt s.chip n.val).f0 = false →
    exec (.encoderEdge n true f1 f2) s = .next (onChip (fun c => fbkCount n.val (if f1 = fbkBit c n.val 4 then 1 else -1)
      (setFbk n.val { fbkSt c n.val with f0 := true, f1 := f1 } c)) s)) ∧
  (∀ (n : Nat) (d : Int) (c : Chip), (fbkSt (fbkCount n d c) n).count = wrapCount ((fbkSt c n).count + d)) ∧
  (∀ (s : State) (n : Fin 128), mainRuns s.chip = true → fbkOn s.chip n.val = true → fbkMode s.chip n.val = 1 → fbkBit s.chip n.val 6 = false →
    (actF s.chip (fbkPage n.val) 0x040 13 12 % 2 = 1 → (fbkSt s.chip n.val).f0 = true) → (2 ≤ actF s.chip (fbkPage n.val) 0x040 13 12 → (fbkSt s.chip n.val).f1 = true) →
    ∃ t, exec (.index n) s = .next t ∧
      rdPair t.chip (fbkPage n.val) 0x074 = wrapQ (((fbkSt s.chip n.val).count : Rat) + ofQ (rdPair s.chip (fbkPage n.val) 0x058)) ∧
      rd t.chip (fbkPage n.val) 0x07C = BitVec.ofNat 32 ((timeNs s.chip - 10 * actF s.chip (fbkPage n.val) 0x040 11 8) / 10 * 10 % 1000000000) ∧
      rd t.chip (fbkPage n.val) 0x070 = BitVec.ofNat 32 ((rdF s.chip (fbkPage n.val) 0x070 15 0 + 1) % 65536 + 65536) ∧
      bit (hdr t.chip (fbkPage n.val)).evt 10 = true) ∧
  (∀ (s : State) (n : Fin 128) (f1 : Bool) (r : Rat), Counts s n → fbkMode s.chip n.val = 3 →
    (fbkSt s.chip n.val).tooth = .sync → toothRatio (fbkSt s.chip n.val) (edgeNow s.chip n.val) = some r →
    fld (act s.chip (fbkPage n.val) 0x084) 15 12 ≠ 0 → (fld (act s.chip (fbkPage n.val) 0x084) 23 16 : Rat) / 16 ≤ r →
    exec (.toothEdge n f1) s = .next (onChip (fun c => toothRef n.val ((fbkSt c n.val).teeth + 1)
        (fld (act c (fbkPage n.val) 0x084) 11 0 - fld (act c (fbkPage n.val) 0x084) 15 12)
      (fbkCount n.val (if toothDown c n.val f1 then -((fld (act c (fbkPage n.val) 0x084) 15 12 + 1 : Nat) : Int) else ((fld (act c (fbkPage n.val) 0x084) 15 12 + 1 : Nat) : Int))
        (setFbk n.val { fbkSt c n.val with t1 := some (edgeNow c n.val), t2 := (fbkSt c n.val).t1, teeth := (fbkSt c n.val).teeth + 1, f1 := f1 } c))) s)) ∧
  (∀ (s : State) (n : Fin 128) (f1 : Bool) (r : Rat), Counts s n → fbkMode s.chip n.val = 3 →
    (fbkSt s.chip n.val).tooth = .sync → toothRatio (fbkSt s.chip n.val) (edgeNow s.chip n.val) = some r →
    fld (act s.chip (fbkPage n.val) 0x084) 15 12 ≠ 0 → r < (fld (act s.chip (fbkPage n.val) 0x084) 23 16 : Rat) / 16 →
    (fbkSt s.chip n.val).teeth + 1 < fld (act s.chip (fbkPage n.val) 0x084) 11 0 - fld (act s.chip (fbkPage n.val) 0x084) 15 12 →
    exec (.toothEdge n f1) s = .next (onChip (fun c => fbkCount n.val (if toothDown c n.val f1 then -1 else 1)
        (setFbk n.val { fbkSt c n.val with t1 := some (edgeNow c n.val), t2 := (fbkSt c n.val).t1, teeth := (fbkSt c n.val).teeth + 1, f1 := f1 } c)) s)) ∧
  (∀ (s : State) (n : Fin 128) (level : Bool) (held : Nat), mainRuns s.chip = true → fbkOn s.chip n.val = true → fbkMode s.chip n.val ≠ 2 →
    (fbkMode s.chip n.val = 1 → fbkBit s.chip n.val 6 = true) → actF s.chip (fbkPage n.val) 0x06C 15 0 ≤ held → (fbkSt s.chip n.val).f2 ≠ level →
    exec (.f2Edge n level held) s = .next (onChip (fun c => raise (fbkPage n.val) 14 (setFbk n.val { fbkSt c n.val with f2 := level } c)) s))

/-- SSI reads start, words are checked and added, and a late idle is marked. SSI_READ_START notes the time and the data level. SSI_WORD checks the word: a
data line low at the start is BUSY, a word that did not start is TIMEOUT, and a good word adds to the count its field’s signed difference from the
last field, modulo the field’s width. The round-trip time is stored and the idle deadline set. SSI_IDLE_TIMEOUT, when due, marks the idle as late.
(R281, R282, R283, R284; derived) -/
def Obligations.SerialPositionWords : Prop :=
  (∀ (s : State) (n : Fin 128) (data : Bool), Counts s n → fbkMode s.chip n.val = 4 →
    exec (.ssiReadStart n data) s = .next (onChip (fun c => setFbk n.val { fbkSt c n.val with reading := some (c.clk.now, data), idleDue := none } c) s)) ∧
  (∀ (s : State) (n : Fin 128) (word : BitVec 48) (started : Bool) (rtt : BitVec 16) (t0 : Nat) (data : Bool), mainRuns s.chip = true →
    (fbkSt s.chip n.val).reading = some (t0, data) →
    exec (.ssiWord n word started rtt) s = .next (onChip (fun c => (match ssiCheck c n.val word data started with
        | some e => ssiError n.val e
        | none => ssiGood n.val t0 word)
      (wr (fbkPage n.val) 0x0A0 (rtt.setWidth 32) (setFbk n.val { fbkSt c n.val with reading := none, word := word, lateIdle := false, idleDue := some (c.clk.now + 1000 * actF c (fbkPage n.val) 0x094 15 0) } c))) s)) ∧
  (∀ (s : State) (n : Fin 128) (t : Nat), mainRuns s.chip = true → (fbkSt s.chip n.val).idleDue = some t → t ≤ s.chip.clk.now →
    exec (.ssiIdleTimeout n) s = .next (onChip (fun c => setFbk n.val { fbkSt c n.val with lateIdle := true, idleDue := none } c) s)) ∧
  (∀ (c : Chip) (n : Nat) (word : BitVec 48) (started : Bool),
    ssiCheck c n word false started = some .busy ∧ ssiCheck c n word true false = some .timeout) ∧
  (∀ (n t0 : Nat) (word : BitVec 48) (c : Chip) (q : Nat), (fbkSt c n).field = some q → bit (act c (fbkPage n) 0x040) 19 = false →
    (fbkSt (ssiGood n t0 word c) n).count = wrapCount ((fbkSt c n).count +
      signed (fld (act c (fbkPage n) 0x088) 21 16) (((word.toNat >>> fld (act c (fbkPage n) 0x088) 13 8) % 2 ^ fld (act c (fbkPage n) 0x088) 21 16 +
        2 ^ fld (act c (fbkPage n) 0x088) 21 16 - q) % 2 ^ fld (act c (fbkPage n) 0x088) 21 16)))

/-- The sensorless block leaves its timed states, takes its command pin, loses it and starts a test. ALIGN_END, when T_ALIGN is over, takes ALIGN to RAMP
with the alignment angle and speed 0, or fails with 0x71 when the curve has under two points. CATCH_TIMEOUT goes to ALIGN. COAST_END starts anew while a
run is requested and goes to IDLE otherwise. RETRY_CLEAR clears the failures. A rising command edge forms the duty ratio or the frequency share of the
period that ended; CMD_LOST makes the command 0 and raises its cause. SNL_TEST_START begins the test in IDLE with the axis READY and is refused
otherwise. A request starts at the start threshold and ends below the stop threshold. (R303, R304, R305, R307, R308, R309, R310, R311; derived) -/
def Obligations.SensorlessStatesAndCommand : Prop :=
  (∀ (s : State) (n : Fin 128), mainRuns s.chip = true → (snlSt s.chip n.val).state = .aligning →
    (snlSt s.chip n.val).since + actF s.chip (snlPage n.val) 0x07C 15 0 * 1000000 ≤ s.chip.clk.now →
    ∃ c1 : Chip, c1 = modSnl n.val (fun x => { x with theta := (actF s.chip (snlPage n.val) 0x07C 31 16 : Rat) / 65536, omega := 0, thetaOl := (actF s.chip (snlPage n.val) 0x07C 31 16 : Rat) / 65536, outAngle := (actF s.chip (snlPage n.val) 0x07C 31 16 : Rat) / 65536 }) s.chip ∧
      exec (.alignEnd n) s = .next (onChip (fun _ => if (curvePoints s.chip n.val).length < 2 then snlFault n.val 0x71 c1 else snlEnter n.val .ramp c1) s)) ∧
  (∀ (s : State) (n : Fin 128), mainRuns s.chip = true → (snlSt s.chip n.val).state = .catching → (snlSt s.chip n.val).takeover = false →
    (snlSt s.chip n.val).since + actF s.chip (snlPage n.val) 0x070 31 16 * 1000000 ≤ s.chip.clk.now →
    exec (.catchTimeout n) s = .next (onChip (snlAlign n.val) s)) ∧
  (∀ (s : State) (n : Fin 128), mainRuns s.chip = true → (snlSt s.chip n.val).state = .coast →
    (snlSt s.chip n.val).since + actF s.chip (snlPage n.val) 0x070 15 0 * 1000000 ≤ s.chip.clk.now →
    exec (.coastEnd n) s = .next (onChip (if (snlSt s.chip n.val).runReq then
      (if bit (act s.chip (snlPage n.val) 0x040) 4 then snlEnter n.val .catching else snlAlign n.val) else snlIdle n.val) s)) ∧
  (∀ (s : State) (n : Fin 128), mainRuns s.chip = true → (snlSt s.chip n.val).state = .run →
    (snlSt s.chip n.val).since + actF s.chip (snlPage n.val) 0x074 31 16 * 1000000 ≤ s.chip.clk.now →
    exec (.retryClear n) s = .next (onChip (fun c => setSnl n.val { snlSt c n.val with fails := 0 } c) s)) ∧
  (∀ (s : State) (n : Fin 128) (t t1 r : Nat), mainRuns s.chip = true → t1 = (if actF s.chip (snlPage n.val) 0x094 14 8 = 0 then t / 10 * 10 else t) →
    (snlSt s.chip n.val).lastRise = some r → r < t1 →
    (actF s.chip (snlPage n.val) 0x094 1 0 = 2 →
      exec (.commandPinEdge n true t) s = .next (onChip (fun c => snlRequest n.val (setSnl n.val { snlSt c n.val with lastEdge := some c.clk.now, cmdLost := false, x := minRat 1 (((snlSt c n.val).highTime : Rat) / ((t1 - r : Nat) : Rat)), lastRise := some t1 } c)) s)) ∧
    (actF s.chip (snlPage n.val) 0x094 1 0 = 3 →
      exec (.commandPinEdge n true t) s = .next (onChip (fun c => snlRequest n.val (setSnl n.val { snlSt c n.val with lastEdge := some c.clk.now, cmdLost := false, x := freqShare c n.val (1000000000 / ((t1 - r : Nat) : Rat)), lastRise := some t1 } c)) s))) ∧
  (∀ (c : Chip) (n : Nat) (hz : Rat), ((act c (snlPage n) 0x098).toNat : Rat) ≠ 0 → freqShare c n hz = minRat 1 (hz / ((act c (snlPage n) 0x098).toNat : Rat))) ∧
  (∀ (s : State) (n : Fin 128), mainRuns s.chip = true → 2 ≤ actF s.chip (snlPage n.val) 0x094 1 0 → (snlSt s.chip n.val).state ≠ .off →
    (snlSt s.chip n.val).cmdLost = false → (snlSt s.chip n.val).lastEdge.getD 0 + actF s.chip (snlPage n.val) 0x094 31 24 * 1000000 ≤ s.chip.clk.now →
    exec (.cmdLost n) s = .next (onChip (fun c => snlRequest n.val (raise (snlPage n.val) 12 (setSnl n.val { snlSt c n.val with x := 0, cmdLost := true, lastRise := none } c))) s)) ∧
  (∀ (s : State) (path : Path) (n : Fin 128), CanWrite s path (.snl n) →
    ((snlSt s.chip n.val).state = .idle → (axis s.chip n.val).state = .ready → exec (.snlTestStart path n) s = .next (onChip (fun c => taken path (.snl n) 0x0A8
      (snlAlign n.val (wr (snlPage n.val) 0x0AC 0 (setSnl n.val { snlSt c n.val with test := true, testErr := none, testRefused := false } c)))) s)) ∧
    ((snlSt s.chip n.val).state ≠ .idle ∨ (axis s.chip n.val).state ≠ .ready → exec (.snlTestStart path n) s = .next (onChip (fun c => ended path (.snl n) 0x0A8
      (setSnl n.val { snlSt c n.val with testRefused := true } c)) s))) ∧
  (∀ (n : Nat) (c : Chip), (snlSt c n).inhibit = false →
    (snlSt (snlRequest n c) n).runReq = (decide (snlHz c n 0x08C ≤ absRat (snlFreq c n)) || (!decide (absRat (snlFreq c n) < snlHz c n 0x090) && (snlSt c n).runReq)))

/-- Conversions, knot lists, calibration and reference faults of the converters take effect. CONVERSION_DONE of an input that a slot names stores the
converted result with its instant and flags, and takes the page from READY to RUN. KNOT_LIST_START starts the pending list of the named converter and
reports a delay. ADC_SEQ_READ answers the sequence. ADC_START is accepted or raises CAL_REFUSED as the converter and its partner allow; CAL_ALL starts
every idle converter when no list runs. CAL_DONE, 9 ms on, commits and raises the done cause when the figures pass and raises the failure cause when
not. REFERENCE_FAULT latches 0x82 in the converters of that reference and REFERENCE_RECOVERED ends it. (R315, R316, R318, R320, R322, R324, R325,
R326, R329; derived) -/
def Obligations.ConvertersAndCalibration : Prop :=
  (∀ (s : State) (k : Fin 16) (m : Fin 8) (d : BitVec 18) (slot : Option (Fin 16)) (ns : Nat) (shifted : Bool), mainRuns s.chip = true →
    slotTakes k.val m.val slot s.chip = true → converts s.chip k.val = true →
    exec (.conversionDone k m d slot ns shifted) s = .next (onChip (fun c =>
      (if (hdr c (adcPage k.val)).state = .ready then setState (adcPage k.val) .run else id)
      (setAdc k.val { adcSt c k.val with res := tabSet (0, false, false, 0, 0) (adcSt c k.val).res m.val (convert c (if (adcSt c k.val).mode == .covered then partner k.val else k.val) d, !(adcSt c k.val).refBad, shifted && (adcSt c k.val).mode == .covered, ns, c.clk.now) } c)) s)) ∧
  (∀ (s : State) (k : Fin 16) (mask : BitVec 16) (delay : Nat), mainRuns s.chip = true → mask = 1#16 <<< k.val → (adcSt s.chip k.val).knotPend = true →
    exec (.knotListStart mask delay) s = .next (onChip (fun c =>
      raiseIf (decide (0 < delay) && !(adcSt c k.val).delayedRaised) (adcPage k.val) 14 (wrF (adcPage k.val) 0x058 15 0 (min delay 65535)
        (setAdc k.val { adcSt c k.val with knotPend := false, knotUntil := c.clk.now + 500 * (knotSlots c k.val).length, delayedRaised := (adcSt c k.val).delayedRaised || decide (0 < delay) } c))) s)) ∧
  (∀ (s : State) (path : Path) (k : Fin 16), fabricUp s.chip path = true →
    exec (.adcSeqRead path k) s = .next (onChip (fun c => answered path (.adc k) 0x200 (adcSeqRead path k.val c).2 (adcSeqRead path k.val c).1) s)) ∧
  (∀ (s : State) (path : Path) (k : Fin 16), CanWrite s path (.adc k) → (calRequest k.val false s.chip).2 = true →
    exec (.adcStart path k) s = .next (onChip (fun c => taken path (.adc k) 0x048 (calRequest k.val false c).1) s)) ∧
  (∀ (s : State) (path : Path) (k : Fin 16), CanWrite s path (.adc k) → (calRequest k.val false s.chip).2 = false →
    exec (.adcStart path k) s = .next (onChip (fun c => ended path (.adc k) 0x048 (raise (adcPage k.val) 12 c)) s)) ∧
  (∀ (c : Chip) (k : Nat), (adcSt c k).mode = .idle → (adcSt c k).coverReq = false →
    (isUp c (adcPage k) = true ∧ sampleSlots c k = [] ∧ knotSlots c k = []) ∨ (hdr c (adcPage k)).state = .fault →
    calRequest k false c = (calStart k false (setAdc k { adcSt c k with spliceCal := false } c), true)) ∧
  (∀ (c : Chip) (k : Nat), isUp c (adcPage k) = true → (adcSt c k).mode = .idle → (adcSt c k).coverReq = false → sampleSlots c k ≠ [] ∨ knotSlots c k ≠ [] →
    (hdr c (adcPage (partner k))).state = .run → (adcSt c (partner k)).mode = .idle → (adcSt c (partner k)).coverReq = false →
    seqFits c (sampleSlots c (partner k) ++ sampleSlots c k) ((knotSlots c (partner k)).length + (knotSlots c k).length) = true →
    calRequest k false c = (setAdc k { adcSt c k with coverReq := true, spliceCal := false } c, true)) ∧
  (∀ (s : State) (path : Path), CanWrite s path (.adc 0) → (∀ k < 16, sampleSlots s.chip k = [] ∧ knotSlots s.chip k = []) →
    exec (.calAll path) s = .next (onChip (fun c => taken path (.adc 0) 0x048
      (each (List.range 16) (fun k c => if (adcSt c k).mode = .idle then calStart k false c else c) c)) s)) ∧
  (∀ (s : State) (k : Fin 16) (ofs gain : BitVec 24) (ws : List (BitVec 24)) (t : Nat), mainRuns s.chip = true → (adcSt s.chip k.val).calSince = some t → t + 9000000 ≤ s.chip.clk.now →
    (adcSt s.chip k.val).mode = .calibrating → (adcSt s.chip k.val).powerOn = false → (adcSt s.chip k.val).spliceCal = false → calPasses ofs gain ws k.val = true →
    exec (.calDone k ofs gain ws) s = .next (onChip (fun c => endCond (adcPage k.val) 0x80 (raise (adcPage k.val) 8 (calCommit k.val ofs gain ws
      (setAdc k.val { adcSt c k.val with mode := .idle, calSince := none, calValid := true, powerOn := false, spliceCal := false, splicePass := true, coverEnd := false } c)))) s)) ∧
  (∀ (s : State) (k : Fin 16) (ofs gain : BitVec 24) (ws : List (BitVec 24)) (t : Nat), mainRuns s.chip = true → (adcSt s.chip k.val).calSince = some t → t + 9000000 ≤ s.chip.clk.now →
    (adcSt s.chip k.val).mode = .calibrating → (adcSt s.chip k.val).powerOn = false → (adcSt s.chip k.val).spliceCal = false → calPasses ofs gain ws k.val = false →
    exec (.calDone k ofs gain ws) s = .next (onChip (fun c => raise (adcPage k.val) 9
      (setAdc k.val { adcSt c k.val with mode := .idle, calSince := none, powerOn := false, spliceCal := false, splicePass := false, coverEnd := false } c)) s)) ∧
  (∀ (s : State) (b : Bool), mainRuns s.chip = true →
    exec (.referenceFault b) s = .next (onChip (each (refAdcs b) (fun k c => latchCond (adcPage k) 0x82 (modAdc k (fun x => { x with refBad := true, res := lostResults x.res }) c))) s)) ∧
  (∀ (s : State) (b : Bool), mainRuns s.chip = true →
    exec (.referenceRecovered b) s = .next (onChip (each (refAdcs b) (fun k c => endCond (adcPage k) 0x82 (modAdc k (fun x => { x with refBad := false }) c))) s))

/-- Stuck data lines, the decimators’ sequence reads and the range of a decimated sample. STUCK of an enabled channel marks it, records the first such
channel, raises the cause, latches 0x81 and takes its axis’s reaction. SDF_SEQ_READ answers the sequence with the path’s snapshot. A decimated value
lies in −8388607 to 8388607. A channel’s result is valid once 3·OSR − 2 bits came. (R331, R333, R339; derived) -/
def Obligations.DecimatorsAndStuckLines : Prop :=
  (∀ (s : State) (k : Fin 8) (ch : Fin 48), mainRuns s.chip = true → actF s.chip (sdfPage k.val) 0x040 7 0 ≠ 0 → sdfOn s.chip (48 * k.val + ch.val) = true →
    exec (.stuck k ch) s = .next (onChip (fun c => react (16 * k.val + ch.val / 3) 5 0x81 (latchCond (sdfPage k.val) 0x81 (raise (sdfPage k.val) 9
      ((if bit (rd c (sdfPage k.val) 0x048) 7 then id else wr (sdfPage k.val) 0x048 (BitVec.ofNat 32 (0x80 + ch.val)))
        (setSdf (48 * k.val + ch.val) { sdfCh c (48 * k.val + ch.val) with stuck := true } c))))) s)) ∧
  (∀ (s : State) (path : Path) (k : Fin 8), fabricUp s.chip path = true →
    exec (.sdfSeqRead path k) s = .next (onChip (fun c => answered path (.sdf k) 0x1FC (sdfSeqRead path k.val c).2 (sdfSeqRead path k.val c).1) s)) ∧
  (∀ (r : Nat) (bits : List Bool), -8388607 ≤ decimate r bits ∧ decimate r bits ≤ 8388607) ∧
  (∀ (c : Chip) (i : Nat) (new : List Bool), sdfOn c i = true →
    (sdfCh (sdfSample i new c) i).valid = decide (3 * fld (sdfPort c i) 8 0 - 2 ≤ (sdfBits (sdfPort c i) (rd c (sdfPage (i / 48)) (0x084 + 16 * (i % 48 / 3))) (sdfCh c i) new).1.got))

/-- The arithmetic, minimum, maximum and MOVS words of a core, and a reserved word. At a core that stands at the word: a class 0 or class 1 word writes
D[d] with the narrowed exact result of its operation and updates the status bits by it; MINX and MAXX write the new extreme and ITN when the
comparison holds and nothing else otherwise; MOVS reads a system register into D, writes one from D, and a write of PC jumps. A reserved word faults
with 0x90. The operations’ results, the flags and MOVS’s fields are values of Config that the spec leaves open (log entries 10 and 34), so the clauses
hold for every choice of them. (R343, R347, R350; derived) -/
def Obligations.CoreAluMinMaxAndMovs : Prop :=
  (∀ (s : State) (k : Fin 8) (w : Word), Stands s k w → cls w = 0 →
    exec (.aluRegister k w) s = .next (retireS k.val {} (fun x => { setD (fld w 19 16) (narrow32 (bit (coreAt s k).sr srSAT) (Config.aluExact (w.extractLsb' 22 6) (dReg (coreAt s k) (fld w 19 16)) (dReg (coreAt s k) (fld w 15 12)) (dReg (coreAt s k) (fld w 11 8)))).1 x with sr := aluFlags x.sr (w.extractLsb' 22 6) (dReg (coreAt s k) (fld w 19 16)) (dReg (coreAt s k) (fld w 15 12)) (dReg (coreAt s k) (fld w 11 8)) (narrow32 (bit (coreAt s k).sr srSAT) (Config.aluExact (w.extractLsb' 22 6) (dReg (coreAt s k) (fld w 19 16)) (dReg (coreAt s k) (fld w 15 12)) (dReg (coreAt s k) (fld w 11 8)))) }) (atIssue s k))) ∧
  (∀ (s : State) (k : Fin 8) (w : Word), Stands s k w → cls w = 1 →
    exec (.aluImmediate k w) s = .next (retireS k.val {} (fun x => { setD (fld w 19 16) (narrow32 (bit (coreAt s k).sr srSAT) (Config.aluExact (w.extractLsb' 22 6) (dReg (coreAt s k) (fld w 19 16)) (dReg (coreAt s k) (fld w 19 16)) (BitVec.ofInt 32 (signed 16 (fld w 15 0))))).1 x with sr := aluFlags x.sr (w.extractLsb' 22 6) (dReg (coreAt s k) (fld w 19 16)) (dReg (coreAt s k) (fld w 19 16)) (BitVec.ofInt 32 (signed 16 (fld w 15 0))) (narrow32 (bit (coreAt s k).sr srSAT) (Config.aluExact (w.extractLsb' 22 6) (dReg (coreAt s k) (fld w 19 16)) (dReg (coreAt s k) (fld w 19 16)) (BitVec.ofInt 32 (signed 16 (fld w 15 0))))) }) (atIssue s k))) ∧
  (∀ (s : State) (k : Fin 8) (w : Word) (v : Word), Stands s k w → cls w = 7 → bit w 27 = false → v = (if bit w 25 then abs32 (dReg (coreAt s k) (fld w 15 12)) else dReg (coreAt s k) (fld w 15 12)) →
    exec (.minx k w) s = .next (retireS k.val {} (fun x => if lessThan (bit w 26) v (dReg (coreAt s k) (fld w 23 20)) then setD (fld w 19 16) ((itnRead (coreAt s k)).setWidth 32) (setD (fld w 23 20) v x) else x) (atIssue s k))) ∧
  (∀ (s : State) (k : Fin 8) (w : Word) (v : Word), Stands s k w → cls w = 7 → bit w 27 = true → v = (if bit w 25 then abs32 (dReg (coreAt s k) (fld w 15 12)) else dReg (coreAt s k) (fld w 15 12)) →
    exec (.maxx k w) s = .next (retireS k.val {} (fun x => if lessThan (bit w 26) (dReg (coreAt s k) (fld w 23 20)) v then setD (fld w 19 16) ((itnRead (coreAt s k)).setWidth 32) (setD (fld w 23 20) v x) else x) (atIssue s k))) ∧
  (∀ (s : State) (k : Fin 8) (w : Word), Stands s k w → cls w = 9 → fld w 27 24 = 7 → Config.movsWrites (w.extractLsb' 0 24) = false →
    exec (.movs k w) s = .next (retireS k.val {} (fun x => setD (Config.movsData (w.extractLsb' 0 24)).val (sysRead (atIssue s k).chip x (Config.movsSystem (w.extractLsb' 0 24)).val) x) (atIssue s k))) ∧
  (∀ (s : State) (k : Fin 8) (w : Word), Stands s k w → cls w = 9 → fld w 27 24 = 7 → Config.movsWrites (w.extractLsb' 0 24) = true → (Config.movsSystem (w.extractLsb' 0 24)).val ≠ 24 →
    exec (.movs k w) s = .next (retireS k.val { ptrs := if (Config.movsSystem (w.extractLsb' 0 24)).val < 24 then [(Config.movsSystem (w.extractLsb' 0 24)).val % 8] else [] }
      (sysWrite (Config.movsSystem (w.extractLsb' 0 24)).val (dReg (coreAt s k) (Config.movsData (w.extractLsb' 0 24)).val)) (atIssue s k))) ∧
  (∀ (s : State) (k : Fin 8) (w : Word), Stands s k w → cls w = 9 → fld w 27 24 = 7 → Config.movsWrites (w.extractLsb' 0 24) = true → (Config.movsSystem (w.extractLsb' 0 24)).val = 24 →
    exec (.movs k w) s = .next (retireS k.val { jump := some ((dReg (coreAt s k) (Config.movsData (w.extractLsb' 0 24)).val).setWidth 16) } id (atIssue s k))) ∧
  (∀ (s : State) (k : Fin 8) (w : Word), coreRuns s.chip k.val = true → atBreakpoint s.chip k.val = false → (core s.chip k.val).pc.toNat % 4 = 0 → (fetched s k).2 = some w →
    reservedWord w = true → exec (.aluRegister k w) s = .next (coreFault k.val 0x90 (fetched s k).1))

/-- The multiply-accumulate words of a core and those on its accumulators. MAC adds, MSU subtracts and MPY sets the accumulator by the exact product, MAC2
does so on both units, and the pair loads they carry read, arrive in D and step the pointers. CLRA clears an accumulator, ADDA adds another to it, MVA
narrows A·2^−f to D, CWPK packs it into a coefficient word and CWUP unpacks one. Overflow bits are set as the saturations say. (R344, R345, R349,
R358; derived) -/
def Obligations.CoreMacAndAccumulators : Prop :=
  (∀ (s s0 s1 : State) (k : Fin 8) (w : Word) (v0 v1 : List Word), Stands s k w → cls w = 2 → fld w 27 26 = 0 → macAllowed w (coreAt s k) →
    macRead k w false (coreAt s k) (atIssue s k) = (s0, some v0) → macRead k w true (coreAt s k) s0 = (s1, some v1) →
    exec (.mac k w) s = .next (macEnd k w [fld w 25 24] (fun x => accumulate 1 (fld w 25 24) (macProduct (bit (coreAt s k).sr srFRAC) (dReg x (fld w 23 20)) (dReg x (fld w 19 16))) x) (coreAt s k) v0 v1 s1)) ∧
  (∀ (s s0 s1 : State) (k : Fin 8) (w : Word) (v0 v1 : List Word), Stands s k w → cls w = 2 → fld w 27 26 = 1 → macAllowed w (coreAt s k) →
    macRead k w false (coreAt s k) (atIssue s k) = (s0, some v0) → macRead k w true (coreAt s k) s0 = (s1, some v1) →
    exec (.msu k w) s = .next (macEnd k w [fld w 25 24] (fun x => accumulate (-1) (fld w 25 24) (macProduct (bit (coreAt s k).sr srFRAC) (dReg x (fld w 23 20)) (dReg x (fld w 19 16))) x) (coreAt s k) v0 v1 s1)) ∧
  (∀ (s s0 s1 : State) (k : Fin 8) (w : Word) (v0 v1 : List Word), Stands s k w → cls w = 2 → fld w 27 26 = 2 → macAllowed w (coreAt s k) →
    macRead k w false (coreAt s k) (atIssue s k) = (s0, some v0) → macRead k w true (coreAt s k) s0 = (s1, some v1) →
    exec (.mpy k w) s = .next (macEnd k w [fld w 25 24] (fun x => accumulate 0 (fld w 25 24) (macProduct (bit (coreAt s k).sr srFRAC) (dReg x (fld w 23 20)) (dReg x (fld w 19 16))) x) (coreAt s k) v0 v1 s1)) ∧
  (∀ (s s0 s1 : State) (k : Fin 8) (w : Word) (v0 v1 : List Word), Stands s k w → cls w = 2 → fld w 27 26 = 3 → macAllowed w (coreAt s k) →
    macRead k w false (coreAt s k) (atIssue s k) = (s0, some v0) → macRead k w true (coreAt s k) s0 = (s1, some v1) →
    exec (.mac2 k w) s = .next (macEnd k w [fld w 25 24, fld w 25 24 + 1] (fun x =>
      accumulate 1 (fld w 25 24 + 1) (macProduct (bit (coreAt s k).sr srFRAC) (dReg x (fld w 23 20 + 1)) (dReg x (fld w 19 16 + 1)))
        (accumulate 1 (fld w 25 24) (macProduct (bit (coreAt s k).sr srFRAC) (dReg x (fld w 23 20)) (dReg x (fld w 19 16))) x)) (coreAt s k) v0 v1 s1)) ∧
  (∀ (s : State) (k : Fin 8) (w : Word), Stands s k w → isAcc 0 w = true →
    exec (.clra k w) s = .next (retireS k.val { accs := [fld w 23 22] } (setA (fld w 23 22) 0) (atIssue s k))) ∧
  (∀ (s : State) (k : Fin 8) (w : Word), Stands s k w → isAcc 1 w = true →
    exec (.adda k w) s = .next (retireS k.val { accs := [fld w 23 22], useA := [fld w 23 22, fld w 21 20] }
      (fun x => accumulate 1 (fld w 23 22) ((aReg x (fld w 21 20)).toInt, false) x) (atIssue s k))) ∧
  (∀ (s : State) (k : Fin 8) (w : Word), Stands s k w → isAcc 2 w = true →
    exec (.mva k w) s = .next (retireS k.val { useA := [fld w 23 22] } (fun x => { setD (fld w 19 16) (narrow32 (bit x.sr srSAT) (roundAway (((aReg x (fld w 23 22)).toInt : Rat) / ((2 ^ fld w 5 0 : Nat) : Rat)))).1 x with sr := if (narrow32 (bit x.sr srSAT) (roundAway (((aReg x (fld w 23 22)).toInt : Rat) / ((2 ^ fld w 5 0 : Nat) : Rat)))).2 then putBit x.sr srV true else x.sr }) (atIssue s k))) ∧
  (∀ (s : State) (k : Fin 8) (w : Word), Stands s k w → isAcc 3 w = true →
    exec (.cwpk k w) s = .next (retireS k.val { useA := [fld w 23 22] } (fun x => { setD (fld w 19 16) (toCoef (((aReg x (fld w 23 22)).toInt : Rat) / ((2 ^ fld w 5 0 : Nat) : Rat))).1 x with sr := if (toCoef (((aReg x (fld w 23 22)).toInt : Rat) / ((2 ^ fld w 5 0 : Nat) : Rat))).2 then putBit x.sr srV true else x.sr }) (atIssue s k))) ∧
  (∀ (s : State) (k : Fin 8) (w : Word), Stands s k w → isAcc 4 w = true →
    exec (.cwup k w) s = .next (retireS k.val { accs := [fld w 23 22] } (fun x => { setA (fld w 23 22) (sat72 (roundAway (coefVal (dReg x (fld w 19 16)) * ((2 ^ fld w 5 0 : Nat) : Rat)))).1 x with sr := if (sat72 (roundAway (coefVal (dReg x (fld w 19 16)) * ((2 ^ fld w 5 0 : Nat) : Rat)))).2 then putBit x.sr srAV true else x.sr }) (atIssue s k)))

/-- Local and external loads and stores of a core, and SYNC. A local load of an allowed address reads one word or a pair, which reach D after the next
instruction, and steps the pointer; from program memory it takes 2 cycles. A local store writes the word or pair and steps the pointer; to program
memory it faults with 0x91. An external load makes the core wait; its return writes D and counts the cycles, and a denied one returns 0. An external
store is posted while the buffer has room. SYNC retires with the buffer empty and waits a cycle otherwise. (R341, R342, R345, R348, R356, R357;
derived) -/
def Obligations.CoreLoadsAndStores : Prop :=
  (∀ (s s1 : State) (k : Fin 8) (w : Word) (v : List Word), Stands s k w → cls w = 3 → bit w 27 = false → localAllowed (fun _ => true) (coreAt s k) w →
    (localSpace (class3Addr (coreAt s k) w).1 = some .pm → (coreAt s k).iter = none) →
    readLocal k.val (class3Addr (coreAt s k) w).1 (postMod (coreAt s k) (fld w 25 23) (class3Addr (coreAt s k) w).1 4) (bit w 26) (atIssue s k) = (s1, some v) →
    exec (.localLoad k w) s = .next (retireS k.val { cycles := if localSpace (class3Addr (coreAt s k) w).1 = some .pm then 2 else 1, loads := if bit w 26 then [(fld w 19 16, v.getD 0 0), ((fld w 19 16 + 1) % 16, v.getD 1 0)] else [(fld w 19 16, v.getD 0 0)], useP := [fld w 25 23] }
      (setAp (fld w 25 23) (class3Addr (coreAt s k) w).2) s1)) ∧
  (∀ (s : State) (k : Fin 8) (w : Word), Stands s k w → cls w = 3 → bit w 27 = true → localAllowed (· != .pm) (coreAt s k) w →
    exec (.localStore k w) s = .next (retireS k.val { useP := [fld w 25 23] } (setAp (fld w 25 23) (class3Addr (coreAt s k) w).2)
      ((if bit w 26 then writeMem32 .core (k.val * 0x20000 + (postMod (coreAt s k) (fld w 25 23) (class3Addr (coreAt s k) w).1 4).toNat) (dReg (coreAt s k) ((fld w 19 16 + 1) % 16)) else id)
        (writeMem32 .core (k.val * 0x20000 + (class3Addr (coreAt s k) w).1.toNat) (dReg (coreAt s k) (fld w 19 16)) (atIssue s k))))) ∧
  (∀ (s : State) (k : Fin 8) (w : Word), Stands s k w → cls w = 3 → bit w 27 = true → localSpace (class3Addr (coreAt s k) w).1 = some .pm →
    exec (.localStore k w) s = .next (coreFault k.val 0x91 (atIssue s k))) ∧
  (∀ (s : State) (k : Fin 8) (w : Word) (off : Nat), Stands s k w → cls w = 4 → bit w 27 = false → extOff (coreAt s k) w = some off →
    exec (.externalLoad k w) s = .next (onChip (modCore k.val (fun x => { x with wait := .load (fld w 19 16) off (atIssue s k).chip.clk.now })) (atIssue s k))) ∧
  (∀ (s : State) (k : Fin 8) (w : Word) (off : Nat), Stands s k w → cls w = 4 → bit w 27 = true → extOff (coreAt s k) w = some off → (coreAt s k).stores.length < 8 →
    exec (.externalStore k w) s = .next (retireS k.val {} (fun x => { x with stores := x.stores ++ [(off, dReg x (fld w 19 16))] }) (atIssue s k))) ∧
  (∀ (s s2 : State) (k : Fin 8) (d off since : Nat) (v : Word), mainRuns s.chip = true → (core s.chip k.val).wait = .load d off since → (core s.chip k.val).stores = [] →
    fabricUp s.chip (.core k) = true → readWindow (.core k) off s = (s2, .ok v) →
    exec (.externalLoadReturn k false) s = .next (retireS k.val { cycles := loadCycles since s.chip.clk.now } (fun x => setD d v { x with wait := .none }) s2)) ∧
  (∀ (s : State) (k : Fin 8) (d off since : Nat), mainRuns s.chip = true → (core s.chip k.val).wait = .load d off since → (core s.chip k.val).stores = [] →
    fabricUp s.chip (.core k) = true → bit (rd s.chip (fcoPage k.val) 0x040) 0 = false →
    exec (.externalLoadReturn k true) s = .next (retireS k.val { cycles := loadCycles since s.chip.clk.now } (fun x => setD d 0 { x with wait := .none }) (coreRefused k.val true off s))) ∧
  (∀ (s : State) (k : Fin 8) (w : Word), Stands s k w → cls w = 9 → fld w 27 24 = 4 → (coreAt s k).stores = [] →
    exec (.sync k w) s = .next (retireS k.val {} id (atIssue s k))) ∧
  (∀ (s : State) (k : Fin 8) (w : Word), Stands s k w → cls w = 9 → fld w 27 24 = 4 → (coreAt s k).stores ≠ [] →
    exec (.sync k w) s = .next (onChip (modCore k.val (fun x => { x with cycles := (x.cycles + 1) % 2 ^ 64 })) (atIssue s k)))

/-- Branches, calls, returns, loops, ITER, RTI and interrupt entry of a core. A taken branch takes 3 cycles and goes to its target, an untaken one goes
on; CALL keeps the next address in LK and RET goes there. LOOP with a count of 1 to 65535 opens the next level with its first and last addresses, and
a fourth level or a greater count faults with 0x92. ITER with 1 to 1024 repeats the next word, with 0 skips it. RTI restores PC from XPC and SR from
XSR, and keeps the sticky bits of SR set. COREINTERRUPT entry, with IE set and an enabled cause, saves PC and SR there, clears IE, sets INIRQ and goes to the entry. A word that ends no
loop advances PC by 4. (R351, R352, R353, R354; derived) -/
def Obligations.CoreFlowLoopsAndInterrupts : Prop :=
  (∀ (s : State) (k : Fin 8) (w : Word), Stands s k w → cls w = 5 → bit w 23 = false → bit w 22 = false → branchTaken (coreAt s k).sr (fld w 27 24) = true →
    exec (.branch k w) s = .next (retireS k.val { cycles := 3, jump := some ((coreAt s k).pc + Config.branchOrigin + BitVec.ofInt 16 (4 * signed 16 (fld w 15 0))) } id (atIssue s k))) ∧
  (∀ (s : State) (k : Fin 8) (w : Word), Stands s k w → cls w = 5 → bit w 23 = false → bit w 22 = false → branchTaken (coreAt s k).sr (fld w 27 24) = false →
    exec (.branch k w) s = .next (retireS k.val {} id (atIssue s k))) ∧
  (∀ (s : State) (k : Fin 8) (w : Word), Stands s k w → cls w = 5 → bit w 23 = true → bit w 22 = false → branchTaken (coreAt s k).sr (fld w 27 24) = true →
    exec (.call k w) s = .next (retireS k.val { cycles := 3, jump := some ((coreAt s k).pc + Config.branchOrigin + BitVec.ofInt 16 (4 * signed 16 (fld w 15 0))) }
      (fun x => { x with lk := (coreAt s k).pc + 4 }) (atIssue s k))) ∧
  (∀ (s : State) (k : Fin 8) (w : Word), Stands s k w → cls w = 5 → bit w 23 = false → bit w 22 = true → branchTaken (coreAt s k).sr (fld w 27 24) = true →
    exec (.ret k w) s = .next (retireS k.val { cycles := 3, jump := some (coreAt s k).lk } id (atIssue s k))) ∧
  (∀ (s : State) (k : Fin 8) (w : Word) (last : BitVec 16), Stands s k w → cls w = 6 → bit w 27 = false → (coreAt s k).depth < 3 →
    1 ≤ loopCount (coreAt s k) w → loopCount (coreAt s k) w ≤ 65535 → last = (coreAt s k).pc + Config.branchOrigin + BitVec.ofNat 16 (4 * fld w 15 0) →
    exec (.loopStart k w) s = .next (retireS k.val {} id (onChip (modCore k.val (fun x => { x with loopCnt := tabSet 0 x.loopCnt x.depth (BitVec.ofNat 16 (loopCount (coreAt s k) w)), loopTop := tabSet 0 x.loopTop x.depth (x.pc + 4), loopEnd := tabSet 0 x.loopEnd x.depth last, loopItn := tabSet 0 x.loopItn x.depth 0, lvlActive := x.lvlActive ||| (1#3 <<< x.depth), depth := x.depth + 1, capture := if (last - x.pc).toNat / 4 ≤ 16 then some (x.pc + 4) else none })) (atIssue s k)))) ∧
  (∀ (s : State) (k : Fin 8) (w : Word), Stands s k w → cls w = 6 → bit w 27 = false → (3 ≤ (coreAt s k).depth ∨ 65535 < loopCount (coreAt s k) w) →
    exec (.loopStart k w) s = .next (coreFault k.val 0x92 (atIssue s k))) ∧
  (∀ (s : State) (k : Fin 8) (w : Word), Stands s k w → cls w = 6 → bit w 27 = true → 1 ≤ loopCount (coreAt s k) w → loopCount (coreAt s k) w ≤ 1024 →
    exec (.iterStart k w) s = .next (onChip (modCore k.val (fun x => { x with iter := some (loopCount (coreAt s k) w), itn := 0 })) (retireS k.val {} id (atIssue s k)))) ∧
  (∀ (s : State) (k : Fin 8) (w : Word), Stands s k w → cls w = 6 → bit w 27 = true → loopCount (coreAt s k) w = 0 →
    exec (.iterStart k w) s = .next (retireS k.val {} (fun x => { x with pc := x.pc + 4 }) (atIssue s k))) ∧
  (∀ (s : State) (k : Fin 8) (w : Word), Stands s k w → cls w = 9 → fld w 27 24 = 6 →
    exec (.rti k w) s = .next (onChip (modCore k.val (fun x => { commitLoads x with pc := (commitLoads x).xpc, sr := (commitLoads x).xsr ||| ((commitLoads x).sr &&& srSticky), cache := none, capture := none, cycles := ((commitLoads x).cycles + 1) % 2 ^ 64, wroteA := [], wrotePtr := [], bpAt := none, stepping := false })) (atIssue s k))) ∧
  (∀ (s : State) (k : Fin 8), (hdr s.chip (fcoPage k.val)).state = .run → clkLost s.chip .sys = false → (core s.chip k.val).halted = false → bit (core s.chip k.val).sr srIE = true →
    (core s.chip k.val).iter = none → (∀ d off t, (core s.chip k.val).wait ≠ .load d off t) → (core s.chip k.val).cause.setWidth 8 &&& (core s.chip k.val).ien ≠ 0 →
    exec (.coreInterruptEntry k) s = .next (onChip (modCore k.val (fun x => { x with xpc := x.pc, xsr := srRead x, sr := putBit (putBit x.sr srIE false) srINIRQ true, pc := x.irqEntry, wait := .none, cycles := (x.cycles + 12) % 2 ^ 64 })) s)) ∧
  (∀ (x : CoreSt) (t : Trail), t.jump = none → x.iter = none → x.depth = 0 →
    (finishCore t x).pc = x.pc + 4 ∧ (finishCore t x).cycles = (x.cycles + t.cycles + stalls x t.useP t.useA) % 2 ^ 64 ∧ (finishCore t x).loads = t.loads)

/-- NEXT, DONE, FAIL, YIELD and HEVT of a core, its watchdog and its doorbell. NEXT takes the assigned item, waits when there is none, and answers Z after
a withdrawal. DONE and FAIL end the running item with the payload of ITEM4 to ITEM7, FAIL with its detail, count it and resume the nested one. YIELD
gives the item back. HEVT raises its vector where FCO_HEVT allows it and is dropped with DENY and its cause below 45. ITEM_WATCHDOG past the limit
faults the core with 0x93. FCO_DOORBELL with bit 0 rings the core. (R355, R359, R362, R376; derived) -/
def Obligations.CoreItemsEventsAndWatchdog : Prop :=
  (∀ (s : State) (k : Fin 8) (w : Word) (i : Nat), Stands s k w → cls w = 9 → fld w 27 24 = 0 → (coreAt s k).assigned = some i →
    exec (.next k w) s = .next (retireS k.val {} (fun x => { x with noOffer := false }) (onChip (takeItem k.val i) (atIssue s k)))) ∧
  (∀ (s : State) (k : Fin 8) (w : Word), Stands s k w → cls w = 9 → fld w 27 24 = 0 → (coreAt s k).assigned = none → (coreAt s k).offer = none → (coreAt s k).withdrawn = false →
    exec (.next k w) s = .next (onChip (modCore k.val (fun x => { x with wait := .next, noOffer := false })) (atIssue s k))) ∧
  (∀ (s : State) (k : Fin 8) (w : Word), Stands s k w → cls w = 9 → fld w 27 24 = 0 → (coreAt s k).assigned = none → (coreAt s k).offer = none → (coreAt s k).withdrawn = true →
    exec (.next k w) s = .next (retireS k.val {} (fun x => { x with withdrawn := false, noOffer := false, sr := putBit x.sr srZ true }) (atIssue s k))) ∧
  (∀ (s : State) (k : Fin 8) (w : Word) (i : Nat) (l : List Nat), Stands s k w → cls w = 9 → fld w 27 24 = 1 → (coreAt s k).nest = i :: l →
    exec (.done k w) s = .next (retireS k.val {} id (onChip (fun c => resumeTop k.val (wr (fcoPage k.val) 0x068 (rd c (fcoPage k.val) 0x068 + 1) c))
      (endItem i 0 0 [itemReg (coreAt s k) 4, itemReg (coreAt s k) 5, itemReg (coreAt s k) 6, itemReg (coreAt s k) 7] (atIssue s k))))) ∧
  (∀ (s : State) (k : Fin 8) (w : Word) (i : Nat) (l : List Nat), Stands s k w → cls w = 9 → fld w 27 24 = 2 → (coreAt s k).nest = i :: l →
    exec (.fail k w) s = .next (retireS k.val {} id (onChip (fun c => resumeTop k.val (wr (fcoPage k.val) 0x068 (rd c (fcoPage k.val) 0x068 + 1) c))
      (endItem i 3 (fld (dReg (coreAt s k) (Config.failReg (w.extractLsb' 0 24)).val) 15 0)
        [itemReg (coreAt s k) 4, itemReg (coreAt s k) 5, itemReg (coreAt s k) 6, itemReg (coreAt s k) 7] (atIssue s k))))) ∧
  (∀ (s : State) (k : Fin 8) (w : Word), Stands s k w → cls w = 9 → fld w 27 24 = 3 →
    exec (.yield k w) s = .next (retireS k.val {} id (onChip (yieldTop k.val) (atIssue s k)))) ∧
  (∀ (s : State) (k : Fin 8) (w : Word), Stands s k w → cls w = 9 → fld w 27 24 = 5 → 45 ≤ (Config.hevtVector (w.extractLsb' 0 24)).val →
    bit (rd (atIssue s k).chip (fcoPage k.val) 0x054) ((Config.hevtVector (w.extractLsb' 0 24)).val - 45) = true →
    exec (.hevt k w) s = .next (retireS k.val {} id (onChip (raiseVector (Config.hevtVector (w.extractLsb' 0 24)).val) (atIssue s k)))) ∧
  (∀ (s : State) (k : Fin 8) (w : Word), Stands s k w → cls w = 9 → fld w 27 24 = 5 → (Config.hevtVector (w.extractLsb' 0 24)).val < 45 →
    exec (.hevt k w) s = .next (retireS k.val {} (fun x => { x with sr := putBit x.sr srDENY true }) (onChip (raise (fcoPage k.val) 11) (atIssue s k)))) ∧
  (∀ (s : State) (k : Fin 8) (i : Nat) (l : List Nat) (it : ItemSt), (core s.chip k.val).nest = i :: l → slotOf s.chip i = some it → rdF s.chip (fcoPage k.val) 0x050 15 0 ≠ 0 →
    (core s.chip k.val).halted = false → clkLost s.chip .sys = false → rdF s.chip (fcoPage k.val) 0x050 15 0 * 1000 ≤ it.ran + (s.chip.clk.now - it.since) →
    exec (.itemWatchdog k) s = .next (coreFault k.val 0x93 s)) ∧
  (∀ (s : State) (path : Path) (k : Fin 8) (v : Word), CanWrite s path (.fco k) → v &&& 1 = v →
    exec (.fcoDoorbell path k v) s = .next (onChip (fun c => taken path (.fco k) 0x05C (if bit v 0 then doorbell k.val c else c)) s))

/-- Submissions, dispatcher cycles, delays, offers, cancels, flows and drains. A submission that passes the checks with room is admitted and its result
and ID are held for the path; without room it is answered full, raised and counted. DISPATCHER_CYCLE advances the ticks, expires delays, carries out
cancels, then chooses. DELAY_EXPIRY, PRE_LATE, AFFINITY_TIMEOUT and STARVED act when due. DSP_CANCEL and DSP_CANCEL_FLOW are queued for the next
cycle; DSP_FLOW_CFG sets the selected flow; DSP_CQ_HEAD within the posted entries frees them; DRAIN takes its mask and DRAINED and DRAIN_TIMEOUT raise
their causes. (R366, R367, R369, R371, R372, R375, R377, R378, R379, R380; derived) -/
def Obligations.DispatcherCommands : Prop :=
  (∀ (s : State) (path : Path) (v : Word), CanWrite s path .dsp → Submits (withSub7 path v s.chip) path → Room (withSub7 path v s.chip) path →
    exec (.submit path v) s = .next (onChip (fun c => taken path .dsp 0x09C (heldSet path (pageBase .dsp + 0x0A4) (submitted (withSub7 path v c) path).2
      (heldSet path (pageBase .dsp + 0x0A0) 1 (submitted (withSub7 path v c) path).1))) s)) ∧
  (∀ (s : State) (path : Path) (v : Word), CanWrite s path .dsp → Submits (withSub7 path v s.chip) path → ¬ Room (withSub7 path v s.chip) path →
    exec (.submit path v) s = .next (onChip (fun c => taken path .dsp 0x09C (heldSet path (pageBase .dsp + 0x0A0) 2
      (raise .dsp 9 { withSub7 path v c with dsp := { c.dsp with full := min 65535 (c.dsp.full + 1) } }))) s)) ∧
  (∀ (s : State), mainRuns s.chip = true → isUp s.chip .dsp = true → (hdr s.chip .dsp).spliceReq = false → s.chip.dsp.halted = false →
    exec .dispatcherCycle s = .next (onChip chooseAll (doCancels (onChip (fun c => expireAll (advanceTicks c)) s)))) ∧
  (∀ (s : State) (i : Fin 16384) (it : ItemSt), dspActive s.chip = true → slotOf s.chip i.val = some it → it.state = .delayed → it.yielded = false →
    dueReached s.chip.dsp.ticks it.due = true → exec (.delayExpiry i) s = .next (onChip (enqueue i.val) s)) ∧
  (∀ (s : State) (k : Fin 8), dspActive s.chip = true → (core s.chip k.val).offer.isSome = true →
    (core s.chip k.val).offerSince + actF s.chip .dsp 0x04C 31 16 ≤ s.chip.clk.now →
    exec (.preLate k) s = .next (onChip (fun c => raise .dsp 12 (modCore k.val (fun x => { x with noOffer := true }) (withdrawOffer k.val c))) s)) ∧
  (∀ (s : State) (i : Fin 16384) (it : ItemSt), dspActive s.chip = true → slotOf s.chip i.val = some it → it.state = .ready →
    it.readySince + actF s.chip .dsp 0x04C 15 0 ≤ s.chip.clk.now → exec (.affinityTimeout i) s = .next (onChip (chooseFor it.flow) s)) ∧
  (∀ (s : State) (i : Fin 16384) (it : ItemSt), dspActive s.chip = true → slotOf s.chip i.val = some it → it.state = .ready →
    actF s.chip .dsp 0x050 15 0 ≠ 0 → it.readySince + actF s.chip .dsp 0x050 15 0 * 1000 ≤ s.chip.clk.now →
    exec (.starved i) s = .next (onChip (raise .dsp 11) (endItem i.val 4 0x98 [] s))) ∧
  (∀ (s : State) (path : Path) (v : Word), CanWrite s path .dsp →
    exec (.dspCancel path v) s = .next (onChip (fun c => taken path .dsp 0x0A8 { c with dsp := { c.dsp with cancels := c.dsp.cancels ++ [(pathCode path, false, v.toNat)] } }) s)) ∧
  (∀ (s : State) (path : Path) (v : Word), CanWrite s path .dsp → v &&& 0xFFF = v →
    exec (.dspCancelFlow path v) s = .next (onChip (fun c => taken path .dsp 0x0AC { c with dsp := { c.dsp with cancels := c.dsp.cancels ++ [(pathCode path, true, fld v 11 0)] } }) s)) ∧
  (∀ (s : State) (path : Path) (v : Word), CanWrite s path .dsp → v &&& 0xFF71 = v → bit v 0 = true →
    exec (.dspFlowCfg path v) s = .next (onChip (fun c => taken path .dsp 0x0D4 (setFlow (flowSel c path) { flow c (flowSel c path) with en := true, prio := fld v 6 4, mask := BitVec.ofNat 8 (fld v 15 8) } c)) s)) ∧
  (∀ (s : State) (path : Path) (v : Word), CanWrite s path .dsp → v &&& 0xFFF = v → v.toNat < rdF s.chip .dsp 0x0C4 12 0 →
    (v.toNat + rdF s.chip .dsp 0x0C4 12 0 - s.chip.dsp.cqHead) % rdF s.chip .dsp 0x0C4 12 0 ≤ s.chip.dsp.cqPosted →
    exec (.dspCqHead path v) s = .next (onChip (fun c => taken path .dsp 0x0C8 { c with dsp := { c.dsp with cqHead := v.toNat, cqPosted := c.dsp.cqPosted - (v.toNat + rdF c .dsp 0x0C4 12 0 - c.dsp.cqHead) % rdF c .dsp 0x0C4 12 0 } }) s)) ∧
  (∀ (s : State) (path : Path) (v : Word), CanWrite s path .dsp → v &&& 0xFF = v →
    exec (.drain path v) s = .next (onChip (fun c => taken path .dsp 0x040 (drainWrite v c)) s)) ∧
  (∀ (s : State) (k : Fin 8), clkLost s.chip .sys = false → draining s.chip k.val = true → coreEmpty s.chip k.val = true → bit s.chip.dsp.drained k.val = false →
    exec (.drained k) s = .next (onChip (fun c => raise .dsp 13 { c with dsp := { c.dsp with drained := c.dsp.drained ||| (1#8 <<< k.val) } }) s)) ∧
  (∀ (s : State) (k : Fin 8), clkLost s.chip .sys = false → draining s.chip k.val = true → coreEmpty s.chip k.val = false → tabGet 0 s.chip.dsp.drainSince k.val ≠ 0 →
    tabGet 0 s.chip.dsp.drainSince k.val - 1 + actF s.chip .dsp 0x050 31 16 * 1000 ≤ s.chip.clk.now →
    exec (.drainTimeout k) s = .next (onChip (drainedEvent k.val) (abortCoreItems k.val 0x99 s)))

/-- What an item’s queueing, its end, a cancel and the ticks do. An item enqueued in an empty flow becomes its head, READY, with the flow’s priority, and
the flow goes to the end of the ready list of that priority; in a flow with a head it goes to the end of the flow’s queue. The end of an item that
reports nothing counts in its flow and frees the slot. A cancel of a free slot answers 2. Ticks advance by the cycles that came over the tick length.
(R370, R371, R376, R377; derived) -/
def Obligations.ItemQueuesEndsAndTicks : Prop :=
  (∀ (c : Chip) (i : Nat) (it : ItemSt), slotOf c i = some it → it.words ≠ [] → (flow c it.flow).head = none → (flow c it.flow).queue = [] →
    (flow (enqueue i c) it.flow).head = some i ∧ readyList (enqueue i c) (flow c it.flow).prio = readyList c (flow c it.flow).prio ++ [it.flow] ∧
    slotOf (enqueue i c) i = some { it with state := .ready, readySince := c.clk.now, prio := (flow c it.flow).prio }) ∧
  (∀ (c : Chip) (i j : Nat) (it : ItemSt), slotOf c i = some it → (flow c it.flow).head = some j →
    flow (enqueue i c) it.flow = { flow c it.flow with queue := (flow c it.flow).queue ++ [i] }) ∧
  (∀ (s : State) (i status detail : Nat) (l : List Word) (it : ItemSt), slotOf s.chip i = some it → it.report = false →
    endItem i status detail l s = onChip (fun c => dropItem i it (countEnd it.flow status detail c)) s) ∧
  (∀ (s : State) (path v : Nat), slotOf s.chip (v % 16384) = none → doCancel path false v s = onChip (setCancelRes path 2) s) ∧
  (∀ (c : Chip), (advanceTicks c).dsp.ticks = c.dsp.ticks + BitVec.ofNat 32 ((c.dsp.sub + 8) / max 1 (actF c .dsp 0x044 16 0)))

/-- The trace coil takes records, its pointers and size are written, and timers, hold-off and calibration end. COIL_WRITE puts the oldest staged record in
the coil when it is ready and the record fits; at the coil’s end it first writes the WRAP record. A read pointer within the used span is stored, one
outside the coil raises its cause. A size written while STOPPED applies at once with both pointers 0; one of 64 KiB to 1 GiB written otherwise is held. TRC_FORCE, TRC_MARK, the
sequencer’s timers and HOLDOFF_END take effect. TRC_CAL_START in STOPPED enters CAL and TRC_CAL_DONE, 1 ms after the knot, ends it and raises the
cause. (R384, R386, R387, R388, R391, R392, R394; derived) -/
def Obligations.TraceCoilSequencerAndCalibration : Prop :=
  (∀ (s : State) (r : TrcRec) (l : List TrcRec), mainRuns s.chip = true → s.chip.trc.staged = r :: l → coilReady s.chip = true →
    s.chip.trc.wp + recBytes r < s.chip.trc.size → coilUsed s.chip.trc + recBytes r + 8 ≤ s.chip.trc.size →
    exec .coilWrite s = .next (coilPut r (onChip (modTrc (fun t => { t with staged := l })) s))) ∧
  (∀ (s : State) (r : TrcRec) (l : List TrcRec), mainRuns s.chip = true → s.chip.trc.staged = r :: l → coilReady s.chip = true →
    s.chip.trc.size < s.chip.trc.wp + recBytes r → s.chip.trc.wp < s.chip.trc.size →
    coilUsed s.chip.trc + (s.chip.trc.size - s.chip.trc.wp) + recBytes r + 8 ≤ s.chip.trc.size →
    exec .coilWrite s = .next (coilPut r (coilWrap (coilBytes s.chip.trc.wp
      (toBytes 4 (5 + (s.chip.trc.size - s.chip.trc.wp) / 8 * 256) ++ List.replicate (s.chip.trc.size - s.chip.trc.wp - 4) 0)
      (onChip (modTrc (fun t => { t with staged := l })) s))))) ∧
  (∀ (s : State) (path : Path) (v : Word), CanWrite s path .trc → v &&& 0x3FFFFFF8 = v → v.toNat < s.chip.trc.size →
    (v.toNat + s.chip.trc.size - s.chip.trc.rp) % s.chip.trc.size ≤ coilUsed s.chip.trc →
    ∃ t, exec (.trcRpWrite path v) s = .next t ∧ t.chip.trc.rp = v.toNat ∧ t.chip.trc.wp = s.chip.trc.wp ∧ t.mem = s.mem) ∧
  (∀ (s : State) (path : Path) (v : Word), CanWrite s path .trc → v &&& 0x3FFFFFF8 = v → s.chip.trc.size ≤ v.toNat → s.chip.trc.rp ≠ v.toNat →
    exec (.trcRpWrite path v) s = .next (onChip (fun c => ended path .trc 0x058 (raise .trc 11 c)) s)) ∧
  (∀ (s : State) (path : Path) (v : Word), CanWrite s path .trc → v &&& 0x7FFFF000 = v → s.chip.trc.state = .stopped →
    exec (.trcCoilSizeWrite path v) s = .next (onChip (fun c => taken path .trc 0x050 (wr .trc 0x050 (BitVec.ofNat 32 v.toNat)
      (modTrc (fun t => { t with size := v.toNat, resize := none, wp := 0, rp := 0, unread := [], wmarkHigh := false }) c))) s)) ∧
  (∀ (s : State) (path : Path) (v : Word), CanWrite s path .trc → v &&& 0x7FFFF000 = v → s.chip.trc.state ≠ .stopped → 65536 ≤ v.toNat → v.toNat ≤ 2 ^ 30 →
    exec (.trcCoilSizeWrite path v) s = .next (onChip (fun c => taken path .trc 0x050 (modTrc (fun t => { t with resize := some v.toNat }) c)) s)) ∧
  (∀ (s : State) (path : Path) (v : Word), CanWrite s path .trc → v &&& 1 = v →
    exec (.trcForce path v) s = .next (onChip (fun c => taken path .trc 0x068 (if bit v 0 then modTrc (fun t => { t with forced := true }) c else c)) s)) ∧
  (∀ (s : State) (path : Path) (v : Word), CanWrite s path .trc → v &&& 0xFFFF = v →
    exec (.trcMark path v) s = .next (onChip (fun c => taken path .trc 0x06C (trcMarkRec 3 0 0 (BitVec.ofNat 16 (fld v 15 0)) (nsStamp (timeNs c)) c)) s)) ∧
  (∀ (s : State) (i : Fin 2), mainRuns s.chip = true → tabGet 0 s.chip.trc.timers i.val ≠ 0 →
    tabGet 0 s.chip.trc.timers i.val - 1 + actF s.chip .trc (0x0B0 + 4 * i.val) 23 0 * 1000 ≤ s.chip.clk.now →
    exec (.sequencerTimer i) s = .next (onChip (modTrc (fun x => { x with timerExp := x.timerExp ||| (1#2 <<< i.val) })) s)) ∧
  (∀ (s : State) (t : Nat), mainRuns s.chip = true → s.chip.trc.holdoff = some t → t ≤ s.chip.clk.now →
    exec .holdoffEnd s = .next (onChip (fun c => seqEnter 0 (modTrc (fun t => { t with holdoff := none }) c)) s)) ∧
  (∀ (s : State) (path : Path) (v : Word), CanWrite s path .trc → v &&& 0x1F01 = v → bit v 0 = true → s.chip.trc.state = .stopped → fld v 12 8 ≠ 0 → isUp s.chip .trc = true →
    exec (.trcCalStart path v) s = .next (onChip (fun c => taken path .trc 0x090 (modTrc (fun t => { t with state := .cal, cal := some { knot := fld v 12 8 } }) c)) s)) ∧
  (∀ (s : State) (cal : TrcCal) (t0 : Nat), mainRuns s.chip = true → s.chip.trc.cal = some cal → cal.fired = some t0 → t0 + 1000000 ≤ s.chip.clk.now →
    ∃ t, exec .trcCalDone s = .next t ∧ t.chip.trc.cal = none ∧ t.chip.trc.state = .stopped ∧ bit (hdr t.chip .trc).evt 14 = true)

/-- Field inputs, schedules, over-current, silence and the field supply. FIELD_INPUT_EDGE held for the filter changes the input level and sends the
enabled event. SCHEDULE_EXECUTE acts on the earliest entry of the pin when due, SCHEDULE_PULSE_END ends its pulse. SHORT switches off that pin alone.
GROUP_OVER switches the group off, clears its enable and latches 0xB3. FIELD_SILENCE, when due, clears the groups and holds the silence state;
SIL2_EXPIRY switches a pin off. VFIELD_SAMPLE above 16.5 V is taken in; below 12 V the field die loses its supply with outputs off and STO on.
FIELD_POWER_UP starts field die and belay. (R398, R400, R401, R402, R407, R409, R411; derived) -/
def Obligations.FieldPinsAndSupply : Prop :=
  (∀ (s : State) (p : Fin 64) (level : Bool) (held : Nat), fieldRuns s.chip = true → s.chip.field.invalid = false → isOut s.chip.field p.val = false →
    fld (pinCfg s.chip.field p.val) 31 16 * 1000 ≤ held → bit s.chip.field.inLevel p.val ≠ level →
    exec (.fieldInputEdge p level held) s = .next (onChip (fun c => { c with field := (if bit (pinCfg c.field p.val) (if level then 6 else 7) then pushEvent { kind := if level then 1 else 2, pin := p, time := nsStamp (timeNs c - held - 290) } else id) { c.field with inLevel := put64 c.field.inLevel p.val level } }) s)) ∧
  (∀ (s : State) (p : Fin 64) (x : Sched) (l : List Sched), fieldRuns s.chip = true →
    (s.chip.field.table.filter (fun x => x.entry.pin.val = p.val)).mergeSort schedBefore = x :: l → stampNs x.entry.time ≤ timeNs s.chip + 1500 →
    exec (.scheduleExecute p) s = .next (onChip (fun c => { c with field := schedEvent 3 0 x.entry (timeNs c) (schedAct x.entry (stampNs x.entry.time) { c.field with table := c.field.table.filter (fun y => y != x), done := (x.entry.tag :: c.field.done).take 256 }) }) s)) ∧
  (∀ (s : State) (p : Fin 64), fieldRuns s.chip = true → tabGet 0 s.chip.field.offAt p.val ≠ 0 → tabGet 0 s.chip.field.offAt p.val ≤ timeNs s.chip + 1500 →
    exec (.schedulePulseEnd p) s = .next (onChip (fun c => { c with field := refreshPin p.val { c.field with offAt := tabSet 0 c.field.offAt p.val 0, schedLevel := put64 c.field.schedLevel p.val false } }) s)) ∧
  (∀ (s : State) (p : Fin 64), fieldRuns s.chip = true → bit s.chip.field.driven p.val = true →
    ∃ t, exec (.short p) s = .next t ∧ bit t.chip.field.short p.val = true ∧ bit t.chip.field.driven p.val = false ∧
      (∀ q, q ≠ p.val → bit t.chip.field.driven q = bit s.chip.field.driven q) ∧ t.mem = s.mem) ∧
  (∀ (s : State) (g : Fin 8), fieldRuns s.chip = true → bit s.chip.field.groups g.val = true →
    exec (.groupOver g) s = .next (onChip (fun c => raise .fld 14 (latchFault .fld 0xB3 (clearGroupEn (1#8 <<< g.val)
      { c with field := groupOff g.val c.field, fld := { c.fld with groupOver := c.fld.groupOver ||| (1#8 <<< g.val) } }))) s)) ∧
  (∀ (s : State), fieldRuns s.chip = true → s.chip.field.silence = false → s.chip.field.lastIntact + s.chip.field.silF * 1000 ≤ s.chip.clk.now →
    exec .fieldSilence s = .next (onChip (fun c => clearGroupEn 0xFF { c with field := fieldSilence c.clk.now c.field }) s)) ∧
  (∀ (f : FieldDie) (now : Nat), (fieldSilence now f).silence = true ∧ (fieldSilence now f).groups = 0 ∧ (fieldSilence now f).silHold = 0xFF ∧ (fieldSilence now f).silenceAt = now) ∧
  (∀ (s : State) (p : Fin 64), fieldRuns s.chip = true → isOut s.chip.field p.val = true → fld (pinCfg s.chip.field p.val) 5 4 = 3 →
    bit s.chip.field.silHold (p.val / 8) = true → s.chip.field.silenceAt + s.chip.field.sil2 * 1000000 ≤ s.chip.clk.now →
    exec (.sil2Expiry p) s = .next (onChip (fun c => { c with field := { c.field with driven := put64 c.field.driven p.val false } }) s)) ∧
  (∀ (s : State) (mV : BitVec 16), 16500 < mV.toNat →
    exec (.vfieldSample mV) s = .next (onChip (fun c => { c with field := { c.field with vfield := mV, warn := if mV.toNat < 19200 then true else if 19700 < mV.toNat then false else c.field.warn, uvlo := false, invalid := false } }) s)) ∧
  (∀ (s : State) (mV : BitVec 16), mV.toNat < 12000 →
    ∃ t, exec (.vfieldSample mV) s = .next t ∧ t.chip.field.powered = false ∧ t.chip.field.driven = 0 ∧ t.chip.field.groups = 0 ∧
      t.chip.field.uvlo = true ∧ t.chip.field.invalid = true ∧ t.chip.bly.sto = 0xFFFF ∧ t.chip.bly.sout = 0 ∧ t.mem = s.mem) ∧
  (∀ (s : State), s.chip.field.powered = false →
    exec .fieldPowerUp s = .next (onChip (fun c => { c with field := fieldPowerUp c.clk.now c.field, bly := blyStart c.bly }) s))

/-- Tether frames are formed, taken in, found bad and missed, and configuration goes by them. TETHER_FRAME_TX sends the next frame of its direction, whose
sequence, acknowledge, levels, events and status are those that stand. A frame that is not intact only counts; while a resync is awaited, an intact
one without it only marks the line alive; a resync without slots clears what the field die holds and takes sequence and levels. An intact uplink frame
is taken in. TETHER_SILENT marks the tether SILENT, invalidates the inputs, drops the schedules, counts, and latches 0xB0. A FLD or BLY configuration
write, a short clear and a group enable go to the next frame’s slot, and the over-current bits they re-enable are cleared. (R403, R404, R405, R408,
R410, R413; derived) -/
def Obligations.TetherFrames : Prop :=
  (∀ (s : State), fieldRuns s.chip = true → exec (.tetherFrameTx true) s = .next (onChip uplinkTx s)) ∧
  (∀ (s : State), clkLost s.chip .sys = false → s.chip.pwr.state ≠ .save → exec (.tetherFrameTx false) s = .next (onChip downlinkTx s)) ∧
  (∀ (c : Chip), (downlinkTx c).fld.txSeq = c.fld.txSeq + 1 ∧ (downlinkTx c).fld.resync = false ∧
    ∃ f : DownFrame, (downlinkTx c).out = .downlink f (downBytes f) :: c.out ∧ f.seq = c.fld.txSeq ∧ f.ack = c.fld.rxSeq ∧ f.ackMap = c.fld.rxMap ∧
      f.resync = c.fld.resync ∧ f.outLevel = joinHalves (rd c .fld 0x064) (rd c .fld 0x060) ∧ f.sched.length ≤ 4) ∧
  (∀ (c : Chip), c.field.powered = true → (uplinkTx c).field.upSeq = c.field.upSeq + 1 ∧
    ∃ f : UpFrame, (uplinkTx c).out = .uplink f (upBytes f) :: c.out ∧ f.seq = c.field.upSeq ∧ f.inLevel = pinLevels c.field ∧ f.vfield = c.field.vfield ∧
      f.belay = c.bly.report ∧ f.inputsValid = !c.field.invalid ∧ f.events.length ≤ 7) ∧
  (∀ (s : State) (f : DownFrame), fieldRuns s.chip = true →
    exec (.downlinkFrame f false) s = .next (onChip (fun c => { c with fld := { c.fld with downBad := min 255 (c.fld.downBad + 1) } }) s)) ∧
  (∀ (s : State) (f : DownFrame), fieldRuns s.chip = true → s.chip.field.waitResync = true → f.resync = false →
    exec (.downlinkFrame f true) s = .next (onChip (fun c => { c with field := { c.field with lastIntact := c.clk.now } }) s)) ∧
  (∀ (s : State) (f : DownFrame), fieldRuns s.chip = true → f.resync = true → f.cfg0.id = 0 → f.cfg1.id = 0 → f.sched = [] →
    exec (.downlinkFrame f true) s = .next (onChip (fun c => { c with field := refreshAll { c.field with waitResync := false, rxMap := 0, table := [], sentEvents := [], done := [], cfgAck0 := 0, cfgAck1 := 0, events := c.field.sentEvents.flatMap (·.2.2) ++ c.field.events, lastIntact := c.clk.now, silence := false, rxSeq := f.seq, outLevel := f.outLevel } }) s)) ∧
  (∀ (s : State) (f : UpFrame) (arrival : Nat), mainRuns s.chip = true →
    exec (.uplinkFrame f true arrival) s = .next (onChip (fun c => fieldFaults (each (((List.finRange 16).filter (fun j => bit f.belay.stopReq j.val && !bit c.fld.belay.stopReq j.val)).flatMap stoAxes)
      (fun n c => stopReqAxis n.val c) (uplinkRx f true arrival c))) s)) ∧
  (∀ (f : UpFrame) (arrival : Nat) (c : Chip), (uplinkRx f false arrival c).fld.run = 0 ∧ (uplinkRx f false arrival c).fld.upBad = min 255 (c.fld.upBad + 1)) ∧
  (∀ (s : State), mainRuns s.chip = true → s.chip.fld.tether = .up → s.chip.fld.lastIntact + rdF s.chip .fld 0x048 19 0 * 1000 ≤ s.chip.clk.now →
    exec .tetherSilent s = .next (onChip (fun c => fieldFaults (latchCond .fld 0xB0 (raise .fld 9 (raiseIf c.fld.inputsValid .fld 12
      { forgetSchedules c with fld := { c.fld with tether := .silent, run := 0, inputsValid := false, sched := [], silences := min 255 (c.fld.silences + 1) } })))) s)) ∧
  (∀ (s : State) (path : Path) (p : Fin 64) (v : Word), CanWrite s path .fld → v &&& 0xFFFF00F7 = v → 1 ≤ fld v 31 16 →
    exec (.fldConfigWrite path false (BitVec.ofNat 12 (0x100 + 4 * p.val)) v) s = .next (onChip (fun c => taken path .fld (0x100 + 4 * p.val) (pushCfg false (0x100 + 4 * p.val) v (wr .fld (0x100 + 4 * p.val) v c))) s)) ∧
  (∀ (s : State) (path : Path) (off : BitVec 12) (v : Word) (r : Reg), CanWrite s path .bly → off.toNat % 4 = 0 → 0x100 ≤ off.toNat → off.toNat ≤ 0x208 →
    findRow (pageRows .bly) off.toNat = some (r, false) →
    exec (.fldConfigWrite path true off v) s = .next (onChip (fun c => taken path .bly off.toNat (pushCfg true off.toNat v (wr .bly off.toNat v c))) s)) ∧
  (∀ (s : State) (path : Path) (hi : Bool) (v : Word), CanWrite s path .fld →
    exec (.fldShortClear path hi v) s = .next (onChip (fun c => taken path .fld (if hi then 0x074 else 0x070) (pushCfg false (if hi then 0x074 else 0x070) v
      { c with fld := { c.fld with short := c.fld.short &&& ~~~(if hi then v.setWidth 64 <<< 32 else v.setWidth 64) } })) s)) ∧
  (∀ (s : State) (path : Path) (v : Word), CanWrite s path .fld → v &&& 0xFF = v → s.chip.fld.groupOver &&& ~~~(v.setWidth 8) ≠ 0 →
    exec (.fldGroupEnWrite path v) s = .next (onChip (fun c => taken path .fld 0x058 (pushCfg false 0x058 v (wr .fld 0x058 v { c with fld := { c.fld with groupOver := c.fld.groupOver &&& ~~~(v.setWidth 8) } }))) s)) ∧
  (∀ (s : State) (path : Path) (v : Word), CanWrite s path .fld → v &&& 0xFF = v → s.chip.fld.groupOver &&& ~~~(v.setWidth 8) = 0 →
    exec (.fldGroupEnWrite path v) s = .next (onChip (fun c => taken path .fld 0x058 (pushCfg false 0x058 v (endCond .fld 0xB3 (wr .fld 0x058 v { c with fld := { c.fld with groupOver := 0 } })))) s))

/-- A belay cycle puts out the last cycle’s result, and its functions and pairs follow their tables. BELAY_CYCLE makes STO and SOUT those decided in the
cycle before. Outside RUN the next ones are all safe; a failed self-test in RUN goes to HALTED with all safe. A function in RUN leaves it for FAULT on
a fault, and for STOPPING or SAFE on a demand as its stop kind says. A pair that opens is opened, one that is made stays made, and a counting pair
becomes made within its time or blocked after it. (R416, R418, R421, R422, R424, R427; derived) -/
def Obligations.BelayCycleAndFunctions : Prop :=
  (∀ (s : State) (selfOk crcOk : Bool) (sr : Byte) (st : BitVec 16), BelayUp s →
    exec (.belayCycle selfOk crcOk sr st) s = .next (onChip (fun c => { c with bly := blyCycle c.clk.now c.field.invalid selfOk crcOk sr st c.bly }) s)) ∧
  (∀ (b : BlySt) (now : Nat) (inv selfOk crcOk : Bool) (sr : Byte) (st : BitVec 16), b.clockLost = false →
    (blyCycle now inv selfOk crcOk sr st b).sto = b.stoNext ∧ (blyCycle now inv selfOk crcOk sr st b).sout = b.soutNext) ∧
  (∀ (b : BlySt) (now : Nat) (inv selfOk crcOk : Bool) (sr : Byte) (st : BitVec 16), b.clockLost = false → b.state ≠ .run →
    (blyCycle now inv selfOk crcOk sr st b).stoNext = 0xFFFF ∧ (blyCycle now inv selfOk crcOk sr st b).soutNext = 0) ∧
  (∀ (b : BlySt) (now : Nat) (inv crcOk : Bool) (sr : Byte) (st : BitVec 16), b.clockLost = false → b.state = .run →
    (blyCycle now inv false crcOk sr st b).state = .halted ∧ (blyCycle now inv false crcOk sr st b).stoNext = 0xFFFF ∧ (blyCycle now inv false crcOk sr st b).soutNext = 0) ∧
  (∀ (b : BlySt) (f : Nat) (inv : Bool), (fnSt b f).state = .run → fnFaulted b f = false → (fnPairs b.par f).all (pairMade b) = false →
    (fnSt (fnCycle inv f b) f).state = (if bit (fnCfg b.par f) 16 then .stopping else .safe)) ∧
  (∀ (b : BlySt) (f : Nat) (inv : Bool), (fnSt b f).state = .run → fnFaulted b f = true → (fnSt (fnCycle inv f b) f).state = .fault) ∧
  (∀ (t n : Nat) (p : PairPhase), pairStep t p false false = (.opened, false) ∧ pairStep t .opened true true = (.made, false) ∧
    (∀ c, pairStep t (.counting n c) true true = if n + 1 ≤ t then (.made, false) else (.blocked, true)) ∧
    pairStep t .blocked true true = (.blocked, false))

/-- Belay start-up, tests, resets, output tests, commit and restart. BELAY_START_DONE that passes enters RUN with the stuck marks and start faults
cleared, one that fails halts. A program-flow fault or a failed march halts with 0xBD. TEST_PULSE runs on an enabled source; SS1_ELAPSED takes
STOPPING to SAFE. A reset pulse of 50 ms to 3 s counts, a longer one latches a fault. SOUT_TEST that does not read back opens the guard. BLY_COMMIT
and RESTART travel as slots; a request is judged by state, key and checks, and only a good one enters COMMIT with the staging set, and the end of
COMMIT counts the version. SAFETY_INPUT_EDGE changes that input alone. (R417, R418, R420, R426, R428, R429, R433, R434; derived) -/
def Obligations.BelayTestsResetsAndCommit : Prop :=
  (∀ (s : State), BelayUp s → s.chip.bly.state = .start → s.chip.bly.nvValid = true →
    exec (.belayStartDone true true false false) s = .next (onChip (fun c => { c with bly := { allSafe c.bly with state := .run, parOk := true, stuckA := false, stuckB := false, faults := c.bly.faults.filter (fun x => x.1 != 11 && x.1 != 13) } }) s)) ∧
  (∀ (s : State) (a b x : Bool), BelayUp s → s.chip.bly.state = .start →
    exec (.belayStartDone false x a b) s = .next (onChip (fun c => { c with bly := blyHalt 13 c.bly }) s)) ∧
  (∀ (s : State), s.chip.field.powered = true →
    exec .programFlowFault s = .next (onChip (fun c => { c with bly := outputsSafe (blyHalt 13 c.bly) }) s)) ∧
  (∀ (s : State), BelayUp s → exec (.memoryMarch false) s = .next (onChip (fun c => { c with bly := blyHalt 13 c.bly }) s) ∧ exec (.memoryMarch true) s = .next s) ∧
  (∀ (s : State) (x : Fin 4) (levels : BitVec 24), BelayUp s → s.chip.bly.state = .run → bit (tpCfg s.chip.bly.par) (8 + x.val) = true →
    exec (.testPulse x levels) s = .next (onChip (fun c => { c with bly := blyTestPulse x.val levels c.bly }) s)) ∧
  (∀ (s : State) (f : Fin 12), BelayUp s → (fnSt s.chip.bly f.val).state = .stopping → (fnSt s.chip.bly f.val).ss1 ≤ 1 → s.chip.bly.state = .run →
    ∃ t, exec (.ss1Elapsed f) s = .next t ∧ (fnSt t.chip.bly f.val).state = .safe ∧ t.chip.bly.stoNext = stoWanted t.chip.bly ∧ t.chip.bly.soutNext = soutWanted t.chip.bly) ∧
  (∀ (s : State) (ms : Nat), BelayUp s → 50 ≤ ms → ms ≤ 3000 → s.chip.bly.stuckA = false → s.chip.bly.ignA ≤ s.chip.clk.now - ms * 1000000 →
    exec (.resetPulse false ms) s = .next (onChip (fun c => { c with bly := { c.bly with rstA := true } }) s)) ∧
  (∀ (s : State) (ms : Nat), BelayUp s → 50 ≤ ms → ms ≤ 3000 → s.chip.bly.stuckB = false → s.chip.bly.ignB ≤ s.chip.clk.now - ms * 1000000 →
    exec (.resetPulse true ms) s = .next (onChip (fun c => { c with bly := { c.bly with rstB := true } }) s)) ∧
  (∀ (s : State) (ms : Nat), BelayUp s → 3000 < ms → s.chip.bly.stuckA = false →
    exec (.resetPulse false ms) s = .next (onChip (fun c => { c with bly := blyLatch 14 0 { c.bly with ignA := c.clk.now + 1000000000, stuckA := false } }) s)) ∧
  (∀ (s : State) (k : Fin 8), BelayUp s → s.chip.bly.state = .run → s.chip.bly.parOk = true → bit (soutCfg s.chip.bly.par) k.val = true → bit s.chip.bly.sout k.val = true →
    (soutSt s.chip.bly k.val).testDue ≤ s.chip.clk.now → bit s.chip.bly.soutNext k.val = true →
    (∀ f ∈ fnsIn s.chip.bly, (fnSt s.chip.bly f).state = .stopping → bit (fnTarget s.chip.bly.par f) (16 + k.val) = false) →
    ∃ t, exec (.soutTest k false) s = .next t ∧ (soutSt t.chip.bly k.val).ba = true ∧ (soutSt t.chip.bly k.val).guardOpen = true ∧ bit t.chip.bly.soutNext k.val = false) ∧
  (∀ (s : State) (path : Path) (key : Word), CanWrite s path .bly →
    exec (.blyCommit path key) s = .next (onChip (fun c => taken path .bly 0x054 (pushCfg true 0x054 key { c with fld := { c.fld with commit := some (key, c.fld.belay.parVer), commitAck := none, commitSeen := false, commitRefused := false } })) s)) ∧
  (∀ (now : Nat) (b : BlySt) (key : Word), b.req = some (key, false) → b.state = .run → key = blyKey b.staging → blyChecks b.staging = true →
    blyJudge now b = { allSafe b with state := .commit, par := b.staging, req := none, commitSince := some now }) ∧
  (∀ (now : Nat) (b : BlySt) (key : Word) (running : Bool), b.req = some (key, running) → (running = true ∨ key ≠ blyKey b.staging ∨ blyChecks b.staging = false) →
    blyJudge now b = { b with req := none }) ∧
  (∀ (s : State), BelayUp s → s.chip.bly.state = .commit →
    exec .commitWriteDone s = .next (onChip (fun c => { c with bly := { allSafe c.bly with state := .run, parOk := true, nvValid := true, parVer := c.bly.parVer + 1, commitSince := none, pairs := c.bly.pairs.map (fun p => (p.1, { p.2 with phase := .opened })) } }) s)) ∧
  (∀ (s : State) (path : Path), CanWrite s path .bly →
    exec (.restart path 1) s = .next (onChip (fun c => taken path .bly 0x058 (pushCfg true 0x058 1 c)) s)) ∧
  (∀ (s : State) (i : Fin 24) (level : Bool), BelayUp s →
    ∃ t, exec (.safetyInputEdge i level) s = .next t ∧ bit t.chip.bly.level i.val = level ∧ (∀ j, j ≠ i.val → bit t.chip.bly.level j = bit s.chip.bly.level j) ∧ t.mem = s.mem)

/-- Scrub words, DRAM refresh and training, the error log, injection and the save base. SCRUB_WORD of a due SRAM word scrubs that word and goes to the
next; after the last, the pass is counted, SCRUB_DONE is raised and the next pass begins. DRAM_REFRESH, temperature read and ZQ calibration act when
due and a far late refresh latches 0xC1. DRAM_TRAINED makes the DRAM work with all zero, or latches 0xC0 with the step. MEM_ELOG_POP answers the
oldest entry and removes it, or EMPTY. MEM_INJ arms the region’s next injection. KEP_SAVE_BASE takes a base that leaves room between boot image and
device end and refuses one past the device. (R440, R446, R447, R448, R449, R450; derived) -/
def Obligations.MemoryScrubDramAndLog : Prop :=
  (∀ (s : State) (u : BitVec 144) (late : Bool), SramDue s.chip → s.chip.scb.sramPos + 1 < sramWords →
    late = overRate s.chip.scb.sramSince (rdF s.chip .scb 0x044 11 0 * 1000000000) s.chip.clk.now →
    exec (.scrubWord u) s = .next (onChip (fun c => { c with scb := { c.scb with sramPos := s.chip.scb.sramPos + 1, sramLate := s.chip.scb.sramLate || late } })
      (onChip (raiseIf (late && !s.chip.scb.sramLate) .scb 10) (scrubOne (sramPlace sramRegions s.chip.scb.sramPos).1 (sramPlace sramRegions s.chip.scb.sramPos).2 u s)))) ∧
  (∀ (s : State) (u : BitVec 144) (late : Bool), SramDue s.chip → s.chip.scb.sramPos + 1 = sramWords →
    late = overRate s.chip.scb.sramSince (rdF s.chip .scb 0x044 11 0 * 1000000000) s.chip.clk.now →
    exec (.scrubWord u) s = .next (onChip (fun c => raise .scb 8 (cntWrap .scb 0x04C 15 0 { c with scb := { c.scb with sramPos := 0, sramLate := false, sramSince := nextPass s.chip.scb.sramSince (rdF s.chip .scb 0x044 11 0 * 1000000000) s.chip.clk.now } }))
      (onChip (raiseIf (late && !s.chip.scb.sramLate) .scb 10) (scrubOne (sramPlace sramRegions s.chip.scb.sramPos).1 (sramPlace sramRegions s.chip.scb.sramPos).2 u s)))) ∧
  (∀ (s : State), mainRuns s.chip = true → dramRuns s.chip = true → s.chip.memc.lastRefresh + refreshNs s.chip ≤ s.chip.clk.now →
    exec .dramRefresh s = .next (onChip (fun c => (if c.memc.lastRefresh + refreshNs c + 8 * refreshNs c < c.clk.now then latchFault .mem 0xC1 else id) { c with memc := { c.memc with lastRefresh := c.clk.now } }) s)) ∧
  (∀ (s : State) (hot : Bool), mainRuns s.chip = true → dramRuns s.chip = true → s.chip.memc.lastTemp + 32000000 ≤ s.chip.clk.now →
    exec (.dramTempRead hot) s = .next (onChip (fun c => { c with memc := { c.memc with hot := hot, lastTemp := c.clk.now } }) s)) ∧
  (∀ (s : State), mainRuns s.chip = true → dramRuns s.chip = true → s.chip.memc.lastZq + 128000000 ≤ s.chip.clk.now →
    exec .zqCalibration s = .next (onChip (fun c => { c with memc := { c.memc with lastZq := c.clk.now } }) s)) ∧
  (∀ (s : State), mainRuns s.chip = true → s.chip.memc.dramOk = false → clkLost s.chip .mem = false → standing s.chip .mem 0xC0 = false →
    exec (.dramTrained none) s = .next { s with mem := zeroDram 0 s.mem, chip := raise .mem 11 { s.chip with memc := { s.chip.memc with trained := true, dramOk := true, initGiB := rdF s.chip .mem 0x040 3 0, lastAccess := s.chip.clk.now, lastRefresh := s.chip.clk.now, lastTemp := s.chip.clk.now, lastZq := s.chip.clk.now } } }) ∧
  (∀ (s : State) (k : Fin 16), mainRuns s.chip = true → s.chip.memc.dramOk = false → clkLost s.chip .mem = false → standing s.chip .mem 0xC0 = false → s.chip.hits = [] →
    exec (.dramTrained (some k)) s = .next (onChip (fun c => raise .mem 12 (latchCond .mem 0xC0 { c with memc := { c.memc with failStep := k.val } })) s)) ∧
  (∀ (s : State), mainRuns s.chip = true → s.chip.pwr.state = .doze → dramRuns s.chip = true → s.chip.memc.lastAccess + 1000000 ≤ s.chip.clk.now →
    exec .dramSelfRefresh s = .next (onChip (fun c => { c with memc := { c.memc with selfRefresh := true } }) s)) ∧
  (∀ (s : State) (path : Path), fabricUp s.chip path = true → s.chip.memc.elog = [] →
    exec (.memElogPop path) s = .next (onChip (fun c => answered path .mem 0x050 0x80000000 c) s)) ∧
  (∀ (s : State) (path : Path) (x : ElogEntry) (l : List ElogEntry), fabricUp s.chip path = true → s.chip.memc.elog = x :: l →
    exec (.memElogPop path) s = .next (onChip (fun c => answered path .mem 0x050 (BitVec.ofNat 32 (x.syndrome.toNat + x.region * 512 + flag x.ue 13 + flag x.misaddr 14 + flag x.scrub 15))
      (wrPair .mem 0x054 (BitVec.ofNat 64 x.addr) { c with memc := { c.memc with elog := l } })) s)) ∧
  (∀ (s : State) (path : Path) (v : Word), CanWrite s path .mem → v &&& 0xF3 = v → fld v 7 4 ≤ 6 → (bit v 0 = true ∨ bit v 1 = true) →
    exec (.memInj path v) s = .next (onChip (fun c => taken path .mem 0x05C { c with memc := { c.memc with inj := tabSet 0 c.memc.inj (fld v 7 4) (if bit v 1 then 2 else 1) } }) s)) ∧
  (∀ (s : State) (path : Path) (v : Word), CanWrite s path .kep → v &&& 0x3FFF000 = v → (hdr s.chip .kep).sealedBit = false →
    s.chip.keep.bootEnd ≤ v.toNat → v.toNat + 524288 + 4096 ≤ s.chip.keep.mib * 2 ^ 20 →
    exec (.kepSaveBaseWrite path v) s = .next (onChip (fun c => taken path .kep 0x050 (wr .kep 0x050 v c)) s)) ∧
  (∀ (s : State) (path : Path) (v : Word), CanWrite s path .kep → v &&& 0x3FFF000 = v → (hdr s.chip .kep).sealedBit = false →
    s.chip.keep.mib * 2 ^ 20 < v.toNat + 524288 + 4096 →
    exec (.kepSaveBaseWrite path v) s = .next (onChip (fun c => ended path .kep 0x050 (raise .kep 1 c)) s))

/-- What PORST_N, a warm reset by pin or register and FLR leave. Each of the four resets leaves every page disabled in OFF with no owner, seal or fault
code, every axis DISABLED or SAFE, every session CLOSED, no command in flight, the power state RUN, its own cause in PWR_RST_CAUSE and every other
register of the window at its reset value (for warm resets, of the pages other than PWR, KEP and TIM). PORST_N keeps field die and belay. A pulse
shorter than 1 µs, and a warm reset or FLR during a save, change nothing; WARM_RESET without its bit or key only stores PWR_CTL. (R454, R455; derived) -/
def Obligations.ResetsOfTheMainDie : Prop :=
  (∀ s : State, ∃ t, exec .porstNLow s = .next t ∧ Fresh t.chip ∧ rd t.chip .pwr 0x048 = 1 ∧
    (∀ (p : Page) (off : Nat), pageBase p + off ≠ pageBase .pwr + 0x048 → rd t.chip p off = regReset (pageBase p + off)) ∧
    t.mem = resetMem false s.mem ∧ t.chip.field = s.chip.field ∧ t.chip.bly = s.chip.bly ∧ (s.chip.pwr.saveSince = none → t.chip.keep = s.chip.keep) ∧
    t.pending = s.pending) ∧
  (∀ (s : State) (ns : Nat), 1000 ≤ ns → s.chip.pwr.state ≠ .save → ∃ t, exec (.warmResetPin ns) s = .next t ∧ Fresh t.chip ∧ rd t.chip .pwr 0x048 = 2 ∧
    (∀ (p : Page) (off : Nat), off < 0x1000 → p ≠ .pwr → p ≠ .kep → p ≠ .tim → rd t.chip p off = regReset (pageBase p + off)) ∧
    t.mem = resetMem true s.mem ∧ t.chip.cmd.held = (cmdAbort 0 (closeAll s.chip)).cmd.held ∧ t.pending = s.pending) ∧
  (∀ (s : State) (ns : Nat), ns < 1000 ∨ s.chip.pwr.state = .save → exec (.warmResetPin ns) s = .next s) ∧
  (∀ (s : State) (path : Path) (v : Word), CanWrite s path .pwr → s.chip.pwr.state ≠ .save → v &&& 0xFFFF0007 = v → bit v 2 = true → fld v 31 16 = 0x5752 →
    ∃ t, exec (.warmReset path v) s = .next t ∧ Fresh t.chip ∧ rd t.chip .pwr 0x048 = 4 ∧
    (∀ (p : Page) (off : Nat), off < 0x1000 → p ≠ .pwr → p ≠ .kep → p ≠ .tim → rd t.chip p off = regReset (pageBase p + off)) ∧
    t.mem = resetMem true s.mem ∧ t.pending = s.pending) ∧
  (∀ (s : State) (path : Path) (v : Word), CanWrite s path .pwr → v &&& 0xFFFF0007 = v → (bit v 2 = false ∨ fld v 31 16 ≠ 0x5752) →
    exec (.warmReset path v) s = .next (onChip (fun c => taken path .pwr 0x040 (wr .pwr 0x040 (v &&& 3) c)) s)) ∧
  (∀ s : State, s.chip.pwr.state ≠ .save → ∃ t, exec .flr s = .next t ∧ Fresh t.chip ∧ rd t.chip .pwr 0x048 = 8 ∧
    (∀ (p : Page) (off : Nat), off < 0x1000 → p ≠ .pwr → p ≠ .kep → p ≠ .tim → rd t.chip p off = regReset (pageBase p + off)) ∧
    t.mem = resetMem true s.mem ∧ t.chip.svcPcie = s.chip.svcPcie ∧ t.pending = s.pending) ∧
  (∀ s : State, s.chip.pwr.state = .save → exec .flr s = .next s)

/-- What start-up after power-on and after a save leaves, and when boot is done. After POWER_ON_RESET and after SAVE_RESTART of a finished save: without a
usable keep memory KEP latches 0xC2 and nothing is booted or restored; with one whose boot image has no magic the host boots it; a bad boot image ends
with BOOT_FAIL; a save record at the save area gives LAST_SAVE as marker, integrity and image say, and a restored image gives back the held
completions. SAVE_RESTART outside a save changes nothing. BOOT_DONE waits for the DRAM and then raises its cause. (R449, R457, R458, R462, R465;
derived) -/
def Obligations.StartUpFromKeepMemoryOrHost : Prop :=
  (∀ (env : BootEnv) (s : State), Starts (.powerOnReset env) 1 env s) ∧
  (∀ (env : BootEnv) (s : State) (t : Nat), s.chip.pwr.state = .save → s.chip.pwr.saveSince = some t → t + 4000000 ≤ s.chip.clk.now → s.chip.pwr.saveFailed = false →
    Starts (.saveRestart env) 16 env s) ∧
  (∀ (env : BootEnv) (s : State), (s.chip.pwr.state ≠ .save ∨ s.chip.pwr.saveSince = none) → exec (.saveRestart env) s = .next s) ∧
  (∀ s : State, mainRuns s.chip = true → s.chip.pwr.started = true → s.chip.pwr.booted = false → s.chip.memc.trained = true →
    exec .bootDone s = .next (onChip (fun c => raise .pwr 12 { c with pwr := { c.pwr with booted := true } }) s)) ∧
  (∀ s : State, mainRuns s.chip = true → s.chip.memc.trained = false → standing s.chip .mem 0xC0 = false → exec .bootDone s = .next s)

/-- A lost rail, and a sag with and without a save area. RAIL with SAG_EN = 0 marks the rail, raises its cause and latches 0xCB; with SAG_EN = 1 it begins
a save. SAG with SAVE_EN, a capable device and a device not SCRAPPED begins the save: state SAVE, the start record, the marker and an image written
and memory untouched. When it may not save, the save counts as failed, raises its cause and leaves the keep memory. With SAG_EN = 0, before start-up
or in a save, SAG changes nothing. (R453, R459, R460; derived) -/
def Obligations.RailsAndSag : Prop :=
  (∀ (s : State) (r : Fin 6) (env : SaveEnv), bit (rd s.chip .pwr 0x040) 1 = false → (hdr s.chip .pwr).state ≠ .splicing →
    exec (.rail r env) s = .next (onChip (fun c => latchFault .pwr 0xCB (modHdr .pwr (fun h => { h with conds := 0xCB :: h.conds.filter (· != 0xCB) }) (raise .pwr 14 (wr .pwr 0x05C (rd c .pwr 0x05C &&& ~~~(1#32 <<< r.val)) c)))) s)) ∧
  (∀ (s : State) (r : Fin 6) (env : SaveEnv), bit (rd s.chip .pwr 0x040) 1 = true → (hdr s.chip .pwr).state ≠ .splicing → s.chip.pwr.started = true → s.chip.pwr.state ≠ .save →
    ∃ t, exec (.rail r env) s = .next t ∧ t.chip.pwr.state = .save ∧ t.chip.pwr.sag = true ∧ t.chip.svcPcie = false) ∧
  (∀ (s : State) (env : SaveEnv), bit (rd s.chip .pwr 0x040) 1 = true → s.chip.pwr.started = true → s.chip.pwr.state ≠ .save →
    bit (rd s.chip .pwr 0x040) 0 = true → saveCapable s.chip = true → s.chip.sec.life ≠ 3 → env.bytes ≤ 262144 → env.keepOk = true →
    ∃ t, exec (.sag env) s = .next t ∧ t.chip.pwr.state = .save ∧ t.chip.pwr.sag = true ∧ t.chip.pwr.saveSince = some s.chip.clk.now ∧ t.chip.pwr.saveFailed = s.chip.pwr.saveFailed ∧
      t.chip.keep.startRec = true ∧ t.chip.keep.marker = some true ∧ t.chip.keep.image.isSome ∧ t.mem = s.mem ∧ t.pending = s.pending) ∧
  (∀ (s : State) (env : SaveEnv), bit (rd s.chip .pwr 0x040) 1 = true → s.chip.pwr.started = true → s.chip.pwr.state ≠ .save →
    (bit (rd s.chip .pwr 0x040) 0 = false ∨ saveCapable s.chip = false ∨ 262144 < env.bytes) → s.chip.sec.life ≠ 3 →
    ∃ t, exec (.sag env) s = .next t ∧ t.chip.pwr.state = .save ∧ t.chip.pwr.sag = true ∧ t.chip.pwr.saveFailed = true ∧ bit (hdr t.chip .pwr).evt 10 = true ∧ t.chip.keep = s.chip.keep) ∧
  (∀ (s : State) (env : SaveEnv), (bit (rd s.chip .pwr 0x040) 1 = false ∨ s.chip.pwr.started = false ∨ s.chip.pwr.state = .save) → exec (.sag env) s = .next s)

/-- Requests for RUN, HOLD and DOZE. A request for RUN is always taken. Requests for HOLD and DOZE are taken while every axis is quiet and refused with
their cause otherwise. (R480; derived) -/
def Obligations.PowerStateRequests : Prop :=
  (∀ (s : State) (path : Path), CanWrite s path .pwr → s.chip.pwr.state ≠ .save →
    exec (.pwrStateRun path) s = .next (onChip (fun c => taken path .pwr 0x060 { c with pwr := { c.pwr with req := some .run } }) s)) ∧
  (∀ (s : State) (path : Path), CanWrite s path .pwr → s.chip.pwr.state ≠ .save → axesQuiet s.chip = true →
    exec (.pwrStateHold path) s = .next (onChip (fun c => taken path .pwr 0x060 { c with pwr := { c.pwr with req := some .hold } }) s)) ∧
  (∀ (s : State) (path : Path), CanWrite s path .pwr → s.chip.pwr.state ≠ .save → axesQuiet s.chip = true →
    exec (.pwrStateDoze path) s = .next (onChip (fun c => taken path .pwr 0x060 { c with pwr := { c.pwr with req := some .doze } }) s)) ∧
  (∀ (s : State) (path : Path), CanWrite s path .pwr → s.chip.pwr.state ≠ .save → axesQuiet s.chip = false →
    exec (.pwrStateHold path) s = .next (onChip (fun c => ended path .pwr 0x060 (raise .pwr 15 c)) s) ∧
    exec (.pwrStateDoze path) s = .next (onChip (fun c => ended path .pwr 0x060 (raise .pwr 15 c)) s))

/-- Lifecycle transitions begin, are refused with their reason, and end. PROVISION from BLANK with the whole owner hash, SEAL_DEVICE from OPEN with a
usable key, and SCRAP (in SEALED within 60 s of its authorisation) begin a transition when the axes are quiet in power state RUN. Otherwise each ends
refused with the reason of the first condition that fails: axes, power state, lifecycle, owner hash, key, authorisation. A wrong KEY is refused with
reason 0 (the model’s reading, log entry 52). TRANSITION_DONE enters the target state and raises the cause; SCRAP also drops owner hash and keys.
(R470, R471; derived) -/
def Obligations.LifecycleTransitions : Prop :=
  (∀ (s : State) (path : Path), CanWrite s path .sec → s.chip.sec.busy = none → axesQuiet s.chip = true → s.chip.pwr.state = .run → s.chip.sec.life = 0 → s.chip.sec.ownerHash = 0xFF →
    exec (.provision path 0x4C43) s = .next (onChip (fun c => taken path .sec 0x04C { c with sec := secBegin path 1 c.clk.now c.sec }) s)) ∧
  (∀ (s : State) (path : Path), CanWrite s path .sec → s.chip.sec.busy = none → axesQuiet s.chip = true → s.chip.pwr.state = .run → s.chip.sec.life = 1 → s.chip.sec.programmed &&& ~~~s.chip.sec.revoked ≠ 0 →
    exec (.sealDevice path 0x4C43) s = .next (onChip (fun c => taken path .sec 0x04C { c with sec := secBegin path 2 c.clk.now c.sec }) s)) ∧
  (∀ (s : State) (path : Path), CanWrite s path .sec → s.chip.sec.busy = none → axesQuiet s.chip = true → s.chip.pwr.state = .run →
    (s.chip.sec.life ≠ 2 ∨ ∃ t, s.chip.sec.scrapAuth = some t ∧ s.chip.clk.now ≤ t + 60000000000) →
    exec (.scrap path 0x4C43) s = .next (onChip (fun c => taken path .sec 0x04C { c with sec := secBegin path 3 c.clk.now c.sec }) s)) ∧
  (∀ (s : State) (path : Path), CanWrite s path .sec → s.chip.sec.busy = none → axesQuiet s.chip = false → ∀ i ∈ [Instr.provision path 0x4C43, .sealDevice path 0x4C43, .scrap path 0x4C43],
    exec i s = .next (onChip (fun c => ended path .sec 0x04C { c with sec := secEnd path 3 1 c.sec }) s)) ∧
  (∀ (s : State) (path : Path), CanWrite s path .sec → s.chip.sec.busy = none → axesQuiet s.chip = true → s.chip.pwr.state ≠ .run → ∀ i ∈ [Instr.provision path 0x4C43, .sealDevice path 0x4C43, .scrap path 0x4C43],
    exec i s = .next (onChip (fun c => ended path .sec 0x04C { c with sec := secEnd path 3 2 c.sec }) s)) ∧
  (∀ (s : State) (path : Path), CanWrite s path .sec → s.chip.sec.busy = none → axesQuiet s.chip = true → s.chip.pwr.state = .run →
    (s.chip.sec.life ≠ 0 → exec (.provision path 0x4C43) s = .next (onChip (fun c => ended path .sec 0x04C { c with sec := secEnd path 3 3 c.sec }) s)) ∧
    (s.chip.sec.life ≠ 1 → exec (.sealDevice path 0x4C43) s = .next (onChip (fun c => ended path .sec 0x04C { c with sec := secEnd path 3 3 c.sec }) s)) ∧
    (s.chip.sec.life = 0 → s.chip.sec.ownerHash ≠ 0xFF → exec (.provision path 0x4C43) s = .next (onChip (fun c => ended path .sec 0x04C { c with sec := secEnd path 3 4 c.sec }) s)) ∧
    (s.chip.sec.life = 1 → s.chip.sec.programmed &&& ~~~s.chip.sec.revoked = 0 → exec (.sealDevice path 0x4C43) s = .next (onChip (fun c => ended path .sec 0x04C { c with sec := secEnd path 3 5 c.sec }) s)) ∧
    (s.chip.sec.life = 2 → s.chip.sec.scrapAuth = none → exec (.scrap path 0x4C43) s = .next (onChip (fun c => ended path .sec 0x04C { c with sec := secEnd path 3 6 c.sec }) s))) ∧
  (∀ (s : State) (path : Path) (key : BitVec 16), CanWrite s path .sec → key ≠ 0x4C43 → ∀ i ∈ [Instr.provision path key, .sealDevice path key, .scrap path key],
    exec i s = .next (onChip (fun c => ended path .sec 0x04C { c with sec := secEnd path 3 0 c.sec }) s)) ∧
  (∀ (s : State) (path : Path) (t : Nat), mainRuns s.chip = true → s.chip.sec.busy = some (1, t, path) →
    exec .transitionDone s = .next (onChip (fun c => raise .sec 11 { c with sec := secEnd path 2 0 { c.sec with life := 1, busy := none, ownerFused := true, fusedOwner := c.sec.ownerWords } }) s)) ∧
  (∀ (s : State) (path : Path) (t : Nat), mainRuns s.chip = true → s.chip.sec.busy = some (2, t, path) →
    exec .transitionDone s = .next (onChip (fun c => raise .sec 11 { c with sec := secEnd path 2 0 { c.sec with life := 2, busy := none } }) s)) ∧
  (∀ (s : State) (path : Path) (t : Nat), mainRuns s.chip = true → s.chip.sec.busy = some (3, t, path) →
    exec .transitionDone s = .next (onChip (fun c => raise .sec 11 { c with sec := secEnd path 2 0 { c.sec with life := 3, busy := none, ownerFused := false, fusedOwner := [] }, keep := { c.keep with psk := [] } }) s))

/-- Image keys are programmed and revoked, YCP keys are stored. PROGRAM_KEY writes an empty slot outside SEALED and SCRAPPED and raises KEY_DONE, and is
refused otherwise. REVOKE_KEY revokes the slot unless it is the last usable one in SEALED or the device is SCRAPPED. STORE_PSK stores the key in the
state and in keep memory; a core is refused. (R472, R473; derived) -/
def Obligations.KeySlots : Prop :=
  (∀ (s : State) (path : Path), CanWrite s path .sec → s.chip.sec.life < 2 → bit s.chip.sec.programmed (rdF s.chip .sec 0x054 1 0) = false →
    exec (.programKey path) s = .next (onChip (fun c => taken path .sec 0x04C (raise .sec 13 { c with sec := secEnd path 2 0 { c.sec with slots := tabSet 0 c.sec.slots (rdF c .sec 0x054 1 0) (keyData c), programmed := c.sec.programmed ||| (1#4 <<< rdF c .sec 0x054 1 0) } })) s)) ∧
  (∀ (s : State) (path : Path), CanWrite s path .sec → (2 ≤ s.chip.sec.life ∨ bit s.chip.sec.programmed (rdF s.chip .sec 0x054 1 0) = true) →
    exec (.programKey path) s = .next (onChip (fun c => ended path .sec 0x04C (raise .sec 14 { c with sec := secEnd path 3 0 c.sec })) s)) ∧
  (∀ (s : State) (path : Path), CanWrite s path .sec → s.chip.sec.life ≠ 3 → (s.chip.sec.life = 2 → s.chip.sec.programmed &&& ~~~s.chip.sec.revoked ≠ 1#4 <<< rdF s.chip .sec 0x054 1 0) →
    exec (.revokeKey path) s = .next (onChip (fun c => taken path .sec 0x04C { c with sec := secEnd path 2 0 { c.sec with revoked := c.sec.revoked ||| (1#4 <<< rdF c .sec 0x054 1 0) } }) s)) ∧
  (∀ (s : State) (path : Path), CanWrite s path .sec → (s.chip.sec.life = 3 ∨ (s.chip.sec.life = 2 ∧ s.chip.sec.programmed &&& ~~~s.chip.sec.revoked = 1#4 <<< rdF s.chip .sec 0x054 1 0)) →
    exec (.revokeKey path) s = .next (onChip (fun c => ended path .sec 0x04C (raise .sec 14 { c with sec := secEnd path 3 0 c.sec })) s)) ∧
  (∀ (s : State) (path : Path), CanWrite s path .sec → s.chip.keep.present = true → s.chip.sec.life < 2 → (∀ k, path ≠ .core k) →
    exec (.storePsk path) s = .next (onChip (fun c => taken path .sec 0x04C (raise .sec 13 { c with sec := secEnd path 2 0 { c.sec with psk := tabSet none c.sec.psk (rdF c .sec 0x140 1 0) (some (rd c .sec 0x150 ++ rd c .sec 0x14C ++ rd c .sec 0x148 ++ rd c .sec 0x144)) }, keep := { c.keep with psk := tabSet none c.keep.psk (rdF c .sec 0x140 1 0) (some (rd c .sec 0x150 ++ rd c .sec 0x14C ++ rd c .sec 0x148 ++ rd c .sec 0x144)) } })) s)) ∧
  (∀ (s : State) (k : Fin 8), CanWrite s (.core k) .sec →
    exec (.storePsk (.core k)) s = .next (onChip (fun c => ended (.core k) .sec 0x04C (raise .sec 14 { c with sec := secEnd (.core k) 3 0 c.sec })) s))

/-- Challenges, tokens, the lockout and the lapse of a level. NEW_CHALLENGE keeps the random value and its time; CHALLENGE_LAPSE drops it after 60 s and
not before. UNLOCK during the lockout is refused and changes nothing else. A token with a wrong field, hash or signature is refused, uses the
challenge up, begins the lockout and raises the cause. In SEALED, a right owner’s token of level 2 sets the level for its seconds, and one of the
vendor for FACTORY is refused; a right owner’s token of level 4 gives the authority to SCRAP. UNLOCK_LOCKOUT_END and LEVEL_LAPSED act when due and not
before. Which issuer a free level takes is log entry 53. (R475, R476; derived) -/
def Obligations.ChallengeAndUnlock : Prop :=
  (∀ (s : State) (path : Path) (rnd : BitVec 128), CanWrite s path .sec →
    exec (.newChallenge path rnd) s = .next (onChip (fun c => taken path .sec 0x04C { c with sec := secEnd path 2 0 { c.sec with challenge := some (rnd, c.clk.now) } }) s)) ∧
  (∀ (s : State) (x : BitVec 128) (t : Nat), mainRuns s.chip = true → s.chip.sec.challenge = some (x, t) → t + 60000000000 ≤ s.chip.clk.now →
    exec .challengeLapse s = .next (onChip (fun c => { c with sec := { c.sec with challenge := none } }) s)) ∧
  (∀ (s : State) (x : BitVec 128) (t : Nat), mainRuns s.chip = true → s.chip.sec.challenge = some (x, t) → s.chip.clk.now < t + 60000000000 →
    exec .challengeLapse s = .next s) ∧
  (∀ (s : State) (path : Path) (h g : Bool) (t : Nat), CanWrite s path .sec → s.chip.sec.lockout = some t → s.chip.clk.now < t + 1000000000 →
    exec (.unlock path h g) s = .next (onChip (fun c => ended path .sec 0x04C { c with sec := secEnd path 3 0 c.sec }) s)) ∧
  (∀ (s : State) (path : Path) (h g : Bool), CanWrite s path .sec → NotLocked s.chip →
    (h = false ∨ g = false ∨ s.chip.sec.challenge = none ∨ token s.chip path 0 ≠ 0x4E4B4F54 ∨ joinHalves (token s.chip path 3) (token s.chip path 2) ≠ Config.uid ∨
      (token s.chip path 8).toNat = 0 ∨ 86400 < (token s.chip path 8).toNat) →
    exec (.unlock path h g) s = .next (onChip (fun c => ended path .sec 0x04C (raise .sec 9 { c with sec := secEnd path 3 0 { c.sec with challenge := none, lockout := some c.clk.now } })) s)) ∧
  (∀ (s : State) (path : Path) (secs : Nat), CanWrite s path .sec → NotLocked s.chip → TokenFields s.chip path 4 0 secs →
    exec (.unlock path true true) s = .next (onChip (fun c => taken path .sec 0x04C (raise .sec 8 { c with sec := secEnd path 2 0 { c.sec with challenge := none, lockout := none, scrapAuth := some c.clk.now }, dbg := { c.dbg with expiry := some (c.clk.now + secs * 1000000000) } })) s)) ∧
  (∀ (s : State) (path : Path) (secs : Nat), CanWrite s path .sec → NotLocked s.chip → s.chip.sec.life = 2 → TokenFields s.chip path 2 0 secs →
    exec (.unlock path true true) s = .next (onChip (fun c => taken path .sec 0x04C (raise .sec 8 { c with sec := secEnd path 2 0 { c.sec with challenge := none, lockout := none }, dbg := { c.dbg with byToken := true, issuer := bit (token c path 1) 8, level := 2, expiry := some (c.clk.now + secs * 1000000000) } })) s)) ∧
  (∀ (s : State) (path : Path) (secs : Nat), CanWrite s path .sec → NotLocked s.chip → s.chip.sec.life = 2 → TokenFields s.chip path 3 1 secs →
    exec (.unlock path true true) s = .next (onChip (fun c => ended path .sec 0x04C (raise .sec 9 { c with sec := secEnd path 3 0 { c.sec with challenge := none, lockout := some c.clk.now } })) s)) ∧
  (∀ (s : State) (t : Nat), mainRuns s.chip = true → s.chip.sec.lockout = some t → t + 1000000000 ≤ s.chip.clk.now →
    exec .unlockLockoutEnd s = .next (onChip (fun c => { c with sec := { c.sec with lockout := none } }) s)) ∧
  (∀ (s : State) (t : Nat), mainRuns s.chip = true → s.chip.dbg.expiry = some t → t ≤ s.chip.clk.now → haltedUnits s.chip = [] →
    exec .levelLapsed s = .next (onChip (fun c => raise .sec 10 { c with dbg := { c.dbg with level := 0, byToken := false, issuer := false, expiry := none } }) s)) ∧
  (∀ (s : State) (t : Nat), mainRuns s.chip = true → s.chip.dbg.expiry = some t → s.chip.clk.now < t → exec .levelLapsed s = .next s)

/-- Debug level writes, halts, resumes and steps. A write of DBG_LEVEL raises the level to a free one and changes nothing where that level is not free;
any path but a core may lower it. HALT and DEBUG_RESUME below STEER or with nothing selected raise HALT_REFUSED; HALT of a core or of the planner
holds it, DEBUG_RESUME lets a core go on. DBG_FCO_STEP lets exactly the named halted cores step and is without effect below STEER. (R476, R479, R482;
derived) -/
def Obligations.DebugLevelsHaltsAndSteps : Prop :=
  (∀ (s : State) (path : Path) (v : Word), CanWrite s path .dbg → v &&& 3 = v → s.chip.dbg.level < fld v 1 0 → levelFree s.chip.sec.life (fld v 1 0) = true → haltedUnits s.chip = [] →
    exec (.dbgLevelWrite path v) s = .next (onChip (fun c => taken path .dbg 0x040 { c with dbg := { c.dbg with level := fld v 1 0, byToken := false, issuer := false, expiry := none } }) s)) ∧
  (∀ (s : State) (path : Path) (v : Word), CanWrite s path .dbg → v &&& 3 = v → s.chip.dbg.level < fld v 1 0 → levelFree s.chip.sec.life (fld v 1 0) = false →
    exec (.dbgLevelWrite path v) s = .next (onChip (ended path .dbg 0x040) s)) ∧
  (∀ (s : State) (path : Path), CanWrite s path .dbg → (∀ k, path ≠ .core k) → 0 < s.chip.dbg.level → haltedUnits s.chip = [] →
    exec (.dbgLevelWrite path 0) s = .next (onChip (fun c => taken path .dbg 0x040 { c with dbg := { c.dbg with level := 0, byToken := false, issuer := false, expiry := none } }) s)) ∧
  (∀ (s : State) (k : Fin 8) (v : Word), CanWrite s (.core k) .dbg → v &&& 3 = v → fld v 1 0 < s.chip.dbg.level →
    exec (.dbgLevelWrite (.core k) v) s = .next (onChip (ended (.core k) .dbg 0x040) s)) ∧
  (∀ (s : State) (path : Path) (k : Fin 8), CanWrite s path .dbg → 2 ≤ s.chip.dbg.level → haltSelected s.chip = some (.page (.fco k)) → HaltUnit.page (.fco k) ∉ haltedUnits s.chip →
    exec (.halt path) s = .next (onChip (fun c => taken path .dbg 0x054 (raise .dbg 8 (demandOn (.fco k) (fun h => { h with halted := true }) (modCore k.val (fun x => { x with halted := true }) c)))) s)) ∧
  (∀ (s : State) (path : Path), CanWrite s path .dbg → 2 ≤ s.chip.dbg.level → haltSelected s.chip = some .planner → HaltUnit.planner ∉ haltedUnits s.chip →
    ∃ t, exec (.halt path) s = .next t ∧ t.chip.dbg.plannerHalt = true) ∧
  (∀ (s : State) (path : Path), CanWrite s path .dbg → (s.chip.dbg.level < 2 ∨ haltSelected s.chip = none) →
    exec (.halt path) s = .next (onChip (fun c => ended path .dbg 0x054 (raise .dbg 10 c)) s) ∧ exec (.debugResume path) s = .next (onChip (fun c => ended path .dbg 0x054 (raise .dbg 10 c)) s)) ∧
  (∀ (s : State) (path : Path) (k : Fin 8), CanWrite s path .dbg → 2 ≤ s.chip.dbg.level → haltSelected s.chip = some (.page (.fco k)) → HaltUnit.page (.fco k) ∈ haltedUnits s.chip →
    exec (.debugResume path) s = .next (onChip (fun c => taken path .dbg 0x054 (resumeRun (.fco k) (demandOff (.fco k) (fun h => { h with halted := false }) (modCore k.val (fun x => { x with halted := false, stepping := false }) c)))) s)) ∧
  (∀ (s : State) (path : Path) (v : Word), CanWrite s path .dbg → v &&& 0xFF = v → 2 ≤ s.chip.dbg.level →
    ∃ t, exec (.dbgFcoStep path v) s = .next (onChip (taken path .dbg 0x0A0) t) ∧ t.mem = s.mem ∧ t.pending = s.pending ∧
      (∀ k < 8, core t.chip k = if bit v k = true ∧ (core s.chip k).halted = true then { core s.chip k with stepping := true } else core s.chip k)) ∧
  (∀ (s : State) (path : Path) (v : Word), CanWrite s path .dbg → v &&& 0xFF = v → s.chip.dbg.level < 2 →
    exec (.dbgFcoStep path v) s = .next (onChip (ended path .dbg 0x0A0) s))

/-- Requests of the debug UART. A new intact request reads a register at OBSERVE or above (at OFF those of SEC and identification words) and is answered
with the value; a write of a token word is carried out; a read or write the level does not allow is answered DENIED, and one against ownership also
raises OWNER_DENIED. A request that is not intact or not aligned is answered 0x12. A repeated request gets the same answer again. UART_GAP_TIMEOUT
drops a partial request 10 ms on. (R478; derived) -/
def Obligations.DebugUart : Prop :=
  (∀ (s : State) (r : UartReq) (p : Page) (off : Nat), UartNew s r → r.op = 1 → off < 0x1000 → r.off.toNat = pageBase p + off → (1 ≤ s.chip.dbg.level ∨ p = .sec ∨ off = 0) →
    exec (.uartRead r) s = .next { s with chip := uartAnswer r 0 (pageRead .uart p off s.chip).2 (pageRead .uart p off s.chip).1 }) ∧
  (∀ (s : State) (r : UartReq) (p : Page) (off : Nat), UartNew s r → r.op = 1 → off < 0x1000 → r.off.toNat = pageBase p + off → s.chip.dbg.level = 0 → p ≠ .sec → off ≠ 0 → (p = .dbg → off ≠ 0x044) →
    exec (.uartRead r) s = .next (onChip (uartAnswer r 8 0) s)) ∧
  (∀ (s : State) (r : UartReq) (i : Nat), UartNew s r → r.op = 2 → i < 48 → r.off.toNat = pageBase .sec + (0x200 + 4 * i) → CanWrite s .uart .sec →
    exec (.uartWrite r) s = .next (onChip (fun c => uartAnswer r 0 0 (countWrite .sec (heldSet .uart (pageBase .sec + (0x200 + 4 * i)) r.data c))) s)) ∧
  (∀ (s : State) (r : UartReq) (p : Page) (off : Nat), UartNew s r → r.op = 2 → off < 0x1000 → r.off.toNat = pageBase p + off → s.chip.dbg.level < 2 → p ≠ .sec →
    exec (.uartWrite r) s = .next (onChip (uartAnswer r 8 0) s)) ∧
  (∀ (s : State) (r : UartReq) (p : Page) (off : Nat), UartNew s r → r.op = 2 → off < 0x1000 → r.off.toNat = pageBase p + off → 2 ≤ s.chip.dbg.level → isStaging p off = false →
    (hdr s.chip p).owner ≠ 0 → (hdr s.chip p).owner ≠ 16 →
    exec (.uartWrite r) s = .next (onChip (fun c => uartAnswer r 8 0 (raise p 2 c)) s)) ∧
  (∀ (s : State) (r : UartReq), fabricUp s.chip .uart = true → (uartIntact r = false ∨ r.off.toNat % 4 ≠ 0) → ∀ i ∈ [Instr.uartRead r, .uartWrite r],
    exec i s = .next (onChip (fun c => emit (uartReply r.seq 0x12 0) { c with dbg := { c.dbg with uartPartial := none } }) s)) ∧
  (∀ (s : State) (r : UartReq) (st : Byte) (v : Word), fabricUp s.chip .uart = true → uartIntact r = true → r.off.toNat % 4 = 0 → s.chip.dbg.uartLast = some (r, st, v) → ∀ i ∈ [Instr.uartRead r, .uartWrite r],
    exec i s = .next (onChip (emit (uartReply r.seq st v)) s)) ∧
  (∀ (s : State) (t : Nat), mainRuns s.chip = true → s.chip.dbg.uartPartial = some t → t + 10000000 ≤ s.chip.clk.now →
    exec .uartGapTimeout s = .next (onChip (fun c => { c with dbg := { c.dbg with uartPartial := none } }) s)) ∧
  (∀ (s : State), mainRuns s.chip = true → s.chip.dbg.uartPartial = none → exec .uartGapTimeout s = .next s)

/-- One step runs the command at the front of the queue on the state with the rest of the queue. For every command c and every state s, the step of s with
c at the front of its queue is exec of c on s with the queue’s rest. (95_what_each_step_holds.md; derived) -/
def Obligations.StepTakesTheFrontCommand : Prop :=
  ∀ (s : State) (c : Instr) (rest : List Instr), step { s with pending := c :: rest } = exec c { s with pending := rest }

/-- A step on an empty queue is one 4 ns tick of the TIME clock (the model’s choice, log entry 1). With no command waiting, a step advances real time by 4
ns and the time counter by its increment, changes no register, header or axis in doing so, and then does what the tick brings (posted stores, a splice
of the knots); while the main die does not act, it is the tick alone. That an idle step is a tick is a design choice of the model (log entry 1). (R96,
R357; derived) -/
def Obligations.IdleStepIsOneTimeTick : Prop :=
  (∀ s : State, s.pending = [] → step s = .next (tickWork (onChip tickClock s))) ∧
  (∀ s : State, s.pending = [] → mainRuns s.chip = false → step s = .next (onChip tickClock s)) ∧
  (∀ c : Chip, (tickClock c).clk.now = c.clk.now + 4 ∧ (tickClock c).regs = c.regs ∧ (tickClock c).pages = c.pages ∧ (tickClock c).axes = c.axes) ∧
  (∀ c : Chip, c.tim.relocking = false → clkLost c .time = false → c.tim.rate = 0 → c.tim.frac = 0 → c.tim.ns + 4 < 1000000000 → c.tim.s < 2 ^ 48 →
    (tickClock c).tim = { c.tim with ns := c.tim.ns + 4 })

/-- Every command answers a next state in every state and leaves the queue to the step. For every command and every state exec answers a next state,
neither a fault nor a refusal, whose queue is the one it was given. (95_what_each_step_holds.md; derived) -/
def Obligations.EveryCommandAnswersAndKeepsTheQueue : Prop :=
  ∀ (i : Instr) (s : State), ∃ t, exec i s = .next t ∧ t.pending = s.pending

/-- Every step keeps the memories in their canonical form. For every state whose memories are in canonical form (keys strictly rising, no stored byte and
no error pattern equal to what an unlisted one reads as), a step that answers a next state leaves them in it. The form is the model’s own
representation of the memories of chapter 19 (log entry 4). (R440, R442, R457; derived) -/
def Obligations.MemoryFormIsAnInvariant : Prop :=
  ∀ s t : State, s.mem.wf = true → step s = .next t → t.mem.wf = true

/-- What the state after reset holds. After reset the memories list nothing out of form, no command waits, every page is disabled in OFF with no owner,
seal or fault, every register of the window reads its reset value, every axis is DISABLED, every session CLOSED, device time is 0 with the servo FREE,
the debug level is OFF and no command is in flight. Reset values to which the spec gives no number are the model’s (log entry 2). (R33, R42, R79, R99,
R123, R476; derived) -/
def Obligations.ResetState : Prop :=
  State.reset.mem.wf = true ∧ State.reset.pending = [] ∧
  (∀ p : Page, (hdr State.reset.chip p).en = false ∧ (hdr State.reset.chip p).state = .off ∧ (hdr State.reset.chip p).owner = 0 ∧
    (hdr State.reset.chip p).sealedBit = false ∧ (hdr State.reset.chip p).fltCode = 0) ∧
  (∀ (p : Page) (off : Nat), rd State.reset.chip p off = regReset (pageBase p + off)) ∧
  (∀ n, (axis State.reset.chip n).state = .disabled) ∧ (∀ i, (session State.reset.chip i).state = .closed) ∧
  State.reset.chip.tim.s = 0 ∧ State.reset.chip.tim.ns = 0 ∧ State.reset.chip.tim.servo = .free ∧
  State.reset.chip.dbg.level = 0 ∧ State.reset.chip.cmd.inflight = []

/-- HEVT raises an allowed vector from 45 to 63 and drops any other. At a core that stands at an HEVT word for vector v: with v from 45 on and bit v − 45
of FCO_HEVT 1, vector v is raised and the word retires; with v below 45 or the bit 0, nothing is raised but HEVT_REFUSED, and DENY is set in SR. Which
bits of the word give v is left open by the spec and free in the model (log entry 34). (R359) -/
def Obligations.HevtRaisesAllowedVectors : Prop :=
  ∀ (s : State) (k : Fin 8) (w : Word) (v : Nat), Stands s k w → cls w = 9 → fld w 27 24 = 5 → (Config.hevtVector (w.extractLsb' 0 24)).val = v →
    (45 ≤ v → bit (rd (atIssue s k).chip (fcoPage k.val) 0x054) (v - 45) = true →
      exec (.hevt k w) s = .next (retireS k.val {} id (onChip (raiseVector v) (atIssue s k)))) ∧
    (v < 45 ∨ bit (rd (atIssue s k).chip (fcoPage k.val) 0x054) (v - 45) = false →
      exec (.hevt k w) s = .next (retireS k.val {} (fun x => { x with sr := putBit x.sr srDENY true }) (onChip (raise (fcoPage k.val) 11) (atIssue s k))))

/-- PORST_N acts at once, other resets are dropped during a save, and the save ends in a restart. PORST_N low takes effect in every state, a running save
among them. In a save, a warm reset by pin or register, an FLR and a PGRESET change nothing. The end of a save, once its 4 ms are over, is the
restart: a cold reset with the save’s cause, then start-up, whether or not the save could be written. (R455) -/
def Obligations.ResetsDuringASave : Prop :=
  (∀ s : State, ∃ t, exec .porstNLow s = .next t ∧ t.chip.pwr.state = .run ∧ (∀ p, (hdr t.chip p).en = false) ∧ rd t.chip .pwr 0x048 = 1) ∧
  (∀ s : State, s.chip.pwr.state = .save →
    (∀ ns, exec (.warmResetPin ns) s = .next s) ∧ (∀ path v, exec (.warmReset path v) s = .next s) ∧ exec .flr s = .next s ∧
    (∀ path p, exec (.pgReset path p) s = .next s)) ∧
  (∀ (s : State) (env : BootEnv) (t : Nat), s.chip.pwr.state = .save → s.chip.pwr.saveSince = some t → t + 4000000 ≤ s.chip.clk.now →
    exec (.saveRestart env) s = .next (if s.chip.pwr.saveFailed then onChip (latchFault .pwr 0xCA) (startUp env (coldReset causeSave s)) else startUp env (coldReset causeSave s))) ∧
  (∀ s : State, (coldReset causeSave s).chip.pwr.state = .run ∧ rd (coldReset causeSave s).chip .pwr 0x048 = 16 ∧
    (∀ p, (hdr (coldReset causeSave s).chip p).en = false))

/-- Reading TIM_NOW_S_LO snapshots the other three time registers for the reading path. TIM_NOW_READ answers the low seconds and holds for its path the
high seconds, the nanoseconds and the fraction of the same tick; later reads of those three by a path answer what is held for it, and what is held for
one path and offset touches no other. (R98) -/
def Obligations.TimeReadSnapshots : Prop :=
  (∀ (s : State) (path : Path), fabricUp s.chip path = true →
    exec (.timNowRead path) s = .next (onChip (fun c => answered path .tim 0x048 (BitVec.ofNat 32 c.tim.s)
      (heldSet path (pageBase .tim + 0x054) (BitVec.ofNat 32 (c.tim.frac / 65536)) (heldSet path (pageBase .tim + 0x050) (BitVec.ofNat 32 c.tim.ns)
        (heldSet path (pageBase .tim + 0x04C) (BitVec.ofNat 32 (c.tim.s / 2 ^ 32)) c)))) s)) ∧
  (∀ (c : Chip) (path : Path), ∀ off ∈ [0x04C, 0x050, 0x054], pageRead path .tim off c = (c, heldGet c path (pageBase .tim + off))) ∧
  (∀ (c : Chip) (path other : Path) (a b : Nat) (v : Word), a < 2 ^ 24 → b < 2 ^ 24 →
    heldGet (heldSet path a v c) path a = v ∧ (other ≠ path ∨ a ≠ b → heldGet (heldSet path a v c) other b = heldGet c other b))

/-- Writes of PG_EVEN, PG_EVSET, PG_EVT and PG_FLT complete one after another, and each YCP request in order completes with its operation. PG_EVEN
followed by PG_EVSET of the same causes makes pending the vector of every cause that was clear. PG_EVSET followed by PG_EVT of the same causes leaves
exactly the causes that were set before and not written. PG_FLT_CLEAR, of any page but a belay code in BLY, leaves code 0 where no condition stands, else the code it found. A READ or WRITE of one word that the window takes is answered DONE with count 1 and the data read; READ_BLOCK and
WRITE_BLOCK perform their words from the address on; a COMMAND becomes an entry of the session; after each, the held requests that follow are run.
(R36, R37, R81, R82; derived) -/
def Obligations.EventWritesAndYcpRequestsComplete : Prop :=
  (∀ (s : State) (path : Path) (p : Page) (v : Word), CanWrite s path p →
    ∃ t u, exec (.pgEvenWrite path p v) s = .next t ∧ exec (.pgEvsetWrite path p v) t = .next u ∧ rd u.chip p 0x014 = v ∧
      (hdr u.chip p).evt = (hdr s.chip p).evt ||| v ∧
      (∀ b < 32, bit v b = true → bit (hdr s.chip p).evt b = false → bit u.chip.evt.pend (vecOf s.chip p b) = true) ∧ u.mem = s.mem) ∧
  (∀ (s : State) (path : Path) (p : Page) (v : Word), CanWrite s path p →
    ∃ t u, exec (.pgEvsetWrite path p v) s = .next t ∧ exec (.pgEvtWrite path p v) t = .next u ∧
      (hdr u.chip p).evt = (hdr s.chip p).evt &&& ~~~v ∧ (∀ q, q ≠ p → hdr u.chip q = hdr s.chip q) ∧ u.chip.regs = s.chip.regs ∧ u.mem = s.mem) ∧
  (∀ (s : State) (path : Path) (p : Page), CanWrite s path p → (p = .bly → (hdr s.chip p).fltCode.toNat < 0xB0) →
    ∃ t, exec (.pgFltClear path p) s = .next t ∧ (hdr t.chip p).fltCode = (if clearStands s.chip p then (hdr s.chip p).fltCode else 0) ∧ t.mem = s.mem) ∧
  (∀ (s t : State) (i : Fin 4) (g : Dgram) (b : YcpBody) (v : Word), g.seq = (session s.chip i.val).exp → (∀ h ∈ (session s.chip i.val).held, h.1 ≠ g.seq) →
    (Heard s 0x03 i .sealed (ycpPlain { kind := .read, body := b }) g → ycpBad { kind := .read, body := b } = none →
      ycpReadOne i (fld b.addr 23 0) (onChip (inOrder i) s) = (t, .ok v) →
      exec (.ycpRead i g b) s = .next (ycpDrain i 15 (ycpAnswer i.val g.seq stDone 0 1 0 [v] t))) ∧
    (Heard s 0x03 i .sealed (ycpPlain { kind := .write, body := b }) g → ycpBad { kind := .write, body := b } = none → beWords b.rest = [v] →
      ycpWriteOne i (fld b.addr 23 0) v (onChip (inOrder i) s) = (t, none) →
      exec (.ycpWrite i g b) s = .next (ycpDrain i 15 (ycpAnswer i.val g.seq stDone 0 1 0 [] t))) ∧
    (Heard s 0x03 i .sealed (ycpPlain { kind := .readBlock, body := b }) g → ycpBad { kind := .readBlock, body := b } = none →
      exec (.ycpReadBlock i g b) s = .next (ycpDrain i 15 (ycpReadWords i g.seq b.count.toNat (fld b.addr 23 0) [] (onChip (inOrder i) s)))) ∧
    (Heard s 0x03 i .sealed (ycpPlain { kind := .writeBlock, body := b }) g → ycpBad { kind := .writeBlock, body := b } = none →
      exec (.ycpWriteBlock i g b) s = .next (ycpDrain i 15 (ycpWriteWords i g.seq (beWords b.rest) (fld b.addr 23 0) 0 (onChip (inOrder i) s)))) ∧
    (∀ buf, Heard s 0x03 i .sealed (ycpPlain { kind := .command, body := b, buf := buf }) g → ycpBad { kind := .command, body := b, buf := buf } = none →
      orphanUse (onChip (inOrder i) s).chip < 256 → commandServes (onChip (inOrder i) s).chip = true →
      exec (.ycpCommand i g b buf) s = .next (ycpDrain i 15 (settleCmds (onChip (acceptEntry (.ycp i g.seq) { entry := BitVec.ofNat 512 (ofBytes b.rest), buf := buf })
        (onChip (inOrder i) s))))))
end

