-- ==== Sys2Proof/Laws/State.lean ====
section
/-!
SUPPORT. What each of the named updates of the state leaves: one lemma per part of the state and update.
-/

namespace Sys2Proof.Machine

@[simp] theorem onChip_chip (f : Chip → Chip) (s : State) : (onChip f s).chip = f s.chip := rfl
@[simp] theorem onChip_mem (f : Chip → Chip) (s : State) : (onChip f s).mem = s.mem := rfl
@[simp] theorem onChip_pending (f : Chip → Chip) (s : State) : (onChip f s).pending = s.pending := rfl

@[simp] theorem regSet_pages (a : Nat) (v : Word) (c : Chip) : (regSet a v c).pages = c.pages := rfl
@[simp] theorem regSet_paths (a : Nat) (v : Word) (c : Chip) : (regSet a v c).paths = c.paths := rfl
@[simp] theorem regSet_held (a : Nat) (v : Word) (c : Chip) : (regSet a v c).held = c.held := rfl
@[simp] theorem regSet_faultSeq (a : Nat) (v : Word) (c : Chip) : (regSet a v c).faultSeq = c.faultSeq := rfl
@[simp] theorem regSet_clk (a : Nat) (v : Word) (c : Chip) : (regSet a v c).clk = c.clk := rfl
@[simp] theorem regSet_tim (a : Nat) (v : Word) (c : Chip) : (regSet a v c).tim = c.tim := rfl
@[simp] theorem regSet_knt (a : Nat) (v : Word) (c : Chip) : (regSet a v c).knt = c.knt := rfl
@[simp] theorem regSet_evt (a : Nat) (v : Word) (c : Chip) : (regSet a v c).evt = c.evt := rfl
@[simp] theorem regSet_cmd (a : Nat) (v : Word) (c : Chip) : (regSet a v c).cmd = c.cmd := rfl
@[simp] theorem regSet_net (a : Nat) (v : Word) (c : Chip) : (regSet a v c).net = c.net := rfl
@[simp] theorem regSet_ycp (a : Nat) (v : Word) (c : Chip) : (regSet a v c).ycp = c.ycp := rfl
@[simp] theorem regSet_hfr (a : Nat) (v : Word) (c : Chip) : (regSet a v c).hfr = c.hfr := rfl
@[simp] theorem regSet_axes (a : Nat) (v : Word) (c : Chip) : (regSet a v c).axes = c.axes := rfl
@[simp] theorem regSet_grps (a : Nat) (v : Word) (c : Chip) : (regSet a v c).grps = c.grps := rfl
@[simp] theorem regSet_hits (a : Nat) (v : Word) (c : Chip) : (regSet a v c).hits = c.hits := rfl
@[simp] theorem regSet_cam (a : Nat) (v : Word) (c : Chip) : (regSet a v c).cam = c.cam := rfl
@[simp] theorem regSet_loops (a : Nat) (v : Word) (c : Chip) : (regSet a v c).loops = c.loops := rfl
@[simp] theorem regSet_lpes (a : Nat) (v : Word) (c : Chip) : (regSet a v c).lpes = c.lpes := rfl
@[simp] theorem regSet_sups (a : Nat) (v : Word) (c : Chip) : (regSet a v c).sups = c.sups := rfl
@[simp] theorem regSet_buses (a : Nat) (v : Word) (c : Chip) : (regSet a v c).buses = c.buses := rfl
@[simp] theorem regSet_mods (a : Nat) (v : Word) (c : Chip) : (regSet a v c).mods = c.mods := rfl
@[simp] theorem regSet_fbks (a : Nat) (v : Word) (c : Chip) : (regSet a v c).fbks = c.fbks := rfl
@[simp] theorem regSet_snls (a : Nat) (v : Word) (c : Chip) : (regSet a v c).snls = c.snls := rfl
@[simp] theorem regSet_adcs (a : Nat) (v : Word) (c : Chip) : (regSet a v c).adcs = c.adcs := rfl
@[simp] theorem regSet_sdfs (a : Nat) (v : Word) (c : Chip) : (regSet a v c).sdfs = c.sdfs := rfl
@[simp] theorem regSet_sdfSeq (a : Nat) (v : Word) (c : Chip) : (regSet a v c).sdfSeq = c.sdfSeq := rfl
@[simp] theorem regSet_cores (a : Nat) (v : Word) (c : Chip) : (regSet a v c).cores = c.cores := rfl
@[simp] theorem regSet_dsp (a : Nat) (v : Word) (c : Chip) : (regSet a v c).dsp = c.dsp := rfl
@[simp] theorem regSet_trc (a : Nat) (v : Word) (c : Chip) : (regSet a v c).trc = c.trc := rfl
@[simp] theorem regSet_fld (a : Nat) (v : Word) (c : Chip) : (regSet a v c).fld = c.fld := rfl
@[simp] theorem regSet_field (a : Nat) (v : Word) (c : Chip) : (regSet a v c).field = c.field := rfl
@[simp] theorem regSet_bly (a : Nat) (v : Word) (c : Chip) : (regSet a v c).bly = c.bly := rfl
@[simp] theorem regSet_memc (a : Nat) (v : Word) (c : Chip) : (regSet a v c).memc = c.memc := rfl
@[simp] theorem regSet_scb (a : Nat) (v : Word) (c : Chip) : (regSet a v c).scb = c.scb := rfl
@[simp] theorem regSet_keep (a : Nat) (v : Word) (c : Chip) : (regSet a v c).keep = c.keep := rfl
@[simp] theorem regSet_pwr (a : Nat) (v : Word) (c : Chip) : (regSet a v c).pwr = c.pwr := rfl
@[simp] theorem regSet_sec (a : Nat) (v : Word) (c : Chip) : (regSet a v c).sec = c.sec := rfl
@[simp] theorem regSet_dbg (a : Nat) (v : Word) (c : Chip) : (regSet a v c).dbg = c.dbg := rfl
@[simp] theorem regSet_spl (a : Nat) (v : Word) (c : Chip) : (regSet a v c).spl = c.spl := rfl
@[simp] theorem regSet_free (a : Nat) (v : Word) (c : Chip) : (regSet a v c).free = c.free := rfl
@[simp] theorem regSet_svcSafety (a : Nat) (v : Word) (c : Chip) : (regSet a v c).svcSafety = c.svcSafety := rfl
@[simp] theorem regSet_svcPcie (a : Nat) (v : Word) (c : Chip) : (regSet a v c).svcPcie = c.svcPcie := rfl
@[simp] theorem regSet_out (a : Nat) (v : Word) (c : Chip) : (regSet a v c).out = c.out := rfl

@[simp] theorem wr_pages (p : Page) (off : Nat) (v : Word) (c : Chip) : (wr p off v c).pages = c.pages := rfl
@[simp] theorem wr_paths (p : Page) (off : Nat) (v : Word) (c : Chip) : (wr p off v c).paths = c.paths := rfl
@[simp] theorem wr_held (p : Page) (off : Nat) (v : Word) (c : Chip) : (wr p off v c).held = c.held := rfl
@[simp] theorem wr_faultSeq (p : Page) (off : Nat) (v : Word) (c : Chip) : (wr p off v c).faultSeq = c.faultSeq := rfl
@[simp] theorem wr_clk (p : Page) (off : Nat) (v : Word) (c : Chip) : (wr p off v c).clk = c.clk := rfl
@[simp] theorem wr_tim (p : Page) (off : Nat) (v : Word) (c : Chip) : (wr p off v c).tim = c.tim := rfl
@[simp] theorem wr_knt (p : Page) (off : Nat) (v : Word) (c : Chip) : (wr p off v c).knt = c.knt := rfl
@[simp] theorem wr_evt (p : Page) (off : Nat) (v : Word) (c : Chip) : (wr p off v c).evt = c.evt := rfl
@[simp] theorem wr_cmd (p : Page) (off : Nat) (v : Word) (c : Chip) : (wr p off v c).cmd = c.cmd := rfl
@[simp] theorem wr_net (p : Page) (off : Nat) (v : Word) (c : Chip) : (wr p off v c).net = c.net := rfl
@[simp] theorem wr_ycp (p : Page) (off : Nat) (v : Word) (c : Chip) : (wr p off v c).ycp = c.ycp := rfl
@[simp] theorem wr_hfr (p : Page) (off : Nat) (v : Word) (c : Chip) : (wr p off v c).hfr = c.hfr := rfl
@[simp] theorem wr_axes (p : Page) (off : Nat) (v : Word) (c : Chip) : (wr p off v c).axes = c.axes := rfl
@[simp] theorem wr_grps (p : Page) (off : Nat) (v : Word) (c : Chip) : (wr p off v c).grps = c.grps := rfl
@[simp] theorem wr_hits (p : Page) (off : Nat) (v : Word) (c : Chip) : (wr p off v c).hits = c.hits := rfl
@[simp] theorem wr_cam (p : Page) (off : Nat) (v : Word) (c : Chip) : (wr p off v c).cam = c.cam := rfl
@[simp] theorem wr_loops (p : Page) (off : Nat) (v : Word) (c : Chip) : (wr p off v c).loops = c.loops := rfl
@[simp] theorem wr_lpes (p : Page) (off : Nat) (v : Word) (c : Chip) : (wr p off v c).lpes = c.lpes := rfl
@[simp] theorem wr_sups (p : Page) (off : Nat) (v : Word) (c : Chip) : (wr p off v c).sups = c.sups := rfl
@[simp] theorem wr_buses (p : Page) (off : Nat) (v : Word) (c : Chip) : (wr p off v c).buses = c.buses := rfl
@[simp] theorem wr_mods (p : Page) (off : Nat) (v : Word) (c : Chip) : (wr p off v c).mods = c.mods := rfl
@[simp] theorem wr_fbks (p : Page) (off : Nat) (v : Word) (c : Chip) : (wr p off v c).fbks = c.fbks := rfl
@[simp] theorem wr_snls (p : Page) (off : Nat) (v : Word) (c : Chip) : (wr p off v c).snls = c.snls := rfl
@[simp] theorem wr_adcs (p : Page) (off : Nat) (v : Word) (c : Chip) : (wr p off v c).adcs = c.adcs := rfl
@[simp] theorem wr_sdfs (p : Page) (off : Nat) (v : Word) (c : Chip) : (wr p off v c).sdfs = c.sdfs := rfl
@[simp] theorem wr_sdfSeq (p : Page) (off : Nat) (v : Word) (c : Chip) : (wr p off v c).sdfSeq = c.sdfSeq := rfl
@[simp] theorem wr_cores (p : Page) (off : Nat) (v : Word) (c : Chip) : (wr p off v c).cores = c.cores := rfl
@[simp] theorem wr_dsp (p : Page) (off : Nat) (v : Word) (c : Chip) : (wr p off v c).dsp = c.dsp := rfl
@[simp] theorem wr_trc (p : Page) (off : Nat) (v : Word) (c : Chip) : (wr p off v c).trc = c.trc := rfl
@[simp] theorem wr_fld (p : Page) (off : Nat) (v : Word) (c : Chip) : (wr p off v c).fld = c.fld := rfl
@[simp] theorem wr_field (p : Page) (off : Nat) (v : Word) (c : Chip) : (wr p off v c).field = c.field := rfl
@[simp] theorem wr_bly (p : Page) (off : Nat) (v : Word) (c : Chip) : (wr p off v c).bly = c.bly := rfl
@[simp] theorem wr_memc (p : Page) (off : Nat) (v : Word) (c : Chip) : (wr p off v c).memc = c.memc := rfl
@[simp] theorem wr_scb (p : Page) (off : Nat) (v : Word) (c : Chip) : (wr p off v c).scb = c.scb := rfl
@[simp] theorem wr_keep (p : Page) (off : Nat) (v : Word) (c : Chip) : (wr p off v c).keep = c.keep := rfl
@[simp] theorem wr_pwr (p : Page) (off : Nat) (v : Word) (c : Chip) : (wr p off v c).pwr = c.pwr := rfl
@[simp] theorem wr_sec (p : Page) (off : Nat) (v : Word) (c : Chip) : (wr p off v c).sec = c.sec := rfl
@[simp] theorem wr_dbg (p : Page) (off : Nat) (v : Word) (c : Chip) : (wr p off v c).dbg = c.dbg := rfl
@[simp] theorem wr_spl (p : Page) (off : Nat) (v : Word) (c : Chip) : (wr p off v c).spl = c.spl := rfl
@[simp] theorem wr_free (p : Page) (off : Nat) (v : Word) (c : Chip) : (wr p off v c).free = c.free := rfl
@[simp] theorem wr_svcSafety (p : Page) (off : Nat) (v : Word) (c : Chip) : (wr p off v c).svcSafety = c.svcSafety := rfl
@[simp] theorem wr_svcPcie (p : Page) (off : Nat) (v : Word) (c : Chip) : (wr p off v c).svcPcie = c.svcPcie := rfl
@[simp] theorem wr_out (p : Page) (off : Nat) (v : Word) (c : Chip) : (wr p off v c).out = c.out := rfl

@[simp] theorem wrPair_pages (p : Page) (off : Nat) (v : DWord) (c : Chip) : (wrPair p off v c).pages = c.pages := rfl
@[simp] theorem wrPair_paths (p : Page) (off : Nat) (v : DWord) (c : Chip) : (wrPair p off v c).paths = c.paths := rfl
@[simp] theorem wrPair_held (p : Page) (off : Nat) (v : DWord) (c : Chip) : (wrPair p off v c).held = c.held := rfl
@[simp] theorem wrPair_faultSeq (p : Page) (off : Nat) (v : DWord) (c : Chip) : (wrPair p off v c).faultSeq = c.faultSeq := rfl
@[simp] theorem wrPair_clk (p : Page) (off : Nat) (v : DWord) (c : Chip) : (wrPair p off v c).clk = c.clk := rfl
@[simp] theorem wrPair_tim (p : Page) (off : Nat) (v : DWord) (c : Chip) : (wrPair p off v c).tim = c.tim := rfl
@[simp] theorem wrPair_knt (p : Page) (off : Nat) (v : DWord) (c : Chip) : (wrPair p off v c).knt = c.knt := rfl
@[simp] theorem wrPair_evt (p : Page) (off : Nat) (v : DWord) (c : Chip) : (wrPair p off v c).evt = c.evt := rfl
@[simp] theorem wrPair_cmd (p : Page) (off : Nat) (v : DWord) (c : Chip) : (wrPair p off v c).cmd = c.cmd := rfl
@[simp] theorem wrPair_net (p : Page) (off : Nat) (v : DWord) (c : Chip) : (wrPair p off v c).net = c.net := rfl
@[simp] theorem wrPair_ycp (p : Page) (off : Nat) (v : DWord) (c : Chip) : (wrPair p off v c).ycp = c.ycp := rfl
@[simp] theorem wrPair_hfr (p : Page) (off : Nat) (v : DWord) (c : Chip) : (wrPair p off v c).hfr = c.hfr := rfl
@[simp] theorem wrPair_axes (p : Page) (off : Nat) (v : DWord) (c : Chip) : (wrPair p off v c).axes = c.axes := rfl
@[simp] theorem wrPair_grps (p : Page) (off : Nat) (v : DWord) (c : Chip) : (wrPair p off v c).grps = c.grps := rfl
@[simp] theorem wrPair_hits (p : Page) (off : Nat) (v : DWord) (c : Chip) : (wrPair p off v c).hits = c.hits := rfl
@[simp] theorem wrPair_cam (p : Page) (off : Nat) (v : DWord) (c : Chip) : (wrPair p off v c).cam = c.cam := rfl
@[simp] theorem wrPair_loops (p : Page) (off : Nat) (v : DWord) (c : Chip) : (wrPair p off v c).loops = c.loops := rfl
@[simp] theorem wrPair_lpes (p : Page) (off : Nat) (v : DWord) (c : Chip) : (wrPair p off v c).lpes = c.lpes := rfl
@[simp] theorem wrPair_sups (p : Page) (off : Nat) (v : DWord) (c : Chip) : (wrPair p off v c).sups = c.sups := rfl
@[simp] theorem wrPair_buses (p : Page) (off : Nat) (v : DWord) (c : Chip) : (wrPair p off v c).buses = c.buses := rfl
@[simp] theorem wrPair_mods (p : Page) (off : Nat) (v : DWord) (c : Chip) : (wrPair p off v c).mods = c.mods := rfl
@[simp] theorem wrPair_fbks (p : Page) (off : Nat) (v : DWord) (c : Chip) : (wrPair p off v c).fbks = c.fbks := rfl
@[simp] theorem wrPair_snls (p : Page) (off : Nat) (v : DWord) (c : Chip) : (wrPair p off v c).snls = c.snls := rfl
@[simp] theorem wrPair_adcs (p : Page) (off : Nat) (v : DWord) (c : Chip) : (wrPair p off v c).adcs = c.adcs := rfl
@[simp] theorem wrPair_sdfs (p : Page) (off : Nat) (v : DWord) (c : Chip) : (wrPair p off v c).sdfs = c.sdfs := rfl
@[simp] theorem wrPair_sdfSeq (p : Page) (off : Nat) (v : DWord) (c : Chip) : (wrPair p off v c).sdfSeq = c.sdfSeq := rfl
@[simp] theorem wrPair_cores (p : Page) (off : Nat) (v : DWord) (c : Chip) : (wrPair p off v c).cores = c.cores := rfl
@[simp] theorem wrPair_dsp (p : Page) (off : Nat) (v : DWord) (c : Chip) : (wrPair p off v c).dsp = c.dsp := rfl
@[simp] theorem wrPair_trc (p : Page) (off : Nat) (v : DWord) (c : Chip) : (wrPair p off v c).trc = c.trc := rfl
@[simp] theorem wrPair_fld (p : Page) (off : Nat) (v : DWord) (c : Chip) : (wrPair p off v c).fld = c.fld := rfl
@[simp] theorem wrPair_field (p : Page) (off : Nat) (v : DWord) (c : Chip) : (wrPair p off v c).field = c.field := rfl
@[simp] theorem wrPair_bly (p : Page) (off : Nat) (v : DWord) (c : Chip) : (wrPair p off v c).bly = c.bly := rfl
@[simp] theorem wrPair_memc (p : Page) (off : Nat) (v : DWord) (c : Chip) : (wrPair p off v c).memc = c.memc := rfl
@[simp] theorem wrPair_scb (p : Page) (off : Nat) (v : DWord) (c : Chip) : (wrPair p off v c).scb = c.scb := rfl
@[simp] theorem wrPair_keep (p : Page) (off : Nat) (v : DWord) (c : Chip) : (wrPair p off v c).keep = c.keep := rfl
@[simp] theorem wrPair_pwr (p : Page) (off : Nat) (v : DWord) (c : Chip) : (wrPair p off v c).pwr = c.pwr := rfl
@[simp] theorem wrPair_sec (p : Page) (off : Nat) (v : DWord) (c : Chip) : (wrPair p off v c).sec = c.sec := rfl
@[simp] theorem wrPair_dbg (p : Page) (off : Nat) (v : DWord) (c : Chip) : (wrPair p off v c).dbg = c.dbg := rfl
@[simp] theorem wrPair_spl (p : Page) (off : Nat) (v : DWord) (c : Chip) : (wrPair p off v c).spl = c.spl := rfl
@[simp] theorem wrPair_free (p : Page) (off : Nat) (v : DWord) (c : Chip) : (wrPair p off v c).free = c.free := rfl
@[simp] theorem wrPair_svcSafety (p : Page) (off : Nat) (v : DWord) (c : Chip) : (wrPair p off v c).svcSafety = c.svcSafety := rfl
@[simp] theorem wrPair_svcPcie (p : Page) (off : Nat) (v : DWord) (c : Chip) : (wrPair p off v c).svcPcie = c.svcPcie := rfl
@[simp] theorem wrPair_out (p : Page) (off : Nat) (v : DWord) (c : Chip) : (wrPair p off v c).out = c.out := rfl

@[simp] theorem wrF_pages (p : Page) (off hi lo v : Nat) (c : Chip) : (wrF p off hi lo v c).pages = c.pages := rfl
@[simp] theorem wrF_paths (p : Page) (off hi lo v : Nat) (c : Chip) : (wrF p off hi lo v c).paths = c.paths := rfl
@[simp] theorem wrF_held (p : Page) (off hi lo v : Nat) (c : Chip) : (wrF p off hi lo v c).held = c.held := rfl
@[simp] theorem wrF_faultSeq (p : Page) (off hi lo v : Nat) (c : Chip) : (wrF p off hi lo v c).faultSeq = c.faultSeq := rfl
@[simp] theorem wrF_clk (p : Page) (off hi lo v : Nat) (c : Chip) : (wrF p off hi lo v c).clk = c.clk := rfl
@[simp] theorem wrF_tim (p : Page) (off hi lo v : Nat) (c : Chip) : (wrF p off hi lo v c).tim = c.tim := rfl
@[simp] theorem wrF_knt (p : Page) (off hi lo v : Nat) (c : Chip) : (wrF p off hi lo v c).knt = c.knt := rfl
@[simp] theorem wrF_evt (p : Page) (off hi lo v : Nat) (c : Chip) : (wrF p off hi lo v c).evt = c.evt := rfl
@[simp] theorem wrF_cmd (p : Page) (off hi lo v : Nat) (c : Chip) : (wrF p off hi lo v c).cmd = c.cmd := rfl
@[simp] theorem wrF_net (p : Page) (off hi lo v : Nat) (c : Chip) : (wrF p off hi lo v c).net = c.net := rfl
@[simp] theorem wrF_ycp (p : Page) (off hi lo v : Nat) (c : Chip) : (wrF p off hi lo v c).ycp = c.ycp := rfl
@[simp] theorem wrF_hfr (p : Page) (off hi lo v : Nat) (c : Chip) : (wrF p off hi lo v c).hfr = c.hfr := rfl
@[simp] theorem wrF_axes (p : Page) (off hi lo v : Nat) (c : Chip) : (wrF p off hi lo v c).axes = c.axes := rfl
@[simp] theorem wrF_grps (p : Page) (off hi lo v : Nat) (c : Chip) : (wrF p off hi lo v c).grps = c.grps := rfl
@[simp] theorem wrF_hits (p : Page) (off hi lo v : Nat) (c : Chip) : (wrF p off hi lo v c).hits = c.hits := rfl
@[simp] theorem wrF_cam (p : Page) (off hi lo v : Nat) (c : Chip) : (wrF p off hi lo v c).cam = c.cam := rfl
@[simp] theorem wrF_loops (p : Page) (off hi lo v : Nat) (c : Chip) : (wrF p off hi lo v c).loops = c.loops := rfl
@[simp] theorem wrF_lpes (p : Page) (off hi lo v : Nat) (c : Chip) : (wrF p off hi lo v c).lpes = c.lpes := rfl
@[simp] theorem wrF_sups (p : Page) (off hi lo v : Nat) (c : Chip) : (wrF p off hi lo v c).sups = c.sups := rfl
@[simp] theorem wrF_buses (p : Page) (off hi lo v : Nat) (c : Chip) : (wrF p off hi lo v c).buses = c.buses := rfl
@[simp] theorem wrF_mods (p : Page) (off hi lo v : Nat) (c : Chip) : (wrF p off hi lo v c).mods = c.mods := rfl
@[simp] theorem wrF_fbks (p : Page) (off hi lo v : Nat) (c : Chip) : (wrF p off hi lo v c).fbks = c.fbks := rfl
@[simp] theorem wrF_snls (p : Page) (off hi lo v : Nat) (c : Chip) : (wrF p off hi lo v c).snls = c.snls := rfl
@[simp] theorem wrF_adcs (p : Page) (off hi lo v : Nat) (c : Chip) : (wrF p off hi lo v c).adcs = c.adcs := rfl
@[simp] theorem wrF_sdfs (p : Page) (off hi lo v : Nat) (c : Chip) : (wrF p off hi lo v c).sdfs = c.sdfs := rfl
@[simp] theorem wrF_sdfSeq (p : Page) (off hi lo v : Nat) (c : Chip) : (wrF p off hi lo v c).sdfSeq = c.sdfSeq := rfl
@[simp] theorem wrF_cores (p : Page) (off hi lo v : Nat) (c : Chip) : (wrF p off hi lo v c).cores = c.cores := rfl
@[simp] theorem wrF_dsp (p : Page) (off hi lo v : Nat) (c : Chip) : (wrF p off hi lo v c).dsp = c.dsp := rfl
@[simp] theorem wrF_trc (p : Page) (off hi lo v : Nat) (c : Chip) : (wrF p off hi lo v c).trc = c.trc := rfl
@[simp] theorem wrF_fld (p : Page) (off hi lo v : Nat) (c : Chip) : (wrF p off hi lo v c).fld = c.fld := rfl
@[simp] theorem wrF_field (p : Page) (off hi lo v : Nat) (c : Chip) : (wrF p off hi lo v c).field = c.field := rfl
@[simp] theorem wrF_bly (p : Page) (off hi lo v : Nat) (c : Chip) : (wrF p off hi lo v c).bly = c.bly := rfl
@[simp] theorem wrF_memc (p : Page) (off hi lo v : Nat) (c : Chip) : (wrF p off hi lo v c).memc = c.memc := rfl
@[simp] theorem wrF_scb (p : Page) (off hi lo v : Nat) (c : Chip) : (wrF p off hi lo v c).scb = c.scb := rfl
@[simp] theorem wrF_keep (p : Page) (off hi lo v : Nat) (c : Chip) : (wrF p off hi lo v c).keep = c.keep := rfl
@[simp] theorem wrF_pwr (p : Page) (off hi lo v : Nat) (c : Chip) : (wrF p off hi lo v c).pwr = c.pwr := rfl
@[simp] theorem wrF_sec (p : Page) (off hi lo v : Nat) (c : Chip) : (wrF p off hi lo v c).sec = c.sec := rfl
@[simp] theorem wrF_dbg (p : Page) (off hi lo v : Nat) (c : Chip) : (wrF p off hi lo v c).dbg = c.dbg := rfl
@[simp] theorem wrF_spl (p : Page) (off hi lo v : Nat) (c : Chip) : (wrF p off hi lo v c).spl = c.spl := rfl
@[simp] theorem wrF_free (p : Page) (off hi lo v : Nat) (c : Chip) : (wrF p off hi lo v c).free = c.free := rfl
@[simp] theorem wrF_svcSafety (p : Page) (off hi lo v : Nat) (c : Chip) : (wrF p off hi lo v c).svcSafety = c.svcSafety := rfl
@[simp] theorem wrF_svcPcie (p : Page) (off hi lo v : Nat) (c : Chip) : (wrF p off hi lo v c).svcPcie = c.svcPcie := rfl
@[simp] theorem wrF_out (p : Page) (off hi lo v : Nat) (c : Chip) : (wrF p off hi lo v c).out = c.out := rfl

@[simp] theorem heldSet_regs (path : Path) (a : Nat) (v : Word) (c : Chip) : (heldSet path a v c).regs = c.regs := rfl
@[simp] theorem heldSet_pages (path : Path) (a : Nat) (v : Word) (c : Chip) : (heldSet path a v c).pages = c.pages := rfl
@[simp] theorem heldSet_paths (path : Path) (a : Nat) (v : Word) (c : Chip) : (heldSet path a v c).paths = c.paths := rfl
@[simp] theorem heldSet_faultSeq (path : Path) (a : Nat) (v : Word) (c : Chip) : (heldSet path a v c).faultSeq = c.faultSeq := rfl
@[simp] theorem heldSet_clk (path : Path) (a : Nat) (v : Word) (c : Chip) : (heldSet path a v c).clk = c.clk := rfl
@[simp] theorem heldSet_tim (path : Path) (a : Nat) (v : Word) (c : Chip) : (heldSet path a v c).tim = c.tim := rfl
@[simp] theorem heldSet_knt (path : Path) (a : Nat) (v : Word) (c : Chip) : (heldSet path a v c).knt = c.knt := rfl
@[simp] theorem heldSet_evt (path : Path) (a : Nat) (v : Word) (c : Chip) : (heldSet path a v c).evt = c.evt := rfl
@[simp] theorem heldSet_cmd (path : Path) (a : Nat) (v : Word) (c : Chip) : (heldSet path a v c).cmd = c.cmd := rfl
@[simp] theorem heldSet_net (path : Path) (a : Nat) (v : Word) (c : Chip) : (heldSet path a v c).net = c.net := rfl
@[simp] theorem heldSet_ycp (path : Path) (a : Nat) (v : Word) (c : Chip) : (heldSet path a v c).ycp = c.ycp := rfl
@[simp] theorem heldSet_hfr (path : Path) (a : Nat) (v : Word) (c : Chip) : (heldSet path a v c).hfr = c.hfr := rfl
@[simp] theorem heldSet_axes (path : Path) (a : Nat) (v : Word) (c : Chip) : (heldSet path a v c).axes = c.axes := rfl
@[simp] theorem heldSet_grps (path : Path) (a : Nat) (v : Word) (c : Chip) : (heldSet path a v c).grps = c.grps := rfl
@[simp] theorem heldSet_hits (path : Path) (a : Nat) (v : Word) (c : Chip) : (heldSet path a v c).hits = c.hits := rfl
@[simp] theorem heldSet_cam (path : Path) (a : Nat) (v : Word) (c : Chip) : (heldSet path a v c).cam = c.cam := rfl
@[simp] theorem heldSet_loops (path : Path) (a : Nat) (v : Word) (c : Chip) : (heldSet path a v c).loops = c.loops := rfl
@[simp] theorem heldSet_lpes (path : Path) (a : Nat) (v : Word) (c : Chip) : (heldSet path a v c).lpes = c.lpes := rfl
@[simp] theorem heldSet_sups (path : Path) (a : Nat) (v : Word) (c : Chip) : (heldSet path a v c).sups = c.sups := rfl
@[simp] theorem heldSet_buses (path : Path) (a : Nat) (v : Word) (c : Chip) : (heldSet path a v c).buses = c.buses := rfl
@[simp] theorem heldSet_mods (path : Path) (a : Nat) (v : Word) (c : Chip) : (heldSet path a v c).mods = c.mods := rfl
@[simp] theorem heldSet_fbks (path : Path) (a : Nat) (v : Word) (c : Chip) : (heldSet path a v c).fbks = c.fbks := rfl
@[simp] theorem heldSet_snls (path : Path) (a : Nat) (v : Word) (c : Chip) : (heldSet path a v c).snls = c.snls := rfl
@[simp] theorem heldSet_adcs (path : Path) (a : Nat) (v : Word) (c : Chip) : (heldSet path a v c).adcs = c.adcs := rfl
@[simp] theorem heldSet_sdfs (path : Path) (a : Nat) (v : Word) (c : Chip) : (heldSet path a v c).sdfs = c.sdfs := rfl
@[simp] theorem heldSet_sdfSeq (path : Path) (a : Nat) (v : Word) (c : Chip) : (heldSet path a v c).sdfSeq = c.sdfSeq := rfl
@[simp] theorem heldSet_cores (path : Path) (a : Nat) (v : Word) (c : Chip) : (heldSet path a v c).cores = c.cores := rfl
@[simp] theorem heldSet_dsp (path : Path) (a : Nat) (v : Word) (c : Chip) : (heldSet path a v c).dsp = c.dsp := rfl
@[simp] theorem heldSet_trc (path : Path) (a : Nat) (v : Word) (c : Chip) : (heldSet path a v c).trc = c.trc := rfl
@[simp] theorem heldSet_fld (path : Path) (a : Nat) (v : Word) (c : Chip) : (heldSet path a v c).fld = c.fld := rfl
@[simp] theorem heldSet_field (path : Path) (a : Nat) (v : Word) (c : Chip) : (heldSet path a v c).field = c.field := rfl
@[simp] theorem heldSet_bly (path : Path) (a : Nat) (v : Word) (c : Chip) : (heldSet path a v c).bly = c.bly := rfl
@[simp] theorem heldSet_memc (path : Path) (a : Nat) (v : Word) (c : Chip) : (heldSet path a v c).memc = c.memc := rfl
@[simp] theorem heldSet_scb (path : Path) (a : Nat) (v : Word) (c : Chip) : (heldSet path a v c).scb = c.scb := rfl
@[simp] theorem heldSet_keep (path : Path) (a : Nat) (v : Word) (c : Chip) : (heldSet path a v c).keep = c.keep := rfl
@[simp] theorem heldSet_pwr (path : Path) (a : Nat) (v : Word) (c : Chip) : (heldSet path a v c).pwr = c.pwr := rfl
@[simp] theorem heldSet_sec (path : Path) (a : Nat) (v : Word) (c : Chip) : (heldSet path a v c).sec = c.sec := rfl
@[simp] theorem heldSet_dbg (path : Path) (a : Nat) (v : Word) (c : Chip) : (heldSet path a v c).dbg = c.dbg := rfl
@[simp] theorem heldSet_spl (path : Path) (a : Nat) (v : Word) (c : Chip) : (heldSet path a v c).spl = c.spl := rfl
@[simp] theorem heldSet_free (path : Path) (a : Nat) (v : Word) (c : Chip) : (heldSet path a v c).free = c.free := rfl
@[simp] theorem heldSet_svcSafety (path : Path) (a : Nat) (v : Word) (c : Chip) : (heldSet path a v c).svcSafety = c.svcSafety := rfl
@[simp] theorem heldSet_svcPcie (path : Path) (a : Nat) (v : Word) (c : Chip) : (heldSet path a v c).svcPcie = c.svcPcie := rfl
@[simp] theorem heldSet_out (path : Path) (a : Nat) (v : Word) (c : Chip) : (heldSet path a v c).out = c.out := rfl

@[simp] theorem setPath_regs (path : Path) (x : PathSt) (c : Chip) : (setPath path x c).regs = c.regs := rfl
@[simp] theorem setPath_pages (path : Path) (x : PathSt) (c : Chip) : (setPath path x c).pages = c.pages := rfl
@[simp] theorem setPath_held (path : Path) (x : PathSt) (c : Chip) : (setPath path x c).held = c.held := rfl
@[simp] theorem setPath_faultSeq (path : Path) (x : PathSt) (c : Chip) : (setPath path x c).faultSeq = c.faultSeq := rfl
@[simp] theorem setPath_clk (path : Path) (x : PathSt) (c : Chip) : (setPath path x c).clk = c.clk := rfl
@[simp] theorem setPath_tim (path : Path) (x : PathSt) (c : Chip) : (setPath path x c).tim = c.tim := rfl
@[simp] theorem setPath_knt (path : Path) (x : PathSt) (c : Chip) : (setPath path x c).knt = c.knt := rfl
@[simp] theorem setPath_evt (path : Path) (x : PathSt) (c : Chip) : (setPath path x c).evt = c.evt := rfl
@[simp] theorem setPath_cmd (path : Path) (x : PathSt) (c : Chip) : (setPath path x c).cmd = c.cmd := rfl
@[simp] theorem setPath_net (path : Path) (x : PathSt) (c : Chip) : (setPath path x c).net = c.net := rfl
@[simp] theorem setPath_ycp (path : Path) (x : PathSt) (c : Chip) : (setPath path x c).ycp = c.ycp := rfl
@[simp] theorem setPath_hfr (path : Path) (x : PathSt) (c : Chip) : (setPath path x c).hfr = c.hfr := rfl
@[simp] theorem setPath_axes (path : Path) (x : PathSt) (c : Chip) : (setPath path x c).axes = c.axes := rfl
@[simp] theorem setPath_grps (path : Path) (x : PathSt) (c : Chip) : (setPath path x c).grps = c.grps := rfl
@[simp] theorem setPath_hits (path : Path) (x : PathSt) (c : Chip) : (setPath path x c).hits = c.hits := rfl
@[simp] theorem setPath_cam (path : Path) (x : PathSt) (c : Chip) : (setPath path x c).cam = c.cam := rfl
@[simp] theorem setPath_loops (path : Path) (x : PathSt) (c : Chip) : (setPath path x c).loops = c.loops := rfl
@[simp] theorem setPath_lpes (path : Path) (x : PathSt) (c : Chip) : (setPath path x c).lpes = c.lpes := rfl
@[simp] theorem setPath_sups (path : Path) (x : PathSt) (c : Chip) : (setPath path x c).sups = c.sups := rfl
@[simp] theorem setPath_buses (path : Path) (x : PathSt) (c : Chip) : (setPath path x c).buses = c.buses := rfl
@[simp] theorem setPath_mods (path : Path) (x : PathSt) (c : Chip) : (setPath path x c).mods = c.mods := rfl
@[simp] theorem setPath_fbks (path : Path) (x : PathSt) (c : Chip) : (setPath path x c).fbks = c.fbks := rfl
@[simp] theorem setPath_snls (path : Path) (x : PathSt) (c : Chip) : (setPath path x c).snls = c.snls := rfl
@[simp] theorem setPath_adcs (path : Path) (x : PathSt) (c : Chip) : (setPath path x c).adcs = c.adcs := rfl
@[simp] theorem setPath_sdfs (path : Path) (x : PathSt) (c : Chip) : (setPath path x c).sdfs = c.sdfs := rfl
@[simp] theorem setPath_sdfSeq (path : Path) (x : PathSt) (c : Chip) : (setPath path x c).sdfSeq = c.sdfSeq := rfl
@[simp] theorem setPath_cores (path : Path) (x : PathSt) (c : Chip) : (setPath path x c).cores = c.cores := rfl
@[simp] theorem setPath_dsp (path : Path) (x : PathSt) (c : Chip) : (setPath path x c).dsp = c.dsp := rfl
@[simp] theorem setPath_trc (path : Path) (x : PathSt) (c : Chip) : (setPath path x c).trc = c.trc := rfl
@[simp] theorem setPath_fld (path : Path) (x : PathSt) (c : Chip) : (setPath path x c).fld = c.fld := rfl
@[simp] theorem setPath_field (path : Path) (x : PathSt) (c : Chip) : (setPath path x c).field = c.field := rfl
@[simp] theorem setPath_bly (path : Path) (x : PathSt) (c : Chip) : (setPath path x c).bly = c.bly := rfl
@[simp] theorem setPath_memc (path : Path) (x : PathSt) (c : Chip) : (setPath path x c).memc = c.memc := rfl
@[simp] theorem setPath_scb (path : Path) (x : PathSt) (c : Chip) : (setPath path x c).scb = c.scb := rfl
@[simp] theorem setPath_keep (path : Path) (x : PathSt) (c : Chip) : (setPath path x c).keep = c.keep := rfl
@[simp] theorem setPath_pwr (path : Path) (x : PathSt) (c : Chip) : (setPath path x c).pwr = c.pwr := rfl
@[simp] theorem setPath_sec (path : Path) (x : PathSt) (c : Chip) : (setPath path x c).sec = c.sec := rfl
@[simp] theorem setPath_dbg (path : Path) (x : PathSt) (c : Chip) : (setPath path x c).dbg = c.dbg := rfl
@[simp] theorem setPath_spl (path : Path) (x : PathSt) (c : Chip) : (setPath path x c).spl = c.spl := rfl
@[simp] theorem setPath_free (path : Path) (x : PathSt) (c : Chip) : (setPath path x c).free = c.free := rfl
@[simp] theorem setPath_svcSafety (path : Path) (x : PathSt) (c : Chip) : (setPath path x c).svcSafety = c.svcSafety := rfl
@[simp] theorem setPath_svcPcie (path : Path) (x : PathSt) (c : Chip) : (setPath path x c).svcPcie = c.svcPcie := rfl
@[simp] theorem setPath_out (path : Path) (x : PathSt) (c : Chip) : (setPath path x c).out = c.out := rfl

@[simp] theorem emit_regs (o : Output) (c : Chip) : (emit o c).regs = c.regs := rfl
@[simp] theorem emit_pages (o : Output) (c : Chip) : (emit o c).pages = c.pages := rfl
@[simp] theorem emit_paths (o : Output) (c : Chip) : (emit o c).paths = c.paths := rfl
@[simp] theorem emit_held (o : Output) (c : Chip) : (emit o c).held = c.held := rfl
@[simp] theorem emit_faultSeq (o : Output) (c : Chip) : (emit o c).faultSeq = c.faultSeq := rfl
@[simp] theorem emit_clk (o : Output) (c : Chip) : (emit o c).clk = c.clk := rfl
@[simp] theorem emit_tim (o : Output) (c : Chip) : (emit o c).tim = c.tim := rfl
@[simp] theorem emit_knt (o : Output) (c : Chip) : (emit o c).knt = c.knt := rfl
@[simp] theorem emit_evt (o : Output) (c : Chip) : (emit o c).evt = c.evt := rfl
@[simp] theorem emit_cmd (o : Output) (c : Chip) : (emit o c).cmd = c.cmd := rfl
@[simp] theorem emit_net (o : Output) (c : Chip) : (emit o c).net = c.net := rfl
@[simp] theorem emit_ycp (o : Output) (c : Chip) : (emit o c).ycp = c.ycp := rfl
@[simp] theorem emit_hfr (o : Output) (c : Chip) : (emit o c).hfr = c.hfr := rfl
@[simp] theorem emit_axes (o : Output) (c : Chip) : (emit o c).axes = c.axes := rfl
@[simp] theorem emit_grps (o : Output) (c : Chip) : (emit o c).grps = c.grps := rfl
@[simp] theorem emit_hits (o : Output) (c : Chip) : (emit o c).hits = c.hits := rfl
@[simp] theorem emit_cam (o : Output) (c : Chip) : (emit o c).cam = c.cam := rfl
@[simp] theorem emit_loops (o : Output) (c : Chip) : (emit o c).loops = c.loops := rfl
@[simp] theorem emit_lpes (o : Output) (c : Chip) : (emit o c).lpes = c.lpes := rfl
@[simp] theorem emit_sups (o : Output) (c : Chip) : (emit o c).sups = c.sups := rfl
@[simp] theorem emit_buses (o : Output) (c : Chip) : (emit o c).buses = c.buses := rfl
@[simp] theorem emit_mods (o : Output) (c : Chip) : (emit o c).mods = c.mods := rfl
@[simp] theorem emit_fbks (o : Output) (c : Chip) : (emit o c).fbks = c.fbks := rfl
@[simp] theorem emit_snls (o : Output) (c : Chip) : (emit o c).snls = c.snls := rfl
@[simp] theorem emit_adcs (o : Output) (c : Chip) : (emit o c).adcs = c.adcs := rfl
@[simp] theorem emit_sdfs (o : Output) (c : Chip) : (emit o c).sdfs = c.sdfs := rfl
@[simp] theorem emit_sdfSeq (o : Output) (c : Chip) : (emit o c).sdfSeq = c.sdfSeq := rfl
@[simp] theorem emit_cores (o : Output) (c : Chip) : (emit o c).cores = c.cores := rfl
@[simp] theorem emit_dsp (o : Output) (c : Chip) : (emit o c).dsp = c.dsp := rfl
@[simp] theorem emit_trc (o : Output) (c : Chip) : (emit o c).trc = c.trc := rfl
@[simp] theorem emit_fld (o : Output) (c : Chip) : (emit o c).fld = c.fld := rfl
@[simp] theorem emit_field (o : Output) (c : Chip) : (emit o c).field = c.field := rfl
@[simp] theorem emit_bly (o : Output) (c : Chip) : (emit o c).bly = c.bly := rfl
@[simp] theorem emit_memc (o : Output) (c : Chip) : (emit o c).memc = c.memc := rfl
@[simp] theorem emit_scb (o : Output) (c : Chip) : (emit o c).scb = c.scb := rfl
@[simp] theorem emit_keep (o : Output) (c : Chip) : (emit o c).keep = c.keep := rfl
@[simp] theorem emit_pwr (o : Output) (c : Chip) : (emit o c).pwr = c.pwr := rfl
@[simp] theorem emit_sec (o : Output) (c : Chip) : (emit o c).sec = c.sec := rfl
@[simp] theorem emit_dbg (o : Output) (c : Chip) : (emit o c).dbg = c.dbg := rfl
@[simp] theorem emit_spl (o : Output) (c : Chip) : (emit o c).spl = c.spl := rfl
@[simp] theorem emit_free (o : Output) (c : Chip) : (emit o c).free = c.free := rfl
@[simp] theorem emit_svcSafety (o : Output) (c : Chip) : (emit o c).svcSafety = c.svcSafety := rfl
@[simp] theorem emit_svcPcie (o : Output) (c : Chip) : (emit o c).svcPcie = c.svcPcie := rfl

@[simp] theorem useFresh_regs (c : Chip) : (useFresh c).regs = c.regs := rfl
@[simp] theorem useFresh_pages (c : Chip) : (useFresh c).pages = c.pages := rfl
@[simp] theorem useFresh_paths (c : Chip) : (useFresh c).paths = c.paths := rfl
@[simp] theorem useFresh_held (c : Chip) : (useFresh c).held = c.held := rfl
@[simp] theorem useFresh_faultSeq (c : Chip) : (useFresh c).faultSeq = c.faultSeq := rfl
@[simp] theorem useFresh_clk (c : Chip) : (useFresh c).clk = c.clk := rfl
@[simp] theorem useFresh_tim (c : Chip) : (useFresh c).tim = c.tim := rfl
@[simp] theorem useFresh_knt (c : Chip) : (useFresh c).knt = c.knt := rfl
@[simp] theorem useFresh_evt (c : Chip) : (useFresh c).evt = c.evt := rfl
@[simp] theorem useFresh_cmd (c : Chip) : (useFresh c).cmd = c.cmd := rfl
@[simp] theorem useFresh_net (c : Chip) : (useFresh c).net = c.net := rfl
@[simp] theorem useFresh_ycp (c : Chip) : (useFresh c).ycp = c.ycp := rfl
@[simp] theorem useFresh_hfr (c : Chip) : (useFresh c).hfr = c.hfr := rfl
@[simp] theorem useFresh_axes (c : Chip) : (useFresh c).axes = c.axes := rfl
@[simp] theorem useFresh_grps (c : Chip) : (useFresh c).grps = c.grps := rfl
@[simp] theorem useFresh_hits (c : Chip) : (useFresh c).hits = c.hits := rfl
@[simp] theorem useFresh_cam (c : Chip) : (useFresh c).cam = c.cam := rfl
@[simp] theorem useFresh_loops (c : Chip) : (useFresh c).loops = c.loops := rfl
@[simp] theorem useFresh_lpes (c : Chip) : (useFresh c).lpes = c.lpes := rfl
@[simp] theorem useFresh_sups (c : Chip) : (useFresh c).sups = c.sups := rfl
@[simp] theorem useFresh_buses (c : Chip) : (useFresh c).buses = c.buses := rfl
@[simp] theorem useFresh_mods (c : Chip) : (useFresh c).mods = c.mods := rfl
@[simp] theorem useFresh_fbks (c : Chip) : (useFresh c).fbks = c.fbks := rfl
@[simp] theorem useFresh_snls (c : Chip) : (useFresh c).snls = c.snls := rfl
@[simp] theorem useFresh_adcs (c : Chip) : (useFresh c).adcs = c.adcs := rfl
@[simp] theorem useFresh_sdfs (c : Chip) : (useFresh c).sdfs = c.sdfs := rfl
@[simp] theorem useFresh_sdfSeq (c : Chip) : (useFresh c).sdfSeq = c.sdfSeq := rfl
@[simp] theorem useFresh_cores (c : Chip) : (useFresh c).cores = c.cores := rfl
@[simp] theorem useFresh_dsp (c : Chip) : (useFresh c).dsp = c.dsp := rfl
@[simp] theorem useFresh_trc (c : Chip) : (useFresh c).trc = c.trc := rfl
@[simp] theorem useFresh_fld (c : Chip) : (useFresh c).fld = c.fld := rfl
@[simp] theorem useFresh_field (c : Chip) : (useFresh c).field = c.field := rfl
@[simp] theorem useFresh_bly (c : Chip) : (useFresh c).bly = c.bly := rfl
@[simp] theorem useFresh_memc (c : Chip) : (useFresh c).memc = c.memc := rfl
@[simp] theorem useFresh_scb (c : Chip) : (useFresh c).scb = c.scb := rfl
@[simp] theorem useFresh_keep (c : Chip) : (useFresh c).keep = c.keep := rfl
@[simp] theorem useFresh_pwr (c : Chip) : (useFresh c).pwr = c.pwr := rfl
@[simp] theorem useFresh_sec (c : Chip) : (useFresh c).sec = c.sec := rfl
@[simp] theorem useFresh_dbg (c : Chip) : (useFresh c).dbg = c.dbg := rfl
@[simp] theorem useFresh_spl (c : Chip) : (useFresh c).spl = c.spl := rfl
@[simp] theorem useFresh_svcSafety (c : Chip) : (useFresh c).svcSafety = c.svcSafety := rfl
@[simp] theorem useFresh_svcPcie (c : Chip) : (useFresh c).svcPcie = c.svcPcie := rfl
@[simp] theorem useFresh_out (c : Chip) : (useFresh c).out = c.out := rfl

@[simp] theorem setHdr_regs (p : Page) (h : PageHdr) (c : Chip) : (setHdr p h c).regs = c.regs := rfl
@[simp] theorem setHdr_paths (p : Page) (h : PageHdr) (c : Chip) : (setHdr p h c).paths = c.paths := rfl
@[simp] theorem setHdr_held (p : Page) (h : PageHdr) (c : Chip) : (setHdr p h c).held = c.held := rfl
@[simp] theorem setHdr_faultSeq (p : Page) (h : PageHdr) (c : Chip) : (setHdr p h c).faultSeq = c.faultSeq := rfl
@[simp] theorem setHdr_clk (p : Page) (h : PageHdr) (c : Chip) : (setHdr p h c).clk = c.clk := rfl
@[simp] theorem setHdr_tim (p : Page) (h : PageHdr) (c : Chip) : (setHdr p h c).tim = c.tim := rfl
@[simp] theorem setHdr_knt (p : Page) (h : PageHdr) (c : Chip) : (setHdr p h c).knt = c.knt := rfl
@[simp] theorem setHdr_evt (p : Page) (h : PageHdr) (c : Chip) : (setHdr p h c).evt = c.evt := rfl
@[simp] theorem setHdr_cmd (p : Page) (h : PageHdr) (c : Chip) : (setHdr p h c).cmd = c.cmd := rfl
@[simp] theorem setHdr_net (p : Page) (h : PageHdr) (c : Chip) : (setHdr p h c).net = c.net := rfl
@[simp] theorem setHdr_ycp (p : Page) (h : PageHdr) (c : Chip) : (setHdr p h c).ycp = c.ycp := rfl
@[simp] theorem setHdr_hfr (p : Page) (h : PageHdr) (c : Chip) : (setHdr p h c).hfr = c.hfr := rfl
@[simp] theorem setHdr_axes (p : Page) (h : PageHdr) (c : Chip) : (setHdr p h c).axes = c.axes := rfl
@[simp] theorem setHdr_grps (p : Page) (h : PageHdr) (c : Chip) : (setHdr p h c).grps = c.grps := rfl
@[simp] theorem setHdr_hits (p : Page) (h : PageHdr) (c : Chip) : (setHdr p h c).hits = c.hits := rfl
@[simp] theorem setHdr_cam (p : Page) (h : PageHdr) (c : Chip) : (setHdr p h c).cam = c.cam := rfl
@[simp] theorem setHdr_loops (p : Page) (h : PageHdr) (c : Chip) : (setHdr p h c).loops = c.loops := rfl
@[simp] theorem setHdr_lpes (p : Page) (h : PageHdr) (c : Chip) : (setHdr p h c).lpes = c.lpes := rfl
@[simp] theorem setHdr_sups (p : Page) (h : PageHdr) (c : Chip) : (setHdr p h c).sups = c.sups := rfl
@[simp] theorem setHdr_buses (p : Page) (h : PageHdr) (c : Chip) : (setHdr p h c).buses = c.buses := rfl
@[simp] theorem setHdr_mods (p : Page) (h : PageHdr) (c : Chip) : (setHdr p h c).mods = c.mods := rfl
@[simp] theorem setHdr_fbks (p : Page) (h : PageHdr) (c : Chip) : (setHdr p h c).fbks = c.fbks := rfl
@[simp] theorem setHdr_snls (p : Page) (h : PageHdr) (c : Chip) : (setHdr p h c).snls = c.snls := rfl
@[simp] theorem setHdr_adcs (p : Page) (h : PageHdr) (c : Chip) : (setHdr p h c).adcs = c.adcs := rfl
@[simp] theorem setHdr_sdfs (p : Page) (h : PageHdr) (c : Chip) : (setHdr p h c).sdfs = c.sdfs := rfl
@[simp] theorem setHdr_sdfSeq (p : Page) (h : PageHdr) (c : Chip) : (setHdr p h c).sdfSeq = c.sdfSeq := rfl
@[simp] theorem setHdr_cores (p : Page) (h : PageHdr) (c : Chip) : (setHdr p h c).cores = c.cores := rfl
@[simp] theorem setHdr_dsp (p : Page) (h : PageHdr) (c : Chip) : (setHdr p h c).dsp = c.dsp := rfl
@[simp] theorem setHdr_trc (p : Page) (h : PageHdr) (c : Chip) : (setHdr p h c).trc = c.trc := rfl
@[simp] theorem setHdr_fld (p : Page) (h : PageHdr) (c : Chip) : (setHdr p h c).fld = c.fld := rfl
@[simp] theorem setHdr_field (p : Page) (h : PageHdr) (c : Chip) : (setHdr p h c).field = c.field := rfl
@[simp] theorem setHdr_bly (p : Page) (h : PageHdr) (c : Chip) : (setHdr p h c).bly = c.bly := rfl
@[simp] theorem setHdr_memc (p : Page) (h : PageHdr) (c : Chip) : (setHdr p h c).memc = c.memc := rfl
@[simp] theorem setHdr_scb (p : Page) (h : PageHdr) (c : Chip) : (setHdr p h c).scb = c.scb := rfl
@[simp] theorem setHdr_keep (p : Page) (h : PageHdr) (c : Chip) : (setHdr p h c).keep = c.keep := rfl
@[simp] theorem setHdr_pwr (p : Page) (h : PageHdr) (c : Chip) : (setHdr p h c).pwr = c.pwr := rfl
@[simp] theorem setHdr_sec (p : Page) (h : PageHdr) (c : Chip) : (setHdr p h c).sec = c.sec := rfl
@[simp] theorem setHdr_dbg (p : Page) (h : PageHdr) (c : Chip) : (setHdr p h c).dbg = c.dbg := rfl
@[simp] theorem setHdr_spl (p : Page) (h : PageHdr) (c : Chip) : (setHdr p h c).spl = c.spl := rfl
@[simp] theorem setHdr_free (p : Page) (h : PageHdr) (c : Chip) : (setHdr p h c).free = c.free := rfl
@[simp] theorem setHdr_svcSafety (p : Page) (h : PageHdr) (c : Chip) : (setHdr p h c).svcSafety = c.svcSafety := rfl
@[simp] theorem setHdr_svcPcie (p : Page) (h : PageHdr) (c : Chip) : (setHdr p h c).svcPcie = c.svcPcie := rfl
@[simp] theorem setHdr_out (p : Page) (h : PageHdr) (c : Chip) : (setHdr p h c).out = c.out := rfl

@[simp] theorem modHdr_regs (p : Page) (f : PageHdr → PageHdr) (c : Chip) : (modHdr p f c).regs = c.regs := rfl
@[simp] theorem modHdr_paths (p : Page) (f : PageHdr → PageHdr) (c : Chip) : (modHdr p f c).paths = c.paths := rfl
@[simp] theorem modHdr_held (p : Page) (f : PageHdr → PageHdr) (c : Chip) : (modHdr p f c).held = c.held := rfl
@[simp] theorem modHdr_faultSeq (p : Page) (f : PageHdr → PageHdr) (c : Chip) : (modHdr p f c).faultSeq = c.faultSeq := rfl
@[simp] theorem modHdr_clk (p : Page) (f : PageHdr → PageHdr) (c : Chip) : (modHdr p f c).clk = c.clk := rfl
@[simp] theorem modHdr_tim (p : Page) (f : PageHdr → PageHdr) (c : Chip) : (modHdr p f c).tim = c.tim := rfl
@[simp] theorem modHdr_knt (p : Page) (f : PageHdr → PageHdr) (c : Chip) : (modHdr p f c).knt = c.knt := rfl
@[simp] theorem modHdr_evt (p : Page) (f : PageHdr → PageHdr) (c : Chip) : (modHdr p f c).evt = c.evt := rfl
@[simp] theorem modHdr_cmd (p : Page) (f : PageHdr → PageHdr) (c : Chip) : (modHdr p f c).cmd = c.cmd := rfl
@[simp] theorem modHdr_net (p : Page) (f : PageHdr → PageHdr) (c : Chip) : (modHdr p f c).net = c.net := rfl
@[simp] theorem modHdr_ycp (p : Page) (f : PageHdr → PageHdr) (c : Chip) : (modHdr p f c).ycp = c.ycp := rfl
@[simp] theorem modHdr_hfr (p : Page) (f : PageHdr → PageHdr) (c : Chip) : (modHdr p f c).hfr = c.hfr := rfl
@[simp] theorem modHdr_axes (p : Page) (f : PageHdr → PageHdr) (c : Chip) : (modHdr p f c).axes = c.axes := rfl
@[simp] theorem modHdr_grps (p : Page) (f : PageHdr → PageHdr) (c : Chip) : (modHdr p f c).grps = c.grps := rfl
@[simp] theorem modHdr_hits (p : Page) (f : PageHdr → PageHdr) (c : Chip) : (modHdr p f c).hits = c.hits := rfl
@[simp] theorem modHdr_cam (p : Page) (f : PageHdr → PageHdr) (c : Chip) : (modHdr p f c).cam = c.cam := rfl
@[simp] theorem modHdr_loops (p : Page) (f : PageHdr → PageHdr) (c : Chip) : (modHdr p f c).loops = c.loops := rfl
@[simp] theorem modHdr_lpes (p : Page) (f : PageHdr → PageHdr) (c : Chip) : (modHdr p f c).lpes = c.lpes := rfl
@[simp] theorem modHdr_sups (p : Page) (f : PageHdr → PageHdr) (c : Chip) : (modHdr p f c).sups = c.sups := rfl
@[simp] theorem modHdr_buses (p : Page) (f : PageHdr → PageHdr) (c : Chip) : (modHdr p f c).buses = c.buses := rfl
@[simp] theorem modHdr_mods (p : Page) (f : PageHdr → PageHdr) (c : Chip) : (modHdr p f c).mods = c.mods := rfl
@[simp] theorem modHdr_fbks (p : Page) (f : PageHdr → PageHdr) (c : Chip) : (modHdr p f c).fbks = c.fbks := rfl
@[simp] theorem modHdr_snls (p : Page) (f : PageHdr → PageHdr) (c : Chip) : (modHdr p f c).snls = c.snls := rfl
@[simp] theorem modHdr_adcs (p : Page) (f : PageHdr → PageHdr) (c : Chip) : (modHdr p f c).adcs = c.adcs := rfl
@[simp] theorem modHdr_sdfs (p : Page) (f : PageHdr → PageHdr) (c : Chip) : (modHdr p f c).sdfs = c.sdfs := rfl
@[simp] theorem modHdr_sdfSeq (p : Page) (f : PageHdr → PageHdr) (c : Chip) : (modHdr p f c).sdfSeq = c.sdfSeq := rfl
@[simp] theorem modHdr_cores (p : Page) (f : PageHdr → PageHdr) (c : Chip) : (modHdr p f c).cores = c.cores := rfl
@[simp] theorem modHdr_dsp (p : Page) (f : PageHdr → PageHdr) (c : Chip) : (modHdr p f c).dsp = c.dsp := rfl
@[simp] theorem modHdr_trc (p : Page) (f : PageHdr → PageHdr) (c : Chip) : (modHdr p f c).trc = c.trc := rfl
@[simp] theorem modHdr_fld (p : Page) (f : PageHdr → PageHdr) (c : Chip) : (modHdr p f c).fld = c.fld := rfl
@[simp] theorem modHdr_field (p : Page) (f : PageHdr → PageHdr) (c : Chip) : (modHdr p f c).field = c.field := rfl
@[simp] theorem modHdr_bly (p : Page) (f : PageHdr → PageHdr) (c : Chip) : (modHdr p f c).bly = c.bly := rfl
@[simp] theorem modHdr_memc (p : Page) (f : PageHdr → PageHdr) (c : Chip) : (modHdr p f c).memc = c.memc := rfl
@[simp] theorem modHdr_scb (p : Page) (f : PageHdr → PageHdr) (c : Chip) : (modHdr p f c).scb = c.scb := rfl
@[simp] theorem modHdr_keep (p : Page) (f : PageHdr → PageHdr) (c : Chip) : (modHdr p f c).keep = c.keep := rfl
@[simp] theorem modHdr_pwr (p : Page) (f : PageHdr → PageHdr) (c : Chip) : (modHdr p f c).pwr = c.pwr := rfl
@[simp] theorem modHdr_sec (p : Page) (f : PageHdr → PageHdr) (c : Chip) : (modHdr p f c).sec = c.sec := rfl
@[simp] theorem modHdr_dbg (p : Page) (f : PageHdr → PageHdr) (c : Chip) : (modHdr p f c).dbg = c.dbg := rfl
@[simp] theorem modHdr_spl (p : Page) (f : PageHdr → PageHdr) (c : Chip) : (modHdr p f c).spl = c.spl := rfl
@[simp] theorem modHdr_free (p : Page) (f : PageHdr → PageHdr) (c : Chip) : (modHdr p f c).free = c.free := rfl
@[simp] theorem modHdr_svcSafety (p : Page) (f : PageHdr → PageHdr) (c : Chip) : (modHdr p f c).svcSafety = c.svcSafety := rfl
@[simp] theorem modHdr_svcPcie (p : Page) (f : PageHdr → PageHdr) (c : Chip) : (modHdr p f c).svcPcie = c.svcPcie := rfl
@[simp] theorem modHdr_out (p : Page) (f : PageHdr → PageHdr) (c : Chip) : (modHdr p f c).out = c.out := rfl

@[simp] theorem raiseVector_regs (v : Nat) (c : Chip) : (raiseVector v c).regs = c.regs := rfl
@[simp] theorem raiseVector_pages (v : Nat) (c : Chip) : (raiseVector v c).pages = c.pages := rfl
@[simp] theorem raiseVector_paths (v : Nat) (c : Chip) : (raiseVector v c).paths = c.paths := rfl
@[simp] theorem raiseVector_held (v : Nat) (c : Chip) : (raiseVector v c).held = c.held := rfl
@[simp] theorem raiseVector_faultSeq (v : Nat) (c : Chip) : (raiseVector v c).faultSeq = c.faultSeq := rfl
@[simp] theorem raiseVector_clk (v : Nat) (c : Chip) : (raiseVector v c).clk = c.clk := rfl
@[simp] theorem raiseVector_tim (v : Nat) (c : Chip) : (raiseVector v c).tim = c.tim := rfl
@[simp] theorem raiseVector_knt (v : Nat) (c : Chip) : (raiseVector v c).knt = c.knt := rfl
@[simp] theorem raiseVector_cmd (v : Nat) (c : Chip) : (raiseVector v c).cmd = c.cmd := rfl
@[simp] theorem raiseVector_net (v : Nat) (c : Chip) : (raiseVector v c).net = c.net := rfl
@[simp] theorem raiseVector_ycp (v : Nat) (c : Chip) : (raiseVector v c).ycp = c.ycp := rfl
@[simp] theorem raiseVector_hfr (v : Nat) (c : Chip) : (raiseVector v c).hfr = c.hfr := rfl
@[simp] theorem raiseVector_axes (v : Nat) (c : Chip) : (raiseVector v c).axes = c.axes := rfl
@[simp] theorem raiseVector_grps (v : Nat) (c : Chip) : (raiseVector v c).grps = c.grps := rfl
@[simp] theorem raiseVector_hits (v : Nat) (c : Chip) : (raiseVector v c).hits = c.hits := rfl
@[simp] theorem raiseVector_cam (v : Nat) (c : Chip) : (raiseVector v c).cam = c.cam := rfl
@[simp] theorem raiseVector_loops (v : Nat) (c : Chip) : (raiseVector v c).loops = c.loops := rfl
@[simp] theorem raiseVector_lpes (v : Nat) (c : Chip) : (raiseVector v c).lpes = c.lpes := rfl
@[simp] theorem raiseVector_sups (v : Nat) (c : Chip) : (raiseVector v c).sups = c.sups := rfl
@[simp] theorem raiseVector_buses (v : Nat) (c : Chip) : (raiseVector v c).buses = c.buses := rfl
@[simp] theorem raiseVector_mods (v : Nat) (c : Chip) : (raiseVector v c).mods = c.mods := rfl
@[simp] theorem raiseVector_fbks (v : Nat) (c : Chip) : (raiseVector v c).fbks = c.fbks := rfl
@[simp] theorem raiseVector_snls (v : Nat) (c : Chip) : (raiseVector v c).snls = c.snls := rfl
@[simp] theorem raiseVector_adcs (v : Nat) (c : Chip) : (raiseVector v c).adcs = c.adcs := rfl
@[simp] theorem raiseVector_sdfs (v : Nat) (c : Chip) : (raiseVector v c).sdfs = c.sdfs := rfl
@[simp] theorem raiseVector_sdfSeq (v : Nat) (c : Chip) : (raiseVector v c).sdfSeq = c.sdfSeq := rfl
@[simp] theorem raiseVector_cores (v : Nat) (c : Chip) : (raiseVector v c).cores = c.cores := rfl
@[simp] theorem raiseVector_dsp (v : Nat) (c : Chip) : (raiseVector v c).dsp = c.dsp := rfl
@[simp] theorem raiseVector_trc (v : Nat) (c : Chip) : (raiseVector v c).trc = c.trc := rfl
@[simp] theorem raiseVector_fld (v : Nat) (c : Chip) : (raiseVector v c).fld = c.fld := rfl
@[simp] theorem raiseVector_field (v : Nat) (c : Chip) : (raiseVector v c).field = c.field := rfl
@[simp] theorem raiseVector_bly (v : Nat) (c : Chip) : (raiseVector v c).bly = c.bly := rfl
@[simp] theorem raiseVector_memc (v : Nat) (c : Chip) : (raiseVector v c).memc = c.memc := rfl
@[simp] theorem raiseVector_scb (v : Nat) (c : Chip) : (raiseVector v c).scb = c.scb := rfl
@[simp] theorem raiseVector_keep (v : Nat) (c : Chip) : (raiseVector v c).keep = c.keep := rfl
@[simp] theorem raiseVector_pwr (v : Nat) (c : Chip) : (raiseVector v c).pwr = c.pwr := rfl
@[simp] theorem raiseVector_sec (v : Nat) (c : Chip) : (raiseVector v c).sec = c.sec := rfl
@[simp] theorem raiseVector_dbg (v : Nat) (c : Chip) : (raiseVector v c).dbg = c.dbg := rfl
@[simp] theorem raiseVector_spl (v : Nat) (c : Chip) : (raiseVector v c).spl = c.spl := rfl
@[simp] theorem raiseVector_free (v : Nat) (c : Chip) : (raiseVector v c).free = c.free := rfl
@[simp] theorem raiseVector_svcSafety (v : Nat) (c : Chip) : (raiseVector v c).svcSafety = c.svcSafety := rfl
@[simp] theorem raiseVector_svcPcie (v : Nat) (c : Chip) : (raiseVector v c).svcPcie = c.svcPcie := rfl
@[simp] theorem raiseVector_out (v : Nat) (c : Chip) : (raiseVector v c).out = c.out := rfl

@[simp] theorem raise_regs (p : Page) (b : Nat) (c : Chip) : (raise p b c).regs = c.regs := by unfold raise; dsimp only; split; rfl; split <;> rfl
@[simp] theorem raise_paths (p : Page) (b : Nat) (c : Chip) : (raise p b c).paths = c.paths := by unfold raise; dsimp only; split; rfl; split <;> rfl
@[simp] theorem raise_held (p : Page) (b : Nat) (c : Chip) : (raise p b c).held = c.held := by unfold raise; dsimp only; split; rfl; split <;> rfl
@[simp] theorem raise_faultSeq (p : Page) (b : Nat) (c : Chip) : (raise p b c).faultSeq = c.faultSeq := by unfold raise; dsimp only; split; rfl; split <;> rfl
@[simp] theorem raise_clk (p : Page) (b : Nat) (c : Chip) : (raise p b c).clk = c.clk := by unfold raise; dsimp only; split; rfl; split <;> rfl
@[simp] theorem raise_tim (p : Page) (b : Nat) (c : Chip) : (raise p b c).tim = c.tim := by unfold raise; dsimp only; split; rfl; split <;> rfl
@[simp] theorem raise_knt (p : Page) (b : Nat) (c : Chip) : (raise p b c).knt = c.knt := by unfold raise; dsimp only; split; rfl; split <;> rfl
@[simp] theorem raise_cmd (p : Page) (b : Nat) (c : Chip) : (raise p b c).cmd = c.cmd := by unfold raise; dsimp only; split; rfl; split <;> rfl
@[simp] theorem raise_net (p : Page) (b : Nat) (c : Chip) : (raise p b c).net = c.net := by unfold raise; dsimp only; split; rfl; split <;> rfl
@[simp] theorem raise_ycp (p : Page) (b : Nat) (c : Chip) : (raise p b c).ycp = c.ycp := by unfold raise; dsimp only; split; rfl; split <;> rfl
@[simp] theorem raise_hfr (p : Page) (b : Nat) (c : Chip) : (raise p b c).hfr = c.hfr := by unfold raise; dsimp only; split; rfl; split <;> rfl
@[simp] theorem raise_axes (p : Page) (b : Nat) (c : Chip) : (raise p b c).axes = c.axes := by unfold raise; dsimp only; split; rfl; split <;> rfl
@[simp] theorem raise_grps (p : Page) (b : Nat) (c : Chip) : (raise p b c).grps = c.grps := by unfold raise; dsimp only; split; rfl; split <;> rfl
@[simp] theorem raise_hits (p : Page) (b : Nat) (c : Chip) : (raise p b c).hits = c.hits := by unfold raise; dsimp only; split; rfl; split <;> rfl
@[simp] theorem raise_cam (p : Page) (b : Nat) (c : Chip) : (raise p b c).cam = c.cam := by unfold raise; dsimp only; split; rfl; split <;> rfl
@[simp] theorem raise_loops (p : Page) (b : Nat) (c : Chip) : (raise p b c).loops = c.loops := by unfold raise; dsimp only; split; rfl; split <;> rfl
@[simp] theorem raise_lpes (p : Page) (b : Nat) (c : Chip) : (raise p b c).lpes = c.lpes := by unfold raise; dsimp only; split; rfl; split <;> rfl
@[simp] theorem raise_sups (p : Page) (b : Nat) (c : Chip) : (raise p b c).sups = c.sups := by unfold raise; dsimp only; split; rfl; split <;> rfl
@[simp] theorem raise_buses (p : Page) (b : Nat) (c : Chip) : (raise p b c).buses = c.buses := by unfold raise; dsimp only; split; rfl; split <;> rfl
@[simp] theorem raise_mods (p : Page) (b : Nat) (c : Chip) : (raise p b c).mods = c.mods := by unfold raise; dsimp only; split; rfl; split <;> rfl
@[simp] theorem raise_fbks (p : Page) (b : Nat) (c : Chip) : (raise p b c).fbks = c.fbks := by unfold raise; dsimp only; split; rfl; split <;> rfl
@[simp] theorem raise_snls (p : Page) (b : Nat) (c : Chip) : (raise p b c).snls = c.snls := by unfold raise; dsimp only; split; rfl; split <;> rfl
@[simp] theorem raise_adcs (p : Page) (b : Nat) (c : Chip) : (raise p b c).adcs = c.adcs := by unfold raise; dsimp only; split; rfl; split <;> rfl
@[simp] theorem raise_sdfs (p : Page) (b : Nat) (c : Chip) : (raise p b c).sdfs = c.sdfs := by unfold raise; dsimp only; split; rfl; split <;> rfl
@[simp] theorem raise_sdfSeq (p : Page) (b : Nat) (c : Chip) : (raise p b c).sdfSeq = c.sdfSeq := by unfold raise; dsimp only; split; rfl; split <;> rfl
@[simp] theorem raise_cores (p : Page) (b : Nat) (c : Chip) : (raise p b c).cores = c.cores := by unfold raise; dsimp only; split; rfl; split <;> rfl
@[simp] theorem raise_dsp (p : Page) (b : Nat) (c : Chip) : (raise p b c).dsp = c.dsp := by unfold raise; dsimp only; split; rfl; split <;> rfl
@[simp] theorem raise_trc (p : Page) (b : Nat) (c : Chip) : (raise p b c).trc = c.trc := by unfold raise; dsimp only; split; rfl; split <;> rfl
@[simp] theorem raise_fld (p : Page) (b : Nat) (c : Chip) : (raise p b c).fld = c.fld := by unfold raise; dsimp only; split; rfl; split <;> rfl
@[simp] theorem raise_field (p : Page) (b : Nat) (c : Chip) : (raise p b c).field = c.field := by unfold raise; dsimp only; split; rfl; split <;> rfl
@[simp] theorem raise_bly (p : Page) (b : Nat) (c : Chip) : (raise p b c).bly = c.bly := by unfold raise; dsimp only; split; rfl; split <;> rfl
@[simp] theorem raise_memc (p : Page) (b : Nat) (c : Chip) : (raise p b c).memc = c.memc := by unfold raise; dsimp only; split; rfl; split <;> rfl
@[simp] theorem raise_scb (p : Page) (b : Nat) (c : Chip) : (raise p b c).scb = c.scb := by unfold raise; dsimp only; split; rfl; split <;> rfl
@[simp] theorem raise_keep (p : Page) (b : Nat) (c : Chip) : (raise p b c).keep = c.keep := by unfold raise; dsimp only; split; rfl; split <;> rfl
@[simp] theorem raise_pwr (p : Page) (b : Nat) (c : Chip) : (raise p b c).pwr = c.pwr := by unfold raise; dsimp only; split; rfl; split <;> rfl
@[simp] theorem raise_sec (p : Page) (b : Nat) (c : Chip) : (raise p b c).sec = c.sec := by unfold raise; dsimp only; split; rfl; split <;> rfl
@[simp] theorem raise_dbg (p : Page) (b : Nat) (c : Chip) : (raise p b c).dbg = c.dbg := by unfold raise; dsimp only; split; rfl; split <;> rfl
@[simp] theorem raise_spl (p : Page) (b : Nat) (c : Chip) : (raise p b c).spl = c.spl := by unfold raise; dsimp only; split; rfl; split <;> rfl
@[simp] theorem raise_free (p : Page) (b : Nat) (c : Chip) : (raise p b c).free = c.free := by unfold raise; dsimp only; split; rfl; split <;> rfl
@[simp] theorem raise_svcSafety (p : Page) (b : Nat) (c : Chip) : (raise p b c).svcSafety = c.svcSafety := by unfold raise; dsimp only; split; rfl; split <;> rfl
@[simp] theorem raise_svcPcie (p : Page) (b : Nat) (c : Chip) : (raise p b c).svcPcie = c.svcPcie := by unfold raise; dsimp only; split; rfl; split <;> rfl
@[simp] theorem raise_out (p : Page) (b : Nat) (c : Chip) : (raise p b c).out = c.out := by unfold raise; dsimp only; split; rfl; split <;> rfl

@[simp] theorem raiseIf_regs (q : Bool) (p : Page) (b : Nat) (c : Chip) : (raiseIf q p b c).regs = c.regs := by unfold raiseIf; split <;> simp
@[simp] theorem raiseIf_paths (q : Bool) (p : Page) (b : Nat) (c : Chip) : (raiseIf q p b c).paths = c.paths := by unfold raiseIf; split <;> simp
@[simp] theorem raiseIf_held (q : Bool) (p : Page) (b : Nat) (c : Chip) : (raiseIf q p b c).held = c.held := by unfold raiseIf; split <;> simp
@[simp] theorem raiseIf_faultSeq (q : Bool) (p : Page) (b : Nat) (c : Chip) : (raiseIf q p b c).faultSeq = c.faultSeq := by unfold raiseIf; split <;> simp
@[simp] theorem raiseIf_clk (q : Bool) (p : Page) (b : Nat) (c : Chip) : (raiseIf q p b c).clk = c.clk := by unfold raiseIf; split <;> simp
@[simp] theorem raiseIf_tim (q : Bool) (p : Page) (b : Nat) (c : Chip) : (raiseIf q p b c).tim = c.tim := by unfold raiseIf; split <;> simp
@[simp] theorem raiseIf_knt (q : Bool) (p : Page) (b : Nat) (c : Chip) : (raiseIf q p b c).knt = c.knt := by unfold raiseIf; split <;> simp
@[simp] theorem raiseIf_cmd (q : Bool) (p : Page) (b : Nat) (c : Chip) : (raiseIf q p b c).cmd = c.cmd := by unfold raiseIf; split <;> simp
@[simp] theorem raiseIf_net (q : Bool) (p : Page) (b : Nat) (c : Chip) : (raiseIf q p b c).net = c.net := by unfold raiseIf; split <;> simp
@[simp] theorem raiseIf_ycp (q : Bool) (p : Page) (b : Nat) (c : Chip) : (raiseIf q p b c).ycp = c.ycp := by unfold raiseIf; split <;> simp
@[simp] theorem raiseIf_hfr (q : Bool) (p : Page) (b : Nat) (c : Chip) : (raiseIf q p b c).hfr = c.hfr := by unfold raiseIf; split <;> simp
@[simp] theorem raiseIf_axes (q : Bool) (p : Page) (b : Nat) (c : Chip) : (raiseIf q p b c).axes = c.axes := by unfold raiseIf; split <;> simp
@[simp] theorem raiseIf_grps (q : Bool) (p : Page) (b : Nat) (c : Chip) : (raiseIf q p b c).grps = c.grps := by unfold raiseIf; split <;> simp
@[simp] theorem raiseIf_hits (q : Bool) (p : Page) (b : Nat) (c : Chip) : (raiseIf q p b c).hits = c.hits := by unfold raiseIf; split <;> simp
@[simp] theorem raiseIf_cam (q : Bool) (p : Page) (b : Nat) (c : Chip) : (raiseIf q p b c).cam = c.cam := by unfold raiseIf; split <;> simp
@[simp] theorem raiseIf_loops (q : Bool) (p : Page) (b : Nat) (c : Chip) : (raiseIf q p b c).loops = c.loops := by unfold raiseIf; split <;> simp
@[simp] theorem raiseIf_lpes (q : Bool) (p : Page) (b : Nat) (c : Chip) : (raiseIf q p b c).lpes = c.lpes := by unfold raiseIf; split <;> simp
@[simp] theorem raiseIf_sups (q : Bool) (p : Page) (b : Nat) (c : Chip) : (raiseIf q p b c).sups = c.sups := by unfold raiseIf; split <;> simp
@[simp] theorem raiseIf_buses (q : Bool) (p : Page) (b : Nat) (c : Chip) : (raiseIf q p b c).buses = c.buses := by unfold raiseIf; split <;> simp
@[simp] theorem raiseIf_mods (q : Bool) (p : Page) (b : Nat) (c : Chip) : (raiseIf q p b c).mods = c.mods := by unfold raiseIf; split <;> simp
@[simp] theorem raiseIf_fbks (q : Bool) (p : Page) (b : Nat) (c : Chip) : (raiseIf q p b c).fbks = c.fbks := by unfold raiseIf; split <;> simp
@[simp] theorem raiseIf_snls (q : Bool) (p : Page) (b : Nat) (c : Chip) : (raiseIf q p b c).snls = c.snls := by unfold raiseIf; split <;> simp
@[simp] theorem raiseIf_adcs (q : Bool) (p : Page) (b : Nat) (c : Chip) : (raiseIf q p b c).adcs = c.adcs := by unfold raiseIf; split <;> simp
@[simp] theorem raiseIf_sdfs (q : Bool) (p : Page) (b : Nat) (c : Chip) : (raiseIf q p b c).sdfs = c.sdfs := by unfold raiseIf; split <;> simp
@[simp] theorem raiseIf_sdfSeq (q : Bool) (p : Page) (b : Nat) (c : Chip) : (raiseIf q p b c).sdfSeq = c.sdfSeq := by unfold raiseIf; split <;> simp
@[simp] theorem raiseIf_cores (q : Bool) (p : Page) (b : Nat) (c : Chip) : (raiseIf q p b c).cores = c.cores := by unfold raiseIf; split <;> simp
@[simp] theorem raiseIf_dsp (q : Bool) (p : Page) (b : Nat) (c : Chip) : (raiseIf q p b c).dsp = c.dsp := by unfold raiseIf; split <;> simp
@[simp] theorem raiseIf_trc (q : Bool) (p : Page) (b : Nat) (c : Chip) : (raiseIf q p b c).trc = c.trc := by unfold raiseIf; split <;> simp
@[simp] theorem raiseIf_fld (q : Bool) (p : Page) (b : Nat) (c : Chip) : (raiseIf q p b c).fld = c.fld := by unfold raiseIf; split <;> simp
@[simp] theorem raiseIf_field (q : Bool) (p : Page) (b : Nat) (c : Chip) : (raiseIf q p b c).field = c.field := by unfold raiseIf; split <;> simp
@[simp] theorem raiseIf_bly (q : Bool) (p : Page) (b : Nat) (c : Chip) : (raiseIf q p b c).bly = c.bly := by unfold raiseIf; split <;> simp
@[simp] theorem raiseIf_memc (q : Bool) (p : Page) (b : Nat) (c : Chip) : (raiseIf q p b c).memc = c.memc := by unfold raiseIf; split <;> simp
@[simp] theorem raiseIf_scb (q : Bool) (p : Page) (b : Nat) (c : Chip) : (raiseIf q p b c).scb = c.scb := by unfold raiseIf; split <;> simp
@[simp] theorem raiseIf_keep (q : Bool) (p : Page) (b : Nat) (c : Chip) : (raiseIf q p b c).keep = c.keep := by unfold raiseIf; split <;> simp
@[simp] theorem raiseIf_pwr (q : Bool) (p : Page) (b : Nat) (c : Chip) : (raiseIf q p b c).pwr = c.pwr := by unfold raiseIf; split <;> simp
@[simp] theorem raiseIf_sec (q : Bool) (p : Page) (b : Nat) (c : Chip) : (raiseIf q p b c).sec = c.sec := by unfold raiseIf; split <;> simp
@[simp] theorem raiseIf_dbg (q : Bool) (p : Page) (b : Nat) (c : Chip) : (raiseIf q p b c).dbg = c.dbg := by unfold raiseIf; split <;> simp
@[simp] theorem raiseIf_spl (q : Bool) (p : Page) (b : Nat) (c : Chip) : (raiseIf q p b c).spl = c.spl := by unfold raiseIf; split <;> simp
@[simp] theorem raiseIf_free (q : Bool) (p : Page) (b : Nat) (c : Chip) : (raiseIf q p b c).free = c.free := by unfold raiseIf; split <;> simp
@[simp] theorem raiseIf_svcSafety (q : Bool) (p : Page) (b : Nat) (c : Chip) : (raiseIf q p b c).svcSafety = c.svcSafety := by unfold raiseIf; split <;> simp
@[simp] theorem raiseIf_svcPcie (q : Bool) (p : Page) (b : Nat) (c : Chip) : (raiseIf q p b c).svcPcie = c.svcPcie := by unfold raiseIf; split <;> simp
@[simp] theorem raiseIf_out (q : Bool) (p : Page) (b : Nat) (c : Chip) : (raiseIf q p b c).out = c.out := by unfold raiseIf; split <;> simp

@[simp] theorem setState_regs (p : Page) (st : PgState) (c : Chip) : (setState p st c).regs = c.regs := by unfold setState withService; split; rfl; dsimp only; split <;> simp
@[simp] theorem setState_paths (p : Page) (st : PgState) (c : Chip) : (setState p st c).paths = c.paths := by unfold setState withService; split; rfl; dsimp only; split <;> simp
@[simp] theorem setState_held (p : Page) (st : PgState) (c : Chip) : (setState p st c).held = c.held := by unfold setState withService; split; rfl; dsimp only; split <;> simp
@[simp] theorem setState_faultSeq (p : Page) (st : PgState) (c : Chip) : (setState p st c).faultSeq = c.faultSeq := by unfold setState withService; split; rfl; dsimp only; split <;> simp
@[simp] theorem setState_clk (p : Page) (st : PgState) (c : Chip) : (setState p st c).clk = c.clk := by unfold setState withService; split; rfl; dsimp only; split <;> simp
@[simp] theorem setState_tim (p : Page) (st : PgState) (c : Chip) : (setState p st c).tim = c.tim := by unfold setState withService; split; rfl; dsimp only; split <;> simp
@[simp] theorem setState_knt (p : Page) (st : PgState) (c : Chip) : (setState p st c).knt = c.knt := by unfold setState withService; split; rfl; dsimp only; split <;> simp
@[simp] theorem setState_cmd (p : Page) (st : PgState) (c : Chip) : (setState p st c).cmd = c.cmd := by unfold setState withService; split; rfl; dsimp only; split <;> simp
@[simp] theorem setState_net (p : Page) (st : PgState) (c : Chip) : (setState p st c).net = c.net := by unfold setState withService; split; rfl; dsimp only; split <;> simp
@[simp] theorem setState_ycp (p : Page) (st : PgState) (c : Chip) : (setState p st c).ycp = c.ycp := by unfold setState withService; split; rfl; dsimp only; split <;> simp
@[simp] theorem setState_hfr (p : Page) (st : PgState) (c : Chip) : (setState p st c).hfr = c.hfr := by unfold setState withService; split; rfl; dsimp only; split <;> simp
@[simp] theorem setState_axes (p : Page) (st : PgState) (c : Chip) : (setState p st c).axes = c.axes := by unfold setState withService; split; rfl; dsimp only; split <;> simp
@[simp] theorem setState_grps (p : Page) (st : PgState) (c : Chip) : (setState p st c).grps = c.grps := by unfold setState withService; split; rfl; dsimp only; split <;> simp
@[simp] theorem setState_hits (p : Page) (st : PgState) (c : Chip) : (setState p st c).hits = c.hits := by unfold setState withService; split; rfl; dsimp only; split <;> simp
@[simp] theorem setState_cam (p : Page) (st : PgState) (c : Chip) : (setState p st c).cam = c.cam := by unfold setState withService; split; rfl; dsimp only; split <;> simp
@[simp] theorem setState_loops (p : Page) (st : PgState) (c : Chip) : (setState p st c).loops = c.loops := by unfold setState withService; split; rfl; dsimp only; split <;> simp
@[simp] theorem setState_lpes (p : Page) (st : PgState) (c : Chip) : (setState p st c).lpes = c.lpes := by unfold setState withService; split; rfl; dsimp only; split <;> simp
@[simp] theorem setState_sups (p : Page) (st : PgState) (c : Chip) : (setState p st c).sups = c.sups := by unfold setState withService; split; rfl; dsimp only; split <;> simp
@[simp] theorem setState_buses (p : Page) (st : PgState) (c : Chip) : (setState p st c).buses = c.buses := by unfold setState withService; split; rfl; dsimp only; split <;> simp
@[simp] theorem setState_mods (p : Page) (st : PgState) (c : Chip) : (setState p st c).mods = c.mods := by unfold setState withService; split; rfl; dsimp only; split <;> simp
@[simp] theorem setState_fbks (p : Page) (st : PgState) (c : Chip) : (setState p st c).fbks = c.fbks := by unfold setState withService; split; rfl; dsimp only; split <;> simp
@[simp] theorem setState_snls (p : Page) (st : PgState) (c : Chip) : (setState p st c).snls = c.snls := by unfold setState withService; split; rfl; dsimp only; split <;> simp
@[simp] theorem setState_adcs (p : Page) (st : PgState) (c : Chip) : (setState p st c).adcs = c.adcs := by unfold setState withService; split; rfl; dsimp only; split <;> simp
@[simp] theorem setState_sdfs (p : Page) (st : PgState) (c : Chip) : (setState p st c).sdfs = c.sdfs := by unfold setState withService; split; rfl; dsimp only; split <;> simp
@[simp] theorem setState_sdfSeq (p : Page) (st : PgState) (c : Chip) : (setState p st c).sdfSeq = c.sdfSeq := by unfold setState withService; split; rfl; dsimp only; split <;> simp
@[simp] theorem setState_cores (p : Page) (st : PgState) (c : Chip) : (setState p st c).cores = c.cores := by unfold setState withService; split; rfl; dsimp only; split <;> simp
@[simp] theorem setState_dsp (p : Page) (st : PgState) (c : Chip) : (setState p st c).dsp = c.dsp := by unfold setState withService; split; rfl; dsimp only; split <;> simp
@[simp] theorem setState_trc (p : Page) (st : PgState) (c : Chip) : (setState p st c).trc = c.trc := by unfold setState withService; split; rfl; dsimp only; split <;> simp
@[simp] theorem setState_fld (p : Page) (st : PgState) (c : Chip) : (setState p st c).fld = c.fld := by unfold setState withService; split; rfl; dsimp only; split <;> simp
@[simp] theorem setState_field (p : Page) (st : PgState) (c : Chip) : (setState p st c).field = c.field := by unfold setState withService; split; rfl; dsimp only; split <;> simp
@[simp] theorem setState_bly (p : Page) (st : PgState) (c : Chip) : (setState p st c).bly = c.bly := by unfold setState withService; split; rfl; dsimp only; split <;> simp
@[simp] theorem setState_memc (p : Page) (st : PgState) (c : Chip) : (setState p st c).memc = c.memc := by unfold setState withService; split; rfl; dsimp only; split <;> simp
@[simp] theorem setState_scb (p : Page) (st : PgState) (c : Chip) : (setState p st c).scb = c.scb := by unfold setState withService; split; rfl; dsimp only; split <;> simp
@[simp] theorem setState_keep (p : Page) (st : PgState) (c : Chip) : (setState p st c).keep = c.keep := by unfold setState withService; split; rfl; dsimp only; split <;> simp
@[simp] theorem setState_pwr (p : Page) (st : PgState) (c : Chip) : (setState p st c).pwr = c.pwr := by unfold setState withService; split; rfl; dsimp only; split <;> simp
@[simp] theorem setState_sec (p : Page) (st : PgState) (c : Chip) : (setState p st c).sec = c.sec := by unfold setState withService; split; rfl; dsimp only; split <;> simp
@[simp] theorem setState_dbg (p : Page) (st : PgState) (c : Chip) : (setState p st c).dbg = c.dbg := by unfold setState withService; split; rfl; dsimp only; split <;> simp
@[simp] theorem setState_spl (p : Page) (st : PgState) (c : Chip) : (setState p st c).spl = c.spl := by unfold setState withService; split; rfl; dsimp only; split <;> simp
@[simp] theorem setState_free (p : Page) (st : PgState) (c : Chip) : (setState p st c).free = c.free := by unfold setState withService; split; rfl; dsimp only; split <;> simp
@[simp] theorem setState_svcSafety (p : Page) (st : PgState) (c : Chip) : (setState p st c).svcSafety = c.svcSafety := by unfold setState withService; split; rfl; dsimp only; split <;> simp
@[simp] theorem setState_svcPcie (p : Page) (st : PgState) (c : Chip) : (setState p st c).svcPcie = c.svcPcie := by unfold setState withService; split; rfl; dsimp only; split <;> simp
@[simp] theorem setState_out (p : Page) (st : PgState) (c : Chip) : (setState p st c).out = c.out := by unfold setState withService; split; rfl; dsimp only; split <;> simp

@[simp] theorem endCond_regs (p : Page) (code : Byte) (c : Chip) : (endCond p code c).regs = c.regs := by unfold endCond; split <;> simp
@[simp] theorem endCond_paths (p : Page) (code : Byte) (c : Chip) : (endCond p code c).paths = c.paths := by unfold endCond; split <;> simp
@[simp] theorem endCond_held (p : Page) (code : Byte) (c : Chip) : (endCond p code c).held = c.held := by unfold endCond; split <;> simp
@[simp] theorem endCond_faultSeq (p : Page) (code : Byte) (c : Chip) : (endCond p code c).faultSeq = c.faultSeq := by unfold endCond; split <;> simp
@[simp] theorem endCond_clk (p : Page) (code : Byte) (c : Chip) : (endCond p code c).clk = c.clk := by unfold endCond; split <;> simp
@[simp] theorem endCond_tim (p : Page) (code : Byte) (c : Chip) : (endCond p code c).tim = c.tim := by unfold endCond; split <;> simp
@[simp] theorem endCond_knt (p : Page) (code : Byte) (c : Chip) : (endCond p code c).knt = c.knt := by unfold endCond; split <;> simp
@[simp] theorem endCond_evt (p : Page) (code : Byte) (c : Chip) : (endCond p code c).evt = c.evt := by unfold endCond; split <;> simp
@[simp] theorem endCond_cmd (p : Page) (code : Byte) (c : Chip) : (endCond p code c).cmd = c.cmd := by unfold endCond; split <;> simp
@[simp] theorem endCond_net (p : Page) (code : Byte) (c : Chip) : (endCond p code c).net = c.net := by unfold endCond; split <;> simp
@[simp] theorem endCond_ycp (p : Page) (code : Byte) (c : Chip) : (endCond p code c).ycp = c.ycp := by unfold endCond; split <;> simp
@[simp] theorem endCond_hfr (p : Page) (code : Byte) (c : Chip) : (endCond p code c).hfr = c.hfr := by unfold endCond; split <;> simp
@[simp] theorem endCond_axes (p : Page) (code : Byte) (c : Chip) : (endCond p code c).axes = c.axes := by unfold endCond; split <;> simp
@[simp] theorem endCond_grps (p : Page) (code : Byte) (c : Chip) : (endCond p code c).grps = c.grps := by unfold endCond; split <;> simp
@[simp] theorem endCond_hits (p : Page) (code : Byte) (c : Chip) : (endCond p code c).hits = c.hits := by unfold endCond; split <;> simp
@[simp] theorem endCond_cam (p : Page) (code : Byte) (c : Chip) : (endCond p code c).cam = c.cam := by unfold endCond; split <;> simp
@[simp] theorem endCond_loops (p : Page) (code : Byte) (c : Chip) : (endCond p code c).loops = c.loops := by unfold endCond; split <;> simp
@[simp] theorem endCond_lpes (p : Page) (code : Byte) (c : Chip) : (endCond p code c).lpes = c.lpes := by unfold endCond; split <;> simp
@[simp] theorem endCond_sups (p : Page) (code : Byte) (c : Chip) : (endCond p code c).sups = c.sups := by unfold endCond; split <;> simp
@[simp] theorem endCond_buses (p : Page) (code : Byte) (c : Chip) : (endCond p code c).buses = c.buses := by unfold endCond; split <;> simp
@[simp] theorem endCond_mods (p : Page) (code : Byte) (c : Chip) : (endCond p code c).mods = c.mods := by unfold endCond; split <;> simp
@[simp] theorem endCond_fbks (p : Page) (code : Byte) (c : Chip) : (endCond p code c).fbks = c.fbks := by unfold endCond; split <;> simp
@[simp] theorem endCond_snls (p : Page) (code : Byte) (c : Chip) : (endCond p code c).snls = c.snls := by unfold endCond; split <;> simp
@[simp] theorem endCond_adcs (p : Page) (code : Byte) (c : Chip) : (endCond p code c).adcs = c.adcs := by unfold endCond; split <;> simp
@[simp] theorem endCond_sdfs (p : Page) (code : Byte) (c : Chip) : (endCond p code c).sdfs = c.sdfs := by unfold endCond; split <;> simp
@[simp] theorem endCond_sdfSeq (p : Page) (code : Byte) (c : Chip) : (endCond p code c).sdfSeq = c.sdfSeq := by unfold endCond; split <;> simp
@[simp] theorem endCond_cores (p : Page) (code : Byte) (c : Chip) : (endCond p code c).cores = c.cores := by unfold endCond; split <;> simp
@[simp] theorem endCond_dsp (p : Page) (code : Byte) (c : Chip) : (endCond p code c).dsp = c.dsp := by unfold endCond; split <;> simp
@[simp] theorem endCond_trc (p : Page) (code : Byte) (c : Chip) : (endCond p code c).trc = c.trc := by unfold endCond; split <;> simp
@[simp] theorem endCond_fld (p : Page) (code : Byte) (c : Chip) : (endCond p code c).fld = c.fld := by unfold endCond; split <;> simp
@[simp] theorem endCond_field (p : Page) (code : Byte) (c : Chip) : (endCond p code c).field = c.field := by unfold endCond; split <;> simp
@[simp] theorem endCond_bly (p : Page) (code : Byte) (c : Chip) : (endCond p code c).bly = c.bly := by unfold endCond; split <;> simp
@[simp] theorem endCond_memc (p : Page) (code : Byte) (c : Chip) : (endCond p code c).memc = c.memc := by unfold endCond; split <;> simp
@[simp] theorem endCond_scb (p : Page) (code : Byte) (c : Chip) : (endCond p code c).scb = c.scb := by unfold endCond; split <;> simp
@[simp] theorem endCond_keep (p : Page) (code : Byte) (c : Chip) : (endCond p code c).keep = c.keep := by unfold endCond; split <;> simp
@[simp] theorem endCond_pwr (p : Page) (code : Byte) (c : Chip) : (endCond p code c).pwr = c.pwr := by unfold endCond; split <;> simp
@[simp] theorem endCond_sec (p : Page) (code : Byte) (c : Chip) : (endCond p code c).sec = c.sec := by unfold endCond; split <;> simp
@[simp] theorem endCond_dbg (p : Page) (code : Byte) (c : Chip) : (endCond p code c).dbg = c.dbg := by unfold endCond; split <;> simp
@[simp] theorem endCond_spl (p : Page) (code : Byte) (c : Chip) : (endCond p code c).spl = c.spl := by unfold endCond; split <;> simp
@[simp] theorem endCond_free (p : Page) (code : Byte) (c : Chip) : (endCond p code c).free = c.free := by unfold endCond; split <;> simp
@[simp] theorem endCond_svcSafety (p : Page) (code : Byte) (c : Chip) : (endCond p code c).svcSafety = c.svcSafety := by unfold endCond; split <;> simp
@[simp] theorem endCond_svcPcie (p : Page) (code : Byte) (c : Chip) : (endCond p code c).svcPcie = c.svcPcie := by unfold endCond; split <;> simp
@[simp] theorem endCond_out (p : Page) (code : Byte) (c : Chip) : (endCond p code c).out = c.out := by unfold endCond; split <;> simp

@[simp] theorem setAxis_regs (n : Nat) (a : Axis) (c : Chip) : (setAxis n a c).regs = c.regs := rfl
@[simp] theorem setAxis_pages (n : Nat) (a : Axis) (c : Chip) : (setAxis n a c).pages = c.pages := rfl
@[simp] theorem setAxis_paths (n : Nat) (a : Axis) (c : Chip) : (setAxis n a c).paths = c.paths := rfl
@[simp] theorem setAxis_held (n : Nat) (a : Axis) (c : Chip) : (setAxis n a c).held = c.held := rfl
@[simp] theorem setAxis_faultSeq (n : Nat) (a : Axis) (c : Chip) : (setAxis n a c).faultSeq = c.faultSeq := rfl
@[simp] theorem setAxis_clk (n : Nat) (a : Axis) (c : Chip) : (setAxis n a c).clk = c.clk := rfl
@[simp] theorem setAxis_tim (n : Nat) (a : Axis) (c : Chip) : (setAxis n a c).tim = c.tim := rfl
@[simp] theorem setAxis_knt (n : Nat) (a : Axis) (c : Chip) : (setAxis n a c).knt = c.knt := rfl
@[simp] theorem setAxis_evt (n : Nat) (a : Axis) (c : Chip) : (setAxis n a c).evt = c.evt := rfl
@[simp] theorem setAxis_cmd (n : Nat) (a : Axis) (c : Chip) : (setAxis n a c).cmd = c.cmd := rfl
@[simp] theorem setAxis_net (n : Nat) (a : Axis) (c : Chip) : (setAxis n a c).net = c.net := rfl
@[simp] theorem setAxis_ycp (n : Nat) (a : Axis) (c : Chip) : (setAxis n a c).ycp = c.ycp := rfl
@[simp] theorem setAxis_hfr (n : Nat) (a : Axis) (c : Chip) : (setAxis n a c).hfr = c.hfr := rfl
@[simp] theorem setAxis_grps (n : Nat) (a : Axis) (c : Chip) : (setAxis n a c).grps = c.grps := rfl
@[simp] theorem setAxis_hits (n : Nat) (a : Axis) (c : Chip) : (setAxis n a c).hits = c.hits := rfl
@[simp] theorem setAxis_cam (n : Nat) (a : Axis) (c : Chip) : (setAxis n a c).cam = c.cam := rfl
@[simp] theorem setAxis_loops (n : Nat) (a : Axis) (c : Chip) : (setAxis n a c).loops = c.loops := rfl
@[simp] theorem setAxis_lpes (n : Nat) (a : Axis) (c : Chip) : (setAxis n a c).lpes = c.lpes := rfl
@[simp] theorem setAxis_sups (n : Nat) (a : Axis) (c : Chip) : (setAxis n a c).sups = c.sups := rfl
@[simp] theorem setAxis_buses (n : Nat) (a : Axis) (c : Chip) : (setAxis n a c).buses = c.buses := rfl
@[simp] theorem setAxis_mods (n : Nat) (a : Axis) (c : Chip) : (setAxis n a c).mods = c.mods := rfl
@[simp] theorem setAxis_fbks (n : Nat) (a : Axis) (c : Chip) : (setAxis n a c).fbks = c.fbks := rfl
@[simp] theorem setAxis_snls (n : Nat) (a : Axis) (c : Chip) : (setAxis n a c).snls = c.snls := rfl
@[simp] theorem setAxis_adcs (n : Nat) (a : Axis) (c : Chip) : (setAxis n a c).adcs = c.adcs := rfl
@[simp] theorem setAxis_sdfs (n : Nat) (a : Axis) (c : Chip) : (setAxis n a c).sdfs = c.sdfs := rfl
@[simp] theorem setAxis_sdfSeq (n : Nat) (a : Axis) (c : Chip) : (setAxis n a c).sdfSeq = c.sdfSeq := rfl
@[simp] theorem setAxis_cores (n : Nat) (a : Axis) (c : Chip) : (setAxis n a c).cores = c.cores := rfl
@[simp] theorem setAxis_dsp (n : Nat) (a : Axis) (c : Chip) : (setAxis n a c).dsp = c.dsp := rfl
@[simp] theorem setAxis_trc (n : Nat) (a : Axis) (c : Chip) : (setAxis n a c).trc = c.trc := rfl
@[simp] theorem setAxis_fld (n : Nat) (a : Axis) (c : Chip) : (setAxis n a c).fld = c.fld := rfl
@[simp] theorem setAxis_field (n : Nat) (a : Axis) (c : Chip) : (setAxis n a c).field = c.field := rfl
@[simp] theorem setAxis_bly (n : Nat) (a : Axis) (c : Chip) : (setAxis n a c).bly = c.bly := rfl
@[simp] theorem setAxis_memc (n : Nat) (a : Axis) (c : Chip) : (setAxis n a c).memc = c.memc := rfl
@[simp] theorem setAxis_scb (n : Nat) (a : Axis) (c : Chip) : (setAxis n a c).scb = c.scb := rfl
@[simp] theorem setAxis_keep (n : Nat) (a : Axis) (c : Chip) : (setAxis n a c).keep = c.keep := rfl
@[simp] theorem setAxis_pwr (n : Nat) (a : Axis) (c : Chip) : (setAxis n a c).pwr = c.pwr := rfl
@[simp] theorem setAxis_sec (n : Nat) (a : Axis) (c : Chip) : (setAxis n a c).sec = c.sec := rfl
@[simp] theorem setAxis_dbg (n : Nat) (a : Axis) (c : Chip) : (setAxis n a c).dbg = c.dbg := rfl
@[simp] theorem setAxis_spl (n : Nat) (a : Axis) (c : Chip) : (setAxis n a c).spl = c.spl := rfl
@[simp] theorem setAxis_free (n : Nat) (a : Axis) (c : Chip) : (setAxis n a c).free = c.free := rfl
@[simp] theorem setAxis_svcSafety (n : Nat) (a : Axis) (c : Chip) : (setAxis n a c).svcSafety = c.svcSafety := rfl
@[simp] theorem setAxis_svcPcie (n : Nat) (a : Axis) (c : Chip) : (setAxis n a c).svcPcie = c.svcPcie := rfl
@[simp] theorem setAxis_out (n : Nat) (a : Axis) (c : Chip) : (setAxis n a c).out = c.out := rfl

@[simp] theorem setGroup_regs (g : Nat) (x : Group) (c : Chip) : (setGroup g x c).regs = c.regs := rfl
@[simp] theorem setGroup_pages (g : Nat) (x : Group) (c : Chip) : (setGroup g x c).pages = c.pages := rfl
@[simp] theorem setGroup_paths (g : Nat) (x : Group) (c : Chip) : (setGroup g x c).paths = c.paths := rfl
@[simp] theorem setGroup_held (g : Nat) (x : Group) (c : Chip) : (setGroup g x c).held = c.held := rfl
@[simp] theorem setGroup_faultSeq (g : Nat) (x : Group) (c : Chip) : (setGroup g x c).faultSeq = c.faultSeq := rfl
@[simp] theorem setGroup_clk (g : Nat) (x : Group) (c : Chip) : (setGroup g x c).clk = c.clk := rfl
@[simp] theorem setGroup_tim (g : Nat) (x : Group) (c : Chip) : (setGroup g x c).tim = c.tim := rfl
@[simp] theorem setGroup_knt (g : Nat) (x : Group) (c : Chip) : (setGroup g x c).knt = c.knt := rfl
@[simp] theorem setGroup_evt (g : Nat) (x : Group) (c : Chip) : (setGroup g x c).evt = c.evt := rfl
@[simp] theorem setGroup_cmd (g : Nat) (x : Group) (c : Chip) : (setGroup g x c).cmd = c.cmd := rfl
@[simp] theorem setGroup_net (g : Nat) (x : Group) (c : Chip) : (setGroup g x c).net = c.net := rfl
@[simp] theorem setGroup_ycp (g : Nat) (x : Group) (c : Chip) : (setGroup g x c).ycp = c.ycp := rfl
@[simp] theorem setGroup_hfr (g : Nat) (x : Group) (c : Chip) : (setGroup g x c).hfr = c.hfr := rfl
@[simp] theorem setGroup_axes (g : Nat) (x : Group) (c : Chip) : (setGroup g x c).axes = c.axes := rfl
@[simp] theorem setGroup_hits (g : Nat) (x : Group) (c : Chip) : (setGroup g x c).hits = c.hits := rfl
@[simp] theorem setGroup_cam (g : Nat) (x : Group) (c : Chip) : (setGroup g x c).cam = c.cam := rfl
@[simp] theorem setGroup_loops (g : Nat) (x : Group) (c : Chip) : (setGroup g x c).loops = c.loops := rfl
@[simp] theorem setGroup_lpes (g : Nat) (x : Group) (c : Chip) : (setGroup g x c).lpes = c.lpes := rfl
@[simp] theorem setGroup_sups (g : Nat) (x : Group) (c : Chip) : (setGroup g x c).sups = c.sups := rfl
@[simp] theorem setGroup_buses (g : Nat) (x : Group) (c : Chip) : (setGroup g x c).buses = c.buses := rfl
@[simp] theorem setGroup_mods (g : Nat) (x : Group) (c : Chip) : (setGroup g x c).mods = c.mods := rfl
@[simp] theorem setGroup_fbks (g : Nat) (x : Group) (c : Chip) : (setGroup g x c).fbks = c.fbks := rfl
@[simp] theorem setGroup_snls (g : Nat) (x : Group) (c : Chip) : (setGroup g x c).snls = c.snls := rfl
@[simp] theorem setGroup_adcs (g : Nat) (x : Group) (c : Chip) : (setGroup g x c).adcs = c.adcs := rfl
@[simp] theorem setGroup_sdfs (g : Nat) (x : Group) (c : Chip) : (setGroup g x c).sdfs = c.sdfs := rfl
@[simp] theorem setGroup_sdfSeq (g : Nat) (x : Group) (c : Chip) : (setGroup g x c).sdfSeq = c.sdfSeq := rfl
@[simp] theorem setGroup_cores (g : Nat) (x : Group) (c : Chip) : (setGroup g x c).cores = c.cores := rfl
@[simp] theorem setGroup_dsp (g : Nat) (x : Group) (c : Chip) : (setGroup g x c).dsp = c.dsp := rfl
@[simp] theorem setGroup_trc (g : Nat) (x : Group) (c : Chip) : (setGroup g x c).trc = c.trc := rfl
@[simp] theorem setGroup_fld (g : Nat) (x : Group) (c : Chip) : (setGroup g x c).fld = c.fld := rfl
@[simp] theorem setGroup_field (g : Nat) (x : Group) (c : Chip) : (setGroup g x c).field = c.field := rfl
@[simp] theorem setGroup_bly (g : Nat) (x : Group) (c : Chip) : (setGroup g x c).bly = c.bly := rfl
@[simp] theorem setGroup_memc (g : Nat) (x : Group) (c : Chip) : (setGroup g x c).memc = c.memc := rfl
@[simp] theorem setGroup_scb (g : Nat) (x : Group) (c : Chip) : (setGroup g x c).scb = c.scb := rfl
@[simp] theorem setGroup_keep (g : Nat) (x : Group) (c : Chip) : (setGroup g x c).keep = c.keep := rfl
@[simp] theorem setGroup_pwr (g : Nat) (x : Group) (c : Chip) : (setGroup g x c).pwr = c.pwr := rfl
@[simp] theorem setGroup_sec (g : Nat) (x : Group) (c : Chip) : (setGroup g x c).sec = c.sec := rfl
@[simp] theorem setGroup_dbg (g : Nat) (x : Group) (c : Chip) : (setGroup g x c).dbg = c.dbg := rfl
@[simp] theorem setGroup_spl (g : Nat) (x : Group) (c : Chip) : (setGroup g x c).spl = c.spl := rfl
@[simp] theorem setGroup_free (g : Nat) (x : Group) (c : Chip) : (setGroup g x c).free = c.free := rfl
@[simp] theorem setGroup_svcSafety (g : Nat) (x : Group) (c : Chip) : (setGroup g x c).svcSafety = c.svcSafety := rfl
@[simp] theorem setGroup_svcPcie (g : Nat) (x : Group) (c : Chip) : (setGroup g x c).svcPcie = c.svcPcie := rfl
@[simp] theorem setGroup_out (g : Nat) (x : Group) (c : Chip) : (setGroup g x c).out = c.out := rfl

@[simp] theorem setHitch_regs (h : Nat) (x : Hitch) (c : Chip) : (setHitch h x c).regs = c.regs := rfl
@[simp] theorem setHitch_pages (h : Nat) (x : Hitch) (c : Chip) : (setHitch h x c).pages = c.pages := rfl
@[simp] theorem setHitch_paths (h : Nat) (x : Hitch) (c : Chip) : (setHitch h x c).paths = c.paths := rfl
@[simp] theorem setHitch_held (h : Nat) (x : Hitch) (c : Chip) : (setHitch h x c).held = c.held := rfl
@[simp] theorem setHitch_faultSeq (h : Nat) (x : Hitch) (c : Chip) : (setHitch h x c).faultSeq = c.faultSeq := rfl
@[simp] theorem setHitch_clk (h : Nat) (x : Hitch) (c : Chip) : (setHitch h x c).clk = c.clk := rfl
@[simp] theorem setHitch_tim (h : Nat) (x : Hitch) (c : Chip) : (setHitch h x c).tim = c.tim := rfl
@[simp] theorem setHitch_knt (h : Nat) (x : Hitch) (c : Chip) : (setHitch h x c).knt = c.knt := rfl
@[simp] theorem setHitch_evt (h : Nat) (x : Hitch) (c : Chip) : (setHitch h x c).evt = c.evt := rfl
@[simp] theorem setHitch_cmd (h : Nat) (x : Hitch) (c : Chip) : (setHitch h x c).cmd = c.cmd := rfl
@[simp] theorem setHitch_net (h : Nat) (x : Hitch) (c : Chip) : (setHitch h x c).net = c.net := rfl
@[simp] theorem setHitch_ycp (h : Nat) (x : Hitch) (c : Chip) : (setHitch h x c).ycp = c.ycp := rfl
@[simp] theorem setHitch_hfr (h : Nat) (x : Hitch) (c : Chip) : (setHitch h x c).hfr = c.hfr := rfl
@[simp] theorem setHitch_axes (h : Nat) (x : Hitch) (c : Chip) : (setHitch h x c).axes = c.axes := rfl
@[simp] theorem setHitch_grps (h : Nat) (x : Hitch) (c : Chip) : (setHitch h x c).grps = c.grps := rfl
@[simp] theorem setHitch_cam (h : Nat) (x : Hitch) (c : Chip) : (setHitch h x c).cam = c.cam := rfl
@[simp] theorem setHitch_loops (h : Nat) (x : Hitch) (c : Chip) : (setHitch h x c).loops = c.loops := rfl
@[simp] theorem setHitch_lpes (h : Nat) (x : Hitch) (c : Chip) : (setHitch h x c).lpes = c.lpes := rfl
@[simp] theorem setHitch_sups (h : Nat) (x : Hitch) (c : Chip) : (setHitch h x c).sups = c.sups := rfl
@[simp] theorem setHitch_buses (h : Nat) (x : Hitch) (c : Chip) : (setHitch h x c).buses = c.buses := rfl
@[simp] theorem setHitch_mods (h : Nat) (x : Hitch) (c : Chip) : (setHitch h x c).mods = c.mods := rfl
@[simp] theorem setHitch_fbks (h : Nat) (x : Hitch) (c : Chip) : (setHitch h x c).fbks = c.fbks := rfl
@[simp] theorem setHitch_snls (h : Nat) (x : Hitch) (c : Chip) : (setHitch h x c).snls = c.snls := rfl
@[simp] theorem setHitch_adcs (h : Nat) (x : Hitch) (c : Chip) : (setHitch h x c).adcs = c.adcs := rfl
@[simp] theorem setHitch_sdfs (h : Nat) (x : Hitch) (c : Chip) : (setHitch h x c).sdfs = c.sdfs := rfl
@[simp] theorem setHitch_sdfSeq (h : Nat) (x : Hitch) (c : Chip) : (setHitch h x c).sdfSeq = c.sdfSeq := rfl
@[simp] theorem setHitch_cores (h : Nat) (x : Hitch) (c : Chip) : (setHitch h x c).cores = c.cores := rfl
@[simp] theorem setHitch_dsp (h : Nat) (x : Hitch) (c : Chip) : (setHitch h x c).dsp = c.dsp := rfl
@[simp] theorem setHitch_trc (h : Nat) (x : Hitch) (c : Chip) : (setHitch h x c).trc = c.trc := rfl
@[simp] theorem setHitch_fld (h : Nat) (x : Hitch) (c : Chip) : (setHitch h x c).fld = c.fld := rfl
@[simp] theorem setHitch_field (h : Nat) (x : Hitch) (c : Chip) : (setHitch h x c).field = c.field := rfl
@[simp] theorem setHitch_bly (h : Nat) (x : Hitch) (c : Chip) : (setHitch h x c).bly = c.bly := rfl
@[simp] theorem setHitch_memc (h : Nat) (x : Hitch) (c : Chip) : (setHitch h x c).memc = c.memc := rfl
@[simp] theorem setHitch_scb (h : Nat) (x : Hitch) (c : Chip) : (setHitch h x c).scb = c.scb := rfl
@[simp] theorem setHitch_keep (h : Nat) (x : Hitch) (c : Chip) : (setHitch h x c).keep = c.keep := rfl
@[simp] theorem setHitch_pwr (h : Nat) (x : Hitch) (c : Chip) : (setHitch h x c).pwr = c.pwr := rfl
@[simp] theorem setHitch_sec (h : Nat) (x : Hitch) (c : Chip) : (setHitch h x c).sec = c.sec := rfl
@[simp] theorem setHitch_dbg (h : Nat) (x : Hitch) (c : Chip) : (setHitch h x c).dbg = c.dbg := rfl
@[simp] theorem setHitch_spl (h : Nat) (x : Hitch) (c : Chip) : (setHitch h x c).spl = c.spl := rfl
@[simp] theorem setHitch_free (h : Nat) (x : Hitch) (c : Chip) : (setHitch h x c).free = c.free := rfl
@[simp] theorem setHitch_svcSafety (h : Nat) (x : Hitch) (c : Chip) : (setHitch h x c).svcSafety = c.svcSafety := rfl
@[simp] theorem setHitch_svcPcie (h : Nat) (x : Hitch) (c : Chip) : (setHitch h x c).svcPcie = c.svcPcie := rfl
@[simp] theorem setHitch_out (h : Nat) (x : Hitch) (c : Chip) : (setHitch h x c).out = c.out := rfl

end Sys2Proof.Machine
end

