-- ==== Sys2Proof/Laws/Ops.lean ====
section
/-!
SUPPORT. What is read back after the shared operations of chapter 2: registers, headers, causes and page states.
-/

namespace Sys2Proof.Machine

/-- Page numbers are distinct: the page of a number gives the page back. -/
theorem pageNum_inj {p q : Page} (h : pageNum p = pageNum q) : p = q := by
  cases p <;> cases q <;> simp only [pageNum] at h <;> first
    | rfl
    | (congr 1; apply Fin.ext; omega)
    | omega

/-! ### Registers -/

@[simp] theorem regGet_regSet (c : Chip) (a : Nat) (v : Word) : regGet (regSet a v c) a = v := by
  simp [regGet, regSet]

theorem regGet_regSet_ne (c : Chip) (a b : Nat) (v : Word) (h : b ≠ a) : regGet (regSet a v c) b = regGet c b := by
  simp [regGet, regSet, tabGet_tabSet_ne _ _ _ _ _ h]

@[simp] theorem rd_wr (c : Chip) (p : Page) (off : Nat) (v : Word) : rd (wr p off v c) p off = v := by
  simp [rd, wr]

/-- A register keeps its value when another one of the window is written. -/
theorem rd_wr_ne (c : Chip) (p q : Page) (off off' : Nat) (v : Word) (h : pageBase q + off' ≠ pageBase p + off) :
    rd (wr p off v c) q off' = rd c q off' := by
  simp [rd, wr, regGet_regSet_ne _ _ _ _ h]

theorem rd_regs {c c' : Chip} (h : c'.regs = c.regs) (p : Page) (off : Nat) : rd c' p off = rd c p off := by
  simp [rd, regGet, h]

theorem act_regs {c c' : Chip} (h : c'.regs = c.regs) (p : Page) (off : Nat) : act c' p off = act c p off := by
  simp [act, regGet, h]

theorem hdr_pages {c c' : Chip} (h : c'.pages = c.pages) (p : Page) : hdr c' p = hdr c p := by
  simp [hdr, h]

/-! ### Headers -/

@[simp] theorem hdr_setHdr (c : Chip) (p : Page) (h : PageHdr) : hdr (setHdr p h c) p = h := by
  simp [hdr, setHdr]

theorem hdr_setHdr_ne (c : Chip) (p q : Page) (h : PageHdr) (hq : q ≠ p) : hdr (setHdr p h c) q = hdr c q := by
  simp only [hdr, setHdr]
  exact tabGet_tabSet_ne _ _ _ _ _ (fun e => hq (pageNum_inj e)) _

@[simp] theorem hdr_modHdr (c : Chip) (p : Page) (f : PageHdr → PageHdr) : hdr (modHdr p f c) p = f (hdr c p) := by
  simp [modHdr]

theorem hdr_modHdr_ne (c : Chip) (p q : Page) (f : PageHdr → PageHdr) (hq : q ≠ p) : hdr (modHdr p f c) q = hdr c q := by
  simp [modHdr, hdr_setHdr_ne _ _ _ _ hq]

@[simp] theorem hdr_raiseVector (c : Chip) (v : Nat) (q : Page) : hdr (raiseVector v c) q = hdr c q := rfl

@[simp] theorem hdr_emit (c : Chip) (o : Output) (q : Page) : hdr (emit o c) q = hdr c q := rfl

@[simp] theorem hdr_wr (c : Chip) (p : Page) (off : Nat) (v : Word) (q : Page) : hdr (wr p off v c) q = hdr c q := rfl

/-- A cause sets its bit in PG_EVT and changes no other header register (R37). -/
theorem hdr_raise (c : Chip) (p : Page) (b : Nat) : hdr (raise p b c) p = { hdr c p with evt := (hdr c p).evt ||| (1#32 <<< b) } := by
  unfold raise
  dsimp only
  split
  · rename_i h
    have e : (hdr c p).evt ||| (1#32 <<< b) = (hdr c p).evt := by
      apply BitVec.eq_of_getLsbD_eq
      intro i hi
      simp only [bit] at h
      by_cases hb : i = b
      · subst hb; simp [h]
      · have : (1#32 <<< b).getLsbD i = false := by
          simp only [BitVec.getLsbD_shiftLeft, BitVec.getLsbD_one]
          simp; omega
        simp [BitVec.getLsbD_or, this]
    rw [e]
  · split <;> simp

/-- Nor does it touch another page's header. -/
theorem hdr_raise_ne (c : Chip) (p q : Page) (b : Nat) (hq : q ≠ p) : hdr (raise p b c) q = hdr c q := by
  unfold raise
  dsimp only
  split
  · rfl
  · split <;> simp [hdr_setHdr_ne _ _ _ _ hq]

@[simp] theorem hdr_raise_en (c : Chip) (p q : Page) (b : Nat) : (hdr (raise p b c) q).en = (hdr c q).en := by
  by_cases hq : q = p
  · subst hq; rw [hdr_raise]
  · rw [hdr_raise_ne _ _ _ _ hq]

@[simp] theorem hdr_raise_state (c : Chip) (p q : Page) (b : Nat) : (hdr (raise p b c) q).state = (hdr c q).state := by
  by_cases hq : q = p
  · subst hq; rw [hdr_raise]
  · rw [hdr_raise_ne _ _ _ _ hq]

@[simp] theorem hdr_raise_resetSince (c : Chip) (p q : Page) (b : Nat) : (hdr (raise p b c) q).resetSince = (hdr c q).resetSince := by
  by_cases hq : q = p
  · subst hq; rw [hdr_raise]
  · rw [hdr_raise_ne _ _ _ _ hq]

@[simp] theorem hdr_raise_resetDropped (c : Chip) (p q : Page) (b : Nat) : (hdr (raise p b c) q).resetDropped = (hdr c q).resetDropped := by
  by_cases hq : q = p
  · subst hq; rw [hdr_raise]
  · rw [hdr_raise_ne _ _ _ _ hq]

@[simp] theorem hdr_raise_spliceReq (c : Chip) (p q : Page) (b : Nat) : (hdr (raise p b c) q).spliceReq = (hdr c q).spliceReq := by
  by_cases hq : q = p
  · subst hq; rw [hdr_raise]
  · rw [hdr_raise_ne _ _ _ _ hq]

@[simp] theorem hdr_raise_spliceFrom (c : Chip) (p q : Page) (b : Nat) : (hdr (raise p b c) q).spliceFrom = (hdr c q).spliceFrom := by
  by_cases hq : q = p
  · subst hq; rw [hdr_raise]
  · rw [hdr_raise_ne _ _ _ _ hq]

@[simp] theorem hdr_raise_spliceSince (c : Chip) (p q : Page) (b : Nat) : (hdr (raise p b c) q).spliceSince = (hdr c q).spliceSince := by
  by_cases hq : q = p
  · subst hq; rw [hdr_raise]
  · rw [hdr_raise_ne _ _ _ _ hq]

@[simp] theorem hdr_raise_sealedBit (c : Chip) (p q : Page) (b : Nat) : (hdr (raise p b c) q).sealedBit = (hdr c q).sealedBit := by
  by_cases hq : q = p
  · subst hq; rw [hdr_raise]
  · rw [hdr_raise_ne _ _ _ _ hq]

@[simp] theorem hdr_raise_sealCrc (c : Chip) (p q : Page) (b : Nat) : (hdr (raise p b c) q).sealCrc = (hdr c q).sealCrc := by
  by_cases hq : q = p
  · subst hq; rw [hdr_raise]
  · rw [hdr_raise_ne _ _ _ _ hq]

@[simp] theorem hdr_raise_shadowPending (c : Chip) (p q : Page) (b : Nat) : (hdr (raise p b c) q).shadowPending = (hdr c q).shadowPending := by
  by_cases hq : q = p
  · subst hq; rw [hdr_raise]
  · rw [hdr_raise_ne _ _ _ _ hq]

@[simp] theorem hdr_raise_clockOk (c : Chip) (p q : Page) (b : Nat) : (hdr (raise p b c) q).clockOk = (hdr c q).clockOk := by
  by_cases hq : q = p
  · subst hq; rw [hdr_raise]
  · rw [hdr_raise_ne _ _ _ _ hq]

@[simp] theorem hdr_raise_fltCode (c : Chip) (p q : Page) (b : Nat) : (hdr (raise p b c) q).fltCode = (hdr c q).fltCode := by
  by_cases hq : q = p
  · subst hq; rw [hdr_raise]
  · rw [hdr_raise_ne _ _ _ _ hq]

@[simp] theorem hdr_raise_fltCount (c : Chip) (p q : Page) (b : Nat) : (hdr (raise p b c) q).fltCount = (hdr c q).fltCount := by
  by_cases hq : q = p
  · subst hq; rw [hdr_raise]
  · rw [hdr_raise_ne _ _ _ _ hq]

@[simp] theorem hdr_raise_fltSeq (c : Chip) (p q : Page) (b : Nat) : (hdr (raise p b c) q).fltSeq = (hdr c q).fltSeq := by
  by_cases hq : q = p
  · subst hq; rw [hdr_raise]
  · rw [hdr_raise_ne _ _ _ _ hq]

@[simp] theorem hdr_raise_conds (c : Chip) (p q : Page) (b : Nat) : (hdr (raise p b c) q).conds = (hdr c q).conds := by
  by_cases hq : q = p
  · subst hq; rw [hdr_raise]
  · rw [hdr_raise_ne _ _ _ _ hq]

@[simp] theorem hdr_raise_gen (c : Chip) (p q : Page) (b : Nat) : (hdr (raise p b c) q).gen = (hdr c q).gen := by
  by_cases hq : q = p
  · subst hq; rw [hdr_raise]
  · rw [hdr_raise_ne _ _ _ _ hq]

@[simp] theorem hdr_raise_applyReq (c : Chip) (p q : Page) (b : Nat) : (hdr (raise p b c) q).applyReq = (hdr c q).applyReq := by
  by_cases hq : q = p
  · subst hq; rw [hdr_raise]
  · rw [hdr_raise_ne _ _ _ _ hq]

@[simp] theorem hdr_raise_applyCount (c : Chip) (p q : Page) (b : Nat) : (hdr (raise p b c) q).applyCount = (hdr c q).applyCount := by
  by_cases hq : q = p
  · subst hq; rw [hdr_raise]
  · rw [hdr_raise_ne _ _ _ _ hq]

@[simp] theorem hdr_raise_owner (c : Chip) (p q : Page) (b : Nat) : (hdr (raise p b c) q).owner = (hdr c q).owner := by
  by_cases hq : q = p
  · subst hq; rw [hdr_raise]
  · rw [hdr_raise_ne _ _ _ _ hq]

@[simp] theorem hdr_raise_halted (c : Chip) (p q : Page) (b : Nat) : (hdr (raise p b c) q).halted = (hdr c q).halted := by
  by_cases hq : q = p
  · subst hq; rw [hdr_raise]
  · rw [hdr_raise_ne _ _ _ _ hq]

@[simp] theorem hdr_raise_stoDemand (c : Chip) (p q : Page) (b : Nat) : (hdr (raise p b c) q).stoDemand = (hdr c q).stoDemand := by
  by_cases hq : q = p
  · subst hq; rw [hdr_raise]
  · rw [hdr_raise_ne _ _ _ _ hq]

@[simp] theorem hdr_raise_sagDemand (c : Chip) (p q : Page) (b : Nat) : (hdr (raise p b c) q).sagDemand = (hdr c q).sagDemand := by
  by_cases hq : q = p
  · subst hq; rw [hdr_raise]
  · rw [hdr_raise_ne _ _ _ _ hq]

@[simp] theorem hdr_setState_state (c : Chip) (p : Page) (st : PgState) : (hdr (setState p st c) p).state = st := by
  unfold setState withService
  split
  · assumption
  · dsimp only; split <;> simp

theorem hdr_setState_state_ne (c : Chip) (p q : Page) (st : PgState) (hq : q ≠ p) : (hdr (setState p st c) q).state = (hdr c q).state := by
  unfold setState withService
  split
  · rfl
  · dsimp only; split <;> simp [hdr_modHdr_ne _ _ _ _ hq]

@[simp] theorem hdr_setState_en (c : Chip) (p q : Page) (st : PgState) : (hdr (setState p st c) q).en = (hdr c q).en := by
  unfold setState withService
  by_cases hq : q = p
  · subst hq; split <;> [rfl; (dsimp only; split <;> simp)]
  · split <;> [rfl; (dsimp only; split <;> simp [hdr_modHdr_ne _ _ _ _ hq])]

@[simp] theorem hdr_setState_resetSince (c : Chip) (p q : Page) (st : PgState) : (hdr (setState p st c) q).resetSince = (hdr c q).resetSince := by
  unfold setState withService
  by_cases hq : q = p
  · subst hq; split <;> [rfl; (dsimp only; split <;> simp)]
  · split <;> [rfl; (dsimp only; split <;> simp [hdr_modHdr_ne _ _ _ _ hq])]

@[simp] theorem hdr_setState_resetDropped (c : Chip) (p q : Page) (st : PgState) : (hdr (setState p st c) q).resetDropped = (hdr c q).resetDropped := by
  unfold setState withService
  by_cases hq : q = p
  · subst hq; split <;> [rfl; (dsimp only; split <;> simp)]
  · split <;> [rfl; (dsimp only; split <;> simp [hdr_modHdr_ne _ _ _ _ hq])]

@[simp] theorem hdr_setState_spliceReq (c : Chip) (p q : Page) (st : PgState) : (hdr (setState p st c) q).spliceReq = (hdr c q).spliceReq := by
  unfold setState withService
  by_cases hq : q = p
  · subst hq; split <;> [rfl; (dsimp only; split <;> simp)]
  · split <;> [rfl; (dsimp only; split <;> simp [hdr_modHdr_ne _ _ _ _ hq])]

@[simp] theorem hdr_setState_spliceFrom (c : Chip) (p q : Page) (st : PgState) : (hdr (setState p st c) q).spliceFrom = (hdr c q).spliceFrom := by
  unfold setState withService
  by_cases hq : q = p
  · subst hq; split <;> [rfl; (dsimp only; split <;> simp)]
  · split <;> [rfl; (dsimp only; split <;> simp [hdr_modHdr_ne _ _ _ _ hq])]

@[simp] theorem hdr_setState_spliceSince (c : Chip) (p q : Page) (st : PgState) : (hdr (setState p st c) q).spliceSince = (hdr c q).spliceSince := by
  unfold setState withService
  by_cases hq : q = p
  · subst hq; split <;> [rfl; (dsimp only; split <;> simp)]
  · split <;> [rfl; (dsimp only; split <;> simp [hdr_modHdr_ne _ _ _ _ hq])]

@[simp] theorem hdr_setState_sealedBit (c : Chip) (p q : Page) (st : PgState) : (hdr (setState p st c) q).sealedBit = (hdr c q).sealedBit := by
  unfold setState withService
  by_cases hq : q = p
  · subst hq; split <;> [rfl; (dsimp only; split <;> simp)]
  · split <;> [rfl; (dsimp only; split <;> simp [hdr_modHdr_ne _ _ _ _ hq])]

@[simp] theorem hdr_setState_sealCrc (c : Chip) (p q : Page) (st : PgState) : (hdr (setState p st c) q).sealCrc = (hdr c q).sealCrc := by
  unfold setState withService
  by_cases hq : q = p
  · subst hq; split <;> [rfl; (dsimp only; split <;> simp)]
  · split <;> [rfl; (dsimp only; split <;> simp [hdr_modHdr_ne _ _ _ _ hq])]

@[simp] theorem hdr_setState_shadowPending (c : Chip) (p q : Page) (st : PgState) : (hdr (setState p st c) q).shadowPending = (hdr c q).shadowPending := by
  unfold setState withService
  by_cases hq : q = p
  · subst hq; split <;> [rfl; (dsimp only; split <;> simp)]
  · split <;> [rfl; (dsimp only; split <;> simp [hdr_modHdr_ne _ _ _ _ hq])]

@[simp] theorem hdr_setState_clockOk (c : Chip) (p q : Page) (st : PgState) : (hdr (setState p st c) q).clockOk = (hdr c q).clockOk := by
  unfold setState withService
  by_cases hq : q = p
  · subst hq; split <;> [rfl; (dsimp only; split <;> simp)]
  · split <;> [rfl; (dsimp only; split <;> simp [hdr_modHdr_ne _ _ _ _ hq])]

@[simp] theorem hdr_setState_fltCode (c : Chip) (p q : Page) (st : PgState) : (hdr (setState p st c) q).fltCode = (hdr c q).fltCode := by
  unfold setState withService
  by_cases hq : q = p
  · subst hq; split <;> [rfl; (dsimp only; split <;> simp)]
  · split <;> [rfl; (dsimp only; split <;> simp [hdr_modHdr_ne _ _ _ _ hq])]

@[simp] theorem hdr_setState_fltCount (c : Chip) (p q : Page) (st : PgState) : (hdr (setState p st c) q).fltCount = (hdr c q).fltCount := by
  unfold setState withService
  by_cases hq : q = p
  · subst hq; split <;> [rfl; (dsimp only; split <;> simp)]
  · split <;> [rfl; (dsimp only; split <;> simp [hdr_modHdr_ne _ _ _ _ hq])]

@[simp] theorem hdr_setState_fltSeq (c : Chip) (p q : Page) (st : PgState) : (hdr (setState p st c) q).fltSeq = (hdr c q).fltSeq := by
  unfold setState withService
  by_cases hq : q = p
  · subst hq; split <;> [rfl; (dsimp only; split <;> simp)]
  · split <;> [rfl; (dsimp only; split <;> simp [hdr_modHdr_ne _ _ _ _ hq])]

@[simp] theorem hdr_setState_conds (c : Chip) (p q : Page) (st : PgState) : (hdr (setState p st c) q).conds = (hdr c q).conds := by
  unfold setState withService
  by_cases hq : q = p
  · subst hq; split <;> [rfl; (dsimp only; split <;> simp)]
  · split <;> [rfl; (dsimp only; split <;> simp [hdr_modHdr_ne _ _ _ _ hq])]

@[simp] theorem hdr_setState_gen (c : Chip) (p q : Page) (st : PgState) : (hdr (setState p st c) q).gen = (hdr c q).gen := by
  unfold setState withService
  by_cases hq : q = p
  · subst hq; split <;> [rfl; (dsimp only; split <;> simp)]
  · split <;> [rfl; (dsimp only; split <;> simp [hdr_modHdr_ne _ _ _ _ hq])]

@[simp] theorem hdr_setState_applyReq (c : Chip) (p q : Page) (st : PgState) : (hdr (setState p st c) q).applyReq = (hdr c q).applyReq := by
  unfold setState withService
  by_cases hq : q = p
  · subst hq; split <;> [rfl; (dsimp only; split <;> simp)]
  · split <;> [rfl; (dsimp only; split <;> simp [hdr_modHdr_ne _ _ _ _ hq])]

@[simp] theorem hdr_setState_applyCount (c : Chip) (p q : Page) (st : PgState) : (hdr (setState p st c) q).applyCount = (hdr c q).applyCount := by
  unfold setState withService
  by_cases hq : q = p
  · subst hq; split <;> [rfl; (dsimp only; split <;> simp)]
  · split <;> [rfl; (dsimp only; split <;> simp [hdr_modHdr_ne _ _ _ _ hq])]

@[simp] theorem hdr_setState_owner (c : Chip) (p q : Page) (st : PgState) : (hdr (setState p st c) q).owner = (hdr c q).owner := by
  unfold setState withService
  by_cases hq : q = p
  · subst hq; split <;> [rfl; (dsimp only; split <;> simp)]
  · split <;> [rfl; (dsimp only; split <;> simp [hdr_modHdr_ne _ _ _ _ hq])]

@[simp] theorem hdr_setState_halted (c : Chip) (p q : Page) (st : PgState) : (hdr (setState p st c) q).halted = (hdr c q).halted := by
  unfold setState withService
  by_cases hq : q = p
  · subst hq; split <;> [rfl; (dsimp only; split <;> simp)]
  · split <;> [rfl; (dsimp only; split <;> simp [hdr_modHdr_ne _ _ _ _ hq])]

@[simp] theorem hdr_setState_stoDemand (c : Chip) (p q : Page) (st : PgState) : (hdr (setState p st c) q).stoDemand = (hdr c q).stoDemand := by
  unfold setState withService
  by_cases hq : q = p
  · subst hq; split <;> [rfl; (dsimp only; split <;> simp)]
  · split <;> [rfl; (dsimp only; split <;> simp [hdr_modHdr_ne _ _ _ _ hq])]

@[simp] theorem hdr_setState_sagDemand (c : Chip) (p q : Page) (st : PgState) : (hdr (setState p st c) q).sagDemand = (hdr c q).sagDemand := by
  unfold setState withService
  by_cases hq : q = p
  · subst hq; split <;> [rfl; (dsimp only; split <;> simp)]
  · split <;> [rfl; (dsimp only; split <;> simp [hdr_modHdr_ne _ _ _ _ hq])]

@[simp] theorem rd_emit (c : Chip) (o : Output) (p : Page) (off : Nat) : rd (emit o c) p off = rd c p off := rfl

@[simp] theorem rd_setHdr (c : Chip) (q : Page) (h : PageHdr) (p : Page) (off : Nat) : rd (setHdr q h c) p off = rd c p off := rfl

@[simp] theorem rd_modHdr (c : Chip) (q : Page) (f : PageHdr → PageHdr) (p : Page) (off : Nat) : rd (modHdr q f c) p off = rd c p off := rfl

@[simp] theorem rd_raise (c : Chip) (q : Page) (b : Nat) (p : Page) (off : Nat) : rd (raise q b c) p off = rd c p off :=
  rd_regs (raise_regs q b c) p off

@[simp] theorem rd_setState (c : Chip) (q : Page) (st : PgState) (p : Page) (off : Nat) : rd (setState q st c) p off = rd c p off :=
  rd_regs (setState_regs q st c) p off

end Sys2Proof.Machine
end

