-- ==== Sys2Proof/Laws/Setters.lean ====
section
/-!
SUPPORT. The named updates of the blocks' own state: what is read back after each, and that none touches a page header or a register.
-/

namespace Sys2Proof.Machine

@[simp] theorem adcSt_setAdc (c : Chip) (k : Nat) (x : AdcSt) : adcSt (setAdc k x c) k = x := by simp [adcSt, setAdc]

theorem adcSt_setAdc_ne (c : Chip) (k j : Nat) (x : AdcSt) (h : j ≠ k) : adcSt (setAdc k x c) j = adcSt c j := by
  simp [adcSt, setAdc, tabGet_tabSet_ne _ _ _ _ _ h]

@[simp] theorem hdr_setAdc (c : Chip) (k : Nat) (x : AdcSt) (p : Page) : hdr (setAdc k x c) p = hdr c p := rfl

@[simp] theorem rd_setAdc (c : Chip) (k : Nat) (x : AdcSt) (p : Page) (off : Nat) : rd (setAdc k x c) p off = rd c p off := rfl

@[simp] theorem act_setAdc (c : Chip) (k : Nat) (x : AdcSt) (p : Page) (off : Nat) : act (setAdc k x c) p off = act c p off := rfl

@[simp] theorem sdfCh_setSdf (c : Chip) (k : Nat) (x : SdfCh) : sdfCh (setSdf k x c) k = x := by simp [sdfCh, setSdf]

theorem sdfCh_setSdf_ne (c : Chip) (k j : Nat) (x : SdfCh) (h : j ≠ k) : sdfCh (setSdf k x c) j = sdfCh c j := by
  simp [sdfCh, setSdf, tabGet_tabSet_ne _ _ _ _ _ h]

@[simp] theorem hdr_setSdf (c : Chip) (k : Nat) (x : SdfCh) (p : Page) : hdr (setSdf k x c) p = hdr c p := rfl

@[simp] theorem rd_setSdf (c : Chip) (k : Nat) (x : SdfCh) (p : Page) (off : Nat) : rd (setSdf k x c) p off = rd c p off := rfl

@[simp] theorem act_setSdf (c : Chip) (k : Nat) (x : SdfCh) (p : Page) (off : Nat) : act (setSdf k x c) p off = act c p off := rfl

@[simp] theorem loopAx_setLoop (c : Chip) (k : Nat) (x : LoopAx) : loopAx (setLoop k x c) k = x := by simp [loopAx, setLoop]

theorem loopAx_setLoop_ne (c : Chip) (k j : Nat) (x : LoopAx) (h : j ≠ k) : loopAx (setLoop k x c) j = loopAx c j := by
  simp [loopAx, setLoop, tabGet_tabSet_ne _ _ _ _ _ h]

@[simp] theorem hdr_setLoop (c : Chip) (k : Nat) (x : LoopAx) (p : Page) : hdr (setLoop k x c) p = hdr c p := rfl

@[simp] theorem rd_setLoop (c : Chip) (k : Nat) (x : LoopAx) (p : Page) (off : Nat) : rd (setLoop k x c) p off = rd c p off := rfl

@[simp] theorem act_setLoop (c : Chip) (k : Nat) (x : LoopAx) (p : Page) (off : Nat) : act (setLoop k x c) p off = act c p off := rfl

@[simp] theorem supAx_setSup (c : Chip) (k : Nat) (x : SupAx) : supAx (setSup k x c) k = x := by simp [supAx, setSup]

theorem supAx_setSup_ne (c : Chip) (k j : Nat) (x : SupAx) (h : j ≠ k) : supAx (setSup k x c) j = supAx c j := by
  simp [supAx, setSup, tabGet_tabSet_ne _ _ _ _ _ h]

@[simp] theorem hdr_setSup (c : Chip) (k : Nat) (x : SupAx) (p : Page) : hdr (setSup k x c) p = hdr c p := rfl

@[simp] theorem rd_setSup (c : Chip) (k : Nat) (x : SupAx) (p : Page) (off : Nat) : rd (setSup k x c) p off = rd c p off := rfl

@[simp] theorem act_setSup (c : Chip) (k : Nat) (x : SupAx) (p : Page) (off : Nat) : act (setSup k x c) p off = act c p off := rfl

@[simp] theorem modSt_setMod (c : Chip) (k : Nat) (x : ModSt) : modSt (setMod k x c) k = x := by simp [modSt, setMod]

theorem modSt_setMod_ne (c : Chip) (k j : Nat) (x : ModSt) (h : j ≠ k) : modSt (setMod k x c) j = modSt c j := by
  simp [modSt, setMod, tabGet_tabSet_ne _ _ _ _ _ h]

@[simp] theorem hdr_setMod (c : Chip) (k : Nat) (x : ModSt) (p : Page) : hdr (setMod k x c) p = hdr c p := rfl

@[simp] theorem rd_setMod (c : Chip) (k : Nat) (x : ModSt) (p : Page) (off : Nat) : rd (setMod k x c) p off = rd c p off := rfl

@[simp] theorem act_setMod (c : Chip) (k : Nat) (x : ModSt) (p : Page) (off : Nat) : act (setMod k x c) p off = act c p off := rfl

@[simp] theorem fbkSt_setFbk (c : Chip) (k : Nat) (x : FbkSt) : fbkSt (setFbk k x c) k = x := by simp [fbkSt, setFbk]

theorem fbkSt_setFbk_ne (c : Chip) (k j : Nat) (x : FbkSt) (h : j ≠ k) : fbkSt (setFbk k x c) j = fbkSt c j := by
  simp [fbkSt, setFbk, tabGet_tabSet_ne _ _ _ _ _ h]

@[simp] theorem hdr_setFbk (c : Chip) (k : Nat) (x : FbkSt) (p : Page) : hdr (setFbk k x c) p = hdr c p := rfl

@[simp] theorem rd_setFbk (c : Chip) (k : Nat) (x : FbkSt) (p : Page) (off : Nat) : rd (setFbk k x c) p off = rd c p off := rfl

@[simp] theorem act_setFbk (c : Chip) (k : Nat) (x : FbkSt) (p : Page) (off : Nat) : act (setFbk k x c) p off = act c p off := rfl

@[simp] theorem snlSt_setSnl (c : Chip) (k : Nat) (x : SnlSt) : snlSt (setSnl k x c) k = x := by simp [snlSt, setSnl]

theorem snlSt_setSnl_ne (c : Chip) (k j : Nat) (x : SnlSt) (h : j ≠ k) : snlSt (setSnl k x c) j = snlSt c j := by
  simp [snlSt, setSnl, tabGet_tabSet_ne _ _ _ _ _ h]

@[simp] theorem hdr_setSnl (c : Chip) (k : Nat) (x : SnlSt) (p : Page) : hdr (setSnl k x c) p = hdr c p := rfl

@[simp] theorem rd_setSnl (c : Chip) (k : Nat) (x : SnlSt) (p : Page) (off : Nat) : rd (setSnl k x c) p off = rd c p off := rfl

@[simp] theorem act_setSnl (c : Chip) (k : Nat) (x : SnlSt) (p : Page) (off : Nat) : act (setSnl k x c) p off = act c p off := rfl

@[simp] theorem busSt_setBus (c : Chip) (k : Nat) (x : BusSt) : busSt (setBus k x c) k = x := by simp [busSt, setBus]

theorem busSt_setBus_ne (c : Chip) (k j : Nat) (x : BusSt) (h : j ≠ k) : busSt (setBus k x c) j = busSt c j := by
  simp [busSt, setBus, tabGet_tabSet_ne _ _ _ _ _ h]

@[simp] theorem hdr_setBus (c : Chip) (k : Nat) (x : BusSt) (p : Page) : hdr (setBus k x c) p = hdr c p := rfl

@[simp] theorem rd_setBus (c : Chip) (k : Nat) (x : BusSt) (p : Page) (off : Nat) : rd (setBus k x c) p off = rd c p off := rfl

@[simp] theorem act_setBus (c : Chip) (k : Nat) (x : BusSt) (p : Page) (off : Nat) : act (setBus k x c) p off = act c p off := rfl

@[simp] theorem sq_setSq (c : Chip) (k : Nat) (x : Sq) : sq (setSq k x c) k = x := by simp [sq, setSq]

theorem sq_setSq_ne (c : Chip) (k j : Nat) (x : Sq) (h : j ≠ k) : sq (setSq k x c) j = sq c j := by
  simp [sq, setSq, tabGet_tabSet_ne _ _ _ _ _ h]

@[simp] theorem hdr_setSq (c : Chip) (k : Nat) (x : Sq) (p : Page) : hdr (setSq k x c) p = hdr c p := rfl

@[simp] theorem rd_setSq (c : Chip) (k : Nat) (x : Sq) (p : Page) (off : Nat) : rd (setSq k x c) p off = rd c p off := rfl

@[simp] theorem act_setSq (c : Chip) (k : Nat) (x : Sq) (p : Page) (off : Nat) : act (setSq k x c) p off = act c p off := rfl

@[simp] theorem session_setSession (c : Chip) (k : Nat) (x : Session) : session (setSession k x c) k = x := by simp [session, setSession]

theorem session_setSession_ne (c : Chip) (k j : Nat) (x : Session) (h : j ≠ k) : session (setSession k x c) j = session c j := by
  simp [session, setSession, tabGet_tabSet_ne _ _ _ _ _ h]

@[simp] theorem hdr_setSession (c : Chip) (k : Nat) (x : Session) (p : Page) : hdr (setSession k x c) p = hdr c p := rfl

@[simp] theorem rd_setSession (c : Chip) (k : Nat) (x : Session) (p : Page) (off : Nat) : rd (setSession k x c) p off = rd c p off := rfl

@[simp] theorem act_setSession (c : Chip) (k : Nat) (x : Session) (p : Page) (off : Nat) : act (setSession k x c) p off = act c p off := rfl

@[simp] theorem core_setCore (c : Chip) (k : Nat) (x : CoreSt) : core (setCore k x c) k = x := by simp [core, setCore]

theorem core_setCore_ne (c : Chip) (k j : Nat) (x : CoreSt) (h : j ≠ k) : core (setCore k x c) j = core c j := by
  simp [core, setCore, tabGet_tabSet_ne _ _ _ _ _ h]

@[simp] theorem hdr_setCore (c : Chip) (k : Nat) (x : CoreSt) (p : Page) : hdr (setCore k x c) p = hdr c p := rfl

@[simp] theorem rd_setCore (c : Chip) (k : Nat) (x : CoreSt) (p : Page) (off : Nat) : rd (setCore k x c) p off = rd c p off := rfl

@[simp] theorem act_setCore (c : Chip) (k : Nat) (x : CoreSt) (p : Page) (off : Nat) : act (setCore k x c) p off = act c p off := rfl

@[simp] theorem lpe_setLpe (c : Chip) (k : Nat) (x : LpeSt) : lpe (setLpe k x c) k = x := by simp [lpe, setLpe]

theorem lpe_setLpe_ne (c : Chip) (k j : Nat) (x : LpeSt) (h : j ≠ k) : lpe (setLpe k x c) j = lpe c j := by
  simp [lpe, setLpe, tabGet_tabSet_ne _ _ _ _ _ h]

@[simp] theorem hdr_setLpe (c : Chip) (k : Nat) (x : LpeSt) (p : Page) : hdr (setLpe k x c) p = hdr c p := rfl

@[simp] theorem rd_setLpe (c : Chip) (k : Nat) (x : LpeSt) (p : Page) (off : Nat) : rd (setLpe k x c) p off = rd c p off := rfl

@[simp] theorem act_setLpe (c : Chip) (k : Nat) (x : LpeSt) (p : Page) (off : Nat) : act (setLpe k x c) p off = act c p off := rfl

@[simp] theorem netPort_setPort (c : Chip) (k : Nat) (x : NetPort) : netPort (setPort k x c) k = x := by simp [netPort, setPort]

theorem netPort_setPort_ne (c : Chip) (k j : Nat) (x : NetPort) (h : j ≠ k) : netPort (setPort k x c) j = netPort c j := by
  simp [netPort, setPort, tabGet_tabSet_ne _ _ _ _ _ h]

@[simp] theorem hdr_setPort (c : Chip) (k : Nat) (x : NetPort) (p : Page) : hdr (setPort k x c) p = hdr c p := rfl

@[simp] theorem rd_setPort (c : Chip) (k : Nat) (x : NetPort) (p : Page) (off : Nat) : rd (setPort k x c) p off = rd c p off := rfl

@[simp] theorem act_setPort (c : Chip) (k : Nat) (x : NetPort) (p : Page) (off : Nat) : act (setPort k x c) p off = act c p off := rfl

@[simp] theorem axis_setAxis (c : Chip) (k : Nat) (x : Axis) : axis (setAxis k x c) k = x := by simp [axis, setAxis]

theorem axis_setAxis_ne (c : Chip) (k j : Nat) (x : Axis) (h : j ≠ k) : axis (setAxis k x c) j = axis c j := by
  simp [axis, setAxis, tabGet_tabSet_ne _ _ _ _ _ h]

@[simp] theorem hdr_setAxis (c : Chip) (k : Nat) (x : Axis) (p : Page) : hdr (setAxis k x c) p = hdr c p := rfl

@[simp] theorem rd_setAxis (c : Chip) (k : Nat) (x : Axis) (p : Page) (off : Nat) : rd (setAxis k x c) p off = rd c p off := rfl

@[simp] theorem act_setAxis (c : Chip) (k : Nat) (x : Axis) (p : Page) (off : Nat) : act (setAxis k x c) p off = act c p off := rfl

@[simp] theorem group_setGroup (c : Chip) (k : Nat) (x : Group) : group (setGroup k x c) k = x := by simp [group, setGroup]

theorem group_setGroup_ne (c : Chip) (k j : Nat) (x : Group) (h : j ≠ k) : group (setGroup k x c) j = group c j := by
  simp [group, setGroup, tabGet_tabSet_ne _ _ _ _ _ h]

@[simp] theorem hdr_setGroup (c : Chip) (k : Nat) (x : Group) (p : Page) : hdr (setGroup k x c) p = hdr c p := rfl

@[simp] theorem rd_setGroup (c : Chip) (k : Nat) (x : Group) (p : Page) (off : Nat) : rd (setGroup k x c) p off = rd c p off := rfl

@[simp] theorem act_setGroup (c : Chip) (k : Nat) (x : Group) (p : Page) (off : Nat) : act (setGroup k x c) p off = act c p off := rfl

@[simp] theorem hitch_setHitch (c : Chip) (k : Nat) (x : Hitch) : hitch (setHitch k x c) k = x := by simp [hitch, setHitch]

theorem hitch_setHitch_ne (c : Chip) (k j : Nat) (x : Hitch) (h : j ≠ k) : hitch (setHitch k x c) j = hitch c j := by
  simp [hitch, setHitch, tabGet_tabSet_ne _ _ _ _ _ h]

@[simp] theorem hdr_setHitch (c : Chip) (k : Nat) (x : Hitch) (p : Page) : hdr (setHitch k x c) p = hdr c p := rfl

@[simp] theorem rd_setHitch (c : Chip) (k : Nat) (x : Hitch) (p : Page) (off : Nat) : rd (setHitch k x c) p off = rd c p off := rfl

@[simp] theorem act_setHitch (c : Chip) (k : Nat) (x : Hitch) (p : Page) (off : Nat) : act (setHitch k x c) p off = act c p off := rfl

@[simp] theorem ptpPort_setPtp (c : Chip) (k : Nat) (x : PtpPort) : ptpPort (setPtp k x c) k = x := by simp [ptpPort, setPtp, modTim]

theorem ptpPort_setPtp_ne (c : Chip) (k j : Nat) (x : PtpPort) (h : j ≠ k) : ptpPort (setPtp k x c) j = ptpPort c j := by
  simp [ptpPort, setPtp, modTim, tabGet_tabSet_ne _ _ _ _ _ h]

@[simp] theorem hdr_setPtp (c : Chip) (k : Nat) (x : PtpPort) (p : Page) : hdr (setPtp k x c) p = hdr c p := rfl

@[simp] theorem rd_setPtp (c : Chip) (k : Nat) (x : PtpPort) (p : Page) (off : Nat) : rd (setPtp k x c) p off = rd c p off := rfl

@[simp] theorem act_setPtp (c : Chip) (k : Nat) (x : PtpPort) (p : Page) (off : Nat) : act (setPtp k x c) p off = act c p off := rfl

@[simp] theorem knot_setKnot (c : Chip) (k : Nat) (x : Knot) : knot (setKnot k x c) k = x := by simp [knot, setKnot]

theorem knot_setKnot_ne (c : Chip) (k j : Nat) (x : Knot) (h : j ≠ k) : knot (setKnot k x c) j = knot c j := by
  simp [knot, setKnot, tabGet_tabSet_ne _ _ _ _ _ h]

@[simp] theorem hdr_setKnot (c : Chip) (k : Nat) (x : Knot) (p : Page) : hdr (setKnot k x c) p = hdr c p := rfl

@[simp] theorem rd_setKnot (c : Chip) (k : Nat) (x : Knot) (p : Page) (off : Nat) : rd (setKnot k x c) p off = rd c p off := rfl

@[simp] theorem act_setKnot (c : Chip) (k : Nat) (x : Knot) (p : Page) (off : Nat) : act (setKnot k x c) p off = act c p off := rfl

@[simp] theorem hdr_setSlot (c : Chip) (k : Nat) (x : ItemSt) (p : Page) : hdr (setSlot k x c) p = hdr c p := rfl

@[simp] theorem rd_setSlot (c : Chip) (k : Nat) (x : ItemSt) (p : Page) (off : Nat) : rd (setSlot k x c) p off = rd c p off := rfl

@[simp] theorem act_setSlot (c : Chip) (k : Nat) (x : ItemSt) (p : Page) (off : Nat) : act (setSlot k x c) p off = act c p off := rfl

@[simp] theorem flow_setFlow (c : Chip) (k : Nat) (x : FlowSt) : flow (setFlow k x c) k = x := by simp [flow, setFlow]

theorem flow_setFlow_ne (c : Chip) (k j : Nat) (x : FlowSt) (h : j ≠ k) : flow (setFlow k x c) j = flow c j := by
  simp [flow, setFlow, tabGet_tabSet_ne _ _ _ _ _ h]

@[simp] theorem hdr_setFlow (c : Chip) (k : Nat) (x : FlowSt) (p : Page) : hdr (setFlow k x c) p = hdr c p := rfl

@[simp] theorem rd_setFlow (c : Chip) (k : Nat) (x : FlowSt) (p : Page) (off : Nat) : rd (setFlow k x c) p off = rd c p off := rfl

@[simp] theorem act_setFlow (c : Chip) (k : Nat) (x : FlowSt) (p : Page) (off : Nat) : act (setFlow k x c) p off = act c p off := rfl

@[simp] theorem sub_setSub (c : Chip) (k : Nat) (x : Sub) : sub (setSub k x c) k = x := by simp [sub, setSub]

theorem sub_setSub_ne (c : Chip) (k j : Nat) (x : Sub) (h : j ≠ k) : sub (setSub k x c) j = sub c j := by
  simp [sub, setSub, tabGet_tabSet_ne _ _ _ _ _ h]

@[simp] theorem hdr_setSub (c : Chip) (k : Nat) (x : Sub) (p : Page) : hdr (setSub k x c) p = hdr c p := rfl

@[simp] theorem rd_setSub (c : Chip) (k : Nat) (x : Sub) (p : Page) (off : Nat) : rd (setSub k x c) p off = rd c p off := rfl

@[simp] theorem act_setSub (c : Chip) (k : Nat) (x : Sub) (p : Page) (off : Nat) : act (setSub k x c) p off = act c p off := rfl

@[simp] theorem adcSt_modAdc (c : Chip) (k : Nat) (f : AdcSt → AdcSt) : adcSt (modAdc k f c) k = f (adcSt c k) := by simp [modAdc]

theorem adcSt_modAdc_ne (c : Chip) (k j : Nat) (f : AdcSt → AdcSt) (h : j ≠ k) : adcSt (modAdc k f c) j = adcSt c j := by simp [modAdc, adcSt_setAdc_ne _ _ _ _ h]

@[simp] theorem hdr_modAdc (c : Chip) (k : Nat) (f : AdcSt → AdcSt) (p : Page) : hdr (modAdc k f c) p = hdr c p := rfl

@[simp] theorem rd_modAdc (c : Chip) (k : Nat) (f : AdcSt → AdcSt) (p : Page) (off : Nat) : rd (modAdc k f c) p off = rd c p off := rfl

@[simp] theorem act_modAdc (c : Chip) (k : Nat) (f : AdcSt → AdcSt) (p : Page) (off : Nat) : act (modAdc k f c) p off = act c p off := rfl

@[simp] theorem axis_modAxis (c : Chip) (k : Nat) (f : Axis → Axis) : axis (modAxis k f c) k = f (axis c k) := by simp [modAxis]

theorem axis_modAxis_ne (c : Chip) (k j : Nat) (f : Axis → Axis) (h : j ≠ k) : axis (modAxis k f c) j = axis c j := by simp [modAxis, axis_setAxis_ne _ _ _ _ h]

@[simp] theorem hdr_modAxis (c : Chip) (k : Nat) (f : Axis → Axis) (p : Page) : hdr (modAxis k f c) p = hdr c p := rfl

@[simp] theorem rd_modAxis (c : Chip) (k : Nat) (f : Axis → Axis) (p : Page) (off : Nat) : rd (modAxis k f c) p off = rd c p off := rfl

@[simp] theorem act_modAxis (c : Chip) (k : Nat) (f : Axis → Axis) (p : Page) (off : Nat) : act (modAxis k f c) p off = act c p off := rfl

@[simp] theorem supAx_modSup (c : Chip) (k : Nat) (f : SupAx → SupAx) : supAx (modSup k f c) k = f (supAx c k) := by simp [modSup]

theorem supAx_modSup_ne (c : Chip) (k j : Nat) (f : SupAx → SupAx) (h : j ≠ k) : supAx (modSup k f c) j = supAx c j := by simp [modSup, supAx_setSup_ne _ _ _ _ h]

@[simp] theorem hdr_modSup (c : Chip) (k : Nat) (f : SupAx → SupAx) (p : Page) : hdr (modSup k f c) p = hdr c p := rfl

@[simp] theorem rd_modSup (c : Chip) (k : Nat) (f : SupAx → SupAx) (p : Page) (off : Nat) : rd (modSup k f c) p off = rd c p off := rfl

@[simp] theorem act_modSup (c : Chip) (k : Nat) (f : SupAx → SupAx) (p : Page) (off : Nat) : act (modSup k f c) p off = act c p off := rfl

@[simp] theorem modSt_modMod (c : Chip) (k : Nat) (f : ModSt → ModSt) : modSt (modMod k f c) k = f (modSt c k) := by simp [modMod]

theorem modSt_modMod_ne (c : Chip) (k j : Nat) (f : ModSt → ModSt) (h : j ≠ k) : modSt (modMod k f c) j = modSt c j := by simp [modMod, modSt_setMod_ne _ _ _ _ h]

@[simp] theorem hdr_modMod (c : Chip) (k : Nat) (f : ModSt → ModSt) (p : Page) : hdr (modMod k f c) p = hdr c p := rfl

@[simp] theorem rd_modMod (c : Chip) (k : Nat) (f : ModSt → ModSt) (p : Page) (off : Nat) : rd (modMod k f c) p off = rd c p off := rfl

@[simp] theorem act_modMod (c : Chip) (k : Nat) (f : ModSt → ModSt) (p : Page) (off : Nat) : act (modMod k f c) p off = act c p off := rfl

@[simp] theorem fbkSt_modFbk (c : Chip) (k : Nat) (f : FbkSt → FbkSt) : fbkSt (modFbk k f c) k = f (fbkSt c k) := by simp [modFbk]

theorem fbkSt_modFbk_ne (c : Chip) (k j : Nat) (f : FbkSt → FbkSt) (h : j ≠ k) : fbkSt (modFbk k f c) j = fbkSt c j := by simp [modFbk, fbkSt_setFbk_ne _ _ _ _ h]

@[simp] theorem hdr_modFbk (c : Chip) (k : Nat) (f : FbkSt → FbkSt) (p : Page) : hdr (modFbk k f c) p = hdr c p := rfl

@[simp] theorem rd_modFbk (c : Chip) (k : Nat) (f : FbkSt → FbkSt) (p : Page) (off : Nat) : rd (modFbk k f c) p off = rd c p off := rfl

@[simp] theorem act_modFbk (c : Chip) (k : Nat) (f : FbkSt → FbkSt) (p : Page) (off : Nat) : act (modFbk k f c) p off = act c p off := rfl

@[simp] theorem core_modCore (c : Chip) (k : Nat) (f : CoreSt → CoreSt) : core (modCore k f c) k = f (core c k) := by simp [modCore]

theorem core_modCore_ne (c : Chip) (k j : Nat) (f : CoreSt → CoreSt) (h : j ≠ k) : core (modCore k f c) j = core c j := by simp [modCore, core_setCore_ne _ _ _ _ h]

@[simp] theorem hdr_modCore (c : Chip) (k : Nat) (f : CoreSt → CoreSt) (p : Page) : hdr (modCore k f c) p = hdr c p := rfl

@[simp] theorem rd_modCore (c : Chip) (k : Nat) (f : CoreSt → CoreSt) (p : Page) (off : Nat) : rd (modCore k f c) p off = rd c p off := rfl

@[simp] theorem act_modCore (c : Chip) (k : Nat) (f : CoreSt → CoreSt) (p : Page) (off : Nat) : act (modCore k f c) p off = act c p off := rfl

@[simp] theorem snlSt_modSnl (c : Chip) (k : Nat) (f : SnlSt → SnlSt) : snlSt (modSnl k f c) k = f (snlSt c k) := by simp [modSnl]

theorem snlSt_modSnl_ne (c : Chip) (k j : Nat) (f : SnlSt → SnlSt) (h : j ≠ k) : snlSt (modSnl k f c) j = snlSt c j := by simp [modSnl, snlSt_setSnl_ne _ _ _ _ h]

@[simp] theorem hdr_modSnl (c : Chip) (k : Nat) (f : SnlSt → SnlSt) (p : Page) : hdr (modSnl k f c) p = hdr c p := rfl

@[simp] theorem rd_modSnl (c : Chip) (k : Nat) (f : SnlSt → SnlSt) (p : Page) (off : Nat) : rd (modSnl k f c) p off = rd c p off := rfl

@[simp] theorem act_modSnl (c : Chip) (k : Nat) (f : SnlSt → SnlSt) (p : Page) (off : Nat) : act (modSnl k f c) p off = act c p off := rfl

@[simp] theorem netPort_modPort (c : Chip) (k : Nat) (f : NetPort → NetPort) : netPort (modPort k f c) k = f (netPort c k) := by simp [modPort]

theorem netPort_modPort_ne (c : Chip) (k j : Nat) (f : NetPort → NetPort) (h : j ≠ k) : netPort (modPort k f c) j = netPort c j := by simp [modPort, netPort_setPort_ne _ _ _ _ h]

@[simp] theorem hdr_modPort (c : Chip) (k : Nat) (f : NetPort → NetPort) (p : Page) : hdr (modPort k f c) p = hdr c p := rfl

@[simp] theorem rd_modPort (c : Chip) (k : Nat) (f : NetPort → NetPort) (p : Page) (off : Nat) : rd (modPort k f c) p off = rd c p off := rfl

@[simp] theorem act_modPort (c : Chip) (k : Nat) (f : NetPort → NetPort) (p : Page) (off : Nat) : act (modPort k f c) p off = act c p off := rfl

@[simp] theorem session_modSession (c : Chip) (k : Nat) (f : Session → Session) : session (modSession k f c) k = f (session c k) := by simp [modSession]

theorem session_modSession_ne (c : Chip) (k j : Nat) (f : Session → Session) (h : j ≠ k) : session (modSession k f c) j = session c j := by simp [modSession, session_setSession_ne _ _ _ _ h]

@[simp] theorem hdr_modSession (c : Chip) (k : Nat) (f : Session → Session) (p : Page) : hdr (modSession k f c) p = hdr c p := rfl

@[simp] theorem rd_modSession (c : Chip) (k : Nat) (f : Session → Session) (p : Page) (off : Nat) : rd (modSession k f c) p off = rd c p off := rfl

@[simp] theorem act_modSession (c : Chip) (k : Nat) (f : Session → Session) (p : Page) (off : Nat) : act (modSession k f c) p off = act c p off := rfl

@[simp] theorem hdr_modField (c : Chip) (f : FieldDie → FieldDie) (p : Page) : hdr (modField f c) p = hdr c p := rfl

@[simp] theorem rd_modField (c : Chip) (f : FieldDie → FieldDie) (p : Page) (off : Nat) : rd (modField f c) p off = rd c p off := rfl

@[simp] theorem act_modField (c : Chip) (f : FieldDie → FieldDie) (p : Page) (off : Nat) : act (modField f c) p off = act c p off := rfl

@[simp] theorem hdr_modBly (c : Chip) (f : BlySt → BlySt) (p : Page) : hdr (modBly f c) p = hdr c p := rfl

@[simp] theorem rd_modBly (c : Chip) (f : BlySt → BlySt) (p : Page) (off : Nat) : rd (modBly f c) p off = rd c p off := rfl

@[simp] theorem act_modBly (c : Chip) (f : BlySt → BlySt) (p : Page) (off : Nat) : act (modBly f c) p off = act c p off := rfl

@[simp] theorem hdr_modMemc (c : Chip) (f : MemCtlSt → MemCtlSt) (p : Page) : hdr (modMemc f c) p = hdr c p := rfl

@[simp] theorem rd_modMemc (c : Chip) (f : MemCtlSt → MemCtlSt) (p : Page) (off : Nat) : rd (modMemc f c) p off = rd c p off := rfl

@[simp] theorem act_modMemc (c : Chip) (f : MemCtlSt → MemCtlSt) (p : Page) (off : Nat) : act (modMemc f c) p off = act c p off := rfl

@[simp] theorem hdr_modPwr (c : Chip) (f : PwrSt → PwrSt) (p : Page) : hdr (modPwr f c) p = hdr c p := rfl

@[simp] theorem rd_modPwr (c : Chip) (f : PwrSt → PwrSt) (p : Page) (off : Nat) : rd (modPwr f c) p off = rd c p off := rfl

@[simp] theorem act_modPwr (c : Chip) (f : PwrSt → PwrSt) (p : Page) (off : Nat) : act (modPwr f c) p off = act c p off := rfl

@[simp] theorem hdr_modSec (c : Chip) (f : SecSt → SecSt) (p : Page) : hdr (modSec f c) p = hdr c p := rfl

@[simp] theorem rd_modSec (c : Chip) (f : SecSt → SecSt) (p : Page) (off : Nat) : rd (modSec f c) p off = rd c p off := rfl

@[simp] theorem act_modSec (c : Chip) (f : SecSt → SecSt) (p : Page) (off : Nat) : act (modSec f c) p off = act c p off := rfl

@[simp] theorem hdr_modDbg (c : Chip) (f : DbgSt → DbgSt) (p : Page) : hdr (modDbg f c) p = hdr c p := rfl

@[simp] theorem rd_modDbg (c : Chip) (f : DbgSt → DbgSt) (p : Page) (off : Nat) : rd (modDbg f c) p off = rd c p off := rfl

@[simp] theorem act_modDbg (c : Chip) (f : DbgSt → DbgSt) (p : Page) (off : Nat) : act (modDbg f c) p off = act c p off := rfl

@[simp] theorem hdr_modFco (c : Chip) (f : FcoJob → FcoJob) (p : Page) : hdr (modFco f c) p = hdr c p := rfl

@[simp] theorem rd_modFco (c : Chip) (f : FcoJob → FcoJob) (p : Page) (off : Nat) : rd (modFco f c) p off = rd c p off := rfl

@[simp] theorem act_modFco (c : Chip) (f : FcoJob → FcoJob) (p : Page) (off : Nat) : act (modFco f c) p off = act c p off := rfl

@[simp] theorem hdr_modTim (c : Chip) (f : TimSt → TimSt) (p : Page) : hdr (modTim f c) p = hdr c p := rfl

@[simp] theorem rd_modTim (c : Chip) (f : TimSt → TimSt) (p : Page) (off : Nat) : rd (modTim f c) p off = rd c p off := rfl

@[simp] theorem act_modTim (c : Chip) (f : TimSt → TimSt) (p : Page) (off : Nat) : act (modTim f c) p off = act c p off := rfl

@[simp] theorem hdr_modTrc (c : Chip) (f : TrcSt → TrcSt) (p : Page) : hdr (modTrc f c) p = hdr c p := rfl

@[simp] theorem rd_modTrc (c : Chip) (f : TrcSt → TrcSt) (p : Page) (off : Nat) : rd (modTrc f c) p off = rd c p off := rfl

@[simp] theorem act_modTrc (c : Chip) (f : TrcSt → TrcSt) (p : Page) (off : Nat) : act (modTrc f c) p off = act c p off := rfl

end Sys2Proof.Machine
end

