-- ==== Sys2Proof/Laws/Parts.lean ====
section
/-!
SUPPORT. What the named updates of the blocks' own state leave: one lemma per part of the state and update.
-/

namespace Sys2Proof.Machine

@[simp] theorem setAdc_regs (c : Chip) (k : Nat) (x : AdcSt) : (setAdc k x c).regs = c.regs := rfl
@[simp] theorem setAdc_pages (c : Chip) (k : Nat) (x : AdcSt) : (setAdc k x c).pages = c.pages := rfl
@[simp] theorem setAdc_paths (c : Chip) (k : Nat) (x : AdcSt) : (setAdc k x c).paths = c.paths := rfl
@[simp] theorem setAdc_held (c : Chip) (k : Nat) (x : AdcSt) : (setAdc k x c).held = c.held := rfl
@[simp] theorem setAdc_faultSeq (c : Chip) (k : Nat) (x : AdcSt) : (setAdc k x c).faultSeq = c.faultSeq := rfl
@[simp] theorem setAdc_clk (c : Chip) (k : Nat) (x : AdcSt) : (setAdc k x c).clk = c.clk := rfl
@[simp] theorem setAdc_tim (c : Chip) (k : Nat) (x : AdcSt) : (setAdc k x c).tim = c.tim := rfl
@[simp] theorem setAdc_knt (c : Chip) (k : Nat) (x : AdcSt) : (setAdc k x c).knt = c.knt := rfl
@[simp] theorem setAdc_evt (c : Chip) (k : Nat) (x : AdcSt) : (setAdc k x c).evt = c.evt := rfl
@[simp] theorem setAdc_cmd (c : Chip) (k : Nat) (x : AdcSt) : (setAdc k x c).cmd = c.cmd := rfl
@[simp] theorem setAdc_net (c : Chip) (k : Nat) (x : AdcSt) : (setAdc k x c).net = c.net := rfl
@[simp] theorem setAdc_ycp (c : Chip) (k : Nat) (x : AdcSt) : (setAdc k x c).ycp = c.ycp := rfl
@[simp] theorem setAdc_hfr (c : Chip) (k : Nat) (x : AdcSt) : (setAdc k x c).hfr = c.hfr := rfl
@[simp] theorem setAdc_axes (c : Chip) (k : Nat) (x : AdcSt) : (setAdc k x c).axes = c.axes := rfl
@[simp] theorem setAdc_grps (c : Chip) (k : Nat) (x : AdcSt) : (setAdc k x c).grps = c.grps := rfl
@[simp] theorem setAdc_hits (c : Chip) (k : Nat) (x : AdcSt) : (setAdc k x c).hits = c.hits := rfl
@[simp] theorem setAdc_cam (c : Chip) (k : Nat) (x : AdcSt) : (setAdc k x c).cam = c.cam := rfl
@[simp] theorem setAdc_loops (c : Chip) (k : Nat) (x : AdcSt) : (setAdc k x c).loops = c.loops := rfl
@[simp] theorem setAdc_lpes (c : Chip) (k : Nat) (x : AdcSt) : (setAdc k x c).lpes = c.lpes := rfl
@[simp] theorem setAdc_sups (c : Chip) (k : Nat) (x : AdcSt) : (setAdc k x c).sups = c.sups := rfl
@[simp] theorem setAdc_buses (c : Chip) (k : Nat) (x : AdcSt) : (setAdc k x c).buses = c.buses := rfl
@[simp] theorem setAdc_mods (c : Chip) (k : Nat) (x : AdcSt) : (setAdc k x c).mods = c.mods := rfl
@[simp] theorem setAdc_fbks (c : Chip) (k : Nat) (x : AdcSt) : (setAdc k x c).fbks = c.fbks := rfl
@[simp] theorem setAdc_snls (c : Chip) (k : Nat) (x : AdcSt) : (setAdc k x c).snls = c.snls := rfl
@[simp] theorem setAdc_sdfs (c : Chip) (k : Nat) (x : AdcSt) : (setAdc k x c).sdfs = c.sdfs := rfl
@[simp] theorem setAdc_sdfSeq (c : Chip) (k : Nat) (x : AdcSt) : (setAdc k x c).sdfSeq = c.sdfSeq := rfl
@[simp] theorem setAdc_cores (c : Chip) (k : Nat) (x : AdcSt) : (setAdc k x c).cores = c.cores := rfl
@[simp] theorem setAdc_dsp (c : Chip) (k : Nat) (x : AdcSt) : (setAdc k x c).dsp = c.dsp := rfl
@[simp] theorem setAdc_trc (c : Chip) (k : Nat) (x : AdcSt) : (setAdc k x c).trc = c.trc := rfl
@[simp] theorem setAdc_fld (c : Chip) (k : Nat) (x : AdcSt) : (setAdc k x c).fld = c.fld := rfl
@[simp] theorem setAdc_field (c : Chip) (k : Nat) (x : AdcSt) : (setAdc k x c).field = c.field := rfl
@[simp] theorem setAdc_bly (c : Chip) (k : Nat) (x : AdcSt) : (setAdc k x c).bly = c.bly := rfl
@[simp] theorem setAdc_memc (c : Chip) (k : Nat) (x : AdcSt) : (setAdc k x c).memc = c.memc := rfl
@[simp] theorem setAdc_scb (c : Chip) (k : Nat) (x : AdcSt) : (setAdc k x c).scb = c.scb := rfl
@[simp] theorem setAdc_keep (c : Chip) (k : Nat) (x : AdcSt) : (setAdc k x c).keep = c.keep := rfl
@[simp] theorem setAdc_pwr (c : Chip) (k : Nat) (x : AdcSt) : (setAdc k x c).pwr = c.pwr := rfl
@[simp] theorem setAdc_sec (c : Chip) (k : Nat) (x : AdcSt) : (setAdc k x c).sec = c.sec := rfl
@[simp] theorem setAdc_dbg (c : Chip) (k : Nat) (x : AdcSt) : (setAdc k x c).dbg = c.dbg := rfl
@[simp] theorem setAdc_spl (c : Chip) (k : Nat) (x : AdcSt) : (setAdc k x c).spl = c.spl := rfl
@[simp] theorem setAdc_free (c : Chip) (k : Nat) (x : AdcSt) : (setAdc k x c).free = c.free := rfl
@[simp] theorem setAdc_svcSafety (c : Chip) (k : Nat) (x : AdcSt) : (setAdc k x c).svcSafety = c.svcSafety := rfl
@[simp] theorem setAdc_svcPcie (c : Chip) (k : Nat) (x : AdcSt) : (setAdc k x c).svcPcie = c.svcPcie := rfl
@[simp] theorem setAdc_out (c : Chip) (k : Nat) (x : AdcSt) : (setAdc k x c).out = c.out := rfl

@[simp] theorem setSdf_regs (c : Chip) (k : Nat) (x : SdfCh) : (setSdf k x c).regs = c.regs := rfl
@[simp] theorem setSdf_pages (c : Chip) (k : Nat) (x : SdfCh) : (setSdf k x c).pages = c.pages := rfl
@[simp] theorem setSdf_paths (c : Chip) (k : Nat) (x : SdfCh) : (setSdf k x c).paths = c.paths := rfl
@[simp] theorem setSdf_held (c : Chip) (k : Nat) (x : SdfCh) : (setSdf k x c).held = c.held := rfl
@[simp] theorem setSdf_faultSeq (c : Chip) (k : Nat) (x : SdfCh) : (setSdf k x c).faultSeq = c.faultSeq := rfl
@[simp] theorem setSdf_clk (c : Chip) (k : Nat) (x : SdfCh) : (setSdf k x c).clk = c.clk := rfl
@[simp] theorem setSdf_tim (c : Chip) (k : Nat) (x : SdfCh) : (setSdf k x c).tim = c.tim := rfl
@[simp] theorem setSdf_knt (c : Chip) (k : Nat) (x : SdfCh) : (setSdf k x c).knt = c.knt := rfl
@[simp] theorem setSdf_evt (c : Chip) (k : Nat) (x : SdfCh) : (setSdf k x c).evt = c.evt := rfl
@[simp] theorem setSdf_cmd (c : Chip) (k : Nat) (x : SdfCh) : (setSdf k x c).cmd = c.cmd := rfl
@[simp] theorem setSdf_net (c : Chip) (k : Nat) (x : SdfCh) : (setSdf k x c).net = c.net := rfl
@[simp] theorem setSdf_ycp (c : Chip) (k : Nat) (x : SdfCh) : (setSdf k x c).ycp = c.ycp := rfl
@[simp] theorem setSdf_hfr (c : Chip) (k : Nat) (x : SdfCh) : (setSdf k x c).hfr = c.hfr := rfl
@[simp] theorem setSdf_axes (c : Chip) (k : Nat) (x : SdfCh) : (setSdf k x c).axes = c.axes := rfl
@[simp] theorem setSdf_grps (c : Chip) (k : Nat) (x : SdfCh) : (setSdf k x c).grps = c.grps := rfl
@[simp] theorem setSdf_hits (c : Chip) (k : Nat) (x : SdfCh) : (setSdf k x c).hits = c.hits := rfl
@[simp] theorem setSdf_cam (c : Chip) (k : Nat) (x : SdfCh) : (setSdf k x c).cam = c.cam := rfl
@[simp] theorem setSdf_loops (c : Chip) (k : Nat) (x : SdfCh) : (setSdf k x c).loops = c.loops := rfl
@[simp] theorem setSdf_lpes (c : Chip) (k : Nat) (x : SdfCh) : (setSdf k x c).lpes = c.lpes := rfl
@[simp] theorem setSdf_sups (c : Chip) (k : Nat) (x : SdfCh) : (setSdf k x c).sups = c.sups := rfl
@[simp] theorem setSdf_buses (c : Chip) (k : Nat) (x : SdfCh) : (setSdf k x c).buses = c.buses := rfl
@[simp] theorem setSdf_mods (c : Chip) (k : Nat) (x : SdfCh) : (setSdf k x c).mods = c.mods := rfl
@[simp] theorem setSdf_fbks (c : Chip) (k : Nat) (x : SdfCh) : (setSdf k x c).fbks = c.fbks := rfl
@[simp] theorem setSdf_snls (c : Chip) (k : Nat) (x : SdfCh) : (setSdf k x c).snls = c.snls := rfl
@[simp] theorem setSdf_adcs (c : Chip) (k : Nat) (x : SdfCh) : (setSdf k x c).adcs = c.adcs := rfl
@[simp] theorem setSdf_sdfSeq (c : Chip) (k : Nat) (x : SdfCh) : (setSdf k x c).sdfSeq = c.sdfSeq := rfl
@[simp] theorem setSdf_cores (c : Chip) (k : Nat) (x : SdfCh) : (setSdf k x c).cores = c.cores := rfl
@[simp] theorem setSdf_dsp (c : Chip) (k : Nat) (x : SdfCh) : (setSdf k x c).dsp = c.dsp := rfl
@[simp] theorem setSdf_trc (c : Chip) (k : Nat) (x : SdfCh) : (setSdf k x c).trc = c.trc := rfl
@[simp] theorem setSdf_fld (c : Chip) (k : Nat) (x : SdfCh) : (setSdf k x c).fld = c.fld := rfl
@[simp] theorem setSdf_field (c : Chip) (k : Nat) (x : SdfCh) : (setSdf k x c).field = c.field := rfl
@[simp] theorem setSdf_bly (c : Chip) (k : Nat) (x : SdfCh) : (setSdf k x c).bly = c.bly := rfl
@[simp] theorem setSdf_memc (c : Chip) (k : Nat) (x : SdfCh) : (setSdf k x c).memc = c.memc := rfl
@[simp] theorem setSdf_scb (c : Chip) (k : Nat) (x : SdfCh) : (setSdf k x c).scb = c.scb := rfl
@[simp] theorem setSdf_keep (c : Chip) (k : Nat) (x : SdfCh) : (setSdf k x c).keep = c.keep := rfl
@[simp] theorem setSdf_pwr (c : Chip) (k : Nat) (x : SdfCh) : (setSdf k x c).pwr = c.pwr := rfl
@[simp] theorem setSdf_sec (c : Chip) (k : Nat) (x : SdfCh) : (setSdf k x c).sec = c.sec := rfl
@[simp] theorem setSdf_dbg (c : Chip) (k : Nat) (x : SdfCh) : (setSdf k x c).dbg = c.dbg := rfl
@[simp] theorem setSdf_spl (c : Chip) (k : Nat) (x : SdfCh) : (setSdf k x c).spl = c.spl := rfl
@[simp] theorem setSdf_free (c : Chip) (k : Nat) (x : SdfCh) : (setSdf k x c).free = c.free := rfl
@[simp] theorem setSdf_svcSafety (c : Chip) (k : Nat) (x : SdfCh) : (setSdf k x c).svcSafety = c.svcSafety := rfl
@[simp] theorem setSdf_svcPcie (c : Chip) (k : Nat) (x : SdfCh) : (setSdf k x c).svcPcie = c.svcPcie := rfl
@[simp] theorem setSdf_out (c : Chip) (k : Nat) (x : SdfCh) : (setSdf k x c).out = c.out := rfl

@[simp] theorem setLoop_regs (c : Chip) (k : Nat) (x : LoopAx) : (setLoop k x c).regs = c.regs := rfl
@[simp] theorem setLoop_pages (c : Chip) (k : Nat) (x : LoopAx) : (setLoop k x c).pages = c.pages := rfl
@[simp] theorem setLoop_paths (c : Chip) (k : Nat) (x : LoopAx) : (setLoop k x c).paths = c.paths := rfl
@[simp] theorem setLoop_held (c : Chip) (k : Nat) (x : LoopAx) : (setLoop k x c).held = c.held := rfl
@[simp] theorem setLoop_faultSeq (c : Chip) (k : Nat) (x : LoopAx) : (setLoop k x c).faultSeq = c.faultSeq := rfl
@[simp] theorem setLoop_clk (c : Chip) (k : Nat) (x : LoopAx) : (setLoop k x c).clk = c.clk := rfl
@[simp] theorem setLoop_tim (c : Chip) (k : Nat) (x : LoopAx) : (setLoop k x c).tim = c.tim := rfl
@[simp] theorem setLoop_knt (c : Chip) (k : Nat) (x : LoopAx) : (setLoop k x c).knt = c.knt := rfl
@[simp] theorem setLoop_evt (c : Chip) (k : Nat) (x : LoopAx) : (setLoop k x c).evt = c.evt := rfl
@[simp] theorem setLoop_cmd (c : Chip) (k : Nat) (x : LoopAx) : (setLoop k x c).cmd = c.cmd := rfl
@[simp] theorem setLoop_net (c : Chip) (k : Nat) (x : LoopAx) : (setLoop k x c).net = c.net := rfl
@[simp] theorem setLoop_ycp (c : Chip) (k : Nat) (x : LoopAx) : (setLoop k x c).ycp = c.ycp := rfl
@[simp] theorem setLoop_hfr (c : Chip) (k : Nat) (x : LoopAx) : (setLoop k x c).hfr = c.hfr := rfl
@[simp] theorem setLoop_axes (c : Chip) (k : Nat) (x : LoopAx) : (setLoop k x c).axes = c.axes := rfl
@[simp] theorem setLoop_grps (c : Chip) (k : Nat) (x : LoopAx) : (setLoop k x c).grps = c.grps := rfl
@[simp] theorem setLoop_hits (c : Chip) (k : Nat) (x : LoopAx) : (setLoop k x c).hits = c.hits := rfl
@[simp] theorem setLoop_cam (c : Chip) (k : Nat) (x : LoopAx) : (setLoop k x c).cam = c.cam := rfl
@[simp] theorem setLoop_lpes (c : Chip) (k : Nat) (x : LoopAx) : (setLoop k x c).lpes = c.lpes := rfl
@[simp] theorem setLoop_sups (c : Chip) (k : Nat) (x : LoopAx) : (setLoop k x c).sups = c.sups := rfl
@[simp] theorem setLoop_buses (c : Chip) (k : Nat) (x : LoopAx) : (setLoop k x c).buses = c.buses := rfl
@[simp] theorem setLoop_mods (c : Chip) (k : Nat) (x : LoopAx) : (setLoop k x c).mods = c.mods := rfl
@[simp] theorem setLoop_fbks (c : Chip) (k : Nat) (x : LoopAx) : (setLoop k x c).fbks = c.fbks := rfl
@[simp] theorem setLoop_snls (c : Chip) (k : Nat) (x : LoopAx) : (setLoop k x c).snls = c.snls := rfl
@[simp] theorem setLoop_adcs (c : Chip) (k : Nat) (x : LoopAx) : (setLoop k x c).adcs = c.adcs := rfl
@[simp] theorem setLoop_sdfs (c : Chip) (k : Nat) (x : LoopAx) : (setLoop k x c).sdfs = c.sdfs := rfl
@[simp] theorem setLoop_sdfSeq (c : Chip) (k : Nat) (x : LoopAx) : (setLoop k x c).sdfSeq = c.sdfSeq := rfl
@[simp] theorem setLoop_cores (c : Chip) (k : Nat) (x : LoopAx) : (setLoop k x c).cores = c.cores := rfl
@[simp] theorem setLoop_dsp (c : Chip) (k : Nat) (x : LoopAx) : (setLoop k x c).dsp = c.dsp := rfl
@[simp] theorem setLoop_trc (c : Chip) (k : Nat) (x : LoopAx) : (setLoop k x c).trc = c.trc := rfl
@[simp] theorem setLoop_fld (c : Chip) (k : Nat) (x : LoopAx) : (setLoop k x c).fld = c.fld := rfl
@[simp] theorem setLoop_field (c : Chip) (k : Nat) (x : LoopAx) : (setLoop k x c).field = c.field := rfl
@[simp] theorem setLoop_bly (c : Chip) (k : Nat) (x : LoopAx) : (setLoop k x c).bly = c.bly := rfl
@[simp] theorem setLoop_memc (c : Chip) (k : Nat) (x : LoopAx) : (setLoop k x c).memc = c.memc := rfl
@[simp] theorem setLoop_scb (c : Chip) (k : Nat) (x : LoopAx) : (setLoop k x c).scb = c.scb := rfl
@[simp] theorem setLoop_keep (c : Chip) (k : Nat) (x : LoopAx) : (setLoop k x c).keep = c.keep := rfl
@[simp] theorem setLoop_pwr (c : Chip) (k : Nat) (x : LoopAx) : (setLoop k x c).pwr = c.pwr := rfl
@[simp] theorem setLoop_sec (c : Chip) (k : Nat) (x : LoopAx) : (setLoop k x c).sec = c.sec := rfl
@[simp] theorem setLoop_dbg (c : Chip) (k : Nat) (x : LoopAx) : (setLoop k x c).dbg = c.dbg := rfl
@[simp] theorem setLoop_spl (c : Chip) (k : Nat) (x : LoopAx) : (setLoop k x c).spl = c.spl := rfl
@[simp] theorem setLoop_free (c : Chip) (k : Nat) (x : LoopAx) : (setLoop k x c).free = c.free := rfl
@[simp] theorem setLoop_svcSafety (c : Chip) (k : Nat) (x : LoopAx) : (setLoop k x c).svcSafety = c.svcSafety := rfl
@[simp] theorem setLoop_svcPcie (c : Chip) (k : Nat) (x : LoopAx) : (setLoop k x c).svcPcie = c.svcPcie := rfl
@[simp] theorem setLoop_out (c : Chip) (k : Nat) (x : LoopAx) : (setLoop k x c).out = c.out := rfl

@[simp] theorem setSup_regs (c : Chip) (k : Nat) (x : SupAx) : (setSup k x c).regs = c.regs := rfl
@[simp] theorem setSup_pages (c : Chip) (k : Nat) (x : SupAx) : (setSup k x c).pages = c.pages := rfl
@[simp] theorem setSup_paths (c : Chip) (k : Nat) (x : SupAx) : (setSup k x c).paths = c.paths := rfl
@[simp] theorem setSup_held (c : Chip) (k : Nat) (x : SupAx) : (setSup k x c).held = c.held := rfl
@[simp] theorem setSup_faultSeq (c : Chip) (k : Nat) (x : SupAx) : (setSup k x c).faultSeq = c.faultSeq := rfl
@[simp] theorem setSup_clk (c : Chip) (k : Nat) (x : SupAx) : (setSup k x c).clk = c.clk := rfl
@[simp] theorem setSup_tim (c : Chip) (k : Nat) (x : SupAx) : (setSup k x c).tim = c.tim := rfl
@[simp] theorem setSup_knt (c : Chip) (k : Nat) (x : SupAx) : (setSup k x c).knt = c.knt := rfl
@[simp] theorem setSup_evt (c : Chip) (k : Nat) (x : SupAx) : (setSup k x c).evt = c.evt := rfl
@[simp] theorem setSup_cmd (c : Chip) (k : Nat) (x : SupAx) : (setSup k x c).cmd = c.cmd := rfl
@[simp] theorem setSup_net (c : Chip) (k : Nat) (x : SupAx) : (setSup k x c).net = c.net := rfl
@[simp] theorem setSup_ycp (c : Chip) (k : Nat) (x : SupAx) : (setSup k x c).ycp = c.ycp := rfl
@[simp] theorem setSup_hfr (c : Chip) (k : Nat) (x : SupAx) : (setSup k x c).hfr = c.hfr := rfl
@[simp] theorem setSup_axes (c : Chip) (k : Nat) (x : SupAx) : (setSup k x c).axes = c.axes := rfl
@[simp] theorem setSup_grps (c : Chip) (k : Nat) (x : SupAx) : (setSup k x c).grps = c.grps := rfl
@[simp] theorem setSup_hits (c : Chip) (k : Nat) (x : SupAx) : (setSup k x c).hits = c.hits := rfl
@[simp] theorem setSup_cam (c : Chip) (k : Nat) (x : SupAx) : (setSup k x c).cam = c.cam := rfl
@[simp] theorem setSup_loops (c : Chip) (k : Nat) (x : SupAx) : (setSup k x c).loops = c.loops := rfl
@[simp] theorem setSup_lpes (c : Chip) (k : Nat) (x : SupAx) : (setSup k x c).lpes = c.lpes := rfl
@[simp] theorem setSup_buses (c : Chip) (k : Nat) (x : SupAx) : (setSup k x c).buses = c.buses := rfl
@[simp] theorem setSup_mods (c : Chip) (k : Nat) (x : SupAx) : (setSup k x c).mods = c.mods := rfl
@[simp] theorem setSup_fbks (c : Chip) (k : Nat) (x : SupAx) : (setSup k x c).fbks = c.fbks := rfl
@[simp] theorem setSup_snls (c : Chip) (k : Nat) (x : SupAx) : (setSup k x c).snls = c.snls := rfl
@[simp] theorem setSup_adcs (c : Chip) (k : Nat) (x : SupAx) : (setSup k x c).adcs = c.adcs := rfl
@[simp] theorem setSup_sdfs (c : Chip) (k : Nat) (x : SupAx) : (setSup k x c).sdfs = c.sdfs := rfl
@[simp] theorem setSup_sdfSeq (c : Chip) (k : Nat) (x : SupAx) : (setSup k x c).sdfSeq = c.sdfSeq := rfl
@[simp] theorem setSup_cores (c : Chip) (k : Nat) (x : SupAx) : (setSup k x c).cores = c.cores := rfl
@[simp] theorem setSup_dsp (c : Chip) (k : Nat) (x : SupAx) : (setSup k x c).dsp = c.dsp := rfl
@[simp] theorem setSup_trc (c : Chip) (k : Nat) (x : SupAx) : (setSup k x c).trc = c.trc := rfl
@[simp] theorem setSup_fld (c : Chip) (k : Nat) (x : SupAx) : (setSup k x c).fld = c.fld := rfl
@[simp] theorem setSup_field (c : Chip) (k : Nat) (x : SupAx) : (setSup k x c).field = c.field := rfl
@[simp] theorem setSup_bly (c : Chip) (k : Nat) (x : SupAx) : (setSup k x c).bly = c.bly := rfl
@[simp] theorem setSup_memc (c : Chip) (k : Nat) (x : SupAx) : (setSup k x c).memc = c.memc := rfl
@[simp] theorem setSup_scb (c : Chip) (k : Nat) (x : SupAx) : (setSup k x c).scb = c.scb := rfl
@[simp] theorem setSup_keep (c : Chip) (k : Nat) (x : SupAx) : (setSup k x c).keep = c.keep := rfl
@[simp] theorem setSup_pwr (c : Chip) (k : Nat) (x : SupAx) : (setSup k x c).pwr = c.pwr := rfl
@[simp] theorem setSup_sec (c : Chip) (k : Nat) (x : SupAx) : (setSup k x c).sec = c.sec := rfl
@[simp] theorem setSup_dbg (c : Chip) (k : Nat) (x : SupAx) : (setSup k x c).dbg = c.dbg := rfl
@[simp] theorem setSup_spl (c : Chip) (k : Nat) (x : SupAx) : (setSup k x c).spl = c.spl := rfl
@[simp] theorem setSup_free (c : Chip) (k : Nat) (x : SupAx) : (setSup k x c).free = c.free := rfl
@[simp] theorem setSup_svcSafety (c : Chip) (k : Nat) (x : SupAx) : (setSup k x c).svcSafety = c.svcSafety := rfl
@[simp] theorem setSup_svcPcie (c : Chip) (k : Nat) (x : SupAx) : (setSup k x c).svcPcie = c.svcPcie := rfl
@[simp] theorem setSup_out (c : Chip) (k : Nat) (x : SupAx) : (setSup k x c).out = c.out := rfl

@[simp] theorem setMod_regs (c : Chip) (k : Nat) (x : ModSt) : (setMod k x c).regs = c.regs := rfl
@[simp] theorem setMod_pages (c : Chip) (k : Nat) (x : ModSt) : (setMod k x c).pages = c.pages := rfl
@[simp] theorem setMod_paths (c : Chip) (k : Nat) (x : ModSt) : (setMod k x c).paths = c.paths := rfl
@[simp] theorem setMod_held (c : Chip) (k : Nat) (x : ModSt) : (setMod k x c).held = c.held := rfl
@[simp] theorem setMod_faultSeq (c : Chip) (k : Nat) (x : ModSt) : (setMod k x c).faultSeq = c.faultSeq := rfl
@[simp] theorem setMod_clk (c : Chip) (k : Nat) (x : ModSt) : (setMod k x c).clk = c.clk := rfl
@[simp] theorem setMod_tim (c : Chip) (k : Nat) (x : ModSt) : (setMod k x c).tim = c.tim := rfl
@[simp] theorem setMod_knt (c : Chip) (k : Nat) (x : ModSt) : (setMod k x c).knt = c.knt := rfl
@[simp] theorem setMod_evt (c : Chip) (k : Nat) (x : ModSt) : (setMod k x c).evt = c.evt := rfl
@[simp] theorem setMod_cmd (c : Chip) (k : Nat) (x : ModSt) : (setMod k x c).cmd = c.cmd := rfl
@[simp] theorem setMod_net (c : Chip) (k : Nat) (x : ModSt) : (setMod k x c).net = c.net := rfl
@[simp] theorem setMod_ycp (c : Chip) (k : Nat) (x : ModSt) : (setMod k x c).ycp = c.ycp := rfl
@[simp] theorem setMod_hfr (c : Chip) (k : Nat) (x : ModSt) : (setMod k x c).hfr = c.hfr := rfl
@[simp] theorem setMod_axes (c : Chip) (k : Nat) (x : ModSt) : (setMod k x c).axes = c.axes := rfl
@[simp] theorem setMod_grps (c : Chip) (k : Nat) (x : ModSt) : (setMod k x c).grps = c.grps := rfl
@[simp] theorem setMod_hits (c : Chip) (k : Nat) (x : ModSt) : (setMod k x c).hits = c.hits := rfl
@[simp] theorem setMod_cam (c : Chip) (k : Nat) (x : ModSt) : (setMod k x c).cam = c.cam := rfl
@[simp] theorem setMod_loops (c : Chip) (k : Nat) (x : ModSt) : (setMod k x c).loops = c.loops := rfl
@[simp] theorem setMod_lpes (c : Chip) (k : Nat) (x : ModSt) : (setMod k x c).lpes = c.lpes := rfl
@[simp] theorem setMod_sups (c : Chip) (k : Nat) (x : ModSt) : (setMod k x c).sups = c.sups := rfl
@[simp] theorem setMod_buses (c : Chip) (k : Nat) (x : ModSt) : (setMod k x c).buses = c.buses := rfl
@[simp] theorem setMod_fbks (c : Chip) (k : Nat) (x : ModSt) : (setMod k x c).fbks = c.fbks := rfl
@[simp] theorem setMod_snls (c : Chip) (k : Nat) (x : ModSt) : (setMod k x c).snls = c.snls := rfl
@[simp] theorem setMod_adcs (c : Chip) (k : Nat) (x : ModSt) : (setMod k x c).adcs = c.adcs := rfl
@[simp] theorem setMod_sdfs (c : Chip) (k : Nat) (x : ModSt) : (setMod k x c).sdfs = c.sdfs := rfl
@[simp] theorem setMod_sdfSeq (c : Chip) (k : Nat) (x : ModSt) : (setMod k x c).sdfSeq = c.sdfSeq := rfl
@[simp] theorem setMod_cores (c : Chip) (k : Nat) (x : ModSt) : (setMod k x c).cores = c.cores := rfl
@[simp] theorem setMod_dsp (c : Chip) (k : Nat) (x : ModSt) : (setMod k x c).dsp = c.dsp := rfl
@[simp] theorem setMod_trc (c : Chip) (k : Nat) (x : ModSt) : (setMod k x c).trc = c.trc := rfl
@[simp] theorem setMod_fld (c : Chip) (k : Nat) (x : ModSt) : (setMod k x c).fld = c.fld := rfl
@[simp] theorem setMod_field (c : Chip) (k : Nat) (x : ModSt) : (setMod k x c).field = c.field := rfl
@[simp] theorem setMod_bly (c : Chip) (k : Nat) (x : ModSt) : (setMod k x c).bly = c.bly := rfl
@[simp] theorem setMod_memc (c : Chip) (k : Nat) (x : ModSt) : (setMod k x c).memc = c.memc := rfl
@[simp] theorem setMod_scb (c : Chip) (k : Nat) (x : ModSt) : (setMod k x c).scb = c.scb := rfl
@[simp] theorem setMod_keep (c : Chip) (k : Nat) (x : ModSt) : (setMod k x c).keep = c.keep := rfl
@[simp] theorem setMod_pwr (c : Chip) (k : Nat) (x : ModSt) : (setMod k x c).pwr = c.pwr := rfl
@[simp] theorem setMod_sec (c : Chip) (k : Nat) (x : ModSt) : (setMod k x c).sec = c.sec := rfl
@[simp] theorem setMod_dbg (c : Chip) (k : Nat) (x : ModSt) : (setMod k x c).dbg = c.dbg := rfl
@[simp] theorem setMod_spl (c : Chip) (k : Nat) (x : ModSt) : (setMod k x c).spl = c.spl := rfl
@[simp] theorem setMod_free (c : Chip) (k : Nat) (x : ModSt) : (setMod k x c).free = c.free := rfl
@[simp] theorem setMod_svcSafety (c : Chip) (k : Nat) (x : ModSt) : (setMod k x c).svcSafety = c.svcSafety := rfl
@[simp] theorem setMod_svcPcie (c : Chip) (k : Nat) (x : ModSt) : (setMod k x c).svcPcie = c.svcPcie := rfl
@[simp] theorem setMod_out (c : Chip) (k : Nat) (x : ModSt) : (setMod k x c).out = c.out := rfl

@[simp] theorem setFbk_regs (c : Chip) (k : Nat) (x : FbkSt) : (setFbk k x c).regs = c.regs := rfl
@[simp] theorem setFbk_pages (c : Chip) (k : Nat) (x : FbkSt) : (setFbk k x c).pages = c.pages := rfl
@[simp] theorem setFbk_paths (c : Chip) (k : Nat) (x : FbkSt) : (setFbk k x c).paths = c.paths := rfl
@[simp] theorem setFbk_held (c : Chip) (k : Nat) (x : FbkSt) : (setFbk k x c).held = c.held := rfl
@[simp] theorem setFbk_faultSeq (c : Chip) (k : Nat) (x : FbkSt) : (setFbk k x c).faultSeq = c.faultSeq := rfl
@[simp] theorem setFbk_clk (c : Chip) (k : Nat) (x : FbkSt) : (setFbk k x c).clk = c.clk := rfl
@[simp] theorem setFbk_tim (c : Chip) (k : Nat) (x : FbkSt) : (setFbk k x c).tim = c.tim := rfl
@[simp] theorem setFbk_knt (c : Chip) (k : Nat) (x : FbkSt) : (setFbk k x c).knt = c.knt := rfl
@[simp] theorem setFbk_evt (c : Chip) (k : Nat) (x : FbkSt) : (setFbk k x c).evt = c.evt := rfl
@[simp] theorem setFbk_cmd (c : Chip) (k : Nat) (x : FbkSt) : (setFbk k x c).cmd = c.cmd := rfl
@[simp] theorem setFbk_net (c : Chip) (k : Nat) (x : FbkSt) : (setFbk k x c).net = c.net := rfl
@[simp] theorem setFbk_ycp (c : Chip) (k : Nat) (x : FbkSt) : (setFbk k x c).ycp = c.ycp := rfl
@[simp] theorem setFbk_hfr (c : Chip) (k : Nat) (x : FbkSt) : (setFbk k x c).hfr = c.hfr := rfl
@[simp] theorem setFbk_axes (c : Chip) (k : Nat) (x : FbkSt) : (setFbk k x c).axes = c.axes := rfl
@[simp] theorem setFbk_grps (c : Chip) (k : Nat) (x : FbkSt) : (setFbk k x c).grps = c.grps := rfl
@[simp] theorem setFbk_hits (c : Chip) (k : Nat) (x : FbkSt) : (setFbk k x c).hits = c.hits := rfl
@[simp] theorem setFbk_cam (c : Chip) (k : Nat) (x : FbkSt) : (setFbk k x c).cam = c.cam := rfl
@[simp] theorem setFbk_loops (c : Chip) (k : Nat) (x : FbkSt) : (setFbk k x c).loops = c.loops := rfl
@[simp] theorem setFbk_lpes (c : Chip) (k : Nat) (x : FbkSt) : (setFbk k x c).lpes = c.lpes := rfl
@[simp] theorem setFbk_sups (c : Chip) (k : Nat) (x : FbkSt) : (setFbk k x c).sups = c.sups := rfl
@[simp] theorem setFbk_buses (c : Chip) (k : Nat) (x : FbkSt) : (setFbk k x c).buses = c.buses := rfl
@[simp] theorem setFbk_mods (c : Chip) (k : Nat) (x : FbkSt) : (setFbk k x c).mods = c.mods := rfl
@[simp] theorem setFbk_snls (c : Chip) (k : Nat) (x : FbkSt) : (setFbk k x c).snls = c.snls := rfl
@[simp] theorem setFbk_adcs (c : Chip) (k : Nat) (x : FbkSt) : (setFbk k x c).adcs = c.adcs := rfl
@[simp] theorem setFbk_sdfs (c : Chip) (k : Nat) (x : FbkSt) : (setFbk k x c).sdfs = c.sdfs := rfl
@[simp] theorem setFbk_sdfSeq (c : Chip) (k : Nat) (x : FbkSt) : (setFbk k x c).sdfSeq = c.sdfSeq := rfl
@[simp] theorem setFbk_cores (c : Chip) (k : Nat) (x : FbkSt) : (setFbk k x c).cores = c.cores := rfl
@[simp] theorem setFbk_dsp (c : Chip) (k : Nat) (x : FbkSt) : (setFbk k x c).dsp = c.dsp := rfl
@[simp] theorem setFbk_trc (c : Chip) (k : Nat) (x : FbkSt) : (setFbk k x c).trc = c.trc := rfl
@[simp] theorem setFbk_fld (c : Chip) (k : Nat) (x : FbkSt) : (setFbk k x c).fld = c.fld := rfl
@[simp] theorem setFbk_field (c : Chip) (k : Nat) (x : FbkSt) : (setFbk k x c).field = c.field := rfl
@[simp] theorem setFbk_bly (c : Chip) (k : Nat) (x : FbkSt) : (setFbk k x c).bly = c.bly := rfl
@[simp] theorem setFbk_memc (c : Chip) (k : Nat) (x : FbkSt) : (setFbk k x c).memc = c.memc := rfl
@[simp] theorem setFbk_scb (c : Chip) (k : Nat) (x : FbkSt) : (setFbk k x c).scb = c.scb := rfl
@[simp] theorem setFbk_keep (c : Chip) (k : Nat) (x : FbkSt) : (setFbk k x c).keep = c.keep := rfl
@[simp] theorem setFbk_pwr (c : Chip) (k : Nat) (x : FbkSt) : (setFbk k x c).pwr = c.pwr := rfl
@[simp] theorem setFbk_sec (c : Chip) (k : Nat) (x : FbkSt) : (setFbk k x c).sec = c.sec := rfl
@[simp] theorem setFbk_dbg (c : Chip) (k : Nat) (x : FbkSt) : (setFbk k x c).dbg = c.dbg := rfl
@[simp] theorem setFbk_spl (c : Chip) (k : Nat) (x : FbkSt) : (setFbk k x c).spl = c.spl := rfl
@[simp] theorem setFbk_free (c : Chip) (k : Nat) (x : FbkSt) : (setFbk k x c).free = c.free := rfl
@[simp] theorem setFbk_svcSafety (c : Chip) (k : Nat) (x : FbkSt) : (setFbk k x c).svcSafety = c.svcSafety := rfl
@[simp] theorem setFbk_svcPcie (c : Chip) (k : Nat) (x : FbkSt) : (setFbk k x c).svcPcie = c.svcPcie := rfl
@[simp] theorem setFbk_out (c : Chip) (k : Nat) (x : FbkSt) : (setFbk k x c).out = c.out := rfl

@[simp] theorem setSnl_regs (c : Chip) (k : Nat) (x : SnlSt) : (setSnl k x c).regs = c.regs := rfl
@[simp] theorem setSnl_pages (c : Chip) (k : Nat) (x : SnlSt) : (setSnl k x c).pages = c.pages := rfl
@[simp] theorem setSnl_paths (c : Chip) (k : Nat) (x : SnlSt) : (setSnl k x c).paths = c.paths := rfl
@[simp] theorem setSnl_held (c : Chip) (k : Nat) (x : SnlSt) : (setSnl k x c).held = c.held := rfl
@[simp] theorem setSnl_faultSeq (c : Chip) (k : Nat) (x : SnlSt) : (setSnl k x c).faultSeq = c.faultSeq := rfl
@[simp] theorem setSnl_clk (c : Chip) (k : Nat) (x : SnlSt) : (setSnl k x c).clk = c.clk := rfl
@[simp] theorem setSnl_tim (c : Chip) (k : Nat) (x : SnlSt) : (setSnl k x c).tim = c.tim := rfl
@[simp] theorem setSnl_knt (c : Chip) (k : Nat) (x : SnlSt) : (setSnl k x c).knt = c.knt := rfl
@[simp] theorem setSnl_evt (c : Chip) (k : Nat) (x : SnlSt) : (setSnl k x c).evt = c.evt := rfl
@[simp] theorem setSnl_cmd (c : Chip) (k : Nat) (x : SnlSt) : (setSnl k x c).cmd = c.cmd := rfl
@[simp] theorem setSnl_net (c : Chip) (k : Nat) (x : SnlSt) : (setSnl k x c).net = c.net := rfl
@[simp] theorem setSnl_ycp (c : Chip) (k : Nat) (x : SnlSt) : (setSnl k x c).ycp = c.ycp := rfl
@[simp] theorem setSnl_hfr (c : Chip) (k : Nat) (x : SnlSt) : (setSnl k x c).hfr = c.hfr := rfl
@[simp] theorem setSnl_axes (c : Chip) (k : Nat) (x : SnlSt) : (setSnl k x c).axes = c.axes := rfl
@[simp] theorem setSnl_grps (c : Chip) (k : Nat) (x : SnlSt) : (setSnl k x c).grps = c.grps := rfl
@[simp] theorem setSnl_hits (c : Chip) (k : Nat) (x : SnlSt) : (setSnl k x c).hits = c.hits := rfl
@[simp] theorem setSnl_cam (c : Chip) (k : Nat) (x : SnlSt) : (setSnl k x c).cam = c.cam := rfl
@[simp] theorem setSnl_loops (c : Chip) (k : Nat) (x : SnlSt) : (setSnl k x c).loops = c.loops := rfl
@[simp] theorem setSnl_lpes (c : Chip) (k : Nat) (x : SnlSt) : (setSnl k x c).lpes = c.lpes := rfl
@[simp] theorem setSnl_sups (c : Chip) (k : Nat) (x : SnlSt) : (setSnl k x c).sups = c.sups := rfl
@[simp] theorem setSnl_buses (c : Chip) (k : Nat) (x : SnlSt) : (setSnl k x c).buses = c.buses := rfl
@[simp] theorem setSnl_mods (c : Chip) (k : Nat) (x : SnlSt) : (setSnl k x c).mods = c.mods := rfl
@[simp] theorem setSnl_fbks (c : Chip) (k : Nat) (x : SnlSt) : (setSnl k x c).fbks = c.fbks := rfl
@[simp] theorem setSnl_adcs (c : Chip) (k : Nat) (x : SnlSt) : (setSnl k x c).adcs = c.adcs := rfl
@[simp] theorem setSnl_sdfs (c : Chip) (k : Nat) (x : SnlSt) : (setSnl k x c).sdfs = c.sdfs := rfl
@[simp] theorem setSnl_sdfSeq (c : Chip) (k : Nat) (x : SnlSt) : (setSnl k x c).sdfSeq = c.sdfSeq := rfl
@[simp] theorem setSnl_cores (c : Chip) (k : Nat) (x : SnlSt) : (setSnl k x c).cores = c.cores := rfl
@[simp] theorem setSnl_dsp (c : Chip) (k : Nat) (x : SnlSt) : (setSnl k x c).dsp = c.dsp := rfl
@[simp] theorem setSnl_trc (c : Chip) (k : Nat) (x : SnlSt) : (setSnl k x c).trc = c.trc := rfl
@[simp] theorem setSnl_fld (c : Chip) (k : Nat) (x : SnlSt) : (setSnl k x c).fld = c.fld := rfl
@[simp] theorem setSnl_field (c : Chip) (k : Nat) (x : SnlSt) : (setSnl k x c).field = c.field := rfl
@[simp] theorem setSnl_bly (c : Chip) (k : Nat) (x : SnlSt) : (setSnl k x c).bly = c.bly := rfl
@[simp] theorem setSnl_memc (c : Chip) (k : Nat) (x : SnlSt) : (setSnl k x c).memc = c.memc := rfl
@[simp] theorem setSnl_scb (c : Chip) (k : Nat) (x : SnlSt) : (setSnl k x c).scb = c.scb := rfl
@[simp] theorem setSnl_keep (c : Chip) (k : Nat) (x : SnlSt) : (setSnl k x c).keep = c.keep := rfl
@[simp] theorem setSnl_pwr (c : Chip) (k : Nat) (x : SnlSt) : (setSnl k x c).pwr = c.pwr := rfl
@[simp] theorem setSnl_sec (c : Chip) (k : Nat) (x : SnlSt) : (setSnl k x c).sec = c.sec := rfl
@[simp] theorem setSnl_dbg (c : Chip) (k : Nat) (x : SnlSt) : (setSnl k x c).dbg = c.dbg := rfl
@[simp] theorem setSnl_spl (c : Chip) (k : Nat) (x : SnlSt) : (setSnl k x c).spl = c.spl := rfl
@[simp] theorem setSnl_free (c : Chip) (k : Nat) (x : SnlSt) : (setSnl k x c).free = c.free := rfl
@[simp] theorem setSnl_svcSafety (c : Chip) (k : Nat) (x : SnlSt) : (setSnl k x c).svcSafety = c.svcSafety := rfl
@[simp] theorem setSnl_svcPcie (c : Chip) (k : Nat) (x : SnlSt) : (setSnl k x c).svcPcie = c.svcPcie := rfl
@[simp] theorem setSnl_out (c : Chip) (k : Nat) (x : SnlSt) : (setSnl k x c).out = c.out := rfl

@[simp] theorem setBus_regs (c : Chip) (k : Nat) (x : BusSt) : (setBus k x c).regs = c.regs := rfl
@[simp] theorem setBus_pages (c : Chip) (k : Nat) (x : BusSt) : (setBus k x c).pages = c.pages := rfl
@[simp] theorem setBus_paths (c : Chip) (k : Nat) (x : BusSt) : (setBus k x c).paths = c.paths := rfl
@[simp] theorem setBus_held (c : Chip) (k : Nat) (x : BusSt) : (setBus k x c).held = c.held := rfl
@[simp] theorem setBus_faultSeq (c : Chip) (k : Nat) (x : BusSt) : (setBus k x c).faultSeq = c.faultSeq := rfl
@[simp] theorem setBus_clk (c : Chip) (k : Nat) (x : BusSt) : (setBus k x c).clk = c.clk := rfl
@[simp] theorem setBus_tim (c : Chip) (k : Nat) (x : BusSt) : (setBus k x c).tim = c.tim := rfl
@[simp] theorem setBus_knt (c : Chip) (k : Nat) (x : BusSt) : (setBus k x c).knt = c.knt := rfl
@[simp] theorem setBus_evt (c : Chip) (k : Nat) (x : BusSt) : (setBus k x c).evt = c.evt := rfl
@[simp] theorem setBus_cmd (c : Chip) (k : Nat) (x : BusSt) : (setBus k x c).cmd = c.cmd := rfl
@[simp] theorem setBus_net (c : Chip) (k : Nat) (x : BusSt) : (setBus k x c).net = c.net := rfl
@[simp] theorem setBus_ycp (c : Chip) (k : Nat) (x : BusSt) : (setBus k x c).ycp = c.ycp := rfl
@[simp] theorem setBus_hfr (c : Chip) (k : Nat) (x : BusSt) : (setBus k x c).hfr = c.hfr := rfl
@[simp] theorem setBus_axes (c : Chip) (k : Nat) (x : BusSt) : (setBus k x c).axes = c.axes := rfl
@[simp] theorem setBus_grps (c : Chip) (k : Nat) (x : BusSt) : (setBus k x c).grps = c.grps := rfl
@[simp] theorem setBus_hits (c : Chip) (k : Nat) (x : BusSt) : (setBus k x c).hits = c.hits := rfl
@[simp] theorem setBus_cam (c : Chip) (k : Nat) (x : BusSt) : (setBus k x c).cam = c.cam := rfl
@[simp] theorem setBus_loops (c : Chip) (k : Nat) (x : BusSt) : (setBus k x c).loops = c.loops := rfl
@[simp] theorem setBus_lpes (c : Chip) (k : Nat) (x : BusSt) : (setBus k x c).lpes = c.lpes := rfl
@[simp] theorem setBus_sups (c : Chip) (k : Nat) (x : BusSt) : (setBus k x c).sups = c.sups := rfl
@[simp] theorem setBus_mods (c : Chip) (k : Nat) (x : BusSt) : (setBus k x c).mods = c.mods := rfl
@[simp] theorem setBus_fbks (c : Chip) (k : Nat) (x : BusSt) : (setBus k x c).fbks = c.fbks := rfl
@[simp] theorem setBus_snls (c : Chip) (k : Nat) (x : BusSt) : (setBus k x c).snls = c.snls := rfl
@[simp] theorem setBus_adcs (c : Chip) (k : Nat) (x : BusSt) : (setBus k x c).adcs = c.adcs := rfl
@[simp] theorem setBus_sdfs (c : Chip) (k : Nat) (x : BusSt) : (setBus k x c).sdfs = c.sdfs := rfl
@[simp] theorem setBus_sdfSeq (c : Chip) (k : Nat) (x : BusSt) : (setBus k x c).sdfSeq = c.sdfSeq := rfl
@[simp] theorem setBus_cores (c : Chip) (k : Nat) (x : BusSt) : (setBus k x c).cores = c.cores := rfl
@[simp] theorem setBus_dsp (c : Chip) (k : Nat) (x : BusSt) : (setBus k x c).dsp = c.dsp := rfl
@[simp] theorem setBus_trc (c : Chip) (k : Nat) (x : BusSt) : (setBus k x c).trc = c.trc := rfl
@[simp] theorem setBus_fld (c : Chip) (k : Nat) (x : BusSt) : (setBus k x c).fld = c.fld := rfl
@[simp] theorem setBus_field (c : Chip) (k : Nat) (x : BusSt) : (setBus k x c).field = c.field := rfl
@[simp] theorem setBus_bly (c : Chip) (k : Nat) (x : BusSt) : (setBus k x c).bly = c.bly := rfl
@[simp] theorem setBus_memc (c : Chip) (k : Nat) (x : BusSt) : (setBus k x c).memc = c.memc := rfl
@[simp] theorem setBus_scb (c : Chip) (k : Nat) (x : BusSt) : (setBus k x c).scb = c.scb := rfl
@[simp] theorem setBus_keep (c : Chip) (k : Nat) (x : BusSt) : (setBus k x c).keep = c.keep := rfl
@[simp] theorem setBus_pwr (c : Chip) (k : Nat) (x : BusSt) : (setBus k x c).pwr = c.pwr := rfl
@[simp] theorem setBus_sec (c : Chip) (k : Nat) (x : BusSt) : (setBus k x c).sec = c.sec := rfl
@[simp] theorem setBus_dbg (c : Chip) (k : Nat) (x : BusSt) : (setBus k x c).dbg = c.dbg := rfl
@[simp] theorem setBus_spl (c : Chip) (k : Nat) (x : BusSt) : (setBus k x c).spl = c.spl := rfl
@[simp] theorem setBus_free (c : Chip) (k : Nat) (x : BusSt) : (setBus k x c).free = c.free := rfl
@[simp] theorem setBus_svcSafety (c : Chip) (k : Nat) (x : BusSt) : (setBus k x c).svcSafety = c.svcSafety := rfl
@[simp] theorem setBus_svcPcie (c : Chip) (k : Nat) (x : BusSt) : (setBus k x c).svcPcie = c.svcPcie := rfl
@[simp] theorem setBus_out (c : Chip) (k : Nat) (x : BusSt) : (setBus k x c).out = c.out := rfl

@[simp] theorem setSq_regs (c : Chip) (k : Nat) (x : Sq) : (setSq k x c).regs = c.regs := rfl
@[simp] theorem setSq_pages (c : Chip) (k : Nat) (x : Sq) : (setSq k x c).pages = c.pages := rfl
@[simp] theorem setSq_paths (c : Chip) (k : Nat) (x : Sq) : (setSq k x c).paths = c.paths := rfl
@[simp] theorem setSq_held (c : Chip) (k : Nat) (x : Sq) : (setSq k x c).held = c.held := rfl
@[simp] theorem setSq_faultSeq (c : Chip) (k : Nat) (x : Sq) : (setSq k x c).faultSeq = c.faultSeq := rfl
@[simp] theorem setSq_clk (c : Chip) (k : Nat) (x : Sq) : (setSq k x c).clk = c.clk := rfl
@[simp] theorem setSq_tim (c : Chip) (k : Nat) (x : Sq) : (setSq k x c).tim = c.tim := rfl
@[simp] theorem setSq_knt (c : Chip) (k : Nat) (x : Sq) : (setSq k x c).knt = c.knt := rfl
@[simp] theorem setSq_evt (c : Chip) (k : Nat) (x : Sq) : (setSq k x c).evt = c.evt := rfl
@[simp] theorem setSq_net (c : Chip) (k : Nat) (x : Sq) : (setSq k x c).net = c.net := rfl
@[simp] theorem setSq_ycp (c : Chip) (k : Nat) (x : Sq) : (setSq k x c).ycp = c.ycp := rfl
@[simp] theorem setSq_hfr (c : Chip) (k : Nat) (x : Sq) : (setSq k x c).hfr = c.hfr := rfl
@[simp] theorem setSq_axes (c : Chip) (k : Nat) (x : Sq) : (setSq k x c).axes = c.axes := rfl
@[simp] theorem setSq_grps (c : Chip) (k : Nat) (x : Sq) : (setSq k x c).grps = c.grps := rfl
@[simp] theorem setSq_hits (c : Chip) (k : Nat) (x : Sq) : (setSq k x c).hits = c.hits := rfl
@[simp] theorem setSq_cam (c : Chip) (k : Nat) (x : Sq) : (setSq k x c).cam = c.cam := rfl
@[simp] theorem setSq_loops (c : Chip) (k : Nat) (x : Sq) : (setSq k x c).loops = c.loops := rfl
@[simp] theorem setSq_lpes (c : Chip) (k : Nat) (x : Sq) : (setSq k x c).lpes = c.lpes := rfl
@[simp] theorem setSq_sups (c : Chip) (k : Nat) (x : Sq) : (setSq k x c).sups = c.sups := rfl
@[simp] theorem setSq_buses (c : Chip) (k : Nat) (x : Sq) : (setSq k x c).buses = c.buses := rfl
@[simp] theorem setSq_mods (c : Chip) (k : Nat) (x : Sq) : (setSq k x c).mods = c.mods := rfl
@[simp] theorem setSq_fbks (c : Chip) (k : Nat) (x : Sq) : (setSq k x c).fbks = c.fbks := rfl
@[simp] theorem setSq_snls (c : Chip) (k : Nat) (x : Sq) : (setSq k x c).snls = c.snls := rfl
@[simp] theorem setSq_adcs (c : Chip) (k : Nat) (x : Sq) : (setSq k x c).adcs = c.adcs := rfl
@[simp] theorem setSq_sdfs (c : Chip) (k : Nat) (x : Sq) : (setSq k x c).sdfs = c.sdfs := rfl
@[simp] theorem setSq_sdfSeq (c : Chip) (k : Nat) (x : Sq) : (setSq k x c).sdfSeq = c.sdfSeq := rfl
@[simp] theorem setSq_cores (c : Chip) (k : Nat) (x : Sq) : (setSq k x c).cores = c.cores := rfl
@[simp] theorem setSq_dsp (c : Chip) (k : Nat) (x : Sq) : (setSq k x c).dsp = c.dsp := rfl
@[simp] theorem setSq_trc (c : Chip) (k : Nat) (x : Sq) : (setSq k x c).trc = c.trc := rfl
@[simp] theorem setSq_fld (c : Chip) (k : Nat) (x : Sq) : (setSq k x c).fld = c.fld := rfl
@[simp] theorem setSq_field (c : Chip) (k : Nat) (x : Sq) : (setSq k x c).field = c.field := rfl
@[simp] theorem setSq_bly (c : Chip) (k : Nat) (x : Sq) : (setSq k x c).bly = c.bly := rfl
@[simp] theorem setSq_memc (c : Chip) (k : Nat) (x : Sq) : (setSq k x c).memc = c.memc := rfl
@[simp] theorem setSq_scb (c : Chip) (k : Nat) (x : Sq) : (setSq k x c).scb = c.scb := rfl
@[simp] theorem setSq_keep (c : Chip) (k : Nat) (x : Sq) : (setSq k x c).keep = c.keep := rfl
@[simp] theorem setSq_pwr (c : Chip) (k : Nat) (x : Sq) : (setSq k x c).pwr = c.pwr := rfl
@[simp] theorem setSq_sec (c : Chip) (k : Nat) (x : Sq) : (setSq k x c).sec = c.sec := rfl
@[simp] theorem setSq_dbg (c : Chip) (k : Nat) (x : Sq) : (setSq k x c).dbg = c.dbg := rfl
@[simp] theorem setSq_spl (c : Chip) (k : Nat) (x : Sq) : (setSq k x c).spl = c.spl := rfl
@[simp] theorem setSq_free (c : Chip) (k : Nat) (x : Sq) : (setSq k x c).free = c.free := rfl
@[simp] theorem setSq_svcSafety (c : Chip) (k : Nat) (x : Sq) : (setSq k x c).svcSafety = c.svcSafety := rfl
@[simp] theorem setSq_svcPcie (c : Chip) (k : Nat) (x : Sq) : (setSq k x c).svcPcie = c.svcPcie := rfl
@[simp] theorem setSq_out (c : Chip) (k : Nat) (x : Sq) : (setSq k x c).out = c.out := rfl

@[simp] theorem setSession_regs (c : Chip) (k : Nat) (x : Session) : (setSession k x c).regs = c.regs := rfl
@[simp] theorem setSession_pages (c : Chip) (k : Nat) (x : Session) : (setSession k x c).pages = c.pages := rfl
@[simp] theorem setSession_paths (c : Chip) (k : Nat) (x : Session) : (setSession k x c).paths = c.paths := rfl
@[simp] theorem setSession_held (c : Chip) (k : Nat) (x : Session) : (setSession k x c).held = c.held := rfl
@[simp] theorem setSession_faultSeq (c : Chip) (k : Nat) (x : Session) : (setSession k x c).faultSeq = c.faultSeq := rfl
@[simp] theorem setSession_clk (c : Chip) (k : Nat) (x : Session) : (setSession k x c).clk = c.clk := rfl
@[simp] theorem setSession_tim (c : Chip) (k : Nat) (x : Session) : (setSession k x c).tim = c.tim := rfl
@[simp] theorem setSession_knt (c : Chip) (k : Nat) (x : Session) : (setSession k x c).knt = c.knt := rfl
@[simp] theorem setSession_evt (c : Chip) (k : Nat) (x : Session) : (setSession k x c).evt = c.evt := rfl
@[simp] theorem setSession_cmd (c : Chip) (k : Nat) (x : Session) : (setSession k x c).cmd = c.cmd := rfl
@[simp] theorem setSession_net (c : Chip) (k : Nat) (x : Session) : (setSession k x c).net = c.net := rfl
@[simp] theorem setSession_hfr (c : Chip) (k : Nat) (x : Session) : (setSession k x c).hfr = c.hfr := rfl
@[simp] theorem setSession_axes (c : Chip) (k : Nat) (x : Session) : (setSession k x c).axes = c.axes := rfl
@[simp] theorem setSession_grps (c : Chip) (k : Nat) (x : Session) : (setSession k x c).grps = c.grps := rfl
@[simp] theorem setSession_hits (c : Chip) (k : Nat) (x : Session) : (setSession k x c).hits = c.hits := rfl
@[simp] theorem setSession_cam (c : Chip) (k : Nat) (x : Session) : (setSession k x c).cam = c.cam := rfl
@[simp] theorem setSession_loops (c : Chip) (k : Nat) (x : Session) : (setSession k x c).loops = c.loops := rfl
@[simp] theorem setSession_lpes (c : Chip) (k : Nat) (x : Session) : (setSession k x c).lpes = c.lpes := rfl
@[simp] theorem setSession_sups (c : Chip) (k : Nat) (x : Session) : (setSession k x c).sups = c.sups := rfl
@[simp] theorem setSession_buses (c : Chip) (k : Nat) (x : Session) : (setSession k x c).buses = c.buses := rfl
@[simp] theorem setSession_mods (c : Chip) (k : Nat) (x : Session) : (setSession k x c).mods = c.mods := rfl
@[simp] theorem setSession_fbks (c : Chip) (k : Nat) (x : Session) : (setSession k x c).fbks = c.fbks := rfl
@[simp] theorem setSession_snls (c : Chip) (k : Nat) (x : Session) : (setSession k x c).snls = c.snls := rfl
@[simp] theorem setSession_adcs (c : Chip) (k : Nat) (x : Session) : (setSession k x c).adcs = c.adcs := rfl
@[simp] theorem setSession_sdfs (c : Chip) (k : Nat) (x : Session) : (setSession k x c).sdfs = c.sdfs := rfl
@[simp] theorem setSession_sdfSeq (c : Chip) (k : Nat) (x : Session) : (setSession k x c).sdfSeq = c.sdfSeq := rfl
@[simp] theorem setSession_cores (c : Chip) (k : Nat) (x : Session) : (setSession k x c).cores = c.cores := rfl
@[simp] theorem setSession_dsp (c : Chip) (k : Nat) (x : Session) : (setSession k x c).dsp = c.dsp := rfl
@[simp] theorem setSession_trc (c : Chip) (k : Nat) (x : Session) : (setSession k x c).trc = c.trc := rfl
@[simp] theorem setSession_fld (c : Chip) (k : Nat) (x : Session) : (setSession k x c).fld = c.fld := rfl
@[simp] theorem setSession_field (c : Chip) (k : Nat) (x : Session) : (setSession k x c).field = c.field := rfl
@[simp] theorem setSession_bly (c : Chip) (k : Nat) (x : Session) : (setSession k x c).bly = c.bly := rfl
@[simp] theorem setSession_memc (c : Chip) (k : Nat) (x : Session) : (setSession k x c).memc = c.memc := rfl
@[simp] theorem setSession_scb (c : Chip) (k : Nat) (x : Session) : (setSession k x c).scb = c.scb := rfl
@[simp] theorem setSession_keep (c : Chip) (k : Nat) (x : Session) : (setSession k x c).keep = c.keep := rfl
@[simp] theorem setSession_pwr (c : Chip) (k : Nat) (x : Session) : (setSession k x c).pwr = c.pwr := rfl
@[simp] theorem setSession_sec (c : Chip) (k : Nat) (x : Session) : (setSession k x c).sec = c.sec := rfl
@[simp] theorem setSession_dbg (c : Chip) (k : Nat) (x : Session) : (setSession k x c).dbg = c.dbg := rfl
@[simp] theorem setSession_spl (c : Chip) (k : Nat) (x : Session) : (setSession k x c).spl = c.spl := rfl
@[simp] theorem setSession_free (c : Chip) (k : Nat) (x : Session) : (setSession k x c).free = c.free := rfl
@[simp] theorem setSession_svcSafety (c : Chip) (k : Nat) (x : Session) : (setSession k x c).svcSafety = c.svcSafety := rfl
@[simp] theorem setSession_svcPcie (c : Chip) (k : Nat) (x : Session) : (setSession k x c).svcPcie = c.svcPcie := rfl
@[simp] theorem setSession_out (c : Chip) (k : Nat) (x : Session) : (setSession k x c).out = c.out := rfl

@[simp] theorem setCore_regs (c : Chip) (k : Nat) (x : CoreSt) : (setCore k x c).regs = c.regs := rfl
@[simp] theorem setCore_pages (c : Chip) (k : Nat) (x : CoreSt) : (setCore k x c).pages = c.pages := rfl
@[simp] theorem setCore_paths (c : Chip) (k : Nat) (x : CoreSt) : (setCore k x c).paths = c.paths := rfl
@[simp] theorem setCore_held (c : Chip) (k : Nat) (x : CoreSt) : (setCore k x c).held = c.held := rfl
@[simp] theorem setCore_faultSeq (c : Chip) (k : Nat) (x : CoreSt) : (setCore k x c).faultSeq = c.faultSeq := rfl
@[simp] theorem setCore_clk (c : Chip) (k : Nat) (x : CoreSt) : (setCore k x c).clk = c.clk := rfl
@[simp] theorem setCore_tim (c : Chip) (k : Nat) (x : CoreSt) : (setCore k x c).tim = c.tim := rfl
@[simp] theorem setCore_knt (c : Chip) (k : Nat) (x : CoreSt) : (setCore k x c).knt = c.knt := rfl
@[simp] theorem setCore_evt (c : Chip) (k : Nat) (x : CoreSt) : (setCore k x c).evt = c.evt := rfl
@[simp] theorem setCore_cmd (c : Chip) (k : Nat) (x : CoreSt) : (setCore k x c).cmd = c.cmd := rfl
@[simp] theorem setCore_net (c : Chip) (k : Nat) (x : CoreSt) : (setCore k x c).net = c.net := rfl
@[simp] theorem setCore_ycp (c : Chip) (k : Nat) (x : CoreSt) : (setCore k x c).ycp = c.ycp := rfl
@[simp] theorem setCore_hfr (c : Chip) (k : Nat) (x : CoreSt) : (setCore k x c).hfr = c.hfr := rfl
@[simp] theorem setCore_axes (c : Chip) (k : Nat) (x : CoreSt) : (setCore k x c).axes = c.axes := rfl
@[simp] theorem setCore_grps (c : Chip) (k : Nat) (x : CoreSt) : (setCore k x c).grps = c.grps := rfl
@[simp] theorem setCore_hits (c : Chip) (k : Nat) (x : CoreSt) : (setCore k x c).hits = c.hits := rfl
@[simp] theorem setCore_cam (c : Chip) (k : Nat) (x : CoreSt) : (setCore k x c).cam = c.cam := rfl
@[simp] theorem setCore_loops (c : Chip) (k : Nat) (x : CoreSt) : (setCore k x c).loops = c.loops := rfl
@[simp] theorem setCore_lpes (c : Chip) (k : Nat) (x : CoreSt) : (setCore k x c).lpes = c.lpes := rfl
@[simp] theorem setCore_sups (c : Chip) (k : Nat) (x : CoreSt) : (setCore k x c).sups = c.sups := rfl
@[simp] theorem setCore_buses (c : Chip) (k : Nat) (x : CoreSt) : (setCore k x c).buses = c.buses := rfl
@[simp] theorem setCore_mods (c : Chip) (k : Nat) (x : CoreSt) : (setCore k x c).mods = c.mods := rfl
@[simp] theorem setCore_fbks (c : Chip) (k : Nat) (x : CoreSt) : (setCore k x c).fbks = c.fbks := rfl
@[simp] theorem setCore_snls (c : Chip) (k : Nat) (x : CoreSt) : (setCore k x c).snls = c.snls := rfl
@[simp] theorem setCore_adcs (c : Chip) (k : Nat) (x : CoreSt) : (setCore k x c).adcs = c.adcs := rfl
@[simp] theorem setCore_sdfs (c : Chip) (k : Nat) (x : CoreSt) : (setCore k x c).sdfs = c.sdfs := rfl
@[simp] theorem setCore_sdfSeq (c : Chip) (k : Nat) (x : CoreSt) : (setCore k x c).sdfSeq = c.sdfSeq := rfl
@[simp] theorem setCore_dsp (c : Chip) (k : Nat) (x : CoreSt) : (setCore k x c).dsp = c.dsp := rfl
@[simp] theorem setCore_trc (c : Chip) (k : Nat) (x : CoreSt) : (setCore k x c).trc = c.trc := rfl
@[simp] theorem setCore_fld (c : Chip) (k : Nat) (x : CoreSt) : (setCore k x c).fld = c.fld := rfl
@[simp] theorem setCore_field (c : Chip) (k : Nat) (x : CoreSt) : (setCore k x c).field = c.field := rfl
@[simp] theorem setCore_bly (c : Chip) (k : Nat) (x : CoreSt) : (setCore k x c).bly = c.bly := rfl
@[simp] theorem setCore_memc (c : Chip) (k : Nat) (x : CoreSt) : (setCore k x c).memc = c.memc := rfl
@[simp] theorem setCore_scb (c : Chip) (k : Nat) (x : CoreSt) : (setCore k x c).scb = c.scb := rfl
@[simp] theorem setCore_keep (c : Chip) (k : Nat) (x : CoreSt) : (setCore k x c).keep = c.keep := rfl
@[simp] theorem setCore_pwr (c : Chip) (k : Nat) (x : CoreSt) : (setCore k x c).pwr = c.pwr := rfl
@[simp] theorem setCore_sec (c : Chip) (k : Nat) (x : CoreSt) : (setCore k x c).sec = c.sec := rfl
@[simp] theorem setCore_dbg (c : Chip) (k : Nat) (x : CoreSt) : (setCore k x c).dbg = c.dbg := rfl
@[simp] theorem setCore_spl (c : Chip) (k : Nat) (x : CoreSt) : (setCore k x c).spl = c.spl := rfl
@[simp] theorem setCore_free (c : Chip) (k : Nat) (x : CoreSt) : (setCore k x c).free = c.free := rfl
@[simp] theorem setCore_svcSafety (c : Chip) (k : Nat) (x : CoreSt) : (setCore k x c).svcSafety = c.svcSafety := rfl
@[simp] theorem setCore_svcPcie (c : Chip) (k : Nat) (x : CoreSt) : (setCore k x c).svcPcie = c.svcPcie := rfl
@[simp] theorem setCore_out (c : Chip) (k : Nat) (x : CoreSt) : (setCore k x c).out = c.out := rfl

@[simp] theorem setLpe_regs (c : Chip) (k : Nat) (x : LpeSt) : (setLpe k x c).regs = c.regs := rfl
@[simp] theorem setLpe_pages (c : Chip) (k : Nat) (x : LpeSt) : (setLpe k x c).pages = c.pages := rfl
@[simp] theorem setLpe_paths (c : Chip) (k : Nat) (x : LpeSt) : (setLpe k x c).paths = c.paths := rfl
@[simp] theorem setLpe_held (c : Chip) (k : Nat) (x : LpeSt) : (setLpe k x c).held = c.held := rfl
@[simp] theorem setLpe_faultSeq (c : Chip) (k : Nat) (x : LpeSt) : (setLpe k x c).faultSeq = c.faultSeq := rfl
@[simp] theorem setLpe_clk (c : Chip) (k : Nat) (x : LpeSt) : (setLpe k x c).clk = c.clk := rfl
@[simp] theorem setLpe_tim (c : Chip) (k : Nat) (x : LpeSt) : (setLpe k x c).tim = c.tim := rfl
@[simp] theorem setLpe_knt (c : Chip) (k : Nat) (x : LpeSt) : (setLpe k x c).knt = c.knt := rfl
@[simp] theorem setLpe_evt (c : Chip) (k : Nat) (x : LpeSt) : (setLpe k x c).evt = c.evt := rfl
@[simp] theorem setLpe_cmd (c : Chip) (k : Nat) (x : LpeSt) : (setLpe k x c).cmd = c.cmd := rfl
@[simp] theorem setLpe_net (c : Chip) (k : Nat) (x : LpeSt) : (setLpe k x c).net = c.net := rfl
@[simp] theorem setLpe_ycp (c : Chip) (k : Nat) (x : LpeSt) : (setLpe k x c).ycp = c.ycp := rfl
@[simp] theorem setLpe_hfr (c : Chip) (k : Nat) (x : LpeSt) : (setLpe k x c).hfr = c.hfr := rfl
@[simp] theorem setLpe_axes (c : Chip) (k : Nat) (x : LpeSt) : (setLpe k x c).axes = c.axes := rfl
@[simp] theorem setLpe_grps (c : Chip) (k : Nat) (x : LpeSt) : (setLpe k x c).grps = c.grps := rfl
@[simp] theorem setLpe_hits (c : Chip) (k : Nat) (x : LpeSt) : (setLpe k x c).hits = c.hits := rfl
@[simp] theorem setLpe_cam (c : Chip) (k : Nat) (x : LpeSt) : (setLpe k x c).cam = c.cam := rfl
@[simp] theorem setLpe_loops (c : Chip) (k : Nat) (x : LpeSt) : (setLpe k x c).loops = c.loops := rfl
@[simp] theorem setLpe_sups (c : Chip) (k : Nat) (x : LpeSt) : (setLpe k x c).sups = c.sups := rfl
@[simp] theorem setLpe_buses (c : Chip) (k : Nat) (x : LpeSt) : (setLpe k x c).buses = c.buses := rfl
@[simp] theorem setLpe_mods (c : Chip) (k : Nat) (x : LpeSt) : (setLpe k x c).mods = c.mods := rfl
@[simp] theorem setLpe_fbks (c : Chip) (k : Nat) (x : LpeSt) : (setLpe k x c).fbks = c.fbks := rfl
@[simp] theorem setLpe_snls (c : Chip) (k : Nat) (x : LpeSt) : (setLpe k x c).snls = c.snls := rfl
@[simp] theorem setLpe_adcs (c : Chip) (k : Nat) (x : LpeSt) : (setLpe k x c).adcs = c.adcs := rfl
@[simp] theorem setLpe_sdfs (c : Chip) (k : Nat) (x : LpeSt) : (setLpe k x c).sdfs = c.sdfs := rfl
@[simp] theorem setLpe_sdfSeq (c : Chip) (k : Nat) (x : LpeSt) : (setLpe k x c).sdfSeq = c.sdfSeq := rfl
@[simp] theorem setLpe_cores (c : Chip) (k : Nat) (x : LpeSt) : (setLpe k x c).cores = c.cores := rfl
@[simp] theorem setLpe_dsp (c : Chip) (k : Nat) (x : LpeSt) : (setLpe k x c).dsp = c.dsp := rfl
@[simp] theorem setLpe_trc (c : Chip) (k : Nat) (x : LpeSt) : (setLpe k x c).trc = c.trc := rfl
@[simp] theorem setLpe_fld (c : Chip) (k : Nat) (x : LpeSt) : (setLpe k x c).fld = c.fld := rfl
@[simp] theorem setLpe_field (c : Chip) (k : Nat) (x : LpeSt) : (setLpe k x c).field = c.field := rfl
@[simp] theorem setLpe_bly (c : Chip) (k : Nat) (x : LpeSt) : (setLpe k x c).bly = c.bly := rfl
@[simp] theorem setLpe_memc (c : Chip) (k : Nat) (x : LpeSt) : (setLpe k x c).memc = c.memc := rfl
@[simp] theorem setLpe_scb (c : Chip) (k : Nat) (x : LpeSt) : (setLpe k x c).scb = c.scb := rfl
@[simp] theorem setLpe_keep (c : Chip) (k : Nat) (x : LpeSt) : (setLpe k x c).keep = c.keep := rfl
@[simp] theorem setLpe_pwr (c : Chip) (k : Nat) (x : LpeSt) : (setLpe k x c).pwr = c.pwr := rfl
@[simp] theorem setLpe_sec (c : Chip) (k : Nat) (x : LpeSt) : (setLpe k x c).sec = c.sec := rfl
@[simp] theorem setLpe_dbg (c : Chip) (k : Nat) (x : LpeSt) : (setLpe k x c).dbg = c.dbg := rfl
@[simp] theorem setLpe_spl (c : Chip) (k : Nat) (x : LpeSt) : (setLpe k x c).spl = c.spl := rfl
@[simp] theorem setLpe_free (c : Chip) (k : Nat) (x : LpeSt) : (setLpe k x c).free = c.free := rfl
@[simp] theorem setLpe_svcSafety (c : Chip) (k : Nat) (x : LpeSt) : (setLpe k x c).svcSafety = c.svcSafety := rfl
@[simp] theorem setLpe_svcPcie (c : Chip) (k : Nat) (x : LpeSt) : (setLpe k x c).svcPcie = c.svcPcie := rfl
@[simp] theorem setLpe_out (c : Chip) (k : Nat) (x : LpeSt) : (setLpe k x c).out = c.out := rfl

@[simp] theorem setPort_regs (c : Chip) (k : Nat) (x : NetPort) : (setPort k x c).regs = c.regs := rfl
@[simp] theorem setPort_pages (c : Chip) (k : Nat) (x : NetPort) : (setPort k x c).pages = c.pages := rfl
@[simp] theorem setPort_paths (c : Chip) (k : Nat) (x : NetPort) : (setPort k x c).paths = c.paths := rfl
@[simp] theorem setPort_held (c : Chip) (k : Nat) (x : NetPort) : (setPort k x c).held = c.held := rfl
@[simp] theorem setPort_faultSeq (c : Chip) (k : Nat) (x : NetPort) : (setPort k x c).faultSeq = c.faultSeq := rfl
@[simp] theorem setPort_clk (c : Chip) (k : Nat) (x : NetPort) : (setPort k x c).clk = c.clk := rfl
@[simp] theorem setPort_tim (c : Chip) (k : Nat) (x : NetPort) : (setPort k x c).tim = c.tim := rfl
@[simp] theorem setPort_knt (c : Chip) (k : Nat) (x : NetPort) : (setPort k x c).knt = c.knt := rfl
@[simp] theorem setPort_evt (c : Chip) (k : Nat) (x : NetPort) : (setPort k x c).evt = c.evt := rfl
@[simp] theorem setPort_cmd (c : Chip) (k : Nat) (x : NetPort) : (setPort k x c).cmd = c.cmd := rfl
@[simp] theorem setPort_ycp (c : Chip) (k : Nat) (x : NetPort) : (setPort k x c).ycp = c.ycp := rfl
@[simp] theorem setPort_hfr (c : Chip) (k : Nat) (x : NetPort) : (setPort k x c).hfr = c.hfr := rfl
@[simp] theorem setPort_axes (c : Chip) (k : Nat) (x : NetPort) : (setPort k x c).axes = c.axes := rfl
@[simp] theorem setPort_grps (c : Chip) (k : Nat) (x : NetPort) : (setPort k x c).grps = c.grps := rfl
@[simp] theorem setPort_hits (c : Chip) (k : Nat) (x : NetPort) : (setPort k x c).hits = c.hits := rfl
@[simp] theorem setPort_cam (c : Chip) (k : Nat) (x : NetPort) : (setPort k x c).cam = c.cam := rfl
@[simp] theorem setPort_loops (c : Chip) (k : Nat) (x : NetPort) : (setPort k x c).loops = c.loops := rfl
@[simp] theorem setPort_lpes (c : Chip) (k : Nat) (x : NetPort) : (setPort k x c).lpes = c.lpes := rfl
@[simp] theorem setPort_sups (c : Chip) (k : Nat) (x : NetPort) : (setPort k x c).sups = c.sups := rfl
@[simp] theorem setPort_buses (c : Chip) (k : Nat) (x : NetPort) : (setPort k x c).buses = c.buses := rfl
@[simp] theorem setPort_mods (c : Chip) (k : Nat) (x : NetPort) : (setPort k x c).mods = c.mods := rfl
@[simp] theorem setPort_fbks (c : Chip) (k : Nat) (x : NetPort) : (setPort k x c).fbks = c.fbks := rfl
@[simp] theorem setPort_snls (c : Chip) (k : Nat) (x : NetPort) : (setPort k x c).snls = c.snls := rfl
@[simp] theorem setPort_adcs (c : Chip) (k : Nat) (x : NetPort) : (setPort k x c).adcs = c.adcs := rfl
@[simp] theorem setPort_sdfs (c : Chip) (k : Nat) (x : NetPort) : (setPort k x c).sdfs = c.sdfs := rfl
@[simp] theorem setPort_sdfSeq (c : Chip) (k : Nat) (x : NetPort) : (setPort k x c).sdfSeq = c.sdfSeq := rfl
@[simp] theorem setPort_cores (c : Chip) (k : Nat) (x : NetPort) : (setPort k x c).cores = c.cores := rfl
@[simp] theorem setPort_dsp (c : Chip) (k : Nat) (x : NetPort) : (setPort k x c).dsp = c.dsp := rfl
@[simp] theorem setPort_trc (c : Chip) (k : Nat) (x : NetPort) : (setPort k x c).trc = c.trc := rfl
@[simp] theorem setPort_fld (c : Chip) (k : Nat) (x : NetPort) : (setPort k x c).fld = c.fld := rfl
@[simp] theorem setPort_field (c : Chip) (k : Nat) (x : NetPort) : (setPort k x c).field = c.field := rfl
@[simp] theorem setPort_bly (c : Chip) (k : Nat) (x : NetPort) : (setPort k x c).bly = c.bly := rfl
@[simp] theorem setPort_memc (c : Chip) (k : Nat) (x : NetPort) : (setPort k x c).memc = c.memc := rfl
@[simp] theorem setPort_scb (c : Chip) (k : Nat) (x : NetPort) : (setPort k x c).scb = c.scb := rfl
@[simp] theorem setPort_keep (c : Chip) (k : Nat) (x : NetPort) : (setPort k x c).keep = c.keep := rfl
@[simp] theorem setPort_pwr (c : Chip) (k : Nat) (x : NetPort) : (setPort k x c).pwr = c.pwr := rfl
@[simp] theorem setPort_sec (c : Chip) (k : Nat) (x : NetPort) : (setPort k x c).sec = c.sec := rfl
@[simp] theorem setPort_dbg (c : Chip) (k : Nat) (x : NetPort) : (setPort k x c).dbg = c.dbg := rfl
@[simp] theorem setPort_spl (c : Chip) (k : Nat) (x : NetPort) : (setPort k x c).spl = c.spl := rfl
@[simp] theorem setPort_free (c : Chip) (k : Nat) (x : NetPort) : (setPort k x c).free = c.free := rfl
@[simp] theorem setPort_svcSafety (c : Chip) (k : Nat) (x : NetPort) : (setPort k x c).svcSafety = c.svcSafety := rfl
@[simp] theorem setPort_svcPcie (c : Chip) (k : Nat) (x : NetPort) : (setPort k x c).svcPcie = c.svcPcie := rfl
@[simp] theorem setPort_out (c : Chip) (k : Nat) (x : NetPort) : (setPort k x c).out = c.out := rfl

@[simp] theorem setPtp_regs (c : Chip) (k : Nat) (x : PtpPort) : (setPtp k x c).regs = c.regs := rfl
@[simp] theorem setPtp_pages (c : Chip) (k : Nat) (x : PtpPort) : (setPtp k x c).pages = c.pages := rfl
@[simp] theorem setPtp_paths (c : Chip) (k : Nat) (x : PtpPort) : (setPtp k x c).paths = c.paths := rfl
@[simp] theorem setPtp_held (c : Chip) (k : Nat) (x : PtpPort) : (setPtp k x c).held = c.held := rfl
@[simp] theorem setPtp_faultSeq (c : Chip) (k : Nat) (x : PtpPort) : (setPtp k x c).faultSeq = c.faultSeq := rfl
@[simp] theorem setPtp_clk (c : Chip) (k : Nat) (x : PtpPort) : (setPtp k x c).clk = c.clk := rfl
@[simp] theorem setPtp_knt (c : Chip) (k : Nat) (x : PtpPort) : (setPtp k x c).knt = c.knt := rfl
@[simp] theorem setPtp_evt (c : Chip) (k : Nat) (x : PtpPort) : (setPtp k x c).evt = c.evt := rfl
@[simp] theorem setPtp_cmd (c : Chip) (k : Nat) (x : PtpPort) : (setPtp k x c).cmd = c.cmd := rfl
@[simp] theorem setPtp_net (c : Chip) (k : Nat) (x : PtpPort) : (setPtp k x c).net = c.net := rfl
@[simp] theorem setPtp_ycp (c : Chip) (k : Nat) (x : PtpPort) : (setPtp k x c).ycp = c.ycp := rfl
@[simp] theorem setPtp_hfr (c : Chip) (k : Nat) (x : PtpPort) : (setPtp k x c).hfr = c.hfr := rfl
@[simp] theorem setPtp_axes (c : Chip) (k : Nat) (x : PtpPort) : (setPtp k x c).axes = c.axes := rfl
@[simp] theorem setPtp_grps (c : Chip) (k : Nat) (x : PtpPort) : (setPtp k x c).grps = c.grps := rfl
@[simp] theorem setPtp_hits (c : Chip) (k : Nat) (x : PtpPort) : (setPtp k x c).hits = c.hits := rfl
@[simp] theorem setPtp_cam (c : Chip) (k : Nat) (x : PtpPort) : (setPtp k x c).cam = c.cam := rfl
@[simp] theorem setPtp_loops (c : Chip) (k : Nat) (x : PtpPort) : (setPtp k x c).loops = c.loops := rfl
@[simp] theorem setPtp_lpes (c : Chip) (k : Nat) (x : PtpPort) : (setPtp k x c).lpes = c.lpes := rfl
@[simp] theorem setPtp_sups (c : Chip) (k : Nat) (x : PtpPort) : (setPtp k x c).sups = c.sups := rfl
@[simp] theorem setPtp_buses (c : Chip) (k : Nat) (x : PtpPort) : (setPtp k x c).buses = c.buses := rfl
@[simp] theorem setPtp_mods (c : Chip) (k : Nat) (x : PtpPort) : (setPtp k x c).mods = c.mods := rfl
@[simp] theorem setPtp_fbks (c : Chip) (k : Nat) (x : PtpPort) : (setPtp k x c).fbks = c.fbks := rfl
@[simp] theorem setPtp_snls (c : Chip) (k : Nat) (x : PtpPort) : (setPtp k x c).snls = c.snls := rfl
@[simp] theorem setPtp_adcs (c : Chip) (k : Nat) (x : PtpPort) : (setPtp k x c).adcs = c.adcs := rfl
@[simp] theorem setPtp_sdfs (c : Chip) (k : Nat) (x : PtpPort) : (setPtp k x c).sdfs = c.sdfs := rfl
@[simp] theorem setPtp_sdfSeq (c : Chip) (k : Nat) (x : PtpPort) : (setPtp k x c).sdfSeq = c.sdfSeq := rfl
@[simp] theorem setPtp_cores (c : Chip) (k : Nat) (x : PtpPort) : (setPtp k x c).cores = c.cores := rfl
@[simp] theorem setPtp_dsp (c : Chip) (k : Nat) (x : PtpPort) : (setPtp k x c).dsp = c.dsp := rfl
@[simp] theorem setPtp_trc (c : Chip) (k : Nat) (x : PtpPort) : (setPtp k x c).trc = c.trc := rfl
@[simp] theorem setPtp_fld (c : Chip) (k : Nat) (x : PtpPort) : (setPtp k x c).fld = c.fld := rfl
@[simp] theorem setPtp_field (c : Chip) (k : Nat) (x : PtpPort) : (setPtp k x c).field = c.field := rfl
@[simp] theorem setPtp_bly (c : Chip) (k : Nat) (x : PtpPort) : (setPtp k x c).bly = c.bly := rfl
@[simp] theorem setPtp_memc (c : Chip) (k : Nat) (x : PtpPort) : (setPtp k x c).memc = c.memc := rfl
@[simp] theorem setPtp_scb (c : Chip) (k : Nat) (x : PtpPort) : (setPtp k x c).scb = c.scb := rfl
@[simp] theorem setPtp_keep (c : Chip) (k : Nat) (x : PtpPort) : (setPtp k x c).keep = c.keep := rfl
@[simp] theorem setPtp_pwr (c : Chip) (k : Nat) (x : PtpPort) : (setPtp k x c).pwr = c.pwr := rfl
@[simp] theorem setPtp_sec (c : Chip) (k : Nat) (x : PtpPort) : (setPtp k x c).sec = c.sec := rfl
@[simp] theorem setPtp_dbg (c : Chip) (k : Nat) (x : PtpPort) : (setPtp k x c).dbg = c.dbg := rfl
@[simp] theorem setPtp_spl (c : Chip) (k : Nat) (x : PtpPort) : (setPtp k x c).spl = c.spl := rfl
@[simp] theorem setPtp_free (c : Chip) (k : Nat) (x : PtpPort) : (setPtp k x c).free = c.free := rfl
@[simp] theorem setPtp_svcSafety (c : Chip) (k : Nat) (x : PtpPort) : (setPtp k x c).svcSafety = c.svcSafety := rfl
@[simp] theorem setPtp_svcPcie (c : Chip) (k : Nat) (x : PtpPort) : (setPtp k x c).svcPcie = c.svcPcie := rfl
@[simp] theorem setPtp_out (c : Chip) (k : Nat) (x : PtpPort) : (setPtp k x c).out = c.out := rfl

@[simp] theorem setKnot_regs (c : Chip) (k : Nat) (x : Knot) : (setKnot k x c).regs = c.regs := rfl
@[simp] theorem setKnot_pages (c : Chip) (k : Nat) (x : Knot) : (setKnot k x c).pages = c.pages := rfl
@[simp] theorem setKnot_paths (c : Chip) (k : Nat) (x : Knot) : (setKnot k x c).paths = c.paths := rfl
@[simp] theorem setKnot_held (c : Chip) (k : Nat) (x : Knot) : (setKnot k x c).held = c.held := rfl
@[simp] theorem setKnot_faultSeq (c : Chip) (k : Nat) (x : Knot) : (setKnot k x c).faultSeq = c.faultSeq := rfl
@[simp] theorem setKnot_clk (c : Chip) (k : Nat) (x : Knot) : (setKnot k x c).clk = c.clk := rfl
@[simp] theorem setKnot_tim (c : Chip) (k : Nat) (x : Knot) : (setKnot k x c).tim = c.tim := rfl
@[simp] theorem setKnot_evt (c : Chip) (k : Nat) (x : Knot) : (setKnot k x c).evt = c.evt := rfl
@[simp] theorem setKnot_cmd (c : Chip) (k : Nat) (x : Knot) : (setKnot k x c).cmd = c.cmd := rfl
@[simp] theorem setKnot_net (c : Chip) (k : Nat) (x : Knot) : (setKnot k x c).net = c.net := rfl
@[simp] theorem setKnot_ycp (c : Chip) (k : Nat) (x : Knot) : (setKnot k x c).ycp = c.ycp := rfl
@[simp] theorem setKnot_hfr (c : Chip) (k : Nat) (x : Knot) : (setKnot k x c).hfr = c.hfr := rfl
@[simp] theorem setKnot_axes (c : Chip) (k : Nat) (x : Knot) : (setKnot k x c).axes = c.axes := rfl
@[simp] theorem setKnot_grps (c : Chip) (k : Nat) (x : Knot) : (setKnot k x c).grps = c.grps := rfl
@[simp] theorem setKnot_hits (c : Chip) (k : Nat) (x : Knot) : (setKnot k x c).hits = c.hits := rfl
@[simp] theorem setKnot_cam (c : Chip) (k : Nat) (x : Knot) : (setKnot k x c).cam = c.cam := rfl
@[simp] theorem setKnot_loops (c : Chip) (k : Nat) (x : Knot) : (setKnot k x c).loops = c.loops := rfl
@[simp] theorem setKnot_lpes (c : Chip) (k : Nat) (x : Knot) : (setKnot k x c).lpes = c.lpes := rfl
@[simp] theorem setKnot_sups (c : Chip) (k : Nat) (x : Knot) : (setKnot k x c).sups = c.sups := rfl
@[simp] theorem setKnot_buses (c : Chip) (k : Nat) (x : Knot) : (setKnot k x c).buses = c.buses := rfl
@[simp] theorem setKnot_mods (c : Chip) (k : Nat) (x : Knot) : (setKnot k x c).mods = c.mods := rfl
@[simp] theorem setKnot_fbks (c : Chip) (k : Nat) (x : Knot) : (setKnot k x c).fbks = c.fbks := rfl
@[simp] theorem setKnot_snls (c : Chip) (k : Nat) (x : Knot) : (setKnot k x c).snls = c.snls := rfl
@[simp] theorem setKnot_adcs (c : Chip) (k : Nat) (x : Knot) : (setKnot k x c).adcs = c.adcs := rfl
@[simp] theorem setKnot_sdfs (c : Chip) (k : Nat) (x : Knot) : (setKnot k x c).sdfs = c.sdfs := rfl
@[simp] theorem setKnot_sdfSeq (c : Chip) (k : Nat) (x : Knot) : (setKnot k x c).sdfSeq = c.sdfSeq := rfl
@[simp] theorem setKnot_cores (c : Chip) (k : Nat) (x : Knot) : (setKnot k x c).cores = c.cores := rfl
@[simp] theorem setKnot_dsp (c : Chip) (k : Nat) (x : Knot) : (setKnot k x c).dsp = c.dsp := rfl
@[simp] theorem setKnot_trc (c : Chip) (k : Nat) (x : Knot) : (setKnot k x c).trc = c.trc := rfl
@[simp] theorem setKnot_fld (c : Chip) (k : Nat) (x : Knot) : (setKnot k x c).fld = c.fld := rfl
@[simp] theorem setKnot_field (c : Chip) (k : Nat) (x : Knot) : (setKnot k x c).field = c.field := rfl
@[simp] theorem setKnot_bly (c : Chip) (k : Nat) (x : Knot) : (setKnot k x c).bly = c.bly := rfl
@[simp] theorem setKnot_memc (c : Chip) (k : Nat) (x : Knot) : (setKnot k x c).memc = c.memc := rfl
@[simp] theorem setKnot_scb (c : Chip) (k : Nat) (x : Knot) : (setKnot k x c).scb = c.scb := rfl
@[simp] theorem setKnot_keep (c : Chip) (k : Nat) (x : Knot) : (setKnot k x c).keep = c.keep := rfl
@[simp] theorem setKnot_pwr (c : Chip) (k : Nat) (x : Knot) : (setKnot k x c).pwr = c.pwr := rfl
@[simp] theorem setKnot_sec (c : Chip) (k : Nat) (x : Knot) : (setKnot k x c).sec = c.sec := rfl
@[simp] theorem setKnot_dbg (c : Chip) (k : Nat) (x : Knot) : (setKnot k x c).dbg = c.dbg := rfl
@[simp] theorem setKnot_spl (c : Chip) (k : Nat) (x : Knot) : (setKnot k x c).spl = c.spl := rfl
@[simp] theorem setKnot_free (c : Chip) (k : Nat) (x : Knot) : (setKnot k x c).free = c.free := rfl
@[simp] theorem setKnot_svcSafety (c : Chip) (k : Nat) (x : Knot) : (setKnot k x c).svcSafety = c.svcSafety := rfl
@[simp] theorem setKnot_svcPcie (c : Chip) (k : Nat) (x : Knot) : (setKnot k x c).svcPcie = c.svcPcie := rfl
@[simp] theorem setKnot_out (c : Chip) (k : Nat) (x : Knot) : (setKnot k x c).out = c.out := rfl

@[simp] theorem setSlot_regs (c : Chip) (k : Nat) (x : ItemSt) : (setSlot k x c).regs = c.regs := rfl
@[simp] theorem setSlot_pages (c : Chip) (k : Nat) (x : ItemSt) : (setSlot k x c).pages = c.pages := rfl
@[simp] theorem setSlot_paths (c : Chip) (k : Nat) (x : ItemSt) : (setSlot k x c).paths = c.paths := rfl
@[simp] theorem setSlot_held (c : Chip) (k : Nat) (x : ItemSt) : (setSlot k x c).held = c.held := rfl
@[simp] theorem setSlot_faultSeq (c : Chip) (k : Nat) (x : ItemSt) : (setSlot k x c).faultSeq = c.faultSeq := rfl
@[simp] theorem setSlot_clk (c : Chip) (k : Nat) (x : ItemSt) : (setSlot k x c).clk = c.clk := rfl
@[simp] theorem setSlot_tim (c : Chip) (k : Nat) (x : ItemSt) : (setSlot k x c).tim = c.tim := rfl
@[simp] theorem setSlot_knt (c : Chip) (k : Nat) (x : ItemSt) : (setSlot k x c).knt = c.knt := rfl
@[simp] theorem setSlot_evt (c : Chip) (k : Nat) (x : ItemSt) : (setSlot k x c).evt = c.evt := rfl
@[simp] theorem setSlot_cmd (c : Chip) (k : Nat) (x : ItemSt) : (setSlot k x c).cmd = c.cmd := rfl
@[simp] theorem setSlot_net (c : Chip) (k : Nat) (x : ItemSt) : (setSlot k x c).net = c.net := rfl
@[simp] theorem setSlot_ycp (c : Chip) (k : Nat) (x : ItemSt) : (setSlot k x c).ycp = c.ycp := rfl
@[simp] theorem setSlot_hfr (c : Chip) (k : Nat) (x : ItemSt) : (setSlot k x c).hfr = c.hfr := rfl
@[simp] theorem setSlot_axes (c : Chip) (k : Nat) (x : ItemSt) : (setSlot k x c).axes = c.axes := rfl
@[simp] theorem setSlot_grps (c : Chip) (k : Nat) (x : ItemSt) : (setSlot k x c).grps = c.grps := rfl
@[simp] theorem setSlot_hits (c : Chip) (k : Nat) (x : ItemSt) : (setSlot k x c).hits = c.hits := rfl
@[simp] theorem setSlot_cam (c : Chip) (k : Nat) (x : ItemSt) : (setSlot k x c).cam = c.cam := rfl
@[simp] theorem setSlot_loops (c : Chip) (k : Nat) (x : ItemSt) : (setSlot k x c).loops = c.loops := rfl
@[simp] theorem setSlot_lpes (c : Chip) (k : Nat) (x : ItemSt) : (setSlot k x c).lpes = c.lpes := rfl
@[simp] theorem setSlot_sups (c : Chip) (k : Nat) (x : ItemSt) : (setSlot k x c).sups = c.sups := rfl
@[simp] theorem setSlot_buses (c : Chip) (k : Nat) (x : ItemSt) : (setSlot k x c).buses = c.buses := rfl
@[simp] theorem setSlot_mods (c : Chip) (k : Nat) (x : ItemSt) : (setSlot k x c).mods = c.mods := rfl
@[simp] theorem setSlot_fbks (c : Chip) (k : Nat) (x : ItemSt) : (setSlot k x c).fbks = c.fbks := rfl
@[simp] theorem setSlot_snls (c : Chip) (k : Nat) (x : ItemSt) : (setSlot k x c).snls = c.snls := rfl
@[simp] theorem setSlot_adcs (c : Chip) (k : Nat) (x : ItemSt) : (setSlot k x c).adcs = c.adcs := rfl
@[simp] theorem setSlot_sdfs (c : Chip) (k : Nat) (x : ItemSt) : (setSlot k x c).sdfs = c.sdfs := rfl
@[simp] theorem setSlot_sdfSeq (c : Chip) (k : Nat) (x : ItemSt) : (setSlot k x c).sdfSeq = c.sdfSeq := rfl
@[simp] theorem setSlot_cores (c : Chip) (k : Nat) (x : ItemSt) : (setSlot k x c).cores = c.cores := rfl
@[simp] theorem setSlot_trc (c : Chip) (k : Nat) (x : ItemSt) : (setSlot k x c).trc = c.trc := rfl
@[simp] theorem setSlot_fld (c : Chip) (k : Nat) (x : ItemSt) : (setSlot k x c).fld = c.fld := rfl
@[simp] theorem setSlot_field (c : Chip) (k : Nat) (x : ItemSt) : (setSlot k x c).field = c.field := rfl
@[simp] theorem setSlot_bly (c : Chip) (k : Nat) (x : ItemSt) : (setSlot k x c).bly = c.bly := rfl
@[simp] theorem setSlot_memc (c : Chip) (k : Nat) (x : ItemSt) : (setSlot k x c).memc = c.memc := rfl
@[simp] theorem setSlot_scb (c : Chip) (k : Nat) (x : ItemSt) : (setSlot k x c).scb = c.scb := rfl
@[simp] theorem setSlot_keep (c : Chip) (k : Nat) (x : ItemSt) : (setSlot k x c).keep = c.keep := rfl
@[simp] theorem setSlot_pwr (c : Chip) (k : Nat) (x : ItemSt) : (setSlot k x c).pwr = c.pwr := rfl
@[simp] theorem setSlot_sec (c : Chip) (k : Nat) (x : ItemSt) : (setSlot k x c).sec = c.sec := rfl
@[simp] theorem setSlot_dbg (c : Chip) (k : Nat) (x : ItemSt) : (setSlot k x c).dbg = c.dbg := rfl
@[simp] theorem setSlot_spl (c : Chip) (k : Nat) (x : ItemSt) : (setSlot k x c).spl = c.spl := rfl
@[simp] theorem setSlot_free (c : Chip) (k : Nat) (x : ItemSt) : (setSlot k x c).free = c.free := rfl
@[simp] theorem setSlot_svcSafety (c : Chip) (k : Nat) (x : ItemSt) : (setSlot k x c).svcSafety = c.svcSafety := rfl
@[simp] theorem setSlot_svcPcie (c : Chip) (k : Nat) (x : ItemSt) : (setSlot k x c).svcPcie = c.svcPcie := rfl
@[simp] theorem setSlot_out (c : Chip) (k : Nat) (x : ItemSt) : (setSlot k x c).out = c.out := rfl

@[simp] theorem setFlow_regs (c : Chip) (k : Nat) (x : FlowSt) : (setFlow k x c).regs = c.regs := rfl
@[simp] theorem setFlow_pages (c : Chip) (k : Nat) (x : FlowSt) : (setFlow k x c).pages = c.pages := rfl
@[simp] theorem setFlow_paths (c : Chip) (k : Nat) (x : FlowSt) : (setFlow k x c).paths = c.paths := rfl
@[simp] theorem setFlow_held (c : Chip) (k : Nat) (x : FlowSt) : (setFlow k x c).held = c.held := rfl
@[simp] theorem setFlow_faultSeq (c : Chip) (k : Nat) (x : FlowSt) : (setFlow k x c).faultSeq = c.faultSeq := rfl
@[simp] theorem setFlow_clk (c : Chip) (k : Nat) (x : FlowSt) : (setFlow k x c).clk = c.clk := rfl
@[simp] theorem setFlow_tim (c : Chip) (k : Nat) (x : FlowSt) : (setFlow k x c).tim = c.tim := rfl
@[simp] theorem setFlow_knt (c : Chip) (k : Nat) (x : FlowSt) : (setFlow k x c).knt = c.knt := rfl
@[simp] theorem setFlow_evt (c : Chip) (k : Nat) (x : FlowSt) : (setFlow k x c).evt = c.evt := rfl
@[simp] theorem setFlow_cmd (c : Chip) (k : Nat) (x : FlowSt) : (setFlow k x c).cmd = c.cmd := rfl
@[simp] theorem setFlow_net (c : Chip) (k : Nat) (x : FlowSt) : (setFlow k x c).net = c.net := rfl
@[simp] theorem setFlow_ycp (c : Chip) (k : Nat) (x : FlowSt) : (setFlow k x c).ycp = c.ycp := rfl
@[simp] theorem setFlow_hfr (c : Chip) (k : Nat) (x : FlowSt) : (setFlow k x c).hfr = c.hfr := rfl
@[simp] theorem setFlow_axes (c : Chip) (k : Nat) (x : FlowSt) : (setFlow k x c).axes = c.axes := rfl
@[simp] theorem setFlow_grps (c : Chip) (k : Nat) (x : FlowSt) : (setFlow k x c).grps = c.grps := rfl
@[simp] theorem setFlow_hits (c : Chip) (k : Nat) (x : FlowSt) : (setFlow k x c).hits = c.hits := rfl
@[simp] theorem setFlow_cam (c : Chip) (k : Nat) (x : FlowSt) : (setFlow k x c).cam = c.cam := rfl
@[simp] theorem setFlow_loops (c : Chip) (k : Nat) (x : FlowSt) : (setFlow k x c).loops = c.loops := rfl
@[simp] theorem setFlow_lpes (c : Chip) (k : Nat) (x : FlowSt) : (setFlow k x c).lpes = c.lpes := rfl
@[simp] theorem setFlow_sups (c : Chip) (k : Nat) (x : FlowSt) : (setFlow k x c).sups = c.sups := rfl
@[simp] theorem setFlow_buses (c : Chip) (k : Nat) (x : FlowSt) : (setFlow k x c).buses = c.buses := rfl
@[simp] theorem setFlow_mods (c : Chip) (k : Nat) (x : FlowSt) : (setFlow k x c).mods = c.mods := rfl
@[simp] theorem setFlow_fbks (c : Chip) (k : Nat) (x : FlowSt) : (setFlow k x c).fbks = c.fbks := rfl
@[simp] theorem setFlow_snls (c : Chip) (k : Nat) (x : FlowSt) : (setFlow k x c).snls = c.snls := rfl
@[simp] theorem setFlow_adcs (c : Chip) (k : Nat) (x : FlowSt) : (setFlow k x c).adcs = c.adcs := rfl
@[simp] theorem setFlow_sdfs (c : Chip) (k : Nat) (x : FlowSt) : (setFlow k x c).sdfs = c.sdfs := rfl
@[simp] theorem setFlow_sdfSeq (c : Chip) (k : Nat) (x : FlowSt) : (setFlow k x c).sdfSeq = c.sdfSeq := rfl
@[simp] theorem setFlow_cores (c : Chip) (k : Nat) (x : FlowSt) : (setFlow k x c).cores = c.cores := rfl
@[simp] theorem setFlow_trc (c : Chip) (k : Nat) (x : FlowSt) : (setFlow k x c).trc = c.trc := rfl
@[simp] theorem setFlow_fld (c : Chip) (k : Nat) (x : FlowSt) : (setFlow k x c).fld = c.fld := rfl
@[simp] theorem setFlow_field (c : Chip) (k : Nat) (x : FlowSt) : (setFlow k x c).field = c.field := rfl
@[simp] theorem setFlow_bly (c : Chip) (k : Nat) (x : FlowSt) : (setFlow k x c).bly = c.bly := rfl
@[simp] theorem setFlow_memc (c : Chip) (k : Nat) (x : FlowSt) : (setFlow k x c).memc = c.memc := rfl
@[simp] theorem setFlow_scb (c : Chip) (k : Nat) (x : FlowSt) : (setFlow k x c).scb = c.scb := rfl
@[simp] theorem setFlow_keep (c : Chip) (k : Nat) (x : FlowSt) : (setFlow k x c).keep = c.keep := rfl
@[simp] theorem setFlow_pwr (c : Chip) (k : Nat) (x : FlowSt) : (setFlow k x c).pwr = c.pwr := rfl
@[simp] theorem setFlow_sec (c : Chip) (k : Nat) (x : FlowSt) : (setFlow k x c).sec = c.sec := rfl
@[simp] theorem setFlow_dbg (c : Chip) (k : Nat) (x : FlowSt) : (setFlow k x c).dbg = c.dbg := rfl
@[simp] theorem setFlow_spl (c : Chip) (k : Nat) (x : FlowSt) : (setFlow k x c).spl = c.spl := rfl
@[simp] theorem setFlow_free (c : Chip) (k : Nat) (x : FlowSt) : (setFlow k x c).free = c.free := rfl
@[simp] theorem setFlow_svcSafety (c : Chip) (k : Nat) (x : FlowSt) : (setFlow k x c).svcSafety = c.svcSafety := rfl
@[simp] theorem setFlow_svcPcie (c : Chip) (k : Nat) (x : FlowSt) : (setFlow k x c).svcPcie = c.svcPcie := rfl
@[simp] theorem setFlow_out (c : Chip) (k : Nat) (x : FlowSt) : (setFlow k x c).out = c.out := rfl

@[simp] theorem setSub_regs (c : Chip) (k : Nat) (x : Sub) : (setSub k x c).regs = c.regs := rfl
@[simp] theorem setSub_pages (c : Chip) (k : Nat) (x : Sub) : (setSub k x c).pages = c.pages := rfl
@[simp] theorem setSub_paths (c : Chip) (k : Nat) (x : Sub) : (setSub k x c).paths = c.paths := rfl
@[simp] theorem setSub_held (c : Chip) (k : Nat) (x : Sub) : (setSub k x c).held = c.held := rfl
@[simp] theorem setSub_faultSeq (c : Chip) (k : Nat) (x : Sub) : (setSub k x c).faultSeq = c.faultSeq := rfl
@[simp] theorem setSub_clk (c : Chip) (k : Nat) (x : Sub) : (setSub k x c).clk = c.clk := rfl
@[simp] theorem setSub_tim (c : Chip) (k : Nat) (x : Sub) : (setSub k x c).tim = c.tim := rfl
@[simp] theorem setSub_knt (c : Chip) (k : Nat) (x : Sub) : (setSub k x c).knt = c.knt := rfl
@[simp] theorem setSub_evt (c : Chip) (k : Nat) (x : Sub) : (setSub k x c).evt = c.evt := rfl
@[simp] theorem setSub_cmd (c : Chip) (k : Nat) (x : Sub) : (setSub k x c).cmd = c.cmd := rfl
@[simp] theorem setSub_net (c : Chip) (k : Nat) (x : Sub) : (setSub k x c).net = c.net := rfl
@[simp] theorem setSub_ycp (c : Chip) (k : Nat) (x : Sub) : (setSub k x c).ycp = c.ycp := rfl
@[simp] theorem setSub_axes (c : Chip) (k : Nat) (x : Sub) : (setSub k x c).axes = c.axes := rfl
@[simp] theorem setSub_grps (c : Chip) (k : Nat) (x : Sub) : (setSub k x c).grps = c.grps := rfl
@[simp] theorem setSub_hits (c : Chip) (k : Nat) (x : Sub) : (setSub k x c).hits = c.hits := rfl
@[simp] theorem setSub_cam (c : Chip) (k : Nat) (x : Sub) : (setSub k x c).cam = c.cam := rfl
@[simp] theorem setSub_loops (c : Chip) (k : Nat) (x : Sub) : (setSub k x c).loops = c.loops := rfl
@[simp] theorem setSub_lpes (c : Chip) (k : Nat) (x : Sub) : (setSub k x c).lpes = c.lpes := rfl
@[simp] theorem setSub_sups (c : Chip) (k : Nat) (x : Sub) : (setSub k x c).sups = c.sups := rfl
@[simp] theorem setSub_buses (c : Chip) (k : Nat) (x : Sub) : (setSub k x c).buses = c.buses := rfl
@[simp] theorem setSub_mods (c : Chip) (k : Nat) (x : Sub) : (setSub k x c).mods = c.mods := rfl
@[simp] theorem setSub_fbks (c : Chip) (k : Nat) (x : Sub) : (setSub k x c).fbks = c.fbks := rfl
@[simp] theorem setSub_snls (c : Chip) (k : Nat) (x : Sub) : (setSub k x c).snls = c.snls := rfl
@[simp] theorem setSub_adcs (c : Chip) (k : Nat) (x : Sub) : (setSub k x c).adcs = c.adcs := rfl
@[simp] theorem setSub_sdfs (c : Chip) (k : Nat) (x : Sub) : (setSub k x c).sdfs = c.sdfs := rfl
@[simp] theorem setSub_sdfSeq (c : Chip) (k : Nat) (x : Sub) : (setSub k x c).sdfSeq = c.sdfSeq := rfl
@[simp] theorem setSub_cores (c : Chip) (k : Nat) (x : Sub) : (setSub k x c).cores = c.cores := rfl
@[simp] theorem setSub_dsp (c : Chip) (k : Nat) (x : Sub) : (setSub k x c).dsp = c.dsp := rfl
@[simp] theorem setSub_trc (c : Chip) (k : Nat) (x : Sub) : (setSub k x c).trc = c.trc := rfl
@[simp] theorem setSub_fld (c : Chip) (k : Nat) (x : Sub) : (setSub k x c).fld = c.fld := rfl
@[simp] theorem setSub_field (c : Chip) (k : Nat) (x : Sub) : (setSub k x c).field = c.field := rfl
@[simp] theorem setSub_bly (c : Chip) (k : Nat) (x : Sub) : (setSub k x c).bly = c.bly := rfl
@[simp] theorem setSub_memc (c : Chip) (k : Nat) (x : Sub) : (setSub k x c).memc = c.memc := rfl
@[simp] theorem setSub_scb (c : Chip) (k : Nat) (x : Sub) : (setSub k x c).scb = c.scb := rfl
@[simp] theorem setSub_keep (c : Chip) (k : Nat) (x : Sub) : (setSub k x c).keep = c.keep := rfl
@[simp] theorem setSub_pwr (c : Chip) (k : Nat) (x : Sub) : (setSub k x c).pwr = c.pwr := rfl
@[simp] theorem setSub_sec (c : Chip) (k : Nat) (x : Sub) : (setSub k x c).sec = c.sec := rfl
@[simp] theorem setSub_dbg (c : Chip) (k : Nat) (x : Sub) : (setSub k x c).dbg = c.dbg := rfl
@[simp] theorem setSub_spl (c : Chip) (k : Nat) (x : Sub) : (setSub k x c).spl = c.spl := rfl
@[simp] theorem setSub_free (c : Chip) (k : Nat) (x : Sub) : (setSub k x c).free = c.free := rfl
@[simp] theorem setSub_svcSafety (c : Chip) (k : Nat) (x : Sub) : (setSub k x c).svcSafety = c.svcSafety := rfl
@[simp] theorem setSub_svcPcie (c : Chip) (k : Nat) (x : Sub) : (setSub k x c).svcPcie = c.svcPcie := rfl
@[simp] theorem setSub_out (c : Chip) (k : Nat) (x : Sub) : (setSub k x c).out = c.out := rfl

@[simp] theorem modAdc_regs (c : Chip) (k : Nat) (f : AdcSt → AdcSt) : (modAdc k f c).regs = c.regs := rfl
@[simp] theorem modAdc_pages (c : Chip) (k : Nat) (f : AdcSt → AdcSt) : (modAdc k f c).pages = c.pages := rfl
@[simp] theorem modAdc_paths (c : Chip) (k : Nat) (f : AdcSt → AdcSt) : (modAdc k f c).paths = c.paths := rfl
@[simp] theorem modAdc_held (c : Chip) (k : Nat) (f : AdcSt → AdcSt) : (modAdc k f c).held = c.held := rfl
@[simp] theorem modAdc_faultSeq (c : Chip) (k : Nat) (f : AdcSt → AdcSt) : (modAdc k f c).faultSeq = c.faultSeq := rfl
@[simp] theorem modAdc_clk (c : Chip) (k : Nat) (f : AdcSt → AdcSt) : (modAdc k f c).clk = c.clk := rfl
@[simp] theorem modAdc_tim (c : Chip) (k : Nat) (f : AdcSt → AdcSt) : (modAdc k f c).tim = c.tim := rfl
@[simp] theorem modAdc_knt (c : Chip) (k : Nat) (f : AdcSt → AdcSt) : (modAdc k f c).knt = c.knt := rfl
@[simp] theorem modAdc_evt (c : Chip) (k : Nat) (f : AdcSt → AdcSt) : (modAdc k f c).evt = c.evt := rfl
@[simp] theorem modAdc_cmd (c : Chip) (k : Nat) (f : AdcSt → AdcSt) : (modAdc k f c).cmd = c.cmd := rfl
@[simp] theorem modAdc_net (c : Chip) (k : Nat) (f : AdcSt → AdcSt) : (modAdc k f c).net = c.net := rfl
@[simp] theorem modAdc_ycp (c : Chip) (k : Nat) (f : AdcSt → AdcSt) : (modAdc k f c).ycp = c.ycp := rfl
@[simp] theorem modAdc_hfr (c : Chip) (k : Nat) (f : AdcSt → AdcSt) : (modAdc k f c).hfr = c.hfr := rfl
@[simp] theorem modAdc_axes (c : Chip) (k : Nat) (f : AdcSt → AdcSt) : (modAdc k f c).axes = c.axes := rfl
@[simp] theorem modAdc_grps (c : Chip) (k : Nat) (f : AdcSt → AdcSt) : (modAdc k f c).grps = c.grps := rfl
@[simp] theorem modAdc_hits (c : Chip) (k : Nat) (f : AdcSt → AdcSt) : (modAdc k f c).hits = c.hits := rfl
@[simp] theorem modAdc_cam (c : Chip) (k : Nat) (f : AdcSt → AdcSt) : (modAdc k f c).cam = c.cam := rfl
@[simp] theorem modAdc_loops (c : Chip) (k : Nat) (f : AdcSt → AdcSt) : (modAdc k f c).loops = c.loops := rfl
@[simp] theorem modAdc_lpes (c : Chip) (k : Nat) (f : AdcSt → AdcSt) : (modAdc k f c).lpes = c.lpes := rfl
@[simp] theorem modAdc_sups (c : Chip) (k : Nat) (f : AdcSt → AdcSt) : (modAdc k f c).sups = c.sups := rfl
@[simp] theorem modAdc_buses (c : Chip) (k : Nat) (f : AdcSt → AdcSt) : (modAdc k f c).buses = c.buses := rfl
@[simp] theorem modAdc_mods (c : Chip) (k : Nat) (f : AdcSt → AdcSt) : (modAdc k f c).mods = c.mods := rfl
@[simp] theorem modAdc_fbks (c : Chip) (k : Nat) (f : AdcSt → AdcSt) : (modAdc k f c).fbks = c.fbks := rfl
@[simp] theorem modAdc_snls (c : Chip) (k : Nat) (f : AdcSt → AdcSt) : (modAdc k f c).snls = c.snls := rfl
@[simp] theorem modAdc_sdfs (c : Chip) (k : Nat) (f : AdcSt → AdcSt) : (modAdc k f c).sdfs = c.sdfs := rfl
@[simp] theorem modAdc_sdfSeq (c : Chip) (k : Nat) (f : AdcSt → AdcSt) : (modAdc k f c).sdfSeq = c.sdfSeq := rfl
@[simp] theorem modAdc_cores (c : Chip) (k : Nat) (f : AdcSt → AdcSt) : (modAdc k f c).cores = c.cores := rfl
@[simp] theorem modAdc_dsp (c : Chip) (k : Nat) (f : AdcSt → AdcSt) : (modAdc k f c).dsp = c.dsp := rfl
@[simp] theorem modAdc_trc (c : Chip) (k : Nat) (f : AdcSt → AdcSt) : (modAdc k f c).trc = c.trc := rfl
@[simp] theorem modAdc_fld (c : Chip) (k : Nat) (f : AdcSt → AdcSt) : (modAdc k f c).fld = c.fld := rfl
@[simp] theorem modAdc_field (c : Chip) (k : Nat) (f : AdcSt → AdcSt) : (modAdc k f c).field = c.field := rfl
@[simp] theorem modAdc_bly (c : Chip) (k : Nat) (f : AdcSt → AdcSt) : (modAdc k f c).bly = c.bly := rfl
@[simp] theorem modAdc_memc (c : Chip) (k : Nat) (f : AdcSt → AdcSt) : (modAdc k f c).memc = c.memc := rfl
@[simp] theorem modAdc_scb (c : Chip) (k : Nat) (f : AdcSt → AdcSt) : (modAdc k f c).scb = c.scb := rfl
@[simp] theorem modAdc_keep (c : Chip) (k : Nat) (f : AdcSt → AdcSt) : (modAdc k f c).keep = c.keep := rfl
@[simp] theorem modAdc_pwr (c : Chip) (k : Nat) (f : AdcSt → AdcSt) : (modAdc k f c).pwr = c.pwr := rfl
@[simp] theorem modAdc_sec (c : Chip) (k : Nat) (f : AdcSt → AdcSt) : (modAdc k f c).sec = c.sec := rfl
@[simp] theorem modAdc_dbg (c : Chip) (k : Nat) (f : AdcSt → AdcSt) : (modAdc k f c).dbg = c.dbg := rfl
@[simp] theorem modAdc_spl (c : Chip) (k : Nat) (f : AdcSt → AdcSt) : (modAdc k f c).spl = c.spl := rfl
@[simp] theorem modAdc_free (c : Chip) (k : Nat) (f : AdcSt → AdcSt) : (modAdc k f c).free = c.free := rfl
@[simp] theorem modAdc_svcSafety (c : Chip) (k : Nat) (f : AdcSt → AdcSt) : (modAdc k f c).svcSafety = c.svcSafety := rfl
@[simp] theorem modAdc_svcPcie (c : Chip) (k : Nat) (f : AdcSt → AdcSt) : (modAdc k f c).svcPcie = c.svcPcie := rfl
@[simp] theorem modAdc_out (c : Chip) (k : Nat) (f : AdcSt → AdcSt) : (modAdc k f c).out = c.out := rfl

@[simp] theorem modAxis_regs (c : Chip) (k : Nat) (f : Axis → Axis) : (modAxis k f c).regs = c.regs := rfl
@[simp] theorem modAxis_pages (c : Chip) (k : Nat) (f : Axis → Axis) : (modAxis k f c).pages = c.pages := rfl
@[simp] theorem modAxis_paths (c : Chip) (k : Nat) (f : Axis → Axis) : (modAxis k f c).paths = c.paths := rfl
@[simp] theorem modAxis_held (c : Chip) (k : Nat) (f : Axis → Axis) : (modAxis k f c).held = c.held := rfl
@[simp] theorem modAxis_faultSeq (c : Chip) (k : Nat) (f : Axis → Axis) : (modAxis k f c).faultSeq = c.faultSeq := rfl
@[simp] theorem modAxis_clk (c : Chip) (k : Nat) (f : Axis → Axis) : (modAxis k f c).clk = c.clk := rfl
@[simp] theorem modAxis_tim (c : Chip) (k : Nat) (f : Axis → Axis) : (modAxis k f c).tim = c.tim := rfl
@[simp] theorem modAxis_knt (c : Chip) (k : Nat) (f : Axis → Axis) : (modAxis k f c).knt = c.knt := rfl
@[simp] theorem modAxis_evt (c : Chip) (k : Nat) (f : Axis → Axis) : (modAxis k f c).evt = c.evt := rfl
@[simp] theorem modAxis_cmd (c : Chip) (k : Nat) (f : Axis → Axis) : (modAxis k f c).cmd = c.cmd := rfl
@[simp] theorem modAxis_net (c : Chip) (k : Nat) (f : Axis → Axis) : (modAxis k f c).net = c.net := rfl
@[simp] theorem modAxis_ycp (c : Chip) (k : Nat) (f : Axis → Axis) : (modAxis k f c).ycp = c.ycp := rfl
@[simp] theorem modAxis_hfr (c : Chip) (k : Nat) (f : Axis → Axis) : (modAxis k f c).hfr = c.hfr := rfl
@[simp] theorem modAxis_grps (c : Chip) (k : Nat) (f : Axis → Axis) : (modAxis k f c).grps = c.grps := rfl
@[simp] theorem modAxis_hits (c : Chip) (k : Nat) (f : Axis → Axis) : (modAxis k f c).hits = c.hits := rfl
@[simp] theorem modAxis_cam (c : Chip) (k : Nat) (f : Axis → Axis) : (modAxis k f c).cam = c.cam := rfl
@[simp] theorem modAxis_loops (c : Chip) (k : Nat) (f : Axis → Axis) : (modAxis k f c).loops = c.loops := rfl
@[simp] theorem modAxis_lpes (c : Chip) (k : Nat) (f : Axis → Axis) : (modAxis k f c).lpes = c.lpes := rfl
@[simp] theorem modAxis_sups (c : Chip) (k : Nat) (f : Axis → Axis) : (modAxis k f c).sups = c.sups := rfl
@[simp] theorem modAxis_buses (c : Chip) (k : Nat) (f : Axis → Axis) : (modAxis k f c).buses = c.buses := rfl
@[simp] theorem modAxis_mods (c : Chip) (k : Nat) (f : Axis → Axis) : (modAxis k f c).mods = c.mods := rfl
@[simp] theorem modAxis_fbks (c : Chip) (k : Nat) (f : Axis → Axis) : (modAxis k f c).fbks = c.fbks := rfl
@[simp] theorem modAxis_snls (c : Chip) (k : Nat) (f : Axis → Axis) : (modAxis k f c).snls = c.snls := rfl
@[simp] theorem modAxis_adcs (c : Chip) (k : Nat) (f : Axis → Axis) : (modAxis k f c).adcs = c.adcs := rfl
@[simp] theorem modAxis_sdfs (c : Chip) (k : Nat) (f : Axis → Axis) : (modAxis k f c).sdfs = c.sdfs := rfl
@[simp] theorem modAxis_sdfSeq (c : Chip) (k : Nat) (f : Axis → Axis) : (modAxis k f c).sdfSeq = c.sdfSeq := rfl
@[simp] theorem modAxis_cores (c : Chip) (k : Nat) (f : Axis → Axis) : (modAxis k f c).cores = c.cores := rfl
@[simp] theorem modAxis_dsp (c : Chip) (k : Nat) (f : Axis → Axis) : (modAxis k f c).dsp = c.dsp := rfl
@[simp] theorem modAxis_trc (c : Chip) (k : Nat) (f : Axis → Axis) : (modAxis k f c).trc = c.trc := rfl
@[simp] theorem modAxis_fld (c : Chip) (k : Nat) (f : Axis → Axis) : (modAxis k f c).fld = c.fld := rfl
@[simp] theorem modAxis_field (c : Chip) (k : Nat) (f : Axis → Axis) : (modAxis k f c).field = c.field := rfl
@[simp] theorem modAxis_bly (c : Chip) (k : Nat) (f : Axis → Axis) : (modAxis k f c).bly = c.bly := rfl
@[simp] theorem modAxis_memc (c : Chip) (k : Nat) (f : Axis → Axis) : (modAxis k f c).memc = c.memc := rfl
@[simp] theorem modAxis_scb (c : Chip) (k : Nat) (f : Axis → Axis) : (modAxis k f c).scb = c.scb := rfl
@[simp] theorem modAxis_keep (c : Chip) (k : Nat) (f : Axis → Axis) : (modAxis k f c).keep = c.keep := rfl
@[simp] theorem modAxis_pwr (c : Chip) (k : Nat) (f : Axis → Axis) : (modAxis k f c).pwr = c.pwr := rfl
@[simp] theorem modAxis_sec (c : Chip) (k : Nat) (f : Axis → Axis) : (modAxis k f c).sec = c.sec := rfl
@[simp] theorem modAxis_dbg (c : Chip) (k : Nat) (f : Axis → Axis) : (modAxis k f c).dbg = c.dbg := rfl
@[simp] theorem modAxis_spl (c : Chip) (k : Nat) (f : Axis → Axis) : (modAxis k f c).spl = c.spl := rfl
@[simp] theorem modAxis_free (c : Chip) (k : Nat) (f : Axis → Axis) : (modAxis k f c).free = c.free := rfl
@[simp] theorem modAxis_svcSafety (c : Chip) (k : Nat) (f : Axis → Axis) : (modAxis k f c).svcSafety = c.svcSafety := rfl
@[simp] theorem modAxis_svcPcie (c : Chip) (k : Nat) (f : Axis → Axis) : (modAxis k f c).svcPcie = c.svcPcie := rfl
@[simp] theorem modAxis_out (c : Chip) (k : Nat) (f : Axis → Axis) : (modAxis k f c).out = c.out := rfl

@[simp] theorem modSup_regs (c : Chip) (k : Nat) (f : SupAx → SupAx) : (modSup k f c).regs = c.regs := rfl
@[simp] theorem modSup_pages (c : Chip) (k : Nat) (f : SupAx → SupAx) : (modSup k f c).pages = c.pages := rfl
@[simp] theorem modSup_paths (c : Chip) (k : Nat) (f : SupAx → SupAx) : (modSup k f c).paths = c.paths := rfl
@[simp] theorem modSup_held (c : Chip) (k : Nat) (f : SupAx → SupAx) : (modSup k f c).held = c.held := rfl
@[simp] theorem modSup_faultSeq (c : Chip) (k : Nat) (f : SupAx → SupAx) : (modSup k f c).faultSeq = c.faultSeq := rfl
@[simp] theorem modSup_clk (c : Chip) (k : Nat) (f : SupAx → SupAx) : (modSup k f c).clk = c.clk := rfl
@[simp] theorem modSup_tim (c : Chip) (k : Nat) (f : SupAx → SupAx) : (modSup k f c).tim = c.tim := rfl
@[simp] theorem modSup_knt (c : Chip) (k : Nat) (f : SupAx → SupAx) : (modSup k f c).knt = c.knt := rfl
@[simp] theorem modSup_evt (c : Chip) (k : Nat) (f : SupAx → SupAx) : (modSup k f c).evt = c.evt := rfl
@[simp] theorem modSup_cmd (c : Chip) (k : Nat) (f : SupAx → SupAx) : (modSup k f c).cmd = c.cmd := rfl
@[simp] theorem modSup_net (c : Chip) (k : Nat) (f : SupAx → SupAx) : (modSup k f c).net = c.net := rfl
@[simp] theorem modSup_ycp (c : Chip) (k : Nat) (f : SupAx → SupAx) : (modSup k f c).ycp = c.ycp := rfl
@[simp] theorem modSup_hfr (c : Chip) (k : Nat) (f : SupAx → SupAx) : (modSup k f c).hfr = c.hfr := rfl
@[simp] theorem modSup_axes (c : Chip) (k : Nat) (f : SupAx → SupAx) : (modSup k f c).axes = c.axes := rfl
@[simp] theorem modSup_grps (c : Chip) (k : Nat) (f : SupAx → SupAx) : (modSup k f c).grps = c.grps := rfl
@[simp] theorem modSup_hits (c : Chip) (k : Nat) (f : SupAx → SupAx) : (modSup k f c).hits = c.hits := rfl
@[simp] theorem modSup_cam (c : Chip) (k : Nat) (f : SupAx → SupAx) : (modSup k f c).cam = c.cam := rfl
@[simp] theorem modSup_loops (c : Chip) (k : Nat) (f : SupAx → SupAx) : (modSup k f c).loops = c.loops := rfl
@[simp] theorem modSup_lpes (c : Chip) (k : Nat) (f : SupAx → SupAx) : (modSup k f c).lpes = c.lpes := rfl
@[simp] theorem modSup_buses (c : Chip) (k : Nat) (f : SupAx → SupAx) : (modSup k f c).buses = c.buses := rfl
@[simp] theorem modSup_mods (c : Chip) (k : Nat) (f : SupAx → SupAx) : (modSup k f c).mods = c.mods := rfl
@[simp] theorem modSup_fbks (c : Chip) (k : Nat) (f : SupAx → SupAx) : (modSup k f c).fbks = c.fbks := rfl
@[simp] theorem modSup_snls (c : Chip) (k : Nat) (f : SupAx → SupAx) : (modSup k f c).snls = c.snls := rfl
@[simp] theorem modSup_adcs (c : Chip) (k : Nat) (f : SupAx → SupAx) : (modSup k f c).adcs = c.adcs := rfl
@[simp] theorem modSup_sdfs (c : Chip) (k : Nat) (f : SupAx → SupAx) : (modSup k f c).sdfs = c.sdfs := rfl
@[simp] theorem modSup_sdfSeq (c : Chip) (k : Nat) (f : SupAx → SupAx) : (modSup k f c).sdfSeq = c.sdfSeq := rfl
@[simp] theorem modSup_cores (c : Chip) (k : Nat) (f : SupAx → SupAx) : (modSup k f c).cores = c.cores := rfl
@[simp] theorem modSup_dsp (c : Chip) (k : Nat) (f : SupAx → SupAx) : (modSup k f c).dsp = c.dsp := rfl
@[simp] theorem modSup_trc (c : Chip) (k : Nat) (f : SupAx → SupAx) : (modSup k f c).trc = c.trc := rfl
@[simp] theorem modSup_fld (c : Chip) (k : Nat) (f : SupAx → SupAx) : (modSup k f c).fld = c.fld := rfl
@[simp] theorem modSup_field (c : Chip) (k : Nat) (f : SupAx → SupAx) : (modSup k f c).field = c.field := rfl
@[simp] theorem modSup_bly (c : Chip) (k : Nat) (f : SupAx → SupAx) : (modSup k f c).bly = c.bly := rfl
@[simp] theorem modSup_memc (c : Chip) (k : Nat) (f : SupAx → SupAx) : (modSup k f c).memc = c.memc := rfl
@[simp] theorem modSup_scb (c : Chip) (k : Nat) (f : SupAx → SupAx) : (modSup k f c).scb = c.scb := rfl
@[simp] theorem modSup_keep (c : Chip) (k : Nat) (f : SupAx → SupAx) : (modSup k f c).keep = c.keep := rfl
@[simp] theorem modSup_pwr (c : Chip) (k : Nat) (f : SupAx → SupAx) : (modSup k f c).pwr = c.pwr := rfl
@[simp] theorem modSup_sec (c : Chip) (k : Nat) (f : SupAx → SupAx) : (modSup k f c).sec = c.sec := rfl
@[simp] theorem modSup_dbg (c : Chip) (k : Nat) (f : SupAx → SupAx) : (modSup k f c).dbg = c.dbg := rfl
@[simp] theorem modSup_spl (c : Chip) (k : Nat) (f : SupAx → SupAx) : (modSup k f c).spl = c.spl := rfl
@[simp] theorem modSup_free (c : Chip) (k : Nat) (f : SupAx → SupAx) : (modSup k f c).free = c.free := rfl
@[simp] theorem modSup_svcSafety (c : Chip) (k : Nat) (f : SupAx → SupAx) : (modSup k f c).svcSafety = c.svcSafety := rfl
@[simp] theorem modSup_svcPcie (c : Chip) (k : Nat) (f : SupAx → SupAx) : (modSup k f c).svcPcie = c.svcPcie := rfl
@[simp] theorem modSup_out (c : Chip) (k : Nat) (f : SupAx → SupAx) : (modSup k f c).out = c.out := rfl

@[simp] theorem modMod_regs (c : Chip) (k : Nat) (f : ModSt → ModSt) : (modMod k f c).regs = c.regs := rfl
@[simp] theorem modMod_pages (c : Chip) (k : Nat) (f : ModSt → ModSt) : (modMod k f c).pages = c.pages := rfl
@[simp] theorem modMod_paths (c : Chip) (k : Nat) (f : ModSt → ModSt) : (modMod k f c).paths = c.paths := rfl
@[simp] theorem modMod_held (c : Chip) (k : Nat) (f : ModSt → ModSt) : (modMod k f c).held = c.held := rfl
@[simp] theorem modMod_faultSeq (c : Chip) (k : Nat) (f : ModSt → ModSt) : (modMod k f c).faultSeq = c.faultSeq := rfl
@[simp] theorem modMod_clk (c : Chip) (k : Nat) (f : ModSt → ModSt) : (modMod k f c).clk = c.clk := rfl
@[simp] theorem modMod_tim (c : Chip) (k : Nat) (f : ModSt → ModSt) : (modMod k f c).tim = c.tim := rfl
@[simp] theorem modMod_knt (c : Chip) (k : Nat) (f : ModSt → ModSt) : (modMod k f c).knt = c.knt := rfl
@[simp] theorem modMod_evt (c : Chip) (k : Nat) (f : ModSt → ModSt) : (modMod k f c).evt = c.evt := rfl
@[simp] theorem modMod_cmd (c : Chip) (k : Nat) (f : ModSt → ModSt) : (modMod k f c).cmd = c.cmd := rfl
@[simp] theorem modMod_net (c : Chip) (k : Nat) (f : ModSt → ModSt) : (modMod k f c).net = c.net := rfl
@[simp] theorem modMod_ycp (c : Chip) (k : Nat) (f : ModSt → ModSt) : (modMod k f c).ycp = c.ycp := rfl
@[simp] theorem modMod_hfr (c : Chip) (k : Nat) (f : ModSt → ModSt) : (modMod k f c).hfr = c.hfr := rfl
@[simp] theorem modMod_axes (c : Chip) (k : Nat) (f : ModSt → ModSt) : (modMod k f c).axes = c.axes := rfl
@[simp] theorem modMod_grps (c : Chip) (k : Nat) (f : ModSt → ModSt) : (modMod k f c).grps = c.grps := rfl
@[simp] theorem modMod_hits (c : Chip) (k : Nat) (f : ModSt → ModSt) : (modMod k f c).hits = c.hits := rfl
@[simp] theorem modMod_cam (c : Chip) (k : Nat) (f : ModSt → ModSt) : (modMod k f c).cam = c.cam := rfl
@[simp] theorem modMod_loops (c : Chip) (k : Nat) (f : ModSt → ModSt) : (modMod k f c).loops = c.loops := rfl
@[simp] theorem modMod_lpes (c : Chip) (k : Nat) (f : ModSt → ModSt) : (modMod k f c).lpes = c.lpes := rfl
@[simp] theorem modMod_sups (c : Chip) (k : Nat) (f : ModSt → ModSt) : (modMod k f c).sups = c.sups := rfl
@[simp] theorem modMod_buses (c : Chip) (k : Nat) (f : ModSt → ModSt) : (modMod k f c).buses = c.buses := rfl
@[simp] theorem modMod_fbks (c : Chip) (k : Nat) (f : ModSt → ModSt) : (modMod k f c).fbks = c.fbks := rfl
@[simp] theorem modMod_snls (c : Chip) (k : Nat) (f : ModSt → ModSt) : (modMod k f c).snls = c.snls := rfl
@[simp] theorem modMod_adcs (c : Chip) (k : Nat) (f : ModSt → ModSt) : (modMod k f c).adcs = c.adcs := rfl
@[simp] theorem modMod_sdfs (c : Chip) (k : Nat) (f : ModSt → ModSt) : (modMod k f c).sdfs = c.sdfs := rfl
@[simp] theorem modMod_sdfSeq (c : Chip) (k : Nat) (f : ModSt → ModSt) : (modMod k f c).sdfSeq = c.sdfSeq := rfl
@[simp] theorem modMod_cores (c : Chip) (k : Nat) (f : ModSt → ModSt) : (modMod k f c).cores = c.cores := rfl
@[simp] theorem modMod_dsp (c : Chip) (k : Nat) (f : ModSt → ModSt) : (modMod k f c).dsp = c.dsp := rfl
@[simp] theorem modMod_trc (c : Chip) (k : Nat) (f : ModSt → ModSt) : (modMod k f c).trc = c.trc := rfl
@[simp] theorem modMod_fld (c : Chip) (k : Nat) (f : ModSt → ModSt) : (modMod k f c).fld = c.fld := rfl
@[simp] theorem modMod_field (c : Chip) (k : Nat) (f : ModSt → ModSt) : (modMod k f c).field = c.field := rfl
@[simp] theorem modMod_bly (c : Chip) (k : Nat) (f : ModSt → ModSt) : (modMod k f c).bly = c.bly := rfl
@[simp] theorem modMod_memc (c : Chip) (k : Nat) (f : ModSt → ModSt) : (modMod k f c).memc = c.memc := rfl
@[simp] theorem modMod_scb (c : Chip) (k : Nat) (f : ModSt → ModSt) : (modMod k f c).scb = c.scb := rfl
@[simp] theorem modMod_keep (c : Chip) (k : Nat) (f : ModSt → ModSt) : (modMod k f c).keep = c.keep := rfl
@[simp] theorem modMod_pwr (c : Chip) (k : Nat) (f : ModSt → ModSt) : (modMod k f c).pwr = c.pwr := rfl
@[simp] theorem modMod_sec (c : Chip) (k : Nat) (f : ModSt → ModSt) : (modMod k f c).sec = c.sec := rfl
@[simp] theorem modMod_dbg (c : Chip) (k : Nat) (f : ModSt → ModSt) : (modMod k f c).dbg = c.dbg := rfl
@[simp] theorem modMod_spl (c : Chip) (k : Nat) (f : ModSt → ModSt) : (modMod k f c).spl = c.spl := rfl
@[simp] theorem modMod_free (c : Chip) (k : Nat) (f : ModSt → ModSt) : (modMod k f c).free = c.free := rfl
@[simp] theorem modMod_svcSafety (c : Chip) (k : Nat) (f : ModSt → ModSt) : (modMod k f c).svcSafety = c.svcSafety := rfl
@[simp] theorem modMod_svcPcie (c : Chip) (k : Nat) (f : ModSt → ModSt) : (modMod k f c).svcPcie = c.svcPcie := rfl
@[simp] theorem modMod_out (c : Chip) (k : Nat) (f : ModSt → ModSt) : (modMod k f c).out = c.out := rfl

@[simp] theorem modFbk_regs (c : Chip) (k : Nat) (f : FbkSt → FbkSt) : (modFbk k f c).regs = c.regs := rfl
@[simp] theorem modFbk_pages (c : Chip) (k : Nat) (f : FbkSt → FbkSt) : (modFbk k f c).pages = c.pages := rfl
@[simp] theorem modFbk_paths (c : Chip) (k : Nat) (f : FbkSt → FbkSt) : (modFbk k f c).paths = c.paths := rfl
@[simp] theorem modFbk_held (c : Chip) (k : Nat) (f : FbkSt → FbkSt) : (modFbk k f c).held = c.held := rfl
@[simp] theorem modFbk_faultSeq (c : Chip) (k : Nat) (f : FbkSt → FbkSt) : (modFbk k f c).faultSeq = c.faultSeq := rfl
@[simp] theorem modFbk_clk (c : Chip) (k : Nat) (f : FbkSt → FbkSt) : (modFbk k f c).clk = c.clk := rfl
@[simp] theorem modFbk_tim (c : Chip) (k : Nat) (f : FbkSt → FbkSt) : (modFbk k f c).tim = c.tim := rfl
@[simp] theorem modFbk_knt (c : Chip) (k : Nat) (f : FbkSt → FbkSt) : (modFbk k f c).knt = c.knt := rfl
@[simp] theorem modFbk_evt (c : Chip) (k : Nat) (f : FbkSt → FbkSt) : (modFbk k f c).evt = c.evt := rfl
@[simp] theorem modFbk_cmd (c : Chip) (k : Nat) (f : FbkSt → FbkSt) : (modFbk k f c).cmd = c.cmd := rfl
@[simp] theorem modFbk_net (c : Chip) (k : Nat) (f : FbkSt → FbkSt) : (modFbk k f c).net = c.net := rfl
@[simp] theorem modFbk_ycp (c : Chip) (k : Nat) (f : FbkSt → FbkSt) : (modFbk k f c).ycp = c.ycp := rfl
@[simp] theorem modFbk_hfr (c : Chip) (k : Nat) (f : FbkSt → FbkSt) : (modFbk k f c).hfr = c.hfr := rfl
@[simp] theorem modFbk_axes (c : Chip) (k : Nat) (f : FbkSt → FbkSt) : (modFbk k f c).axes = c.axes := rfl
@[simp] theorem modFbk_grps (c : Chip) (k : Nat) (f : FbkSt → FbkSt) : (modFbk k f c).grps = c.grps := rfl
@[simp] theorem modFbk_hits (c : Chip) (k : Nat) (f : FbkSt → FbkSt) : (modFbk k f c).hits = c.hits := rfl
@[simp] theorem modFbk_cam (c : Chip) (k : Nat) (f : FbkSt → FbkSt) : (modFbk k f c).cam = c.cam := rfl
@[simp] theorem modFbk_loops (c : Chip) (k : Nat) (f : FbkSt → FbkSt) : (modFbk k f c).loops = c.loops := rfl
@[simp] theorem modFbk_lpes (c : Chip) (k : Nat) (f : FbkSt → FbkSt) : (modFbk k f c).lpes = c.lpes := rfl
@[simp] theorem modFbk_sups (c : Chip) (k : Nat) (f : FbkSt → FbkSt) : (modFbk k f c).sups = c.sups := rfl
@[simp] theorem modFbk_buses (c : Chip) (k : Nat) (f : FbkSt → FbkSt) : (modFbk k f c).buses = c.buses := rfl
@[simp] theorem modFbk_mods (c : Chip) (k : Nat) (f : FbkSt → FbkSt) : (modFbk k f c).mods = c.mods := rfl
@[simp] theorem modFbk_snls (c : Chip) (k : Nat) (f : FbkSt → FbkSt) : (modFbk k f c).snls = c.snls := rfl
@[simp] theorem modFbk_adcs (c : Chip) (k : Nat) (f : FbkSt → FbkSt) : (modFbk k f c).adcs = c.adcs := rfl
@[simp] theorem modFbk_sdfs (c : Chip) (k : Nat) (f : FbkSt → FbkSt) : (modFbk k f c).sdfs = c.sdfs := rfl
@[simp] theorem modFbk_sdfSeq (c : Chip) (k : Nat) (f : FbkSt → FbkSt) : (modFbk k f c).sdfSeq = c.sdfSeq := rfl
@[simp] theorem modFbk_cores (c : Chip) (k : Nat) (f : FbkSt → FbkSt) : (modFbk k f c).cores = c.cores := rfl
@[simp] theorem modFbk_dsp (c : Chip) (k : Nat) (f : FbkSt → FbkSt) : (modFbk k f c).dsp = c.dsp := rfl
@[simp] theorem modFbk_trc (c : Chip) (k : Nat) (f : FbkSt → FbkSt) : (modFbk k f c).trc = c.trc := rfl
@[simp] theorem modFbk_fld (c : Chip) (k : Nat) (f : FbkSt → FbkSt) : (modFbk k f c).fld = c.fld := rfl
@[simp] theorem modFbk_field (c : Chip) (k : Nat) (f : FbkSt → FbkSt) : (modFbk k f c).field = c.field := rfl
@[simp] theorem modFbk_bly (c : Chip) (k : Nat) (f : FbkSt → FbkSt) : (modFbk k f c).bly = c.bly := rfl
@[simp] theorem modFbk_memc (c : Chip) (k : Nat) (f : FbkSt → FbkSt) : (modFbk k f c).memc = c.memc := rfl
@[simp] theorem modFbk_scb (c : Chip) (k : Nat) (f : FbkSt → FbkSt) : (modFbk k f c).scb = c.scb := rfl
@[simp] theorem modFbk_keep (c : Chip) (k : Nat) (f : FbkSt → FbkSt) : (modFbk k f c).keep = c.keep := rfl
@[simp] theorem modFbk_pwr (c : Chip) (k : Nat) (f : FbkSt → FbkSt) : (modFbk k f c).pwr = c.pwr := rfl
@[simp] theorem modFbk_sec (c : Chip) (k : Nat) (f : FbkSt → FbkSt) : (modFbk k f c).sec = c.sec := rfl
@[simp] theorem modFbk_dbg (c : Chip) (k : Nat) (f : FbkSt → FbkSt) : (modFbk k f c).dbg = c.dbg := rfl
@[simp] theorem modFbk_spl (c : Chip) (k : Nat) (f : FbkSt → FbkSt) : (modFbk k f c).spl = c.spl := rfl
@[simp] theorem modFbk_free (c : Chip) (k : Nat) (f : FbkSt → FbkSt) : (modFbk k f c).free = c.free := rfl
@[simp] theorem modFbk_svcSafety (c : Chip) (k : Nat) (f : FbkSt → FbkSt) : (modFbk k f c).svcSafety = c.svcSafety := rfl
@[simp] theorem modFbk_svcPcie (c : Chip) (k : Nat) (f : FbkSt → FbkSt) : (modFbk k f c).svcPcie = c.svcPcie := rfl
@[simp] theorem modFbk_out (c : Chip) (k : Nat) (f : FbkSt → FbkSt) : (modFbk k f c).out = c.out := rfl

@[simp] theorem modCore_regs (c : Chip) (k : Nat) (f : CoreSt → CoreSt) : (modCore k f c).regs = c.regs := rfl
@[simp] theorem modCore_pages (c : Chip) (k : Nat) (f : CoreSt → CoreSt) : (modCore k f c).pages = c.pages := rfl
@[simp] theorem modCore_paths (c : Chip) (k : Nat) (f : CoreSt → CoreSt) : (modCore k f c).paths = c.paths := rfl
@[simp] theorem modCore_held (c : Chip) (k : Nat) (f : CoreSt → CoreSt) : (modCore k f c).held = c.held := rfl
@[simp] theorem modCore_faultSeq (c : Chip) (k : Nat) (f : CoreSt → CoreSt) : (modCore k f c).faultSeq = c.faultSeq := rfl
@[simp] theorem modCore_clk (c : Chip) (k : Nat) (f : CoreSt → CoreSt) : (modCore k f c).clk = c.clk := rfl
@[simp] theorem modCore_tim (c : Chip) (k : Nat) (f : CoreSt → CoreSt) : (modCore k f c).tim = c.tim := rfl
@[simp] theorem modCore_knt (c : Chip) (k : Nat) (f : CoreSt → CoreSt) : (modCore k f c).knt = c.knt := rfl
@[simp] theorem modCore_evt (c : Chip) (k : Nat) (f : CoreSt → CoreSt) : (modCore k f c).evt = c.evt := rfl
@[simp] theorem modCore_cmd (c : Chip) (k : Nat) (f : CoreSt → CoreSt) : (modCore k f c).cmd = c.cmd := rfl
@[simp] theorem modCore_net (c : Chip) (k : Nat) (f : CoreSt → CoreSt) : (modCore k f c).net = c.net := rfl
@[simp] theorem modCore_ycp (c : Chip) (k : Nat) (f : CoreSt → CoreSt) : (modCore k f c).ycp = c.ycp := rfl
@[simp] theorem modCore_hfr (c : Chip) (k : Nat) (f : CoreSt → CoreSt) : (modCore k f c).hfr = c.hfr := rfl
@[simp] theorem modCore_axes (c : Chip) (k : Nat) (f : CoreSt → CoreSt) : (modCore k f c).axes = c.axes := rfl
@[simp] theorem modCore_grps (c : Chip) (k : Nat) (f : CoreSt → CoreSt) : (modCore k f c).grps = c.grps := rfl
@[simp] theorem modCore_hits (c : Chip) (k : Nat) (f : CoreSt → CoreSt) : (modCore k f c).hits = c.hits := rfl
@[simp] theorem modCore_cam (c : Chip) (k : Nat) (f : CoreSt → CoreSt) : (modCore k f c).cam = c.cam := rfl
@[simp] theorem modCore_loops (c : Chip) (k : Nat) (f : CoreSt → CoreSt) : (modCore k f c).loops = c.loops := rfl
@[simp] theorem modCore_lpes (c : Chip) (k : Nat) (f : CoreSt → CoreSt) : (modCore k f c).lpes = c.lpes := rfl
@[simp] theorem modCore_sups (c : Chip) (k : Nat) (f : CoreSt → CoreSt) : (modCore k f c).sups = c.sups := rfl
@[simp] theorem modCore_buses (c : Chip) (k : Nat) (f : CoreSt → CoreSt) : (modCore k f c).buses = c.buses := rfl
@[simp] theorem modCore_mods (c : Chip) (k : Nat) (f : CoreSt → CoreSt) : (modCore k f c).mods = c.mods := rfl
@[simp] theorem modCore_fbks (c : Chip) (k : Nat) (f : CoreSt → CoreSt) : (modCore k f c).fbks = c.fbks := rfl
@[simp] theorem modCore_snls (c : Chip) (k : Nat) (f : CoreSt → CoreSt) : (modCore k f c).snls = c.snls := rfl
@[simp] theorem modCore_adcs (c : Chip) (k : Nat) (f : CoreSt → CoreSt) : (modCore k f c).adcs = c.adcs := rfl
@[simp] theorem modCore_sdfs (c : Chip) (k : Nat) (f : CoreSt → CoreSt) : (modCore k f c).sdfs = c.sdfs := rfl
@[simp] theorem modCore_sdfSeq (c : Chip) (k : Nat) (f : CoreSt → CoreSt) : (modCore k f c).sdfSeq = c.sdfSeq := rfl
@[simp] theorem modCore_dsp (c : Chip) (k : Nat) (f : CoreSt → CoreSt) : (modCore k f c).dsp = c.dsp := rfl
@[simp] theorem modCore_trc (c : Chip) (k : Nat) (f : CoreSt → CoreSt) : (modCore k f c).trc = c.trc := rfl
@[simp] theorem modCore_fld (c : Chip) (k : Nat) (f : CoreSt → CoreSt) : (modCore k f c).fld = c.fld := rfl
@[simp] theorem modCore_field (c : Chip) (k : Nat) (f : CoreSt → CoreSt) : (modCore k f c).field = c.field := rfl
@[simp] theorem modCore_bly (c : Chip) (k : Nat) (f : CoreSt → CoreSt) : (modCore k f c).bly = c.bly := rfl
@[simp] theorem modCore_memc (c : Chip) (k : Nat) (f : CoreSt → CoreSt) : (modCore k f c).memc = c.memc := rfl
@[simp] theorem modCore_scb (c : Chip) (k : Nat) (f : CoreSt → CoreSt) : (modCore k f c).scb = c.scb := rfl
@[simp] theorem modCore_keep (c : Chip) (k : Nat) (f : CoreSt → CoreSt) : (modCore k f c).keep = c.keep := rfl
@[simp] theorem modCore_pwr (c : Chip) (k : Nat) (f : CoreSt → CoreSt) : (modCore k f c).pwr = c.pwr := rfl
@[simp] theorem modCore_sec (c : Chip) (k : Nat) (f : CoreSt → CoreSt) : (modCore k f c).sec = c.sec := rfl
@[simp] theorem modCore_dbg (c : Chip) (k : Nat) (f : CoreSt → CoreSt) : (modCore k f c).dbg = c.dbg := rfl
@[simp] theorem modCore_spl (c : Chip) (k : Nat) (f : CoreSt → CoreSt) : (modCore k f c).spl = c.spl := rfl
@[simp] theorem modCore_free (c : Chip) (k : Nat) (f : CoreSt → CoreSt) : (modCore k f c).free = c.free := rfl
@[simp] theorem modCore_svcSafety (c : Chip) (k : Nat) (f : CoreSt → CoreSt) : (modCore k f c).svcSafety = c.svcSafety := rfl
@[simp] theorem modCore_svcPcie (c : Chip) (k : Nat) (f : CoreSt → CoreSt) : (modCore k f c).svcPcie = c.svcPcie := rfl
@[simp] theorem modCore_out (c : Chip) (k : Nat) (f : CoreSt → CoreSt) : (modCore k f c).out = c.out := rfl

@[simp] theorem modSnl_regs (c : Chip) (k : Nat) (f : SnlSt → SnlSt) : (modSnl k f c).regs = c.regs := rfl
@[simp] theorem modSnl_pages (c : Chip) (k : Nat) (f : SnlSt → SnlSt) : (modSnl k f c).pages = c.pages := rfl
@[simp] theorem modSnl_paths (c : Chip) (k : Nat) (f : SnlSt → SnlSt) : (modSnl k f c).paths = c.paths := rfl
@[simp] theorem modSnl_held (c : Chip) (k : Nat) (f : SnlSt → SnlSt) : (modSnl k f c).held = c.held := rfl
@[simp] theorem modSnl_faultSeq (c : Chip) (k : Nat) (f : SnlSt → SnlSt) : (modSnl k f c).faultSeq = c.faultSeq := rfl
@[simp] theorem modSnl_clk (c : Chip) (k : Nat) (f : SnlSt → SnlSt) : (modSnl k f c).clk = c.clk := rfl
@[simp] theorem modSnl_tim (c : Chip) (k : Nat) (f : SnlSt → SnlSt) : (modSnl k f c).tim = c.tim := rfl
@[simp] theorem modSnl_knt (c : Chip) (k : Nat) (f : SnlSt → SnlSt) : (modSnl k f c).knt = c.knt := rfl
@[simp] theorem modSnl_evt (c : Chip) (k : Nat) (f : SnlSt → SnlSt) : (modSnl k f c).evt = c.evt := rfl
@[simp] theorem modSnl_cmd (c : Chip) (k : Nat) (f : SnlSt → SnlSt) : (modSnl k f c).cmd = c.cmd := rfl
@[simp] theorem modSnl_net (c : Chip) (k : Nat) (f : SnlSt → SnlSt) : (modSnl k f c).net = c.net := rfl
@[simp] theorem modSnl_ycp (c : Chip) (k : Nat) (f : SnlSt → SnlSt) : (modSnl k f c).ycp = c.ycp := rfl
@[simp] theorem modSnl_hfr (c : Chip) (k : Nat) (f : SnlSt → SnlSt) : (modSnl k f c).hfr = c.hfr := rfl
@[simp] theorem modSnl_axes (c : Chip) (k : Nat) (f : SnlSt → SnlSt) : (modSnl k f c).axes = c.axes := rfl
@[simp] theorem modSnl_grps (c : Chip) (k : Nat) (f : SnlSt → SnlSt) : (modSnl k f c).grps = c.grps := rfl
@[simp] theorem modSnl_hits (c : Chip) (k : Nat) (f : SnlSt → SnlSt) : (modSnl k f c).hits = c.hits := rfl
@[simp] theorem modSnl_cam (c : Chip) (k : Nat) (f : SnlSt → SnlSt) : (modSnl k f c).cam = c.cam := rfl
@[simp] theorem modSnl_loops (c : Chip) (k : Nat) (f : SnlSt → SnlSt) : (modSnl k f c).loops = c.loops := rfl
@[simp] theorem modSnl_lpes (c : Chip) (k : Nat) (f : SnlSt → SnlSt) : (modSnl k f c).lpes = c.lpes := rfl
@[simp] theorem modSnl_sups (c : Chip) (k : Nat) (f : SnlSt → SnlSt) : (modSnl k f c).sups = c.sups := rfl
@[simp] theorem modSnl_buses (c : Chip) (k : Nat) (f : SnlSt → SnlSt) : (modSnl k f c).buses = c.buses := rfl
@[simp] theorem modSnl_mods (c : Chip) (k : Nat) (f : SnlSt → SnlSt) : (modSnl k f c).mods = c.mods := rfl
@[simp] theorem modSnl_fbks (c : Chip) (k : Nat) (f : SnlSt → SnlSt) : (modSnl k f c).fbks = c.fbks := rfl
@[simp] theorem modSnl_adcs (c : Chip) (k : Nat) (f : SnlSt → SnlSt) : (modSnl k f c).adcs = c.adcs := rfl
@[simp] theorem modSnl_sdfs (c : Chip) (k : Nat) (f : SnlSt → SnlSt) : (modSnl k f c).sdfs = c.sdfs := rfl
@[simp] theorem modSnl_sdfSeq (c : Chip) (k : Nat) (f : SnlSt → SnlSt) : (modSnl k f c).sdfSeq = c.sdfSeq := rfl
@[simp] theorem modSnl_cores (c : Chip) (k : Nat) (f : SnlSt → SnlSt) : (modSnl k f c).cores = c.cores := rfl
@[simp] theorem modSnl_dsp (c : Chip) (k : Nat) (f : SnlSt → SnlSt) : (modSnl k f c).dsp = c.dsp := rfl
@[simp] theorem modSnl_trc (c : Chip) (k : Nat) (f : SnlSt → SnlSt) : (modSnl k f c).trc = c.trc := rfl
@[simp] theorem modSnl_fld (c : Chip) (k : Nat) (f : SnlSt → SnlSt) : (modSnl k f c).fld = c.fld := rfl
@[simp] theorem modSnl_field (c : Chip) (k : Nat) (f : SnlSt → SnlSt) : (modSnl k f c).field = c.field := rfl
@[simp] theorem modSnl_bly (c : Chip) (k : Nat) (f : SnlSt → SnlSt) : (modSnl k f c).bly = c.bly := rfl
@[simp] theorem modSnl_memc (c : Chip) (k : Nat) (f : SnlSt → SnlSt) : (modSnl k f c).memc = c.memc := rfl
@[simp] theorem modSnl_scb (c : Chip) (k : Nat) (f : SnlSt → SnlSt) : (modSnl k f c).scb = c.scb := rfl
@[simp] theorem modSnl_keep (c : Chip) (k : Nat) (f : SnlSt → SnlSt) : (modSnl k f c).keep = c.keep := rfl
@[simp] theorem modSnl_pwr (c : Chip) (k : Nat) (f : SnlSt → SnlSt) : (modSnl k f c).pwr = c.pwr := rfl
@[simp] theorem modSnl_sec (c : Chip) (k : Nat) (f : SnlSt → SnlSt) : (modSnl k f c).sec = c.sec := rfl
@[simp] theorem modSnl_dbg (c : Chip) (k : Nat) (f : SnlSt → SnlSt) : (modSnl k f c).dbg = c.dbg := rfl
@[simp] theorem modSnl_spl (c : Chip) (k : Nat) (f : SnlSt → SnlSt) : (modSnl k f c).spl = c.spl := rfl
@[simp] theorem modSnl_free (c : Chip) (k : Nat) (f : SnlSt → SnlSt) : (modSnl k f c).free = c.free := rfl
@[simp] theorem modSnl_svcSafety (c : Chip) (k : Nat) (f : SnlSt → SnlSt) : (modSnl k f c).svcSafety = c.svcSafety := rfl
@[simp] theorem modSnl_svcPcie (c : Chip) (k : Nat) (f : SnlSt → SnlSt) : (modSnl k f c).svcPcie = c.svcPcie := rfl
@[simp] theorem modSnl_out (c : Chip) (k : Nat) (f : SnlSt → SnlSt) : (modSnl k f c).out = c.out := rfl

@[simp] theorem modPort_regs (c : Chip) (k : Nat) (f : NetPort → NetPort) : (modPort k f c).regs = c.regs := rfl
@[simp] theorem modPort_pages (c : Chip) (k : Nat) (f : NetPort → NetPort) : (modPort k f c).pages = c.pages := rfl
@[simp] theorem modPort_paths (c : Chip) (k : Nat) (f : NetPort → NetPort) : (modPort k f c).paths = c.paths := rfl
@[simp] theorem modPort_held (c : Chip) (k : Nat) (f : NetPort → NetPort) : (modPort k f c).held = c.held := rfl
@[simp] theorem modPort_faultSeq (c : Chip) (k : Nat) (f : NetPort → NetPort) : (modPort k f c).faultSeq = c.faultSeq := rfl
@[simp] theorem modPort_clk (c : Chip) (k : Nat) (f : NetPort → NetPort) : (modPort k f c).clk = c.clk := rfl
@[simp] theorem modPort_tim (c : Chip) (k : Nat) (f : NetPort → NetPort) : (modPort k f c).tim = c.tim := rfl
@[simp] theorem modPort_knt (c : Chip) (k : Nat) (f : NetPort → NetPort) : (modPort k f c).knt = c.knt := rfl
@[simp] theorem modPort_evt (c : Chip) (k : Nat) (f : NetPort → NetPort) : (modPort k f c).evt = c.evt := rfl
@[simp] theorem modPort_cmd (c : Chip) (k : Nat) (f : NetPort → NetPort) : (modPort k f c).cmd = c.cmd := rfl
@[simp] theorem modPort_ycp (c : Chip) (k : Nat) (f : NetPort → NetPort) : (modPort k f c).ycp = c.ycp := rfl
@[simp] theorem modPort_hfr (c : Chip) (k : Nat) (f : NetPort → NetPort) : (modPort k f c).hfr = c.hfr := rfl
@[simp] theorem modPort_axes (c : Chip) (k : Nat) (f : NetPort → NetPort) : (modPort k f c).axes = c.axes := rfl
@[simp] theorem modPort_grps (c : Chip) (k : Nat) (f : NetPort → NetPort) : (modPort k f c).grps = c.grps := rfl
@[simp] theorem modPort_hits (c : Chip) (k : Nat) (f : NetPort → NetPort) : (modPort k f c).hits = c.hits := rfl
@[simp] theorem modPort_cam (c : Chip) (k : Nat) (f : NetPort → NetPort) : (modPort k f c).cam = c.cam := rfl
@[simp] theorem modPort_loops (c : Chip) (k : Nat) (f : NetPort → NetPort) : (modPort k f c).loops = c.loops := rfl
@[simp] theorem modPort_lpes (c : Chip) (k : Nat) (f : NetPort → NetPort) : (modPort k f c).lpes = c.lpes := rfl
@[simp] theorem modPort_sups (c : Chip) (k : Nat) (f : NetPort → NetPort) : (modPort k f c).sups = c.sups := rfl
@[simp] theorem modPort_buses (c : Chip) (k : Nat) (f : NetPort → NetPort) : (modPort k f c).buses = c.buses := rfl
@[simp] theorem modPort_mods (c : Chip) (k : Nat) (f : NetPort → NetPort) : (modPort k f c).mods = c.mods := rfl
@[simp] theorem modPort_fbks (c : Chip) (k : Nat) (f : NetPort → NetPort) : (modPort k f c).fbks = c.fbks := rfl
@[simp] theorem modPort_snls (c : Chip) (k : Nat) (f : NetPort → NetPort) : (modPort k f c).snls = c.snls := rfl
@[simp] theorem modPort_adcs (c : Chip) (k : Nat) (f : NetPort → NetPort) : (modPort k f c).adcs = c.adcs := rfl
@[simp] theorem modPort_sdfs (c : Chip) (k : Nat) (f : NetPort → NetPort) : (modPort k f c).sdfs = c.sdfs := rfl
@[simp] theorem modPort_sdfSeq (c : Chip) (k : Nat) (f : NetPort → NetPort) : (modPort k f c).sdfSeq = c.sdfSeq := rfl
@[simp] theorem modPort_cores (c : Chip) (k : Nat) (f : NetPort → NetPort) : (modPort k f c).cores = c.cores := rfl
@[simp] theorem modPort_dsp (c : Chip) (k : Nat) (f : NetPort → NetPort) : (modPort k f c).dsp = c.dsp := rfl
@[simp] theorem modPort_trc (c : Chip) (k : Nat) (f : NetPort → NetPort) : (modPort k f c).trc = c.trc := rfl
@[simp] theorem modPort_fld (c : Chip) (k : Nat) (f : NetPort → NetPort) : (modPort k f c).fld = c.fld := rfl
@[simp] theorem modPort_field (c : Chip) (k : Nat) (f : NetPort → NetPort) : (modPort k f c).field = c.field := rfl
@[simp] theorem modPort_bly (c : Chip) (k : Nat) (f : NetPort → NetPort) : (modPort k f c).bly = c.bly := rfl
@[simp] theorem modPort_memc (c : Chip) (k : Nat) (f : NetPort → NetPort) : (modPort k f c).memc = c.memc := rfl
@[simp] theorem modPort_scb (c : Chip) (k : Nat) (f : NetPort → NetPort) : (modPort k f c).scb = c.scb := rfl
@[simp] theorem modPort_keep (c : Chip) (k : Nat) (f : NetPort → NetPort) : (modPort k f c).keep = c.keep := rfl
@[simp] theorem modPort_pwr (c : Chip) (k : Nat) (f : NetPort → NetPort) : (modPort k f c).pwr = c.pwr := rfl
@[simp] theorem modPort_sec (c : Chip) (k : Nat) (f : NetPort → NetPort) : (modPort k f c).sec = c.sec := rfl
@[simp] theorem modPort_dbg (c : Chip) (k : Nat) (f : NetPort → NetPort) : (modPort k f c).dbg = c.dbg := rfl
@[simp] theorem modPort_spl (c : Chip) (k : Nat) (f : NetPort → NetPort) : (modPort k f c).spl = c.spl := rfl
@[simp] theorem modPort_free (c : Chip) (k : Nat) (f : NetPort → NetPort) : (modPort k f c).free = c.free := rfl
@[simp] theorem modPort_svcSafety (c : Chip) (k : Nat) (f : NetPort → NetPort) : (modPort k f c).svcSafety = c.svcSafety := rfl
@[simp] theorem modPort_svcPcie (c : Chip) (k : Nat) (f : NetPort → NetPort) : (modPort k f c).svcPcie = c.svcPcie := rfl
@[simp] theorem modPort_out (c : Chip) (k : Nat) (f : NetPort → NetPort) : (modPort k f c).out = c.out := rfl

@[simp] theorem modSession_regs (c : Chip) (k : Nat) (f : Session → Session) : (modSession k f c).regs = c.regs := rfl
@[simp] theorem modSession_pages (c : Chip) (k : Nat) (f : Session → Session) : (modSession k f c).pages = c.pages := rfl
@[simp] theorem modSession_paths (c : Chip) (k : Nat) (f : Session → Session) : (modSession k f c).paths = c.paths := rfl
@[simp] theorem modSession_held (c : Chip) (k : Nat) (f : Session → Session) : (modSession k f c).held = c.held := rfl
@[simp] theorem modSession_faultSeq (c : Chip) (k : Nat) (f : Session → Session) : (modSession k f c).faultSeq = c.faultSeq := rfl
@[simp] theorem modSession_clk (c : Chip) (k : Nat) (f : Session → Session) : (modSession k f c).clk = c.clk := rfl
@[simp] theorem modSession_tim (c : Chip) (k : Nat) (f : Session → Session) : (modSession k f c).tim = c.tim := rfl
@[simp] theorem modSession_knt (c : Chip) (k : Nat) (f : Session → Session) : (modSession k f c).knt = c.knt := rfl
@[simp] theorem modSession_evt (c : Chip) (k : Nat) (f : Session → Session) : (modSession k f c).evt = c.evt := rfl
@[simp] theorem modSession_cmd (c : Chip) (k : Nat) (f : Session → Session) : (modSession k f c).cmd = c.cmd := rfl
@[simp] theorem modSession_net (c : Chip) (k : Nat) (f : Session → Session) : (modSession k f c).net = c.net := rfl
@[simp] theorem modSession_hfr (c : Chip) (k : Nat) (f : Session → Session) : (modSession k f c).hfr = c.hfr := rfl
@[simp] theorem modSession_axes (c : Chip) (k : Nat) (f : Session → Session) : (modSession k f c).axes = c.axes := rfl
@[simp] theorem modSession_grps (c : Chip) (k : Nat) (f : Session → Session) : (modSession k f c).grps = c.grps := rfl
@[simp] theorem modSession_hits (c : Chip) (k : Nat) (f : Session → Session) : (modSession k f c).hits = c.hits := rfl
@[simp] theorem modSession_cam (c : Chip) (k : Nat) (f : Session → Session) : (modSession k f c).cam = c.cam := rfl
@[simp] theorem modSession_loops (c : Chip) (k : Nat) (f : Session → Session) : (modSession k f c).loops = c.loops := rfl
@[simp] theorem modSession_lpes (c : Chip) (k : Nat) (f : Session → Session) : (modSession k f c).lpes = c.lpes := rfl
@[simp] theorem modSession_sups (c : Chip) (k : Nat) (f : Session → Session) : (modSession k f c).sups = c.sups := rfl
@[simp] theorem modSession_buses (c : Chip) (k : Nat) (f : Session → Session) : (modSession k f c).buses = c.buses := rfl
@[simp] theorem modSession_mods (c : Chip) (k : Nat) (f : Session → Session) : (modSession k f c).mods = c.mods := rfl
@[simp] theorem modSession_fbks (c : Chip) (k : Nat) (f : Session → Session) : (modSession k f c).fbks = c.fbks := rfl
@[simp] theorem modSession_snls (c : Chip) (k : Nat) (f : Session → Session) : (modSession k f c).snls = c.snls := rfl
@[simp] theorem modSession_adcs (c : Chip) (k : Nat) (f : Session → Session) : (modSession k f c).adcs = c.adcs := rfl
@[simp] theorem modSession_sdfs (c : Chip) (k : Nat) (f : Session → Session) : (modSession k f c).sdfs = c.sdfs := rfl
@[simp] theorem modSession_sdfSeq (c : Chip) (k : Nat) (f : Session → Session) : (modSession k f c).sdfSeq = c.sdfSeq := rfl
@[simp] theorem modSession_cores (c : Chip) (k : Nat) (f : Session → Session) : (modSession k f c).cores = c.cores := rfl
@[simp] theorem modSession_dsp (c : Chip) (k : Nat) (f : Session → Session) : (modSession k f c).dsp = c.dsp := rfl
@[simp] theorem modSession_trc (c : Chip) (k : Nat) (f : Session → Session) : (modSession k f c).trc = c.trc := rfl
@[simp] theorem modSession_fld (c : Chip) (k : Nat) (f : Session → Session) : (modSession k f c).fld = c.fld := rfl
@[simp] theorem modSession_field (c : Chip) (k : Nat) (f : Session → Session) : (modSession k f c).field = c.field := rfl
@[simp] theorem modSession_bly (c : Chip) (k : Nat) (f : Session → Session) : (modSession k f c).bly = c.bly := rfl
@[simp] theorem modSession_memc (c : Chip) (k : Nat) (f : Session → Session) : (modSession k f c).memc = c.memc := rfl
@[simp] theorem modSession_scb (c : Chip) (k : Nat) (f : Session → Session) : (modSession k f c).scb = c.scb := rfl
@[simp] theorem modSession_keep (c : Chip) (k : Nat) (f : Session → Session) : (modSession k f c).keep = c.keep := rfl
@[simp] theorem modSession_pwr (c : Chip) (k : Nat) (f : Session → Session) : (modSession k f c).pwr = c.pwr := rfl
@[simp] theorem modSession_sec (c : Chip) (k : Nat) (f : Session → Session) : (modSession k f c).sec = c.sec := rfl
@[simp] theorem modSession_dbg (c : Chip) (k : Nat) (f : Session → Session) : (modSession k f c).dbg = c.dbg := rfl
@[simp] theorem modSession_spl (c : Chip) (k : Nat) (f : Session → Session) : (modSession k f c).spl = c.spl := rfl
@[simp] theorem modSession_free (c : Chip) (k : Nat) (f : Session → Session) : (modSession k f c).free = c.free := rfl
@[simp] theorem modSession_svcSafety (c : Chip) (k : Nat) (f : Session → Session) : (modSession k f c).svcSafety = c.svcSafety := rfl
@[simp] theorem modSession_svcPcie (c : Chip) (k : Nat) (f : Session → Session) : (modSession k f c).svcPcie = c.svcPcie := rfl
@[simp] theorem modSession_out (c : Chip) (k : Nat) (f : Session → Session) : (modSession k f c).out = c.out := rfl

@[simp] theorem modField_regs (c : Chip) (f : FieldDie → FieldDie) : (modField f c).regs = c.regs := rfl
@[simp] theorem modField_pages (c : Chip) (f : FieldDie → FieldDie) : (modField f c).pages = c.pages := rfl
@[simp] theorem modField_paths (c : Chip) (f : FieldDie → FieldDie) : (modField f c).paths = c.paths := rfl
@[simp] theorem modField_held (c : Chip) (f : FieldDie → FieldDie) : (modField f c).held = c.held := rfl
@[simp] theorem modField_faultSeq (c : Chip) (f : FieldDie → FieldDie) : (modField f c).faultSeq = c.faultSeq := rfl
@[simp] theorem modField_clk (c : Chip) (f : FieldDie → FieldDie) : (modField f c).clk = c.clk := rfl
@[simp] theorem modField_tim (c : Chip) (f : FieldDie → FieldDie) : (modField f c).tim = c.tim := rfl
@[simp] theorem modField_knt (c : Chip) (f : FieldDie → FieldDie) : (modField f c).knt = c.knt := rfl
@[simp] theorem modField_evt (c : Chip) (f : FieldDie → FieldDie) : (modField f c).evt = c.evt := rfl
@[simp] theorem modField_cmd (c : Chip) (f : FieldDie → FieldDie) : (modField f c).cmd = c.cmd := rfl
@[simp] theorem modField_net (c : Chip) (f : FieldDie → FieldDie) : (modField f c).net = c.net := rfl
@[simp] theorem modField_ycp (c : Chip) (f : FieldDie → FieldDie) : (modField f c).ycp = c.ycp := rfl
@[simp] theorem modField_hfr (c : Chip) (f : FieldDie → FieldDie) : (modField f c).hfr = c.hfr := rfl
@[simp] theorem modField_axes (c : Chip) (f : FieldDie → FieldDie) : (modField f c).axes = c.axes := rfl
@[simp] theorem modField_grps (c : Chip) (f : FieldDie → FieldDie) : (modField f c).grps = c.grps := rfl
@[simp] theorem modField_hits (c : Chip) (f : FieldDie → FieldDie) : (modField f c).hits = c.hits := rfl
@[simp] theorem modField_cam (c : Chip) (f : FieldDie → FieldDie) : (modField f c).cam = c.cam := rfl
@[simp] theorem modField_loops (c : Chip) (f : FieldDie → FieldDie) : (modField f c).loops = c.loops := rfl
@[simp] theorem modField_lpes (c : Chip) (f : FieldDie → FieldDie) : (modField f c).lpes = c.lpes := rfl
@[simp] theorem modField_sups (c : Chip) (f : FieldDie → FieldDie) : (modField f c).sups = c.sups := rfl
@[simp] theorem modField_buses (c : Chip) (f : FieldDie → FieldDie) : (modField f c).buses = c.buses := rfl
@[simp] theorem modField_mods (c : Chip) (f : FieldDie → FieldDie) : (modField f c).mods = c.mods := rfl
@[simp] theorem modField_fbks (c : Chip) (f : FieldDie → FieldDie) : (modField f c).fbks = c.fbks := rfl
@[simp] theorem modField_snls (c : Chip) (f : FieldDie → FieldDie) : (modField f c).snls = c.snls := rfl
@[simp] theorem modField_adcs (c : Chip) (f : FieldDie → FieldDie) : (modField f c).adcs = c.adcs := rfl
@[simp] theorem modField_sdfs (c : Chip) (f : FieldDie → FieldDie) : (modField f c).sdfs = c.sdfs := rfl
@[simp] theorem modField_sdfSeq (c : Chip) (f : FieldDie → FieldDie) : (modField f c).sdfSeq = c.sdfSeq := rfl
@[simp] theorem modField_cores (c : Chip) (f : FieldDie → FieldDie) : (modField f c).cores = c.cores := rfl
@[simp] theorem modField_dsp (c : Chip) (f : FieldDie → FieldDie) : (modField f c).dsp = c.dsp := rfl
@[simp] theorem modField_trc (c : Chip) (f : FieldDie → FieldDie) : (modField f c).trc = c.trc := rfl
@[simp] theorem modField_fld (c : Chip) (f : FieldDie → FieldDie) : (modField f c).fld = c.fld := rfl
@[simp] theorem modField_bly (c : Chip) (f : FieldDie → FieldDie) : (modField f c).bly = c.bly := rfl
@[simp] theorem modField_memc (c : Chip) (f : FieldDie → FieldDie) : (modField f c).memc = c.memc := rfl
@[simp] theorem modField_scb (c : Chip) (f : FieldDie → FieldDie) : (modField f c).scb = c.scb := rfl
@[simp] theorem modField_keep (c : Chip) (f : FieldDie → FieldDie) : (modField f c).keep = c.keep := rfl
@[simp] theorem modField_pwr (c : Chip) (f : FieldDie → FieldDie) : (modField f c).pwr = c.pwr := rfl
@[simp] theorem modField_sec (c : Chip) (f : FieldDie → FieldDie) : (modField f c).sec = c.sec := rfl
@[simp] theorem modField_dbg (c : Chip) (f : FieldDie → FieldDie) : (modField f c).dbg = c.dbg := rfl
@[simp] theorem modField_spl (c : Chip) (f : FieldDie → FieldDie) : (modField f c).spl = c.spl := rfl
@[simp] theorem modField_free (c : Chip) (f : FieldDie → FieldDie) : (modField f c).free = c.free := rfl
@[simp] theorem modField_svcSafety (c : Chip) (f : FieldDie → FieldDie) : (modField f c).svcSafety = c.svcSafety := rfl
@[simp] theorem modField_svcPcie (c : Chip) (f : FieldDie → FieldDie) : (modField f c).svcPcie = c.svcPcie := rfl
@[simp] theorem modField_out (c : Chip) (f : FieldDie → FieldDie) : (modField f c).out = c.out := rfl

@[simp] theorem modBly_regs (c : Chip) (f : BlySt → BlySt) : (modBly f c).regs = c.regs := rfl
@[simp] theorem modBly_pages (c : Chip) (f : BlySt → BlySt) : (modBly f c).pages = c.pages := rfl
@[simp] theorem modBly_paths (c : Chip) (f : BlySt → BlySt) : (modBly f c).paths = c.paths := rfl
@[simp] theorem modBly_held (c : Chip) (f : BlySt → BlySt) : (modBly f c).held = c.held := rfl
@[simp] theorem modBly_faultSeq (c : Chip) (f : BlySt → BlySt) : (modBly f c).faultSeq = c.faultSeq := rfl
@[simp] theorem modBly_clk (c : Chip) (f : BlySt → BlySt) : (modBly f c).clk = c.clk := rfl
@[simp] theorem modBly_tim (c : Chip) (f : BlySt → BlySt) : (modBly f c).tim = c.tim := rfl
@[simp] theorem modBly_knt (c : Chip) (f : BlySt → BlySt) : (modBly f c).knt = c.knt := rfl
@[simp] theorem modBly_evt (c : Chip) (f : BlySt → BlySt) : (modBly f c).evt = c.evt := rfl
@[simp] theorem modBly_cmd (c : Chip) (f : BlySt → BlySt) : (modBly f c).cmd = c.cmd := rfl
@[simp] theorem modBly_net (c : Chip) (f : BlySt → BlySt) : (modBly f c).net = c.net := rfl
@[simp] theorem modBly_ycp (c : Chip) (f : BlySt → BlySt) : (modBly f c).ycp = c.ycp := rfl
@[simp] theorem modBly_hfr (c : Chip) (f : BlySt → BlySt) : (modBly f c).hfr = c.hfr := rfl
@[simp] theorem modBly_axes (c : Chip) (f : BlySt → BlySt) : (modBly f c).axes = c.axes := rfl
@[simp] theorem modBly_grps (c : Chip) (f : BlySt → BlySt) : (modBly f c).grps = c.grps := rfl
@[simp] theorem modBly_hits (c : Chip) (f : BlySt → BlySt) : (modBly f c).hits = c.hits := rfl
@[simp] theorem modBly_cam (c : Chip) (f : BlySt → BlySt) : (modBly f c).cam = c.cam := rfl
@[simp] theorem modBly_loops (c : Chip) (f : BlySt → BlySt) : (modBly f c).loops = c.loops := rfl
@[simp] theorem modBly_lpes (c : Chip) (f : BlySt → BlySt) : (modBly f c).lpes = c.lpes := rfl
@[simp] theorem modBly_sups (c : Chip) (f : BlySt → BlySt) : (modBly f c).sups = c.sups := rfl
@[simp] theorem modBly_buses (c : Chip) (f : BlySt → BlySt) : (modBly f c).buses = c.buses := rfl
@[simp] theorem modBly_mods (c : Chip) (f : BlySt → BlySt) : (modBly f c).mods = c.mods := rfl
@[simp] theorem modBly_fbks (c : Chip) (f : BlySt → BlySt) : (modBly f c).fbks = c.fbks := rfl
@[simp] theorem modBly_snls (c : Chip) (f : BlySt → BlySt) : (modBly f c).snls = c.snls := rfl
@[simp] theorem modBly_adcs (c : Chip) (f : BlySt → BlySt) : (modBly f c).adcs = c.adcs := rfl
@[simp] theorem modBly_sdfs (c : Chip) (f : BlySt → BlySt) : (modBly f c).sdfs = c.sdfs := rfl
@[simp] theorem modBly_sdfSeq (c : Chip) (f : BlySt → BlySt) : (modBly f c).sdfSeq = c.sdfSeq := rfl
@[simp] theorem modBly_cores (c : Chip) (f : BlySt → BlySt) : (modBly f c).cores = c.cores := rfl
@[simp] theorem modBly_dsp (c : Chip) (f : BlySt → BlySt) : (modBly f c).dsp = c.dsp := rfl
@[simp] theorem modBly_trc (c : Chip) (f : BlySt → BlySt) : (modBly f c).trc = c.trc := rfl
@[simp] theorem modBly_fld (c : Chip) (f : BlySt → BlySt) : (modBly f c).fld = c.fld := rfl
@[simp] theorem modBly_field (c : Chip) (f : BlySt → BlySt) : (modBly f c).field = c.field := rfl
@[simp] theorem modBly_memc (c : Chip) (f : BlySt → BlySt) : (modBly f c).memc = c.memc := rfl
@[simp] theorem modBly_scb (c : Chip) (f : BlySt → BlySt) : (modBly f c).scb = c.scb := rfl
@[simp] theorem modBly_keep (c : Chip) (f : BlySt → BlySt) : (modBly f c).keep = c.keep := rfl
@[simp] theorem modBly_pwr (c : Chip) (f : BlySt → BlySt) : (modBly f c).pwr = c.pwr := rfl
@[simp] theorem modBly_sec (c : Chip) (f : BlySt → BlySt) : (modBly f c).sec = c.sec := rfl
@[simp] theorem modBly_dbg (c : Chip) (f : BlySt → BlySt) : (modBly f c).dbg = c.dbg := rfl
@[simp] theorem modBly_spl (c : Chip) (f : BlySt → BlySt) : (modBly f c).spl = c.spl := rfl
@[simp] theorem modBly_free (c : Chip) (f : BlySt → BlySt) : (modBly f c).free = c.free := rfl
@[simp] theorem modBly_svcSafety (c : Chip) (f : BlySt → BlySt) : (modBly f c).svcSafety = c.svcSafety := rfl
@[simp] theorem modBly_svcPcie (c : Chip) (f : BlySt → BlySt) : (modBly f c).svcPcie = c.svcPcie := rfl
@[simp] theorem modBly_out (c : Chip) (f : BlySt → BlySt) : (modBly f c).out = c.out := rfl

@[simp] theorem modMemc_regs (c : Chip) (f : MemCtlSt → MemCtlSt) : (modMemc f c).regs = c.regs := rfl
@[simp] theorem modMemc_pages (c : Chip) (f : MemCtlSt → MemCtlSt) : (modMemc f c).pages = c.pages := rfl
@[simp] theorem modMemc_paths (c : Chip) (f : MemCtlSt → MemCtlSt) : (modMemc f c).paths = c.paths := rfl
@[simp] theorem modMemc_held (c : Chip) (f : MemCtlSt → MemCtlSt) : (modMemc f c).held = c.held := rfl
@[simp] theorem modMemc_faultSeq (c : Chip) (f : MemCtlSt → MemCtlSt) : (modMemc f c).faultSeq = c.faultSeq := rfl
@[simp] theorem modMemc_clk (c : Chip) (f : MemCtlSt → MemCtlSt) : (modMemc f c).clk = c.clk := rfl
@[simp] theorem modMemc_tim (c : Chip) (f : MemCtlSt → MemCtlSt) : (modMemc f c).tim = c.tim := rfl
@[simp] theorem modMemc_knt (c : Chip) (f : MemCtlSt → MemCtlSt) : (modMemc f c).knt = c.knt := rfl
@[simp] theorem modMemc_evt (c : Chip) (f : MemCtlSt → MemCtlSt) : (modMemc f c).evt = c.evt := rfl
@[simp] theorem modMemc_cmd (c : Chip) (f : MemCtlSt → MemCtlSt) : (modMemc f c).cmd = c.cmd := rfl
@[simp] theorem modMemc_net (c : Chip) (f : MemCtlSt → MemCtlSt) : (modMemc f c).net = c.net := rfl
@[simp] theorem modMemc_ycp (c : Chip) (f : MemCtlSt → MemCtlSt) : (modMemc f c).ycp = c.ycp := rfl
@[simp] theorem modMemc_hfr (c : Chip) (f : MemCtlSt → MemCtlSt) : (modMemc f c).hfr = c.hfr := rfl
@[simp] theorem modMemc_axes (c : Chip) (f : MemCtlSt → MemCtlSt) : (modMemc f c).axes = c.axes := rfl
@[simp] theorem modMemc_grps (c : Chip) (f : MemCtlSt → MemCtlSt) : (modMemc f c).grps = c.grps := rfl
@[simp] theorem modMemc_hits (c : Chip) (f : MemCtlSt → MemCtlSt) : (modMemc f c).hits = c.hits := rfl
@[simp] theorem modMemc_cam (c : Chip) (f : MemCtlSt → MemCtlSt) : (modMemc f c).cam = c.cam := rfl
@[simp] theorem modMemc_loops (c : Chip) (f : MemCtlSt → MemCtlSt) : (modMemc f c).loops = c.loops := rfl
@[simp] theorem modMemc_lpes (c : Chip) (f : MemCtlSt → MemCtlSt) : (modMemc f c).lpes = c.lpes := rfl
@[simp] theorem modMemc_sups (c : Chip) (f : MemCtlSt → MemCtlSt) : (modMemc f c).sups = c.sups := rfl
@[simp] theorem modMemc_buses (c : Chip) (f : MemCtlSt → MemCtlSt) : (modMemc f c).buses = c.buses := rfl
@[simp] theorem modMemc_mods (c : Chip) (f : MemCtlSt → MemCtlSt) : (modMemc f c).mods = c.mods := rfl
@[simp] theorem modMemc_fbks (c : Chip) (f : MemCtlSt → MemCtlSt) : (modMemc f c).fbks = c.fbks := rfl
@[simp] theorem modMemc_snls (c : Chip) (f : MemCtlSt → MemCtlSt) : (modMemc f c).snls = c.snls := rfl
@[simp] theorem modMemc_adcs (c : Chip) (f : MemCtlSt → MemCtlSt) : (modMemc f c).adcs = c.adcs := rfl
@[simp] theorem modMemc_sdfs (c : Chip) (f : MemCtlSt → MemCtlSt) : (modMemc f c).sdfs = c.sdfs := rfl
@[simp] theorem modMemc_sdfSeq (c : Chip) (f : MemCtlSt → MemCtlSt) : (modMemc f c).sdfSeq = c.sdfSeq := rfl
@[simp] theorem modMemc_cores (c : Chip) (f : MemCtlSt → MemCtlSt) : (modMemc f c).cores = c.cores := rfl
@[simp] theorem modMemc_dsp (c : Chip) (f : MemCtlSt → MemCtlSt) : (modMemc f c).dsp = c.dsp := rfl
@[simp] theorem modMemc_trc (c : Chip) (f : MemCtlSt → MemCtlSt) : (modMemc f c).trc = c.trc := rfl
@[simp] theorem modMemc_fld (c : Chip) (f : MemCtlSt → MemCtlSt) : (modMemc f c).fld = c.fld := rfl
@[simp] theorem modMemc_field (c : Chip) (f : MemCtlSt → MemCtlSt) : (modMemc f c).field = c.field := rfl
@[simp] theorem modMemc_bly (c : Chip) (f : MemCtlSt → MemCtlSt) : (modMemc f c).bly = c.bly := rfl
@[simp] theorem modMemc_scb (c : Chip) (f : MemCtlSt → MemCtlSt) : (modMemc f c).scb = c.scb := rfl
@[simp] theorem modMemc_keep (c : Chip) (f : MemCtlSt → MemCtlSt) : (modMemc f c).keep = c.keep := rfl
@[simp] theorem modMemc_pwr (c : Chip) (f : MemCtlSt → MemCtlSt) : (modMemc f c).pwr = c.pwr := rfl
@[simp] theorem modMemc_sec (c : Chip) (f : MemCtlSt → MemCtlSt) : (modMemc f c).sec = c.sec := rfl
@[simp] theorem modMemc_dbg (c : Chip) (f : MemCtlSt → MemCtlSt) : (modMemc f c).dbg = c.dbg := rfl
@[simp] theorem modMemc_spl (c : Chip) (f : MemCtlSt → MemCtlSt) : (modMemc f c).spl = c.spl := rfl
@[simp] theorem modMemc_free (c : Chip) (f : MemCtlSt → MemCtlSt) : (modMemc f c).free = c.free := rfl
@[simp] theorem modMemc_svcSafety (c : Chip) (f : MemCtlSt → MemCtlSt) : (modMemc f c).svcSafety = c.svcSafety := rfl
@[simp] theorem modMemc_svcPcie (c : Chip) (f : MemCtlSt → MemCtlSt) : (modMemc f c).svcPcie = c.svcPcie := rfl
@[simp] theorem modMemc_out (c : Chip) (f : MemCtlSt → MemCtlSt) : (modMemc f c).out = c.out := rfl

@[simp] theorem modPwr_regs (c : Chip) (f : PwrSt → PwrSt) : (modPwr f c).regs = c.regs := rfl
@[simp] theorem modPwr_pages (c : Chip) (f : PwrSt → PwrSt) : (modPwr f c).pages = c.pages := rfl
@[simp] theorem modPwr_paths (c : Chip) (f : PwrSt → PwrSt) : (modPwr f c).paths = c.paths := rfl
@[simp] theorem modPwr_held (c : Chip) (f : PwrSt → PwrSt) : (modPwr f c).held = c.held := rfl
@[simp] theorem modPwr_faultSeq (c : Chip) (f : PwrSt → PwrSt) : (modPwr f c).faultSeq = c.faultSeq := rfl
@[simp] theorem modPwr_clk (c : Chip) (f : PwrSt → PwrSt) : (modPwr f c).clk = c.clk := rfl
@[simp] theorem modPwr_tim (c : Chip) (f : PwrSt → PwrSt) : (modPwr f c).tim = c.tim := rfl
@[simp] theorem modPwr_knt (c : Chip) (f : PwrSt → PwrSt) : (modPwr f c).knt = c.knt := rfl
@[simp] theorem modPwr_evt (c : Chip) (f : PwrSt → PwrSt) : (modPwr f c).evt = c.evt := rfl
@[simp] theorem modPwr_cmd (c : Chip) (f : PwrSt → PwrSt) : (modPwr f c).cmd = c.cmd := rfl
@[simp] theorem modPwr_net (c : Chip) (f : PwrSt → PwrSt) : (modPwr f c).net = c.net := rfl
@[simp] theorem modPwr_ycp (c : Chip) (f : PwrSt → PwrSt) : (modPwr f c).ycp = c.ycp := rfl
@[simp] theorem modPwr_hfr (c : Chip) (f : PwrSt → PwrSt) : (modPwr f c).hfr = c.hfr := rfl
@[simp] theorem modPwr_axes (c : Chip) (f : PwrSt → PwrSt) : (modPwr f c).axes = c.axes := rfl
@[simp] theorem modPwr_grps (c : Chip) (f : PwrSt → PwrSt) : (modPwr f c).grps = c.grps := rfl
@[simp] theorem modPwr_hits (c : Chip) (f : PwrSt → PwrSt) : (modPwr f c).hits = c.hits := rfl
@[simp] theorem modPwr_cam (c : Chip) (f : PwrSt → PwrSt) : (modPwr f c).cam = c.cam := rfl
@[simp] theorem modPwr_loops (c : Chip) (f : PwrSt → PwrSt) : (modPwr f c).loops = c.loops := rfl
@[simp] theorem modPwr_lpes (c : Chip) (f : PwrSt → PwrSt) : (modPwr f c).lpes = c.lpes := rfl
@[simp] theorem modPwr_sups (c : Chip) (f : PwrSt → PwrSt) : (modPwr f c).sups = c.sups := rfl
@[simp] theorem modPwr_buses (c : Chip) (f : PwrSt → PwrSt) : (modPwr f c).buses = c.buses := rfl
@[simp] theorem modPwr_mods (c : Chip) (f : PwrSt → PwrSt) : (modPwr f c).mods = c.mods := rfl
@[simp] theorem modPwr_fbks (c : Chip) (f : PwrSt → PwrSt) : (modPwr f c).fbks = c.fbks := rfl
@[simp] theorem modPwr_snls (c : Chip) (f : PwrSt → PwrSt) : (modPwr f c).snls = c.snls := rfl
@[simp] theorem modPwr_adcs (c : Chip) (f : PwrSt → PwrSt) : (modPwr f c).adcs = c.adcs := rfl
@[simp] theorem modPwr_sdfs (c : Chip) (f : PwrSt → PwrSt) : (modPwr f c).sdfs = c.sdfs := rfl
@[simp] theorem modPwr_sdfSeq (c : Chip) (f : PwrSt → PwrSt) : (modPwr f c).sdfSeq = c.sdfSeq := rfl
@[simp] theorem modPwr_cores (c : Chip) (f : PwrSt → PwrSt) : (modPwr f c).cores = c.cores := rfl
@[simp] theorem modPwr_dsp (c : Chip) (f : PwrSt → PwrSt) : (modPwr f c).dsp = c.dsp := rfl
@[simp] theorem modPwr_trc (c : Chip) (f : PwrSt → PwrSt) : (modPwr f c).trc = c.trc := rfl
@[simp] theorem modPwr_fld (c : Chip) (f : PwrSt → PwrSt) : (modPwr f c).fld = c.fld := rfl
@[simp] theorem modPwr_field (c : Chip) (f : PwrSt → PwrSt) : (modPwr f c).field = c.field := rfl
@[simp] theorem modPwr_bly (c : Chip) (f : PwrSt → PwrSt) : (modPwr f c).bly = c.bly := rfl
@[simp] theorem modPwr_memc (c : Chip) (f : PwrSt → PwrSt) : (modPwr f c).memc = c.memc := rfl
@[simp] theorem modPwr_scb (c : Chip) (f : PwrSt → PwrSt) : (modPwr f c).scb = c.scb := rfl
@[simp] theorem modPwr_keep (c : Chip) (f : PwrSt → PwrSt) : (modPwr f c).keep = c.keep := rfl
@[simp] theorem modPwr_sec (c : Chip) (f : PwrSt → PwrSt) : (modPwr f c).sec = c.sec := rfl
@[simp] theorem modPwr_dbg (c : Chip) (f : PwrSt → PwrSt) : (modPwr f c).dbg = c.dbg := rfl
@[simp] theorem modPwr_spl (c : Chip) (f : PwrSt → PwrSt) : (modPwr f c).spl = c.spl := rfl
@[simp] theorem modPwr_free (c : Chip) (f : PwrSt → PwrSt) : (modPwr f c).free = c.free := rfl
@[simp] theorem modPwr_svcSafety (c : Chip) (f : PwrSt → PwrSt) : (modPwr f c).svcSafety = c.svcSafety := rfl
@[simp] theorem modPwr_svcPcie (c : Chip) (f : PwrSt → PwrSt) : (modPwr f c).svcPcie = c.svcPcie := rfl
@[simp] theorem modPwr_out (c : Chip) (f : PwrSt → PwrSt) : (modPwr f c).out = c.out := rfl

@[simp] theorem modSec_regs (c : Chip) (f : SecSt → SecSt) : (modSec f c).regs = c.regs := rfl
@[simp] theorem modSec_pages (c : Chip) (f : SecSt → SecSt) : (modSec f c).pages = c.pages := rfl
@[simp] theorem modSec_paths (c : Chip) (f : SecSt → SecSt) : (modSec f c).paths = c.paths := rfl
@[simp] theorem modSec_held (c : Chip) (f : SecSt → SecSt) : (modSec f c).held = c.held := rfl
@[simp] theorem modSec_faultSeq (c : Chip) (f : SecSt → SecSt) : (modSec f c).faultSeq = c.faultSeq := rfl
@[simp] theorem modSec_clk (c : Chip) (f : SecSt → SecSt) : (modSec f c).clk = c.clk := rfl
@[simp] theorem modSec_tim (c : Chip) (f : SecSt → SecSt) : (modSec f c).tim = c.tim := rfl
@[simp] theorem modSec_knt (c : Chip) (f : SecSt → SecSt) : (modSec f c).knt = c.knt := rfl
@[simp] theorem modSec_evt (c : Chip) (f : SecSt → SecSt) : (modSec f c).evt = c.evt := rfl
@[simp] theorem modSec_cmd (c : Chip) (f : SecSt → SecSt) : (modSec f c).cmd = c.cmd := rfl
@[simp] theorem modSec_net (c : Chip) (f : SecSt → SecSt) : (modSec f c).net = c.net := rfl
@[simp] theorem modSec_ycp (c : Chip) (f : SecSt → SecSt) : (modSec f c).ycp = c.ycp := rfl
@[simp] theorem modSec_hfr (c : Chip) (f : SecSt → SecSt) : (modSec f c).hfr = c.hfr := rfl
@[simp] theorem modSec_axes (c : Chip) (f : SecSt → SecSt) : (modSec f c).axes = c.axes := rfl
@[simp] theorem modSec_grps (c : Chip) (f : SecSt → SecSt) : (modSec f c).grps = c.grps := rfl
@[simp] theorem modSec_hits (c : Chip) (f : SecSt → SecSt) : (modSec f c).hits = c.hits := rfl
@[simp] theorem modSec_cam (c : Chip) (f : SecSt → SecSt) : (modSec f c).cam = c.cam := rfl
@[simp] theorem modSec_loops (c : Chip) (f : SecSt → SecSt) : (modSec f c).loops = c.loops := rfl
@[simp] theorem modSec_lpes (c : Chip) (f : SecSt → SecSt) : (modSec f c).lpes = c.lpes := rfl
@[simp] theorem modSec_sups (c : Chip) (f : SecSt → SecSt) : (modSec f c).sups = c.sups := rfl
@[simp] theorem modSec_buses (c : Chip) (f : SecSt → SecSt) : (modSec f c).buses = c.buses := rfl
@[simp] theorem modSec_mods (c : Chip) (f : SecSt → SecSt) : (modSec f c).mods = c.mods := rfl
@[simp] theorem modSec_fbks (c : Chip) (f : SecSt → SecSt) : (modSec f c).fbks = c.fbks := rfl
@[simp] theorem modSec_snls (c : Chip) (f : SecSt → SecSt) : (modSec f c).snls = c.snls := rfl
@[simp] theorem modSec_adcs (c : Chip) (f : SecSt → SecSt) : (modSec f c).adcs = c.adcs := rfl
@[simp] theorem modSec_sdfs (c : Chip) (f : SecSt → SecSt) : (modSec f c).sdfs = c.sdfs := rfl
@[simp] theorem modSec_sdfSeq (c : Chip) (f : SecSt → SecSt) : (modSec f c).sdfSeq = c.sdfSeq := rfl
@[simp] theorem modSec_cores (c : Chip) (f : SecSt → SecSt) : (modSec f c).cores = c.cores := rfl
@[simp] theorem modSec_dsp (c : Chip) (f : SecSt → SecSt) : (modSec f c).dsp = c.dsp := rfl
@[simp] theorem modSec_trc (c : Chip) (f : SecSt → SecSt) : (modSec f c).trc = c.trc := rfl
@[simp] theorem modSec_fld (c : Chip) (f : SecSt → SecSt) : (modSec f c).fld = c.fld := rfl
@[simp] theorem modSec_field (c : Chip) (f : SecSt → SecSt) : (modSec f c).field = c.field := rfl
@[simp] theorem modSec_bly (c : Chip) (f : SecSt → SecSt) : (modSec f c).bly = c.bly := rfl
@[simp] theorem modSec_memc (c : Chip) (f : SecSt → SecSt) : (modSec f c).memc = c.memc := rfl
@[simp] theorem modSec_scb (c : Chip) (f : SecSt → SecSt) : (modSec f c).scb = c.scb := rfl
@[simp] theorem modSec_keep (c : Chip) (f : SecSt → SecSt) : (modSec f c).keep = c.keep := rfl
@[simp] theorem modSec_pwr (c : Chip) (f : SecSt → SecSt) : (modSec f c).pwr = c.pwr := rfl
@[simp] theorem modSec_dbg (c : Chip) (f : SecSt → SecSt) : (modSec f c).dbg = c.dbg := rfl
@[simp] theorem modSec_spl (c : Chip) (f : SecSt → SecSt) : (modSec f c).spl = c.spl := rfl
@[simp] theorem modSec_free (c : Chip) (f : SecSt → SecSt) : (modSec f c).free = c.free := rfl
@[simp] theorem modSec_svcSafety (c : Chip) (f : SecSt → SecSt) : (modSec f c).svcSafety = c.svcSafety := rfl
@[simp] theorem modSec_svcPcie (c : Chip) (f : SecSt → SecSt) : (modSec f c).svcPcie = c.svcPcie := rfl
@[simp] theorem modSec_out (c : Chip) (f : SecSt → SecSt) : (modSec f c).out = c.out := rfl

@[simp] theorem modDbg_regs (c : Chip) (f : DbgSt → DbgSt) : (modDbg f c).regs = c.regs := rfl
@[simp] theorem modDbg_pages (c : Chip) (f : DbgSt → DbgSt) : (modDbg f c).pages = c.pages := rfl
@[simp] theorem modDbg_paths (c : Chip) (f : DbgSt → DbgSt) : (modDbg f c).paths = c.paths := rfl
@[simp] theorem modDbg_held (c : Chip) (f : DbgSt → DbgSt) : (modDbg f c).held = c.held := rfl
@[simp] theorem modDbg_faultSeq (c : Chip) (f : DbgSt → DbgSt) : (modDbg f c).faultSeq = c.faultSeq := rfl
@[simp] theorem modDbg_clk (c : Chip) (f : DbgSt → DbgSt) : (modDbg f c).clk = c.clk := rfl
@[simp] theorem modDbg_tim (c : Chip) (f : DbgSt → DbgSt) : (modDbg f c).tim = c.tim := rfl
@[simp] theorem modDbg_knt (c : Chip) (f : DbgSt → DbgSt) : (modDbg f c).knt = c.knt := rfl
@[simp] theorem modDbg_evt (c : Chip) (f : DbgSt → DbgSt) : (modDbg f c).evt = c.evt := rfl
@[simp] theorem modDbg_cmd (c : Chip) (f : DbgSt → DbgSt) : (modDbg f c).cmd = c.cmd := rfl
@[simp] theorem modDbg_net (c : Chip) (f : DbgSt → DbgSt) : (modDbg f c).net = c.net := rfl
@[simp] theorem modDbg_ycp (c : Chip) (f : DbgSt → DbgSt) : (modDbg f c).ycp = c.ycp := rfl
@[simp] theorem modDbg_hfr (c : Chip) (f : DbgSt → DbgSt) : (modDbg f c).hfr = c.hfr := rfl
@[simp] theorem modDbg_axes (c : Chip) (f : DbgSt → DbgSt) : (modDbg f c).axes = c.axes := rfl
@[simp] theorem modDbg_grps (c : Chip) (f : DbgSt → DbgSt) : (modDbg f c).grps = c.grps := rfl
@[simp] theorem modDbg_hits (c : Chip) (f : DbgSt → DbgSt) : (modDbg f c).hits = c.hits := rfl
@[simp] theorem modDbg_cam (c : Chip) (f : DbgSt → DbgSt) : (modDbg f c).cam = c.cam := rfl
@[simp] theorem modDbg_loops (c : Chip) (f : DbgSt → DbgSt) : (modDbg f c).loops = c.loops := rfl
@[simp] theorem modDbg_lpes (c : Chip) (f : DbgSt → DbgSt) : (modDbg f c).lpes = c.lpes := rfl
@[simp] theorem modDbg_sups (c : Chip) (f : DbgSt → DbgSt) : (modDbg f c).sups = c.sups := rfl
@[simp] theorem modDbg_buses (c : Chip) (f : DbgSt → DbgSt) : (modDbg f c).buses = c.buses := rfl
@[simp] theorem modDbg_mods (c : Chip) (f : DbgSt → DbgSt) : (modDbg f c).mods = c.mods := rfl
@[simp] theorem modDbg_fbks (c : Chip) (f : DbgSt → DbgSt) : (modDbg f c).fbks = c.fbks := rfl
@[simp] theorem modDbg_snls (c : Chip) (f : DbgSt → DbgSt) : (modDbg f c).snls = c.snls := rfl
@[simp] theorem modDbg_adcs (c : Chip) (f : DbgSt → DbgSt) : (modDbg f c).adcs = c.adcs := rfl
@[simp] theorem modDbg_sdfs (c : Chip) (f : DbgSt → DbgSt) : (modDbg f c).sdfs = c.sdfs := rfl
@[simp] theorem modDbg_sdfSeq (c : Chip) (f : DbgSt → DbgSt) : (modDbg f c).sdfSeq = c.sdfSeq := rfl
@[simp] theorem modDbg_cores (c : Chip) (f : DbgSt → DbgSt) : (modDbg f c).cores = c.cores := rfl
@[simp] theorem modDbg_dsp (c : Chip) (f : DbgSt → DbgSt) : (modDbg f c).dsp = c.dsp := rfl
@[simp] theorem modDbg_trc (c : Chip) (f : DbgSt → DbgSt) : (modDbg f c).trc = c.trc := rfl
@[simp] theorem modDbg_fld (c : Chip) (f : DbgSt → DbgSt) : (modDbg f c).fld = c.fld := rfl
@[simp] theorem modDbg_field (c : Chip) (f : DbgSt → DbgSt) : (modDbg f c).field = c.field := rfl
@[simp] theorem modDbg_bly (c : Chip) (f : DbgSt → DbgSt) : (modDbg f c).bly = c.bly := rfl
@[simp] theorem modDbg_memc (c : Chip) (f : DbgSt → DbgSt) : (modDbg f c).memc = c.memc := rfl
@[simp] theorem modDbg_scb (c : Chip) (f : DbgSt → DbgSt) : (modDbg f c).scb = c.scb := rfl
@[simp] theorem modDbg_keep (c : Chip) (f : DbgSt → DbgSt) : (modDbg f c).keep = c.keep := rfl
@[simp] theorem modDbg_pwr (c : Chip) (f : DbgSt → DbgSt) : (modDbg f c).pwr = c.pwr := rfl
@[simp] theorem modDbg_sec (c : Chip) (f : DbgSt → DbgSt) : (modDbg f c).sec = c.sec := rfl
@[simp] theorem modDbg_spl (c : Chip) (f : DbgSt → DbgSt) : (modDbg f c).spl = c.spl := rfl
@[simp] theorem modDbg_free (c : Chip) (f : DbgSt → DbgSt) : (modDbg f c).free = c.free := rfl
@[simp] theorem modDbg_svcSafety (c : Chip) (f : DbgSt → DbgSt) : (modDbg f c).svcSafety = c.svcSafety := rfl
@[simp] theorem modDbg_svcPcie (c : Chip) (f : DbgSt → DbgSt) : (modDbg f c).svcPcie = c.svcPcie := rfl
@[simp] theorem modDbg_out (c : Chip) (f : DbgSt → DbgSt) : (modDbg f c).out = c.out := rfl

@[simp] theorem modFco_regs (c : Chip) (f : FcoJob → FcoJob) : (modFco f c).regs = c.regs := rfl
@[simp] theorem modFco_pages (c : Chip) (f : FcoJob → FcoJob) : (modFco f c).pages = c.pages := rfl
@[simp] theorem modFco_paths (c : Chip) (f : FcoJob → FcoJob) : (modFco f c).paths = c.paths := rfl
@[simp] theorem modFco_held (c : Chip) (f : FcoJob → FcoJob) : (modFco f c).held = c.held := rfl
@[simp] theorem modFco_faultSeq (c : Chip) (f : FcoJob → FcoJob) : (modFco f c).faultSeq = c.faultSeq := rfl
@[simp] theorem modFco_clk (c : Chip) (f : FcoJob → FcoJob) : (modFco f c).clk = c.clk := rfl
@[simp] theorem modFco_tim (c : Chip) (f : FcoJob → FcoJob) : (modFco f c).tim = c.tim := rfl
@[simp] theorem modFco_knt (c : Chip) (f : FcoJob → FcoJob) : (modFco f c).knt = c.knt := rfl
@[simp] theorem modFco_evt (c : Chip) (f : FcoJob → FcoJob) : (modFco f c).evt = c.evt := rfl
@[simp] theorem modFco_cmd (c : Chip) (f : FcoJob → FcoJob) : (modFco f c).cmd = c.cmd := rfl
@[simp] theorem modFco_net (c : Chip) (f : FcoJob → FcoJob) : (modFco f c).net = c.net := rfl
@[simp] theorem modFco_ycp (c : Chip) (f : FcoJob → FcoJob) : (modFco f c).ycp = c.ycp := rfl
@[simp] theorem modFco_hfr (c : Chip) (f : FcoJob → FcoJob) : (modFco f c).hfr = c.hfr := rfl
@[simp] theorem modFco_axes (c : Chip) (f : FcoJob → FcoJob) : (modFco f c).axes = c.axes := rfl
@[simp] theorem modFco_grps (c : Chip) (f : FcoJob → FcoJob) : (modFco f c).grps = c.grps := rfl
@[simp] theorem modFco_hits (c : Chip) (f : FcoJob → FcoJob) : (modFco f c).hits = c.hits := rfl
@[simp] theorem modFco_cam (c : Chip) (f : FcoJob → FcoJob) : (modFco f c).cam = c.cam := rfl
@[simp] theorem modFco_loops (c : Chip) (f : FcoJob → FcoJob) : (modFco f c).loops = c.loops := rfl
@[simp] theorem modFco_lpes (c : Chip) (f : FcoJob → FcoJob) : (modFco f c).lpes = c.lpes := rfl
@[simp] theorem modFco_sups (c : Chip) (f : FcoJob → FcoJob) : (modFco f c).sups = c.sups := rfl
@[simp] theorem modFco_buses (c : Chip) (f : FcoJob → FcoJob) : (modFco f c).buses = c.buses := rfl
@[simp] theorem modFco_mods (c : Chip) (f : FcoJob → FcoJob) : (modFco f c).mods = c.mods := rfl
@[simp] theorem modFco_fbks (c : Chip) (f : FcoJob → FcoJob) : (modFco f c).fbks = c.fbks := rfl
@[simp] theorem modFco_snls (c : Chip) (f : FcoJob → FcoJob) : (modFco f c).snls = c.snls := rfl
@[simp] theorem modFco_adcs (c : Chip) (f : FcoJob → FcoJob) : (modFco f c).adcs = c.adcs := rfl
@[simp] theorem modFco_sdfs (c : Chip) (f : FcoJob → FcoJob) : (modFco f c).sdfs = c.sdfs := rfl
@[simp] theorem modFco_sdfSeq (c : Chip) (f : FcoJob → FcoJob) : (modFco f c).sdfSeq = c.sdfSeq := rfl
@[simp] theorem modFco_cores (c : Chip) (f : FcoJob → FcoJob) : (modFco f c).cores = c.cores := rfl
@[simp] theorem modFco_dsp (c : Chip) (f : FcoJob → FcoJob) : (modFco f c).dsp = c.dsp := rfl
@[simp] theorem modFco_trc (c : Chip) (f : FcoJob → FcoJob) : (modFco f c).trc = c.trc := rfl
@[simp] theorem modFco_fld (c : Chip) (f : FcoJob → FcoJob) : (modFco f c).fld = c.fld := rfl
@[simp] theorem modFco_field (c : Chip) (f : FcoJob → FcoJob) : (modFco f c).field = c.field := rfl
@[simp] theorem modFco_bly (c : Chip) (f : FcoJob → FcoJob) : (modFco f c).bly = c.bly := rfl
@[simp] theorem modFco_memc (c : Chip) (f : FcoJob → FcoJob) : (modFco f c).memc = c.memc := rfl
@[simp] theorem modFco_scb (c : Chip) (f : FcoJob → FcoJob) : (modFco f c).scb = c.scb := rfl
@[simp] theorem modFco_keep (c : Chip) (f : FcoJob → FcoJob) : (modFco f c).keep = c.keep := rfl
@[simp] theorem modFco_pwr (c : Chip) (f : FcoJob → FcoJob) : (modFco f c).pwr = c.pwr := rfl
@[simp] theorem modFco_sec (c : Chip) (f : FcoJob → FcoJob) : (modFco f c).sec = c.sec := rfl
@[simp] theorem modFco_dbg (c : Chip) (f : FcoJob → FcoJob) : (modFco f c).dbg = c.dbg := rfl
@[simp] theorem modFco_free (c : Chip) (f : FcoJob → FcoJob) : (modFco f c).free = c.free := rfl
@[simp] theorem modFco_svcSafety (c : Chip) (f : FcoJob → FcoJob) : (modFco f c).svcSafety = c.svcSafety := rfl
@[simp] theorem modFco_svcPcie (c : Chip) (f : FcoJob → FcoJob) : (modFco f c).svcPcie = c.svcPcie := rfl
@[simp] theorem modFco_out (c : Chip) (f : FcoJob → FcoJob) : (modFco f c).out = c.out := rfl

@[simp] theorem modTim_regs (c : Chip) (f : TimSt → TimSt) : (modTim f c).regs = c.regs := rfl
@[simp] theorem modTim_pages (c : Chip) (f : TimSt → TimSt) : (modTim f c).pages = c.pages := rfl
@[simp] theorem modTim_paths (c : Chip) (f : TimSt → TimSt) : (modTim f c).paths = c.paths := rfl
@[simp] theorem modTim_held (c : Chip) (f : TimSt → TimSt) : (modTim f c).held = c.held := rfl
@[simp] theorem modTim_faultSeq (c : Chip) (f : TimSt → TimSt) : (modTim f c).faultSeq = c.faultSeq := rfl
@[simp] theorem modTim_clk (c : Chip) (f : TimSt → TimSt) : (modTim f c).clk = c.clk := rfl
@[simp] theorem modTim_knt (c : Chip) (f : TimSt → TimSt) : (modTim f c).knt = c.knt := rfl
@[simp] theorem modTim_evt (c : Chip) (f : TimSt → TimSt) : (modTim f c).evt = c.evt := rfl
@[simp] theorem modTim_cmd (c : Chip) (f : TimSt → TimSt) : (modTim f c).cmd = c.cmd := rfl
@[simp] theorem modTim_net (c : Chip) (f : TimSt → TimSt) : (modTim f c).net = c.net := rfl
@[simp] theorem modTim_ycp (c : Chip) (f : TimSt → TimSt) : (modTim f c).ycp = c.ycp := rfl
@[simp] theorem modTim_hfr (c : Chip) (f : TimSt → TimSt) : (modTim f c).hfr = c.hfr := rfl
@[simp] theorem modTim_axes (c : Chip) (f : TimSt → TimSt) : (modTim f c).axes = c.axes := rfl
@[simp] theorem modTim_grps (c : Chip) (f : TimSt → TimSt) : (modTim f c).grps = c.grps := rfl
@[simp] theorem modTim_hits (c : Chip) (f : TimSt → TimSt) : (modTim f c).hits = c.hits := rfl
@[simp] theorem modTim_cam (c : Chip) (f : TimSt → TimSt) : (modTim f c).cam = c.cam := rfl
@[simp] theorem modTim_loops (c : Chip) (f : TimSt → TimSt) : (modTim f c).loops = c.loops := rfl
@[simp] theorem modTim_lpes (c : Chip) (f : TimSt → TimSt) : (modTim f c).lpes = c.lpes := rfl
@[simp] theorem modTim_sups (c : Chip) (f : TimSt → TimSt) : (modTim f c).sups = c.sups := rfl
@[simp] theorem modTim_buses (c : Chip) (f : TimSt → TimSt) : (modTim f c).buses = c.buses := rfl
@[simp] theorem modTim_mods (c : Chip) (f : TimSt → TimSt) : (modTim f c).mods = c.mods := rfl
@[simp] theorem modTim_fbks (c : Chip) (f : TimSt → TimSt) : (modTim f c).fbks = c.fbks := rfl
@[simp] theorem modTim_snls (c : Chip) (f : TimSt → TimSt) : (modTim f c).snls = c.snls := rfl
@[simp] theorem modTim_adcs (c : Chip) (f : TimSt → TimSt) : (modTim f c).adcs = c.adcs := rfl
@[simp] theorem modTim_sdfs (c : Chip) (f : TimSt → TimSt) : (modTim f c).sdfs = c.sdfs := rfl
@[simp] theorem modTim_sdfSeq (c : Chip) (f : TimSt → TimSt) : (modTim f c).sdfSeq = c.sdfSeq := rfl
@[simp] theorem modTim_cores (c : Chip) (f : TimSt → TimSt) : (modTim f c).cores = c.cores := rfl
@[simp] theorem modTim_dsp (c : Chip) (f : TimSt → TimSt) : (modTim f c).dsp = c.dsp := rfl
@[simp] theorem modTim_trc (c : Chip) (f : TimSt → TimSt) : (modTim f c).trc = c.trc := rfl
@[simp] theorem modTim_fld (c : Chip) (f : TimSt → TimSt) : (modTim f c).fld = c.fld := rfl
@[simp] theorem modTim_field (c : Chip) (f : TimSt → TimSt) : (modTim f c).field = c.field := rfl
@[simp] theorem modTim_bly (c : Chip) (f : TimSt → TimSt) : (modTim f c).bly = c.bly := rfl
@[simp] theorem modTim_memc (c : Chip) (f : TimSt → TimSt) : (modTim f c).memc = c.memc := rfl
@[simp] theorem modTim_scb (c : Chip) (f : TimSt → TimSt) : (modTim f c).scb = c.scb := rfl
@[simp] theorem modTim_keep (c : Chip) (f : TimSt → TimSt) : (modTim f c).keep = c.keep := rfl
@[simp] theorem modTim_pwr (c : Chip) (f : TimSt → TimSt) : (modTim f c).pwr = c.pwr := rfl
@[simp] theorem modTim_sec (c : Chip) (f : TimSt → TimSt) : (modTim f c).sec = c.sec := rfl
@[simp] theorem modTim_dbg (c : Chip) (f : TimSt → TimSt) : (modTim f c).dbg = c.dbg := rfl
@[simp] theorem modTim_spl (c : Chip) (f : TimSt → TimSt) : (modTim f c).spl = c.spl := rfl
@[simp] theorem modTim_free (c : Chip) (f : TimSt → TimSt) : (modTim f c).free = c.free := rfl
@[simp] theorem modTim_svcSafety (c : Chip) (f : TimSt → TimSt) : (modTim f c).svcSafety = c.svcSafety := rfl
@[simp] theorem modTim_svcPcie (c : Chip) (f : TimSt → TimSt) : (modTim f c).svcPcie = c.svcPcie := rfl
@[simp] theorem modTim_out (c : Chip) (f : TimSt → TimSt) : (modTim f c).out = c.out := rfl

@[simp] theorem modTrc_regs (c : Chip) (f : TrcSt → TrcSt) : (modTrc f c).regs = c.regs := rfl
@[simp] theorem modTrc_pages (c : Chip) (f : TrcSt → TrcSt) : (modTrc f c).pages = c.pages := rfl
@[simp] theorem modTrc_paths (c : Chip) (f : TrcSt → TrcSt) : (modTrc f c).paths = c.paths := rfl
@[simp] theorem modTrc_held (c : Chip) (f : TrcSt → TrcSt) : (modTrc f c).held = c.held := rfl
@[simp] theorem modTrc_faultSeq (c : Chip) (f : TrcSt → TrcSt) : (modTrc f c).faultSeq = c.faultSeq := rfl
@[simp] theorem modTrc_clk (c : Chip) (f : TrcSt → TrcSt) : (modTrc f c).clk = c.clk := rfl
@[simp] theorem modTrc_tim (c : Chip) (f : TrcSt → TrcSt) : (modTrc f c).tim = c.tim := rfl
@[simp] theorem modTrc_knt (c : Chip) (f : TrcSt → TrcSt) : (modTrc f c).knt = c.knt := rfl
@[simp] theorem modTrc_evt (c : Chip) (f : TrcSt → TrcSt) : (modTrc f c).evt = c.evt := rfl
@[simp] theorem modTrc_cmd (c : Chip) (f : TrcSt → TrcSt) : (modTrc f c).cmd = c.cmd := rfl
@[simp] theorem modTrc_net (c : Chip) (f : TrcSt → TrcSt) : (modTrc f c).net = c.net := rfl
@[simp] theorem modTrc_ycp (c : Chip) (f : TrcSt → TrcSt) : (modTrc f c).ycp = c.ycp := rfl
@[simp] theorem modTrc_hfr (c : Chip) (f : TrcSt → TrcSt) : (modTrc f c).hfr = c.hfr := rfl
@[simp] theorem modTrc_axes (c : Chip) (f : TrcSt → TrcSt) : (modTrc f c).axes = c.axes := rfl
@[simp] theorem modTrc_grps (c : Chip) (f : TrcSt → TrcSt) : (modTrc f c).grps = c.grps := rfl
@[simp] theorem modTrc_hits (c : Chip) (f : TrcSt → TrcSt) : (modTrc f c).hits = c.hits := rfl
@[simp] theorem modTrc_cam (c : Chip) (f : TrcSt → TrcSt) : (modTrc f c).cam = c.cam := rfl
@[simp] theorem modTrc_loops (c : Chip) (f : TrcSt → TrcSt) : (modTrc f c).loops = c.loops := rfl
@[simp] theorem modTrc_lpes (c : Chip) (f : TrcSt → TrcSt) : (modTrc f c).lpes = c.lpes := rfl
@[simp] theorem modTrc_sups (c : Chip) (f : TrcSt → TrcSt) : (modTrc f c).sups = c.sups := rfl
@[simp] theorem modTrc_buses (c : Chip) (f : TrcSt → TrcSt) : (modTrc f c).buses = c.buses := rfl
@[simp] theorem modTrc_mods (c : Chip) (f : TrcSt → TrcSt) : (modTrc f c).mods = c.mods := rfl
@[simp] theorem modTrc_fbks (c : Chip) (f : TrcSt → TrcSt) : (modTrc f c).fbks = c.fbks := rfl
@[simp] theorem modTrc_snls (c : Chip) (f : TrcSt → TrcSt) : (modTrc f c).snls = c.snls := rfl
@[simp] theorem modTrc_adcs (c : Chip) (f : TrcSt → TrcSt) : (modTrc f c).adcs = c.adcs := rfl
@[simp] theorem modTrc_sdfs (c : Chip) (f : TrcSt → TrcSt) : (modTrc f c).sdfs = c.sdfs := rfl
@[simp] theorem modTrc_sdfSeq (c : Chip) (f : TrcSt → TrcSt) : (modTrc f c).sdfSeq = c.sdfSeq := rfl
@[simp] theorem modTrc_cores (c : Chip) (f : TrcSt → TrcSt) : (modTrc f c).cores = c.cores := rfl
@[simp] theorem modTrc_dsp (c : Chip) (f : TrcSt → TrcSt) : (modTrc f c).dsp = c.dsp := rfl
@[simp] theorem modTrc_fld (c : Chip) (f : TrcSt → TrcSt) : (modTrc f c).fld = c.fld := rfl
@[simp] theorem modTrc_field (c : Chip) (f : TrcSt → TrcSt) : (modTrc f c).field = c.field := rfl
@[simp] theorem modTrc_bly (c : Chip) (f : TrcSt → TrcSt) : (modTrc f c).bly = c.bly := rfl
@[simp] theorem modTrc_memc (c : Chip) (f : TrcSt → TrcSt) : (modTrc f c).memc = c.memc := rfl
@[simp] theorem modTrc_scb (c : Chip) (f : TrcSt → TrcSt) : (modTrc f c).scb = c.scb := rfl
@[simp] theorem modTrc_keep (c : Chip) (f : TrcSt → TrcSt) : (modTrc f c).keep = c.keep := rfl
@[simp] theorem modTrc_pwr (c : Chip) (f : TrcSt → TrcSt) : (modTrc f c).pwr = c.pwr := rfl
@[simp] theorem modTrc_sec (c : Chip) (f : TrcSt → TrcSt) : (modTrc f c).sec = c.sec := rfl
@[simp] theorem modTrc_dbg (c : Chip) (f : TrcSt → TrcSt) : (modTrc f c).dbg = c.dbg := rfl
@[simp] theorem modTrc_spl (c : Chip) (f : TrcSt → TrcSt) : (modTrc f c).spl = c.spl := rfl
@[simp] theorem modTrc_free (c : Chip) (f : TrcSt → TrcSt) : (modTrc f c).free = c.free := rfl
@[simp] theorem modTrc_svcSafety (c : Chip) (f : TrcSt → TrcSt) : (modTrc f c).svcSafety = c.svcSafety := rfl
@[simp] theorem modTrc_svcPcie (c : Chip) (f : TrcSt → TrcSt) : (modTrc f c).svcPcie = c.svcPcie := rfl
@[simp] theorem modTrc_out (c : Chip) (f : TrcSt → TrcSt) : (modTrc f c).out = c.out := rfl

end Sys2Proof.Machine
end

