-- ==== Sys2Proof/Laws/Causes.lean ====
section
/-!
SUPPORT. Operations that touch page headers by raising causes alone: of every header they change at most PG_EVT (R37). The command
engine's completions are of this kind. `calm` is what they leave.
-/

namespace Sys2Proof.Machine

/-- The headers of all pages, PG_EVT aside. -/
def calm (c : Chip) : Page → PageHdr := fun q => { hdr c q with evt := 0 }

theorem calm_pages {c c' : Chip} (h : c'.pages = c.pages) : calm c' = calm c := by
  unfold calm; simp only [hdr_pages h]

/-- Two chips with the same headers but for PG_EVT. -/
theorem calm_hdr {c c' : Chip} (h : calm c' = calm c) (q : Page) : hdr c' q = { hdr c q with evt := (hdr c' q).evt } := by
  have e : { hdr c' q with evt := 0 } = { hdr c q with evt := 0 } := congrFun h q
  have e2 : { { hdr c' q with evt := 0 } with evt := (hdr c' q).evt } = { { hdr c q with evt := 0 } with evt := (hdr c' q).evt } := by rw [e]
  exact e2

@[simp] theorem calm_raise (p : Page) (b : Nat) (c : Chip) : calm (raise p b c) = calm c := by
  funext q
  unfold calm
  by_cases hq : q = p
  · subst hq; rw [hdr_raise]
  · rw [hdr_raise_ne _ _ _ _ hq]

@[simp] theorem calm_raiseIf (x : Bool) (p : Page) (b : Nat) (c : Chip) : calm (raiseIf x p b c) = calm c := by
  unfold raiseIf; split <;> simp

theorem calm_each {α : Type} (f : α → Chip → Chip) (h : ∀ x c, calm (f x c) = calm c) (l : List α) (c : Chip) : calm (each l f c) = calm c := by
  unfold each
  induction l generalizing c with
  | nil => rfl
  | cons x t ih => rw [List.foldl_cons, ih, h]

@[simp] theorem calm_emit (o : Output) (c : Chip) : calm (emit o c) = calm c := rfl

@[simp] theorem calm_wr (p : Page) (off : Nat) (v : Word) (c : Chip) : calm (wr p off v c) = calm c := rfl

@[simp] theorem calm_updateFull (c : Chip) : calm (updateFull c) = calm c := by
  unfold updateFull; simp; rfl

@[simp] theorem calm_postCq (x : Completion) (c : Chip) : calm (postCq x c) = calm c := by
  unfold postCq; simp; rfl

@[simp] theorem calm_sendIp (ip : Word) (proto : Byte) (l4 : List Byte) (o : Output) (c : Chip) : calm (sendIp ip proto l4 o c) = calm c := by
  unfold sendIp; split
  · rfl
  · simp

@[simp] theorem calm_sendYcp (i : Nat) (ip : Word) (port : BitVec 16) (pr : Protect) (typ : Byte) (seq : Word) (body : List Byte) (o : Output) (c : Chip) :
    calm (sendYcp i ip port pr typ seq body o c) = calm c := calm_sendIp _ _ _ _ _

@[simp] theorem calm_sendResp (i : Nat) (r : YcpResp) (c : Chip) : calm (sendResp i r c) = calm c := calm_sendYcp _ _ _ _ _ _ _ _ _

@[simp] theorem calm_respond (i : Nat) (r : YcpResp) (c : Chip) : calm (respond i r c) = calm c := calm_sendResp _ _ _

@[simp] theorem calm_deliver (x : Completion) (c : Chip) : calm (deliver x c) = calm c := by
  unfold deliver; split
  · split
    · simp
    · rfl
  · simp

@[simp] theorem calm_finish (id : Nat) (status detail : Byte) (result : DWord) (c : Chip) : calm (finish id status detail result c) = calm c := by
  unfold finish; split
  · rfl
  · simp; rfl

@[simp] theorem calm_finishAll (ids : List Nat) (status detail : Byte) (result : DWord) (c : Chip) :
    calm (finishAll ids status detail result c) = calm c :=
  calm_each _ (fun _ _ => calm_finish _ _ _ _ _) ids c

/-! ### The blocks' own state -/

@[simp] theorem calm_setAdc (k : Nat) (x : AdcSt) (c : Chip) : calm (setAdc k x c) = calm c := rfl
@[simp] theorem calm_setSdf (k : Nat) (x : SdfCh) (c : Chip) : calm (setSdf k x c) = calm c := rfl
@[simp] theorem calm_setLoop (k : Nat) (x : LoopAx) (c : Chip) : calm (setLoop k x c) = calm c := rfl
@[simp] theorem calm_setSup (k : Nat) (x : SupAx) (c : Chip) : calm (setSup k x c) = calm c := rfl
@[simp] theorem calm_setMod (k : Nat) (x : ModSt) (c : Chip) : calm (setMod k x c) = calm c := rfl
@[simp] theorem calm_setFbk (k : Nat) (x : FbkSt) (c : Chip) : calm (setFbk k x c) = calm c := rfl
@[simp] theorem calm_setSnl (k : Nat) (x : SnlSt) (c : Chip) : calm (setSnl k x c) = calm c := rfl
@[simp] theorem calm_setBus (k : Nat) (x : BusSt) (c : Chip) : calm (setBus k x c) = calm c := rfl
@[simp] theorem calm_setSq (k : Nat) (x : Sq) (c : Chip) : calm (setSq k x c) = calm c := rfl
@[simp] theorem calm_setSession (k : Nat) (x : Session) (c : Chip) : calm (setSession k x c) = calm c := rfl
@[simp] theorem calm_setCore (k : Nat) (x : CoreSt) (c : Chip) : calm (setCore k x c) = calm c := rfl
@[simp] theorem calm_setLpe (k : Nat) (x : LpeSt) (c : Chip) : calm (setLpe k x c) = calm c := rfl
@[simp] theorem calm_setPort (k : Nat) (x : NetPort) (c : Chip) : calm (setPort k x c) = calm c := rfl
@[simp] theorem calm_setAxis (k : Nat) (x : Axis) (c : Chip) : calm (setAxis k x c) = calm c := rfl
@[simp] theorem calm_setGroup (k : Nat) (x : Group) (c : Chip) : calm (setGroup k x c) = calm c := rfl
@[simp] theorem calm_setHitch (k : Nat) (x : Hitch) (c : Chip) : calm (setHitch k x c) = calm c := rfl
@[simp] theorem calm_setPtp (k : Nat) (x : PtpPort) (c : Chip) : calm (setPtp k x c) = calm c := rfl
@[simp] theorem calm_setKnot (k : Nat) (x : Knot) (c : Chip) : calm (setKnot k x c) = calm c := rfl
@[simp] theorem calm_setSlot (k : Nat) (x : ItemSt) (c : Chip) : calm (setSlot k x c) = calm c := rfl
@[simp] theorem calm_setFlow (k : Nat) (x : FlowSt) (c : Chip) : calm (setFlow k x c) = calm c := rfl
@[simp] theorem calm_setSub (k : Nat) (x : Sub) (c : Chip) : calm (setSub k x c) = calm c := rfl
@[simp] theorem calm_modAdc (k : Nat) (f : AdcSt → AdcSt) (c : Chip) : calm (modAdc k f c) = calm c := rfl
@[simp] theorem calm_modAxis (k : Nat) (f : Axis → Axis) (c : Chip) : calm (modAxis k f c) = calm c := rfl
@[simp] theorem calm_modSup (k : Nat) (f : SupAx → SupAx) (c : Chip) : calm (modSup k f c) = calm c := rfl
@[simp] theorem calm_modMod (k : Nat) (f : ModSt → ModSt) (c : Chip) : calm (modMod k f c) = calm c := rfl
@[simp] theorem calm_modFbk (k : Nat) (f : FbkSt → FbkSt) (c : Chip) : calm (modFbk k f c) = calm c := rfl
@[simp] theorem calm_modCore (k : Nat) (f : CoreSt → CoreSt) (c : Chip) : calm (modCore k f c) = calm c := rfl
@[simp] theorem calm_modSnl (k : Nat) (f : SnlSt → SnlSt) (c : Chip) : calm (modSnl k f c) = calm c := rfl
@[simp] theorem calm_modPort (k : Nat) (f : NetPort → NetPort) (c : Chip) : calm (modPort k f c) = calm c := rfl
@[simp] theorem calm_modSession (k : Nat) (f : Session → Session) (c : Chip) : calm (modSession k f c) = calm c := rfl
@[simp] theorem calm_modField (f : FieldDie → FieldDie) (c : Chip) : calm (modField f c) = calm c := rfl
@[simp] theorem calm_modBly (f : BlySt → BlySt) (c : Chip) : calm (modBly f c) = calm c := rfl
@[simp] theorem calm_modMemc (f : MemCtlSt → MemCtlSt) (c : Chip) : calm (modMemc f c) = calm c := rfl
@[simp] theorem calm_modPwr (f : PwrSt → PwrSt) (c : Chip) : calm (modPwr f c) = calm c := rfl
@[simp] theorem calm_modSec (f : SecSt → SecSt) (c : Chip) : calm (modSec f c) = calm c := rfl
@[simp] theorem calm_modDbg (f : DbgSt → DbgSt) (c : Chip) : calm (modDbg f c) = calm c := rfl
@[simp] theorem calm_modFco (f : FcoJob → FcoJob) (c : Chip) : calm (modFco f c) = calm c := rfl
@[simp] theorem calm_modTim (f : TimSt → TimSt) (c : Chip) : calm (modTim f c) = calm c := rfl
@[simp] theorem calm_modTrc (f : TrcSt → TrcSt) (c : Chip) : calm (modTrc f c) = calm c := rfl

end Sys2Proof.Machine
end

