-- ==== Sys2Proof/Laws/Drive.lean ====
section
/-!
SUPPORT. The operations that block a port's pulses, and the states of a sensorless drive, raise causes and change no page state.
-/

namespace Sys2Proof.Machine

@[simp] theorem calm_brake (n : Nat) (b : Bool) (c : Chip) : calm (brake n b c) = calm c := by
  unfold brake sendSched; simp only []; split <;> rfl

@[simp] theorem calm_resetLoops (n : Nat) (c : Chip) : calm (resetLoops n c) = calm c := by unfold resetLoops; simp

@[simp] theorem calm_blockPulses (n : Nat) (b : Bool) (c : Chip) : calm (blockPulses n b c) = calm c := by
  unfold blockPulses; simp only []
  split
  · simp; split <;> simp
  · simp only [calm_setAxis, calm_finishAll]
    split <;> simp <;> split <;> simp

@[simp] theorem calm_requestBlock (n : Nat) (b : Bool) (c : Chip) : calm (requestBlock n b c) = calm c := by
  unfold requestBlock; split <;> simp

@[simp] theorem calm_snlEnter (n : Nat) (st : SnlState) (c : Chip) : calm (snlEnter n st c) = calm c := by
  unfold snlEnter snlRelease snlBlock; simp only []; split
  · repeat' split
    all_goals simp
  · split <;> simp

@[simp] theorem calm_snlIdle (n : Nat) (c : Chip) : calm (snlIdle n c) = calm c := by
  unfold snlIdle; simp only []; split <;> simp

end Sys2Proof.Machine
end

