-- ==== Sys2Proof/Laws/Faults.lean ====
section
/-!
SUPPORT. Latching a fault (R36), with the splice that it may cut off (R485): what it does to its page's header, and all it leaves.
-/

namespace Sys2Proof.Machine

theorem foldl_regSet (t : Tab Word) (c : Chip) :
    t.foldl (fun c q => regSet q.1 q.2 c) c = { c with regs := (t.foldl (fun c q => regSet q.1 q.2 c) c).regs } := by
  induction t generalizing c with
  | nil => rfl
  | cons x t ih =>
    rw [List.foldl_cons, ih]
    rfl

@[simp] theorem logSplice_regs (p : Page) (o : Nat) (c : Chip) : (logSplice p o c).regs = c.regs := by unfold logSplice; simp
@[simp] theorem logSplice_paths (p : Page) (o : Nat) (c : Chip) : (logSplice p o c).paths = c.paths := by unfold logSplice; simp
@[simp] theorem logSplice_held (p : Page) (o : Nat) (c : Chip) : (logSplice p o c).held = c.held := by unfold logSplice; simp
@[simp] theorem logSplice_faultSeq (p : Page) (o : Nat) (c : Chip) : (logSplice p o c).faultSeq = c.faultSeq := by unfold logSplice; simp
@[simp] theorem logSplice_clk (p : Page) (o : Nat) (c : Chip) : (logSplice p o c).clk = c.clk := by unfold logSplice; simp
@[simp] theorem logSplice_tim (p : Page) (o : Nat) (c : Chip) : (logSplice p o c).tim = c.tim := by unfold logSplice; simp
@[simp] theorem logSplice_knt (p : Page) (o : Nat) (c : Chip) : (logSplice p o c).knt = c.knt := by unfold logSplice; simp
@[simp] theorem logSplice_cmd (p : Page) (o : Nat) (c : Chip) : (logSplice p o c).cmd = c.cmd := by unfold logSplice; simp
@[simp] theorem logSplice_net (p : Page) (o : Nat) (c : Chip) : (logSplice p o c).net = c.net := by unfold logSplice; simp
@[simp] theorem logSplice_ycp (p : Page) (o : Nat) (c : Chip) : (logSplice p o c).ycp = c.ycp := by unfold logSplice; simp
@[simp] theorem logSplice_hfr (p : Page) (o : Nat) (c : Chip) : (logSplice p o c).hfr = c.hfr := by unfold logSplice; simp
@[simp] theorem logSplice_axes (p : Page) (o : Nat) (c : Chip) : (logSplice p o c).axes = c.axes := by unfold logSplice; simp
@[simp] theorem logSplice_grps (p : Page) (o : Nat) (c : Chip) : (logSplice p o c).grps = c.grps := by unfold logSplice; simp
@[simp] theorem logSplice_hits (p : Page) (o : Nat) (c : Chip) : (logSplice p o c).hits = c.hits := by unfold logSplice; simp
@[simp] theorem logSplice_cam (p : Page) (o : Nat) (c : Chip) : (logSplice p o c).cam = c.cam := by unfold logSplice; simp
@[simp] theorem logSplice_loops (p : Page) (o : Nat) (c : Chip) : (logSplice p o c).loops = c.loops := by unfold logSplice; simp
@[simp] theorem logSplice_lpes (p : Page) (o : Nat) (c : Chip) : (logSplice p o c).lpes = c.lpes := by unfold logSplice; simp
@[simp] theorem logSplice_sups (p : Page) (o : Nat) (c : Chip) : (logSplice p o c).sups = c.sups := by unfold logSplice; simp
@[simp] theorem logSplice_buses (p : Page) (o : Nat) (c : Chip) : (logSplice p o c).buses = c.buses := by unfold logSplice; simp
@[simp] theorem logSplice_mods (p : Page) (o : Nat) (c : Chip) : (logSplice p o c).mods = c.mods := by unfold logSplice; simp
@[simp] theorem logSplice_fbks (p : Page) (o : Nat) (c : Chip) : (logSplice p o c).fbks = c.fbks := by unfold logSplice; simp
@[simp] theorem logSplice_snls (p : Page) (o : Nat) (c : Chip) : (logSplice p o c).snls = c.snls := by unfold logSplice; simp
@[simp] theorem logSplice_adcs (p : Page) (o : Nat) (c : Chip) : (logSplice p o c).adcs = c.adcs := by unfold logSplice; simp
@[simp] theorem logSplice_sdfs (p : Page) (o : Nat) (c : Chip) : (logSplice p o c).sdfs = c.sdfs := by unfold logSplice; simp
@[simp] theorem logSplice_sdfSeq (p : Page) (o : Nat) (c : Chip) : (logSplice p o c).sdfSeq = c.sdfSeq := by unfold logSplice; simp
@[simp] theorem logSplice_cores (p : Page) (o : Nat) (c : Chip) : (logSplice p o c).cores = c.cores := by unfold logSplice; simp
@[simp] theorem logSplice_dsp (p : Page) (o : Nat) (c : Chip) : (logSplice p o c).dsp = c.dsp := by unfold logSplice; simp
@[simp] theorem logSplice_trc (p : Page) (o : Nat) (c : Chip) : (logSplice p o c).trc = c.trc := by unfold logSplice; simp
@[simp] theorem logSplice_fld (p : Page) (o : Nat) (c : Chip) : (logSplice p o c).fld = c.fld := by unfold logSplice; simp
@[simp] theorem logSplice_field (p : Page) (o : Nat) (c : Chip) : (logSplice p o c).field = c.field := by unfold logSplice; simp
@[simp] theorem logSplice_bly (p : Page) (o : Nat) (c : Chip) : (logSplice p o c).bly = c.bly := by unfold logSplice; simp
@[simp] theorem logSplice_memc (p : Page) (o : Nat) (c : Chip) : (logSplice p o c).memc = c.memc := by unfold logSplice; simp
@[simp] theorem logSplice_scb (p : Page) (o : Nat) (c : Chip) : (logSplice p o c).scb = c.scb := by unfold logSplice; simp
@[simp] theorem logSplice_keep (p : Page) (o : Nat) (c : Chip) : (logSplice p o c).keep = c.keep := by unfold logSplice; simp
@[simp] theorem logSplice_pwr (p : Page) (o : Nat) (c : Chip) : (logSplice p o c).pwr = c.pwr := by unfold logSplice; simp
@[simp] theorem logSplice_sec (p : Page) (o : Nat) (c : Chip) : (logSplice p o c).sec = c.sec := by unfold logSplice; simp
@[simp] theorem logSplice_dbg (p : Page) (o : Nat) (c : Chip) : (logSplice p o c).dbg = c.dbg := by unfold logSplice; simp
@[simp] theorem logSplice_free (p : Page) (o : Nat) (c : Chip) : (logSplice p o c).free = c.free := by unfold logSplice; simp
@[simp] theorem logSplice_svcSafety (p : Page) (o : Nat) (c : Chip) : (logSplice p o c).svcSafety = c.svcSafety := by unfold logSplice; simp
@[simp] theorem logSplice_svcPcie (p : Page) (o : Nat) (c : Chip) : (logSplice p o c).svcPcie = c.svcPcie := by unfold logSplice; simp
@[simp] theorem logSplice_out (p : Page) (o : Nat) (c : Chip) : (logSplice p o c).out = c.out := by unfold logSplice; simp

@[simp] theorem restoreFormer_pages (p : Page) (c : Chip) : (restoreFormer p c).pages = c.pages := by unfold restoreFormer; dsimp only; rw [foldl_regSet]
@[simp] theorem restoreFormer_paths (p : Page) (c : Chip) : (restoreFormer p c).paths = c.paths := by unfold restoreFormer; dsimp only; rw [foldl_regSet]
@[simp] theorem restoreFormer_held (p : Page) (c : Chip) : (restoreFormer p c).held = c.held := by unfold restoreFormer; dsimp only; rw [foldl_regSet]
@[simp] theorem restoreFormer_faultSeq (p : Page) (c : Chip) : (restoreFormer p c).faultSeq = c.faultSeq := by unfold restoreFormer; dsimp only; rw [foldl_regSet]
@[simp] theorem restoreFormer_clk (p : Page) (c : Chip) : (restoreFormer p c).clk = c.clk := by unfold restoreFormer; dsimp only; rw [foldl_regSet]
@[simp] theorem restoreFormer_tim (p : Page) (c : Chip) : (restoreFormer p c).tim = c.tim := by unfold restoreFormer; dsimp only; rw [foldl_regSet]
@[simp] theorem restoreFormer_knt (p : Page) (c : Chip) : (restoreFormer p c).knt = c.knt := by unfold restoreFormer; dsimp only; rw [foldl_regSet]
@[simp] theorem restoreFormer_evt (p : Page) (c : Chip) : (restoreFormer p c).evt = c.evt := by unfold restoreFormer; dsimp only; rw [foldl_regSet]
@[simp] theorem restoreFormer_cmd (p : Page) (c : Chip) : (restoreFormer p c).cmd = c.cmd := by unfold restoreFormer; dsimp only; rw [foldl_regSet]
@[simp] theorem restoreFormer_net (p : Page) (c : Chip) : (restoreFormer p c).net = c.net := by unfold restoreFormer; dsimp only; rw [foldl_regSet]
@[simp] theorem restoreFormer_ycp (p : Page) (c : Chip) : (restoreFormer p c).ycp = c.ycp := by unfold restoreFormer; dsimp only; rw [foldl_regSet]
@[simp] theorem restoreFormer_hfr (p : Page) (c : Chip) : (restoreFormer p c).hfr = c.hfr := by unfold restoreFormer; dsimp only; rw [foldl_regSet]
@[simp] theorem restoreFormer_axes (p : Page) (c : Chip) : (restoreFormer p c).axes = c.axes := by unfold restoreFormer; dsimp only; rw [foldl_regSet]
@[simp] theorem restoreFormer_grps (p : Page) (c : Chip) : (restoreFormer p c).grps = c.grps := by unfold restoreFormer; dsimp only; rw [foldl_regSet]
@[simp] theorem restoreFormer_hits (p : Page) (c : Chip) : (restoreFormer p c).hits = c.hits := by unfold restoreFormer; dsimp only; rw [foldl_regSet]
@[simp] theorem restoreFormer_cam (p : Page) (c : Chip) : (restoreFormer p c).cam = c.cam := by unfold restoreFormer; dsimp only; rw [foldl_regSet]
@[simp] theorem restoreFormer_loops (p : Page) (c : Chip) : (restoreFormer p c).loops = c.loops := by unfold restoreFormer; dsimp only; rw [foldl_regSet]
@[simp] theorem restoreFormer_lpes (p : Page) (c : Chip) : (restoreFormer p c).lpes = c.lpes := by unfold restoreFormer; dsimp only; rw [foldl_regSet]
@[simp] theorem restoreFormer_sups (p : Page) (c : Chip) : (restoreFormer p c).sups = c.sups := by unfold restoreFormer; dsimp only; rw [foldl_regSet]
@[simp] theorem restoreFormer_buses (p : Page) (c : Chip) : (restoreFormer p c).buses = c.buses := by unfold restoreFormer; dsimp only; rw [foldl_regSet]
@[simp] theorem restoreFormer_mods (p : Page) (c : Chip) : (restoreFormer p c).mods = c.mods := by unfold restoreFormer; dsimp only; rw [foldl_regSet]
@[simp] theorem restoreFormer_fbks (p : Page) (c : Chip) : (restoreFormer p c).fbks = c.fbks := by unfold restoreFormer; dsimp only; rw [foldl_regSet]
@[simp] theorem restoreFormer_snls (p : Page) (c : Chip) : (restoreFormer p c).snls = c.snls := by unfold restoreFormer; dsimp only; rw [foldl_regSet]
@[simp] theorem restoreFormer_adcs (p : Page) (c : Chip) : (restoreFormer p c).adcs = c.adcs := by unfold restoreFormer; dsimp only; rw [foldl_regSet]
@[simp] theorem restoreFormer_sdfs (p : Page) (c : Chip) : (restoreFormer p c).sdfs = c.sdfs := by unfold restoreFormer; dsimp only; rw [foldl_regSet]
@[simp] theorem restoreFormer_sdfSeq (p : Page) (c : Chip) : (restoreFormer p c).sdfSeq = c.sdfSeq := by unfold restoreFormer; dsimp only; rw [foldl_regSet]
@[simp] theorem restoreFormer_cores (p : Page) (c : Chip) : (restoreFormer p c).cores = c.cores := by unfold restoreFormer; dsimp only; rw [foldl_regSet]
@[simp] theorem restoreFormer_dsp (p : Page) (c : Chip) : (restoreFormer p c).dsp = c.dsp := by unfold restoreFormer; dsimp only; rw [foldl_regSet]
@[simp] theorem restoreFormer_trc (p : Page) (c : Chip) : (restoreFormer p c).trc = c.trc := by unfold restoreFormer; dsimp only; rw [foldl_regSet]
@[simp] theorem restoreFormer_fld (p : Page) (c : Chip) : (restoreFormer p c).fld = c.fld := by unfold restoreFormer; dsimp only; rw [foldl_regSet]
@[simp] theorem restoreFormer_field (p : Page) (c : Chip) : (restoreFormer p c).field = c.field := by unfold restoreFormer; dsimp only; rw [foldl_regSet]
@[simp] theorem restoreFormer_bly (p : Page) (c : Chip) : (restoreFormer p c).bly = c.bly := by unfold restoreFormer; dsimp only; rw [foldl_regSet]
@[simp] theorem restoreFormer_memc (p : Page) (c : Chip) : (restoreFormer p c).memc = c.memc := by unfold restoreFormer; dsimp only; rw [foldl_regSet]
@[simp] theorem restoreFormer_scb (p : Page) (c : Chip) : (restoreFormer p c).scb = c.scb := by unfold restoreFormer; dsimp only; rw [foldl_regSet]
@[simp] theorem restoreFormer_keep (p : Page) (c : Chip) : (restoreFormer p c).keep = c.keep := by unfold restoreFormer; dsimp only; rw [foldl_regSet]
@[simp] theorem restoreFormer_pwr (p : Page) (c : Chip) : (restoreFormer p c).pwr = c.pwr := by unfold restoreFormer; dsimp only; rw [foldl_regSet]
@[simp] theorem restoreFormer_sec (p : Page) (c : Chip) : (restoreFormer p c).sec = c.sec := by unfold restoreFormer; dsimp only; rw [foldl_regSet]
@[simp] theorem restoreFormer_dbg (p : Page) (c : Chip) : (restoreFormer p c).dbg = c.dbg := by unfold restoreFormer; dsimp only; rw [foldl_regSet]
@[simp] theorem restoreFormer_free (p : Page) (c : Chip) : (restoreFormer p c).free = c.free := by unfold restoreFormer; dsimp only; rw [foldl_regSet]
@[simp] theorem restoreFormer_svcSafety (p : Page) (c : Chip) : (restoreFormer p c).svcSafety = c.svcSafety := by unfold restoreFormer; dsimp only; rw [foldl_regSet]
@[simp] theorem restoreFormer_svcPcie (p : Page) (c : Chip) : (restoreFormer p c).svcPcie = c.svcPcie := by unfold restoreFormer; dsimp only; rw [foldl_regSet]
@[simp] theorem restoreFormer_out (p : Page) (c : Chip) : (restoreFormer p c).out = c.out := by unfold restoreFormer; dsimp only; rw [foldl_regSet]

@[simp] theorem spliceOver_regs (p : Page) (o : Nat) (c : Chip) : (spliceOver p o c).regs = c.regs := by unfold spliceOver; simp
@[simp] theorem spliceOver_paths (p : Page) (o : Nat) (c : Chip) : (spliceOver p o c).paths = c.paths := by unfold spliceOver; simp
@[simp] theorem spliceOver_held (p : Page) (o : Nat) (c : Chip) : (spliceOver p o c).held = c.held := by unfold spliceOver; simp
@[simp] theorem spliceOver_faultSeq (p : Page) (o : Nat) (c : Chip) : (spliceOver p o c).faultSeq = c.faultSeq := by unfold spliceOver; simp
@[simp] theorem spliceOver_clk (p : Page) (o : Nat) (c : Chip) : (spliceOver p o c).clk = c.clk := by unfold spliceOver; simp
@[simp] theorem spliceOver_tim (p : Page) (o : Nat) (c : Chip) : (spliceOver p o c).tim = c.tim := by unfold spliceOver; simp
@[simp] theorem spliceOver_knt (p : Page) (o : Nat) (c : Chip) : (spliceOver p o c).knt = c.knt := by unfold spliceOver; simp
@[simp] theorem spliceOver_cmd (p : Page) (o : Nat) (c : Chip) : (spliceOver p o c).cmd = c.cmd := by unfold spliceOver; simp
@[simp] theorem spliceOver_net (p : Page) (o : Nat) (c : Chip) : (spliceOver p o c).net = c.net := by unfold spliceOver; simp
@[simp] theorem spliceOver_ycp (p : Page) (o : Nat) (c : Chip) : (spliceOver p o c).ycp = c.ycp := by unfold spliceOver; simp
@[simp] theorem spliceOver_hfr (p : Page) (o : Nat) (c : Chip) : (spliceOver p o c).hfr = c.hfr := by unfold spliceOver; simp
@[simp] theorem spliceOver_axes (p : Page) (o : Nat) (c : Chip) : (spliceOver p o c).axes = c.axes := by unfold spliceOver; simp
@[simp] theorem spliceOver_grps (p : Page) (o : Nat) (c : Chip) : (spliceOver p o c).grps = c.grps := by unfold spliceOver; simp
@[simp] theorem spliceOver_hits (p : Page) (o : Nat) (c : Chip) : (spliceOver p o c).hits = c.hits := by unfold spliceOver; simp
@[simp] theorem spliceOver_cam (p : Page) (o : Nat) (c : Chip) : (spliceOver p o c).cam = c.cam := by unfold spliceOver; simp
@[simp] theorem spliceOver_loops (p : Page) (o : Nat) (c : Chip) : (spliceOver p o c).loops = c.loops := by unfold spliceOver; simp
@[simp] theorem spliceOver_lpes (p : Page) (o : Nat) (c : Chip) : (spliceOver p o c).lpes = c.lpes := by unfold spliceOver; simp
@[simp] theorem spliceOver_sups (p : Page) (o : Nat) (c : Chip) : (spliceOver p o c).sups = c.sups := by unfold spliceOver; simp
@[simp] theorem spliceOver_buses (p : Page) (o : Nat) (c : Chip) : (spliceOver p o c).buses = c.buses := by unfold spliceOver; simp
@[simp] theorem spliceOver_mods (p : Page) (o : Nat) (c : Chip) : (spliceOver p o c).mods = c.mods := by unfold spliceOver; simp
@[simp] theorem spliceOver_fbks (p : Page) (o : Nat) (c : Chip) : (spliceOver p o c).fbks = c.fbks := by unfold spliceOver; simp
@[simp] theorem spliceOver_snls (p : Page) (o : Nat) (c : Chip) : (spliceOver p o c).snls = c.snls := by unfold spliceOver; simp
@[simp] theorem spliceOver_adcs (p : Page) (o : Nat) (c : Chip) : (spliceOver p o c).adcs = c.adcs := by unfold spliceOver; simp
@[simp] theorem spliceOver_sdfs (p : Page) (o : Nat) (c : Chip) : (spliceOver p o c).sdfs = c.sdfs := by unfold spliceOver; simp
@[simp] theorem spliceOver_sdfSeq (p : Page) (o : Nat) (c : Chip) : (spliceOver p o c).sdfSeq = c.sdfSeq := by unfold spliceOver; simp
@[simp] theorem spliceOver_cores (p : Page) (o : Nat) (c : Chip) : (spliceOver p o c).cores = c.cores := by unfold spliceOver; simp
@[simp] theorem spliceOver_dsp (p : Page) (o : Nat) (c : Chip) : (spliceOver p o c).dsp = c.dsp := by unfold spliceOver; simp
@[simp] theorem spliceOver_trc (p : Page) (o : Nat) (c : Chip) : (spliceOver p o c).trc = c.trc := by unfold spliceOver; simp
@[simp] theorem spliceOver_fld (p : Page) (o : Nat) (c : Chip) : (spliceOver p o c).fld = c.fld := by unfold spliceOver; simp
@[simp] theorem spliceOver_field (p : Page) (o : Nat) (c : Chip) : (spliceOver p o c).field = c.field := by unfold spliceOver; simp
@[simp] theorem spliceOver_bly (p : Page) (o : Nat) (c : Chip) : (spliceOver p o c).bly = c.bly := by unfold spliceOver; simp
@[simp] theorem spliceOver_memc (p : Page) (o : Nat) (c : Chip) : (spliceOver p o c).memc = c.memc := by unfold spliceOver; simp
@[simp] theorem spliceOver_scb (p : Page) (o : Nat) (c : Chip) : (spliceOver p o c).scb = c.scb := by unfold spliceOver; simp
@[simp] theorem spliceOver_keep (p : Page) (o : Nat) (c : Chip) : (spliceOver p o c).keep = c.keep := by unfold spliceOver; simp
@[simp] theorem spliceOver_pwr (p : Page) (o : Nat) (c : Chip) : (spliceOver p o c).pwr = c.pwr := by unfold spliceOver; simp
@[simp] theorem spliceOver_sec (p : Page) (o : Nat) (c : Chip) : (spliceOver p o c).sec = c.sec := by unfold spliceOver; simp
@[simp] theorem spliceOver_dbg (p : Page) (o : Nat) (c : Chip) : (spliceOver p o c).dbg = c.dbg := by unfold spliceOver; simp
@[simp] theorem spliceOver_free (p : Page) (o : Nat) (c : Chip) : (spliceOver p o c).free = c.free := by unfold spliceOver; simp
@[simp] theorem spliceOver_svcSafety (p : Page) (o : Nat) (c : Chip) : (spliceOver p o c).svcSafety = c.svcSafety := by unfold spliceOver; simp
@[simp] theorem spliceOver_svcPcie (p : Page) (o : Nat) (c : Chip) : (spliceOver p o c).svcPcie = c.svcPcie := by unfold spliceOver; simp
@[simp] theorem spliceOver_out (p : Page) (o : Nat) (c : Chip) : (spliceOver p o c).out = c.out := by unfold spliceOver; simp

@[simp] theorem spliceCut_paths (p : Page) (c : Chip) : (spliceCut p c).paths = c.paths := by unfold spliceCut; split <;> simp
@[simp] theorem spliceCut_held (p : Page) (c : Chip) : (spliceCut p c).held = c.held := by unfold spliceCut; split <;> simp
@[simp] theorem spliceCut_faultSeq (p : Page) (c : Chip) : (spliceCut p c).faultSeq = c.faultSeq := by unfold spliceCut; split <;> simp
@[simp] theorem spliceCut_clk (p : Page) (c : Chip) : (spliceCut p c).clk = c.clk := by unfold spliceCut; split <;> simp
@[simp] theorem spliceCut_tim (p : Page) (c : Chip) : (spliceCut p c).tim = c.tim := by unfold spliceCut; split <;> simp
@[simp] theorem spliceCut_knt (p : Page) (c : Chip) : (spliceCut p c).knt = c.knt := by unfold spliceCut; split <;> simp
@[simp] theorem spliceCut_cmd (p : Page) (c : Chip) : (spliceCut p c).cmd = c.cmd := by unfold spliceCut; split <;> simp
@[simp] theorem spliceCut_net (p : Page) (c : Chip) : (spliceCut p c).net = c.net := by unfold spliceCut; split <;> simp
@[simp] theorem spliceCut_ycp (p : Page) (c : Chip) : (spliceCut p c).ycp = c.ycp := by unfold spliceCut; split <;> simp
@[simp] theorem spliceCut_hfr (p : Page) (c : Chip) : (spliceCut p c).hfr = c.hfr := by unfold spliceCut; split <;> simp
@[simp] theorem spliceCut_axes (p : Page) (c : Chip) : (spliceCut p c).axes = c.axes := by unfold spliceCut; split <;> simp
@[simp] theorem spliceCut_grps (p : Page) (c : Chip) : (spliceCut p c).grps = c.grps := by unfold spliceCut; split <;> simp
@[simp] theorem spliceCut_hits (p : Page) (c : Chip) : (spliceCut p c).hits = c.hits := by unfold spliceCut; split <;> simp
@[simp] theorem spliceCut_cam (p : Page) (c : Chip) : (spliceCut p c).cam = c.cam := by unfold spliceCut; split <;> simp
@[simp] theorem spliceCut_loops (p : Page) (c : Chip) : (spliceCut p c).loops = c.loops := by unfold spliceCut; split <;> simp
@[simp] theorem spliceCut_lpes (p : Page) (c : Chip) : (spliceCut p c).lpes = c.lpes := by unfold spliceCut; split <;> simp
@[simp] theorem spliceCut_sups (p : Page) (c : Chip) : (spliceCut p c).sups = c.sups := by unfold spliceCut; split <;> simp
@[simp] theorem spliceCut_buses (p : Page) (c : Chip) : (spliceCut p c).buses = c.buses := by unfold spliceCut; split <;> simp
@[simp] theorem spliceCut_mods (p : Page) (c : Chip) : (spliceCut p c).mods = c.mods := by unfold spliceCut; split <;> simp
@[simp] theorem spliceCut_fbks (p : Page) (c : Chip) : (spliceCut p c).fbks = c.fbks := by unfold spliceCut; split <;> simp
@[simp] theorem spliceCut_snls (p : Page) (c : Chip) : (spliceCut p c).snls = c.snls := by unfold spliceCut; split <;> simp
@[simp] theorem spliceCut_adcs (p : Page) (c : Chip) : (spliceCut p c).adcs = c.adcs := by unfold spliceCut; split <;> simp
@[simp] theorem spliceCut_sdfs (p : Page) (c : Chip) : (spliceCut p c).sdfs = c.sdfs := by unfold spliceCut; split <;> simp
@[simp] theorem spliceCut_sdfSeq (p : Page) (c : Chip) : (spliceCut p c).sdfSeq = c.sdfSeq := by unfold spliceCut; split <;> simp
@[simp] theorem spliceCut_cores (p : Page) (c : Chip) : (spliceCut p c).cores = c.cores := by unfold spliceCut; split <;> simp
@[simp] theorem spliceCut_dsp (p : Page) (c : Chip) : (spliceCut p c).dsp = c.dsp := by unfold spliceCut; split <;> simp
@[simp] theorem spliceCut_trc (p : Page) (c : Chip) : (spliceCut p c).trc = c.trc := by unfold spliceCut; split <;> simp
@[simp] theorem spliceCut_fld (p : Page) (c : Chip) : (spliceCut p c).fld = c.fld := by unfold spliceCut; split <;> simp
@[simp] theorem spliceCut_field (p : Page) (c : Chip) : (spliceCut p c).field = c.field := by unfold spliceCut; split <;> simp
@[simp] theorem spliceCut_bly (p : Page) (c : Chip) : (spliceCut p c).bly = c.bly := by unfold spliceCut; split <;> simp
@[simp] theorem spliceCut_memc (p : Page) (c : Chip) : (spliceCut p c).memc = c.memc := by unfold spliceCut; split <;> simp
@[simp] theorem spliceCut_scb (p : Page) (c : Chip) : (spliceCut p c).scb = c.scb := by unfold spliceCut; split <;> simp
@[simp] theorem spliceCut_keep (p : Page) (c : Chip) : (spliceCut p c).keep = c.keep := by unfold spliceCut; split <;> simp
@[simp] theorem spliceCut_pwr (p : Page) (c : Chip) : (spliceCut p c).pwr = c.pwr := by unfold spliceCut; split <;> simp
@[simp] theorem spliceCut_sec (p : Page) (c : Chip) : (spliceCut p c).sec = c.sec := by unfold spliceCut; split <;> simp
@[simp] theorem spliceCut_dbg (p : Page) (c : Chip) : (spliceCut p c).dbg = c.dbg := by unfold spliceCut; split <;> simp
@[simp] theorem spliceCut_free (p : Page) (c : Chip) : (spliceCut p c).free = c.free := by unfold spliceCut; split <;> simp
@[simp] theorem spliceCut_svcSafety (p : Page) (c : Chip) : (spliceCut p c).svcSafety = c.svcSafety := by unfold spliceCut; split <;> simp
@[simp] theorem spliceCut_svcPcie (p : Page) (c : Chip) : (spliceCut p c).svcPcie = c.svcPcie := by unfold spliceCut; split <;> simp
@[simp] theorem spliceCut_out (p : Page) (c : Chip) : (spliceCut p c).out = c.out := by unfold spliceCut; split <;> simp

@[simp] theorem latchFault_paths (p : Page) (code : Byte) (c : Chip) : (latchFault p code c).paths = c.paths := by unfold latchFault; dsimp only; (split <;> (try simp) <;> split <;> simp)
@[simp] theorem latchFault_held (p : Page) (code : Byte) (c : Chip) : (latchFault p code c).held = c.held := by unfold latchFault; dsimp only; (split <;> (try simp) <;> split <;> simp)
@[simp] theorem latchFault_clk (p : Page) (code : Byte) (c : Chip) : (latchFault p code c).clk = c.clk := by unfold latchFault; dsimp only; (split <;> (try simp) <;> split <;> simp)
@[simp] theorem latchFault_tim (p : Page) (code : Byte) (c : Chip) : (latchFault p code c).tim = c.tim := by unfold latchFault; dsimp only; (split <;> (try simp) <;> split <;> simp)
@[simp] theorem latchFault_knt (p : Page) (code : Byte) (c : Chip) : (latchFault p code c).knt = c.knt := by unfold latchFault; dsimp only; (split <;> (try simp) <;> split <;> simp)
@[simp] theorem latchFault_cmd (p : Page) (code : Byte) (c : Chip) : (latchFault p code c).cmd = c.cmd := by unfold latchFault; dsimp only; (split <;> (try simp) <;> split <;> simp)
@[simp] theorem latchFault_net (p : Page) (code : Byte) (c : Chip) : (latchFault p code c).net = c.net := by unfold latchFault; dsimp only; (split <;> (try simp) <;> split <;> simp)
@[simp] theorem latchFault_ycp (p : Page) (code : Byte) (c : Chip) : (latchFault p code c).ycp = c.ycp := by unfold latchFault; dsimp only; (split <;> (try simp) <;> split <;> simp)
@[simp] theorem latchFault_hfr (p : Page) (code : Byte) (c : Chip) : (latchFault p code c).hfr = c.hfr := by unfold latchFault; dsimp only; (split <;> (try simp) <;> split <;> simp)
@[simp] theorem latchFault_axes (p : Page) (code : Byte) (c : Chip) : (latchFault p code c).axes = c.axes := by unfold latchFault; dsimp only; (split <;> (try simp) <;> split <;> simp)
@[simp] theorem latchFault_grps (p : Page) (code : Byte) (c : Chip) : (latchFault p code c).grps = c.grps := by unfold latchFault; dsimp only; (split <;> (try simp) <;> split <;> simp)
@[simp] theorem latchFault_hits (p : Page) (code : Byte) (c : Chip) : (latchFault p code c).hits = c.hits := by unfold latchFault; dsimp only; (split <;> (try simp) <;> split <;> simp)
@[simp] theorem latchFault_cam (p : Page) (code : Byte) (c : Chip) : (latchFault p code c).cam = c.cam := by unfold latchFault; dsimp only; (split <;> (try simp) <;> split <;> simp)
@[simp] theorem latchFault_loops (p : Page) (code : Byte) (c : Chip) : (latchFault p code c).loops = c.loops := by unfold latchFault; dsimp only; (split <;> (try simp) <;> split <;> simp)
@[simp] theorem latchFault_lpes (p : Page) (code : Byte) (c : Chip) : (latchFault p code c).lpes = c.lpes := by unfold latchFault; dsimp only; (split <;> (try simp) <;> split <;> simp)
@[simp] theorem latchFault_sups (p : Page) (code : Byte) (c : Chip) : (latchFault p code c).sups = c.sups := by unfold latchFault; dsimp only; (split <;> (try simp) <;> split <;> simp)
@[simp] theorem latchFault_buses (p : Page) (code : Byte) (c : Chip) : (latchFault p code c).buses = c.buses := by unfold latchFault; dsimp only; (split <;> (try simp) <;> split <;> simp)
@[simp] theorem latchFault_mods (p : Page) (code : Byte) (c : Chip) : (latchFault p code c).mods = c.mods := by unfold latchFault; dsimp only; (split <;> (try simp) <;> split <;> simp)
@[simp] theorem latchFault_fbks (p : Page) (code : Byte) (c : Chip) : (latchFault p code c).fbks = c.fbks := by unfold latchFault; dsimp only; (split <;> (try simp) <;> split <;> simp)
@[simp] theorem latchFault_snls (p : Page) (code : Byte) (c : Chip) : (latchFault p code c).snls = c.snls := by unfold latchFault; dsimp only; (split <;> (try simp) <;> split <;> simp)
@[simp] theorem latchFault_adcs (p : Page) (code : Byte) (c : Chip) : (latchFault p code c).adcs = c.adcs := by unfold latchFault; dsimp only; (split <;> (try simp) <;> split <;> simp)
@[simp] theorem latchFault_sdfs (p : Page) (code : Byte) (c : Chip) : (latchFault p code c).sdfs = c.sdfs := by unfold latchFault; dsimp only; (split <;> (try simp) <;> split <;> simp)
@[simp] theorem latchFault_sdfSeq (p : Page) (code : Byte) (c : Chip) : (latchFault p code c).sdfSeq = c.sdfSeq := by unfold latchFault; dsimp only; (split <;> (try simp) <;> split <;> simp)
@[simp] theorem latchFault_cores (p : Page) (code : Byte) (c : Chip) : (latchFault p code c).cores = c.cores := by unfold latchFault; dsimp only; (split <;> (try simp) <;> split <;> simp)
@[simp] theorem latchFault_dsp (p : Page) (code : Byte) (c : Chip) : (latchFault p code c).dsp = c.dsp := by unfold latchFault; dsimp only; (split <;> (try simp) <;> split <;> simp)
@[simp] theorem latchFault_trc (p : Page) (code : Byte) (c : Chip) : (latchFault p code c).trc = c.trc := by unfold latchFault; dsimp only; (split <;> (try simp) <;> split <;> simp)
@[simp] theorem latchFault_fld (p : Page) (code : Byte) (c : Chip) : (latchFault p code c).fld = c.fld := by unfold latchFault; dsimp only; (split <;> (try simp) <;> split <;> simp)
@[simp] theorem latchFault_field (p : Page) (code : Byte) (c : Chip) : (latchFault p code c).field = c.field := by unfold latchFault; dsimp only; (split <;> (try simp) <;> split <;> simp)
@[simp] theorem latchFault_bly (p : Page) (code : Byte) (c : Chip) : (latchFault p code c).bly = c.bly := by unfold latchFault; dsimp only; (split <;> (try simp) <;> split <;> simp)
@[simp] theorem latchFault_memc (p : Page) (code : Byte) (c : Chip) : (latchFault p code c).memc = c.memc := by unfold latchFault; dsimp only; (split <;> (try simp) <;> split <;> simp)
@[simp] theorem latchFault_scb (p : Page) (code : Byte) (c : Chip) : (latchFault p code c).scb = c.scb := by unfold latchFault; dsimp only; (split <;> (try simp) <;> split <;> simp)
@[simp] theorem latchFault_keep (p : Page) (code : Byte) (c : Chip) : (latchFault p code c).keep = c.keep := by unfold latchFault; dsimp only; (split <;> (try simp) <;> split <;> simp)
@[simp] theorem latchFault_pwr (p : Page) (code : Byte) (c : Chip) : (latchFault p code c).pwr = c.pwr := by unfold latchFault; dsimp only; (split <;> (try simp) <;> split <;> simp)
@[simp] theorem latchFault_sec (p : Page) (code : Byte) (c : Chip) : (latchFault p code c).sec = c.sec := by unfold latchFault; dsimp only; (split <;> (try simp) <;> split <;> simp)
@[simp] theorem latchFault_dbg (p : Page) (code : Byte) (c : Chip) : (latchFault p code c).dbg = c.dbg := by unfold latchFault; dsimp only; (split <;> (try simp) <;> split <;> simp)
@[simp] theorem latchFault_free (p : Page) (code : Byte) (c : Chip) : (latchFault p code c).free = c.free := by unfold latchFault; dsimp only; (split <;> (try simp) <;> split <;> simp)
@[simp] theorem latchFault_svcSafety (p : Page) (code : Byte) (c : Chip) : (latchFault p code c).svcSafety = c.svcSafety := by unfold latchFault; dsimp only; (split <;> (try simp) <;> split <;> simp)
@[simp] theorem latchFault_svcPcie (p : Page) (code : Byte) (c : Chip) : (latchFault p code c).svcPcie = c.svcPcie := by unfold latchFault; dsimp only; (split <;> (try simp) <;> split <;> simp)
@[simp] theorem latchFault_out (p : Page) (code : Byte) (c : Chip) : (latchFault p code c).out = c.out := by unfold latchFault; dsimp only; (split <;> (try simp) <;> split <;> simp)

@[simp] theorem latchCond_paths (p : Page) (code : Byte) (c : Chip) : (latchCond p code c).paths = c.paths := by unfold latchCond; split <;> simp
@[simp] theorem latchCond_held (p : Page) (code : Byte) (c : Chip) : (latchCond p code c).held = c.held := by unfold latchCond; split <;> simp
@[simp] theorem latchCond_clk (p : Page) (code : Byte) (c : Chip) : (latchCond p code c).clk = c.clk := by unfold latchCond; split <;> simp
@[simp] theorem latchCond_tim (p : Page) (code : Byte) (c : Chip) : (latchCond p code c).tim = c.tim := by unfold latchCond; split <;> simp
@[simp] theorem latchCond_knt (p : Page) (code : Byte) (c : Chip) : (latchCond p code c).knt = c.knt := by unfold latchCond; split <;> simp
@[simp] theorem latchCond_cmd (p : Page) (code : Byte) (c : Chip) : (latchCond p code c).cmd = c.cmd := by unfold latchCond; split <;> simp
@[simp] theorem latchCond_net (p : Page) (code : Byte) (c : Chip) : (latchCond p code c).net = c.net := by unfold latchCond; split <;> simp
@[simp] theorem latchCond_ycp (p : Page) (code : Byte) (c : Chip) : (latchCond p code c).ycp = c.ycp := by unfold latchCond; split <;> simp
@[simp] theorem latchCond_hfr (p : Page) (code : Byte) (c : Chip) : (latchCond p code c).hfr = c.hfr := by unfold latchCond; split <;> simp
@[simp] theorem latchCond_axes (p : Page) (code : Byte) (c : Chip) : (latchCond p code c).axes = c.axes := by unfold latchCond; split <;> simp
@[simp] theorem latchCond_grps (p : Page) (code : Byte) (c : Chip) : (latchCond p code c).grps = c.grps := by unfold latchCond; split <;> simp
@[simp] theorem latchCond_hits (p : Page) (code : Byte) (c : Chip) : (latchCond p code c).hits = c.hits := by unfold latchCond; split <;> simp
@[simp] theorem latchCond_cam (p : Page) (code : Byte) (c : Chip) : (latchCond p code c).cam = c.cam := by unfold latchCond; split <;> simp
@[simp] theorem latchCond_loops (p : Page) (code : Byte) (c : Chip) : (latchCond p code c).loops = c.loops := by unfold latchCond; split <;> simp
@[simp] theorem latchCond_lpes (p : Page) (code : Byte) (c : Chip) : (latchCond p code c).lpes = c.lpes := by unfold latchCond; split <;> simp
@[simp] theorem latchCond_sups (p : Page) (code : Byte) (c : Chip) : (latchCond p code c).sups = c.sups := by unfold latchCond; split <;> simp
@[simp] theorem latchCond_buses (p : Page) (code : Byte) (c : Chip) : (latchCond p code c).buses = c.buses := by unfold latchCond; split <;> simp
@[simp] theorem latchCond_mods (p : Page) (code : Byte) (c : Chip) : (latchCond p code c).mods = c.mods := by unfold latchCond; split <;> simp
@[simp] theorem latchCond_fbks (p : Page) (code : Byte) (c : Chip) : (latchCond p code c).fbks = c.fbks := by unfold latchCond; split <;> simp
@[simp] theorem latchCond_snls (p : Page) (code : Byte) (c : Chip) : (latchCond p code c).snls = c.snls := by unfold latchCond; split <;> simp
@[simp] theorem latchCond_adcs (p : Page) (code : Byte) (c : Chip) : (latchCond p code c).adcs = c.adcs := by unfold latchCond; split <;> simp
@[simp] theorem latchCond_sdfs (p : Page) (code : Byte) (c : Chip) : (latchCond p code c).sdfs = c.sdfs := by unfold latchCond; split <;> simp
@[simp] theorem latchCond_sdfSeq (p : Page) (code : Byte) (c : Chip) : (latchCond p code c).sdfSeq = c.sdfSeq := by unfold latchCond; split <;> simp
@[simp] theorem latchCond_cores (p : Page) (code : Byte) (c : Chip) : (latchCond p code c).cores = c.cores := by unfold latchCond; split <;> simp
@[simp] theorem latchCond_dsp (p : Page) (code : Byte) (c : Chip) : (latchCond p code c).dsp = c.dsp := by unfold latchCond; split <;> simp
@[simp] theorem latchCond_trc (p : Page) (code : Byte) (c : Chip) : (latchCond p code c).trc = c.trc := by unfold latchCond; split <;> simp
@[simp] theorem latchCond_fld (p : Page) (code : Byte) (c : Chip) : (latchCond p code c).fld = c.fld := by unfold latchCond; split <;> simp
@[simp] theorem latchCond_field (p : Page) (code : Byte) (c : Chip) : (latchCond p code c).field = c.field := by unfold latchCond; split <;> simp
@[simp] theorem latchCond_bly (p : Page) (code : Byte) (c : Chip) : (latchCond p code c).bly = c.bly := by unfold latchCond; split <;> simp
@[simp] theorem latchCond_memc (p : Page) (code : Byte) (c : Chip) : (latchCond p code c).memc = c.memc := by unfold latchCond; split <;> simp
@[simp] theorem latchCond_scb (p : Page) (code : Byte) (c : Chip) : (latchCond p code c).scb = c.scb := by unfold latchCond; split <;> simp
@[simp] theorem latchCond_keep (p : Page) (code : Byte) (c : Chip) : (latchCond p code c).keep = c.keep := by unfold latchCond; split <;> simp
@[simp] theorem latchCond_pwr (p : Page) (code : Byte) (c : Chip) : (latchCond p code c).pwr = c.pwr := by unfold latchCond; split <;> simp
@[simp] theorem latchCond_sec (p : Page) (code : Byte) (c : Chip) : (latchCond p code c).sec = c.sec := by unfold latchCond; split <;> simp
@[simp] theorem latchCond_dbg (p : Page) (code : Byte) (c : Chip) : (latchCond p code c).dbg = c.dbg := by unfold latchCond; split <;> simp
@[simp] theorem latchCond_free (p : Page) (code : Byte) (c : Chip) : (latchCond p code c).free = c.free := by unfold latchCond; split <;> simp
@[simp] theorem latchCond_svcSafety (p : Page) (code : Byte) (c : Chip) : (latchCond p code c).svcSafety = c.svcSafety := by unfold latchCond; split <;> simp
@[simp] theorem latchCond_svcPcie (p : Page) (code : Byte) (c : Chip) : (latchCond p code c).svcPcie = c.svcPcie := by unfold latchCond; split <;> simp
@[simp] theorem latchCond_out (p : Page) (code : Byte) (c : Chip) : (latchCond p code c).out = c.out := by unfold latchCond; split <;> simp

@[simp] theorem restoreFormer_log (p : Page) (c : Chip) : (restoreFormer p c).spl.log = c.spl.log := by
  unfold restoreFormer; dsimp only

@[simp] theorem calm_logSplice (p : Page) (o : Nat) (c : Chip) : calm (logSplice p o c) = calm c := by
  unfold logSplice; simp only [calm_raiseIf]; rfl

/-! ### PG_EVT only gains bits -/

theorem evt_raise_mono (p q : Page) (b i : Nat) (c : Chip) (h : bit (hdr c q).evt i = true) : bit (hdr (raise p b c) q).evt i = true := by
  by_cases hq : q = p
  · subst hq; rw [hdr_raise]; simp only [bit] at *; simp [BitVec.getLsbD_or, h]
  · rw [hdr_raise_ne _ _ _ _ hq]; exact h

theorem evt_raise_self (p : Page) (b : Nat) (c : Chip) (hb : b < 32) : bit (hdr (raise p b c) p).evt b = true := by
  rw [hdr_raise]; simp [bit, hb]

theorem evt_setState_mono (p q : Page) (st : PgState) (i : Nat) (c : Chip) (h : bit (hdr c q).evt i = true) :
    bit (hdr (setState p st c) q).evt i = true := by
  unfold setState withService
  split
  · exact h
  · have : bit (hdr (modHdr p (fun h => { h with state := st }) c) q).evt i = true := by
      by_cases hq : q = p
      · subst hq; simpa using h
      · rw [hdr_modHdr_ne _ _ _ _ hq]; exact h
    dsimp only; split
    · exact this
    · exact evt_raise_mono _ _ _ _ _ this

theorem evt_logSplice_mono (p q : Page) (o i : Nat) (c : Chip) (h : bit (hdr c q).evt i = true) : bit (hdr (logSplice p o c) q).evt i = true := by
  unfold logSplice raiseIf; dsimp only; split
  · exact evt_raise_mono _ _ _ _ _ h
  · exact h

theorem evt_spliceOver_mono (p q : Page) (o i : Nat) (c : Chip) (h : bit (hdr c q).evt i = true) : bit (hdr (spliceOver p o c) q).evt i = true := by
  unfold spliceOver
  refine evt_logSplice_mono _ _ _ _ _ (evt_raise_mono _ _ _ _ _ ?_)
  by_cases hq : q = p
  · subst hq; simpa using h
  · rw [hdr_modHdr_ne _ _ _ _ hq]; exact h

/-- The end of a splice request: SPLICE_REQ clears, the state stands, SPLICE_DONE is raised (R484). -/
theorem hdr_spliceOver (p : Page) (o : Nat) (c : Chip) : (hdr (spliceOver p o c) p).spliceReq = false ∧
    (hdr (spliceOver p o c) p).spliceFrom = none ∧ (hdr (spliceOver p o c) p).state = (hdr c p).state ∧
    bit (hdr (spliceOver p o c) p).evt 5 = true := by
  unfold spliceOver
  have e := calm_hdr (calm_logSplice p o (raise p 5 (modHdr p (fun h => { h with spliceReq := false, spliceFrom := none }) c))) p
  refine ⟨by rw [e]; simp, by rw [e]; simp, by rw [e]; simp, ?_⟩
  exact evt_logSplice_mono _ _ _ _ _ (evt_raise_self _ _ _ (by decide))

/-- Its outcome is logged while the log has room (R491). -/
theorem log_spliceOver (p : Page) (o : Nat) (c : Chip) (h : c.spl.log.length < 32) :
    (spliceOver p o c).spl.log = c.spl.log ++ [(pageNum p, o)] := by
  unfold spliceOver logSplice; simp [h]

theorem evt_spliceCut_mono (p q : Page) (i : Nat) (c : Chip) (h : bit (hdr c q).evt i = true) : bit (hdr (spliceCut p c) q).evt i = true := by
  unfold spliceCut; split
  · refine evt_spliceOver_mono _ _ _ _ _ ?_
    rw [hdr_pages (restoreFormer_pages _ _)]; exact h
  · exact h

/-! ### The latch -/

/-- The headers' fault fields and the standing conditions, through the cutting of a splice. -/
theorem hdr_spliceCut (p : Page) (c : Chip) : (hdr (spliceCut p c) p).fltCode = (hdr c p).fltCode ∧ (hdr (spliceCut p c) p).fltSeq = (hdr c p).fltSeq ∧
    (hdr (spliceCut p c) p).fltCount = (hdr c p).fltCount ∧ (hdr (spliceCut p c) p).conds = (hdr c p).conds ∧
    (hdr (spliceCut p c) p).en = (hdr c p).en ∧ (hdr (spliceCut p c) p).gen = (hdr c p).gen ∧ (hdr (spliceCut p c) p).owner = (hdr c p).owner := by
  unfold spliceCut; split
  · unfold spliceOver
    have e := calm_hdr (calm_logSplice p 5 (raise p 5 (modHdr p (fun h => { h with spliceReq := false, spliceFrom := none }) (restoreFormer p c)))) p
    refine ⟨?_, ?_, ?_, ?_, ?_, ?_, ?_⟩ <;> rw [e] <;> simp [hdr_pages (restoreFormer_pages p c)]
  · exact ⟨rfl, rfl, rfl, rfl, rfl, rfl, rfl⟩

/-- Where CODE reads 0x00 a fault latches its code and the next device fault sequence, counts, raises FAULT, and a page in READY, RUN or
SPLICING enters FAULT (R36, Table 2-11). -/
theorem latchFault_first (p : Page) (code : Byte) (c : Chip) (h : (hdr c p).fltCode = 0) :
    (hdr (latchFault p code c) p).fltCode = code ∧ (hdr (latchFault p code c) p).fltSeq = c.faultSeq + 1 ∧
    (hdr (latchFault p code c) p).fltCount = min 255 ((hdr c p).fltCount + 1) ∧ bit (hdr (latchFault p code c) p).evt 0 = true ∧
    (hdr (latchFault p code c) p).conds = (hdr c p).conds ∧
    (hdr (latchFault p code c) p).state = (match (hdr c p).state with | .ready | .run | .splicing => .fault | st => st) := by
  unfold latchFault
  simp only [h, if_true]
  have e0 : ∀ y : Chip, bit (hdr (raise p 0 y) p).evt 0 = true := fun y => evt_raise_self _ _ _ (by decide)
  split
  · rename_i hs; simp only [hs]; exact ⟨by simp, by simp, by simp, evt_setState_mono _ _ _ _ _ (e0 _), by simp, by simp⟩
  · rename_i hs; simp only [hs]; exact ⟨by simp, by simp, by simp, evt_setState_mono _ _ _ _ _ (e0 _), by simp, by simp⟩
  · rename_i hs
    simp only [hs]
    refine ⟨?_, ?_, ?_, evt_setState_mono _ _ _ _ _ (evt_spliceCut_mono _ _ _ _ (e0 _)), ?_, by simp⟩
    · rw [hdr_setState_fltCode, (hdr_spliceCut _ _).1]; simp
    · rw [hdr_setState_fltSeq, (hdr_spliceCut _ _).2.1]; simp
    · rw [hdr_setState_fltCount, (hdr_spliceCut _ _).2.2.1]; simp
    · rw [hdr_setState_conds, (hdr_spliceCut _ _).2.2.2.1]; simp
  · rename_i h1 h2 h3
    refine ⟨by simp, by simp, by simp, e0 _, by simp, ?_⟩
    cases hs : (hdr c p).state <;> simp_all

/-- A fault takes no bit from PG_EVT. -/
theorem evt_latchFault_mono (p q : Page) (code : Byte) (i : Nat) (c : Chip) (h : bit (hdr c q).evt i = true) :
    bit (hdr (latchFault p code c) q).evt i = true := by
  have hset : ∀ (x : PageHdr) (y : Chip), y.pages = c.pages → x.evt = (hdr c p).evt → bit (hdr (setHdr p x y) q).evt i = true := by
    intro x y hy hx
    by_cases hq : q = p
    · subst hq; rw [hdr_setHdr, hx]; exact h
    · rw [hdr_setHdr_ne _ _ _ _ hq, hdr_pages hy]; exact h
  have h1 : ∀ y : Chip, bit (hdr y q).evt i = true →
      bit (hdr (match (hdr c p).state with | .ready | .run => setState p .fault y | .splicing => setState p .fault (spliceCut p y) | _ => y) q).evt i = true := by
    intro y hy
    split
    · exact evt_setState_mono _ _ _ _ _ hy
    · exact evt_setState_mono _ _ _ _ _ hy
    · exact evt_setState_mono _ _ _ _ _ (evt_spliceCut_mono _ _ _ _ hy)
    · exact hy
  unfold latchFault
  dsimp only
  apply h1
  split
  · exact evt_raise_mono _ _ _ _ _ (hset _ _ rfl rfl)
  · exact hset _ _ rfl rfl

end Sys2Proof.Machine
end

