-- ==== Sys2Proof/Laws/Ends.lean ====
section
/-!
SUPPORT. The ends of commands (R28, R51, R52, R66): a completion changes the command engine, the sessions, causes and outputs, and
leaves every other part of the chip.
-/

namespace Sys2Proof.Machine

/-- What every member of a run of updates keeps, the run keeps. -/
theorem each_keeps {α β : Type} (g : Chip → β) (f : α → Chip → Chip) (h : ∀ x c, g (f x c) = g c) (l : List α) (c : Chip) :
    g (each l f c) = g c := by
  unfold each
  induction l generalizing c with
  | nil => rfl
  | cons x t ih => rw [List.foldl_cons, ih, h]

@[simp] theorem updateFull_regs (c : Chip) : (updateFull c).regs = c.regs := by unfold updateFull; simp
@[simp] theorem updateFull_paths (c : Chip) : (updateFull c).paths = c.paths := by unfold updateFull; simp
@[simp] theorem updateFull_held (c : Chip) : (updateFull c).held = c.held := by unfold updateFull; simp
@[simp] theorem updateFull_faultSeq (c : Chip) : (updateFull c).faultSeq = c.faultSeq := by unfold updateFull; simp
@[simp] theorem updateFull_clk (c : Chip) : (updateFull c).clk = c.clk := by unfold updateFull; simp
@[simp] theorem updateFull_tim (c : Chip) : (updateFull c).tim = c.tim := by unfold updateFull; simp
@[simp] theorem updateFull_knt (c : Chip) : (updateFull c).knt = c.knt := by unfold updateFull; simp
@[simp] theorem updateFull_net (c : Chip) : (updateFull c).net = c.net := by unfold updateFull; simp
@[simp] theorem updateFull_ycp (c : Chip) : (updateFull c).ycp = c.ycp := by unfold updateFull; simp
@[simp] theorem updateFull_hfr (c : Chip) : (updateFull c).hfr = c.hfr := by unfold updateFull; simp
@[simp] theorem updateFull_axes (c : Chip) : (updateFull c).axes = c.axes := by unfold updateFull; simp
@[simp] theorem updateFull_grps (c : Chip) : (updateFull c).grps = c.grps := by unfold updateFull; simp
@[simp] theorem updateFull_hits (c : Chip) : (updateFull c).hits = c.hits := by unfold updateFull; simp
@[simp] theorem updateFull_cam (c : Chip) : (updateFull c).cam = c.cam := by unfold updateFull; simp
@[simp] theorem updateFull_loops (c : Chip) : (updateFull c).loops = c.loops := by unfold updateFull; simp
@[simp] theorem updateFull_lpes (c : Chip) : (updateFull c).lpes = c.lpes := by unfold updateFull; simp
@[simp] theorem updateFull_sups (c : Chip) : (updateFull c).sups = c.sups := by unfold updateFull; simp
@[simp] theorem updateFull_buses (c : Chip) : (updateFull c).buses = c.buses := by unfold updateFull; simp
@[simp] theorem updateFull_mods (c : Chip) : (updateFull c).mods = c.mods := by unfold updateFull; simp
@[simp] theorem updateFull_fbks (c : Chip) : (updateFull c).fbks = c.fbks := by unfold updateFull; simp
@[simp] theorem updateFull_snls (c : Chip) : (updateFull c).snls = c.snls := by unfold updateFull; simp
@[simp] theorem updateFull_adcs (c : Chip) : (updateFull c).adcs = c.adcs := by unfold updateFull; simp
@[simp] theorem updateFull_sdfs (c : Chip) : (updateFull c).sdfs = c.sdfs := by unfold updateFull; simp
@[simp] theorem updateFull_sdfSeq (c : Chip) : (updateFull c).sdfSeq = c.sdfSeq := by unfold updateFull; simp
@[simp] theorem updateFull_cores (c : Chip) : (updateFull c).cores = c.cores := by unfold updateFull; simp
@[simp] theorem updateFull_dsp (c : Chip) : (updateFull c).dsp = c.dsp := by unfold updateFull; simp
@[simp] theorem updateFull_trc (c : Chip) : (updateFull c).trc = c.trc := by unfold updateFull; simp
@[simp] theorem updateFull_fld (c : Chip) : (updateFull c).fld = c.fld := by unfold updateFull; simp
@[simp] theorem updateFull_field (c : Chip) : (updateFull c).field = c.field := by unfold updateFull; simp
@[simp] theorem updateFull_bly (c : Chip) : (updateFull c).bly = c.bly := by unfold updateFull; simp
@[simp] theorem updateFull_memc (c : Chip) : (updateFull c).memc = c.memc := by unfold updateFull; simp
@[simp] theorem updateFull_scb (c : Chip) : (updateFull c).scb = c.scb := by unfold updateFull; simp
@[simp] theorem updateFull_keep (c : Chip) : (updateFull c).keep = c.keep := by unfold updateFull; simp
@[simp] theorem updateFull_pwr (c : Chip) : (updateFull c).pwr = c.pwr := by unfold updateFull; simp
@[simp] theorem updateFull_sec (c : Chip) : (updateFull c).sec = c.sec := by unfold updateFull; simp
@[simp] theorem updateFull_dbg (c : Chip) : (updateFull c).dbg = c.dbg := by unfold updateFull; simp
@[simp] theorem updateFull_spl (c : Chip) : (updateFull c).spl = c.spl := by unfold updateFull; simp
@[simp] theorem updateFull_free (c : Chip) : (updateFull c).free = c.free := by unfold updateFull; simp
@[simp] theorem updateFull_svcSafety (c : Chip) : (updateFull c).svcSafety = c.svcSafety := by unfold updateFull; simp
@[simp] theorem updateFull_svcPcie (c : Chip) : (updateFull c).svcPcie = c.svcPcie := by unfold updateFull; simp
@[simp] theorem updateFull_out (c : Chip) : (updateFull c).out = c.out := by unfold updateFull; simp

@[simp] theorem postCq_regs (x : Completion) (c : Chip) : (postCq x c).regs = c.regs := by unfold postCq; simp
@[simp] theorem postCq_paths (x : Completion) (c : Chip) : (postCq x c).paths = c.paths := by unfold postCq; simp
@[simp] theorem postCq_held (x : Completion) (c : Chip) : (postCq x c).held = c.held := by unfold postCq; simp
@[simp] theorem postCq_faultSeq (x : Completion) (c : Chip) : (postCq x c).faultSeq = c.faultSeq := by unfold postCq; simp
@[simp] theorem postCq_clk (x : Completion) (c : Chip) : (postCq x c).clk = c.clk := by unfold postCq; simp
@[simp] theorem postCq_tim (x : Completion) (c : Chip) : (postCq x c).tim = c.tim := by unfold postCq; simp
@[simp] theorem postCq_knt (x : Completion) (c : Chip) : (postCq x c).knt = c.knt := by unfold postCq; simp
@[simp] theorem postCq_net (x : Completion) (c : Chip) : (postCq x c).net = c.net := by unfold postCq; simp
@[simp] theorem postCq_ycp (x : Completion) (c : Chip) : (postCq x c).ycp = c.ycp := by unfold postCq; simp
@[simp] theorem postCq_hfr (x : Completion) (c : Chip) : (postCq x c).hfr = c.hfr := by unfold postCq; simp
@[simp] theorem postCq_axes (x : Completion) (c : Chip) : (postCq x c).axes = c.axes := by unfold postCq; simp
@[simp] theorem postCq_grps (x : Completion) (c : Chip) : (postCq x c).grps = c.grps := by unfold postCq; simp
@[simp] theorem postCq_hits (x : Completion) (c : Chip) : (postCq x c).hits = c.hits := by unfold postCq; simp
@[simp] theorem postCq_cam (x : Completion) (c : Chip) : (postCq x c).cam = c.cam := by unfold postCq; simp
@[simp] theorem postCq_loops (x : Completion) (c : Chip) : (postCq x c).loops = c.loops := by unfold postCq; simp
@[simp] theorem postCq_lpes (x : Completion) (c : Chip) : (postCq x c).lpes = c.lpes := by unfold postCq; simp
@[simp] theorem postCq_sups (x : Completion) (c : Chip) : (postCq x c).sups = c.sups := by unfold postCq; simp
@[simp] theorem postCq_buses (x : Completion) (c : Chip) : (postCq x c).buses = c.buses := by unfold postCq; simp
@[simp] theorem postCq_mods (x : Completion) (c : Chip) : (postCq x c).mods = c.mods := by unfold postCq; simp
@[simp] theorem postCq_fbks (x : Completion) (c : Chip) : (postCq x c).fbks = c.fbks := by unfold postCq; simp
@[simp] theorem postCq_snls (x : Completion) (c : Chip) : (postCq x c).snls = c.snls := by unfold postCq; simp
@[simp] theorem postCq_adcs (x : Completion) (c : Chip) : (postCq x c).adcs = c.adcs := by unfold postCq; simp
@[simp] theorem postCq_sdfs (x : Completion) (c : Chip) : (postCq x c).sdfs = c.sdfs := by unfold postCq; simp
@[simp] theorem postCq_sdfSeq (x : Completion) (c : Chip) : (postCq x c).sdfSeq = c.sdfSeq := by unfold postCq; simp
@[simp] theorem postCq_cores (x : Completion) (c : Chip) : (postCq x c).cores = c.cores := by unfold postCq; simp
@[simp] theorem postCq_dsp (x : Completion) (c : Chip) : (postCq x c).dsp = c.dsp := by unfold postCq; simp
@[simp] theorem postCq_trc (x : Completion) (c : Chip) : (postCq x c).trc = c.trc := by unfold postCq; simp
@[simp] theorem postCq_fld (x : Completion) (c : Chip) : (postCq x c).fld = c.fld := by unfold postCq; simp
@[simp] theorem postCq_field (x : Completion) (c : Chip) : (postCq x c).field = c.field := by unfold postCq; simp
@[simp] theorem postCq_bly (x : Completion) (c : Chip) : (postCq x c).bly = c.bly := by unfold postCq; simp
@[simp] theorem postCq_memc (x : Completion) (c : Chip) : (postCq x c).memc = c.memc := by unfold postCq; simp
@[simp] theorem postCq_scb (x : Completion) (c : Chip) : (postCq x c).scb = c.scb := by unfold postCq; simp
@[simp] theorem postCq_keep (x : Completion) (c : Chip) : (postCq x c).keep = c.keep := by unfold postCq; simp
@[simp] theorem postCq_pwr (x : Completion) (c : Chip) : (postCq x c).pwr = c.pwr := by unfold postCq; simp
@[simp] theorem postCq_sec (x : Completion) (c : Chip) : (postCq x c).sec = c.sec := by unfold postCq; simp
@[simp] theorem postCq_dbg (x : Completion) (c : Chip) : (postCq x c).dbg = c.dbg := by unfold postCq; simp
@[simp] theorem postCq_spl (x : Completion) (c : Chip) : (postCq x c).spl = c.spl := by unfold postCq; simp
@[simp] theorem postCq_free (x : Completion) (c : Chip) : (postCq x c).free = c.free := by unfold postCq; simp
@[simp] theorem postCq_svcSafety (x : Completion) (c : Chip) : (postCq x c).svcSafety = c.svcSafety := by unfold postCq; simp
@[simp] theorem postCq_svcPcie (x : Completion) (c : Chip) : (postCq x c).svcPcie = c.svcPcie := by unfold postCq; simp


@[simp] theorem sendIp_regs (ip : Word) (proto : Byte) (l4 : List Byte) (o : Output) (c : Chip) : (sendIp ip proto l4 o c).regs = c.regs := by unfold sendIp; split <;> simp
@[simp] theorem sendIp_paths (ip : Word) (proto : Byte) (l4 : List Byte) (o : Output) (c : Chip) : (sendIp ip proto l4 o c).paths = c.paths := by unfold sendIp; split <;> simp
@[simp] theorem sendIp_held (ip : Word) (proto : Byte) (l4 : List Byte) (o : Output) (c : Chip) : (sendIp ip proto l4 o c).held = c.held := by unfold sendIp; split <;> simp
@[simp] theorem sendIp_faultSeq (ip : Word) (proto : Byte) (l4 : List Byte) (o : Output) (c : Chip) : (sendIp ip proto l4 o c).faultSeq = c.faultSeq := by unfold sendIp; split <;> simp
@[simp] theorem sendIp_clk (ip : Word) (proto : Byte) (l4 : List Byte) (o : Output) (c : Chip) : (sendIp ip proto l4 o c).clk = c.clk := by unfold sendIp; split <;> simp
@[simp] theorem sendIp_tim (ip : Word) (proto : Byte) (l4 : List Byte) (o : Output) (c : Chip) : (sendIp ip proto l4 o c).tim = c.tim := by unfold sendIp; split <;> simp
@[simp] theorem sendIp_knt (ip : Word) (proto : Byte) (l4 : List Byte) (o : Output) (c : Chip) : (sendIp ip proto l4 o c).knt = c.knt := by unfold sendIp; split <;> simp
@[simp] theorem sendIp_cmd (ip : Word) (proto : Byte) (l4 : List Byte) (o : Output) (c : Chip) : (sendIp ip proto l4 o c).cmd = c.cmd := by unfold sendIp; split <;> simp
@[simp] theorem sendIp_net (ip : Word) (proto : Byte) (l4 : List Byte) (o : Output) (c : Chip) : (sendIp ip proto l4 o c).net = c.net := by unfold sendIp; split <;> simp
@[simp] theorem sendIp_hfr (ip : Word) (proto : Byte) (l4 : List Byte) (o : Output) (c : Chip) : (sendIp ip proto l4 o c).hfr = c.hfr := by unfold sendIp; split <;> simp
@[simp] theorem sendIp_axes (ip : Word) (proto : Byte) (l4 : List Byte) (o : Output) (c : Chip) : (sendIp ip proto l4 o c).axes = c.axes := by unfold sendIp; split <;> simp
@[simp] theorem sendIp_grps (ip : Word) (proto : Byte) (l4 : List Byte) (o : Output) (c : Chip) : (sendIp ip proto l4 o c).grps = c.grps := by unfold sendIp; split <;> simp
@[simp] theorem sendIp_hits (ip : Word) (proto : Byte) (l4 : List Byte) (o : Output) (c : Chip) : (sendIp ip proto l4 o c).hits = c.hits := by unfold sendIp; split <;> simp
@[simp] theorem sendIp_cam (ip : Word) (proto : Byte) (l4 : List Byte) (o : Output) (c : Chip) : (sendIp ip proto l4 o c).cam = c.cam := by unfold sendIp; split <;> simp
@[simp] theorem sendIp_loops (ip : Word) (proto : Byte) (l4 : List Byte) (o : Output) (c : Chip) : (sendIp ip proto l4 o c).loops = c.loops := by unfold sendIp; split <;> simp
@[simp] theorem sendIp_lpes (ip : Word) (proto : Byte) (l4 : List Byte) (o : Output) (c : Chip) : (sendIp ip proto l4 o c).lpes = c.lpes := by unfold sendIp; split <;> simp
@[simp] theorem sendIp_sups (ip : Word) (proto : Byte) (l4 : List Byte) (o : Output) (c : Chip) : (sendIp ip proto l4 o c).sups = c.sups := by unfold sendIp; split <;> simp
@[simp] theorem sendIp_buses (ip : Word) (proto : Byte) (l4 : List Byte) (o : Output) (c : Chip) : (sendIp ip proto l4 o c).buses = c.buses := by unfold sendIp; split <;> simp
@[simp] theorem sendIp_mods (ip : Word) (proto : Byte) (l4 : List Byte) (o : Output) (c : Chip) : (sendIp ip proto l4 o c).mods = c.mods := by unfold sendIp; split <;> simp
@[simp] theorem sendIp_fbks (ip : Word) (proto : Byte) (l4 : List Byte) (o : Output) (c : Chip) : (sendIp ip proto l4 o c).fbks = c.fbks := by unfold sendIp; split <;> simp
@[simp] theorem sendIp_snls (ip : Word) (proto : Byte) (l4 : List Byte) (o : Output) (c : Chip) : (sendIp ip proto l4 o c).snls = c.snls := by unfold sendIp; split <;> simp
@[simp] theorem sendIp_adcs (ip : Word) (proto : Byte) (l4 : List Byte) (o : Output) (c : Chip) : (sendIp ip proto l4 o c).adcs = c.adcs := by unfold sendIp; split <;> simp
@[simp] theorem sendIp_sdfs (ip : Word) (proto : Byte) (l4 : List Byte) (o : Output) (c : Chip) : (sendIp ip proto l4 o c).sdfs = c.sdfs := by unfold sendIp; split <;> simp
@[simp] theorem sendIp_sdfSeq (ip : Word) (proto : Byte) (l4 : List Byte) (o : Output) (c : Chip) : (sendIp ip proto l4 o c).sdfSeq = c.sdfSeq := by unfold sendIp; split <;> simp
@[simp] theorem sendIp_cores (ip : Word) (proto : Byte) (l4 : List Byte) (o : Output) (c : Chip) : (sendIp ip proto l4 o c).cores = c.cores := by unfold sendIp; split <;> simp
@[simp] theorem sendIp_dsp (ip : Word) (proto : Byte) (l4 : List Byte) (o : Output) (c : Chip) : (sendIp ip proto l4 o c).dsp = c.dsp := by unfold sendIp; split <;> simp
@[simp] theorem sendIp_trc (ip : Word) (proto : Byte) (l4 : List Byte) (o : Output) (c : Chip) : (sendIp ip proto l4 o c).trc = c.trc := by unfold sendIp; split <;> simp
@[simp] theorem sendIp_fld (ip : Word) (proto : Byte) (l4 : List Byte) (o : Output) (c : Chip) : (sendIp ip proto l4 o c).fld = c.fld := by unfold sendIp; split <;> simp
@[simp] theorem sendIp_field (ip : Word) (proto : Byte) (l4 : List Byte) (o : Output) (c : Chip) : (sendIp ip proto l4 o c).field = c.field := by unfold sendIp; split <;> simp
@[simp] theorem sendIp_bly (ip : Word) (proto : Byte) (l4 : List Byte) (o : Output) (c : Chip) : (sendIp ip proto l4 o c).bly = c.bly := by unfold sendIp; split <;> simp
@[simp] theorem sendIp_memc (ip : Word) (proto : Byte) (l4 : List Byte) (o : Output) (c : Chip) : (sendIp ip proto l4 o c).memc = c.memc := by unfold sendIp; split <;> simp
@[simp] theorem sendIp_scb (ip : Word) (proto : Byte) (l4 : List Byte) (o : Output) (c : Chip) : (sendIp ip proto l4 o c).scb = c.scb := by unfold sendIp; split <;> simp
@[simp] theorem sendIp_keep (ip : Word) (proto : Byte) (l4 : List Byte) (o : Output) (c : Chip) : (sendIp ip proto l4 o c).keep = c.keep := by unfold sendIp; split <;> simp
@[simp] theorem sendIp_pwr (ip : Word) (proto : Byte) (l4 : List Byte) (o : Output) (c : Chip) : (sendIp ip proto l4 o c).pwr = c.pwr := by unfold sendIp; split <;> simp
@[simp] theorem sendIp_sec (ip : Word) (proto : Byte) (l4 : List Byte) (o : Output) (c : Chip) : (sendIp ip proto l4 o c).sec = c.sec := by unfold sendIp; split <;> simp
@[simp] theorem sendIp_dbg (ip : Word) (proto : Byte) (l4 : List Byte) (o : Output) (c : Chip) : (sendIp ip proto l4 o c).dbg = c.dbg := by unfold sendIp; split <;> simp
@[simp] theorem sendIp_spl (ip : Word) (proto : Byte) (l4 : List Byte) (o : Output) (c : Chip) : (sendIp ip proto l4 o c).spl = c.spl := by unfold sendIp; split <;> simp
@[simp] theorem sendIp_free (ip : Word) (proto : Byte) (l4 : List Byte) (o : Output) (c : Chip) : (sendIp ip proto l4 o c).free = c.free := by unfold sendIp; split <;> simp
@[simp] theorem sendIp_svcSafety (ip : Word) (proto : Byte) (l4 : List Byte) (o : Output) (c : Chip) : (sendIp ip proto l4 o c).svcSafety = c.svcSafety := by unfold sendIp; split <;> simp
@[simp] theorem sendIp_svcPcie (ip : Word) (proto : Byte) (l4 : List Byte) (o : Output) (c : Chip) : (sendIp ip proto l4 o c).svcPcie = c.svcPcie := by unfold sendIp; split <;> simp

@[simp] theorem sendResp_regs (i : Nat) (r : YcpResp) (c : Chip) : (sendResp i r c).regs = c.regs := by unfold sendResp sendYcp; simp
@[simp] theorem sendResp_paths (i : Nat) (r : YcpResp) (c : Chip) : (sendResp i r c).paths = c.paths := by unfold sendResp sendYcp; simp
@[simp] theorem sendResp_held (i : Nat) (r : YcpResp) (c : Chip) : (sendResp i r c).held = c.held := by unfold sendResp sendYcp; simp
@[simp] theorem sendResp_faultSeq (i : Nat) (r : YcpResp) (c : Chip) : (sendResp i r c).faultSeq = c.faultSeq := by unfold sendResp sendYcp; simp
@[simp] theorem sendResp_clk (i : Nat) (r : YcpResp) (c : Chip) : (sendResp i r c).clk = c.clk := by unfold sendResp sendYcp; simp
@[simp] theorem sendResp_tim (i : Nat) (r : YcpResp) (c : Chip) : (sendResp i r c).tim = c.tim := by unfold sendResp sendYcp; simp
@[simp] theorem sendResp_knt (i : Nat) (r : YcpResp) (c : Chip) : (sendResp i r c).knt = c.knt := by unfold sendResp sendYcp; simp
@[simp] theorem sendResp_cmd (i : Nat) (r : YcpResp) (c : Chip) : (sendResp i r c).cmd = c.cmd := by unfold sendResp sendYcp; simp
@[simp] theorem sendResp_net (i : Nat) (r : YcpResp) (c : Chip) : (sendResp i r c).net = c.net := by unfold sendResp sendYcp; simp
@[simp] theorem sendResp_hfr (i : Nat) (r : YcpResp) (c : Chip) : (sendResp i r c).hfr = c.hfr := by unfold sendResp sendYcp; simp
@[simp] theorem sendResp_axes (i : Nat) (r : YcpResp) (c : Chip) : (sendResp i r c).axes = c.axes := by unfold sendResp sendYcp; simp
@[simp] theorem sendResp_grps (i : Nat) (r : YcpResp) (c : Chip) : (sendResp i r c).grps = c.grps := by unfold sendResp sendYcp; simp
@[simp] theorem sendResp_hits (i : Nat) (r : YcpResp) (c : Chip) : (sendResp i r c).hits = c.hits := by unfold sendResp sendYcp; simp
@[simp] theorem sendResp_cam (i : Nat) (r : YcpResp) (c : Chip) : (sendResp i r c).cam = c.cam := by unfold sendResp sendYcp; simp
@[simp] theorem sendResp_loops (i : Nat) (r : YcpResp) (c : Chip) : (sendResp i r c).loops = c.loops := by unfold sendResp sendYcp; simp
@[simp] theorem sendResp_lpes (i : Nat) (r : YcpResp) (c : Chip) : (sendResp i r c).lpes = c.lpes := by unfold sendResp sendYcp; simp
@[simp] theorem sendResp_sups (i : Nat) (r : YcpResp) (c : Chip) : (sendResp i r c).sups = c.sups := by unfold sendResp sendYcp; simp
@[simp] theorem sendResp_buses (i : Nat) (r : YcpResp) (c : Chip) : (sendResp i r c).buses = c.buses := by unfold sendResp sendYcp; simp
@[simp] theorem sendResp_mods (i : Nat) (r : YcpResp) (c : Chip) : (sendResp i r c).mods = c.mods := by unfold sendResp sendYcp; simp
@[simp] theorem sendResp_fbks (i : Nat) (r : YcpResp) (c : Chip) : (sendResp i r c).fbks = c.fbks := by unfold sendResp sendYcp; simp
@[simp] theorem sendResp_snls (i : Nat) (r : YcpResp) (c : Chip) : (sendResp i r c).snls = c.snls := by unfold sendResp sendYcp; simp
@[simp] theorem sendResp_adcs (i : Nat) (r : YcpResp) (c : Chip) : (sendResp i r c).adcs = c.adcs := by unfold sendResp sendYcp; simp
@[simp] theorem sendResp_sdfs (i : Nat) (r : YcpResp) (c : Chip) : (sendResp i r c).sdfs = c.sdfs := by unfold sendResp sendYcp; simp
@[simp] theorem sendResp_sdfSeq (i : Nat) (r : YcpResp) (c : Chip) : (sendResp i r c).sdfSeq = c.sdfSeq := by unfold sendResp sendYcp; simp
@[simp] theorem sendResp_cores (i : Nat) (r : YcpResp) (c : Chip) : (sendResp i r c).cores = c.cores := by unfold sendResp sendYcp; simp
@[simp] theorem sendResp_dsp (i : Nat) (r : YcpResp) (c : Chip) : (sendResp i r c).dsp = c.dsp := by unfold sendResp sendYcp; simp
@[simp] theorem sendResp_trc (i : Nat) (r : YcpResp) (c : Chip) : (sendResp i r c).trc = c.trc := by unfold sendResp sendYcp; simp
@[simp] theorem sendResp_fld (i : Nat) (r : YcpResp) (c : Chip) : (sendResp i r c).fld = c.fld := by unfold sendResp sendYcp; simp
@[simp] theorem sendResp_field (i : Nat) (r : YcpResp) (c : Chip) : (sendResp i r c).field = c.field := by unfold sendResp sendYcp; simp
@[simp] theorem sendResp_bly (i : Nat) (r : YcpResp) (c : Chip) : (sendResp i r c).bly = c.bly := by unfold sendResp sendYcp; simp
@[simp] theorem sendResp_memc (i : Nat) (r : YcpResp) (c : Chip) : (sendResp i r c).memc = c.memc := by unfold sendResp sendYcp; simp
@[simp] theorem sendResp_scb (i : Nat) (r : YcpResp) (c : Chip) : (sendResp i r c).scb = c.scb := by unfold sendResp sendYcp; simp
@[simp] theorem sendResp_keep (i : Nat) (r : YcpResp) (c : Chip) : (sendResp i r c).keep = c.keep := by unfold sendResp sendYcp; simp
@[simp] theorem sendResp_pwr (i : Nat) (r : YcpResp) (c : Chip) : (sendResp i r c).pwr = c.pwr := by unfold sendResp sendYcp; simp
@[simp] theorem sendResp_sec (i : Nat) (r : YcpResp) (c : Chip) : (sendResp i r c).sec = c.sec := by unfold sendResp sendYcp; simp
@[simp] theorem sendResp_dbg (i : Nat) (r : YcpResp) (c : Chip) : (sendResp i r c).dbg = c.dbg := by unfold sendResp sendYcp; simp
@[simp] theorem sendResp_spl (i : Nat) (r : YcpResp) (c : Chip) : (sendResp i r c).spl = c.spl := by unfold sendResp sendYcp; simp
@[simp] theorem sendResp_free (i : Nat) (r : YcpResp) (c : Chip) : (sendResp i r c).free = c.free := by unfold sendResp sendYcp; simp
@[simp] theorem sendResp_svcSafety (i : Nat) (r : YcpResp) (c : Chip) : (sendResp i r c).svcSafety = c.svcSafety := by unfold sendResp sendYcp; simp
@[simp] theorem sendResp_svcPcie (i : Nat) (r : YcpResp) (c : Chip) : (sendResp i r c).svcPcie = c.svcPcie := by unfold sendResp sendYcp; simp

@[simp] theorem respond_regs (i : Nat) (r : YcpResp) (c : Chip) : (respond i r c).regs = c.regs := by unfold respond; simp
@[simp] theorem respond_paths (i : Nat) (r : YcpResp) (c : Chip) : (respond i r c).paths = c.paths := by unfold respond; simp
@[simp] theorem respond_held (i : Nat) (r : YcpResp) (c : Chip) : (respond i r c).held = c.held := by unfold respond; simp
@[simp] theorem respond_faultSeq (i : Nat) (r : YcpResp) (c : Chip) : (respond i r c).faultSeq = c.faultSeq := by unfold respond; simp
@[simp] theorem respond_clk (i : Nat) (r : YcpResp) (c : Chip) : (respond i r c).clk = c.clk := by unfold respond; simp
@[simp] theorem respond_tim (i : Nat) (r : YcpResp) (c : Chip) : (respond i r c).tim = c.tim := by unfold respond; simp
@[simp] theorem respond_knt (i : Nat) (r : YcpResp) (c : Chip) : (respond i r c).knt = c.knt := by unfold respond; simp
@[simp] theorem respond_cmd (i : Nat) (r : YcpResp) (c : Chip) : (respond i r c).cmd = c.cmd := by unfold respond; simp
@[simp] theorem respond_net (i : Nat) (r : YcpResp) (c : Chip) : (respond i r c).net = c.net := by unfold respond; simp
@[simp] theorem respond_hfr (i : Nat) (r : YcpResp) (c : Chip) : (respond i r c).hfr = c.hfr := by unfold respond; simp
@[simp] theorem respond_axes (i : Nat) (r : YcpResp) (c : Chip) : (respond i r c).axes = c.axes := by unfold respond; simp
@[simp] theorem respond_grps (i : Nat) (r : YcpResp) (c : Chip) : (respond i r c).grps = c.grps := by unfold respond; simp
@[simp] theorem respond_hits (i : Nat) (r : YcpResp) (c : Chip) : (respond i r c).hits = c.hits := by unfold respond; simp
@[simp] theorem respond_cam (i : Nat) (r : YcpResp) (c : Chip) : (respond i r c).cam = c.cam := by unfold respond; simp
@[simp] theorem respond_loops (i : Nat) (r : YcpResp) (c : Chip) : (respond i r c).loops = c.loops := by unfold respond; simp
@[simp] theorem respond_lpes (i : Nat) (r : YcpResp) (c : Chip) : (respond i r c).lpes = c.lpes := by unfold respond; simp
@[simp] theorem respond_sups (i : Nat) (r : YcpResp) (c : Chip) : (respond i r c).sups = c.sups := by unfold respond; simp
@[simp] theorem respond_buses (i : Nat) (r : YcpResp) (c : Chip) : (respond i r c).buses = c.buses := by unfold respond; simp
@[simp] theorem respond_mods (i : Nat) (r : YcpResp) (c : Chip) : (respond i r c).mods = c.mods := by unfold respond; simp
@[simp] theorem respond_fbks (i : Nat) (r : YcpResp) (c : Chip) : (respond i r c).fbks = c.fbks := by unfold respond; simp
@[simp] theorem respond_snls (i : Nat) (r : YcpResp) (c : Chip) : (respond i r c).snls = c.snls := by unfold respond; simp
@[simp] theorem respond_adcs (i : Nat) (r : YcpResp) (c : Chip) : (respond i r c).adcs = c.adcs := by unfold respond; simp
@[simp] theorem respond_sdfs (i : Nat) (r : YcpResp) (c : Chip) : (respond i r c).sdfs = c.sdfs := by unfold respond; simp
@[simp] theorem respond_sdfSeq (i : Nat) (r : YcpResp) (c : Chip) : (respond i r c).sdfSeq = c.sdfSeq := by unfold respond; simp
@[simp] theorem respond_cores (i : Nat) (r : YcpResp) (c : Chip) : (respond i r c).cores = c.cores := by unfold respond; simp
@[simp] theorem respond_dsp (i : Nat) (r : YcpResp) (c : Chip) : (respond i r c).dsp = c.dsp := by unfold respond; simp
@[simp] theorem respond_trc (i : Nat) (r : YcpResp) (c : Chip) : (respond i r c).trc = c.trc := by unfold respond; simp
@[simp] theorem respond_fld (i : Nat) (r : YcpResp) (c : Chip) : (respond i r c).fld = c.fld := by unfold respond; simp
@[simp] theorem respond_field (i : Nat) (r : YcpResp) (c : Chip) : (respond i r c).field = c.field := by unfold respond; simp
@[simp] theorem respond_bly (i : Nat) (r : YcpResp) (c : Chip) : (respond i r c).bly = c.bly := by unfold respond; simp
@[simp] theorem respond_memc (i : Nat) (r : YcpResp) (c : Chip) : (respond i r c).memc = c.memc := by unfold respond; simp
@[simp] theorem respond_scb (i : Nat) (r : YcpResp) (c : Chip) : (respond i r c).scb = c.scb := by unfold respond; simp
@[simp] theorem respond_keep (i : Nat) (r : YcpResp) (c : Chip) : (respond i r c).keep = c.keep := by unfold respond; simp
@[simp] theorem respond_pwr (i : Nat) (r : YcpResp) (c : Chip) : (respond i r c).pwr = c.pwr := by unfold respond; simp
@[simp] theorem respond_sec (i : Nat) (r : YcpResp) (c : Chip) : (respond i r c).sec = c.sec := by unfold respond; simp
@[simp] theorem respond_dbg (i : Nat) (r : YcpResp) (c : Chip) : (respond i r c).dbg = c.dbg := by unfold respond; simp
@[simp] theorem respond_spl (i : Nat) (r : YcpResp) (c : Chip) : (respond i r c).spl = c.spl := by unfold respond; simp
@[simp] theorem respond_free (i : Nat) (r : YcpResp) (c : Chip) : (respond i r c).free = c.free := by unfold respond; simp
@[simp] theorem respond_svcSafety (i : Nat) (r : YcpResp) (c : Chip) : (respond i r c).svcSafety = c.svcSafety := by unfold respond; simp
@[simp] theorem respond_svcPcie (i : Nat) (r : YcpResp) (c : Chip) : (respond i r c).svcPcie = c.svcPcie := by unfold respond; simp

@[simp] theorem deliver_regs (x : Completion) (c : Chip) : (deliver x c).regs = c.regs := by unfold deliver; split <;> (try split) <;> simp
@[simp] theorem deliver_paths (x : Completion) (c : Chip) : (deliver x c).paths = c.paths := by unfold deliver; split <;> (try split) <;> simp
@[simp] theorem deliver_held (x : Completion) (c : Chip) : (deliver x c).held = c.held := by unfold deliver; split <;> (try split) <;> simp
@[simp] theorem deliver_faultSeq (x : Completion) (c : Chip) : (deliver x c).faultSeq = c.faultSeq := by unfold deliver; split <;> (try split) <;> simp
@[simp] theorem deliver_clk (x : Completion) (c : Chip) : (deliver x c).clk = c.clk := by unfold deliver; split <;> (try split) <;> simp
@[simp] theorem deliver_tim (x : Completion) (c : Chip) : (deliver x c).tim = c.tim := by unfold deliver; split <;> (try split) <;> simp
@[simp] theorem deliver_knt (x : Completion) (c : Chip) : (deliver x c).knt = c.knt := by unfold deliver; split <;> (try split) <;> simp
@[simp] theorem deliver_net (x : Completion) (c : Chip) : (deliver x c).net = c.net := by unfold deliver; split <;> (try split) <;> simp
@[simp] theorem deliver_hfr (x : Completion) (c : Chip) : (deliver x c).hfr = c.hfr := by unfold deliver; split <;> (try split) <;> simp
@[simp] theorem deliver_axes (x : Completion) (c : Chip) : (deliver x c).axes = c.axes := by unfold deliver; split <;> (try split) <;> simp
@[simp] theorem deliver_grps (x : Completion) (c : Chip) : (deliver x c).grps = c.grps := by unfold deliver; split <;> (try split) <;> simp
@[simp] theorem deliver_hits (x : Completion) (c : Chip) : (deliver x c).hits = c.hits := by unfold deliver; split <;> (try split) <;> simp
@[simp] theorem deliver_cam (x : Completion) (c : Chip) : (deliver x c).cam = c.cam := by unfold deliver; split <;> (try split) <;> simp
@[simp] theorem deliver_loops (x : Completion) (c : Chip) : (deliver x c).loops = c.loops := by unfold deliver; split <;> (try split) <;> simp
@[simp] theorem deliver_lpes (x : Completion) (c : Chip) : (deliver x c).lpes = c.lpes := by unfold deliver; split <;> (try split) <;> simp
@[simp] theorem deliver_sups (x : Completion) (c : Chip) : (deliver x c).sups = c.sups := by unfold deliver; split <;> (try split) <;> simp
@[simp] theorem deliver_buses (x : Completion) (c : Chip) : (deliver x c).buses = c.buses := by unfold deliver; split <;> (try split) <;> simp
@[simp] theorem deliver_mods (x : Completion) (c : Chip) : (deliver x c).mods = c.mods := by unfold deliver; split <;> (try split) <;> simp
@[simp] theorem deliver_fbks (x : Completion) (c : Chip) : (deliver x c).fbks = c.fbks := by unfold deliver; split <;> (try split) <;> simp
@[simp] theorem deliver_snls (x : Completion) (c : Chip) : (deliver x c).snls = c.snls := by unfold deliver; split <;> (try split) <;> simp
@[simp] theorem deliver_adcs (x : Completion) (c : Chip) : (deliver x c).adcs = c.adcs := by unfold deliver; split <;> (try split) <;> simp
@[simp] theorem deliver_sdfs (x : Completion) (c : Chip) : (deliver x c).sdfs = c.sdfs := by unfold deliver; split <;> (try split) <;> simp
@[simp] theorem deliver_sdfSeq (x : Completion) (c : Chip) : (deliver x c).sdfSeq = c.sdfSeq := by unfold deliver; split <;> (try split) <;> simp
@[simp] theorem deliver_cores (x : Completion) (c : Chip) : (deliver x c).cores = c.cores := by unfold deliver; split <;> (try split) <;> simp
@[simp] theorem deliver_dsp (x : Completion) (c : Chip) : (deliver x c).dsp = c.dsp := by unfold deliver; split <;> (try split) <;> simp
@[simp] theorem deliver_trc (x : Completion) (c : Chip) : (deliver x c).trc = c.trc := by unfold deliver; split <;> (try split) <;> simp
@[simp] theorem deliver_fld (x : Completion) (c : Chip) : (deliver x c).fld = c.fld := by unfold deliver; split <;> (try split) <;> simp
@[simp] theorem deliver_field (x : Completion) (c : Chip) : (deliver x c).field = c.field := by unfold deliver; split <;> (try split) <;> simp
@[simp] theorem deliver_bly (x : Completion) (c : Chip) : (deliver x c).bly = c.bly := by unfold deliver; split <;> (try split) <;> simp
@[simp] theorem deliver_memc (x : Completion) (c : Chip) : (deliver x c).memc = c.memc := by unfold deliver; split <;> (try split) <;> simp
@[simp] theorem deliver_scb (x : Completion) (c : Chip) : (deliver x c).scb = c.scb := by unfold deliver; split <;> (try split) <;> simp
@[simp] theorem deliver_keep (x : Completion) (c : Chip) : (deliver x c).keep = c.keep := by unfold deliver; split <;> (try split) <;> simp
@[simp] theorem deliver_pwr (x : Completion) (c : Chip) : (deliver x c).pwr = c.pwr := by unfold deliver; split <;> (try split) <;> simp
@[simp] theorem deliver_sec (x : Completion) (c : Chip) : (deliver x c).sec = c.sec := by unfold deliver; split <;> (try split) <;> simp
@[simp] theorem deliver_dbg (x : Completion) (c : Chip) : (deliver x c).dbg = c.dbg := by unfold deliver; split <;> (try split) <;> simp
@[simp] theorem deliver_spl (x : Completion) (c : Chip) : (deliver x c).spl = c.spl := by unfold deliver; split <;> (try split) <;> simp
@[simp] theorem deliver_free (x : Completion) (c : Chip) : (deliver x c).free = c.free := by unfold deliver; split <;> (try split) <;> simp
@[simp] theorem deliver_svcSafety (x : Completion) (c : Chip) : (deliver x c).svcSafety = c.svcSafety := by unfold deliver; split <;> (try split) <;> simp
@[simp] theorem deliver_svcPcie (x : Completion) (c : Chip) : (deliver x c).svcPcie = c.svcPcie := by unfold deliver; split <;> (try split) <;> simp

@[simp] theorem finish_regs (id : Nat) (st d : Byte) (r : DWord) (c : Chip) : (finish id st d r c).regs = c.regs := by unfold finish; split <;> simp
@[simp] theorem finish_paths (id : Nat) (st d : Byte) (r : DWord) (c : Chip) : (finish id st d r c).paths = c.paths := by unfold finish; split <;> simp
@[simp] theorem finish_held (id : Nat) (st d : Byte) (r : DWord) (c : Chip) : (finish id st d r c).held = c.held := by unfold finish; split <;> simp
@[simp] theorem finish_faultSeq (id : Nat) (st d : Byte) (r : DWord) (c : Chip) : (finish id st d r c).faultSeq = c.faultSeq := by unfold finish; split <;> simp
@[simp] theorem finish_clk (id : Nat) (st d : Byte) (r : DWord) (c : Chip) : (finish id st d r c).clk = c.clk := by unfold finish; split <;> simp
@[simp] theorem finish_tim (id : Nat) (st d : Byte) (r : DWord) (c : Chip) : (finish id st d r c).tim = c.tim := by unfold finish; split <;> simp
@[simp] theorem finish_knt (id : Nat) (st d : Byte) (r : DWord) (c : Chip) : (finish id st d r c).knt = c.knt := by unfold finish; split <;> simp
@[simp] theorem finish_net (id : Nat) (st d : Byte) (r : DWord) (c : Chip) : (finish id st d r c).net = c.net := by unfold finish; split <;> simp
@[simp] theorem finish_hfr (id : Nat) (st d : Byte) (r : DWord) (c : Chip) : (finish id st d r c).hfr = c.hfr := by unfold finish; split <;> simp
@[simp] theorem finish_axes (id : Nat) (st d : Byte) (r : DWord) (c : Chip) : (finish id st d r c).axes = c.axes := by unfold finish; split <;> simp
@[simp] theorem finish_grps (id : Nat) (st d : Byte) (r : DWord) (c : Chip) : (finish id st d r c).grps = c.grps := by unfold finish; split <;> simp
@[simp] theorem finish_hits (id : Nat) (st d : Byte) (r : DWord) (c : Chip) : (finish id st d r c).hits = c.hits := by unfold finish; split <;> simp
@[simp] theorem finish_cam (id : Nat) (st d : Byte) (r : DWord) (c : Chip) : (finish id st d r c).cam = c.cam := by unfold finish; split <;> simp
@[simp] theorem finish_loops (id : Nat) (st d : Byte) (r : DWord) (c : Chip) : (finish id st d r c).loops = c.loops := by unfold finish; split <;> simp
@[simp] theorem finish_lpes (id : Nat) (st d : Byte) (r : DWord) (c : Chip) : (finish id st d r c).lpes = c.lpes := by unfold finish; split <;> simp
@[simp] theorem finish_sups (id : Nat) (st d : Byte) (r : DWord) (c : Chip) : (finish id st d r c).sups = c.sups := by unfold finish; split <;> simp
@[simp] theorem finish_buses (id : Nat) (st d : Byte) (r : DWord) (c : Chip) : (finish id st d r c).buses = c.buses := by unfold finish; split <;> simp
@[simp] theorem finish_mods (id : Nat) (st d : Byte) (r : DWord) (c : Chip) : (finish id st d r c).mods = c.mods := by unfold finish; split <;> simp
@[simp] theorem finish_fbks (id : Nat) (st d : Byte) (r : DWord) (c : Chip) : (finish id st d r c).fbks = c.fbks := by unfold finish; split <;> simp
@[simp] theorem finish_snls (id : Nat) (st d : Byte) (r : DWord) (c : Chip) : (finish id st d r c).snls = c.snls := by unfold finish; split <;> simp
@[simp] theorem finish_adcs (id : Nat) (st d : Byte) (r : DWord) (c : Chip) : (finish id st d r c).adcs = c.adcs := by unfold finish; split <;> simp
@[simp] theorem finish_sdfs (id : Nat) (st d : Byte) (r : DWord) (c : Chip) : (finish id st d r c).sdfs = c.sdfs := by unfold finish; split <;> simp
@[simp] theorem finish_sdfSeq (id : Nat) (st d : Byte) (r : DWord) (c : Chip) : (finish id st d r c).sdfSeq = c.sdfSeq := by unfold finish; split <;> simp
@[simp] theorem finish_cores (id : Nat) (st d : Byte) (r : DWord) (c : Chip) : (finish id st d r c).cores = c.cores := by unfold finish; split <;> simp
@[simp] theorem finish_dsp (id : Nat) (st d : Byte) (r : DWord) (c : Chip) : (finish id st d r c).dsp = c.dsp := by unfold finish; split <;> simp
@[simp] theorem finish_trc (id : Nat) (st d : Byte) (r : DWord) (c : Chip) : (finish id st d r c).trc = c.trc := by unfold finish; split <;> simp
@[simp] theorem finish_fld (id : Nat) (st d : Byte) (r : DWord) (c : Chip) : (finish id st d r c).fld = c.fld := by unfold finish; split <;> simp
@[simp] theorem finish_field (id : Nat) (st d : Byte) (r : DWord) (c : Chip) : (finish id st d r c).field = c.field := by unfold finish; split <;> simp
@[simp] theorem finish_bly (id : Nat) (st d : Byte) (r : DWord) (c : Chip) : (finish id st d r c).bly = c.bly := by unfold finish; split <;> simp
@[simp] theorem finish_memc (id : Nat) (st d : Byte) (r : DWord) (c : Chip) : (finish id st d r c).memc = c.memc := by unfold finish; split <;> simp
@[simp] theorem finish_scb (id : Nat) (st d : Byte) (r : DWord) (c : Chip) : (finish id st d r c).scb = c.scb := by unfold finish; split <;> simp
@[simp] theorem finish_keep (id : Nat) (st d : Byte) (r : DWord) (c : Chip) : (finish id st d r c).keep = c.keep := by unfold finish; split <;> simp
@[simp] theorem finish_pwr (id : Nat) (st d : Byte) (r : DWord) (c : Chip) : (finish id st d r c).pwr = c.pwr := by unfold finish; split <;> simp
@[simp] theorem finish_sec (id : Nat) (st d : Byte) (r : DWord) (c : Chip) : (finish id st d r c).sec = c.sec := by unfold finish; split <;> simp
@[simp] theorem finish_dbg (id : Nat) (st d : Byte) (r : DWord) (c : Chip) : (finish id st d r c).dbg = c.dbg := by unfold finish; split <;> simp
@[simp] theorem finish_spl (id : Nat) (st d : Byte) (r : DWord) (c : Chip) : (finish id st d r c).spl = c.spl := by unfold finish; split <;> simp
@[simp] theorem finish_free (id : Nat) (st d : Byte) (r : DWord) (c : Chip) : (finish id st d r c).free = c.free := by unfold finish; split <;> simp
@[simp] theorem finish_svcSafety (id : Nat) (st d : Byte) (r : DWord) (c : Chip) : (finish id st d r c).svcSafety = c.svcSafety := by unfold finish; split <;> simp
@[simp] theorem finish_svcPcie (id : Nat) (st d : Byte) (r : DWord) (c : Chip) : (finish id st d r c).svcPcie = c.svcPcie := by unfold finish; split <;> simp

@[simp] theorem markRunning_regs (id : Nat) (c : Chip) : (markRunning id c).regs = c.regs := rfl
@[simp] theorem markRunning_pages (id : Nat) (c : Chip) : (markRunning id c).pages = c.pages := rfl
@[simp] theorem markRunning_paths (id : Nat) (c : Chip) : (markRunning id c).paths = c.paths := rfl
@[simp] theorem markRunning_held (id : Nat) (c : Chip) : (markRunning id c).held = c.held := rfl
@[simp] theorem markRunning_faultSeq (id : Nat) (c : Chip) : (markRunning id c).faultSeq = c.faultSeq := rfl
@[simp] theorem markRunning_clk (id : Nat) (c : Chip) : (markRunning id c).clk = c.clk := rfl
@[simp] theorem markRunning_tim (id : Nat) (c : Chip) : (markRunning id c).tim = c.tim := rfl
@[simp] theorem markRunning_knt (id : Nat) (c : Chip) : (markRunning id c).knt = c.knt := rfl
@[simp] theorem markRunning_evt (id : Nat) (c : Chip) : (markRunning id c).evt = c.evt := rfl
@[simp] theorem markRunning_net (id : Nat) (c : Chip) : (markRunning id c).net = c.net := rfl
@[simp] theorem markRunning_ycp (id : Nat) (c : Chip) : (markRunning id c).ycp = c.ycp := rfl
@[simp] theorem markRunning_hfr (id : Nat) (c : Chip) : (markRunning id c).hfr = c.hfr := rfl
@[simp] theorem markRunning_axes (id : Nat) (c : Chip) : (markRunning id c).axes = c.axes := rfl
@[simp] theorem markRunning_grps (id : Nat) (c : Chip) : (markRunning id c).grps = c.grps := rfl
@[simp] theorem markRunning_hits (id : Nat) (c : Chip) : (markRunning id c).hits = c.hits := rfl
@[simp] theorem markRunning_cam (id : Nat) (c : Chip) : (markRunning id c).cam = c.cam := rfl
@[simp] theorem markRunning_loops (id : Nat) (c : Chip) : (markRunning id c).loops = c.loops := rfl
@[simp] theorem markRunning_lpes (id : Nat) (c : Chip) : (markRunning id c).lpes = c.lpes := rfl
@[simp] theorem markRunning_sups (id : Nat) (c : Chip) : (markRunning id c).sups = c.sups := rfl
@[simp] theorem markRunning_buses (id : Nat) (c : Chip) : (markRunning id c).buses = c.buses := rfl
@[simp] theorem markRunning_mods (id : Nat) (c : Chip) : (markRunning id c).mods = c.mods := rfl
@[simp] theorem markRunning_fbks (id : Nat) (c : Chip) : (markRunning id c).fbks = c.fbks := rfl
@[simp] theorem markRunning_snls (id : Nat) (c : Chip) : (markRunning id c).snls = c.snls := rfl
@[simp] theorem markRunning_adcs (id : Nat) (c : Chip) : (markRunning id c).adcs = c.adcs := rfl
@[simp] theorem markRunning_sdfs (id : Nat) (c : Chip) : (markRunning id c).sdfs = c.sdfs := rfl
@[simp] theorem markRunning_sdfSeq (id : Nat) (c : Chip) : (markRunning id c).sdfSeq = c.sdfSeq := rfl
@[simp] theorem markRunning_cores (id : Nat) (c : Chip) : (markRunning id c).cores = c.cores := rfl
@[simp] theorem markRunning_dsp (id : Nat) (c : Chip) : (markRunning id c).dsp = c.dsp := rfl
@[simp] theorem markRunning_trc (id : Nat) (c : Chip) : (markRunning id c).trc = c.trc := rfl
@[simp] theorem markRunning_fld (id : Nat) (c : Chip) : (markRunning id c).fld = c.fld := rfl
@[simp] theorem markRunning_field (id : Nat) (c : Chip) : (markRunning id c).field = c.field := rfl
@[simp] theorem markRunning_bly (id : Nat) (c : Chip) : (markRunning id c).bly = c.bly := rfl
@[simp] theorem markRunning_memc (id : Nat) (c : Chip) : (markRunning id c).memc = c.memc := rfl
@[simp] theorem markRunning_scb (id : Nat) (c : Chip) : (markRunning id c).scb = c.scb := rfl
@[simp] theorem markRunning_keep (id : Nat) (c : Chip) : (markRunning id c).keep = c.keep := rfl
@[simp] theorem markRunning_pwr (id : Nat) (c : Chip) : (markRunning id c).pwr = c.pwr := rfl
@[simp] theorem markRunning_sec (id : Nat) (c : Chip) : (markRunning id c).sec = c.sec := rfl
@[simp] theorem markRunning_dbg (id : Nat) (c : Chip) : (markRunning id c).dbg = c.dbg := rfl
@[simp] theorem markRunning_spl (id : Nat) (c : Chip) : (markRunning id c).spl = c.spl := rfl
@[simp] theorem markRunning_free (id : Nat) (c : Chip) : (markRunning id c).free = c.free := rfl
@[simp] theorem markRunning_svcSafety (id : Nat) (c : Chip) : (markRunning id c).svcSafety = c.svcSafety := rfl
@[simp] theorem markRunning_svcPcie (id : Nat) (c : Chip) : (markRunning id c).svcPcie = c.svcPcie := rfl
@[simp] theorem markRunning_out (id : Nat) (c : Chip) : (markRunning id c).out = c.out := rfl

@[simp] theorem withService_regs (g : Chip → Chip) (c : Chip) : (withService g c).regs = (g c).regs := by unfold withService; dsimp only; split <;> simp
@[simp] theorem withService_paths (g : Chip → Chip) (c : Chip) : (withService g c).paths = (g c).paths := by unfold withService; dsimp only; split <;> simp
@[simp] theorem withService_held (g : Chip → Chip) (c : Chip) : (withService g c).held = (g c).held := by unfold withService; dsimp only; split <;> simp
@[simp] theorem withService_faultSeq (g : Chip → Chip) (c : Chip) : (withService g c).faultSeq = (g c).faultSeq := by unfold withService; dsimp only; split <;> simp
@[simp] theorem withService_clk (g : Chip → Chip) (c : Chip) : (withService g c).clk = (g c).clk := by unfold withService; dsimp only; split <;> simp
@[simp] theorem withService_tim (g : Chip → Chip) (c : Chip) : (withService g c).tim = (g c).tim := by unfold withService; dsimp only; split <;> simp
@[simp] theorem withService_knt (g : Chip → Chip) (c : Chip) : (withService g c).knt = (g c).knt := by unfold withService; dsimp only; split <;> simp
@[simp] theorem withService_cmd (g : Chip → Chip) (c : Chip) : (withService g c).cmd = (g c).cmd := by unfold withService; dsimp only; split <;> simp
@[simp] theorem withService_net (g : Chip → Chip) (c : Chip) : (withService g c).net = (g c).net := by unfold withService; dsimp only; split <;> simp
@[simp] theorem withService_ycp (g : Chip → Chip) (c : Chip) : (withService g c).ycp = (g c).ycp := by unfold withService; dsimp only; split <;> simp
@[simp] theorem withService_hfr (g : Chip → Chip) (c : Chip) : (withService g c).hfr = (g c).hfr := by unfold withService; dsimp only; split <;> simp
@[simp] theorem withService_axes (g : Chip → Chip) (c : Chip) : (withService g c).axes = (g c).axes := by unfold withService; dsimp only; split <;> simp
@[simp] theorem withService_grps (g : Chip → Chip) (c : Chip) : (withService g c).grps = (g c).grps := by unfold withService; dsimp only; split <;> simp
@[simp] theorem withService_hits (g : Chip → Chip) (c : Chip) : (withService g c).hits = (g c).hits := by unfold withService; dsimp only; split <;> simp
@[simp] theorem withService_cam (g : Chip → Chip) (c : Chip) : (withService g c).cam = (g c).cam := by unfold withService; dsimp only; split <;> simp
@[simp] theorem withService_loops (g : Chip → Chip) (c : Chip) : (withService g c).loops = (g c).loops := by unfold withService; dsimp only; split <;> simp
@[simp] theorem withService_lpes (g : Chip → Chip) (c : Chip) : (withService g c).lpes = (g c).lpes := by unfold withService; dsimp only; split <;> simp
@[simp] theorem withService_sups (g : Chip → Chip) (c : Chip) : (withService g c).sups = (g c).sups := by unfold withService; dsimp only; split <;> simp
@[simp] theorem withService_buses (g : Chip → Chip) (c : Chip) : (withService g c).buses = (g c).buses := by unfold withService; dsimp only; split <;> simp
@[simp] theorem withService_mods (g : Chip → Chip) (c : Chip) : (withService g c).mods = (g c).mods := by unfold withService; dsimp only; split <;> simp
@[simp] theorem withService_fbks (g : Chip → Chip) (c : Chip) : (withService g c).fbks = (g c).fbks := by unfold withService; dsimp only; split <;> simp
@[simp] theorem withService_snls (g : Chip → Chip) (c : Chip) : (withService g c).snls = (g c).snls := by unfold withService; dsimp only; split <;> simp
@[simp] theorem withService_adcs (g : Chip → Chip) (c : Chip) : (withService g c).adcs = (g c).adcs := by unfold withService; dsimp only; split <;> simp
@[simp] theorem withService_sdfs (g : Chip → Chip) (c : Chip) : (withService g c).sdfs = (g c).sdfs := by unfold withService; dsimp only; split <;> simp
@[simp] theorem withService_sdfSeq (g : Chip → Chip) (c : Chip) : (withService g c).sdfSeq = (g c).sdfSeq := by unfold withService; dsimp only; split <;> simp
@[simp] theorem withService_cores (g : Chip → Chip) (c : Chip) : (withService g c).cores = (g c).cores := by unfold withService; dsimp only; split <;> simp
@[simp] theorem withService_dsp (g : Chip → Chip) (c : Chip) : (withService g c).dsp = (g c).dsp := by unfold withService; dsimp only; split <;> simp
@[simp] theorem withService_trc (g : Chip → Chip) (c : Chip) : (withService g c).trc = (g c).trc := by unfold withService; dsimp only; split <;> simp
@[simp] theorem withService_fld (g : Chip → Chip) (c : Chip) : (withService g c).fld = (g c).fld := by unfold withService; dsimp only; split <;> simp
@[simp] theorem withService_field (g : Chip → Chip) (c : Chip) : (withService g c).field = (g c).field := by unfold withService; dsimp only; split <;> simp
@[simp] theorem withService_bly (g : Chip → Chip) (c : Chip) : (withService g c).bly = (g c).bly := by unfold withService; dsimp only; split <;> simp
@[simp] theorem withService_memc (g : Chip → Chip) (c : Chip) : (withService g c).memc = (g c).memc := by unfold withService; dsimp only; split <;> simp
@[simp] theorem withService_scb (g : Chip → Chip) (c : Chip) : (withService g c).scb = (g c).scb := by unfold withService; dsimp only; split <;> simp
@[simp] theorem withService_keep (g : Chip → Chip) (c : Chip) : (withService g c).keep = (g c).keep := by unfold withService; dsimp only; split <;> simp
@[simp] theorem withService_pwr (g : Chip → Chip) (c : Chip) : (withService g c).pwr = (g c).pwr := by unfold withService; dsimp only; split <;> simp
@[simp] theorem withService_sec (g : Chip → Chip) (c : Chip) : (withService g c).sec = (g c).sec := by unfold withService; dsimp only; split <;> simp
@[simp] theorem withService_dbg (g : Chip → Chip) (c : Chip) : (withService g c).dbg = (g c).dbg := by unfold withService; dsimp only; split <;> simp
@[simp] theorem withService_spl (g : Chip → Chip) (c : Chip) : (withService g c).spl = (g c).spl := by unfold withService; dsimp only; split <;> simp
@[simp] theorem withService_free (g : Chip → Chip) (c : Chip) : (withService g c).free = (g c).free := by unfold withService; dsimp only; split <;> simp
@[simp] theorem withService_svcSafety (g : Chip → Chip) (c : Chip) : (withService g c).svcSafety = (g c).svcSafety := by unfold withService; dsimp only; split <;> simp
@[simp] theorem withService_svcPcie (g : Chip → Chip) (c : Chip) : (withService g c).svcPcie = (g c).svcPcie := by unfold withService; dsimp only; split <;> simp
@[simp] theorem withService_out (g : Chip → Chip) (c : Chip) : (withService g c).out = (g c).out := by unfold withService; dsimp only; split <;> simp

@[simp] theorem calm_withService (g : Chip → Chip) (c : Chip) : calm (withService g c) = calm (g c) := by
  unfold withService; dsimp only; split
  · rfl
  · rw [calm_raise]

theorem evt_withService_mono (g : Chip → Chip) (c : Chip) (p : Page) (i : Nat) (h : bit (hdr (g c) p).evt i = true) :
    bit (hdr (withService g c) p).evt i = true := by
  unfold withService; dsimp only; split
  · exact h
  · exact evt_raise_mono _ _ _ _ _ h

@[simp] theorem finishAll_regs (ids : List Nat) (st d : Byte) (r : DWord) (c : Chip) : (finishAll ids st d r c).regs = c.regs :=
  each_keeps (·.regs) _ (fun _ _ => finish_regs _ _ _ _ _) ids c
@[simp] theorem finishAll_paths (ids : List Nat) (st d : Byte) (r : DWord) (c : Chip) : (finishAll ids st d r c).paths = c.paths :=
  each_keeps (·.paths) _ (fun _ _ => finish_paths _ _ _ _ _) ids c
@[simp] theorem finishAll_held (ids : List Nat) (st d : Byte) (r : DWord) (c : Chip) : (finishAll ids st d r c).held = c.held :=
  each_keeps (·.held) _ (fun _ _ => finish_held _ _ _ _ _) ids c
@[simp] theorem finishAll_faultSeq (ids : List Nat) (st d : Byte) (r : DWord) (c : Chip) : (finishAll ids st d r c).faultSeq = c.faultSeq :=
  each_keeps (·.faultSeq) _ (fun _ _ => finish_faultSeq _ _ _ _ _) ids c
@[simp] theorem finishAll_clk (ids : List Nat) (st d : Byte) (r : DWord) (c : Chip) : (finishAll ids st d r c).clk = c.clk :=
  each_keeps (·.clk) _ (fun _ _ => finish_clk _ _ _ _ _) ids c
@[simp] theorem finishAll_tim (ids : List Nat) (st d : Byte) (r : DWord) (c : Chip) : (finishAll ids st d r c).tim = c.tim :=
  each_keeps (·.tim) _ (fun _ _ => finish_tim _ _ _ _ _) ids c
@[simp] theorem finishAll_knt (ids : List Nat) (st d : Byte) (r : DWord) (c : Chip) : (finishAll ids st d r c).knt = c.knt :=
  each_keeps (·.knt) _ (fun _ _ => finish_knt _ _ _ _ _) ids c
@[simp] theorem finishAll_net (ids : List Nat) (st d : Byte) (r : DWord) (c : Chip) : (finishAll ids st d r c).net = c.net :=
  each_keeps (·.net) _ (fun _ _ => finish_net _ _ _ _ _) ids c
@[simp] theorem finishAll_hfr (ids : List Nat) (st d : Byte) (r : DWord) (c : Chip) : (finishAll ids st d r c).hfr = c.hfr :=
  each_keeps (·.hfr) _ (fun _ _ => finish_hfr _ _ _ _ _) ids c
@[simp] theorem finishAll_axes (ids : List Nat) (st d : Byte) (r : DWord) (c : Chip) : (finishAll ids st d r c).axes = c.axes :=
  each_keeps (·.axes) _ (fun _ _ => finish_axes _ _ _ _ _) ids c
@[simp] theorem finishAll_grps (ids : List Nat) (st d : Byte) (r : DWord) (c : Chip) : (finishAll ids st d r c).grps = c.grps :=
  each_keeps (·.grps) _ (fun _ _ => finish_grps _ _ _ _ _) ids c
@[simp] theorem finishAll_hits (ids : List Nat) (st d : Byte) (r : DWord) (c : Chip) : (finishAll ids st d r c).hits = c.hits :=
  each_keeps (·.hits) _ (fun _ _ => finish_hits _ _ _ _ _) ids c
@[simp] theorem finishAll_cam (ids : List Nat) (st d : Byte) (r : DWord) (c : Chip) : (finishAll ids st d r c).cam = c.cam :=
  each_keeps (·.cam) _ (fun _ _ => finish_cam _ _ _ _ _) ids c
@[simp] theorem finishAll_loops (ids : List Nat) (st d : Byte) (r : DWord) (c : Chip) : (finishAll ids st d r c).loops = c.loops :=
  each_keeps (·.loops) _ (fun _ _ => finish_loops _ _ _ _ _) ids c
@[simp] theorem finishAll_lpes (ids : List Nat) (st d : Byte) (r : DWord) (c : Chip) : (finishAll ids st d r c).lpes = c.lpes :=
  each_keeps (·.lpes) _ (fun _ _ => finish_lpes _ _ _ _ _) ids c
@[simp] theorem finishAll_sups (ids : List Nat) (st d : Byte) (r : DWord) (c : Chip) : (finishAll ids st d r c).sups = c.sups :=
  each_keeps (·.sups) _ (fun _ _ => finish_sups _ _ _ _ _) ids c
@[simp] theorem finishAll_buses (ids : List Nat) (st d : Byte) (r : DWord) (c : Chip) : (finishAll ids st d r c).buses = c.buses :=
  each_keeps (·.buses) _ (fun _ _ => finish_buses _ _ _ _ _) ids c
@[simp] theorem finishAll_mods (ids : List Nat) (st d : Byte) (r : DWord) (c : Chip) : (finishAll ids st d r c).mods = c.mods :=
  each_keeps (·.mods) _ (fun _ _ => finish_mods _ _ _ _ _) ids c
@[simp] theorem finishAll_fbks (ids : List Nat) (st d : Byte) (r : DWord) (c : Chip) : (finishAll ids st d r c).fbks = c.fbks :=
  each_keeps (·.fbks) _ (fun _ _ => finish_fbks _ _ _ _ _) ids c
@[simp] theorem finishAll_snls (ids : List Nat) (st d : Byte) (r : DWord) (c : Chip) : (finishAll ids st d r c).snls = c.snls :=
  each_keeps (·.snls) _ (fun _ _ => finish_snls _ _ _ _ _) ids c
@[simp] theorem finishAll_adcs (ids : List Nat) (st d : Byte) (r : DWord) (c : Chip) : (finishAll ids st d r c).adcs = c.adcs :=
  each_keeps (·.adcs) _ (fun _ _ => finish_adcs _ _ _ _ _) ids c
@[simp] theorem finishAll_sdfs (ids : List Nat) (st d : Byte) (r : DWord) (c : Chip) : (finishAll ids st d r c).sdfs = c.sdfs :=
  each_keeps (·.sdfs) _ (fun _ _ => finish_sdfs _ _ _ _ _) ids c
@[simp] theorem finishAll_sdfSeq (ids : List Nat) (st d : Byte) (r : DWord) (c : Chip) : (finishAll ids st d r c).sdfSeq = c.sdfSeq :=
  each_keeps (·.sdfSeq) _ (fun _ _ => finish_sdfSeq _ _ _ _ _) ids c
@[simp] theorem finishAll_cores (ids : List Nat) (st d : Byte) (r : DWord) (c : Chip) : (finishAll ids st d r c).cores = c.cores :=
  each_keeps (·.cores) _ (fun _ _ => finish_cores _ _ _ _ _) ids c
@[simp] theorem finishAll_dsp (ids : List Nat) (st d : Byte) (r : DWord) (c : Chip) : (finishAll ids st d r c).dsp = c.dsp :=
  each_keeps (·.dsp) _ (fun _ _ => finish_dsp _ _ _ _ _) ids c
@[simp] theorem finishAll_trc (ids : List Nat) (st d : Byte) (r : DWord) (c : Chip) : (finishAll ids st d r c).trc = c.trc :=
  each_keeps (·.trc) _ (fun _ _ => finish_trc _ _ _ _ _) ids c
@[simp] theorem finishAll_fld (ids : List Nat) (st d : Byte) (r : DWord) (c : Chip) : (finishAll ids st d r c).fld = c.fld :=
  each_keeps (·.fld) _ (fun _ _ => finish_fld _ _ _ _ _) ids c
@[simp] theorem finishAll_field (ids : List Nat) (st d : Byte) (r : DWord) (c : Chip) : (finishAll ids st d r c).field = c.field :=
  each_keeps (·.field) _ (fun _ _ => finish_field _ _ _ _ _) ids c
@[simp] theorem finishAll_bly (ids : List Nat) (st d : Byte) (r : DWord) (c : Chip) : (finishAll ids st d r c).bly = c.bly :=
  each_keeps (·.bly) _ (fun _ _ => finish_bly _ _ _ _ _) ids c
@[simp] theorem finishAll_memc (ids : List Nat) (st d : Byte) (r : DWord) (c : Chip) : (finishAll ids st d r c).memc = c.memc :=
  each_keeps (·.memc) _ (fun _ _ => finish_memc _ _ _ _ _) ids c
@[simp] theorem finishAll_scb (ids : List Nat) (st d : Byte) (r : DWord) (c : Chip) : (finishAll ids st d r c).scb = c.scb :=
  each_keeps (·.scb) _ (fun _ _ => finish_scb _ _ _ _ _) ids c
@[simp] theorem finishAll_keep (ids : List Nat) (st d : Byte) (r : DWord) (c : Chip) : (finishAll ids st d r c).keep = c.keep :=
  each_keeps (·.keep) _ (fun _ _ => finish_keep _ _ _ _ _) ids c
@[simp] theorem finishAll_pwr (ids : List Nat) (st d : Byte) (r : DWord) (c : Chip) : (finishAll ids st d r c).pwr = c.pwr :=
  each_keeps (·.pwr) _ (fun _ _ => finish_pwr _ _ _ _ _) ids c
@[simp] theorem finishAll_sec (ids : List Nat) (st d : Byte) (r : DWord) (c : Chip) : (finishAll ids st d r c).sec = c.sec :=
  each_keeps (·.sec) _ (fun _ _ => finish_sec _ _ _ _ _) ids c
@[simp] theorem finishAll_dbg (ids : List Nat) (st d : Byte) (r : DWord) (c : Chip) : (finishAll ids st d r c).dbg = c.dbg :=
  each_keeps (·.dbg) _ (fun _ _ => finish_dbg _ _ _ _ _) ids c
@[simp] theorem finishAll_spl (ids : List Nat) (st d : Byte) (r : DWord) (c : Chip) : (finishAll ids st d r c).spl = c.spl :=
  each_keeps (·.spl) _ (fun _ _ => finish_spl _ _ _ _ _) ids c
@[simp] theorem finishAll_free (ids : List Nat) (st d : Byte) (r : DWord) (c : Chip) : (finishAll ids st d r c).free = c.free :=
  each_keeps (·.free) _ (fun _ _ => finish_free _ _ _ _ _) ids c
@[simp] theorem finishAll_svcSafety (ids : List Nat) (st d : Byte) (r : DWord) (c : Chip) : (finishAll ids st d r c).svcSafety = c.svcSafety :=
  each_keeps (·.svcSafety) _ (fun _ _ => finish_svcSafety _ _ _ _ _) ids c
@[simp] theorem finishAll_svcPcie (ids : List Nat) (st d : Byte) (r : DWord) (c : Chip) : (finishAll ids st d r c).svcPcie = c.svcPcie :=
  each_keeps (·.svcPcie) _ (fun _ _ => finish_svcPcie _ _ _ _ _) ids c

end Sys2Proof.Machine
end

