-- ==== Sys2Proof/Laws/Window.lean ====
section
/-!
SUPPORT. The register window: which page an offset names, and what a write or a read of a page register comes to once its
checks have passed.
-/

namespace Sys2Proof.Machine

theorem pageOfNum_axm : ∀ n : Fin 160, pageOfNum (0x020 + n.val) = some (.axm n) := by decide +kernel

theorem pageOfNum_lpa : ∀ n : Fin 128, pageOfNum (0x100 + n.val) = some (.lpa n) := by decide +kernel

theorem pageOfNum_mod : ∀ n : Fin 128, pageOfNum (0x190 + n.val) = some (.mod n) := by decide +kernel

theorem pageOfNum_fbk : ∀ n : Fin 128, pageOfNum (0x220 + n.val) = some (.fbk n) := by decide +kernel

theorem pageOfNum_snl : ∀ n : Fin 128, pageOfNum (0x300 + n.val) = some (.snl n) := by decide +kernel

theorem pageOfNum_net : ∀ n : Fin 4, pageOfNum (0x008 + n.val) = some (.net n) := by decide +kernel

theorem pageOfNum_grp : ∀ n : Fin 32, pageOfNum (0x0C0 + n.val) = some (.grp n) := by decide +kernel

theorem pageOfNum_lpe : ∀ n : Fin 4, pageOfNum (0x180 + n.val) = some (.lpe n) := by decide +kernel

theorem pageOfNum_bus : ∀ n : Fin 16, pageOfNum (0x210 + n.val) = some (.bus n) := by decide +kernel

theorem pageOfNum_adc : ∀ n : Fin 16, pageOfNum (0x2A0 + n.val) = some (.adc n) := by decide +kernel

theorem pageOfNum_sdf : ∀ n : Fin 8, pageOfNum (0x2B0 + n.val) = some (.sdf n) := by decide +kernel

theorem pageOfNum_fco : ∀ n : Fin 8, pageOfNum (0x2C0 + n.val) = some (.fco n) := by decide +kernel

/-- Every page is found by its number (Table 2-1). -/
@[simp] theorem pageOfNum_pageNum (p : Page) : pageOfNum (pageNum p) = some p := by
  cases p with
  | axm n => exact pageOfNum_axm n
  | lpa n => exact pageOfNum_lpa n
  | mod n => exact pageOfNum_mod n
  | fbk n => exact pageOfNum_fbk n
  | snl n => exact pageOfNum_snl n
  | net n => exact pageOfNum_net n
  | grp n => exact pageOfNum_grp n
  | lpe n => exact pageOfNum_lpe n
  | bus n => exact pageOfNum_bus n
  | adc n => exact pageOfNum_adc n
  | sdf n => exact pageOfNum_sdf n
  | fco n => exact pageOfNum_fco n
  | _ => rfl

/-- Page numbers stay below the memory windows. -/
theorem pageNum_lt (p : Page) : pageNum p < 0x400 := by
  cases p <;> simp only [pageNum] <;> omega

/-- An offset within a page's 4 KiB addresses that page (R29). -/
theorem targetOf_page (p : Page) (off : Nat) (h : off < 0x1000) : targetOf (pageBase p + off) = .page p off := by
  have h1 := pageNum_lt p
  have h2 : pageBase p + off < 0x400000 := by unfold pageBase; omega
  have h3 : (pageBase p + off) / 0x1000 = pageNum p := by unfold pageBase; omega
  have h4 : (pageBase p + off) % 0x1000 = off := by unfold pageBase; omega
  simp [targetOf, h2, h3, h4]

theorem pageBase_mod (p : Page) : pageBase p % 4 = 0 := by unfold pageBase; omega

/-- A write of a page register by a path that may write the page, beyond the header and the staging latch. -/
theorem regPage_store (s : State) (path : Path) (p : Page) (off : Nat) (v : Word) (h : CanWrite s path p)
    (h1 : off < 0x1000) (h2 : off % 4 = 0) (h3 : 0x040 ≤ off) (h4 : isStaging p off = false) :
    regPage path p off v s = onChip (ended path p off) (blockStore path p off v s) := by
  obtain ⟨hu, ho, _⟩ := h
  have e1 : (pageBase p + off) % 4 = 0 := by have := pageBase_mod p; omega
  have e2 : ¬ ((hdr s.chip p).owner ≠ 0 ∧ (hdr s.chip p).owner ≠ pathCode path) := by
    rintro ⟨a, b⟩; rcases ho with ho | ho <;> contradiction
  have e3 : ¬ off < 0x040 := by omega
  simp [regPage, regWrite, hu, writeWindow, e1, targetOf_page p off h1, pageWrite, h4, e2, e3]
  rfl

/-- A write of a header register by a path that may write the page. -/
theorem regPage_header (s : State) (path : Path) (p : Page) (off : Nat) (v : Word) (h : CanWrite s path p)
    (h2 : off % 4 = 0) (h3 : off < 0x040) :
    regPage path p off v s = onChip (ended path p off) (headerWrite p off v s) := by
  obtain ⟨hu, ho, _⟩ := h
  have e1 : (pageBase p + off) % 4 = 0 := by have := pageBase_mod p; omega
  have e2 : ¬ ((hdr s.chip p).owner ≠ 0 ∧ (hdr s.chip p).owner ≠ pathCode path) := by
    rintro ⟨a, b⟩; rcases ho with ho | ho <;> contradiction
  have e4 : isStaging p off = false := by simp [isStaging]; omega
  simp [regPage, regWrite, hu, writeWindow, e1, targetOf_page p off (by omega), pageWrite, e4, e2, h3]
  rfl

/-- A write of a 32-bit block register whose value passes the checks of R40. -/
theorem regPage_clean (s : State) (path : Path) (p : Page) (off : Nat) (v : Word) (r : Reg) (hi : Bool) (h : CanWrite s path p)
    (h1 : off < 0x800) (h2 : off % 4 = 0) (h3 : 0x040 ≤ off) (hr : findRow (pageRows p) off = some (r, hi)) (hp : r.pair = false)
    (ha : r.acc ≠ .ro) (hs : r.acc ≠ .rwl ∨ (hdr s.chip p).sealedBit = false)
    (hc : cleanReg s.chip path p off r v = (v, false)) (hm : v &&& r.mask = v) :
    regPage path p off v s =
      onChip (fun c => ended path p off (if (blockWrite path p off r v s).2 then countWrite p c else c)) (blockWrite path p off r v s).1 := by
  have e4 : isStaging p off = false := by simp [isStaging, hr, hp]
  rw [regPage_store s path p off v h (by omega) h2 h3 e4]
  have e5 : ¬ (r.acc = .rwl ∧ (hdr s.chip p).sealedBit = true) := by
    rintro ⟨a, b⟩; rcases hs with hs | hs
    · exact hs a
    · rw [hs] at b; contradiction
  simp [blockStore, h.2.2, h1, hr, ha, hp, hc, e5, hm, onChip, raiseIf]

/-- The same for a write that the register's chapter takes. -/
theorem regPage_taken (s s1 : State) (path : Path) (p : Page) (off : Nat) (v : Word) (r : Reg) (hi : Bool) (h : CanWrite s path p)
    (h1 : off < 0x800) (h2 : off % 4 = 0) (h3 : 0x040 ≤ off) (hr : findRow (pageRows p) off = some (r, hi)) (hp : r.pair = false)
    (ha : r.acc ≠ .ro) (hs : r.acc ≠ .rwl ∨ (hdr s.chip p).sealedBit = false)
    (hc : cleanReg s.chip path p off r v = (v, false)) (hm : v &&& r.mask = v) (hb : blockWrite path p off r v s = (s1, true)) :
    regPage path p off v s = onChip (taken path p off) s1 := by
  rw [regPage_clean s path p off v r hi h h1 h2 h3 hr hp ha hs hc hm, hb]; rfl

/-- The same for a write that the register's chapter turns away. -/
theorem regPage_ended (s s1 : State) (path : Path) (p : Page) (off : Nat) (v : Word) (r : Reg) (hi : Bool) (h : CanWrite s path p)
    (h1 : off < 0x800) (h2 : off % 4 = 0) (h3 : 0x040 ≤ off) (hr : findRow (pageRows p) off = some (r, hi)) (hp : r.pair = false)
    (ha : r.acc ≠ .ro) (hs : r.acc ≠ .rwl ∨ (hdr s.chip p).sealedBit = false)
    (hc : cleanReg s.chip path p off r v = (v, false)) (hm : v &&& r.mask = v) (hb : blockWrite path p off r v s = (s1, false)) :
    regPage path p off v s = onChip (ended path p off) s1 := by
  rw [regPage_clean s path p off v r hi h h1 h2 h3 hr hp ha hs hc hm, hb]; rfl

/-- A value within the defined bits of a register, legal in every field, is taken as written (R40). -/
theorem cleanReg_eq (c : Chip) (path : Path) (p : Page) (off : Nat) (r : Reg) (v : Word) (hm : v &&& r.mask = v)
    (hl : keepLegal (blockWord c path p off) v (r.legal ++ moreLegal p off) = (v, false))
    (hx : crossKeep c p off (blockWord c path p off) v = (v, false)) : cleanReg c path p off r v = (v, false) := by
  have hr : v &&& ~~~(r.ro &&& ~~~r.mask) = v := by
    rw [← hm]; ext i hi; simp; intro _ hb; exact Or.inr hb
  have h0 : v &&& ~~~r.mask = 0 := by
    rw [← hm]; ext i hi; simp
  unfold cleanReg
  split
  · rfl
  · simp [cleanWord, hr, hm, hl, h0, hx]

/-- The whole write of a 32-bit register: the row of its offset, a value that R40 leaves as it is, and what the register's chapter
makes of it. -/
theorem regPage_plain {s s1 : State} {path : Path} {p : Page} {off : Nat} {v : Word} {r : Reg} {hi : Bool} (ok : Bool)
    (h : CanWrite s path p) (h1 : off < 0x800) (h2 : off % 4 = 0) (h3 : 0x040 ≤ off)
    (hr : findRow (pageRows p) off = some (r, hi)) (hp : r.pair = false) (ha : r.acc ≠ .ro)
    (hs : r.acc ≠ .rwl ∨ (hdr s.chip p).sealedBit = false) (hm : v &&& r.mask = v)
    (hl : keepLegal (blockWord s.chip path p off) v (r.legal ++ moreLegal p off) = (v, false))
    (hx : crossKeep s.chip p off (blockWord s.chip path p off) v = (v, false)) (hb : blockWrite path p off r v s = (s1, ok)) :
    regPage path p off v s = onChip (if ok then taken path p off else ended path p off) s1 := by
  have hc := cleanReg_eq s.chip path p off r v hm hl hx
  cases ok with
  | true => exact regPage_taken s s1 path p off v r hi h h1 h2 h3 hr hp ha hs hc hm hb
  | false => exact regPage_ended s s1 path p off v r hi h h1 h2 h3 hr hp ha hs hc hm hb

/-- A read of a page register. -/
theorem regRead_page (s : State) (path : Path) (p : Page) (off : Nat) (h : fabricUp s.chip path = true) (h1 : off < 0x1000)
    (h2 : off % 4 = 0) :
    regRead path (pageBase p + off) s =
      { s with chip := answered path p off (pageRead path p off s.chip).2 (pageRead path p off s.chip).1 } := by
  have e1 : (pageBase p + off) % 4 = 0 := by have := pageBase_mod p; omega
  simp [regRead, h, readWindow, e1, targetOf_page p off h1]
  rfl

end Sys2Proof.Machine
end

