-- ==== Sys2Proof/Laws/Run.lean ====
section
/-!
SUPPORT. Events of the main die while it acts, and updates of the chip that agree on the chip at hand.
-/

namespace Sys2Proof.Machine

theorem onChip_congr {f g : Chip → Chip} {s : State} (h : f s.chip = g s.chip) : onChip f s = onChip g s := by unfold onChip; rw [h]

theorem whileRuns_live {f : Chip → Chip} {c : Chip} (hm : mainRuns c = true) : whileRuns f c = f c := by unfold whileRuns; rw [if_pos hm]

/-- While the main die acts, its events have their effect on the chip, and touch nothing else. -/
theorem run_live {f : Chip → Chip} {s : State} (hm : mainRuns s.chip = true) : run (whileRuns f) s = .next (onChip f s) := by
  unfold run; rw [onChip_congr (whileRuns_live hm)]

/-- The same, with the effect in another form that agrees on this chip. -/
theorem run_live_as {f g : Chip → Chip} {s : State} (hm : mainRuns s.chip = true) (h : f s.chip = g s.chip) :
    run (whileRuns f) s = .next (onChip g s) := by rw [run_live hm, onChip_congr h]

/-- A register write through a path, with its effect in another form that agrees on this chip. -/
theorem next_onChip {f g : Chip → Chip} {s : State} (h : f s.chip = g s.chip) :
    (.next (onChip f s) : Host.Outcome State Fault Refusal) = .next (onChip g s) := by rw [onChip_congr h]

theorem cntWrap_regs_only (p : Page) (off hi lo : Nat) (c : Chip) : (cntWrap p off hi lo c).pages = c.pages := by unfold cntWrap; simp

end Sys2Proof.Machine
end

