-- ==== Sys2Proof/Laws/AxisRows.lean ====
section
/-!
SUPPORT. The page of an axis and the rows of its latch units.
-/

namespace Sys2Proof.Laws.AxisRows

open Sys2Proof Sys2Proof.Machine

theorem axmFin (n : Fin 160) : axmPage n.val = .axm n := by
  unfold axmPage; congr 1; ext; simp [Fin.ofNat, Nat.mod_eq_of_lt n.isLt]

theorem latRow (n : Fin 160) (l : Fin 2) : ∃ row, findRow (pageRows (.axm n)) (latBase l.val + 0x2C) = some (row, false) ∧ row.pair = false ∧ row.acc = .wo ∧ row.mask = 1 ∧ row.legal = [] := by
    fin_cases l <;> exact ⟨_, rfl, rfl, rfl, rfl, rfl⟩

end Sys2Proof.Laws.AxisRows
end

