-- ==== Sys2Proof/Laws/BelayKeeps.lean ====
section
/-!
SUPPORT. What latching, clearing and halting the belay leave alone.
-/

namespace Sys2Proof.Laws.BelayKeeps

open Sys2Proof Sys2Proof.Machine

theorem clear_keep (now : Nat) (b : BlySt) : (blyClear now b).sto = b.sto ∧ (blyClear now b).sout = b.sout := by
  have h1 : ∀ x (b : BlySt), (clearOne x b).sto = b.sto ∧ (clearOne x b).sout = b.sout := by
    intro x b; unfold clearOne; dsimp only; split <;> exact ⟨rfl, rfl⟩
  have h2 : ∀ (l : List (Nat × Nat)) (b : BlySt), (l.foldl (fun b x => clearOne x b) b).sto = b.sto ∧ (l.foldl (fun b x => clearOne x b) b).sout = b.sout := by
    intro l; induction l with
    | nil => intro b; exact ⟨rfl, rfl⟩
    | cons x l ih => intro b; rw [List.foldl_cons, (ih _).1, (ih _).2, (h1 _ _).1, (h1 _ _).2]; exact ⟨rfl, rfl⟩
  exact h2 _ _

theorem latch_keep (n x : Nat) (b : BlySt) : (blyLatch n x b).sto = b.sto ∧ (blyLatch n x b).sout = b.sout ∧ (blyLatch n x b).fns = b.fns ∧ (blyLatch n x b).souts = b.souts ∧ (blyLatch n x b).soutNext = b.soutNext := by
  unfold blyLatch; split <;> exact ⟨rfl, rfl, rfl, rfl, rfl⟩

theorem fold_keep {α β : Type} (g : BlySt → β) (f : BlySt → α → BlySt) (h : ∀ b x, g (f b x) = g b) (l : List α) (b : BlySt) : g (l.foldl f b) = g b := by
  induction l generalizing b with
  | nil => rfl
  | cons x l ih => rw [List.foldl_cons, ih, h]

theorem halt_keep (n : Nat) (b : BlySt) : (blyHalt n b).sto = b.sto ∧ (blyHalt n b).sout = b.sout ∧ (blyHalt n b).state = .halted ∧ (blyHalt n b).stoNext = 0xFFFF ∧ (blyHalt n b).soutNext = 0 := by
  unfold blyHalt; dsimp only
  refine ⟨?_, ?_, ?_, ?_, ?_⟩
  · rw [fold_keep (·.sto)]; rotate_left 1; · intro b x; rfl
    exact (latch_keep _ _ _).1
  · rw [fold_keep (·.sout)]; rotate_left 1; · intro b x; rfl
    exact (latch_keep _ _ _).2.1
  · rw [fold_keep (·.state)]; intro b x; rfl
  · rw [fold_keep (·.stoNext)]; intro b x; rfl
  · rw [fold_keep (·.soutNext)]; intro b x; rfl

end Sys2Proof.Laws.BelayKeeps
end

