-- ==== Sys2Proof/Laws/CalOps.lean ====
section
/-!
SUPPORT. The commands that wait for a calibration see only its effect.
-/

namespace Sys2Proof.Laws.CalOps

open Sys2Proof Sys2Proof.Machine

theorem withCal_congr (f g : State → State) (s : State) (h : f s = g s) : withCal f s = withCal g s := by unfold withCal; rw [h]

end Sys2Proof.Laws.CalOps
end

