-- ==== Sys2Proof/Laws/Code.lean ====
section
/-!
SUPPORT. The error code is linear: what a reader computes from a stored word is what the difference alone gives (R442, R443).
-/

namespace Sys2Proof.Machine

theorem hColumn_lt : ∀ i : Fin 152, hColumn i.val < 256 := by decide +kernel

/-- A sum of columns over a list of bit places. -/
def columnsOf (f : Nat → Bool) (l : List Nat) (s : Nat) : Nat := l.foldl (fun s i => if f i then s ^^^ hColumn i else s) s

theorem columnsOf_start (f : Nat → Bool) : ∀ (l : List Nat) (s : Nat), columnsOf f l s = s ^^^ columnsOf f l 0
  | [], s => by simp [columnsOf]
  | i :: l, s => by
    show columnsOf f l _ = s ^^^ columnsOf f l _
    rw [columnsOf_start f l (if f i then s ^^^ hColumn i else s), columnsOf_start f l (if f i then 0 ^^^ hColumn i else 0)]
    split <;> simp [Nat.xor_assoc]

/-- Columns of a sum are the sum of the columns. -/
theorem columnsOf_xor (f g : Nat → Bool) : ∀ l : List Nat, columnsOf (fun i => f i ^^ g i) l 0 = columnsOf f l 0 ^^^ columnsOf g l 0
  | [] => by simp [columnsOf]
  | i :: l => by
    show columnsOf _ l (if (f i ^^ g i) then 0 ^^^ hColumn i else 0) = columnsOf f l (if f i then 0 ^^^ hColumn i else 0) ^^^ columnsOf g l (if g i then 0 ^^^ hColumn i else 0)
    rw [columnsOf_start _ l, columnsOf_start f l, columnsOf_start g l, columnsOf_xor f g l]
    apply Nat.eq_of_testBit_eq
    intro k
    simp only [Nat.testBit_xor]
    cases f i <;> cases g i <;> simp only [Bool.xor_false, Bool.xor_true, Bool.not_false, Bool.not_true, Bool.false_eq_true, if_false, if_true, Nat.zero_xor, Nat.zero_testBit] <;>
      cases (hColumn i).testBit k <;> cases (columnsOf f l 0).testBit k <;> cases (columnsOf g l 0).testBit k <;> rfl

theorem columnsOf_congr (f g : Nat → Bool) : ∀ (l : List Nat), (∀ i ∈ l, f i = g i) → ∀ s, columnsOf f l s = columnsOf g l s
  | [], _, _ => rfl
  | i :: l, h, s => by
    show columnsOf f l (if f i then s ^^^ hColumn i else s) = columnsOf g l (if g i then s ^^^ hColumn i else s)
    rw [h i (List.mem_cons_self ..)]
    exact columnsOf_congr f g l (fun j hj => h j (List.mem_cons_of_mem _ hj)) _

theorem columnsOf_lt (f : Nat → Bool) : ∀ (l : List Nat), (∀ i ∈ l, hColumn i < 256) → ∀ s < 256, columnsOf f l s < 256
  | [], _, _, hs => hs
  | i :: l, h, s, hs => by
    show columnsOf f l _ < 256
    refine columnsOf_lt f l (fun j hj => h j (List.mem_cons_of_mem _ hj)) _ ?_
    show (if f i then s ^^^ hColumn i else s) < 256
    split
    · exact Nat.xor_lt_two_pow (n := 8) hs (h i (List.mem_cons_self ..))
    · exact hs

theorem dataColumns_xor (a b : BitVec 128) : dataColumns (a ^^^ b) = dataColumns a ^^^ dataColumns b := by
  have := columnsOf_xor a.getLsbD b.getLsbD (List.range 128)
  rw [show (fun i => a.getLsbD i ^^ b.getLsbD i) = (a ^^^ b).getLsbD from by funext i; simp] at this
  exact this

theorem hammingOf_lt (r : Region) (i : Nat) (d : BitVec 128) : hammingOf r i d < 256 := by
  refine Nat.xor_lt_two_pow (n := 8) ?_ ?_
  · exact columnsOf_lt _ (List.range 128) (fun i hi => hColumn_lt ⟨i, by simp at hi; omega⟩) 0 (by decide)
  · have : ∀ (l : List Nat) (s : Nat), (∀ j ∈ l, j < 24) → s < 256 →
        l.foldl (fun s j => if (foldedAddr r i).testBit j then s ^^^ hColumn (128 + j) else s) s < 256 := by
      intro l
      induction l with
      | nil => intro s _ hs; exact hs
      | cons j l ih =>
        intro s hl hs
        rw [List.foldl_cons]
        refine ih _ (fun k hk => hl k (List.mem_cons_of_mem _ hk)) ?_
        split
        · exact Nat.xor_lt_two_pow (n := 8) hs (hColumn_lt ⟨128 + j, by have := hl j (List.mem_cons_self ..); omega⟩)
        · exact hs
    exact this _ 0 (fun j hj => by simpa using hj) (by decide)

/-- The syndrome of a difference, by its data bits and the stored bits of H. -/
theorem synOf_eq (e : BitVec 144) : synOf e = dataColumns (e.setWidth 128) ^^^ (e.toNat / 2 ^ 128 % 256) := by
  show columnsOf e.getLsbD (List.range 128) 0 ^^^ _ = columnsOf (e.setWidth 128).getLsbD (List.range 128) 0 ^^^ _
  rw [columnsOf_congr e.getLsbD (e.setWidth 128).getLsbD (List.range 128) (fun i hi => ?_) 0]
  have : i < 128 := by simpa using hi
  simp [this]

/-- The syndrome read from a stored word is that of the difference errors have made, whatever data and address are. -/
theorem synRead_eq (r : Region) (i : Nat) (d : BitVec 128) (e : BitVec 144) : synRead r i (storedBits r i d e) = synOf e := by
  have hd := d.isLt
  have hh := hammingOf_lt r i d
  have h1 : (storedBits r i d e).setWidth 128 = d ^^^ e.setWidth 128 := by
    unfold storedBits
    apply BitVec.eq_of_toNat_eq
    simp only [BitVec.setWidth_xor, BitVec.toNat_xor]
    congr 1
    simp only [BitVec.toNat_setWidth, BitVec.toNat_ofNat]
    omega
  have h2 : (storedBits r i d e).toNat / 2 ^ 128 % 256 = hammingOf r i d ^^^ (e.toNat / 2 ^ 128 % 256) := by
    have hc : checkBits r i d % 256 = hammingOf r i d := by
      unfold checkBits flag; split <;> split <;> omega
    unfold storedBits
    rw [BitVec.toNat_xor, ← Nat.shiftRight_eq_div_pow, Nat.shiftRight_xor_distrib, Nat.shiftRight_eq_div_pow, Nat.shiftRight_eq_div_pow,
      show (256 : Nat) = 2 ^ 8 from rfl, Nat.xor_mod_two_pow]
    congr 1
    rw [BitVec.toNat_ofNat, ← hc]
    omega
  rw [synOf_eq]
  unfold synRead
  rw [h1, h2]
  unfold hammingOf
  rw [dataColumns_xor]
  have e3 : ∀ a b c x : Nat, a ^^^ b ^^^ c ^^^ (a ^^^ c ^^^ x) = b ^^^ x := by
    intro a b c x; apply Nat.eq_of_testBit_eq; intro k; simp only [Nat.testBit_xor]
    cases a.testBit k <;> cases b.testBit k <;> cases c.testBit k <;> cases x.testBit k <;> rfl
  exact e3 _ _ _ _

end Sys2Proof.Machine
end

