-- ==== Sys2Proof/Laws/CoreIssue.lean ====
section
/-!
SUPPORT. A core that stands at a word issues it; a multiply-accumulate whose operands are read.
-/

namespace Sys2Proof.Laws.CoreIssue

open Sys2Proof Sys2Proof.Machine

theorem issue_ok {s : State} {k : Fin 8} {w : Word} (h : Stands s k w) (ok : Word → Bool) (f : Nat → Word → State → State) (ho : ok w = true) :
    issue k w ok f s = f k w (atIssue s k) := by
  obtain ⟨h1, h2, h3, h4, h5, h6⟩ := h
  unfold issue; dsimp only
  rw [if_neg (by simp [h1]), if_neg (by simp [h2]), if_neg (by simp [h3])]
  unfold fetched at h4
  generalize hr : readMem32 .core (k.val * 0x20000 + (Machine.core s.chip k.val).pc.toNat) s = r at h4 ⊢
  obtain ⟨s1, v⟩ := r
  dsimp only at h4; subst h4; dsimp only
  rw [if_neg (by simp), if_neg (by simp [h5]), if_neg (by simp [ho]), if_neg (by rcases h6 with h | h <;> simp [h])]
  unfold atIssue fetched; rw [hr]

theorem mac_ok (kind : Int) (two : Bool) (s s0 s1 : State) (k : Fin 8) (w : Word) (v0 v1 : List Word) (ha : macAllowed w (coreAt s k))
    (h0 : macRead k w false (coreAt s k) (atIssue s k) = (s0, some v0)) (h1 : macRead k w true (coreAt s k) s0 = (s1, some v1)) :
    doMac kind two k w (atIssue s k) = macEnd k w (if two then [fld w 25 24, fld w 25 24 + 1] else [fld w 25 24]) (fun x =>
      if two then accumulate 1 (fld w 25 24 + 1) (macProduct (bit (coreAt s k).sr srFRAC) (dReg x (fld w 23 20 + 1)) (dReg x (fld w 19 16 + 1)))
        (accumulate kind (fld w 25 24) (macProduct (bit (coreAt s k).sr srFRAC) (dReg x (fld w 23 20)) (dReg x (fld w 19 16))) x)
      else accumulate kind (fld w 25 24) (macProduct (bit (coreAt s k).sr srFRAC) (dReg x (fld w 23 20)) (dReg x (fld w 19 16))) x) (coreAt s k) v0 v1 s1 := by
  unfold doMac
  rw [show Machine.core (atIssue s k).chip k.val = coreAt s k from rfl]
  unfold macAllowed at ha; unfold macRead at h0 h1; unfold macEnd
  simp only [Bool.false_eq_true, if_false, if_true] at h0 h1
  dsimp only
  cases b0 : bit w 15 <;> cases b1 : bit w 9 <;> simp only [b0, b1, Bool.false_eq_true, if_false, if_true] at ha h0 h1 ⊢
  · simp only [Prod.mk.injEq] at h0 h1; obtain ⟨rfl, h0⟩ := h0; obtain ⟨rfl, h1⟩ := h1; cases two <;> rfl
  · simp only [Prod.mk.injEq] at h0; obtain ⟨rfl, h0⟩ := h0; cases h0; simp [ha, h1]
  · simp only [Prod.mk.injEq] at h1; obtain ⟨rfl, h1⟩ := h1; cases h1; simp [ha, h0]
  · simp [ha, h0, h1]

end Sys2Proof.Laws.CoreIssue
end

