-- ==== Sys2Proof/Laws/CoreParts.lean ====
section
/-!
SUPPORT. What the updates within one core, within the belay and within one axis leave, and what is read back after them.
-/

namespace Sys2Proof.Machine

@[simp] theorem setD_a (i : Nat) (v : Word) (x : CoreSt) : (setD i v x).a = x.a := rfl
@[simp] theorem setD_ap (i : Nat) (v : Word) (x : CoreSt) : (setD i v x).ap = x.ap := rfl
@[simp] theorem setD_as (i : Nat) (v : Word) (x : CoreSt) : (setD i v x).as_ = x.as_ := rfl
@[simp] theorem setD_wb (i : Nat) (v : Word) (x : CoreSt) : (setD i v x).wb = x.wb := rfl
@[simp] theorem setD_wl (i : Nat) (v : Word) (x : CoreSt) : (setD i v x).wl = x.wl := rfl
@[simp] theorem setD_pc (i : Nat) (v : Word) (x : CoreSt) : (setD i v x).pc = x.pc := rfl
@[simp] theorem setD_lk (i : Nat) (v : Word) (x : CoreSt) : (setD i v x).lk = x.lk := rfl
@[simp] theorem setD_sr (i : Nat) (v : Word) (x : CoreSt) : (setD i v x).sr = x.sr := rfl
@[simp] theorem setD_xpc (i : Nat) (v : Word) (x : CoreSt) : (setD i v x).xpc = x.xpc := rfl
@[simp] theorem setD_xsr (i : Nat) (v : Word) (x : CoreSt) : (setD i v x).xsr = x.xsr := rfl
@[simp] theorem setD_loopCnt (i : Nat) (v : Word) (x : CoreSt) : (setD i v x).loopCnt = x.loopCnt := rfl
@[simp] theorem setD_loopTop (i : Nat) (v : Word) (x : CoreSt) : (setD i v x).loopTop = x.loopTop := rfl
@[simp] theorem setD_loopEnd (i : Nat) (v : Word) (x : CoreSt) : (setD i v x).loopEnd = x.loopEnd := rfl
@[simp] theorem setD_depth (i : Nat) (v : Word) (x : CoreSt) : (setD i v x).depth = x.depth := rfl
@[simp] theorem setD_lvlActive (i : Nat) (v : Word) (x : CoreSt) : (setD i v x).lvlActive = x.lvlActive := rfl
@[simp] theorem setD_itn (i : Nat) (v : Word) (x : CoreSt) : (setD i v x).itn = x.itn := rfl
@[simp] theorem setD_loopItn (i : Nat) (v : Word) (x : CoreSt) : (setD i v x).loopItn = x.loopItn := rfl
@[simp] theorem setD_cause (i : Nat) (v : Word) (x : CoreSt) : (setD i v x).cause = x.cause := rfl
@[simp] theorem setD_ien (i : Nat) (v : Word) (x : CoreSt) : (setD i v x).ien = x.ien := rfl
@[simp] theorem setD_item (i : Nat) (v : Word) (x : CoreSt) : (setD i v x).item = x.item := rfl
@[simp] theorem setD_loads (i : Nat) (v : Word) (x : CoreSt) : (setD i v x).loads = x.loads := rfl
@[simp] theorem setD_iter (i : Nat) (v : Word) (x : CoreSt) : (setD i v x).iter = x.iter := rfl
@[simp] theorem setD_cache (i : Nat) (v : Word) (x : CoreSt) : (setD i v x).cache = x.cache := rfl
@[simp] theorem setD_capture (i : Nat) (v : Word) (x : CoreSt) : (setD i v x).capture = x.capture := rfl
@[simp] theorem setD_wroteA (i : Nat) (v : Word) (x : CoreSt) : (setD i v x).wroteA = x.wroteA := rfl
@[simp] theorem setD_wrotePtr (i : Nat) (v : Word) (x : CoreSt) : (setD i v x).wrotePtr = x.wrotePtr := rfl
@[simp] theorem setD_wait (i : Nat) (v : Word) (x : CoreSt) : (setD i v x).wait = x.wait := rfl
@[simp] theorem setD_stores (i : Nat) (v : Word) (x : CoreSt) : (setD i v x).stores = x.stores := rfl
@[simp] theorem setD_nest (i : Nat) (v : Word) (x : CoreSt) : (setD i v x).nest = x.nest := rfl
@[simp] theorem setD_assigned (i : Nat) (v : Word) (x : CoreSt) : (setD i v x).assigned = x.assigned := rfl
@[simp] theorem setD_offer (i : Nat) (v : Word) (x : CoreSt) : (setD i v x).offer = x.offer := rfl
@[simp] theorem setD_offerSince (i : Nat) (v : Word) (x : CoreSt) : (setD i v x).offerSince = x.offerSince := rfl
@[simp] theorem setD_withdrawn (i : Nat) (v : Word) (x : CoreSt) : (setD i v x).withdrawn = x.withdrawn := rfl
@[simp] theorem setD_noOffer (i : Nat) (v : Word) (x : CoreSt) : (setD i v x).noOffer = x.noOffer := rfl
@[simp] theorem setD_imageOk (i : Nat) (v : Word) (x : CoreSt) : (setD i v x).imageOk = x.imageOk := rfl
@[simp] theorem setD_resetEntry (i : Nat) (v : Word) (x : CoreSt) : (setD i v x).resetEntry = x.resetEntry := rfl
@[simp] theorem setD_irqEntry (i : Nat) (v : Word) (x : CoreSt) : (setD i v x).irqEntry = x.irqEntry := rfl
@[simp] theorem setD_cycles (i : Nat) (v : Word) (x : CoreSt) : (setD i v x).cycles = x.cycles := rfl
@[simp] theorem setD_halted (i : Nat) (v : Word) (x : CoreSt) : (setD i v x).halted = x.halted := rfl
@[simp] theorem setD_stepping (i : Nat) (v : Word) (x : CoreSt) : (setD i v x).stepping = x.stepping := rfl
@[simp] theorem setD_bpAt (i : Nat) (v : Word) (x : CoreSt) : (setD i v x).bpAt = x.bpAt := rfl

@[simp] theorem setA_d (i : Nat) (v : BitVec 72) (x : CoreSt) : (setA i v x).d = x.d := rfl
@[simp] theorem setA_ap (i : Nat) (v : BitVec 72) (x : CoreSt) : (setA i v x).ap = x.ap := rfl
@[simp] theorem setA_as (i : Nat) (v : BitVec 72) (x : CoreSt) : (setA i v x).as_ = x.as_ := rfl
@[simp] theorem setA_wb (i : Nat) (v : BitVec 72) (x : CoreSt) : (setA i v x).wb = x.wb := rfl
@[simp] theorem setA_wl (i : Nat) (v : BitVec 72) (x : CoreSt) : (setA i v x).wl = x.wl := rfl
@[simp] theorem setA_pc (i : Nat) (v : BitVec 72) (x : CoreSt) : (setA i v x).pc = x.pc := rfl
@[simp] theorem setA_lk (i : Nat) (v : BitVec 72) (x : CoreSt) : (setA i v x).lk = x.lk := rfl
@[simp] theorem setA_sr (i : Nat) (v : BitVec 72) (x : CoreSt) : (setA i v x).sr = x.sr := rfl
@[simp] theorem setA_xpc (i : Nat) (v : BitVec 72) (x : CoreSt) : (setA i v x).xpc = x.xpc := rfl
@[simp] theorem setA_xsr (i : Nat) (v : BitVec 72) (x : CoreSt) : (setA i v x).xsr = x.xsr := rfl
@[simp] theorem setA_loopCnt (i : Nat) (v : BitVec 72) (x : CoreSt) : (setA i v x).loopCnt = x.loopCnt := rfl
@[simp] theorem setA_loopTop (i : Nat) (v : BitVec 72) (x : CoreSt) : (setA i v x).loopTop = x.loopTop := rfl
@[simp] theorem setA_loopEnd (i : Nat) (v : BitVec 72) (x : CoreSt) : (setA i v x).loopEnd = x.loopEnd := rfl
@[simp] theorem setA_depth (i : Nat) (v : BitVec 72) (x : CoreSt) : (setA i v x).depth = x.depth := rfl
@[simp] theorem setA_lvlActive (i : Nat) (v : BitVec 72) (x : CoreSt) : (setA i v x).lvlActive = x.lvlActive := rfl
@[simp] theorem setA_itn (i : Nat) (v : BitVec 72) (x : CoreSt) : (setA i v x).itn = x.itn := rfl
@[simp] theorem setA_loopItn (i : Nat) (v : BitVec 72) (x : CoreSt) : (setA i v x).loopItn = x.loopItn := rfl
@[simp] theorem setA_cause (i : Nat) (v : BitVec 72) (x : CoreSt) : (setA i v x).cause = x.cause := rfl
@[simp] theorem setA_ien (i : Nat) (v : BitVec 72) (x : CoreSt) : (setA i v x).ien = x.ien := rfl
@[simp] theorem setA_item (i : Nat) (v : BitVec 72) (x : CoreSt) : (setA i v x).item = x.item := rfl
@[simp] theorem setA_loads (i : Nat) (v : BitVec 72) (x : CoreSt) : (setA i v x).loads = x.loads := rfl
@[simp] theorem setA_iter (i : Nat) (v : BitVec 72) (x : CoreSt) : (setA i v x).iter = x.iter := rfl
@[simp] theorem setA_cache (i : Nat) (v : BitVec 72) (x : CoreSt) : (setA i v x).cache = x.cache := rfl
@[simp] theorem setA_capture (i : Nat) (v : BitVec 72) (x : CoreSt) : (setA i v x).capture = x.capture := rfl
@[simp] theorem setA_wroteA (i : Nat) (v : BitVec 72) (x : CoreSt) : (setA i v x).wroteA = x.wroteA := rfl
@[simp] theorem setA_wrotePtr (i : Nat) (v : BitVec 72) (x : CoreSt) : (setA i v x).wrotePtr = x.wrotePtr := rfl
@[simp] theorem setA_wait (i : Nat) (v : BitVec 72) (x : CoreSt) : (setA i v x).wait = x.wait := rfl
@[simp] theorem setA_stores (i : Nat) (v : BitVec 72) (x : CoreSt) : (setA i v x).stores = x.stores := rfl
@[simp] theorem setA_nest (i : Nat) (v : BitVec 72) (x : CoreSt) : (setA i v x).nest = x.nest := rfl
@[simp] theorem setA_assigned (i : Nat) (v : BitVec 72) (x : CoreSt) : (setA i v x).assigned = x.assigned := rfl
@[simp] theorem setA_offer (i : Nat) (v : BitVec 72) (x : CoreSt) : (setA i v x).offer = x.offer := rfl
@[simp] theorem setA_offerSince (i : Nat) (v : BitVec 72) (x : CoreSt) : (setA i v x).offerSince = x.offerSince := rfl
@[simp] theorem setA_withdrawn (i : Nat) (v : BitVec 72) (x : CoreSt) : (setA i v x).withdrawn = x.withdrawn := rfl
@[simp] theorem setA_noOffer (i : Nat) (v : BitVec 72) (x : CoreSt) : (setA i v x).noOffer = x.noOffer := rfl
@[simp] theorem setA_imageOk (i : Nat) (v : BitVec 72) (x : CoreSt) : (setA i v x).imageOk = x.imageOk := rfl
@[simp] theorem setA_resetEntry (i : Nat) (v : BitVec 72) (x : CoreSt) : (setA i v x).resetEntry = x.resetEntry := rfl
@[simp] theorem setA_irqEntry (i : Nat) (v : BitVec 72) (x : CoreSt) : (setA i v x).irqEntry = x.irqEntry := rfl
@[simp] theorem setA_cycles (i : Nat) (v : BitVec 72) (x : CoreSt) : (setA i v x).cycles = x.cycles := rfl
@[simp] theorem setA_halted (i : Nat) (v : BitVec 72) (x : CoreSt) : (setA i v x).halted = x.halted := rfl
@[simp] theorem setA_stepping (i : Nat) (v : BitVec 72) (x : CoreSt) : (setA i v x).stepping = x.stepping := rfl
@[simp] theorem setA_bpAt (i : Nat) (v : BitVec 72) (x : CoreSt) : (setA i v x).bpAt = x.bpAt := rfl

@[simp] theorem setAp_d (i : Nat) (v : Word) (x : CoreSt) : (setAp i v x).d = x.d := rfl
@[simp] theorem setAp_a (i : Nat) (v : Word) (x : CoreSt) : (setAp i v x).a = x.a := rfl
@[simp] theorem setAp_as (i : Nat) (v : Word) (x : CoreSt) : (setAp i v x).as_ = x.as_ := rfl
@[simp] theorem setAp_wb (i : Nat) (v : Word) (x : CoreSt) : (setAp i v x).wb = x.wb := rfl
@[simp] theorem setAp_wl (i : Nat) (v : Word) (x : CoreSt) : (setAp i v x).wl = x.wl := rfl
@[simp] theorem setAp_pc (i : Nat) (v : Word) (x : CoreSt) : (setAp i v x).pc = x.pc := rfl
@[simp] theorem setAp_lk (i : Nat) (v : Word) (x : CoreSt) : (setAp i v x).lk = x.lk := rfl
@[simp] theorem setAp_sr (i : Nat) (v : Word) (x : CoreSt) : (setAp i v x).sr = x.sr := rfl
@[simp] theorem setAp_xpc (i : Nat) (v : Word) (x : CoreSt) : (setAp i v x).xpc = x.xpc := rfl
@[simp] theorem setAp_xsr (i : Nat) (v : Word) (x : CoreSt) : (setAp i v x).xsr = x.xsr := rfl
@[simp] theorem setAp_loopCnt (i : Nat) (v : Word) (x : CoreSt) : (setAp i v x).loopCnt = x.loopCnt := rfl
@[simp] theorem setAp_loopTop (i : Nat) (v : Word) (x : CoreSt) : (setAp i v x).loopTop = x.loopTop := rfl
@[simp] theorem setAp_loopEnd (i : Nat) (v : Word) (x : CoreSt) : (setAp i v x).loopEnd = x.loopEnd := rfl
@[simp] theorem setAp_depth (i : Nat) (v : Word) (x : CoreSt) : (setAp i v x).depth = x.depth := rfl
@[simp] theorem setAp_lvlActive (i : Nat) (v : Word) (x : CoreSt) : (setAp i v x).lvlActive = x.lvlActive := rfl
@[simp] theorem setAp_itn (i : Nat) (v : Word) (x : CoreSt) : (setAp i v x).itn = x.itn := rfl
@[simp] theorem setAp_loopItn (i : Nat) (v : Word) (x : CoreSt) : (setAp i v x).loopItn = x.loopItn := rfl
@[simp] theorem setAp_cause (i : Nat) (v : Word) (x : CoreSt) : (setAp i v x).cause = x.cause := rfl
@[simp] theorem setAp_ien (i : Nat) (v : Word) (x : CoreSt) : (setAp i v x).ien = x.ien := rfl
@[simp] theorem setAp_item (i : Nat) (v : Word) (x : CoreSt) : (setAp i v x).item = x.item := rfl
@[simp] theorem setAp_loads (i : Nat) (v : Word) (x : CoreSt) : (setAp i v x).loads = x.loads := rfl
@[simp] theorem setAp_iter (i : Nat) (v : Word) (x : CoreSt) : (setAp i v x).iter = x.iter := rfl
@[simp] theorem setAp_cache (i : Nat) (v : Word) (x : CoreSt) : (setAp i v x).cache = x.cache := rfl
@[simp] theorem setAp_capture (i : Nat) (v : Word) (x : CoreSt) : (setAp i v x).capture = x.capture := rfl
@[simp] theorem setAp_wroteA (i : Nat) (v : Word) (x : CoreSt) : (setAp i v x).wroteA = x.wroteA := rfl
@[simp] theorem setAp_wrotePtr (i : Nat) (v : Word) (x : CoreSt) : (setAp i v x).wrotePtr = x.wrotePtr := rfl
@[simp] theorem setAp_wait (i : Nat) (v : Word) (x : CoreSt) : (setAp i v x).wait = x.wait := rfl
@[simp] theorem setAp_stores (i : Nat) (v : Word) (x : CoreSt) : (setAp i v x).stores = x.stores := rfl
@[simp] theorem setAp_nest (i : Nat) (v : Word) (x : CoreSt) : (setAp i v x).nest = x.nest := rfl
@[simp] theorem setAp_assigned (i : Nat) (v : Word) (x : CoreSt) : (setAp i v x).assigned = x.assigned := rfl
@[simp] theorem setAp_offer (i : Nat) (v : Word) (x : CoreSt) : (setAp i v x).offer = x.offer := rfl
@[simp] theorem setAp_offerSince (i : Nat) (v : Word) (x : CoreSt) : (setAp i v x).offerSince = x.offerSince := rfl
@[simp] theorem setAp_withdrawn (i : Nat) (v : Word) (x : CoreSt) : (setAp i v x).withdrawn = x.withdrawn := rfl
@[simp] theorem setAp_noOffer (i : Nat) (v : Word) (x : CoreSt) : (setAp i v x).noOffer = x.noOffer := rfl
@[simp] theorem setAp_imageOk (i : Nat) (v : Word) (x : CoreSt) : (setAp i v x).imageOk = x.imageOk := rfl
@[simp] theorem setAp_resetEntry (i : Nat) (v : Word) (x : CoreSt) : (setAp i v x).resetEntry = x.resetEntry := rfl
@[simp] theorem setAp_irqEntry (i : Nat) (v : Word) (x : CoreSt) : (setAp i v x).irqEntry = x.irqEntry := rfl
@[simp] theorem setAp_cycles (i : Nat) (v : Word) (x : CoreSt) : (setAp i v x).cycles = x.cycles := rfl
@[simp] theorem setAp_halted (i : Nat) (v : Word) (x : CoreSt) : (setAp i v x).halted = x.halted := rfl
@[simp] theorem setAp_stepping (i : Nat) (v : Word) (x : CoreSt) : (setAp i v x).stepping = x.stepping := rfl
@[simp] theorem setAp_bpAt (i : Nat) (v : Word) (x : CoreSt) : (setAp i v x).bpAt = x.bpAt := rfl

@[simp] theorem setFn_state (i : Nat) (v : FnSt) (x : BlySt) : (setFn i v x).state = x.state := rfl
@[simp] theorem setFn_cycle (i : Nat) (v : FnSt) (x : BlySt) : (setFn i v x).cycle = x.cycle := rfl
@[simp] theorem setFn_par (i : Nat) (v : FnSt) (x : BlySt) : (setFn i v x).par = x.par := rfl
@[simp] theorem setFn_staging (i : Nat) (v : FnSt) (x : BlySt) : (setFn i v x).staging = x.staging := rfl
@[simp] theorem setFn_parOk (i : Nat) (v : FnSt) (x : BlySt) : (setFn i v x).parOk = x.parOk := rfl
@[simp] theorem setFn_nvValid (i : Nat) (v : FnSt) (x : BlySt) : (setFn i v x).nvValid = x.nvValid := rfl
@[simp] theorem setFn_parVer (i : Nat) (v : FnSt) (x : BlySt) : (setFn i v x).parVer = x.parVer := rfl
@[simp] theorem setFn_commitSince (i : Nat) (v : FnSt) (x : BlySt) : (setFn i v x).commitSince = x.commitSince := rfl
@[simp] theorem setFn_req (i : Nat) (v : FnSt) (x : BlySt) : (setFn i v x).req = x.req := rfl
@[simp] theorem setFn_level (i : Nat) (v : FnSt) (x : BlySt) : (setFn i v x).level = x.level := rfl
@[simp] theorem setFn_pairs (i : Nat) (v : FnSt) (x : BlySt) : (setFn i v x).pairs = x.pairs := rfl
@[simp] theorem setFn_souts (i : Nat) (v : FnSt) (x : BlySt) : (setFn i v x).souts = x.souts := rfl
@[simp] theorem setFn_rstA (i : Nat) (v : FnSt) (x : BlySt) : (setFn i v x).rstA = x.rstA := rfl
@[simp] theorem setFn_rstB (i : Nat) (v : FnSt) (x : BlySt) : (setFn i v x).rstB = x.rstB := rfl
@[simp] theorem setFn_ignA (i : Nat) (v : FnSt) (x : BlySt) : (setFn i v x).ignA = x.ignA := rfl
@[simp] theorem setFn_ignB (i : Nat) (v : FnSt) (x : BlySt) : (setFn i v x).ignB = x.ignB := rfl
@[simp] theorem setFn_stuckA (i : Nat) (v : FnSt) (x : BlySt) : (setFn i v x).stuckA = x.stuckA := rfl
@[simp] theorem setFn_stuckB (i : Nat) (v : FnSt) (x : BlySt) : (setFn i v x).stuckB = x.stuckB := rfl
@[simp] theorem setFn_sto (i : Nat) (v : FnSt) (x : BlySt) : (setFn i v x).sto = x.sto := rfl
@[simp] theorem setFn_sout (i : Nat) (v : FnSt) (x : BlySt) : (setFn i v x).sout = x.sout := rfl
@[simp] theorem setFn_stoNext (i : Nat) (v : FnSt) (x : BlySt) : (setFn i v x).stoNext = x.stoNext := rfl
@[simp] theorem setFn_soutNext (i : Nat) (v : FnSt) (x : BlySt) : (setFn i v x).soutNext = x.soutNext := rfl
@[simp] theorem setFn_stoBad (i : Nat) (v : FnSt) (x : BlySt) : (setFn i v x).stoBad = x.stoBad := rfl
@[simp] theorem setFn_faults (i : Nat) (v : FnSt) (x : BlySt) : (setFn i v x).faults = x.faults := rfl
@[simp] theorem setFn_report (i : Nat) (v : FnSt) (x : BlySt) : (setFn i v x).report = x.report := rfl
@[simp] theorem setFn_clear (i : Nat) (v : FnSt) (x : BlySt) : (setFn i v x).clear = x.clear := rfl
@[simp] theorem setFn_clockLost (i : Nat) (v : FnSt) (x : BlySt) : (setFn i v x).clockLost = x.clockLost := rfl

@[simp] theorem setPair_state (i : Nat) (v : PairSt) (x : BlySt) : (setPair i v x).state = x.state := rfl
@[simp] theorem setPair_cycle (i : Nat) (v : PairSt) (x : BlySt) : (setPair i v x).cycle = x.cycle := rfl
@[simp] theorem setPair_par (i : Nat) (v : PairSt) (x : BlySt) : (setPair i v x).par = x.par := rfl
@[simp] theorem setPair_staging (i : Nat) (v : PairSt) (x : BlySt) : (setPair i v x).staging = x.staging := rfl
@[simp] theorem setPair_parOk (i : Nat) (v : PairSt) (x : BlySt) : (setPair i v x).parOk = x.parOk := rfl
@[simp] theorem setPair_nvValid (i : Nat) (v : PairSt) (x : BlySt) : (setPair i v x).nvValid = x.nvValid := rfl
@[simp] theorem setPair_parVer (i : Nat) (v : PairSt) (x : BlySt) : (setPair i v x).parVer = x.parVer := rfl
@[simp] theorem setPair_commitSince (i : Nat) (v : PairSt) (x : BlySt) : (setPair i v x).commitSince = x.commitSince := rfl
@[simp] theorem setPair_req (i : Nat) (v : PairSt) (x : BlySt) : (setPair i v x).req = x.req := rfl
@[simp] theorem setPair_level (i : Nat) (v : PairSt) (x : BlySt) : (setPair i v x).level = x.level := rfl
@[simp] theorem setPair_fns (i : Nat) (v : PairSt) (x : BlySt) : (setPair i v x).fns = x.fns := rfl
@[simp] theorem setPair_souts (i : Nat) (v : PairSt) (x : BlySt) : (setPair i v x).souts = x.souts := rfl
@[simp] theorem setPair_rstA (i : Nat) (v : PairSt) (x : BlySt) : (setPair i v x).rstA = x.rstA := rfl
@[simp] theorem setPair_rstB (i : Nat) (v : PairSt) (x : BlySt) : (setPair i v x).rstB = x.rstB := rfl
@[simp] theorem setPair_ignA (i : Nat) (v : PairSt) (x : BlySt) : (setPair i v x).ignA = x.ignA := rfl
@[simp] theorem setPair_ignB (i : Nat) (v : PairSt) (x : BlySt) : (setPair i v x).ignB = x.ignB := rfl
@[simp] theorem setPair_stuckA (i : Nat) (v : PairSt) (x : BlySt) : (setPair i v x).stuckA = x.stuckA := rfl
@[simp] theorem setPair_stuckB (i : Nat) (v : PairSt) (x : BlySt) : (setPair i v x).stuckB = x.stuckB := rfl
@[simp] theorem setPair_sto (i : Nat) (v : PairSt) (x : BlySt) : (setPair i v x).sto = x.sto := rfl
@[simp] theorem setPair_sout (i : Nat) (v : PairSt) (x : BlySt) : (setPair i v x).sout = x.sout := rfl
@[simp] theorem setPair_stoNext (i : Nat) (v : PairSt) (x : BlySt) : (setPair i v x).stoNext = x.stoNext := rfl
@[simp] theorem setPair_soutNext (i : Nat) (v : PairSt) (x : BlySt) : (setPair i v x).soutNext = x.soutNext := rfl
@[simp] theorem setPair_stoBad (i : Nat) (v : PairSt) (x : BlySt) : (setPair i v x).stoBad = x.stoBad := rfl
@[simp] theorem setPair_faults (i : Nat) (v : PairSt) (x : BlySt) : (setPair i v x).faults = x.faults := rfl
@[simp] theorem setPair_report (i : Nat) (v : PairSt) (x : BlySt) : (setPair i v x).report = x.report := rfl
@[simp] theorem setPair_clear (i : Nat) (v : PairSt) (x : BlySt) : (setPair i v x).clear = x.clear := rfl
@[simp] theorem setPair_clockLost (i : Nat) (v : PairSt) (x : BlySt) : (setPair i v x).clockLost = x.clockLost := rfl

@[simp] theorem setSout_state (i : Nat) (v : SoutSt) (x : BlySt) : (setSout i v x).state = x.state := rfl
@[simp] theorem setSout_cycle (i : Nat) (v : SoutSt) (x : BlySt) : (setSout i v x).cycle = x.cycle := rfl
@[simp] theorem setSout_par (i : Nat) (v : SoutSt) (x : BlySt) : (setSout i v x).par = x.par := rfl
@[simp] theorem setSout_staging (i : Nat) (v : SoutSt) (x : BlySt) : (setSout i v x).staging = x.staging := rfl
@[simp] theorem setSout_parOk (i : Nat) (v : SoutSt) (x : BlySt) : (setSout i v x).parOk = x.parOk := rfl
@[simp] theorem setSout_nvValid (i : Nat) (v : SoutSt) (x : BlySt) : (setSout i v x).nvValid = x.nvValid := rfl
@[simp] theorem setSout_parVer (i : Nat) (v : SoutSt) (x : BlySt) : (setSout i v x).parVer = x.parVer := rfl
@[simp] theorem setSout_commitSince (i : Nat) (v : SoutSt) (x : BlySt) : (setSout i v x).commitSince = x.commitSince := rfl
@[simp] theorem setSout_req (i : Nat) (v : SoutSt) (x : BlySt) : (setSout i v x).req = x.req := rfl
@[simp] theorem setSout_level (i : Nat) (v : SoutSt) (x : BlySt) : (setSout i v x).level = x.level := rfl
@[simp] theorem setSout_fns (i : Nat) (v : SoutSt) (x : BlySt) : (setSout i v x).fns = x.fns := rfl
@[simp] theorem setSout_pairs (i : Nat) (v : SoutSt) (x : BlySt) : (setSout i v x).pairs = x.pairs := rfl
@[simp] theorem setSout_rstA (i : Nat) (v : SoutSt) (x : BlySt) : (setSout i v x).rstA = x.rstA := rfl
@[simp] theorem setSout_rstB (i : Nat) (v : SoutSt) (x : BlySt) : (setSout i v x).rstB = x.rstB := rfl
@[simp] theorem setSout_ignA (i : Nat) (v : SoutSt) (x : BlySt) : (setSout i v x).ignA = x.ignA := rfl
@[simp] theorem setSout_ignB (i : Nat) (v : SoutSt) (x : BlySt) : (setSout i v x).ignB = x.ignB := rfl
@[simp] theorem setSout_stuckA (i : Nat) (v : SoutSt) (x : BlySt) : (setSout i v x).stuckA = x.stuckA := rfl
@[simp] theorem setSout_stuckB (i : Nat) (v : SoutSt) (x : BlySt) : (setSout i v x).stuckB = x.stuckB := rfl
@[simp] theorem setSout_sto (i : Nat) (v : SoutSt) (x : BlySt) : (setSout i v x).sto = x.sto := rfl
@[simp] theorem setSout_sout (i : Nat) (v : SoutSt) (x : BlySt) : (setSout i v x).sout = x.sout := rfl
@[simp] theorem setSout_stoNext (i : Nat) (v : SoutSt) (x : BlySt) : (setSout i v x).stoNext = x.stoNext := rfl
@[simp] theorem setSout_soutNext (i : Nat) (v : SoutSt) (x : BlySt) : (setSout i v x).soutNext = x.soutNext := rfl
@[simp] theorem setSout_stoBad (i : Nat) (v : SoutSt) (x : BlySt) : (setSout i v x).stoBad = x.stoBad := rfl
@[simp] theorem setSout_faults (i : Nat) (v : SoutSt) (x : BlySt) : (setSout i v x).faults = x.faults := rfl
@[simp] theorem setSout_report (i : Nat) (v : SoutSt) (x : BlySt) : (setSout i v x).report = x.report := rfl
@[simp] theorem setSout_clear (i : Nat) (v : SoutSt) (x : BlySt) : (setSout i v x).clear = x.clear := rfl
@[simp] theorem setSout_clockLost (i : Nat) (v : SoutSt) (x : BlySt) : (setSout i v x).clockLost = x.clockLost := rfl

theorem tabGet_tabSet {α : Type} [DecidableEq α] (d d' v : α) (k j : Nat) (t : Tab α) (h : d = d') :
    tabGet d (tabSet d' t k v) j = if j = k then v else tabGet d t j := by
  subst h
  by_cases e : j = k
  · subst e; simp
  · simp [e, tabGet_tabSet_ne]

@[simp] theorem dReg_setD (i j : Nat) (v : Word) (x : CoreSt) : dReg (setD i v x) j = if j = i then v else dReg x j :=
  tabGet_tabSet _ _ _ _ _ _ rfl
@[simp] theorem aReg_setA (i j : Nat) (v : BitVec 72) (x : CoreSt) : aReg (setA i v x) j = if j = i then v else aReg x j :=
  tabGet_tabSet _ _ _ _ _ _ rfl
@[simp] theorem apReg_setAp (i j : Nat) (v : Word) (x : CoreSt) : apReg (setAp i v x) j = if j = i then v else apReg x j :=
  tabGet_tabSet _ _ _ _ _ _ rfl
@[simp] theorem fnSt_setFn (i j : Nat) (v : FnSt) (x : BlySt) : fnSt (setFn i v x) j = if j = i then v else fnSt x j :=
  tabGet_tabSet _ _ _ _ _ _ rfl
@[simp] theorem pairSt_setPair (i j : Nat) (v : PairSt) (x : BlySt) : pairSt (setPair i v x) j = if j = i then v else pairSt x j :=
  tabGet_tabSet _ _ _ _ _ _ rfl
@[simp] theorem soutSt_setSout (i j : Nat) (v : SoutSt) (x : BlySt) : soutSt (setSout i v x) j = if j = i then v else soutSt x j :=
  tabGet_tabSet _ _ _ _ _ _ rfl

end Sys2Proof.Machine
end

