-- ==== Sys2Proof/Laws/FeedbackOps.lean ====
section
/-!
SUPPORT. The ratio of two tooth intervals, and a register pair read back.
-/

namespace Sys2Proof.Laws.FeedbackOps

open Sys2Proof Sys2Proof.Machine

theorem ratioCases (x : FbkSt) (now : Nat) (r : Rat) (h : toothRatio x now = some r) :
    ∃ a b, x.t1 = some a ∧ x.t2 = some b ∧ b < a ∧ ((now - a : Nat) : Rat) / ((a - b : Nat) : Rat) = r := by
  unfold toothRatio at h
  cases h1 : x.t1 <;> cases h2 : x.t2 <;> simp [h1, h2] at h
  exact ⟨_, _, rfl, rfl, h⟩

/-- The two halves of a pair, joined again, are the pair. -/
theorem joinHalves_halves (w : DWord) : joinHalves (w.extractLsb' 32 32) (w.extractLsb' 0 32) = w := by
  apply BitVec.eq_of_toNat_eq
  unfold joinHalves
  rw [BitVec.toNat_append, BitVec.extractLsb'_toNat, BitVec.extractLsb'_toNat, ← Nat.shiftLeft_add_eq_or_of_lt (by omega)]
  simp [Nat.shiftRight_eq_div_pow, Nat.shiftLeft_eq]
  omega

theorem rdPair_wrPair (p : Page) (o : Nat) (v : BitVec 64) (c : Chip) : rdPair (wrPair p o v c) p o = v := by
  unfold rdPair wrPair
  rw [rd_wr, rd_wr_ne _ _ _ _ _ _ (by omega), rd_wr]
  exact joinHalves_halves v

end Sys2Proof.Laws.FeedbackOps
end

