-- ==== Sys2Proof/Laws/Keeps.lean ====
section
/-!
SUPPORT. What every operation on the whole state keeps: the queue of commands, and the canonical form of the memories.
-/

namespace Sys2Proof.Machine

/-- The queue stays as it is, and memories in canonical form stay in it. -/
def Keeps (s t : State) : Prop := t.pending = s.pending ∧ (s.mem.wf = true → t.mem.wf = true)

theorem Keeps.refl (s : State) : Keeps s s := ⟨rfl, id⟩

theorem Keeps.mem {s u : State} (h : Keeps s u) {m : Mem} {c : Chip} (hm : u.mem.wf = true → m.wf = true) :
    Keeps s { u with chip := c, mem := m } := ⟨h.1, fun w => hm (h.2 w)⟩

theorem keeps_chip_iff {s u : State} {c : Chip} : Keeps s { u with chip := c } ↔ Keeps s u := Iff.rfl

theorem keeps_onChip {s u : State} {f : Chip → Chip} (h : Keeps s u) : Keeps s (onChip f u) := h

theorem keeps_of_eq {α : Type} {s t : State} {p : State × α} {x : α} (e : p = (t, x)) (h : Keeps s p.1) : Keeps s t := by
  rw [e] at h; exact h

theorem keeps_eachState {α : Type} {s u : State} {l : List α} {f : α → State → State} (hf : ∀ x v, Keeps s v → Keeps s (f x v)) (h : Keeps s u) :
    Keeps s (eachState l f u) := by
  unfold eachState
  induction l generalizing u with
  | nil => exact h
  | cons a t ih => exact ih (hf a u h)

theorem keeps_eachS {α : Type} {s u : State} {l : List α} {f : α → State → State} (hf : ∀ x v, Keeps s v → Keeps s (f x v)) (h : Keeps s u) :
    Keeps s (eachS l f u) := by
  unfold eachS
  induction l generalizing u with
  | nil => exact h
  | cons a t ih => exact ih (hf a u h)

theorem keeps_dramTouch {s u : State} (r : Region) (scrub : Bool) (h : Keeps s u) : Keeps s (dramTouch r scrub u) := by
  unfold dramTouch
  repeat' first | (with_reducible first | exact h | apply keeps_onChip) | split | dsimp only | (rw [keeps_chip_iff])

theorem keeps_injectErr {s u : State} (r : Region) (i : Nat) (h : Keeps s u) : Keeps s (injectErr r i u) := by
  unfold injectErr
  repeat' first | (with_reducible first | exact h | apply keeps_onChip) | split | (refine Keeps.mem ?_ (fun w => by repeat first | exact w | apply setWordErr_wf))

theorem keeps_readCode {s u : State} (r : Region) (i : Nat) (scrub : Bool) (h : Keeps s u) : Keeps s (readCode r i scrub u).1 := by
  unfold readCode
  repeat' first | (with_reducible first | exact h | apply keeps_onChip | apply keeps_dramTouch) | split | dsimp only | (refine Keeps.mem ?_ (fun w => by repeat first | exact w | apply putWord_wf))

theorem keeps_readMem32 {s u : State} (r : Region) (x1 : Nat) (h : Keeps s u) : Keeps s (readMem32 r x1 u).1 := by
  unfold readMem32
  repeat' first | (with_reducible first | exact h | apply keeps_onChip | apply keeps_readCode | apply keeps_of_eq (by assumption)) | split

theorem keeps_writeInWord {s u : State} (r : Region) (x1 : Nat) (bs : List Byte) (h : Keeps s u) : Keeps s (writeInWord r x1 bs u) := by
  unfold writeInWord
  repeat' first | (with_reducible first | exact h | apply keeps_onChip | apply keeps_dramTouch | apply keeps_injectErr | apply keeps_readCode | apply keeps_of_eq (by assumption)) | split | (refine Keeps.mem ?_ (fun w => by repeat first | exact w | apply setWordErr_wf | apply setBytes_wf | apply poison_wf | apply putWord_wf))

theorem keeps_writeMem {s u : State} (r : Region) (x1 : Nat) (x2 : Nat) (x3 : List Byte) (h : Keeps s u) : Keeps s (writeMem r x1 x2 x3 u) := by
  revert h
  fun_induction writeMem r x1 x2 x3 u <;> intro h <;>
  (repeat' first | (with_reducible first | exact h | apply keeps_onChip | apply keeps_writeInWord | (apply_assumption)))

theorem keeps_writeBytes {s u : State} (r : Region) (x1 : Nat) (bs : List Byte) (h : Keeps s u) : Keeps s (writeBytes r x1 bs u) := by
  unfold writeBytes
  repeat' first | (with_reducible first | exact h | apply keeps_onChip | apply keeps_writeMem)

theorem keeps_writeMem32 {s u : State} (r : Region) (x1 : Nat) (v : Word) (h : Keeps s u) : Keeps s (writeMem32 r x1 v u) := by
  unfold writeMem32
  repeat' first | (with_reducible first | exact h | apply keeps_onChip | apply keeps_writeInWord)

theorem keeps_readNode {s u : State} (i : Nat) (h : Keeps s u) : Keeps s (readNode i u).1 := by
  unfold readNode
  repeat' first | (with_reducible first | exact h | apply keeps_onChip | apply keeps_readCode | apply keeps_of_eq (by assumption)) | split

theorem keeps_walkCam {s u : State} (first : Nat) (last : Nat) (m : Rat) (fwd : Bool) (x4 : Nat) (x5 : Nat) (h : Keeps s u) : Keeps s (walkCam first
    last m fwd x4 x5 u).1 := by
  revert h
  fun_induction walkCam first last m fwd x4 x5 u <;> intro h <;>
  (repeat' first | (with_reducible first | exact h | apply keeps_onChip | apply keeps_readNode | apply keeps_of_eq (by assumption) | (apply_assumption)))

theorem keeps_camLaw {s u : State} (x0 : Nat) (m : Rat) (h : Keeps s u) : Keeps s (camLaw x0 m u).1 := by
  unfold camLaw
  repeat' first | (with_reducible first | exact h | apply keeps_onChip | apply keeps_walkCam | apply keeps_of_eq (by assumption)) | split | dsimp only

theorem keeps_absLaw {s u : State} (x0 : Nat) (m : Rat) (h : Keeps s u) : Keeps s (absLaw x0 m u).1 := by
  unfold absLaw
  repeat' first | (with_reducible first | exact h | apply keeps_onChip | apply keeps_camLaw | apply keeps_of_eq (by assumption)) | split | dsimp only

theorem keeps_scanCam {s u : State} (x0 : Nat) (x1 : Nat) (x2 : Option Nat) (h : Keeps s u) : Keeps s (scanCam x0 x1 x2 u).1 := by
  revert h
  fun_induction scanCam x0 x1 x2 u <;> intro h <;>
  (repeat' first | (with_reducible first | exact h | apply keeps_onChip | apply keeps_readNode | apply keeps_of_eq (by assumption) | (apply_assumption)))

theorem keeps_camRead {s u : State} (x0 : Nat) (h : Keeps s u) : Keeps s (camRead x0 u) := by
  unfold camRead
  repeat' first | (with_reducible first | exact h | apply keeps_onChip | apply keeps_readNode | apply keeps_scanCam | apply keeps_of_eq (by assumption)) | split | dsimp only

theorem keeps_hitLaw {s u : State} (x0 : Nat) (m : Sp) (h : Keeps s u) : Keeps s (hitLaw x0 m u).1 := by
  unfold hitLaw
  repeat' first | (with_reducible first | exact h | apply keeps_onChip | apply keeps_absLaw | apply keeps_of_eq (by assumption)) | split | dsimp only

theorem keeps_hitCommit {s u : State} (x0 : Nat) (h : Keeps s u) : Keeps s (hitCommit x0 u) := by
  unfold hitCommit
  repeat' first | (with_reducible first | exact h | apply keeps_onChip | apply keeps_hitLaw | apply keeps_of_eq (by assumption)) | split | dsimp only

theorem keeps_hitOnLaw {s u : State} (x0 : Nat) (h : Keeps s u) : Keeps s (hitOnLaw x0 u).1 := by
  unfold hitOnLaw
  repeat' first | (with_reducible first | exact h | apply keeps_onChip | apply keeps_absLaw | apply keeps_of_eq (by assumption)) | split | dsimp only

theorem keeps_seatCam {s u : State} (x0 : Nat) (h : Keeps s u) : Keeps s (seatCam x0 u) := by
  have hw := fun a b m f c d => keeps_walkCam (s := s) (u := u) a b m f c d h
  unfold seatCam; dsimp only; split
  · exact h
  · split
    · exact keeps_onChip (hw _ _ _ _ _ _)
    · exact hw _ _ _ _ _ _

theorem keeps_hitTake {s u : State} (x0 : Nat) (id : Nat) (raw : BitVec 256) (h : Keeps s u) : Keeps s (hitTake x0 id raw u) := by
  have h1 : ∀ f : Chip → Chip, Keeps s (seatCam x0 (onChip f u)) := fun f => keeps_seatCam _ (keeps_onChip h)
  have h2 : ∀ f : Chip → Chip, Keeps s (hitOnLaw x0 (seatCam x0 (onChip f u))).1 := fun f => keeps_hitOnLaw _ (h1 f)
  unfold hitTake; dsimp only; split
  · exact keeps_onChip h
  · split
    · exact keeps_onChip (h2 _)
    · exact keeps_onChip (h2 _)

theorem keeps_resumeReady {s : State} : ∀ (l : List Nat) (u : State), Keeps s u → Keeps s (resumeReady l u).1
  | [], _, h => h
  | x :: t, u, h => by
    have h1 := keeps_hitOnLaw x (keeps_seatCam x h)
    unfold resumeReady; dsimp only; split
    · exact h
    · split
      · exact keeps_resumeReady t _ h1
      · exact h1

theorem keeps_postRecord {s u : State} (i : Nat) (it : ItemSt) (status : Nat) (detail : Nat) (results : List Word) (h : Keeps s u) : Keeps s
    (postRecord i it status detail results u) := by
  unfold postRecord
  repeat' first | (with_reducible first | exact h | apply keeps_onChip | apply keeps_writeBytes) | split

theorem keeps_endItem {s u : State} (i : Nat) (status : Nat) (detail : Nat) (results : List Word) (h : Keeps s u) : Keeps s (endItem i status detail
    results u) := by
  unfold endItem
  repeat' first | (with_reducible first | exact h | apply keeps_onChip | apply keeps_postRecord) | split

theorem keeps_abortCoreItems {s u : State} (k : Nat) (detail : Nat) (h : Keeps s u) : Keeps s (abortCoreItems k detail u) := by
  unfold abortCoreItems
  repeat' first | (with_reducible first | exact h | apply keeps_onChip | (apply keeps_eachState; intro _ _ h) | apply keeps_endItem)

theorem keeps_doCancel {s u : State} (path : Nat) (byFlow : Bool) (v : Nat) (h : Keeps s u) : Keeps s (doCancel path byFlow v u) := by
  unfold doCancel
  repeat' first | (with_reducible first | exact h | apply keeps_onChip | (apply keeps_eachState; intro _ _ h) | apply keeps_endItem) | split | dsimp only

theorem keeps_doCancels {s u : State} (h : Keeps s u) : Keeps s (doCancels u) := by
  unfold doCancels
  repeat' first | (with_reducible first | exact h | apply keeps_onChip | apply keeps_doCancel | (apply keeps_eachState; intro _ _ h))

theorem keeps_drainTimeoutEvent {s u : State} (k : Nat) (h : Keeps s u) : Keeps s (drainTimeoutEvent k u) := by
  unfold drainTimeoutEvent
  repeat' first | (with_reducible first | exact h | apply keeps_onChip | apply keeps_abortCoreItems) | split | dsimp only

theorem keeps_dspCycle {s u : State} (h : Keeps s u) : Keeps s (dspCycle u) := by
  unfold dspCycle
  repeat' first | (with_reducible first | exact h | apply keeps_onChip | apply keeps_doCancels) | split

theorem keeps_flowCfg {s u : State} (f : Nat) (v : Word) (h : Keeps s u) : Keeps s (flowCfg f v u) := by
  unfold flowCfg
  repeat' first | (with_reducible first | exact h | apply keeps_onChip | (apply keeps_eachState; intro _ _ h) | apply keeps_endItem) | split

theorem keeps_coilBytes {s u : State} (off : Nat) (bs : List Byte) (h : Keeps s u) : Keeps s (coilBytes off bs u) := by
  unfold coilBytes
  repeat' first | (with_reducible first | exact h | apply keeps_onChip | apply keeps_writeBytes) | split

theorem keeps_coilPut {s u : State} (r : TrcRec) (h : Keeps s u) : Keeps s (coilPut r u) := by
  unfold coilPut
  repeat' first | (with_reducible first | exact h | apply keeps_onChip | apply keeps_coilBytes)

theorem keeps_coilWrap {s u : State} (h : Keeps s u) : Keeps s (coilWrap u) := by
  unfold coilWrap
  repeat' first | (with_reducible first | exact h | apply keeps_onChip | apply keeps_coilPut) | split | dsimp only

theorem keeps_coilWrite {s u : State} (h : Keeps s u) : Keeps s (coilWrite u) := by
  unfold coilWrite
  repeat' first | (with_reducible first | exact h | apply keeps_onChip | apply keeps_coilBytes | apply keeps_coilPut | apply keeps_coilWrap) | split | dsimp only

theorem keeps_hitStep {s u : State} (x0 : Nat) (h : Keeps s u) : Keeps s (hitStep x0 u) := by
  unfold hitStep
  repeat' first | (with_reducible first | exact h | apply keeps_onChip | apply keeps_hitCommit) | split | dsimp only

theorem keeps_commitHits {s u : State} (hs : List Nat) (h : Keeps s u) : Keeps s (commitHits hs u) := by
  unfold commitHits
  refine keeps_eachState (fun d v hv => keeps_onChip ?_) h
  exact keeps_eachState (fun x w hw => keeps_hitStep x hw) (keeps_eachState (fun x w hw => keeps_hitStep x hw) hv)

theorem keeps_commitBlocks {s u : State} (ns : List Nat) (h : Keeps s u) : Keeps s (commitBlocks ns u) :=
  keeps_onChip (keeps_commitHits _ (keeps_chip_iff.mpr h))

theorem keeps_chVal {s u : State} (i : Nat) (h : Keeps s u) : Keeps s (chVal i u).1 := by
  unfold chVal
  repeat' first | (with_reducible first | exact h | apply keeps_onChip | apply keeps_readMem32 | apply keeps_of_eq (by assumption)) | split | dsimp only

theorem keeps_calFinish {s u : State} (h : Keeps s u) : Keeps s (calFinish u) := by
  unfold calFinish
  repeat' first | (with_reducible first | exact h | apply keeps_onChip | (apply keeps_eachState; intro _ _ h) | apply keeps_chVal | apply keeps_of_eq (by assumption)) | split

theorem keeps_trcSample {s u : State} (i : Nat) (h : Keeps s u) : Keeps s (trcSample i u) := by
  unfold trcSample
  repeat' first | (with_reducible first | exact h | apply keeps_onChip | (apply keeps_eachState; intro _ _ h) | apply keeps_chVal | apply keeps_of_eq (by assumption)) | split | dsimp only

theorem keeps_withCal {s u : State} {f : State → State} (hf : ∀ v, Keeps s v → Keeps s (f v)) (h : Keeps s u) : Keeps s (withCal f u) := by
  unfold withCal
  have h1 := hf u h
  dsimp only
  split
  · exact h1
  · split
    · refine keeps_eachState (fun i v hv => ?_) (keeps_onChip h1)
      have h2 := keeps_chVal (s := s) i hv
      exact keeps_onChip h2
    · exact h1

theorem keeps_coreFault {s u : State} (k : Nat) (code : Byte) (h : Keeps s u) : Keeps s (coreFault k code u) := by
  unfold coreFault
  repeat' first | (with_reducible first | exact h | apply keeps_onChip | apply keeps_abortCoreItems)

theorem keeps_coreRefused {s u : State} (k : Nat) (xerr : Bool) (off : Nat) (h : Keeps s u) : Keeps s (coreRefused k xerr off u) := by
  unfold coreRefused
  repeat' first | (with_reducible first | exact h | apply keeps_onChip | apply keeps_coreFault) | split

theorem keeps_endTop {s u : State} (k : Nat) (status : Nat) (detail : Nat) (h : Keeps s u) : Keeps s (endTop k status detail u) := by
  unfold endTop
  repeat' first | (with_reducible first | exact h | apply keeps_onChip | apply keeps_endItem) | split | dsimp only

theorem keeps_issue {s u : State} {k : Nat} {w : Word} {ok : Word → Bool} {f : Nat → Word → State → State} (hf : ∀ v, Keeps s v → Keeps s (f k w v))
    (h : Keeps s u) :
    Keeps s (issue k w ok f u) := by
  unfold issue
  repeat' first | (with_reducible first | exact h | apply keeps_onChip | apply keeps_coreFault | apply hf | apply keeps_readMem32 | apply keeps_of_eq (by assumption)) | split | (dsimp only)

theorem keeps_readLocal {s u : State} (k : Nat) (a0 : Word) (a1 : Word) (pair : Bool) (h : Keeps s u) : Keeps s (readLocal k a0 a1 pair u).1 := by
  unfold readLocal
  repeat' first | (with_reducible first | exact h | apply keeps_onChip | apply keeps_readMem32 | apply keeps_of_eq (by assumption)) | split

theorem keeps_retireS {s u : State} (k : Nat) (t : Trail) (f : CoreSt → CoreSt) (h : Keeps s u) : Keeps s (retireS k t f u) := by
  unfold retireS
  repeat' first | (with_reducible first | exact h | apply keeps_onChip)

theorem keeps_endItems {s u : State} (p : Page) (detail : Byte) (h : Keeps s u) : Keeps s (endItems p detail u) := by
  unfold endItems
  repeat' first | (with_reducible first | exact h | apply keeps_onChip | apply keeps_abortCoreItems) | split

theorem keeps_loadCore {s u : State} (k : Nat) (img : List Byte) (h : Keeps s u) : Keeps s (loadCore k img u) := by
  unfold loadCore
  repeat' first | (with_reducible first | exact h | apply keeps_onChip | apply keeps_writeBytes) | (refine Keeps.mem ?_ (fun w => by repeat first | exact w | apply clearCore_wf))

theorem keeps_imageLoaded {s u : State} (k : Nat) (h : Keeps s u) : Keeps s (imageLoaded k u) := by
  unfold imageLoaded
  repeat' first | (with_reducible first | exact h | apply keeps_onChip | apply keeps_drainTimeoutEvent | apply keeps_loadCore) | split | dsimp only

theorem keeps_foldl {α β : Type} {s : State} (p : β → State) {l : List α} {g : β → α → β} (hg : ∀ b a, Keeps s (p b) → Keeps s (p (g b a))) {b : β}
    (h : Keeps s (p b)) : Keeps s (p (l.foldl g b)) := by
  induction l generalizing b with
  | nil => exact h
  | cons a t ih => exact ih (hg b a h)

theorem keeps_spliceLpe {s u : State} (e : Nat) (h : Keeps s u) : Keeps s (spliceLpe e u) := by
  unfold spliceLpe
  refine keeps_onChip (keeps_foldl (fun b : State × List Byte × Bool => b.1) (fun b a hb => ?_) h)
  have h1 := keeps_readCode (s := s) .deck (rdF u.chip .dev 0x208 21 4 * 16 / 16 + a) false hb
  split
  · next heq => rw [heq] at h1; exact h1
  · next heq => rw [heq] at h1; exact h1

theorem keeps_spliceRun {s u : State} (p : Page) (h : Keeps s u) : Keeps s (spliceRun p u) := by
  unfold spliceRun
  repeat' first | (with_reducible first | exact h | apply keeps_onChip | apply keeps_spliceLpe) | split | dsimp only

theorem keeps_watchdogOn {s u : State} (p : Page) (h : Keeps s u) : Keeps s (watchdogOn p u) := by
  unfold watchdogOn
  repeat' first | (with_reducible first | exact h | apply keeps_onChip | apply keeps_endItems) | split | dsimp only

theorem keeps_dramTrainedStep {s u : State} (failStep : Option (Fin 16)) (h : Keeps s u) : Keeps s (dramTrainedStep failStep u) := by
  unfold dramTrainedStep
  repeat' first | (with_reducible first | exact h | apply keeps_onChip) | split | dsimp only | (refine Keeps.mem ?_ (fun w => by repeat first | exact w | apply zeroDram_wf))

theorem keeps_scrubOne {s u : State} (r : Region) (i : Nat) (upset : BitVec 144) (h : Keeps s u) : Keeps s (scrubOne r i upset u) := by
  unfold scrubOne
  repeat' first | (with_reducible first | exact h | apply keeps_onChip | apply keeps_readCode | apply keeps_of_eq (by assumption)) | split | (dsimp only) | (rw [keeps_chip_iff]) | (refine Keeps.mem ?_ (fun w => by apply setWordErr_wf; (repeat first | exact w | apply putWord_wf)))

theorem keeps_scrubStep {s u : State} (upset : BitVec 144) (h : Keeps s u) : Keeps s (scrubStep upset u) := by
  unfold scrubStep
  repeat' first | (with_reducible first | exact h | apply keeps_onChip | apply keeps_scrubOne) | split | dsimp only

theorem keeps_coldReset {s u : State} (cause : Nat) (h : Keeps s u) : Keeps s (coldReset cause u) := by
  unfold coldReset
  repeat' first | (with_reducible first | exact h | apply keeps_onChip) | (refine Keeps.mem ?_ (fun w => by repeat first | exact w | apply resetMem_wf))

theorem keeps_warmReset {s u : State} (cause : Nat) (h : Keeps s u) : Keeps s (warmReset cause u) := by
  unfold warmReset
  repeat' first | (with_reducible first | exact h | apply keeps_onChip) | split | (refine Keeps.mem ?_ (fun w => by repeat first | exact w | apply resetMem_wf))

theorem keeps_flrReset {s u : State} (h : Keeps s u) : Keeps s (flrReset u) := by
  unfold flrReset
  repeat' first | (with_reducible first | exact h | apply keeps_onChip | apply keeps_warmReset) | split

theorem keeps_saveStop {s u : State} (h : Keeps s u) : Keeps s (saveStop u) := by
  unfold saveStop
  repeat' first | (with_reducible first | exact h | apply keeps_onChip) | split | dsimp only | (rw [keeps_chip_iff])

theorem keeps_sagSave {s u : State} (env : SaveEnv) (h : Keeps s u) : Keeps s (sagSave env u) := by
  unfold sagSave
  repeat' first | (with_reducible first | exact h | apply keeps_onChip | apply keeps_saveStop) | split | dsimp only

theorem keeps_sagOn {s u : State} (env : SaveEnv) (h : Keeps s u) : Keeps s (sagOn env u) := by
  unfold sagOn
  repeat' first | (with_reducible first | exact h | apply keeps_onChip | apply keeps_sagSave) | split

theorem keeps_railLow {s u : State} (r : Nat) (env : SaveEnv) (h : Keeps s u) : Keeps s (railLow r env u) := by
  unfold railLow
  repeat' first | (with_reducible first | exact h | apply keeps_onChip | apply keeps_sagOn)

theorem keeps_pageOff {s u : State} (p : Page) (h : Keeps s u) : Keeps s (pageOff p u) := by
  unfold pageOff
  repeat' first | (with_reducible first | exact h | apply keeps_onChip | apply keeps_endItems) | split

theorem keeps_pageReset {s u : State} (p : Page) (h : Keeps s u) : Keeps s (pageReset p u) := by
  unfold pageReset
  repeat' first | (with_reducible first | exact h | apply keeps_onChip | apply keeps_endItems) | split

theorem keeps_spliceAsk {s u : State} (p : Page) (h : Keeps s u) : Keeps s (spliceAsk p u) := by
  unfold spliceAsk
  repeat' first | (with_reducible first | exact h | apply keeps_onChip | apply keeps_spliceRun) | split | dsimp only

theorem keeps_ctlWrite {s u : State} (p : Page) (v : Word) (h : Keeps s u) : Keeps s (ctlWrite p v u) := by
  unfold ctlWrite
  repeat' first | (with_reducible first | exact h | apply keeps_onChip | apply keeps_pageOff | apply keeps_pageReset | apply keeps_spliceAsk) | split | dsimp only

theorem keeps_readWindow {s u : State} (path : Path) (off : Nat) (h : Keeps s u) : Keeps s (readWindow path off u).1 := by
  unfold readWindow
  repeat' first | (with_reducible first | exact h | apply keeps_onChip | apply keeps_readMem32 | apply keeps_of_eq (by assumption)) | split | dsimp only | (rw [keeps_chip_iff])

theorem keeps_took {s u : State} (f : Chip → Chip) (h : Keeps s u) : Keeps s (took f u).1 := by
  unfold took
  repeat' first | (with_reducible first | exact h | apply keeps_onChip)

theorem keeps_cmdPair {s u : State} (off : Nat) (v : DWord) (h : Keeps s u) : Keeps s (cmdPair off v u).1 := by
  unfold cmdPair
  repeat' first | (with_reducible first | exact h | apply keeps_onChip | apply keeps_took | apply keeps_of_eq (by assumption)) | split | dsimp only

theorem keeps_dropRsvd {s u : State} (p : Page) (h : Keeps s u) : Keeps s (dropRsvd p u).1 := by
  unfold dropRsvd
  repeat' first | (with_reducible first | exact h | apply keeps_onChip)

theorem keeps_blockPair {s u : State} (p : Page) (off : Nat) (r : Reg) (v : DWord) (h : Keeps s u) : Keeps s (blockPair p off r v u).1 := by
  unfold blockPair
  repeat' first | (with_reducible first | exact h | apply keeps_onChip | apply keeps_cmdPair | apply keeps_dropRsvd | apply keeps_took | apply keeps_of_eq (by assumption)) | split

theorem keeps_calCmdWrite {s u : State} (k : Nat) (v : Word) (h : Keeps s u) : Keeps s (calCmdWrite k v u).1 := by
  unfold calCmdWrite
  repeat' first | (with_reducible first | exact h | apply keeps_onChip) | split | dsimp only | (rw [keeps_chip_iff])

theorem keeps_takeIf {s u : State} (ok : Chip → Bool) (f : Chip → Chip) (h : Keeps s u) : Keeps s (takeIf ok f u).1 := by
  unfold takeIf
  repeat' first | (with_reducible first | exact h | apply keeps_onChip)

theorem keeps_cmdWrite {s u : State} (off : Nat) (v : Word) (h : Keeps s u) : Keeps s (cmdWrite off v u).1 := by
  unfold cmdWrite
  repeat' first | (with_reducible first | exact h | apply keeps_onChip | apply keeps_takeIf | apply keeps_took | apply keeps_of_eq (by assumption)) | split

theorem keeps_dbgWrite {s u : State} (path : Path) (off : Nat) (v : Word) (h : Keeps s u) : Keeps s (dbgWrite path off v u).1 := by
  unfold dbgWrite
  repeat' first | (with_reducible first | exact h | apply keeps_onChip | apply keeps_takeIf | apply keeps_took | apply keeps_of_eq (by assumption)) | split

theorem keeps_dspWrite {s u : State} (path : Path) (off : Nat) (v : Word) (h : Keeps s u) : Keeps s (dspWrite path off v u).1 := by
  unfold dspWrite
  repeat' first | (with_reducible first | exact h | apply keeps_onChip | apply keeps_flowCfg | apply keeps_dropRsvd | apply keeps_takeIf | apply keeps_took | apply keeps_of_eq (by assumption)) | split | dsimp only

theorem keeps_kntWrite {s u : State} (off : Nat) (v : Word) (h : Keeps s u) : Keeps s (kntWrite off v u).1 := by
  unfold kntWrite
  repeat' first | (with_reducible first | exact h | apply keeps_onChip | apply keeps_dropRsvd | apply keeps_took | apply keeps_of_eq (by assumption)) | split

theorem keeps_pwrWrite {s u : State} (off : Nat) (v : Word) (h : Keeps s u) : Keeps s (pwrWrite off v u).1 := by
  unfold pwrWrite
  repeat' first | (with_reducible first | exact h | apply keeps_onChip | apply keeps_warmReset | apply keeps_took | apply keeps_of_eq (by assumption)) | split

theorem keeps_secWrite {s u : State} (path : Path) (off : Nat) (v : Word) (h : Keeps s u) : Keeps s (secWrite path off v u).1 := by
  unfold secWrite
  repeat' first | (with_reducible first | exact h | apply keeps_onChip | apply keeps_takeIf | apply keeps_took | apply keeps_of_eq (by assumption)) | split

theorem keeps_trcWrite {s u : State} (off : Nat) (v : Word) (h : Keeps s u) : Keeps s (trcWrite off v u).1 := by
  unfold trcWrite
  repeat' first | (with_reducible first | exact h | apply keeps_onChip | apply keeps_takeIf | apply keeps_took | apply keeps_of_eq (by assumption)) | split | dsimp only

theorem keeps_blockWrite {s u : State} (path : Path) (p : Page) (off : Nat) (r : Reg) (v : Word) (h : Keeps s u) : Keeps s (blockWrite path p off r v
    u).1 := by
  unfold blockWrite
  repeat' first | (with_reducible first | exact h | apply keeps_onChip | apply keeps_calCmdWrite | apply keeps_cmdWrite | apply keeps_dbgWrite | apply keeps_dropRsvd | apply keeps_dspWrite | apply keeps_kntWrite | apply keeps_pwrWrite | apply keeps_secWrite | apply keeps_took | apply keeps_trcWrite | apply keeps_of_eq (by assumption)) | split

theorem keeps_blockStore {s u : State} (path : Path) (p : Page) (off : Nat) (v : Word) (h : Keeps s u) : Keeps s (blockStore path p off v u) := by
  unfold blockStore
  repeat' first | (with_reducible first | exact h | apply keeps_onChip | apply keeps_blockPair | apply keeps_blockWrite | apply keeps_of_eq (by assumption)) | split | dsimp only

theorem keeps_headerWrite {s u : State} (p : Page) (off : Nat) (v : Word) (h : Keeps s u) : Keeps s (headerWrite p off v u) := by
  unfold headerWrite
  repeat' first | (with_reducible first | exact h | apply keeps_onChip | apply keeps_ctlWrite) | split

theorem keeps_pageWrite {s u : State} (path : Path) (p : Page) (off : Nat) (v : Word) (h : Keeps s u) : Keeps s (pageWrite path p off v u).1 := by
  unfold pageWrite
  repeat' first | (with_reducible first | exact h | apply keeps_onChip | apply keeps_blockStore | apply keeps_headerWrite) | split | dsimp only

theorem keeps_windowStore {s u : State} (path : Path) (r : Region) (x2 : Nat) (v : Word) (h : Keeps s u) : Keeps s (windowStore path r x2 v u).1 := by
  unfold windowStore
  repeat' first | (with_reducible first | exact h | apply keeps_onChip | apply keeps_writeMem32) | split | dsimp only

theorem keeps_writeWindow {s u : State} (path : Path) (off : Nat) (v : Word) (h : Keeps s u) : Keeps s (writeWindow path off v u).1 := by
  unfold writeWindow
  repeat' first | (with_reducible first | exact h | apply keeps_onChip | apply keeps_pageWrite | apply keeps_windowStore | apply keeps_of_eq (by assumption)) | split

theorem keeps_regWrite {s u : State} (path : Path) (off : Nat) (v : Word) (h : Keeps s u) : Keeps s (regWrite path off v u) := by
  unfold regWrite
  repeat' first | (with_reducible first | exact h | apply keeps_onChip | apply keeps_writeWindow | apply keeps_of_eq (by assumption)) | split

theorem keeps_regPage {s u : State} (path : Path) (p : Page) (off : Nat) (v : Word) (h : Keeps s u) : Keeps s (regPage path p off v u) := by
  unfold regPage
  repeat' first | (with_reducible first | exact h | apply keeps_onChip | apply keeps_regWrite)

theorem keeps_regRead {s u : State} (path : Path) (off : Nat) (h : Keeps s u) : Keeps s (regRead path off u) := by
  unfold regRead
  repeat' first | (with_reducible first | exact h | apply keeps_onChip | apply keeps_readWindow | apply keeps_of_eq (by assumption)) | split

theorem keeps_doAdda {s u : State} (k : Nat) (w : Word) (h : Keeps s u) : Keeps s (doAdda k w u) := by
  unfold doAdda
  repeat' first | (with_reducible first | exact h | apply keeps_onChip | apply keeps_retireS)

theorem keeps_doAlu {s u : State} (k : Nat) (w : Word) (t : Word) (h : Keeps s u) : Keeps s (doAlu k w t u) := by
  unfold doAlu
  repeat' first | (with_reducible first | exact h | apply keeps_onChip | apply keeps_retireS)

theorem keeps_doBranch {s u : State} (k : Nat) (w : Word) (h : Keeps s u) : Keeps s (doBranch k w u) := by
  unfold doBranch
  repeat' first | (with_reducible first | exact h | apply keeps_onChip | apply keeps_retireS) | split | dsimp only

theorem keeps_doClra {s u : State} (k : Nat) (w : Word) (h : Keeps s u) : Keeps s (doClra k w u) := by
  unfold doClra
  repeat' first | (with_reducible first | exact h | apply keeps_onChip | apply keeps_retireS)

theorem keeps_doCwpk {s u : State} (k : Nat) (w : Word) (h : Keeps s u) : Keeps s (doCwpk k w u) := by
  unfold doCwpk
  repeat' first | (with_reducible first | exact h | apply keeps_onChip | apply keeps_retireS)

theorem keeps_doCwup {s u : State} (k : Nat) (w : Word) (h : Keeps s u) : Keeps s (doCwup k w u) := by
  unfold doCwup
  repeat' first | (with_reducible first | exact h | apply keeps_onChip | apply keeps_retireS)

theorem keeps_doExtreme {s u : State} (isMax : Bool) (k : Nat) (w : Word) (h : Keeps s u) : Keeps s (doExtreme isMax k w u) := by
  unfold doExtreme
  repeat' first | (with_reducible first | exact h | apply keeps_onChip | apply keeps_retireS)

theorem keeps_doIter {s u : State} (k : Nat) (w : Word) (h : Keeps s u) : Keeps s (doIter k w u) := by
  unfold doIter
  repeat' first | (with_reducible first | exact h | apply keeps_onChip | apply keeps_coreFault | apply keeps_retireS) | split | dsimp only

theorem keeps_doLocalLoad {s u : State} (k : Nat) (w : Word) (h : Keeps s u) : Keeps s (doLocalLoad k w u) := by
  unfold doLocalLoad
  repeat' first | (with_reducible first | exact h | apply keeps_onChip | apply keeps_coreFault | apply keeps_readLocal | apply keeps_retireS | apply keeps_of_eq (by assumption)) | split | dsimp only

theorem keeps_doLocalStore {s u : State} (k : Nat) (w : Word) (h : Keeps s u) : Keeps s (doLocalStore k w u) := by
  unfold doLocalStore
  repeat' first | (with_reducible first | exact h | apply keeps_onChip | apply keeps_writeMem32 | apply keeps_coreFault | apply keeps_retireS) | split | dsimp only

theorem keeps_doLoop {s u : State} (k : Nat) (w : Word) (h : Keeps s u) : Keeps s (doLoop k w u) := by
  unfold doLoop
  repeat' first | (with_reducible first | exact h | apply keeps_onChip | apply keeps_coreFault | apply keeps_retireS) | split | dsimp only

theorem keeps_doMac {s u : State} (kind : Int) (two : Bool) (k : Nat) (w : Word) (h : Keeps s u) : Keeps s (doMac kind two k w u) := by
  unfold doMac
  repeat' first | (with_reducible first | exact h | apply keeps_onChip | apply keeps_coreFault | apply keeps_readLocal | apply keeps_retireS | apply keeps_of_eq (by assumption)) | split | dsimp only

theorem keeps_doMva {s u : State} (k : Nat) (w : Word) (h : Keeps s u) : Keeps s (doMva k w u) := by
  unfold doMva
  repeat' first | (with_reducible first | exact h | apply keeps_onChip | apply keeps_retireS)

theorem keeps_doNext {s u : State} (k : Nat) (x1 : Word) (h : Keeps s u) : Keeps s (doNext k x1 u) := by
  unfold doNext
  repeat' first | (with_reducible first | exact h | apply keeps_onChip | apply keeps_retireS) | split | dsimp only

theorem keeps_doExtLoad {s u : State} (k : Nat) (w : Word) (h : Keeps s u) : Keeps s (doExtLoad k w u) := by
  unfold doExtLoad
  repeat' first | (with_reducible first | exact h | apply keeps_onChip | apply keeps_coreFault) | split

theorem keeps_doExtStore {s u : State} (k : Nat) (w : Word) (h : Keeps s u) : Keeps s (doExtStore k w u) := by
  unfold doExtStore
  repeat' first | (with_reducible first | exact h | apply keeps_onChip | apply keeps_coreFault | apply keeps_retireS) | split | dsimp only

theorem keeps_drainStore {s u : State} (k : Nat) (h : Keeps s u) : Keeps s (drainStore k u) := by
  unfold drainStore
  repeat' first | (with_reducible first | exact h | apply keeps_onChip | apply keeps_coreRefused | apply keeps_writeWindow | apply keeps_of_eq (by assumption)) | split | dsimp only

theorem keeps_drainStores {s u : State} (k : Nat) (h : Keeps s u) : Keeps s (drainStores k u) := by
  unfold drainStores
  repeat' first | (with_reducible first | exact h | apply keeps_onChip | (apply keeps_eachState; intro _ _ h) | apply keeps_drainStore)

theorem keeps_extReturn {s u : State} (k : Nat) (timeout : Bool) (h : Keeps s u) : Keeps s (extReturn k timeout u) := by
  unfold extReturn
  repeat' first | (with_reducible first | exact h | apply keeps_onChip | apply keeps_coreRefused | apply keeps_retireS | apply keeps_readWindow | apply keeps_drainStores | apply keeps_of_eq (by assumption)) | split | dsimp only

theorem keeps_batchAccess {s u : State} (i : Nat) (e : DWord) (h : Keeps s u) : Keeps s (batchAccess i e u).1 := by
  unfold batchAccess
  repeat' first | (with_reducible first | exact h | apply keeps_onChip | apply keeps_readWindow | apply keeps_writeWindow | apply keeps_of_eq (by assumption)) | split | dsimp only

theorem keeps_runBatch {s u : State} (id : Nat) (cont : Bool) (x2 : List DWord) (x3 : Nat) (x4 : Nat) (x5 : Bool) (h : Keeps s u) : Keeps s (runBatch
    id cont x2 x3 x4 x5 u) := by
  revert h
  fun_induction runBatch id cont x2 x3 x4 x5 u <;> intro h <;>
  (repeat' first | (with_reducible first | exact h | apply keeps_onChip | apply keeps_batchAccess | apply keeps_of_eq (by assumption) | (apply_assumption)))

theorem keeps_startBatch {s u : State} (id : Nat) (list : Option (List DWord)) (count : BitVec 16) (cont : Bool) (h : Keeps s u) : Keeps s
    (startBatch id list count cont u) := by
  unfold startBatch
  repeat' first | (with_reducible first | exact h | apply keeps_onChip | apply keeps_runBatch) | split | dsimp only

theorem keeps_startHitch {s u : State} (x0 : Nat) (id : Nat) (raw : BitVec 256) (h : Keeps s u) : Keeps s (startHitch x0 id raw u) := by
  unfold startHitch
  repeat' first | (with_reducible first | exact h | apply keeps_onChip | apply keeps_hitTake) | split | dsimp only

theorem keeps_startResume {s u : State} (n : Nat) (id : Nat) (h : Keeps s u) : Keeps s (startResume n id u) := by
  have h1 := fun l => keeps_resumeReady (s := s) l u h
  unfold startResume; dsimp only; split
  · exact keeps_onChip h
  split
  · exact keeps_onChip h
  split
  · split
    · exact keeps_onChip (h1 _)
    split
    · exact keeps_onChip (h1 _)
    · exact keeps_onChip (h1 _)
  · split
    · exact keeps_onChip (h1 _)
    · exact keeps_onChip (h1 _)

theorem keeps_takeEffect {s u : State} (x0 : InFlight) (h : Keeps s u) : Keeps s (takeEffect x0 u) := by
  unfold takeEffect
  repeat' first | (with_reducible first | exact h | apply keeps_onChip | apply keeps_hitTake | apply keeps_startBatch | apply keeps_startHitch | apply keeps_startResume) | split | dsimp only

theorem keeps_settleOne {s u : State} (id : Nat) (h : Keeps s u) : Keeps s (settleOne id u) := by
  unfold settleOne
  repeat' first | (with_reducible first | exact h | apply keeps_onChip | apply keeps_takeEffect) | split

theorem keeps_settleCmds {s u : State} (h : Keeps s u) : Keeps s (settleCmds u) := by
  unfold settleCmds
  repeat' first | (with_reducible first | exact h | apply keeps_onChip | (apply keeps_eachS; intro _ _ h) | apply keeps_settleOne)

theorem keeps_fetchEntry {s u : State} (r : Fin 4) (f : Option Fetched) (h : Keeps s u) : Keeps s (fetchEntry r f u) := by
  unfold fetchEntry
  repeat' first | (with_reducible first | exact h | apply keeps_onChip | apply keeps_settleCmds) | split | dsimp only

theorem keeps_fetchCmds {s u : State} (es : List (Option Fetched)) (h : Keeps s u) : Keeps s (fetchCmds es u) := by
  unfold fetchCmds
  repeat' first | (with_reducible first | exact h | apply keeps_onChip | (apply keeps_eachS; intro _ _ h) | apply keeps_fetchEntry) | split

theorem keeps_knotOne {s u : State} (t : Nat) (id : Nat) (h : Keeps s u) : Keeps s (knotOne t id u) := by
  unfold knotOne
  repeat' first | (with_reducible first | exact h | apply keeps_onChip | apply keeps_takeEffect) | split

theorem keeps_knotCmds {s u : State} (t last : Nat) (h : Keeps s u) : Keeps s (knotCmds t last u) := by
  unfold knotCmds
  repeat' first | (with_reducible first | exact h | apply keeps_onChip | (apply keeps_eachS; intro _ _ h) | apply keeps_knotOne)

theorem keeps_ringCommand {s u : State} (x0 : Hdr) (op : HostOp) (h : Keeps s u) : Keeps s (ringCommand x0 op u) := by
  unfold ringCommand
  repeat' first | (with_reducible first | exact h | apply keeps_onChip | apply keeps_settleCmds) | split

theorem keeps_uartGo {s u : State} (r : UartReq) (h : Keeps s u) : Keeps s (uartRequest.go r u) := by
  unfold uartRequest.go
  have h1 := keeps_readWindow (s := s) .uart r.off.toNat h
  have h2 := keeps_writeWindow (s := s) .uart r.off.toNat r.data h
  generalize readWindow .uart r.off.toNat u = a at *
  generalize writeWindow .uart r.off.toNat r.data u = b at *
  obtain ⟨a, x⟩ := a
  obtain ⟨b, y⟩ := b
  repeat' first | (with_reducible first | exact h | exact h1 | exact h2 | apply keeps_onChip) | split | (dsimp only)
  all_goals rename_i heq; cases heq; assumption

theorem keeps_uartRequest {s u : State} (r : UartReq) (h : Keeps s u) : Keeps s (uartRequest r u) := by
  unfold uartRequest
  have h1 := keeps_uartGo (s := s) r h
  generalize uartRequest.go r u = a at *
  repeat' first | (with_reducible first | exact h | exact h1 | apply keeps_onChip) | split | (dsimp only)

theorem keeps_ycpAnswer {s u : State} (i : Nat) (q : Word) (status : Byte) (detail : Byte) (count : Nat) (addr : Word) (data : List Word) (h : Keeps
    s u) : Keeps s (ycpAnswer i q status detail count addr data u) := by
  unfold ycpAnswer
  repeat' first | (with_reducible first | exact h | apply keeps_onChip)

theorem keeps_ycpReadOne {s u : State} (i : Fin 4) (off : Nat) (h : Keeps s u) : Keeps s (ycpReadOne i off u).1 := by
  unfold ycpReadOne
  repeat' first | (with_reducible first | exact h | apply keeps_onChip | apply keeps_readWindow | apply keeps_of_eq (by assumption)) | split

theorem keeps_ycpReadWords {s u : State} (i : Fin 4) (q : Word) (x2 : Nat) (x3 : Nat) (x4 : List Word) (h : Keeps s u) : Keeps s (ycpReadWords i q x2
    x3 x4 u) := by
  revert h
  fun_induction ycpReadWords i q x2 x3 x4 u <;> intro h <;>
  (repeat' first | (with_reducible first | exact h | apply keeps_onChip | apply keeps_ycpAnswer | apply keeps_ycpReadOne | apply keeps_of_eq (by assumption) | (apply_assumption)))

theorem keeps_ycpWriteOne {s u : State} (i : Fin 4) (off : Nat) (v : Word) (h : Keeps s u) : Keeps s (ycpWriteOne i off v u).1 := by
  unfold ycpWriteOne
  repeat' first | (with_reducible first | exact h | apply keeps_onChip | apply keeps_writeWindow | apply keeps_of_eq (by assumption)) | split

theorem keeps_ycpWriteWords {s u : State} (i : Fin 4) (q : Word) (x2 : List Word) (x3 : Nat) (x4 : Nat) (h : Keeps s u) : Keeps s (ycpWriteWords i q
    x2 x3 x4 u) := by
  revert h
  fun_induction ycpWriteWords i q x2 x3 x4 u <;> intro h <;>
  (repeat' first | (with_reducible first | exact h | apply keeps_onChip | apply keeps_ycpAnswer | apply keeps_ycpWriteOne | apply keeps_of_eq (by assumption) | (apply_assumption)))

theorem keeps_ycpRunOp {s u : State} (i : Fin 4) (q : Word) (op : YcpOp) (h : Keeps s u) : Keeps s (ycpRunOp i q op u) := by
  unfold ycpRunOp
  repeat' first | (with_reducible first | exact h | apply keeps_onChip | apply keeps_settleCmds | apply keeps_ycpAnswer | apply keeps_ycpReadWords | apply keeps_ycpWriteWords) | split

theorem keeps_ycpDrain {s u : State} (i : Fin 4) (x1 : Nat) (h : Keeps s u) : Keeps s (ycpDrain i x1 u) := by
  revert h
  fun_induction ycpDrain i x1 u <;> intro h <;>
  (repeat' first | (with_reducible first | exact h | apply keeps_onChip | apply keeps_ycpRunOp | (apply_assumption)))

theorem keeps_ycpRequest {s u : State} (i : Fin 4) (g : Dgram) (op : YcpOp) (h : Keeps s u) : Keeps s (ycpRequest i g op u) := by
  unfold ycpRequest
  repeat' first | (with_reducible first | exact h | apply keeps_onChip | apply keeps_ycpDrain) | split | dsimp only | (rw [keeps_chip_iff])

theorem keeps_mergeInWord {s u : State} (r : Region) (a : Nat) (bs : List (Option Byte)) (h : Keeps s u) : Keeps s (mergeInWord r a bs u) := by
  have h1 := keeps_dramTouch (s := s) r false h
  have h2 := keeps_readCode (s := s) r (a / 16) false h1
  unfold mergeInWord; dsimp only; split
  · exact h
  split
  · exact keeps_writeInWord _ _ _ h
  split
  · rename_i e; rw [e] at h2
    exact keeps_injectErr _ _ (Keeps.mem h2 (fun w => setEnabled_wf r _ _ w))
  · rename_i e; rw [e] at h2
    exact Keeps.mem h2 (fun w => poison_wf (setEnabled_wf r _ _ (putWord_wf w _ _ _)) _ _)

theorem keeps_bar2Bytes {s : State} : ∀ (k a : Nat) (bs : List (Option Byte)) (u : State), Keeps s u → Keeps s (bar2Bytes k a bs u)
  | 0, _, _, _, h => h
  | k + 1, a, bs, u, h => by
    unfold bar2Bytes; split
    · exact h
    · dsimp only; refine keeps_bar2Bytes k _ _ _ ?_; split
      · exact keeps_mergeInWord _ _ _ h
      · exact h

theorem keeps_bar2Read {s : State} : ∀ (n a : Nat) (u : State), Keeps s u → Keeps s (bar2Read n a u).1
  | 0, _, _, h => h
  | n + 1, a, u, h => by
    unfold bar2Read; split
    · exact h
    · rename_i d _
      have h1 := keeps_readCode (s := s) .dram (d / 16) false h
      split
      · rename_i e; rw [e] at h1; exact h1
      · rename_i e; rw [e] at h1; exact keeps_bar2Read n _ _ h1

theorem keeps_bar2 {s u : State} (a : Nat) (x : Bar2Access) (h : Keeps s u) : Keeps s (bar2 a x u) := by
  unfold bar2; split
  · split
    · split
      · exact keeps_bar2Bytes _ _ _ _ h
      · exact keeps_onChip h
    · rename_i n
      have h1 := keeps_bar2Read (s := s) n a u h
      split
      · split
        · rename_i e; rw [e] at h1; exact keeps_onChip h1
        · rename_i e; rw [e] at h1; exact keeps_onChip h1
      · exact keeps_onChip h
  · exact h

theorem keeps_knotApplies {s u : State} (h : Keeps s u) : Keeps s (knotApplies u) := by
  unfold knotApplies
  repeat' first | (with_reducible first | exact h | apply keeps_onChip | (apply keeps_eachState; intro _ _ h) | apply keeps_spliceRun)

theorem keeps_unitsAhead {s u : State} (ns : List Nat) (h : Keeps s u) : Keeps s (unitsAhead ns u) := keeps_onChip h

theorem keeps_knotUnits {s u : State} (len prev : Nat) (ns : List Nat) (h : Keeps s u) : Keeps s (knotUnits len prev ns u) :=
  keeps_unitsAhead _ (keeps_onChip h)

theorem keeps_heldCommit {s u : State} (h : Keeps s u) : Keeps s (heldCommit u) := by
  unfold heldCommit; split
  · exact h
  · exact keeps_onChip (keeps_unitsAhead _ (keeps_onChip (keeps_commitHits _ (keeps_onChip h))))

theorem keeps_heldDue {s u : State} (h : Keeps s u) : Keeps s (heldDue u) := by
  unfold heldDue; split
  · exact h
  · exact keeps_heldCommit h

theorem keeps_knotHead {s u : State} (len prev t : Nat) (h : Keeps s u) : Keeps s (knotHead len prev t u) := by
  have h1 := keeps_knotApplies h
  unfold knotHead
  generalize knotApplies u = v at h1 ⊢
  with_reducible exact keeps_onChip h1

theorem keeps_knotPlan {s u : State} (d : PlanDue) (h : Keeps s u) : Keeps s (knotPlan d u) := by
  have h1 := keeps_knotCmds d.t d.last (keeps_settleCmds h)
  unfold knotPlan
  generalize knotCmds d.t d.last (settleCmds u) = v at h1 ⊢
  with_reducible exact keeps_onChip (keeps_knotUnits _ _ _ (keeps_commitBlocks _ h1))

theorem keeps_planNow {s u : State} (h : Keeps s u) : Keeps s (planNow u) := by
  unfold planNow; split
  · exact h
  · exact keeps_knotPlan _ h

theorem keeps_knotRest {s u : State} (len prev t : Nat) (h : Keeps s u) : Keeps s (knotRest len prev t u) := by
  have h1 := keeps_knotHead (s := s) len prev t h
  unfold knotRest; dsimp only; split
  · exact keeps_planNow h1
  · exact h1

theorem keeps_frameKnot {s u : State} (late : List (Fin 160)) (pwmTicks : Nat) (h : Keeps s u) : Keeps s (frameKnot late pwmTicks u) := by
  unfold frameKnot; split
  · exact h
  · exact keeps_knotRest _ _ _ (keeps_chip_iff.mpr (keeps_heldCommit (keeps_planNow h)))

theorem keeps_sampleApplies {s u : State} (h : Keeps s u) : Keeps s (sampleApplies u) := by
  unfold sampleApplies
  repeat' first | (with_reducible first | exact h | apply keeps_onChip | (apply keeps_eachState; intro _ _ h) | apply keeps_spliceRun)

theorem keeps_sampleRest {s u : State} (i : Nat) (h : Keeps s u) : Keeps s (sampleRest i u) :=
  keeps_trcSample _ (keeps_planNow (keeps_chip_iff.mpr (keeps_sampleApplies h)))

theorem keeps_currentSample {s u : State} (i : Nat) (bits : List (Fin 384 × List Bool)) (phaseErr : List (Fin 128 × Int)) (overrun : List (Fin 4)) (h
    : Keeps s u) : Keeps s (currentSample i bits phaseErr overrun u) := by
  unfold currentSample; split
  · exact h
  · refine keeps_onChip (keeps_sampleRest _ (keeps_onChip ?_)); split
    · exact h
    · exact keeps_heldCommit (keeps_planNow h)

theorem keeps_writeNodes {s u : State} (x0 : List (BitVec 128)) (x1 : Nat) (h : Keeps s u) : Keeps s (writeNodes x0 x1 u) := by
  revert h
  fun_induction writeNodes x0 x1 u <;> intro h <;>
  (repeat' first | (with_reducible first | exact h | apply keeps_onChip | apply keeps_writeBytes | (apply_assumption)))

theorem keeps_loadDone {s u : State} (nodes : Option (List (BitVec 128))) (h : Keeps s u) : Keeps s (loadDone nodes u) := by
  unfold loadDone
  repeat' first | (with_reducible first | exact h | apply keeps_onChip | apply keeps_writeNodes) | split

theorem keeps_readNodes {s u : State} (x0 : Nat) (x1 : Nat) (x2 : Nat) (h : Keeps s u) : Keeps s (readNodes x0 x1 x2 u).1 := by
  revert h
  fun_induction readNodes x0 x1 x2 u <;> intro h <;>
  (repeat' first | (with_reducible first | exact h | apply keeps_onChip | apply keeps_readCode | apply keeps_of_eq (by assumption) | (apply_assumption)))

theorem keeps_verifyDone {s u : State} (h : Keeps s u) : Keeps s (verifyDone u) := by
  unfold verifyDone
  repeat' first | (with_reducible first | exact h | apply keeps_onChip | apply keeps_readNodes | apply keeps_of_eq (by assumption)) | split

theorem keeps_bootBatch {s u : State} (x0 : List DWord) (h : Keeps s u) : Keeps s (bootBatch x0 u).1 := by
  revert h
  fun_induction bootBatch x0 u <;> intro h <;>
  (repeat' first | (with_reducible first | exact h | apply keeps_onChip | apply keeps_writeWindow | apply keeps_of_eq (by assumption) | (apply_assumption)))

theorem keeps_bootRecord {s u : State} (r : BootRec) (h : Keeps s u) : Keeps s (bootRecord r u).1 := by
  unfold bootRecord
  split
  · exact keeps_bootBatch _ h
  · split
    · exact h
    · exact keeps_foldl (fun b : State => b) (fun b a hb => keeps_onChip (keeps_loadCore _ _ hb)) h
  · split
    · exact h
    · exact keeps_foldl (fun b : State => b) (fun b a hb => keeps_onChip hb) h
  · exact h

theorem keeps_bootRecords {s u : State} (x0 : List BootRec) (h : Keeps s u) : Keeps s (bootRecords x0 u).1 := by
  revert h
  fun_induction bootRecords x0 u <;> intro h <;>
  (repeat' first | (with_reducible first | exact h | apply keeps_onChip | apply keeps_bootRecord | apply keeps_of_eq (by assumption) | (apply_assumption)))

theorem keeps_bootImage {s u : State} (env : BootEnv) (h : Keeps s u) : Keeps s (bootImage env u) := by
  unfold bootImage
  repeat' first | (with_reducible first | exact h | apply keeps_onChip | apply keeps_bootRecords | apply keeps_of_eq (by assumption)) | split | dsimp only

theorem keeps_restoreEn {s u : State} (m : SaveImg) (h : Keeps s u) : Keeps s (restoreEn m u) := by
  unfold restoreEn
  repeat' first | (with_reducible first | exact h | apply keeps_onChip | apply keeps_pageOff | (apply keeps_eachS; intro _ _ h))

theorem keeps_restoreSave {s u : State} (m : SaveImg) (h : Keeps s u) : Keeps s (restoreSave m u) := by
  unfold restoreSave
  repeat' first | (with_reducible first | exact h | apply keeps_onChip | apply keeps_restoreEn)

theorem keeps_bootSave {s u : State} (env : BootEnv) (h : Keeps s u) : Keeps s (bootSave env u) := by
  unfold bootSave
  repeat' first | (with_reducible first | exact h | apply keeps_onChip | apply keeps_restoreSave) | split | dsimp only

theorem keeps_startUp {s u : State} (env : BootEnv) (h : Keeps s u) : Keeps s (startUp env u) := by
  unfold startUp
  repeat' first | (with_reducible first | exact h | apply keeps_onChip | apply keeps_bootImage | apply keeps_bootSave)

theorem keeps_powerOn {s u : State} (env : BootEnv) (h : Keeps s u) : Keeps s (powerOn env u) := by
  unfold powerOn
  repeat' first | (with_reducible first | exact h | apply keeps_onChip | apply keeps_coldReset | apply keeps_startUp)

theorem keeps_saveRestart {s u : State} (env : BootEnv) (h : Keeps s u) : Keeps s (saveRestart env u) := by
  unfold saveRestart
  repeat' first | (with_reducible first | exact h | apply keeps_onChip | apply keeps_coldReset | apply keeps_startUp) | split | dsimp only

theorem keeps_secOp {s u : State} (path : Path) (f : Chip → Chip) (h : Keeps s u) : Keeps s (secOp path f u) := by
  unfold secOp
  repeat' first | (with_reducible first | exact h | apply keeps_onChip) | split

theorem keeps_tickWork {s u : State} (h : Keeps s u) : Keeps s (tickWork u) := by
  unfold tickWork
  repeat' first | (with_reducible first | exact h | apply keeps_onChip | (apply keeps_eachState; intro _ _ h) | apply keeps_spliceRun | apply keeps_drainStore) | split

theorem keeps_idleTick {s u : State} (h : Keeps s u) : Keeps s (idleTick u) := by
  unfold idleTick
  repeat' first | (with_reducible first | exact h | apply keeps_onChip | apply keeps_tickWork)

end Sys2Proof.Machine
end

