-- ==== Sys2Proof/Laws/LevelOps.lean ====
section
/-!
SUPPORT. The debug level, set and cleared.
-/

namespace Sys2Proof.Laws.LevelOps

open Sys2Proof Sys2Proof.Machine

theorem dbgPage (s : State) (path : Path) (off : Nat) (v : Word) (r : Reg) (ok : Bool) (d : Chip) (h : CanWrite s path .dbg) (h1 : off < 0x800) (h2 : off % 4 = 0) (h3 : 0x040 ≤ off)
    (hr : findRow (pageRows .dbg) off = some (r, false)) (hp : r.pair = false) (ha : r.acc ≠ .ro) (hs : r.acc ≠ .rwl) (hm : v &&& r.mask = v) (hl : r.legal ++ moreLegal .dbg off = [])
    (hb : dbgWrite path off v s = ({ s with chip := d }, ok)) (hw : blockWrite path .dbg off r v s = dbgWrite path off v s) (hx : crossKeep s.chip .dbg off (blockWord s.chip path .dbg off) v = (v, false)) :
    regPage path .dbg off v s = { s with chip := (if ok then taken path .dbg off else ended path .dbg off) d } :=
  regPage_plain (s := s) (path := path) (v := v) (p := .dbg) (off := off) ok h h1 h2 h3 hr hp ha (.inl hs) hm (by rw [hl]; rfl) hx (hw.trans hb)

theorem setLevel_plain (l : Nat) (c : Chip) (h : haltedUnits c = []) (h0 : l ≠ 0) : setLevel l c = { c with dbg := { c.dbg with level := l } } := by
  unfold setLevel; dsimp only
  have e : (modDbg (fun d => if l = 0 then { d with level := 0, byToken := false, issuer := false, expiry := none } else { d with level := l }) c) = { c with dbg := { c.dbg with level := l } } := by
    unfold modDbg; dsimp only; rw [if_neg h0]
  rw [e]; split
  · unfold releaseHalts; dsimp only
    have : haltedUnits { c with dbg := { c.dbg with level := l } } = [] := h
    rw [this]; rfl
  · rfl

theorem setLevel_zero (c : Chip) (h : haltedUnits c = []) : setLevel 0 c = { c with dbg := { c.dbg with level := 0, byToken := false, issuer := false, expiry := none } } := by
  unfold setLevel; dsimp only
  rw [if_pos (by decide)]
  unfold releaseHalts; dsimp only
  have : haltedUnits (modDbg (fun d => if 0 = 0 then { d with level := 0, byToken := false, issuer := false, expiry := none } else { d with level := 0 }) c) = [] := h
  rw [this]; rfl

theorem free_lt (life l : Nat) (h : levelFree life l = true) : l ≠ 3 := by
  rintro rfl; unfold levelFree at h; simp at h

end Sys2Proof.Laws.LevelOps
end

