-- ==== Sys2Proof/Laws/LoopRows.lean ====
section
/-!
SUPPORT. The rows of the observer model and the page of a bus group.
-/

namespace Sys2Proof.Laws.LoopRows

open Sys2Proof Sys2Proof.Machine

theorem mdlRow (r : Fin 7) : ∃ row, findRow (rowsLpa) (0x100 + 4 * r.val) = some (row, false) ∧ row.pair = false ∧ row.acc = .rw ∧ row.mask = 0x3FFFFFFF ∧ row.legal = [] := by
    fin_cases r <;> exact ⟨_, rfl, rfl, rfl, rfl, rfl⟩

theorem busFin (b : Fin 16) : busPage b.val = .bus b := by
  unfold busPage; congr 1; ext; simp [Fin.ofNat, Nat.mod_eq_of_lt b.isLt]

end Sys2Proof.Laws.LoopRows
end

