-- ==== Sys2Proof/Laws/NetRows.lean ====
section
/-!
SUPPORT. The page of a line port.
-/

namespace Sys2Proof.Laws.NetRows

open Sys2Proof Sys2Proof.Machine

theorem netPageFin (p : Fin 4) : netPage p.val = .net p := by fin_cases p <;> rfl

end Sys2Proof.Laws.NetRows
end

