-- ==== Sys2Proof/Laws/PageApplies.lean ====
section
/-!
SUPPORT. What the copy of the shadows of a page does.
-/

namespace Sys2Proof.Laws.PageApplies

open Sys2Proof Sys2Proof.Machine

theorem copy_rd (p : Page) (l : List Nat) (hl : ∀ o ∈ l, o < 0x800) (c : Chip) (off : Nat) (h : off < 0x800) :
    rd (each l (fun o c => regSet (pageBase p + o + 0x800) (rd c p o) c) c) p off = rd c p off := by
  unfold each
  induction l generalizing c with
  | nil => rfl
  | cons x t ih =>
    rw [List.foldl_cons, ih (fun o ho => hl o (List.mem_cons_of_mem _ ho))]
    have := hl x (List.mem_cons_self ..)
    exact regGet_regSet_ne _ _ _ _ (by omega)

theorem copy_act_mem (p : Page) (l : List Nat) (hl : ∀ o ∈ l, o < 0x800) (c : Chip) (off : Nat) (h : off < 0x800)
    (hm : off ∈ l ∨ act c p off = rd c p off) :
    act (each l (fun o c => regSet (pageBase p + o + 0x800) (rd c p o) c) c) p off = rd c p off := by
  unfold each
  induction l generalizing c with
  | nil => rcases hm with hm | hm; cases hm; exact hm
  | cons x t ih =>
    have hx := hl x (List.mem_cons_self ..)
    have ht : ∀ o ∈ t, o < 0x800 := fun o ho => hl o (List.mem_cons_of_mem _ ho)
    have hr : rd (regSet (pageBase p + x + 0x800) (rd c p x) c) p off = rd c p off := regGet_regSet_ne _ _ _ _ (by omega)
    rw [List.foldl_cons, ← hr]
    apply ih ht
    by_cases hxo : off = x
    · right; subst hxo; rw [hr]; simp [act]
    · rcases hm with hm | hm
      · left; rcases List.mem_cons.mp hm with h1 | h1
        · exact absurd h1 hxo
        · exact h1
      · right; rw [hr, ← hm]; exact regGet_regSet_ne _ _ _ _ (by omega)

theorem tabGet_none {α : Type} (d : α) (t : Tab α) (k : Nat) (h : ∀ x ∈ t, x.1 ≠ k) : tabGet d t k = d := by
  induction t with
  | nil => rfl
  | cons x t ih =>
    have h1 := h x (List.mem_cons_self ..)
    simp only [tabGet]
    rw [if_neg (fun e => h1 e.symm)]
    exact ih (fun y hy => h y (List.mem_cons_of_mem _ hy))

theorem copy_act (p : Page) (c : Chip) (off : Nat) (h0 : 0x040 ≤ off) (h : off < 0x800) (hw : rwsOff p off = true) :
    act (copyShadows p (fun _ => true) c) p off = rd c p off := by
  unfold copyShadows
  have hl : ∀ o ∈ (shadowOffs c p).filter (fun _ => true), o < 0x800 := by
    intro o ho
    simp only [shadowOffs, List.mem_filter, List.mem_map] at ho
    obtain ⟨⟨⟨x, _, rfl⟩, _⟩, _⟩ := ho
    exact Nat.mod_lt _ (by decide)
  refine copy_act_mem p _ hl c off h ?_
  by_cases hm : off ∈ (shadowOffs c p).filter (fun _ => true)
  · exact Or.inl hm
  · right
    have hb := pageNum_lt p
    have key : ∀ a : Nat, a = pageBase p + off ∨ a = pageBase p + off + 0x800 → ∀ x ∈ c.regs, x.1 ≠ a := by
      intro a ha x hx he
      apply hm
      simp only [shadowOffs, List.mem_filter, List.mem_map]
      refine ⟨⟨⟨x, ⟨hx, ?_⟩, ?_⟩, ?_⟩, trivial⟩
      · rw [he]; unfold pageBase at ha; simp; omega
      · rw [he]; unfold pageBase at ha; omega
      · simp [h0, hw]
    have e1 : ∀ a : Nat, a = pageBase p + off ∨ a = pageBase p + off + 0x800 → regGet c a = regReset a := by
      intro a ha; exact tabGet_none _ _ _ (key a ha)
    unfold act rd
    rw [e1 _ (Or.inl rfl), e1 _ (Or.inr rfl)]
    have q1 : (pageBase p + off) / 0x1000 = pageNum p := by unfold pageBase; omega
    have q2 : (pageBase p + off + 0x800) / 0x1000 = pageNum p := by unfold pageBase; omega
    have q3 : (pageBase p + off) % 0x1000 = off := by unfold pageBase; omega
    have q4 : (pageBase p + off + 0x800) % 0x1000 = off + 0x800 := by unfold pageBase; omega
    unfold regReset
    rw [q1, q2, q3, q4, pageOfNum_pageNum]
    dsimp only
    rw [if_neg (by omega), if_neg (by omega), if_neg (by omega), if_neg (by omega), if_neg (by omega), if_neg (by omega), if_neg (by omega), if_pos h]
    simp

theorem gclRequest_pages (q : Nat) (c : Chip) : (gclRequest q c).pages = c.pages ∧ (gclRequest q c).regs = c.regs := by
  unfold gclRequest; exact ⟨rfl, rfl⟩

theorem copy_pages (p : Page) (f : Nat → Bool) (c : Chip) : (copyShadows p f c).pages = c.pages := by
  unfold copyShadows each
  generalize (shadowOffs c p).filter f = l
  have : ∀ x : Chip, (l.foldl (fun c o => regSet (pageBase p + o + 0x800) (rd c p o) c) x).pages = x.pages := by
    induction l with
    | nil => intro x; rfl
    | cons y t ih => intro x; rw [List.foldl_cons, ih]; rfl
  exact this c

end Sys2Proof.Laws.PageApplies
end

