-- ==== Sys2Proof/Laws/PageEvents.lean ====
section
/-!
SUPPORT. Events, vectors and the clearing of a latched fault, seen from the header of a page.
-/

namespace Sys2Proof.Laws.PageEvents

open Sys2Proof Sys2Proof.Machine

theorem each_ind {α : Type} (P : Chip → Prop) (f : α → Chip → Chip) (l : List α) (h : ∀ x ∈ l, ∀ c, P c → P (f x c)) (c : Chip) (hc : P c) : P (each l f c) := by
  unfold each
  induction l generalizing c with
  | nil => exact hc
  | cons x t ih => exact ih (fun y hy => h y (List.mem_cons_of_mem _ hy)) _ (h x (List.mem_cons_self ..) c hc)

theorem raiseVector_pend (v : Nat) (c : Chip) (hv : v < 64) : bit (raiseVector v c).evt.pend v = true := by
  simp [raiseVector, bit, hv]

theorem raiseVector_mono (v w : Nat) (c : Chip) (h : bit c.evt.pend w = true) : bit (raiseVector v c).evt.pend w = true := by
  simp only [bit] at *; simp [raiseVector, h]

theorem vecOf_lt (c : Chip) (p : Page) (b : Nat) : vecOf c p b < 64 := by
  unfold vecOf rdF fld; split <;> exact Nat.mod_lt _ (by decide)

theorem vecOf_regs {c c' : Chip} (h : c'.regs = c.regs) (p : Page) (b : Nat) : vecOf c' p b = vecOf c p b := by
  simp [vecOf, rdF, rd_regs h]

theorem raise_pend_mono (p : Page) (b w : Nat) (c : Chip) (h : bit c.evt.pend w = true) : bit (raise p b c).evt.pend w = true := by
  unfold raise; dsimp only; split
  · exact h
  · split
    · exact raiseVector_mono _ _ _ h
    · exact h

theorem raise_pends (p : Page) (b : Nat) (c : Chip) (h1 : bit (hdr c p).evt b = false) (h2 : bit (rd c p 0x014) b = true) :
    bit (raise p b c).evt.pend (vecOf c p b) = true := by
  unfold raise; dsimp only; rw [h1, h2]
  exact raiseVector_pend _ _ (vecOf_lt _ _ _)

theorem each_split {α : Type} (f : α → Chip → Chip) (x : α) (l : List α) (h : x ∈ l) (c : Chip) :
    ∃ a b, l = a ++ x :: b ∧ each l f c = each b f (f x (each a f c)) := by
  obtain ⟨a, b, rfl⟩ := List.append_of_mem h
  exact ⟨a, b, rfl, by simp [each]⟩

theorem hdr_clearLatch (p : Page) (c : Chip) : (hdr (clearLatch p c) p).fltCode = 0 ∧ (hdr (clearLatch p c) p).fltCount = 0 ∧
    (hdr (clearLatch p c) p).fltSeq = 0 ∧ (hdr (clearLatch p c) p).state ≠ .fault := by
  unfold clearLatch; dsimp only; split
  · split <;> simp
  · simp_all

theorem hdr_clearEffect (p : Page) (c : Chip) (hs : (hdr c p).state ≠ .fault) : (hdr (clearEffect p c) p).fltCode = (hdr c p).fltCode ∧
   (hdr (clearEffect p c) p).fltCount = (hdr c p).fltCount ∧ (hdr (clearEffect p c) p).fltSeq = (hdr c p).fltSeq ∧ (hdr (clearEffect p c) p).state ≠ .fault := by
  have ev : ∀ c' : Chip, calm c' = calm c → (hdr c' p).fltCode = (hdr c p).fltCode ∧
   (hdr c' p).fltCount = (hdr c p).fltCount ∧ (hdr c' p).fltSeq = (hdr c p).fltSeq ∧ (hdr c' p).state ≠ .fault := by
    intro c' h; rw [calm_hdr h p]; exact ⟨rfl, rfl, rfl, hs⟩
  unfold clearEffect
  split
  · exact ⟨rfl, rfl, rfl, hs⟩
  · apply ev; unfold atBoundary; split <;> rfl
  · apply ev; unfold busCleared; simp only []; rw [calm_each]; rfl
    intro x c; split
    · unfold atBoundary; split <;> rfl
    · rfl
  · apply ev; split <;> simp [calm_snlIdle]
  · rename_i k
    split
    · unfold startCore; dsimp only; split
      · have : fcoPage k.val = .fco k := by simp [fcoPage]
        rw [this]; simp
      · exact ⟨rfl, rfl, rfl, hs⟩
    · exact ⟨rfl, rfl, rfl, hs⟩
  · split <;> simp [hs]
  · unfold ycpRun; split <;> simp [hs]
  · split <;> simp [hs]
  · exact ⟨rfl, rfl, rfl, hs⟩

end Sys2Proof.Laws.PageEvents
end

