-- ==== Sys2Proof/Laws/PageHeads.lean ====
section
/-!
SUPPORT. What enabling a page does to its header, and what counting a write leaves alone.
-/

namespace Sys2Proof.Laws.PageHeads

open Sys2Proof Sys2Proof.Machine

@[simp] theorem hdr_sp (x : Chip) (r : SplSt) (q : Page) : hdr { x with spl := r } q = hdr x q := rfl

@[simp] theorem hdr_cm (x : Chip) (r : CmdSt) (q : Page) : hdr { x with cmd := r } q = hdr x q := rfl

theorem hdr_updateFull (c : Chip) (q : Page) : ∃ e, hdr (updateFull c) q = { hdr c q with evt := e } := by
  unfold updateFull raiseIf
  dsimp only
  split
  · by_cases hq : q = .cmd
    · subst hq; exact ⟨_, hdr_raise _ _ _⟩
    · exact ⟨_, hdr_raise_ne _ _ _ _ hq⟩
  · exact ⟨_, rfl⟩

theorem anyDemand_false {h : PageHdr} (hd : anyDemand h = false) : h.halted = false ∧ h.stoDemand = false ∧ h.sagDemand = false := by
  simpa [anyDemand, and_assoc] using hd

theorem noteFormer_hdr (p q : Page) (c : Chip) : hdr (noteFormer p c) q = hdr c q := by
  unfold noteFormer; dsimp only; split <;> rfl

theorem sdfRestart_pages (l : List Nat) (g : Nat → Nat) (c : Chip) : (each l (fun i c => sdfRestart (g i) c) c).pages = c.pages := by
  unfold each
  induction l generalizing c with
  | nil => rfl
  | cons x t ih => simp only [List.foldl_cons]; rw [ih]; rfl

/-- the header after an enable effect -/
theorem enableEffect_hdr (p : Page) (c : Chip) (hs : (hdr c p).state = .ready) :
    (hdr (enableEffect p c) p).en = (hdr c p).en ∧ ((hdr (enableEffect p c) p).state = .ready ∨ (hdr (enableEffect p c) p).state = .run) ∧
    (hdr (enableEffect p c) p).gen = (hdr c p).gen ∧ (hdr (enableEffect p c) p).fltCode = (hdr c p).fltCode ∧ (hdr (enableEffect p c) p).conds = (hdr c p).conds := by
  unfold enableEffect
  split
  · exact ⟨rfl, Or.inl hs, rfl, rfl, rfl⟩
  · exact ⟨rfl, Or.inl hs, rfl, rfl, rfl⟩
  · unfold timEnable; dsimp only; split
    · exact ⟨rfl, Or.inl hs, rfl, rfl, rfl⟩
    · split <;> simp [hs]
  · split <;> simp [hs]
  · rw [noteFormer_hdr]; unfold ycpRun; split <;> simp [hs]
  · rw [noteFormer_hdr]; simp [hs]
  · rename_i k
    simp only [hs, if_true]
    unfold startCore; dsimp only; split
    · have : fcoPage k.val = .fco k := by simp [fcoPage]
      rw [this]
      refine ⟨by simp, Or.inr (by simp), by simp, by simp, by simp⟩
    · simp [hs]
  · rename_i k
    rw [hdr_pages (sdfRestart_pages (List.range 48) (fun i => 48 * k.val + i) c)]
    simp [hs]
  · simp [hs]

theorem pageOn_hdr (c : Chip) (p : Page) (he : (hdr c p).en = false) (hs : (hdr c p).state = .off) (hh : enableHeld c p = false)
    (hc : (hdr c p).conds = []) (hd : anyDemand (hdr c p) = false) :
    (hdr (pageOn p c) p).en = true ∧ ((hdr (pageOn p c) p).state = .ready ∨ (hdr (pageOn p c) p).state = .run) ∧ (hdr (pageOn p c) p).gen = (hdr c p).gen := by
  have hrel : ∀ x : Chip, (hdr x p).conds = [] → relatch p x = x := by
    intro x hx; simp [relatch, hx, each]
  have key : ∀ x : Chip, hdr x p = { hdr c p with en := true } →
      (hdr (relatch p (enableEffect p (setState p .ready x))) p).en = true ∧
      ((hdr (relatch p (enableEffect p (setState p .ready x))) p).state = .ready ∨ (hdr (relatch p (enableEffect p (setState p .ready x))) p).state = .run) ∧
      (hdr (relatch p (enableEffect p (setState p .ready x))) p).gen = (hdr c p).gen := by
    intro x hx
    have h1 := enableEffect_hdr p (setState p .ready x) (by simp)
    have h2 : (hdr (enableEffect p (setState p .ready x)) p).conds = [] := by rw [h1.2.2.2.2]; simp [hx, hc]
    rw [hrel _ h2]
    refine ⟨by rw [h1.1]; simp [hx], h1.2.1, by rw [h1.2.2.1]; simp [hx]⟩
  unfold pageOn
  simp only [he, hs, hh, hd]
  simp
  split
  · apply key; simp only [hdr_modMod, hdr_setHdr, hs]
  · apply key; simp only [hdr_setHdr, hs]

theorem countWrite_held (c : Chip) (p q : Page) : enableHeld (countWrite q c) p = enableHeld c p := by
  cases p <;> rfl

end Sys2Proof.Laws.PageHeads
end

