-- ==== Sys2Proof/Laws/PageSplices.lean ====
section
/-!
SUPPORT. What the end of a splice does, and what logging a splice leaves alone.
-/

namespace Sys2Proof.Laws.PageSplices

open Sys2Proof Sys2Proof.Machine

theorem evt_raise_mono (p q : Page) (b i : Nat) (c : Chip) (h : bit (hdr c q).evt i = true) : bit (hdr (raise p b c) q).evt i = true := by
  by_cases hq : q = p
  · subst hq; rw [hdr_raise]; simp only [bit] at *; simp [BitVec.getLsbD_or, h]
  · rw [hdr_raise_ne _ _ _ _ hq]; exact h

theorem evt_raise_self (p : Page) (b : Nat) (c : Chip) (hb : b < 32) : bit (hdr (raise p b c) p).evt b = true := by
  rw [hdr_raise]; simp [bit, hb]

theorem evt_setState_mono (p q : Page) (st : PgState) (i : Nat) (c : Chip) (h : bit (hdr c q).evt i = true) : bit (hdr (setState p st c) q).evt i = true := by
  unfold setState withService
  split
  · exact h
  · have : bit (hdr (modHdr p (fun h => { h with state := st }) c) q).evt i = true := by
      by_cases hq : q = p
      · subst hq; simpa using h
      · rw [hdr_modHdr_ne _ _ _ _ hq]; exact h
    dsimp only; split
    · exact this
    · exact evt_raise_mono _ _ _ _ _ this

theorem spl_logSplice (p : Page) (o : Nat) (c : Chip) (h : c.spl.log.length < 32) : (logSplice p o c).spl.log = c.spl.log ++ [(pageNum p, o)] := by
  unfold logSplice; simp [h]

theorem calm_logSplice (p : Page) (o : Nat) (c : Chip) : calm (logSplice p o c) = calm c := by
  unfold logSplice; simp only [calm_raiseIf]; rfl

theorem evt_logSplice (p q : Page) (o b : Nat) (c : Chip) (h : bit (hdr c q).evt b = true) : bit (hdr (logSplice p o c) q).evt b = true := by
  unfold logSplice raiseIf; dsimp only; split
  · exact evt_raise_mono _ _ _ _ _ h
  · exact h

theorem hdr_spliceOver (p : Page) (o : Nat) (c : Chip) : (hdr (spliceOver p o c) p).spliceReq = false ∧ (hdr (spliceOver p o c) p).spliceFrom = none ∧
    (hdr (spliceOver p o c) p).state = (hdr c p).state ∧ bit (hdr (spliceOver p o c) p).evt 5 = true := by
  unfold spliceOver
  have e := calm_hdr (calm_logSplice p o (raise p 5 (modHdr p (fun h => { h with spliceReq := false, spliceFrom := none }) c))) p
  refine ⟨by rw [e]; simp, by rw [e]; simp, by rw [e]; simp, ?_⟩
  exact evt_logSplice _ _ _ _ _ (evt_raise_self _ _ _ (by decide))

theorem regs_logSplice (p : Page) (o : Nat) (c : Chip) : (logSplice p o c).regs = c.regs := by unfold logSplice; simp

theorem regs_spliceOver (p : Page) (o : Nat) (c : Chip) : (spliceOver p o c).regs = c.regs := by unfold spliceOver; simp [regs_logSplice]

theorem log_spliceOver (p : Page) (o : Nat) (c : Chip) (h : c.spl.log.length < 32) : (spliceOver p o c).spl.log = c.spl.log ++ [(pageNum p, o)] := by
  unfold spliceOver; rw [spl_logSplice _ _ _ (by simpa using h)]; simp

theorem noteFormer_pages (p : Page) (c : Chip) : (noteFormer p c).pages = c.pages := by
  unfold noteFormer; dsimp only; split <;> rfl

theorem noteFormer_log (p : Page) (c : Chip) : (noteFormer p c).spl.log = c.spl.log := by
  unfold noteFormer; dsimp only; split <;> rfl

theorem restoreFormer_pages (p : Page) (c : Chip) : (restoreFormer p c).pages = c.pages ∧ (restoreFormer p c).spl.log = c.spl.log := by
  unfold restoreFormer
  have : ∀ (t : Tab Word) (c : Chip), (t.foldl (fun c q => regSet q.1 q.2 c) c).pages = c.pages ∧ (t.foldl (fun c q => regSet q.1 q.2 c) c).spl = c.spl := by
    intro t
    induction t with
    | nil => intro c; exact ⟨rfl, rfl⟩
    | cons x t ih => intro c; simp only [List.foldl_cons]; exact ih _
  dsimp only
  exact ⟨(this _ _).1, rfl⟩

theorem spliceEnd_facts (p : Page) (o : Nat) (st : PgState) (c : Chip) (hf : (hdr c p).spliceFrom = some st) :
    (hdr (spliceEnd p o c) p).state = st ∧ (hdr (spliceEnd p o c) p).spliceReq = false ∧ (hdr (spliceEnd p o c) p).spliceFrom = none ∧
      bit (hdr (spliceEnd p o c) p).evt 5 = true ∧ (c.spl.log.length < 32 → (spliceEnd p o c).spl.log = c.spl.log ++ [(pageNum p, o)]) := by
  unfold spliceEnd
  simp only [hf]
  have hl : ∀ x : Chip, x = (if o = 1 then dropFormer p c else restoreFormer p c) → x.spl.log = c.spl.log := by
    intro x hx; subst hx; split
    · rfl
    · exact (restoreFormer_pages p c).2
  have h1 := hdr_spliceOver p o (setState p st (if o = 1 then dropFormer p c else restoreFormer p c))
  refine ⟨by rw [h1.2.2.1]; simp, h1.1, h1.2.1, h1.2.2.2, ?_⟩
  intro hlen
  rw [log_spliceOver _ _ _ (by simp [hl _ rfl]; exact hlen)]
  simp [hl _ rfl]

end Sys2Proof.Laws.PageSplices
end

