-- ==== Sys2Proof/Laws/PinBits.lean ====
section
/-!
SUPPORT. One bit of a word of the field pins, written and read.
-/

namespace Sys2Proof.Laws.PinBits

open Sys2Proof Sys2Proof.Machine

theorem put64_same (w : DWord) (i : Nat) (b : Bool) (h : i < 64) : bit (put64 w i b) i = b := by
  unfold put64 bit; cases b <;> simp [h]

theorem put64_other (w : DWord) (i j : Nat) (b : Bool) (h : j ≠ i) : bit (put64 w i b) j = bit w j := by
  unfold put64 bit
  by_cases hj : j < 64
  · cases b <;> simp <;> omega
  · have : ∀ x : DWord, x.getLsbD j = false := fun x => BitVec.getLsbD_of_ge x j (by omega)
    rw [this, this]

end Sys2Proof.Laws.PinBits
end

