-- ==== Sys2Proof/Laws/ResetFacts.lean ====
section
/-!
SUPPORT. What a reset of the main die leaves, part by part.
-/

namespace Sys2Proof.Laws.ResetFacts

open Sys2Proof Sys2Proof.Machine

theorem tabFold {α β : Type} [DecidableEq α] [DecidableEq β] (P : α → Prop) (d : α) (g : Nat × β → α) (hg : ∀ x, P (g x)) (k : Nat) :
    ∀ (l : Tab β) (t : Tab α), P (tabGet d t k) → P (tabGet d (l.foldl (fun t p => tabSet d t p.1 (g p)) t) k) := by
  intro l
  induction l with
  | nil => intro t h; exact h
  | cons x l ih =>
    intro t h
    rw [List.foldl_cons]
    apply ih
    by_cases hk : k = x.1
    · subst hk; rw [tabGet_tabSet_same]; exact hg x
    · rw [tabGet_tabSet_ne _ _ _ _ _ hk]; exact h

theorem resetPages_fresh (w : Bool) (c : Chip) (k : Nat) : hdrFresh (tabGet {} (resetPages w c) k) :=
  tabFold hdrFresh {} _ (fun _ => ⟨rfl, rfl, rfl, rfl, rfl⟩) k c.pages [] ⟨rfl, rfl, rfl, rfl, rfl⟩

theorem resetAxes_fresh (c : Chip) (k : Nat) : (((tabGet {} (resetAxes c) k).state = .disabled ∨ (tabGet {} (resetAxes c) k).state = .safe) ∧ (tabGet {} (resetAxes c) k).run = none) :=
  tabFold (fun a : Axis => (a.state = .disabled ∨ a.state = .safe) ∧ a.run = none) {} _ (fun x => by split <;> simp) k c.axes [] ⟨.inl rfl, rfl⟩

theorem each_adc {γ : Type} (g : Chip → γ) (f : Nat → Chip → AdcSt) (hg : ∀ c k x, g (setAdc k x c) = g c) (l : List Nat) (c : Chip) :
    g (each l (fun k c => setAdc k (f k c) c) c) = g c := each_keeps g _ (fun x c => hg c x _) l c

theorem resetChip_keeps {γ : Type} (g : Chip → γ) (w : Bool) (cause : Nat) (c : Chip) (v : γ)
    (h1 : ∀ c k x, g (setAdc k x c) = g c) (h2 : ∀ p off v c, g (wr p off v c) = g c)
    (h0 : g ({ clk := c.clk, out := c.out, free := c.free, field := c.field, bly := c.bly, keep := c.keep, sec := resetSec c, memc := resetMemc w c, scb := { sramSince := c.clk.now, dramSince := c.clk.now }, pages := resetPages w c, axes := resetAxes c, mods := c.mods.foldl (fun t p => tabSet {} t p.1 { sto := p.2.sto }) [], buses := c.buses.foldl (fun t p => tabSet {} t p.1 { tripIn := p.2.tripIn }) [], tim := resetTim c, trc := { afterReset := 4 } } : Chip) = v) : g (resetChip w cause c) = v := by
  unfold resetChip; dsimp only
  rw [h2]
  refine (each_keeps g _ (fun x c => ?_) _ _).trans ?_
  · exact h1 c x _
  unfold calPowerOn
  refine (each_keeps g _ (fun x c => ?_) _ _).trans ?_
  · exact h1 c x _
  exact h0

theorem resetChip_fresh (w : Bool) (cause : Nat) (c : Chip) : Fresh (resetChip w cause c) := by
  have hp : (resetChip w cause c).pages = resetPages w c := resetChip_keeps (·.pages) w cause c _ (fun _ _ _ => rfl) (fun _ _ _ _ => rfl) rfl
  have ha : (resetChip w cause c).axes = resetAxes c := resetChip_keeps (·.axes) w cause c _ (fun _ _ _ => rfl) (fun _ _ _ _ => rfl) rfl
  have hy : (resetChip w cause c).ycp = {} := resetChip_keeps (·.ycp) w cause c _ (fun _ _ _ => rfl) (fun _ _ _ _ => rfl) rfl
  have hc : (resetChip w cause c).cmd = {} := resetChip_keeps (·.cmd) w cause c _ (fun _ _ _ => rfl) (fun _ _ _ _ => rfl) rfl
  have hh : (resetChip w cause c).hits = [] := resetChip_keeps (·.hits) w cause c _ (fun _ _ _ => rfl) (fun _ _ _ _ => rfl) rfl
  have hw : (resetChip w cause c).pwr = {} := resetChip_keeps (·.pwr) w cause c _ (fun _ _ _ => rfl) (fun _ _ _ _ => rfl) rfl
  refine ⟨fun p => ?_, fun n => ?_, fun i => ?_, ?_, hh, ?_⟩
  · unfold hdr; rw [hp]; exact resetPages_fresh w c _
  · unfold axis; rw [ha]; exact resetAxes_fresh c n
  · unfold session; rw [hy]; rfl
  · rw [hc]
  · rw [hw]

theorem resetChip_regs (w : Bool) (cause : Nat) (c : Chip) : ∃ c0 : Chip, c0.regs = [] ∧ (resetChip w cause c).regs = (wr .pwr 0x048 (BitVec.ofNat 32 cause) c0).regs := by
  refine ⟨_, ?_, rfl⟩
  refine (each_keeps (β := Tab Word) (fun c => c.regs) (fun k c => modAdc k (fun x => { x with refBad := true }) c) (fun x c => rfl) _ _).trans ?_
  unfold calPowerOn
  refine (each_keeps (β := Tab Word) (fun c => c.regs) _ (fun x c => ?_) _ _).trans ?_
  · rfl
  · rfl

theorem resetChip_cause (w : Bool) (cause : Nat) (c : Chip) : rd (resetChip w cause c) .pwr 0x048 = BitVec.ofNat 32 cause := by
  obtain ⟨c0, h0, h⟩ := resetChip_regs w cause c
  rw [rd_regs h]; simp

theorem resetChip_rd (w : Bool) (cause : Nat) (c : Chip) (p : Page) (off : Nat) (hp : pageBase p + off ≠ pageBase .pwr + 0x048) :
    rd (resetChip w cause c) p off = regReset (pageBase p + off) := by
  obtain ⟨c0, h0, h⟩ := resetChip_regs w cause c
  rw [rd_regs h, rd_wr_ne _ _ _ _ _ _ hp]; unfold rd regGet; rw [h0]; rfl

theorem keeps_field {γ : Type} (g : Chip → γ) (w : Bool) (cause : Nat) (c : Chip) (h1 : ∀ c k x, g (setAdc k x c) = g c) (h2 : ∀ p off v c, g (wr p off v c) = g c) (v : γ)
    (h0 : ∀ d : Chip, d.field = c.field → d.bly = c.bly → d.keep = c.keep → g d = v) : g (resetChip w cause c) = v :=
  resetChip_keeps g w cause c v h1 h2 (h0 _ rfl rfl rfl)

theorem cutSave_none (c : Chip) (h : c.pwr.saveSince = none) : cutSave c = c := by unfold cutSave; rw [h]

theorem cutSave_field (c : Chip) : (cutSave c).field = c.field ∧ (cutSave c).bly = c.bly := by
  unfold cutSave; split
  · split
    · exact ⟨rfl, rfl⟩
    · split
      · exact ⟨rfl, rfl⟩
      · split <;> exact ⟨rfl, rfl⟩
  · exact ⟨rfl, rfl⟩

theorem pushes_pages (c c' : Chip) (h : c'.pages = c.pages) (h2 : c'.axes = c.axes) (h3 : c'.ycp.ses = c.ycp.ses) (h4 : c'.cmd.inflight = c.cmd.inflight)
    (h5 : c'.hits = c.hits) (h6 : c'.pwr.state = c.pwr.state) (hf : Fresh c) : Fresh c' := by
  obtain ⟨a, b, d, e, f, g⟩ := hf
  refine ⟨fun p => ?_, fun n => ?_, fun i => ?_, h4.trans e, h5.trans f, h6.trans g⟩
  · rw [hdr_pages h]; exact a p
  · have : axis c' n = axis c n := by unfold axis; rw [h2]
    rw [this]; exact b n
  · have : session c' i = session c i := by unfold session; rw [h3]
    rw [this]; exact d i

theorem fresh_raise (c : Chip) (p : Page) (b : Nat) (hf : Fresh c) : Fresh (raise p b c) := by
  obtain ⟨a, b', d, e, f, g⟩ := hf
  refine ⟨fun q => ?_, fun n => ?_, fun i => ?_, ?_, ?_, ?_⟩
  · simpa using a q
  · have : axis (raise p b c) n = axis c n := by unfold axis; simp
    rw [this]; exact b' n
  · have : session (raise p b c) i = session c i := by unfold session; simp
    rw [this]; exact d i
  · simpa using e
  · simpa using f
  · simpa using g

theorem pageBase_ne {p q : Page} {a b : Nat} (h : p ≠ q) (ha : a < 0x1000) (hb : b < 0x1000) : pageBase p + a ≠ pageBase q + b := by
  intro e
  apply h; apply pageNum_inj
  unfold pageBase at e; omega

theorem restoreInteg_facts (c : Chip) : (restoreInteg c).pages = c.pages ∧ (restoreInteg c).axes = c.axes ∧ (restoreInteg c).ycp = c.ycp ∧ (restoreInteg c).cmd = c.cmd ∧ (restoreInteg c).hits = c.hits ∧ (restoreInteg c).pwr = c.pwr ∧ (restoreInteg c).field = c.field ∧
    (restoreInteg c).keep = c.keep ∧ (restoreInteg c).clk = c.clk ∧ (restoreInteg c).bly = c.bly ∧
    (∀ p off, off < 0x1000 → p ≠ .tim → rd (restoreInteg c) p off = rd c p off) := by
  unfold restoreInteg rateFromI
  split
  · refine ⟨rfl, rfl, rfl, rfl, rfl, rfl, rfl, rfl, rfl, rfl, fun p off h hp => ?_⟩
    rw [rd_modTim, rd_wr_ne _ _ _ _ _ _ (pageBase_ne hp h (by decide))]
  · exact ⟨rfl, rfl, rfl, rfl, rfl, rfl, rfl, rfl, rfl, rfl, fun _ _ _ _ => rfl⟩

theorem newEpoch_facts (c : Chip) : (newEpoch c).pages = c.pages ∧ (newEpoch c).axes = c.axes ∧ (newEpoch c).ycp = c.ycp ∧ (newEpoch c).cmd = c.cmd ∧ (newEpoch c).hits = c.hits ∧ (newEpoch c).pwr = c.pwr ∧ (newEpoch c).field = c.field ∧ (newEpoch c).clk = c.clk ∧ (newEpoch c).bly = c.bly ∧
    (newEpoch c).regs = c.regs := by
  unfold newEpoch; dsimp only
  split <;> exact ⟨rfl, rfl, rfl, rfl, rfl, rfl, rfl, rfl, rfl, rfl⟩

theorem transitionFailed_facts (c : Chip) : (transitionFailed c).field = c.field ∧ (transitionFailed c).cmd = c.cmd ∧ (transitionFailed c).axes = c.axes ∧ (transitionFailed c).pwr = c.pwr ∧
    (transitionFailed c).keep = c.keep ∧ (transitionFailed c).ycp = c.ycp ∧ (transitionFailed c).hits = c.hits ∧ (∀ p off, rd (transitionFailed c) p off = rd c p off) ∧
    (∀ p, (hdr (transitionFailed c) p).en = (hdr c p).en) ∧ (∀ p x, standing (transitionFailed c) p x = standing c p x) := by
  unfold transitionFailed; split
  · refine ⟨by simp, by simp, by simp, by simp, by simp, by simp, by simp, fun p off => ?_, fun p => ?_, fun p x => ?_⟩
    · rw [rd_raise]; rfl
    · rw [hdr_raise_en]; rfl
    · unfold standing; rw [hdr_raise_conds]; rfl
  · exact ⟨rfl, rfl, rfl, rfl, rfl, rfl, rfl, fun _ _ => rfl, fun _ => rfl, fun _ _ => rfl⟩

theorem transitionFailed_fresh (c : Chip) (hf : Fresh c) : Fresh (transitionFailed c) := by
  unfold transitionFailed; split
  · exact fresh_raise _ _ _ (pushes_pages c _ rfl rfl rfl rfl rfl rfl hf)
  · exact hf

theorem warmKeeps_facts (old c : Chip) (hf : Fresh c) : Fresh (warmKeeps old c) ∧ (warmKeeps old c).field = c.field ∧ (warmKeeps old c).cmd.held = old.cmd.held ∧
    (∀ p off, off < 0x1000 → p ≠ .kep → p ≠ .tim → pageBase p + off ≠ pageBase .pwr + 0x05C → rd (warmKeeps old c) p off = rd c p off) := by
  unfold warmKeeps; dsimp only
  generalize hd : restoreInteg _ = d
  have R := restoreInteg_facts
  have key : Fresh d ∧ d.field = c.field ∧ d.cmd.held = old.cmd.held ∧ (∀ p off, off < 0x1000 → p ≠ .kep → p ≠ .tim → rd d p off = rd c p off) := by
    rw [← hd]
    obtain ⟨r1, r2, r3, r4, r5, r6, r7, r8, r9, r10, r11⟩ := R (wr .kep 0x050 (BitVec.ofNat 32 (saveTop c.keep.mib)) { c with cmd := { c.cmd with held := old.cmd.held, nextId := old.cmd.nextId }, ycp := { c.ycp with orphans := old.ycp.orphans }, pwr := { c.pwr with lastSave := old.pwr.lastSave, notSaved := old.pwr.notSaved, bootedFromKeep := old.pwr.bootedFromKeep, bootFail := old.pwr.bootFail, savedInteg := old.pwr.savedInteg, started := old.pwr.started, booted := old.pwr.booted, resetAt := old.clk.now } })
    refine ⟨pushes_pages c _ (r1.trans rfl) (r2.trans rfl) ?_ ?_ (r5.trans rfl) ?_ hf, r7.trans rfl, ?_, fun p off h hp ht => ?_⟩
    · rw [r3]; rfl
    · rw [r4]; rfl
    · rw [r6]; rfl
    · rw [r4]; rfl
    · rw [r11 p off h ht, rd_wr_ne _ _ _ _ _ _ (pageBase_ne hp h (by decide))]; rfl
  clear hd
  obtain ⟨k1, k2, k3, k4⟩ := key
  generalize he : wr .pwr 0x05C _ _ = e
  have m1 : Fresh e := by rw [← he]; exact pushes_pages d _ rfl rfl rfl rfl rfl rfl k1
  have m4 : ∀ p off, off < 0x1000 → p ≠ .kep → p ≠ .tim → pageBase p + off ≠ pageBase .pwr + 0x05C → rd e p off = rd c p off := by
    intro p off h hp ht hw
    rw [← he, rd_wr_ne _ _ _ _ _ _ hw, rd_wr_ne _ _ _ _ _ _ (pageBase_ne hp h (by decide)), rd_wr_ne _ _ _ _ _ _ (pageBase_ne hp h (by decide))]
    exact k4 p off h hp ht
  have m2 : e.field = c.field := by rw [← he]; exact k2
  have m3 : e.cmd.held = old.cmd.held := by rw [← he]; exact k3
  obtain ⟨t1, t2, t3, t4, t5, t6, t7, t8, t9, t10⟩ := transitionFailed_facts e
  have tf := transitionFailed_fresh e m1
  generalize transitionFailed e = x at *
  obtain ⟨n1, n2, n3, n4, n5, n6, n7, n8, n9, n10⟩ := newEpoch_facts x
  exact ⟨pushes_pages x _ n1 n2 (by rw [n3]) (by rw [n4]) n5 (by rw [n6]) tf, n7.trans (t1.trans m2), by rw [n4, t2]; exact m3, fun p off h hp ht hw => (rd_regs n10 p off).trans ((t8 p off).trans (m4 p off h hp ht hw))⟩

theorem warmReset_facts (cause : Nat) (s : State) (h : s.chip.pwr.state ≠ .save) : Fresh (warmReset cause s).chip ∧ rd (warmReset cause s).chip .pwr 0x048 = BitVec.ofNat 32 cause ∧
    (∀ (p : Page) (off : Nat), off < 0x1000 → p ≠ .pwr → p ≠ .kep → p ≠ .tim → rd (warmReset cause s).chip p off = regReset (pageBase p + off)) ∧
    (warmReset cause s).mem = resetMem true s.mem ∧ (warmReset cause s).chip.cmd.held = (cmdAbort 0 (closeAll s.chip)).cmd.held ∧ (warmReset cause s).pending = s.pending := by
  unfold warmReset; rw [if_neg h]; dsimp only
  generalize cmdAbort 0 (closeAll s.chip) = c0
  have f := resetChip_fresh true cause c0
  obtain ⟨a, b, d, e⟩ := warmKeeps_facts c0 _ f
  refine ⟨a, ?_, fun p off h hw hk ht => ?_, rfl, d, rfl⟩
  · rw [e .pwr 0x048 (by decide) (by decide) (by decide) (by decide), resetChip_cause]
  · rw [e p off h hk ht (pageBase_ne hw h (by decide)), resetChip_rd _ _ _ _ _ (pageBase_ne hw h (by decide))]

theorem fresh_emit (c : Chip) (o : Output) (hf : Fresh c) : Fresh (emit o c) := pushes_pages c _ rfl rfl rfl rfl rfl rfl hf

theorem each_fresh {α : Type} (f : α → Chip → Chip) (h : ∀ x c, Fresh c → Fresh (f x c)) : ∀ (l : List α) (c : Chip), Fresh c → Fresh (each l f c) := by
  intro l; unfold each
  induction l with
  | nil => intro c h; exact h
  | cons x l ih => intro c hc; exact ih _ (h x c hc)

end Sys2Proof.Laws.ResetFacts
end

