-- ==== Sys2Proof/Laws/RingEntries.lean ====
section
/-!
SUPPORT. A command that is accepted from a ring.
-/

namespace Sys2Proof.Laws.RingEntries

open Sys2Proof Sys2Proof.Machine

/-- The checks do not look at the ring's head. -/
theorem acceptCheck_advanceHead (r : Nat) (c : Chip) (src : CmdSrc) (tag flags : Byte) (start : Stamp) (op : Option HostOp) (rsv bad : Bool) :
    acceptCheck (advanceHead r c) src tag flags start op rsv bad = acceptCheck c src tag flags start op rsv bad := rfl

theorem ringAccepts (h : Hdr) (op : HostOp) (s : State) (ha : Admits h op s) : ringCommand h op s = settleCmds (onChip (ringTaken h op) s) := by
  obtain ⟨h1, h2⟩ := ha
  have h3 : acceptCheck s.chip (.ring h.ring h.index) h.tag h.flags h.start (some op) false false = none := h2
  unfold ringCommand
  rw [if_pos h1]
  unfold acceptCmd onChip
  simp only [acceptCheck_advanceHead, h3]
  rfl

theorem updateFull_cmd (c : Chip) : (updateFull c).cmd.inflight = c.cmd.inflight := by
  unfold updateFull raiseIf; dsimp only; split
  · rw [raise_cmd]
  · rfl

theorem ringNow (h : Hdr) (op : HostOp) (s : State) (ha : Admits h op s) (hi : s.chip.cmd.inflight = []) (hf : bit h.flags 0 = false)
    (hz : ∀ c x, x.cmd.op = op → axisSet c x = []) (hz2 : settleOne.zeroAxes op = true) (hs : ∀ a b, op ≠ .hitchSet a b) :
    ringCommand h op s = takeEffect (ringEntry h op (advanceHead h.ring.val s.chip)) (onChip (ringTaken h op) s) := by
  rw [ringAccepts h op s ha]
  have e : (ringTaken h op s.chip).cmd.inflight = [ringEntry h op (advanceHead h.ring.val s.chip)] := by
    unfold ringTaken; rw [updateFull_cmd]; simp [advanceHead, setSq, hi]
  have e1 : cmdOf (ringTaken h op s.chip) (ringEntry h op (advanceHead h.ring.val s.chip)).id = some (ringEntry h op (advanceHead h.ring.val s.chip)) := by
    unfold cmdOf; rw [e]; simp
  have e2 : blocked (ringTaken h op s.chip) (ringEntry h op (advanceHead h.ring.val s.chip)) = false := by
    unfold blocked; rw [e]; simp
  have e3 : (ringEntry h op (advanceHead h.ring.val s.chip)).running = false := rfl
  have e4 : (ringEntry h op (advanceHead h.ring.val s.chip)).cmd.startAt = false := hf
  have e5 : (ringEntry h op (advanceHead h.ring.val s.chip)).cmd.op = op := rfl
  unfold settleCmds eachS
  have ec : (onChip (ringTaken h op) s).chip = ringTaken h op s.chip := rfl
  rw [ec, e]
  simp only [List.map_cons, List.map_nil, List.foldl_cons, List.foldl_nil]
  unfold settleOne
  simp only [ec, e1, e2, e3, e4, e5, hz _ _ e5, hz2]
  cases op <;> first | (exfalso; exact hs _ _ rfl) | rfl

end Sys2Proof.Laws.RingEntries
end

