-- ==== Sys2Proof/Laws/RingRows.lean ====
section
/-!
SUPPORT. The rows of the ring registers and the sizes that a ring may have.
-/

namespace Sys2Proof.Laws.RingRows

open Sys2Proof Sys2Proof.Machine

theorem sqRow (r : Fin 4) : ∃ row, findRow (pageRows .cmd) (sqOff r.val 0x10) = some (row, false) ∧ row.pair = false ∧ row.acc = .rw ∧ row.mask = 0xFFF ∧ row.legal = [] := by
    fin_cases r <;> exact ⟨_, rfl, rfl, rfl, rfl, rfl⟩

theorem ctlRow (r : Fin 4) : ∃ row, findRow (pageRows .cmd) (sqOff r.val 0x0C) = some (row, false) ∧ row.pair = false ∧ row.acc = .rw ∧ row.mask = 3 ∧ row.legal = [] := by
    fin_cases r <;> exact ⟨_, rfl, rfl, rfl, rfl, rfl⟩

theorem sizeRow (r : Fin 4) : ∃ row, findRow (pageRows .cmd) (sqOff r.val 0x08) = some (row, false) ∧ row.pair = false ∧ row.acc = .rw ∧ row.mask = 0x1FFF ∧ row.legal = [(12, 0, [(16, 4096)])] := by
    fin_cases r <;> exact ⟨_, rfl, rfl, rfl, rfl, rfl⟩

theorem legalSize (old v : Word) (h1 : 16 ≤ v.toNat) (h2 : v.toNat ≤ 4096) : keepLegal old v [(12, 0, [(16, 4096)])] = (v, false) := by
  have e : fld v 12 0 = v.toNat := by unfold fld; simp; omega
  simp [keepLegal, e, h1, h2]

end Sys2Proof.Laws.RingRows
end

