-- ==== Sys2Proof/Laws/SaveFacts.lean ====
section
/-!
SUPPORT. What stopping for a save leaves, part by part.
-/

namespace Sys2Proof.Laws.SaveFacts

open Sys2Proof Sys2Proof.Machine

theorem haltOff_keeps {γ : Type} (g : Chip → γ) (hm : ∀ p f c, g (modHdr p f c) = g c) (hs : ∀ p st c, g (setState p st c) = g c)
    (hr : ∀ u c, g (resumeEffect u c) = g c) (u : HaltUnit) (c : Chip) : g (haltOff u c) = g c := by
  unfold haltOff; dsimp only
  refine (each_keeps g _ (fun p c => ?_) _ _).trans (hr _ _)
  have h1 : g (demandOff p (fun h => { h with halted := false }) c) = g c := by
    unfold demandOff; dsimp only; split
    · rw [hs, hm]
    · rw [hm]
  unfold resumeRun
  split
  · exact h1
  · split
    · split
      · rw [hs]; exact h1
      · exact h1
    · split
      · rw [hs]; exact h1
      · exact h1
    · split
      · exact h1
      · rw [hs]; exact h1
    · exact h1

theorem demandOn_keeps {γ : Type} (g : Chip → γ) (hm : ∀ p f c, g (modHdr p f c) = g c) (hs : ∀ p st c, g (setState p st c) = g c) (hc : ∀ p c, g (spliceCut p c) = g c)
    (p : Page) (f : PageHdr → PageHdr) (c : Chip) : g (demandOn p f c) = g c := by
  unfold demandOn; dsimp only; split
  · rw [hs, hm]
  · rw [hs, hm]
  · rw [hs, hc, hm]
  · rw [hm]

theorem saveStop_keeps {γ : Type} (g : Chip → γ) (hm : ∀ p f c, g (modHdr p f c) = g c) (hs : ∀ p st c, g (setState p st c) = g c) (hc : ∀ p c, g (spliceCut p c) = g c)
    (hr : ∀ u c, g (resumeEffect u c) = g c) (ha : ∀ p b c, g (raise p b c) = g c) (hf : ∀ c l a b d, g (finishAll l a b d c) = g c) (ht : ∀ c f, g (modTrc f c) = g c)
    (hb : ∀ n b c, g (brake n b c) = g c) (hl : ∀ p b c, g (linkDown p b c) = g c) (hp : ∀ c, g (pcieLink false c) = g c)
    (s : State) (v : γ) (hw : ∀ c0, g c0 = g s.chip → c0.pwr = s.chip.pwr → c0.clk = s.chip.clk → g (modPwr (fun w => { w with sag := true, state := .save, req := none, test := none, saveSince := some c0.clk.now }) c0) = v)
    (hpw : (releaseHalts s.chip).pwr = s.chip.pwr) (hck : (releaseHalts s.chip).clk = s.chip.clk) : g (saveStop s).chip = v := by
  unfold saveStop; dsimp only
  refine (each_keeps g _ (fun p c => hl p false c) _ _).trans ?_
  rw [hp]
  refine (each_keeps g _ (fun p c => demandOn_keeps g hm hs hc p _ c) _ _).trans ?_
  refine (each_keeps g _ (fun n c => hb n false c) _ _).trans ?_
  unfold trcReset; dsimp only
  rw [hf, ht]
  refine hw _ ?_ hpw hck
  unfold releaseHalts; dsimp only; split
  · rfl
  · rw [ha]; exact each_keeps g _ (fun u c => haltOff_keeps g hm hs hr u c) _ _

theorem resume_pwr (u : HaltUnit) (c : Chip) : (resumeEffect u c).pwr = c.pwr := by unfold resumeEffect; split <;> rfl

theorem resume_sec (u : HaltUnit) (c : Chip) : (resumeEffect u c).sec = c.sec := by unfold resumeEffect; split <;> rfl

theorem resume_keep (u : HaltUnit) (c : Chip) : (resumeEffect u c).keep = c.keep := by unfold resumeEffect; split <;> rfl

theorem resume_clk (u : HaltUnit) (c : Chip) : (resumeEffect u c).clk = c.clk := by unfold resumeEffect; split <;> rfl

theorem release_pwr (c : Chip) : (releaseHalts c).pwr = c.pwr := by
  unfold releaseHalts; dsimp only; split
  · rfl
  · rw [raise_pwr]; exact each_keeps (·.pwr) _ (fun u c => haltOff_keeps (·.pwr) (fun _ _ _ => by simp) (fun _ _ _ => by simp) resume_pwr u c) _ _

theorem release_clk (c : Chip) : (releaseHalts c).clk = c.clk := by
  unfold releaseHalts; dsimp only; split
  · rfl
  · rw [raise_clk]; exact each_keeps (·.clk) _ (fun u c => haltOff_keeps (·.clk) (fun _ _ _ => by simp) (fun _ _ _ => by simp) resume_clk u c) _ _

theorem brake_keeps3 (n : Nat) (b : Bool) (c : Chip) : (brake n b c).pwr = c.pwr ∧ (brake n b c).sec = c.sec ∧ (brake n b c).keep = c.keep := by
  unfold brake; dsimp only; split <;> exact ⟨rfl, rfl, rfl⟩

theorem linkDown_keeps3 (p : Nat) (b : Bool) (c : Chip) : (linkDown p b c).pwr = c.pwr ∧ (linkDown p b c).sec = c.sec ∧ (linkDown p b c).keep = c.keep ∧ (linkDown p b c).svcPcie = c.svcPcie := by
  unfold linkDown raiseIf; dsimp only
  refine ⟨?_, ?_, ?_, ?_⟩
  · rw [withService_pwr]; split <;> simp
  · rw [withService_sec]; split <;> simp
  · rw [withService_keep]; split <;> simp
  · rw [withService_svcPcie]; split <;> simp

theorem stop_pwr (s : State) : (saveStop s).chip.pwr = { s.chip.pwr with sag := true, state := .save, req := none, test := none, saveSince := some s.chip.clk.now } :=
  saveStop_keeps (·.pwr) (fun _ _ _ => by simp) (fun _ _ _ => by simp) (fun _ _ => by simp) resume_pwr (fun _ _ _ => by simp) (fun _ _ _ _ _ => by simp) (fun _ _ => by simp) (fun _ _ _ => (brake_keeps3 _ _ _).1)
    (fun _ _ _ => (linkDown_keeps3 _ _ _).1) (fun _ => by unfold pcieLink; rw [withService_pwr]) s _ (fun c0 h1 h2 h3 => by show ({ c0.pwr with sag := true, state := .save, req := none, test := none, saveSince := some c0.clk.now } : PwrSt) = _; rw [h2, h3]) (release_pwr _) (release_clk _)

theorem stop_sec (s : State) : (saveStop s).chip.sec = s.chip.sec :=
  saveStop_keeps (·.sec) (fun _ _ _ => by simp) (fun _ _ _ => by simp) (fun _ _ => by simp) resume_sec (fun _ _ _ => by simp) (fun _ _ _ _ _ => by simp) (fun _ _ => by simp) (fun _ _ _ => (brake_keeps3 _ _ _).2.1)
    (fun _ _ _ => (linkDown_keeps3 _ _ _).2.1) (fun _ => by unfold pcieLink; rw [withService_sec]) s _ (fun c0 h1 h2 h3 => h1) (release_pwr _) (release_clk _)

theorem stop_keep (s : State) : (saveStop s).chip.keep = s.chip.keep :=
  saveStop_keeps (·.keep) (fun _ _ _ => by simp) (fun _ _ _ => by simp) (fun _ _ => by simp) resume_keep (fun _ _ _ => by simp) (fun _ _ _ _ _ => by simp) (fun _ _ => by simp) (fun _ _ _ => (brake_keeps3 _ _ _).2.2)
    (fun _ _ _ => (linkDown_keeps3 _ _ _).2.2.1) (fun _ => by unfold pcieLink; rw [withService_keep]) s _ (fun c0 h1 h2 h3 => h1) (release_pwr _) (release_clk _)

theorem stop_pcie (s : State) : (saveStop s).chip.svcPcie = false := by
  unfold saveStop; dsimp only
  refine (each_keeps (·.svcPcie) _ (fun p c => (linkDown_keeps3 p false c).2.2.2) _ _).trans ?_
  unfold pcieLink withService; dsimp only
  split
  · rfl
  · simp

theorem stop_mem (s : State) : (saveStop s).mem = s.mem := by unfold saveStop; dsimp only

theorem stop_pending (s : State) : (saveStop s).pending = s.pending := by unfold saveStop; dsimp only

theorem saveWrite_facts (n : Nat) (c : Chip) : (saveWrite n c).pwr = c.pwr ∧ (saveWrite n c).keep.startRec = true ∧ (saveWrite n c).keep.marker = some true ∧ (saveWrite n c).keep.image.isSome := by
  unfold saveWrite; dsimp only; rw [raise_pwr, raise_keep]
  exact ⟨rfl, rfl, rfl, rfl⟩

theorem reqKey (s : State) (path : Path) (k : Nat) (hk : k ≤ 2) (h : CanWrite s path .pwr) (r : Bool) (q : Power) (d : Chip)
    (hb : blockWrite path .pwr 0x060 { name := "PWR_STATE_REQ", off := 0x060, acc := .rw, mask := 0x3, legal := [(1, 0, [(0, 2)])] } (BitVec.ofNat 32 k) s = (onChip (pwrRequest q) s, r))
    (hd : pwrRequest q s.chip = d) :
    regPage path .pwr 0x060 (BitVec.ofNat 32 k) s = { s with chip := (if r then taken path .pwr 0x060 else ended path .pwr 0x060) d } := by
  have := regPage_plain (s := s) (path := path) (v := BitVec.ofNat 32 k) (p := .pwr) (off := 0x060) r h (by omega) (by omega) (by omega) rfl rfl (by simp) (by simp)
    (by have : k = 0 ∨ k = 1 ∨ k = 2 := by omega
        rcases this with rfl | rfl | rfl <;> decide)
    (by have : k = 0 ∨ k = 1 ∨ k = 2 := by omega
        rcases this with rfl | rfl | rfl <;> simp [moreLegal, keepLegal, fld]) rfl hb
  rw [this]; unfold onChip; dsimp only; rw [hd]

end Sys2Proof.Laws.SaveFacts
end

