-- ==== Sys2Proof/Laws/ScrubFields.lean ====
section
/-!
SUPPORT. The byte address of a scrub window read from its register.
-/

namespace Sys2Proof.Laws.ScrubFields

open Sys2Proof Sys2Proof.Machine

/-- A scrub window's address has its low twelve and its top six bits clear. -/
theorem windowBounds (v : Word) (h : v &&& 0x3FFF000 = v) : v.toNat % 4096 = 0 ∧ v.toNat < 2 ^ 26 := by
  have lo : v.extractLsb' 0 12 = 0 := by rw [← h, BitVec.extractLsb'_and]; exact BitVec.and_zero
  have hi : v.extractLsb' 26 6 = 0 := by rw [← h, BitVec.extractLsb'_and]; exact BitVec.and_zero
  have lo' := congrArg BitVec.toNat lo
  have hi' := congrArg BitVec.toNat hi
  simp [BitVec.extractLsb'_toNat, Nat.shiftRight_eq_div_pow] at lo' hi'
  omega

theorem fldTop (v : Word) (h : v &&& 0x3FFF000 = v) : fld v 25 12 * 4096 = v.toNat := by
  have hb := windowBounds v h
  unfold fld; rw [Nat.shiftRight_eq_div_pow]
  omega

end Sys2Proof.Laws.ScrubFields
end

