-- ==== Sys2Proof/Laws/SecOps.lean ====
section
/-!
SUPPORT. The commands of the security page.
-/

namespace Sys2Proof.Laws.SecOps

open Sys2Proof Sys2Proof.Machine

/-- A refused command's write ends without error and counts nowhere. -/
theorem secWritten_ended (path : Path) (c : Chip) (reason : Nat) (h : tabGet 0 c.sec.res (pathCode path) = 3 + 16 * reason) : secWritten path c = ended path .sec 0x04C c := by
  unfold secWritten secTaken; rw [h]; rw [if_neg]
  have : (3 + 16 * reason) % 4 = 3 := by omega
  simp [this]

/-- The write of a command that is not refused is taken. -/
theorem secWritten_taken (path : Path) (c : Chip) (r reason : Nat) (h : tabGet 0 c.sec.res (pathCode path) = r + 16 * reason) (hr : r < 3) : secWritten path c = taken path .sec 0x04C c := by
  unfold secWritten secTaken; rw [h]; rw [if_pos]
  have : (r + 16 * reason) % 4 ≠ 3 := by omega
  simp [this]

theorem secEnd_res (path : Path) (r reason : Nat) (x : SecSt) : tabGet 0 (secEnd path r reason x).res (pathCode path) = r + 16 * reason := by
  unfold secEnd; simp

/-- A key above a command number: the two fields share no bit, so joining them is adding them. -/
theorem keyOrCmd (key : BitVec 16) (k : BitVec 4) :
    (key.setWidth 32 <<< 16) ||| k.setWidth 32 = (key.setWidth 32 <<< 16) + k.setWidth 32 := by
  refine (BitVec.add_eq_or_of_and_eq_zero _ _ ?_).symm
  apply BitVec.eq_of_getLsbD_eq
  intro i hi
  rw [BitVec.getLsbD_and, BitVec.getLsbD_shiftLeft, BitVec.getLsbD_setWidth, BitVec.getLsbD_setWidth]
  by_cases h1 : i < 16
  · simp [h1]
  · simp [BitVec.getLsbD_of_ge k i (by omega)]

/-- A key above a command number has no bit outside the writable fields of SEC_CMD. -/
theorem keyOrCmd_mask (key : BitVec 16) (k : BitVec 4) :
    ((key.setWidth 32 <<< 16) ||| k.setWidth 32) &&& (0xFFFF000F : Word) = (key.setWidth 32 <<< 16) ||| k.setWidth 32 := by
  have hm : ∀ i : Fin 32, (0xFFFF000F : Word).getLsbD i = decide (i.val < 4 ∨ 16 ≤ i.val) := by decide
  apply BitVec.eq_of_getLsbD_eq
  intro i hi
  rw [BitVec.getLsbD_and, (hm ⟨i, hi⟩ : (0xFFFF000F : Word).getLsbD i = _), BitVec.getLsbD_or, BitVec.getLsbD_shiftLeft, BitVec.getLsbD_setWidth, BitVec.getLsbD_setWidth]
  by_cases h1 : i < 4
  · simp [h1]
  · by_cases h2 : 16 ≤ i
    · simp [h2]
    · simp [show i < 16 by omega, BitVec.getLsbD_of_ge k i (by omega)]

theorem cmdWord (k : Nat) (key : BitVec 16) (hk : k < 16) : (w32 (k + key.toNat * 65536)) &&& 0xFFFF000F = w32 (k + key.toNat * 65536) ∧ fld (w32 (k + key.toNat * 65536)) 3 0 = k ∧ BitVec.ofNat 16 (fld (w32 (k + key.toNat * 65536)) 31 16) = key := by
  have hl := key.isLt
  have hn : (w32 (k + key.toNat * 65536)).toNat = k + key.toNat * 65536 := by simp [w32]; omega
  refine ⟨?_, ?_, ?_⟩
  · have h1 : w32 (k + key.toNat * 65536) = (key.setWidth 32 <<< 16) ||| (BitVec.ofNat 4 k).setWidth 32 := by
      rw [keyOrCmd]
      apply BitVec.eq_of_toNat_eq
      rw [hn]
      simp [BitVec.toNat_add, BitVec.toNat_shiftLeft, Nat.shiftLeft_eq]
      omega
    rw [h1]; exact keyOrCmd_mask key (BitVec.ofNat 4 k)
  · unfold fld; rw [hn, Nat.shiftRight_eq_div_pow]; omega
  · unfold fld; rw [hn, Nat.shiftRight_eq_div_pow]
    apply BitVec.eq_of_toNat_eq
    simp; omega

theorem secPage (s : State) (path : Path) (k : Nat) (key : BitVec 16) (hk : k < 16) (h : CanWrite s path .sec) (d : Chip) (hd : secCmd path (w32 (k + key.toNat * 65536)) s.chip = d) :
    regPage path .sec 0x04C (w32 (k + key.toNat * 65536)) s = { s with chip := secWritten path d } := by
  have := regPage_plain (s := s) (path := path) (v := w32 (k + key.toNat * 65536)) (p := .sec) (off := 0x04C) (s1 := onChip (secCmd path (w32 (k + key.toNat * 65536))) s) (secTaken path (secCmd path (w32 (k + key.toNat * 65536)) s.chip)) h (by omega) (by omega) (by omega) rfl rfl (by simp) (by simp)
    (cmdWord k key hk).1 (by simp [moreLegal, keepLegal]) rfl rfl
  rw [this, hd]; unfold onChip secWritten; dsimp only; rw [hd]; split <;> rfl

theorem secCmd_trans (s : State) (path : Path) (key : BitVec 16) : secCmd path (w32 (3 + key.toNat * 65536)) s.chip = transition path key 1 s.chip ∧ secCmd path (w32 (4 + key.toNat * 65536)) s.chip = transition path key 2 s.chip ∧ secCmd path (w32 (5 + key.toNat * 65536)) s.chip = transition path key 3 s.chip := by
  unfold secCmd; dsimp only
  rw [(cmdWord 3 key (by omega)).2.1, (cmdWord 4 key (by omega)).2.1, (cmdWord 5 key (by omega)).2.1, (cmdWord 3 key (by omega)).2.2, (cmdWord 4 key (by omega)).2.2, (cmdWord 5 key (by omega)).2.2]
  exact ⟨rfl, rfl, rfl⟩

theorem doProv (s : State) (path : Path) (key : BitVec 16) (h : CanWrite s path .sec) (g : Chip → Chip) (hg : transition path key 1 s.chip = g s.chip) :
    exec (.provision path key) s = .next (onChip (fun c => secWritten path (g c)) s) := by
  simp only [exec, execProvision]; exact congrArg _ (secPage s path 3 key (by omega) h _ ((secCmd_trans s path key).1.trans hg))

theorem doSeal (s : State) (path : Path) (key : BitVec 16) (h : CanWrite s path .sec) (g : Chip → Chip) (hg : transition path key 2 s.chip = g s.chip) :
    exec (.sealDevice path key) s = .next (onChip (fun c => secWritten path (g c)) s) := by
  simp only [exec, execSealDevice]; exact congrArg _ (secPage s path 4 key (by omega) h _ ((secCmd_trans s path key).2.1.trans hg))

theorem doScrap (s : State) (path : Path) (key : BitVec 16) (h : CanWrite s path .sec) (g : Chip → Chip) (hg : transition path key 3 s.chip = g s.chip) :
    exec (.scrap path key) s = .next (onChip (fun c => secWritten path (g c)) s) := by
  simp only [exec, execScrap]; exact congrArg _ (secPage s path 5 key (by omega) h _ ((secCmd_trans s path key).2.2.trans hg))

theorem trans_go (path : Path) (target : Nat) (c : Chip) (hb : c.sec.busy = none) (hr : transReason c target = 0) : transition path 0x4C43 target c = { c with sec := secBegin path target c.clk.now c.sec } := by
  unfold transition; rw [if_neg (by simp [hb])]; dsimp only; rw [if_neg (by simp [hr])]; rfl

theorem trans_ref (path : Path) (target r : Nat) (c : Chip) (hb : c.sec.busy = none) (hr : transReason c target = r) (h0 : r ≠ 0) : transition path 0x4C43 target c = { c with sec := secEnd path 3 r c.sec } := by
  unfold transition; rw [if_neg (by simp [hb])]; dsimp only; rw [hr, if_pos h0]; rfl

theorem secPage0 (s : State) (path : Path) (k : Nat) (hk : k < 16) (h : CanWrite s path .sec) (g : Chip → Chip) (hd : secCmd path (BitVec.ofNat 32 k) s.chip = g s.chip) :
    regPage path .sec 0x04C (BitVec.ofNat 32 k) s = onChip (fun c => secWritten path (g c)) s := by
  have := secPage s path k 0 hk h _ hd
  exact this

end Sys2Proof.Laws.SecOps
end

