-- ==== Sys2Proof/Laws/SessionOps.lean ====
section
/-!
SUPPORT. A datagram that a session hears, accepted and run in order.
-/

namespace Sys2Proof.Laws.SessionOps

open Sys2Proof Sys2Proof.Machine

theorem accept (s : State) (typ : Byte) (i : Fin 4) (pr : Protect) (plain : List Byte) (g : Dgram) (o : Bool) (h : Heard s typ i pr plain g) :
    sesAccept i.val typ pr plain g o s.chip = (s.chip, true) := by
  obtain ⟨⟨hm, h1, h2, h3, h4⟩, h5, h6⟩ := h
  unfold sesAccept; dsimp only; rw [if_neg (by simp [h1, h2]), if_neg (by simp [h3]), if_neg (by simp [h4]), h5]; dsimp only; rw [if_pos h6]

theorem sesRow (r : Fin 4) : ∃ row, findRow (pageRows .ycp) (sesOff r.val 0x18) = some (row, false) ∧ row.pair = false ∧ row.acc = .wo ∧ row.mask = 1 ∧ row.legal = [] := by
    fin_cases r <;> exact ⟨_, rfl, rfl, rfl, rfl, rfl⟩

/-- A request heard in its turn, its number held by no earlier one, runs first; then the held requests that follow it. -/
theorem order (s : State) (typ : Byte) (i : Fin 4) (g : Dgram) (op : YcpOp) (h : Heard s typ i .sealed (ycpPlain op) g) (ht : typ = 0x03)
    (h1 : g.seq = (session s.chip i.val).exp) (h2 : ∀ y ∈ (session s.chip i.val).held, y.1 ≠ g.seq) :
    ycpRequest i g op s = ycpDrain i 15 (ycpRunOp i g.seq op (onChip (inOrder i) s)) := by
  subst ht
  have hne : ∀ x : Session, x.state = .opened → x ≠ {} := by intro x hx hh; rw [hh] at hx; cases hx
  have hst := h.2.1
  have hany : (session s.chip i.val).held.any (fun y => y.1 == g.seq) = false := by
    rw [List.any_eq_false]; intro y hy; simpa using h2 y hy
  have hfind : ((session s.chip i.val).held ++ [(g.seq, op)]).find? (fun y => y.1 == (session s.chip i.val).exp) = some (g.seq, op) := by
    rw [List.find?_append, List.find?_eq_none.2 (by intro y hy; simpa [← h1] using h2 y hy)]; simp [h1]
  have hfil : ((session s.chip i.val).held ++ [(g.seq, op)]).filter (fun y => y.1 != g.seq) = (session s.chip i.val).held := by
    rw [List.filter_append, List.filter_eq_self.2 (by intro y hy; simpa using h2 y hy)]; simp
  unfold ycpRequest; rw [accept s 0x03 i .sealed (ycpPlain op) g true h]; dsimp only
  rw [if_neg (by simp)]
  rw [if_neg (by rw [h1]; simp), if_pos (by rw [h1]; simp)]
  simp only [hany, Bool.false_eq_true, if_false]
  generalize hR : ycpDrain i 15 = drain
  show ycpDrain i (15 + 1) _ = _
  unfold ycpDrain; dsimp only [onChip]; rw [hR]
  simp only [session_setSession]
  rw [hfind]; dsimp only
  rw [hfil]
  unfold inOrder setSession
  dsimp only
  rw [tabSet_tabSet, tabSet_tabSet]
  all_goals (refine hne _ ?_; exact hst)

end Sys2Proof.Laws.SessionOps
end

