-- ==== Sys2Proof/Laws/StartUpFacts.lean ====
section
/-!
SUPPORT. What the steps of start-up leave, part by part.
-/

namespace Sys2Proof.Laws.StartUpFacts

open Sys2Proof Sys2Proof.Machine Sys2Proof.Laws.ResetFacts

theorem cold_facts (cause : Nat) (s : State) : Fresh (coldReset cause s).chip ∧ (coldReset cause s).mem = resetMem false s.mem ∧ (coldReset cause s).pending = s.pending ∧
    (coldReset cause s).chip.pwr = {} ∧ (coldReset cause s).chip.keep = (cutSave s.chip).keep ∧ rd (coldReset cause s).chip .pwr 0x048 = BitVec.ofNat 32 cause ∧ (∀ p, (hdr (coldReset cause s).chip p).conds.contains 0xC2 = false) := by
  refine ⟨resetChip_fresh _ _ _, rfl, rfl, ?_, ?_, resetChip_cause _ _ _, fun p => ?_⟩
  · exact resetChip_keeps (·.pwr) _ _ _ _ (fun _ _ _ => rfl) (fun _ _ _ _ => rfl) rfl
  · exact keeps_field (·.keep) _ _ _ (fun _ _ _ => rfl) (fun _ _ _ _ => rfl) _ (fun d _ _ h => h)
  · have hp : (coldReset cause s).chip.pages = resetPages false (cutSave s.chip) := resetChip_keeps (·.pages) _ _ _ _ (fun _ _ _ => rfl) (fun _ _ _ _ => rfl) rfl
    unfold hdr; rw [hp]
    refine tabFold (fun h : PageHdr => h.conds.contains 0xC2 = false) {} _ (fun x => ?_) _ _ _ rfl
    simp

theorem rd_latchCond_off (c : Chip) (p : Page) (code : Byte) (hs : (hdr c p).state = .off) (q : Page) (off : Nat) : rd (latchCond p code c) q off = rd c q off := by
  unfold latchCond; split
  · rfl
  unfold latchFault; dsimp only
  rw [hdr_modHdr]; dsimp only; rw [hs]; dsimp only
  split
  · rw [rd_raise]; rfl
  · rfl

theorem latchCond_off (c : Chip) (p : Page) (code : Byte) (hs : (hdr c p).state = .off) (hn : standing c p code = false) :
    (∀ q, (hdr (latchCond p code c) q).en = (hdr c q).en) ∧ standing (latchCond p code c) p code = true := by
  unfold latchCond; rw [if_neg (by simp [hn])]
  unfold latchFault; dsimp only
  rw [hdr_modHdr]; dsimp only; rw [hs]; dsimp only
  have g1 : ∀ (q : Page) (h : PageHdr) (d : Chip), h.en = (hdr c p).en → (∀ q, (hdr d q).en = (hdr c q).en) → (hdr (setHdr p h d) q).en = (hdr c q).en := by
    intro q h d hh hd
    by_cases e : q = p
    · subst e; rw [hdr_setHdr]; exact hh
    · rw [hdr_setHdr_ne _ _ _ _ e]; exact hd q
  have g0 : ∀ q, (hdr (modHdr p (fun h => { h with conds := code :: h.conds }) c) q).en = (hdr c q).en := fun q => g1 q _ c rfl (fun _ => rfl)
  constructor
  · intro q
    split
    · rw [hdr_raise_en]; exact g1 q _ _ rfl g0
    · exact g1 q _ _ rfl g0
  · unfold standing; split
    · rw [hdr_raise_conds, hdr_setHdr]; simp
    · rw [hdr_setHdr]; simp

/-- The chip as start-up step 3 leaves it. -/
theorem keep_facts (env : BootEnv) (c : Chip) (hf : Fresh c) (hp : c.pwr = {}) (hc : (hdr c .kep).conds.contains 0xC2 = false) :
    (∀ p, (hdr (newEpoch (transitionFailed (bootKeep env c))) p).en = false) ∧ (∀ n, (axis (newEpoch (transitionFailed (bootKeep env c))) n).state = .disabled ∨ (axis (newEpoch (transitionFailed (bootKeep env c))) n).state = .safe) ∧
    (newEpoch (transitionFailed (bootKeep env c))).pwr.started = true ∧ (newEpoch (transitionFailed (bootKeep env c))).pwr.lastSave = 0 ∧ (newEpoch (transitionFailed (bootKeep env c))).pwr.bootedFromKeep = false ∧ (newEpoch (transitionFailed (bootKeep env c))).pwr.bootFail = false ∧
    (newEpoch (transitionFailed (bootKeep env c))).keep.present = decide (4 ≤ env.keepMiB) ∧ (newEpoch (transitionFailed (bootKeep env c))).keep.mib = (if 4 ≤ env.keepMiB then min 255 env.keepMiB else 0) ∧
    (newEpoch (transitionFailed (bootKeep env c))).keep.startRec = c.keep.startRec ∧ (newEpoch (transitionFailed (bootKeep env c))).keep.marker = c.keep.marker ∧ (newEpoch (transitionFailed (bootKeep env c))).keep.image = c.keep.image ∧ (newEpoch (transitionFailed (bootKeep env c))).keep.base = c.keep.base ∧
    rd (newEpoch (transitionFailed (bootKeep env c))) .pwr 0x048 = rd c .pwr 0x048 ∧
    rd (newEpoch (transitionFailed (bootKeep env c))) .kep 0x050 = BitVec.ofNat 32 (saveTop (if 4 ≤ env.keepMiB then min 255 env.keepMiB else 0)) ∧
    (env.keepMiB < 4 → standing (newEpoch (transitionFailed (bootKeep env c))) .kep 0xC2 = true) := by
  have e3 : ∀ d : Chip, (newEpoch d).keep.present = d.keep.present ∧ (newEpoch d).keep.mib = d.keep.mib ∧ (newEpoch d).keep.startRec = d.keep.startRec ∧ (newEpoch d).keep.marker = d.keep.marker ∧ (newEpoch d).keep.image = d.keep.image ∧ (newEpoch d).keep.base = d.keep.base := by
    intro d; unfold newEpoch; dsimp only; split <;> exact ⟨rfl, rfl, rfl, rfl, rfl, rfl⟩
  obtain ⟨n1, n2, n3, n4, n5, n6, n7, n8, n9, n10⟩ := newEpoch_facts (transitionFailed (bootKeep env c))
  obtain ⟨q1, q2, q3, q4, q5, q6⟩ := e3 (transitionFailed (bootKeep env c))
  obtain ⟨t1, t2, t3, t4, t5, t6, t7, t8, t9, t10⟩ := transitionFailed_facts (bootKeep env c)
  have hen := hf.1
  have hax := hf.2.1
  have a0 : ∀ n d, d.axes = c.axes → (axis d n) = axis c n := by intro n d h; unfold axis; rw [h]
  simp only [hdr_pages n1, show ∀ n, axis (newEpoch (transitionFailed (bootKeep env c))) n = axis (bootKeep env c) n from fun n => by unfold axis; rw [n2, t3], n6, t4, t5, t8, t9, q1, q2, q3, q4, q5, q6, rd_regs n10, show ∀ p x, standing (newEpoch (transitionFailed (bootKeep env c))) p x = standing (bootKeep env c) p x from fun p x => by rw [← t10 p x]; unfold standing; rw [hdr_pages n1]]
  unfold bootKeep; dsimp only
  by_cases h4 : 4 ≤ env.keepMiB
  · simp only [if_pos h4, decide_eq_true h4, if_true]
    generalize saveTop (min 255 env.keepMiB) = w
    generalize hd : wr .kep 0x050 _ _ = d
    have hdk : ∀ q, hdr d q = hdr c q := fun q => by rw [← hd]; simp only [hdr_wr]; rfl
    refine ⟨fun p => ?_, fun n => ?_, ?_, ?_, ?_, ?_, ?_, ?_, ?_, ?_, ?_, ?_, ?_, ?_, fun h => absurd h (by omega)⟩
    · rw [hdr_raise_en, hdk]; exact (hen p).1
    · rw [a0 n _ (by rw [raise_axes, ← hd]; simp only [wr_axes])]; exact (hax n).1
    · rw [raise_pwr, ← hd]; simp only [wr_pwr]
    · rw [raise_pwr, ← hd]; simp [hp]
    · rw [raise_pwr, ← hd]; simp [hp]
    · rw [raise_pwr, ← hd]; simp [hp]
    · rw [raise_keep, ← hd]; simp only [wr_keep]
    · rw [raise_keep, ← hd]; simp only [wr_keep]
    · rw [raise_keep, ← hd]; simp only [wr_keep]
    · rw [raise_keep, ← hd]; simp only [wr_keep]
    · rw [raise_keep, ← hd]; simp only [wr_keep]
    · rw [raise_keep, ← hd]; simp only [wr_keep]
    · rw [rd_raise, ← hd, rd_wr_ne _ _ _ _ _ _ (pageBase_ne (by decide) (by decide) (by decide)), rd_wr_ne _ _ _ _ _ _ (pageBase_ne (by decide) (by decide) (by decide)), rd_wr_ne _ _ _ _ _ _ (pageBase_ne (by decide) (by decide) (by decide))]; rfl
    · rw [rd_raise, ← hd, rd_wr]
  · simp only [if_neg h4, decide_eq_false h4, Bool.false_eq_true, if_false]
    generalize saveTop 0 = w
    generalize hd : wr .kep 0x050 _ _ = d
    have hdk : ∀ q, hdr d q = hdr c q := fun q => by rw [← hd]; rfl
    obtain ⟨l1, l2⟩ := latchCond_off d .kep 0xC2 (by rw [hdk]; exact (hen .kep).2.1) (by unfold standing; rw [hdk]; exact hc)
    refine ⟨fun p => ?_, fun n => ?_, ?_, ?_, ?_, ?_, ?_, ?_, ?_, ?_, ?_, ?_, ?_, ?_, fun _ => l2⟩
    · rw [l1, hdk]; exact (hen p).1
    · rw [a0 n _ (by rw [latchCond_axes, ← hd]; rfl)]; exact (hax n).1
    · rw [latchCond_pwr, ← hd]; rfl
    · rw [latchCond_pwr, ← hd]; simp [hp]
    · rw [latchCond_pwr, ← hd]; simp [hp]
    · rw [latchCond_pwr, ← hd]; simp [hp]
    · rw [latchCond_keep, ← hd]; rfl
    · rw [latchCond_keep, ← hd]; rfl
    · rw [latchCond_keep, ← hd]; rfl
    · rw [latchCond_keep, ← hd]; rfl
    · rw [latchCond_keep, ← hd]; rfl
    · rw [latchCond_keep, ← hd]; rfl
    · rw [rd_latchCond_off d _ _ (by rw [hdk]; exact (hen .kep).2.1), ← hd, rd_wr_ne _ _ _ _ _ _ (pageBase_ne (by decide) (by decide) (by decide)), rd_wr_ne _ _ _ _ _ _ (pageBase_ne (by decide) (by decide) (by decide)), rd_wr_ne _ _ _ _ _ _ (pageBase_ne (by decide) (by decide) (by decide))]; rfl
    · rw [rd_latchCond_off d _ _ (by rw [hdk]; exact (hen .kep).2.1), ← hd, rd_wr]

theorem hdr_spliceCut_en (p : Page) (c : Chip) (q : Page) : (hdr (spliceCut p c) q).en = (hdr c q).en := by
  unfold spliceCut; split
  · unfold spliceOver
    rw [calm_hdr (calm_logSplice p 5 (raise p 5 (modHdr p (fun h => { h with spliceReq := false, spliceFrom := none }) (restoreFormer p c)))) q, hdr_raise_en]
    by_cases e : q = p
    · rw [e, hdr_modHdr]; show (hdr (restoreFormer p c) p).en = _; rw [hdr_pages (restoreFormer_pages p c)]
    · rw [hdr_modHdr_ne _ _ _ _ e, hdr_pages (restoreFormer_pages p c)]
  · rfl

theorem hdr_latchFault_en (p : Page) (code : Byte) (c : Chip) (q : Page) : (hdr (latchFault p code c) q).en = (hdr c q).en := by
  unfold latchFault; dsimp only
  have g1 : ∀ (h : PageHdr) (d : Chip), h.en = (hdr c p).en → (∀ q, (hdr d q).en = (hdr c q).en) → (hdr (setHdr p h d) q).en = (hdr c q).en := by
    intro h d hh hd
    by_cases e : q = p
    · subst e; rw [hdr_setHdr]; exact hh
    · rw [hdr_setHdr_ne _ _ _ _ e]; exact hd q
  have g2 : (hdr (if (hdr c p).fltCode = 0 then raise p 0 (setHdr p { hdr c p with fltCode := code, fltCount := min 255 ((hdr c p).fltCount + 1), fltSeq := c.faultSeq + 1 } { c with faultSeq := c.faultSeq + 1 }) else setHdr p { hdr c p with fltCount := min 255 ((hdr c p).fltCount + 1) } c) q).en = (hdr c q).en := by
    split
    · rw [hdr_raise_en]; exact g1 _ _ rfl (fun _ => rfl)
    · exact g1 _ _ rfl (fun _ => rfl)
  generalize (if (hdr c p).fltCode = 0 then _ else _ : Chip) = d at g2 ⊢
  split
  · rw [hdr_setState_en]; exact g2
  · rw [hdr_setState_en]; exact g2
  · rw [hdr_setState_en, hdr_spliceCut_en]; exact g2
  · exact g2

theorem saveTop_field (n : Nat) (h : 4 ≤ n) (h2 : n ≤ 64) : fld (BitVec.ofNat 32 (saveTop n)) 25 12 * 4096 = saveTop n := by
  unfold saveTop; rw [if_pos h]
  have : n ∈ (List.range 65).filter (fun n => 4 ≤ n) := by simp; omega
  revert n; decide

theorem restore_facts (m : SaveImg) (s : State) : (restoreSave m s).chip.pwr.lastSave = 1 ∧ (restoreSave m s).chip.pwr.notSaved = false ∧ (restoreSave m s).chip.cmd.held = m.ring := by
  unfold restoreSave; dsimp only [onChip]
  generalize (restoreEn m _).chip = c
  have k : (restoreCmds m (restoreAxes m c)).cmd.held = m.ring := by
    unfold restoreCmds; dsimp only
    exact (each_keeps (β := List Completion) (fun c => c.cmd.held) _ (fun x c => by unfold pushOrphan; rw [raise_cmd]) _ _).trans rfl
  generalize restoreCmds m (restoreAxes m c) = d at k ⊢
  obtain ⟨r1, r2, r3, r4, r5, r6, r7, r8, r9, r10, r11⟩ := restoreInteg_facts (modPwr (fun w => { w with lastSave := 1, notSaved := false, savedInteg := m.integ }) d)
  refine ⟨?_, ?_, ?_⟩
  · rw [raise_pwr]; dsimp only; rw [r6]; rfl
  · rw [raise_pwr]; dsimp only; rw [r6]; rfl
  · rw [raise_cmd]; dsimp only; rw [r4]; exact k

end Sys2Proof.Laws.StartUpFacts
end

