-- ==== Sys2Proof/Laws/UartOps.lean ====
section
/-!
SUPPORT. A UART request that is new, and the page an offset falls in.
-/

namespace Sys2Proof.Laws.UartOps

open Sys2Proof Sys2Proof.Machine

theorem uart_new (s : State) (r : UartReq) (h : UartNew s r) : uartRequest r s = uartRequest.go r s := by
  obtain ⟨h1, h2, h3, h4⟩ := h
  unfold uartRequest; dsimp only
  rw [if_neg (by simp [h1]), if_neg (by simp [h2, h3])]
  cases e : s.chip.dbg.uartLast with
  | none => rfl
  | some x =>
    have := h4 x e
    obtain ⟨q, st, v⟩ := x
    dsimp only; rw [if_neg this]

theorem base_div (p : Page) (off : Nat) (h : off < 0x1000) : (pageBase p + off) / 0x1000 = pageNum p ∧ (pageBase p + off) % 0x1000 = off ∧ pageBase p + off < 0x400000 := by
  have h1 := pageNum_lt p
  unfold pageBase; omega

theorem sec_num (p : Page) (h : p ≠ .sec) : (pageNum p == pageNum .sec) = false := by
  rw [beq_eq_false_iff_ne]; intro e; exact h (pageNum_inj e)

theorem may_write_no (c : Chip) (p : Page) (off : Nat) (h : off < 0x1000) (hl : c.dbg.level < 2) (hp : p ≠ .sec) : uartMay c true (pageBase p + off) = false := by
  obtain ⟨a, b, d⟩ := base_div p off h
  unfold uartMay; dsimp only; rw [a, sec_num p hp, decide_eq_false (show ¬ 2 ≤ c.dbg.level by omega)]; simp

end Sys2Proof.Laws.UartOps
end

