-- ==== Sys2Proof/Laws/UnlockOps.lean ====
section
/-!
SUPPORT. UNLOCK, with a token that holds and with one that does not.
-/

namespace Sys2Proof.Laws.UnlockOps

open Sys2Proof Sys2Proof.Machine

theorem secOp_can (path : Path) (f : Chip → Chip) (s : State) (h : CanWrite s path .sec) : secOp path f s = onChip (fun c => secWritten path (f c)) s := by
  obtain ⟨h1, h2, h3⟩ := h
  unfold secOp; rw [if_neg (by simp [h1])]
  refine onChip_congr ?_
  dsimp only
  rw [if_neg (by rintro ⟨a, b⟩; rcases h2 with h2 | h2; exact a h2; exact b h2), if_neg (by simp [h3])]
  unfold secWritten; split <;> rfl

theorem doUnlock (s : State) (path : Path) (h g : Bool) (hc : CanWrite s path .sec) (f : Chip → Chip) (e : unlockToken path h g s.chip = f s.chip) :
    exec (.unlock path h g) s = .next (onChip (fun c => secWritten path (f c)) s) := by
  simp only [exec, execUnlock]; rw [secOp_can _ _ _ hc]; refine congrArg _ (onChip_congr ?_); rw [e]

theorem notLocked_dec (c : Chip) (h : NotLocked c) : unlockLocked c = false := by
  unfold unlockLocked
  cases e : c.sec.lockout with
  | none => rfl
  | some t => have := h t e; simp; omega

theorem unlock_bad (path : Path) (h g : Bool) (c : Chip) (hn : NotLocked c) (hb : tokenOk c path h g = false) :
    unlockToken path h g c = raise .sec 9 { c with sec := secEnd path 3 0 { c.sec with challenge := none, lockout := some c.clk.now } } := by
  unfold unlockToken; dsimp only; rw [if_neg (by rw [notLocked_dec c hn]; decide), if_pos (by rw [hb]; rfl)]; rfl

theorem unlock_good (path : Path) (h g : Bool) (c : Chip) (hn : NotLocked c) (hb : tokenOk c path h g = true) (level : Nat) (hl : fld (token c path 1) 7 0 = level) :
    unlockToken path h g c = raise .sec 8 (secRes path 2 0 (modDbg (fun d => { d with expiry := some (c.clk.now + (token c path 8).toNat * 1000000000) })
      (if level = 4 then modSec (fun x => { x with scrapAuth := some c.clk.now }) (modSec (fun x => { x with challenge := none, lockout := none }) c)
       else setLevel level (modDbg (fun d => { d with byToken := true, issuer := bit (token c path 1) 8 }) (modSec (fun x => { x with challenge := none, lockout := none }) c))))) := by
  have hl' : fld (tokenWord c path 1) 7 0 = level := hl
  unfold unlockToken; dsimp only; rw [if_neg (by rw [notLocked_dec c hn]; decide), if_neg (by rw [hb]; decide), hl']; rfl

theorem tokenOk_fields (c : Chip) (path : Path) (level issuer secs : Nat) (h : TokenFields c path level issuer secs) (hi : issuer ≤ 1) :
    tokenOk c path true true = (tokenPermits c.sec.life level issuer && levelAllowed c level) := by
  obtain ⟨a, b, d, e, f, ⟨x, t, g1, g2, g3⟩, i, j, k, l⟩ := h
  unfold tokenOk; dsimp only
  have b' : fld (tokenWord c path 1) 7 0 = level := b
  have d' : fld (tokenWord c path 1) 15 8 = issuer := d
  have e' : fld (tokenWord c path 1) 31 16 = 0 := e
  have l' : (List.range 7).all (fun i => tokenWord c path (9 + i) == 0) = true := by
    rw [List.all_eq_true]; intro i hi; have : tokenWord c path (9 + i) = 0 := l i (by simpa using hi)
    rw [this]; rfl
  have a' : tokenWord c path 0 = 0x4E4B4F54 := a
  have f' : joinHalves (tokenWord c path 3) (tokenWord c path 2) = Config.uid := f
  have i' : (tokenWord c path 8).toNat = secs := i
  have g3' : x.toNat = (tokenWord c path 4).toNat + (tokenWord c path 5).toNat * 2 ^ 32 + (tokenWord c path 6).toNat * 2 ^ 64 + (tokenWord c path 7).toNat * 2 ^ 96 := g3
  rw [b', d', e', l', a', f', i', g1]; dsimp only; rw [g3']
  simp [hi, g2, j, k]

end Sys2Proof.Laws.UnlockOps
end

