-- ==== Sys2Proof/WellFormed.lean ====
section
/-!
DEFINITION. Well-formed commands: the operands that the constructors' types leave too wide are within what the rules of the rows
give them (a fetch of at most four entries, a list as long as its count, a core's word of the row's own class). The outside world
hands the block well-formed commands; the machine itself runs every command, well formed or not.
-/

namespace Sys2Proof

open Sys2Proof.Machine

/-- No element stands twice. -/
def noRepeat {α : Type} [DecidableEq α] (l : List α) : Bool := decide l.Nodup

/-- A time of day (R6): the nanoseconds and the fraction in their ranges. -/
def wfStamp (t : Stamp) : Bool := decide (t.ns < 1000000000) && decide (t.frac < 65536)

/-- A submission entry's common part as fetched from 64 bytes (Table 3-2): the START fields in their widths, the nanoseconds not
yet checked (R7). -/
def wfHdr (h : Hdr) : Bool := decide (h.start.s < 2 ^ 48) && decide (h.start.ns < 2 ^ 32) && decide (h.start.frac < 65536)

/-- What a fetch returns: at most the 1,024 accesses of the longest list of R63. -/
def wfFetched (e : Fetched) : Bool := e.buf.all (fun l => decide (l.length ≤ 1024))

/-- A frame whose payload fits in it. -/
def wfFrame (f : EthFrame) : Bool := decide (f.data.length ≤ f.len)

/-- An IPv4 header whose options fill whole words. -/
def wfIp (h : IpHdr) : Bool := decide (h.options.length ≤ 40) && decide (h.options.length % 4 = 0)

/-- A datagram that a frame can carry. -/
def wfDgram (g : Dgram) : Bool := wfIp g.ip && decide (g.body.length ≤ 1472)

/-- A body whose OP byte is the row's, or names no operation of Table 4-5. -/
def wfBody (b : YcpBody) : Bool :=
  decide (b.rest.length ≤ 1464) && (match b.op with | some o => o == 0 || decide (6 ≤ o.toNat) | none => true)

/-- The operands of a command are within what its row's rules give them. -/
def wellFormed : Instr → Bool
  | .clockLoss .. => true
  | .frameKnot late _ => noRepeat late
  | .currentSample _ bits phaseErr overrun => noRepeat (bits.map Prod.fst) && noRepeat (phaseErr.map Prod.fst) && noRepeat overrun
  | .blockWatchdog .. => true
  | .pageEnable .. => true
  | .pageDisable .. => true
  | .pgReset .. => true
  | .pageResetComplete .. => true
  | .sealPage .. => true
  | .sealCrcCheck .. => true
  | .spliceReq .. => true
  | .spliceLimitExpiry .. => true
  | .pgEvtWrite .. => true
  | .pgEvenWrite .. => true
  | .pgEvsetWrite .. => true
  | .pgFltClear .. => true
  | .pgApply .. => true
  | .apply .. => true
  | .pgOwnerWrite .. => true
  | .registerWrite path off _ more full => decide (off.toNat % 4 = 0) && (path == .pcie || (more == [] && full))
  | .pairLoRead path off more full => decide (off.toNat % 4 = 0) && (path == .pcie || (more == 0 && full))
  | .pairLoWrite _ off _ => decide (off.toNat % 4 = 0)
  | .pairHiWrite _ off _ => decide (off.toNat % 4 = 0)
  | .evtMaskWrite .. => true
  | .vectorMessage .. => true
  | .sqTailDb .. => true
  | .sqReset .. => true
  | .cqHeadDb .. => true
  | .sqSizeWrite .. => true
  | .cqSizeWrite .. => true
  | .ringResizeApply .. => true
  | .cqEnable .. => true
  | .heldCompletionPost => true
  | .commandFetch entries => decide (entries.length ≤ 4) && entries.all (fun e => e.all wfFetched)
  | .regBatch h list count _ => wfHdr h && list.all (fun l => decide (l.length = count.toNat))
  | .moveAbs h _ _ _ _ _ _ => wfHdr h
  | .moveRel h _ _ _ _ _ _ => wfHdr h
  | .moveVel h _ _ _ _ _ => wfHdr h
  | .stop h _ _ => wfHdr h
  | .resume h _ => wfHdr h
  | .home h _ _ _ _ _ _ _ => wfHdr h
  | .enable h _ _ => wfHdr h
  | .groupMove h _ targets count _ _ _ _ _ => wfHdr h && targets.all (fun l => decide (l.length = count.toNat))
  | .hitchSet h _ _ => wfHdr h
  | .camReadDone .. => true
  | .hitchRelease h _ _ => wfHdr h
  | .camLoad h _ _ => wfHdr h
  | .camVerify h _ _ _ => wfHdr h
  | .fcoLoad h _ _ => wfHdr h
  | .traceStart h => wfHdr h
  | .traceStop h => wfHdr h
  | .faultClear h _ => wfHdr h
  | .saveTest h => wfHdr h
  | .bar2Write addr (.write bytes) => decide (0 < bytes.length) && decide (bytes.length ≤ 256) && decide (addr.toNat + bytes.length ≤ 2 ^ 30)
  | .bar2Write addr (.read n) => decide (0 < n) && decide (n ≤ 512) && decide (addr.toNat + n ≤ 2 ^ 30)
  | .frameRx _ f _ => wfFrame f
  | .frameTransmit .. => true
  | .gclEntryChange .. => true
  | .addressAgeing .. => true
  | .linkUp .. => true
  | .linkDown .. => true
  | .netMdioGo .. => true
  | .mdioDone .. => true
  | .icmpEchoRequest h data => decide (data.length ≤ 1476) && wfIp h
  | .ycpOpen _ g .. => wfDgram g
  | .ycpKeepalive _ g => wfDgram g
  | .ycpClose _ g => wfDgram g
  | .ycpRead _ g b => wfDgram g && wfBody b
  | .ycpWrite _ g b => wfDgram g && wfBody b
  | .ycpReadBlock _ g b => wfDgram g && wfBody b
  | .ycpWriteBlock _ g b => wfDgram g && wfBody b
  | .ycpCommand _ g b buf => wfDgram g && wfBody b && (match buf with | some l => decide (l.length ≤ 1024) | none => true)
  | .sessionPendingTimeout .. => true
  | .sessionTimeout .. => true
  | .sesClose .. => true
  | .ycpOrphanPop .. => true
  | .hitchFramePublish => true
  | .hitchFrameRx _ _ f => decide (1 ≤ f.entries.length) && decide (f.entries.length ≤ 32) && wfStamp f.sample
  | .subscriptionMiss .. => true
  | .pllLock => true
  | .timNowRead .. => true
  | .ppsinEdge .. => true
  | .timHostOfs .. => true
  | .timSetNs .. => true
  | .timeStep => true
  | .holdover => true
  | .syncRx .. => true
  | .followUpRx .. => true
  | .delayReqRx .. => true
  | .delayRespRx .. => true
  | .pdelayReqRx .. => true
  | .pdelayRespRx .. => true
  | .announceRx _ _ body => decide (body.length ≤ 16)
  | .announcePop .. => true
  | .syncTx .. => true
  | .announceTx .. => true
  | .delayReqTx .. => true
  | .knotFire .. => true
  | .knotPulseEnd .. => true
  | .captureEdge .. => true
  | .capPop .. => true
  | .hardwareLimitEdge .. => true
  | .homeReferenceEdge .. => true
  | .homeDwellEnd .. => true
  | .latArm .. => true
  | .latchEdge .. => true
  | .latfPop .. => true
  | .compareSpareSwitch .. => true
  | .lpaObsSeqRead .. => true
  | .mdlWrite .. => true
  | .estimateStopEnd .. => true
  | .brkfbTimeout .. => true
  | .tripIn .. => true
  | .busVMaxWrite .. => true
  | .carrierBoundary .. => true
  | .carrierCentre .. => true
  | .ocTrip .. => true
  | .delayLineCalDone .. => true
  | .fineFallback .. => true
  | .replicaRelock .. => true
  | .stoOn .. => true
  | .stoOff .. => true
  | .encoderEdge .. => true
  | .index .. => true
  | .toothEdge .. => true
  | .ssiReadStart .. => true
  | .ssiWord .. => true
  | .ssiIdleTimeout .. => true
  | .f2Edge .. => true
  | .alignEnd .. => true
  | .catchTimeout .. => true
  | .coastEnd .. => true
  | .retryClear .. => true
  | .commandPinEdge .. => true
  | .cmdLost .. => true
  | .snlTestStart .. => true
  | .conversionDone .. => true
  | .knotListStart .. => true
  | .adcSeqRead .. => true
  | .adcStart .. => true
  | .calAll .. => true
  | .calDone _ _ _ weights => decide (weights.length = 18)
  | .referenceFault .. => true
  | .stuck .. => true
  | .sdfSeqRead .. => true
  | .aluRegister _ w => cls w == 0
  | .aluImmediate _ w => cls w == 1
  | .mac _ w => cls w == 2 && fld w 27 26 == 0
  | .msu _ w => cls w == 2 && fld w 27 26 == 1
  | .mpy _ w => cls w == 2 && fld w 27 26 == 2
  | .mac2 _ w => cls w == 2 && fld w 27 26 == 3
  | .localLoad _ w => cls w == 3 && !bit w 27
  | .localStore _ w => cls w == 3 && bit w 27
  | .externalLoad _ w => isExt false w
  | .externalLoadReturn .. => true
  | .externalStore _ w => isExt true w
  | .branch _ w => cls w == 5 && !bit w 23 && !bit w 22
  | .call _ w => cls w == 5 && bit w 23 && !bit w 22
  | .ret _ w => cls w == 5 && !bit w 23 && bit w 22
  | .loopStart _ w => cls w == 6 && !bit w 27
  | .iterStart _ w => cls w == 6 && bit w 27
  | .minx _ w => cls w == 7 && !bit w 27
  | .maxx _ w => cls w == 7 && bit w 27
  | .clra _ w => isAcc 0 w
  | .adda _ w => isAcc 1 w
  | .mva _ w => isAcc 2 w
  | .cwpk _ w => isAcc 3 w
  | .cwup _ w => isAcc 4 w
  | .next _ w => isSys 0 w
  | .done _ w => isSys 1 w
  | .fail _ w => isSys 2 w
  | .yield _ w => isSys 3 w
  | .sync _ w => isSys 4 w
  | .hevt _ w => isSys 5 w
  | .rti _ w => isSys 6 w
  | .movs _ w => isSys 7 w
  | .coreInterruptEntry .. => true
  | .itemWatchdog .. => true
  | .fcoDoorbell .. => true
  | .submit .. => true
  | .dispatcherCycle => true
  | .delayExpiry .. => true
  | .preLate .. => true
  | .affinityTimeout .. => true
  | .starved .. => true
  | .dspCancel .. => true
  | .dspCancelFlow .. => true
  | .dspFlowCfg .. => true
  | .dspCqHead .. => true
  | .drain .. => true
  | .drained .. => true
  | .drainTimeout .. => true
  | .coilWrite => true
  | .trcRpWrite .. => true
  | .trcCoilSizeWrite .. => true
  | .trcForce .. => true
  | .trcMark .. => true
  | .sequencerTimer .. => true
  | .holdoffEnd => true
  | .trcCalStart .. => true
  | .trcCalDone => true
  | .fieldInputEdge .. => true
  | .tetherFrameTx .. => true
  | .downlinkFrame f _ => wfStamp f.tTx && decide (f.sched.length ≤ 4)
  | .uplinkFrame f _ _ => wfStamp f.tField && decide (f.events.length ≤ 7)
  | .fldConfigWrite .. => true
  | .scheduleExecute .. => true
  | .schedulePulseEnd .. => true
  | .short .. => true
  | .fldShortClear .. => true
  | .groupOver .. => true
  | .fldGroupEnWrite .. => true
  | .tetherSilent => true
  | .fieldSilence => true
  | .sil2Expiry .. => true
  | .vfieldSample .. => true
  | .fieldPowerUp => true
  | .belayCycle .. => true
  | .belayStartDone .. => true
  | .programFlowFault => true
  | .memoryMarch .. => true
  | .testPulse .. => true
  | .ss1Elapsed .. => true
  | .resetPulse .. => true
  | .soutTest .. => true
  | .blyCommit .. => true
  | .commitWriteDone => true
  | .restart .. => true
  | .scrubWord .. => true
  | .dramRefresh => true
  | .dramTempRead .. => true
  | .zqCalibration => true
  | .dramTrained .. => true
  | .dramSelfRefresh => true
  | .memElogPop .. => true
  | .memInj .. => true
  | .kepSaveBaseWrite .. => true
  | .powerOnReset env => decide (env.boot.length ≤ 2 ^ 26)
  | .bootDone => true
  | .warmResetPin .. => true
  | .warmReset .. => true
  | .flr => true
  | .rail _ env => decide (env.bytes < 2 ^ 32)
  | .sag env => decide (env.bytes < 2 ^ 32)
  | .saveRestart env => decide (env.boot.length ≤ 2 ^ 26)
  | .newChallenge .. => true
  | .challengeLapse => true
  | .unlock .. => true
  | .unlockLockoutEnd => true
  | .levelLapsed => true
  | .provision .. => true
  | .sealDevice .. => true
  | .scrap .. => true
  | .transitionDone => true
  | .programKey .. => true
  | .revokeKey .. => true
  | .storePsk .. => true
  | .dbgLevelWrite .. => true
  | .uartRead r => r.op == 1
  | .uartWrite r => r.op == 2
  | .uartGapTimeout => true
  | .halt .. => true
  | .debugResume .. => true
  | .dbgFcoStep .. => true
  | .pwrStateRun .. => true
  | .pwrStateHold .. => true
  | .pwrStateDoze .. => true
  | .devSpliceLogPop .. => true
  | .pllUnlock .. => true
  | .clockReturn .. => true
  | .pcieLinkUp => true
  | .pcieLinkDown => true
  | .stepPulse .. => true
  | .cmpPulseEnd .. => true
  | .loadDone .. => true
  | .camVerifyDone => true
  | .imageChecked image _ _ => image.all (fun l => decide (l.length < 2 ^ 32))
  | .imageLoaded .. => true
  | .saveTestDone env _ => decide (env.bytes < 2 ^ 32)
  | .comparatorRelease .. => true
  | .tripRelease .. => true
  | .referenceRecovered .. => true
  | .safetyInputEdge .. => true
  | .porstNLow => true

end Sys2Proof
end

