-- ==== Sys2Proof/Tests/Slice0.lean ====
section
/-!
SUPPORT. Ill-formed commands that are refused, small tests with results from the spec, and for each statement a state and operands
that meet its hypotheses.
-/

set_option Elab.async false

namespace Sys2Proof.Tests

open Sys2Proof Sys2Proof.Machine

/-- A state of its chip alone. -/
def chipOnly (c : Chip) : State := { State.reset with chip := c }

/-- The chip after reset, at a time when every timeout has run out. -/
def old : Chip := { clk := { now := 1000000000000 } }

def up : State := chipOnly old

/-- Registers written, and values in force. -/
def put (rs : List (Page × Nat × Word)) (c : Chip) : Chip := rs.foldl (fun c r => wr r.1 r.2.1 r.2.2 c) c
def inForce (rs : List (Page × Nat × Word)) (c : Chip) : Chip := rs.foldl (fun c r => wr r.1 (r.2.1 + 0x800) r.2.2 c) c

/-- Pages enabled and in RUN. -/
def running (ps : List Page) (c : Chip) : Chip := ps.foldl (fun c p => setHdr p { hdr c p with en := true, state := .run } c) c

/-- Pages whose header is given. -/
def heads (p : Page) (h : PageHdr) (c : Chip) : Chip := setHdr p h c

def frame64 : EthFrame := { dst := 1, src := 2, etype := 0x800, len := 64 }

/-- The IPv4 header of a packet to the endpoint's reset address, its checksum right. -/
def ipOf (src : Word) (proto : Byte) : IpHdr :=
  let h : IpHdr := { src := src, dst := rd {} .ycp 0x048 }
  { h with sum := inetSum (ipBytes h proto) }

/-- A YCP datagram to the endpoint from port 2 of address 1, without a UDP checksum: its body, its sequence number, and its tag if its type
carries one. -/
def dgram (seq : Word) (body : List Byte) (tag : Option (BitVec 128)) : Dgram :=
  { ip := ipOf 1 17, sport := 2, dport := ycpPort {}, udpLen := BitVec.ofNat 16 (20 + body.length + (if tag.isSome then 16 else 0)),
    length := BitVec.ofNat 16 body.length, seq := seq, body := body, tag := tag.getD 0 }

def dg : Dgram := dgram 1 [] none
def rdBody : YcpBody := {}
def wrBody : YcpBody := { rest := [0, 0, 0, 0] }
def cmdBody : YcpBody := { rest := List.replicate 64 0 }

/-- The YCP endpoint up, with session 3 as given, of port 2 of address 1. -/
def sesUp (x : Session) : State := chipOnly (running [.ycp] (put [(.ycp, 0x040, 0x11)] { old with ycp.ses := [(3, { x with ip := 1, port := 2 })] }))

/-- Session 3 open with key 5 and request 100 next. -/
def opened : Session := { state := .opened, key := 5, exp := 100 }

/-- A datagram of session 3 with a body in the clear and a tag under key 5. -/
def taggedGram (typ : Byte) (seq : Word) : Dgram :=
  dgram seq [] (some (Config.gcmTag 5 (gcmNonce 0 typ 3 seq) (dgramHeader typ 3 (dgram seq [] (some 0))) []))
def msg : PtpMsg := {}
def h0 : Hdr := { ring := 0, index := 0, tag := 0 }

theorem pair_none {α β : Type} (x : α × Option β) (h : x.2 = none) : x = (x.1, none) := by cases x; simp_all

/-- The row of a page's register at an offset. -/
def rowAt (p : Page) (o : Nat) : Reg :=
  match findRow (pageRows p) o with
  | some x => x.1
  | none => { name := "", off := 0, acc := .ro }

/-- The CMD page in RUN with ring 0 and the completion ring enabled. -/
def ringsUp : Chip := running [.cmd] (put [(.cmd, 0x04C, 1), (.cmd, 0x0CC, 1)] { old with cmd.sq := [(0, { tail := 1 })] })

/-- Two nodes of a cam: one at 0, and the END node one after it. -/
def camState : State :=
  let s : State := chipOnly { old with memc.initGiB := 1, memc.dramOk := true, hits := [(255, { reading := some 1 })] }
  { s with mem := { cells := [(cellKey .dram 17, 0x60), (cellKey .dram 28, 1)] } }

/-- The header of a loop image: 8 bytes of program and no data. -/
def smallImage : List Byte :=
  toBytes 4 fcoMagic ++ [1, 0, 0, 0, 0, 0, 0, 0, 8, 0, 0, 0] ++ List.replicate 152 0

/-- The page of axis `n` in RUN, with 1 count per s (s², s³) for its limits, and the axis as given. -/
def axisUp (n : Fin 160) (a : Axis) : Chip :=
  running [.axm n] (inForce
    [(.axm n, 0x070, 0x1000000), (.axm n, 0x078, 0x1000000), (.axm n, 0x080, 0x1000000), (.axm n, 0x088, 0x1000000), (.axm n, 0x090, 0x1000000),
     (.axm n, 0x0A0, 0x1000000)] { old with axes := [(n.val, a)] })

/-- Core 7 at PC 0 with the word `w` there, and else as given. -/
def coreState (w : Word) (x : CoreSt) : State :=
  let s : State := chipOnly (running [.fco 7] { old with cores := [(7, { x with imageOk := true })] })
  { s with mem := ((List.range 4).zip (toBytes 4 w.toNat)).foldl (fun m q => setMemByte .core (7 * 0x20000 + q.1) q.2 m) s.mem }

/-- A class 2 word with both pair loads, its pointers at the start of DM0 and DM1. -/
def macState (op : Nat) : State := coreState (BitVec.ofNat 32 (0x20008200 + op * 2 ^ 26)) { ap := [(0, 0x10000), (4, 0x18000)] }

/-- A UART request with its CRC-8. -/
def uart (op : Byte) (off : BitVec 24) : UartReq :=
  { seq := 1, op := op, off := off
    crc := BitVec.ofNat 8 (crcMsb 8 0x07 0 ([0xA5, 1, op] ++ (toBytes 3 off.toNat).reverse ++ (toBytes 4 0).reverse)) }

/-- A token of this device with level, issuer and 86,400 s, answering the challenge 0. -/
def withToken (level issuer : Nat) (c : Chip) : Chip :=
  { c with
    sec := { c.sec with challenge := some (0, c.clk.now) }
    held :=
      [(0x1003200, 0x4E4B4F54), (0x1003204, BitVec.ofNat 32 (level + 256 * issuer)), (0x1003208, Config.uid.extractLsb' 0 32),
       (0x100320C, Config.uid.extractLsb' 32 32), (0x1003220, 86400)] }

/-! ### Ill-formed commands are refused -/

theorem wf_frameKnot : wellFormed (.frameKnot [1, 1] 0) = false := by decide
theorem wf_currentSample_bits : wellFormed (.currentSample 0 [(1, []), (1, [])] [] []) = false := by decide
theorem wf_currentSample_phase : wellFormed (.currentSample 0 [] [(1, 0), (1, 2)] []) = false := by decide
theorem wf_currentSample_overrun : wellFormed (.currentSample 0 [] [] [1, 1]) = false := by decide
theorem wf_registerWrite : wellFormed (.registerWrite .pcie 0x042 0 [] true) = false := by decide
theorem wf_pairLoRead : wellFormed (.pairLoRead .pcie 0x041 0 true) = false := by decide
theorem wf_pairLoWrite : wellFormed (.pairLoWrite .pcie 0x041 0) = false := by decide
theorem wf_pairHiWrite : wellFormed (.pairHiWrite .pcie 0x041 0) = false := by decide
theorem wf_commandFetch_five : wellFormed (.commandFetch [none, none, none, none, none]) = false := by decide
theorem wf_commandFetch_list : wellFormed (.commandFetch [some { entry := 0, buf := some (List.replicate 1025 0) }]) = false := by decide +kernel
theorem wf_hdr : wellFormed (.stop { h0 with start := { s := 2 ^ 48 } } 0 0) = false := by decide +kernel
theorem wf_regBatch : wellFormed (.regBatch h0 (some [0]) 2 false) = false := by decide +kernel
theorem wf_groupMove : wellFormed (.groupMove h0 0 (some [0]) 2 false 0 0 0 0) = false := by decide +kernel
theorem wf_bar2Write_empty : wellFormed (.bar2Write 0 (.write [])) = false := by decide
theorem wf_bar2Write_end : wellFormed (.bar2Write 0x3FFFFFFF (.write [none, none])) = false := by decide +kernel
theorem wf_frameRx : wellFormed (.frameRx 0 { frame64 with data := List.replicate 65 0 } true) = false := by decide +kernel
theorem wf_icmp : wellFormed (.icmpEchoRequest (ipOf 1 1) (List.replicate 1477 0)) = false := by decide +kernel
theorem wf_ycpWriteBlock : wellFormed (.ycpWriteBlock 0 dg { op := some 2 }) = false := by decide +kernel
theorem wf_ycpCommand : wellFormed (.ycpCommand 0 dg {} (some (List.replicate 1025 0))) = false := by decide +kernel
theorem wf_hitchFrameRx_stamp : wellFormed (.hitchFrameRx 0 0 { ndiv := 1, locked := true, restart := false, step := false, pubId := 0, epoch := 0, seq := 0, sample := { ns := 1000000000 }, entries := [] }) = false := by decide
theorem wf_hitchFrameRx_entries : wellFormed (.hitchFrameRx 0 0 { ndiv := 1, locked := true, restart := false, step := false, pubId := 0, epoch := 0, seq := 0, sample := {}, entries := List.replicate 33 { pos := 0, vel := 0, status := 0 } }) = false := by decide
theorem wf_announceRx : wellFormed (.announceRx 0 msg (List.replicate 17 0)) = false := by decide
theorem wf_calDone : wellFormed (.calDone 0 0 0 []) = false := by decide
theorem wf_aluRegister : wellFormed (.aluRegister 0 0x10000000) = false := by decide
theorem wf_mac : wellFormed (.mac 0 0x24000000) = false := by decide
theorem wf_externalLoad : wellFormed (.externalLoad 0 0x48000000) = false := by decide
theorem wf_branch : wellFormed (.branch 0 0x50800000) = false := by decide
theorem wf_movs : wellFormed (.movs 0 0x90000000) = false := by decide
theorem wf_downlinkFrame : wellFormed (.downlinkFrame { sched := List.replicate 5 {} } true) = false := by decide
theorem wf_uplinkFrame : wellFormed (.uplinkFrame { events := List.replicate 8 {} } true 0) = false := by decide
theorem wf_saveTestDone : wellFormed (.saveTestDone { bytes := 2 ^ 32 } 0) = false := by decide +kernel
theorem wf_sag : wellFormed (.sag { bytes := 2 ^ 32 }) = false := by decide +kernel
theorem wf_uartRead : wellFormed (.uartRead (uart 2 0)) = false := by decide +kernel
theorem wf_uartWrite : wellFormed (.uartWrite (uart 1 0)) = false := by decide +kernel
theorem wf_rail : wellFormed (.rail 0 { bytes := 2 ^ 32 }) = false := by decide +kernel
theorem wf_pairLoRead_more : wellFormed (.pairLoRead .uart 0x040 1 true) = false := by decide
theorem wf_ycpOpen : wellFormed (.ycpOpen 0 { dg with ip.options := [0] } 0 0 0 0) = false := by decide +kernel

/-! ### Small tests; the results are the spec's -/

/-- The chip that a command leaves. -/
def after (i : Instr) (s : State) : Chip :=
  match exec i s with
  | .next t => t.chip
  | _ => s.chip

/-- spec/00, resources of axis 77. -/
theorem test_axis77 : (pageBase (.axm 77), pageBase (.lpa 77), pageBase (.mod 77), pageBase (.fbk 77), pageBase (.snl 77)) =
    (0x06D000, 0x14D000, 0x1DD000, 0x26D000, 0x34D000) ∧ busOf {} 77 = 9 := by decide +kernel

/-- spec/02, two paths on one modulator page: PG_ID, and step 1. -/
theorem test_mod5_id : pageId (.mod 5) = 0x40010005 ∧ pageOfNum 0x195 = some (.mod 5) := by decide +kernel

def mod5 : State := chipOnly (heads (.mod 5) { gen := 41 } old)

theorem test_owner_taken : (hdr (after (.pgOwnerWrite (.ycp 1) (.mod 5) 3) mod5) (.mod 5)).gen = 42 ∧
    (hdr (after (.pgOwnerWrite (.ycp 1) (.mod 5) 3) mod5) (.mod 5)).owner = 3 := by decide +kernel

/-- spec/02, step 2: a write of another path is dropped, with OWNER_DENIED, and PG_SEQ stands. -/
theorem test_owner_denied :
    let c := after (.registerWrite .pcie 0x195040 1 [] true) (chipOnly (heads (.mod 5) { owner := 3, gen := 42 } old))
    (hdr c (.mod 5)).gen = 42 ∧ (hdr c (.mod 5)).evt = 4 ∧ c.regs = [] := by decide +kernel

/-- spec/05, an E2E exchange: port 3 is SLAVE, the servo takes PTP samples. -/
def e2e (x : PtpPort) : State :=
  chipOnly (running [.tim] (put [(.tim, 0x200, 1), (.tim, 0x22C, 2), (.tim, 0x040, 0x110)] { old with tim.ptp := [(3, x)] }))

/-- MPD becomes 1,300 ns. -/
theorem test_e2e_delay :
    (ptpPort (after (.delayRespRx 3 { reqPort := 4, origin := 1000510001100 * 65536, corr := 1000 * 65536 })
      (e2e { reqT := some (1000510000000 * 65536), lastSync := some (1000500000000 * 65536, 1000500003700 * 65536, 1200 * 65536) })) 3).mpd = some (1300 * 16) := by
  decide +kernel

/-- With it, θ is 1,200 ns: TIM_RATE 0xFFFFAF78, and the servo is in ACQUIRING. -/
theorem test_e2e_offset :
    let c := after (.syncRx 3 { origin := 1000500000000 * 65536, rx := 1000500003700 * 65536, corr := 1200 * 65536 }) (e2e { mpd := some (1300 * 16) })
    c.tim.rate = -20616 ∧ c.tim.servo = .acquiring := by decide +kernel

/-- An idle step is 4 ns (R96, log entry 1). -/
theorem test_idle_step : (match step State.reset with | .next t => t.chip.tim.ns | _ => 0) = 4 := by decide +kernel

/-- The command in front acts, and the others wait. -/
theorem test_front : (match step { State.reset with pending := [.pcieLinkUp, .pcieLinkDown] } with
    | .next t => (t.chip.svcPcie, t.pending) | _ => (false, [])) = (true, [.pcieLinkDown]) := by decide +kernel

/-- CRC-32C of "123456789" (log entry 16). -/
theorem test_crc32c : crc32c [0x31, 0x32, 0x33, 0x34, 0x35, 0x36, 0x37, 0x38, 0x39] = 0xE3069283 := by decide +kernel

/-- spec/18: the least reset pulse is 50 ms; 49 ms is none (R426). -/
theorem test_reset_pulse :
    let s := chipOnly { old with field.powered := true, bly.state := .run }
    (after (.resetPulse false 50) s).bly.rstA = true ∧ (after (.resetPulse false 49) s).bly.rstA = false := by decide +kernel

/-- An enabled page whose fault condition stands keeps its code at a clear, and FLT_CLEAR is refused (R36). -/
theorem test_clear_refused :
    let s := chipOnly (heads (.axm 0) { en := true, fltCode := 0x12, state := .fault, conds := [0x12] } old)
    (hdr (after (.pgFltClear .pcie (.axm 0)) s) (.axm 0)).fltCode = 0x12 ∧ (hdr (after (.pgFltClear .pcie (.axm 0)) s) (.axm 0)).evt = 0x80 := by
  decide +kernel

/-- CLRA empties an accumulator (Table 14-3). -/
theorem test_clra : (aReg (Machine.core (after (.clra 7 0x80000000) (coreState 0x80000000 { a := [(0, 5)] })) 7) 0) = 0 := by decide +kernel

/-! ### States and operands that meet the hypotheses of each statement

For a statement X, `witness_X` says for each of its clauses that has hypotheses that they can be met together, and gives the state and
the operands; where a range is asked for, the operand is at its boundary. -/

theorem witness_ClocksAndLinks :
    (∃ (s : State) (d : Clk), clkLost s.chip d = false) ∧
    (∃ (s : State) (d : Clk), clkLost s.chip d = true) ∧
    (∃ (s : State) (x : Pll), s.chip.clk.unlocked &&& (1#6 <<< pllIdx x) = 0 ∧ (hdr s.chip .clk).fltCode = 0) ∧
    (∃ (s : State) (p : Page), (hdr s.chip p).state = .ready ∨ (hdr s.chip p).state = .run ∨ (hdr s.chip p).state = .splicing) :=
  ⟨⟨up, .sys, by decide +kernel⟩,
   ⟨chipOnly { old with clk.lost := 1 }, .sys, by decide +kernel⟩,
   ⟨up, .c, by decide +kernel⟩,
   ⟨chipOnly (running [.dsp] old), .dsp, by decide +kernel⟩⟩

theorem witness_FrameKnotAndCurrentSample :
    (∃ (s u : State) (late : List (Fin 160)) (pwmTicks : Nat), mainRuns s.chip = true ∧ knotDue s.chip = true ∧ u = heldCommit (planNow
      s)) ∧
    (∃ (s : State) (i : Fin 16) (bits : List (Fin 384 × List Bool)) (ph : List (Fin 128 × Int)) (ov : List (Fin 4)), mainRuns s.chip =
      true ∧ sampleDue i.val s.chip = true) :=
  ⟨⟨chipOnly { old with tim.ns := 62500, tim.nextKnot := 62500 }, _, [159], 0, by decide +kernel, by decide +kernel, rfl⟩,
   ⟨chipOnly (inForce [(.knt, 0x040, 0xF00)] { old with tim.sampleIdx := 15, tim.ns := 62499, tim.nextKnot := 62500 }), 15, [], [], [], by decide +kernel⟩⟩

theorem witness_PageEnableDisableReset :
    (∃ (s : State) (path : Path) (p : Page), CanWrite s path p ∧ (hdr s.chip p).en = false ∧ (hdr s.chip p).state = .off ∧ enableHeld
      s.chip p = false ∧ (hdr s.chip p).conds = [] ∧ anyDemand (hdr s.chip p) = false) ∧
    (∃ (s : State) (path : Path) (p : Page), CanWrite s path p ∧ (hdr s.chip p).en = true) ∧
    (∃ (s : State) (path : Path) (p : Page), CanWrite s path p ∧ s.chip.pwr.state ≠ .save) ∧
    (∃ (s : State) (p : Page) (b : Nat), mainRuns s.chip = true ∧ (hdr s.chip p).resetSince = some b) :=
  ⟨⟨up, .core 7, .mod 127, by simp only [CanWrite]; decide +kernel⟩,
   ⟨chipOnly (running [.mod 127] old), .uart, .mod 127, by simp only [CanWrite]; decide +kernel⟩,
   ⟨up, .pcie, .snl 127, by simp only [CanWrite]; decide +kernel⟩,
   ⟨chipOnly (heads .dsp { resetSince := some 7 } old), .dsp, 7, by decide +kernel⟩⟩

theorem witness_PageEventsAndFaultClear :
    (∃ (s : State) (path : Path) (p : Page) (v : Word), CanWrite s path p) ∧
    (∃ (s : State) (path : Path) (p : Page) (v : Word), CanWrite s path p) ∧
    (∃ (s : State) (path : Path) (p : Page) (v : Word), CanWrite s path p) ∧
    (∃ (s : State) (path : Path) (p : Page), CanWrite s path p ∧ (hdr s.chip p).fltCode = 0) ∧
    (∃ (s : State) (path : Path), CanWrite s path .bly ∧ 0xB0 ≤ (hdr s.chip .bly).fltCode.toNat) ∧
    (∃ (s : State) (path : Path) (p : Page), CanWrite s path p ∧ (p = .bly → (hdr s.chip p).fltCode.toNat < 0xB0) ∧ (hdr s.chip p).fltCode
      ≠ 0 ∧ clearStands s.chip p = false) ∧
    (∃ (s : State) (path : Path) (p : Page), CanWrite s path p ∧ (p = .bly → (hdr s.chip p).fltCode.toNat < 0xB0) ∧ (hdr s.chip p).fltCode
      ≠ 0 ∧ clearStands s.chip p = true) :=
  ⟨⟨up, .ycp 3, .axm 159, 0xFFFFFFFF, by simp only [CanWrite]; decide +kernel⟩,
   ⟨up, .ycp 3, .axm 159, 0xFFFFFFFF, by simp only [CanWrite]; decide +kernel⟩,
   ⟨up, .ycp 3, .axm 159, 0xFFFFFFFF, by simp only [CanWrite]; decide +kernel⟩,
   ⟨up, .ycp 3, .axm 159, by simp only [CanWrite]; decide +kernel⟩,
   ⟨chipOnly (heads .bly { fltCode := 0xB0, state := .fault } old), .uart, by simp only [CanWrite]; decide +kernel⟩,
   ⟨chipOnly (heads .bly { fltCode := 0xAF, state := .fault } old), .pcie, .bly, by simp only [CanWrite]; decide +kernel⟩,
   ⟨chipOnly (heads (.axm 0) { fltCode := 0x12, state := .fault, conds := [0x12] } old), .pcie, .axm 0, by simp only [CanWrite]; decide +kernel⟩⟩

theorem witness_SealAndSplice :
    (∃ (s : State) (path : Path) (p : Page), CanWrite s path p ∧ (hdr s.chip p).sealedBit = false) ∧
    (∃ (s : State) (p : Page), mainRuns s.chip = true ∧ (hdr s.chip p).sealedBit = true ∧ crc32c (sealBytes s.chip p) ≠ (hdr s.chip
      p).sealCrc ∧ standing s.chip p 0x04 = false ∧ (hdr s.chip p).fltCode = 0 ∧ ((hdr s.chip p).state = .ready ∨ (hdr s.chip p).state =
      .run)) ∧
    (∃ (s : State) (p : Page), mainRuns s.chip = true ∧ (hdr s.chip p).sealedBit = true ∧ crc32c (sealBytes s.chip p) = (hdr s.chip
      p).sealCrc) ∧
    (∃ (s : State) (path : Path) (p : Page), CanWrite s path p ∧ spliceWaits p = true ∧ (hdr s.chip p).spliceReq = false) ∧
    (∃ (s : State) (path : Path) (p : Page), CanWrite s path p ∧ spliceWaits p = false ∧ (hdr s.chip p).spliceReq = false ∧ (hdr s.chip
      p).spliceFrom = none ∧ (spliceNone p = true ∨ (hdr s.chip p).state = .off ∨ (hdr s.chip p).state = .fault)) ∧
    (∃ (s : State) (p : Page) (st : PgState), mainRuns s.chip = true ∧ (∀ k, p ≠ .fco k) ∧ (hdr s.chip p).state = .splicing ∧ st ≠
      .splicing ∧ (hdr s.chip p).spliceFrom = some st ∧ (hdr s.chip p).spliceSince + spliceLimit s.chip p ≤ s.chip.clk.now) :=
  ⟨⟨up, .pcie, .kep, by simp only [CanWrite]; decide +kernel⟩,
   ⟨chipOnly (running [.kep] (heads .kep { sealedBit := true } old)), .kep, by decide +kernel⟩,
   ⟨chipOnly (heads .kep { sealedBit := true, sealCrc := crc32c (sealBytes old .kep) } old), .kep, by decide +kernel⟩,
   ⟨up, .pcie, .knt, by simp only [CanWrite]; decide +kernel⟩,
   ⟨up, .pcie, .adc 15, by simp only [CanWrite]; decide +kernel⟩,
   ⟨chipOnly (heads (.net 3) { state := .splicing, spliceFrom := some .run } old), .net 3, .run, by refine ⟨by decide +kernel, fun k => by simp, ?_⟩; decide +kernel⟩⟩

theorem witness_ShadowApplyAndOwner :
    (∃ (s : State) (path : Path) (p : Page), CanWrite s path p) ∧
    (∃ (s : State) (p : Page), mainRuns s.chip = true ∧ applyDue s.chip p = true ∧ (hdr s.chip p).applyReq = true ∧ plainApply p = true ∧
      applyRefusal p s.chip (copyShadows p (fun _ => true) s.chip) = []) ∧
    (∃ (s : State) (path : Path) (p : Page) (v : Word), CanWrite s path p ∧ v.toNat < 16 ∧ v ≠ 6 ∧ v ≠ 7) :=
  ⟨⟨up, .pcie, .lpa 127, by simp only [CanWrite]; decide +kernel⟩,
   ⟨chipOnly (heads (.lpe 3) { applyReq := true } { old with tim.ns := 62500, tim.nextKnot := 62500 }), .lpe 3, by decide +kernel⟩,
   ⟨up, .pcie, .axm 0, 15, by simp only [CanWrite]; decide +kernel⟩⟩

theorem witness_RegisterWindowAccess :
    (∃ (s : State) (path : Path) (p : Page) (off : BitVec 24) (o : Nat) (v : Word) (r : Reg) (hi : Bool), CanWrite s path p ∧ off.toNat =
      pageBase p + o ∧ plainWrites p = true ∧ o % 4 = 0 ∧ 0x040 ≤ o ∧ o < 0x800 ∧ findRow (pageRows p) o = some (r, hi) ∧ r.pair = false ∧
      r.acc = .rws ∧ v &&& r.mask = v ∧ cleanReg s.chip path p o r v = (v, false)) ∧
    (∃ (s : State) (path : Path) (p : Page) (off : BitVec 24) (o : Nat) (v : Word) (r : Reg) (hi : Bool), CanWrite s path p ∧ off.toNat =
      pageBase p + o ∧ plainWrites p = true ∧ o % 4 = 0 ∧ 0x040 ≤ o ∧ o < 0x800 ∧ findRow (pageRows p) o = some (r, hi) ∧ r.pair = false ∧
      r.acc = .rw ∧ v &&& r.mask = v ∧ cleanReg s.chip path p o r v = (v, false)) ∧
    (∃ (s : State) (path : Path) (p : Page) (off : BitVec 24) (o : Nat) (v : Word), fabricUp s.chip path = true ∧ off.toNat = pageBase p +
      o ∧ o % 4 = 0 ∧ o < 0x1000 ∧ (hdr s.chip p).owner ≠ 0 ∧ (hdr s.chip p).owner ≠ pathCode path ∧ isStaging p o = false) ∧
    (∃ (s : State) (path : Path) (off : BitVec 24) (v : Word), fabricUp s.chip path = true ∧ off.toNat % 4 = 0 ∧ targetOf off.toNat =
      .nothing) ∧
    (∃ (s : State) (path : Path) (off : BitVec 24) (v : Word), fabricUp s.chip path = true ∧ off.toNat % 4 = 0 ∧ 0x800000 ≤ off.toNat ∧
      off.toNat < 0xB00000) ∧
    (∃ (s : State) (path : Path) (p : Page) (off : BitVec 24) (o : Nat) (r : Reg), fabricUp s.chip path = true ∧ off.toNat = pageBase p +
      o ∧ o % 4 = 0 ∧ 0x040 ≤ o ∧ o < 0x800 ∧ plainReads p = true ∧ findRow (pageRows p) o = some (r, false) ∧ r.pair = true ∧ r.acc ≠
      .wo) ∧
    (∃ (s : State) (path : Path) (p : Page) (off : BitVec 24) (o : Nat) (v : Word), fabricUp s.chip path = true ∧ off.toNat = pageBase p +
      o ∧ o % 4 = 0 ∧ isStaging p o = true) ∧
    (∃ (s : State) (path : Path) (p : Page) (off : BitVec 24) (o : Nat) (v : Word) (r : Reg), CanWrite s path p ∧ off.toNat = pageBase p +
      o ∧ o % 4 = 0 ∧ 0x044 ≤ o ∧ o < 0x800 ∧ plainWrites p = true ∧ (∀ n, p ≠ .fbk n) ∧ findRow (pageRows p) o = some (r, true) ∧ r.pair
      = true ∧ r.acc = .rws ∧ cleanWord r.mask (rd s.chip p (o - 4)) (pathSt s.chip path).stage [] = ((pathSt s.chip path).stage, false) ∧
      cleanWord r.hiMask (rd s.chip p o) v r.legal = (v, false)) ∧
    (∃ (s : State) (path : Path) (off : BitVec 24), path ≠ .pcie) ∧
    (∃ (s : State) (off : BitVec 24) (v : Word) (more : List Word) (full : Bool), bar0Ok off.toNat (more.length + 1) 64 full = true) ∧
    (∃ (s : State) (off : BitVec 24) (v : Word) (more : List Word) (full : Bool), bar0Ok off.toNat (more.length + 1) 64 full = false ∧
      fabricUp s.chip .pcie = true) ∧
    (∃ (s : State) (off : BitVec 24) (more : Fin 128) (full : Bool), bar0Ok off.toNat (more.val + 1) 128 full = true) ∧
    (∃ (s : State) (off : BitVec 24) (more : Fin 128) (full : Bool), bar0Ok off.toNat (more.val + 1) 128 full = false ∧ fabricUp s.chip
      .pcie = true) :=
  ⟨⟨up, .pcie, .fbk 127, BitVec.ofNat 24 (pageBase (.fbk 127) + 0x040), 0x040, 0, rowAt (.fbk 127) 0x040, false,
     by simp only [CanWrite]; decide +kernel⟩,
   ⟨up, .pcie, .swt, BitVec.ofNat 24 (pageBase .swt + 0x060), 0x060, 0x1F, rowAt .swt 0x060, false,
     by simp only [CanWrite]; decide +kernel⟩,
   ⟨chipOnly (heads .swt { owner := 1 } old), .ycp 0, .swt, BitVec.ofNat 24 (pageBase .swt + 0xFFC), 0xFFC, 0, by decide +kernel⟩,
   ⟨up, .pcie, 0x400000 - 0x2000, 0, by decide +kernel⟩,
   ⟨up, .pcie, 0xAFFFFC, 0, by decide +kernel⟩,
   ⟨up, .pcie, .grp 31, BitVec.ofNat 24 (pageBase (.grp 31) + 0x048), 0x048, rowAt (.grp 31) 0x048, by decide +kernel⟩,
   ⟨up, .pcie, .grp 31, BitVec.ofNat 24 (pageBase (.grp 31) + 0x060), 0x060, 0, by decide +kernel⟩,
   ⟨up, .pcie, .grp 31, BitVec.ofNat 24 (pageBase (.grp 31) + 0x064), 0x064, 0, rowAt (.grp 31) 0x060, by refine ⟨by simp only [CanWrite]; decide +kernel, by decide +kernel, by decide +kernel, by decide +kernel, by decide +kernel, by decide +kernel, fun n => by simp, ?_⟩; decide +kernel⟩,
   ⟨up, .ycp 0, 0, by decide +kernel⟩,
   ⟨up, 0x4FFF00, 0, List.replicate 63 0, true, by decide +kernel⟩,
   ⟨up, 0, 0, [], false, by decide +kernel⟩,
   ⟨up, 0x4FFE00, 127, true, by decide +kernel⟩,
   ⟨up, 0, 0, false, by decide +kernel⟩⟩

theorem witness_EventVectorsAndSpliceLog :
    (∃ (s : State) (path : Path) (hi : Bool) (v : Word), CanWrite s path .evt) ∧
    (∃ (s : State) (v : Fin 64), mainRuns s.chip = true ∧ bit s.chip.evt.pend v.val = true ∧ isUp s.chip .evt = true ∧ rdF s.chip .evt
      0x050 1 0 = 0 ∧ vectorMasked s.chip v.val true = false ∧ vectorDue s.chip v.val = true ∧ s.chip.svcPcie = true ∧ clkLost s.chip
      .host = false) ∧
    (∃ (s : State) (path : Path) (n o : Nat) (t : List (Nat × Nat)), fabricUp s.chip path = true ∧ s.chip.spl.log = (n, o) :: t) :=
  ⟨⟨up, .pcie, false, 0, by simp only [CanWrite]; decide +kernel⟩,
   ⟨chipOnly (running [.evt] (put [(.evt, 0x048, 0), (.evt, 0x04C, 0)] { old with evt.pend := 1#64 <<< 63, svcPcie := true })), 63, by decide +kernel⟩,
   ⟨chipOnly { old with spl.log := [(0x2F0, 4)] }, .pcie, 0x2F0, 4, [], by decide +kernel⟩⟩

theorem witness_RingDoorbellsAndReset :
    (∃ (s : State) (path : Path) (r : Fin 4) (v : Word), CanWrite s path .cmd ∧ v &&& 0xFFF = v ∧ sqEn s.chip r.val = true ∧ (Machine.sq
      s.chip r.val).halted = false ∧ v.toNat < sqSize s.chip r.val) ∧
    (∃ (s : State) (path : Path) (r : Fin 4) (v : Word), CanWrite s path .cmd ∧ v &&& 0xFFF = v ∧ (sqState s.chip r.val ≠ 1 ∨ sqSize
      s.chip r.val ≤ v.toNat)) ∧
    (∃ (s : State) (path : Path) (r : Fin 4), CanWrite s path .cmd) ∧
    (∃ (s : State) (path : Path) (v : Word), CanWrite s path .cmd ∧ v &&& 0xFFF = v ∧ v.toNat < cqSize s.chip ∧ s.chip.cmd.cqHead ≠
      v.toNat ∧ (v.toNat + cqSize s.chip - s.chip.cmd.cqHead) % cqSize s.chip ≤ s.chip.cmd.cqPosted) ∧
    (∃ (s : State) (path : Path) (v : Word), CanWrite s path .cmd ∧ v &&& 0xFFF = v ∧ cqSize s.chip ≤ v.toNat ∧ s.chip.cmd.cqHead ≠
      v.toNat) :=
  ⟨⟨chipOnly (put [(.cmd, 0x0AC, 1)] old), .pcie, 3, 15, by simp only [CanWrite]; decide +kernel⟩,
   ⟨chipOnly (put [(.cmd, 0x0AC, 1)] old), .pcie, 3, 16, by simp only [CanWrite]; decide +kernel⟩,
   ⟨up, .pcie, 0, by simp only [CanWrite]; decide +kernel⟩,
   ⟨chipOnly { old with cmd.cqPosted := 15 }, .pcie, 15, by simp only [CanWrite]; decide +kernel⟩,
   ⟨up, .pcie, 16, by simp only [CanWrite]; decide +kernel⟩⟩

theorem witness_RingSizesCompletionsAndBar2 :
    (∃ (s : State) (path : Path) (r : Fin 4) (v : Word), CanWrite s path .cmd ∧ v &&& 0x1FFF = v ∧ 16 ≤ v.toNat ∧ v.toNat ≤ 4096) ∧
    (∃ (s : State) (path : Path) (v : Word), CanWrite s path .cmd ∧ v &&& 0x1FFF = v ∧ 16 ≤ v.toNat ∧ v.toNat ≤ 4096) ∧
    (∃ (s : State) (r : Fin 4) (n : Nat), mainRuns s.chip = true ∧ (Machine.sq s.chip r.val).resize = some n ∧ (Machine.sq s.chip
      r.val).head = (Machine.sq s.chip r.val).tail ∧ ringInFlight s.chip r.val = 0) ∧
    (∃ (s : State) (n : Nat), mainRuns s.chip = true ∧ s.chip.cmd.cqResize = some n ∧ s.chip.cmd.cqPosted = 0 ∧ cqReserved s.chip = 0) ∧
    (∃ (s : State) (path : Path), CanWrite s path .cmd ∧ isUp s.chip .cmd = true) ∧
    (∃ (s : State) (x : Completion) (l : List Completion), mainRuns s.chip = true ∧ isUp s.chip .cmd = true ∧ cqEn s.chip = true ∧
      s.chip.cmd.posting = true ∧ s.chip.cmd.held = x :: l ∧ s.chip.cmd.cqPosted < cqSize s.chip) ∧
    (∃ (s : State) (addr : BitVec 30) (bs : List (Option Byte)), fabricUp s.chip .pcie = true ∧ s.chip.svcPcie = true) ∧
    (∃ (s : State) (k a d : Nat) (b : Option Byte) (t : List (Option Byte)), bar2Target s.chip a = some d) ∧
    (∃ (s s1 : State) (addr : BitVec 30) (n : Nat) (l : List Byte), fabricUp s.chip .pcie = true ∧ s.chip.svcPcie = true ∧ bar2Mapped
      s.chip addr.toNat n = true ∧ bar2Read n addr.toNat s = (s1, some l)) ∧
    (∃ (s s1 : State) (addr : BitVec 30) (n : Nat), fabricUp s.chip .pcie = true ∧ s.chip.svcPcie = true ∧ bar2Mapped s.chip addr.toNat n
      = true ∧ bar2Read n addr.toNat s = (s1, none)) ∧
    (∃ (s : State) (addr : BitVec 30) (n : Nat), fabricUp s.chip .pcie = true ∧ s.chip.svcPcie = true ∧ bar2Mapped s.chip addr.toNat n =
      false) :=
  ⟨⟨up, .pcie, 3, 4096, by simp only [CanWrite]; decide +kernel⟩,
   ⟨up, .pcie, 16, by simp only [CanWrite]; decide +kernel⟩,
   ⟨chipOnly { old with cmd.sq := [(3, { resize := some 4096 })] }, 3, 4096, by decide +kernel⟩,
   ⟨chipOnly { old with cmd.cqResize := some 16 }, 16, by decide +kernel⟩,
   ⟨chipOnly (running [.cmd] old), .pcie, by simp only [CanWrite]; decide +kernel⟩,
   ⟨chipOnly (running [.cmd] (put [(.cmd, 0x0CC, 1)] { old with cmd.posting := true, cmd.cqPosted := 15, cmd.held := [{ src := .ring 0 0, tag := 0, status := 0 }] })), { src := .ring 0 0, tag := 0, status := 0 }, [], by decide +kernel⟩,
   ⟨chipOnly { old with svcPcie := true }, 0x3FFFFFFF, [], by decide +kernel⟩,
   ⟨chipOnly (put [(.cmd, 0x12C, 0x80000000)] { old with memc.initGiB := 1, memc.dramOk := true }), 0, 0x3FFFFFFF, 0xFFFFFFF, none, [], by decide +kernel⟩,
   ⟨chipOnly (put [(.cmd, 0x12C, 0x80000000)] { old with memc.initGiB := 1, memc.dramOk := true, svcPcie := true }), _, 0x3FFFFFFE, 2, [0, 0], by decide +kernel, by decide +kernel, by decide +kernel, rfl⟩,
   ⟨{ chipOnly (put [(.cmd, 0x12C, 0x80000000)] { old with memc.initGiB := 1, memc.dramOk := true, svcPcie := true }) with mem.err := [(cellKey .dram (0x3FFFFFE / 16), 3)] }, (bar2Read 2 0x33FFFFFE ({ chipOnly (put [(.cmd, 0x12C, 0x80000000)] { old with memc.initGiB := 1, memc.dramOk := true, svcPcie := true }) with mem.err := [(cellKey .dram (0x3FFFFFE / 16), 3)] })).1, 0x33FFFFFE, 2, by decide +kernel, by decide +kernel, by decide +kernel, pair_none _ (by decide +kernel)⟩,
   ⟨chipOnly (put [(.cmd, 0x12C, 0x80000000)] { old with memc.initGiB := 1, memc.dramOk := true, svcPcie := true }), 0x3FFFFFFF, 2, by decide +kernel⟩⟩

theorem witness_RingCommandsAreAccepted :
    (∃ (s : State) (h : Hdr) (axis : Word) (pos vel acc dec jerk : DWord), Admits h (.moveAbs axis pos vel acc dec jerk) s) ∧
    (∃ (s : State) (h : Hdr) (axis : Word) (dist vel acc dec jerk : DWord), Admits h (.moveRel axis dist vel acc dec jerk) s) ∧
    (∃ (s : State) (h : Hdr) (axis : Word) (vel acc dec jerk : DWord), Admits h (.moveVel axis vel acc dec jerk) s) ∧
    (∃ (s : State) (h : Hdr) (axis : Word) (kind : Byte), Admits h (.stop axis kind) s) ∧
    (∃ (s : State) (h : Hdr) (axis : Word), Admits h (.resume axis) s) ∧
    (∃ (s : State) (h : Hdr) (axis : Word) (method flags : Byte) (search creep accel offset : DWord), Admits h (.home axis method flags
      search creep accel offset) s) ∧
    (∃ (s : State) (h : Hdr) (axis : Word) (en : Byte), Admits h (.enable axis en) s) ∧
    (∃ (s : State) (h : Hdr) (group : Word) (targets : Option (List DWord)) (count : Byte) (relative : Bool) (vel acc dec jerk : DWord),
      Admits h (.groupMove group targets count relative vel acc dec jerk) s) ∧
    (∃ (s : State) (h : Hdr) (hitch : Word) (record : BitVec 256), Admits h (.hitchSet hitch record) s) ∧
    (∃ (s : State) (h : Hdr) (hitch : Word) (ramp : Bool), Admits h (.hitchRelease hitch ramp) s) :=
  ⟨⟨chipOnly (ringsUp), h0, 0, 0, 0, 0, 0, 0, by simp only [Admits]; decide +kernel⟩,
   ⟨chipOnly (ringsUp), h0, 0, 0, 0, 0, 0, 0, by simp only [Admits]; decide +kernel⟩,
   ⟨chipOnly (ringsUp), h0, 0, 0, 0, 0, 0, by simp only [Admits]; decide +kernel⟩,
   ⟨chipOnly (ringsUp), h0, 159, 2, by simp only [Admits]; decide +kernel⟩,
   ⟨chipOnly (ringsUp), h0, 0, by simp only [Admits]; decide +kernel⟩,
   ⟨chipOnly (ringsUp), h0, 0, 0, 0, 0, 0, 0, 0, by simp only [Admits]; decide +kernel⟩,
   ⟨chipOnly (ringsUp), h0, 0, 0, by simp only [Admits]; decide +kernel⟩,
   ⟨chipOnly (ringsUp), h0, 0, some [], 0, false, 0, 0, 0, 0, by simp only [Admits]; decide +kernel⟩,
   ⟨chipOnly (ringsUp), h0, 0, 0, by simp only [Admits]; decide +kernel⟩,
   ⟨chipOnly (ringsUp), h0, 0, false, by simp only [Admits]; decide +kernel⟩⟩

theorem witness_ImmediateCommandsStart :
    (∃ (s : State) (h : Hdr) (list : Option (List DWord)) (count : BitVec 16) (cont : Bool), Admits h (.regBatch list count cont) s ∧
      s.chip.cmd.inflight = [] ∧ bit h.flags 0 = false) ∧
    (∃ (s : State) (h : Hdr) (first count : Word), Admits h (.camLoad first count) s ∧ s.chip.cmd.inflight = [] ∧ bit h.flags 0 = false) ∧
    (∃ (s : State) (h : Hdr) (first count crc : Word), Admits h (.camVerify first count crc) s ∧ s.chip.cmd.inflight = [] ∧ bit h.flags 0
      = false) ∧
    (∃ (s : State) (h : Hdr) (mask len : Word), Admits h (.fcoLoad mask len) s ∧ s.chip.cmd.inflight = [] ∧ bit h.flags 0 = false) ∧
    (∃ (s : State) (h : Hdr), Admits h .traceStart s ∧ s.chip.cmd.inflight = [] ∧ bit h.flags 0 = false) ∧
    (∃ (s : State) (h : Hdr), Admits h .traceStop s ∧ s.chip.cmd.inflight = [] ∧ bit h.flags 0 = false) ∧
    (∃ (s : State) (h : Hdr) (page : Word), Admits h (.faultClear page) s ∧ s.chip.cmd.inflight = [] ∧ bit h.flags 0 = false) ∧
    (∃ (s : State) (h : Hdr), Admits h .saveTest s ∧ s.chip.cmd.inflight = [] ∧ bit h.flags 0 = false) :=
  ⟨⟨chipOnly (ringsUp), h0, some [], 0, false, by simp only [Admits]; decide +kernel⟩,
   ⟨chipOnly (ringsUp), h0, 0, 0, by simp only [Admits]; decide +kernel⟩,
   ⟨chipOnly (ringsUp), h0, 0, 0, 0, by simp only [Admits]; decide +kernel⟩,
   ⟨chipOnly (ringsUp), h0, 0xFF, 0, by simp only [Admits]; decide +kernel⟩,
   ⟨chipOnly (ringsUp), h0, by simp only [Admits]; decide +kernel⟩,
   ⟨chipOnly (ringsUp), h0, by simp only [Admits]; decide +kernel⟩,
   ⟨chipOnly (ringsUp), h0, 0x2F2000, by simp only [Admits]; decide +kernel⟩,
   ⟨chipOnly (ringsUp), h0, by simp only [Admits]; decide +kernel⟩⟩

theorem witness_FetchLoadsAndSaveTest :
    (∃ (s : State) (r : Fin 4) (es : List (Option Fetched)), fetchRing s.chip = some r) ∧
    (∃ (s : State) (r : Fin 4), fetchable s.chip r.val = true ∧ (Machine.sq s.chip r.val).head ≠ (Machine.sq s.chip r.val).tail) ∧
    (∃ (s : State) (r : Fin 4) (e : Fetched), fetchable s.chip r.val = true ∧ (Machine.sq s.chip r.val).head ≠ (Machine.sq s.chip
      r.val).tail) ∧
    (∃ (s : State) (h : Fin 256) (id : Nat) (t u : State) (i : Nat) (node : CamNode) (a : Option CamNode), mainRuns s.chip = true ∧ (hitch
      s.chip h.val).reading = some id ∧ (hitch s.chip h.val).readDone = false ∧ scanCam (2 ^ 25) (decodeHit (hitch s.chip
      h.val).raw).first none s = (t, .ok (i, node)) ∧ readNode (decodeHit (hitch s.chip h.val).raw).first t = (u, a)) ∧
    (∃ (s : State) (h : Fin 256) (id : Nat) (t : State) (e : Byte), mainRuns s.chip = true ∧ (hitch s.chip h.val).reading = some id ∧
      (hitch s.chip h.val).readDone = false ∧ scanCam (2 ^ 25) (decodeHit (hitch s.chip h.val).raw).first none s = (t, .error e)) ∧
    (∃ (s : State) (l : List (BitVec 128)) (id first : Nat) (w : Word), mainRuns s.chip = true ∧ s.chip.cam.active = some (id, true,
      first, l.length, w) ∧ isUp s.chip .cam = true ∧ dramUp s.chip = true ∧ (∀ w ∈ l, badNode (decodeNode w) = false)) ∧
    (∃ (s t : State) (id first n : Nat) (want : Word) (r : Nat), mainRuns s.chip = true ∧ s.chip.cam.active = some (id, false, first, n,
      want) ∧ isUp s.chip .cam = true ∧ dramUp s.chip = true ∧ readNodes n first 0xFFFFFFFF s = (t, some r)) ∧
    (∃ (s : State) (img : List Byte) (d g : Bool) (id mask : Nat), mainRuns s.chip = true ∧ s.chip.spl.fco.active = some (id, mask,
      img.length) ∧ s.chip.spl.fco.image = none ∧ s.chip.spl.fco.cur = none ∧ imgRules fcoMagic img = true ∧ imgAllowed s.chip img d g =
      true) ∧
    (∃ (s : State) (k : Fin 8) (id mask len : Nat) (img : List Byte), mainRuns s.chip = true ∧ s.chip.spl.fco.cur = some k.val ∧
      s.chip.spl.fco.active = some (id, mask, len) ∧ s.chip.spl.fco.image = some img ∧ (hdr s.chip (fcoPage k.val)).state = .off) ∧
    (∃ (s : State) (env : SaveEnv) (ns id : Nat), mainRuns s.chip = true ∧ s.chip.pwr.test = some id ∧ env.bytes ≤ 262144 ∧ env.keepOk =
      true) ∧
    (∃ (s : State) (env : SaveEnv) (ns id : Nat), mainRuns s.chip = true ∧ s.chip.pwr.test = some id ∧ 262144 < env.bytes) :=
  ⟨⟨chipOnly (put [(.cmd, 0x0AC, 1)] { ringsUp with cmd.sq := [(3, { tail := 1 })] }), 3, [], by decide +kernel⟩,
   ⟨chipOnly (put [(.cmd, 0x0AC, 1)] { ringsUp with cmd.sq := [(3, { tail := 1 })] }), 3, by decide +kernel⟩,
   ⟨chipOnly (put [(.cmd, 0x0AC, 1)] { ringsUp with cmd.sq := [(3, { tail := 1 })] }), 3, { entry := 0 }, by decide +kernel⟩,
   ⟨camState, 255, 1, (scanCam (2 ^ 25) 0 none camState).1, (readNode 0 camState).1, 1, decodeNode 0x00000001000000000000000000006000,
     (readNode 0 camState).2, by decide +kernel⟩,
   ⟨chipOnly { old with memc.initGiB := 1, memc.dramOk := true, hits := [(255, { reading := some 1 })] }, 255, 1, (scanCam (2 ^ 25) 0 none (chipOnly { old with memc.initGiB := 1, memc.dramOk := true, hits := [(255, { reading := some 1 })] })).1, 0x1A, by decide +kernel⟩,
   ⟨chipOnly (running [.cam] { old with memc.initGiB := 1, memc.dramOk := true, cam.active := some (1, true, 0, 1, 0) }), [0x6000], 1, 0, 0, by refine ⟨by decide +kernel, by decide +kernel, by decide +kernel, by decide +kernel, fun w h => ?_⟩; obtain rfl := List.mem_singleton.mp h; decide +kernel⟩,
   ⟨chipOnly (running [.cam] { old with memc.initGiB := 1, memc.dramOk := true, cam.active := some (1, false, 0, 2, 0) }), (readNodes 2 0 0xFFFFFFFF (chipOnly (running [.cam] { old with memc.initGiB := 1, memc.dramOk := true, cam.active := some (1, false, 0, 2, 0) }))).1, 1, 0, 2, 0, ((readNodes 2 0 0xFFFFFFFF (chipOnly (running [.cam] { old with memc.initGiB := 1, memc.dramOk := true, cam.active := some (1, false, 0, 2, 0) }))).2).getD 0, by decide +kernel⟩,
   ⟨chipOnly { old with spl.fco.active := some (1, 255, smallImage.length) }, smallImage, true, false, 1, 255, by decide +kernel⟩,
   ⟨chipOnly { old with spl.fco := { active := some (1, 128, 168), image := some smallImage, cur := some 7 } }, 7, 1, 128, 168, smallImage, by decide +kernel⟩,
   ⟨chipOnly { old with pwr.test := some 1 }, {}, 0, 1, by decide +kernel⟩,
   ⟨chipOnly { old with pwr.test := some 7 }, { bytes := 262145 }, 0, 7, by decide +kernel⟩⟩

theorem witness_MotionCommandsTakeEffect :
    (∃ (s : State) (x : InFlight) (axisNo : Word) (pos vel acc dec jerk : DWord) (l : Lim), x.cmd.op = .moveAbs axisNo pos vel acc dec
      jerk ∧ (axis s.chip axisNo.toNat).run = none ∧ moveLim (markRunning x.id s.chip) axisNo.toNat false vel acc dec jerk = some (l,
      false) ∧ inQ (ofQ pos) = true ∧ outsideSwl s.chip axisNo.toNat (ofQ pos) = false ∧ movable s.chip axisNo.toNat = true ∧ blockedDir
      s.chip axisNo.toNat (firstDir (ownNow s.chip axisNo.toNat) (ofQ pos - (ownNow s.chip axisNo.toNat).p)) = false ∧ needsReversal
      (ownNow s.chip axisNo.toNat) (ofQ pos) l = false) ∧
    (∃ (s : State) (x : InFlight) (axisNo : Word) (dist vel acc dec jerk : DWord) (l : Lim), x.cmd.op = .moveRel axisNo dist vel acc dec
      jerk ∧ (axis s.chip axisNo.toNat).run = none ∧ moveLim (markRunning x.id s.chip) axisNo.toNat false vel acc dec jerk = some (l,
      false) ∧ inQ ((ownNow s.chip axisNo.toNat).p + ofQ dist) = true ∧ outsideSwl s.chip axisNo.toNat ((ownNow s.chip axisNo.toNat).p +
      ofQ dist) = false ∧ movable s.chip axisNo.toNat = true ∧ blockedDir s.chip axisNo.toNat (firstDir (ownNow s.chip axisNo.toNat)
      ((ownNow s.chip axisNo.toNat).p + ofQ dist - (ownNow s.chip axisNo.toNat).p)) = false ∧ needsReversal (ownNow s.chip axisNo.toNat)
      ((ownNow s.chip axisNo.toNat).p + ofQ dist) l = false) ∧
    (∃ (s : State) (x : InFlight) (axisNo : Word) (vel acc dec jerk : DWord) (l : Lim), x.cmd.op = .moveVel axisNo vel acc dec jerk ∧
      (axis s.chip axisNo.toNat).run = none ∧ moveLim (markRunning x.id s.chip) axisNo.toNat true vel acc dec jerk = some (l, false) ∧
      movable s.chip axisNo.toNat = true ∧ blockedDir s.chip axisNo.toNat (firstDir (ownNow s.chip axisNo.toNat) (sgn (ofQ vel) * l.v)) =
      false ∧ (planSpeed (ownNow s.chip axisNo.toNat) (sgn (ofQ vel) * l.v) l).2 = false) ∧
    (∃ (s : State) (x : InFlight) (axisNo : Word) (kind : Byte), x.cmd.op = .stop axisNo kind ∧ kind.toNat ≤ 2 ∧ pageEnabled s.chip
      (axmPage axisNo.toNat) = true ∧ selfCommanded s.chip axisNo.toNat = false ∧ (snlSt s.chip axisNo.toNat).test = false ∧ (axis s.chip
      axisNo.toNat).waiting = false ∧ groupOf s.chip axisNo.toNat = none ∧ (axis s.chip axisNo.toNat).state = .moving ∧ pulseAxis s.chip
      axisNo.toNat = false) ∧
    (∃ (s : State) (x : InFlight) (axisNo : Word) (kind : Byte), x.cmd.op = .stop axisNo kind ∧ kind.toNat ≤ 2 ∧ pageEnabled s.chip
      (axmPage axisNo.toNat) = true ∧ selfCommanded s.chip axisNo.toNat = false ∧ (snlSt s.chip axisNo.toNat).test = false ∧ (axis s.chip
      axisNo.toNat).waiting = false ∧ groupOf s.chip axisNo.toNat = none ∧ (axis s.chip axisNo.toNat).state = .ready ∨ (axis s.chip
      axisNo.toNat).state = .holding ∨ (axis s.chip axisNo.toNat).state = .slack ∨ (axis s.chip axisNo.toNat).state = .disabled) ∧
    (∃ (s : State) (x : InFlight) (axisNo : Word) (r : Run), x.cmd.op = .resume axisNo ∧ pageEnabled s.chip (axmPage axisNo.toNat) = true
      ∧ (axis s.chip axisNo.toNat).state = .slack ∧ groupOf s.chip axisNo.toNat = none ∧ s.chip.hits.filter (fun h => h.2.cfg.slave ==
      axisNo.toNat && h.2.state == .suspended) = [] ∧ (axis s.chip axisNo.toNat).kept = some r ∧ resumeCheck (markRunning x.id s.chip)
      axisNo.toNat r = 0) ∧
    (∃ (s : State) (x : InFlight) (axisNo : Word) (flags : Byte) (search creep accel offset : DWord), x.cmd.op = .home axisNo 0 flags
      search creep accel offset ∧ pageEnabled s.chip (axmPage axisNo.toNat) = true ∧ selfCommanded s.chip axisNo.toNat = false ∧ (axis
      s.chip axisNo.toNat).state = .ready ∨ (axis s.chip axisNo.toNat).state = .slack ∧ (axis s.chip axisNo.toNat).holdPend = false ∧
      groupOf s.chip axisNo.toNat = none ∧ inQ ((axis s.chip axisNo.toNat).target + (ofQ offset - (axis s.chip axisNo.toNat).cur.p)) =
      true) ∧
    (∃ (s : State) (x : InFlight) (axisNo : Word), x.cmd.op = .enable axisNo 1 ∧ s.chip.pwr.state = .run ∧ pageEnabled s.chip (axmPage
      axisNo.toNat) = true ∧ 128 ≤ axisNo.toNat ∧ (axis s.chip axisNo.toNat).state = .disabled ∧ (axis s.chip axisNo.toNat).enabling =
      none ∧ actQ s.chip (axmPage axisNo.toNat) 0x088 ≠ 0 ∧ actQ s.chip (axmPage axisNo.toNat) 0x090 ≠ 0 ∧ actQ s.chip (axmPage
      axisNo.toNat) 0x0A0 ≠ 0) ∧
    (∃ (s : State) (x : InFlight) (axisNo : Word), x.cmd.op = .enable axisNo 1 ∧ s.chip.pwr.state = .run ∧ pageEnabled s.chip (axmPage
      axisNo.toNat) = true ∧ axisNo.toNat < 128 ∧ (axis s.chip axisNo.toNat).state = .disabled ∧ (axis s.chip axisNo.toNat).enabling =
      none ∧ (modMode s.chip axisNo.toNat = 0 → actF s.chip (.lpa (f128 axisNo.toNat)) 0x040 2 0 ≠ 0) ∧ actQ s.chip (axmPage axisNo.toNat)
      0x088 ≠ 0 ∧ actQ s.chip (axmPage axisNo.toNat) 0x090 ≠ 0 ∧ actQ s.chip (axmPage axisNo.toNat) 0x0A0 ≠ 0 ∧ fbValid s.chip
      axisNo.toNat = true ∧ (sensorless s.chip (f128 axisNo.toNat) = true → (snlSt s.chip axisNo.toNat).state = .idle)) ∧
    (∃ (s : State) (x : InFlight) (g : Word) (ts : List DWord) (count : Byte) (relative : Bool) (vel acc dec jerk : DWord), x.cmd.op =
      .groupMove g (some ts) count relative vel acc dec jerk ∧ ts.length = count.toNat ∧ (group s.chip g.toNat).members.length ≤
      count.toNat ∧ groupBad s.chip (group s.chip g.toNat) (((group s.chip g.toNat).members.zip ts).map (fun m => (if relative then (axis
      s.chip m.1).cur.p else 0) + ofQ m.2)) count.toNat (groupOps vel acc dec jerk) = false ∧ pageEnabled s.chip (grpPage g.toNat) = true
      ∧ (group s.chip g.toNat).state = .idle ∨ (group s.chip g.toNat).state = .slack ∧ (group s.chip g.toNat).members.any (memberBusy
      s.chip) = false) ∧
    (∃ (s : State) (x : InFlight) (h : Word) (raw : BitVec 256), x.cmd.op = .hitchSet h raw ∧ isCam raw = false ∧ hitBad s.chip raw =
      false ∧ hitBusy s.chip h.toNat x.id (decodeHit raw) = false) ∧
    (∃ (s : State) (x : InFlight) (h : Word), x.cmd.op = .hitchRelease h false ∧ pageEnabled s.chip .hit = true ∧ (hitch s.chip
      h.toNat).state = .engaged ∧ (hitch s.chip h.toNat).cfg.kind ≠ .superimpose) :=
  ⟨⟨chipOnly (axisUp 159 { state := .ready }), { id := 1, cmd := { src := .ring 0 0, tag := 0, op := .moveAbs 159 16777216 16777216 16777216 16777216 0 } }, 159, 16777216, 16777216, 16777216, 16777216, 0, { v := 1, a := 1, d := 1, j := 1 }, by decide +kernel⟩,
   ⟨chipOnly (axisUp 159 { state := .ready }), { id := 1, cmd := { src := .ring 0 0, tag := 0, op := .moveRel 159 16777216 16777216 16777216 16777216 0 } }, 159, 16777216, 16777216, 16777216, 16777216, 0, { v := 1, a := 1, d := 1, j := 1 }, by decide +kernel⟩,
   ⟨chipOnly (axisUp 159 { state := .ready }), { id := 1, cmd := { src := .ring 0 0, tag := 0, op := .moveVel 159 16777216 16777216 16777216 0 } }, 159, 16777216, 16777216, 16777216, 0, { v := 1, a := 1, d := 1, j := 1 }, by decide +kernel⟩,
   ⟨chipOnly (axisUp 159 { state := .moving }), { id := 1, cmd := { src := .ring 0 0, tag := 0, op := .stop 159 2 } }, 159, 2, by decide +kernel⟩,
   ⟨chipOnly (axisUp 127 { state := .ready }), { id := 1, cmd := { src := .ring 0 0, tag := 0, op := .stop 127 0 } }, 127, 0, by decide +kernel⟩,
   ⟨chipOnly (axisUp 127 { state := .slack, kept := some { op := .moveAbs 127 1 1 1 1 1 } }), { id := 1, cmd := { src := .ring 0 0, tag := 0, op := .resume 127 } }, 127, { op := .moveAbs 127 1 1 1 1 1 }, by decide +kernel⟩,
   ⟨chipOnly (axisUp 127 { state := .ready }), { id := 1, cmd := { src := .ring 0 0, tag := 0, op := .home 127 0 0 1 1 1 16777216 } }, 127, 0, 1, 1, 1, 16777216, by decide +kernel⟩,
   ⟨chipOnly (axisUp 128 {}), { id := 1, cmd := { src := .ring 0 0, tag := 0, op := .enable 128 1 } }, 128, by decide +kernel⟩,
   ⟨chipOnly (inForce [(.mod 127, 0x040, 1)] { axisUp 127 {} with fbks := [(127, { valid := true })] }), { id := 1, cmd := { src := .ring 0 0, tag := 0, op := .enable 127 1 } }, 127, by decide +kernel⟩,
   ⟨chipOnly (running [.grp 31] { axisUp 127 { state := .ready } with grps := [(31, { members := [127] })] }), { id := 1, cmd := { src := .ring 0 0, tag := 0, op := .groupMove 31 (some [16777216]) 1 true 16777216 16777216 16777216 0 } }, 31, [16777216], 1, true, 16777216, 16777216, 16777216, 0, by decide +kernel⟩,
   ⟨chipOnly (running [.hit] (axisUp 127 { state := .ready })), { id := 1, cmd := { src := .ring 0 0, tag := 0, op := .hitchSet 255 (BitVec.ofNat 256 (0x80 * 2 ^ 16 + 0x7F * 2 ^ 24 + 2 * 2 ^ 40 + 1 * 2 ^ 64 + 1 * 2 ^ 96)) } }, 255, (BitVec.ofNat 256 (0x80 * 2 ^ 16 + 0x7F * 2 ^ 24 + 2 * 2 ^ 40 + 1 * 2 ^ 64 + 1 * 2 ^ 96)), by decide +kernel⟩,
   ⟨chipOnly (running [.hit] { old with hits := [(255, { state := .engaged })] }), { id := 1, cmd := { src := .ring 0 0, tag := 0, op := .hitchRelease 255 false } }, 255, by decide +kernel⟩⟩

theorem witness_SwitchAndLinePorts :
    (∃ (s : State) (p : Fin 5) (f : EthFrame), mainRuns s.chip = true ∧ isUp s.chip .swt = true ∧ p.val ≠ 4 ∧ netUp s.chip p.val = true ∧
      (netPort s.chip p.val).link = true ∧ bit (rd s.chip (netPage p.val) 0x040) 2 = false ∧ 64 ≤ f.len ∧ f.len ≤ 1522) ∧
    (∃ (s : State) (p : Fin 5) (f : EthFrame) (ok : Bool), mainRuns s.chip = true ∧ isUp s.chip .swt = true ∧ p.val ≠ 4 ∧ netUp s.chip
      p.val = true ∧ (netPort s.chip p.val).link = true ∧ bit (rd s.chip (netPage p.val) 0x040) 2 = false ∧ (f.len < 64 ∨ 1522 < f.len)) ∧
    (∃ (s : State) (p : Fin 5) (f g : EthFrame) (ok ok2 : Bool) (l : List (EthFrame × Bool)), mainRuns s.chip = true ∧ isUp s.chip .swt =
      true ∧ p.val ≠ 4 ∧ netUp s.chip p.val = true ∧ (netPort s.chip p.val).link = true ∧ bit (rd s.chip (netPage p.val) 0x040) 2 = true ∧
      (netPort s.chip p.val).loop = (g, ok2) :: l) ∧
    (∃ (s : State) (f g : EthFrame) (ok : Bool) (l : List EthFrame), mainRuns s.chip = true ∧ isUp s.chip .swt = true ∧ s.chip.ycp.sendq =
      g :: l) ∧
    (∃ (p : Nat) (f : EthFrame) (c : Chip), p ≠ 4 ∧ cutThrough c p f = false ∧ c.net.bufUsed + f.len ≤ 524288) ∧
    (∃ (p : Nat) (f : EthFrame) (c : Chip), p ≠ 4 ∧ cutThrough c p f = false ∧ 524288 < c.net.bufUsed + f.len) ∧
    (∃ (s : State) (p : Fin 4) (q : Nat) (f : EthFrame) (t : List EthFrame), mainRuns s.chip = true ∧ netUp s.chip p.val = true ∧ (netPort
      s.chip p.val).link = true ∧ q < 8 ∧ queueOf s.chip p.val q = f :: t ∧ frameFits s.chip p.val q f.len = true ∧ (∀ k g l, q < k → k <
      8 → queueOf s.chip p.val k = g :: l → frameFits s.chip p.val k g.len = false)) ∧
    (∃ (p : Nat) (f : EthFrame) (c : Chip), f.ptp = none ∧ bit (rd c (netPage p) 0x040) 2 = false) ∧
    (∃ (s : State) (p : Fin 4) (g : Byte) (e : Nat), mainRuns s.chip = true ∧ gclEn s.chip p.val = true ∧ isUp s.chip (netPage p.val) =
      true ∧ (netPort s.chip p.val).gclRephase = none ∧ (gclList s.chip p.val)[(netPort s.chip p.val).gclIdx]? = some (g, e) ∧ (netPort
      s.chip p.val).gclSince + e ≤ timeNs s.chip) ∧
    (∃ (s : State) (mac : BitVec 48), mainRuns s.chip = true ∧ rdF s.chip .swt 0x048 15 0 ≠ 0) ∧
    (∃ (s : State) (p : Fin 4) (an : Bool), mainRuns s.chip = true ∧ netUp s.chip p.val = true) ∧
    (∃ (s : State) (p : Fin 4) (remote : Bool), mainRuns s.chip = true ∧ (netPort s.chip p.val).link = true) ∧
    (∃ (s : State) (path : Path) (p : Fin 4) (v : Word), CanWrite s path (.net p) ∧ v &&& 0x43FFFFFF = v ∧ (netPort s.chip p.val).mdioBusy
      = false) ∧
    (∃ (s : State) (p : Fin 4) (data : BitVec 16), mainRuns s.chip = true ∧ (netPort s.chip p.val).mdioBusy = true) ∧
    (∃ (s : State) (h : IpHdr) (data : List Byte), mainRuns s.chip = true ∧ isUp s.chip .ycp = true ∧ bit (rd s.chip .ycp 0x040) 4 = true
      ∧ ipTaken s.chip h 1 = true) ∧
    (∃ (c : Chip) (ip : Word) (proto : Byte) (l4 : List Byte) (o : Output), ∃ i, neighbour c ip = some i) ∧
    (∃ (c : Chip) (ip : Word) (proto : Byte) (l4 : List Byte) (o : Output), neighbour c ip = none) :=
  ⟨⟨chipOnly (running [.swt, .net 3] { old with net.ports := [(3, { link := true })] }), 3, { frame64 with len := 1522 }, by decide +kernel⟩,
   ⟨chipOnly (running [.swt, .net 3] { old with net.ports := [(3, { link := true })] }), 3, { frame64 with len := 63 }, false, by decide +kernel⟩,
   ⟨chipOnly (running [.swt, .net 3] (put [(.net 3, 0x040, 0x106)] { old with net.ports := [(3, { link := true, loop := [(frame64, true)] })] })), 3, frame64, frame64, false, true, [], by decide +kernel⟩,
   ⟨chipOnly (running [.swt] { old with ycp.sendq := [frame64] }), frame64, frame64, false, [], by decide +kernel⟩,
   ⟨0, frame64, { old with net.bufUsed := 524288 - 64 }, by decide +kernel⟩,
   ⟨0, frame64, { old with net.bufUsed := 524288 - 63 }, by decide +kernel⟩,
   ⟨chipOnly (running [.net 3] { old with net.ports := [(3, { link := true, queues := [(6, [frame64])] })] }), 3, 6, frame64, [], by decide +kernel, by decide +kernel, by decide +kernel, by decide +kernel, by decide +kernel, by decide +kernel, fun k g l a b h => by obtain rfl : k = 7 := (by omega); nomatch (congrArg List.isEmpty h : true = false)⟩,
   ⟨3, frame64, up.chip, by decide +kernel⟩,
   ⟨chipOnly (running [.net 3] (put [(.net 3, 0x100, 1)] { old with tim.ns := 62500 })), 3, 255, 62500, by decide +kernel⟩,
   ⟨up, 0, by decide +kernel⟩,
   ⟨chipOnly (running [.net 3] old), 3, true, by decide +kernel⟩,
   ⟨chipOnly { old with net.ports := [(3, { link := true })] }, 3, true, by decide +kernel⟩,
   ⟨up, .pcie, 0, 0, by simp only [CanWrite]; decide +kernel⟩,
   ⟨chipOnly { old with net.ports := [(3, { mdioBusy := true })] }, 3, 7, by decide +kernel⟩,
   ⟨chipOnly (running [.ycp] (put [(.ycp, 0x040, 0x11)] old)), ipOf 1 1, [], by decide +kernel⟩,
   ⟨put [(.ycp, 0x1F0, 0x0A000001), (.ycp, 0x1F8, 0x80000000), (.ycp, 0x048, 0x0A000002), (.ycp, 0x04C, 0xFFFFFF00)] old, 0x0A000001, 0,
     [], .aliveEcho 0 0, 15, by decide +kernel⟩,
   ⟨put [(.ycp, 0x1F0, 0x0A000001), (.ycp, 0x1F8, 0x80000000), (.ycp, 0x048, 0x0A000002), (.ycp, 0x04C, 0xFFFFFF00)] old, 0x0A000003, 0,
     [], .aliveEcho 0 0, by decide +kernel⟩⟩

theorem witness_SessionsOpenLiveAndClose :
    (∃ (s : State) (i : Fin 4) (g : Dgram) (slot : Byte) (cn dn psk : BitVec 128), Arrives s 0x01 i false g ∧ g.body = openBody slot 0 cn
      ∧ (session s.chip i.val).state = .closed ∧ slot.toNat < 4 ∧ tabGet none s.chip.sec.psk slot.toNat = some psk) ∧
    (∃ (s : State) (i : Fin 4) (g : Dgram) (slot : Byte) (cn dn : BitVec 128), Arrives s 0x01 i false g ∧ g.body = openBody slot 0 cn ∧
      (session s.chip i.val).state = .closed ∧ (4 ≤ slot.toNat ∨ tabGet none s.chip.sec.psk slot.toNat = none)) ∧
    (∃ (s : State) (i : Fin 4) (g : Dgram) (slot : Byte) (rsv : BitVec 24) (cn dn : BitVec 128), Arrives s 0x01 i false g ∧ (rsv ≠ 0 ∨
      g.body ≠ openBody slot rsv cn)) ∧
    (∃ (s : State) (i : Fin 4) (g : Dgram), (session s.chip i.val).state = .opened ∧ Arrives s 0x06 i true g ∧ authentic (session s.chip
      i.val) 0x06 i.val .tagged [] g = false) ∧
    (∃ (s : State) (i : Fin 4) (g : Dgram), (session s.chip i.val).state = .opened ∧ Arrives s 0x07 i true g ∧ authentic (session s.chip
      i.val) 0x07 i.val .tagged [] g = false) ∧
    (∃ (s : State) (i : Fin 4), mainRuns s.chip = true ∧ (session s.chip i.val).state = .pending ∧ (session s.chip i.val).lastAuth +
      100000000 ≤ s.chip.clk.now) ∧
    (∃ (s : State) (i : Fin 4), mainRuns s.chip = true ∧ (session s.chip i.val).state = .opened ∧ (session s.chip i.val).lastAuth + rdF
      s.chip .ycp (sesOff i.val 0x0C) 15 0 * 1000000 ≤ s.chip.clk.now) ∧
    (∃ (s : State) (path : Path) (i : Fin 4), CanWrite s path .ycp ∧ (session s.chip i.val).state = .opened) ∧
    (∃ (s : State) (path : Path) (tag st : Byte) (t : List (Byte × Byte)), fabricUp s.chip path = true ∧ s.chip.ycp.orphans = (tag, st) ::
      t) :=
  ⟨⟨chipOnly (running [.ycp] (put [(.ycp, 0x040, 0x11)] { old with sec.psk := [(3, some 7)], ycp.ses := [(3, {})] })), 3, dgram 0 (openBody 3 0 9) none, 3, 9, 0, 7, by simp only [Arrives]; decide +kernel⟩,
   ⟨chipOnly (running [.ycp] (put [(.ycp, 0x040, 0x11)] { old with sec.psk := [(3, some 7)], ycp.ses := [(3, {})] })), 3, dgram 0 (openBody 4 0 9) none, 4, 9, 0, by simp only [Arrives]; decide +kernel⟩,
   ⟨chipOnly (running [.ycp] (put [(.ycp, 0x040, 0x11)] { old with sec.psk := [(3, some 7)], ycp.ses := [(3, {})] })), 3, dgram 0 (openBody 3 1 9) none, 3, 1, 9, 0, by simp only [Arrives]; decide +kernel⟩,
   ⟨chipOnly (running [.ycp] (put [(.ycp, 0x040, 0x11)] { old with ycp.ses := [(3, { opened with ip := 9 })] })), 3, taggedGram 6 1, by decide +kernel, by refine ⟨?_, ?_, ?_, ?_, rfl⟩ <;> decide +kernel, by decide +kernel⟩,
   ⟨chipOnly (running [.ycp] (put [(.ycp, 0x040, 0x11)] { old with ycp.ses := [(3, { opened with ip := 9 })] })), 3, taggedGram 7 1, by decide +kernel, by refine ⟨?_, ?_, ?_, ?_, rfl⟩ <;> decide +kernel, by decide +kernel⟩,
   ⟨chipOnly { old with ycp.ses := [(3, { state := .pending, lastAuth := 1000000000000 - 100000000 })] }, 3, by decide +kernel⟩,
   ⟨chipOnly { old with ycp.ses := [(3, { state := .opened })] }, 3, by decide +kernel⟩,
   ⟨chipOnly { old with ycp.ses := [(3, { state := .opened })] }, .pcie, 3, by simp only [CanWrite]; decide +kernel⟩,
   ⟨chipOnly { old with ycp.orphans := [(1, 2)] }, .pcie, 1, 2, [], by decide +kernel⟩⟩

theorem witness_YcpRequestsRunInOrder :
    (∃ (s : State) (i : Fin 4) (q v : Word) (b : YcpBody), ycpBad { kind := .read, body := b } = none) ∧
    (∃ (s : State) (i : Fin 4) (q v : Word) (b : YcpBody), ycpBad { kind := .write, body := b } = none ∧ beWords b.rest = [v]) ∧
    (∃ (s : State) (i : Fin 4) (q v : Word) (b : YcpBody), ycpBad { kind := .readBlock, body := b } = none) ∧
    (∃ (s : State) (i : Fin 4) (q v : Word) (b : YcpBody), ycpBad { kind := .writeBlock, body := b } = none) ∧
    (∃ (s t : State) (i : Fin 4) (q v : Word) (n off : Nat) (acc l : List Word) (st d : Byte), ycpReadOne i off s = (t, .ok v)) ∧
    (∃ (s t : State) (i : Fin 4) (q v : Word) (n off : Nat) (acc l : List Word) (st d : Byte), ycpReadOne i off s = (t, .error (st, d))) ∧
    (∃ (s t : State) (i : Fin 4) (q v : Word) (n off : Nat) (acc l : List Word) (st d : Byte), ycpWriteOne i off v s = (t, none)) ∧
    (∃ (s t : State) (i : Fin 4) (q v : Word) (n off : Nat) (acc l : List Word) (st d : Byte), ycpWriteOne i off v s = (t, some (st, d))) ∧
    (∃ (s : State) (i : Fin 4) (q : Word) (op : YcpOp), ycpLenOk op = false) ∧
    (∃ (s : State) (i : Fin 4) (q : Word) (op : YcpOp), ycpLenOk op = true ∧ op.body.size ≠ 4) ∧
    (∃ (s : State) (i : Fin 4) (q : Word) (op : YcpOp), ycpLenOk op = true ∧ op.body.size = 4 ∧ op.kind ≠ .command ∧ op.body.addr.toNat %
      4 ≠ 0) ∧
    (∃ (s : State) (i : Fin 4) (q : Word) (b : YcpBody) (buf : Option (List DWord)), ycpBad { kind := .command, body := b, buf := buf } =
      none ∧ 256 ≤ orphanUse s.chip) ∧
    (∃ (s : State) (i : Fin 4) (q : Word) (b : YcpBody) (buf : Option (List DWord)), ycpBad { kind := .command, body := b, buf := buf } =
      none ∧ orphanUse s.chip < 256 ∧ commandServes s.chip = false) ∧
    (∃ (s : State) (i : Fin 4) (q : Word) (b : YcpBody) (buf : Option (List DWord)), ycpBad { kind := .command, body := b, buf := buf } =
      none ∧ orphanUse s.chip < 256 ∧ commandServes s.chip = true) :=
  ⟨⟨up, 0, 0, 0, rdBody, by decide +kernel⟩,
   ⟨up, 0, 0, 0, wrBody, by decide +kernel⟩,
   ⟨up, 0, 0, 0, rdBody, by decide +kernel⟩,
   ⟨up, 0, 0, 0, wrBody, by decide +kernel⟩,
   ⟨up, _, 0, 0, _, 0, 0, [], [], 0, 0, rfl⟩,
   ⟨up, up, 0, 0, 0, 0, 0x400000 - 0x2000, [], [], 0x10, 0, by decide +kernel⟩,
   ⟨up, up, 0, 0, 0, 0, 0, [], [], 0, 0, by decide +kernel⟩,
   ⟨up, up, 0, 0, 0, 0, 0x400000 - 0x2000, [], [], 0x10, 0, by decide +kernel⟩,
   ⟨up, 0, 0, { kind := .read, body := { count := 2 } }, by decide +kernel⟩,
   ⟨up, 0, 0, { kind := .read, body := { size := 3 } }, by decide +kernel⟩,
   ⟨up, 0, 0, { kind := .write, body := { wrBody with addr := 2 } }, by decide +kernel⟩,
   ⟨chipOnly { old with ycp.orphans := List.replicate 256 (1, 2) }, 0, 0, cmdBody, none, by decide +kernel⟩,
   ⟨chipOnly { old with ycp.orphans := List.replicate 255 (1, 2) }, 0, 0, cmdBody, none, by decide +kernel⟩,
   ⟨chipOnly (running [.cmd] { old with ycp.orphans := List.replicate 255 (1, 2) }), 0, 0, cmdBody, none, by decide +kernel⟩⟩

theorem witness_HitchFramesPublishAndSubscribe :
    (∃ (s : State) (t0 : Nat) (st : Stamp) (es : List HitchEntry), mainRuns s.chip = true ∧ s.chip.hfr.sampled = some (t0, st, es) ∧ t0 +
      1000 ≤ s.chip.clk.now ∧ isUp s.chip .hfr = true) ∧
    (∃ (s : State) (port : Fin 4) (rx : Nat) (f : HitchFrame), mainRuns s.chip = true) ∧
    (∃ (c : Chip) (port rx : Nat), bit (rd c (netPage port) 0x040) 8 = true) ∧
    (∃ (c : Chip) (port rx : Nat), bit (rd c (netPage port) 0x040) 8 = false) ∧
    (∃ (c : Chip) (j : Nat) (f : HitchFrame) (at16 : Int), subEn c j = true ∧ fld (subCtl c j) 15 0 = f.pubId.toNat ∧ f.locked = true ∧
      ((stampNs f.sample : Int) - actF c .knt 0x044 29 0) % (periodNs c : Int) = 0 ∧ at16 < (subDeadline c (stampNs f.sample) * 16 : Int)
      ∧ (sub c j).adopted = true ∧ f.epoch = (sub c j).epoch) ∧
    (∃ (c : Chip) (j : Nat) (f : HitchFrame) (at16 : Int), subEn c j = true ∧ fld (subCtl c j) 15 0 = f.pubId.toNat ∧ f.locked = true ∧
      ((stampNs f.sample : Int) - actF c .knt 0x044 29 0) % (periodNs c : Int) = 0 ∧ at16 < (subDeadline c (stampNs f.sample) * 16 : Int)
      ∧ (sub c j).adopted = false) ∧
    (∃ (c : Chip) (j : Nat) (f : HitchFrame) (at16 : Int), subEn c j = true ∧ fld (subCtl c j) 15 0 = f.pubId.toNat ∧ f.locked = true ∧
      ((stampNs f.sample : Int) - actF c .knt 0x044 29 0) % (periodNs c : Int) = 0 ∧ (subDeadline c (stampNs f.sample) * 16 : Int) ≤ at16
      ∧ (sub c j).adopted = true ∧ f.epoch = (sub c j).epoch ∧ (sub c j).seq.toNat < f.seq.toNat) ∧
    (∃ (s : State) (j : Fin 16), mainRuns s.chip = true ∧ subEn s.chip j.val = true ∧ (sub s.chip j.val).adopted = true ∧ subDeadline
      s.chip ((sub s.chip j.val).period + (sub s.chip j.val).ndiv * s.chip.tim.lenNs) ≤ timeNs s.chip ∧ min 15 ((sub s.chip j.val).misses
      + 1) < fld (subCtl s.chip j.val) 19 16) ∧
    (∃ (s : State) (j : Fin 16), mainRuns s.chip = true ∧ subEn s.chip j.val = true ∧ (sub s.chip j.val).adopted = true ∧ subDeadline
      s.chip ((sub s.chip j.val).period + (sub s.chip j.val).ndiv * s.chip.tim.lenNs) ≤ timeNs s.chip ∧ fld (subCtl s.chip j.val) 19 16 ≤
      min 15 ((sub s.chip j.val).misses + 1) ∧ (sub s.chip j.val).state ≠ .lost) :=
  ⟨⟨chipOnly (running [.hfr] { old with hfr.sampled := some (1000000000000 - 1000, {}, []) }), 1000000000000 - 1000, {}, [], by decide +kernel⟩,
   ⟨up, 0, 0, { ndiv := 1, locked := true, restart := false, step := false, pubId := 1, epoch := 5, seq := 1, sample := {}, entries := [] }, by decide +kernel⟩,
   ⟨running [.hfr] (put [(.hfr, subOff 15 0, 0x80000001)] { old with hfr.subs := [(15, { adopted := true, epoch := 5 })] }), 0, 0, by decide +kernel⟩,
   ⟨put [(.net 3, 0x040, 2)] old, 3, 0, by decide +kernel⟩,
   ⟨running [.hfr] (put [(.hfr, subOff 15 0, 0x80030005)] { old with hfr.subs := [(15, { adopted := true, epoch := 7 })] }), 15, { ndiv := 1, locked := true, restart := false, step := false, pubId := 5, epoch := 7, seq := 9, sample := {}, entries := [] }, 63500 * 16 - 1, by decide +kernel⟩,
   ⟨running [.hfr] (put [(.hfr, subOff 15 0, 0x80030005)] { old with hfr.subs := [(15, {  })] }), 15, { ndiv := 1, locked := true, restart := false, step := false, pubId := 5, epoch := 7, seq := 9, sample := {}, entries := [] }, 63500 * 16 - 1, by decide +kernel⟩,
   ⟨running [.hfr] (put [(.hfr, subOff 15 0, 0x80030005)] { old with hfr.subs := [(15, { adopted := true, epoch := 7, seq := 8 })] }), 15, { ndiv := 1, locked := true, restart := false, step := false, pubId := 5, epoch := 7, seq := 9, sample := {}, entries := [] }, 63500 * 16, by decide +kernel⟩,
   ⟨chipOnly (running [.hfr] (put [(.hfr, subOff 15 0, 0x80030005)] { old with tim.ns := 200000, hfr.subs := [(15, { adopted := true, misses := 1 })] })), 15, by decide +kernel⟩,
   ⟨chipOnly (running [.hfr] (put [(.hfr, subOff 15 0, 0x80030005)] { old with tim.ns := 200000, hfr.subs := [(15, { adopted := true, misses := 2 })] })), 15, by decide +kernel⟩⟩

theorem witness_TimeServoAndDeviceTime :
    (∃ (s : State), mainRuns s.chip = true ∧ (s.chip.tim.relocking = true ∨ s.chip.tim.pllLock = false)) ∧
    (∃ (s : State) (path : Path), fabricUp s.chip path = true) ∧
    (∃ (s : State) (falling : Bool), mainRuns s.chip = true ∧ bit (rd s.chip .tim 0x040) 13 = falling) ∧
    (∃ (s : State) (path : Path) (v : Word), CanWrite s path .tim) ∧
    (∃ (src : Nat) (port : Option Nat) (th : Rat) (c : Chip), isUp c .tim = true ∧ bit (rd c .tim 0x040) 8 = true ∧ fld (rd c .tim 0x040)
      5 4 = src ∧ (src = 3 ∨ rdF c .tim 0x07C 15 0 = 0 ∨ 3 ≤ c.tim.discardRun ∨ c.tim.thetaPrev = none)) ∧
    (∃ (th : Rat) (c : Chip), c.tim.servo = .acquiring ∧ absRat th ≤ (rd c .tim 0x06C).toNat ∧ absRat th ≤ (rdF c .tim 0x070 15 0 : Rat)) ∧
    (∃ (s : State) (path : Path) (v : Word), CanWrite s path .tim ∧ v &&& 0x3FFFFFFF = v ∧ v.toNat ≤ 999999999) ∧
    (∃ (c : Chip) (p : Nat) (st : Stamp), c.tim.setPoint = some p ∧ p ≤ c.clk.now ∧ c.tim.setReq = some st ∧ (∀ q, c.tim.stepPoint = some
      q → c.clk.now < q)) ∧
    (∃ (c : Chip) (p : Nat) (r : Rat), c.tim.setPoint = none ∧ c.tim.stepPoint = some p ∧ p ≤ c.clk.now ∧ c.tim.stepReq = some r) ∧
    (∃ (c : Chip) (new32 : Int) (new : Nat), new = (new32 / 2 ^ 32).toNat) ∧
    (∃ (s : State), mainRuns s.chip = true ∧ s.chip.tim.servo = .locked ∧ s.chip.tim.lastSample + rdF s.chip .tim 0x074 15 0 * 1000000 ≤
      s.chip.clk.now) ∧
    (∃ (s : State), mainRuns s.chip = true ∧ s.chip.tim.servo = .acquiring ∧ s.chip.tim.lastSample + rdF s.chip .tim 0x074 15 0 * 1000000
      ≤ s.chip.clk.now) :=
  ⟨⟨up, by decide +kernel⟩,
   ⟨up, .pcie, by decide +kernel⟩,
   ⟨up, false, by decide +kernel⟩,
   ⟨up, .pcie, 0, by simp only [CanWrite]; decide +kernel⟩,
   ⟨3, none, 0, running [.tim] (put [(.tim, 0x040, 0x130)] old), by decide +kernel⟩,
   ⟨0, { old with tim.servo := .acquiring }, by decide +kernel⟩,
   ⟨up, .pcie, 999999999, by simp only [CanWrite]; decide +kernel⟩,
   ⟨{ old with tim.setPoint := some 1000000000000, tim.setReq := some {} }, 1000000000000, {}, by decide +kernel, by decide +kernel, by decide +kernel, fun q h => absurd h (by simp [old])⟩,
   ⟨{ old with tim.stepPoint := some 1000000000000, tim.stepReq := some 1 }, 1000000000000, 1, by decide +kernel⟩,
   ⟨up.chip, 0, 0, by decide +kernel⟩,
   ⟨chipOnly { old with tim.servo := .locked }, by decide +kernel⟩,
   ⟨chipOnly { old with tim.servo := .acquiring }, by decide +kernel⟩⟩

theorem witness_PrecisionTimeMessages :
    (∃ (s : State) (p : Fin 4) (m : PtpMsg) (rx : Int), mainRuns s.chip = true ∧ ptpEn s.chip = true ∧ ptpTakes s.chip m = true ∧
      ptpTransparent s.chip = false ∧ ptpState s.chip p.val = 2 ∧ m.srcId = rdPair s.chip .tim 0x20C ∧ m.srcPort.toNat = rdF s.chip .tim
      0x214 15 0 ∧ (ptpPort s.chip p.val).pendSync = none ∧ rxTime s.chip p.val m = some rx) ∧
    (∃ (s : State) (p : Fin 4) (m : PtpMsg), mainRuns s.chip = true ∧ ptpEn s.chip = true ∧ ptpTakes s.chip m = true ∧ ptpTransparent
      s.chip = true ∧ ptpState s.chip p.val ≠ 2) ∧
    (∃ (s : State) (p : Fin 4) (m : PtpMsg), mainRuns s.chip = true ∧ ptpEn s.chip = true ∧ ptpTakes s.chip m = true ∧ ptpTransparent
      s.chip = true ∧ ptpState s.chip p.val ≠ 2) ∧
    (∃ (s : State) (p : Fin 4) (m : PtpMsg), mainRuns s.chip = true ∧ ptpEn s.chip = true ∧ ptpTakes s.chip m = true ∧ ptpTransparent
      s.chip = true ∧ (ptpState s.chip p.val ≠ 3 ∨ isP2p s.chip = true)) ∧
    (∃ (s : State) (p : Fin 4) (m : PtpMsg), mainRuns s.chip = true ∧ ptpEn s.chip = true ∧ ptpTakes s.chip m = true ∧ ptpTransparent
      s.chip = true ∧ isP2p s.chip = false) ∧
    (∃ (s : State) (p : Fin 4) (m : PtpMsg) (corr rx : Int), mainRuns s.chip = true ∧ ptpEn s.chip = true ∧ ptpTakes s.chip m = true ∧
      ptpTransparent s.chip = false ∧ ptpState s.chip p.val = 2 ∧ m.srcId = rdPair s.chip .tim 0x20C ∧ (ptpPort s.chip p.val).pendSync =
      some (m.seq, corr, rx)) ∧
    (∃ (p : Nat) (t1 t2 corr d : Int) (c : Chip), ptpQuiet c p = false ∧ (ptpPort c p).mpd = some d ∧ slavePort c = some p) ∧
    (∃ (p : Nat) (t1 t2 corr : Int) (d : Rat) (c : Chip), ptpQuiet c p = true) ∧
    (∃ (s : State) (p : Fin 4) (m : PtpMsg) (rx : Int), mainRuns s.chip = true ∧ ptpEn s.chip = true ∧ ptpTakes s.chip m = true ∧
      ptpTransparent s.chip = false ∧ ptpState s.chip p.val = 3 ∧ isP2p s.chip = false ∧ rxTime s.chip p.val m = some rx) ∧
    (∃ (s : State) (p : Fin 4) (m : PtpMsg) (t1 t2 t3 cs : Int), mainRuns s.chip = true ∧ ptpEn s.chip = true ∧ ptpTakes s.chip m = true ∧
      ptpTransparent s.chip = false ∧ ptpState s.chip p.val = 2 ∧ isP2p s.chip = false ∧ (ptpPort s.chip p.val).reqT = some t3 ∧ (ptpPort
      s.chip p.val).lastSync = some (t1, t2, cs) ∧ ptpOwn s.chip p.val m = true) ∧
    (∃ (s : State) (p : Fin 4) (m : PtpMsg) (rx : Int), mainRuns s.chip = true ∧ ptpEn s.chip = true ∧ ptpTakes s.chip m = true ∧ isP2p
      s.chip = true ∧ ptpState s.chip p.val ≠ 0 ∧ rxTime s.chip p.val m = some rx) ∧
    (∃ (s : State) (p : Fin 4) (m : PtpMsg) (t1 t2 t3 t4 : Int), mainRuns s.chip = true ∧ ptpEn s.chip = true ∧ ptpTakes s.chip m = true ∧
      isP2p s.chip = true ∧ (ptpPort s.chip p.val).reqT = some t1 ∧ ptpOwn s.chip p.val m = true ∧ rxTime s.chip p.val m = some t4) ∧
    (∃ (s : State) (p : Fin 4) (m : PtpMsg) (body : List Word), mainRuns s.chip = true ∧ ptpEn s.chip = true ∧ ptpTakes s.chip m = true) ∧
    (∃ (s : State) (path : Path) (p : Fin 4) (body : List Word) (l : List (Fin 4 × List Word)), fabricUp s.chip path = true ∧
      s.chip.tim.annRx = (p, body) :: l) ∧
    (∃ (s : State) (p : Fin 4), mainRuns s.chip = true ∧ ptpEn s.chip = true ∧ ptpState s.chip p.val = 3 ∧ (ptpPort s.chip
      p.val).lastSyncTx + ptpInterval s.chip p.val 8 ≤ s.chip.clk.now) ∧
    (∃ (s : State) (p : Fin 4), mainRuns s.chip = true ∧ ptpEn s.chip = true ∧ ptpState s.chip p.val = 3 ∧ (ptpPort s.chip
      p.val).lastAnnTx + ptpInterval s.chip p.val 16 ≤ s.chip.clk.now) ∧
    (∃ (s : State) (p : Fin 4), mainRuns s.chip = true ∧ ptpEn s.chip = true ∧ (if isP2p s.chip = true then ptpState s.chip p.val ≠ 0 else
      ptpState s.chip p.val = 2) ∧ (ptpPort s.chip p.val).lastReqTx + ptpInterval s.chip p.val 12 ≤ s.chip.clk.now) ∧
    (∃ (p : Nat) (m : PtpTx) (c : Chip), c.net.bufUsed + (ptpFrame c p m).len ≤ 524288) :=
  ⟨⟨chipOnly (running [.tim] (put [(.tim, 0x200, 1), (.tim, 0x22C, 2)] { old with tim.ptp := [(3, {  })] })), 3, msg, 0, by decide +kernel⟩,
   ⟨chipOnly (running [.tim] (put [(.tim, 0x200, 5), (.tim, 0x22C, 3)] { old with tim.ptp := [(3, {  })] })), 3, msg, by decide +kernel⟩,
   ⟨chipOnly (running [.tim] (put [(.tim, 0x200, 5), (.tim, 0x22C, 3)] { old with tim.ptp := [(3, {  })] })), 3, msg, by decide +kernel⟩,
   ⟨chipOnly (running [.tim] (put [(.tim, 0x200, 5), (.tim, 0x22C, 2)] { old with tim.ptp := [(3, {  })] })), 3, msg, by decide +kernel⟩,
   ⟨chipOnly (running [.tim] (put [(.tim, 0x200, 5), (.tim, 0x22C, 2)] { old with tim.ptp := [(3, {  })] })), 3, msg, by decide +kernel⟩,
   ⟨chipOnly (running [.tim] (put [(.tim, 0x200, 1), (.tim, 0x22C, 2)] { old with tim.ptp := [(3, { pendSync := some (0, 1, 2) })] })), 3, msg, 1, 2, by decide +kernel⟩,
   ⟨3, 0, 0, 0, 5, running [.tim] (put [(.tim, 0x200, 1), (.tim, 0x22C, 2)] { old with tim.ptp := [(3, { mpd := some 5 })] }), by decide +kernel⟩,
   ⟨3, 0, 0, 0, 0, running [.tim] (put [(.tim, 0x200, 1), (.tim, 0x22C, 2)] { old with tim.ptp := [(3, { quietTo := 2000000000000 })] }), by decide +kernel⟩,
   ⟨chipOnly (running [.tim] (put [(.tim, 0x200, 1), (.tim, 0x22C, 3)] { old with tim.ptp := [(3, {  })] })), 3, msg, 0, by decide +kernel⟩,
   ⟨chipOnly (running [.tim] (put [(.tim, 0x200, 1), (.tim, 0x22C, 2)] { old with tim.ptp := [(3, { reqT := some 3, lastSync := some (1, 2, 0) })] })), 3, { reqPort := 4 }, 1, 2, 3, 0, by decide +kernel⟩,
   ⟨chipOnly (running [.tim] (put [(.tim, 0x200, 9), (.tim, 0x22C, 3)] { old with tim.ptp := [(3, {  })] })), 3, msg, 0, by decide +kernel⟩,
   ⟨chipOnly (running [.tim] (put [(.tim, 0x200, 9), (.tim, 0x22C, 2)] { old with tim.ptp := [(3, { reqT := some 1 })] })), 3, { reqPort := 4 }, 1, 0, 0, 0, by decide +kernel⟩,
   ⟨chipOnly (running [.tim] (put [(.tim, 0x200, 1), (.tim, 0x22C, 3)] { old with tim.ptp := [(3, {  })] })), 3, msg, [], by decide +kernel⟩,
   ⟨chipOnly { old with tim.annRx := [(3, [1])] }, .pcie, 3, [1], [], by decide +kernel⟩,
   ⟨chipOnly (running [.tim] (put [(.tim, 0x200, 1), (.tim, 0x22C, 3)] { old with tim.ptp := [(3, {  })] })), 3, by decide +kernel⟩,
   ⟨chipOnly (running [.tim] (put [(.tim, 0x200, 1), (.tim, 0x22C, 3)] { old with tim.ptp := [(3, {  })] })), 3, by decide +kernel⟩,
   ⟨chipOnly (running [.tim] (put [(.tim, 0x200, 1), (.tim, 0x22C, 2)] { old with tim.ptp := [(3, {  })] })), 3, by decide +kernel⟩,
   ⟨3, { kind := .sync }, { old with net.bufUsed := 524288 - 64 }, by decide +kernel⟩⟩

theorem witness_KnotsAndCaptures :
    (∃ (s : State) (k : Fin 32), k.val ≠ 0 ∧ mainRuns s.chip = true ∧ (knot s.chip k.val).armed = true ∧ (knot s.chip k.val).next ≤ time16
      s.chip ∧ isUp s.chip .knt = true) ∧
    (∃ (s : State) (i : Fin 4), mainRuns s.chip = true ∧ tabGet 0 s.chip.knt.pinUntil i.val ≠ 0 ∧ tabGet 0 s.chip.knt.pinUntil i.val ≤
      s.chip.clk.now) ∧
    (∃ (s : State) (k : Fin 8) (rising : Bool) (held : Nat), mainRuns s.chip = true ∧ bit (rd s.chip .tim (0x0A0 + 4 * k.val)) (if rising
      then 0 else 1) = true ∧ fld (rd s.chip .tim (0x0A0 + 4 * k.val)) 7 4 ≤ held ∧ isUp s.chip .tim = true) ∧
    (∃ (s : State) (path : Path) (k : Fin 8) (e : CapEntry) (l : List CapEntry), fabricUp s.chip path = true ∧ tabGet [] s.chip.tim.caps
      k.val = e :: l) :=
  ⟨⟨chipOnly (running [.knt] { old with knt.knots := [(31, { armed := true })] }), 31, by decide +kernel⟩,
   ⟨chipOnly { old with knt.pinUntil := [(3, 1000000000000)] }, 3, by decide +kernel⟩,
   ⟨chipOnly (running [.tim] (put [(.tim, 0x0BC, 0xF1)] old)), 7, true, 15, by decide +kernel⟩,
   ⟨chipOnly { old with tim.caps := [(7, [{}])] }, .pcie, 7, {}, [], by decide +kernel⟩⟩

theorem witness_AxisLimitsLatchesAndCompares :
    (∃ (s : State) (n : Fin 160) (positive active : Bool), limLevel s.chip n.val positive ≠ active) ∧
    (∃ (s : State) (n : Fin 160) (positive active : Bool), mainRuns s.chip = true ∧ limLevel s.chip n.val positive = active) ∧
    (∃ (s : State) (n : Fin 160), ∃ active, mainRuns s.chip = true ∧ (axis s.chip n.val).state = .homing ∧ (axis s.chip n.val).home.phase
      = 1 ∧ (axis s.chip n.val).home.edge = none ∧ (axis s.chip n.val).home.reversing = false ∧ (axis s.chip n.val).home.method ∈ [1, 2,
      7, 8] ∧ (axis s.chip n.val).home.dwellEnd = none ∧ active ≠ bit (axis s.chip n.val).home.flags 1 ∧ homeLevel s.chip n.val = active) ∧
    (∃ (s : State) (n : Fin 160), mainRuns s.chip = true ∧ (axis s.chip n.val).state = .homing ∧ (axis s.chip n.val).home.phase = 1 ∧
      (axis s.chip n.val).home.edge = none ∧ (axis s.chip n.val).home.reversing = false ∧ (axis s.chip n.val).home.method = 3 ∧ limLevel
      s.chip n.val true = true) ∧
    (∃ (s : State) (n : Fin 160), mainRuns s.chip = true ∧ (axis s.chip n.val).state = .homing ∧ (axis s.chip n.val).home.phase = 1 ∧
      (axis s.chip n.val).home.edge = none ∧ (axis s.chip n.val).home.reversing = false ∧ (axis s.chip n.val).home.method = 4 ∧ limLevel
      s.chip n.val false = true) ∧
    (∃ (s : State) (n : Fin 160), mainRuns s.chip = true ∧ (axis s.chip n.val).state = .homing ∧ (axis s.chip n.val).home.phase = 1 ∧
      (axis s.chip n.val).home.edge = none ∧ (axis s.chip n.val).home.reversing = false ∧ (axis s.chip n.val).home.method = 5 ∨ (axis
      s.chip n.val).home.method = 6 ∧ (axis s.chip n.val).home.dwellEnd = none ∧ fbIndex s.chip n.val = true) ∧
    (∃ (s : State) (n : Fin 160) (t : Nat), mainRuns s.chip = true ∧ (axis s.chip n.val).home.dwellEnd = some t ∧ t ≤ s.chip.clk.now) ∧
    (∃ (s : State) (path : Path) (n : Fin 160) (l : Fin 2), CanWrite s path (.axm n)) ∧
    (∃ (s : State) (n : Fin 160) (l : Fin 2) (rising : Bool), mainRuns s.chip = true ∧ fld (act s.chip (axmPage n.val) (latBase l.val)) 6
      0 ≠ 0 ∧ (fld (act s.chip (axmPage n.val) (latBase l.val)) 6 0 ≤ 2 → n.val < 128) ∧ (11 ≤ fld (act s.chip (axmPage n.val) (latBase
      l.val)) 6 0 → isOut s.chip.field (fld (act s.chip (axmPage n.val) (latBase l.val)) 6 0 - 11) = false) ∧ bit (act s.chip (axmPage
      n.val) (latBase l.val)) (if rising then 8 else 9) = true ∧ (latSt (axis s.chip n.val) l.val).armed = true ∧ bit (act s.chip (axmPage
      n.val) (latBase l.val)) 13 = false ∧ bit (act s.chip (axmPage n.val) (latBase l.val)) 14 = false ∧ pageEnabled s.chip (axmPage
      n.val) = true) ∧
    (∃ (s : State) (path : Path) (n : Fin 160) (l : Fin 2) (e : LatEntry) (f : List LatEntry), fabricUp s.chip path = true ∧ (latSt (axis
      s.chip n.val) l.val).fifo = e :: f) ∧
    (∃ (s : State) (n : Fin 128) (u : Fin 4) (x : CmpSched), mainRuns s.chip = true ∧ (cmpSt (axis s.chip n.val) u.val).sched.find? (fun
      s' => s'.output == 65 && !s'.switched && decide (s'.time ≤ timeNs s.chip)) = some x) ∧
    (∃ (s : State) (n : Fin 128) (u : Fin 4) (t : Nat), mainRuns s.chip = true ∧ (cmpSt (axis s.chip n.val) u.val).spareEnd = some t ∧ t ≤
      timeNs s.chip) ∧
    (∃ (s : State) (n : Fin 128) (m : Nat), mainRuns s.chip = true ∧ pulseAxis s.chip n.val = true ∧ (axis s.chip n.val).step.inc ≠ 0 ∧ m
      = (2 ^ 48 - (axis s.chip n.val).step.phase + (axis s.chip n.val).step.inc - 1) / (axis s.chip n.val).step.inc ∧ max ((axis s.chip
      n.val).step.ticks + m) (if (axis s.chip n.val).step.wait then actF s.chip (axmPage n.val) 0x0F0 31 16 else 0) ≤ frameTicksNow
      s.chip) :=
  ⟨⟨up, 159, false, true, by decide +kernel⟩,
   ⟨chipOnly (axisUp 127 { state := .homing, home := { phase := 1, method := 2 } }), 127, false, false, by decide +kernel⟩,
   ⟨chipOnly (inForce [(.axm 127, 0x0B8, 0x10000)] { axisUp 127 { state := .homing, home := { phase := 1, method := 8, flags := 0 } } with fld.inLevel := 1 }), 127, true, by decide +kernel⟩,
   ⟨chipOnly (inForce [(.axm 127, 0x0B8, 1)] { axisUp 127 { state := .homing, home := { phase := 1, method := 3 } } with fld.inLevel := 1 }), 127, by decide +kernel⟩,
   ⟨chipOnly (inForce [(.axm 127, 0x0B8, 0x100)] { axisUp 127 { state := .homing, home := { phase := 1, method := 4 } } with fld.inLevel := 1 }), 127, by decide +kernel⟩,
   ⟨chipOnly (inForce [(.fbk 127, 0x040, 1)] (axisUp 127 { state := .homing, home := { phase := 1, method := 6 } })), 127, by decide +kernel⟩,
   ⟨chipOnly (axisUp 127 { home := { dwellEnd := some 1000000000000 } }), 127, 1000000000000, by decide +kernel⟩,
   ⟨chipOnly (inForce [(.axm 127, 0x140, 0x103)] (axisUp 127 {})), .pcie, 127, 1, by simp only [CanWrite]; decide +kernel⟩,
   ⟨chipOnly (inForce [(.axm 127, 0x140, 0x102)] (axisUp 127 { lat := [(1, { armed := true })] })), 127, 1, true, by decide +kernel⟩,
   ⟨chipOnly (axisUp 127 { lat := [(1, { fifo := [{}] })] }), .pcie, 127, 1, {}, [], by decide +kernel⟩,
   ⟨chipOnly (axisUp 127 { cmp := [(3, { sched := [{ time := 0, tag := 1, output := 65, action := 1, width := 0 }] })] }), 127, 3, { time := 0, tag := 1, output := 65, action := 1, width := 0 }, by decide +kernel⟩,
   ⟨chipOnly (axisUp 127 { cmp := [(3, { spareEnd := some 0 })] }), 127, 3, 0, by decide +kernel⟩,
   ⟨chipOnly (inForce [(.mod 127, 0x040, 1)] (axisUp 127 { step := { inc := 2 ^ 47 } })), 127, 2, by decide +kernel⟩⟩

theorem witness_LoopEngineAndBusGroups :
    (∃ (s : State) (path : Path) (n : Fin 128), fabricUp s.chip path = true) ∧
    (∃ (s : State) (path : Path) (n : Fin 128) (reg : Fin 7) (v : Word), CanWrite s path (.lpa n) ∧ v &&& 0x3FFFFFFF = v ∧ loopCoefOk
      (0x100 + 4 * reg.val) v = true) ∧
    (∃ (s : State) (n : Fin 128), mainRuns s.chip = true ∧ estimateOver s.chip n.val = true) ∧
    (∃ (s : State) (b : Fin 16) (level : Bool), mainRuns s.chip = true ∧ (busSt s.chip b.val).configured = true ∧ bit (rd s.chip (busPage
      b.val) 0x040) 11 = true) ∧
    (∃ (s : State) (b : Fin 16) (level : Bool) (held : Nat), mainRuns s.chip = true ∧ (busSt s.chip b.val).configured = true ∧ bit (rd
      s.chip (busPage b.val) 0x040) 9 = true ∧ level ≠ bit (rd s.chip (busPage b.val) 0x040) 10 ∧ actF s.chip (busPage b.val) 0x06C 7 0 ≤
      held ∧ (busSt s.chip b.val).tripIn = false) ∧
    (∃ (s : State) (b : Fin 16), mainRuns s.chip = true) ∧
    (∃ (s : State) (path : Path) (b : Fin 16) (v : Word), CanWrite s path (.bus b)) :=
  ⟨⟨up, .pcie, 127, by decide +kernel⟩,
   ⟨up, .pcie, 127, 6, 0x3FFFFFFF, by simp only [CanWrite]; decide +kernel⟩,
   ⟨chipOnly { old with sups := [(127, { estimating := true })] }, 127, by decide +kernel⟩,
   ⟨chipOnly (put [(.bus 15, 0x040, 0x800)] { old with buses := [(15, { configured := true })] }), 15, false, by decide +kernel⟩,
   ⟨chipOnly (inForce [(.bus 15, 0x06C, 0xFF)] (put [(.bus 15, 0x040, 0x200)] { old with buses := [(15, { configured := true })] })), 15, true, 255, by decide +kernel⟩,
   ⟨up, 15, by decide +kernel⟩,
   ⟨up, .pcie, 15, 0, by simp only [CanWrite]; decide +kernel⟩⟩

theorem witness_ModulatorCarriersTripsAndSto :
    (∃ (s : State) (n : Fin 128), modMode s.chip n.val = 0 ∧ (modSt s.chip n.val).carrier = true ∧ clkLost s.chip .pwm = false) ∧
    (∃ (tc dt mn : Rat) (stretch : Bool), 0 < tc) ∧
    (∃ (c : Chip) (n : Nat), (modSt c n).pendingSet = true) ∧
    (∃ (s : State) (n : Fin 128), modMode s.chip n.val = 0 ∧ (modSt s.chip n.val).carrier = true ∧ clkLost s.chip .pwm = false ∧ bit (act
      s.chip (modPage n.val) 0x040) 2 = true) ∧
    (∃ (s : State) (n : Fin 128) (x : Fin 3), compares s.chip (portCh n.val x.val) = false) ∧
    (∃ (s : State) (n : Fin 128) (x : Fin 3), mainRuns s.chip = true ∧ compares s.chip (portCh n.val x.val) = true ∧ bit (act (comparator
      n.val x.val true s.chip) (modPage n.val) 0x040) (8 + x.val) = true ∧ (modSt (comparator n.val x.val true s.chip) n.val).oc.any id =
      false) ∧
    (∃ (s : State) (n : Fin 128) (x : Fin 3), mainRuns s.chip = true) ∧
    (∃ (s : State) (n : Fin 128) (code : Byte), mainRuns s.chip = true ∧ (modSt s.chip n.val).calOk = false ∧ max (modSt s.chip
      n.val).calSince s.chip.pwr.resetAt + 200000 ≤ s.chip.clk.now) ∧
    (∃ (s : State) (j : Fin 16) (code : Byte) (locked : Bool), mainRuns s.chip = true) ∧
    (∃ (s : State) (j : Fin 16) (code : Byte), mainRuns s.chip = true) ∧
    (∃ (c : Chip) (n : Nat), (modSt c n).sto = true) :=
  ⟨⟨chipOnly (inForce [(.mod 127, 0x040, 0)] { old with mods := [(127, { carrier := true })] }), 127, by decide +kernel⟩,
   ⟨1, 0, 0, false, by decide +kernel⟩,
   ⟨{ old with mods := [(127, { pendingSet := true })] }, 127, by decide +kernel⟩,
   ⟨chipOnly (inForce [(.mod 127, 0x040, 4)] { old with mods := [(127, { carrier := true })] }), 127, by decide +kernel⟩,
   ⟨up, 127, 0, by decide +kernel⟩,
   ⟨chipOnly (inForce [(.mod 127, 0x040, 0x400), (.sdf 7, 0x170, 0x70000000)] (running [.sdf 7] old)), 127, 2, by decide +kernel⟩,
   ⟨up, 0, 0, by decide +kernel⟩,
   ⟨up, 0, 0, by decide +kernel⟩,
   ⟨up, 0, 0, false, by decide +kernel⟩,
   ⟨up, 0, 0, by decide +kernel⟩,
   ⟨{ old with mods := [(127, { sto := true })] }, 127, by decide +kernel⟩⟩

theorem witness_EncoderHallAndToothCounting :
    (∃ (s : State) (n : Fin 128) (f0 f1 f2 : Bool) (d : Int), Counts s n ∧ fbkMode s.chip n.val = 1 ∧ quadStep (fbkSt s.chip n.val).f0
      (fbkSt s.chip n.val).f1 f0 f1 = some d ∧ d ≠ 0) ∧
    (∃ (s : State) (n : Fin 128) (f0 f1 f2 : Bool), Counts s n ∧ fbkMode s.chip n.val = 1 ∧ quadStep (fbkSt s.chip n.val).f0 (fbkSt s.chip
      n.val).f1 f0 f1 = none) ∧
    (∃ (s : State) (n : Fin 128) (u v w : Bool) (s0 s1 : Nat), Counts s n ∧ fbkMode s.chip n.val = 2 ∧ (fbkSt s.chip n.val).sector = some
      s0 ∧ hallSector s.chip n.val u v w = some s1 ∧ s0 < 6) ∧
    (∃ (s : State) (n : Fin 128) (f1 f2 : Bool), Counts s n ∧ fbkMode s.chip n.val = 5 ∧ (fbkSt s.chip n.val).f0 = false) ∧
    (∃ (s : State) (n : Fin 128), mainRuns s.chip = true ∧ fbkOn s.chip n.val = true ∧ fbkMode s.chip n.val = 1 ∧ fbkBit s.chip n.val 6 =
      false ∧ (actF s.chip (fbkPage n.val) 0x040 13 12 % 2 = 1 → (fbkSt s.chip n.val).f0 = true) ∧ (2 ≤ actF s.chip (fbkPage n.val) 0x040
      13 12 → (fbkSt s.chip n.val).f1 = true)) ∧
    (∃ (s : State) (n : Fin 128) (f1 : Bool) (r : Rat), Counts s n ∧ fbkMode s.chip n.val = 3 ∧ (fbkSt s.chip n.val).tooth = .sync ∧
      toothRatio (fbkSt s.chip n.val) (edgeNow s.chip n.val) = some r ∧ fld (act s.chip (fbkPage n.val) 0x084) 15 12 ≠ 0 ∧ (fld (act
      s.chip (fbkPage n.val) 0x084) 23 16 : Rat) / 16 ≤ r) ∧
    (∃ (s : State) (n : Fin 128) (f1 : Bool) (r : Rat), Counts s n ∧ fbkMode s.chip n.val = 3 ∧ (fbkSt s.chip n.val).tooth = .sync ∧
      toothRatio (fbkSt s.chip n.val) (edgeNow s.chip n.val) = some r ∧ fld (act s.chip (fbkPage n.val) 0x084) 15 12 ≠ 0 ∧ r < (fld (act
      s.chip (fbkPage n.val) 0x084) 23 16 : Rat) / 16 ∧ (fbkSt s.chip n.val).teeth + 1 < fld (act s.chip (fbkPage n.val) 0x084) 11 0 - fld
      (act s.chip (fbkPage n.val) 0x084) 15 12) ∧
    (∃ (s : State) (n : Fin 128) (level : Bool) (held : Nat), mainRuns s.chip = true ∧ fbkOn s.chip n.val = true ∧ fbkMode s.chip n.val ≠
      2 ∧ (fbkMode s.chip n.val = 1 → fbkBit s.chip n.val 6 = true) ∧ actF s.chip (fbkPage n.val) 0x06C 15 0 ≤ held ∧ (fbkSt s.chip
      n.val).f2 ≠ level) :=
  ⟨⟨chipOnly (running [.fbk 127] (inForce [(.fbk 127, 0x040, 1)] { old with fbks := [(127, {  })] })), 127, true, false, false, 1, by simp only [Counts]; decide +kernel⟩,
   ⟨chipOnly (running [.fbk 127] (inForce [(.fbk 127, 0x040, 1)] { old with fbks := [(127, {  })] })), 127, true, true, false, by simp only [Counts]; decide +kernel⟩,
   ⟨chipOnly (running [.fbk 127] (inForce [(.fbk 127, 0x040, 2), (.fbk 127, 0x080, 0)] { old with fbks := [(127, { sector := some 5 })] })), 127, true, false, false, 5, 0, by simp only [Counts]; decide +kernel⟩,
   ⟨chipOnly (running [.fbk 127] (inForce [(.fbk 127, 0x040, 5)] { old with fbks := [(127, {  })] })), 127, false, false, by simp only [Counts]; decide +kernel⟩,
   ⟨chipOnly (running [.fbk 127] (inForce [(.fbk 127, 0x040, 0x1001)] { old with fbks := [(127, { f0 := true })] })), 127, by decide +kernel⟩,
   ⟨chipOnly (running [.fbk 127] (inForce [(.fbk 127, 0x040, 3), (.fbk 127, 0x084, 0x10103C)] { old with fbks := [(127, { tooth := .sync, t1 := some 999999999900, t2 := some 999999999800 })] })), 127, false, 1, by simp only [Counts]; decide +kernel⟩,
   ⟨chipOnly (running [.fbk 127] (inForce [(.fbk 127, 0x040, 3), (.fbk 127, 0x084, 0x11103C)] { old with fbks := [(127, { tooth := .sync, t1 := some 999999999900, t2 := some 999999999800 })] })), 127, false, 1, by simp only [Counts]; decide +kernel⟩,
   ⟨chipOnly (running [.fbk 127] (inForce [(.fbk 127, 0x040, 0), (.fbk 127, 0x06C, 0xFFFF)] { old with fbks := [(127, {  })] })), 127, true, 65535, by decide +kernel⟩⟩

theorem witness_SerialPositionWords :
    (∃ (s : State) (n : Fin 128) (data : Bool), Counts s n ∧ fbkMode s.chip n.val = 4) ∧
    (∃ (s : State) (n : Fin 128) (word : BitVec 48) (started : Bool) (rtt : BitVec 16) (t0 : Nat) (data : Bool), mainRuns s.chip = true ∧
      (fbkSt s.chip n.val).reading = some (t0, data)) ∧
    (∃ (s : State) (n : Fin 128) (t : Nat), mainRuns s.chip = true ∧ (fbkSt s.chip n.val).idleDue = some t ∧ t ≤ s.chip.clk.now) ∧
    (∃ (n t0 : Nat) (word : BitVec 48) (c : Chip) (q : Nat), (fbkSt c n).field = some q ∧ bit (act c (fbkPage n) 0x040) 19 = false) :=
  ⟨⟨chipOnly (running [.fbk 127] (inForce [(.fbk 127, 0x040, 4)] { old with fbks := [(127, {  })] })), 127, false, by simp only [Counts]; decide +kernel⟩,
   ⟨chipOnly (running [.fbk 127] (inForce [(.fbk 127, 0x040, 4)] { old with fbks := [(127, { reading := some (1, true) })] })), 127, 0, false, 0, 1, true, by decide +kernel⟩,
   ⟨chipOnly (running [.fbk 127] (inForce [(.fbk 127, 0x040, 4)] { old with fbks := [(127, { idleDue := some 1000000000000 })] })), 127, 1000000000000, by decide +kernel⟩,
   ⟨127, 0, 0, running [.fbk 127] (inForce [(.fbk 127, 0x040, 4)] { old with fbks := [(127, { field := some 1 })] }), 1, by decide +kernel⟩⟩

theorem witness_SensorlessStatesAndCommand :
    (∃ (s : State) (n : Fin 128), mainRuns s.chip = true ∧ (snlSt s.chip n.val).state = .aligning ∧ (snlSt s.chip n.val).since + actF
      s.chip (snlPage n.val) 0x07C 15 0 * 1000000 ≤ s.chip.clk.now) ∧
    (∃ (s : State) (n : Fin 128), mainRuns s.chip = true ∧ (snlSt s.chip n.val).state = .catching ∧ (snlSt s.chip n.val).takeover = false
      ∧ (snlSt s.chip n.val).since + actF s.chip (snlPage n.val) 0x070 31 16 * 1000000 ≤ s.chip.clk.now) ∧
    (∃ (s : State) (n : Fin 128), mainRuns s.chip = true ∧ (snlSt s.chip n.val).state = .coast ∧ (snlSt s.chip n.val).since + actF s.chip
      (snlPage n.val) 0x070 15 0 * 1000000 ≤ s.chip.clk.now) ∧
    (∃ (s : State) (n : Fin 128), mainRuns s.chip = true ∧ (snlSt s.chip n.val).state = .run ∧ (snlSt s.chip n.val).since + actF s.chip
      (snlPage n.val) 0x074 31 16 * 1000000 ≤ s.chip.clk.now) ∧
    (∃ (s : State) (n : Fin 128) (t t1 r : Nat), mainRuns s.chip = true ∧ t1 = (if actF s.chip (snlPage n.val) 0x094 14 8 = 0 then t / 10
      * 10 else t) ∧ (snlSt s.chip n.val).lastRise = some r ∧ r < t1 ∧ actF s.chip (snlPage n.val) 0x094 1 0 = 2) ∧
    (∃ (s : State) (n : Fin 128) (t t1 r : Nat), mainRuns s.chip = true ∧ t1 = (if actF s.chip (snlPage n.val) 0x094 14 8 = 0 then t / 10
      * 10 else t) ∧ (snlSt s.chip n.val).lastRise = some r ∧ r < t1 ∧ actF s.chip (snlPage n.val) 0x094 1 0 = 3) ∧
    (∃ (c : Chip) (n : Nat) (hz : Rat), ((act c (snlPage n) 0x098).toNat : Rat) ≠ 0) ∧
    (∃ (s : State) (n : Fin 128), mainRuns s.chip = true ∧ 2 ≤ actF s.chip (snlPage n.val) 0x094 1 0 ∧ (snlSt s.chip n.val).state ≠ .off ∧
      (snlSt s.chip n.val).cmdLost = false ∧ (snlSt s.chip n.val).lastEdge.getD 0 + actF s.chip (snlPage n.val) 0x094 31 24 * 1000000 ≤
      s.chip.clk.now) ∧
    (∃ (s : State) (path : Path) (n : Fin 128), CanWrite s path (.snl n) ∧ (snlSt s.chip n.val).state = .idle ∧ (axis s.chip n.val).state
      = .ready) ∧
    (∃ (s : State) (path : Path) (n : Fin 128), CanWrite s path (.snl n) ∧ (snlSt s.chip n.val).state ≠ .idle ∨ (axis s.chip n.val).state
      ≠ .ready) ∧
    (∃ (n : Nat) (c : Chip), (snlSt c n).inhibit = false) :=
  ⟨⟨chipOnly (inForce [(.snl 127, 0x104, 1)] { old with snls := [(127, { state := .aligning })] }), 127, by decide +kernel⟩,
   ⟨chipOnly (inForce [] { old with snls := [(127, { state := .catching })] }), 127, by decide +kernel⟩,
   ⟨chipOnly (inForce [] { old with snls := [(127, { state := .coast })] }), 127, by decide +kernel⟩,
   ⟨chipOnly (inForce [] { old with snls := [(127, { state := .run })] }), 127, by decide +kernel⟩,
   ⟨chipOnly (inForce [(.snl 127, 0x094, 2)] { old with snls := [(127, { lastRise := some 1 })] }), 127, 10, 10, 1, by decide +kernel⟩,
   ⟨chipOnly (inForce [(.snl 127, 0x094, 3)] { old with snls := [(127, { lastRise := some 1 })] }), 127, 10, 10, 1, by decide +kernel⟩,
   ⟨inForce [(.snl 127, 0x098, 5)] old, 127, 0, by decide +kernel⟩,
   ⟨chipOnly (inForce [(.snl 127, 0x094, 2)] { old with snls := [(127, { state := .idle })] }), 127, by decide +kernel⟩,
   ⟨chipOnly { axisUp 127 { state := .ready } with snls := [(127, { state := .idle })] }, .pcie, 127, by simp only [CanWrite]; decide +kernel⟩,
   ⟨up, .pcie, 0, by simp only [CanWrite]; decide +kernel⟩,
   ⟨127, up.chip, by decide +kernel⟩⟩

theorem witness_ConvertersAndCalibration :
    (∃ (s : State) (k : Fin 16) (m : Fin 8) (d : BitVec 18) (slot : Option (Fin 16)) (ns : Nat) (shifted : Bool), mainRuns s.chip = true ∧
      slotTakes k.val m.val slot s.chip = true ∧ converts s.chip k.val = true) ∧
    (∃ (s : State) (k : Fin 16) (mask : BitVec 16) (delay : Nat), mainRuns s.chip = true ∧ mask = 1#16 <<< k.val ∧ (adcSt s.chip
      k.val).knotPend = true) ∧
    (∃ (s : State) (path : Path) (k : Fin 16), fabricUp s.chip path = true) ∧
    (∃ (s : State) (path : Path) (k : Fin 16), CanWrite s path (.adc k) ∧ (calRequest k.val false s.chip).2 = true) ∧
    (∃ (s : State) (path : Path) (k : Fin 16), CanWrite s path (.adc k) ∧ (calRequest k.val false s.chip).2 = false) ∧
    (∃ (c : Chip) (k : Nat), (adcSt c k).mode = .idle ∧ (adcSt c k).coverReq = false ∧ (isUp c (adcPage k) = true ∧ sampleSlots c k = [] ∧
      knotSlots c k = []) ∨ (hdr c (adcPage k)).state = .fault) ∧
    (∃ (c : Chip) (k : Nat), isUp c (adcPage k) = true ∧ (adcSt c k).mode = .idle ∧ (adcSt c k).coverReq = false ∧ (sampleSlots c k ≠ [] ∨
      knotSlots c k ≠ []) ∧ (hdr c (adcPage (partner k))).state = .run ∧ (adcSt c (partner k)).mode = .idle ∧ (adcSt c (partner
      k)).coverReq = false ∧ seqFits c (sampleSlots c (partner k) ++ sampleSlots c k) ((knotSlots c (partner k)).length + (knotSlots c
      k).length) = true) ∧
    (∃ (s : State) (path : Path), CanWrite s path (.adc 0) ∧ (∀ k < 16, sampleSlots s.chip k = [] ∧ knotSlots s.chip k = [])) ∧
    (∃ (s : State) (k : Fin 16) (ofs gain : BitVec 24) (ws : List (BitVec 24)) (t : Nat), mainRuns s.chip = true ∧ (adcSt s.chip
      k.val).calSince = some t ∧ t + 9000000 ≤ s.chip.clk.now ∧ (adcSt s.chip k.val).mode = .calibrating ∧ (adcSt s.chip k.val).powerOn =
      false ∧ (adcSt s.chip k.val).spliceCal = false ∧ calPasses ofs gain ws k.val = false) ∧
    (∃ (s : State) (b : Bool), mainRuns s.chip = true) ∧
    (∃ (s : State) (b : Bool), mainRuns s.chip = true) :=
  ⟨⟨chipOnly (running [.adc 15] (inForce [(.adc 15, 0x13C, 0x80000017)] old)), 15, 7, 0, some 15, 0, false, by decide +kernel⟩,
   ⟨chipOnly { old with adcs := [(15, { knotPend := true })] }, 15, 0x8000, 0, by decide +kernel⟩,
   ⟨up, .pcie, 15, by decide +kernel⟩,
   ⟨chipOnly (running [.adc 15] old), .pcie, 15, by simp only [CanWrite]; decide +kernel⟩,
   ⟨up, .pcie, 15, by simp only [CanWrite]; decide +kernel⟩,
   ⟨running [.adc 15] old, 15, by decide +kernel⟩,
   ⟨running [.adc 15, .adc 14] (inForce [(.adc 15, 0x13C, 0x80000007)] old), 15, by decide +kernel⟩,
   ⟨up, .pcie, by simp only [CanWrite]; decide +kernel⟩,
   ⟨chipOnly { old with adcs := [(15, { mode := .calibrating, calSince := some 0 })] }, 15, 0x7FFFFF, 0, [], 0, by decide +kernel⟩,
   ⟨up, false, by decide +kernel⟩,
   ⟨up, false, by decide +kernel⟩⟩

theorem witness_DecimatorsAndStuckLines :
    (∃ (s : State) (k : Fin 8) (ch : Fin 48), mainRuns s.chip = true ∧ actF s.chip (sdfPage k.val) 0x040 7 0 ≠ 0 ∧ sdfOn s.chip (48 *
      k.val + ch.val) = true) ∧
    (∃ (s : State) (path : Path) (k : Fin 8), fabricUp s.chip path = true) ∧
    (∃ (c : Chip) (i : Nat) (new : List Bool), sdfOn c i = true) :=
  ⟨⟨chipOnly (running [.sdf 7] (inForce [(.sdf 7, 0x040, 0xFF), (.sdf 7, 0x044, 0xFFFF), (.sdf 7, 0x170, 0x70000000)] old)), 7, 47,
     by decide +kernel⟩,
   ⟨up, .pcie, 7, by decide +kernel⟩,
   ⟨running [.sdf 7] (inForce [(.sdf 7, 0x040, 0xFF), (.sdf 7, 0x044, 0xFFFF), (.sdf 7, 0x170, 0x70000000)] old), 383, [],
     by decide +kernel⟩⟩

theorem witness_CoreAluMinMaxAndMovs :
    (∃ (s : State) (k : Fin 8) (w : Word) (v : Word), Stands s k w ∧ cls w = 7 ∧ bit w 27 = false ∧ v = (if bit w 25 then abs32 (dReg
      (coreAt s k) (fld w 15 12)) else dReg (coreAt s k) (fld w 15 12))) ∧
    (∃ (s : State) (k : Fin 8) (w : Word) (v : Word), Stands s k w ∧ cls w = 7 ∧ bit w 27 = true ∧ v = (if bit w 25 then abs32 (dReg
      (coreAt s k) (fld w 15 12)) else dReg (coreAt s k) (fld w 15 12))) ∧
    (∃ (s : State) (k : Fin 8) (w : Word), coreRuns s.chip k.val = true ∧ atBreakpoint s.chip k.val = false ∧ (Machine.core s.chip k.val).pc.toNat
      % 4 = 0 ∧ (fetched s k).2 = some w ∧ reservedWord w = true) :=
  ⟨⟨coreState 0x72000000 { d := [(0, 0x80000000)] }, 7, 0x72000000, 0x7FFFFFFF, by simp only [Stands]; decide +kernel⟩,
   ⟨coreState 0x7A000000 { d := [(0, 0x80000000)] }, 7, 0x7A000000, 0x7FFFFFFF, by simp only [Stands]; decide +kernel⟩,
   ⟨coreState 0xA0000000 {  }, 7, 0xA0000000, by decide +kernel⟩⟩

theorem witness_CoreMacAndAccumulators :
    (∃ (s s0 s1 : State) (k : Fin 8) (w : Word) (v0 v1 : List Word), Stands s k w ∧ cls w = 2 ∧ fld w 27 26 = 0 ∧ macAllowed w (coreAt s
      k) ∧ macRead k w false (coreAt s k) (atIssue s k) = (s0, some v0) ∧ macRead k w true (coreAt s k) s0 = (s1, some v1)) ∧
    (∃ (s s0 s1 : State) (k : Fin 8) (w : Word) (v0 v1 : List Word), Stands s k w ∧ cls w = 2 ∧ fld w 27 26 = 1 ∧ macAllowed w (coreAt s
      k) ∧ macRead k w false (coreAt s k) (atIssue s k) = (s0, some v0) ∧ macRead k w true (coreAt s k) s0 = (s1, some v1)) ∧
    (∃ (s s0 s1 : State) (k : Fin 8) (w : Word) (v0 v1 : List Word), Stands s k w ∧ cls w = 2 ∧ fld w 27 26 = 2 ∧ macAllowed w (coreAt s
      k) ∧ macRead k w false (coreAt s k) (atIssue s k) = (s0, some v0) ∧ macRead k w true (coreAt s k) s0 = (s1, some v1)) ∧
    (∃ (s s0 s1 : State) (k : Fin 8) (w : Word) (v0 v1 : List Word), Stands s k w ∧ cls w = 2 ∧ fld w 27 26 = 3 ∧ macAllowed w (coreAt s
      k) ∧ macRead k w false (coreAt s k) (atIssue s k) = (s0, some v0) ∧ macRead k w true (coreAt s k) s0 = (s1, some v1)) ∧
    (∃ (s : State) (k : Fin 8) (w : Word), Stands s k w ∧ isAcc 0 w = true) ∧
    (∃ (s : State) (k : Fin 8) (w : Word), Stands s k w ∧ isAcc 1 w = true) ∧
    (∃ (s : State) (k : Fin 8) (w : Word), Stands s k w ∧ isAcc 2 w = true) ∧
    (∃ (s : State) (k : Fin 8) (w : Word), Stands s k w ∧ isAcc 3 w = true) ∧
    (∃ (s : State) (k : Fin 8) (w : Word), Stands s k w ∧ isAcc 4 w = true) :=
  ⟨⟨macState 0, (macRead 7 (BitVec.ofNat 32 (0x20008200 + 0 * 2 ^ 26)) false (coreAt (macState 0) 7) (atIssue (macState 0) 7)).1, (macRead
     7 (BitVec.ofNat 32 (0x20008200 + 0 * 2 ^ 26)) true (coreAt (macState 0) 7) (macRead 7 (BitVec.ofNat 32 (0x20008200 + 0 * 2 ^ 26))
     false (coreAt (macState 0) 7) (atIssue (macState 0) 7)).1).1, 7, BitVec.ofNat 32 (0x20008200 + 0 * 2 ^ 26), [0, 0], [0, 0],
     by simp only [Stands, macAllowed]; decide +kernel⟩,
   ⟨macState 1, (macRead 7 (BitVec.ofNat 32 (0x20008200 + 1 * 2 ^ 26)) false (coreAt (macState 1) 7) (atIssue (macState 1) 7)).1, (macRead
     7 (BitVec.ofNat 32 (0x20008200 + 1 * 2 ^ 26)) true (coreAt (macState 1) 7) (macRead 7 (BitVec.ofNat 32 (0x20008200 + 1 * 2 ^ 26))
     false (coreAt (macState 1) 7) (atIssue (macState 1) 7)).1).1, 7, BitVec.ofNat 32 (0x20008200 + 1 * 2 ^ 26), [0, 0], [0, 0],
     by simp only [Stands, macAllowed]; decide +kernel⟩,
   ⟨macState 2, (macRead 7 (BitVec.ofNat 32 (0x20008200 + 2 * 2 ^ 26)) false (coreAt (macState 2) 7) (atIssue (macState 2) 7)).1, (macRead
     7 (BitVec.ofNat 32 (0x20008200 + 2 * 2 ^ 26)) true (coreAt (macState 2) 7) (macRead 7 (BitVec.ofNat 32 (0x20008200 + 2 * 2 ^ 26))
     false (coreAt (macState 2) 7) (atIssue (macState 2) 7)).1).1, 7, BitVec.ofNat 32 (0x20008200 + 2 * 2 ^ 26), [0, 0], [0, 0],
     by simp only [Stands, macAllowed]; decide +kernel⟩,
   ⟨macState 3, (macRead 7 (BitVec.ofNat 32 (0x20008200 + 3 * 2 ^ 26)) false (coreAt (macState 3) 7) (atIssue (macState 3) 7)).1, (macRead
     7 (BitVec.ofNat 32 (0x20008200 + 3 * 2 ^ 26)) true (coreAt (macState 3) 7) (macRead 7 (BitVec.ofNat 32 (0x20008200 + 3 * 2 ^ 26))
     false (coreAt (macState 3) 7) (atIssue (macState 3) 7)).1).1, 7, BitVec.ofNat 32 (0x20008200 + 3 * 2 ^ 26), [0, 0], [0, 0],
     by simp only [Stands, macAllowed]; decide +kernel⟩,
   ⟨coreState 0x80000000 {  }, 7, 0x80000000, by simp only [Stands]; decide +kernel⟩,
   ⟨coreState 0x81000000 {  }, 7, 0x81000000, by simp only [Stands]; decide +kernel⟩,
   ⟨coreState 0x82000000 {  }, 7, 0x82000000, by simp only [Stands]; decide +kernel⟩,
   ⟨coreState 0x83000000 {  }, 7, 0x83000000, by simp only [Stands]; decide +kernel⟩,
   ⟨coreState 0x84000000 {  }, 7, 0x84000000, by simp only [Stands]; decide +kernel⟩⟩

theorem witness_CoreLoadsAndStores :
    (∃ (s s1 : State) (k : Fin 8) (w : Word) (v : List Word), Stands s k w ∧ cls w = 3 ∧ bit w 27 = false ∧ localAllowed (fun _ => true)
      (coreAt s k) w ∧ (localSpace (class3Addr (coreAt s k) w).1 = some .pm → (coreAt s k).iter = none) ∧ readLocal k.val (class3Addr
      (coreAt s k) w).1 (postMod (coreAt s k) (fld w 25 23) (class3Addr (coreAt s k) w).1 4) (bit w 26) (atIssue s k) = (s1, some v)) ∧
    (∃ (s : State) (k : Fin 8) (w : Word), Stands s k w ∧ cls w = 3 ∧ bit w 27 = true ∧ localAllowed (· != .pm) (coreAt s k) w) ∧
    (∃ (s : State) (k : Fin 8) (w : Word), Stands s k w ∧ cls w = 3 ∧ bit w 27 = true ∧ localSpace (class3Addr (coreAt s k) w).1 = some
      .pm) ∧
    (∃ (s : State) (k : Fin 8) (w : Word) (off : Nat), Stands s k w ∧ cls w = 4 ∧ bit w 27 = false ∧ extOff (coreAt s k) w = some off) ∧
    (∃ (s : State) (k : Fin 8) (w : Word) (off : Nat), Stands s k w ∧ cls w = 4 ∧ bit w 27 = true ∧ extOff (coreAt s k) w = some off ∧
      (coreAt s k).stores.length < 8) ∧
    (∃ (s s2 : State) (k : Fin 8) (d off since : Nat) (v : Word), mainRuns s.chip = true ∧ (Machine.core s.chip k.val).wait = .load d off since ∧
      (Machine.core s.chip k.val).stores = [] ∧ fabricUp s.chip (.core k) = true ∧ readWindow (.core k) off s = (s2, .ok v)) ∧
    (∃ (s : State) (k : Fin 8) (d off since : Nat), mainRuns s.chip = true ∧ (Machine.core s.chip k.val).wait = .load d off since ∧ (Machine.core s.chip
      k.val).stores = [] ∧ fabricUp s.chip (.core k) = true ∧ bit (rd s.chip (fcoPage k.val) 0x040) 0 = false) ∧
    (∃ (s : State) (k : Fin 8) (w : Word), Stands s k w ∧ cls w = 9 ∧ fld w 27 24 = 4 ∧ (coreAt s k).stores = []) ∧
    (∃ (s : State) (k : Fin 8) (w : Word), Stands s k w ∧ cls w = 9 ∧ fld w 27 24 = 4 ∧ (coreAt s k).stores ≠ []) :=
  ⟨⟨coreState 0x34000000 { ap := [(0, 0x1FFF8)] }, (readLocal 7 0x1FFF8 0x1FFFC true (atIssue (coreState 0x34000000 { ap := [(0, 0x1FFF8)] }) 7)).1, 7, 0x34000000, [0, 0], by simp only [Stands, localAllowed]; decide +kernel⟩,
   ⟨coreState 0x38000000 { ap := [(0, 0x1FFFC)] }, 7, 0x38000000, by simp only [Stands, localAllowed]; decide +kernel⟩,
   ⟨coreState 0x38000000 { ap := [(0, 0xFFFC)] }, 7, 0x38000000, by simp only [Stands]; decide +kernel⟩,
   ⟨coreState 0x40000000 { d := [(0, 0x1FFFFFF)] }, 7, 0x40000000, 0xFFFFFF, by simp only [Stands]; decide +kernel⟩,
   ⟨coreState 0x48000000 { d := [(0, 0x1000000)], stores := List.replicate 7 (0, 0) }, 7, 0x48000000, 0, by simp only [Stands]; decide +kernel⟩,
   ⟨chipOnly { old with cores := [(7, { wait := .load 0 0 0 })] }, (readWindow (.core 7) 0 (chipOnly { old with cores := [(7, { wait := .load 0 0 0 })] })).1, 7, 0, 0, 0, 0x01010000, by decide +kernel⟩,
   ⟨chipOnly (put [(.fco 7, 0x040, 0)] { old with cores := [(7, { wait := .load 0 0 0 })] }), 7, 0, 0, 0, by decide +kernel⟩,
   ⟨coreState 0x94000000 {  }, 7, 0x94000000, by simp only [Stands]; decide +kernel⟩,
   ⟨coreState 0x94000000 { stores := [(0, 0)] }, 7, 0x94000000, by simp only [Stands]; decide +kernel⟩⟩

theorem witness_CoreFlowLoopsAndInterrupts :
    (∃ (s : State) (k : Fin 8) (w : Word), Stands s k w ∧ cls w = 5 ∧ bit w 23 = false ∧ bit w 22 = false ∧ branchTaken (coreAt s k).sr
      (fld w 27 24) = true) ∧
    (∃ (s : State) (k : Fin 8) (w : Word), Stands s k w ∧ cls w = 5 ∧ bit w 23 = false ∧ bit w 22 = false ∧ branchTaken (coreAt s k).sr
      (fld w 27 24) = false) ∧
    (∃ (s : State) (k : Fin 8) (w : Word), Stands s k w ∧ cls w = 5 ∧ bit w 23 = true ∧ bit w 22 = false ∧ branchTaken (coreAt s k).sr
      (fld w 27 24) = true) ∧
    (∃ (s : State) (k : Fin 8) (w : Word), Stands s k w ∧ cls w = 5 ∧ bit w 23 = false ∧ bit w 22 = true ∧ branchTaken (coreAt s k).sr
      (fld w 27 24) = true) ∧
    (∃ (s : State) (k : Fin 8) (w : Word) (last : BitVec 16), Stands s k w ∧ cls w = 6 ∧ bit w 27 = false ∧ (coreAt s k).depth < 3 ∧ 1 ≤
      loopCount (coreAt s k) w ∧ loopCount (coreAt s k) w ≤ 65535 ∧ last = (coreAt s k).pc + Config.branchOrigin + BitVec.ofNat 16 (4 *
      fld w 15 0)) ∧
    (∃ (s : State) (k : Fin 8) (w : Word), Stands s k w ∧ cls w = 6 ∧ bit w 27 = false ∧ (3 ≤ (coreAt s k).depth ∨ 65535 < loopCount
      (coreAt s k) w)) ∧
    (∃ (s : State) (k : Fin 8) (w : Word), Stands s k w ∧ cls w = 6 ∧ bit w 27 = true ∧ 1 ≤ loopCount (coreAt s k) w ∧ loopCount (coreAt s
      k) w ≤ 1024) ∧
    (∃ (s : State) (k : Fin 8) (w : Word), Stands s k w ∧ cls w = 6 ∧ bit w 27 = true ∧ loopCount (coreAt s k) w = 0) ∧
    (∃ (s : State) (k : Fin 8) (w : Word), Stands s k w ∧ cls w = 9 ∧ fld w 27 24 = 6) ∧
    (∃ (s : State) (k : Fin 8), (hdr s.chip (fcoPage k.val)).state = .run ∧ clkLost s.chip .sys = false ∧ (Machine.core s.chip k.val).halted =
      false ∧ bit (Machine.core s.chip k.val).sr srIE = true ∧ (Machine.core s.chip k.val).iter = none ∧ (∀ d off t, (Machine.core s.chip k.val).wait ≠ .load d
      off t) ∧ (Machine.core s.chip k.val).cause.setWidth 8 &&& (Machine.core s.chip k.val).ien ≠ 0) ∧
    (∃ (x : CoreSt) (t : Trail), t.jump = none ∧ x.iter = none ∧ x.depth = 0) :=
  ⟨⟨coreState 0x50000000 {  }, 7, 0x50000000, by simp only [Stands]; decide +kernel⟩,
   ⟨coreState 0x51000000 {  }, 7, 0x51000000, by simp only [Stands]; decide +kernel⟩,
   ⟨coreState 0x50800000 {  }, 7, 0x50800000, by simp only [Stands]; decide +kernel⟩,
   ⟨coreState 0x50400000 {  }, 7, 0x50400000, by simp only [Stands]; decide +kernel⟩,
   ⟨coreState 0x64000001 { d := [(0, 65535)], depth := 2 }, 7, 0x64000001, (coreAt (coreState 0x64000001 { d := [(0, 65535)], depth := 2 }) 7).pc + Config.branchOrigin + BitVec.ofNat 16 (4 * fld (0x64000001 : Word) 15 0), by unfold Stands; refine ⟨by decide +kernel, by decide +kernel, by decide +kernel, by decide +kernel, by decide +kernel, by decide +kernel, rfl⟩⟩,
   ⟨coreState 0x64000001 { d := [(0, 65536)] }, 7, 0x64000001, by simp only [Stands]; decide +kernel⟩,
   ⟨coreState 0x6C000001 { d := [(0, 1024)] }, 7, 0x6C000001, by simp only [Stands]; decide +kernel⟩,
   ⟨coreState 0x68000001 {  }, 7, 0x68000001, by simp only [Stands]; decide +kernel⟩,
   ⟨coreState 0x96000000 {  }, 7, 0x96000000, by simp only [Stands]; decide +kernel⟩,
   ⟨coreState 0 { sr := 0x100, cause := 2, ien := 2 }, 7, by refine ⟨by decide +kernel, by decide +kernel, by decide +kernel, by decide +kernel, by decide +kernel, fun d off t h => ?_, by decide +kernel⟩; exact CoreWait.noConfusion (show CoreWait.none = .load d off t from h)⟩,
   ⟨{}, {}, by decide +kernel⟩⟩

theorem witness_CoreItemsEventsAndWatchdog :
    (∃ (s : State) (k : Fin 8) (w : Word) (i : Nat), Stands s k w ∧ cls w = 9 ∧ fld w 27 24 = 0 ∧ (coreAt s k).assigned = some i) ∧
    (∃ (s : State) (k : Fin 8) (w : Word), Stands s k w ∧ cls w = 9 ∧ fld w 27 24 = 0 ∧ (coreAt s k).assigned = none ∧ (coreAt s k).offer
      = none ∧ (coreAt s k).withdrawn = false) ∧
    (∃ (s : State) (k : Fin 8) (w : Word), Stands s k w ∧ cls w = 9 ∧ fld w 27 24 = 0 ∧ (coreAt s k).assigned = none ∧ (coreAt s k).offer
      = none ∧ (coreAt s k).withdrawn = true) ∧
    (∃ (s : State) (k : Fin 8) (w : Word) (i : Nat) (l : List Nat), Stands s k w ∧ cls w = 9 ∧ fld w 27 24 = 1 ∧ (coreAt s k).nest = i ::
      l) ∧
    (∃ (s : State) (k : Fin 8) (w : Word) (i : Nat) (l : List Nat), Stands s k w ∧ cls w = 9 ∧ fld w 27 24 = 2 ∧ (coreAt s k).nest = i ::
      l) ∧
    (∃ (s : State) (k : Fin 8) (w : Word), Stands s k w ∧ cls w = 9 ∧ fld w 27 24 = 3) ∧
    (∃ (s : State) (k : Fin 8) (i : Nat) (l : List Nat) (it : ItemSt), (Machine.core s.chip k.val).nest = i :: l ∧ slotOf s.chip i = some it ∧ rdF
      s.chip (fcoPage k.val) 0x050 15 0 ≠ 0 ∧ (Machine.core s.chip k.val).halted = false ∧ clkLost s.chip .sys = false ∧ rdF s.chip (fcoPage
      k.val) 0x050 15 0 * 1000 ≤ it.ran + (s.chip.clk.now - it.since)) ∧
    (∃ (s : State) (path : Path) (k : Fin 8) (v : Word), CanWrite s path (.fco k) ∧ v &&& 1 = v) :=
  ⟨⟨coreState 0x90000000 { assigned := some 16383 }, 7, 0x90000000, 16383, by simp only [Stands]; decide +kernel⟩,
   ⟨coreState 0x90000000 {  }, 7, 0x90000000, by simp only [Stands]; decide +kernel⟩,
   ⟨coreState 0x90000000 { withdrawn := true }, 7, 0x90000000, by simp only [Stands]; decide +kernel⟩,
   ⟨coreState 0x91000000 { nest := [16383] }, 7, 0x91000000, 16383, [], by simp only [Stands]; decide +kernel⟩,
   ⟨coreState 0x92000000 { nest := [16383] }, 7, 0x92000000, 16383, [], by simp only [Stands]; decide +kernel⟩,
   ⟨coreState 0x93000000 {  }, 7, 0x93000000, by simp only [Stands]; decide +kernel⟩,
   ⟨chipOnly (put [(.fco 7, 0x050, 0xFFFF)] { old with cores := [(7, { nest := [16383] })], dsp.slots := [(16383, { words := [1], state := .running })] }), 7, 16383, [], { words := [1], state := .running }, by decide +kernel⟩,
   ⟨up, .pcie, 7, 1, by simp only [CanWrite]; decide +kernel⟩⟩

theorem witness_DispatcherCommands :
    (∃ (s : State) (path : Path) (v : Word), CanWrite s path .dsp ∧ Submits (withSub7 path v s.chip) path ∧ Room (withSub7 path v s.chip)
      path) ∧
    (∃ (s : State) (path : Path) (v : Word), CanWrite s path .dsp ∧ Submits (withSub7 path v s.chip) path ∧ ¬ Room (withSub7 path v
      s.chip) path) ∧
    (∃ (s : State), mainRuns s.chip = true ∧ isUp s.chip .dsp = true ∧ (hdr s.chip .dsp).spliceReq = false ∧ s.chip.dsp.halted = false) ∧
    (∃ (s : State) (i : Fin 16384) (it : ItemSt), dspActive s.chip = true ∧ slotOf s.chip i.val = some it ∧ it.state = .delayed ∧
      it.yielded = false ∧ dueReached s.chip.dsp.ticks it.due = true) ∧
    (∃ (s : State) (k : Fin 8), dspActive s.chip = true ∧ (Machine.core s.chip k.val).offer.isSome = true ∧ (Machine.core s.chip k.val).offerSince + actF
      s.chip .dsp 0x04C 31 16 ≤ s.chip.clk.now) ∧
    (∃ (s : State) (i : Fin 16384) (it : ItemSt), dspActive s.chip = true ∧ slotOf s.chip i.val = some it ∧ it.state = .ready ∧
      it.readySince + actF s.chip .dsp 0x04C 15 0 ≤ s.chip.clk.now) ∧
    (∃ (s : State) (i : Fin 16384) (it : ItemSt), dspActive s.chip = true ∧ slotOf s.chip i.val = some it ∧ it.state = .ready ∧ actF
      s.chip .dsp 0x050 15 0 ≠ 0 ∧ it.readySince + actF s.chip .dsp 0x050 15 0 * 1000 ≤ s.chip.clk.now) ∧
    (∃ (s : State) (path : Path) (v : Word), CanWrite s path .dsp) ∧
    (∃ (s : State) (path : Path) (v : Word), CanWrite s path .dsp ∧ v &&& 0xFFF = v) ∧
    (∃ (s : State) (path : Path) (v : Word), CanWrite s path .dsp ∧ v &&& 0xFF71 = v ∧ bit v 0 = true) ∧
    (∃ (s : State) (path : Path) (v : Word), CanWrite s path .dsp ∧ v &&& 0xFFF = v ∧ v.toNat < rdF s.chip .dsp 0x0C4 12 0 ∧ (v.toNat +
      rdF s.chip .dsp 0x0C4 12 0 - s.chip.dsp.cqHead) % rdF s.chip .dsp 0x0C4 12 0 ≤ s.chip.dsp.cqPosted) ∧
    (∃ (s : State) (path : Path) (v : Word), CanWrite s path .dsp ∧ v &&& 0xFF = v) ∧
    (∃ (s : State) (k : Fin 8), clkLost s.chip .sys = false ∧ draining s.chip k.val = true ∧ coreEmpty s.chip k.val = true ∧ bit
      s.chip.dsp.drained k.val = false) ∧
    (∃ (s : State) (k : Fin 8), clkLost s.chip .sys = false ∧ draining s.chip k.val = true ∧ coreEmpty s.chip k.val = false ∧ tabGet 0
      s.chip.dsp.drainSince k.val ≠ 0 ∧ tabGet 0 s.chip.dsp.drainSince k.val - 1 + actF s.chip .dsp 0x050 31 16 * 1000 ≤ s.chip.clk.now) :=
  ⟨⟨chipOnly (running [.dsp] { old with dsp.flows := [(4095, { en := true })], held := [(0x12C8080, 0xFFF)] }), .pcie, 0, by simp only [CanWrite, Submits, Room]; decide +kernel⟩,
   ⟨chipOnly (running [.dsp] { old with dsp.cqPosted := 16, dsp.flows := [(4095, { en := true })], held := [(0x12C8080, 0x10FFF)] }), .pcie, 0, by simp only [CanWrite, Submits, Room]; decide +kernel⟩,
   ⟨chipOnly (running [.dsp] old), by decide +kernel⟩,
   ⟨chipOnly (running [.dsp] { old with dsp.slots := [(16383, { words := [1], state := .delayed })] }), 16383, { words := [1], state := .delayed }, by decide +kernel⟩,
   ⟨chipOnly (running [.dsp] { old with cores := [(7, { offer := some 1 })] }), 7, by decide +kernel⟩,
   ⟨chipOnly (running [.dsp] { old with dsp.slots := [(16383, { words := [1], state := .ready })] }), 16383, { words := [1], state := .ready }, by decide +kernel⟩,
   ⟨chipOnly (inForce [(.dsp, 0x050, 0xFFFF)] (running [.dsp] { old with dsp.slots := [(16383, { words := [1], state := .ready })] })), 16383, { words := [1], state := .ready }, by decide +kernel⟩,
   ⟨up, .pcie, 0xFFFFFFFF, by simp only [CanWrite]; decide +kernel⟩,
   ⟨up, .pcie, 0xFFF, by simp only [CanWrite]; decide +kernel⟩,
   ⟨up, .pcie, 0xFF71, by simp only [CanWrite]; decide +kernel⟩,
   ⟨chipOnly (put [(.dsp, 0x0C4, 16)] { old with dsp.cqPosted := 15 }), .pcie, 15, by simp only [CanWrite]; decide +kernel⟩,
   ⟨up, .pcie, 0xFF, by simp only [CanWrite]; decide +kernel⟩,
   ⟨chipOnly (put [(.dsp, 0x040, 0x80)] old), 7, by decide +kernel⟩,
   ⟨chipOnly (put [(.dsp, 0x040, 0x80)] { old with cores := [(7, { nest := [1] })], dsp.drainSince := [(7, 1)] }), 7, by decide +kernel⟩⟩

theorem witness_ItemQueuesEndsAndTicks :
    (∃ (c : Chip) (i : Nat) (it : ItemSt), slotOf c i = some it ∧ it.words ≠ [] ∧ (flow c it.flow).head = none ∧ (flow c it.flow).queue =
      []) ∧
    (∃ (c : Chip) (i j : Nat) (it : ItemSt), slotOf c i = some it ∧ (flow c it.flow).head = some j) ∧
    (∃ (s : State) (i status detail : Nat) (l : List Word) (it : ItemSt), slotOf s.chip i = some it ∧ it.report = false) ∧
    (∃ (s : State) (path v : Nat), slotOf s.chip (v % 16384) = none) :=
  ⟨⟨{ old with dsp.slots := [(16383, { words := [1] })] }, 16383, { words := [1] }, by decide +kernel⟩,
   ⟨{ old with dsp.slots := [(16383, { words := [1] })], dsp.flows := [(0, { head := some 1 })] }, 16383, 1, { words := [1] }, by decide +kernel⟩,
   ⟨chipOnly { old with dsp.slots := [(16383, { words := [1] })] }, 16383, 0, 0, [], { words := [1] }, by decide +kernel⟩,
   ⟨up, 0, 16383, by decide +kernel⟩⟩

theorem witness_TraceCoilSequencerAndCalibration :
    (∃ (s : State) (r : TrcRec) (l : List TrcRec), mainRuns s.chip = true ∧ s.chip.trc.staged = r :: l ∧ coilReady s.chip = true ∧
      s.chip.trc.wp + recBytes r < s.chip.trc.size ∧ coilUsed s.chip.trc + recBytes r + 8 ≤ s.chip.trc.size) ∧
    (∃ (s : State) (r : TrcRec) (l : List TrcRec), mainRuns s.chip = true ∧ s.chip.trc.staged = r :: l ∧ coilReady s.chip = true ∧
      s.chip.trc.size < s.chip.trc.wp + recBytes r ∧ s.chip.trc.wp < s.chip.trc.size ∧ coilUsed s.chip.trc + (s.chip.trc.size -
      s.chip.trc.wp) + recBytes r + 8 ≤ s.chip.trc.size) ∧
    (∃ (s : State) (path : Path) (v : Word), CanWrite s path .trc ∧ v &&& 0x3FFFFFF8 = v ∧ v.toNat < s.chip.trc.size ∧ (v.toNat +
      s.chip.trc.size - s.chip.trc.rp) % s.chip.trc.size ≤ coilUsed s.chip.trc) ∧
    (∃ (s : State) (path : Path) (v : Word), CanWrite s path .trc ∧ v &&& 0x3FFFFFF8 = v ∧ s.chip.trc.size ≤ v.toNat ∧ s.chip.trc.rp ≠
      v.toNat) ∧
    (∃ (s : State) (path : Path) (v : Word), CanWrite s path .trc ∧ v &&& 0x7FFFF000 = v ∧ s.chip.trc.state = .stopped) ∧
    (∃ (s : State) (path : Path) (v : Word), CanWrite s path .trc ∧ v &&& 0x7FFFF000 = v ∧ s.chip.trc.state ≠ .stopped ∧ 65536 ≤ v.toNat ∧
      v.toNat ≤ 2 ^ 30) ∧
    (∃ (s : State) (path : Path) (v : Word), CanWrite s path .trc ∧ v &&& 1 = v) ∧
    (∃ (s : State) (path : Path) (v : Word), CanWrite s path .trc ∧ v &&& 0xFFFF = v) ∧
    (∃ (s : State) (i : Fin 2), mainRuns s.chip = true ∧ tabGet 0 s.chip.trc.timers i.val ≠ 0 ∧ tabGet 0 s.chip.trc.timers i.val - 1 +
      actF s.chip .trc (0x0B0 + 4 * i.val) 23 0 * 1000 ≤ s.chip.clk.now) ∧
    (∃ (s : State) (t : Nat), mainRuns s.chip = true ∧ s.chip.trc.holdoff = some t ∧ t ≤ s.chip.clk.now) ∧
    (∃ (s : State) (path : Path) (v : Word), CanWrite s path .trc ∧ v &&& 0x1F01 = v ∧ bit v 0 = true ∧ s.chip.trc.state = .stopped ∧ fld
      v 12 8 ≠ 0 ∧ isUp s.chip .trc = true) ∧
    (∃ (s : State) (cal : TrcCal) (t0 : Nat), mainRuns s.chip = true ∧ s.chip.trc.cal = some cal ∧ cal.fired = some t0 ∧ t0 + 1000000 ≤
      s.chip.clk.now) :=
  ⟨⟨chipOnly { old with trc.staged := [{ typ := 1 }], trc.size := 0x1000, trc.wp := 0 }, { typ := 1 }, [], by decide +kernel⟩,
   ⟨chipOnly { old with trc.staged := [{ typ := 1, words := [0, 0] }], trc.size := 0x1000, trc.wp := 0xFF8, trc.rp := 0xFF8 }, { typ := 1, words := [0, 0] }, [], by decide +kernel⟩,
   ⟨chipOnly { old with trc.wp := 0x8, trc.rp := 0xFFF8 }, .pcie, 0x8, by simp only [CanWrite]; decide +kernel⟩,
   ⟨up, .pcie, 0x10000, by simp only [CanWrite]; decide +kernel⟩,
   ⟨up, .pcie, 0x7FFFF000, by simp only [CanWrite]; decide +kernel⟩,
   ⟨chipOnly { old with trc.state := .running }, .pcie, 0x40000000, by simp only [CanWrite]; decide +kernel⟩,
   ⟨up, .pcie, 1, by simp only [CanWrite]; decide +kernel⟩,
   ⟨up, .pcie, 0xFFFF, by simp only [CanWrite]; decide +kernel⟩,
   ⟨chipOnly { old with trc.timers := [(1, 1)] }, 1, by decide +kernel⟩,
   ⟨chipOnly { old with trc.holdoff := some 1000000000000 }, 1000000000000, by decide +kernel⟩,
   ⟨chipOnly (running [.trc] old), .pcie, 0x1F01, by simp only [CanWrite]; decide +kernel⟩,
   ⟨chipOnly { old with trc.cal := some { knot := 1, fired := some 0 } }, { knot := 1, fired := some 0 }, 0, by decide +kernel⟩⟩

theorem witness_FieldPinsAndSupply :
    (∃ (s : State) (p : Fin 64) (level : Bool) (held : Nat), fieldRuns s.chip = true ∧ s.chip.field.invalid = false ∧ isOut s.chip.field
      p.val = false ∧ fld (pinCfg s.chip.field p.val) 31 16 * 1000 ≤ held ∧ bit s.chip.field.inLevel p.val ≠ level) ∧
    (∃ (s : State) (p : Fin 64) (x : Sched) (l : List Sched), fieldRuns s.chip = true ∧ (s.chip.field.table.filter (fun x =>
      x.entry.pin.val = p.val)).mergeSort schedBefore = x :: l ∧ stampNs x.entry.time ≤ timeNs s.chip + 1500) ∧
    (∃ (s : State) (p : Fin 64), fieldRuns s.chip = true ∧ tabGet 0 s.chip.field.offAt p.val ≠ 0 ∧ tabGet 0 s.chip.field.offAt p.val ≤
      timeNs s.chip + 1500) ∧
    (∃ (s : State) (p : Fin 64), fieldRuns s.chip = true ∧ bit s.chip.field.driven p.val = true) ∧
    (∃ (s : State) (g : Fin 8), fieldRuns s.chip = true ∧ bit s.chip.field.groups g.val = true) ∧
    (∃ (s : State), fieldRuns s.chip = true ∧ s.chip.field.silence = false ∧ s.chip.field.lastIntact + s.chip.field.silF * 1000 ≤
      s.chip.clk.now) ∧
    (∃ (s : State) (p : Fin 64), fieldRuns s.chip = true ∧ isOut s.chip.field p.val = true ∧ fld (pinCfg s.chip.field p.val) 5 4 = 3 ∧ bit
      s.chip.field.silHold (p.val / 8) = true ∧ s.chip.field.silenceAt + s.chip.field.sil2 * 1000000 ≤ s.chip.clk.now) ∧
    (∃ (s : State) (mV : BitVec 16), 16500 < mV.toNat) ∧
    (∃ (s : State) (mV : BitVec 16), mV.toNat < 12000) ∧
    (∃ (s : State), s.chip.field.powered = false) :=
  ⟨⟨chipOnly { old with field := { powered := true, invalid := false } }, 63, true, 1000000, by decide +kernel⟩,
   ⟨chipOnly { old with field := { powered := true, table := [{ entry := { pin := 63, tag := 1 } }] } }, 63, { entry := { pin := 63, tag := 1 } }, [], by decide +kernel⟩,
   ⟨chipOnly { old with field := { powered := true, offAt := [(63, 1)] } }, 63, by decide +kernel⟩,
   ⟨chipOnly { old with field := { powered := true, driven := 1#64 <<< 63 } }, 63, by decide +kernel⟩,
   ⟨chipOnly { old with field := { powered := true, groups := 0x80 } }, 7, by decide +kernel⟩,
   ⟨chipOnly { old with field := { powered := true,  } }, by decide +kernel⟩,
   ⟨chipOnly { old with field := { powered := true, pins := [(63, 0x31)], silHold := 0x80 } }, 63, by decide +kernel⟩,
   ⟨up, 16501, by decide +kernel⟩,
   ⟨up, 11999, by decide +kernel⟩,
   ⟨up, by decide +kernel⟩⟩

theorem witness_TetherFrames :
    (∃ (s : State), fieldRuns s.chip = true) ∧
    (∃ (s : State), clkLost s.chip .sys = false ∧ s.chip.pwr.state ≠ .save) ∧
    (∃ (c : Chip), c.field.powered = true) ∧
    (∃ (s : State) (f : DownFrame), fieldRuns s.chip = true) ∧
    (∃ (s : State) (f : DownFrame), fieldRuns s.chip = true ∧ s.chip.field.waitResync = true ∧ f.resync = false) ∧
    (∃ (s : State) (f : DownFrame), fieldRuns s.chip = true ∧ f.resync = true ∧ f.cfg0.id = 0 ∧ f.cfg1.id = 0 ∧ f.sched = []) ∧
    (∃ (s : State) (f : UpFrame) (arrival : Nat), mainRuns s.chip = true) ∧
    (∃ (s : State), mainRuns s.chip = true ∧ s.chip.fld.tether = .up ∧ s.chip.fld.lastIntact + rdF s.chip .fld 0x048 19 0 * 1000 ≤
      s.chip.clk.now) ∧
    (∃ (s : State) (path : Path) (p : Fin 64) (v : Word), CanWrite s path .fld ∧ v &&& 0xFFFF00F7 = v ∧ 1 ≤ fld v 31 16) ∧
    (∃ (s : State) (path : Path) (off : BitVec 12) (v : Word) (r : Reg), CanWrite s path .bly ∧ off.toNat % 4 = 0 ∧ 0x100 ≤ off.toNat ∧
      off.toNat ≤ 0x208 ∧ findRow (pageRows .bly) off.toNat = some (r, false)) ∧
    (∃ (s : State) (path : Path) (hi : Bool) (v : Word), CanWrite s path .fld) ∧
    (∃ (s : State) (path : Path) (v : Word), CanWrite s path .fld ∧ v &&& 0xFF = v ∧ s.chip.fld.groupOver &&& ~~~(v.setWidth 8) ≠ 0) ∧
    (∃ (s : State) (path : Path) (v : Word), CanWrite s path .fld ∧ v &&& 0xFF = v ∧ s.chip.fld.groupOver &&& ~~~(v.setWidth 8) = 0) :=
  ⟨⟨chipOnly { old with field := { powered := true,  } }, by decide +kernel⟩,
   ⟨up, by decide +kernel⟩,
   ⟨{ old with field.powered := true }, by decide +kernel⟩,
   ⟨chipOnly { old with field := { powered := true,  } }, {}, by decide +kernel⟩,
   ⟨chipOnly { old with field := { powered := true,  } }, {}, by decide +kernel⟩,
   ⟨chipOnly { old with field := { powered := true,  } }, { resync := true }, by decide +kernel⟩,
   ⟨up, {}, 0, by decide +kernel⟩,
   ⟨chipOnly { old with fld.tether := .up }, by decide +kernel⟩,
   ⟨up, .pcie, 63, 0x000100F7, by simp only [CanWrite]; decide +kernel⟩,
   ⟨up, .pcie, 0x208, 0, rowAt .bly 0x208, by simp only [CanWrite]; decide +kernel⟩,
   ⟨up, .pcie, false, 0, by simp only [CanWrite]; decide +kernel⟩,
   ⟨chipOnly { old with fld.groupOver := 0x80 }, .pcie, 0x7F, by simp only [CanWrite]; decide +kernel⟩,
   ⟨chipOnly { old with fld.groupOver := 0x80 }, .pcie, 0xFF, by simp only [CanWrite]; decide +kernel⟩⟩

theorem witness_BelayCycleAndFunctions :
    (∃ (s : State) (selfOk crcOk : Bool) (sr : Byte) (st : BitVec 16), BelayUp s) ∧
    (∃ (b : BlySt) (now : Nat) (inv selfOk crcOk : Bool) (sr : Byte) (st : BitVec 16), b.clockLost = false) ∧
    (∃ (b : BlySt) (now : Nat) (inv selfOk crcOk : Bool) (sr : Byte) (st : BitVec 16), b.clockLost = false ∧ b.state ≠ .run) ∧
    (∃ (b : BlySt) (now : Nat) (inv crcOk : Bool) (sr : Byte) (st : BitVec 16), b.clockLost = false ∧ b.state = .run) ∧
    (∃ (b : BlySt) (f : Nat) (inv : Bool), (fnSt b f).state = .run ∧ fnFaulted b f = false ∧ (fnPairs b.par f).all (pairMade b) = false) ∧
    (∃ (b : BlySt) (f : Nat) (inv : Bool), (fnSt b f).state = .run ∧ fnFaulted b f = true) :=
  ⟨⟨chipOnly { old with field.powered := true, bly := {  } }, false, false, 0, 0, by simp only [BelayUp]; decide +kernel⟩,
   ⟨{}, 0, false, false, false, 0, 0, by decide +kernel⟩,
   ⟨{}, 0, false, false, false, 0, 0, by decide +kernel⟩,
   ⟨{ state := .run }, 0, false, false, 0, 0, by decide +kernel⟩,
   ⟨{ fns := [(11, { state := .run })], par := [(0x1F0, 0xB02)] }, 11, false, by decide +kernel⟩,
   ⟨{ fns := [(11, { state := .run })], par := [(0x1F0, 0xB02)], pairs := [(11, { b8 := true })] }, 11, false, by decide +kernel⟩⟩

theorem witness_BelayTestsResetsAndCommit :
    (∃ (s : State), BelayUp s ∧ s.chip.bly.state = .start ∧ s.chip.bly.nvValid = true) ∧
    (∃ (s : State) (a b x : Bool), BelayUp s ∧ s.chip.bly.state = .start) ∧
    (∃ (s : State), s.chip.field.powered = true) ∧
    (∃ (s : State), BelayUp s) ∧
    (∃ (s : State) (x : Fin 4) (levels : BitVec 24), BelayUp s ∧ s.chip.bly.state = .run ∧ bit (tpCfg s.chip.bly.par) (8 + x.val) = true) ∧
    (∃ (s : State) (f : Fin 12), BelayUp s ∧ (fnSt s.chip.bly f.val).state = .stopping ∧ (fnSt s.chip.bly f.val).ss1 ≤ 1 ∧
      s.chip.bly.state = .run) ∧
    (∃ (s : State) (ms : Nat), BelayUp s ∧ 50 ≤ ms ∧ ms ≤ 3000 ∧ s.chip.bly.stuckA = false ∧ s.chip.bly.ignA ≤ s.chip.clk.now - ms *
      1000000) ∧
    (∃ (s : State) (ms : Nat), BelayUp s ∧ 50 ≤ ms ∧ ms ≤ 3000 ∧ s.chip.bly.stuckB = false ∧ s.chip.bly.ignB ≤ s.chip.clk.now - ms *
      1000000) ∧
    (∃ (s : State) (ms : Nat), BelayUp s ∧ 3000 < ms ∧ s.chip.bly.stuckA = false) ∧
    (∃ (s : State) (k : Fin 8), BelayUp s ∧ s.chip.bly.state = .run ∧ s.chip.bly.parOk = true ∧ bit (soutCfg s.chip.bly.par) k.val = true
      ∧ bit s.chip.bly.sout k.val = true ∧ (soutSt s.chip.bly k.val).testDue ≤ s.chip.clk.now ∧ bit s.chip.bly.soutNext k.val = true ∧ (∀
      f ∈ fnsIn s.chip.bly, (fnSt s.chip.bly f).state = .stopping → bit (fnTarget s.chip.bly.par f) (16 + k.val) = false)) ∧
    (∃ (s : State) (path : Path) (key : Word), CanWrite s path .bly) ∧
    (∃ (now : Nat) (b : BlySt) (key : Word), b.req = some (key, false) ∧ b.state = .run ∧ key = blyKey b.staging ∧ blyChecks b.staging =
      true) ∧
    (∃ (now : Nat) (b : BlySt) (key : Word) (running : Bool), b.req = some (key, running) ∧ (running = true ∨ key ≠ blyKey b.staging ∨
      blyChecks b.staging = false)) ∧
    (∃ (s : State), BelayUp s ∧ s.chip.bly.state = .commit) ∧
    (∃ (s : State) (path : Path), CanWrite s path .bly) ∧
    (∃ (s : State) (i : Fin 24) (level : Bool), BelayUp s) :=
  ⟨⟨chipOnly { old with field.powered := true, bly := { nvValid := true } }, by simp only [BelayUp]; decide +kernel⟩,
   ⟨chipOnly { old with field.powered := true, bly := {  } }, false, false, false, by simp only [BelayUp]; decide +kernel⟩,
   ⟨chipOnly { old with field.powered := true, bly := {  } }, by decide +kernel⟩,
   ⟨chipOnly { old with field.powered := true, bly := {  } }, by simp only [BelayUp]; decide +kernel⟩,
   ⟨chipOnly { old with field.powered := true, bly := { state := .run, par := [(0x200, 0xF01)] } }, 3, 0, by simp only [BelayUp]; decide +kernel⟩,
   ⟨chipOnly { old with field.powered := true, bly := { state := .run, fns := [(11, { state := .stopping, ss1 := 1 })] } }, 11, by simp only [BelayUp]; decide +kernel⟩,
   ⟨chipOnly { old with field.powered := true, bly := {  } }, 50, by simp only [BelayUp]; decide +kernel⟩,
   ⟨chipOnly { old with field.powered := true, bly := {  } }, 3000, by simp only [BelayUp]; decide +kernel⟩,
   ⟨chipOnly { old with field.powered := true, bly := {  } }, 3001, by simp only [BelayUp]; decide +kernel⟩,
   ⟨chipOnly { old with field.powered := true, bly := { state := .run, parOk := true, par := [(0x204, 0x80)], sout := 0x80, soutNext := 0x80 } }, 7, by simp only [BelayUp]; decide +kernel⟩,
   ⟨up, .pcie, 0, by simp only [CanWrite]; decide +kernel⟩,
   ⟨0, { state := .run, req := some (blyKey [], false) }, blyKey [], ⟨rfl, rfl, rfl, by decide +kernel⟩⟩,
   ⟨0, { req := some (0, true) }, 0, true, by decide +kernel⟩,
   ⟨chipOnly { old with field.powered := true, bly := { state := .commit } }, by simp only [BelayUp]; decide +kernel⟩,
   ⟨up, .pcie, by simp only [CanWrite]; decide +kernel⟩,
   ⟨chipOnly { old with field.powered := true, bly := {  } }, 23, false, by simp only [BelayUp]; decide +kernel⟩⟩

theorem witness_MemoryScrubDramAndLog :
    (∃ (s : State) (u : BitVec 144) (late : Bool), SramDue s.chip ∧ s.chip.scb.sramPos + 1 < sramWords ∧ late = overRate
      s.chip.scb.sramSince (rdF s.chip .scb 0x044 11 0 * 1000000000) s.chip.clk.now) ∧
    (∃ (s : State) (u : BitVec 144) (late : Bool), SramDue s.chip ∧ s.chip.scb.sramPos + 1 = sramWords ∧ late = overRate
      s.chip.scb.sramSince (rdF s.chip .scb 0x044 11 0 * 1000000000) s.chip.clk.now) ∧
    (∃ (s : State), mainRuns s.chip = true ∧ dramRuns s.chip = true ∧ s.chip.memc.lastRefresh + refreshNs s.chip ≤ s.chip.clk.now) ∧
    (∃ (s : State) (hot : Bool), mainRuns s.chip = true ∧ dramRuns s.chip = true ∧ s.chip.memc.lastTemp + 32000000 ≤ s.chip.clk.now) ∧
    (∃ (s : State), mainRuns s.chip = true ∧ dramRuns s.chip = true ∧ s.chip.memc.lastZq + 128000000 ≤ s.chip.clk.now) ∧
    (∃ (s : State), mainRuns s.chip = true ∧ s.chip.memc.dramOk = false ∧ clkLost s.chip .mem = false ∧ standing s.chip .mem 0xC0 = false) ∧
    (∃ (s : State) (k : Fin 16), mainRuns s.chip = true ∧ s.chip.memc.dramOk = false ∧ clkLost s.chip .mem = false ∧ standing s.chip .mem
      0xC0 = false ∧ s.chip.hits = []) ∧
    (∃ (s : State), mainRuns s.chip = true ∧ s.chip.pwr.state = .doze ∧ dramRuns s.chip = true ∧ s.chip.memc.lastAccess + 1000000 ≤
      s.chip.clk.now) ∧
    (∃ (s : State) (path : Path), fabricUp s.chip path = true ∧ s.chip.memc.elog = []) ∧
    (∃ (s : State) (path : Path) (x : ElogEntry) (l : List ElogEntry), fabricUp s.chip path = true ∧ s.chip.memc.elog = x :: l) ∧
    (∃ (s : State) (path : Path) (v : Word), CanWrite s path .mem ∧ v &&& 0xF3 = v ∧ fld v 7 4 ≤ 6 ∧ (bit v 0 = true ∨ bit v 1 = true)) ∧
    (∃ (s : State) (path : Path) (v : Word), CanWrite s path .kep ∧ v &&& 0x3FFF000 = v ∧ (hdr s.chip .kep).sealedBit = false ∧
      s.chip.keep.bootEnd ≤ v.toNat ∧ v.toNat + 524288 + 4096 ≤ s.chip.keep.mib * 2 ^ 20) ∧
    (∃ (s : State) (path : Path) (v : Word), CanWrite s path .kep ∧ v &&& 0x3FFF000 = v ∧ (hdr s.chip .kep).sealedBit = false ∧
      s.chip.keep.mib * 2 ^ 20 < v.toNat + 524288 + 4096) :=
  ⟨⟨chipOnly (running [.scb] (put [(.scb, 0x040, 1)] { old with scb.sramPos := 393214 })), 0, overRate (chipOnly (running [.scb] (put [(.scb, 0x040, 1)] { old with scb.sramPos := 393214 }))).chip.scb.sramSince (rdF (chipOnly (running [.scb] (put [(.scb, 0x040, 1)] { old with scb.sramPos := 393214 }))).chip .scb 0x044 11 0 * 1000000000) (chipOnly (running [.scb] (put [(.scb, 0x040, 1)] { old with scb.sramPos := 393214 }))).chip.clk.now, by simp only [SramDue]; decide +kernel⟩,
   ⟨chipOnly (running [.scb] (put [(.scb, 0x040, 1)] { old with scb.sramPos := 393215 })), 0, overRate (chipOnly (running [.scb] (put [(.scb, 0x040, 1)] { old with scb.sramPos := 393215 }))).chip.scb.sramSince (rdF (chipOnly (running [.scb] (put [(.scb, 0x040, 1)] { old with scb.sramPos := 393215 }))).chip .scb 0x044 11 0 * 1000000000) (chipOnly (running [.scb] (put [(.scb, 0x040, 1)] { old with scb.sramPos := 393215 }))).chip.clk.now, by simp only [SramDue]; decide +kernel⟩,
   ⟨chipOnly { old with memc.dramOk := true, memc.initGiB := 1 }, by decide +kernel⟩,
   ⟨chipOnly { old with memc.dramOk := true, memc.initGiB := 1 }, false, by decide +kernel⟩,
   ⟨chipOnly { old with memc.dramOk := true, memc.initGiB := 1 }, by decide +kernel⟩,
   ⟨up, by decide +kernel⟩,
   ⟨up, 15, by decide +kernel⟩,
   ⟨chipOnly { old with memc.dramOk := true, pwr.state := .doze }, by decide +kernel⟩,
   ⟨up, .pcie, by decide +kernel⟩,
   ⟨chipOnly { old with memc.elog := [{}] }, .pcie, {}, [], by decide +kernel⟩,
   ⟨up, .pcie, 0x63, by simp only [CanWrite]; decide +kernel⟩,
   ⟨chipOnly { old with keep.mib := 4 }, .pcie, 0x37F000, by simp only [CanWrite]; decide +kernel⟩,
   ⟨chipOnly { old with keep.mib := 4 }, .pcie, 0x380000, by simp only [CanWrite]; decide +kernel⟩⟩

theorem witness_ResetsOfTheMainDie :
    (∃ (s : State) (ns : Nat), 1000 ≤ ns ∧ s.chip.pwr.state ≠ .save) ∧
    (∃ (s : State) (ns : Nat), (ns < 1000 ∨ s.chip.pwr.state = .save)) ∧
    (∃ (s : State) (path : Path) (v : Word), CanWrite s path .pwr ∧ s.chip.pwr.state ≠ .save ∧ v &&& 0xFFFF0007 = v ∧ bit v 2 = true ∧ fld
      v 31 16 = 0x5752) ∧
    (∃ (s : State) (path : Path) (v : Word), CanWrite s path .pwr ∧ v &&& 0xFFFF0007 = v ∧ (bit v 2 = false ∨ fld v 31 16 ≠ 0x5752)) ∧
    (∃ s : State, s.chip.pwr.state ≠ .save) ∧
    (∃ s : State, s.chip.pwr.state = .save) :=
  ⟨⟨up, 1000, by decide +kernel⟩,
   ⟨up, 999, by decide +kernel⟩,
   ⟨up, .pcie, 0x57520007, by simp only [CanWrite]; decide +kernel⟩,
   ⟨up, .pcie, 0x57510007, by simp only [CanWrite]; decide +kernel⟩,
   ⟨up, by decide +kernel⟩,
   ⟨chipOnly { old with pwr.state := .save }, by decide +kernel⟩⟩

theorem witness_StartUpFromKeepMemoryOrHost :
    (∃ (env : BootEnv) (s : State) (t : Nat), s.chip.pwr.state = .save ∧ s.chip.pwr.saveSince = some t ∧ t + 4000000 ≤ s.chip.clk.now ∧
      s.chip.pwr.saveFailed = false) ∧
    (∃ (env : BootEnv) (s : State), (s.chip.pwr.state ≠ .save ∨ s.chip.pwr.saveSince = none)) ∧
    (∃ s : State, mainRuns s.chip = true ∧ s.chip.pwr.started = true ∧ s.chip.pwr.booted = false ∧ s.chip.memc.trained = true) ∧
    (∃ s : State, mainRuns s.chip = true ∧ s.chip.memc.trained = false ∧ standing s.chip .mem 0xC0 = false) :=
  ⟨⟨{}, chipOnly { old with pwr.state := .save, pwr.saveSince := some 0 }, 0, by decide +kernel⟩,
   ⟨{}, up, by decide +kernel⟩,
   ⟨chipOnly { old with pwr.started := true, memc.trained := true }, by decide +kernel⟩,
   ⟨up, by decide +kernel⟩⟩

theorem witness_RailsAndSag :
    (∃ (s : State) (r : Fin 6) (env : SaveEnv), bit (rd s.chip .pwr 0x040) 1 = false ∧ (hdr s.chip .pwr).state ≠ .splicing) ∧
    (∃ (s : State) (r : Fin 6) (env : SaveEnv), bit (rd s.chip .pwr 0x040) 1 = true ∧ (hdr s.chip .pwr).state ≠ .splicing ∧
      s.chip.pwr.started = true ∧ s.chip.pwr.state ≠ .save) ∧
    (∃ (s : State) (env : SaveEnv), bit (rd s.chip .pwr 0x040) 1 = true ∧ s.chip.pwr.started = true ∧ s.chip.pwr.state ≠ .save ∧ bit (rd
      s.chip .pwr 0x040) 0 = true ∧ saveCapable s.chip = true ∧ s.chip.sec.life ≠ 3 ∧ env.bytes ≤ 262144 ∧ env.keepOk = true) ∧
    (∃ (s : State) (env : SaveEnv), bit (rd s.chip .pwr 0x040) 1 = true ∧ s.chip.pwr.started = true ∧ s.chip.pwr.state ≠ .save ∧ (bit (rd
      s.chip .pwr 0x040) 0 = false ∨ saveCapable s.chip = false ∨ 262144 < env.bytes) ∧ s.chip.sec.life ≠ 3) ∧
    (∃ (s : State) (env : SaveEnv), (bit (rd s.chip .pwr 0x040) 1 = false ∨ s.chip.pwr.started = false ∨ s.chip.pwr.state = .save)) :=
  ⟨⟨chipOnly (put [(.pwr, 0x040, 0)] old), 5, {}, by decide +kernel⟩,
   ⟨chipOnly (put [(.pwr, 0x040, 3)] { old with pwr.started := true }), 5, {}, by decide +kernel⟩,
   ⟨chipOnly (put [(.pwr, 0x040, 3), (.kep, 0x040, 1)] { old with pwr.started := true, keep.present := true, keep.mib := 4 }), {}, by decide +kernel⟩,
   ⟨chipOnly (put [(.pwr, 0x040, 2)] { old with pwr.started := true }), {}, by decide +kernel⟩,
   ⟨chipOnly (put [(.pwr, 0x040, 0)] old), {}, by decide +kernel⟩⟩

theorem witness_PowerStateRequests :
    (∃ (s : State) (path : Path), CanWrite s path .pwr ∧ s.chip.pwr.state ≠ .save) ∧
    (∃ (s : State) (path : Path), CanWrite s path .pwr ∧ s.chip.pwr.state ≠ .save ∧ axesQuiet s.chip = true) ∧
    (∃ (s : State) (path : Path), CanWrite s path .pwr ∧ s.chip.pwr.state ≠ .save ∧ axesQuiet s.chip = true) ∧
    (∃ (s : State) (path : Path), CanWrite s path .pwr ∧ s.chip.pwr.state ≠ .save ∧ axesQuiet s.chip = false) :=
  ⟨⟨up, .pcie, by simp only [CanWrite]; decide +kernel⟩,
   ⟨up, .pcie, by simp only [CanWrite]; decide +kernel⟩,
   ⟨up, .pcie, by simp only [CanWrite]; decide +kernel⟩,
   ⟨chipOnly (axisUp 127 { state := .ready }), .pcie, by simp only [CanWrite]; decide +kernel⟩⟩

theorem witness_LifecycleTransitions :
    (∃ (s : State) (path : Path), CanWrite s path .sec ∧ s.chip.sec.busy = none ∧ axesQuiet s.chip = true ∧ s.chip.pwr.state = .run ∧
      s.chip.sec.life = 0 ∧ s.chip.sec.ownerHash = 0xFF) ∧
    (∃ (s : State) (path : Path), CanWrite s path .sec ∧ s.chip.sec.busy = none ∧ axesQuiet s.chip = true ∧ s.chip.pwr.state = .run ∧
      s.chip.sec.life = 1 ∧ s.chip.sec.programmed &&& ~~~s.chip.sec.revoked ≠ 0) ∧
    (∃ (s : State) (path : Path), CanWrite s path .sec ∧ s.chip.sec.busy = none ∧ axesQuiet s.chip = true ∧ s.chip.pwr.state = .run) ∧
    (∃ (s : State) (path : Path), CanWrite s path .sec ∧ s.chip.sec.busy = none ∧ axesQuiet s.chip = false) ∧
    (∃ (s : State) (path : Path), CanWrite s path .sec ∧ s.chip.sec.busy = none ∧ axesQuiet s.chip = true ∧ s.chip.pwr.state ≠ .run) ∧
    (∃ (s : State) (path : Path), CanWrite s path .sec ∧ s.chip.sec.busy = none ∧ axesQuiet s.chip = true ∧ s.chip.pwr.state = .run ∧
      s.chip.sec.life ≠ 0) ∧
    (∃ (s : State) (path : Path), CanWrite s path .sec ∧ s.chip.sec.busy = none ∧ axesQuiet s.chip = true ∧ s.chip.pwr.state = .run ∧
      s.chip.sec.life ≠ 1) ∧
    (∃ (s : State) (path : Path), CanWrite s path .sec ∧ s.chip.sec.busy = none ∧ axesQuiet s.chip = true ∧ s.chip.pwr.state = .run ∧
      s.chip.sec.life = 0 ∧ s.chip.sec.ownerHash ≠ 0xFF) ∧
    (∃ (s : State) (path : Path), CanWrite s path .sec ∧ s.chip.sec.busy = none ∧ axesQuiet s.chip = true ∧ s.chip.pwr.state = .run ∧
      s.chip.sec.life = 1 ∧ s.chip.sec.programmed &&& ~~~s.chip.sec.revoked = 0) ∧
    (∃ (s : State) (path : Path), CanWrite s path .sec ∧ s.chip.sec.busy = none ∧ axesQuiet s.chip = true ∧ s.chip.pwr.state = .run ∧
      s.chip.sec.life = 2 ∧ s.chip.sec.scrapAuth = none) ∧
    (∃ (s : State) (path : Path) (key : BitVec 16), CanWrite s path .sec ∧ key ≠ 0x4C43) ∧
    (∃ (s : State) (path : Path) (t : Nat), mainRuns s.chip = true ∧ s.chip.sec.busy = some (1, t, path)) ∧
    (∃ (s : State) (path : Path) (t : Nat), mainRuns s.chip = true ∧ s.chip.sec.busy = some (2, t, path)) ∧
    (∃ (s : State) (path : Path) (t : Nat), mainRuns s.chip = true ∧ s.chip.sec.busy = some (3, t, path)) :=
  ⟨⟨chipOnly { old with sec.ownerHash := 0xFF }, .pcie, by simp only [CanWrite]; decide +kernel⟩,
   ⟨chipOnly { old with sec.life := 1, sec.programmed := 1 }, .pcie, by simp only [CanWrite]; decide +kernel⟩,
   ⟨up, .pcie, by simp only [CanWrite]; decide +kernel⟩,
   ⟨chipOnly (axisUp 127 { state := .ready }), .pcie, by simp only [CanWrite]; decide +kernel⟩,
   ⟨chipOnly { old with pwr.state := .hold }, .pcie, by simp only [CanWrite]; decide +kernel⟩,
   ⟨chipOnly { old with sec.life := 1 }, .pcie, by simp only [CanWrite]; decide +kernel⟩,
   ⟨up, .pcie, by simp only [CanWrite]; decide +kernel⟩,
   ⟨up, .pcie, by simp only [CanWrite]; decide +kernel⟩,
   ⟨chipOnly { old with sec.life := 1 }, .pcie, by simp only [CanWrite]; decide +kernel⟩,
   ⟨chipOnly { old with sec.life := 2 }, .pcie, by simp only [CanWrite]; decide +kernel⟩,
   ⟨up, .pcie, 0, by simp only [CanWrite]; decide +kernel⟩,
   ⟨chipOnly { old with sec.busy := some (1, 5, .pcie) }, .pcie, 5, by decide +kernel⟩,
   ⟨chipOnly { old with sec.busy := some (2, 5, .pcie) }, .pcie, 5, by decide +kernel⟩,
   ⟨chipOnly { old with sec.busy := some (3, 5, .pcie) }, .pcie, 5, by decide +kernel⟩⟩

theorem witness_KeySlots :
    (∃ (s : State) (path : Path), CanWrite s path .sec ∧ s.chip.sec.life < 2 ∧ bit s.chip.sec.programmed (rdF s.chip .sec 0x054 1 0) =
      false) ∧
    (∃ (s : State) (path : Path), CanWrite s path .sec ∧ (2 ≤ s.chip.sec.life ∨ bit s.chip.sec.programmed (rdF s.chip .sec 0x054 1 0) =
      true)) ∧
    (∃ (s : State) (path : Path), CanWrite s path .sec ∧ s.chip.sec.life ≠ 3 ∧ (s.chip.sec.life = 2 → s.chip.sec.programmed &&&
      ~~~s.chip.sec.revoked ≠ 1#4 <<< rdF s.chip .sec 0x054 1 0)) ∧
    (∃ (s : State) (path : Path), CanWrite s path .sec ∧ (s.chip.sec.life = 3 ∨ (s.chip.sec.life = 2 ∧ s.chip.sec.programmed &&&
      ~~~s.chip.sec.revoked = 1#4 <<< rdF s.chip .sec 0x054 1 0))) ∧
    (∃ (s : State) (path : Path), CanWrite s path .sec ∧ s.chip.keep.present = true ∧ s.chip.sec.life < 2 ∧ (∀ k, path ≠ .core k)) ∧
    (∃ (s : State) (k : Fin 8), CanWrite s (.core k) .sec) :=
  ⟨⟨chipOnly (put [(.sec, 0x054, 3)] { old with sec.life := 1 }), .pcie, by simp only [CanWrite]; decide +kernel⟩,
   ⟨chipOnly { old with sec.life := 2 }, .pcie, by simp only [CanWrite]; decide +kernel⟩,
   ⟨chipOnly (put [(.sec, 0x054, 3)] { old with sec.life := 2, sec.programmed := 9 }), .pcie, by simp only [CanWrite]; decide +kernel⟩,
   ⟨chipOnly (put [(.sec, 0x054, 3)] { old with sec.life := 2, sec.programmed := 8 }), .pcie, by simp only [CanWrite]; decide +kernel⟩,
   ⟨chipOnly { old with keep.present := true }, .ycp 3, by simp only [CanWrite]; refine ⟨by decide +kernel, by decide +kernel, by decide +kernel, fun k => by simp⟩⟩,
   ⟨up, 7, by simp only [CanWrite]; decide +kernel⟩⟩

theorem witness_ChallengeAndUnlock :
    (∃ (s : State) (path : Path) (rnd : BitVec 128), CanWrite s path .sec) ∧
    (∃ (s : State) (x : BitVec 128) (t : Nat), mainRuns s.chip = true ∧ s.chip.sec.challenge = some (x, t) ∧ t + 60000000000 ≤
      s.chip.clk.now) ∧
    (∃ (s : State) (x : BitVec 128) (t : Nat), mainRuns s.chip = true ∧ s.chip.sec.challenge = some (x, t) ∧ s.chip.clk.now < t +
      60000000000) ∧
    (∃ (s : State) (path : Path) (h g : Bool) (t : Nat), CanWrite s path .sec ∧ s.chip.sec.lockout = some t ∧ s.chip.clk.now < t +
      1000000000) ∧
    (∃ (s : State) (path : Path) (h g : Bool), CanWrite s path .sec ∧ NotLocked s.chip ∧ (h = false ∨ g = false ∨ s.chip.sec.challenge =
      none ∨ token s.chip path 0 ≠ 0x4E4B4F54 ∨ joinHalves (token s.chip path 3) (token s.chip path 2) ≠ Config.uid ∨ (token s.chip path
      8).toNat = 0 ∨ 86400 < (token s.chip path 8).toNat)) ∧
    (∃ (s : State) (path : Path) (secs : Nat), CanWrite s path .sec ∧ NotLocked s.chip ∧ TokenFields s.chip path 4 0 secs) ∧
    (∃ (s : State) (path : Path) (secs : Nat), CanWrite s path .sec ∧ NotLocked s.chip ∧ s.chip.sec.life = 2 ∧ TokenFields s.chip path 2 0
      secs) ∧
    (∃ (s : State) (path : Path) (secs : Nat), CanWrite s path .sec ∧ NotLocked s.chip ∧ s.chip.sec.life = 2 ∧ TokenFields s.chip path 3 1
      secs) ∧
    (∃ (s : State) (t : Nat), mainRuns s.chip = true ∧ s.chip.sec.lockout = some t ∧ t + 1000000000 ≤ s.chip.clk.now) ∧
    (∃ (s : State) (t : Nat), mainRuns s.chip = true ∧ s.chip.dbg.expiry = some t ∧ t ≤ s.chip.clk.now ∧ haltedUnits s.chip = []) ∧
    (∃ (s : State) (t : Nat), mainRuns s.chip = true ∧ s.chip.dbg.expiry = some t ∧ s.chip.clk.now < t) :=
  ⟨⟨up, .pcie, 0, by simp only [CanWrite]; decide +kernel⟩,
   ⟨chipOnly { old with sec.challenge := some (1, 1000000000000 - 60000000000) }, 1, 1000000000000 - 60000000000, by decide +kernel⟩,
   ⟨chipOnly { old with sec.challenge := some (1, 1000000000000 - 59999999999) }, 1, 1000000000000 - 59999999999, by decide +kernel⟩,
   ⟨chipOnly { old with sec.lockout := some 1000000000000 }, .pcie, false, false, 1000000000000, by simp only [CanWrite]; decide +kernel⟩,
   ⟨up, .pcie, false, false, by unfold CanWrite; exact ⟨by decide +kernel, fun t h => by (cases (show none = some t from h)), Or.inl rfl⟩⟩,
   ⟨chipOnly (withToken 4 0 old), .pcie, 86400, by simp only [CanWrite]; exact ⟨by decide +kernel, fun t h => by (cases (show none = some t from h)), ⟨by decide +kernel, by decide +kernel, by decide +kernel, by decide +kernel, Sys2Proof.Laws.FeedbackOps.joinHalves_halves _, ⟨0, 1000000000000, rfl, by decide +kernel, by decide +kernel⟩, by decide +kernel, by decide +kernel, by decide +kernel, by decide +kernel⟩⟩⟩,
   ⟨chipOnly (withToken 2 0 { old with sec.life := 2 }), .pcie, 86400, by simp only [CanWrite]; exact ⟨by decide +kernel, fun t h => by (cases (show none = some t from h)), by decide +kernel, ⟨by decide +kernel, by decide +kernel, by decide +kernel, by decide +kernel, Sys2Proof.Laws.FeedbackOps.joinHalves_halves _, ⟨0, 1000000000000, rfl, by decide +kernel, by decide +kernel⟩, by decide +kernel, by decide +kernel, by decide +kernel, by decide +kernel⟩⟩⟩,
   ⟨chipOnly (withToken 3 1 { old with sec.life := 2 }), .pcie, 86400, by simp only [CanWrite]; exact ⟨by decide +kernel, fun t h => by (cases (show none = some t from h)), by decide +kernel, ⟨by decide +kernel, by decide +kernel, by decide +kernel, by decide +kernel, Sys2Proof.Laws.FeedbackOps.joinHalves_halves _, ⟨0, 1000000000000, rfl, by decide +kernel, by decide +kernel⟩, by decide +kernel, by decide +kernel, by decide +kernel, by decide +kernel⟩⟩⟩,
   ⟨chipOnly { old with sec.lockout := some 0 }, 0, by decide +kernel⟩,
   ⟨chipOnly { old with dbg.expiry := some 1000000000000 }, 1000000000000, by decide +kernel⟩,
   ⟨chipOnly { old with dbg.expiry := some 1000000000001 }, 1000000000001, by decide +kernel⟩⟩

theorem witness_DebugLevelsHaltsAndSteps :
    (∃ (s : State) (path : Path) (v : Word), CanWrite s path .dbg ∧ v &&& 3 = v ∧ s.chip.dbg.level < fld v 1 0 ∧ levelFree s.chip.sec.life
      (fld v 1 0) = true ∧ haltedUnits s.chip = []) ∧
    (∃ (s : State) (path : Path) (v : Word), CanWrite s path .dbg ∧ v &&& 3 = v ∧ s.chip.dbg.level < fld v 1 0 ∧ levelFree s.chip.sec.life
      (fld v 1 0) = false) ∧
    (∃ (s : State) (path : Path), CanWrite s path .dbg ∧ (∀ k, path ≠ .core k) ∧ 0 < s.chip.dbg.level ∧ haltedUnits s.chip = []) ∧
    (∃ (s : State) (k : Fin 8) (v : Word), CanWrite s (.core k) .dbg ∧ v &&& 3 = v ∧ fld v 1 0 < s.chip.dbg.level) ∧
    (∃ (s : State) (path : Path) (k : Fin 8), CanWrite s path .dbg ∧ 2 ≤ s.chip.dbg.level ∧ haltSelected s.chip = some (.page (.fco k)) ∧
      HaltUnit.page (.fco k) ∉ haltedUnits s.chip) ∧
    (∃ (s : State) (path : Path), CanWrite s path .dbg ∧ 2 ≤ s.chip.dbg.level ∧ haltSelected s.chip = some .planner ∧ HaltUnit.planner ∉
      haltedUnits s.chip) ∧
    (∃ (s : State) (path : Path), CanWrite s path .dbg ∧ (s.chip.dbg.level < 2 ∨ haltSelected s.chip = none)) ∧
    (∃ (s : State) (path : Path) (k : Fin 8), CanWrite s path .dbg ∧ 2 ≤ s.chip.dbg.level ∧ haltSelected s.chip = some (.page (.fco k)) ∧
      HaltUnit.page (.fco k) ∈ haltedUnits s.chip) ∧
    (∃ (s : State) (path : Path) (v : Word), CanWrite s path .dbg ∧ v &&& 0xFF = v ∧ 2 ≤ s.chip.dbg.level) ∧
    (∃ (s : State) (path : Path) (v : Word), CanWrite s path .dbg ∧ v &&& 0xFF = v ∧ s.chip.dbg.level < 2) :=
  ⟨⟨up, .pcie, 2, by simp only [CanWrite]; decide +kernel⟩,
   ⟨chipOnly { old with sec.life := 1 }, .pcie, 2, by simp only [CanWrite]; decide +kernel⟩,
   ⟨chipOnly { old with dbg.level := 1 }, .pcie, by simp only [CanWrite]; refine ⟨by decide +kernel, fun k => by simp, by decide +kernel⟩⟩,
   ⟨chipOnly { old with dbg.level := 1 }, 7, 0, by simp only [CanWrite]; decide +kernel⟩,
   ⟨chipOnly (put [(.dbg, 0x050, 0x2C7000)] { old with dbg.level := 2 }), .pcie, 7, by simp only [CanWrite]; decide +kernel⟩,
   ⟨chipOnly (put [(.dbg, 0x050, 0x020000)] { old with dbg.level := 2 }), .pcie, by simp only [CanWrite]; decide +kernel⟩,
   ⟨up, .pcie, by simp only [CanWrite]; decide +kernel⟩,
   ⟨chipOnly (heads (.fco 7) { halted := true } (put [(.dbg, 0x050, 0x2C7000)] { old with dbg.level := 2 })), .pcie, 7, by simp only [CanWrite]; decide +kernel⟩,
   ⟨chipOnly { old with dbg.level := 2 }, .pcie, 0xFF, by simp only [CanWrite]; decide +kernel⟩,
   ⟨chipOnly { old with dbg.level := 1 }, .pcie, 0xFF, by simp only [CanWrite]; decide +kernel⟩⟩

theorem witness_DebugUart :
    (∃ (s : State) (r : UartReq) (p : Page) (off : Nat), UartNew s r ∧ r.op = 1 ∧ off < 0x1000 ∧ r.off.toNat = pageBase p + off ∧ (1 ≤
      s.chip.dbg.level ∨ p = .sec ∨ off = 0)) ∧
    (∃ (s : State) (r : UartReq) (p : Page) (off : Nat), UartNew s r ∧ r.op = 1 ∧ off < 0x1000 ∧ r.off.toNat = pageBase p + off ∧
      s.chip.dbg.level = 0 ∧ p ≠ .sec ∧ off ≠ 0 ∧ (p = .dbg → off ≠ 0x044)) ∧
    (∃ (s : State) (r : UartReq) (i : Nat), UartNew s r ∧ r.op = 2 ∧ i < 48 ∧ r.off.toNat = pageBase .sec + (0x200 + 4 * i) ∧ CanWrite s
      .uart .sec) ∧
    (∃ (s : State) (r : UartReq) (p : Page) (off : Nat), UartNew s r ∧ r.op = 2 ∧ off < 0x1000 ∧ r.off.toNat = pageBase p + off ∧
      s.chip.dbg.level < 2 ∧ p ≠ .sec) ∧
    (∃ (s : State) (r : UartReq) (p : Page) (off : Nat), UartNew s r ∧ r.op = 2 ∧ off < 0x1000 ∧ r.off.toNat = pageBase p + off ∧ 2 ≤
      s.chip.dbg.level ∧ isStaging p off = false ∧ (hdr s.chip p).owner ≠ 0 ∧ (hdr s.chip p).owner ≠ 16) ∧
    (∃ (s : State) (r : UartReq), fabricUp s.chip .uart = true ∧ (uartIntact r = false ∨ r.off.toNat % 4 ≠ 0)) ∧
    (∃ (s : State) (r : UartReq) (st : Byte) (v : Word), fabricUp s.chip .uart = true ∧ uartIntact r = true ∧ r.off.toNat % 4 = 0 ∧
      s.chip.dbg.uartLast = some (r, st, v)) ∧
    (∃ (s : State) (t : Nat), mainRuns s.chip = true ∧ s.chip.dbg.uartPartial = some t ∧ t + 10000000 ≤ s.chip.clk.now) ∧
    (∃ (s : State), mainRuns s.chip = true ∧ s.chip.dbg.uartPartial = none) :=
  ⟨⟨up, uart 1 0x003FFC, .sec, 0xFFC, by simp only [UartNew]; refine ⟨⟨by decide +kernel, by decide +kernel, by decide +kernel, fun x h => by cases (show none = some x from h)⟩, by decide +kernel, by decide +kernel, by decide +kernel, by decide +kernel⟩⟩,
   ⟨up, uart 1 0x005040, .evt, 0x040, by simp only [UartNew]; refine ⟨⟨by decide +kernel, by decide +kernel, by decide +kernel, fun x h => by cases (show none = some x from h)⟩, by decide +kernel, by decide +kernel, by decide +kernel, by decide +kernel, by decide +kernel, by decide +kernel, fun h => by cases h⟩⟩,
   ⟨up, uart 2 0x0032BC, 47, by simp only [UartNew]; refine ⟨⟨by decide +kernel, by decide +kernel, by decide +kernel, fun x h => by cases (show none = some x from h)⟩, by decide +kernel, by decide +kernel, by decide +kernel, by simp only [CanWrite]; decide +kernel⟩⟩,
   ⟨up, uart 2 0x005044, .evt, 0x044, by simp only [UartNew]; refine ⟨⟨by decide +kernel, by decide +kernel, by decide +kernel, fun x h => by cases (show none = some x from h)⟩, by decide +kernel, by decide +kernel, by decide +kernel, by decide +kernel, by decide +kernel⟩⟩,
   ⟨chipOnly (heads .evt { owner := 1 } { old with dbg.level := 2 }), uart 2 0x005048, .evt, 0x048, by simp only [UartNew]; refine ⟨⟨by decide +kernel, by decide +kernel, by decide +kernel, fun x h => by cases (show none = some x from h)⟩, by decide +kernel, by decide +kernel, by decide +kernel, by decide +kernel, by decide +kernel, by decide +kernel, by decide +kernel⟩⟩,
   ⟨up, uart 1 2, by decide +kernel⟩,
   ⟨chipOnly { old with dbg.uartLast := some (uart 1 0, 0, 7) }, uart 1 0, 0, 7, by decide +kernel⟩,
   ⟨chipOnly { old with dbg.uartPartial := some 1 }, 1, by decide +kernel⟩,
   ⟨up, by decide +kernel⟩⟩

theorem witness_IdleStepIsOneTimeTick :
    (∃ s : State, s.pending = []) ∧
    (∃ s : State, s.pending = [] ∧ mainRuns s.chip = false) ∧
    (∃ c : Chip, c.tim.relocking = false ∧ clkLost c .time = false ∧ c.tim.rate = 0 ∧ c.tim.frac = 0 ∧ c.tim.ns + 4 < 1000000000 ∧ c.tim.s
      < 2 ^ 48) :=
  ⟨⟨up, by decide +kernel⟩,
   ⟨chipOnly { old with pwr.state := .save }, by decide +kernel⟩,
   ⟨{ old with tim.ns := 999999995 }, by decide +kernel⟩⟩

theorem witness_MemoryFormIsAnInvariant :
    (∃ s t : State, s.mem.wf = true ∧ step s = .next t) :=
  ⟨State.reset, idleTick State.reset, ⟨by decide +kernel, rfl⟩⟩

theorem witness_ResetsDuringASave :
    (∃ s : State, s.chip.pwr.state = .save) ∧
    (∃ (s : State) (env : BootEnv) (t : Nat), s.chip.pwr.state = .save ∧ s.chip.pwr.saveSince = some t ∧ t + 4000000 ≤ s.chip.clk.now) :=
  ⟨⟨chipOnly { old with pwr.state := .save }, by decide +kernel⟩,
   ⟨chipOnly { old with pwr.state := .save, pwr.saveSince := some 0 }, {}, 0, by decide +kernel⟩⟩

theorem witness_TimeReadSnapshots :
    (∃ (s : State) (path : Path), fabricUp s.chip path = true) ∧
    (∃ (c : Chip) (path other : Path) (a b : Nat) (v : Word), a < 2 ^ 24 ∧ b < 2 ^ 24 ∧ (other ≠ path ∨ a ≠ b)) :=
  ⟨⟨up, .pcie, by decide +kernel⟩,
   ⟨up.chip, .pcie, .pcie, 1, 2, 0, by decide +kernel⟩⟩

theorem witness_EventWritesAndYcpRequestsComplete :
    (∃ (s : State) (path : Path) (p : Page) (v : Word), CanWrite s path p) ∧
    (∃ (s : State) (path : Path) (p : Page) (v : Word), CanWrite s path p) ∧
    (∃ (s : State) (path : Path) (p : Page), CanWrite s path p ∧ (p = .bly → (hdr s.chip p).fltCode.toNat < 0xB0)) :=
  ⟨⟨up, .pcie, .evt, 0, by simp only [CanWrite]; decide +kernel⟩,
   ⟨up, .pcie, .evt, 0, by simp only [CanWrite]; decide +kernel⟩,
   ⟨up, .pcie, .evt, by simp only [CanWrite]; decide +kernel⟩⟩

/-! ### Hypotheses that ask for a value of Config

Whether an ALU or MOVS word is reserved, which register FAIL, HEVT and MOVS name and the design weights have no value in Lean, so a
witness takes what is asked of them as its own hypothesis, or names both cases. -/

theorem witness_CoreAluMinMaxAndMovs_register (h : Config.aluReserved 0 = false) : Stands (coreState 0 {}) 7 0 ∧ cls (0 : Word) = 0 := by
  unfold Stands
  exact ⟨⟨by decide +kernel, by decide +kernel, by decide +kernel, by decide +kernel, h, Or.inl (by decide +kernel)⟩, by decide +kernel⟩

theorem witness_CoreAluMinMaxAndMovs_immediate (h : Config.aluReserved 0 = false) :
    Stands (coreState 0x10000000 {}) 7 0x10000000 ∧ cls (0x10000000 : Word) = 1 := by
  unfold Stands
  exact ⟨⟨by decide +kernel, by decide +kernel, by decide +kernel, by decide +kernel, h, Or.inl (by decide +kernel)⟩, by decide +kernel⟩

theorem witness_CoreAluMinMaxAndMovs_movs (h : Config.movsReserved 0 = false) :
    Stands (coreState 0x97000000 {}) 7 0x97000000 ∧ cls (0x97000000 : Word) = 9 ∧ fld (0x97000000 : Word) 27 24 = 7 := by
  unfold Stands
  exact ⟨⟨by decide +kernel, by decide +kernel, by decide +kernel, by decide +kernel, h, Or.inl (by decide +kernel)⟩, by decide +kernel, by decide +kernel⟩

/-- The state of the HEVT witnesses: every vector is allowed to core 7. -/
def hevtState : State := onChip (put [(.fco 7, 0x054, 0xFFFFFFFF)]) (coreState 0x95000000 {})

/-- For HevtRaisesAllowedVectors, and for the two clauses of CoreItemsEventsAndWatchdog on HEVT: the vector that the word names is below 45
or allowed. -/
theorem witness_HevtRaisesAllowedVectors : Stands hevtState 7 0x95000000 ∧ cls (0x95000000 : Word) = 9 ∧ fld (0x95000000 : Word) 27 24 = 5 ∧
    ∀ v, 45 ≤ v → v < 64 → bit (rd (atIssue hevtState 7).chip (fcoPage 7) 0x054) (v - 45) = true := by
  unfold Stands
  refine ⟨by decide +kernel, by decide +kernel, by decide +kernel, fun v a b => ?_⟩
  have h : rd (atIssue hevtState 7).chip (fcoPage 7) 0x054 = 0xFFFFFFFF := by decide +kernel
  rw [h]
  have k : ∀ i < 19, bit (0xFFFFFFFF : Word) i = true := by decide
  exact k _ (by omega)

theorem witness_ConvertersAndCalibration_passes (h : ∀ i, Config.designWeight 15 i < 2 ^ 24) :
    calPasses 0 0x400000 ((List.finRange 18).map (fun i => BitVec.ofNat 24 (Config.designWeight 15 i))) 15 = true := by
  have w (i : Nat) (hi : i < 18) :
      (((List.finRange 18).map (fun i => BitVec.ofNat 24 (Config.designWeight 15 i))).getD i 0).toNat = Config.designWeight 15 (Fin.ofNat 18 i) := by
    have e : Fin.ofNat 18 i = ⟨i, hi⟩ := Fin.ext (Nat.mod_eq_of_lt hi)
    rw [List.getD_eq_getElem _ _ (by simpa using hi), e]
    simp [Nat.mod_eq_of_lt (h ⟨i, hi⟩)]
    exact Nat.lt_of_lt_of_eq (h _) (by norm_num)
  have a : ((List.finRange 18).map (fun i => BitVec.ofNat 24 (Config.designWeight 15 i))).length = 18 := by simp
  unfold calPasses
  simp only [a, Bool.and_eq_true, List.all_eq_true, List.mem_range]
  refine ⟨⟨⟨⟨by decide, by decide⟩, by decide⟩, by decide⟩, fun i hi => ?_⟩
  rw [w i hi]
  have e : Fin.ofNat 16 15 = 15 := rfl
  simp only [e, decide_eq_true_eq]
  omega


/-! ### Datagrams that a session hears

The cipher and the tag of AES-GCM have no value in Lean (log entry 155), so the datagrams of these witnesses carry what Config gives; of the cipher
it is asked that it keeps the length of the body. -/

/-- A datagram of session 3 with a sealed body. -/
def sealedGram (seq : Word) (plain : List Byte) : Dgram :=
  let body := Config.gcmCipher 5 (gcmNonce 0 3 3 seq) plain
  dgram seq body (some (Config.gcmTag 5 (gcmNonce 0 3 3 seq) (dgramHeader 3 3 (dgram seq body (some 0))) body))

theorem rd_sesUp (x : Session) (o : Nat) : rd (sesUp x).chip .ycp o = rd (put [(.ycp, 0x040, 0x11)] old) .ycp o := rfl

theorem heard_tagged (typ : Byte) (x : Session) (seq : Word) (hx : x.state = .opened) (hk : x.key = 5) :
    Heard (sesUp x) typ 3 .tagged [] (taggedGram typ seq) := by
  refine ⟨⟨?_, ?_, ?_, ?_, rfl⟩, ?_, ?_⟩
  · simp [mainRuns, clkLost, sesUp, chipOnly, running, put]; decide +kernel
  · simp [ycpActive, isUp, sesUp, chipOnly, running, put]; decide +kernel
  · simp only [ycpTaken, ipTaken, ycpPort, rdF, rd_sesUp, taggedGram, dgram, udpOk]; simp; decide +kernel
  · simp [ycpIntact, taggedGram, dgram]
  · exact hx
  · simp [authentic, taggedGram, dgram, session, sesUp, chipOnly, running, put, tabGet, hk, ipOf, dgramHeader]

theorem heard_sealed (x : Session) (seq : Word) (plain : List Byte) (hx : x.state = .opened) (hk : x.key = 5) (hp : plain.length ≤ 1400)
    (h : ∀ n, (Config.gcmCipher 5#128 n plain).length = plain.length) : Heard (sesUp x) 3 3 .sealed plain (sealedGram seq plain) := by
  refine ⟨⟨?_, ?_, ?_, ?_, rfl⟩, ?_, ?_⟩
  · simp [mainRuns, clkLost, sesUp, chipOnly, running, put]; decide +kernel
  · simp [ycpActive, isUp, sesUp, chipOnly, running, put]; decide +kernel
  · simp only [ycpTaken, ipTaken, ycpPort, rdF, rd_sesUp, sealedGram, dgram, udpOk]; simp; decide +kernel
  · simp [ycpIntact, sealedGram, dgram, h]; omega
  · exact hx
  · simp [authentic, sealedGram, dgram, session, sesUp, chipOnly, running, put, tabGet, hk, ipOf, dgramHeader]

theorem witness_SessionsOpenLiveAndClose_heard :
    (Heard (sesUp opened) 0x06 3 .tagged [] (taggedGram 6 1) ∧ (session (sesUp opened).chip 3).alive.toNat < (taggedGram 6 1).seq.toNat) ∧
    (Heard (sesUp { opened with alive := 1 }) 0x06 3 .tagged [] (taggedGram 6 1) ∧
      (taggedGram 6 1).seq.toNat ≤ (session (sesUp { opened with alive := 1 }).chip 3).alive.toNat) ∧
    Heard (sesUp opened) 0x07 3 .tagged [] (taggedGram 7 1) :=
  ⟨⟨heard_tagged _ _ _ rfl rfl, by decide +kernel⟩, ⟨heard_tagged _ _ _ rfl rfl, by decide +kernel⟩, heard_tagged _ _ _ rfl rfl⟩

/-- What is asked of the cipher. -/
def KeepsLength : Prop := ∀ n p, (Config.gcmCipher 5 n p).length = p.length

theorem heard_op (kl : KeepsLength) (x : Session) (seq : Word) (op : YcpOp) (hx : x.state = .opened) (hk : x.key = 5)
    (hp : (ycpPlain op).length ≤ 1400) : Heard (sesUp x) 0x03 3 .sealed (ycpPlain op) (sealedGram seq (ycpPlain op)) :=
  heard_sealed x seq _ hx hk hp (fun n => kl n _)

/-- The five operations, each with a body in form. -/
def ops : List YcpOp :=
  [{ kind := .read, body := rdBody }, { kind := .write, body := wrBody }, { kind := .readBlock, body := rdBody },
   { kind := .writeBlock, body := wrBody }, { kind := .command, body := cmdBody }]

/-- In order: the first clause of YcpRequestsRunInOrder and the last of EventWritesAndYcpRequestsComplete. -/
theorem witness_YcpRequestsRunInOrder_inOrder (kl : KeepsLength) : ∀ op ∈ ops,
    (sealedGram 100 (ycpPlain op)).seq = (session (sesUp opened).chip 3).exp ∧
    (∀ h ∈ (session (sesUp opened).chip 3).held, h.1 ≠ (sealedGram 100 (ycpPlain op)).seq) ∧
    Heard (sesUp opened) 0x03 3 .sealed (ycpPlain op) (sealedGram 100 (ycpPlain op)) ∧ ycpBad op = none := by
  intro op h
  refine ⟨rfl, fun h hh => by simp [session, sesUp, chipOnly, running, put, tabGet, opened] at hh, heard_op kl _ _ _ rfl rfl ?_, ?_⟩
  · revert op; decide +kernel
  · revert op; decide +kernel

theorem witness_EventWritesAndYcpRequestsComplete_words :
    (∃ t v, ycpReadOne 3 (fld rdBody.addr 23 0) (onChip (inOrder 3) (sesUp opened)) = (t, .ok v)) ∧
    (beWords wrBody.rest = [0] ∧ ∃ t, ycpWriteOne 3 (fld wrBody.addr 23 0) 0 (onChip (inOrder 3) (sesUp opened)) = (t, none)) ∧
    orphanUse (onChip (inOrder 3) (sesUp opened)).chip < 256 ∧
    commandServes (running [.cmd] (onChip (inOrder 3) (sesUp opened)).chip) = true :=
  ⟨⟨_, _, rfl⟩, ⟨rfl, _, rfl⟩, by decide +kernel, by decide +kernel⟩

/-- Out of order: ahead by 15 and by 16, behind by more than 64, and answered before. -/
theorem witness_YcpRequestsRunInOrder_outOfOrder (kl : KeepsLength) :
    let op : YcpOp := { kind := .read, body := rdBody }
    let x2 : Session := { opened with cache := [{ seq := 36, status := 0 }] }
    (.ycpRead 3 (sealedGram 115 (ycpPlain op)) rdBody, op) ∈ ycpRequests 3 (sealedGram 115 (ycpPlain op)) rdBody none ∧
    Heard (sesUp opened) 0x03 3 .sealed (ycpPlain op) (sealedGram 115 (ycpPlain op)) ∧
    Heard (sesUp opened) 0x03 3 .sealed (ycpPlain op) (sealedGram 116 (ycpPlain op)) ∧
    Heard (sesUp opened) 0x03 3 .sealed (ycpPlain op) (sealedGram 35 (ycpPlain op)) ∧
    Heard (sesUp x2) 0x03 3 .sealed (ycpPlain op) (sealedGram 36 (ycpPlain op)) ∧
    (session (sesUp x2).chip 3).cache.find? (fun y => y.seq == 36) = some { seq := 36, status := 0 } ∧
    (session (sesUp x2).chip 3).exp.toNat ≤ 36 + 64 := by
  refine ⟨by simp [ycpRequests], heard_op kl _ _ _ rfl rfl (by decide +kernel), heard_op kl _ _ _ rfl rfl (by decide +kernel), heard_op kl _ _ _ rfl rfl (by decide +kernel),
    heard_op kl _ _ _ rfl rfl (by decide +kernel), by decide +kernel, by decide +kernel⟩

/-- A transparent clock with end-to-end delay, for Pdelay_Resp. -/
theorem witness_PrecisionTimeMessages_pdelayResp :
    let s := chipOnly (running [.tim] (put [(.tim, 0x200, 5), (.tim, 0x22C, 3)] old))
    mainRuns s.chip = true ∧ ptpEn s.chip = true ∧ ptpTakes s.chip msg = true ∧ ptpTransparent s.chip = true ∧ isP2p s.chip = false := by
  decide +kernel

end Sys2Proof.Tests
end

section
/-!
The clock domains, the PLLs, the PCI Express link and the block watchdog (chapters 0, 1 and 20): what each event leaves in the page headers and
in the clock state, and the statement about them.
-/

namespace Sys2Proof.Proofs.Clocks

open Sys2Proof Sys2Proof.Machine Sys2Proof.Laws.PageEvents

/-! ### Runs of updates -/

/-- What one member of a run brings about and every member keeps holds after the run. -/
theorem each_establishes {α : Type} (P : Chip → Prop) (f : α → Chip → Chip) {l : List α} {x : α} (hx : x ∈ l)
    (hset : ∀ c, P (f x c)) (hkeep : ∀ y c, P c → P (f y c)) (c : Chip) : P (each l f c) := by
  obtain ⟨a, b, -, e⟩ := each_split f x l hx c
  rw [e]
  exact each_ind P f b (fun y _ => hkeep y) _ (hset _)

/-- CLOCK_OK of the pages of a list shows whether their clocks run. -/
def markClock (ok : Bool) (l : List Page) (c : Chip) : Chip := each l (fun p c => modHdr p (fun h => { h with clockOk := ok }) c) c

@[simp] theorem markClock_clk (ok : Bool) (l : List Page) (c : Chip) : (markClock ok l c).clk = c.clk :=
  each_keeps (·.clk) _ (fun _ _ => modHdr_clk ..) l c

@[simp] theorem markClock_regs (ok : Bool) (l : List Page) (c : Chip) : (markClock ok l c).regs = c.regs :=
  each_keeps (·.regs) _ (fun _ _ => modHdr_regs ..) l c

theorem markClock_mem {ok : Bool} {l : List Page} {p : Page} (hp : p ∈ l) (c : Chip) : (hdr (markClock ok l c) p).clockOk = ok := by
  refine each_establishes (fun c => (hdr c p).clockOk = ok) _ hp (fun c => by simp) (fun q c hc => ?_) c
  by_cases hq : p = q
  · subst hq; simp
  · simpa [hdr_modHdr_ne _ _ _ _ hq] using hc

theorem markClock_notMem {ok : Bool} {l : List Page} {p : Page} (hp : p ∉ l) (c : Chip) : hdr (markClock ok l c) p = hdr c p := by
  refine each_ind (fun x => hdr x p = hdr c p) _ l (fun q hq x hx => ?_) c rfl
  have hne : p ≠ q := fun e => hp (e ▸ hq)
  rw [hdr_modHdr_ne _ _ _ _ hne, hx]

@[simp] theorem markClock_evt (ok : Bool) (l : List Page) (c : Chip) (q : Page) : (hdr (markClock ok l c) q).evt = (hdr c q).evt := by
  refine each_keeps (fun c => (hdr c q).evt) _ (fun p c => ?_) l c
  by_cases hq : q = p
  · subst hq; simp
  · rw [hdr_modHdr_ne _ _ _ _ hq]

/-! ### Headers after a change of service and after the end of a condition -/

@[simp] theorem withService_clockOk (g : Chip → Chip) (c : Chip) (p : Page) : (hdr (withService g c) p).clockOk = (hdr (g c) p).clockOk := by
  rw [calm_hdr (calm_withService g c) p]

/-- The end of a condition takes its code from the conditions that stand, and changes nothing else of the header. -/
theorem hdr_endCond (p : Page) (code : Byte) (c : Chip) :
    hdr (endCond p code c) p = { hdr c p with conds := (hdr c p).conds.filter (· != code) } := by
  unfold endCond
  split
  · rw [hdr_modHdr]
  · rename_i hn
    have hf : (hdr c p).conds.filter (· != code) = (hdr c p).conds :=
      List.filter_eq_self.mpr fun a ha => by
        have : a ≠ code := fun e => hn (by simp [standing, ← e, ha])
        simpa using this
    rw [hf]

theorem hdr_endCond_ne (p q : Page) (code : Byte) (c : Chip) (hq : q ≠ p) : hdr (endCond p code c) q = hdr c q := by
  unfold endCond
  split
  · rw [hdr_modHdr_ne _ _ _ _ hq]
  · rfl

@[simp] theorem endCond_clockOk (p q : Page) (code : Byte) (c : Chip) : (hdr (endCond p code c) q).clockOk = (hdr c q).clockOk := by
  by_cases hq : q = p
  · subst hq; rw [hdr_endCond]
  · rw [hdr_endCond_ne _ _ _ _ hq]

theorem standing_endCond_same (p : Page) (code : Byte) (c : Chip) : standing (endCond p code c) p code = false := by
  simp [standing, hdr_endCond]

theorem standing_endCond (p q : Page) (code code' : Byte) (c : Chip) (h : standing c q code = false) :
    standing (endCond p code' c) q code = false := by
  by_cases hq : q = p
  · subst hq
    simp only [standing, hdr_endCond] at h ⊢
    simp only [List.contains_eq_mem, decide_eq_false_iff_not] at h ⊢
    exact fun hm => h (List.mem_of_mem_filter hm)
  · simpa [standing, hdr_endCond_ne _ _ _ _ hq] using h

/-! ### The loss of a clock (R16) -/

theorem clkIdx_lt (d : Clk) : clkIdx d < 14 := by
  cases d with
  | netRx p => simp only [clkIdx]; omega
  | _ => decide

theorem clkLost_set (c : Chip) (d : Clk) (w : BitVec 14) (h : c.clk.lost = w ||| (1#14 <<< clkIdx d)) : clkLost c d = true := by
  have := clkIdx_lt d
  simp [clkLost, h, this]

theorem clkLost_clear (c : Chip) (d : Clk) (w : BitVec 14) (h : c.clk.lost = w &&& ~~~(1#14 <<< clkIdx d)) : clkLost c d = false := by
  have := clkIdx_lt d
  simp [clkLost, h, this]

/-- A domain's clock stops. -/
def clockStops (d : Clk) (c : Chip) : Chip :=
  { c with clk := { c.clk with lost := c.clk.lost ||| (1#14 <<< clkIdx d), running := c.clk.running &&& ~~~(1#14 <<< clkIdx d) } }

/-- Its loss is detected: its bit of CLK_LOSS and the cause CLOCK_LOSS of the CLK page. -/
def lossNoted (d : Clk) (c : Chip) : Chip :=
  raise .clk 9 (wr .clk 0x044 (rd (clockStops d c) .clk 0x044 ||| (1#14 <<< clkIdx d).setWidth 32) (clockStops d c))

/-- The chip before the faults of a loss latch: the loss detected, and CLOCK_OK clear in the pages that the domain clocks. -/
def lossShown (d : Clk) (c : Chip) : Chip := withService (markClock false (clockedPages d)) (lossNoted d c)

@[simp] theorem lossShown_clk (d : Clk) (c : Chip) : (lossShown d c).clk = (clockStops d c).clk := by simp [lossShown, lossNoted]

theorem clockLossOf_running {d : Clk} {c : Chip} (h : clkLost c d = false) :
    clockLossOf d c = lossEffect d (each (ownPages d) (fun p c => latchCond p 0x02 c) (lossShown d c)) := by
  unfold clockLossOf
  rw [if_neg (by simp [h])]
  rfl

theorem lossShown_clkLoss (d : Clk) (c : Chip) : bit (rd (lossShown d c) .clk 0x044) (clkIdx d) = true := by
  have hd := clkIdx_lt d
  have hr : rd (lossShown d c) .clk 0x044 = rd (clockStops d c) .clk 0x044 ||| (1#14 <<< clkIdx d).setWidth 32 := by
    rw [lossShown, rd_regs (withService_regs _ _), rd_regs (markClock_regs _ _ _), lossNoted, rd_raise, rd_wr]
  rw [hr]
  simp [bit, hd, show clkIdx d < 32 by omega]

theorem lossShown_cause (d : Clk) (c : Chip) : bit (hdr (lossShown d c) .clk).evt 9 = true := by
  refine evt_withService_mono _ _ _ _ ?_
  rw [markClock_evt]
  exact evt_raise_self _ _ _ (by decide)

theorem lossShown_clocked (d : Clk) (c : Chip) {p : Page} (hp : p ∈ clockedPages d) : (hdr (lossShown d c) p).clockOk = false := by
  rw [lossShown, withService_clockOk, markClock_mem hp]

theorem lossShown_unclocked (d : Clk) (c : Chip) {p : Page} (hp : p ∉ clockedPages d) :
    (hdr (lossShown d c) p).clockOk = (hdr c p).clockOk := by
  rw [lossShown, withService_clockOk, markClock_notMem hp, lossNoted, hdr_raise_clockOk, hdr_wr]
  rfl

/-! ### Its return (R16, R36) -/

/-- A domain's clock runs again. -/
def clockRuns (d : Clk) (c : Chip) : Chip :=
  { c with clk := { c.clk with lost := c.clk.lost &&& ~~~(1#14 <<< clkIdx d), running := c.clk.running ||| (1#14 <<< clkIdx d) } }

/-- CLOCK_OK returns in the pages of the domain whose other clocks run. -/
def returnShown (d : Clk) (c : Chip) : Chip :=
  withService (markClock true ((clockedPages d ++ ownPages d).filter (otherClocksOk (clockRuns d c) d))) (clockRuns d c)

/-- The conditions of the loss end. -/
def returnEnds (d : Clk) (c : Chip) : Chip :=
  pllsBack (pllOf d &&& (returnShown d c).clk.unlocked)
    (each ((ownPages d).filter (otherClocksOk (clockRuns d c) d)) (fun p c => endCond p 0x02 c) (returnShown d c))

/-- The belay's own record of its clock aside, the conditions' end is all that a return does beyond CLOCK_OK. -/
theorem clockReturnOf_lost {d : Clk} {c : Chip} (h : clkLost c d = true) : ∃ b, clockReturnOf d c = { returnEnds d c with bly := b } := by
  unfold clockReturnOf
  rw [if_neg (by simp [h])]
  change ∃ b, (match d with
    | .belay => { returnEnds d c with bly := { (returnEnds d c).bly with clockLost := false } }
    | _ => returnEnds d c) = _
  generalize returnEnds d c = c'
  cases d <;> exact ⟨_, rfl⟩

@[simp] theorem pllsBack_lost (m : BitVec 6) (c : Chip) : (pllsBack m c).clk.lost = c.clk.lost := by
  unfold pllsBack; dsimp only; split <;> simp

@[simp] theorem pllsBack_clockOk (m : BitVec 6) (c : Chip) (p : Page) : (hdr (pllsBack m c) p).clockOk = (hdr c p).clockOk := by
  unfold pllsBack; dsimp only; split
  · rw [endCond_clockOk]; rfl
  · rfl

theorem standing_pllsBack (m : BitVec 6) (c : Chip) (p : Page) (code : Byte) (h : standing c p code = false) :
    standing (pllsBack m c) p code = false := by
  unfold pllsBack; dsimp only; split
  · exact standing_endCond _ _ _ _ _ h
  · exact h

/-- Whether a page's other clocks run rests on the lost domains alone. -/
theorem otherClocksOk_lost {c c' : Chip} (h : c'.clk.lost = c.clk.lost) (d : Clk) (p : Page) : otherClocksOk c' d p = otherClocksOk c d p := by
  unfold otherClocksOk clkLost
  rw [h]

theorem returnEnds_lost (d : Clk) (c : Chip) : (returnEnds d c).clk.lost = c.clk.lost &&& ~~~(1#14 <<< clkIdx d) := by
  rw [returnEnds, pllsBack_lost, each_keeps (·.clk) _ (fun _ _ => endCond_clk _ _ _), returnShown, withService_clk, markClock_clk]
  rfl

theorem returnEnds_clockOk (d : Clk) (c : Chip) {p : Page} (hp : p ∈ clockedPages d) (ho : otherClocksOk (clockRuns d c) d p = true) :
    (hdr (returnEnds d c) p).clockOk = true := by
  rw [returnEnds, pllsBack_clockOk, each_keeps (fun c => (hdr c p).clockOk) _ (fun _ _ => endCond_clockOk _ _ _ _), returnShown,
    withService_clockOk, markClock_mem (by simp [hp, ho])]

theorem returnEnds_standing (d : Clk) (c : Chip) {p : Page} (hp : p ∈ ownPages d) (ho : otherClocksOk (clockRuns d c) d p = true) :
    standing (returnEnds d c) p 0x02 = false :=
  standing_pllsBack _ _ _ _ (each_establishes (fun c => standing c p 0x02 = false) _ (List.mem_filter.mpr ⟨hp, ho⟩)
    (standing_endCond_same p 0x02) (fun q => standing_endCond q p 0x02 0x02) _)

/-! ### The loss of a PLL's lock (R97, R469) -/

@[simp] theorem timUnlock_clk (c : Chip) : (timUnlock c).clk = c.clk := by
  unfold timUnlock; dsimp only; split <;> simp

@[simp] theorem timUnlock_tim (c : Chip) : (timUnlock c).tim = { c.tim with pllLock := false, relocking := true } := by
  unfold timUnlock; dsimp only; split
  · rw [setState_tim]; rfl
  · rfl

@[simp] theorem timUnlock_fltCode (c : Chip) (p : Page) : (hdr (timUnlock c) p).fltCode = (hdr c p).fltCode := by
  unfold timUnlock; dsimp only; split <;> simp

/-- CLK_STA no longer shows the lock of a PLL. -/
def lockGone (x : Pll) (c : Chip) : Chip :=
  { c with clk := { c.clk with pll := c.clk.pll &&& ~~~(1#6 <<< pllIdx x), unlocked := c.clk.unlocked ||| (1#6 <<< pllIdx x) } }

/-- PLL C takes the lock of the time base with it. -/
def timeFollows (x : Pll) (c : Chip) : Chip := if x = .c then timUnlock c else c

/-- The cause of the CLK page is raised and the condition 0xCC stands. -/
def unlockNoted (x : Pll) (c : Chip) : Chip :=
  modHdr .clk (fun h => { h with conds := 0xCC :: h.conds.filter (· != 0xCC) }) (raise .clk 8 (timeFollows x (lockGone x c)))

theorem pllUnlockOf_locked {x : Pll} {c : Chip} (h : c.clk.unlocked &&& (1#6 <<< pllIdx x) = 0) :
    pllUnlockOf x c = latchFault .clk 0xCC (unlockNoted x c) := by
  unfold pllUnlockOf
  dsimp only
  rw [if_neg (not_not.mpr h)]
  cases x <;> rfl

@[simp] theorem unlockNoted_clk (x : Pll) (c : Chip) : (unlockNoted x c).clk = (lockGone x c).clk := by
  unfold unlockNoted timeFollows; split <;> simp

theorem unlockNoted_tim_c (c : Chip) : (unlockNoted .c c).tim.pllLock = false := by
  simp [unlockNoted, timeFollows]

theorem unlockNoted_tim_ne {x : Pll} (hx : x ≠ .c) (c : Chip) : (unlockNoted x c).tim = c.tim := by
  simp [unlockNoted, timeFollows, hx, lockGone]

theorem unlockNoted_fltCode (x : Pll) (c : Chip) : (hdr (unlockNoted x c) .clk).fltCode = (hdr c .clk).fltCode := by
  unfold unlockNoted timeFollows
  rw [hdr_modHdr]
  split <;> simp <;> rfl

theorem unlockNoted_cause (x : Pll) (c : Chip) : bit (hdr (unlockNoted x c) .clk).evt 8 = true := by
  unfold unlockNoted
  rw [hdr_modHdr]
  exact evt_raise_self _ _ _ (by decide)

/-! ### The PCI Express link (R45) and the block watchdog (R9) -/

/-- Bit 5 of DEV_SVC is the link: the service level takes the bits below 4, and the other flags have bits of their own. -/
theorem devSvc_bit5 (c : Chip) : bit (devSvc c) 5 = c.svcPcie := by
  unfold devSvc
  dsimp only
  generalize hl : (if (commandService c && (List.finRange 128).any (motionService c)) = true then 3 else if commandService c = true then 2 else 1) = level
  have hlevel : level ≤ 3 := by rw [← hl]; split_ifs <;> omega
  have hsafety : flag c.svcSafety 4 ≤ 16 := by unfold flag; split <;> omega
  have hycp : flag (ycpPath c) 6 % 64 = 0 := by unfold flag; split <;> rfl
  have hbit (n : Nat) : bit (BitVec.ofNat 32 n) 5 = decide (n / 2 ^ 5 % 2 = 1) := by
    rw [bit, BitVec.getLsbD_ofNat, Nat.testBit_eq_decide_div_mod_eq]; rfl
  rw [hbit]
  cases c.svcPcie
  · have : flag false 5 = 0 := rfl
    simp only [decide_eq_false_iff_not]; omega
  · have : flag true 5 = 32 := rfl
    simp only [decide_eq_true_eq]; omega

@[simp] theorem pcieLink_svcPcie (up : Bool) (c : Chip) : (pcieLink up c).svcPcie = up := by simp [pcieLink]

@[simp] theorem pcieLink_regs (up : Bool) (c : Chip) : (pcieLink up c).regs = c.regs := by simp [pcieLink]

/-- The watchdog of a page that works: the fault, what rests on the page, and the page's items. -/
theorem watchdogOn_working {s : State} {p : Page}
    (h : (hdr s.chip p).state = .ready ∨ (hdr s.chip p).state = .run ∨ (hdr s.chip p).state = .splicing) :
    watchdogOn p s = endItems p 0x05 (onChip (fun c => resourceLost 0x05 p (latchFault p 0x05 c)) s) := by
  unfold watchdogOn
  rcases h with h | h | h <;> simp [h]

/-! ### The statement -/

theorem clockLoss_shows_and_acts (s : State) (d : Clk) (h : clkLost s.chip d = false) :
    exec (.clockLoss d) s =
      .next (onChip (fun _ => lossEffect d (each (ownPages d) (fun p c => latchCond p 0x02 c) (lossShown d s.chip))) s) :=
  next_onChip (f := clockLossOf d) (clockLossOf_running h)

theorem pllUnlock_latches (s : State) (x : Pll) (h : s.chip.clk.unlocked &&& (1#6 <<< pllIdx x) = 0) :
    exec (.pllUnlock x) s = .next (onChip (fun c => latchFault .clk 0xCC (unlockNoted x c)) s) :=
  next_onChip (f := pllUnlockOf x) (pllUnlockOf_locked h)

/-- Settles O1: each clause is an event on the chip alone, whose parts are named above. -/
theorem clocksAndLinks : Obligations.ClocksAndLinks := by
  unfold Obligations.ClocksAndLinks
  refine ⟨?clockLoss, ?clockReturn, ?pllUnlock, ?linkUp, ?linkDown, ?watchdog⟩
  case clockLoss =>
    intro s d h
    have hclk := lossShown_clk d s.chip
    refine ⟨lossShown d s.chip, by rw [hclk]; rfl, by rw [hclk]; rfl, clkLost_set _ d s.chip.clk.lost (by rw [hclk]; rfl),
      lossShown_clkLoss d s.chip, lossShown_cause d s.chip, fun p => lossShown_clocked d s.chip, fun p => lossShown_unclocked d s.chip,
      clockLoss_shows_and_acts s d h⟩
  case clockReturn =>
    intro s d h
    obtain ⟨b, hb⟩ := clockReturnOf_lost h
    have hlost : (onChip (clockReturnOf d) s).chip.clk.lost = s.chip.clk.lost &&& ~~~(1#14 <<< clkIdx d) := by
      rw [onChip_chip, hb]; exact returnEnds_lost d s.chip
    have hother (p : Page) : otherClocksOk (onChip (clockReturnOf d) s).chip d p = otherClocksOk (clockRuns d s.chip) d p :=
      otherClocksOk_lost hlost d p
    refine ⟨onChip (clockReturnOf d) s, rfl, hlost, clkLost_clear _ d _ hlost, fun p hp ho => ?_, fun p hp ho => ?_, rfl⟩
    · rw [onChip_chip, hb]; exact returnEnds_clockOk d s.chip hp (hother p ▸ ho)
    · rw [onChip_chip, hb]; exact returnEnds_standing d s.chip hp (hother p ▸ ho)
  case pllUnlock =>
    intro s x h h0
    refine ⟨_, pllUnlock_latches s x h, ?_, ?_, ?_, ?_, ?_, rfl⟩
    · rw [onChip_chip, latchFault_clk, unlockNoted_clk]; rfl
    · exact (latchFault_first _ _ _ ((unlockNoted_fltCode x s.chip).trans h0)).1
    · exact evt_latchFault_mono _ _ _ _ _ (unlockNoted_cause x s.chip)
    · rintro rfl
      rw [onChip_chip, latchFault_tim]; exact unlockNoted_tim_c s.chip
    · intro hx
      rw [onChip_chip, latchFault_tim]; exact unlockNoted_tim_ne hx s.chip
  case linkUp =>
    intro s
    exact ⟨onChip (pcieLink true) s, rfl, by simp, by simp [devSvc_bit5], by simp, rfl⟩
  case linkDown =>
    intro s
    exact ⟨onChip (pcieLink false) s, rfl, by simp, by simp, rfl⟩
  case watchdog =>
    intro s p h
    exact congrArg Host.Outcome.next (watchdogOn_working h)

end Sys2Proof.Proofs.Clocks
end

section
/-!
Accesses of the register window (chapter 2): the forms of an access, what a write and a read of each kind of register come to, and the
statement about them.
-/

namespace Sys2Proof.Proofs.Window

open Sys2Proof Sys2Proof.Machine

/-! ### Forms of an access (R30) -/

theorem writeAccess_performed {off : Nat} {v : Word} {more : List Word} {full : Bool} (s : State)
    (h : bar0Ok off (more.length + 1) 64 full = true) :
    writeAccess .pcie off v more full s = regWrites .pcie (off + 4) more (regWrite .pcie off v s) := by
  simp [writeAccess, h, regWrites]

theorem writeAccess_dropped {off : Nat} {v : Word} {more : List Word} {full : Bool} {s : State}
    (h : bar0Ok off (more.length + 1) 64 full = false) (hu : fabricUp s.chip .pcie = true) :
    writeAccess .pcie off v more full s = onChip (emit (.aer .unsupported)) s := by
  simp [writeAccess, h, hu]

theorem readAccess_performed {off more : Nat} {full : Bool} (s : State) (h : bar0Ok off (more + 1) 128 full = true) :
    readAccess .pcie off more full s = regReads .pcie more (off + 4) (regRead .pcie off s) := by
  simp [readAccess, h, regReads]

theorem readAccess_unsupported {off more : Nat} {full : Bool} {s : State} (h : bar0Ok off (more + 1) 128 full = false)
    (hu : fabricUp s.chip .pcie = true) : readAccess .pcie off more full s = onChip (emit (.regRead .pcie off none)) s := by
  simp [readAccess, h, hu]

/-- One DW with every byte enabled is performed for every path. -/
theorem writeAccess_one (path : Path) (off : Nat) (v : Word) (s : State) : writeAccess path off v [] true s = regWrite path off v s := by
  by_cases hp : path = .pcie
  · subst hp; exact writeAccess_performed s rfl
  · exact if_pos hp

theorem readAccess_one (path : Path) (off : Nat) (s : State) : readAccess path off 0 true s = regRead path off s := by
  by_cases hp : path = .pcie
  · subst hp; exact readAccess_performed s rfl
  · exact if_pos hp

theorem exec_registerWrite_one (path : Path) (off : BitVec 24) (v : Word) (s : State) :
    exec (.registerWrite path off v [] true) s = .next (regWrite path off.toNat v s) :=
  congrArg Host.Outcome.next (writeAccess_one path off.toNat v s)

/-- The same for an offset within a page. -/
theorem exec_registerWrite_page {path : Path} {off : BitVec 24} {p : Page} {o : Nat} (v : Word) (s : State) (ho : off.toNat = pageBase p + o) :
    exec (.registerWrite path off v [] true) s = .next (regPage path p o v s) := by
  rw [exec_registerWrite_one, ho]; rfl

theorem exec_pairLoRead_one (path : Path) (off : BitVec 24) (s : State) :
    exec (.pairLoRead path off 0 true) s = .next (regRead path off.toNat s) :=
  congrArg Host.Outcome.next (readAccess_one path off.toNat s)

/-! ### Writes of the window -/

/-- A write that the fabric carries to a page ends as the page's own write does. -/
theorem regPage_eq {s : State} {path : Path} {p : Page} {o : Nat} (v : Word) (hu : fabricUp s.chip path = true) (ho : o < 0x1000)
    (ha : o % 4 = 0) :
    regPage path p o v s =
      onChip (emit (.regWrite path (pageBase p + o) ((pageWrite path p o v s).2 != .unassigned))) (pageWrite path p o v s).1 := by
  have h4 : (pageBase p + o) % 4 = 0 := by have := pageBase_mod p; omega
  simp [regPage, regWrite, hu, writeWindow, h4, targetOf_page p o ho]

/-- The staging latch of the path takes a _LO half, whoever owns the page (R3). -/
theorem regPage_staging {s : State} {path : Path} {p : Page} {o : Nat} (v : Word) (hu : fabricUp s.chip path = true) (ha : o % 4 = 0)
    (hs : isStaging p o = true) :
    regPage path p o v s = onChip (fun c => ended path p o (setPath path { pathSt c path with stage := v } c)) s := by
  have ho : o < 0x800 := by
    simp only [isStaging, Bool.and_eq_true, decide_eq_true_eq] at hs
    obtain ⟨⟨-, ho⟩, -⟩ := hs
    exact ho
  rw [regPage_eq v hu (by omega) ha, pageWrite, if_pos hs]
  rfl

/-- A path that does not own an owned page raises OWNER_DENIED and nothing else (R41). -/
theorem regPage_denied {s : State} {path : Path} {p : Page} {o : Nat} (v : Word) (hu : fabricUp s.chip path = true) (ho : o < 0x1000)
    (ha : o % 4 = 0) (h0 : (hdr s.chip p).owner ≠ 0) (hne : (hdr s.chip p).owner ≠ pathCode path) (hs : isStaging p o = false) :
    regPage path p o v s = onChip (fun c => ended path p o (raise p 2 c)) s := by
  rw [regPage_eq v hu ho ha, pageWrite, if_neg (by simp [hs]), if_pos ⟨h0, hne⟩]
  rfl

theorem regWrite_nothing {s : State} {path : Path} {off : Nat} (v : Word) (hu : fabricUp s.chip path = true) (ha : off % 4 = 0)
    (ht : targetOf off = .nothing) : regWrite path off v s = onChip (emit (.regWrite path off false)) s := by
  simp [regWrite, hu, writeWindow, ha, ht]

theorem targetOf_deck {off : Nat} (h1 : 0x800000 ≤ off) (h2 : off < 0xB00000) : targetOf off = .mem .deck (off - 0x800000) := by
  unfold targetOf
  rw [if_neg (by omega), if_neg (by omega), if_neg (by omega), if_pos ⟨h1, h2⟩]

theorem regWrite_deck {s : State} {path : Path} {off : Nat} (v : Word) (hu : fabricUp s.chip path = true) (ha : off % 4 = 0)
    (h1 : 0x800000 ≤ off) (h2 : off < 0xB00000) :
    regWrite path off v s = onChip (emit (.regWrite path off true)) (writeMem32 .deck (off - 0x800000) v s) := by
  simp [regWrite, hu, writeWindow, ha, targetOf_deck h1 h2, windowStore]
  rfl

/-! ### Registers without a rule of their own -/

theorem plainWrites_cases {p : Page} (hp : plainWrites p = true) :
    p = .dev ∨ p = .evt ∨ p = .swt ∨ p = .hit ∨ p = .scb ∨ (∃ g, p = .grp g) ∨ (∃ e, p = .lpe e) ∨ (∃ k, p = .sdf k) ∨ ∃ n, p = .fbk n := by
  cases p <;> simp_all [plainWrites]

/-- On the plain pages a shadowed register takes its shadow (R38), and any other the value. -/
theorem blockWrite_plain {p : Page} (path : Path) (o : Nat) (r : Reg) (v : Word) (s : State) (hp : plainWrites p = true) :
    blockWrite path p o r v s = if r.acc = .rws then took (shadowWrite p o v) s else took (wr p o v) s := by
  rcases plainWrites_cases hp with rfl | rfl | rfl | rfl | rfl | ⟨_, rfl⟩ | ⟨_, rfl⟩ | ⟨_, rfl⟩ | ⟨_, rfl⟩ <;> rfl

/-- A shadowed pair of a plain page takes both halves as one shadow (R3, R38). -/
theorem blockPair_shadowed {p : Page} {r : Reg} (o : Nat) (v : DWord) (s : State) (hp : plainWrites p = true) (ha : r.acc = .rws) :
    blockPair p o r v s = took (shadowPair p o v) s := by
  rcases plainWrites_cases hp with rfl | rfl | rfl | rfl | rfl | ⟨_, rfl⟩ | ⟨_, rfl⟩ | ⟨_, rfl⟩ | ⟨_, rfl⟩ <;> exact if_pos ha

/-- The rule of CMP_STEP concerns axes alone (R178). -/
theorem zeroStep_plain {p : Page} (c : Chip) (o : Nat) (v : DWord) (hp : plainWrites p = true) : zeroStep c p o v = false := by
  rcases plainWrites_cases hp with rfl | rfl | rfl | rfl | rfl | ⟨_, rfl⟩ | ⟨_, rfl⟩ | ⟨_, rfl⟩ | ⟨_, rfl⟩ <;> rfl

/-- The write of a 32-bit register whose value passes the checks of R40 and whose chapter takes it: the chip that the chapter leaves, counted. -/
theorem regPage_took {s : State} {path : Path} {p : Page} {o : Nat} {v : Word} {r : Reg} {hi : Bool} {f : Chip → Chip}
    (h : CanWrite s path p) (h1 : o < 0x800) (h2 : o % 4 = 0) (h3 : 0x040 ≤ o) (hr : findRow (pageRows p) o = some (r, hi)) (hp : r.pair = false)
    (ha : r.acc ≠ .ro) (hl : r.acc ≠ .rwl) (hc : cleanReg s.chip path p o r v = (v, false)) (hm : v &&& r.mask = v)
    (hb : blockWrite path p o r v s = took f s) : regPage path p o v s = onChip (fun c => taken path p o (f c)) s :=
  regPage_taken s (onChip f s) path p o v r hi h h1 h2 h3 hr hp ha (.inl hl) hc hm hb

/-- The write of a _HI half whose pair passes the checks of R40: latch and half are committed as one value. -/
theorem regPage_pair {s s1 : State} {path : Path} {p : Page} {o : Nat} {v : Word} {r : Reg} (h : CanWrite s path p) (h1 : o < 0x800)
    (h2 : o % 4 = 0) (h3 : 0x044 ≤ o) (hr : findRow (pageRows p) o = some (r, true)) (hp : r.pair = true) (ha : r.acc = .rws)
    (hlo : cleanWord r.mask (rd s.chip p (o - 4)) (pathSt s.chip path).stage [] = ((pathSt s.chip path).stage, false))
    (hhi : cleanWord r.hiMask (rd s.chip p o) v r.legal = (v, false))
    (hz : zeroStep s.chip p (o - 4) (joinHalves v (pathSt s.chip path).stage) = false)
    (hb : blockPair p (o - 4) r (joinHalves v (pathSt s.chip path).stage) s = (s1, true)) :
    regPage path p o v s = onChip (taken path p o) s1 := by
  have hs : isStaging p o = false := by simp [isStaging, hr]
  have ho : o - 4 + 4 = o := by omega
  rw [regPage_store s path p o v h (by omega) h2 (by omega) hs]
  obtain ⟨-, -, hreset⟩ := h
  simp [blockStore, hreset, h1, hr, ha, hp, hlo, hhi, ho, hz, hb, raiseIf]
  rfl

/-! ### Reads of pairs -/

/-- LATF_POP, whose read pops an entry (R174), is no pair. -/
theorem latfPop_row (r : Reg) (hi : Bool) (n : Fin 160) {o : Nat} (ho : o = 0x118 ∨ o = 0x158)
    (hr : findRow (pageRows (.axm n)) o = some (r, hi)) : r.pair = false := by
  have hrow : ∀ o ∈ [0x118, 0x158], (findRow (pageRows (.axm n)) o).map (·.1.pair) = some false := by
    change ∀ o ∈ [0x118, 0x158], (findRow rowsAxm o).map (·.1.pair) = some false
    decide +kernel
  have := hrow o (by simpa using ho)
  simpa [hr] using this

/-- The read of a pair's _LO half returns it and leaves the _HI half as the path's snapshot (R3). -/
theorem blockRead_lo {path : Path} {p : Page} {o : Nat} {r : Reg} (c : Chip) (hp : plainReads p = true)
    (hr : findRow (pageRows p) o = some (r, false)) (hpair : r.pair = true) (ha : r.acc ≠ .wo) :
    blockRead path p o false r c = (takeSnap path (blockWord c path p (o + 4)) c, blockWord c path p o) := by
  unfold blockRead
  split
  case h_6 n => exact absurd hpair (by simp [latfPop_row r false n (.inl rfl) hr])
  case h_7 n => exact absurd hpair (by simp [latfPop_row r false n (.inr rfl) hr])
  case h_11 =>
    have ht : (p == .tim) = false := beq_eq_false_iff_ne.mpr (by rintro rfl; cases hp)
    simp [ht, ha, hpair]
  all_goals cases hp

/-- PAIR_LO_READ of a pair of a plain page. -/
theorem regRead_lo {s : State} {path : Path} {p : Page} {o : Nat} {r : Reg} (hu : fabricUp s.chip path = true) (h1 : 0x040 ≤ o) (h2 : o < 0x800)
    (ha : o % 4 = 0) (hp : plainReads p = true) (hr : findRow (pageRows p) o = some (r, false)) (hpair : r.pair = true) (hw : r.acc ≠ .wo) :
    regRead path (pageBase p + o) s = onChip (fun c => answered path p o (blockWord c path p o)
      (setPath path { pathSt c path with snap := blockWord c path p (o + 4) } c)) s := by
  have hread : pageRead path p o s.chip = (takeSnap path (blockWord s.chip path p (o + 4)) s.chip, blockWord s.chip path p o) := by
    unfold pageRead
    rw [if_neg (by omega), if_neg (by omega), hr]
    exact blockRead_lo s.chip hp hr hpair hw
  rw [regRead_page s path p o hu (by omega) ha, hread]
  rfl

/-! ### The statement -/

/-- Settles O7: each clause is one of the rules above, at the offset of its command. -/
theorem registerWindowAccess : Obligations.RegisterWindowAccess := by
  unfold Obligations.RegisterWindowAccess
  refine ⟨?shadowed, ?stored, ?denied, ?unassigned, ?deck, ?pairLoRead, ?pairLoWrite, ?pairHiWrite, ?otherPaths, ?writes, ?reads⟩
  case shadowed =>
    intro s path p off o v r hi h ho hplain h2 h3 h1 hr hp ha hm hc
    rw [exec_registerWrite_page v s ho,
      regPage_took h h1 h2 h3 hr hp (by simp [ha]) (by simp [ha]) hc hm ((blockWrite_plain path o r v s hplain).trans (if_pos ha))]
    rfl
  case stored =>
    intro s path p off o v r hi h ho hplain h2 h3 h1 hr hp ha hm hc
    rw [exec_registerWrite_page v s ho,
      regPage_took h h1 h2 h3 hr hp (by simp [ha]) (by simp [ha]) hc hm ((blockWrite_plain path o r v s hplain).trans (if_neg (by simp [ha])))]
  case denied =>
    intro s path p off o v hu ho h2 h1 h0 hne hs
    rw [exec_registerWrite_page v s ho, regPage_denied v hu h1 h2 h0 hne hs]
  case unassigned =>
    intro s path off v hu ha ht
    rw [exec_registerWrite_one, regWrite_nothing v hu ha ht]
  case deck =>
    intro s path off v hu ha h1 h2
    rw [exec_registerWrite_one, regWrite_deck v hu ha h1 h2]
  case pairLoRead =>
    intro s path p off o r hu ho ha h1 h2 hplain hr hp hw
    rw [exec_pairLoRead_one, ho, regRead_lo hu h1 h2 ha hplain hr hp hw]
  case pairLoWrite =>
    intro s path p off o v hu ho ha hs
    change Host.Outcome.next (regWrite path off.toNat v s) = _
    rw [ho]
    exact congrArg Host.Outcome.next (regPage_staging v hu ha hs)
  case pairHiWrite =>
    intro s path p off o v r h ho h2 h3 h1 hplain _ hr hp ha hlo hhi
    change Host.Outcome.next (regWrite path off.toNat v s) = _
    rw [ho]
    exact congrArg Host.Outcome.next (regPage_pair h h1 h2 h3 hr hp ha hlo hhi (zeroStep_plain _ _ _ hplain)
      (blockPair_shadowed _ _ s hplain ha))
  case otherPaths =>
    intro s path off hpath
    refine ⟨fun v more full => ?_, fun more full => ?_⟩
    · rw [exec_registerWrite_one]
      exact congrArg Host.Outcome.next (if_pos hpath)
    · rw [exec_pairLoRead_one]
      exact congrArg Host.Outcome.next (if_pos hpath)
  case writes =>
    intro s off v more full
    exact ⟨fun h => congrArg Host.Outcome.next (writeAccess_performed s h),
      fun h hu => congrArg Host.Outcome.next (writeAccess_dropped h hu)⟩
  case reads =>
    intro s off more full
    exact ⟨fun h => congrArg Host.Outcome.next (readAccess_performed s h),
      fun h hu => congrArg Host.Outcome.next (readAccess_unsupported h hu)⟩

end Sys2Proof.Proofs.Window
end

section
/-!
The frame knot and the current sample (chapter 1): what a knot and a sample that are due leave in the time base, and the statement about them.
-/

namespace Sys2Proof.Proofs.Frame

open Sys2Proof Sys2Proof.Machine Sys2Proof.Laws.CalOps

@[simp] theorem modTim_tim (c : Chip) (f : TimSt → TimSt) : (modTim f c).tim = f c.tim := rfl

/-! ### The frame knot (R17) -/

@[simp] theorem knotAdvance_sampleIdx (k : Nat) (c : Chip) : (knotAdvance k c).tim.sampleIdx = 0 := rfl

@[simp] theorem knotAdvance_planning (k : Nat) (c : Chip) : (knotAdvance k c).tim.planning = true := rfl

@[simp] theorem knotAdvance_lastKnot (k : Nat) (c : Chip) : (knotAdvance k c).tim.lastKnot = c.clk.now := rfl

@[simp] theorem knotAdvance_frameNo (k : Nat) (c : Chip) : (knotAdvance k c).tim.frameNo = c.tim.frameNo + 1 := rfl

/-- The device time of a knot that is due: its place on the grid, or the time counter's while the TIME clock is lost (R12). -/
def knotTime (c : Chip) : Nat := if clkLost c .time then timeNs c else c.tim.nextKnot

/-- The rest of a knot runs on the new frame, with the length, the knot before and the time that the chip had when the knot came. -/
theorem frameKnot_due {s : State} (late : List (Fin 160)) (pwmTicks : Nat) (hr : mainRuns s.chip = true) (hd : knotDue s.chip = true) :
    let u := heldCommit (planNow s)
    frameKnot late pwmTicks s = knotRest u.chip.tim.lenNs (knotNs u.chip).toNat (knotTime u.chip)
      { u with chip := knotZero (knotAdvance pwmTicks (knotBegin late u.chip)) } :=
  if_neg (by simp [hr, hd])

/-- A calibration that waits sees the effect of the knot alone (R394). -/
theorem exec_frameKnot {late : List (Fin 160)} {pwmTicks : Nat} {s t : State} (h : frameKnot late pwmTicks s = t) :
    exec (.frameKnot late pwmTicks) s = .next (withCal (fun _ => t) s) :=
  congrArg Host.Outcome.next (withCal_congr (frameKnot late pwmTicks) (fun _ => t) s h)

/-! ### The current sample (R18) -/

/-- The time base once a sample has been taken: the next sample of the frame, and one more in the running count. -/
def countSample (t : TimSt) : TimSt := { t with sampleIdx := t.sampleIdx + 1, sampleNo := t.sampleNo + 1 }

/-- The state in which the stages of a sample begin: after sample 0 nothing of the knot waits any more (R22, R25). -/
def sampleStart (i : Nat) (s : State) : State := if i = 0 then s else heldCommit (planNow s)

/-- A sample that is due runs its stages and is counted. -/
theorem currentSample_due {i : Nat} {s : State} (bits : List (Fin 384 × List Bool)) (ph : List (Fin 128 × Int)) (ov : List (Fin 4))
    (hr : mainRuns s.chip = true) (hd : sampleDue i s.chip = true) :
    currentSample i bits ph ov s =
      onChip (modTim countSample) (sampleRest i (onChip (sampleBegin i bits ph ov) (sampleStart i s))) :=
  if_neg (by simp [hr, hd])

/-! ### The statement -/

/-- Settles O2: the knot is `knotAdvance` under the rest of the knot, and the sample is its stages under the count of samples. -/
theorem frameKnotAndCurrentSample : Obligations.FrameKnotAndCurrentSample := by
  unfold Obligations.FrameKnotAndCurrentSample
  refine ⟨?knot, ?sample⟩
  case knot =>
    intro s u late pwmTicks hr hd hu
    subst hu
    exact ⟨_, rfl, knotAdvance_sampleIdx .., knotAdvance_planning .., knotAdvance_lastKnot .., knotAdvance_frameNo ..,
      exec_frameKnot (frameKnot_due late pwmTicks hr hd)⟩
  case sample =>
    intro s i bits ph ov hr hd
    exact ⟨_, _, rfl, congrArg Host.Outcome.next (currentSample_due bits ph ov hr hd),
      modTim_tim _ countSample, modTim_axes .., modTim_regs .., onChip_mem ..⟩

end Sys2Proof.Proofs.Frame
end

section
/-!
Writes of the common page header (chapter 2): a write by a path that may write the page ends as the write of the header register does, and
which write that is for each of the commands.
-/

namespace Sys2Proof.Proofs.HeaderWrites

open Sys2Proof Sys2Proof.Machine Sys2Proof.Laws.PageHeads

/-! ### What counting a write and ending it leave -/

theorem onChip_onChip (f g : Chip → Chip) (s : State) : onChip f (onChip g s) = onChip (fun c => f (g c)) s := rfl

@[simp] theorem ended_hdr (path : Path) (p : Page) (off : Nat) (c : Chip) (q : Page) : hdr (ended path p off c) q = hdr c q := rfl

@[simp] theorem ended_rd (path : Path) (p : Page) (off : Nat) (c : Chip) (q : Page) (o : Nat) : rd (ended path p off c) q o = rd c q o := rfl

@[simp] theorem ended_regs (path : Path) (p : Page) (off : Nat) (c : Chip) : (ended path p off c).regs = c.regs := rfl

@[simp] theorem ended_evt (path : Path) (p : Page) (off : Nat) (c : Chip) : (ended path p off c).evt = c.evt := rfl

@[simp] theorem ended_spl (path : Path) (p : Page) (off : Nat) (c : Chip) : (ended path p off c).spl = c.spl := rfl

@[simp] theorem hdr_countWrite (p : Page) (c : Chip) : hdr (countWrite p c) p = { hdr c p with gen := (hdr c p).gen + 1 } :=
  hdr_modHdr c p _

theorem hdr_countWrite_ne {p q : Page} (c : Chip) (hq : q ≠ p) : hdr (countWrite p c) q = hdr c q := hdr_modHdr_ne _ _ _ _ hq

@[simp] theorem countWrite_regs (p : Page) (c : Chip) : (countWrite p c).regs = c.regs := rfl

@[simp] theorem countWrite_spl (p : Page) (c : Chip) : (countWrite p c).spl = c.spl := rfl

/-- A path may still write a page after a change that keeps power, clocks, and the page's owner and reset. -/
theorem canWrite_keeps {s t : State} {path : Path} {p : Page} (h : CanWrite s path p) (hpwr : t.chip.pwr = s.chip.pwr)
    (hclk : t.chip.clk = s.chip.clk) (ho : (hdr t.chip p).owner = (hdr s.chip p).owner)
    (hr : (hdr t.chip p).resetSince = (hdr s.chip p).resetSince) : CanWrite t path p := by
  have hf : fabricUp t.chip path = fabricUp s.chip path := by simp [fabricUp, clkLost, hpwr, hclk]
  unfold CanWrite
  rw [hf, ho, hr]
  exact h

/-- A change of state touches its page's header in the state alone, PG_EVT aside, where SERVICE_CHANGE may be raised (R45). -/
theorem hdr_setState (p : Page) (st : PgState) (c : Chip) :
    hdr (setState p st c) p = { hdr c p with state := st, evt := (hdr (setState p st c) p).evt } := by
  unfold setState
  split
  next h => rw [← h]
  next =>
    conv_lhs => rw [calm_hdr (calm_withService _ _) p]
    simp

/-! ### PG_CTL (R33, R34, R35, R484) -/

/-- A value within the defined bits raises nothing (R40). -/
theorem raiseIf_defined {mask v : Word} (p : Page) (s : State) (hv : v &&& ~~~mask = 0) :
    onChip (raiseIf ((v &&& ~~~mask) != 0) p 1) s = s := by
  simp [hv, raiseIf, onChip]

/-- A write of PG_CTL without reserved bits. -/
theorem regPage_ctl {s : State} {path : Path} {p : Page} {v : Word} (h : CanWrite s path p) (hv : v &&& ~~~0x115 = 0) :
    regPage path p 0x008 v s = onChip (ended path p 0x008) (ctlWrite p v s) := by
  rw [regPage_header s path p 0x008 v h (by decide) (by decide)]
  exact congrArg (onChip _) (raiseIf_defined p (ctlWrite p v s) hv)

/-- The value of PG_CTL that keeps EN as it stands and sets further bits. -/
def enWith (en : Bool) (bits : Nat) : Word := w32 (flag en 0 + bits)

theorem ctlWrite_enable {p : Page} {s : State} (h : (hdr s.chip p).en = false) :
    ctlWrite p 1 s = onChip (fun c => pageOn p (countWrite p c)) s := by
  simp [ctlWrite, bit, h, onChip]

theorem ctlWrite_disable {p : Page} {s : State} (h : (hdr s.chip p).en = true) :
    ctlWrite p 0 s = pageOff p (onChip (countWrite p) s) := by
  simp [ctlWrite, bit, h, onChip]

theorem ctlWrite_reset {p : Page} {s : State} (h : s.chip.pwr.state ≠ .save) : ctlWrite p 4 s = pageReset p s := by
  simp [ctlWrite, bit, h]

theorem ctlWrite_seal (p : Page) (s : State) :
    ctlWrite p (enWith (hdr s.chip p).en 0x100) s = onChip (fun c => pageSeal p (countWrite p c)) s := by
  cases h : (hdr s.chip p).en <;> simp [ctlWrite, enWith, w32, flag, bit, h, onChip]

theorem ctlWrite_splice (p : Page) (s : State) :
    ctlWrite p (enWith (hdr s.chip p).en 0x010) s = spliceAsk p (onChip (countWrite p) s) := by
  cases h : (hdr s.chip p).en <;> simp [ctlWrite, enWith, w32, flag, bit, h, onChip]

theorem enWith_defined (en : Bool) : enWith en 0x100 &&& ~~~0x115 = 0 ∧ enWith en 0x010 &&& ~~~0x115 = 0 := by
  cases en <;> decide

/-! ### The commands -/

theorem exec_pageEnable {s : State} {path : Path} {p : Page} (h : CanWrite s path p) (he : (hdr s.chip p).en = false) :
    exec (.pageEnable path p) s = .next (onChip (fun c => ended path p 0x008 (pageOn p (countWrite p c))) s) := by
  change Host.Outcome.next (regPage path p 0x008 1 s) = _
  rw [regPage_ctl h (by decide), ctlWrite_enable he, onChip_onChip]

theorem exec_pageDisable {s : State} {path : Path} {p : Page} (h : CanWrite s path p) (he : (hdr s.chip p).en = true) :
    exec (.pageDisable path p) s = .next (onChip (ended path p 0x008) (pageOff p (onChip (countWrite p) s))) := by
  change Host.Outcome.next (regPage path p 0x008 0 s) = _
  rw [regPage_ctl h (by decide), ctlWrite_disable he]

theorem exec_pgReset {s : State} {path : Path} {p : Page} (h : CanWrite s path p) (hs : s.chip.pwr.state ≠ .save) :
    exec (.pgReset path p) s = .next (onChip (ended path p 0x008) (pageReset p s)) := by
  change Host.Outcome.next (regPage path p 0x008 4 s) = _
  rw [regPage_ctl h (by decide), ctlWrite_reset hs]

theorem exec_sealPage {s : State} {path : Path} {p : Page} (h : CanWrite s path p) :
    exec (.sealPage path p) s = .next (onChip (fun c => ended path p 0x008 (pageSeal p (countWrite p c))) s) := by
  change Host.Outcome.next (regPage path p 0x008 (enWith (hdr s.chip p).en 0x100) s) = _
  rw [regPage_ctl h (enWith_defined _).1, ctlWrite_seal, onChip_onChip]

theorem exec_spliceReq {s : State} {path : Path} {p : Page} (h : CanWrite s path p) :
    exec (.spliceReq path p) s = .next (onChip (ended path p 0x008) (spliceAsk p (onChip (countWrite p) s))) := by
  change Host.Outcome.next (regPage path p 0x008 (enWith (hdr s.chip p).en 0x010) s) = _
  rw [regPage_ctl h (enWith_defined _).2, ctlWrite_splice]

theorem exec_pgEvtWrite {s : State} {path : Path} {p : Page} (v : Word) (h : CanWrite s path p) :
    exec (.pgEvtWrite path p v) s = .next (onChip (fun c => ended path p 0x010 (evtClear p v c)) s) := by
  change Host.Outcome.next (regPage path p 0x010 v s) = _
  rw [regPage_header s path p 0x010 v h (by decide) (by decide)]
  rfl

theorem exec_pgEvenWrite {s : State} {path : Path} {p : Page} (v : Word) (h : CanWrite s path p) :
    exec (.pgEvenWrite path p v) s = .next (onChip (fun c => ended path p 0x014 (evenWrite p v c)) s) := by
  change Host.Outcome.next (regPage path p 0x014 v s) = _
  rw [regPage_header s path p 0x014 v h (by decide) (by decide)]
  rfl

theorem exec_pgEvsetWrite {s : State} {path : Path} {p : Page} (v : Word) (h : CanWrite s path p) :
    exec (.pgEvsetWrite path p v) s = .next (onChip (fun c => ended path p 0x018 (evSet p v c)) s) := by
  change Host.Outcome.next (regPage path p 0x018 v s) = _
  rw [regPage_header s path p 0x018 v h (by decide) (by decide)]
  rfl

theorem exec_pgFltClear {s : State} {path : Path} {p : Page} (h : CanWrite s path p) :
    exec (.pgFltClear path p) s = .next (onChip (fun c => ended path p 0x020 (fltClear p c).1) s) := by
  change Host.Outcome.next (regPage path p 0x020 1 s) = _
  rw [regPage_header s path p 0x020 1 h (by decide) (by decide)]
  rfl

theorem exec_pgApply {s : State} {path : Path} {p : Page} (h : CanWrite s path p) :
    exec (.pgApply path p) s = .next (onChip (fun c => ended path p 0x028 (applyAsk p 1 c)) s) := by
  change Host.Outcome.next (regPage path p 0x028 1 s) = _
  rw [regPage_header s path p 0x028 1 h (by decide) (by decide)]
  rfl

theorem exec_pgOwnerWrite {s : State} {path : Path} {p : Page} {v : Word} (h : CanWrite s path p) (hv : v &&& ~~~0xF = 0) :
    exec (.pgOwnerWrite path p v) s = .next (onChip (fun c => ended path p 0x02C (ownerWrite p v c)) s) := by
  change Host.Outcome.next (regPage path p 0x02C v s) = _
  rw [regPage_header s path p 0x02C v h (by decide) (by decide)]
  exact congrArg (fun t => Host.Outcome.next (onChip _ t)) (raiseIf_defined p (onChip (ownerWrite p v) s) hv)

end Sys2Proof.Proofs.HeaderWrites
end

section
/-!
The page state machine (R33, R34, Table 2-11): what disabling and resetting a page leave in its header, and the statement about enable, disable
and reset.
-/

namespace Sys2Proof.Proofs.PageControl

open Sys2Proof Sys2Proof.Machine Sys2Proof.Laws.PageHeads Sys2Proof.Proofs.HeaderWrites

/-! ### EN (Table 2-11) -/

/-- A page that is disabled is OFF, or stays in SAFE while its demand lasts. -/
theorem hdr_pageOff {p : Page} {s : State} (h : (hdr s.chip p).en = true) :
    (hdr (pageOff p s).chip p).en = false ∧ ((hdr (pageOff p s).chip p).state = .off ∨ (hdr (pageOff p s).chip p).state = .safe) := by
  unfold pageOff
  rw [h]
  simp only [Bool.not_true, Bool.false_eq_true, if_false, onChip_chip]
  split
  next hsafe => exact ⟨by simp, .inr hsafe⟩
  next => exact ⟨by simp, .inl (by simp)⟩

/-! ### PGRESET (R34) -/

/-- The header that a page reset leaves, from the one that its chapter's reset left (R34). -/
def resetHdr (h : PageHdr) (now : Nat) : PageHdr :=
  { state := .off
    owner := h.owner
    gen := h.gen + 1
    applyCount := h.applyCount
    clockOk := h.clockOk
    halted := h.halted
    stoDemand := h.stoDemand
    sagDemand := h.sagDemand
    conds := h.conds.filter outerCond
    resetSince := some now }

/-- A page reset leaves that header, PG_EVT aside, which SERVICE_CHANGE and a full completion ring may raise again. -/
theorem hdr_pageReset {p : Page} {s : State} (h : s.chip.pwr.state ≠ .save) :
    ∃ h0 now e, hdr (pageReset p s).chip p = { resetHdr h0 now with evt := e } := by
  unfold pageReset
  rw [if_neg h]
  generalize endItems p 0 _ = s1
  dsimp only [onChip]
  generalize withService _ _ = c1
  refine ⟨hdr c1 p, s1.chip.clk.now, ?_⟩
  split
  · obtain ⟨e, he⟩ := hdr_updateFull (setState .cmd .off
      (setHdr .cmd { resetHdr (hdr c1 .cmd) s1.chip.clk.now with state := (hdr c1 .cmd).state } c1)) .cmd
    rw [hdr_setState, hdr_setHdr] at he
    exact ⟨e, he⟩
  · exact ⟨_, by rw [hdr_setState, hdr_setHdr]; rfl⟩

/-! ### The statement -/

/-- Settles O3: each clause is read from the header that the write leaves. -/
theorem pageEnableDisableReset : Obligations.PageEnableDisableReset := by
  unfold Obligations.PageEnableDisableReset
  refine ⟨?enable, ?disable, ?reset, ?complete⟩
  case enable =>
    intro s path p h he hs hheld hconds hdemand
    obtain ⟨hen, hup, hgen⟩ := pageOn_hdr (countWrite p s.chip) p (by simpa) (by simpa) ((countWrite_held ..).trans hheld) (by simpa)
      (by rw [hdr_countWrite]; exact hdemand)
    refine ⟨_, exec_pageEnable h he, ?_⟩
    simp only [onChip_chip, ended_hdr]
    exact ⟨hen, hup, hgen.trans (by rw [hdr_countWrite]), rfl⟩
  case disable =>
    intro s path p h he
    obtain ⟨hen, hdown⟩ := hdr_pageOff (p := p) (s := onChip (countWrite p) s) (by simpa)
    refine ⟨_, exec_pageDisable h he, ?_⟩
    simp only [onChip_chip, ended_hdr]
    exact ⟨hen, hdown⟩
  case reset =>
    intro s path p h hs
    obtain ⟨h0, now, e, hhdr⟩ := hdr_pageReset (p := p) hs
    refine ⟨_, exec_pgReset h hs, ?_⟩
    rw [onChip_chip, ended_hdr, hhdr]
    exact ⟨rfl, rfl, rfl, rfl, rfl, rfl, rfl, rfl, rfl⟩
  case complete =>
    intro s p b hm hb
    exact run_live_as hm (by simp [pageResetEnd, hb])

end Sys2Proof.Proofs.PageControl
end

section
/-!
Events and the fault clear (R36, R37, R44): what runs of causes and of vectors leave, what PG_FLT does with a latched code, and the statement
about PG_EVT, PG_EVEN, PG_EVSET and PG_FLT.
-/

namespace Sys2Proof.Proofs.EventWrites

open Sys2Proof Sys2Proof.Machine Sys2Proof.Laws.PageEvents Sys2Proof.Proofs.HeaderWrites

/-! ### Runs of causes -/

/-- The causes of a list set in PG_EVT. -/
def withCauses (l : List Nat) (e : Word) : Word := l.foldl (fun e b => e ||| 1#32 <<< b) e

theorem bit_one_shift {i b : Nat} (hi : i < 32) : (1#32 <<< b).getLsbD i = decide (i = b) := by
  simp only [BitVec.getLsbD_shiftLeft, BitVec.getLsbD_one]
  by_cases h : i = b
  · subst h; simp [hi]
  · simp [h]; omega

theorem bit_withCauses (l : List Nat) (e : Word) {i : Nat} (hi : i < 32) : bit (withCauses l e) i = (bit e i || decide (i ∈ l)) := by
  unfold withCauses
  induction l generalizing e with
  | nil => simp
  | cons x t ih =>
    rw [List.foldl_cons, ih]
    simp only [bit, BitVec.getLsbD_or, bit_one_shift hi, List.mem_cons, Bool.or_assoc, Bool.decide_or]

/-- The causes of a word are its bits. -/
theorem withCauses_bits (v e : Word) : withCauses ((List.range 32).filter (bit v)) e = e ||| v := by
  refine BitVec.eq_of_getLsbD_eq fun i hi => ?_
  have h := bit_withCauses ((List.range 32).filter (bit v)) e hi
  simp only [bit, List.mem_filter, List.mem_range, hi, true_and, Bool.decide_eq_true] at h
  rw [h, BitVec.getLsbD_or]

theorem hdr_raises (p : Page) (l : List Nat) (c : Chip) :
    hdr (each l (fun b c => raise p b c) c) p = { hdr c p with evt := withCauses l (hdr c p).evt } := by
  unfold each withCauses
  induction l generalizing c with
  | nil => rfl
  | cons x t ih => rw [List.foldl_cons, List.foldl_cons, ih, hdr_raise]

theorem hdr_raises_ne {p q : Page} (l : List Nat) (c : Chip) (hq : q ≠ p) : hdr (each l (fun b c => raise p b c) c) q = hdr c q :=
  each_keeps (fun c => hdr c q) _ (fun _ _ => hdr_raise_ne _ _ _ _ hq) l c

/-- A run of causes makes pending the vector of each that was clear and is enabled (R37). -/
theorem raises_pends {p : Page} {b : Nat} {l : List Nat} (c : Chip) (hb : b ∈ l) (hb32 : b < 32) (hclear : bit (hdr c p).evt b = false)
    (hen : bit (rd c p 0x014) b = true) : bit (each l (fun b c => raise p b c) c).evt.pend (vecOf c p b) = true := by
  unfold each
  induction l generalizing c with
  | nil => cases hb
  | cons x t ih =>
    rw [List.foldl_cons]
    by_cases hx : b = x
    · subst hx
      exact each_ind (fun c' => bit c'.evt.pend (vecOf c p b) = true) _ t (fun y _ _ h => raise_pend_mono _ _ _ _ h) _
        (raise_pends p b c hclear hen)
    · rw [← vecOf_regs (raise_regs p x c)]
      refine ih (raise p x c) ((List.mem_cons.mp hb).resolve_left hx) ?_ (by rw [rd_raise]; exact hen)
      rw [hdr_raise]
      simp only [bit, BitVec.getLsbD_or, bit_one_shift hb32, hx, decide_false, Bool.or_false]
      exact hclear

/-! ### PG_EVSET, PG_EVT and PG_EVEN (R37) -/

theorem hdr_evSet (p : Page) (v : Word) (c : Chip) : hdr (evSet p v c) p = { hdr c p with evt := (hdr c p).evt ||| v } := by
  rw [evSet, hdr_raises, withCauses_bits]

theorem hdr_evSet_ne {p q : Page} (v : Word) (c : Chip) (hq : q ≠ p) : hdr (evSet p v c) q = hdr c q := hdr_raises_ne _ c hq

@[simp] theorem evSet_regs (p : Page) (v : Word) (c : Chip) : (evSet p v c).regs = c.regs :=
  each_keeps (·.regs) _ (fun _ _ => raise_regs _ _ _) _ c

@[simp] theorem evSet_pwr (p : Page) (v : Word) (c : Chip) : (evSet p v c).pwr = c.pwr :=
  each_keeps (·.pwr) _ (fun _ _ => raise_pwr _ _ _) _ c

@[simp] theorem evSet_clk (p : Page) (v : Word) (c : Chip) : (evSet p v c).clk = c.clk :=
  each_keeps (·.clk) _ (fun _ _ => raise_clk _ _ _) _ c

theorem evSet_pends {p : Page} {v : Word} {b : Nat} (c : Chip) (hb32 : b < 32) (hv : bit v b = true) (hclear : bit (hdr c p).evt b = false)
    (hen : bit (rd c p 0x014) b = true) : bit (evSet p v c).evt.pend (vecOf c p b) = true :=
  raises_pends c (by simp [hb32, hv]) hb32 hclear hen

theorem hdr_evtClear (p : Page) (v : Word) (c : Chip) : hdr (evtClear p v c) p = { hdr c p with evt := (hdr c p).evt &&& ~~~v } :=
  hdr_modHdr c p _

theorem hdr_evtClear_ne {p q : Page} (v : Word) (c : Chip) (hq : q ≠ p) : hdr (evtClear p v c) q = hdr c q := hdr_modHdr_ne _ _ _ _ hq

/-- The causes that PG_EVEN enables newly and that are set. -/
def newlyEnabled (p : Page) (v : Word) (c : Chip) : List Nat :=
  (List.range 32).filter (bit (v &&& ~~~(rd c p 0x014) &&& (hdr c p).evt))

/-- The vectors of a write of PG_EVEN are those that its page's PG_VEC names. -/
theorem raiseVectors_eq (p : Page) (l : List Nat) (c : Chip) :
    each l (fun b c => raiseVector (vecOf c p b) c) c = each (l.map (vecOf c p)) raiseVector c := by
  unfold each
  induction l generalizing c with
  | nil => rfl
  | cons x t ih =>
    have hvec : vecOf (raiseVector (vecOf c p x) c) p = vecOf c p := funext fun b => vecOf_regs (raiseVector_regs _ _) p b
    rw [List.map_cons, List.foldl_cons, List.foldl_cons, ih, hvec]

/-- PG_EVEN lies apart from PG_VEC. -/
theorem vecOf_wr_even (p : Page) (v : Word) (c : Chip) (b : Nat) : vecOf (wr p 0x014 v c) p b = vecOf c p b := by
  simp only [vecOf, rdF, rd_wr_ne c p p 0x014 0x01C v (by omega)]

theorem evenWrite_eq (p : Page) (v : Word) (c : Chip) :
    evenWrite p v c = each ((newlyEnabled p v c).map (vecOf c p)) raiseVector (wr p 0x014 v c) := by
  have hvec : vecOf (wr p 0x014 v c) p = vecOf c p := funext (vecOf_wr_even p v c)
  unfold evenWrite newlyEnabled
  rw [raiseVectors_eq, hvec]

theorem hdr_evenWrite (p q : Page) (v : Word) (c : Chip) : hdr (evenWrite p v c) q = hdr c q := by
  rw [evenWrite_eq, each_keeps (fun c => hdr c q) _ (fun _ _ => hdr_raiseVector _ _ _), hdr_wr]

theorem evenWrite_regs (p : Page) (v : Word) (c : Chip) : (evenWrite p v c).regs = (wr p 0x014 v c).regs := by
  rw [evenWrite_eq, each_keeps (·.regs) _ (fun _ _ => raiseVector_regs _ _)]

@[simp] theorem evenWrite_pwr (p : Page) (v : Word) (c : Chip) : (evenWrite p v c).pwr = c.pwr := by
  rw [evenWrite_eq, each_keeps (·.pwr) _ (fun _ _ => raiseVector_pwr _ _), wr_pwr]

@[simp] theorem evenWrite_clk (p : Page) (v : Word) (c : Chip) : (evenWrite p v c).clk = c.clk := by
  rw [evenWrite_eq, each_keeps (·.clk) _ (fun _ _ => raiseVector_clk _ _), wr_clk]

theorem rd_evenWrite (p : Page) (v : Word) (c : Chip) : rd (evenWrite p v c) p 0x014 = v := by
  rw [rd_regs (evenWrite_regs p v c), rd_wr]

theorem vecOf_evenWrite (p : Page) (v : Word) (c : Chip) (b : Nat) : vecOf (evenWrite p v c) p b = vecOf c p b := by
  rw [vecOf_regs (evenWrite_regs p v c), vecOf_wr_even]

theorem evenWrite_pends {p : Page} {v : Word} {b : Nat} (c : Chip) (hb32 : b < 32) (hv : bit v b = true) (hset : bit (hdr c p).evt b = true)
    (hold : bit (rd c p 0x014) b = false) : bit (evenWrite p v c).evt.pend (vecOf c p b) = true := by
  have hb : b ∈ newlyEnabled p v c := by
    simp only [bit] at hv hset hold
    simp only [newlyEnabled, bit, List.mem_filter, List.mem_range, BitVec.getLsbD_and, BitVec.getLsbD_not, hv, hset, hold, hb32]
    decide
  rw [evenWrite_eq]
  exact Clocks.each_establishes (fun c' => bit c'.evt.pend (vecOf c p b) = true) _ (List.mem_map_of_mem hb)
    (fun c' => raiseVector_pend _ c' (vecOf_lt c p b)) (fun _ _ h => raiseVector_mono _ _ _ h) _

/-! ### PG_FLT (R36, R437) -/

theorem fltClear_none {p : Page} {c : Chip} (h : (hdr c p).fltCode = 0) : (fltClear p c).1 = c := by
  simp [fltClear, h]

/-- A belay code travels to the belay in a configuration slot. -/
theorem fltClear_belay {c : Chip} (h : 0xB0 ≤ (hdr c .bly).fltCode.toNat) :
    (fltClear .bly c).1 = pushCfg true 0x020 1 { c with fld := { c.fld with clearSince := some c.clk.now } } := by
  simp [fltClear, h]

/-- The code is none that the belay clears itself. -/
def NotBelayCode (c : Chip) (p : Page) : Prop := p = .bly → (hdr c p).fltCode.toNat < 0xB0

theorem notBelayCode_iff {c : Chip} {p : Page} : NotBelayCode c p ↔ (p == .bly && decide (0xB0 ≤ (hdr c p).fltCode.toNat)) = false := by
  simp [NotBelayCode]

/-- The code 0x05 asks whether the engine responds again: one free value each time (R9). -/
def asked (p : Page) (c : Chip) : Chip := if (hdr c p).fltCode = 0x05 then useFresh c else c

theorem fltClear_refused {p : Page} {c : Chip} (hb : NotBelayCode c p) (h0 : (hdr c p).fltCode ≠ 0) (hs : clearStands c p = true) :
    (fltClear p c).1 = raise p 7 (asked p c) := by
  rw [notBelayCode_iff] at hb
  unfold fltClear asked
  simp only [hb, Bool.false_eq_true, if_false, h0, hs, if_true, beq_iff_eq]

/-- An accepted clear: the latch, then what the chapter does with it. -/
theorem fltClear_accepted {p : Page} {c : Chip} (hb : NotBelayCode c p) (h0 : (hdr c p).fltCode ≠ 0) (hs : clearStands c p = false) :
    ∃ c1, (fltClear p c).1 = clearEffect p (clearLatch p c1) := by
  rw [notBelayCode_iff] at hb
  unfold fltClear
  simp only [hb, Bool.false_eq_true, if_false, h0, hs]
  exact ⟨_, rfl⟩

/-- It leaves no code, count or sequence, and no page in FAULT (Table 2-11). -/
theorem hdr_fltClear_accepted {p : Page} {c : Chip} (hb : NotBelayCode c p) (h0 : (hdr c p).fltCode ≠ 0) (hs : clearStands c p = false) :
    (hdr (fltClear p c).1 p).fltCode = 0 ∧ (hdr (fltClear p c).1 p).fltCount = 0 ∧ (hdr (fltClear p c).1 p).fltSeq = 0 ∧
      (hdr (fltClear p c).1 p).state ≠ .fault := by
  obtain ⟨c1, h⟩ := fltClear_accepted hb h0 hs
  obtain ⟨hcode, hcount, hseq, hstate⟩ := hdr_clearLatch p c1
  obtain ⟨ecode, ecount, eseq, estate⟩ := hdr_clearEffect p (clearLatch p c1) hstate
  rw [h]
  exact ⟨ecode.trans hcode, ecount.trans hcount, eseq.trans hseq, estate⟩

/-! ### The statement -/

/-- Settles O4: each clause is the rule of its header register, at the end of the command's write. -/
theorem pageEventsAndFaultClear : Obligations.PageEventsAndFaultClear := by
  unfold Obligations.PageEventsAndFaultClear
  refine ⟨?clear, ?enable, ?set, ?noCode, ?belay, ?accepted, ?refused⟩
  case clear =>
    intro s path p v h
    exact exec_pgEvtWrite v h
  case enable =>
    intro s path p v h
    refine ⟨_, exec_pgEvenWrite v h, ?_⟩
    simp only [onChip_chip, ended_rd, ended_hdr, ended_evt]
    exact ⟨rd_evenWrite .., fun q => hdr_evenWrite .., fun b hb32 => evenWrite_pends s.chip hb32, rfl⟩
  case set =>
    intro s path p v h
    refine ⟨_, exec_pgEvsetWrite v h, ?_⟩
    simp only [onChip_chip, ended_hdr, ended_evt, ended_regs]
    exact ⟨hdr_evSet .., fun b hb32 => evSet_pends s.chip hb32, evSet_regs .., rfl⟩
  case noCode =>
    intro s path p h h0
    exact (exec_pgFltClear h).trans (next_onChip (congrArg _ (fltClear_none h0)))
  case belay =>
    intro s path h hb
    exact (exec_pgFltClear h).trans (next_onChip (congrArg _ (fltClear_belay hb)))
  case accepted =>
    intro s path p h hb h0 hs
    refine ⟨_, exec_pgFltClear h, ?_⟩
    simp only [onChip_chip, ended_hdr]
    obtain ⟨hcode, hcount, hseq, hstate⟩ := hdr_fltClear_accepted hb h0 hs
    exact ⟨hcode, hcount, hseq, hstate, rfl⟩
  case refused =>
    intro s path p h hb h0 hs
    exact (exec_pgFltClear h).trans (next_onChip (congrArg _ (fltClear_refused hb h0 hs)))

end Sys2Proof.Proofs.EventWrites
end

section
/-!
Seals and splices (R35, R484, R491): the CRC of the sealed fields, the latch of a mismatch, and how a splice request is recorded, refused or
runs out; with the statement about them.
-/

namespace Sys2Proof.Proofs.SealAndSplice

open Sys2Proof Sys2Proof.Machine Sys2Proof.Laws.PageEvents Sys2Proof.Proofs.HeaderWrites

/-! ### SEAL (R35) -/

/-- The sealed bytes rest on the registers alone. -/
theorem sealBytes_regs {c c' : Chip} (h : c'.regs = c.regs) (p : Page) : sealBytes c' p = sealBytes c p := by
  simp only [sealBytes, rd_regs h]

theorem pageSeal_unsealed {p : Page} {c : Chip} (h : (hdr c p).sealedBit = false) :
    pageSeal p c = setHdr p { hdr c p with sealedBit := true, sealCrc := crc32c (sealBytes c p) } c := by
  simp [pageSeal, h]

/-! ### SEAL_CRC_CHECK (R35) -/

section
variable {q : Page} {i : Nat}

theorem evt_pages_mono {c c' : Chip} (hp : c'.pages = c.pages) (h : bit (hdr c q).evt i = true) : bit (hdr c' q).evt i = true := by
  rwa [hdr_pages hp]

theorem evt_updateFull_mono (c : Chip) (h : bit (hdr c q).evt i = true) : bit (hdr (updateFull c) q).evt i = true := by
  unfold updateFull raiseIf
  dsimp only
  split
  · exact evt_raise_mono _ _ _ _ _ (evt_pages_mono (c := c) rfl h)
  · exact evt_pages_mono (c := c) rfl h

theorem evt_postCq_mono (x : Completion) (c : Chip) (h : bit (hdr c q).evt i = true) : bit (hdr (postCq x c) q).evt i = true :=
  evt_raise_mono _ _ _ _ _ (evt_pages_mono (c := c) rfl h)

theorem evt_sendIp_mono (ip : Word) (proto : Byte) (l4 : List Byte) (o : Output) (c : Chip) (h : bit (hdr c q).evt i = true) :
    bit (hdr (sendIp ip proto l4 o c) q).evt i = true := by
  unfold sendIp
  split
  · exact evt_pages_mono (c := c) rfl h
  · exact evt_raise_mono _ _ _ _ _ h

theorem evt_respond_mono (k : Nat) (r : YcpResp) (c : Chip) (h : bit (hdr c q).evt i = true) : bit (hdr (respond k r c) q).evt i = true :=
  evt_sendIp_mono _ _ _ _ _ (evt_pages_mono (c := c) rfl h)

theorem evt_deliver_mono (x : Completion) (c : Chip) (h : bit (hdr c q).evt i = true) : bit (hdr (deliver x c) q).evt i = true := by
  unfold deliver
  split
  · split
    · exact evt_updateFull_mono _ (evt_postCq_mono x c h)
    · exact evt_pages_mono (c := c) rfl h
  · exact evt_respond_mono _ _ c h

/-- The end of a command takes no bit from PG_EVT. -/
theorem evt_finish_mono (id : Nat) (status detail : Byte) (result : DWord) (c : Chip) (h : bit (hdr c q).evt i = true) :
    bit (hdr (finish id status detail result c) q).evt i = true := by
  unfold finish
  split
  · exact h
  · exact evt_deliver_mono _ _ (evt_pages_mono (c := c) rfl h)

theorem evt_finishAll_mono (ids : List Nat) (status detail : Byte) (result : DWord) (c : Chip) (h : bit (hdr c q).evt i = true) :
    bit (hdr (finishAll ids status detail result c) q).evt i = true :=
  each_ind (fun c => bit (hdr c q).evt i = true) _ ids (fun _ _ c h => evt_finish_mono _ _ _ _ c h) c h

end

/-- The failing of a page's items ends commands and nothing else. -/
theorem failItems_ends (p : Page) (code : Byte) (c : Chip) :
    ∃ ids c1, failItems p code c = finishAll ids stFailed code 0 c1 ∧ c1.pages = c.pages ∧ c1.regs = c.regs := by
  unfold failItems
  split
  · exact ⟨_, _, rfl, rfl, rfl⟩
  · exact ⟨_, _, rfl, rfl, rfl⟩
  · exact ⟨[], c, rfl, rfl, rfl⟩

@[simp] theorem failItems_regs (p : Page) (code : Byte) (c : Chip) : (failItems p code c).regs = c.regs := by
  obtain ⟨ids, c1, h, -, hregs⟩ := failItems_ends p code c
  rw [h, finishAll_regs, hregs]

theorem hdr_failItems (p q : Page) (code : Byte) (c : Chip) : ∃ e, hdr (failItems p code c) q = { hdr c q with evt := e } := by
  obtain ⟨ids, c1, h, hpages, -⟩ := failItems_ends p code c
  exact ⟨_, by rw [h, calm_hdr (calm_finishAll ids stFailed code 0 c1) q, hdr_pages hpages]⟩

theorem evt_failItems_mono (p q : Page) (code : Byte) (i : Nat) (c : Chip) (h : bit (hdr c q).evt i = true) :
    bit (hdr (failItems p code c) q).evt i = true := by
  obtain ⟨ids, c1, he, hpages, -⟩ := failItems_ends p code c
  rw [he]
  exact evt_finishAll_mono _ _ _ _ _ (evt_pages_mono hpages h)

/-- A page in READY or RUN has no splice to roll back, so a fault touches no register. -/
theorem latchFault_regs_up {p : Page} {c : Chip} (code : Byte) (h : (hdr c p).state = .ready ∨ (hdr c p).state = .run) :
    (latchFault p code c).regs = c.regs := by
  unfold latchFault
  rcases h with h | h <;> simp only [h, setState_regs] <;> split <;> simp

/-- The condition 0x04 arises. -/
def mismatchStands (p : Page) (c : Chip) : Chip := modHdr p (fun h => { h with conds := 0x04 :: h.conds }) c

theorem hdr_mismatchStands (p : Page) (c : Chip) : hdr (mismatchStands p c) p = { hdr c p with conds := 0x04 :: (hdr c p).conds } :=
  hdr_modHdr c p _

theorem sealCheck_mismatch {p : Page} {c : Chip} (hs : (hdr c p).sealedBit = true) (hcrc : crc32c (sealBytes c p) ≠ (hdr c p).sealCrc)
    (hn : standing c p 0x04 = false) : sealCheck p c = failItems p 0x04 (latchFault p 0x04 (mismatchStands p c)) := by
  unfold sealCheck latchCond
  simp only [hs, hcrc, hn, Bool.not_true, Bool.false_eq_true, if_false]
  rfl

/-- The fault of a mismatch, in a page that worked and had latched no code (R35, R36). -/
theorem mismatch_latches {p : Page} {c t : Chip} (ht : t = failItems p 0x04 (latchFault p 0x04 (mismatchStands p c)))
    (h0 : (hdr c p).fltCode = 0) (hup : (hdr c p).state = .ready ∨ (hdr c p).state = .run) :
    (hdr t p).state = .fault ∧ (hdr t p).fltCode = 0x04 ∧ standing t p 0x04 = true ∧ (hdr t p).fltSeq = c.faultSeq + 1 ∧
      bit (hdr t p).evt 0 = true ∧ t.regs = c.regs := by
  subst ht
  have hc1 := hdr_mismatchStands p c
  obtain ⟨hcode, hseq, -, hevt, hconds, hstate⟩ := latchFault_first p 0x04 (mismatchStands p c) (by rw [hc1]; exact h0)
  obtain ⟨e, he⟩ := hdr_failItems p p 0x04 (latchFault p 0x04 (mismatchStands p c))
  refine ⟨?_, ?_, ?_, ?_, evt_failItems_mono _ _ _ _ _ hevt, ?_⟩
  · rw [he, hstate, hc1]
    rcases hup with h | h <;> simp only [h]
  · rw [he, hcode]
  · rw [standing, he, hconds, hc1]
    simp
  · rw [he, hseq]; rfl
  · rw [failItems_regs, latchFault_regs_up 0x04 (by rw [hc1]; exact hup)]; rfl

theorem sealCheck_match {p : Page} {c : Chip} (hs : (hdr c p).sealedBit = true) (hcrc : crc32c (sealBytes c p) = (hdr c p).sealCrc) :
    sealCheck p c = endCond p 0x04 c := by
  simp [sealCheck, hs, hcrc]

/-! ### Splice requests (R484) -/

theorem spliceAsk_waits {p : Page} {s : State} (hw : spliceWaits p = true) (hr : (hdr s.chip p).spliceReq = false) :
    spliceAsk p s = onChip (setHdr p { hdr s.chip p with spliceReq := true }) s := by
  simp [spliceAsk, hr, hw]

/-- A request that its page cannot take is over at once, REFUSED. -/
theorem spliceAsk_refused {p : Page} {s : State} (hw : spliceWaits p = false) (hr : (hdr s.chip p).spliceReq = false)
    (hf : (hdr s.chip p).spliceFrom = none) (hno : spliceNone p = true ∨ (hdr s.chip p).state = .off ∨ (hdr s.chip p).state = .fault) :
    spliceAsk p s = onChip (fun c => spliceOver p 4 (setHdr p { hdr c p with spliceReq := true } c)) s := by
  have hrun : spliceRun p (onChip (setHdr p { hdr s.chip p with spliceReq := true }) s) =
      onChip (spliceOver p 4) (onChip (setHdr p { hdr s.chip p with spliceReq := true }) s) := by
    unfold spliceRun
    simp only [onChip_chip, hdr_setHdr, hf]
    rcases hno with h | h | h <;> simp [h]
  simp only [spliceAsk, hr, hw, Bool.false_eq_true, if_false, hrun, onChip_onChip]
  exact onChip_congr rfl

/-! ### SPLICE_LIMIT_EXPIRY (R484) -/

/-- The limit of a splice whose old content is intact: it ends KEPT, whatever its page notes beside. -/
theorem spliceExpiry_intact {p : Page} {st : PgState} {c : Chip} (hp : ∀ k, p ≠ .fco k) (hs : (hdr c p).state = .splicing)
    (hf : (hdr c p).spliceFrom = some st) (hdue : (hdr c p).spliceSince + spliceLimit c p ≤ c.clk.now) :
    ∃ c1 : Chip, (c1.pages = c.pages ∧ c1.spl = c.spl) ∧ (∀ q, hdr (spliceExpiry p true c) q = hdr (spliceEnd p 2 c1) q) ∧
      (spliceExpiry p true c).spl.log = (spliceEnd p 2 c1).spl.log := by
  unfold spliceExpiry
  dsimp only
  rw [if_neg (by simp [hs, hf, hdue])]
  split
  next k => exact absurd rfl (hp k)
  next k => exact ⟨modAdc k.val (fun x => { x with spliceCal := false }) c, ⟨rfl, rfl⟩, fun _ => rfl, rfl⟩
  next => exact ⟨c, ⟨rfl, rfl⟩, fun q => Laws.PageHeads.noteFormer_hdr p q _, Laws.PageSplices.noteFormer_log p _⟩

/-! ### The statement -/

/-- Settles O5: the seal and the requests are writes of PG_CTL, the other clauses are events of the main die. -/
theorem sealAndSplice : Obligations.SealAndSplice := by
  unfold Obligations.SealAndSplice
  refine ⟨?sealed, ?mismatch, ?intact, ?recorded, ?refused, ?expiry⟩
  case sealed =>
    intro s path p h hs
    refine ⟨_, exec_sealPage h, ?_⟩
    simp only [onChip_chip, ended_hdr, ended_regs]
    rw [pageSeal_unsealed (by rw [hdr_countWrite]; exact hs)]
    refine ⟨?_, fun q hq => ?_, rfl, rfl⟩
    · rw [hdr_setHdr, hdr_countWrite, sealBytes_regs (countWrite_regs p s.chip)]
    · rw [hdr_setHdr_ne _ _ _ _ hq, hdr_countWrite_ne _ hq]
  case mismatch =>
    intro s p hm hs hcrc hn h0 hup
    obtain ⟨hstate, hcode, hstand, hseq, hevt, hregs⟩ := mismatch_latches (sealCheck_mismatch hs hcrc hn) h0 hup
    exact ⟨onChip (sealCheck p) s, run_live hm, hstate, hcode, hstand, hseq, hevt, hregs, rfl⟩
  case intact =>
    intro s p hm hs hcrc
    exact run_live_as hm (sealCheck_match hs hcrc)
  case recorded =>
    intro s path p h hw hr
    refine ⟨_, exec_spliceReq h, ?_⟩
    rw [spliceAsk_waits hw (by rw [onChip_chip, hdr_countWrite]; exact hr)]
    simp only [onChip_chip, ended_hdr, ended_regs]
    refine ⟨?_, fun q hq => ?_, rfl, rfl⟩
    · rw [hdr_setHdr, hdr_countWrite]
    · rw [hdr_setHdr_ne _ _ _ _ hq, hdr_countWrite_ne _ hq]
  case refused =>
    intro s path p h hw hr hf hno
    refine ⟨_, exec_spliceReq h, ?_⟩
    rw [spliceAsk_refused hw (by rw [onChip_chip, hdr_countWrite]; exact hr) (by rw [onChip_chip, hdr_countWrite]; exact hf)
      (by rw [onChip_chip, hdr_countWrite]; exact hno)]
    simp only [onChip_chip, ended_hdr, ended_regs, ended_spl]
    obtain ⟨hreq, -, -, hdone⟩ := hdr_spliceOver p 4 (setHdr p { hdr (countWrite p s.chip) p with spliceReq := true } (countWrite p s.chip))
    exact ⟨hreq, hdone, fun hlog => log_spliceOver p 4 _ hlog, Laws.PageSplices.regs_spliceOver .., rfl⟩
  case expiry =>
    intro s p st hm hp hs _ hf hdue
    obtain ⟨c1, ⟨hpages, hspl⟩, hhdr, hlog⟩ := spliceExpiry_intact hp hs hf hdue
    obtain ⟨hstate, hreq, hfrom, hdone, hlogged⟩ := Laws.PageSplices.spliceEnd_facts p 2 st c1 (by rw [hdr_pages hpages]; exact hf)
    refine ⟨_, run_live hm, ?_⟩
    simp only [onChip_chip, hhdr, hlog]
    exact ⟨hstate, hreq, hfrom, hdone, by rwa [hspl] at hlogged, rfl⟩

end Sys2Proof.Proofs.SealAndSplice
end

section
/-!
Apply requests, applies and ownership (R38, R41): what PG_APPLY and PG_OWNER leave, what an apply without further effect does, and the
statement about them.
-/

namespace Sys2Proof.Proofs.ApplyOwner

open Sys2Proof Sys2Proof.Machine Sys2Proof.Laws.PageApplies Sys2Proof.Proofs.HeaderWrites

/-! ### PG_APPLY -/

/-- An apply asked for: APPLY_REQ and, at a port, the request of its gate list (R73). -/
theorem applyAsk_one (p : Page) (c : Chip) :
    (applyAsk p 1 c).pages = (modHdr p (fun h => { h with applyReq := true }) c).pages ∧ (applyAsk p 1 c).regs = c.regs := by
  unfold applyAsk
  rw [if_pos rfl]
  dsimp only
  split
  · obtain ⟨hpages, hregs⟩ := gclRequest_pages _ (modHdr _ (fun h => { h with applyReq := true }) c)
    exact ⟨hpages, hregs⟩
  · exact ⟨rfl, rfl⟩

/-! ### APPLY -/

/-- The copy of the shadows leaves the shadows as they are. -/
theorem rd_copyShadows (p : Page) (sel : Nat → Bool) (c : Chip) {off : Nat} (h : off < 0x800) : rd (copyShadows p sel c) p off = rd c p off := by
  refine copy_rd p _ (fun o ho => ?_) c off h
  simp only [shadowOffs, List.mem_filter, List.mem_map] at ho
  obtain ⟨⟨⟨x, _, rfl⟩, _⟩, _⟩ := ho
  exact Nat.mod_lt _ (by decide)

theorem applyDone_regs (p : Page) (c : Chip) : (applyDone p c).regs = c.regs := by simp [applyDone]

theorem hdr_applyDone (p : Page) (c : Chip) : hdr (applyDone p c) p = { hdr c p with
    applyReq := false
    shadowPending := false
    applyCount := (hdr c p).applyCount + 1
    evt := (hdr c p).evt ||| (1#32 <<< 4) } := by
  rw [applyDone, hdr_raise, hdr_modHdr]

theorem withService_congr {f g : Chip → Chip} {c : Chip} (h : f c = g c) : withService f c = withService g c := by
  unfold withService
  rw [h]

/-- SERVICE_CHANGE is a cause of the DEV page alone (R45). -/
theorem hdr_withService_ne {p : Page} (g : Chip → Chip) (c : Chip) (hp : p ≠ .dev) : hdr (withService g c) p = hdr (g c) p := by
  unfold withService
  dsimp only
  split
  · rfl
  · exact hdr_raise_ne _ _ _ _ hp

/-- The shadows of a page come into force, and its request is done. -/
def appliedPlain (p : Page) (c : Chip) : Chip := applyDone p (copyShadows p (fun _ => true) c)

theorem plainApply_cases {p : Page} (h : plainApply p = true) : (∃ n, p = .mod n) ∨ (∃ k, p = .adc k) ∨ ∃ e, p = .lpe e := by
  cases p <;> simp_all [plainApply]

theorem plainApply_ne {p : Page} (h : plainApply p = true) : p ≠ .knt ∧ p ≠ .dev := by
  constructor <;> rintro rfl <;> cases h

theorem applyEffect_plain {p : Page} (c x : Chip) (h : plainApply p = true) : applyEffect p c x = x := by
  obtain ⟨n, rfl⟩ | ⟨k, rfl⟩ | ⟨e, rfl⟩ := plainApply_cases h
  · rfl
  · rfl
  · rfl

theorem applyTake_plain {p : Page} {c : Chip} (hp : plainApply p = true) (hr : applyRefusal p c (copyShadows p (fun _ => true) c) = []) :
    applyTake p c = (copyShadows p (fun _ => true) c, true) := by
  unfold applyTake
  simp only [hr, applyEffect_plain _ _ hp]

theorem pageApply_plain {p : Page} {c : Chip} (hp : plainApply p = true) (hreq : (hdr c p).applyReq = true)
    (hr : applyRefusal p c (copyShadows p (fun _ => true) c) = []) : pageApply p c = withService (appliedPlain p) c := by
  unfold pageApply
  rw [hreq, if_neg (by simp)]
  split
  · cases hp
  · exact withService_congr (by simp only [applyTake_plain hp hr]; rfl)

/-! ### PG_OWNER -/

theorem ownerWrite_legal {p : Page} {v : Word} {c : Chip} (hv : v.toNat < 16) (h6 : v ≠ 6) (h7 : v ≠ 7) :
    ownerWrite p v c = countWrite p (modHdr p (fun h => { h with owner := v.toNat }) c) := by
  have hfld : fld v 3 0 = v.toNat := by simp [fld]; omega
  have hne : ¬ (v.toNat = 6 ∨ v.toNat = 7) := by
    rintro (h | h)
    · exact h6 (BitVec.eq_of_toNat_eq h)
    · exact h7 (BitVec.eq_of_toNat_eq h)
  unfold ownerWrite
  rw [hfld]
  exact if_neg hne

theorem owner_defined {v : Word} (hv : v.toNat < 16) : v &&& ~~~0xF = 0 := by
  refine BitVec.eq_of_getLsbD_eq fun i _ => ?_
  rw [BitVec.getLsbD_and, BitVec.getLsbD_not]
  by_cases hi : i < 4
  · interval_cases i <;> simp
  · have hlt : v.toNat < 2 ^ i := hv.trans_le (Nat.pow_le_pow_right (n := 2) (by decide) (by omega : 4 ≤ i))
    rw [BitVec.getLsbD, Nat.testBit_lt_two_pow hlt, Bool.false_and]
    simp

/-! ### The statement -/

/-- Settles O6: the requests are writes of the header, and the apply copies the shadows and is done. -/
theorem shadowApplyAndOwner : Obligations.ShadowApplyAndOwner := by
  unfold Obligations.ShadowApplyAndOwner
  refine ⟨?request, ?apply, ?owner⟩
  case request =>
    intro s path p h
    obtain ⟨hpages, hregs⟩ := applyAsk_one p s.chip
    refine ⟨_, exec_pgApply h, ?_⟩
    simp only [onChip_chip, ended_hdr, ended_regs, hdr_pages hpages]
    exact ⟨hdr_modHdr .., fun q hq => hdr_modHdr_ne _ _ _ _ hq, hregs, rfl⟩
  case apply =>
    intro s p hm hdue hreq hp hr
    have hexec : exec (.apply p) s = .next (onChip (withService (appliedPlain p)) s) := by
      change Host.Outcome.next (onChip (fun c => if mainRuns c && applyDue c p then pageApply p c else c) s) = _
      refine next_onChip ?_
      simp only [hm, hdue, Bool.and_self, if_true]
      exact pageApply_plain hp hreq hr
    refine ⟨_, hexec, ?_, fun off h0 h hoff => ?_, rfl⟩
    · rw [onChip_chip, hdr_withService_ne _ _ (plainApply_ne hp).2, appliedPlain, hdr_applyDone, hdr_pages (copy_pages p _ s.chip)]
    · have hregs : (onChip (withService (appliedPlain p)) s).chip.regs = (copyShadows p (fun _ => true) s.chip).regs := by
        rw [onChip_chip, withService_regs]; exact applyDone_regs ..
      rw [act_regs hregs, rd_regs hregs]
      exact ⟨copy_act p s.chip off h0 h hoff, rd_copyShadows p _ s.chip h⟩
  case owner =>
    intro s path p v h hv h6 h7
    refine ⟨_, exec_pgOwnerWrite h (owner_defined hv), ?_⟩
    simp only [onChip_chip, ended_hdr, ended_regs, ownerWrite_legal hv h6 h7]
    refine ⟨?_, fun q hq => ?_, rfl, rfl⟩
    · rw [hdr_countWrite, hdr_modHdr]
    · rw [hdr_countWrite_ne _ hq, hdr_modHdr_ne _ _ _ _ hq]

end Sys2Proof.Proofs.ApplyOwner
end

section
/-!
Vectors and the splice log (R44, R45, R491): the mask halves, the message of a vector that is due, the pop of the log, and the statement about
them.
-/

namespace Sys2Proof.Proofs.EventVectors

open Sys2Proof Sys2Proof.Machine

/-! ### EVT_MASK -/

/-- The rows of EVT_MASK_LO and EVT_MASK_HI: plain words of 32 defined bits. -/
theorem maskRow {o : Nat} (ho : o = 0x048 ∨ o = 0x04C) : ∃ r hi, findRow (pageRows .evt) o = some (r, hi) ∧ r.pair = false ∧ r.acc = .rw ∧
    r.mask = 0xFFFFFFFF ∧ r.legal = [] := by
  rcases ho with rfl | rfl
  · exact ⟨_, _, rfl, rfl, rfl, rfl, rfl⟩
  · exact ⟨_, _, rfl, rfl, rfl, rfl, rfl⟩

/-- Any value of a mask half is taken as written. -/
theorem regPage_mask {s : State} {path : Path} {o : Nat} (v : Word) (h : CanWrite s path .evt) (ho : o = 0x048 ∨ o = 0x04C) :
    regPage path .evt o v s = onChip (fun c => taken path .evt o (wr .evt o v c)) s := by
  obtain ⟨r, hi, hrow, hpair, hacc, hmask, hlegal⟩ := maskRow ho
  have hm : v &&& r.mask = v := by rw [hmask]; exact BitVec.and_allOnes
  have hc : cleanReg s.chip path .evt o r v = (v, false) :=
    cleanReg_eq s.chip path .evt o r v hm (by rw [hlegal]; rfl) rfl
  exact Window.regPage_took h (by omega) (by omega) (by omega) hrow hpair (by simp [hacc]) (by simp [hacc]) hc hm
    ((Window.blockWrite_plain path o r v s rfl).trans (if_neg (by simp [hacc])))

/-! ### VECTOR_MESSAGE -/

/-- A vector is sent: its pending bit clears and its gathering begins anew (R44). -/
def vectorSent (v : Nat) (c : Chip) : Chip :=
  emit (.msix v) { c with evt :=
    { c.evt with pend := c.evt.pend &&& ~~~(1#64 <<< v), vec := tabSet {} c.evt.vec v { last := some c.clk.now, gathered := 0 } } }

/-- In MSI-X mode the PCI Express path alone takes the message (R45). -/
theorem sendVector_msix {v : Nat} {c : Chip} (hp : bit c.evt.pend v = true) (hup : isUp c .evt = true) (hmode : rdF c .evt 0x050 1 0 = 0)
    (hmask : vectorMasked c v true = false) (hdue : vectorDue c v = true) (hlink : c.svcPcie = true) (hclk : clkLost c .host = false) :
    sendVector v c = vectorSent v c := by
  simp [sendVector, vectorSent, hp, hup, hmode, hmask, hdue, hlink, hclk]
  rfl

/-! ### DEV_SPLICE_LOG -/

theorem splicePop_cons {n o : Nat} {t : List (Nat × Nat)} {c : Chip} (h : c.spl.log = (n, o) :: t) :
    splicePop c = ({ c with spl := { c.spl with log := t } }, w32 (n * 4096 + o * 2 ^ 24)) := by
  unfold splicePop
  rw [h]
  rfl

/-- The read of DEV_SPLICE_LOG pops it. -/
theorem pageRead_spliceLog (path : Path) (c : Chip) : pageRead path .dev 0x200 c = splicePop c := rfl

/-! ### The statement -/

/-- Settles O8: a mask half is a plain register, the message and the pop are the operations above. -/
theorem eventVectorsAndSpliceLog : Obligations.EventVectorsAndSpliceLog := by
  unfold Obligations.EventVectorsAndSpliceLog
  refine ⟨?mask, ?message, ?pop⟩
  case mask =>
    intro s path hi v h
    exact congrArg Host.Outcome.next (regPage_mask v h (by cases hi <;> simp))
  case message =>
    intro s v hm hp hup hmode hmask hdue hlink hclk
    exact run_live_as hm (sendVector_msix hp hup hmode hmask hdue hlink hclk)
  case pop =>
    intro s path n o t hu hlog
    change Host.Outcome.next (regRead path (pageBase .dev + 0x200) s) = _
    rw [regRead_page s path .dev 0x200 hu (by decide) (by decide), pageRead_spliceLog, splicePop_cons hlog]
    rfl

end Sys2Proof.Proofs.EventVectors
end

section
/-!
Writes of the event registers one after another (R36, R37), and requests of a session that run in their turn (R81, R82); with the statement
about them.
-/

namespace Sys2Proof.Proofs.RequestsComplete

open Sys2Proof Sys2Proof.Machine Sys2Proof.Laws.SessionOps Sys2Proof.Proofs.HeaderWrites Sys2Proof.Proofs.EventWrites

/-! ### Event registers -/

/-- A path that may write a page may still do so after its write of PG_EVEN, and after that of PG_EVSET. -/
theorem canWrite_afterEven {s : State} {path : Path} {p : Page} (v : Word) (h : CanWrite s path p) :
    CanWrite (onChip (fun c => ended path p 0x014 (evenWrite p v c)) s) path p :=
  canWrite_keeps h (evenWrite_pwr p v s.chip) (evenWrite_clk p v s.chip) (congrArg (·.owner) (hdr_evenWrite p p v s.chip))
    (congrArg (·.resetSince) (hdr_evenWrite p p v s.chip))

theorem canWrite_afterEvset {s : State} {path : Path} {p : Page} (v : Word) (h : CanWrite s path p) :
    CanWrite (onChip (fun c => ended path p 0x018 (evSet p v c)) s) path p :=
  canWrite_keeps h (evSet_pwr p v s.chip) (evSet_clk p v s.chip) (congrArg (·.owner) (hdr_evSet p v s.chip))
    (congrArg (·.resetSince) (hdr_evSet p v s.chip))

/-- Causes that are set and then cleared leave those that stood before and were not written. -/
theorem or_andNot (e v : Word) : (e ||| v) &&& ~~~v = e &&& ~~~v := by
  ext i hi
  simp only [BitVec.getElem_and, BitVec.getElem_or, BitVec.getElem_not]
  cases v[i] <;> simp

/-- The code that a clear leaves: none where no condition stands, else the one it found (R36). -/
theorem fltClear_code {p : Page} {c : Chip} (hb : NotBelayCode c p) :
    (hdr (fltClear p c).1 p).fltCode = if clearStands c p then (hdr c p).fltCode else 0 := by
  by_cases h0 : (hdr c p).fltCode = 0
  · rw [fltClear_none h0, h0, ite_self]
  · cases hs : clearStands c p with
    | false => exact (hdr_fltClear_accepted hb h0 hs).1
    | true =>
      have hasked : hdr (asked p c) p = hdr c p := by unfold asked; split <;> rfl
      rw [fltClear_refused hb h0 hs, hdr_raise_fltCode, hasked]
      rfl

/-! ### Requests of a session -/

/-- A request heard in its turn runs, and then the held ones that follow it; its datagram comes while the main die acts. -/
theorem heard_runs {s : State} {i : Fin 4} {g : Dgram} {op : YcpOp} (h : Heard s 0x03 i .sealed (ycpPlain op) g)
    (hq : g.seq = (session s.chip i.val).exp) (hheld : ∀ y ∈ (session s.chip i.val).held, y.1 ≠ g.seq) :
    (if mainRuns s.chip then ycpRequest i g op s else s) = ycpDrain i 15 (ycpRunOp i g.seq op (onChip (inOrder i) s)) := by
  have hm : mainRuns s.chip = true := by
    obtain ⟨⟨hm, -⟩, -⟩ := h
    exact hm
  rw [if_pos hm]
  exact order s 0x03 i g op h rfl hq hheld

/-- A body that passes the checks has a length that matches its kind. -/
theorem ycpLenOk_of_ycpBad {op : YcpOp} (h : ycpBad op = none) : ycpLenOk op = true := by
  by_contra hn
  rw [ycpBad, Bool.eq_false_iff.mpr hn, Bool.not_false, if_pos rfl] at h
  cases h

theorem count_of_read {b : YcpBody} (h : ycpBad { kind := .read, body := b } = none) : b.count.toNat = 1 := by
  have := ycpLenOk_of_ycpBad h
  simp only [ycpLenOk, Bool.and_eq_true, beq_iff_eq] at this
  obtain ⟨-, hn, -⟩ := this
  exact hn

/-- READ of one word. -/
theorem ycpRunOp_read {i : Fin 4} {q v : Word} {b : YcpBody} {s t : State} (h : ycpBad { kind := .read, body := b } = none)
    (hr : ycpReadOne i (fld b.addr 23 0) s = (t, .ok v)) :
    ycpRunOp i q { kind := .read, body := b } s = ycpAnswer i.val q stDone 0 1 0 [v] t := by
  unfold ycpRunOp
  simp only [h, count_of_read h, ycpReadWords, hr]
  rfl

/-- WRITE of one word. -/
theorem ycpRunOp_write {i : Fin 4} {q v : Word} {b : YcpBody} {s t : State} (h : ycpBad { kind := .write, body := b } = none)
    (hv : beWords b.rest = [v]) (hw : ycpWriteOne i (fld b.addr 23 0) v s = (t, none)) :
    ycpRunOp i q { kind := .write, body := b } s = ycpAnswer i.val q stDone 0 1 0 [] t := by
  unfold ycpRunOp
  simp only [h, hv, ycpWriteWords, hw]

theorem ycpRunOp_readBlock {i : Fin 4} {b : YcpBody} (q : Word) (s : State) (h : ycpBad { kind := .readBlock, body := b } = none) :
    ycpRunOp i q { kind := .readBlock, body := b } s = ycpReadWords i q b.count.toNat (fld b.addr 23 0) [] s := by
  unfold ycpRunOp
  rw [h]

theorem ycpRunOp_writeBlock {i : Fin 4} {b : YcpBody} (q : Word) (s : State) (h : ycpBad { kind := .writeBlock, body := b } = none) :
    ycpRunOp i q { kind := .writeBlock, body := b } s = ycpWriteWords i q (beWords b.rest) (fld b.addr 23 0) 0 s := by
  unfold ycpRunOp
  rw [h]

/-- COMMAND where a slot of the session is free and the command engine serves. -/
theorem ycpRunOp_command {i : Fin 4} {b : YcpBody} {buf : Option (List DWord)} {s : State} (q : Word)
    (h : ycpBad { kind := .command, body := b, buf := buf } = none) (ho : orphanUse s.chip < 256) (hs : commandServes s.chip = true) :
    ycpRunOp i q { kind := .command, body := b, buf := buf } s =
      settleCmds (onChip (acceptEntry (.ycp i q) { entry := BitVec.ofNat 512 (ofBytes b.rest), buf := buf }) s) := by
  unfold ycpRunOp
  simp only [h, Nat.not_le.mpr ho, if_false, hs, Bool.not_true, Bool.false_eq_true]

/-! ### The statement -/

/-- Settles O60: writes follow one another as their rules say, and a request heard in its turn runs its operation and then the held ones. -/
theorem eventWritesAndYcpRequestsComplete : Obligations.EventWritesAndYcpRequestsComplete := by
  unfold Obligations.EventWritesAndYcpRequestsComplete
  refine ⟨?evenThenSet, ?setThenClear, ?faultClear, ?requests⟩
  case evenThenSet =>
    intro s path p v h
    refine ⟨_, _, exec_pgEvenWrite v h, exec_pgEvsetWrite v (canWrite_afterEven v h), ?_⟩
    simp only [onChip_chip, ended_hdr, ended_rd, ended_evt]
    refine ⟨?even, ?causes, fun b hb32 hv hclear => ?vectors, rfl⟩
    case even => rw [rd_regs (evSet_regs ..), ended_rd, rd_evenWrite]
    case causes => rw [hdr_evSet, ended_hdr, hdr_evenWrite]
    case vectors =>
      have hpend := evSet_pends (p := p) (v := v) (ended path p 0x014 (evenWrite p v s.chip)) hb32 hv
        (by rw [ended_hdr, hdr_evenWrite]; exact hclear) (by rw [ended_rd, rd_evenWrite]; exact hv)
      rwa [Laws.PageEvents.vecOf_regs (ended_regs ..), vecOf_evenWrite] at hpend
  case setThenClear =>
    intro s path p v h
    refine ⟨_, _, exec_pgEvsetWrite v h, exec_pgEvtWrite v (canWrite_afterEvset v h), ?_⟩
    simp only [onChip_chip, ended_hdr, ended_regs]
    refine ⟨?causes, fun q hq => ?others, ?regs, rfl⟩
    case causes => rw [hdr_evtClear, ended_hdr, hdr_evSet]; exact or_andNot ..
    case others => rw [hdr_evtClear_ne _ _ hq, ended_hdr, hdr_evSet_ne _ _ hq]
    case regs => exact evSet_regs ..
  case faultClear =>
    intro s path p h hb
    refine ⟨_, exec_pgFltClear h, ?_⟩
    simp only [onChip_chip, ended_hdr]
    exact ⟨fltClear_code hb, rfl⟩
  case requests =>
    intro s t i g b v hq hheld
    refine ⟨fun h hbad hr => ?_, fun h hbad hv hw => ?_, fun h hbad => ?_, fun h hbad => ?_, fun buf h hbad ho hs => ?_⟩
    · exact congrArg Host.Outcome.next ((heard_runs h hq hheld).trans (by rw [ycpRunOp_read hbad hr]))
    · exact congrArg Host.Outcome.next ((heard_runs h hq hheld).trans (by rw [ycpRunOp_write hbad hv hw]))
    · exact congrArg Host.Outcome.next ((heard_runs h hq hheld).trans (by rw [ycpRunOp_readBlock _ _ hbad]))
    · exact congrArg Host.Outcome.next ((heard_runs h hq hheld).trans (by rw [ycpRunOp_writeBlock _ _ hbad]))
    · exact congrArg Host.Outcome.next ((heard_runs h hq hheld).trans (by rw [ycpRunOp_command _ hbad ho hs]))

end Sys2Proof.Proofs.RequestsComplete
end

section
/-!
The state after reset: its tables are empty, so that every page, register, axis and session reads its reset value; with the statement about it.
-/

namespace Sys2Proof.Proofs.ResetHolds

open Sys2Proof Sys2Proof.Machine

/-- After reset a page's header is at its defaults (R33, R42). -/
theorem hdr_reset (p : Page) : hdr State.reset.chip p = {} := rfl

/-- A register that nothing has written reads its reset value. -/
theorem rd_reset (p : Page) (off : Nat) : rd State.reset.chip p off = regReset (pageBase p + off) := rfl

theorem axis_reset (n : Nat) : axis State.reset.chip n = {} := rfl

theorem session_reset (i : Nat) : session State.reset.chip i = {} := rfl

/-- Settles O56, part by part. -/
theorem resetState : Obligations.ResetState := by
  unfold Obligations.ResetState
  refine ⟨by decide, rfl, fun p => ?_, rd_reset, fun n => ?_, fun i => ?_, rfl, rfl, rfl, rfl, rfl⟩
  · rw [hdr_reset]
    exact ⟨rfl, rfl, rfl, rfl, rfl⟩
  · rw [axis_reset]
  · rw [session_reset]

end Sys2Proof.Proofs.ResetHolds
end

section
/-!
The rings of the command engine (R53 to R55, R67): what a write of each register of the CMD page comes to; with the statement about doorbells
and ring resets.
-/

namespace Sys2Proof.Proofs.Rings

open Sys2Proof Sys2Proof.Machine Sys2Proof.Laws.RingRows

/-! ### Writes of the CMD page -/

/-- A write of a CMD register within its defined bits and legal values comes to what chapter 3 makes of it. -/
theorem regPage_cmd {s s1 : State} {path : Path} {off : Nat} {v : Word} {row : Reg} {ok : Bool} (h : CanWrite s path .cmd) (h1 : off < 0x800)
    (h2 : off % 4 = 0) (h3 : 0x040 ≤ off) (hr : findRow (pageRows .cmd) off = some (row, false)) (hp : row.pair = false) (ha : row.acc = .rw)
    (hm : v &&& row.mask = v) (hl : ∀ old, keepLegal old v row.legal = (v, false)) (hb : cmdWrite off v s = (s1, ok)) :
    regPage path .cmd off v s = onChip (if ok then taken path .cmd off else ended path .cmd off) s1 :=
  regPage_plain ok h h1 h2 h3 hr hp (by simp [ha]) (.inl (by simp [ha])) hm (by simpa [moreLegal] using hl _) rfl hb

/-- The registers of the four submission rings lie alike (Table 3-4). -/
theorem cmdWrite_tail (r : Fin 4) (v : Word) (s : State) : cmdWrite (sqOff r.val 0x10) v s =
    takeIf (fun c => sqState s.chip r.val == 1 && sqState c r.val == 1 && decide (v.toNat < sqSize s.chip r.val)) (sqDoorbell r.val v.toNat) s := by
  fin_cases r <;> rfl

theorem cmdWrite_ctl (r : Fin 4) (v : Word) (s : State) : cmdWrite (sqOff r.val 0x0C) v s =
    took (fun c => wr .cmd (sqOff r.val 0x0C) (v &&& 1) (if bit v 1 then sqResetRing r.val c else c)) s := by
  fin_cases r <;> rfl

theorem cmdWrite_size (r : Fin 4) (v : Word) (s : State) : cmdWrite (sqOff r.val 0x08) v s = took (sqSizeSet r.val v.toNat) s := by
  fin_cases r <;> rfl

theorem sqOff_bounds (r : Fin 4) {o : Nat} (ho : o < 0x20) : sqOff r.val o < 0x800 ∧ 0x040 ≤ sqOff r.val o ∧ sqOff r.val o % 4 = o % 4 := by
  unfold sqOff; omega

/-! ### The submission doorbell (R53) -/

theorem sqState_working {c : Chip} {r : Nat} : sqState c r = 1 ↔ sqEn c r = true ∧ (Machine.sq c r).halted = false := by
  unfold sqState
  cases sqEn c r <;> cases (Machine.sq c r).halted <;> simp

/-- The entries that a doorbell value announces. -/
def announced (c : Chip) (r t : Nat) : Nat := (t + sqSize c r - (Machine.sq c r).tail) % sqSize c r

/-- The free entries of a ring, one of its entries always kept empty. -/
def freeEntries (c : Chip) (r : Nat) : Nat := sqSize c r - 1 - ((Machine.sq c r).tail + sqSize c r - (Machine.sq c r).head) % sqSize c r

theorem sqDoorbell_fits {c : Chip} {r t : Nat} (hw : sqState c r = 1) (ht : t < sqSize c r) (hf : announced c r t ≤ freeEntries c r) :
    sqDoorbell r t c = setSq r { Machine.sq c r with tail := t } c := by
  unfold sqDoorbell
  rw [if_neg (by simp [hw]), if_neg (by omega)]
  exact if_neg (by unfold announced freeEntries at hf; omega)

/-- Ring `r`, so far as `x` says, is overrun by a doorbell value and halts (R53). -/
def overrun (x : Sq) (r t : Nat) (c : Chip) : Chip :=
  raise .cmd 10 (setSq r { x with halted := true, errKind := 2, errVal := t } (setSq r { x with halted := true } c))

theorem sqState_overrun (x : Sq) (r t : Nat) (c : Chip) : sqState (overrun x r t c) r ≠ 1 := by
  have hs : Machine.sq (overrun x r t c) r = { x with halted := true, errKind := 2, errVal := t } := by
    rw [overrun, Machine.sq, raise_cmd]
    exact sq_setSq _ _ _
  exact fun he => by simpa [hs] using (sqState_working.mp he).2

theorem sqDoorbell_overrun {c : Chip} {r t : Nat} (hw : sqState c r = 1) (ht : t < sqSize c r) (hf : ¬ announced c r t ≤ freeEntries c r) :
    sqDoorbell r t c = overrun (Machine.sq c r) r t c := by
  unfold sqDoorbell
  rw [if_neg (by simp [hw]), if_neg (by omega)]
  refine (if_pos (by unfold announced freeEntries at hf; omega)).trans ?_
  rw [refuseDb, sq_setSq, overrun]

theorem sqDoorbell_refused {c : Chip} {r t : Nat} (h : sqState c r ≠ 1 ∨ sqSize c r ≤ t) :
    sqDoorbell r t c = raise .cmd 9 (setSq r { Machine.sq c r with errKind := 1, errVal := t } c) := by
  unfold sqDoorbell
  by_cases hw : sqState c r ≠ 1
  · exact if_pos hw
  · rw [if_neg hw]
    exact if_pos (h.resolve_left hw)

/-- A doorbell that its ring accepts leaves the ring at work; any other is turned away. -/
theorem exec_sqTailDb {s : State} {path : Path} {r : Fin 4} {v : Word} {f : Chip → Chip} {ok : Bool} (h : CanWrite s path .cmd)
    (hv : v &&& 0xFFF = v) (hf : sqDoorbell r.val v.toNat s.chip = f s.chip)
    (hok : (sqState s.chip r.val == 1 && sqState (f s.chip) r.val == 1 && decide (v.toNat < sqSize s.chip r.val)) = ok) :
    exec (.sqTailDb path r v) s =
      .next (onChip (fun c => (if ok then taken path .cmd (sqOff r.val 0x10) else ended path .cmd (sqOff r.val 0x10)) (f c)) s) := by
  obtain ⟨row, hr, hp, ha, hm, hl⟩ := sqRow r
  obtain ⟨h1, h3, h2⟩ := sqOff_bounds r (o := 0x10) (by decide)
  refine congrArg Host.Outcome.next (regPage_cmd (s1 := onChip f s) h h1 h2 h3 hr hp ha (by rw [hm]; exact hv) (by simp [hl, keepLegal]) ?_)
  rw [cmdWrite_tail, takeIf, onChip_congr hf]
  exact congrArg _ hok

/-! ### The completion ring's doorbell (R54) -/

theorem updateFull_cmd_eq (c : Chip) : (updateFull c).cmd = { c.cmd with full := cqFull c } := by
  unfold updateFull raiseIf
  dsimp only
  split
  · rw [raise_cmd]
  · rfl

theorem postWaiting_cqHead (c : Chip) : (postWaiting c).cmd.cqHead = c.cmd.cqHead := by
  refine each_keeps (·.cmd.cqHead) _ (fun x c => ?_) _ _
  split
  · rfl
  · rw [postCq, raise_cmd]; rfl

/-- The completion ring's head after a doorbell that does not pass what was posted: the completions it frees, and those that waited written. -/
def headMoved (v : Nat) (c : Chip) : Chip :=
  updateFull ((if cqEn c && isUp c .cmd then postWaiting else id) { c with cmd := { c.cmd with
    cqHead := v, cqPosted := c.cmd.cqPosted - (v + cqSize c - c.cmd.cqHead) % cqSize c } })

theorem cqHeadWrite_moves {c : Chip} {v : Nat} (hv : v < cqSize c) (hne : c.cmd.cqHead ≠ v)
    (hd : (v + cqSize c - c.cmd.cqHead) % cqSize c ≤ c.cmd.cqPosted) : cqHeadWrite v c = headMoved v c := by
  unfold cqHeadWrite headMoved
  dsimp only
  rw [if_neg (by simp [hne]; omega), if_neg hne]
  split <;> rfl

theorem cqHeadWrite_outside {c : Chip} {v : Nat} (hv : cqSize c ≤ v) : cqHeadWrite v c = raise .cmd 12 c := if_pos (.inl hv)

theorem headMoved_cqHead (v : Nat) (c : Chip) : (headMoved v c).cmd.cqHead = v := by
  unfold headMoved
  rw [updateFull_cmd_eq]
  split
  · exact postWaiting_cqHead _
  · rfl

theorem exec_cqHeadDb {s : State} {path : Path} {v : Word} {f : Chip → Chip} {ok : Bool} (h : CanWrite s path .cmd) (hv : v &&& 0xFFF = v)
    (hf : cqHeadWrite v.toNat s.chip = f s.chip) (hok : decide ((f s.chip).cmd.cqHead = v.toNat) = ok) :
    exec (.cqHeadDb path v) s = .next (onChip (fun c => (if ok then taken path .cmd 0x0D0 else ended path .cmd 0x0D0) (f c)) s) := by
  refine congrArg Host.Outcome.next (regPage_cmd (s1 := onChip f s) h (by decide) (by decide) (by decide) rfl rfl rfl hv (fun _ => rfl) ?_)
  change takeIf (fun c => decide (c.cmd.cqHead = v.toNat)) (cqHeadWrite v.toNat) s = _
  rw [takeIf, onChip_congr hf]
  exact congrArg _ hok

/-! ### The reset of a ring (R53) -/

theorem exec_sqReset {s : State} {path : Path} {r : Fin 4} (h : CanWrite s path .cmd) :
    exec (.sqReset path r) s = .next (onChip (fun c => taken path .cmd (sqOff r.val 0x0C)
      (wr .cmd (sqOff r.val 0x0C) (if sqEn s.chip r.val then 1 else 0) (sqResetRing r.val c))) s) := by
  obtain ⟨row, hr, hp, ha, hm, hl⟩ := ctlRow r
  obtain ⟨h1, h3, h2⟩ := sqOff_bounds r (o := 0x0C) (by decide)
  change Host.Outcome.next (regPage path .cmd (sqOff r.val 0x0C) (w32 (flag (sqEn s.chip r.val) 0 + 2)) s) = _
  cases sqEn s.chip r.val
  all_goals exact congrArg Host.Outcome.next (regPage_cmd h h1 h2 h3 hr hp ha (by rw [hm]; decide) (by simp [hl, keepLegal]) (cmdWrite_ctl r _ s))

/-! ### The statement -/

/-- Settles O9: each clause is the write of a doorbell or of SQ_CTL, with what the ring makes of it. -/
theorem ringDoorbellsAndReset : Obligations.RingDoorbellsAndReset := by
  unfold Obligations.RingDoorbellsAndReset
  refine ⟨?tail, ?tailRefused, ?reset, ?head, ?headOutside⟩
  case tail =>
    intro s path r v h hv hen hhalt ht
    have hw : sqState s.chip r.val = 1 := sqState_working.mpr ⟨hen, hhalt⟩
    by_cases hfit : announced s.chip r.val v.toNat ≤ freeEntries s.chip r.val
    · have hworks : sqState (setSq r.val { Machine.sq s.chip r.val with tail := v.toNat } s.chip) r.val = 1 :=
        sqState_working.mpr ⟨hen, by rw [sq_setSq]; exact hhalt⟩
      refine (exec_sqTailDb (f := setSq r.val { Machine.sq s.chip r.val with tail := v.toNat }) (ok := true) h hv
        (sqDoorbell_fits hw ht hfit) (by simp [hw, hworks, ht])).trans ?_
      exact (congrArg (fun f => Host.Outcome.next (onChip f s)) (if_pos hfit)).symm
    · refine (exec_sqTailDb (f := overrun (Machine.sq s.chip r.val) r.val v.toNat) (ok := false) h hv (sqDoorbell_overrun hw ht hfit)
        (by simp [sqState_overrun])).trans ?_
      exact (congrArg (fun f => Host.Outcome.next (onChip f s)) (if_neg hfit)).symm
  case tailRefused =>
    intro s path r v h hv hno
    refine exec_sqTailDb (f := fun c => raise .cmd 9 (setSq r.val { Machine.sq s.chip r.val with errKind := 1, errVal := v.toNat } c)) (ok := false) h hv
      (sqDoorbell_refused hno) ?_
    rcases hno with hno | hno
    · simp [hno]
    · simp [Nat.not_lt.mpr hno]
  case reset =>
    intro s path r h
    exact exec_sqReset h
  case head =>
    intro s path v h hv hin hne hd
    exact exec_cqHeadDb (f := headMoved v.toNat) (ok := true) h hv (cqHeadWrite_moves hin hne hd) (by simp [headMoved_cqHead])
  case headOutside =>
    intro s path v h hv hout hne
    exact exec_cqHeadDb (f := raise .cmd 12) (ok := false) h hv (cqHeadWrite_outside hout) (by simp [hne])

end Sys2Proof.Proofs.Rings
end

section
/-!
Ring sizes and completions (R54, R55, R67) and the window of BAR 2 (R47); with the statement about them.
-/

namespace Sys2Proof.Proofs.RingSizes

open Sys2Proof Sys2Proof.Machine Sys2Proof.Laws.RingRows Sys2Proof.Proofs.Rings

/-! ### Sizes (R55) -/

theorem exec_sqSizeWrite {s : State} {path : Path} {r : Fin 4} {v : Word} (h : CanWrite s path .cmd) (hv : v &&& 0x1FFF = v)
    (h16 : 16 ≤ v.toNat) (h4096 : v.toNat ≤ 4096) :
    exec (.sqSizeWrite path r v) s = .next (onChip (fun c => taken path .cmd (sqOff r.val 0x08) (sqSizeSet r.val v.toNat c)) s) := by
  obtain ⟨row, hr, hp, ha, hm, hl⟩ := sizeRow r
  obtain ⟨h1, h3, h2⟩ := sqOff_bounds r (o := 0x08) (by decide)
  exact congrArg Host.Outcome.next (regPage_cmd h h1 h2 h3 hr hp ha (by rw [hm]; exact hv) (fun old => by rw [hl]; exact legalSize old v h16 h4096)
    (cmdWrite_size r v s))

theorem exec_cqSizeWrite {s : State} {path : Path} {v : Word} (h : CanWrite s path .cmd) (hv : v &&& 0x1FFF = v) (h16 : 16 ≤ v.toNat)
    (h4096 : v.toNat ≤ 4096) : exec (.cqSizeWrite path v) s = .next (onChip (fun c => taken path .cmd 0x0C8 (cqSizeSet v.toNat c)) s) :=
  congrArg Host.Outcome.next (regPage_cmd (s1 := onChip (cqSizeSet v.toNat) s) (ok := true) h (by decide) (by decide) (by decide) rfl rfl rfl hv
    (fun old => legalSize old v h16 h4096) rfl)

theorem sqSizeSet_word (r : Nat) (v : Word) (c : Chip) : sqSizeSet r v.toNat c =
    if sqEn c r then setSq r { Machine.sq c r with resize := some v.toNat } c
    else setSq r { Machine.sq c r with head := 0, tail := 0, resize := none } (wr .cmd (sqOff r 0x08) v c) := by
  rw [sqSizeSet, BitVec.ofNat_toNat, BitVec.setWidth_eq]

theorem cqSizeSet_word (v : Word) (c : Chip) : cqSizeSet v.toNat c =
    if cqEn c then { c with cmd := { c.cmd with cqResize := some v.toNat } }
    else updateFull { wr .cmd 0x0C8 v c with cmd := { c.cmd with cqResize := none, cqHead := 0, cqTail := 0, cqPhase := true, cqPosted := 0 } } := by
  rw [cqSizeSet, BitVec.ofNat_toNat, BitVec.setWidth_eq]
  rfl

theorem sqResizeApply_empty {c : Chip} {r n : Nat} (hn : (Machine.sq c r).resize = some n) (he : (Machine.sq c r).head = (Machine.sq c r).tail)
    (h0 : ringInFlight c r = 0) : sqResizeApply r c =
      setSq r { Machine.sq c r with head := 0, tail := 0, resize := none } (wr .cmd (sqOff r 0x08) (BitVec.ofNat 32 n) c) := by
  simp [sqResizeApply, hn, he, h0]

theorem cqResizeApply_empty {c : Chip} {n : Nat} (hn : c.cmd.cqResize = some n) (hp : c.cmd.cqPosted = 0) (h0 : cqReserved c = 0) :
    cqResizeApply c = updateFull { wr .cmd 0x0C8 (BitVec.ofNat 32 n) c with cmd :=
      { c.cmd with cqResize := none, cqHead := 0, cqTail := 0, cqPhase := true } } := by
  simp [cqResizeApply, hn, hp, h0]

/-- While the main die acts, a resize is applied to its ring. -/
theorem exec_ringResizeApply {s : State} (r : Option (Fin 4)) (hm : mainRuns s.chip = true) :
    exec (.ringResizeApply r) s = .next (onChip (match r with | some r => sqResizeApply r.val | none => cqResizeApply) s) := by
  refine next_onChip ?_
  rw [hm]
  cases r <;> rfl

/-! ### Completions (R54, R67) -/

/-- While its page is up, the completion ring enabled writes what waited and begins to post what is held. -/
theorem cqEnabled_up {c : Chip} (hu : isUp c .cmd = true) : cqEnabled c =
    updateFull { postWaiting c with cmd := { (postWaiting c).cmd with posting := decide ((postWaiting c).cmd.held ≠ []) } } := by
  unfold cqEnabled
  rw [if_pos hu]

theorem exec_cqEnable {s : State} {path : Path} (h : CanWrite s path .cmd) :
    exec (.cqEnable path) s = .next (onChip (fun c => taken path .cmd 0x0CC (cqEnabled (wr .cmd 0x0CC 1 c))) s) :=
  congrArg Host.Outcome.next (regPage_cmd (s1 := onChip (fun c => cqEnabled (wr .cmd 0x0CC 1 c)) s) (ok := true) h (by decide) (by decide)
    (by decide) rfl rfl rfl (by decide) (fun _ => rfl) rfl)

theorem postHeld_room {c : Chip} {x : Completion} {l : List Completion} (hu : isUp c .cmd = true) (hen : cqEn c = true)
    (hp : c.cmd.posting = true) (hh : c.cmd.held = x :: l) (hr : c.cmd.cqPosted < cqSize c) :
    postHeld c = (if l = [] then fun c => raise .cmd 15 { c with cmd := { c.cmd with posting := false } } else id)
      (updateFull (postCq x { c with cmd := { c.cmd with held := l } })) := by
  unfold postHeld
  simp only [hu, hen, hp, hh, Bool.and_self, Bool.not_true, Bool.false_eq_true, if_false, if_neg (Nat.not_le.mpr hr)]
  split <;> rfl

/-! ### BAR 2 (R47) -/

theorem exec_bar2Write (addr : BitVec 30) (x : Bar2Access) (s : State) : exec (.bar2Write addr x) s = .next (bar2 addr.toNat x s) := rfl

section
variable {s : State} (hf : fabricUp s.chip .pcie = true) (hl : s.chip.svcPcie = true)
include hf hl

theorem bar2_write (a : Nat) (bs : List (Option Byte)) : bar2 a (.write bs) s =
    if bar2Mapped s.chip a bs.length then bar2Bytes (bs.length / 16 + 2) a bs s else onChip (emit (.aer .unsupported)) s :=
  if_pos ⟨hf, hl⟩

theorem bar2_read_mapped {a n : Nat} (hm : bar2Mapped s.chip a n = true) : bar2 a (.read n) s =
    match bar2Read n a s with
    | (s1, some l) => onChip (emit (.bar2Read a (.data l))) s1
    | (s1, none) => onChip (fun c => emit (.bar2Read a .poisoned) (emit (.aer .poisoned) c)) s1 :=
  (if_pos ⟨hf, hl⟩).trans (if_pos hm)

theorem bar2_read_unmapped {a n : Nat} (hm : bar2Mapped s.chip a n = false) : bar2 a (.read n) s = onChip (emit (.bar2Read a .unsupported)) s :=
  (if_pos ⟨hf, hl⟩).trans (if_neg (by simp [hm]))

end

/-- The bytes of a write go word by word to the DRAM words that their offsets name. -/
theorem bar2Bytes_word {s : State} {k a d : Nat} {b : Option Byte} {t : List (Option Byte)} (hd : bar2Target s.chip a = some d) :
    bar2Bytes (k + 1) a (b :: t) s =
      bar2Bytes k (a + (16 - a % 16)) ((b :: t).drop (16 - a % 16)) (mergeInWord .dram d ((b :: t).take (16 - a % 16)) s) := by
  simp only [bar2Bytes, hd]

/-! ### The statement -/

/-- Settles O10: the sizes and CQ_CTL are writes of the CMD page, the resize and the held completions are events of the main die, and a BAR 2
access is split by whether its bytes are mapped. -/
theorem ringSizesCompletionsAndBar2 : Obligations.RingSizesCompletionsAndBar2 := by
  unfold Obligations.RingSizesCompletionsAndBar2
  refine ⟨?sqSize, ?cqSize, ?sqResize, ?cqResize, ?cqEnable, ?heldPost, ?barWrite, ?barWord, ?barRead, ?barPoisoned, ?barUnsupported⟩
  case sqSize =>
    intro s path r v h hv h16 h4096
    exact (exec_sqSizeWrite h hv h16 h4096).trans (next_onChip (congrArg _ (sqSizeSet_word r.val v s.chip)))
  case cqSize =>
    intro s path v h hv h16 h4096
    exact (exec_cqSizeWrite h hv h16 h4096).trans (next_onChip (congrArg _ (cqSizeSet_word v s.chip)))
  case sqResize =>
    intro s r n hm hn he h0
    exact (exec_ringResizeApply (some r) hm).trans (next_onChip (sqResizeApply_empty hn he h0))
  case cqResize =>
    intro s n hm hn hp h0
    exact (exec_ringResizeApply none hm).trans (next_onChip (cqResizeApply_empty hn hp h0))
  case cqEnable =>
    intro s path h hu
    exact (exec_cqEnable h).trans (next_onChip (congrArg _ (cqEnabled_up (c := wr .cmd 0x0CC 1 s.chip) hu)))
  case heldPost =>
    intro s x l hm hu hen hp hh hr
    exact run_live_as hm (postHeld_room hu hen hp hh hr)
  case barWrite =>
    intro s addr bs hf hl
    rw [exec_bar2Write, bar2_write hf hl]
  case barWord =>
    intro s k a d b t hd
    exact bar2Bytes_word hd
  case barRead =>
    intro s s1 addr n l hf hl hm hr
    rw [exec_bar2Write, bar2_read_mapped hf hl hm, hr]
  case barPoisoned =>
    intro s s1 addr n hf hl hm hr
    rw [exec_bar2Write, bar2_read_mapped hf hl hm, hr]
  case barUnsupported =>
    intro s addr n hf hl hm
    rw [exec_bar2Write, bar2_read_unmapped hf hl hm]

end Sys2Proof.Proofs.RingSizes
end

section
/-!
Commands of the rings that pass every check at their acceptance (R57 to R59, R64, R65): what the command engine does with them, and what those that
name no axis begin at once; with the two statements about them.
-/

namespace Sys2Proof.Proofs.RingCommands

open Sys2Proof Sys2Proof.Machine Sys2Proof.Laws.RingEntries Sys2Proof.Proofs.HeaderWrites

/-! ### Acceptance -/

/-- An admitted command that its row hands over is taken from its ring, and what waits is settled. -/
theorem next_ringCommand {h : Hdr} {op : HostOp} {s : State} (ha : Admits h op s) :
    (.next (ringCommand h op s) : Host.Outcome State Fault Refusal) = .next (settleCmds (onChip (ringTaken h op) s)) :=
  congrArg Host.Outcome.next (ringAccepts h op s ha)

/-- Settles O11: each row hands its command to the ring, whose acceptance is one rule for all of them. -/
theorem ringCommandsAreAccepted : Obligations.RingCommandsAreAccepted := by
  unfold Obligations.RingCommandsAreAccepted
  refine ⟨?moveAbs, ?moveRel, ?moveVel, ?stop, ?resume, ?home, ?enable, ?groupMove, ?hitchSet, ?hitchRelease⟩
  all_goals
    intros
    exact next_ringCommand ‹_›

/-! ### Commands without an axis (R64, R65) -/

/-- The operations whose axis set is empty by Table 3-7. -/
def namesNoAxis : HostOp → Bool
  | .regBatch .. | .camLoad .. | .camVerify .. | .fcoLoad .. | .traceStart | .traceStop | .faultClear .. | .saveTest => true
  | _ => false

theorem axisSet_namesNoAxis {op : HostOp} (hn : namesNoAxis op = true) (c : Chip) (x : InFlight) (hx : x.cmd.op = op) : axisSet c x = [] := by
  unfold axisSet
  rw [hx]
  cases op with
  | regBatch | camLoad | camVerify | fcoLoad | traceStart | traceStop | faultClear | saveTest => rfl
  | _ => cases hn

theorem zeroAxes_namesNoAxis {op : HostOp} (hn : namesNoAxis op = true) : settleOne.zeroAxes op = true := by
  cases op with
  | groupMove | hitchRelease => cases hn
  | _ => rfl

/-- With nothing in flight and no start time, such a command takes effect as it is accepted. -/
theorem next_ringCommand_now {h : Hdr} {op : HostOp} {s : State} (ha : Admits h op s) (hi : s.chip.cmd.inflight = [])
    (hf : bit h.flags 0 = false) (hn : namesNoAxis op = true) :
    (.next (ringCommand h op s) : Host.Outcome State Fault Refusal) = .next (takeEffect (ringEntry h op s.chip) (onChip (ringTaken h op) s)) :=
  congrArg Host.Outcome.next (ringNow h op s ha hi hf (axisSet_namesNoAxis hn) (zeroAxes_namesNoAxis hn) (by rintro a b rfl; cases hn))

/-- CAM_LOAD and CAM_VERIFY take effect in the cam engine (R171). -/
theorem takeEffect_camLoad {x : InFlight} {s : State} {first count : Word} (hx : x.cmd.op = .camLoad first count) :
    takeEffect x s = onChip (fun c => startCam x.id true first count 0 (markRunning x.id c)) s := by
  unfold takeEffect
  rw [hx]
  rfl

theorem takeEffect_camVerify {x : InFlight} {s : State} {first count crc : Word} (hx : x.cmd.op = .camVerify first count crc) :
    takeEffect x s = onChip (fun c => startCam x.id false first count crc (markRunning x.id c)) s := by
  unfold takeEffect
  rw [hx]
  rfl

/-- Settles O12: each of the commands takes effect at its acceptance, with its own start. -/
theorem immediateCommandsStart : Obligations.ImmediateCommandsStart := by
  unfold Obligations.ImmediateCommandsStart
  refine ⟨?regBatch, ?camLoad, ?camVerify, ?fcoLoad, ?traceStart, ?traceStop, ?faultClear, ?saveTest⟩
  case regBatch => intro s h list count cont ha hi hf; exact next_ringCommand_now ha hi hf rfl
  case camLoad =>
    intro s h first count ha hi hf
    exact (next_ringCommand_now ha hi hf rfl).trans (congrArg _ ((takeEffect_camLoad rfl).trans (onChip_onChip _ _ _)))
  case camVerify =>
    intro s h first count crc ha hi hf
    exact (next_ringCommand_now ha hi hf rfl).trans (congrArg _ ((takeEffect_camVerify rfl).trans (onChip_onChip _ _ _)))
  case fcoLoad => intro s h mask len ha hi hf; exact next_ringCommand_now ha hi hf rfl
  case traceStart => intro s h ha hi hf; exact next_ringCommand_now ha hi hf rfl
  case traceStop => intro s h ha hi hf; exact next_ringCommand_now ha hi hf rfl
  case faultClear => intro s h page ha hi hf; exact next_ringCommand_now ha hi hf rfl
  case saveTest => intro s h ha hi hf; exact next_ringCommand_now ha hi hf rfl

end Sys2Proof.Proofs.RingCommands
end

section
/-!
What the command engine, the cam engine, the core loads and SAVE_TEST do when the work that they handed out is done: fetches (R48, R56), the reads
and checks of cams (R159, R171), filter-core images (R361, R486) and the test of the save (R463); with the statement about them.
-/

namespace Sys2Proof.Proofs.RingWork

open Sys2Proof Sys2Proof.Machine

/-- Work whose end is heard only while the main die acts. -/
theorem next_live {s t : State} {f : State → State} (hm : mainRuns s.chip = true) (h : f s = t) :
    (.next (if mainRuns s.chip then f s else s) : Host.Outcome State Fault Refusal) = .next t := by
  rw [if_pos hm, h]

/-! ### Fetches (R48, R56) -/

theorem fetchCmds_ring {s : State} {r : Fin 4} (hr : fetchRing s.chip = some r) (es : List (Option Fetched)) :
    fetchCmds es s = eachS (es.take 4) (fetchEntry r) s := by
  simp only [fetchCmds, hr]

/-- A ring that may be fetched and holds an entry gives it up: a read error halts it, an entry read is accepted. -/
theorem fetchEntry_ready {s : State} {r : Fin 4} (hf : fetchable s.chip r.val = true)
    (hne : (Machine.sq s.chip r.val).head ≠ (Machine.sq s.chip r.val).tail) (f : Option Fetched) :
    fetchEntry r f s = match f with
      | none => onChip (fun c => emit (.aer .hostRead) (raise .cmd 11 (setSq r.val { Machine.sq c r.val with halted := true, errKind := 3 } c))) s
      | some e => settleCmds (onChip (fun c =>
          acceptEntry (.ring r (BitVec.ofNat 12 (Machine.sq c r.val).head)) e (advanceHead r.val c)) s) := by
  unfold fetchEntry
  dsimp only
  rw [if_neg (by simp [hf, hne])]
  cases f <;> rfl

/-! ### Cams (R159, R171) -/

/-- What a hitch keeps of its cam: the end node, the period and the rise over the first node. -/
def camKept (h i : Nat) (node : CamNode) (a : Option CamNode) (c : Chip) : Chip :=
  setHitch h { hitch c h with readDone := true, camEnd := i, camP := node.m, camR := node.s - (match a with | some a => a.s | none => 0) } c

theorem camRead_found {s t u : State} {h id i : Nat} {node : CamNode} {a : Option CamNode} (hr : (hitch s.chip h).reading = some id)
    (hd : (hitch s.chip h).readDone = false) (hs : scanCam (2 ^ 25) (decodeHit (hitch s.chip h).raw).first none s = (t, .ok (i, node)))
    (hn : readNode (decodeHit (hitch s.chip h).raw).first t = (u, a)) : camRead h s = onChip (camKept h i node a) u := by
  simp only [camRead, hr, hd, hs, hn, Bool.false_eq_true, if_false]
  rfl

theorem camRead_failed {s t : State} {h id : Nat} {e : Byte} (hr : (hitch s.chip h).reading = some id) (hd : (hitch s.chip h).readDone = false)
    (hs : scanCam (2 ^ 25) (decodeHit (hitch s.chip h).raw).first none s = (t, .error e)) :
    camRead h s = onChip (fun c => finish id stFailed e 0 (setHitch h { hitch c h with reading := none } c)) t := by
  simp only [camRead, hr, hd, hs, Bool.false_eq_true, if_false]

/-- Sound nodes leave nothing to count. -/
theorem badNodes_sound {l : List (BitVec 128)} (hl : ∀ w ∈ l, badNode (decodeNode w) = false) :
    ((l.map (fun w => badNode (decodeNode w))).filter (fun b => b)).length = 0 := by
  rw [List.length_eq_zero_iff, List.filter_eq_nil_iff]
  intro b hb
  obtain ⟨w, hw, rfl⟩ := List.mem_map.mp hb
  simp [hl w hw]

section
variable {s : State} (hu : isUp s.chip .cam = true) (hd : dramUp s.chip = true)
include hu hd

theorem loadDone_sound {l : List (BitVec 128)} {id first : Nat} {w : Word} (ha : s.chip.cam.active = some (id, true, first, l.length, w))
    (hl : ∀ w ∈ l, badNode (decodeNode w) = false) :
    loadDone (some l) s = onChip (fun c => raise .cam 8 (camEnd id stDone 0 ((crcFinal (l.foldl crcNode 0xFFFFFFFF)).setWidth 64)
      { c with cam := { c.cam with crc := crcFinal (l.foldl crcNode 0xFFFFFFFF), bad := 0, badNode := 0 } })) (writeNodes l first s) := by
  simp only [loadDone, ha, hu, hd, Bool.not_true, Bool.false_eq_true, if_false, Nat.lt_irrefl, List.take_length, badNodes_sound hl, if_true]

theorem verifyDone_read {t : State} {id first n r : Nat} {want : Word} (ha : s.chip.cam.active = some (id, false, first, n, want))
    (hr : readNodes n first 0xFFFFFFFF s = (t, some r)) : verifyDone s = onChip (fun c =>
      if crcFinal r = want then camEnd id stDone 0 ((crcFinal r).setWidth 64) { c with cam := { c.cam with crc := crcFinal r } }
      else raise .cam 9 (camEnd id stFailed 0x09 ((crcFinal r).setWidth 64) { c with cam := { c.cam with crc := crcFinal r } })) t := by
  simp only [verifyDone, ha, hu, hd, hr, Bool.not_true, Bool.false_eq_true, if_false]

end

/-! ### Filter-core images (R361, R486) -/

theorem imageChecked_allowed {c : Chip} {img : List Byte} {d g : Bool} {id mask : Nat} (ha : c.spl.fco.active = some (id, mask, img.length))
    (hi : c.spl.fco.image = none) (hc : c.spl.fco.cur = none) (hr : imgRules fcoMagic img = true) (hok : imgAllowed c img d g = true) :
    imageChecked (some img) d g c = fcoGo 0 (modFco (fun j => { j with image := some img }) c) := by
  simp [imageChecked, ha, hi, hc, hr, hok]

theorem imageLoaded_off {s : State} {k id mask len : Nat} {img : List Byte} (hc : s.chip.spl.fco.cur = some k)
    (ha : s.chip.spl.fco.active = some (id, mask, len)) (hi : s.chip.spl.fco.image = some img) (ho : (hdr s.chip (fcoPage k)).state = .off) :
    imageLoaded k s = onChip (fun c => fcoGo (k + 1) (modFco (fun j => { j with cur := none, spliced := j.spliced ||| (1 <<< k) })
      (logSplice (fcoPage k) 1 c))) (loadCore k img (onChip (ownerLapse (8 + k)) s)) := by
  simp only [imageLoaded, hc, ha, hi, ho, ne_eq, not_true, if_false, if_true]

/-! ### SAVE_TEST (R463) -/

theorem saveTestEnd_tooLong {env : SaveEnv} {ns id : Nat} {c : Chip} (ht : c.pwr.test = some id) (hb : 262144 < env.bytes) :
    saveTestEnd env ns c = finish id stFailed 0xCA 0 { c with pwr := { c.pwr with test := none } } := by
  simp only [saveTestEnd, ht, hb, if_true]
  rfl

/-- The registers of a test that has ended: generation and image size, the time of step 7, and the image size in KEP. -/
def testNoted (bytes ns : Nat) (c : Chip) : Chip :=
  wr .kep 0x054 (BitVec.ofNat 32 bytes) (wr .pwr 0x050 (BitVec.ofNat 32 (ns / 1000 % 65536))
    (wr .pwr 0x054 (BitVec.ofNat 32 (bytes + 2 ^ 24 * ((rdF c .pwr 0x054 31 24 + 1) % 256))) c))

/-- The TEST marker is written and the test is over. -/
def testMarked (c : Chip) : Chip := { c with keep := { c.keep with marker := some false }, pwr := { c.pwr with test := none } }

/-- The test with its command is over: DONE, with the image bytes and the time of step 7. -/
def testEnded (bytes ns id : Nat) (c : Chip) : Chip :=
  finish id stDone 0 (BitVec.ofNat 64 (bytes + 2 ^ 32 * (ns % 2 ^ 32))) (testNoted bytes ns (testMarked c))

theorem saveTestEnd_marks {env : SaveEnv} {ns id : Nat} {c : Chip} (ht : c.pwr.test = some id) (hb : env.bytes ≤ 262144) (hk : env.keepOk = true) :
    saveTestEnd env ns c = testEnded env.bytes ns id c := by
  simp only [saveTestEnd, ht, if_neg (Nat.not_lt.mpr hb), hk, Bool.not_true, Bool.false_eq_true, if_false]
  rfl

section
variable (bytes ns : Nat) (c : Chip)

theorem rd_testNoted_image : rd (testNoted bytes ns c) .kep 0x054 = BitVec.ofNat 32 bytes := rd_wr ..

theorem rd_testNoted_time : rd (testNoted bytes ns c) .pwr 0x050 = BitVec.ofNat 32 (ns / 1000 % 65536) := by
  rw [testNoted, rd_wr_ne _ _ _ _ _ _ (by decide), rd_wr]

theorem rd_testNoted_gen : rd (testNoted bytes ns c) .pwr 0x054 =
    BitVec.ofNat 32 (bytes + 2 ^ 24 * ((rdF c .pwr 0x054 31 24 + 1) % 256)) := by
  rw [testNoted, rd_wr_ne _ _ _ _ _ _ (by decide), rd_wr_ne _ _ _ _ _ _ (by decide), rd_wr]

end

/-- A word of a 24-bit size below an 8-bit generation gives both back. -/
theorem fld_sizeGen {b g : Nat} (hb : b < 2 ^ 24) (hg : g < 256) :
    fld (BitVec.ofNat 32 (b + 2 ^ 24 * g)) 31 24 = g ∧ fld (BitVec.ofNat 32 (b + 2 ^ 24 * g)) 23 0 = b := by
  simp only [fld, BitVec.toNat_ofNat, Nat.shiftRight_eq_div_pow]
  omega

theorem fld_micros {n : Nat} (hn : n < 65536) : fld (BitVec.ofNat 32 n) 15 0 = n := by
  simp only [fld, BitVec.toNat_ofNat, Nat.shiftRight_eq_div_pow]
  omega

/-! ### The statement -/

/-- Settles O13: each clause is the end of one kind of work, heard while the main die acts. -/
theorem fetchLoadsAndSaveTest : Obligations.FetchLoadsAndSaveTest := by
  unfold Obligations.FetchLoadsAndSaveTest
  refine ⟨?fetch, ?readError, ?entry, ?camFound, ?camFailed, ?load, ?verify, ?imageChecked, ?imageLoaded, ?testDone, ?testTooLong⟩
  case fetch =>
    intro s r es hr
    exact congrArg Host.Outcome.next (fetchCmds_ring hr es)
  case readError =>
    intro s r hf hne
    exact fetchEntry_ready hf hne none
  case entry =>
    intro s r e hf hne
    exact fetchEntry_ready hf hne (some e)
  case camFound =>
    intro s h id t u i node a hm hr hd hs hn
    exact next_live hm (camRead_found hr hd hs hn)
  case camFailed =>
    intro s h id t e hm hr hd hs
    exact next_live hm (camRead_failed hr hd hs)
  case load =>
    intro s l id first w hm ha hu hd hl
    exact next_live hm (loadDone_sound hu hd ha hl)
  case verify =>
    intro s t id first n want r hm ha hu hd hr
    exact next_live hm (verifyDone_read hu hd ha hr)
  case imageChecked =>
    intro s img d g id mask hm ha hi hc hr hok
    exact run_live_as hm (imageChecked_allowed ha hi hc hr hok)
  case imageLoaded =>
    intro s k id mask len img hm hc ha hi ho
    exact next_live hm (imageLoaded_off hc ha hi ho)
  case testDone =>
    intro s env ns id hm ht hb hk
    refine ⟨_, run_live_as (g := testEnded env.bytes ns id) hm (saveTestEnd_marks ht hb hk), ?_⟩
    obtain ⟨hgen, hsize⟩ := fld_sizeGen (b := env.bytes) (g := (rdF s.chip .pwr 0x054 31 24 + 1) % 256) (by omega) (Nat.mod_lt _ (by decide))
    simp only [onChip_chip, testEnded, finish_pwr, finish_keep, rdF, rd_regs (finish_regs _ _ _ _ _), rd_testNoted_gen, rd_testNoted_time]
    exact ⟨rfl, rfl, hgen, hsize, rd_testNoted_image .., fld_micros (Nat.mod_lt _ (by decide)), rfl⟩
  case testTooLong =>
    intro s env ns id hm ht hb
    exact run_live_as hm (saveTestEnd_tooLong ht hb)

end Sys2Proof.Proofs.RingWork
end

section
/-!
The links of the line ports (R92). The loss of a link stops the port's function, and its page goes back from RUN to READY (R33, Table 2-6); with the
statement about the switch and the line ports, which says that a page keeps its state there.
-/

namespace Sys2Proof.Proofs.LinePorts

open Sys2Proof Sys2Proof.Machine

/-- A lost link raises causes, and of the page headers changes nothing else. -/
theorem calm_linkDown (p : Nat) (remote : Bool) (c : Chip) : calm (linkDown p remote c) = calm c := by
  unfold linkDown
  rw [calm_withService, calm_raiseIf, calm_modPort]

theorem portLinkDown_state {p : Nat} {c : Chip} (remote : Bool) (h : (hdr c (netPage p)).state = .run) :
    (hdr (portLinkDown p remote c) (netPage p)).state = .ready := by
  have hrun : (hdr (linkDown p remote c) (netPage p)).state = .run := by
    rw [calm_hdr (calm_linkDown p remote c)]
    exact h
  unfold portLinkDown
  dsimp only
  rw [if_pos hrun, hdr_setState_state]

/-- The device after reset, but that the page of line port 0 runs with its link up. -/
def linkedPort : State :=
  onChip (fun c => setPort 0 { link := true } (setHdr (.net 0) { en := true, state := .run } c)) State.reset

/-- Refutes O15: the page of a port that runs leaves RUN for READY when the port's link is lost, where the statement keeps the state of every page. -/
theorem not_switchAndLinePorts : ¬ Obligations.SwitchAndLinePorts := by
  unfold Obligations.SwitchAndLinePorts
  rintro ⟨-, -, -, -, -, -, -, -, -, -, -, hdown, -⟩
  have hrun : (hdr linkedPort.chip (netPage 0)).state = .run := by decide
  obtain ⟨t, ht, -, -, -, -, hkeeps, -⟩ := hdown linkedPort 0 false (by decide) (by decide)
  have hlive : exec (.linkDown 0 false) linkedPort = .next (onChip (portLinkDown 0 false) linkedPort) := run_live (by decide)
  obtain rfl : onChip (portLinkDown 0 false) linkedPort = t := by
    rw [hlive] at ht
    injection ht
  have hready := portLinkDown_state false hrun
  have hkept := (hkeeps (netPage 0)).trans hrun
  rw [onChip_chip, hready] at hkept
  cases hkept

end Sys2Proof.Proofs.LinePorts
end

section
/-!
YCP sessions (R77 to R85): how they open, are kept alive, and close; with the statement about them.
-/

namespace Sys2Proof.Proofs.Sessions

open Sys2Proof Sys2Proof.Machine Sys2Proof.Laws.SessionOps

/-! ### OPEN (R78, R79) -/

/-- A well-formed OPEN of a closed session whose key slot holds a key. -/
theorem sesOpen_keyed {s : State} {i : Fin 4} {g : Dgram} {slot : Byte} {cn psk : BitVec 128} (dn : BitVec 128) (h : Arrives s 0x01 i false g)
    (hb : g.body = openBody slot 0 cn) (hc : (session s.chip i.val).state = .closed) (hs : slot.toNat < 4)
    (hk : tabGet none s.chip.sec.psk slot.toNat = some psk) :
    sesOpen i.val g slot 0 cn dn s.chip = openAck i.val (setSession i.val
      { state := .pending, keySlot := slot.toNat, clientNonce := cn, devNonce := dn, key := Config.hmac128 psk ([0x59, 0x43, 0x50, 0x31] ++ beBytes 16 cn.toNat ++ beBytes 16 dn.toNat ++ [BitVec.ofNat 8 i.val]), ip := g.ip.src, port := g.sport, exp := 1, lastAuth := s.chip.clk.now, lastError := (session s.chip i.val).lastError }
      (wr .ycp (sesOff i.val 0x14) 0 s.chip)) := by
  obtain ⟨-, hactive, htaken, hintact, hversion⟩ := h
  unfold sesOpen
  dsimp only
  rw [if_neg (by rw [hactive, htaken]; decide), if_neg (by simp [hintact, hb]), if_neg (not_not.mpr hversion), hc, if_pos hs, hk]

/-- The same OPEN where the slot is absent or empty. -/
theorem sesOpen_keyless {s : State} {i : Fin 4} {g : Dgram} {slot : Byte} {cn : BitVec 128} (dn : BitVec 128) (h : Arrives s 0x01 i false g)
    (hb : g.body = openBody slot 0 cn) (hc : (session s.chip i.val).state = .closed)
    (hk : 4 ≤ slot.toNat ∨ tabGet none s.chip.sec.psk slot.toNat = none) :
    sesOpen i.val g slot 0 cn dn s.chip = sesError i.val g 2 s.chip := by
  obtain ⟨-, hactive, htaken, hintact, hversion⟩ := h
  have hnone : (if slot.toNat < 4 then tabGet none s.chip.sec.psk slot.toNat else none) = none := by
    rcases hk with hk | hk
    · exact if_neg (by omega)
    · rw [hk, ite_self]
  unfold sesOpen
  dsimp only
  rw [if_neg (by rw [hactive, htaken]; decide), if_neg (by simp [hintact, hb]), if_neg (not_not.mpr hversion), hc, hnone]

theorem sesOpen_malformed {s : State} {i : Fin 4} {g : Dgram} {slot : Byte} {rsv : BitVec 24} {cn : BitVec 128} (dn : BitVec 128)
    (h : Arrives s 0x01 i false g) (hb : rsv ≠ 0 ∨ g.body ≠ openBody slot rsv cn) :
    sesOpen i.val g slot rsv cn dn s.chip = sesErr i.val 3 s.chip := by
  obtain ⟨-, hactive, htaken, -, -⟩ := h
  unfold sesOpen
  dsimp only
  rw [if_neg (by rw [hactive, htaken]; decide), if_pos]
  rcases hb with hb | hb
  · rw [bne_iff_ne.mpr hb, Bool.or_true, Bool.true_or]
  · simp [hb]

/-! ### Datagrams of an open session (R79) -/

/-- What fails its authentication is counted as AUTH, and is not handled. -/
theorem sesAccept_forged {s : State} {typ : Byte} {i : Fin 4} {g : Dgram} {pr : Protect} {plain : List Byte} (opens : Bool)
    (h : Arrives s typ i true g) (ho : (session s.chip i.val).state = .opened)
    (ha : authentic (session s.chip i.val) typ i.val pr plain g = false) :
    sesAccept i.val typ pr plain g opens s.chip = (sesErr i.val 0 s.chip, false) := by
  obtain ⟨-, hactive, htaken, hintact, hversion⟩ := h
  unfold sesAccept
  dsimp only
  rw [if_neg (by rw [hactive, htaken]; decide), if_neg (by simp [hintact]), if_neg (not_not.mpr hversion), ho]
  exact if_neg (by rw [ha]; decide)

theorem sesKeepalive_newer {s : State} {i : Fin 4} {g : Dgram} (h : Heard s 0x06 i .tagged [] g)
    (hn : (session s.chip i.val).alive.toNat < g.seq.toNat) :
    sesKeepalive i.val g s.chip =
      sendYcp i.val (session s.chip i.val).ip (session s.chip i.val).port .tagged 0x06 g.seq [] (.aliveEcho i.val g.seq)
        (setSession i.val { session s.chip i.val with alive := g.seq, lastAuth := s.chip.clk.now } s.chip) := by
  unfold sesKeepalive
  rw [accept _ _ _ _ _ _ true h]
  exact if_pos hn

theorem sesKeepalive_older {s : State} {i : Fin 4} {g : Dgram} (h : Heard s 0x06 i .tagged [] g)
    (hn : g.seq.toNat ≤ (session s.chip i.val).alive.toNat) : sesKeepalive i.val g s.chip = sesErr i.val 2 s.chip := by
  unfold sesKeepalive
  rw [accept _ _ _ _ _ _ true h]
  exact if_neg (Nat.not_lt.mpr hn)

/-- An event of a session whose datagram is heard happens while the main die acts. -/
theorem runs_of_heard {s : State} {typ : Byte} {i : Fin 4} {pr : Protect} {plain : List Byte} {g : Dgram} (h : Heard s typ i pr plain g) :
    mainRuns s.chip = true := by
  obtain ⟨⟨hm, -⟩, -⟩ := h
  exact hm

theorem runs_of_arrives {s : State} {typ : Byte} {i : Fin 4} {tagged : Bool} {g : Dgram} (h : Arrives s typ i tagged g) :
    mainRuns s.chip = true := by
  obtain ⟨hm, -⟩ := h
  exact hm

theorem sesKeepalive_forged {s : State} {i : Fin 4} {g : Dgram} (h : Arrives s 0x06 i true g) (ho : (session s.chip i.val).state = .opened)
    (ha : authentic (session s.chip i.val) 0x06 i.val .tagged [] g = false) : sesKeepalive i.val g s.chip = sesErr i.val 0 s.chip := by
  unfold sesKeepalive
  rw [sesAccept_forged true h ho ha]
  rfl

theorem sesClose_forged {s : State} {i : Fin 4} {g : Dgram} (h : Arrives s 0x07 i true g) (ho : (session s.chip i.val).state = .opened)
    (ha : authentic (session s.chip i.val) 0x07 i.val .tagged [] g = false) : sesClose i.val g s.chip = sesErr i.val 0 s.chip := by
  unfold sesClose
  rw [sesAccept_forged false h ho ha]
  rfl

theorem sesClose_heard {s : State} {i : Fin 4} {g : Dgram} (h : Heard s 0x07 i .tagged [] g) :
    sesClose i.val g s.chip = endSession i.val s.chip := by
  unfold sesClose
  rw [accept _ _ _ _ _ _ false h]
  rfl

/-! ### Registers of the YCP page -/

/-- The word 1 written to SES_CLOSE of an open session ends it. -/
theorem ycpWrite_sesClose {i : Fin 4} {c : Chip} (ho : (session c i.val).state = .opened) : ycpWrite (sesOff i.val 0x18) 1 c = endSession i.val c := by
  have hclose : ycpWrite (sesOff i.val 0x18) 1 c = sesCloseWrite i.val c := by fin_cases i <;> rfl
  rw [hclose, sesCloseWrite, if_pos ho]

theorem regPage_sesClose {s : State} {path : Path} {i : Fin 4} (h : CanWrite s path .ycp) (ho : (session s.chip i.val).state = .opened) :
    regPage path .ycp (sesOff i.val 0x18) 1 s = onChip (fun c => taken path .ycp (sesOff i.val 0x18) (endSession i.val c)) s := by
  obtain ⟨row, hr, hp, ha, hm, hl⟩ := sesRow i
  have hoff : sesOff i.val 0x18 < 0x800 ∧ sesOff i.val 0x18 % 4 = 0 ∧ 0x040 ≤ sesOff i.val 0x18 := by unfold sesOff; omega
  obtain ⟨h1, h2, h3⟩ := hoff
  refine regPage_plain (s1 := onChip (endSession i.val) s) true h h1 h2 h3 hr hp (by simp [ha]) (.inl (by simp [ha])) (by rw [hm]; decide) ?_ rfl ?_
  · rw [hl]; rfl
  · exact congrArg (·, true) (onChip_congr (ycpWrite_sesClose ho))

/-- The read of YCP_ORPHAN (R83). -/
theorem regRead_orphan {s : State} {path : Path} {tag st : Byte} {t : List (Byte × Byte)} (h : fabricUp s.chip path = true)
    (ho : s.chip.ycp.orphans = (tag, st) :: t) :
    regRead path (pageBase .ycp + 0x058) s = onChip (fun c => answered path .ycp 0x058 (BitVec.ofNat 32 (tag.toNat + st.toNat * 256))
      { c with ycp := { c.ycp with orphans := t } }) s := by
  have hpop : pageRead path .ycp 0x058 s.chip =
      ({ s.chip with ycp := { s.chip.ycp with orphans := t } }, BitVec.ofNat 32 (tag.toNat + st.toNat * 256)) := by
    change orphanPop s.chip = _
    rw [orphanPop, ho]
  rw [regRead_page s path .ycp 0x058 h (by decide) (by decide), hpop]
  rfl

/-! ### The statement -/

/-- Settles O16: each clause is one event of a session, with what the checks that its datagram passes or fails make of it. -/
theorem sessionsOpenLiveAndClose : Obligations.SessionsOpenLiveAndClose := by
  unfold Obligations.SessionsOpenLiveAndClose
  refine ⟨?opens, ?noKey, ?malformed, ?newer, ?older, ?forged, ?closed, ?pendingTimeout, ?timeout, ?written, ?ending, ?orphan⟩
  case opens =>
    intro s i g slot cn dn psk h hb hc hs hk
    exact run_live_as (runs_of_arrives h) (sesOpen_keyed dn h hb hc hs hk)
  case noKey =>
    intro s i g slot cn dn h hb hc hk
    exact run_live_as (runs_of_arrives h) (sesOpen_keyless dn h hb hc hk)
  case malformed =>
    intro s i g slot rsv cn dn h hb
    exact run_live_as (runs_of_arrives h) (sesOpen_malformed dn h hb)
  case newer =>
    intro s i g h hn
    exact run_live_as (runs_of_heard h) (sesKeepalive_newer h hn)
  case older =>
    intro s i g h hn
    exact run_live_as (runs_of_heard h) (sesKeepalive_older h hn)
  case forged =>
    intro s i g ho
    exact ⟨fun h ha => run_live_as (runs_of_arrives h) (sesKeepalive_forged h ho ha),
      fun h ha => run_live_as (runs_of_arrives h) (sesClose_forged h ho ha)⟩
  case closed =>
    intro s i g h
    exact run_live_as (runs_of_heard h) (sesClose_heard h)
  case pendingTimeout =>
    intro s i hm hp hdue
    exact run_live_as hm (if_pos ⟨hp, hdue⟩)
  case timeout =>
    intro s i hm ho hdue
    exact run_live_as hm (if_pos ⟨ho, hdue⟩)
  case written =>
    intro s path i h ho
    exact congrArg Host.Outcome.next (regPage_sesClose h ho)
  case ending =>
    intro c i
    rfl
  case orphan =>
    intro s path tag st t h ho
    exact congrArg Host.Outcome.next (regRead_orphan h ho)

end Sys2Proof.Proofs.Sessions
end

section
/-!
YCP requests by their sequence numbers (R80, R81) and the operations they carry (R82, R83); with the statement about them.
-/

namespace Sys2Proof.Proofs.RequestsInOrder

open Sys2Proof Sys2Proof.Machine Sys2Proof.Laws.SessionOps Sys2Proof.Proofs.Sessions Sys2Proof.Proofs.RequestsComplete

/-! ### A request out of its turn (R80) -/

/-- The session has heard an authentic datagram now (R79). -/
def noteHeard (i : Fin 4) (c : Chip) : Chip := setSession i.val { session c i.val with lastAuth := c.clk.now } c

/-- The session has heard a request and holds it, behind the ones it held before. -/
def holdRequest (i : Fin 4) (q : Word) (op : YcpOp) (c : Chip) : Chip :=
  setSession i.val { session c i.val with lastAuth := c.clk.now, held := (session c i.val).held ++ [(q, op)] } c

/-- Of two settings of a session the second alone counts. -/
theorem setSession_setSession {i : Nat} {x : Session} (y : Session) (hx : x ≠ {}) (c : Chip) : setSession i y (setSession i x c) = setSession i y c := by
  unfold setSession
  dsimp only
  rw [tabSet_tabSet _ _ _ _ _ hx]

/-- Nothing is drained while no held request has the expected number. -/
theorem ycpDrain_gap {i : Fin 4} (n : Nat) {s : State} (h : ∀ y ∈ (session s.chip i.val).held, y.1 ≠ (session s.chip i.val).exp) :
    ycpDrain i n s = s := by
  cases n with
  | zero => rfl
  | succ n =>
    have hnone : (session s.chip i.val).held.find? (fun y => y.1 == (session s.chip i.val).exp) = none :=
      List.find?_eq_none.mpr (by simpa using h)
    unfold ycpDrain
    dsimp only
    rw [hnone]

section
variable {s : State} {i : Fin 4} {g : Dgram} {op : YcpOp} (h : Heard s 0x03 i .sealed (ycpPlain op) g)
include h

/-- The session's state OPEN tells it from an absent one. -/
theorem heard_ne_default {x : Session} (hx : x.state = (session s.chip i.val).state) : x ≠ {} := by
  obtain ⟨-, ho, -⟩ := h
  rintro rfl
  rw [ho] at hx
  cases hx

theorem ycpRequest_held (hgt : (session s.chip i.val).exp.toNat < g.seq.toNat) (hnear : g.seq.toNat < (session s.chip i.val).exp.toNat + 16)
    (hheld : ∀ y ∈ (session s.chip i.val).held, y.1 ≠ g.seq ∧ y.1 ≠ (session s.chip i.val).exp) :
    ycpRequest i g op s = onChip (holdRequest i g.seq op) s := by
  have hnew : (session s.chip i.val).held.any (fun y => y.1 == g.seq) = false := by
    simpa using fun q r hy => (hheld (q, r) hy).1
  have hchip : setSession i.val { session s.chip i.val with lastAuth := s.chip.clk.now, held := (session s.chip i.val).held ++ [(g.seq, op)] }
      (noteHeard i s.chip) = holdRequest i g.seq op s.chip :=
    setSession_setSession _ (heard_ne_default (x := { session s.chip i.val with lastAuth := s.chip.clk.now }) h rfl) _
  have hgap : ∀ y ∈ (session (holdRequest i g.seq op s.chip) i.val).held, y.1 ≠ (session (holdRequest i g.seq op s.chip) i.val).exp := by
    rw [holdRequest, session_setSession]
    intro y hy
    rcases List.mem_append.mp hy with hy | hy
    · exact (hheld y hy).2
    · rw [List.mem_singleton.mp hy]
      exact fun he => absurd (congrArg BitVec.toNat he) (by dsimp only; omega)
  unfold ycpRequest
  rw [accept s 0x03 i .sealed (ycpPlain op) g true h]
  dsimp only
  rw [if_neg (by simp), if_neg (by omega), if_pos (by omega), if_neg (by simp [hnew])]
  refine (congrArg (ycpDrain i 16) ?_).trans (ycpDrain_gap 16 hgap)
  exact congrArg (fun c => ({ s with chip := c } : State)) hchip

theorem ycpRequest_ahead (hfar : (session s.chip i.val).exp.toNat + 16 ≤ g.seq.toNat) :
    ycpRequest i g op s = onChip (fun c => sesErr i.val 1 (noteHeard i c)) s := by
  unfold ycpRequest
  rw [accept s 0x03 i .sealed (ycpPlain op) g true h]
  dsimp only
  rw [if_neg (by simp), if_pos (by omega)]
  rfl

theorem ycpRequest_stale (hold : g.seq.toNat + 64 < (session s.chip i.val).exp.toNat) :
    ycpRequest i g op s = onChip (fun c => sesErr i.val 2 (noteHeard i c)) s := by
  unfold ycpRequest
  rw [accept s 0x03 i .sealed (ycpPlain op) g true h]
  dsimp only
  rw [if_neg (by simp), if_neg (by omega), if_neg (by omega), if_pos (by omega)]
  rfl

theorem ycpRequest_answered {y : YcpResp} (hlt : g.seq.toNat < (session s.chip i.val).exp.toNat)
    (hnear : (session s.chip i.val).exp.toNat ≤ g.seq.toNat + 64) (hy : (session s.chip i.val).cache.find? (fun y => y.seq == g.seq) = some y) :
    ycpRequest i g op s = onChip (fun c => sendResp i.val y (noteHeard i c)) s := by
  unfold ycpRequest
  rw [accept s 0x03 i .sealed (ycpPlain op) g true h]
  dsimp only
  rw [if_neg (by simp), if_neg (by omega), if_neg (by omega), if_neg (by omega), hy]
  rfl

end

/-- Each of the five commands is the request of its operation. -/
theorem exec_request {s : State} {i : Fin 4} {g : Dgram} {b : YcpBody} {buf : Option (List DWord)} {x : Instr} {op : YcpOp}
    (hx : (x, op) ∈ ycpRequests i g b buf) (hm : mainRuns s.chip = true) : exec x s = .next (ycpRequest i g op s) := by
  simp only [ycpRequests, List.mem_cons, List.not_mem_nil, or_false, Prod.mk.injEq] at hx
  obtain ⟨rfl, rfl⟩ | ⟨rfl, rfl⟩ | ⟨rfl, rfl⟩ | ⟨rfl, rfl⟩ | ⟨rfl, rfl⟩ := hx
  all_goals exact congrArg Host.Outcome.next (if_pos hm)

/-! ### The checks on a body (R82) -/

/-- A body that fails a check is answered with the check's status, without an access. -/
theorem ycpRunOp_bad {op : YcpOp} {e : Byte} (i : Fin 4) (q : Word) (s : State) (h : ycpBad op = some e) :
    ycpRunOp i q op s = ycpAnswer i.val q e 0 0 (if op.kind = .command then 0 else op.body.addr) [] s := by
  unfold ycpRunOp
  rw [h]

theorem ycpBad_length {op : YcpOp} (h : ycpLenOk op = false) : ycpBad op = some 0x12 := by
  rw [ycpBad, h]
  rfl

theorem ycpBad_width {op : YcpOp} (h : ycpLenOk op = true) (hs : op.body.size ≠ 4) : ycpBad op = some 0x11 := by
  rw [ycpBad, h, if_neg (by simp), if_pos hs]

theorem ycpBad_address {op : YcpOp} (h : ycpLenOk op = true) (hs : op.body.size = 4) (hk : op.kind ≠ .command)
    (ha : op.body.addr.toNat % 4 ≠ 0) : ycpBad op = some 0x10 := by
  rw [ycpBad, h, if_neg (by simp), if_neg (not_not.mpr hs), if_pos ⟨hk, ha⟩]

/-! ### A block, word by word (R82) -/

theorem ycpReadWords_read {i : Fin 4} {off : Nat} {v : Word} {s t : State} (q : Word) (n : Nat) (acc : List Word)
    (h : ycpReadOne i off s = (t, .ok v)) : ycpReadWords i q (n + 1) off acc s = ycpReadWords i q n (off + 4) (v :: acc) t := by
  rw [ycpReadWords, h]

theorem ycpReadWords_refused {i : Fin 4} {off : Nat} {st d : Byte} {s t : State} (q : Word) (n : Nat) (acc : List Word)
    (h : ycpReadOne i off s = (t, .error (st, d))) :
    ycpReadWords i q (n + 1) off acc s = ycpAnswer i.val q st d acc.length (BitVec.ofNat 32 off) acc.reverse t := by
  rw [ycpReadWords, h]

theorem ycpWriteWords_written {i : Fin 4} {off : Nat} {v : Word} {s t : State} (q : Word) (n : Nat) (l : List Word)
    (h : ycpWriteOne i off v s = (t, none)) : ycpWriteWords i q (v :: l) off n s = ycpWriteWords i q l (off + 4) (n + 1) t := by
  rw [ycpWriteWords, h]

theorem ycpWriteWords_refused {i : Fin 4} {off : Nat} {v : Word} {st d : Byte} {s t : State} (q : Word) (n : Nat) (l : List Word)
    (h : ycpWriteOne i off v s = (t, some (st, d))) :
    ycpWriteWords i q (v :: l) off n s = ycpAnswer i.val q st d n (BitVec.ofNat 32 off) [] t := by
  rw [ycpWriteWords, h]

/-! ### A command that is turned away (R83) -/

theorem ycpRunOp_noOrphan {b : YcpBody} {buf : Option (List DWord)} {s : State} (i : Fin 4) (q : Word)
    (h : ycpBad { kind := .command, body := b, buf := buf } = none) (ho : 256 ≤ orphanUse s.chip) :
    ycpRunOp i q { kind := .command, body := b, buf := buf } s = ycpAnswer i.val q 0x13 0 0 0 [] s := by
  unfold ycpRunOp
  simp only [h, ho, if_true]

theorem ycpRunOp_notServed {b : YcpBody} {buf : Option (List DWord)} {s : State} (i : Fin 4) (q : Word)
    (h : ycpBad { kind := .command, body := b, buf := buf } = none) (ho : orphanUse s.chip < 256) (hs : commandServes s.chip = false) :
    ycpRunOp i q { kind := .command, body := b, buf := buf } s = ycpAnswer i.val q stRejected 0x06 0 0 [] s := by
  unfold ycpRunOp
  simp only [h, Nat.not_le.mpr ho, hs, Bool.not_false, if_true, if_false]

/-! ### The statement -/

/-- Settles O17: a request by its place in the session's window, then its operation by the checks on its body. -/
theorem ycpRequestsRunInOrder : Obligations.YcpRequestsRunInOrder := by
  unfold Obligations.YcpRequestsRunInOrder
  refine ⟨?inTurn, ?outOfTurn, ?operations, ?words, ?badBody, ?commands⟩
  case inTurn =>
    intro s i g b hq hheld
    exact ⟨fun h => congrArg Host.Outcome.next (heard_runs h hq hheld), fun h => congrArg Host.Outcome.next (heard_runs h hq hheld),
      fun h => congrArg Host.Outcome.next (heard_runs h hq hheld), fun h => congrArg Host.Outcome.next (heard_runs h hq hheld),
      fun _ h => congrArg Host.Outcome.next (heard_runs h hq hheld)⟩
  case outOfTurn =>
    intro s i g b buf x op hx h
    rw [exec_request hx (runs_of_heard h)]
    exact ⟨fun hgt hnear hheld => congrArg Host.Outcome.next (ycpRequest_held h hgt hnear hheld),
      fun hfar => congrArg Host.Outcome.next (ycpRequest_ahead h hfar),
      fun hold => congrArg Host.Outcome.next (ycpRequest_stale h hold),
      fun y hlt hnear hy => congrArg Host.Outcome.next (ycpRequest_answered h hlt hnear hy)⟩
  case operations =>
    intro s i q v b
    exact ⟨fun h t hr => ycpRunOp_read h hr, fun h hv t hw => ycpRunOp_write h hv hw, ycpRunOp_readBlock q s, ycpRunOp_writeBlock q s⟩
  case words =>
    intro s t i q v n off acc l st d
    exact ⟨rfl, ycpReadWords_read q n acc, ycpReadWords_refused q n acc, rfl, ycpWriteWords_written q n l, ycpWriteWords_refused q n l⟩
  case badBody =>
    intro s i q op
    refine ⟨fun h => ycpRunOp_bad i q s (ycpBad_length h), fun h hs => ycpRunOp_bad i q s (ycpBad_width h hs), fun h hs hk ha => ?_⟩
    rw [ycpRunOp_bad i q s (ycpBad_address h hs hk ha), if_neg hk]
  case commands =>
    intro s i q b buf h
    exact ⟨ycpRunOp_noOrphan i q h, ycpRunOp_notServed i q h, ycpRunOp_command q h⟩

end Sys2Proof.Proofs.RequestsInOrder
end

section
/-!
Hitch frames (R86 to R90): what a subscription makes of a received frame or of one that does not come, and what the publisher sends; with the
statement about them.
-/

namespace Sys2Proof.Proofs.HitchFrames

open Sys2Proof Sys2Proof.Machine

/-! ### Publishing (R86, R87) -/

/-- The frame that the publisher sends of the sample it took. -/
def published (c : Chip) (st : Stamp) (es : List HitchEntry) : HitchFrame :=
  { ndiv := Fin.ofNat 17 (fld c.hfr.ctl 7 4 + 1)
    locked := timeLocked c
    restart := c.hfr.restart
    step := c.hfr.stepFlag
    pubId := BitVec.ofNat 16 (rdF c .hfr 0x044 15 0)
    epoch := c.hfr.epoch
    seq := c.hfr.pubSeq
    sample := st
    entries := es }

/-- The Ethernet frame that carries it. -/
def publishedEth (c : Chip) (st : Stamp) (es : List HitchEntry) : EthFrame :=
  { dst := BitVec.ofNat 48 (rdF c .hfr 0x050 15 0 * 2 ^ 32 + (rd c .hfr 0x04C).toNat)
    src := ownMac c
    etype := BitVec.ofNat 16 (rdF c .swt 0x044 15 0)
    pcp := some (Fin.ofNat 8 (fld c.hfr.ctl 18 16))
    len := max 64 (46 + 12 * es.length)
    data := hitchPayload (published c st es) }

theorem hitchPublish_due {c : Chip} {t0 : Nat} {st : Stamp} {es : List HitchEntry} (hs : c.hfr.sampled = some (t0, st, es))
    (hdue : t0 + 1000 ≤ c.clk.now) (hup : isUp c .hfr = true) :
    hitchPublish c = (if isUp c .swt then switchIn 4 (publishedEth c st es) true else id) (emit (.hitchFrame (published c st es))
      { c with hfr := { c.hfr with sampled := none, pubSeq := c.hfr.pubSeq + 1, restart := false, stepFlag := false } }) := by
  unfold hitchPublish
  rw [hs]
  dsimp only
  rw [if_neg (by simp [hup, hdue])]
  split <;> rfl

/-! ### A frame at a subscription (R89) -/

/-- A frame of the publisher that a subscription follows, from a locked device and on the subscriber's knot grid, goes by its epoch, sequence number
and arrival. -/
structure Fits (c : Chip) (j : Nat) (f : HitchFrame) : Prop where
  enabled : subEn c j = true
  publisher : fld (subCtl c j) 15 0 = f.pubId.toNat
  locked : f.locked = true
  onGrid : ((stampNs f.sample : Int) - actF c .knt 0x044 29 0) % (periodNs c : Int) = 0

section
variable {c : Chip} {j : Nat} {f : HitchFrame} {at16 : Int} (h : Fits c j f)
include h

/-- The two guards that every frame passes. -/
theorem Fits.guards : (!subEn c j || BitVec.ofNat 16 (fld (subCtl c j) 15 0) != f.pubId) = false ∧
    (!f.locked || !(((stampNs f.sample : Int) - actF c .knt 0x044 29 0) % (periodNs c : Int) == 0)) = false := by
  obtain ⟨hen, hid, hlock, hgrid⟩ := h
  simp [hen, hid, hlock, hgrid]

theorem subRx_first (hlate : subLate c (stampNs f.sample) at16 = false) (hnew : (sub c j).adopted = false) :
    subRx j f at16 c = subUse j f true c := by
  obtain ⟨h1, h2⟩ := h.guards
  unfold subRx
  dsimp only
  rw [h1, if_neg Bool.false_ne_true, h2, if_neg Bool.false_ne_true, hnew, hlate]
  rfl

/-- A frame of the adopted epoch: an old number is counted, a late frame serves the next estimate, any other is taken. -/
theorem subRx_sameEpoch (hold : (sub c j).adopted = true) (he : f.epoch = (sub c j).epoch) :
    subRx j f at16 c = if f.seq.toNat ≤ (sub c j).seq.toNat then subCount j 2 c
      else if subLate c (stampNs f.sample) at16 then raise .hfr 10 (subCount j 1 (setSub j (takeSample f false (sub c j)) c))
      else subUse j f false c := by
  obtain ⟨h1, h2⟩ := h.guards
  unfold subRx
  dsimp only
  rw [h1, if_neg Bool.false_ne_true, h2, if_neg Bool.false_ne_true, hold, if_neg (by simp), if_pos he]

end

theorem subLate_early {c : Chip} {t : Nat} {at16 : Int} (h : at16 < (subDeadline c t * 16 : Int)) : subLate c t at16 = false :=
  decide_eq_false (Int.not_le.mpr h)

theorem subLate_late {c : Chip} {t : Nat} {at16 : Int} (h : (subDeadline c t * 16 : Int) ≤ at16) : subLate c t at16 = true :=
  decide_eq_true h

/-! ### A frame that does not come (R89, R90) -/

/-- The subscription after another missed period: the state it takes, and one miss more. -/
def missed (j : Nat) (st : SubState) (c : Chip) : Sub :=
  { sub c j with
    misses := min 15 ((sub c j).misses + 1)
    period := (sub c j).period + (sub c j).ndiv * c.tim.lenNs
    state := st }

section
variable {c : Chip} {j : Nat} (hen : subEn c j = true) (had : (sub c j).adopted = true)
  (hdue : subDeadline c ((sub c j).period + (sub c j).ndiv * c.tim.lenNs) ≤ timeNs c)
include hen had hdue

theorem subMiss_below (hm : min 15 ((sub c j).misses + 1) < fld (subCtl c j) 19 16) : subMiss j c = setSub j (missed j .estimating c) c := by
  unfold subMiss
  dsimp only
  rw [if_neg (by simp [hen, had, hdue]), decide_eq_false (Nat.not_le.mpr hm)]
  rfl

theorem subMiss_limit (hm : fld (subCtl c j) 19 16 ≤ min 15 ((sub c j).misses + 1)) (hl : (sub c j).state ≠ .lost) :
    subMiss j c = each (subHitches (setSub j (missed j .lost c) c) j) (fun h c => hitchFault h 0x22 c)
      (raise .hfr 9 (subCount j 0 (setSub j (missed j .lost c) c))) := by
  unfold subMiss
  dsimp only
  rw [if_neg (by simp [hen, had, hdue]), decide_eq_true hm]
  exact if_pos (by simpa using hl)

end

/-! ### The statement -/

/-- What an event of the main die does to the chip, with the blocks that waited for it then computed (log entry 178). -/
theorem next_heldDue {f g : Chip → Chip} {s : State} (hm : mainRuns s.chip = true) (h : f s.chip = g s.chip) :
    (.next (heldDue (onChip (whileRuns f) s)) : Host.Outcome State Fault Refusal) = .next (heldDue (onChip g s)) := by
  rw [onChip_congr ((whileRuns_live hm).trans h)]

/-- Settles O18: the publisher's frame, then a subscription's frame by its arrival and epoch, then a missed period by the limit. -/
theorem hitchFramesPublishAndSubscribe : Obligations.HitchFramesPublishAndSubscribe := by
  unfold Obligations.HitchFramesPublishAndSubscribe
  refine ⟨?publish, ?receive, ?stamped, ?unstamped, ?inTime, ?late, ?miss, ?lost⟩
  case publish =>
    intro s t0 st es hm hs hdue hup
    exact ⟨_, published s.chip st es, publishedEth s.chip st es, run_live_as hm (hitchPublish_due hs hdue hup),
      rfl, rfl, rfl, rfl, rfl, rfl, rfl, rfl, rfl, rfl⟩
  case receive =>
    intro s port rx f hm
    exact next_heldDue hm rfl
  case stamped =>
    intro c port rx h
    exact if_pos h
  case unstamped =>
    intro c port rx h
    exact if_neg (by simp [h])
  case inTime =>
    intro c j f at16 hen hid hlock hgrid harr
    have hfits : Fits c j f := ⟨hen, hid, hlock, hgrid⟩
    have hearly := subLate_early harr
    refine ⟨fun hold he => ?_, fun hnew => subRx_first hfits hearly hnew⟩
    rw [subRx_sameEpoch hfits hold he, hearly]
    rfl
  case late =>
    intro c j f at16 hen hid hlock hgrid harr hold he hseq
    rw [subRx_sameEpoch ⟨hen, hid, hlock, hgrid⟩ hold he, if_neg (Nat.not_le.mpr hseq), if_pos (subLate_late harr)]
  case miss =>
    intro s j hm hen had hdue hlim
    exact next_heldDue hm (subMiss_below hen had hdue hlim)
  case lost =>
    intro s j hm hen had hdue hlim hl
    exact ⟨_, rfl, next_heldDue hm (subMiss_limit hen had hdue hlim hl)⟩

end Sys2Proof.Proofs.HitchFrames
end

section
/-!
Precision time messages (R107 to R110): what a port makes of a received one, and which ones it sends when they are due; with the statement about them.
-/

namespace Sys2Proof.Proofs.PrecisionTime

open Sys2Proof Sys2Proof.Machine

/-! ### Ordinary and transparent clocks (R110) -/

theorem ptpRelay_ordinary {c : Chip} (p : Nat) (k : PtpKind) (m : PtpMsg) (h : ptpTransparent c = false) : ptpRelay p k m c = c :=
  if_neg (by simp [h])

theorem ptpRelay_transparent {c : Chip} (p : Nat) (k : PtpKind) (m : PtpMsg) (h : ptpTransparent c = true) :
    ptpRelay p k m c = ptpForward p k m c := if_pos h

/-! ### Received messages (R109) -/

/-- The engine runs, and the message is of its version and domain: neither guard of a received message holds. -/
theorem ptp_taken {c : Chip} {m : PtpMsg} (x y z : Chip) (he : ptpEn c = true) (ht : ptpTakes c m = true) :
    (if !ptpEn c then x else if !ptpTakes c m then y else z) = z := by
  rw [he, ht]
  rfl

section
variable {c : Chip} {p : Nat} {m : PtpMsg} (he : ptpEn c = true) (ht : ptpTakes c m = true)
include he ht

/-- A Sync of the configured source at a SLAVE port: in two steps it waits for its Follow_Up, in one it gives the offset. -/
theorem syncRx_slave {rx : Int} (hn : ptpTransparent c = false) (hs : ptpState c p = 2) (hid : m.srcId = rdPair c .tim 0x20C)
    (hport : m.srcPort.toNat = rdF c .tim 0x214 15 0) (hpend : (ptpPort c p).pendSync = none) (hrx : rxTime c p m = some rx) :
    syncRx p m c = if m.twoStep then setPtp p { ptpPort c p with pendSync := some (m.seq, m.corr, rx) } c else ptpOffset p m.origin rx m.corr c := by
  unfold syncRx
  dsimp only
  rw [ptp_taken _ _ _ he ht, ptpRelay_ordinary p _ m hn, if_neg (not_not.mpr hs), if_neg (by simp [hid, hport]), hpend, hrx]
  rfl

theorem syncRx_forwarded (hn : ptpTransparent c = true) (hs : ptpState c p ≠ 2) : syncRx p m c = ptpForward p .sync m c := by
  unfold syncRx
  dsimp only
  rw [ptp_taken _ _ _ he ht, if_pos hs, ptpRelay_transparent p _ m hn]

/-- The Follow_Up that matches the waiting Sync completes it. -/
theorem followUpRx_slave {corr rx : Int} (hn : ptpTransparent c = false) (hs : ptpState c p = 2) (hid : m.srcId = rdPair c .tim 0x20C)
    (hpend : (ptpPort c p).pendSync = some (m.seq, corr, rx)) :
    followUpRx p m c = ptpOffset p m.origin rx (corr + m.corr) (setPtp p { ptpPort c p with pendSync := none } c) := by
  unfold followUpRx
  dsimp only
  rw [ptp_taken _ _ _ he ht, ptpRelay_ordinary p _ m hn, if_neg (not_not.mpr hs), hpend]
  exact if_pos ⟨rfl, hid⟩

theorem followUpRx_forwarded (hn : ptpTransparent c = true) (hs : ptpState c p ≠ 2) : followUpRx p m c = ptpForward p .followUp m c := by
  unfold followUpRx
  dsimp only
  rw [ptp_taken _ _ _ he ht, if_pos hs, ptpRelay_transparent p _ m hn]

/-- A MASTER port answers a Delay_Req with its ingress time (R107). -/
theorem delayReqRx_master {rx : Int} (hn : ptpTransparent c = false) (hs : ptpState c p = 3) (hp : isP2p c = false)
    (hrx : rxTime c p m = some rx) :
    delayReqRx p m c = ptpSend p { ptpOwnMsg c p .delayResp m.seq with corr := m.corr, time := rx, reqId := m.srcId, reqPort := m.srcPort } c := by
  unfold delayReqRx
  dsimp only
  rw [ptp_taken _ _ _ he ht, ptpRelay_ordinary p _ m hn, hrx]
  exact if_pos ⟨hs, by simp [hp]⟩

/-- No other port answers it; a transparent clock passes it on. -/
theorem delayReqRx_forwarded (hn : ptpTransparent c = true) (hs : ptpState c p ≠ 3 ∨ isP2p c = true) :
    delayReqRx p m c = ptpForward p .delayReq m c := by
  unfold delayReqRx
  dsimp only
  rw [ptp_taken _ _ _ he ht, ptpRelay_transparent p _ m hn]
  split
  · refine if_neg ?_
    rintro ⟨h3, hp⟩
    rcases hs with hs | hs
    · exact hs h3
    · simp [hs] at hp
  · rfl

/-- The answer to a port's own Delay_Req completes an end to end delay (R108). -/
theorem delayRespRx_slave {t1 t2 t3 cs : Int} (hn : ptpTransparent c = false) (hs : ptpState c p = 2) (hp : isP2p c = false)
    (hreq : (ptpPort c p).reqT = some t3) (hsync : (ptpPort c p).lastSync = some (t1, t2, cs)) (hown : ptpOwn c p m = true) :
    delayRespRx p m c = ptpDelay p (((t2 - t1 - cs + (m.origin - t3 - m.corr) : Int) : Rat) / 2)
      (setPtp p { ptpPort c p with reqT := none, reqWait := false } c) := by
  unfold delayRespRx
  dsimp only
  rw [ptp_taken _ _ _ he ht, ptpRelay_ordinary p _ m hn, if_neg (by simp [hown]), if_neg (by simp [hs, hp]), hreq, hsync]

/-- Every enabled port answers a Pdelay_Req under P2P (R107). -/
theorem pdelayReqRx_answered {rx : Int} (hp : isP2p c = true) (hs : ptpState c p ≠ 0) (hrx : rxTime c p m = some rx) :
    pdelayReqRx p m c = ptpSend p { ptpOwnMsg c p .pdelayResp m.seq with twoStep := ptpTwoStep c, corr := m.corr, time := if ptpTwoStep c then rx else 0, reqId := m.srcId, reqPort := m.srcPort, rx := rx } c := by
  unfold pdelayReqRx
  rw [ptp_taken _ _ _ he ht, if_pos ⟨hp, hs⟩, hrx]

theorem pdelayReqRx_forwarded (hn : ptpTransparent c = true) (hp : isP2p c = false) : pdelayReqRx p m c = ptpForward p .pdelayReq m c := by
  unfold pdelayReqRx
  rw [ptp_taken _ _ _ he ht, if_neg (by simp [hp]), ptpRelay_transparent p _ m hn]

/-- The answer to a port's own Pdelay_Req gives the delay of the link (R108). -/
theorem pdelayRespRx_own {t1 t4 : Int} (t2 t3 : Int) (hp : isP2p c = true) (hreq : (ptpPort c p).reqT = some t1) (hown : ptpOwn c p m = true)
    (hrx : rxTime c p m = some t4) :
    pdelayRespRx p m t2 t3 c = ptpDelay p (((t4 - t1 - (t3 - t2) - m.corr : Int) : Rat) / 2)
      (setPtp p { ptpPort c p with reqT := none, reqWait := false } c) := by
  unfold pdelayRespRx
  dsimp only
  rw [ptp_taken _ _ _ he ht, if_neg (by simp [hp]), if_neg (by simp [hp, hown]), hreq, hrx]

theorem pdelayRespRx_forwarded (t2 t3 : Int) (hn : ptpTransparent c = true) (hp : isP2p c = false) :
    pdelayRespRx p m t2 t3 c = ptpForward p .pdelayResp m c := by
  unfold pdelayRespRx
  rw [ptp_taken _ _ _ he ht, if_pos (by simp [hn, hp])]

end

/-- An Announce is queued behind the others, or dropped where 16 wait (R109). -/
theorem announceRx_queued {c : Chip} {p : Fin 4} {m : PtpMsg} (body : List Word) (he : ptpEn c = true) (ht : ptpTakes c m = true) :
    announceRx p.val m body c = (if 16 ≤ c.tim.annRx.length then ptpDrop p.val
      else fun c => raise .tim 15 (modTim (fun t => { t with annRx := t.annRx ++ [(p, (body ++ List.replicate 16 0).take 16)] }) c)) c := by
  have hport : Fin.ofNat 4 p.val = p := Fin.ext (Nat.mod_eq_of_lt p.isLt)
  unfold announceRx
  rw [ptp_taken _ _ _ he ht, hport]
  split <;> rfl

/-! ### Offsets and delays (R108, R490) -/

theorem ptpOffset_quiet {c : Chip} {p : Nat} (t1 t2 corr : Int) (h : ptpQuiet c p = true) : ptpOffset p t1 t2 corr c = c := if_pos h

theorem ptpDelay_quiet {c : Chip} {p : Nat} (d : Rat) (h : ptpQuiet c p = true) : ptpDelay p d c = c := if_pos h

theorem ptpOffset_sampled {c : Chip} {p : Nat} {d : Int} (t1 t2 corr : Int) (hq : ptpQuiet c p = false) (hd : (ptpPort c p).mpd = some d)
    (hs : slavePort c = some p) :
    ptpOffset p t1 t2 corr c = servoSample 1 (some p) (((t2 - t1 - corr - mpd16 d : Int) : Rat) / 65536)
      (setPtp p { ptpPort c p with lastSync := some (t1, t2, corr) } c) := by
  unfold ptpOffset
  dsimp only
  rw [if_neg (by simp [hq]), hd]
  exact if_pos hs

/-! ### Messages that are due (R107, R108) -/

theorem syncTx_due {c : Chip} {p : Nat} (he : ptpEn c = true) (hs : ptpState c p = 3)
    (hdue : (ptpPort c p).lastSyncTx + ptpInterval c p 8 ≤ c.clk.now) :
    syncTx p c = ptpSend p { ptpOwnMsg c p .sync (ptpPort c p).syncSeq with twoStep := ptpTwoStep c }
      (setPtp p { ptpPort c p with syncSeq := (ptpPort c p).syncSeq + 1, lastSyncTx := c.clk.now } c) :=
  if_neg (by simp [he, hs, hdue])

theorem announceTx_due {c : Chip} {p : Nat} (he : ptpEn c = true) (hs : ptpState c p = 3)
    (hdue : (ptpPort c p).lastAnnTx + ptpInterval c p 16 ≤ c.clk.now) :
    announceTx p c = ptpSend p { ptpOwnMsg c p .announce (ptpPort c p).annSeq with body := (List.range 16).map (fun i => rd c .tim (0x300 + 4 * i)) }
      (setPtp p { ptpPort c p with annSeq := (ptpPort c p).annSeq + 1, lastAnnTx := c.clk.now } c) :=
  if_neg (by simp [he, hs, hdue])

theorem delayReqTx_due {c : Chip} {p : Nat} (he : ptpEn c = true) (hs : if isP2p c = true then ptpState c p ≠ 0 else ptpState c p = 2)
    (hdue : (ptpPort c p).lastReqTx + ptpInterval c p 12 ≤ c.clk.now) :
    delayReqTx p c = ptpSend p (ptpOwnMsg c p (if isP2p c then .pdelayReq else .delayReq) ((ptpPort c p).reqSeq + 1))
      (setPtp p { ptpPort c p with reqSeq := (ptpPort c p).reqSeq + 1, reqT := none, reqWait := true, lastReqTx := c.clk.now }
        (if (ptpPort c p).reqWait then cntSat .tim (0x240 + 4 * p) 15 8 c else c)) :=
  if_neg (by simp [he, hs, hdue])

/-- A message for which the buffer has room enters queue 7 behind what waits there. -/
theorem queueOf_ptpSend {c : Chip} {p : Nat} {m : PtpTx} (h : c.net.bufUsed + (ptpFrame c p m).len ≤ netBufBytes) :
    queueOf (ptpSend p m c) p 7 = queueOf c p 7 ++ [ptpFrame c p m] := by
  rw [ptpSend, netEnqueue, if_neg (Nat.not_lt.mpr h), setQueue, queueOf, netPort_modPort, tabGet_tabSet_same]

/-! ### The queue of Announces (R119) -/

/-- The read of PTP_ANN_RX. -/
theorem regRead_announce {s : State} {path : Path} {p : Fin 4} {body : List Word} {l : List (Fin 4 × List Word)} (h : fabricUp s.chip path = true)
    (hl : s.chip.tim.annRx = (p, body) :: l) :
    regRead path (pageBase .tim + 0x340) s = onChip (fun c => answered path .tim 0x340 (BitVec.ofNat 32 (min 31 (l.length + 1) + p.val * 256))
      (each (List.range 16) (fun i c => heldSet path (pageBase .tim + 0x380 + 4 * i) (body.getD i 0) c) (modTim (fun x => { x with annRx := l }) c))) s := by
  have hpop : pageRead path .tim 0x340 s.chip =
      (each (List.range 16) (fun i c => heldSet path (pageBase .tim + 0x380 + 4 * i) (body.getD i 0) c) (modTim (fun x => { x with annRx := l }) s.chip),
        BitVec.ofNat 32 (min 31 (l.length + 1) + p.val * 256)) := by
    change announcePop path s.chip = _
    rw [announcePop, hl]
  rw [regRead_page s path .tim 0x340 h (by decide) (by decide), hpop]
  rfl

/-! ### The statement -/

/-- Settles O20: a message received by the port's role and by the kind of clock, then the offset and delay it gives, then the messages sent. -/
theorem precisionTimeMessages : Obligations.PrecisionTimeMessages := by
  unfold Obligations.PrecisionTimeMessages
  refine ⟨?sync, ?stamp, ?transparent, ?followUp, ?offset, ?quiet, ?delayReq, ?delayResp, ?pdelayReq, ?pdelayResp, ?announce, ?pop, ?syncTx,
    ?announceTx, ?delayReqTx, ?queue⟩
  case sync =>
    intro s p m rx hm he ht hn hs hid hport hpend hrx
    exact run_live_as hm (syncRx_slave he ht hn hs hid hport hpend hrx)
  case stamp =>
    intro c p m
    rfl
  case transparent =>
    intro s p m hm he ht hn
    exact ⟨fun hs => run_live_as hm (syncRx_forwarded he ht hn hs), fun hs => run_live_as hm (followUpRx_forwarded he ht hn hs),
      fun hs => run_live_as hm (delayReqRx_forwarded he ht hn hs), fun hp => run_live_as hm (pdelayReqRx_forwarded he ht hn hp),
      fun t2 t3 hp => run_live_as hm (pdelayRespRx_forwarded he ht t2 t3 hn hp)⟩
  case followUp =>
    intro s p m corr rx hm he ht hn hs hid hpend
    exact run_live_as hm (followUpRx_slave he ht hn hs hid hpend)
  case offset =>
    intro p t1 t2 corr d c hq hd hs
    exact ptpOffset_sampled t1 t2 corr hq hd hs
  case quiet =>
    intro p t1 t2 corr d c hq
    exact ⟨ptpOffset_quiet t1 t2 corr hq, ptpDelay_quiet d hq⟩
  case delayReq =>
    intro s p m rx hm he ht hn hs hp hrx
    exact run_live_as hm (delayReqRx_master he ht hn hs hp hrx)
  case delayResp =>
    intro s p m t1 t2 t3 cs hm he ht hn hs hp hreq hsync hown
    exact run_live_as hm (delayRespRx_slave he ht hn hs hp hreq hsync hown)
  case pdelayReq =>
    intro s p m rx hm he ht hp hs hrx
    exact run_live_as hm (pdelayReqRx_answered he ht hp hs hrx)
  case pdelayResp =>
    intro s p m t1 t2 t3 t4 hm he ht hp hreq hown hrx
    exact run_live_as hm (pdelayRespRx_own he ht t2 t3 hp hreq hown hrx)
  case announce =>
    intro s p m body hm he ht
    exact run_live_as hm (announceRx_queued body he ht)
  case pop =>
    intro s path p body l h hl
    exact congrArg Host.Outcome.next (regRead_announce h hl)
  case syncTx =>
    intro s p hm he hs hdue
    exact run_live_as hm (syncTx_due he hs hdue)
  case announceTx =>
    intro s p hm he hs hdue
    exact run_live_as hm (announceTx_due he hs hdue)
  case delayReqTx =>
    intro s p hm he hs hdue
    exact run_live_as hm (delayReqTx_due he hs hdue)
  case queue =>
    intro p m c h
    exact queueOf_ptpSend h

end Sys2Proof.Proofs.PrecisionTime
end

section
/-!
Knots 1 to 31 and the capture inputs (R111 to R116): when a knot and its pulse end are due, what an edge leaves in the FIFO of its input and what the read
of the FIFO takes from it; with the statement about them.
-/

namespace Sys2Proof.Proofs.KnotsCaptures

open Sys2Proof Sys2Proof.Machine Sys2Proof.Laws.CalOps

/-! ### Knots (R112, R115) -/

theorem knotFire_due {c : Chip} {k : Nat} (hk : k ≠ 0) (ha : (knot c k).armed = true) (hdue : (knot c k).next ≤ time16 c)
    (hup : isUp c .knt = true) : knotFire k c = fireKnot k false c := if_pos ⟨hk, ha, hdue, hup⟩

theorem knotPulseEnd_due {c : Chip} {i : Nat} (hu : tabGet 0 c.knt.pinUntil i ≠ 0) (hdue : tabGet 0 c.knt.pinUntil i ≤ c.clk.now) :
    knotPulseEnd i c = emit (.pin 0 i false) { c with knt := { c.knt with pinUntil := tabSet 0 c.knt.pinUntil i 0 } } := if_pos ⟨hu, hdue⟩

/-! ### Capture inputs (R116) -/

/-- An enabled edge that lasted is entered with the time at which it came, or counts as lost where 16 entries stand. -/
theorem captureEdge_held {c : Chip} {k held : Nat} {rising : Bool} (hen : bit (rd c .tim (0x0A0 + 4 * k)) (if rising then 0 else 1) = true)
    (hheld : fld (rd c .tim (0x0A0 + 4 * k)) 7 4 ≤ held) (hup : isUp c .tim = true) :
    captureEdge k rising held c =
      if 16 ≤ (tabGet [] c.tim.caps k).length then raise .tim 13 (modTim (fun x => { x with capOvf := tabSet 0 x.capOvf k (min 255 (tabGet 0 x.capOvf k + 1)) }) c)
      else modTim (fun x => { x with caps := tabSet [] x.caps k (tabGet [] x.caps k ++
        [{ s := (timeNs c - 4 * held) / 1000000000, ns := (timeNs c - 4 * held) % 1000000000, rising := rising }]) }) c :=
  if_neg (by simp [hen, hup, Nat.not_lt.mpr hheld])

theorem capPop_oldest {c : Chip} {path : Path} {k : Nat} {e : CapEntry} {l : List CapEntry} (hl : tabGet [] c.tim.caps k = e :: l) :
    capPop path k c =
      (heldSet path (pageBase .tim + 0x0C4 + 16 * k + 4) (BitVec.ofNat 32 (e.s / 2 ^ 32)) (heldSet path (pageBase .tim + 0x0C4 + 16 * k) (BitVec.ofNat 32 e.s)
        (modTim (fun x => { x with caps := tabSet [] x.caps k l }) c)), BitVec.ofNat 32 (e.ns + flag e.rising 30)) := by
  rw [capPop, hl]

/-- The read of CAP_NS of an input is its pop. -/
theorem pageRead_capNs (path : Path) (k : Fin 8) (c : Chip) : pageRead path .tim (0x0C0 + 16 * k.val) c = capPop path k.val c := by
  fin_cases k <;> rfl

theorem regRead_capNs {s : State} {path : Path} (k : Fin 8) (h : fabricUp s.chip path = true) :
    regRead path (pageBase .tim + 0x0C0 + 16 * k.val) s =
      onChip (fun c => answered path .tim (0x0C0 + 16 * k.val) (capPop path k.val c).2 (capPop path k.val c).1) s := by
  rw [Nat.add_assoc, regRead_page s path .tim (0x0C0 + 16 * k.val) h (by omega) (by omega), pageRead_capNs]
  rfl

/-! ### The statement -/

/-- Settles O21: a knot and a pin by their due times, an edge by the room in its FIFO, and the pop by the FIFO's head. -/
theorem knotsAndCaptures : Obligations.KnotsAndCaptures := by
  unfold Obligations.KnotsAndCaptures
  refine ⟨?fire, ?pulseEnd, ?edge, ?pop⟩
  case fire =>
    intro s k hk hm ha hdue hup
    exact congrArg Host.Outcome.next (withCal_congr _ _ s (onChip_congr ((whileRuns_live hm).trans (knotFire_due hk ha hdue hup))))
  case pulseEnd =>
    intro s i hm hu hdue
    exact run_live_as hm (knotPulseEnd_due hu hdue)
  case edge =>
    intro s k rising held hm hen hheld hup
    exact run_live_as hm (captureEdge_held hen hheld hup)
  case pop =>
    intro s path k e l h hl
    refine congrArg Host.Outcome.next ((regRead_capNs k h).trans (onChip_congr ?_))
    rw [capPop_oldest hl]

end Sys2Proof.Proofs.KnotsCaptures
end

section
/-!
Reads of the device time (R98). TIM_NOW_S is a pair: the read of its _LO half leaves the _HI half as the path's snapshot (R4) beside the values it holds, and
the read of its _HI half answers that snapshot; with the two statements that leave the snapshot out.
-/

namespace Sys2Proof.Proofs.TimeReads

open Sys2Proof Sys2Proof.Machine

/-! ### The read of each half of TIM_NOW_S -/

theorem heldGet_heldSet_same (path : Path) (a : Nat) (v : Word) (c : Chip) : heldGet (heldSet path a v c) path a = v := tabGet_tabSet_same ..

theorem heldGet_heldSet_ne {path : Path} {a b : Nat} (v : Word) (c : Chip) (h : b ≠ a) :
    heldGet (heldSet path a v c) path b = heldGet c path b := tabGet_tabSet_ne _ _ _ _ _ (by omega) _

/-- The high seconds that TIM_NOW_S_LO holds for its path. -/
theorem heldGet_timNow (path : Path) (c : Chip) :
    heldGet (timNow path c).1 path (pageBase .tim + 0x04C) = BitVec.ofNat 32 (c.tim.s / 2 ^ 32) := by
  unfold timNow
  rw [heldGet_heldSet_ne _ _ (by omega), heldGet_heldSet_ne _ _ (by omega), heldGet_heldSet_same]

theorem pageRead_nowLo (path : Path) (c : Chip) : pageRead path .tim 0x048 c =
    (takeSnap path (heldGet (timNow path c).1 path (pageBase .tim + 0x04C)) (timNow path c).1, (timNow path c).2) := rfl

theorem pageRead_nowHi (path : Path) (c : Chip) : pageRead path .tim 0x04C c = (c, (pathSt c path).snap) := rfl

/-- TIM_NOW_READ in full: the answer, the held values and the snapshot. -/
theorem exec_timNowRead {s : State} {path : Path} (h : fabricUp s.chip path = true) : exec (.timNowRead path) s =
    .next (onChip (fun c => answered path .tim 0x048 (timNow path c).2 (takeSnap path (BitVec.ofNat 32 (c.tim.s / 2 ^ 32)) (timNow path c).1)) s) := by
  change Host.Outcome.next (regRead path (pageBase .tim + 0x048) s) = _
  rw [regRead_page s path .tim 0x048 h (by decide) (by decide), pageRead_nowLo, heldGet_timNow]
  rfl

theorem pathSt_takeSnap (path : Path) (v : Word) (c : Chip) : (pathSt (takeSnap path v c) path).snap = v :=
  congrArg PathSt.snap (tabGet_tabSet_same ..)

/-! ### The statements -/

/-- The device after reset, but that 1 is the snapshot of the path PCI Express, as the read of another pair leaves it. -/
def otherPairRead : State := onChip (takeSnap .pcie 1) State.reset

/-- TIM_NOW_READ does more than hold values: at time 0 it replaces a snapshot of 1 by the high seconds, which are 0. -/
theorem not_timNowRead_holdsOnly : ¬ ∀ (s : State) (path : Path), fabricUp s.chip path = true → exec (.timNowRead path) s =
    .next (onChip (fun c => answered path .tim 0x048 (timNow path c).2 (timNow path c).1) s) := by
  intro hread
  have hup : fabricUp otherPairRead.chip .pcie = true := by decide
  have hsame := (exec_timNowRead hup).symm.trans (hread otherPairRead .pcie hup)
  injection hsame with hsame
  have hsnap : (0 : Word) = 1 := congrArg (fun t : State => (pathSt t.chip .pcie).snap) hsame
  exact absurd hsnap (by decide)

/-- Refutes O19: its clause about TIM_NOW_READ leaves out that the read replaces the path's snapshot (R4, R98). -/
theorem not_timeServoAndDeviceTime : ¬ Obligations.TimeServoAndDeviceTime := by
  unfold Obligations.TimeServoAndDeviceTime
  rintro ⟨-, hread, -⟩
  exact not_timNowRead_holdsOnly hread

/-- Refutes O59: a later read of TIM_NOW_S_HI answers the path's snapshot, which is 1 where another pair was read meanwhile, and not what is held, 0. -/
theorem not_timeReadSnapshots : ¬ Obligations.TimeReadSnapshots := by
  unfold Obligations.TimeReadSnapshots
  rintro ⟨-, hlater, -⟩
  have hread := hlater otherPairRead.chip .pcie 0x04C (by simp)
  rw [pageRead_nowHi, otherPairRead, onChip_chip, pathSt_takeSnap] at hread
  have hheld : (1 : Word) = 0 := congrArg Prod.snd hread
  exact absurd hheld (by decide)

end Sys2Proof.Proofs.TimeReads
end

section
/-!
Motion commands at the point where they take effect (R123 to R163): what MOVE, STOP, RESUME, HOME, ENABLE, GROUP_MOVE, HITCH_SET and HITCH_RELEASE do for
an axis, a group or a hitch that is free to take them; with the statement about them.
-/

namespace Sys2Proof.Proofs.MotionCommands

open Sys2Proof Sys2Proof.Machine Sys2Proof.Proofs.HeaderWrites

/-! ### What each command starts (Table 3-7) -/

section
variable {x : InFlight} (s : State)

theorem takeEffect_moveAbs {n : Word} {pos vel acc dec jerk : DWord} (hx : x.cmd.op = .moveAbs n pos vel acc dec jerk) :
    takeEffect x s = onChip (fun c => startMove n.toNat x.id x.cmd.op false pos vel acc dec jerk (markRunning x.id c)) s := by
  unfold takeEffect; rw [hx]; exact onChip_onChip _ _ s

theorem takeEffect_moveRel {n : Word} {dist vel acc dec jerk : DWord} (hx : x.cmd.op = .moveRel n dist vel acc dec jerk) :
    takeEffect x s = onChip (fun c => startMove n.toNat x.id x.cmd.op true dist vel acc dec jerk (markRunning x.id c)) s := by
  unfold takeEffect; rw [hx]; exact onChip_onChip _ _ s

theorem takeEffect_moveVel {n : Word} {vel acc dec jerk : DWord} (hx : x.cmd.op = .moveVel n vel acc dec jerk) :
    takeEffect x s = onChip (fun c => startVel n.toNat x.id x.cmd.op vel acc dec jerk (markRunning x.id c)) s := by
  unfold takeEffect; rw [hx]; exact onChip_onChip _ _ s

theorem takeEffect_stop {n : Word} {kind : Byte} (hx : x.cmd.op = .stop n kind) :
    takeEffect x s = onChip (fun c => startStop n.toNat x.id kind (markRunning x.id c)) s := by
  unfold takeEffect; rw [hx]; exact onChip_onChip _ _ s

theorem takeEffect_resume {n : Word} (hx : x.cmd.op = .resume n) :
    takeEffect x s = startResume n.toNat x.id (onChip (markRunning x.id) s) := by
  unfold takeEffect; rw [hx]

theorem takeEffect_home {n : Word} {method flags : Byte} {search creep accel offset : DWord}
    (hx : x.cmd.op = .home n method flags search creep accel offset) :
    takeEffect x s =
      onChip (fun c => startHome n.toNat x.id x.cmd.op method flags search creep accel offset (markRunning x.id c)) s := by
  unfold takeEffect; rw [hx]; exact onChip_onChip _ _ s

theorem takeEffect_enable {n : Word} {en : Byte} (hx : x.cmd.op = .enable n en) :
    takeEffect x s = onChip (fun c => startEnable n.toNat x.id en (markRunning x.id c)) s := by
  unfold takeEffect; rw [hx]; exact onChip_onChip _ _ s

theorem takeEffect_groupMove {g : Word} {ts : Option (List DWord)} {count : Byte} {relative : Bool} {vel acc dec jerk : DWord}
    (hx : x.cmd.op = .groupMove g ts count relative vel acc dec jerk) :
    takeEffect x s = onChip (fun c => startGroup g.toNat x.id x.cmd.op (bufWords count.toNat ts) count relative vel acc dec jerk
      (markRunning x.id c)) s := by
  unfold takeEffect; rw [hx]; exact onChip_onChip _ _ s

theorem takeEffect_hitchSet {h : Word} {raw : BitVec 256} (hx : x.cmd.op = .hitchSet h raw) (hcam : isCam raw = false) :
    takeEffect x s = startHitch h.toNat x.id raw (onChip (markRunning x.id) s) := by
  unfold takeEffect; rw [hx]; simp only [hcam]; rfl

theorem takeEffect_hitchRelease {h : Word} {ramp : Bool} (hx : x.cmd.op = .hitchRelease h ramp) :
    takeEffect x s = onChip (fun c => startRelease h.toNat x.id ramp (markRunning x.id c)) s := by
  unfold takeEffect; rw [hx]; exact onChip_onChip _ _ s

end

/-! ### Moves (R127, R131) -/

theorem endRunning_none {n : Nat} {c : Chip} (hrun : (axis c n).run = none) : endRunning n c = c := by
  simp only [endRunning, hrun]

/-- A positioning move within its limits that needs no reversal is installed as planned. -/
theorem startPos_direct {n : Nat} {r : Run} {target : Rat} {c : Chip} (hrun : (axis c n).run = none)
    (hrev : needsReversal (ownNow c n) target r.lim = false) :
    startPos n r target false c = dueAtOnce n (planPos (ownNow c n) target r.lim).1
      (installMove n { r with target := target, result := (planPos (ownNow c n) target r.lim).2 } (planPos (ownNow c n) target r.lim).1 target
        (dropSlack n (markRunning r.id c))) := by
  have hend : endRunning n (markRunning r.id c) = markRunning r.id c := endRunning_none hrun
  simp [startPos, hrev, raiseIf, hend]

/-- MOVE_ABS and MOVE_REL that pass checks 9 and 10 start towards their target, which for MOVE_REL counts from the set-point of an axis without a move. -/
theorem startMove_taken {n id : Nat} {op : HostOp} {rel : Bool} {pos vel acc dec jerk : DWord} {c : Chip} {l : Lim} {target : Rat}
    (hrun : (axis c n).run = none) (ht : (if rel then (ownNow c n).p else 0) + ofQ pos = target)
    (hl : moveLim c n false vel acc dec jerk = some (l, false)) (hq : inQ target = true) (hswl : outsideSwl c n target = false)
    (hm : movable c n = true) (hb : blockedDir c n (firstDir (ownNow c n) (target - (ownNow c n).p)) = false) :
    startMove n id op rel pos vel acc dec jerk c = startPos n { id := id, op := op, lim := l } target false c := by
  subst ht
  simp only [startMove, hrun, hl, Bool.and_false, Bool.false_eq_true, if_false, hq, hswl, hm, hb, Bool.not_true, Bool.or_false]

/-- A velocity move within its limits that needs no reversal is installed as planned; the target of the axis stands. -/
theorem startSpeed_direct {n : Nat} {r : Run} {v : Rat} {c : Chip} (hrun : (axis c n).run = none)
    (hrev : (planSpeed (ownNow c n) v r.lim).2 = false) :
    startSpeed n r v false c = installMove n r (planSpeed (ownNow c n) v r.lim).1 (axis (dropSlack n (markRunning r.id c)) n).target
      (dropSlack n (markRunning r.id c)) := by
  have hend : endRunning n (markRunning r.id c) = markRunning r.id c := endRunning_none hrun
  simp [startSpeed, hrev, raiseIf, hend]

theorem startVel_taken {n id : Nat} {op : HostOp} {vel acc dec jerk : DWord} {c : Chip} {l : Lim}
    (hl : moveLim c n true vel acc dec jerk = some (l, false)) (hm : movable c n = true)
    (hb : blockedDir c n (firstDir (ownNow c n) (sgn (ofQ vel) * l.v)) = false) :
    startVel n id op vel acc dec jerk c = startSpeed n { id := id, op := op, lim := l } (sgn (ofQ vel) * l.v) false c := by
  unfold startVel
  rw [hl]
  exact if_neg (by simp only [hm, hb, Bool.not_true, Bool.or_false, Bool.false_eq_true, not_false_eq_true])

/-! ### STOP (R137, R138) -/

theorem settleEnds_notWaiting {c : Chip} {n : Nat} (hw : (axis c n).waiting = false) : settleEnds n c = c := by
  simp [settleEnds, hw]

/-- The kind that a STOP names (Table 6-3). -/
def stopKindOf (kind : Byte) : StopKind := match kind.toNat with | 0 => .slack | 1 => .quick | _ => .drop

section
variable {c : Chip} {n id : Nat} {kind : Byte} (hk : kind.toNat ≤ 2) (hp : pageEnabled c (axmPage n) = true)
  (hself : selfCommanded c n = false) (htest : (snlSt c n).test = false) (hw : (axis c n).waiting = false) (hg : groupOf c n = none)
include hk hp hself htest hw hg

/-- An axis that moves on its own suspends its hitches and stops. -/
theorem startStop_moving (hst : (axis c n).state = .moving) (hpulse : pulseAxis c n = false) :
    startStop n id kind c = axisStop n { kind := stopKindOf kind, ids := [id] } (suspendHitches n (markRunning id c)) := by
  simp [startStop, Nat.not_lt.mpr hk, hp, hself, htest, settleEnds_notWaiting hw, hg, hst, hpulse]
  rfl

/-- An axis at rest has nothing to stop: DONE with its slack. -/
theorem startStop_atRest (hst : (axis c n).state = .ready ∨ (axis c n).state = .holding ∨ (axis c n).state = .slack ∨ (axis c n).state = .disabled) :
    startStop n id kind c = finish id stDone 0 (satQ (slackOf (axis c n))) c := by
  rcases hst with hst | hst | hst | hst <;>
    simp [startStop, Nat.not_lt.mpr hk, hp, hself, htest, settleEnds_notWaiting hw, hg, hst]

end

/-! ### RESUME (R139) -/

/-- Without a suspended hitch, the hitches of a slave resume at once; what is left to note is the kept move. -/
theorem resumeHitches_nil {c : Chip} {n : Nat} {r : Run} (id : Nat) (hkept : (axis c n).kept = some r) :
    resumeHitches n [] id c = modAxis n (fun a => { a with slackKept := true }) c := by
  simp [resumeHitches, each, modAxis, hkept]

/-- An axis in SLACK outside any group and without suspended hitches takes up its kept move. -/
theorem startResume_kept {s : State} {n id : Nat} {r : Run} (hp : pageEnabled s.chip (axmPage n) = true) (hst : (axis s.chip n).state = .slack)
    (hg : groupOf s.chip n = none) (hh : s.chip.hits.filter (fun h => h.2.cfg.slave == n && h.2.state == .suspended) = [])
    (hkept : (axis s.chip n).kept = some r) (hcheck : resumeCheck s.chip n r = 0) :
    startResume n id s = onChip (fun c => resumeMove n id r (modAxis n (fun a => { a with slackKept := true }) c)) s := by
  have hmove : resumeMove n id r (resumeHitches n [] 0 s.chip) = resumeMove n id r (modAxis n (fun a => { a with slackKept := true }) s.chip) := by
    rw [resumeHitches_nil 0 hkept]
  simpa [startResume, hp, hst, hg, hh, hkept, hcheck, resumeReady] using onChip_congr hmove

/-! ### HOME method 0 (R142, R146) -/

/-- HOME method 0 of an axis at rest redefines the position at once. -/
theorem startHome_zero {c : Chip} {n id : Nat} {op : HostOp} {flags : Byte} {search creep accel offset : DWord}
    (hp : pageEnabled c (axmPage n) = true) (hself : selfCommanded c n = false) (hst : (axis c n).state = .ready ∨ (axis c n).state = .slack)
    (hhold : (axis c n).holdPend = false) (hg : groupOf c n = none) (hq : inQ ((axis c n).target + (ofQ offset - (axis c n).cur.p)) = true) :
    startHome n id op 0 flags search creep accel offset c = homeDone n id (axis c n).cur.p (ofQ offset) (dropSlack n (markRunning id c)) := by
  have hidle : ((axis c n).state == .ready || (axis c n).state == .slack) = true := by simpa using hst
  simp [startHome, homeNeedsIndex, homeSource, hp, hself, hidle, hhold, hg, hq]

/-! ### ENABLE (R122, R194) -/

section
variable {c : Chip} {n id : Nat} (hpwr : c.pwr.state = .run) (hp : pageEnabled c (axmPage n) = true) (hst : (axis c n).state = .disabled)
  (hen : (axis c n).enabling = none) (h1 : actQ c (axmPage n) 0x088 ≠ 0) (h2 : actQ c (axmPage n) 0x090 ≠ 0) (h3 : actQ c (axmPage n) 0x0A0 ≠ 0)
include hpwr hp hst hen h1 h2 h3

/-- A virtual axis has no drive to enable: it is READY at once. -/
theorem startEnable_virtual (hn : 128 ≤ n) :
    startEnable n id 1 c = finish id stDone 0 0 (setState (axmPage n) .run (setAxis n { axis c n with state := .ready, torque := true } c)) := by
  have hphys : isPhys n = false := by simpa [isPhys] using hn
  simp [startEnable, h1, h2, h3, hpwr, hp, hst, hen, hphys, fbValid]

/-- A physical axis whose mode and feedback are in order begins the enabling. -/
theorem startEnable_physical (hn : n < 128) (hmode : modMode c n = 0 → actF c (.lpa (f128 n)) 0x040 2 0 ≠ 0) (hfb : fbValid c n = true)
    (hidle : sensorless c (f128 n) = true → (snlSt c n).state = .idle) :
    startEnable n id 1 c = setAxis n { axis c n with enabling := some id } (markRunning id c) := by
  have hphys : isPhys n = true := by simpa [isPhys] using hn
  have hloop : (modMode c n == 0 && actF c (.lpa (f128 n)) 0x040 2 0 == 0) = false := by simpa using hmode
  have hsnl : (sensorless c (f128 n) && (snlSt c n).state != .idle) = false := by simpa using hidle
  simp [startEnable, h1, h2, h3, hpwr, hp, hst, hen, hphys, hloop, hfb, hsnl]

end

/-! ### GROUP_MOVE (R152, R153) -/

theorem bufWords_whole {n : Nat} {l : List DWord} (h : l.length = n) : bufWords n (some l) = some l := by
  subst h
  simp [bufWords]

/-- A group at rest whose members are free discards their slack and plans its path. -/
theorem startGroup_free {c : Chip} {g id : Nat} {op : HostOp} {ts : List DWord} {count : Byte} {relative : Bool} {vel acc dec jerk : DWord}
    (hlen : (group c g).members.length ≤ ts.length)
    (hbad : groupBad c (group c g) (((group c g).members.zip ts).map (fun m => (if relative then (axis c m.1).cur.p else 0) + ofQ m.2))
      count.toNat (groupOps vel acc dec jerk) = false)
    (hp : pageEnabled c (grpPage g) = true) (hst : (group c g).state = .idle ∨ (group c g).state = .slack)
    (hbusy : (group c g).members.any (memberBusy c) = false) :
    startGroup g id op (some ts) count relative vel acc dec jerk c =
      groupPath g { id := id, op := op, lim := groupOps vel acc dec jerk } (groupOps vel acc dec jerk)
        (((group c g).members.zip (((group c g).members.zip ts).map (fun m => (if relative then (axis c m.1).cur.p else 0) + ofQ m.2))).map
          (fun m => m.2 - (ownNow (each (group c g).members dropSlack (markRunning id c)) m.1).p)) 0
        (each (group c g).members dropSlack (markRunning id c)) := by
  rcases hst with hst | hst <;>
    simp only [startGroup, hbad, Nat.not_lt.mpr hlen, hp, hst, hbusy] <;> rfl

/-! ### Hitches (R159, R163) -/

/-- A lawful record is taken. -/
theorem startHitch_lawful {s : State} {h id : Nat} {raw : BitVec 256} (hbad : hitBad s.chip raw = false)
    (hbusy : hitBusy s.chip h id (decodeHit raw) = false) : startHitch h id raw s = hitTake h id raw (onChip (markRunning id) s) := by
  simp [startHitch, hitChecks, hbad, hbusy]

/-- The chip once the commands of a hitch have ended CANCELLED for its release, and the slave settles no more. -/
def releaseBegun (h id : Nat) (c : Chip) : Chip :=
  settleEnds (hitch c h).cfg.slave (finish (hitch c h).resId stCancelled 0 0 (finish (hitch c h).setId stCancelled 0 0 (markRunning id c)))

/-- An engaged hitch that carries its slave alone is released without a ramp by stopping the slave. -/
theorem startRelease_engaged {c : Chip} {h id : Nat} (hp : pageEnabled c .hit = true) (hst : (hitch c h).state = .engaged)
    (hkind : (hitch c h).cfg.kind ≠ .superimpose) :
    startRelease h id false c = axisStop (hitch c h).cfg.slave { kind := .slack }
      (setHitch h { hitch (releaseBegun h id c) h with state := .disengaging, setId := 0, resId := 0, relId := id } (releaseBegun h id c)) := by
  simp [startRelease, hp, hst, hkind, releaseBegun]

/-! ### The statement -/

/-- Settles O14: each command starts as its rule above says, with nothing but its own number marked as running before. -/
theorem motionCommandsTakeEffect : Obligations.MotionCommandsTakeEffect := by
  unfold Obligations.MotionCommandsTakeEffect
  refine ⟨?moveAbs, ?moveRel, ?moveVel, ?stopMoving, ?stopAtRest, ?resume, ?home, ?enableVirtual, ?enablePhysical, ?groupMove, ?hitchSet, ?hitchRelease⟩
  case moveAbs =>
    intro s x axisNo pos vel acc dec jerk l hx hrun hl hq hswl hm hb hrev
    rw [takeEffect_moveAbs s hx]
    exact onChip_congr ((startMove_taken (c := markRunning x.id s.chip) hrun (zero_add _) hl hq hswl hm hb).trans (startPos_direct hrun hrev))
  case moveRel =>
    intro s x axisNo dist vel acc dec jerk l hx hrun hl hq hswl hm hb hrev
    rw [takeEffect_moveRel s hx]
    exact onChip_congr ((startMove_taken (c := markRunning x.id s.chip) hrun (congrArg (· + ofQ dist) (if_pos rfl)) hl hq hswl hm hb).trans (startPos_direct hrun hrev))
  case moveVel =>
    intro s x axisNo vel acc dec jerk l hx hrun hl hm hb hrev
    rw [takeEffect_moveVel s hx]
    exact ⟨_, onChip_congr ((startVel_taken (c := markRunning x.id s.chip) hl hm hb).trans (startSpeed_direct hrun hrev))⟩
  case stopMoving =>
    intro s x axisNo kind hx hk hp hself htest hw hg hst hpulse
    rw [takeEffect_stop s hx]
    exact onChip_congr (startStop_moving (c := markRunning x.id s.chip) hk hp hself htest hw hg hst hpulse)
  case stopAtRest =>
    intro s x axisNo kind hx hk hp hself htest hw hg hst
    rw [takeEffect_stop s hx]
    exact onChip_congr (startStop_atRest (c := markRunning x.id s.chip) hk hp hself htest hw hg hst)
  case resume =>
    intro s x axisNo r hx hp hst hg hh hkept hcheck
    rw [takeEffect_resume s hx]
    exact (startResume_kept (s := onChip (markRunning x.id) s) hp hst hg hh hkept hcheck).trans (onChip_onChip _ _ s)
  case home =>
    intro s x axisNo flags search creep accel offset hx hp hself hst hhold hg hq
    rw [takeEffect_home s hx]
    exact onChip_congr (startHome_zero (c := markRunning x.id s.chip) hp hself hst hhold hg hq)
  case enableVirtual =>
    intro s x axisNo hx hpwr hp hn hst hen h1 h2 h3
    rw [takeEffect_enable s hx]
    exact onChip_congr (startEnable_virtual (c := markRunning x.id s.chip) hpwr hp hst hen h1 h2 h3 hn)
  case enablePhysical =>
    intro s x axisNo hx hpwr hp hn hst hen hmode h1 h2 h3 hfb hidle
    rw [takeEffect_enable s hx]
    exact onChip_congr (startEnable_physical (c := markRunning x.id s.chip) hpwr hp hst hen h1 h2 h3 hn hmode hfb hidle)
  case groupMove =>
    intro s x g ts count relative vel acc dec jerk hx hlen hmem hbad hp hst hbusy
    rw [takeEffect_groupMove s hx, bufWords_whole hlen]
    exact onChip_congr (startGroup_free (c := markRunning x.id s.chip) (hmem.trans hlen.ge) hbad hp hst hbusy)
  case hitchSet =>
    intro s x h raw hx hcam hbad hbusy
    rw [takeEffect_hitchSet s hx hcam]
    exact startHitch_lawful (s := onChip (markRunning x.id) s) hbad hbusy
  case hitchRelease =>
    intro s x h hx hp hst hkind
    rw [takeEffect_hitchRelease s hx]
    exact ⟨_, rfl, onChip_congr (startRelease_engaged (c := markRunning x.id s.chip) hp hst hkind)⟩

end Sys2Proof.Proofs.MotionCommands
end

section
/-!
The inputs and outputs of an axis beside its motion (R141 to R145, R172 to R181): limit and reference edges, the dwell, latches, compares on the spare gate
output and step pulses, each as what it comes to where its condition holds; with the statement about them.
-/

namespace Sys2Proof.Proofs.AxisInputs

open Sys2Proof Sys2Proof.Machine Sys2Proof.Laws.AxisRows Sys2Proof.Proofs.Window

/-! ### Limit edges (R141, R144) -/

/-- An event that leaves the chip as it is leaves the state as it is, whether or not the main die acts. -/
theorem run_whileRuns_unchanged {f : Chip → Chip} {s : State} (h : f s.chip = s.chip) : run (whileRuns f) s = .next s := by
  have hid : whileRuns f s.chip = id s.chip := by
    unfold whileRuns
    rw [h]
    exact ite_self _
  exact next_onChip hid

/-- An edge to a level that the source does not have is no edge. -/
theorem limitEdge_otherLevel {c : Chip} {n : Nat} {positive active : Bool} (h : limLevel c n positive ≠ active) :
    limitEdge n positive active c = c := if_pos (by simpa using h)

/-- The level of a limit stored in its axis. -/
def storeLimit (positive active : Bool) (a : Axis) : Axis := if positive then { a with limPos := active } else { a with limNeg := active }

/-- An edge waits for the frame's end where the limit was not active before and the axis is homing, or moves under its limits (R141). -/
def limitEdgeCounts (c : Chip) (n : Nat) (positive active : Bool) : Bool :=
  active && !(if positive then (axis c n).limPos else (axis c n).limNeg) &&
    ((axis c n).state == .homing || ((axis c n).state == .moving && hlimEn c n))

/-- The axis after an edge of one of its limits: of its fields, the level of that limit and the edge that waits. -/
def afterLimitEdge (c : Chip) (n : Nat) (positive active : Bool) : Axis :=
  { axis c n with
    limPos := if positive then active else (axis c n).limPos
    limNeg := if positive then (axis c n).limNeg else active
    limEdge := if limitEdgeCounts c n positive active then some positive else (axis c n).limEdge }

theorem storeLimit_marked (positive active marks : Bool) (a : Axis) :
    (if marks then { storeLimit positive active a with limEdge := some positive } else storeLimit positive active a) =
      { a with
        limPos := if positive then active else a.limPos
        limNeg := if positive then a.limNeg else active
        limEdge := if marks then some positive else a.limEdge } := by
  cases positive <;> cases marks <;> rfl

theorem limitEdge_level {c : Chip} {n : Nat} {positive active : Bool} (h : limLevel c n positive = active) :
    limitEdge n positive active c = setAxis n (afterLimitEdge c n positive active) c :=
  (if_neg (by simp [h])).trans
    (congrArg (setAxis n · c) (storeLimit_marked positive active (limitEdgeCounts c n positive active) (axis c n)))

/-! ### Homing (R143, R145) -/

section
variable {c : Chip} {n : Nat} (hst : (axis c n).state = .homing) (hph : (axis c n).home.phase = 1) (hedge : (axis c n).home.edge = none)
  (hrev : (axis c n).home.reversing = false)
include hst hph hedge hrev

/-- The home input is the reference of the methods that name it, on the edge that FLAGS chooses. -/
theorem homeEdge_home {active : Bool} (hm : (axis c n).home.method ∈ [1, 2, 7, 8]) (hd : (axis c n).home.dwellEnd = none)
    (hflag : active ≠ bit (axis c n).home.flags 1) (hlevel : homeLevel c n = active) :
    homeEdge n (.home active) c = homeLatch n (refPos c n 16 active) c := by
  simp only [List.mem_cons, List.not_mem_nil, or_false] at hm
  rcases hm with hm | hm | hm | hm <;>
    simp [homeEdge, hst, hph, hedge, hrev, hm, hd, hflag, hlevel]

/-- The positive limit is the reference of method 3. -/
theorem homeEdge_limitPos (hm : (axis c n).home.method = 3) (hlevel : limLevel c n true = true) :
    homeEdge n .limit c = homeLatch n (refPos c n 0 true) c := by
  simp [homeEdge, hst, hph, hedge, hrev, hm, hlevel]

/-- The negative limit is the reference of method 4. -/
theorem homeEdge_limitNeg (hm : (axis c n).home.method = 4) (hlevel : limLevel c n false = true) :
    homeEdge n .limit c = homeLatch n (refPos c n 8 true) c := by
  simp [homeEdge, hst, hph, hedge, hrev, hm, hlevel]

/-- The index is the reference of methods 5 and 6. -/
theorem homeEdge_index (hm : (axis c n).home.method = 5 ∨ (axis c n).home.method = 6) (hd : (axis c n).home.dwellEnd = none)
    (hindex : fbIndex c n = true) : homeEdge n .index c = homeLatch n (fbNow c n) c := by
  rcases hm with hm | hm <;> simp [homeEdge, hst, hph, hedge, hrev, hm, hd, hindex]

end

theorem dwellOver_due {c : Chip} {n t : Nat} (hd : (axis c n).home.dwellEnd = some t) (hdue : t ≤ c.clk.now) :
    dwellOver n c = modAxis n (fun a => { a with home := { a.home with dwellEnd := none } }) c := by
  simp [dwellOver, modAxis, hd, hdue]

/-! ### Latches (R172 to R174) -/

theorem latBase_cases (l : Fin 2) : latBase l.val = 0x100 ∨ latBase l.val = 0x140 := by fin_cases l <;> decide

/-- The write of LAT_ARM with bit 0 set arms the latch. -/
theorem axmWrite_latArm (n : Nat) (l : Fin 2) (c : Chip) :
    axmWrite n (latBase l.val + 0x2C) 1 c = setLat n l.val { latSt (axis c n) l.val with armed := true } c := by
  fin_cases l <;> rfl

theorem regPage_latArm {s : State} {path : Path} {n : Fin 160} (l : Fin 2) (h : CanWrite s path (.axm n)) :
    regPage path (.axm n) (latBase l.val + 0x2C) 1 s =
      onChip (fun c => taken path (.axm n) (latBase l.val + 0x2C) (setLat n.val l.val { latSt (axis c n.val) l.val with armed := true } c)) s := by
  obtain ⟨row, hrow, hpair, hacc, hmask, hlegal⟩ := latRow n l
  have hb := latBase_cases l
  have hc : cleanReg s.chip path (.axm n) (latBase l.val + 0x2C) row 1 = (1, false) :=
    cleanReg_eq _ _ _ _ _ _ (by rw [hmask]; rfl) (by rw [hlegal]; rfl) (by rcases hb with hb | hb <;> rw [hb] <;> rfl)
  rw [regPage_took (f := axmWrite n.val (latBase l.val + 0x2C) 1) h (by omega) (by omega) (by omega) hrow hpair (by simp [hacc]) (by simp [hacc]) hc
    (by rw [hmask]; rfl) rfl]
  exact onChip_congr (congrArg _ (axmWrite_latArm n.val l s.chip))

/-- What an enabled edge enters: the position at the time of the edge, and that time. -/
def latchEntry (c : Chip) (n l : Nat) (rising : Bool) : LatEntry :=
  let t := edgeTime c (fld (act c (axmPage n) (latBase l)) 6 0) rising
  { extrap := (latchPos c n l t).2, rising := rising, pos := (latchPos c n l t).1, ns := t % 1000000000, s := t / 1000000000 }

/-- An enabled edge of an armed latch without a window disarms it and waits for the frame knot. -/
theorem latchEdge_armed {c : Chip} {n l : Nat} {rising : Bool} (hsrc : fld (act c (axmPage n) (latBase l)) 6 0 ≠ 0)
    (hphys : fld (act c (axmPage n) (latBase l)) 6 0 ≤ 2 → n < 128)
    (hpin : 11 ≤ fld (act c (axmPage n) (latBase l)) 6 0 → isOut c.field (fld (act c (axmPage n) (latBase l)) 6 0 - 11) = false)
    (hedge : bit (act c (axmPage n) (latBase l)) (if rising then 8 else 9) = true) (harm : (latSt (axis c n) l).armed = true)
    (hmode : bit (act c (axmPage n) (latBase l)) 13 = false) (hwin : bit (act c (axmPage n) (latBase l)) 14 = false)
    (hp : pageEnabled c (axmPage n) = true) :
    latchEdge n l rising c =
      setLat n l { latSt (axis c n) l with armed := false, pend := (latSt (axis c n) l).pend ++ [latchEntry c n l rising] } c := by
  have hlow : ¬ (fld (act c (axmPage n) (latBase l)) 6 0 ≤ 2 ∧ (!isPhys n) = true) := by
    rintro ⟨h2, hv⟩
    simp [isPhys, hphys h2] at hv
  have hout : ¬ (11 ≤ fld (act c (axmPage n) (latBase l)) 6 0 ∧ isOut c.field (fld (act c (axmPage n) (latBase l)) 6 0 - 11) = true) := by
    rintro ⟨h11, ho⟩
    simp [hpin h11] at ho
  simp only [latchEdge, hsrc, hedge, harm, hmode, hwin, hp, hlow, hout]
  rfl

/-- LATF_POP of a FIFO that holds entries answers the oldest and removes it. -/
theorem latfPop_oldest {c : Chip} {path : Path} {n l : Nat} {e : LatEntry} {f : List LatEntry} (hl : (latSt (axis c n) l).fifo = e :: f) :
    latfPop path n l c =
      (heldSet path (pageBase (axmPage n) + latBase l + 0x28) (w32 e.s) (heldSet path (pageBase (axmPage n) + latBase l + 0x24) (half (wrapQ e.pos) true)
        (heldSet path (pageBase (axmPage n) + latBase l + 0x20) (half (wrapQ e.pos) false) (heldSet path (pageBase (axmPage n) + latBase l + 0x1C) (w32 e.ns)
          (setLat n l { latSt (axis c n) l with fifo := f } c)))), w32 (e.seq.toNat + flag e.extrap 16 + flag e.rising 17)) := by
  simp only [latfPop, hl]

/-- The read of LATF_POP of a latch is its pop. -/
theorem pageRead_latfPop (path : Path) (n : Fin 160) (l : Fin 2) (c : Chip) :
    pageRead path (.axm n) (latBase l.val + 0x18) c = latfPop path n.val l.val c := by
  fin_cases l <;> rfl

theorem regRead_latfPop {s : State} {path : Path} (n : Fin 160) (l : Fin 2) (h : fabricUp s.chip path = true) :
    regRead path (pageBase (.axm n) + latBase l.val + 0x18) s =
      onChip (fun c => answered path (.axm n) (latBase l.val + 0x18) (latfPop path n.val l.val c).2 (latfPop path n.val l.val c).1) s := by
  have hb := latBase_cases l
  rw [Nat.add_assoc, regRead_page s path (.axm n) (latBase l.val + 0x18) h (by omega) (by omega), pageRead_latfPop]
  rfl

/-! ### Compares on the spare gate output (R175, R177) and step pulses (R179 to R181) -/

theorem spareSwitch_due {c : Chip} {n u : Nat} {x : CmpSched}
    (hx : (cmpSt (axis c n) u).sched.find? (fun s => s.output == 65 && !s.switched && decide (s.time ≤ timeNs c)) = some x) :
    spareSwitch n u c = spareAct n u x (setCmp n u { cmpSt (axis c n) u with
      sched := if x.confirmed then (cmpSt (axis c n) u).sched.filter (fun q => q != x)
        else (cmpSt (axis c n) u).sched.map (fun q => if q = x then { q with switched := true } else q) } c) := by
  simp only [spareSwitch, hx]

/-- Another unit of the axis holds the spare output active. -/
def otherPulse (c : Chip) (n u : Nat) : Bool :=
  (List.range 4).any (fun v => v != u && (match (cmpSt (axis c n) v).spareEnd with | some e => decide (timeNs c < e) | none => false))

theorem sparePulseEnd_due {c : Chip} {n u t : Nat} (ht : (cmpSt (axis c n) u).spareEnd = some t) (hdue : t ≤ timeNs c) :
    sparePulseEnd n u c = setCmp n u { cmpSt (axis c n) u with spareEnd := none }
      (if otherPulse c n u then c else modMod n (fun m => { m with cmpLevel := false }) c) := by
  simp only [sparePulseEnd, ht, if_pos hdue]
  rfl

/-- The number of ticks to the next carry of a step generator (R179). -/
def ticksToCarry (x : StepSt) : Nat := (2 ^ 48 - x.phase + x.inc - 1) / x.inc

theorem stepPulse_due {c : Chip} {n : Nat} (hp : pulseAxis c n = true) (hinc : (axis c n).step.inc ≠ 0)
    (hdue : max ((axis c n).step.ticks + ticksToCarry (axis c n).step) (if (axis c n).step.wait then actF c (axmPage n) 0x0F0 31 16 else 0) ≤ frameTicksNow c) :
    stepPulse n c = emit (.stepPulse n (axis c n).step.neg (actF c (axmPage n) 0x0F0 15 0)) (setAxis n { axis c n with
      step := { stepAdvance (axis c n).step (ticksToCarry (axis c n).step) with
        wait := (axis c n).step.wait && decide ((axis c n).step.ticks + ticksToCarry (axis c n).step < actF c (axmPage n) 0x0F0 31 16) } } c) :=
  (if_neg (by simp [hp, hinc])).trans (if_pos hdue)

/-! ### The statement -/

/-- Settles O22: each event is its rule above on the chip at hand, and the two register commands are their accesses of the window. -/
theorem axisLimitsLatchesAndCompares : Obligations.AxisLimitsLatchesAndCompares := by
  unfold Obligations.AxisLimitsLatchesAndCompares
  refine ⟨?noEdge, ?limitEdge, ?reference, ?dwell, ?arm, ?latch, ?pop, ?spareSwitch, ?pulseEnd, ?step⟩
  case noEdge =>
    intro s n positive active h
    exact run_whileRuns_unchanged (limitEdge_otherLevel h)
  case limitEdge =>
    intro s n positive active hm h
    refine ⟨_, run_live_as hm (limitEdge_level h), rfl, rfl, rfl, ?_, ?_, ?_, ?_, fun k hk => axis_setAxis_ne _ _ _ _ hk⟩
    all_goals rw [onChip_chip, axis_setAxis]; rfl
  case reference =>
    intro s n hm hst hph hedge hrev
    exact ⟨fun active hmeth hd hflag hlevel => run_live_as hm (homeEdge_home hst hph hedge hrev hmeth hd hflag hlevel),
      fun hmeth hlevel => run_live_as hm (homeEdge_limitPos hst hph hedge hrev hmeth hlevel),
      fun hmeth hlevel => run_live_as hm (homeEdge_limitNeg hst hph hedge hrev hmeth hlevel),
      fun hmeth hd hindex => run_live_as hm (homeEdge_index hst hph hedge hrev hmeth hd hindex)⟩
  case dwell =>
    intro s n t hm hd hdue
    exact run_live_as hm (dwellOver_due hd hdue)
  case arm =>
    intro s path n l h
    exact congrArg Host.Outcome.next (regPage_latArm l h)
  case latch =>
    intro s n l rising hm hsrc hphys hpin hedge harm hmode hwin hp
    exact run_live_as hm (latchEdge_armed hsrc hphys hpin hedge harm hmode hwin hp)
  case pop =>
    intro s path n l e f h hl
    refine congrArg Host.Outcome.next ((regRead_latfPop n l h).trans (onChip_congr ?_))
    rw [latfPop_oldest hl, axmFin]
  case spareSwitch =>
    intro s n u x hm hx
    exact run_live_as hm (spareSwitch_due hx)
  case pulseEnd =>
    intro s n u t hm ht hdue
    exact run_live_as hm (sparePulseEnd_due ht hdue)
  case step =>
    intro s n m hm hp hinc hcarry hdue
    subst hcarry
    exact run_live_as hm (stepPulse_due hp hinc hdue)

end Sys2Proof.Proofs.AxisInputs
end

section
/-!
The loop engine's register commands and the bus group's inputs (R207, R211, R224, R231, R235, R239): the read of the observations, the writes of the model
and of the largest voltage, the end of an estimated stop, the chopper's feedback and the trip input; with the statement about them.
-/

namespace Sys2Proof.Proofs.LoopEngines

open Sys2Proof Sys2Proof.Machine Sys2Proof.Laws.LoopRows Sys2Proof.Proofs.Window

/-! ### Observations and the model's coefficients (R191, R207, R211) -/

/-- The read of LPA_OBS_SEQ is the snapshot of the observations, not a plain read. -/
theorem regRead_obsSeq {s : State} {path : Path} (n : Fin 128) (h : fabricUp s.chip path = true) :
    regRead path (pageBase (.lpa n) + 0x04C) s =
      onChip (fun c => answered path (.lpa n) 0x04C (obsSeqRead path n.val c).2 (obsSeqRead path n.val c).1) s := by
  have hread : pageRead path (.lpa n) 0x04C s.chip = obsSeqRead path n.val s.chip := rfl
  rw [regRead_page s path (.lpa n) 0x04C h (by omega) (by omega), hread]
  rfl

/-- A coefficient that R191 allows is no reserved encoding of its register. -/
theorem crossKeep_lawfulCoef {c : Chip} {n : Fin 128} {off : Nat} {v : Word} (old : Word) (h : loopCoefOk off v = true) :
    crossKeep c (.lpa n) off old v = (v, false) := if_pos h

/-- A write of a register of the observer's model starts its settling anew. -/
theorem lpaWrite_model (n : Nat) (reg : Fin 7) (v : Word) (c : Chip) :
    lpaWrite n (0x100 + 4 * reg.val) v c =
      setLoop n { loopAx c n with settling := 16 } (wr (lpaPage n) (0x100 + 4 * reg.val) v c) :=
  if_pos ⟨by omega, by omega⟩

theorem regPage_model {s : State} {path : Path} {n : Fin 128} {reg : Fin 7} {v : Word} (h : CanWrite s path (.lpa n))
    (hv : v &&& 0x3FFFFFFF = v) (hcoef : loopCoefOk (0x100 + 4 * reg.val) v = true) :
    regPage path (.lpa n) (0x100 + 4 * reg.val) v s = onChip (fun c => taken path (.lpa n) (0x100 + 4 * reg.val)
      (setLoop n.val { loopAx c n.val with settling := 16 } (wr (lpaPage n.val) (0x100 + 4 * reg.val) v c))) s := by
  obtain ⟨row, hrow, hpair, hacc, hmask, hlegal⟩ := mdlRow reg
  have hm : v &&& row.mask = v := by rw [hmask, hv]
  have hc : cleanReg s.chip path (.lpa n) (0x100 + 4 * reg.val) row v = (v, false) :=
    cleanReg_eq _ _ _ _ _ _ hm (by rw [hlegal]; rfl) (crossKeep_lawfulCoef _ hcoef)
  have hb : blockWrite path (.lpa n) (0x100 + 4 * reg.val) row v s = took (lpaWrite n.val (0x100 + 4 * reg.val) v) s :=
    if_neg (by simp [hacc])
  rw [regPage_took h (by omega) (by omega) (by omega) hrow hpair (by simp [hacc]) (by simp [hacc]) hc hm hb]
  exact onChip_congr (congrArg _ (lpaWrite_model n.val reg v s.chip))

/-! ### The end of an estimated stop (R224) -/

theorem endEstimate_over {c : Chip} {n : Nat} (h : estimateOver c n = true) :
    endEstimate n c = requestBlock n true (modSup n (fun s => { s with estimating := false }) c) := if_pos h

/-! ### Inputs and the largest voltage of a bus group (R231, R235, R239) -/

/-- The feedback of a configured group that watches it must agree with the chopper's command. -/
theorem brkfbTimeout_watched {c : Chip} {b : Nat} {level : Bool} (hconf : (busSt c b).configured = true)
    (hen : bit (rd c (busPage b) 0x040) 11 = true) :
    brkfbTimeout b level c = (if (level != bit (rd c (busPage b) 0x040) 12) = (busSt c b).chopOn then id else chopFault b)
      (setBus b { busSt c b with brkfb := level } c) := by
  by_cases hagree : (level != bit (rd c (busPage b) 0x040) 12) = (busSt c b).chopOn
  · rw [if_pos hagree]
    exact if_neg (by simp [hagree])
  · rw [if_neg hagree]
    exact if_pos (by rw [hconf, hen]; exact bne_iff_ne.mpr hagree)

/-- An edge to the active level that was held for the filter time trips a configured group that is not tripped by its input yet. -/
theorem tripIn_qualified {c : Chip} {b held : Nat} {level : Bool} (hconf : (busSt c b).configured = true)
    (hen : bit (rd c (busPage b) 0x040) 9 = true) (hlevel : level ≠ bit (rd c (busPage b) 0x040) 10)
    (hheld : actF c (busPage b) 0x06C 7 0 ≤ held) (hnew : (busSt c b).tripIn = false) :
    tripIn b level held c = busFaults b [(0x43, fld (rd c (busPage b) 0x040) 26 24)]
      (raise (busPage b) 13 (setBus b { busSt c b with tripIn := true } c)) :=
  if_neg (by simp [hconf, hen, hlevel, hheld, hnew])

/-- The row of BUS_V_MAX: every bit of the register may be written. -/
theorem vMaxRow (b : Fin 16) : ∃ row, findRow (pageRows (.bus b)) 0x078 = some (row, false) ∧
    row.pair = false ∧ row.acc = .rw ∧ row.mask = 0xFFFFFFFF ∧ row.legal = [] := ⟨_, rfl, rfl, rfl, rfl, rfl⟩

/-- Whatever is written to BUS_V_MAX, the maximum becomes the present voltage. -/
theorem regPage_vMax {s : State} {path : Path} {b : Fin 16} (v : Word) (h : CanWrite s path (.bus b)) :
    regPage path (.bus b) 0x078 v s =
      onChip (fun c => taken path (.bus b) 0x078 (setBus b.val { busSt c b.val with vMax := (busSt c b.val).v } c)) s := by
  obtain ⟨row, hrow, hpair, hacc, hmask, hlegal⟩ := vMaxRow b
  have hm : v &&& row.mask = v := by rw [hmask]; exact BitVec.and_allOnes
  have hc : cleanReg s.chip path (.bus b) 0x078 row v = (v, false) :=
    cleanReg_eq _ _ _ _ _ _ hm (by rw [hlegal]; rfl) rfl
  have hb : blockWrite path (.bus b) 0x078 row v s = took (busWrite b.val 0x078 v) s := if_neg (by simp [hacc])
  rw [regPage_took h (by omega) (by omega) (by omega) hrow hpair (by simp [hacc]) (by simp [hacc]) hc hm hb]
  rfl

/-! ### The statement -/

/-- Settles O23: the register commands are their accesses of the window, and each event is its rule above on the chip at hand. -/
theorem loopEngineAndBusGroups : Obligations.LoopEngineAndBusGroups := by
  unfold Obligations.LoopEngineAndBusGroups
  refine ⟨?observations, ?model, ?estimate, ?feedback, ?trip, ?release, ?maximum⟩
  case observations =>
    intro s path n hu
    exact congrArg Host.Outcome.next (regRead_obsSeq n hu)
  case model =>
    intro s path n reg v h hv hcoef
    exact congrArg Host.Outcome.next (regPage_model h hv hcoef)
  case estimate =>
    intro s n hm hover
    exact run_live_as hm (endEstimate_over hover)
  case feedback =>
    intro s b level hm hconf hen
    exact run_live_as hm (brkfbTimeout_watched hconf hen)
  case trip =>
    intro s b level held hm hconf hen hlevel hheld hnew
    exact run_live_as hm (tripIn_qualified hconf hen hlevel hheld hnew)
  case release =>
    intro s b hm
    exact run_live hm
  case maximum =>
    intro s path b v h
    exact congrArg Host.Outcome.next (regPage_vMax v h)

end Sys2Proof.Proofs.LoopEngines
end

section
/-!
The modulators (R247 to R254, R259, R264, R334): the apply points of a carrier, the edges of a phase that commutes, trips of the comparators, the
calibration of the delay lines and STO, each as what it comes to where its condition holds; with the statement about them.
-/

namespace Sys2Proof.Proofs.Modulators

open Sys2Proof Sys2Proof.Machine Sys2Proof.Proofs.AxisInputs

/-! ### Duties (R23, R248) -/

/-- A counter of a page's registers is no modulator's own state. -/
theorem modSt_cntWrap (p : Page) (off hi lo : Nat) (c : Chip) (n : Nat) : modSt (cntWrap p off hi lo c) n = modSt c n := rfl

theorem applyDuties_pending {c : Chip} {n : Nat} (h : (modSt c n).pendingSet = true) :
    applyDuties n c = cntWrap (modPage n) 0x074 15 0 (setMod n { modSt c n with duty := (modSt c n).shadow, pendingSet := false } c) := if_pos h

/-- A set that applies is no longer pending. -/
theorem modSt_applyDuties_pending {c : Chip} {n : Nat} (h : (modSt c n).pendingSet = true) :
    modSt (applyDuties n c) n = { modSt c n with duty := (modSt c n).shadow, pendingSet := false } := by
  rw [applyDuties_pending h, modSt_cntWrap, modSt_setMod]

/-- Applied sets are counted in the low half of the duty counters, modulo 2^16. -/
theorem rd_applyDuties_pending {c : Chip} {n : Nat} (h : (modSt c n).pendingSet = true) :
    rd (applyDuties n c) (modPage n) 0x074 = setFld (rd c (modPage n) 0x074) 15 0 ((rdF c (modPage n) 0x074 15 0 + 1) % 65536) := by
  rw [applyDuties_pending h]
  exact rd_wr ..

/-! ### The apply points of a carrier that runs (R248, R249, R252, R263, R265) -/

/-- A boundary of a running carrier, by the chip once the set has applied, the block request has acted and the trips are released, and by that chip
once the held levels are noted and the boundary is counted. -/
theorem carrierBoundary_runs {c c2 c4 : Chip} {n : Nat} (hmode : modMode c n = 0) (hcar : (modSt c n).carrier = true)
    (hclk : clkLost c .pwm = false) (h2 : c2 = releaseTrips n (actBlock n (narrowCheck n (applyDuties n c))))
    (h4 : c4 = (if (modSt c2 n).fallback then id else cntWrap (modPage n) 0x070 31 16)
      (modMod n (fun m => { m with safeHeld := safeCond c2 n, sysHeld := clkLost c2 .sys }) c2)) :
    carrierBoundary n c = planPeriod n (if clkLost c4 .sys && !(modSt c4 n).block then blockPulses n false c4 else c4) := by
  have hrun : ¬ (modMode c n ≠ 0 ∨ (!(modSt c n).carrier) = true ∨ clkLost c .pwm = true) := by simp [hmode, hcar, hclk]
  rw [ite_apply] at h4
  simp only [carrierBoundary, if_neg hrun, ← h2, modSt_modMod]
  rw [h4]
  rfl

/-- With DOUBLE_UPDATE, a set that is pending at the centre applies there, replans the falling half and marks the set late. -/
theorem carrierCentre_doubleUpdate {c : Chip} {n : Nat} (hmode : modMode c n = 0) (hcar : (modSt c n).carrier = true)
    (hclk : clkLost c .pwm = false) (hdouble : bit (act c (modPage n) 0x040) 2 = true) :
    carrierCentre n c = actBlock n (if (modSt c n).pendingSet then
        (let c1 := planFalling n (modSt (narrowCheck n (applyDuties n c)) n).car.mid (narrowCheck n (applyDuties n c))
         setLpe (n / 32) { lpe c1 (n / 32) with missed := true } c1) else c) := by
  have hrun : ¬ (modMode c n ≠ 0 ∨ (!(modSt c n).carrier) = true ∨ clkLost c .pwm = true ∨ (!bit (act c (modPage n) 0x040) 2) = true) := by
    simp [hmode, hcar, hclk, hdouble]
  by_cases hlate : (modSt c n).pendingSet = true
  · simp only [carrierCentre, if_neg hrun, if_pos hlate]
  · simp only [carrierCentre, if_neg hrun, if_neg hlate]

/-! ### The edges of a half-period (R250, R253, Table 10-2) -/

/-- A phase that commutes, and whose switch for the start of the half-period is on already, makes the two edges about its instant and no other. -/
theorem halfEdges_switch (x dt : Nat) (falling fallback : Bool) (start mid d : Rat) :
    halfEdges x falling fallback dt start mid (some falling) (.switch d) =
      ([{ t := (commuteAt fallback dt mid).1, gate := switchGate x falling, on := false },
        { t := (commuteAt fallback dt mid).2, gate := switchGate x (!falling), on := true }], some (!falling)) := by
  simp [halfEdges, commuteEdges]

/-- A phase whose low switch stays on makes no edge. -/
theorem halfEdges_low (x dt : Nat) (falling fallback : Bool) (start mid : Rat) :
    halfEdges x falling fallback dt start mid (some false) .low = ([], some false) := rfl

/-- A phase whose high switch stays on makes no edge. -/
theorem halfEdges_high (x dt : Nat) (falling fallback : Bool) (start mid : Rat) :
    halfEdges x falling fallback dt start mid (some true) .high = ([], some true) := rfl

theorem phaseRun_zero (tc dt mn : Rat) (stretch : Bool) : phaseRun tc dt mn stretch 0 = .low :=
  if_pos (by simp)

theorem phaseRun_full {tc : Rat} (dt mn : Rat) (stretch : Bool) (htc : 0 < tc) : phaseRun tc dt mn stretch 65536 = .high := by
  simp [phaseRun, not_le.mpr htc]

/-! ### Trips (R259, R260, R334) -/

theorem comparatorTrip_off {c : Chip} {n x : Nat} (h : compares c (portCh n x) = false) : comparatorTrip n x c = c :=
  if_neg (by simp [h])

/-- The first over-current trip of a port latches 0x50 and takes the reaction that OC_REACT names. -/
theorem comparatorTrip_first {c : Chip} {n x : Nat} (hcmp : compares c (portCh n x) = true)
    (hen : bit (act (comparator n x true c) (modPage n) 0x040) (8 + x) = true) (hnew : (modSt (comparator n x true c) n).oc.any id = false) :
    comparatorTrip n x c = react n (fld (act (comparator n x true c) (modPage n) 0x040) 14 12) 0x50
      (latchFault (modPage n) 0x50 (tripPort n (some x) (comparator n x true c))) := by
  have htrip : comparatorTrip n x c = ocTripOn n x (comparator n x true c) := if_pos hcmp
  rw [htrip]
  simp [ocTripOn, hen, hnew]

theorem modSt_modAxis (n m : Nat) (f : Axis → Axis) (c : Chip) : modSt (modAxis m f c) n = modSt c n := rfl

theorem modSt_raise (p : Page) (b n : Nat) (c : Chip) : modSt (raise p b c) n = modSt c n := by simp only [modSt, raise_mods]

theorem oc_offSides (n : Nat) (c : Chip) : (modSt (offSides n c) n).oc = (modSt c n).oc := by rw [offSides, modSt_modMod]

/-- A trip of a phase sets its over-current bit and no other; in PULSE mode the stop of STEP leaves the bits alone. -/
theorem oc_tripPort (n x : Nat) (c : Chip) : (modSt (tripPort n (some x) c) n).oc = (modSt c n).oc.set x true := by
  simp only [tripPort, modSt_raise, oc_offSides]
  split
  · rw [modSt_modAxis, modSt_modMod]
  · rw [modSt_modMod]

/-- Every trip of a port raises TRIP. -/
theorem evt_tripPort (n : Nat) (oc : Option Nat) (c : Chip) : bit (hdr (tripPort n oc c) (modPage n)).evt 8 = true :=
  evt_raise_self _ _ _ (by decide)

/-! ### Delay lines (R252) -/

/-- A calibration ends 200 µs after it began or after the reset; an enable that waited for it proceeds. -/
theorem delayCalDone_due {c : Chip} {n : Nat} (code : Byte) (hcal : (modSt c n).calOk = false)
    (hdue : max (modSt c n).calSince c.pwr.resetAt + 200000 ≤ c.clk.now) :
    delayCalDone n code c =
      (if (modSt c n).enHeld && (hdr c (modPage n)).en && (hdr c (modPage n)).state == .off then setState (modPage n) .ready else id)
        (setMod n { modSt c n with calOk := true, enHeld := false, code := code, code0 := code } c) := by
  have hend : ¬ ((modSt c n).calOk = true ∨ c.clk.now < max (modSt c n).calSince c.pwr.resetAt + 200000) := by
    simp [hcal, hdue]
  rw [ite_apply]
  exact if_neg hend

/-! ### STO (R264, Table 10-3) -/

theorem outState_sto {c : Chip} {n : Nat} (h : (modSt c n).sto = true) : outState c n = .inactive :=
  if_pos (by simp [h])

/-! ### The statement -/

/-- Settles O24: the carrier's events and the trips are their rules above on the chip at hand, and the events of an STO input are its fold over its axes. -/
theorem modulatorCarriersTripsAndSto : Obligations.ModulatorCarriersTripsAndSto := by
  unfold Obligations.ModulatorCarriersTripsAndSto
  refine ⟨?boundary, ?halves, ?duties, ?instants, ?applied, ?centre, ?notComparing, ?trip, ?tripMarks, ?release, ?calibrated, ?fallback, ?relock,
    ?stoOn, ?stoOff, ?stoOutputs⟩
  case boundary =>
    intro s n hmode hcar hclk
    exact ⟨_, _, rfl, rfl, next_onChip (carrierBoundary_runs hmode hcar hclk rfl rfl)⟩
  case halves =>
    intro x dt falling fallback start mid d
    exact ⟨halfEdges_switch .., halfEdges_low .., halfEdges_high ..⟩
  case duties =>
    intro tc dt mn stretch htc
    exact ⟨phaseRun_zero .., phaseRun_full dt mn stretch htc⟩
  case instants =>
    intro dt t
    rfl
  case applied =>
    intro c n h
    have hset := modSt_applyDuties_pending h
    exact ⟨congrArg ModSt.duty hset, congrArg ModSt.pendingSet hset, rd_applyDuties_pending h⟩
  case centre =>
    intro s n hmode hcar hclk hdouble
    exact next_onChip (carrierCentre_doubleUpdate hmode hcar hclk hdouble)
  case notComparing =>
    intro s n x h
    exact run_whileRuns_unchanged (comparatorTrip_off h)
  case trip =>
    intro s n x hm hcmp hen hnew
    exact run_live_as hm (comparatorTrip_first hcmp hen hnew)
  case tripMarks =>
    intro c n x
    exact ⟨oc_tripPort n x c, evt_tripPort n (some x) c⟩
  case release =>
    intro s n x hm
    exact run_live hm
  case calibrated =>
    intro s n code hm hcal hdue
    exact run_live_as hm (delayCalDone_due code hcal hdue)
  case fallback =>
    intro s j code locked hm
    exact run_live hm
  case relock =>
    intro s j code hm
    exact run_live hm
  case stoOn =>
    intro s j
    rfl
  case stoOff =>
    intro s j
    rfl
  case stoOutputs =>
    intro c n h
    exact outState_sto h

end Sys2Proof.Proofs.Modulators
end

section
/-!
The edges that a feedback channel counts (R274 to R282, R291): quadrature, Hall and step edges, the index, the teeth of a wheel and the switch input, each
as what it comes to where its condition holds; with the statement about them.
-/

namespace Sys2Proof.Proofs.FeedbackEdges

open Sys2Proof Sys2Proof.Machine Sys2Proof.Laws.FeedbackOps

/-! ### The levels that an edge brings (R271, Table 11-1) -/

/-- The channel's state with the accepted levels. F2 is taken as it comes where it is a signal of the encoder, and not where it is a switch input. -/
def withLevels (n : Nat) (f0 f1 f2 : Bool) (c : Chip) : FbkSt :=
  { fbkSt c n with f0 := f0, f1 := f1, f2 := if fbkMode c n = 2 ∨ (fbkMode c n = 1 ∧ !fbkBit c n 6) then f2 else (fbkSt c n).f2 }

theorem withLevels_quad {c : Chip} {n : Nat} (f0 f1 f2 : Bool) (hmode : fbkMode c n = 1) :
    withLevels n f0 f1 f2 c = { fbkSt c n with f0 := f0, f1 := f1, f2 := if fbkBit c n 6 then (fbkSt c n).f2 else f2 } := by
  cases hswitch : fbkBit c n 6 <;> simp [withLevels, hmode, hswitch]

theorem withLevels_hall {c : Chip} {n : Nat} (u v w : Bool) (hmode : fbkMode c n = 2) :
    withLevels n u v w c = { fbkSt c n with f0 := u, f1 := v, f2 := w } := by simp [withLevels, hmode]

theorem withLevels_step {c : Chip} {n : Nat} (f0 f1 f2 : Bool) (hmode : fbkMode c n = 5) :
    withLevels n f0 f1 f2 c = { fbkSt c n with f0 := f0, f1 := f1 } := by simp [withLevels, hmode]

/-! ### Encoder edges (R274, R275, R277, R278, R282) -/

section
variable {c : Chip} {n : Nat} (hon : fbkOn c n = true) (hgo : (fbkSt c n).halted = false)
include hon hgo

theorem counting_notHeld : ¬ ((!fbkOn c n) = true ∨ (fbkSt c n).halted = true) := by simp [hon, hgo]

theorem encoderEdge_quadStep {f0 f1 : Bool} (f2 : Bool) {d : Int} (hmode : fbkMode c n = 1)
    (hstep : quadStep (fbkSt c n).f0 (fbkSt c n).f1 f0 f1 = some d) (hd : d ≠ 0) :
    encoderEdge n f0 f1 f2 c = fbkCount n ((if fbkBit c n 4 then -1 else 1) * d) (setFbk n (withLevels n f0 f1 f2 c) c) := by
  simp only [encoderEdge, if_neg (counting_notHeld hon hgo), hmode, hstep, if_neg hd, withLevels]

theorem encoderEdge_quadIllegal {f0 f1 : Bool} (f2 : Bool) (hmode : fbkMode c n = 1)
    (hstep : quadStep (fbkSt c n).f0 (fbkSt c n).f1 f0 f1 = none) :
    encoderEdge n f0 f1 f2 c = fbkIllegal n (setFbk n (withLevels n f0 f1 f2 c) c) := by
  simp only [encoderEdge, if_neg (counting_notHeld hon hgo), hmode, hstep, withLevels]

/-- From a known sector to a valid code: the sector is taken, and the change counts by its neighbourhood on the circle of six. -/
theorem encoderEdge_hallSector {u v w : Bool} {s0 s1 : Nat} (hmode : fbkMode c n = 2) (hfrom : (fbkSt c n).sector = some s0)
    (hto : hallSector c n u v w = some s1) :
    encoderEdge n u v w c = (if s1 = s0 then id else if s1 = (s0 + 1) % 6 then fbkCount n 1 else
        if s0 = (s1 + 1) % 6 then fbkCount n (-1) else fbkIllegal n)
      (modFbk n (fun y => { y with sector := some s1 }) (setFbk n (withLevels n u v w c) c)) := by
  simp only [encoderEdge, if_neg (counting_notHeld hon hgo), hmode, hto, hfrom, withLevels, ite_apply, id_eq]

/-- A rising step counts up where the direction input is at the level of INVERT_DIR, and down at the other one. -/
theorem encoderEdge_step (f1 f2 : Bool) (hmode : fbkMode c n = 5) (hlow : (fbkSt c n).f0 = false) :
    encoderEdge n true f1 f2 c = fbkCount n (if f1 = fbkBit c n 4 then 1 else -1) (setFbk n (withLevels n true f1 f2 c) c) := by
  have hdir : (if f1 then -(if fbkBit c n 4 then -1 else 1) else if fbkBit c n 4 then -1 else 1 : Int) =
      if f1 = fbkBit c n 4 then 1 else -1 := by
    cases f1 <;> cases fbkBit c n 4 <;> rfl
  have hrise : (true && !(fbkSt c n).f0) = true := by simp [hlow]
  simp only [encoderEdge, if_neg (counting_notHeld hon hgo), hmode, if_pos hrise, hdir, withLevels]

end

theorem count_fbkCount (n : Nat) (d : Int) (c : Chip) : (fbkSt (fbkCount n d c) n).count = wrapCount ((fbkSt c n).count + d) :=
  congrArg FbkSt.count (fbkSt_setFbk ..)

/-! ### The index (R276) -/

theorem rdPair_raise (q : Page) (b : Nat) (p : Page) (off : Nat) (c : Chip) : rdPair (raise q b c) p off = rdPair c p off := by
  simp only [rdPair, rd_raise]

/-- A pair keeps its value when another register of its page is written. -/
theorem rdPair_wr_ne (p : Page) {off o : Nat} (v : Word) (c : Chip) (hlo : o ≠ off) (hhi : o ≠ off + 4) :
    rdPair (wr p o v c) p off = rdPair c p off := by
  rw [rdPair, rd_wr_ne _ _ _ _ _ _ (by omega), rd_wr_ne _ _ _ _ _ _ (by omega), rdPair]

/-- A register keeps its value when a pair beside it is written. -/
theorem rd_wrPair_ne (p : Page) {off o : Nat} (v : DWord) (c : Chip) (hlo : off ≠ o) (hhi : off ≠ o + 4) :
    rd (wrPair p o v c) p off = rd c p off := by
  rw [wrPair, rd_wr_ne _ _ _ _ _ _ (by omega), rd_wr_ne _ _ _ _ _ _ (by omega)]

/-- The index registers after an index: its position, its time, and one more index counted with VALID set. -/
def indexLatched (n : Nat) (c : Chip) : Chip :=
  wr (fbkPage n) 0x070 (BitVec.ofNat 32 ((rdF c (fbkPage n) 0x070 15 0 + 1) % 65536 + 65536))
    (wr (fbkPage n) 0x07C (BitVec.ofNat 32 ((timeNs c - 10 * actF c (fbkPage n) 0x040 11 8) / 10 * 10 % 1000000000))
      (wrPair (fbkPage n) 0x074 (wrapQ (((fbkSt c n).count : Rat) + ofQ (rdPair c (fbkPage n) 0x058))) c))

theorem fbkIndex_gated {c : Chip} {n : Nat} (hon : fbkOn c n = true) (hmode : fbkMode c n = 1) (hindex : fbkBit c n 6 = false)
    (hgateA : actF c (fbkPage n) 0x040 13 12 % 2 = 1 → (fbkSt c n).f0 = true)
    (hgateB : 2 ≤ actF c (fbkPage n) 0x040 13 12 → (fbkSt c n).f1 = true) :
    fbkIndex n c = raise (fbkPage n) 10 (indexLatched n c) := by
  have hgate : ¬ (fbkMode c n ≠ 1 ∨ fbkBit c n 6 = true ∨ (!fbkOn c n) = true ∨ (actF c (fbkPage n) 0x040 13 12 % 2 = 1 ∧ (!(fbkSt c n).f0) = true) ∨
      (2 ≤ actF c (fbkPage n) 0x040 13 12 ∧ (!(fbkSt c n).f1) = true)) := by
    simpa [hmode, hindex, hon] using And.intro hgateA hgateB
  have hseq (v : Word) (w : DWord) : rdF (wr (fbkPage n) 0x07C v (wrPair (fbkPage n) 0x074 w c)) (fbkPage n) 0x070 15 0 = rdF c (fbkPage n) 0x070 15 0 := by
    rw [rdF, rd_wr_ne _ _ _ _ _ _ (by omega), rd_wrPair_ne _ _ _ (by omega) (by omega), rdF]
  simp only [fbkIndex, if_neg hgate, hseq, indexLatched]

theorem rdPair_indexLatched (n : Nat) (c : Chip) :
    rdPair (indexLatched n c) (fbkPage n) 0x074 = wrapQ (((fbkSt c n).count : Rat) + ofQ (rdPair c (fbkPage n) 0x058)) := by
  rw [indexLatched, rdPair_wr_ne _ _ _ (by omega) (by omega), rdPair_wr_ne _ _ _ (by omega) (by omega), rdPair_wrPair]

theorem rd_indexLatched_time (n : Nat) (c : Chip) :
    rd (indexLatched n c) (fbkPage n) 0x07C =
      BitVec.ofNat 32 ((timeNs c - 10 * actF c (fbkPage n) 0x040 11 8) / 10 * 10 % 1000000000) := by
  rw [indexLatched, rd_wr_ne _ _ _ _ _ _ (by omega), rd_wr]

theorem rd_indexLatched_seq (n : Nat) (c : Chip) :
    rd (indexLatched n c) (fbkPage n) 0x070 = BitVec.ofNat 32 ((rdF c (fbkPage n) 0x070 15 0 + 1) % 65536 + 65536) := rd_wr ..

/-! ### Teeth (R279, R280) -/

/-- The channel's state once a tooth is noted: its time is the last one, and it is counted since the reference. -/
def withTooth (n : Nat) (f1 : Bool) (c : Chip) : FbkSt :=
  { fbkSt c n with t1 := some (edgeNow c n), t2 := (fbkSt c n).t1, teeth := (fbkSt c n).teeth + 1, f1 := f1 }

section
variable {c : Chip} {n : Nat} {r : Rat} (f1 : Bool) (hon : fbkOn c n = true) (hgo : (fbkSt c n).halted = false) (hmode : fbkMode c n = 3)
  (hsync : (fbkSt c n).tooth = .sync) (hratio : toothRatio (fbkSt c n) (edgeNow c n) = some r)
  (hmissing : fld (act c (fbkPage n) 0x084) 15 12 ≠ 0)
include hon hgo hmode hsync hratio hmissing

/-- In SYNC a tooth after a gap is the reference, and the count moves over the missing teeth and this one. -/
theorem toothEdge_gap (hgap : (fld (act c (fbkPage n) 0x084) 23 16 : Rat) / 16 ≤ r) :
    toothEdge n f1 c = toothRef n ((fbkSt c n).teeth + 1) (fld (act c (fbkPage n) 0x084) 11 0 - fld (act c (fbkPage n) 0x084) 15 12)
      (fbkCount n (if toothDown c n f1 then -((fld (act c (fbkPage n) 0x084) 15 12 + 1 : Nat) : Int)
          else ((fld (act c (fbkPage n) 0x084) 15 12 + 1 : Nat) : Int)) (setFbk n (withTooth n f1 c) c)) := by
  obtain ⟨a, b, ha, hb, hba, hr⟩ := ratioCases _ _ _ hratio
  simp [toothEdge, hon, hgo, hmode, hsync, ha, hb, hba, hr, hmissing, hgap, withTooth]

/-- In SYNC a tooth without a gap before it moves the count by one; with fewer teeth than a revolution's it is no loss of the reference. -/
theorem toothEdge_noGap (hnear : r < (fld (act c (fbkPage n) 0x084) 23 16 : Rat) / 16)
    (hfew : (fbkSt c n).teeth + 1 < fld (act c (fbkPage n) 0x084) 11 0 - fld (act c (fbkPage n) 0x084) 15 12) :
    toothEdge n f1 c = fbkCount n (if toothDown c n f1 then -1 else 1) (setFbk n (withTooth n f1 c) c) := by
  obtain ⟨a, b, ha, hb, hba, hr⟩ := ratioCases _ _ _ hratio
  simp [toothEdge, hon, hgo, hmode, hsync, ha, hb, hba, hr, hmissing, not_le.mpr hnear, not_le.mpr hfew, withTooth]

end

/-! ### The switch input (R291) -/

/-- Where F2 is a switch input, a new level that has held for the filter time is taken and raises F2_EDGE. -/
theorem f2Edge_held {c : Chip} {n held : Nat} {level : Bool} (hon : fbkOn c n = true) (hhall : fbkMode c n ≠ 2)
    (hquad : fbkMode c n = 1 → fbkBit c n 6 = true) (hheld : actF c (fbkPage n) 0x06C 15 0 ≤ held) (hnew : (fbkSt c n).f2 ≠ level) :
    f2Edge n level held c = raise (fbkPage n) 14 (setFbk n { fbkSt c n with f2 := level } c) := by
  have hswitch : (fbkMode c n != 1 || fbkBit c n 6) = true := by
    by_cases hm : fbkMode c n = 1
    · simp [hquad hm]
    · simp [hm]
  exact if_neg (by simp [hhall, hswitch, hon, hheld, hnew])

/-! ### The statement -/

/-- Settles O25: each event is its rule above on the chip at hand; what an index leaves is read from its latched registers. -/
theorem encoderHallAndToothCounting : Obligations.EncoderHallAndToothCounting := by
  unfold Obligations.EncoderHallAndToothCounting
  refine ⟨?quadStep, ?quadIllegal, ?hall, ?step, ?count, ?index, ?gap, ?noGap, ?switch⟩
  case quadStep =>
    intro s n f0 f1 f2 d ⟨hm, hon, hgo⟩ hmode hstep hd
    exact run_live_as hm (withLevels_quad f0 f1 f2 hmode ▸ encoderEdge_quadStep hon hgo f2 hmode hstep hd)
  case quadIllegal =>
    intro s n f0 f1 f2 ⟨hm, hon, hgo⟩ hmode hstep
    exact run_live_as hm (withLevels_quad f0 f1 f2 hmode ▸ encoderEdge_quadIllegal hon hgo f2 hmode hstep)
  case hall =>
    intro s n u v w s0 s1 ⟨hm, hon, hgo⟩ hmode hfrom hto _
    exact run_live_as hm (withLevels_hall u v w hmode ▸ encoderEdge_hallSector hon hgo hmode hfrom hto)
  case step =>
    intro s n f1 f2 ⟨hm, hon, hgo⟩ hmode hlow
    exact run_live_as hm (withLevels_step true f1 f2 hmode ▸ encoderEdge_step hon hgo f1 f2 hmode hlow)
  case count =>
    intro n d c
    exact count_fbkCount n d c
  case index =>
    intro s n hm hon hmode hindex hgateA hgateB
    refine ⟨_, run_live_as (g := fun c => raise (fbkPage n) 10 (indexLatched n c)) hm (fbkIndex_gated hon hmode hindex hgateA hgateB), ?_, ?_, ?_, ?_⟩
    · exact (rdPair_raise ..).trans (rdPair_indexLatched n s.chip)
    · exact (rd_raise ..).trans (rd_indexLatched_time n s.chip)
    · exact (rd_raise ..).trans (rd_indexLatched_seq n s.chip)
    · exact evt_raise_self _ _ _ (by decide)
  case gap =>
    intro s n f1 r ⟨hm, hon, hgo⟩ hmode hsync hratio hmissing hgap
    exact run_live_as hm (toothEdge_gap f1 hon hgo hmode hsync hratio hmissing hgap)
  case noGap =>
    intro s n f1 r ⟨hm, hon, hgo⟩ hmode hsync hratio hmissing hnear hfew
    exact run_live_as hm (toothEdge_noGap f1 hon hgo hmode hsync hratio hmissing hnear hfew)
  case switch =>
    intro s n level held hm hon hhall hquad hheld hnew
    exact run_live_as hm (f2Edge_held hon hhall hquad hheld hnew)

end Sys2Proof.Proofs.FeedbackEdges
end

section
/-!
The words of a serial encoder (R284 to R287): the start of a read, the checks of a word, what it adds to the count, and a line that is late to return to
idle; with the statement about them.
-/

namespace Sys2Proof.Proofs.SerialWords

open Sys2Proof Sys2Proof.Machine

/-! ### A read (R284, R285) -/

theorem ssiReadStart_counting {c : Chip} {n : Nat} (data : Bool) (hon : fbkOn c n = true) (hgo : (fbkSt c n).halted = false) (hmode : fbkMode c n = 4) :
    ssiReadStart n data c = setFbk n { fbkSt c n with reading := some (c.clk.now, data), idleDue := none } c :=
  if_neg (by simp [hmode, hon, hgo])

/-- The word of a read that runs ends the read, leaves its round-trip time and the time by which the line must be idle, and is then an error or a good
word as its checks say. -/
theorem ssiWord_reading {c : Chip} {n t0 : Nat} {data : Bool} (word : BitVec 48) (started : Bool) (rtt : BitVec 16)
    (hread : (fbkSt c n).reading = some (t0, data)) :
    ssiWord n word started rtt c = ((ssiCheck c n word data started).elim (ssiGood n t0 word) (ssiError n))
      (wr (fbkPage n) 0x0A0 (rtt.setWidth 32) (setFbk n { fbkSt c n with
        reading := none, word := word, lateIdle := false, idleDue := some (c.clk.now + 1000 * actF c (fbkPage n) 0x094 15 0) } c)) := by
  simp only [ssiWord, hread]
  cases ssiCheck c n word data started <;> rfl

theorem ssiIdleTimeout_due {c : Chip} {n t : Nat} (hidle : (fbkSt c n).idleDue = some t) (hdue : t ≤ c.clk.now) :
    ssiIdleTimeout n c = setFbk n { fbkSt c n with lateIdle := true, idleDue := none } c := by
  simp only [ssiIdleTimeout, hidle, if_pos hdue]

/-! ### The checks of Table 11-3 -/

theorem ssiCheck_busy (c : Chip) (n : Nat) (word : BitVec 48) (started : Bool) : ssiCheck c n word false started = some .busy := rfl

theorem ssiCheck_timeout (c : Chip) (n : Nat) (word : BitVec 48) : ssiCheck c n word true false = some .timeout := rfl

/-! ### A good word (R287) -/

theorem fbkSt_raiseIf (q : Bool) (p : Page) (b n : Nat) (c : Chip) : fbkSt (raiseIf q p b c) n = fbkSt c n := by
  simp only [fbkSt, raiseIf_fbks]

/-- A word that follows another one, without Gray code, adds the signed difference of the two position fields modulo the field's width. -/
theorem count_ssiGood_binary {c : Chip} {n q : Nat} (t0 : Nat) (word : BitVec 48) (hlast : (fbkSt c n).field = some q) (hbin : fbkBit c n 19 = false) :
    (fbkSt (ssiGood n t0 word c) n).count = wrapCount ((fbkSt c n).count +
      signed (fld (act c (fbkPage n) 0x088) 21 16) (((word.toNat >>> fld (act c (fbkPage n) 0x088) 13 8) % 2 ^ fld (act c (fbkPage n) 0x088) 21 16 +
        2 ^ fld (act c (fbkPage n) 0x088) 21 16 - q) % 2 ^ fld (act c (fbkPage n) 0x088) 21 16)) := by
  have hgray : ¬ fbkBit c n 19 = true := by simp [hbin]
  simp only [ssiGood, fbkSt_raiseIf, fbkSt_setFbk, hlast, if_neg hgray]

/-! ### The statement -/

/-- Settles O26: each event is its rule above on the chip at hand, the word's by the two outcomes of its checks. -/
theorem serialPositionWords : Obligations.SerialPositionWords := by
  unfold Obligations.SerialPositionWords
  refine ⟨?start, ?word, ?idle, ?checks, ?good⟩
  case start =>
    intro s n data ⟨hm, hon, hgo⟩ hmode
    exact run_live_as hm (ssiReadStart_counting data hon hgo hmode)
  case word =>
    intro s n word started rtt t0 data hm hread
    refine run_live_as hm ((ssiWord_reading word started rtt hread).trans ?_)
    cases ssiCheck s.chip n.val word data started <;> rfl
  case idle =>
    intro s n t hm hidle hdue
    exact run_live_as hm (ssiIdleTimeout_due hidle hdue)
  case checks =>
    intro c n word started
    exact ⟨ssiCheck_busy c n word started, ssiCheck_timeout c n word⟩
  case good =>
    intro n t0 word c q hlast hbin
    exact count_ssiGood_binary t0 word hlast hbin

end Sys2Proof.Proofs.SerialWords
end

section
/-!
The sensorless drive between samples (R303 to R311): the ends of its timed states, its command pin and the loss of it, requests and their hysteresis, and
the start of the curve test; with the statement about them.
-/

namespace Sys2Proof.Proofs.SensorlessDrive

open Sys2Proof Sys2Proof.Machine Sys2Proof.Proofs.Window Sys2Proof.Proofs.HeaderWrites

/-! ### The ends of the timed states (R303 to R305, R308) -/

/-- The estimates at the end of ALIGN: the alignment angle for every angle that the drive holds, and no speed. -/
def alignedEstimates (n : Nat) (c : Chip) : Chip :=
  modSnl n (fun x => { x with
    theta := (actF c (snlPage n) 0x07C 31 16 : Rat) / 65536
    omega := 0
    thetaOl := (actF c (snlPage n) 0x07C 31 16 : Rat) / 65536
    outAngle := (actF c (snlPage n) 0x07C 31 16 : Rat) / 65536 }) c

theorem snlAlignEnd_due {c : Chip} {n : Nat} (hstate : (snlSt c n).state = .aligning)
    (hdue : (snlSt c n).since + actF c (snlPage n) 0x07C 15 0 * 1000000 ≤ c.clk.now) :
    snlAlignEnd n c =
      if (curvePoints c n).length < 2 then snlFault n 0x71 (alignedEstimates n c) else snlEnter n .ramp (alignedEstimates n c) :=
  if_neg (not_or_intro (not_not_intro hstate) (not_lt_of_ge hdue))

theorem snlCatchTimeout_due {c : Chip} {n : Nat} (hstate : (snlSt c n).state = .catching) (htake : (snlSt c n).takeover = false)
    (hdue : (snlSt c n).since + actF c (snlPage n) 0x070 31 16 * 1000000 ≤ c.clk.now) : snlCatchTimeout n c = snlAlign n c :=
  if_neg (not_or_intro (not_not_intro hstate) (not_or_intro (by simp [htake]) (not_lt_of_ge hdue)))

/-- A start is a catch where CATCH_EN is set, and an alignment where it is not. -/
theorem snlStart_eq (n : Nat) (c : Chip) :
    snlStart n c = if bit (act c (snlPage n) 0x040) 4 then snlEnter n .catching c else snlAlign n c := rfl

theorem snlCoastEnd_due {c : Chip} {n : Nat} (hstate : (snlSt c n).state = .coast)
    (hdue : (snlSt c n).since + actF c (snlPage n) 0x070 15 0 * 1000000 ≤ c.clk.now) :
    snlCoastEnd n c = if (snlSt c n).runReq then snlStart n c else snlIdle n c :=
  if_neg (not_or_intro (not_not_intro hstate) (not_lt_of_ge hdue))

theorem snlRetryClear_due {c : Chip} {n : Nat} (hstate : (snlSt c n).state = .run)
    (hdue : (snlSt c n).since + actF c (snlPage n) 0x074 31 16 * 1000000 ≤ c.clk.now) :
    snlRetryClear n c = setSnl n { snlSt c n with fails := 0 } c :=
  if_neg (not_or_intro (not_not_intro hstate) (not_lt_of_ge hdue))

/-! ### The command pin (R309) -/

/-- The time of an edge at the command pin: to 10 ns where the pin is the axis's own F0, and as stamped where it is a field pin. -/
def pinTime (c : Chip) (n t : Nat) : Nat := if actF c (snlPage n) 0x094 14 8 = 0 then t / 10 * 10 else t

/-- A rising edge that gives the command the share `x`: it ends a loss, and starts the next period. -/
def pinRise (n t : Nat) (x : Rat) (c : Chip) : Chip :=
  snlRequest n (setSnl n { snlSt c n with lastEdge := some c.clk.now, cmdLost := false, x := x, lastRise := some (pinTime c n t) } c)

/-- The share that a period of `per` ns gives: none anew for one of no length, the duty ratio for a source of kind 2, the frequency's share for kind 3. -/
def periodShare (c : Chip) (n : Nat) (per : Nat) : Rat :=
  if (per : Rat) = 0 then (snlSt c n).x
  else if actF c (snlPage n) 0x094 1 0 = 2 then minRat 1 (((snlSt c n).highTime : Rat) / (per : Rat))
  else freqShare c n (1000000000 / (per : Rat))

theorem periodShare_duty {c : Chip} {n per : Nat} (hper : 0 < per) (hsrc : actF c (snlPage n) 0x094 1 0 = 2) :
    periodShare c n per = minRat 1 (((snlSt c n).highTime : Rat) / (per : Rat)) := by
  rw [periodShare, if_neg (Nat.cast_ne_zero.mpr hper.ne'), if_pos hsrc]

theorem periodShare_frequency {c : Chip} {n per : Nat} (hper : 0 < per) (hsrc : actF c (snlPage n) 0x094 1 0 = 3) :
    periodShare c n per = freqShare c n (1000000000 / (per : Rat)) := by
  rw [periodShare, if_neg (Nat.cast_ne_zero.mpr hper.ne'), if_neg (by omega)]

/-- A rising edge on a pin that is the command's source, with the rise before it known: the period that ended gives the share. -/
theorem snlPinEdge_rise {c : Chip} {n r : Nat} (t : Nat) (hrise : (snlSt c n).lastRise = some r) (hsrc : 2 ≤ actF c (snlPage n) 0x094 1 0) :
    snlPinEdge n true t c = pinRise n t (periodShare c n (pinTime c n t - r)) c := by
  refine (if_neg (not_lt_of_ge hsrc)).trans ?_
  simp only [if_pos, hrise]
  rfl

theorem freqShare_full {c : Chip} {n : Nat} (hz : Rat) (hfull : ((act c (snlPage n) 0x098).toNat : Rat) ≠ 0) :
    freqShare c n hz = minRat 1 (hz / ((act c (snlPage n) 0x098).toNat : Rat)) := if_neg hfull

theorem snlCmdLost_due {c : Chip} {n : Nat} (hsrc : 2 ≤ actF c (snlPage n) 0x094 1 0) (hon : (snlSt c n).state ≠ .off)
    (hnew : (snlSt c n).cmdLost = false) (hdue : (snlSt c n).lastEdge.getD 0 + actF c (snlPage n) 0x094 31 24 * 1000000 ≤ c.clk.now) :
    snlCmdLost n c = snlRequest n (raise (snlPage n) 12 (setSnl n { snlSt c n with x := 0, cmdLost := true, lastRise := none } c)) :=
  if_neg (not_or_intro (not_lt_of_ge hsrc) (not_or_intro (by simp [hnew]) (not_or_intro hon (not_lt_of_ge hdue))))

/-! ### Requests (R309) -/

/-- Without INHIBIT, a request starts at V_ON, ends below V_OFF, and in between stays what it was. -/
theorem runReq_snlRequest {c : Chip} {n : Nat} (hfree : (snlSt c n).inhibit = false) :
    (snlSt (snlRequest n c) n).runReq =
      (decide (snlHz c n 0x08C ≤ absRat (snlFreq c n)) || (!decide (absRat (snlFreq c n) < snlHz c n 0x090) && (snlSt c n).runReq)) := by
  simp only [snlRequest, snlSt_setSnl, hfree, Bool.false_and, Bool.not_false, Bool.true_and]
  cases decide (snlHz c n 0x08C ≤ absRat (snlFreq c n)) with
  | true => rfl
  | false => cases decide (absRat (snlFreq c n) < snlHz c n 0x090) <;> rfl

/-! ### The curve test (R311) -/

theorem snlTestOk_iff {c : Chip} {n : Nat} : snlTestOk n c = true ↔ (snlSt c n).state = .idle ∧ (axis c n).state = .ready := by
  simp [snlTestOk]

theorem snlTest_begins {c : Chip} {n : Nat} (hok : snlTestOk n c = true) :
    snlTest n c = snlAlign n (wr (snlPage n) 0x0AC 0 (setSnl n { snlSt c n with test := true, testErr := none, testRefused := false } c)) :=
  if_pos hok

theorem snlTest_refused {c : Chip} {n : Nat} (hbad : ¬ snlTestOk n c = true) :
    snlTest n c = setSnl n { snlSt c n with testRefused := true } c := if_neg hbad

/-- The row of SNL_TEST: START is its one bit, and no encoding of it is reserved. -/
theorem testRow (n : Fin 128) : ∃ row, findRow (pageRows (.snl n)) 0x0A8 = some (row, false) ∧
    row.pair = false ∧ row.acc = .wo ∧ row.mask = 1 ∧ row.legal = [] := by
  by_cases h0 : n.val = 0
  · simp only [pageRows, if_pos h0]; exact ⟨_, rfl, rfl, rfl, rfl, rfl⟩
  · simp only [pageRows, if_neg h0]; exact ⟨_, rfl, rfl, rfl, rfl, rfl⟩

/-- A write of START has the effect of the test's start, and counts where the test is accepted. -/
theorem regPage_testStart {s : State} {path : Path} {n : Fin 128} (h : CanWrite s path (.snl n)) :
    regPage path (.snl n) 0x0A8 1 s =
      onChip (if snlTestOk n.val s.chip then taken path (.snl n) 0x0A8 else ended path (.snl n) 0x0A8) (onChip (snlTest n.val) s) := by
  obtain ⟨row, hrow, hpair, hacc, hmask, hlegal⟩ := testRow n
  exact regPage_plain (snlTestOk n.val s.chip) h (by omega) (by omega) (by omega) hrow hpair (by simp [hacc]) (.inl (by simp [hacc]))
    (by rw [hmask]; rfl) (by rw [hlegal]; rfl) rfl rfl

theorem regPage_testBegins {s : State} {path : Path} {n : Fin 128} (h : CanWrite s path (.snl n)) (hok : snlTestOk n.val s.chip = true) :
    regPage path (.snl n) 0x0A8 1 s = onChip (fun c => taken path (.snl n) 0x0A8
      (snlAlign n.val (wr (snlPage n.val) 0x0AC 0 (setSnl n.val { snlSt c n.val with test := true, testErr := none, testRefused := false } c)))) s := by
  rw [regPage_testStart h, if_pos hok, onChip_onChip]
  exact onChip_congr (congrArg _ (snlTest_begins hok))

theorem regPage_testRefused {s : State} {path : Path} {n : Fin 128} (h : CanWrite s path (.snl n)) (hbad : ¬ snlTestOk n.val s.chip = true) :
    regPage path (.snl n) 0x0A8 1 s =
      onChip (fun c => ended path (.snl n) 0x0A8 (setSnl n.val { snlSt c n.val with testRefused := true } c)) s := by
  rw [regPage_testStart h, if_neg hbad, onChip_onChip]
  exact onChip_congr (congrArg _ (snlTest_refused hbad))

/-! ### The statement -/

/-- Settles O27: each timed event, edge and loss is its rule above on the chip at hand, and the write of START is the test's start, accepted or not. -/
theorem sensorlessStatesAndCommand : Obligations.SensorlessStatesAndCommand := by
  unfold Obligations.SensorlessStatesAndCommand
  refine ⟨?align, ?catching, ?coast, ?retry, ?pin, ?share, ?lost, ?test, ?request⟩
  case align =>
    intro s n hm hstate hdue
    exact ⟨alignedEstimates n.val s.chip, rfl, run_live_as hm (snlAlignEnd_due hstate hdue)⟩
  case catching =>
    intro s n hm hstate htake hdue
    exact run_live_as hm (snlCatchTimeout_due hstate htake hdue)
  case coast =>
    intro s n hm hstate hdue
    refine run_live_as hm ((snlCoastEnd_due hstate hdue).trans ?_)
    rw [snlStart_eq, ite_apply, ite_apply]
  case retry =>
    intro s n hm hstate hdue
    exact run_live_as hm (snlRetryClear_due hstate hdue)
  case pin =>
    rintro s n t _ r hm rfl hrise hlater
    have hper : 0 < pinTime s.chip n.val t - r := Nat.sub_pos_of_lt hlater
    refine ⟨fun hsrc => ?_, fun hsrc => ?_⟩
    · exact run_live_as hm (periodShare_duty hper hsrc ▸ snlPinEdge_rise t hrise (by omega))
    · exact run_live_as hm (periodShare_frequency hper hsrc ▸ snlPinEdge_rise t hrise (by omega))
  case share =>
    intro c n hz hfull
    exact freqShare_full hz hfull
  case lost =>
    intro s n hm hsrc hon hnew hdue
    exact run_live_as hm (snlCmdLost_due hsrc hon hnew hdue)
  case test =>
    intro s path n h
    refine ⟨fun hidle hready => ?_, fun hbad => ?_⟩
    · exact congrArg Host.Outcome.next (regPage_testBegins h (snlTestOk_iff.mpr ⟨hidle, hready⟩))
    · exact congrArg Host.Outcome.next (regPage_testRefused h (fun hok => not_and_or.mpr hbad (snlTestOk_iff.mp hok)))
  case request =>
    intro n c hfree
    exact runReq_snlRequest hfree

end Sys2Proof.Proofs.SensorlessDrive
end

section
/-!
What every command and every step keeps: a next state is answered, the queue is left to the step, and the memories stay in their canonical
form. The three statements about the step as a whole follow.
-/

namespace Sys2Proof.Proofs.EveryStep

open Sys2Proof Sys2Proof.Machine

/-! ### Outcomes that keep the queue and the form of the memories -/

/-- The outcome is a next state, with the queue of `s` and with memories in canonical form if those of `s` are. -/
def KeepsOn (s : State) (o : Host.Outcome State Fault Refusal) : Prop := ∃ t, o = .next t ∧ Keeps s t

theorem keepsOn_next {s t : State} (h : Keeps s t) : KeepsOn s (.next t) := ⟨t, rfl, h⟩

theorem keepsOn_self (s : State) : KeepsOn s (.next s) := keepsOn_next (Keeps.refl s)

/-- A meaning that touches the chip alone keeps the rest. -/
theorem keepsOn_run (f : Chip → Chip) (s : State) : KeepsOn s (run f s) := keepsOn_next (keeps_onChip (Keeps.refl s))

theorem keepsOn_regPage (path : Path) (p : Page) (off : Nat) (v : Word) (s : State) : KeepsOn s (.next (regPage path p off v s)) :=
  keepsOn_next (keeps_regPage path p off v (Keeps.refl s))

theorem keepsOn_regWrite (path : Path) (off : Nat) (v : Word) (s : State) : KeepsOn s (.next (regWrite path off v s)) :=
  keepsOn_next (keeps_regWrite path off v (Keeps.refl s))

theorem keepsOn_regRead (path : Path) (off : Nat) (s : State) : KeepsOn s (.next (regRead path off s)) :=
  keepsOn_next (keeps_regRead path off (Keeps.refl s))

theorem keepsOn_ringCommand (h : Hdr) (op : HostOp) (s : State) : KeepsOn s (.next (ringCommand h op s)) :=
  keepsOn_next (keeps_ringCommand h op (Keeps.refl s))

theorem keeps_ite {s t u : State} {p : Prop} [Decidable p] (ht : Keeps s t) (hu : Keeps s u) : Keeps s (if p then t else u) := by
  split
  · exact ht
  · exact hu

theorem keepsOn_ite {s : State} {a b : Host.Outcome State Fault Refusal} {p : Prop} [Decidable p] (ha : KeepsOn s a) (hb : KeepsOn s b) :
    KeepsOn s (if p then a else b) := by
  split
  · exact ha
  · exact hb

/-- What is done only while the main die acts keeps what it keeps when done. -/
theorem keepsOn_whileActs {s t : State} {b : Bool} (h : Keeps s t) : KeepsOn s (.next (if b then t else s)) :=
  keepsOn_next (keeps_ite h (Keeps.refl s))

/-- An instruction of a core keeps what its effect after the fetch keeps. -/
theorem keepsOn_issue {s : State} {k : Nat} {w : Word} {ok : Word → Bool} {f : Nat → Word → State → State}
    (hf : ∀ v, Keeps s v → Keeps s (f k w v)) : KeepsOn s (.next (issue k w ok f s)) :=
  keepsOn_next (keeps_issue hf (Keeps.refl s))

/-! ### Transactions of several words (R30) -/

theorem keeps_regWrites {s : State} (path : Path) : ∀ (l : List Word) (off : Nat) (u : State), Keeps s u → Keeps s (regWrites path off l u)
  | [], _, _, h => h
  | v :: l, off, _, h => keeps_regWrites path l (off + 4) _ (keeps_regWrite path off v h)

theorem keeps_regReads {s : State} (path : Path) : ∀ (n off : Nat) (u : State), Keeps s u → Keeps s (regReads path n off u)
  | 0, _, _, h => h
  | n + 1, off, _, h => keeps_regReads path n (off + 4) _ (keeps_regRead path off h)

theorem keeps_writeAccess (path : Path) (off : Nat) (v : Word) (more : List Word) (full : Bool) (s : State) :
    Keeps s (writeAccess path off v more full s) :=
  keeps_ite (keeps_regWrite path off v (Keeps.refl s))
    (keeps_ite (keeps_regWrites path (v :: more) off s (Keeps.refl s)) (keeps_ite (keeps_onChip (Keeps.refl s)) (Keeps.refl s)))

theorem keeps_readAccess (path : Path) (off more : Nat) (full : Bool) (s : State) : Keeps s (readAccess path off more full s) :=
  keeps_ite (keeps_regRead path off (Keeps.refl s))
    (keeps_ite (keeps_regReads path (more + 1) off s (Keeps.refl s)) (keeps_ite (keeps_onChip (Keeps.refl s)) (Keeps.refl s)))

/-! ### Meanings with a shape of their own -/

theorem keeps_sync {s u : State} (k : Nat) (h : Keeps s u) :
    Keeps s (if (Machine.core u.chip k).stores.isEmpty then retireS k {} id u
      else onChip (modCore k (fun x => { x with cycles := (x.cycles + 1) % 2 ^ 64 })) u) :=
  keeps_ite (keeps_retireS k {} id h) (keeps_onChip h)

theorem keepsOn_coreInterruptEntry (k : Fin 8) (s : State) : KeepsOn s (execCoreInterruptEntry k s) := by
  unfold execCoreInterruptEntry
  exact keepsOn_ite (keepsOn_next (keeps_onChip (Keeps.refl s))) (keepsOn_self s)

theorem keepsOn_itemWatchdog (k : Fin 8) (s : State) : KeepsOn s (execItemWatchdog k s) := by
  dsimp only [execItemWatchdog]
  split
  · split
    · exact keepsOn_ite (keepsOn_next (keeps_coreFault _ _ (Keeps.refl s))) (keepsOn_self s)
    · exact keepsOn_self s
  · exact keepsOn_self s

theorem keepsOn_starved (slot : Fin 16384) (s : State) : KeepsOn s (execStarved slot s) := by
  dsimp only [execStarved]
  split
  · exact keepsOn_ite (keepsOn_next (keeps_onChip (keeps_endItem _ _ _ _ (Keeps.refl s)))) (keepsOn_self s)
  · exact keepsOn_self s

/-! ### Every command -/

/-- Every command answers a next state and keeps queue and form: most act on the chip alone, through a register of a page, through a ring, or
as an instruction of a core; the rest act on the memories. -/
theorem exec_keeps (i : Instr) (s : State) : KeepsOn s (exec i s) := by
  have r : Keeps s s := Keeps.refl s
  cases i with
  | clockLoss | pageResetComplete | sealCrcCheck | spliceLimitExpiry | apply | vectorMessage | ringResizeApply | heldCompletionPost | frameRx
  | frameTransmit | gclEntryChange | addressAgeing | linkUp | linkDown | mdioDone | icmpEchoRequest | ycpOpen | ycpKeepalive | ycpClose
  | sessionPendingTimeout | sessionTimeout | hitchFramePublish | pllLock | ppsinEdge | holdover | syncRx | followUpRx | delayReqRx | delayRespRx
  | pdelayReqRx | pdelayRespRx | announceRx | syncTx | announceTx | delayReqTx | knotPulseEnd | captureEdge | hardwareLimitEdge | homeReferenceEdge
  | homeDwellEnd | latchEdge | compareSpareSwitch | estimateStopEnd | brkfbTimeout | tripIn | carrierBoundary | carrierCentre | ocTrip
  | delayLineCalDone | fineFallback | replicaRelock | stoOn | stoOff | encoderEdge | index | toothEdge | ssiReadStart | ssiWord | ssiIdleTimeout
  | f2Edge | alignEnd | catchTimeout | coastEnd | retryClear | commandPinEdge | cmdLost | conversionDone | knotListStart | calDone | referenceFault
  | stuck | delayExpiry | preLate | affinityTimeout | drained | sequencerTimer | holdoffEnd | fieldInputEdge | tetherFrameTx | downlinkFrame
  | uplinkFrame | scheduleExecute | schedulePulseEnd | short | groupOver | tetherSilent | fieldSilence | sil2Expiry | vfieldSample | fieldPowerUp
  | belayCycle | belayStartDone | programFlowFault | memoryMarch | testPulse | ss1Elapsed | resetPulse | soutTest | commitWriteDone | dramRefresh
  | dramTempRead | zqCalibration | dramSelfRefresh | bootDone | challengeLapse | unlockLockoutEnd | levelLapsed | transitionDone | uartGapTimeout
  | pllUnlock | clockReturn | pcieLinkUp | pcieLinkDown | stepPulse | cmpPulseEnd | imageChecked | saveTestDone | comparatorRelease | tripRelease
  | referenceRecovered | safetyInputEdge => exact keepsOn_run _ s
  | pageEnable | pageDisable | pgReset | sealPage | spliceReq | pgEvtWrite | pgEvenWrite | pgEvsetWrite | pgFltClear | pgApply | pgOwnerWrite
  | evtMaskWrite | sqTailDb | sqReset | cqHeadDb | sqSizeWrite | cqSizeWrite | cqEnable | netMdioGo | sesClose | timHostOfs | timSetNs | latArm
  | mdlWrite | busVMaxWrite | snlTestStart | adcStart | calAll | fcoDoorbell | submit | dspCancel | dspCancelFlow | dspFlowCfg | dspCqHead | drain
  | trcRpWrite | trcCoilSizeWrite | trcForce | trcMark | trcCalStart | fldConfigWrite | fldShortClear | fldGroupEnWrite | blyCommit | restart
  | memInj | kepSaveBaseWrite | warmReset | provision | sealDevice | scrap | programKey | revokeKey | storePsk | dbgLevelWrite | halt | debugResume
  | dbgFcoStep | pwrStateRun | pwrStateHold | pwrStateDoze => exact keepsOn_regPage _ _ _ _ s
  | ycpOrphanPop | timNowRead | announcePop | capPop | latfPop | lpaObsSeqRead | adcSeqRead | sdfSeqRead | memElogPop | devSpliceLogPop => exact keepsOn_regRead _ _ s
  | regBatch | moveAbs | moveRel | moveVel | stop | resume | home | enable | groupMove | hitchSet | hitchRelease | camLoad | camVerify | fcoLoad
  | traceStart | traceStop | faultClear | saveTest => exact keepsOn_ringCommand _ _ s
  | pairLoWrite | pairHiWrite => exact keepsOn_regWrite _ _ _ s
  | registerWrite => exact keepsOn_next (keeps_writeAccess ..)
  | pairLoRead => exact keepsOn_next (keeps_readAccess ..)
  | uartRead | uartWrite => exact keepsOn_next (keeps_uartRequest _ r)
  | newChallenge | unlock => exact keepsOn_next (keeps_secOp _ _ r)
  | commandFetch => exact keepsOn_next (keeps_fetchCmds _ r)
  | bar2Write => exact keepsOn_next (keeps_bar2 _ _ r)
  | blockWatchdog => exact keepsOn_next (keeps_watchdogOn _ r)
  | scrubWord => exact keepsOn_next (keeps_scrubStep _ r)
  | frameKnot => exact keepsOn_next (keeps_withCal (fun _ => keeps_frameKnot _ _) r)
  | currentSample => exact keepsOn_next (keeps_currentSample _ _ _ _ r)
  | timeStep | knotFire => exact keepsOn_next (keeps_withCal (fun _ => keeps_onChip) r)
  | hitchFrameRx | subscriptionMiss => exact keepsOn_next (keeps_heldDue (keeps_onChip r))
  | powerOnReset => exact keepsOn_next (keeps_powerOn _ r)
  | porstNLow => exact keepsOn_next (keeps_coldReset _ r)
  | warmResetPin => exact keepsOn_next (keeps_ite (keeps_warmReset _ r) r)
  | flr => exact keepsOn_next (keeps_flrReset r)
  | rail => exact keepsOn_next (keeps_railLow _ _ r)
  | sag => exact keepsOn_next (keeps_sagOn _ r)
  | saveRestart => exact keepsOn_next (keeps_saveRestart _ r)
  | drainTimeout => exact keepsOn_next (keeps_ite r (keeps_drainTimeoutEvent _ r))
  | coreInterruptEntry => exact keepsOn_coreInterruptEntry _ s
  | itemWatchdog => exact keepsOn_itemWatchdog _ s
  | starved => exact keepsOn_starved _ s
  | camReadDone => exact keepsOn_whileActs (keeps_camRead _ r)
  | ycpRead | ycpWrite | ycpReadBlock | ycpWriteBlock | ycpCommand => exact keepsOn_whileActs (keeps_ycpRequest _ _ _ r)
  | externalLoadReturn => exact keepsOn_whileActs (keeps_extReturn _ _ r)
  | dispatcherCycle => exact keepsOn_whileActs (keeps_dspCycle (keeps_ite (keeps_spliceRun _ r) r))
  | coilWrite => exact keepsOn_whileActs (keeps_coilWrite r)
  | trcCalDone => exact keepsOn_whileActs (keeps_calFinish r)
  | dramTrained => exact keepsOn_whileActs (keeps_dramTrainedStep _ r)
  | loadDone => exact keepsOn_whileActs (keeps_loadDone _ r)
  | camVerifyDone => exact keepsOn_whileActs (keeps_verifyDone r)
  | imageLoaded => exact keepsOn_whileActs (keeps_imageLoaded _ r)
  | aluRegister | aluImmediate => exact keepsOn_issue (fun _ => keeps_doAlu _ _ _)
  | mac | msu | mpy | mac2 => exact keepsOn_issue (fun _ => keeps_doMac _ _ _ _)
  | localLoad => exact keepsOn_issue (fun _ => keeps_doLocalLoad _ _)
  | localStore => exact keepsOn_issue (fun _ => keeps_doLocalStore _ _)
  | externalLoad => exact keepsOn_issue (fun _ => keeps_doExtLoad _ _)
  | externalStore => exact keepsOn_issue (fun _ => keeps_doExtStore _ _)
  | branch | call | ret => exact keepsOn_issue (fun _ => keeps_doBranch _ _)
  | loopStart => exact keepsOn_issue (fun _ => keeps_doLoop _ _)
  | iterStart => exact keepsOn_issue (fun _ => keeps_doIter _ _)
  | minx | maxx => exact keepsOn_issue (fun _ => keeps_doExtreme _ _ _)
  | clra => exact keepsOn_issue (fun _ => keeps_doClra _ _)
  | adda => exact keepsOn_issue (fun _ => keeps_doAdda _ _)
  | mva => exact keepsOn_issue (fun _ => keeps_doMva _ _)
  | cwpk => exact keepsOn_issue (fun _ => keeps_doCwpk _ _)
  | cwup => exact keepsOn_issue (fun _ => keeps_doCwup _ _)
  | next => exact keepsOn_issue (fun _ => keeps_doNext _ _)
  | done | fail => exact keepsOn_issue (fun _ h => keeps_retireS _ _ _ (keeps_endTop _ _ _ h))
  | yield => exact keepsOn_issue (fun _ h => keeps_retireS _ _ _ (keeps_onChip h))
  | sync => exact keepsOn_issue (fun _ => keeps_sync _)
  | hevt => exact keepsOn_issue (fun _ h => keeps_ite (keeps_retireS _ _ _ (keeps_onChip h)) (keeps_retireS _ _ _ (keeps_onChip h)))
  | rti => exact keepsOn_issue (fun _ => keeps_onChip)
  | movs =>
    exact keepsOn_issue (fun _ h => keeps_ite (keeps_ite (keeps_retireS _ _ _ h) (keeps_retireS _ _ _ h)) (keeps_retireS _ _ _ h))

/-! ### The step -/

theorem step_of_empty {s : State} (h : s.pending = []) : step s = .next (idleTick s) := by
  unfold step
  rw [h]

theorem step_of_cons {s : State} {c : Instr} {rest : List Instr} (h : s.pending = c :: rest) : step s = exec c { s with pending := rest } := by
  unfold step
  rw [h]

/-! ### The statements -/

/-- Settles O55: an idle step is a tick, which keeps the form, and any other is a command on the same memories. -/
theorem memoryFormIsAnInvariant : Obligations.MemoryFormIsAnInvariant := by
  unfold Obligations.MemoryFormIsAnInvariant
  intro s t hwf hstep
  cases hp : s.pending with
  | nil =>
    obtain rfl : idleTick s = t := Host.Outcome.next.inj ((step_of_empty hp).symm.trans hstep)
    exact (keeps_idleTick (Keeps.refl s)).2 hwf
  | cons c rest =>
    obtain ⟨u, hu, -, hkeep⟩ := exec_keeps c { s with pending := rest }
    obtain rfl : u = t := Host.Outcome.next.inj (hu.symm.trans ((step_of_cons hp).symm.trans hstep))
    exact hkeep hwf

/-- Settles O54: what every command keeps holds the queue. -/
theorem everyCommandAnswersAndKeepsTheQueue : Obligations.EveryCommandAnswersAndKeepsTheQueue := by
  unfold Obligations.EveryCommandAnswersAndKeepsTheQueue
  intro i s
  obtain ⟨t, ht, hqueue, -⟩ := exec_keeps i s
  exact ⟨t, ht, hqueue⟩

/-- Settles O52: the step on a queue with a front is `exec` of it, and the state given to it is `s` with the rest. -/
theorem stepTakesTheFrontCommand : Obligations.StepTakesTheFrontCommand := by
  unfold Obligations.StepTakesTheFrontCommand
  intro s c rest
  exact step_of_cons rfl

end Sys2Proof.Proofs.EveryStep
end

section
/-!
Writes of 32-bit registers that no seal closes and of which no encoding is reserved (R35, R40): what such a write comes to, on any page. The
register commands of the chapters below are of this kind.
-/

namespace Sys2Proof.Proofs.FreeRegisters

open Sys2Proof Sys2Proof.Machine

/-- The offset is that of a 32-bit register with the defined bits `mask`, which a seal does not close and of which no encoding is reserved. -/
def FreeReg (p : Page) (off : Nat) (mask : Word) : Prop :=
  (0x040 ≤ off ∧ off < 0x800 ∧ off % 4 = 0) ∧ moreLegal p off = [] ∧
  ∃ row, findRow (pageRows p) off = some (row, false) ∧ row.pair = false ∧ row.acc ≠ .ro ∧ row.acc ≠ .rwl ∧ row.mask = mask ∧ row.legal = []

/-- A value within the defined bits comes to what the register's chapter makes of it. -/
theorem regPage_free {s s1 : State} {path : Path} {p : Page} {off : Nat} {mask v : Word} {ok : Bool} (hreg : FreeReg p off mask)
    (h : CanWrite s path p) (hm : v &&& mask = v) (hx : ∀ old, crossKeep s.chip p off old v = (v, false))
    (hb : ∀ row, blockWrite path p off row v s = (s1, ok)) :
    regPage path p off v s = onChip (if ok then taken path p off else ended path p off) s1 := by
  obtain ⟨⟨h1, h2, h3⟩, hmore, row, hrow, hpair, hro, hrwl, rfl, hlegal⟩ := hreg
  exact regPage_plain ok h h2 h3 h1 hrow hpair hro (.inl hrwl) hm (by rw [hlegal, hmore]; rfl) (hx _) (hb row)

/-- One whose effect on the chip is always taken counts as a write of its page (R39). -/
theorem regPage_took {s : State} {path : Path} {p : Page} {off : Nat} {mask v : Word} {f : Chip → Chip} (hreg : FreeReg p off mask)
    (h : CanWrite s path p) (hm : v &&& mask = v) (hx : ∀ old, crossKeep s.chip p off old v = (v, false))
    (hb : ∀ row, blockWrite path p off row v s = took f s) :
    regPage path p off v s = onChip (fun c => taken path p off (f c)) s :=
  regPage_free (s1 := onChip f s) (ok := true) hreg h hm hx hb

/-- One that its chapter turns away counts nowhere. -/
theorem regPage_turned {s : State} {path : Path} {p : Page} {off : Nat} {mask v : Word} {f : Chip → Chip} (hreg : FreeReg p off mask)
    (h : CanWrite s path p) (hm : v &&& mask = v) (hx : ∀ old, crossKeep s.chip p off old v = (v, false))
    (hb : ∀ row, blockWrite path p off row v s = (onChip f s, false)) :
    regPage path p off v s = onChip (fun c => ended path p off (f c)) s :=
  regPage_free (s1 := onChip f s) (ok := false) hreg h hm hx hb

end Sys2Proof.Proofs.FreeRegisters
end

section
/-!
The converters (chapter 13): conversions and knot lists, the read of the sequence, calibration alone, under cover and of all, and the fault
of a reference; with the statement about them.
-/

namespace Sys2Proof.Proofs.Converters

open Sys2Proof Sys2Proof.Machine Sys2Proof.Proofs.FreeRegisters Sys2Proof.Proofs.HeaderWrites

/-! ### Conversions and knot lists (R318, R320) -/

/-- The results of a converter with that of one more conversion, kept for its input: under cover the partner's factors apply (R326). -/
def keptResult (c : Chip) (k m : Nat) (d : BitVec 18) (ns : Nat) (shifted : Bool) : Tab (Nat × Bool × Bool × Nat × Nat) :=
  tabSet (0, false, false, 0, 0) (adcSt c k).res m
    (convert c (if (adcSt c k).mode == .covered then partner k else k) d, !(adcSt c k).refBad, shifted && (adcSt c k).mode == .covered, ns, c.clk.now)

theorem conversionDone_taken {c : Chip} {k m ns : Nat} {d : BitVec 18} {shifted : Bool} (h : converts c k = true) :
    conversionDone k m d ns shifted c = (if (hdr c (adcPage k)).state = .ready then setState (adcPage k) .run else id)
      (setAdc k { adcSt c k with res := keptResult c k m d ns shifted } c) := by
  rw [ite_apply]
  exact if_neg (by simp [h])

theorem slotConversion_taken {c : Chip} {k m ns : Nat} {d : BitVec 18} {slot : Option (Fin 16)} {shifted : Bool}
    (hslot : slotTakes k m slot c = true) (h : converts c k = true) :
    (if slotTakes k m slot c then conversionDone k m d ns shifted c else c) = (if (hdr c (adcPage k)).state = .ready then setState (adcPage k) .run else id)
      (setAdc k { adcSt c k with res := keptResult c k m d ns shifted } c) :=
  (if_pos hslot).trans (conversionDone_taken h)

/-- A mask with one bit names one converter. -/
theorem converters_of_bit (k : Fin 16) : (List.range 16).filter (fun j => (1#16 <<< k.val).getLsbD j) = [k.val] := by
  revert k; decide

theorem knotListStart_pending {c : Chip} {k : Fin 16} (delay : Nat) (h : (adcSt c k.val).knotPend = true) :
    knotListStart (1#16 <<< k.val) delay c =
      raiseIf (decide (0 < delay) && !(adcSt c k.val).delayedRaised) (adcPage k.val) 14 (wrF (adcPage k.val) 0x058 15 0 (min delay 65535)
        (setAdc k.val { adcSt c k.val with knotPend := false, knotUntil := c.clk.now + 500 * (knotSlots c k.val).length, delayedRaised := (adcSt c k.val).delayedRaised || decide (0 < delay) } c)) := by
  unfold knotListStart
  rw [converters_of_bit k]
  exact if_pos h

/-! ### The read of the sequence (R316) -/

theorem regRead_adcSeq {s : State} {path : Path} (k : Fin 16) (h : fabricUp s.chip path = true) :
    regRead path (pageBase (.adc k) + 0x200) s =
      onChip (fun c => answered path (.adc k) 0x200 (adcSeqRead path k.val c).2 (adcSeqRead path k.val c).1) s := by
  have hread : pageRead path (.adc k) 0x200 s.chip = adcSeqRead path k.val s.chip := rfl
  rw [regRead_page s path (.adc k) 0x200 h (by omega) (by omega), hread]
  rfl

/-! ### Requests of calibration (R324, R325) -/

/-- A request that is not accepted does nothing but raise CAL_REFUSED. -/
theorem calRequest_refused {c : Chip} {k : Nat} {splice : Bool} (h : (calRequest k splice c).2 = false) :
    (calRequest k splice c).1 = raise (adcPage k) 12 c := by
  revert h
  unfold calRequest
  dsimp only
  split
  · intro _; rfl
  · split
    · intro h; cases h
    · split
      · intro _; rfl
      · intro h; cases h

/-- With no slot enabled, or in FAULT, an idle converter calibrates alone. -/
theorem calRequest_alone {c : Chip} {k : Nat} (hmode : (adcSt c k).mode = .idle) (hcover : (adcSt c k).coverReq = false)
    (h : (isUp c (adcPage k) = true ∧ sampleSlots c k = [] ∧ knotSlots c k = []) ∨ (hdr c (adcPage k)).state = .fault) :
    calRequest k false c = (calStart k false (setAdc k { adcSt c k with spliceCal := false } c), true) := by
  unfold calRequest
  rcases h with ⟨hup, hsample, hknot⟩ | hfault
  · rw [if_neg (by simp [hup, hmode, hcover]), if_pos (by simp [hsample, hknot])]
    rfl
  · rw [if_neg (by simp [hfault, hmode, hcover]), if_pos (by simp [hfault])]
    rfl

theorem isUp_not_fault {c : Chip} {p : Page} (h : isUp c p = true) : (hdr c p).state ≠ .fault := by
  intro hf
  simp [isUp, hf] at h

/-- With slots enabled the request waits for cover by a partner that is free and can take both lists. -/
theorem calRequest_covered {c : Chip} {k : Nat} (hup : isUp c (adcPage k) = true) (hmode : (adcSt c k).mode = .idle)
    (hcover : (adcSt c k).coverReq = false) (hslots : sampleSlots c k ≠ [] ∨ knotSlots c k ≠ [])
    (hrun : (hdr c (adcPage (partner k))).state = .run) (hfree : (adcSt c (partner k)).mode = .idle)
    (hasked : (adcSt c (partner k)).coverReq = false)
    (hfits : seqFits c (sampleSlots c (partner k) ++ sampleSlots c k) ((knotSlots c (partner k)).length + (knotSlots c k).length) = true) :
    calRequest k false c = (setAdc k { adcSt c k with coverReq := true, spliceCal := false } c, true) := by
  have hnot := isUp_not_fault hup
  unfold calRequest
  rw [if_neg (by simp [hup, hmode, hcover]), if_neg (by simpa [hnot] using fun h => hslots.resolve_left (not_not_intro h)),
    if_neg (by simp [hrun, hfree, hasked, hfits])]

/-- ADC_CAL_CMD takes START and CAL_ALL, whatever the seal. -/
theorem calCmd_free (k : Fin 16) : FreeReg (.adc k) 0x048 3 :=
  ⟨⟨by decide, by decide, by decide⟩, rfl, _, rfl, rfl, by decide, by decide, rfl, rfl⟩

/-- A write of START is the request, which counts where it is accepted. -/
theorem regPage_calStart {s : State} {path : Path} {k : Fin 16} (h : CanWrite s path (.adc k)) :
    regPage path (.adc k) 0x048 1 s = onChip (if (calRequest k.val false s.chip).2 then taken path (.adc k) 0x048 else ended path (.adc k) 0x048)
      (onChip (fun c => (calRequest k.val false c).1) s) :=
  regPage_free (calCmd_free k) h rfl (fun _ => rfl) (fun _ => rfl)

theorem regPage_calAccepted {s : State} {path : Path} {k : Fin 16} (h : CanWrite s path (.adc k))
    (hok : (calRequest k.val false s.chip).2 = true) :
    regPage path (.adc k) 0x048 1 s = onChip (fun c => taken path (.adc k) 0x048 (calRequest k.val false c).1) s := by
  rw [regPage_calStart h, if_pos hok]
  rfl

theorem regPage_calRefused {s : State} {path : Path} {k : Fin 16} (h : CanWrite s path (.adc k))
    (hno : (calRequest k.val false s.chip).2 = false) :
    regPage path (.adc k) 0x048 1 s = onChip (fun c => ended path (.adc k) 0x048 (raise (adcPage k.val) 12 c)) s := by
  rw [regPage_calStart h, if_neg (by simp [hno]), onChip_onChip]
  exact onChip_congr (congrArg _ (calRequest_refused hno))

/-- Some converter has a slot enabled, which refuses CAL_ALL (R324). -/
theorem noSlot {c : Chip} (h : ∀ k < 16, sampleSlots c k = [] ∧ knotSlots c k = []) :
    ((List.range 16).any (fun j => !(sampleSlots c j).isEmpty || !(knotSlots c j).isEmpty)) = false := by
  rw [List.any_eq_false]
  intro j hj
  obtain ⟨hs, hk⟩ := h j (List.mem_range.mp hj)
  simp [hs, hk]

theorem calAllStart_idle {c : Chip} (h : ∀ k < 16, sampleSlots c k = [] ∧ knotSlots c k = []) :
    calAllStart c = each (List.range 16) (fun k c => if (adcSt c k).mode = .idle then calStart k false c else c) c :=
  if_neg (by simp [noSlot h])

theorem regPage_calAll {s : State} {path : Path} (h : CanWrite s path (.adc 0)) (hno : ∀ k < 16, sampleSlots s.chip k = [] ∧ knotSlots s.chip k = []) :
    regPage path (.adc 0) 0x048 2 s = onChip (fun c => taken path (.adc 0) 0x048
      (each (List.range 16) (fun k c => if (adcSt c k).mode = .idle then calStart k false c else c) c)) s := by
  have hb : ∀ row, blockWrite path (.adc 0) 0x048 row 2 s = took calAllStart s := fun _ =>
    congrArg (onChip calAllStart s, !·) (noSlot hno)
  rw [regPage_took (calCmd_free 0) h rfl (fun _ => rfl) hb]
  exact onChip_congr (congrArg _ (calAllStart_idle hno))

/-! ### The end of a calibration (R322, R323) -/

section
variable {c : Chip} {k t : Nat} {ofs gain : BitVec 24} {ws : List (BitVec 24)} (hsince : (adcSt c k).calSince = some t)
  (hdue : t + 9000000 ≤ c.clk.now) (hmode : (adcSt c k).mode = .calibrating) (hpower : (adcSt c k).powerOn = false)
  (hsplice : (adcSt c k).spliceCal = false)
include hsince hdue hmode hpower hsplice

/-- Figures that pass are committed. -/
theorem calDone_passed (hpass : calPasses ofs gain ws k = true) :
    calDone k ofs gain ws c = endCond (adcPage k) 0x80 (raise (adcPage k) 8 (calCommit k ofs gain ws
      (setAdc k { adcSt c k with mode := .idle, calSince := none, calValid := true, powerOn := false, spliceCal := false, splicePass := true, coverEnd := false } c))) := by
  have hcovered : (AdcMode.calibrating == AdcMode.covered) = false := rfl
  simp [calDone, hsince, Nat.not_lt.mpr hdue, hmode, hpower, hsplice, hpass, hcovered]

/-- Figures that do not pass leave the factors in force. -/
theorem calDone_failed (hpass : calPasses ofs gain ws k = false) :
    calDone k ofs gain ws c = raise (adcPage k) 9
      (setAdc k { adcSt c k with mode := .idle, calSince := none, powerOn := false, spliceCal := false, splicePass := false, coverEnd := false } c) := by
  have hcovered : (AdcMode.calibrating == AdcMode.covered) = false := rfl
  simp [calDone, hsince, Nat.not_lt.mpr hdue, hmode, hpower, hsplice, hpass, hcovered]

end

/-! ### The statement -/

/-- Settles O28: each event is its rule above on the chip at hand, and each register command its access of the window. -/
theorem convertersAndCalibration : Obligations.ConvertersAndCalibration := by
  unfold Obligations.ConvertersAndCalibration
  refine ⟨?conversion, ?knotList, ?sequence, ?accepted, ?refused, ?alone, ?covered, ?all, ?passed, ?failed, ?fault, ?recovered⟩
  case conversion =>
    intro s k m d slot ns shifted hm hslot h
    exact run_live_as hm (slotConversion_taken hslot h)
  case knotList =>
    rintro s k _ delay hm rfl h
    exact run_live_as hm (knotListStart_pending delay h)
  case sequence =>
    intro s path k hu
    exact congrArg Host.Outcome.next (regRead_adcSeq k hu)
  case accepted =>
    intro s path k h hok
    exact congrArg Host.Outcome.next (regPage_calAccepted h hok)
  case refused =>
    intro s path k h hno
    exact congrArg Host.Outcome.next (regPage_calRefused h hno)
  case alone =>
    intro c k hmode hcover h
    exact calRequest_alone hmode hcover h
  case covered =>
    intro c k hup hmode hcover hslots hrun hfree hasked hfits
    exact calRequest_covered hup hmode hcover hslots hrun hfree hasked hfits
  case all =>
    intro s path h hno
    exact congrArg Host.Outcome.next (regPage_calAll h hno)
  case passed =>
    intro s k ofs gain ws t hm hsince hdue hmode hpower hsplice hpass
    exact run_live_as hm (calDone_passed hsince hdue hmode hpower hsplice hpass)
  case failed =>
    intro s k ofs gain ws t hm hsince hdue hmode hpower hsplice hpass
    exact run_live_as hm (calDone_failed hsince hdue hmode hpower hsplice hpass)
  case fault =>
    intro s b hm
    exact run_live hm
  case recovered =>
    intro s b hm
    exact run_live hm

end Sys2Proof.Proofs.Converters
end

section
/-!
The sigma-delta decimators (chapter 13): stuck data lines, the read of the sequence, the range of a decimated sample and when a channel's
result is valid; with the statement about them.
-/

namespace Sys2Proof.Proofs.Decimators

open Sys2Proof Sys2Proof.Machine

/-! ### Stuck lines (R333) -/

/-- A line of a bank that watches them gets stuck: it is recorded if no line stands recorded, and its axis reacts. -/
theorem stuckLine_watched {c : Chip} {i : Nat} (hlimit : actF c (sdfPage (i / 48)) 0x040 7 0 ≠ 0) (hon : sdfOn c i = true) :
    stuckLine i c = react (16 * (i / 48) + i % 48 / 3) 5 0x81 (latchCond (sdfPage (i / 48)) 0x81 (raise (sdfPage (i / 48)) 9
      ((if bit (rd c (sdfPage (i / 48)) 0x048) 7 then id else wr (sdfPage (i / 48)) 0x048 (BitVec.ofNat 32 (0x80 + i % 48)))
        (setSdf i { sdfCh c i with stuck := true } c)))) := by
  rw [ite_apply]
  exact if_neg (by simp [hlimit, hon])

/-- Channel `ch` of bank k by its number among all. -/
theorem channel_bank (k : Nat) {ch : Nat} (h : ch < 48) : (48 * k + ch) / 48 = k ∧ (48 * k + ch) % 48 = ch := by omega

/-! ### The read of the sequence (R332) -/

theorem regRead_sdfSeq {s : State} {path : Path} (k : Fin 8) (h : fabricUp s.chip path = true) :
    regRead path (pageBase (.sdf k) + 0x1FC) s =
      onChip (fun c => answered path (.sdf k) 0x1FC (sdfSeqRead path k.val c).2 (sdfSeqRead path k.val c).1) s := by
  have hread : pageRead path (.sdf k) 0x1FC s.chip = sdfSeqRead path k.val s.chip := rfl
  rw [regRead_page s path (.sdf k) 0x1FC h (by omega) (by omega), hread]
  rfl

/-! ### Decimated samples (R331) -/

/-- A decimated sample is clamped to the Q1.23 range without its lowest value. -/
theorem decimate_range (r : Nat) (bits : List Bool) : -8388607 ≤ decimate r bits ∧ decimate r bits ≤ 8388607 := by
  unfold decimate
  dsimp only
  split
  · omega
  · split <;> omega

@[simp] theorem sdfCh_raiseIf (q : Bool) (p : Page) (b : Nat) (c : Chip) (i : Nat) : sdfCh (raiseIf q p b c) i = sdfCh c i := by
  simp [sdfCh]

@[simp] theorem sdfCh_stuckEnds (k : Nat) (c : Chip) (i : Nat) : sdfCh (stuckEnds k c) i = sdfCh c i := by
  unfold stuckEnds
  split
  · rfl
  · simp [sdfCh]

theorem sdfCh_endedIf (b : Bool) (k : Nat) (c : Chip) (i : Nat) : sdfCh (if b then stuckEnds k c else c) i = sdfCh c i := by
  cases b <;> simp

/-- A channel that is on is valid after its bits when it has the bits of three times its ratio, less 2. -/
theorem sdfSample_valid {c : Chip} {i : Nat} (new : List Bool) (hon : sdfOn c i = true) :
    (sdfCh (sdfSample i new c) i).valid = decide (3 * fld (sdfPort c i) 8 0 - 2 ≤
      (sdfBits (sdfPort c i) (rd c (sdfPage (i / 48)) (0x084 + 16 * (i % 48 / 3))) (sdfCh c i) new).1.got) := by
  unfold sdfSample
  dsimp only
  rw [if_neg (by simp [hon]), sdfCh_endedIf, sdfCh_raiseIf, sdfCh_setSdf]

/-! ### The statement -/

/-- Settles O29: each clause is its rule above, with the channel's number taken apart into bank and line. -/
theorem decimatorsAndStuckLines : Obligations.DecimatorsAndStuckLines := by
  unfold Obligations.DecimatorsAndStuckLines
  refine ⟨?stuck, ?sequence, ?range, ?valid⟩
  case stuck =>
    intro s k ch hm hlimit hon
    obtain ⟨hbank, hline⟩ := channel_bank k.val ch.isLt
    refine run_live_as hm ((stuckLine_watched (by rwa [hbank]) hon).trans ?_)
    rw [hbank, hline]
  case sequence =>
    intro s path k hu
    exact congrArg Host.Outcome.next (regRead_sdfSeq k hu)
  case range =>
    intro r bits
    exact decimate_range r bits
  case valid =>
    intro c i new hon
    exact sdfSample_valid new hon

end Sys2Proof.Proofs.Decimators
end

section
/-!
The arithmetic words of a filter core (chapter 14): the ALU with a register or an immediate, the minimum and the maximum, MOVS, and a word
that is reserved; with the statement about them.
-/

namespace Sys2Proof.Proofs.CoreArithmetic

open Sys2Proof Sys2Proof.Machine Sys2Proof.Laws.CoreIssue

/-! ### Issue -/

/-- A core that stands at a word of its instruction comes to what the instruction does after the fetch. -/
theorem issued {s t : State} {k : Fin 8} {w : Word} {ok : Word → Bool} {f : Nat → Word → State → State} (h : Stands s k w) (ho : ok w = true)
    (ht : f k w (atIssue s k) = t) : (.next (issue k w ok f s) : Host.Outcome State Fault Refusal) = .next t :=
  congrArg Host.Outcome.next ((issue_ok h ok f ho).trans ht)

/-- A reserved word at the PC is fault 0x90, whatever instruction it is taken for (R347, R362). -/
theorem issue_reserved {s : State} {k : Fin 8} {w : Word} (ok : Word → Bool) (f : Nat → Word → State → State) (hrun : coreRuns s.chip k.val = true)
    (hbreak : atBreakpoint s.chip k.val = false) (halign : (Machine.core s.chip k.val).pc.toNat % 4 = 0) (hword : (fetched s k).2 = some w)
    (hres : reservedWord w = true) : issue k w ok f s = coreFault k.val 0x90 (fetched s k).1 := by
  unfold issue fetched at *
  dsimp only
  rw [if_neg (by simp [hrun]), if_neg (by simp [hbreak]), if_neg (by simp [halign])]
  generalize readMem32 .core (k.val * 0x20000 + (Machine.core s.chip k.val).pc.toNat) s = r at hword ⊢
  obtain ⟨s1, v⟩ := r
  obtain rfl : v = some w := hword
  dsimp only
  rw [if_neg (by simp), if_pos hres]

/-! ### The ALU (R344, R347) -/

/-- The ALU on two operands: its narrowed result in D, and the status bits that go with it. -/
def aluRetire (k : Nat) (w src t : Word) (s : State) : State :=
  let x := Machine.core s.chip k
  let r := narrow32 (bit x.sr srSAT) (Config.aluExact (w.extractLsb' 22 6) (dReg x (fld w 19 16)) src t)
  retireS k {} (fun y => { setD (fld w 19 16) r.1 y with sr := aluFlags y.sr (w.extractLsb' 22 6) (dReg x (fld w 19 16)) src t r }) s

/-- Class 0 takes its first operand from Ds. -/
theorem doAlu_register {k : Nat} {w : Word} (t : Word) (s : State) (hc : cls w = 0) :
    doAlu k w t s = aluRetire k w (dReg (Machine.core s.chip k) (fld w 15 12)) t s := by
  simp only [doAlu, aluRetire, if_pos hc]

/-- Class 1 takes it from Dd. -/
theorem doAlu_immediate {k : Nat} {w : Word} (t : Word) (s : State) (hc : cls w = 1) :
    doAlu k w t s = aluRetire k w (dReg (Machine.core s.chip k) (fld w 19 16)) t s := by
  simp [doAlu, aluRetire, hc]

/-! ### MOVS (R343) -/

section
variable {k : Fin 8} {w : Word} {s : State} (h : Stands s k w) (hc : cls w = 9) (hop : fld w 27 24 = 7)
include h hc hop

theorem movs_reads (hr : Config.movsWrites (w.extractLsb' 0 24) = false) :
    exec (.movs k w) s = .next (retireS k.val {} (fun x => setD (Config.movsData (w.extractLsb' 0 24)).val
      (sysRead (atIssue s k).chip x (Config.movsSystem (w.extractLsb' 0 24)).val) x) (atIssue s k)) :=
  issued h (by simp [isSys, hc, hop]) (if_neg (by simp [hr]))

theorem movs_writes (hw : Config.movsWrites (w.extractLsb' 0 24) = true) (hpc : (Config.movsSystem (w.extractLsb' 0 24)).val ≠ 24) :
    exec (.movs k w) s = .next (retireS k.val
      { ptrs := if (Config.movsSystem (w.extractLsb' 0 24)).val < 24 then [(Config.movsSystem (w.extractLsb' 0 24)).val % 8] else [] }
      (sysWrite (Config.movsSystem (w.extractLsb' 0 24)).val (dReg (coreAt s k) (Config.movsData (w.extractLsb' 0 24)).val)) (atIssue s k)) :=
  issued h (by simp [isSys, hc, hop]) ((if_pos hw).trans (if_neg hpc))

/-- A write of PC is a jump (log entry 132). -/
theorem movs_jumps (hw : Config.movsWrites (w.extractLsb' 0 24) = true) (hpc : (Config.movsSystem (w.extractLsb' 0 24)).val = 24) :
    exec (.movs k w) s = .next (retireS k.val
      { jump := some ((dReg (coreAt s k) (Config.movsData (w.extractLsb' 0 24)).val).setWidth 16) } id (atIssue s k)) :=
  issued h (by simp [isSys, hc, hop]) ((if_pos hw).trans (if_pos hpc))

end

/-! ### The statement -/

/-- Settles O30: each word is issued, and its effect after the fetch is the rule of its class. -/
theorem coreAluMinMaxAndMovs : Obligations.CoreAluMinMaxAndMovs := by
  unfold Obligations.CoreAluMinMaxAndMovs
  refine ⟨?register, ?immediate, ?minimum, ?maximum, ?reads, ?writes, ?jumps, ?reserved⟩
  case register =>
    intro s k w h hc
    exact issued h (by simp [hc]) (doAlu_register _ _ hc)
  case immediate =>
    intro s k w h hc
    exact issued h (by simp [hc]) (doAlu_immediate _ _ hc)
  case minimum =>
    rintro s k w _ h hc hop rfl
    exact issued (f := doExtreme false) h (by simp [hc, hop]) rfl
  case maximum =>
    rintro s k w _ h hc hop rfl
    exact issued (f := doExtreme true) h (by simp [hc, hop]) rfl
  case reads =>
    intro s k w h hc hop hr
    exact movs_reads h hc hop hr
  case writes =>
    intro s k w h hc hop hw hpc
    exact movs_writes h hc hop hw hpc
  case jumps =>
    intro s k w h hc hop hw hpc
    exact movs_jumps h hc hop hw hpc
  case reserved =>
    intro s k w hrun hbreak halign hword hres
    exact congrArg Host.Outcome.next (issue_reserved _ _ hrun hbreak halign hword hres)

end Sys2Proof.Proofs.CoreArithmetic
end

section
/-!
The multiply-accumulate words of a filter core and those on its accumulators (chapter 14), with the statement about them.
-/

namespace Sys2Proof.Proofs.CoreAccumulators

open Sys2Proof Sys2Proof.Machine Sys2Proof.Laws.CoreIssue Sys2Proof.Proofs.CoreArithmetic

/-! ### Class 2 (R344, R349) -/

/-- One accumulation into the accumulator that the word names, by the exact product of its two registers. -/
def macStep (kind : Int) (w : Word) (frac : Bool) (x : CoreSt) : CoreSt :=
  accumulate kind (fld w 25 24) (macProduct frac (dReg x (fld w 23 20)) (dReg x (fld w 19 16))) x

/-- The accumulation of the other unit: the next accumulator, by the product of the next two registers. -/
def macStepUpper (w : Word) (frac : Bool) (x : CoreSt) : CoreSt :=
  accumulate 1 (fld w 25 24 + 1) (macProduct frac (dReg x (fld w 23 20 + 1)) (dReg x (fld w 19 16 + 1))) x

section
variable {s s0 s1 : State} {k : Fin 8} {w : Word} {v0 v1 : List Word} (ha : macAllowed w (coreAt s k))
  (h0 : macRead k w false (coreAt s k) (atIssue s k) = (s0, some v0)) (h1 : macRead k w true (coreAt s k) s0 = (s1, some v1))
include ha h0 h1

/-- One unit: what it accumulates, with the loads that the word carries. -/
theorem doMac_one (kind : Int) : doMac kind false k w (atIssue s k) =
    macEnd k w [fld w 25 24] (macStep kind w (bit (coreAt s k).sr srFRAC)) (coreAt s k) v0 v1 s1 :=
  mac_ok kind false s s0 s1 k w v0 v1 ha h0 h1

/-- Both units, the lower one first. -/
theorem doMac_both (kind : Int) : doMac kind true k w (atIssue s k) =
    macEnd k w [fld w 25 24, fld w 25 24 + 1]
      (fun x => macStepUpper w (bit (coreAt s k).sr srFRAC) (macStep kind w (bit (coreAt s k).sr srFRAC) x)) (coreAt s k) v0 v1 s1 :=
  mac_ok kind true s s0 s1 k w v0 v1 ha h0 h1

end

/-! ### The statement -/

/-- Settles O31: each word is issued; class 2 is one accumulation or two with its loads, class 8 a change of one accumulator or register. -/
theorem coreMacAndAccumulators : Obligations.CoreMacAndAccumulators := by
  unfold Obligations.CoreMacAndAccumulators
  refine ⟨?mac, ?msu, ?mpy, ?mac2, ?clear, ?add, ?narrow, ?pack, ?unpack⟩
  case mac =>
    intro s s0 s1 k w v0 v1 h hc hop ha h0 h1
    exact issued h (by simp [hc, hop]) (doMac_one ha h0 h1 1)
  case msu =>
    intro s s0 s1 k w v0 v1 h hc hop ha h0 h1
    exact issued h (by simp [hc, hop]) (doMac_one ha h0 h1 (-1))
  case mpy =>
    intro s s0 s1 k w v0 v1 h hc hop ha h0 h1
    exact issued h (by simp [hc, hop]) (doMac_one ha h0 h1 0)
  case mac2 =>
    intro s s0 s1 k w v0 v1 h hc hop ha h0 h1
    exact issued h (by simp [hc, hop]) (doMac_both ha h0 h1 1)
  case clear =>
    intro s k w h hop
    exact issued (f := doClra) h hop rfl
  case add =>
    intro s k w h hop
    exact issued (f := doAdda) h hop rfl
  case narrow =>
    intro s k w h hop
    exact issued (f := doMva) h hop rfl
  case pack =>
    intro s k w h hop
    exact issued (f := doCwpk) h hop rfl
  case unpack =>
    intro s k w h hop
    exact issued (f := doCwup) h hop rfl

end Sys2Proof.Proofs.CoreAccumulators
end

section
/-!
The local and external accesses of a filter core (chapter 14): loads, stores, the return of an external load, and SYNC; with the statement
about them.
-/

namespace Sys2Proof.Proofs.CoreAccesses

open Sys2Proof Sys2Proof.Machine Sys2Proof.Proofs.CoreArithmetic

/-! ### Local accesses (R341, R345, R348) -/

/-- The check of a class 3 address passes where the address is usable. -/
theorem localChecks {ok : LocalSpace → Bool} {x : CoreSt} {w : Word} (h : localAllowed ok x w) :
    (localOk ok (class3Addr x w).1 && (!bit w 26 || localOk ok (postMod x (fld w 25 23) (class3Addr x w).1 4))) = true := by
  obtain ⟨hfirst, hsecond⟩ := h
  cases hpair : bit w 26 with
  | false => simp [hfirst]
  | true => simp [hfirst, hsecond hpair]

/-- An address of program memory is none that a store may use. -/
theorem localOk_store_pm {a : Word} (h : localSpace a = some .pm) : localOk (· != .pm) a = false := by
  simp [localOk, h]

/-- A usable load reads its words; from program memory it takes a cycle more. -/
theorem doLocalLoad_read {k : Nat} {w : Word} {s s1 : State} {v : List Word} {x : CoreSt} (hx : Machine.core s.chip k = x)
    (ha : localAllowed (fun _ => true) x w) (hiter : localSpace (class3Addr x w).1 = some .pm → x.iter = none)
    (hr : readLocal k (class3Addr x w).1 (postMod x (fld w 25 23) (class3Addr x w).1 4) (bit w 26) s = (s1, some v)) :
    doLocalLoad k w s = retireS k { cycles := if localSpace (class3Addr x w).1 = some .pm then 2 else 1, loads := if bit w 26 then [(fld w 19 16, v.getD 0 0), ((fld w 19 16 + 1) % 16, v.getD 1 0)] else [(fld w 19 16, v.getD 0 0)], useP := [fld w 25 23] }
      (setAp (fld w 25 23) (class3Addr x w).2) s1 := by
  subst hx
  have hnot : ¬ (decide (localSpace (class3Addr (Machine.core s.chip k) w).1 = some .pm) && (Machine.core s.chip k).iter.isSome) = true := by
    rw [Bool.and_eq_true, decide_eq_true_eq]
    rintro ⟨hpm, hin⟩
    simp [hiter hpm] at hin
  unfold doLocalLoad
  dsimp only
  rw [if_neg (by rw [localChecks ha]; decide), if_neg hnot, hr]
  simp only [decide_eq_true_eq]

/-- A usable store writes its words. -/
theorem doLocalStore_written {k : Nat} {w : Word} {s : State} {x : CoreSt} (hx : Machine.core s.chip k = x) (ha : localAllowed (· != .pm) x w) :
    doLocalStore k w s = retireS k { useP := [fld w 25 23] } (setAp (fld w 25 23) (class3Addr x w).2)
      ((if bit w 26 then writeMem32 .core (k * 0x20000 + (postMod x (fld w 25 23) (class3Addr x w).1 4).toNat) (dReg x ((fld w 19 16 + 1) % 16)) else id)
        (writeMem32 .core (k * 0x20000 + (class3Addr x w).1.toNat) (dReg x (fld w 19 16)) s)) := by
  subst hx
  rw [ite_apply]
  exact if_neg (by rw [localChecks ha]; decide)

/-- A store to program memory is fault 0x91. -/
theorem doLocalStore_pm {k : Nat} {w : Word} {s : State} (h : localSpace (class3Addr (Machine.core s.chip k) w).1 = some .pm) :
    doLocalStore k w s = coreFault k 0x91 s :=
  if_pos (by rw [localOk_store_pm h]; rfl)

/-! ### External accesses (R356, R357) -/

theorem doExtLoad_waits {k : Nat} {w : Word} {s : State} {off : Nat} (h : extOff (Machine.core s.chip k) w = some off) :
    doExtLoad k w s = onChip (modCore k (fun x => { x with wait := .load (fld w 19 16) off s.chip.clk.now })) s := by
  unfold doExtLoad
  rw [h]

theorem doExtStore_posted {k : Nat} {w : Word} {s : State} {off : Nat} (h : extOff (Machine.core s.chip k) w = some off)
    (hroom : (Machine.core s.chip k).stores.length < 8) :
    doExtStore k w s = retireS k {} (fun x => { x with stores := x.stores ++ [(off, dReg x (fld w 19 16))] }) s := by
  unfold doExtStore
  dsimp only
  rw [h]
  exact if_neg (by omega)

theorem drainStore_none {k : Nat} {s : State} (h : (Machine.core s.chip k).stores = []) : drainStore k s = s := by
  unfold drainStore
  rw [h]

/-- With nothing posted there is nothing to perform. -/
theorem drainStores_none {k : Nat} {s : State} (h : (Machine.core s.chip k).stores = []) : drainStores k s = s := by
  have hall : ∀ l : List Nat, eachState l (fun _ s => drainStore k s) s = s := by
    intro l
    induction l with
    | nil => rfl
    | cons _ l ih => exact (congrArg (eachState l _) (drainStore_none h)).trans ih
  exact hall _

/-- A cause and a register that are set leave the cores as they are. -/
theorem core_raise_wr (p q : Page) (b off k : Nat) (v : Word) (c : Chip) : Machine.core (raise p b (wr q off v c)) k = Machine.core c k := by
  unfold Machine.core
  rw [raise_cores, wr_cores]

/-- Without TRAP_DENY a refusal leaves the core waiting as it did. -/
theorem coreRefused_wait {k off : Nat} {xerr : Bool} {s : State} (h : bit (rd s.chip (fcoPage k) 0x040) 0 = false) :
    (Machine.core (coreRefused k xerr off s).chip k).wait = (Machine.core s.chip k).wait := by
  unfold coreRefused
  rw [if_neg (by simp [h]), onChip_chip, core_raise_wr, core_modCore]

section
variable {s s2 : State} {k : Fin 8} {d off since : Nat} (hwait : (Machine.core s.chip k.val).wait = .load d off since)
  (hposted : (Machine.core s.chip k.val).stores = []) (hup : fabricUp s.chip (.core k) = true)
include hwait hposted hup

/-- Data that come back reach D, and the core has stalled for the cycles that the load took. -/
theorem extReturn_data {v : Word} (hr : readWindow (.core k) off s = (s2, .ok v)) :
    extReturn k.val false s = retireS k.val { cycles := loadCycles since s.chip.clk.now } (fun x => setD d v { x with wait := .none }) s2 := by
  have hk : Fin.ofNat 8 k.val = k := Fin.ofNat_val_eq_self k
  unfold extReturn
  rw [hwait]
  dsimp only
  rw [hk, if_neg (by simp [hup]), drainStores_none hposted, hwait]
  dsimp only
  rw [if_neg (by decide), hr]

/-- A load that gets no answer returns 0, with XERR. -/
theorem extReturn_timeout (htrap : bit (rd s.chip (fcoPage k.val) 0x040) 0 = false) :
    extReturn k.val true s = retireS k.val { cycles := loadCycles since s.chip.clk.now } (fun x => setD d 0 { x with wait := .none })
      (coreRefused k.val true off s) := by
  have hk : Fin.ofNat 8 k.val = k := Fin.ofNat_val_eq_self k
  have hstill : (Machine.core (coreRefused k.val true off s).chip k.val).wait = .load d off since := (coreRefused_wait htrap).trans hwait
  unfold extReturn
  rw [hwait]
  dsimp only
  rw [hk, if_neg (by simp [hup]), drainStores_none hposted, hwait]
  dsimp only
  rw [if_pos rfl, hstill]

end

/-! ### The statement -/

/-- Settles O32: each word is issued and comes to its rule above, and the return of a load is that of a core that waits. -/
theorem coreLoadsAndStores : Obligations.CoreLoadsAndStores := by
  unfold Obligations.CoreLoadsAndStores
  refine ⟨?load, ?store, ?storePm, ?extLoad, ?extStore, ?data, ?timeout, ?synced, ?syncWaits⟩
  case load =>
    intro s s1 k w v h hc hop ha hiter hr
    exact issued (f := doLocalLoad) h (by simp [hc, hop]) (doLocalLoad_read rfl ha hiter hr)
  case store =>
    intro s k w h hc hop ha
    exact issued (f := doLocalStore) h (by simp [hc, hop]) (doLocalStore_written rfl ha)
  case storePm =>
    intro s k w h hc hop hpm
    exact issued (f := doLocalStore) h (by simp [hc, hop]) (doLocalStore_pm hpm)
  case extLoad =>
    intro s k w off h hc hop hoff
    exact issued (f := doExtLoad) h (by simp [isExt, hc, hop]) (doExtLoad_waits hoff)
  case extStore =>
    intro s k w off h hc hop hoff hroom
    exact issued (f := doExtStore) h (by simp [isExt, hc, hop]) (doExtStore_posted hoff hroom)
  case data =>
    intro s s2 k d off since v hm hwait hposted hup hr
    exact congrArg Host.Outcome.next ((if_pos hm).trans (extReturn_data hwait hposted hup hr))
  case timeout =>
    intro s k d off since hm hwait hposted hup htrap
    exact congrArg Host.Outcome.next ((if_pos hm).trans (extReturn_timeout hwait hposted hup htrap))
  case synced =>
    intro s k w h hc hop hposted
    exact issued h (by simp [isSys, hc, hop]) (if_pos (List.isEmpty_iff.mpr hposted))
  case syncWaits =>
    intro s k w h hc hop hposted
    exact issued h (by simp [isSys, hc, hop]) (if_neg (fun he => hposted (List.isEmpty_iff.mp he)))

end Sys2Proof.Proofs.CoreAccesses
end

section
/-!
The flow of a filter core (chapter 14): branches, calls, returns, loops, ITER, RTI, interrupt entry and the step of the PC; with the statement
about them.
-/

namespace Sys2Proof.Proofs.CoreFlow

open Sys2Proof Sys2Proof.Machine Sys2Proof.Laws.CoreIssue Sys2Proof.Proofs.CoreArithmetic

/-! ### Branches (class 5) -/

/-- Two ends of an instruction that agree on the core that stands there are one. -/
theorem retireS_congr {k : Nat} {t : Trail} {f g : CoreSt → CoreSt} {s : State} (h : f (Machine.core s.chip k) = g (Machine.core s.chip k)) :
    retireS k t f s = retireS k t g s :=
  onChip_congr (congrArg (fun x => setCore k (finishCore t x) s.chip) h)

/-- Where a branch goes that is no RET. -/
def branchTarget (x : CoreSt) (w : Word) : BitVec 16 := x.pc + Config.branchOrigin + BitVec.ofInt 16 (4 * signed 16 (fld w 15 0))

/-- An untaken branch goes on. -/
theorem doBranch_untaken {k : Nat} {w : Word} {s : State} (h : branchTaken (Machine.core s.chip k).sr (fld w 27 24) = false) :
    doBranch k w s = retireS k {} id s := by
  simp only [doBranch, h, Bool.false_eq_true, if_false]

/-- A taken one takes 3 cycles and goes to LK or to its target; with the link bit it keeps the next address in LK. -/
theorem doBranch_taken {k : Nat} {w : Word} {s : State} (h : branchTaken (Machine.core s.chip k).sr (fld w 27 24) = true) :
    doBranch k w s = retireS k { cycles := 3, jump := some (if bit w 22 then (Machine.core s.chip k).lk else branchTarget (Machine.core s.chip k) w) }
      (fun x => if bit w 23 then { x with lk := x.pc + 4 } else x) s := by
  simp only [doBranch, branchTarget, h, if_true]

/-- A taken one without the link bit. -/
theorem doBranch_plain {k : Nat} {w : Word} {s : State} (hlink : bit w 23 = false) (h : branchTaken (Machine.core s.chip k).sr (fld w 27 24) = true) :
    doBranch k w s = retireS k { cycles := 3, jump := some (if bit w 22 then (Machine.core s.chip k).lk else branchTarget (Machine.core s.chip k) w) } id s := by
  rw [doBranch_taken h]
  exact retireS_congr (if_neg (by simp [hlink]))

/-- CALL. -/
theorem doBranch_call {k : Nat} {w : Word} {s : State} (hlink : bit w 23 = true) (hret : bit w 22 = false)
    (h : branchTaken (Machine.core s.chip k).sr (fld w 27 24) = true) :
    doBranch k w s = retireS k { cycles := 3, jump := some (branchTarget (Machine.core s.chip k) w) }
      (fun x => { x with lk := (Machine.core s.chip k).pc + 4 }) s := by
  rw [doBranch_taken h, hret]
  exact retireS_congr (if_pos hlink)

/-! ### LOOP and ITER (class 6) -/

theorem doLoop_refused {k : Nat} {w : Word} {s : State} (h : 3 ≤ (Machine.core s.chip k).depth ∨ 65535 < loopCount (Machine.core s.chip k) w) :
    doLoop k w s = coreFault k 0x92 s :=
  if_pos h

/-- The next level of loops, opened by the word with the count `n`. -/
def openLoop (n : Nat) (last : BitVec 16) (x : CoreSt) : CoreSt :=
  { x with loopCnt := tabSet 0 x.loopCnt x.depth (BitVec.ofNat 16 n), loopTop := tabSet 0 x.loopTop x.depth (x.pc + 4), loopEnd := tabSet 0 x.loopEnd x.depth last, loopItn := tabSet 0 x.loopItn x.depth 0, lvlActive := x.lvlActive ||| (1#3 <<< x.depth), depth := x.depth + 1, capture := if (last - x.pc).toNat / 4 ≤ 16 then some (x.pc + 4) else none }

theorem doLoop_opens {k : Nat} {w : Word} {s : State} (hdepth : (Machine.core s.chip k).depth < 3) (hlow : 1 ≤ loopCount (Machine.core s.chip k) w)
    (hhigh : loopCount (Machine.core s.chip k) w ≤ 65535) :
    doLoop k w s = retireS k {} id (onChip (modCore k (openLoop (loopCount (Machine.core s.chip k) w)
      ((Machine.core s.chip k).pc + Config.branchOrigin + BitVec.ofNat 16 (4 * fld w 15 0)))) s) :=
  (if_neg (by omega)).trans (if_neg (by omega))

theorem doIter_repeats {k : Nat} {w : Word} {s : State} (hlow : 1 ≤ loopCount (Machine.core s.chip k) w)
    (hhigh : loopCount (Machine.core s.chip k) w ≤ 1024) :
    doIter k w s = onChip (modCore k (fun x => { x with iter := some (loopCount (Machine.core s.chip k) w), itn := 0 })) (retireS k {} id s) :=
  (if_neg (by omega)).trans (if_neg (by omega))

theorem doIter_skips {k : Nat} {w : Word} {s : State} (h : loopCount (Machine.core s.chip k) w = 0) :
    doIter k w s = retireS k {} (fun x => { x with pc := x.pc + 4 }) s :=
  (if_neg (by omega)).trans (if_pos h)

/-! ### Interrupt entry (R354) -/

theorem interruptEntry {s : State} {k : Fin 8} (hrun : (hdr s.chip (fcoPage k.val)).state = .run) (hclk : clkLost s.chip .sys = false)
    (hhalt : (Machine.core s.chip k.val).halted = false) (hie : bit (Machine.core s.chip k.val).sr srIE = true)
    (hiter : (Machine.core s.chip k.val).iter = none) (hload : ∀ d off t, (Machine.core s.chip k.val).wait ≠ .load d off t)
    (hcause : (Machine.core s.chip k.val).cause.setWidth 8 &&& (Machine.core s.chip k.val).ien ≠ 0) :
    exec (.coreInterruptEntry k) s = .next (onChip (modCore k.val (fun x => { x with xpc := x.pc, xsr := srRead x, sr := putBit (putBit x.sr srIE false) srINIRQ true, pc := x.irqEntry, wait := .none, cycles := (x.cycles + 12) % 2 ^ 64 })) s) := by
  cases hwait : (Machine.core s.chip k.val).wait with
  | load d off t => exact absurd hwait (hload d off t)
  | _ => exact if_pos (by simpa [hrun, hclk, hhalt, hie, hiter, hwait] using hcause)

/-! ### The step of the PC (R348, R351, R352) -/

/-- Loads that land in D leave the place of the core, its loops and its cycles. -/
theorem loads_keep (l : List (Nat × Word)) (x : CoreSt) :
    let y := l.foldl (fun x p => setD p.1 p.2 x) x
    y.pc = x.pc ∧ y.iter = x.iter ∧ y.depth = x.depth ∧ y.cycles = x.cycles := by
  induction l generalizing x with
  | nil => exact ⟨rfl, rfl, rfl, rfl⟩
  | cons p l ih => exact ih (setD p.1 p.2 x)

theorem commitLoads_keeps (x : CoreSt) :
    (commitLoads x).pc = x.pc ∧ (commitLoads x).iter = x.iter ∧ (commitLoads x).depth = x.depth ∧ (commitLoads x).cycles = x.cycles :=
  loads_keep x.loads x

/-- Outside of loops and of ITER the next word follows, at no cost. -/
theorem seqAdvance_plain {x : CoreSt} (hiter : x.iter = none) (hdepth : x.depth = 0) : seqAdvance x = ({ x with pc := x.pc + 4 }, 0) := by
  simp [seqAdvance, hiter, loopAdvance, hdepth]

theorem finishCore_falls {t : Trail} {x : CoreSt} (hjump : t.jump = none) (hiter : x.iter = none) (hdepth : x.depth = 0) :
    (finishCore t x).pc = x.pc + 4 ∧ (finishCore t x).cycles = (x.cycles + t.cycles + stalls x t.useP t.useA) % 2 ^ 64 ∧
    (finishCore t x).loads = t.loads := by
  obtain ⟨kpc, kiter, kdepth, kcycles⟩ := commitLoads_keeps x
  unfold finishCore
  rw [hjump]
  dsimp only
  rw [seqAdvance_plain (by exact kiter.trans hiter) (by exact kdepth.trans hdepth)]
  refine ⟨?_, ?_, rfl⟩
  · exact congrArg (· + 4) kpc
  · exact congrArg (fun n => (n + t.cycles + stalls x t.useP t.useA + 0) % 2 ^ 64) kcycles

/-! ### The statement -/

/-- Settles O33: each word is issued and comes to its rule above. -/
theorem coreFlowLoopsAndInterrupts : Obligations.CoreFlowLoopsAndInterrupts := by
  unfold Obligations.CoreFlowLoopsAndInterrupts
  refine ⟨?taken, ?untaken, ?call, ?ret, ?loop, ?loopRefused, ?iter, ?iterSkips, ?rti, ?entry, ?falls⟩
  case taken =>
    intro s k w h hc hlink hret ht
    exact issued (f := doBranch) h (by simp [hc, hlink, hret]) ((doBranch_plain hlink ht).trans (by rw [hret]; rfl))
  case untaken =>
    intro s k w h hc hlink hret ht
    exact issued (f := doBranch) h (by simp [hc, hlink, hret]) (doBranch_untaken ht)
  case call =>
    intro s k w h hc hlink hret ht
    exact issued (f := doBranch) h (by simp [hc, hlink, hret]) (doBranch_call hlink hret ht)
  case ret =>
    intro s k w h hc hlink hret ht
    exact issued (f := doBranch) h (by simp [hc, hlink, hret]) ((doBranch_plain hlink ht).trans (by rw [hret]; rfl))
  case loop =>
    rintro s k w _ h hc hop hdepth hlow hhigh rfl
    exact issued (f := doLoop) h (by simp [hc, hop]) (doLoop_opens hdepth hlow hhigh)
  case loopRefused =>
    intro s k w h hc hop hbad
    exact issued (f := doLoop) h (by simp [hc, hop]) (doLoop_refused hbad)
  case iter =>
    intro s k w h hc hop hlow hhigh
    exact issued (f := doIter) h (by simp [hc, hop]) (doIter_repeats hlow hhigh)
  case iterSkips =>
    intro s k w h hc hop hzero
    exact issued (f := doIter) h (by simp [hc, hop]) (doIter_skips hzero)
  case rti =>
    intro s k w h hc hop
    exact issued h (by simp [isSys, hc, hop]) rfl
  case entry =>
    intro s k hrun hclk hhalt hie hiter hload hcause
    exact interruptEntry hrun hclk hhalt hie hiter hload hcause
  case falls =>
    intro x t hjump hiter hdepth
    exact finishCore_falls hjump hiter hdepth

end Sys2Proof.Proofs.CoreFlow
end

section
/-!
Items and events of a filter core (chapters 14 and 15): NEXT, DONE, FAIL, YIELD and HEVT, the watchdog of an item and the doorbell; with the
statements about them.
-/

namespace Sys2Proof.Proofs.CoreItems

open Sys2Proof Sys2Proof.Machine Sys2Proof.Laws.CoreIssue Sys2Proof.Proofs.CoreArithmetic Sys2Proof.Proofs.FreeRegisters

/-! ### NEXT (R355) -/

section
variable {k i : Nat} {w : Word} {s : State}

/-- An item that is assigned is taken. -/
theorem doNext_assigned (h : (Machine.core s.chip k).assigned = some i) :
    doNext k w s = retireS k {} (fun x => { x with noOffer := false }) (onChip (takeItem k i) s) := by
  simp only [doNext, h]

/-- With no item, and none withdrawn, the core waits. -/
theorem doNext_waits (ha : (Machine.core s.chip k).assigned = none) (ho : (Machine.core s.chip k).offer = none)
    (hw : (Machine.core s.chip k).withdrawn = false) :
    doNext k w s = onChip (modCore k (fun x => { x with wait := .next, noOffer := false })) s := by
  simp [doNext, ha, ho, hw]

/-- After a withdrawal it goes on with Z set. -/
theorem doNext_withdrawn (ha : (Machine.core s.chip k).assigned = none) (ho : (Machine.core s.chip k).offer = none)
    (hw : (Machine.core s.chip k).withdrawn = true) :
    doNext k w s = retireS k {} (fun x => { x with withdrawn := false, noOffer := false, sr := putBit x.sr srZ true }) s := by
  simp [doNext, ha, ho, hw]

/-! ### DONE and FAIL (R355) -/

/-- The end of the running item with the payload of ITEM4 to ITEM7: it counts, and the one below goes on. -/
theorem endTop_running {l : List Nat} (status detail : Nat) (h : (Machine.core s.chip k).nest = i :: l) :
    endTop k status detail s = onChip (fun c => resumeTop k (wr (fcoPage k) 0x068 (rd c (fcoPage k) 0x068 + 1) c))
      (endItem i status detail [itemReg (Machine.core s.chip k) 4, itemReg (Machine.core s.chip k) 5, itemReg (Machine.core s.chip k) 6, itemReg (Machine.core s.chip k) 7] s) := by
  simp only [endTop, h]

end

/-! ### HEVT (R359) -/

/-- The vector that an HEVT word names; which bits give it is free. -/
def hevtNumber (w : Word) : Nat := (Config.hevtVector (w.extractLsb' 0 24)).val

section
variable {s : State} {k : Fin 8} {w : Word} (h : Stands s k w) (hc : cls w = 9) (hop : fld w 27 24 = 5)
include h hc hop

theorem hevt_raises (hv : 45 ≤ hevtNumber w) (hbit : bit (rd (atIssue s k).chip (fcoPage k.val) 0x054) (hevtNumber w - 45) = true) :
    exec (.hevt k w) s = .next (retireS k.val {} id (onChip (raiseVector (hevtNumber w)) (atIssue s k))) :=
  issued h (by simp [isSys, hc, hop]) (if_pos ⟨hv, hbit⟩)

theorem hevt_denied (hno : ¬ (45 ≤ hevtNumber w ∧ bit (rd (atIssue s k).chip (fcoPage k.val) 0x054) (hevtNumber w - 45) = true)) :
    exec (.hevt k w) s =
      .next (retireS k.val {} (fun x => { x with sr := putBit x.sr srDENY true }) (onChip (raise (fcoPage k.val) 11) (atIssue s k))) :=
  issued h (by simp [isSys, hc, hop]) (if_neg hno)

end

/-! ### The watchdog and the doorbell (R362, R376) -/

theorem itemWatchdog_runsOut {s : State} {k : Fin 8} {i : Nat} {l : List Nat} {it : ItemSt} (hnest : (Machine.core s.chip k.val).nest = i :: l)
    (hslot : slotOf s.chip i = some it) (hlimit : rdF s.chip (fcoPage k.val) 0x050 15 0 ≠ 0) (hhalt : (Machine.core s.chip k.val).halted = false)
    (hclk : clkLost s.chip .sys = false) (hran : rdF s.chip (fcoPage k.val) 0x050 15 0 * 1000 ≤ it.ran + (s.chip.clk.now - it.since)) :
    execItemWatchdog k s = .next (coreFault k.val 0x93 s) := by
  simp [execItemWatchdog, hnest, hslot, hlimit, hhalt, hclk, hran]

/-- FCO_DOORBELL takes bit 0, whatever the seal. -/
theorem doorbell_free (k : Fin 8) : FreeReg (.fco k) 0x05C 1 :=
  ⟨⟨by decide, by decide, by decide⟩, rfl, _, rfl, rfl, by decide, by decide, rfl, rfl⟩

/-! ### The statements -/

/-- Settles O34: each word is issued and comes to its rule above; the watchdog and the doorbell are the two rules before. -/
theorem coreItemsEventsAndWatchdog : Obligations.CoreItemsEventsAndWatchdog := by
  unfold Obligations.CoreItemsEventsAndWatchdog
  refine ⟨?assigned, ?waits, ?withdrawn, ?done, ?fail, ?yields, ?raises, ?denied, ?watchdog, ?doorbell⟩
  case assigned =>
    intro s k w i h hc hop ha
    exact issued (f := doNext) h (by simp [isSys, hc, hop]) (doNext_assigned ha)
  case waits =>
    intro s k w h hc hop ha ho hw
    exact issued (f := doNext) h (by simp [isSys, hc, hop]) (doNext_waits ha ho hw)
  case withdrawn =>
    intro s k w h hc hop ha ho hw
    exact issued (f := doNext) h (by simp [isSys, hc, hop]) (doNext_withdrawn ha ho hw)
  case done =>
    intro s k w i l h hc hop hnest
    exact issued h (by simp [isSys, hc, hop]) (congrArg (retireS k.val {} id) (endTop_running 0 0 hnest))
  case fail =>
    intro s k w i l h hc hop hnest
    exact issued h (by simp [isSys, hc, hop]) (congrArg (retireS k.val {} id) (endTop_running 3 _ hnest))
  case yields =>
    intro s k w h hc hop
    exact issued h (by simp [isSys, hc, hop]) rfl
  case raises =>
    intro s k w h hc hop hv hbit
    exact hevt_raises h hc hop hv hbit
  case denied =>
    intro s k w h hc hop hv
    exact hevt_denied h hc hop (fun ⟨hge, _⟩ => absurd hv (Nat.not_lt.mpr hge))
  case watchdog =>
    intro s k i l it hnest hslot hlimit hhalt hclk hran
    exact itemWatchdog_runsOut hnest hslot hlimit hhalt hclk hran
  case doorbell =>
    intro s path k v h hm
    exact congrArg Host.Outcome.next (regPage_took (doorbell_free k) h hm (fun _ => rfl) (fun _ => rfl))

/-- Settles O57: a vector from 45 on whose bit is set is raised; with either condition missing the word is denied. -/
theorem hevtRaisesAllowedVectors : Obligations.HevtRaisesAllowedVectors := by
  unfold Obligations.HevtRaisesAllowedVectors
  rintro s k w _ h hc hop rfl
  refine ⟨?raises, ?denied⟩
  case raises =>
    intro hv hbit
    exact hevt_raises h hc hop hv hbit
  case denied =>
    rintro (hlow | hbit)
    · exact hevt_denied h hc hop (fun ⟨hge, _⟩ => absurd hlow (Nat.not_lt.mpr hge))
    · exact hevt_denied h hc hop (fun ⟨_, ht⟩ => Bool.false_ne_true (hbit.symm.trans ht))

end Sys2Proof.Proofs.CoreItems
end

section
/-!
The commands of the dispatcher (chapter 15): submissions, its cycle, delays, offers, starvation, cancels, flows, the ring of records and
drains; with the statement about them.
-/

namespace Sys2Proof.Proofs.Dispatcher

open Sys2Proof Sys2Proof.Machine Sys2Proof.Proofs.FreeRegisters

/-! ### Submission (R366) -/

/-- A submission that passes the checks comes to the question of room. -/
theorem submitItem_checked {c : Chip} {path : Path} (h : Submits c path) :
    submitItem path c =
      if 15360 ≤ (c.dsp.slots.filter (fun p => p.2.src.isNone)).length ∨
          (bit (subWord c path 0) 16 && decide (rdF c .dsp 0x0C4 12 0 ≤ c.dsp.cqPosted + c.dsp.cqReserved)) = true then
        heldSet path (pageBase .dsp + 0x0A0) 2 (raise .dsp 9 { c with dsp := { c.dsp with full := min 65535 (c.dsp.full + 1) } })
      else heldSet path (pageBase .dsp + 0x0A4) (submitted c path).2 (heldSet path (pageBase .dsp + 0x0A0) 1 (submitted c path).1) := by
  obtain ⟨hactive, hflow, hzero, hsign, hdelay⟩ := h
  have hform : ¬ (fld (subWord c path 0) 23 18 ≠ 0 ∨ (subWord c path 1).msb = true ∨ (!bit (subWord c path 0) 17 : Bool) = true ∧ subWord c path 1 ≠ 0) := by
    rintro (h | h | ⟨h, hne⟩)
    · exact h hzero
    · simp [hsign] at h
    · exact hne (hdelay (by simpa using h))
  unfold submitItem
  dsimp only
  rw [if_neg (by simp [hactive]), if_neg (by simp [hflow]), if_neg hform]
  rfl

theorem submitItem_room {c : Chip} {path : Path} (h : Submits c path) (hroom : Room c path) :
    submitItem path c = heldSet path (pageBase .dsp + 0x0A4) (submitted c path).2 (heldSet path (pageBase .dsp + 0x0A0) 1 (submitted c path).1) := by
  obtain ⟨hslots, hrecord⟩ := hroom
  rw [submitItem_checked h, if_neg]
  rintro (hfull | hfull)
  · omega
  · rw [Bool.and_eq_true, decide_eq_true_eq] at hfull
    exact absurd (hrecord hfull.1) (Nat.not_lt.mpr hfull.2)

theorem submitItem_full {c : Chip} {path : Path} (h : Submits c path) (hroom : ¬ Room c path) :
    submitItem path c = heldSet path (pageBase .dsp + 0x0A0) 2 (raise .dsp 9 { c with dsp := { c.dsp with full := min 65535 (c.dsp.full + 1) } }) := by
  rw [submitItem_checked h, if_pos]
  by_contra hno
  rw [not_or, Bool.and_eq_true, decide_eq_true_eq, not_and] at hno
  exact hroom ⟨Nat.not_le.mp hno.1, fun hreport => Nat.not_le.mp (hno.2 hreport)⟩

/-! ### The registers -/

/-- DSP_SUB7, DSP_CANCEL and DSP_CANCEL_FLOW, DSP_FLOW_CFG, DSP_CQ_HEAD and DSP_CTL, whatever the seal. -/
theorem sub7_free : FreeReg .dsp 0x09C 0xFFFFFFFF := ⟨⟨by decide, by decide, by decide⟩, rfl, _, rfl, rfl, by decide, by decide, rfl, rfl⟩
theorem cancel_free : FreeReg .dsp 0x0A8 0xFFFFFFFF := ⟨⟨by decide, by decide, by decide⟩, rfl, _, rfl, rfl, by decide, by decide, rfl, rfl⟩
theorem cancelFlow_free : FreeReg .dsp 0x0AC 0xFFF := ⟨⟨by decide, by decide, by decide⟩, rfl, _, rfl, rfl, by decide, by decide, rfl, rfl⟩
theorem flowCfg_free : FreeReg .dsp 0x0D4 0xFF71 := ⟨⟨by decide, by decide, by decide⟩, rfl, _, rfl, rfl, by decide, by decide, rfl, rfl⟩
theorem cqHead_free : FreeReg .dsp 0x0C8 0xFFF := ⟨⟨by decide, by decide, by decide⟩, rfl, _, rfl, rfl, by decide, by decide, rfl, rfl⟩
theorem drain_free : FreeReg .dsp 0x040 0xFF := ⟨⟨by decide, by decide, by decide⟩, rfl, _, rfl, rfl, by decide, by decide, rfl, rfl⟩

theorem regPage_submit {s : State} {path : Path} {v : Word} (h : CanWrite s path .dsp) :
    regPage path .dsp 0x09C v s = onChip (fun c => taken path .dsp 0x09C (submitItem path (withSub7 path v c))) s :=
  regPage_took sub7_free h (BitVec.and_allOnes) (fun _ => rfl) (fun _ => rfl)

/-- A head within the posted records frees those before it. -/
theorem dspCqHeadWrite_within {c : Chip} {v : Nat} (hv : v < rdF c .dsp 0x0C4 12 0)
    (hposted : (v + rdF c .dsp 0x0C4 12 0 - c.dsp.cqHead) % rdF c .dsp 0x0C4 12 0 ≤ c.dsp.cqPosted) :
    dspCqHeadWrite v c = { c with dsp := { c.dsp with cqHead := v, cqPosted := c.dsp.cqPosted - (v + rdF c .dsp 0x0C4 12 0 - c.dsp.cqHead) % rdF c .dsp 0x0C4 12 0 } } :=
  if_neg (by omega)

theorem regPage_cqHead {s : State} {path : Path} {v : Word} (h : CanWrite s path .dsp) (hm : v &&& 0xFFF = v)
    (hv : v.toNat < rdF s.chip .dsp 0x0C4 12 0)
    (hposted : (v.toNat + rdF s.chip .dsp 0x0C4 12 0 - s.chip.dsp.cqHead) % rdF s.chip .dsp 0x0C4 12 0 ≤ s.chip.dsp.cqPosted) :
    regPage path .dsp 0x0C8 v s = onChip (fun c => taken path .dsp 0x0C8 { c with dsp := { c.dsp with cqHead := v.toNat, cqPosted := c.dsp.cqPosted - (v.toNat + rdF c .dsp 0x0C4 12 0 - c.dsp.cqHead) % rdF c .dsp 0x0C4 12 0 } }) s := by
  have heffect := dspCqHeadWrite_within hv hposted
  have hwrote : ∀ row, blockWrite path .dsp 0x0C8 row v s = took (dspCqHeadWrite v.toNat) s := fun _ =>
    Prod.ext rfl (decide_eq_true (congrArg (fun c => c.dsp.cqHead) heffect))
  exact (regPage_took cqHead_free h hm (fun _ => rfl) hwrote).trans (onChip_congr (congrArg (taken path .dsp 0x0C8) heffect))

/-- A flow that is enabled takes its priority and its mask, and cancels nothing. -/
theorem flowCfg_enables {s : State} {f : Nat} {v : Word} (hen : bit v 0 = true) :
    flowCfg f v s = onChip (setFlow f { flow s.chip f with en := true, prio := fld v 6 4, mask := BitVec.ofNat 8 (fld v 15 8) }) s := by
  unfold flowCfg
  dsimp only
  rw [if_pos hen, hen]

/-! ### Events of the dispatcher (R371 to R374, R378, R379) -/

/-- A cycle of a dispatcher that is up and no splice waits for. -/
theorem cycle_runs {s : State} (hm : mainRuns s.chip = true) (hup : isUp s.chip .dsp = true) (hsplice : (hdr s.chip .dsp).spliceReq = false)
    (hhalt : s.chip.dsp.halted = false) :
    execDispatcherCycle s = .next (onChip chooseAll (doCancels (onChip (fun c => expireAll (advanceTicks c)) s))) := by
  simp [execDispatcherCycle, dspCycle, hm, hup, hsplice, hhalt]

/-- A delayed item that is due and was not given back joins its flow. -/
theorem expire_due {c : Chip} {i : Nat} {it : ItemSt} (hslot : slotOf c i = some it) (hstate : it.state = .delayed) (hyield : it.yielded = false)
    (hdue : dueReached c.dsp.ticks it.due = true) : expire i c = enqueue i c := by
  simp [expire, hslot, hstate, hyield, hdue]

theorem delayExpiry_due {s : State} {i : Fin 16384} {it : ItemSt} (hactive : dspActive s.chip = true) (hslot : slotOf s.chip i.val = some it)
    (hstate : it.state = .delayed) (hyield : it.yielded = false) (hdue : dueReached s.chip.dsp.ticks it.due = true) :
    execDelayExpiry i s = .next (onChip (enqueue i.val) s) :=
  congrArg Host.Outcome.next (onChip_congr ((if_pos hactive).trans (expire_due hslot hstate hyield hdue)))

theorem preLate_due {s : State} {k : Fin 8} (hactive : dspActive s.chip = true) (hoffer : (Machine.core s.chip k.val).offer.isSome = true)
    (hdue : (Machine.core s.chip k.val).offerSince + actF s.chip .dsp 0x04C 31 16 ≤ s.chip.clk.now) :
    execPreLate k s = .next (onChip (fun c => raise .dsp 12 (modCore k.val (fun x => { x with noOffer := true }) (withdrawOffer k.val c))) s) :=
  congrArg Host.Outcome.next (onChip_congr (if_pos (by simp [hactive, hoffer, hdue])))

theorem affinityTimeout_due {s : State} {i : Fin 16384} {it : ItemSt} (hactive : dspActive s.chip = true) (hslot : slotOf s.chip i.val = some it)
    (hstate : it.state = .ready) (hdue : it.readySince + actF s.chip .dsp 0x04C 15 0 ≤ s.chip.clk.now) :
    execAffinityTimeout i s = .next (onChip (chooseFor it.flow) s) :=
  congrArg Host.Outcome.next (onChip_congr (by simp [hslot, hactive, hstate, hdue]))

theorem starved_due {s : State} {i : Fin 16384} {it : ItemSt} (hactive : dspActive s.chip = true) (hslot : slotOf s.chip i.val = some it)
    (hstate : it.state = .ready) (htime : actF s.chip .dsp 0x050 15 0 ≠ 0)
    (hdue : it.readySince + actF s.chip .dsp 0x050 15 0 * 1000 ≤ s.chip.clk.now) :
    execStarved i s = .next (onChip (raise .dsp 11) (endItem i.val 4 0x98 [] s)) := by
  simp [execStarved, hslot, hactive, hstate, htime, hdue]

/-- The last item of a draining core has ended, which is told once. -/
theorem drained_once {s : State} {k : Fin 8} (hclk : clkLost s.chip .sys = false) (hdrain : draining s.chip k.val = true)
    (hempty : coreEmpty s.chip k.val = true) (hnew : bit s.chip.dsp.drained k.val = false) :
    execDrained k s = .next (onChip (fun c => raise .dsp 13 { c with dsp := { c.dsp with drained := c.dsp.drained ||| (1#8 <<< k.val) } }) s) :=
  congrArg Host.Outcome.next (onChip_congr ((if_neg (by simp [hclk])).trans (if_pos (by simp [hdrain, hempty, hnew]))))

theorem drainTimeout_due {s : State} {k : Fin 8} (hclk : clkLost s.chip .sys = false) (hdrain : draining s.chip k.val = true)
    (hleft : coreEmpty s.chip k.val = false) (hsince : tabGet 0 s.chip.dsp.drainSince k.val ≠ 0)
    (hdue : tabGet 0 s.chip.dsp.drainSince k.val - 1 + actF s.chip .dsp 0x050 31 16 * 1000 ≤ s.chip.clk.now) :
    execDrainTimeout k s = .next (onChip (drainedEvent k.val) (abortCoreItems k.val 0x99 s)) :=
  congrArg Host.Outcome.next ((if_neg (by simp [hclk])).trans (if_pos (by simp [hdrain, hleft, hsince, hdue])))

/-! ### The statement -/

/-- Settles O35: the writes are those of free registers of the DSP page, the events the rules above. -/
theorem dispatcherCommands : Obligations.DispatcherCommands := by
  unfold Obligations.DispatcherCommands
  refine ⟨?admitted, ?full, ?cycle, ?expiry, ?late, ?affinity, ?starved, ?cancel, ?cancelFlow, ?config, ?head, ?drain, ?drained, ?timeout⟩
  case admitted =>
    intro s path v h hsub hroom
    exact congrArg Host.Outcome.next ((regPage_submit h).trans (onChip_congr (congrArg (taken path .dsp 0x09C) (submitItem_room hsub hroom))))
  case full =>
    intro s path v h hsub hroom
    exact congrArg Host.Outcome.next ((regPage_submit h).trans (onChip_congr (congrArg (taken path .dsp 0x09C) (submitItem_full hsub hroom))))
  case cycle =>
    intro s hm hup hsplice hhalt
    exact cycle_runs hm hup hsplice hhalt
  case expiry =>
    intro s i it hactive hslot hstate hyield hdue
    exact delayExpiry_due hactive hslot hstate hyield hdue
  case late =>
    intro s k hactive hoffer hdue
    exact preLate_due hactive hoffer hdue
  case affinity =>
    intro s i it hactive hslot hstate hdue
    exact affinityTimeout_due hactive hslot hstate hdue
  case starved =>
    intro s i it hactive hslot hstate htime hdue
    exact starved_due hactive hslot hstate htime hdue
  case cancel =>
    intro s path v h
    exact congrArg Host.Outcome.next (regPage_took cancel_free h (BitVec.and_allOnes) (fun _ => rfl) (fun _ => rfl))
  case cancelFlow =>
    intro s path v h hm
    exact congrArg Host.Outcome.next (regPage_took cancelFlow_free h hm (fun _ => rfl) (fun _ => rfl))
  case config =>
    intro s path v h hm hen
    exact congrArg Host.Outcome.next (regPage_took flowCfg_free h hm (fun _ => rfl) (fun _ => congrArg (·, true) (flowCfg_enables hen)))
  case head =>
    intro s path v h hm hv hposted
    exact congrArg Host.Outcome.next (regPage_cqHead h hm hv hposted)
  case drain =>
    intro s path v h hm
    exact congrArg Host.Outcome.next (regPage_took drain_free h hm (fun _ => rfl) (fun _ => rfl))
  case drained =>
    intro s k hclk hdrain hempty hnew
    exact drained_once hclk hdrain hempty hnew
  case timeout =>
    intro s k hclk hdrain hleft hsince hdue
    exact drainTimeout_due hclk hdrain hleft hsince hdue

end Sys2Proof.Proofs.Dispatcher
end

section
/-!
Items in their queues (chapter 15): how an item is queued, what its end does, a cancel of a free slot, and the ticks; with the statement about
them.
-/

namespace Sys2Proof.Proofs.ItemQueues

open Sys2Proof Sys2Proof.Machine

/-! ### Slots, flows and ready lists -/

@[simp] theorem slotOf_setFlow (c : Chip) (f i : Nat) (x : FlowSt) : slotOf (setFlow f x c) i = slotOf c i := rfl
@[simp] theorem slotOf_setReady (c : Chip) (p i : Nat) (l : List Nat) : slotOf (setReady p l c) i = slotOf c i := rfl
@[simp] theorem flow_setSlot (c : Chip) (f i : Nat) (x : ItemSt) : flow (setSlot i x c) f = flow c f := rfl
@[simp] theorem flow_setReady (c : Chip) (f p : Nat) (l : List Nat) : flow (setReady p l c) f = flow c f := rfl
@[simp] theorem readyList_setSlot (c : Chip) (p i : Nat) (x : ItemSt) : readyList (setSlot i x c) p = readyList c p := rfl
@[simp] theorem readyList_setFlow (c : Chip) (p f : Nat) (x : FlowSt) : readyList (setFlow f x c) p = readyList c p := rfl
@[simp] theorem readyList_setReady (c : Chip) (p : Nat) (l : List Nat) : readyList (setReady p l c) p = l := tabGet_tabSet_same _ _ _ _
@[simp] theorem clk_setSlot (c : Chip) (i : Nat) (x : ItemSt) : (setSlot i x c).clk = c.clk := rfl
@[simp] theorem clk_setFlow (c : Chip) (f : Nat) (x : FlowSt) : (setFlow f x c).clk = c.clk := rfl

/-- A slot holds the item that was put there; an item has words. -/
theorem slotOf_setSlot {c : Chip} {i : Nat} {x : ItemSt} (h : x.words ≠ []) : slotOf (setSlot i x c) i = some x := by
  have hget : tabGet ({} : ItemSt) (setSlot i x c).dsp.slots i = x := tabGet_tabSet_same _ _ _ _
  unfold slotOf
  rw [hget]
  exact if_neg h

theorem modSlot_held {c : Chip} {i : Nat} {x : ItemSt} (g : ItemSt → ItemSt) (h : slotOf c i = some x) : modSlot i g c = setSlot i (g x) c := by
  unfold modSlot
  rw [h]

/-! ### Queueing (R370, R373) -/

/-- The flow of an item, with the item at its end. -/
def joined (i : Nat) (x : FlowSt) : FlowSt := { x with queue := x.queue ++ [i] }

theorem enqueue_held {c : Chip} {i : Nat} {it : ItemSt} (h : slotOf c i = some it) :
    enqueue i c = tryReady it.flow (setFlow it.flow (joined i (flow c it.flow)) (setSlot i { it with state := .queued } c)) := by
  simp only [enqueue, h, joined]

/-- A flow that has a head keeps it. -/
theorem tryReady_busy {c : Chip} {f j : Nat} (h : (flow c f).head = some j) : tryReady f c = c := by
  simp only [tryReady, h]

/-- The first in the queue of an idle flow becomes its head, READY, and the flow goes to the end of the ready list of its priority. -/
theorem tryReady_idle {c : Chip} {f i : Nat} {l : List Nat} {it : ItemSt} (hhead : (flow c f).head = none) (hqueue : (flow c f).queue = i :: l)
    (hslot : slotOf c i = some it) :
    tryReady f c = setReady (flow c f).prio (readyList c (flow c f).prio ++ [f])
      (setSlot i { it with state := .ready, readySince := c.clk.now, prio := (flow c f).prio } (setFlow f { flow c f with head := some i, queue := l } c)) := by
  have hfirst : slotOf (setFlow f { flow c f with head := some i, queue := l } c) i = some it := hslot
  simp only [tryReady, hhead, hqueue, modSlot_held _ hfirst]
  rfl

/-- An item enqueued in an empty flow. -/
theorem enqueue_empty {c : Chip} {i : Nat} {it : ItemSt} (hslot : slotOf c i = some it) (hwords : it.words ≠ [])
    (hhead : (flow c it.flow).head = none) (hqueue : (flow c it.flow).queue = []) :
    (flow (enqueue i c) it.flow).head = some i ∧ readyList (enqueue i c) (flow c it.flow).prio = readyList c (flow c it.flow).prio ++ [it.flow] ∧
    slotOf (enqueue i c) i = some { it with state := .ready, readySince := c.clk.now, prio := (flow c it.flow).prio } := by
  rw [enqueue_held hslot, tryReady_idle (i := i) (l := []) (it := { it with state := .queued }) (by simpa [joined] using hhead) (by simp [joined, hqueue])
    (by rw [slotOf_setFlow]; exact slotOf_setSlot hwords)]
  refine ⟨?_, ?_, ?_⟩
  · simp
  · simp [joined]
  · rw [slotOf_setReady]
    refine (slotOf_setSlot (by exact hwords)).trans (congrArg some ?_)
    simp [joined]

/-- An item enqueued in a flow with a head. -/
theorem enqueue_busy {c : Chip} {i j : Nat} {it : ItemSt} (hslot : slotOf c i = some it) (hhead : (flow c it.flow).head = some j) :
    flow (enqueue i c) it.flow = joined i (flow c it.flow) := by
  rw [enqueue_held hslot, tryReady_busy (j := j) (by simpa [joined] using hhead), flow_setFlow]

/-! ### The statement -/

/-- Settles O36: the two ways of queueing; an end without a record, a cancel of a free slot and the ticks are the definitions' own cases. -/
theorem itemQueuesEndsAndTicks : Obligations.ItemQueuesEndsAndTicks := by
  unfold Obligations.ItemQueuesEndsAndTicks
  refine ⟨?empty, ?busy, ?ends, ?cancel, ?ticks⟩
  case empty =>
    intro c i it hslot hwords hhead hqueue
    exact enqueue_empty hslot hwords hhead hqueue
  case busy =>
    intro c i j it hslot hhead
    exact enqueue_busy hslot hhead
  case ends =>
    intro s i status detail l it hslot hreport
    simp only [endItem, hslot, hreport, Bool.false_eq_true, if_false]
    rfl
  case cancel =>
    intro s path v hslot
    simp only [doCancel, hslot, Bool.false_eq_true, if_false]
  case ticks =>
    intro c
    rfl

end Sys2Proof.Proofs.ItemQueues
end

section
/-!
The trace coil, its sequencer and the calibration of the channels (chapter 16), with the statement about them.
-/

namespace Sys2Proof.Proofs.TraceCoil

open Sys2Proof Sys2Proof.Machine Sys2Proof.Proofs.FreeRegisters

/-! ### Records into the coil (R386, R387) -/

/-- A record that ends before the coil's end is put. -/
theorem coilWrite_fits {s : State} {r : TrcRec} {l : List TrcRec} (hstaged : s.chip.trc.staged = r :: l) (hready : coilReady s.chip = true)
    (hend : s.chip.trc.wp + recBytes r < s.chip.trc.size) (hroom : coilUsed s.chip.trc + recBytes r + 8 ≤ s.chip.trc.size) :
    coilWrite s = coilPut r (onChip (modTrc (fun t => { t with staged := l })) s) := by
  have hpad : ¬ s.chip.trc.size < s.chip.trc.wp + recBytes r := by omega
  unfold coilWrite
  dsimp only
  rw [hstaged]
  dsimp only
  rw [if_neg (by simp [hready]), if_neg hpad, if_neg (by omega), if_pos rfl]
  exact if_neg (fun h => absurd h.2.1 (by omega))

/-- One that would pass the end follows the WRAP record, which fills the coil up to there. -/
theorem coilWrite_wraps {s : State} {r : TrcRec} {l : List TrcRec} (hstaged : s.chip.trc.staged = r :: l) (hready : coilReady s.chip = true)
    (hend : s.chip.trc.size < s.chip.trc.wp + recBytes r) (hwp : s.chip.trc.wp < s.chip.trc.size)
    (hroom : coilUsed s.chip.trc + (s.chip.trc.size - s.chip.trc.wp) + recBytes r + 8 ≤ s.chip.trc.size) :
    coilWrite s = coilPut r (coilWrap (coilBytes s.chip.trc.wp
      (toBytes 4 (5 + (s.chip.trc.size - s.chip.trc.wp) / 8 * 256) ++ List.replicate (s.chip.trc.size - s.chip.trc.wp - 4) 0)
      (onChip (modTrc (fun t => { t with staged := l })) s))) := by
  have hpad : s.chip.trc.size - s.chip.trc.wp ≠ 0 := by omega
  unfold coilWrite
  dsimp only
  rw [hstaged]
  dsimp only
  rw [if_neg (by simp [hready]), if_pos hend, if_neg (by omega), if_neg hpad]
  exact if_neg (fun h => hpad h.1)

/-! ### The read pointer and the size (R386, R388) -/

/-- The registers of the coil, the sequencer and the calibration, whatever the seal. -/
theorem readPointer_free : FreeReg .trc 0x058 0x3FFFFFF8 := ⟨⟨by decide, by decide, by decide⟩, rfl, _, rfl, rfl, by decide, by decide, rfl, rfl⟩
theorem coilSize_free : FreeReg .trc 0x050 0x7FFFF000 := ⟨⟨by decide, by decide, by decide⟩, rfl, _, rfl, rfl, by decide, by decide, rfl, rfl⟩
theorem force_free : FreeReg .trc 0x068 1 := ⟨⟨by decide, by decide, by decide⟩, rfl, _, rfl, rfl, by decide, by decide, rfl, rfl⟩
theorem mark_free : FreeReg .trc 0x06C 0xFFFF := ⟨⟨by decide, by decide, by decide⟩, rfl, _, rfl, rfl, by decide, by decide, rfl, rfl⟩
theorem cal_free : FreeReg .trc 0x090 0x1F01 := ⟨⟨by decide, by decide, by decide⟩, rfl, _, rfl, rfl, by decide, by decide, rfl, rfl⟩

/-- Within the used span the pointer moves, and nothing else of the coil's place. -/
theorem coilRelease_within {c : Chip} {v : Nat} (hv : v < c.trc.size) (hused : (v + c.trc.size - c.trc.rp) % c.trc.size ≤ coilUsed c.trc) :
    (coilRelease v c).trc.rp = v ∧ (coilRelease v c).trc.wp = c.trc.wp := by
  unfold coilRelease
  dsimp only
  rw [if_neg (by omega)]
  exact ⟨rfl, rfl⟩

/-- Outside the coil it is refused. -/
theorem coilRelease_outside {c : Chip} {v : Nat} (hv : c.trc.size ≤ v) : coilRelease v c = raise .trc 11 c :=
  if_pos (.inl hv)

theorem readPointer_moves {s : State} {path : Path} {v : Word} (h : CanWrite s path .trc) (hm : v &&& 0x3FFFFFF8 = v)
    (hv : v.toNat < s.chip.trc.size) (hused : (v.toNat + s.chip.trc.size - s.chip.trc.rp) % s.chip.trc.size ≤ coilUsed s.chip.trc) :
    ∃ t, exec (.trcRpWrite path v) s = .next t ∧ t.chip.trc.rp = v.toNat ∧ t.chip.trc.wp = s.chip.trc.wp ∧ t.mem = s.mem := by
  obtain ⟨hrp, hwp⟩ := coilRelease_within hv hused
  exact ⟨_, congrArg Host.Outcome.next (regPage_took readPointer_free h hm (fun _ => rfl) (fun _ => Prod.ext rfl (decide_eq_true hrp))), hrp, hwp, rfl⟩

theorem readPointer_refused {s : State} {path : Path} {v : Word} (h : CanWrite s path .trc) (hm : v &&& 0x3FFFFFF8 = v)
    (hv : s.chip.trc.size ≤ v.toNat) (hrp : s.chip.trc.rp ≠ v.toNat) :
    regPage path .trc 0x058 v s = onChip (fun c => ended path .trc 0x058 (raise .trc 11 c)) s := by
  have hwrote : ∀ row, blockWrite path .trc 0x058 row v s = (onChip (coilRelease v.toNat) s, false) := fun _ =>
    Prod.ext rfl (decide_eq_false (by rw [onChip_chip, coilRelease_outside hv, raise_trc]; exact hrp))
  exact (regPage_turned readPointer_free h hm (fun _ => rfl) hwrote).trans
    (onChip_congr (congrArg (ended path .trc 0x058) (coilRelease_outside hv)))

/-- A size is in force at once while trace is stopped. -/
theorem coilResize_stopped {c : Chip} (v : Nat) (h : c.trc.state = .stopped) :
    coilResize v c = wr .trc 0x050 (BitVec.ofNat 32 v) (modTrc (fun t => { t with size := v, resize := none, wp := 0, rp := 0, unread := [], wmarkHigh := false }) c) :=
  if_pos h

/-- Else one of 64 KiB to 1 GiB is held. -/
theorem coilResize_held {c : Chip} {v : Nat} (h : c.trc.state ≠ .stopped) (hlow : 65536 ≤ v) (hhigh : v ≤ 2 ^ 30) :
    coilResize v c = modTrc (fun t => { t with resize := some v }) c :=
  (if_neg h).trans (if_neg (by omega))

theorem coilSize_written {s : State} {path : Path} {v : Word} (h : CanWrite s path .trc) (hm : v &&& 0x7FFFF000 = v) :
    regPage path .trc 0x050 v s = onChip (fun c => taken path .trc 0x050 (coilResize v.toNat c)) s :=
  regPage_took coilSize_free h hm (fun _ => rfl) (fun _ => rfl)

/-! ### Timers, hold-off and calibration (R391, R392, R394) -/

theorem seqTimer_due {c : Chip} {i : Nat} (hset : tabGet 0 c.trc.timers i ≠ 0)
    (hdue : tabGet 0 c.trc.timers i - 1 + actF c .trc (0x0B0 + 4 * i) 23 0 * 1000 ≤ c.clk.now) :
    seqTimer i c = modTrc (fun x => { x with timerExp := x.timerExp ||| (1#2 <<< i) }) c :=
  if_pos ⟨hset, hdue⟩

theorem holdoffEnd_due {c : Chip} {t : Nat} (hset : c.trc.holdoff = some t) (hdue : t ≤ c.clk.now) :
    holdoffEnd c = seqEnter 0 (modTrc (fun t => { t with holdoff := none }) c) := by
  simp only [holdoffEnd, hset, if_pos hdue]

theorem calCmd_starts {c : Chip} {v : Word} (hstart : bit v 0 = true) (hstop : c.trc.state = .stopped) (hknot : fld v 12 8 ≠ 0)
    (hup : isUp c .trc = true) : calCmd v c = modTrc (fun t => { t with state := .cal, cal := some { knot := fld v 12 8 } }) c :=
  if_pos ⟨hstart, hstop, hknot, hup⟩

/-- 1 ms after its knot the calibration ends: trace is stopped again, and the cause raised. -/
theorem calFinish_due {s : State} {cal : TrcCal} {t0 : Nat} (hcal : s.chip.trc.cal = some cal) (hfired : cal.fired = some t0)
    (hdue : t0 + 1000000 ≤ s.chip.clk.now) :
    ∃ s1, calFinish s = onChip (fun c => raise .trc 14 (modTrc (fun t => { t with cal := none, state := .stopped }) c)) s1 := by
  unfold calFinish
  rw [hcal]
  dsimp only
  rw [hfired]
  exact ⟨_, if_neg (by omega)⟩

/-! ### The statement -/

/-- Settles O37: the coil's rules, the writes of its registers, and the events of the sequencer and the calibration. -/
theorem traceCoilSequencerAndCalibration : Obligations.TraceCoilSequencerAndCalibration := by
  unfold Obligations.TraceCoilSequencerAndCalibration
  refine ⟨?fits, ?wraps, ?pointer, ?outside, ?size, ?held, ?force, ?mark, ?timer, ?holdoff, ?calStart, ?calDone⟩
  case fits =>
    intro s r l hm hstaged hready hend hroom
    exact congrArg Host.Outcome.next ((if_pos hm).trans (coilWrite_fits hstaged hready hend hroom))
  case wraps =>
    intro s r l hm hstaged hready hend hwp hroom
    exact congrArg Host.Outcome.next ((if_pos hm).trans (coilWrite_wraps hstaged hready hend hwp hroom))
  case pointer =>
    intro s path v h hm hv hused
    exact readPointer_moves h hm hv hused
  case outside =>
    intro s path v h hm hv hrp
    exact congrArg Host.Outcome.next (readPointer_refused h hm hv hrp)
  case size =>
    intro s path v h hm hstop
    exact congrArg Host.Outcome.next ((coilSize_written h hm).trans (onChip_congr (congrArg (taken path .trc 0x050) (coilResize_stopped _ hstop))))
  case held =>
    intro s path v h hm hrun hlow hhigh
    exact congrArg Host.Outcome.next ((coilSize_written h hm).trans (onChip_congr (congrArg (taken path .trc 0x050) (coilResize_held hrun hlow hhigh))))
  case force =>
    intro s path v h hm
    exact congrArg Host.Outcome.next (regPage_took force_free h hm (fun _ => rfl) (fun _ => rfl))
  case mark =>
    intro s path v h hm
    exact congrArg Host.Outcome.next (regPage_took mark_free h hm (fun _ => rfl) (fun _ => rfl))
  case timer =>
    intro s i hm hset hdue
    exact run_live_as hm (seqTimer_due hset hdue)
  case holdoff =>
    intro s t hm hset hdue
    exact run_live_as hm (holdoffEnd_due hset hdue)
  case calStart =>
    intro s path v h hm hstart hstop hknot hup
    exact congrArg Host.Outcome.next ((regPage_took (f := calCmd v) cal_free h hm (fun _ => rfl) (fun _ => rfl)).trans
      (onChip_congr (congrArg (taken path .trc 0x090) (calCmd_starts hstart hstop hknot hup))))
  case calDone =>
    intro s cal t0 hm hcal hfired hdue
    obtain ⟨s1, hdone⟩ := calFinish_due hcal hfired hdue
    exact ⟨_, congrArg Host.Outcome.next ((if_pos hm).trans hdone), by simp [modTrc], by simp [modTrc], evt_raise_self _ _ _ (by decide)⟩

end Sys2Proof.Proofs.TraceCoil
end

section
/-!
The pins and the supply of the field die (chapter 17): inputs, schedules, over-current, silence and the field voltage; with the statement about
them.
-/

namespace Sys2Proof.Proofs.FieldPins

open Sys2Proof Sys2Proof.Machine Sys2Proof.Laws.PinBits

/-! ### Events of a field die that runs -/

/-- An event of the field die has its effect there while the field die runs. -/
theorem run_field {f g : Chip → FieldDie} {s : State} (h : fieldRuns s.chip = true) (heq : f s.chip = g s.chip) :
    run (onField (fun c => { c with field := f c })) s = .next (onChip (fun c => { c with field := g c }) s) :=
  congrArg Host.Outcome.next (onChip_congr ((if_pos h).trans (congrArg (fun x => { s.chip with field := x }) heq)))

theorem powered_of_runs {c : Chip} (h : fieldRuns c = true) : c.field.powered = true := by
  unfold fieldRuns at h
  exact (Bool.and_eq_true _ _ ▸ h).1

/-! ### Inputs and schedules (R398, R407) -/

/-- An input that has held its new level for its filter takes it, with its event where it has one. -/
theorem fieldInput_held {f : FieldDie} {p : Fin 64} {level : Bool} {held : Nat} (now : Nat) (hpow : f.powered = true) (hvalid : f.invalid = false)
    (hin : isOut f p.val = false) (hheld : fld (pinCfg f p.val) 31 16 * 1000 ≤ held) (hnew : bit f.inLevel p.val ≠ level) :
    fieldInput now p level held f = (if bit (pinCfg f p.val) (if level then 6 else 7) then pushEvent { kind := if level then 1 else 2, pin := p, time := nsStamp (now - held - 290) } else id)
      { f with inLevel := put64 f.inLevel p.val level } := by
  rw [ite_apply]
  refine if_neg ?_
  rintro (h | h | h | h | h)
  · simp [hpow] at h
  · simp [hvalid] at h
  · simp [hin] at h
  · omega
  · exact hnew h

/-- The earliest entry of a pin, once due, leaves the table and acts. -/
theorem schedExecute_due {f : FieldDie} {p now : Nat} {x : Sched} {l : List Sched}
    (hfirst : (f.table.filter (fun x => x.entry.pin.val = p)).mergeSort schedBefore = x :: l) (hdue : stampNs x.entry.time ≤ now + 1500) :
    schedExecute now p f = schedEvent 3 0 x.entry now (schedAct x.entry (stampNs x.entry.time) { f with table := f.table.filter (fun y => y != x), done := (x.entry.tag :: f.done).take 256 }) := by
  unfold schedExecute
  dsimp only
  rw [hfirst]
  exact if_pos hdue

theorem pulseEnd_due {f : FieldDie} {p now : Nat} (hset : tabGet 0 f.offAt p ≠ 0) (hdue : tabGet 0 f.offAt p ≤ now + 1500) :
    pulseEnd now p f = refreshPin p { f with offAt := tabSet 0 f.offAt p 0, schedLevel := put64 f.schedLevel p false } :=
  if_pos ⟨hset, hdue⟩

/-! ### Over-current (R401) -/

@[simp] theorem pushEvent_driven (e : EventEntry) (f : FieldDie) : (pushEvent e f).driven = f.driven := by unfold pushEvent; split <;> rfl
@[simp] theorem pushEvent_short (e : EventEntry) (f : FieldDie) : (pushEvent e f).short = f.short := by unfold pushEvent; split <;> rfl

/-- A pin is driven anew, and it alone. -/
theorem refreshPin_driven (p : Nat) (f : FieldDie) :
    ∃ b, refreshPin p f = { f with driven := put64 f.driven p b } ∧ (bit f.short p = true → b = false) := by
  unfold refreshPin
  dsimp only
  split
  · exact ⟨_, rfl, fun _ => rfl⟩
  · split
    · exact ⟨_, rfl, fun h => by simp [h]⟩
    · split
      · exact ⟨_, rfl, fun h => by simp [h]⟩
      · exact ⟨_, rfl, fun _ => rfl⟩

/-- A short switches off that pin alone, and is kept. -/
theorem shortPin_driven {f : FieldDie} {p : Fin 64} (now : Nat) (h : bit f.driven p.val = true) :
    bit (shortPin now p f).short p.val = true ∧ bit (shortPin now p f).driven p.val = false ∧
    ∀ q, q ≠ p.val → bit (shortPin now p f).driven q = bit f.driven q := by
  obtain ⟨b, hrefresh, hoff⟩ := refreshPin_driven p.val { f with short := put64 f.short p.val true, driven := put64 f.driven p.val false }
  obtain rfl := hoff (put64_same _ _ _ p.isLt)
  unfold shortPin
  rw [if_pos h, hrefresh, pushEvent_driven, pushEvent_short]
  refine ⟨put64_same _ _ _ p.isLt, put64_same _ _ _ p.isLt, fun q hq => ?_⟩
  exact (put64_other _ _ _ _ hq).trans (put64_other _ _ _ _ hq)

theorem short_switchesOff {s : State} {p : Fin 64} (hrun : fieldRuns s.chip = true) (h : bit s.chip.field.driven p.val = true) :
    ∃ t, exec (.short p) s = .next t ∧ bit t.chip.field.short p.val = true ∧ bit t.chip.field.driven p.val = false ∧
      (∀ q, q ≠ p.val → bit t.chip.field.driven q = bit s.chip.field.driven q) ∧ t.mem = s.mem := by
  obtain ⟨hshort, hoff, hother⟩ := shortPin_driven (timeNs s.chip) h
  exact ⟨_, run_field (g := fun c => shortPin (timeNs c) p c.field) hrun rfl, hshort, hoff, hother, rfl⟩

/-! ### Silence (R409) -/

theorem sil2Pin_due {f : FieldDie} {p now : Nat} (hout : isOut f p = true) (hkind : fld (pinCfg f p) 5 4 = 3) (hhold : bit f.silHold (p / 8) = true)
    (hdue : f.silenceAt + f.sil2 * 1000000 ≤ now) : sil2Pin now p f = { f with driven := put64 f.driven p false } :=
  if_pos ⟨hout, hkind, hhold, hdue⟩

/-! ### The field voltage (R411) -/

/-- Above 16.5 V the supply is good; the warning has its own hysteresis. -/
theorem vfieldStep_good {f : FieldDie} {mV : BitVec 16} (h : 16500 < mV.toNat) :
    vfieldStep mV f = { f with vfield := mV, warn := if mV.toNat < 19200 then true else if 19700 < mV.toNat then false else f.warn, uvlo := false, invalid := false } := by
  have h16 : ¬ mV.toNat < 16000 := by omega
  have h15 : ¬ mV.toNat < 15000 := by omega
  have h155 : 15500 < mV.toNat := by omega
  have h12 : ¬ mV.toNat < 12000 := by omega
  simp [vfieldStep, h, h16, h15, h155, h12]

/-- Below 12 V the field die loses its supply, its outputs off. -/
theorem vfieldStep_lost {f : FieldDie} {mV : BitVec 16} (h : mV.toNat < 12000) :
    (vfieldStep mV f).powered = false ∧ (vfieldStep mV f).driven = 0 ∧ (vfieldStep mV f).groups = 0 ∧ (vfieldStep mV f).uvlo = true ∧
    (vfieldStep mV f).invalid = true := by
  have h16 : mV.toNat < 16000 := by omega
  have h15 : mV.toNat < 15000 := by omega
  simp [vfieldStep, h, h16, h15]

theorem vfield_good {s : State} {mV : BitVec 16} (h : 16500 < mV.toNat) :
    execVfieldSample mV s = .next (onChip (fun c => { c with field := { c.field with vfield := mV, warn := if mV.toNat < 19200 then true else if 19700 < mV.toNat then false else c.field.warn, uvlo := false, invalid := false } }) s) := by
  refine congrArg Host.Outcome.next (onChip_congr ?_)
  dsimp only [modField]
  rw [vfieldStep_good h, if_neg Bool.false_ne_true, if_neg (by omega)]

theorem vfield_lost {s : State} {mV : BitVec 16} (h : mV.toNat < 12000) :
    ∃ t, exec (.vfieldSample mV) s = .next t ∧ t.chip.field.powered = false ∧ t.chip.field.driven = 0 ∧ t.chip.field.groups = 0 ∧
      t.chip.field.uvlo = true ∧ t.chip.field.invalid = true ∧ t.chip.bly.sto = 0xFFFF ∧ t.chip.bly.sout = 0 ∧ t.mem = s.mem := by
  obtain ⟨hpow, hdriven, hgroups, huvlo, hinvalid⟩ := vfieldStep_lost (f := s.chip.field) h
  have hexec : exec (.vfieldSample mV) s = .next (onChip (fun c => modBly outputsSafe (clearGroupEn 0xFF (modField (vfieldStep mV) c))) s) :=
    congrArg Host.Outcome.next (onChip_congr ((if_pos h).trans (congrArg (modBly outputsSafe) (if_pos huvlo))))
  exact ⟨_, hexec, hpow, hdriven, hgroups, huvlo, hinvalid, rfl, rfl, rfl⟩

/-! ### The statement -/

/-- Settles O38: each event of a field die that runs has the effect on it that its rule above states. -/
theorem fieldPinsAndSupply : Obligations.FieldPinsAndSupply := by
  unfold Obligations.FieldPinsAndSupply
  refine ⟨?input, ?schedule, ?pulse, ?short, ?group, ?silence, ?silent, ?second, ?good, ?lost, ?powerUp⟩
  case input =>
    intro s p level held hrun hvalid hin hheld hnew
    exact run_field hrun (fieldInput_held _ (powered_of_runs hrun) hvalid hin hheld hnew)
  case schedule =>
    intro s p x l hrun hfirst hdue
    exact run_field hrun (schedExecute_due hfirst hdue)
  case pulse =>
    intro s p hrun hset hdue
    exact run_field hrun (pulseEnd_due hset hdue)
  case short =>
    intro s p hrun hdriven
    exact short_switchesOff hrun hdriven
  case group =>
    intro s g hrun hon
    exact congrArg Host.Outcome.next (onChip_congr (if_pos (by simp [hrun, hon])))
  case silence =>
    intro s hrun hquiet hdue
    exact congrArg Host.Outcome.next (onChip_congr (if_pos (by simp [hrun, hquiet, hdue])))
  case silent =>
    intro f now
    exact ⟨rfl, rfl, rfl, rfl⟩
  case second =>
    intro s p hrun hout hkind hhold hdue
    exact run_field hrun (sil2Pin_due hout hkind hhold hdue)
  case good =>
    intro s mV h
    exact vfield_good h
  case lost =>
    intro s mV h
    exact vfield_lost h
  case powerUp =>
    intro s hoff
    exact congrArg Host.Outcome.next (onChip_congr (if_neg (by simp [hoff])))

end Sys2Proof.Proofs.FieldPins
end

section
/-!
The tether (chapter 17): why the statement about its frames does not hold for every state.
-/

namespace Sys2Proof.Proofs.Tether

open Sys2Proof Sys2Proof.Machine

/-- The device after reset, its tether up and silent for a millisecond; the table of axis 0's compares lists a unit that is in its reset state. -/
def listedCompare : State :=
  onChip (fun c => { c with axes := [(0, { cmp := [(0, {})] })], fld := { c.fld with tether := .up }, clk := { c.clk with now := 1000000 } }) State.reset

/-- How many compares of axis 0 a state lists. -/
def listed (t : State) : Nat := (axis t.chip 0).cmp.length

/-- TETHER_SILENT changes the compares where they stand, and keeps the one that is listed. -/
theorem tetherLost_keepsListed : listed (onChip tetherLost listedCompare) = 1 := by decide +kernel

/-- The statement forgets a compare's schedules by writing the unit, which drops one in its reset state from the table. -/
theorem forgetSchedules_dropsListed : listed (onChip (fun c => fieldFaults (latchCond .fld 0xB0 (raise .fld 9 (raiseIf c.fld.inputsValid .fld 12
      { forgetSchedules c with fld := { c.fld with tether := .silent, run := 0, inputsValid := false, sched := [], silences := min 255 (c.fld.silences + 1) } })))) listedCompare) = 0 := by
  decide +kernel

/-- Refutes O39: its clause about TETHER_SILENT equates two tables that agree only where no unit in its reset state is listed. -/
theorem not_tetherFrames : ¬ Obligations.TetherFrames := by
  unfold Obligations.TetherFrames
  rintro ⟨-, -, -, -, -, -, -, -, -, hsilent, -⟩
  have hsame := hsilent listedCompare (by decide +kernel) rfl (by decide +kernel)
  have hstate := Host.Outcome.next.inj hsame
  have hlisted := congrArg listed hstate
  have hone : (1 : Nat) = 0 := tetherLost_keepsListed.symm.trans (hlisted.trans forgetSchedules_dropsListed)
  exact absurd hone (by decide)

end Sys2Proof.Proofs.Tether
end

section
/-!
The belay's cycle (chapter 18): what it puts out and what it decides next, its functions and its pairs; with the statement about them.
-/

namespace Sys2Proof.Proofs.BelayCycle

open Sys2Proof Sys2Proof.Machine Sys2Proof.Laws.BelayKeeps

/-! ### An event of a belay that acts -/

/-- An event of the belay has its effect there while the field die is powered and the belay's clock runs. -/
theorem run_belay {f : Chip → BlySt → BlySt} {g : Chip → BlySt} {s : State} (h : BelayUp s) (heq : f s.chip s.chip.bly = g s.chip) :
    run (fun c => onBly (f c) c) s = .next (onChip (fun c => { c with bly := g c }) s) := by
  obtain ⟨hpower, hclock⟩ := h
  refine congrArg Host.Outcome.next (onChip_congr ?_)
  exact (if_pos (by simp [hpower, hclock])).trans (congrArg (fun x => { s.chip with bly := x }) heq)

/-! ### The levels put out (R416, R427) -/

/-- The levels at the STO lines and the SOUTs. -/
def levels (b : BlySt) : BitVec 16 × Byte := (b.sto, b.sout)

theorem levels_latch (n x : Nat) (b : BlySt) : levels (blyLatch n x b) = levels b :=
  Prod.ext (latch_keep n x b).1 (latch_keep n x b).2.1

theorem levels_clear (now : Nat) (b : BlySt) : levels (blyClear now b) = levels b :=
  Prod.ext (clear_keep now b).1 (clear_keep now b).2

theorem levels_halt (n : Nat) (b : BlySt) : levels (blyHalt n b) = levels b :=
  Prod.ext (halt_keep n b).1 (halt_keep n b).2.1

theorem levels_readback (readb : Byte) (b : BlySt) : levels (soutReadback readb b) = levels b := by
  refine fold_keep levels _ (fun b k => ?_) _ b
  dsimp only
  split
  · rfl
  · split
    · rfl
    · split
      · rfl
      · exact levels_latch _ _ _

theorem levels_judge (now : Nat) (b : BlySt) : levels (blyJudge now b) = levels b := by
  unfold blyJudge
  split
  · rfl
  · split <;> rfl

theorem levels_pairCycle (invalid : Bool) (f i : Nat) (b : BlySt) : levels (pairCycle invalid f i b) = levels b := by
  unfold pairCycle
  dsimp only
  split
  · exact levels_latch _ _ _
  · rfl

/-- The evaluation of pairs and functions changes no level that is out. -/
theorem levels_evaluate (invalid : Bool) (b : BlySt) : levels (blyEvaluate invalid b) = levels b := by
  have hpairs : ∀ (b : BlySt) (f : Nat), levels ((fnPairs b.par f).foldl (fun b i => pairCycle invalid f i b) b) = levels b := fun b f =>
    fold_keep levels _ (fun b i => levels_pairCycle invalid f i b) _ b
  exact (fold_keep levels (fun b f => fnCycle invalid f b) (fun _ _ => rfl) _ _).trans (fold_keep levels _ hpairs _ b)

/-- Two ways that both leave the levels. -/
theorem levels_ite {p : Prop} [Decidable p] {x y : BlySt} {l : BitVec 16 × Byte} (hx : levels x = l) (hy : levels y = l) :
    levels (if p then x else y) = l := by
  split
  · exact hx
  · exact hy

/-- What is decided for the next cycle is not out yet. -/
theorem levels_next (x : BlySt) (sto : BitVec 16) (sout : Byte) : levels { x with stoNext := sto, soutNext := sout } = levels x := rfl

/-- Nothing in the cycle in RUN changes a level that is out. -/
theorem levels_run (now : Nat) (invalid selfOk crcOk : Bool) (sr : Byte) (st : BitVec 16) (b : BlySt) :
    levels (blyRun now invalid selfOk crcOk sr st b) = levels b := by
  have hclear : levels (if b.clear then blyClear now b else b) = levels b := levels_ite (levels_clear _ _) rfl
  unfold blyRun
  dsimp only
  generalize (if b.clear then blyClear now b else b) = b1 at hclear ⊢
  have hcrc : levels (if crcOk || !b1.parOk then b1 else { blyLatch 12 0 (allSafe b1) with parOk := false }) = levels b :=
    levels_ite hclear ((levels_latch 12 0 (allSafe b1)).trans hclear)
  refine levels_ite ((levels_halt _ _).trans hclear) ?_
  generalize (if crcOk || !b1.parOk then b1 else { blyLatch 12 0 (allSafe b1) with parOk := false }) = b2 at hcrc ⊢
  have hread : levels (soutReadback sr b2) = levels b := (levels_readback sr b2).trans hcrc
  generalize soutReadback sr b2 = b3 at hread ⊢
  refine levels_ite ((levels_halt _ _).trans hread) ?_
  generalize (if st = b3.sto then 0 else b3.stoBad + 1) = bad
  have hjudge : levels (blyJudge now { b3 with stoBad := bad }) = levels b := (levels_judge _ _).trans hread
  generalize blyJudge now { b3 with stoBad := bad } = b4 at hjudge ⊢
  refine (levels_next _ _ _).trans ?_
  exact levels_ite ((levels_evaluate _ _).trans hjudge) hjudge

theorem levels_rest (now : Nat) (b : BlySt) : levels (blyRest now b) = levels b := by
  unfold blyRest
  split
  · exact levels_clear _ _
  · rfl

/-- A cycle puts out what the cycle before decided. -/
theorem blyCycle_levels {b : BlySt} (now : Nat) (invalid selfOk crcOk : Bool) (sr : Byte) (st : BitVec 16) (h : b.clockLost = false) :
    levels (blyCycle now invalid selfOk crcOk sr st b) = (b.stoNext, b.soutNext) := by
  unfold blyCycle
  rw [if_neg (by simp [h])]
  split
  · exact levels_run _ _ _ _ _ _ _
  · exact levels_rest _ _

/-- Outside RUN the next levels are the safe ones. -/
theorem blyCycle_rest {b : BlySt} (now : Nat) (invalid selfOk crcOk : Bool) (sr : Byte) (st : BitVec 16) (h : b.clockLost = false)
    (hstate : b.state ≠ .run) : blyCycle now invalid selfOk crcOk sr st b = blyRest now (blyApply b) :=
  (if_neg (by simp [h])).trans (if_neg hstate)

/-- A failed self-test halts, after a clear that was asked for. -/
theorem blyRun_failed (now : Nat) (invalid crcOk : Bool) (sr : Byte) (st : BitVec 16) (b : BlySt) :
    blyRun now invalid false crcOk sr st b = blyHalt 13 (if b.clear then blyClear now b else b) := by
  unfold blyRun
  exact if_pos rfl

/-- A failed self-test in RUN halts. -/
theorem blyCycle_failed {b : BlySt} (now : Nat) (invalid crcOk : Bool) (sr : Byte) (st : BitVec 16) (h : b.clockLost = false)
    (hstate : b.state = .run) : ∃ b1, blyCycle now invalid false crcOk sr st b = blyHalt 13 b1 :=
  ⟨_, (if_neg (by simp [h])).trans ((if_pos hstate).trans (blyRun_failed now invalid crcOk sr st _))⟩

/-! ### Functions (R424, R427) -/

@[simp] theorem fnSt_setFn (f : Nat) (x : FnSt) (b : BlySt) : fnSt (setFn f x b) f = x := tabGet_tabSet_same _ _ _ _

section
variable {b : BlySt} {f : Nat} (invalid : Bool) (hrun : (fnSt b f).state = .run)
include hrun

/-- Open pairs are noted outside RUN alone. -/
theorem noted_run (x : FnSt) : (if pairsOpen b invalid f && (fnSt b f).state != .run then x else fnSt b f) = fnSt b f :=
  if_neg (by simp [hrun])

/-- A function in RUN with a fault goes to FAULT. -/
theorem fnCycle_fault (hfault : fnFaulted b f = true) : (fnSt (fnCycle invalid f b) f).state = .fault := by
  unfold fnCycle
  dsimp only
  rw [fnSt_setFn, noted_run invalid hrun, if_pos ⟨by rw [hrun]; decide, hfault⟩]

/-- One on a demand stops as its kind says. -/
theorem fnCycle_demand (hfault : fnFaulted b f = false) (hmade : (fnPairs b.par f).all (pairMade b) = false) :
    (fnSt (fnCycle invalid f b) f).state = (if bit (fnCfg b.par f) 16 then .stopping else .safe) := by
  have hdemand : fnSt (fnCycle invalid f b) f = fnDemand b f (fnSt b f) := by
    unfold fnCycle
    dsimp only
    rw [fnSt_setFn, noted_run invalid hrun, if_neg (by simp [hfault]), hrun]
    exact if_neg (by simp [hmade])
  rw [hdemand]
  unfold fnDemand
  split <;> rfl

end

/-! ### The statement -/

/-- Settles O40: what a cycle puts out and decides, how a function leaves RUN, and the table of a pair. -/
theorem belayCycleAndFunctions : Obligations.BelayCycleAndFunctions := by
  unfold Obligations.BelayCycleAndFunctions
  refine ⟨?cycle, ?out, ?rest, ?failed, ?demand, ?fault, ?pair⟩
  case cycle =>
    intro s selfOk crcOk sr st h
    exact run_belay h rfl
  case out =>
    intro b now inv selfOk crcOk sr st h
    exact Prod.ext_iff.mp (blyCycle_levels now inv selfOk crcOk sr st h)
  case rest =>
    intro b now inv selfOk crcOk sr st h hstate
    rw [blyCycle_rest now inv selfOk crcOk sr st h hstate]
    exact ⟨rfl, rfl⟩
  case failed =>
    intro b now inv crcOk sr st h hstate
    obtain ⟨b1, hhalt⟩ := blyCycle_failed now inv crcOk sr st h hstate
    rw [hhalt]
    exact (halt_keep 13 b1).2.2
  case demand =>
    intro b f inv hrun hfault hmade
    exact fnCycle_demand inv hrun hfault hmade
  case fault =>
    intro b f inv hrun hfault
    exact fnCycle_fault inv hrun hfault
  case pair =>
    intro t n p
    exact ⟨rfl, rfl, fun _ => rfl, rfl⟩

end Sys2Proof.Proofs.BelayCycle
end

section
/-!
Start-up, tests, resets, commit and restart of the belay (chapter 18), with the statement about them.
-/

namespace Sys2Proof.Proofs.BelayCommands

open Sys2Proof Sys2Proof.Machine Sys2Proof.Laws.BelayKeeps Sys2Proof.Proofs.BelayCycle Sys2Proof.Proofs.FreeRegisters

/-! ### Start-up (R417) -/

/-- Tests that pass, with a valid set and no reset input high, enter RUN. -/
theorem blyStartDone_passes {b : BlySt} (now : Nat) (hstart : b.state = .start) (hset : b.nvValid = true) :
    blyStartDone now true true false false b = { allSafe b with state := .run, parOk := true, stuckA := false, stuckB := false, faults := b.faults.filter (fun x => x.1 != 11 && x.1 != 13) } := by
  simp [blyStartDone, hstart, hset]

theorem blyStartDone_fails {b : BlySt} (now : Nat) (x y z : Bool) (hstart : b.state = .start) : blyStartDone now false x y z b = blyHalt 13 b :=
  (if_neg (not_not_intro hstart)).trans (if_pos rfl)

/-! ### SS1 (R424) -/

/-- The last cycle of a function that stops: it is SAFE, and the next levels follow. -/
theorem ss1Elapsed_safe {s : State} {f : Fin 12} (h : BelayUp s) (hstop : (fnSt s.chip.bly f.val).state = .stopping)
    (hlast : (fnSt s.chip.bly f.val).ss1 ≤ 1) (hrun : s.chip.bly.state = .run) :
    ∃ t, exec (.ss1Elapsed f) s = .next t ∧ (fnSt t.chip.bly f.val).state = .safe ∧ t.chip.bly.stoNext = stoWanted t.chip.bly ∧
      t.chip.bly.soutNext = soutWanted t.chip.bly := by
  refine ⟨_, run_belay (g := fun c => { setFn f.val { fnSt c.bly f.val with state := .safe, ss1 := 0 } c.bly with stoNext := stoWanted (setFn f.val { fnSt c.bly f.val with state := .safe, ss1 := 0 } c.bly), soutNext := soutWanted (setFn f.val { fnSt c.bly f.val with state := .safe, ss1 := 0 } c.bly) }) h (if_pos ⟨hstop, hlast, hrun⟩), ?_, rfl, rfl⟩
  exact congrArg FnSt.state (fnSt_setFn f.val { fnSt s.chip.bly f.val with state := .safe, ss1 := 0 } s.chip.bly)

/-! ### Reset pulses (R426) -/

theorem blyReset_countsA {b : BlySt} {now ms : Nat} (hlow : 50 ≤ ms) (hhigh : ms ≤ 3000) (hstuck : b.stuckA = false)
    (hign : b.ignA ≤ now - ms * 1000000) : blyReset now false ms b = { b with rstA := true } := by
  have hpass : ¬ (now - ms * 1000000 < b.ignA) := by omega
  have hshort : ¬ ms < 50 := by omega
  have hlong : ¬ 3000 < ms := by omega
  simp [blyReset, hstuck, hpass, hshort, hlong]

theorem blyReset_countsB {b : BlySt} {now ms : Nat} (hlow : 50 ≤ ms) (hhigh : ms ≤ 3000) (hstuck : b.stuckB = false)
    (hign : b.ignB ≤ now - ms * 1000000) : blyReset now true ms b = { b with rstB := true } := by
  have hpass : ¬ (now - ms * 1000000 < b.ignB) := by omega
  have hshort : ¬ ms < 50 := by omega
  have hlong : ¬ 3000 < ms := by omega
  simp [blyReset, hstuck, hpass, hshort, hlong]

/-- One longer than 3 s is a fault, and the input is ignored for a second. -/
theorem blyReset_long {b : BlySt} {now ms : Nat} (hlong : 3000 < ms) (hstuck : b.stuckA = false) :
    blyReset now false ms b = blyLatch 14 0 { b with ignA := now + 1000000000, stuckA := false } := by
  simp [blyReset, hstuck, hlong]

/-! ### Output tests (R428, R429) -/

@[simp] theorem soutSt_setSout (k : Nat) (x : SoutSt) (b : BlySt) : soutSt (setSout k x b) k = x := tabGet_tabSet_same _ _ _ _

theorem soutSt_latch (n x k : Nat) (b : BlySt) : soutSt (blyLatch n x b) k = soutSt b k :=
  congrArg (fun t => tabGet ({} : SoutSt) t k) (latch_keep n x b).2.2.2.1

/-- A SOUT may be tested now: the belay runs with its set, the test is due, the output on, and no switch-off pending. -/
def SoutTested (now : Nat) (k : Fin 8) (b : BlySt) : Prop :=
  b.state = .run ∧ b.parOk = true ∧ bit (soutCfg b.par) k.val = true ∧ bit b.sout k.val = true ∧ (soutSt b k.val).testDue ≤ now ∧
  bit b.soutNext k.val = true ∧ ∀ f ∈ fnsIn b, (fnSt b f).state = .stopping → bit (fnTarget b.par f) (16 + k.val) = false

/-- A readback that is not low latches 0xBA, opens the guard and switches the output off. -/
theorem blySoutTest_fails {b : BlySt} {now : Nat} {k : Fin 8} (h : SoutTested now k b) :
    (soutSt (blySoutTest now k.val false b) k.val).ba = true ∧ (soutSt (blySoutTest now k.val false b) k.val).guardOpen = true ∧
    bit (blySoutTest now k.val false b).soutNext k.val = false := by
  obtain ⟨hrun, hset, hcfg, hon, hdue, hnext, hquiet⟩ := h
  have hpending : (!bit b.soutNext k.val || (fnsIn b).any (fun f => (fnSt b f).state == .stopping && bit (fnTarget b.par f) (16 + k.val))) = false := by
    rw [Bool.or_eq_false_iff, List.any_eq_false]
    refine ⟨by simp [hnext], fun f hf => ?_⟩
    rw [Bool.and_eq_true, not_and, beq_iff_eq]
    intro hstop
    simp [hquiet f hf hstop]
  unfold blySoutTest
  dsimp only
  rw [if_neg (by simp [hrun, hset, hcfg, hon, hdue]), hpending, if_neg Bool.false_ne_true, if_neg Bool.false_ne_true]
  have hout : ∀ w : Byte, bit (w &&& ~~~(1#8 <<< k.val)) k.val = false := by
    intro w
    simp [bit]
  refine ⟨?_, ?_, hout _⟩
  · exact congrArg SoutSt.ba ((soutSt_latch _ _ _ _).trans (soutSt_setSout _ _ _))
  · exact congrArg SoutSt.guardOpen ((soutSt_latch _ _ _ _).trans (soutSt_setSout _ _ _))

/-! ### Commit and restart (R418, R434) -/

/-- BLY_COMMIT and BLY_CMD, whatever the seal. -/
theorem commit_free : FreeReg .bly 0x054 0xFFFFFFFF := ⟨⟨by decide, by decide, by decide⟩, rfl, _, rfl, rfl, by decide, by decide, rfl, rfl⟩
theorem command_free : FreeReg .bly 0x058 1 := ⟨⟨by decide, by decide, by decide⟩, rfl, _, rfl, rfl, by decide, by decide, rfl, rfl⟩

theorem blyJudge_good {b : BlySt} {now : Nat} {key : Word} (hreq : b.req = some (key, false)) (hrun : b.state = .run)
    (hkey : key = blyKey b.staging) (hchecks : blyChecks b.staging = true) :
    blyJudge now b = { allSafe b with state := .commit, par := b.staging, req := none, commitSince := some now } := by
  unfold blyJudge
  rw [hreq]
  exact if_pos ⟨hrun, rfl, hkey, hchecks⟩

theorem blyJudge_bad {b : BlySt} {now : Nat} {key : Word} {running : Bool} (hreq : b.req = some (key, running))
    (hbad : running = true ∨ key ≠ blyKey b.staging ∨ blyChecks b.staging = false) : blyJudge now b = { b with req := none } := by
  unfold blyJudge
  rw [hreq]
  refine if_neg ?_
  rintro ⟨-, hidle, hkey, hchecks⟩
  rcases hbad with h | h | h
  · simp [h] at hidle
  · exact h hkey
  · simp [h] at hchecks

/-! ### Safety inputs (R419) -/

/-- The levels with that of one input set. -/
def setLevelBit (i : Fin 24) (level : Bool) (w : BitVec 24) : BitVec 24 :=
  if level then w ||| (1#24 <<< i.val) else w &&& ~~~(1#24 <<< i.val)

theorem setLevelBit_same (i : Fin 24) (level : Bool) (w : BitVec 24) : bit (setLevelBit i level w) i.val = level := by
  cases level <;> simp [setLevelBit, bit]

theorem setLevelBit_other {i : Fin 24} {j : Nat} (level : Bool) (w : BitVec 24) (h : j ≠ i.val) : bit (setLevelBit i level w) j = bit w j := by
  by_cases hj : j < 24
  · cases level <;> simp [setLevelBit, bit] <;> omega
  · simp [bit, BitVec.getLsbD_of_ge _ j (Nat.not_lt.mp hj)]

/-! ### The statement -/

/-- Settles O41: each event of a belay that acts comes to its rule above, and its commands of the main die travel as slots. -/
theorem belayTestsResetsAndCommit : Obligations.BelayTestsResetsAndCommit := by
  unfold Obligations.BelayTestsResetsAndCommit
  refine ⟨?passes, ?fails, ?flow, ?march, ?pulse, ?ss1, ?resetA, ?resetB, ?resetLong, ?sout, ?commit, ?good, ?bad, ?done, ?restart, ?input⟩
  case passes =>
    intro s h hstart hset
    exact run_belay h (blyStartDone_passes _ hstart hset)
  case fails =>
    intro s a b x h hstart
    exact run_belay h (blyStartDone_fails _ x a b hstart)
  case flow =>
    intro s hpower
    exact congrArg Host.Outcome.next (onChip_congr (if_pos hpower))
  case march =>
    intro s h
    exact ⟨run_belay h rfl, run_belay h rfl⟩
  case pulse =>
    intro s x levels h _ _
    exact run_belay h rfl
  case ss1 =>
    intro s f h hstop hlast hrun
    exact ss1Elapsed_safe h hstop hlast hrun
  case resetA =>
    intro s ms h hlow hhigh hstuck hign
    exact run_belay h (blyReset_countsA hlow hhigh hstuck hign)
  case resetB =>
    intro s ms h hlow hhigh hstuck hign
    exact run_belay h (blyReset_countsB hlow hhigh hstuck hign)
  case resetLong =>
    intro s ms h hlong hstuck
    exact run_belay h (blyReset_long hlong hstuck)
  case sout =>
    intro s k h hrun hset hcfg hon hdue hnext hquiet
    exact ⟨_, run_belay (g := fun c => blySoutTest c.clk.now k.val false c.bly) h rfl, blySoutTest_fails ⟨hrun, hset, hcfg, hon, hdue, hnext, hquiet⟩⟩
  case commit =>
    intro s path key h
    exact congrArg Host.Outcome.next (regPage_took commit_free h BitVec.and_allOnes (fun _ => rfl) (fun _ => rfl))
  case good =>
    intro now b key hreq hrun hkey hchecks
    exact blyJudge_good hreq hrun hkey hchecks
  case bad =>
    intro now b key running hreq hbad
    exact blyJudge_bad hreq hbad
  case done =>
    intro s h hcommit
    exact run_belay h (if_pos hcommit)
  case restart =>
    intro s path h
    exact congrArg Host.Outcome.next (regPage_took command_free h rfl (fun _ => rfl) (fun _ => rfl))
  case input =>
    intro s i level h
    exact ⟨_, run_belay (g := fun c => { c.bly with level := setLevelBit i level c.bly.level }) h rfl, setLevelBit_same _ _ _, fun j hj => setLevelBit_other _ _ hj, rfl⟩

end Sys2Proof.Proofs.BelayCommands
end

section
/-!
The scrubber, the DRAM, the error log, injection and the save base (chapter 19), with the statement about them.
-/

namespace Sys2Proof.Proofs.Memory

open Sys2Proof Sys2Proof.Machine Sys2Proof.Laws.ScrubFields Sys2Proof.Proofs.FreeRegisters

/-! ### Scrub words (R446, R447) -/

/-- The word of the SRAM pass that is due is scrubbed, and the pass goes on or ends. -/
theorem scrubStep_sram {s : State} {u : BitVec 144} (h : SramDue s.chip) :
    scrubStep u s =
      (let late := overRate s.chip.scb.sramSince (rdF s.chip .scb 0x044 11 0 * 1000000000) s.chip.clk.now
       let s1 := onChip (raiseIf (late && !s.chip.scb.sramLate) .scb 10) (scrubOne (sramPlace sramRegions s.chip.scb.sramPos).1 (sramPlace sramRegions s.chip.scb.sramPos).2 u s)
       if s.chip.scb.sramPos + 1 < sramWords then
         onChip (fun c => { c with scb := { c.scb with sramPos := s.chip.scb.sramPos + 1, sramLate := s.chip.scb.sramLate || late } }) s1
       else onChip (fun c => raise .scb 8 (cntWrap .scb 0x04C 15 0 { c with scb := { c.scb with sramPos := 0, sramLate := false, sramSince := nextPass s.chip.scb.sramSince (rdF s.chip .scb 0x044 11 0 * 1000000000) s.chip.clk.now } })) s1) := by
  obtain ⟨hscrubs, hon, hdue, hfirst⟩ := h
  unfold scrubStep
  dsimp only
  rw [if_neg (by simp [hscrubs])]
  refine if_pos ?_
  rw [hon, Bool.true_and, Bool.and_eq_true, decide_eq_true_eq]
  refine ⟨hdue, ?_⟩
  rw [Bool.or_eq_true, decide_eq_true_eq, Bool.not_eq_true']
  by_cases hdram : bit (rd s.chip .scb 0x040) 1 = true ∧ dramRuns s.chip = true ∧ 0 < dramBytes s.chip / 16
  · exact .inr (hfirst hdram.1 hdram.2.1 hdram.2.2)
  · exact .inl (Bool.eq_false_iff.mpr fun h => hdram (by simpa [and_assoc] using h))

/-! ### The DRAM (R440, R480) -/

section
variable {c : Chip} (hruns : dramRuns c = true)
include hruns

theorem dramRefreshStep_due (hdue : c.memc.lastRefresh + refreshNs c ≤ c.clk.now) :
    dramRefreshStep c = (if c.memc.lastRefresh + refreshNs c + 8 * refreshNs c < c.clk.now then latchFault .mem 0xC1 else id) { c with memc := { c.memc with lastRefresh := c.clk.now } } := by
  rw [ite_apply]
  exact if_neg (by simp [hruns, hdue])

theorem dramTemp_due (hot : Bool) (hdue : c.memc.lastTemp + 32000000 ≤ c.clk.now) :
    dramTemp hot c = { c with memc := { c.memc with hot := hot, lastTemp := c.clk.now } } :=
  if_neg (by simp [hruns, hdue])

theorem zqCal_due (hdue : c.memc.lastZq + 128000000 ≤ c.clk.now) : zqCal c = { c with memc := { c.memc with lastZq := c.clk.now } } :=
  if_neg (by simp [hruns, hdue])

theorem dramSelf_due (hdoze : c.pwr.state = .doze) (hidle : c.memc.lastAccess + 1000000 ≤ c.clk.now) :
    dramSelf c = { c with memc := { c.memc with selfRefresh := true } } :=
  if_pos ⟨hdoze, hruns, hidle⟩

end

section
variable {s : State} (hok : s.chip.memc.dramOk = false) (hclk : clkLost s.chip .mem = false) (hstand : standing s.chip .mem 0xC0 = false)
include hok hclk hstand

/-- Training that passes leaves the DRAM zero, and working. -/
theorem dramTrained_passes : dramTrainedStep none s = { s with mem := zeroDram 0 s.mem, chip := raise .mem 11 { s.chip with memc := { s.chip.memc with trained := true, dramOk := true, initGiB := rdF s.chip .mem 0x040 3 0, lastAccess := s.chip.clk.now, lastRefresh := s.chip.clk.now, lastTemp := s.chip.clk.now, lastZq := s.chip.clk.now } } } :=
  (if_neg (by simp [hok])).trans (if_neg (by rw [hclk, hstand]; decide))

/-- A step that fails is kept and latched; with no hitch there is none to fault. -/
theorem dramTrained_fails {k : Fin 16} (hhits : s.chip.hits = []) :
    dramTrainedStep (some k) s = onChip (fun c => raise .mem 12 (latchCond .mem 0xC0 { c with memc := { c.memc with failStep := k.val } })) s := by
  refine ((if_neg (by simp [hok])).trans (if_neg (by rw [hclk, hstand]; decide))).trans (onChip_congr ?_)
  have hnone : (raise .mem 12 (latchCond .mem 0xC0 (modMemc (fun m => { m with failStep := k.val }) s.chip))).hits = [] := by
    simp [modMemc, hhits]
  dsimp only
  rw [hnone]
  rfl

end

/-! ### The error log and injection (R448) -/

theorem regRead_elog {s : State} {path : Path} (h : fabricUp s.chip path = true) :
    regRead path (pageBase .mem + 0x050) s = onChip (fun c => answered path .mem 0x050 (elogPop c).2 (elogPop c).1) s := by
  have hread : pageRead path .mem 0x050 s.chip = elogPop s.chip := rfl
  rw [regRead_page s path .mem 0x050 h (by omega) (by omega), hread]
  rfl

theorem elogPop_empty {c : Chip} (h : c.memc.elog = []) : elogPop c = (c, 0x80000000) := by
  simp only [elogPop, h]

/-- The oldest entry is answered, its address shown, and it is gone. -/
theorem elogPop_oldest {c : Chip} {x : ElogEntry} {l : List ElogEntry} (h : c.memc.elog = x :: l) :
    elogPop c = (wrPair .mem 0x054 (BitVec.ofNat 64 x.addr) { c with memc := { c.memc with elog := l } },
      BitVec.ofNat 32 (x.syndrome.toNat + x.region * 512 + flag x.ue 13 + flag x.misaddr 14 + flag x.scrub 15)) := by
  simp only [elogPop, h, modMemc]

/-- MEM_INJ, whatever the seal. -/
theorem inject_free : FreeReg .mem 0x05C 0xF3 := ⟨⟨by decide, by decide, by decide⟩, rfl, _, rfl, rfl, by decide, by decide, rfl, rfl⟩

theorem memInject_arms {c : Chip} {v : Word} (hregion : fld v 7 4 ≤ 6) (hbits : bit v 0 = true ∨ bit v 1 = true) :
    memInject v c = { c with memc := { c.memc with inj := tabSet 0 c.memc.inj (fld v 7 4) (if bit v 1 then 2 else 1) } } := by
  have hcount : (if bit v 1 then 2 else if bit v 0 then 1 else 0) = (if bit v 1 then 2 else 1) := by
    rcases hbits with h | h <;> simp [h]
  unfold memInject
  dsimp only
  rw [hcount, if_pos ⟨hregion, by split <;> decide⟩]
  rfl

/-! ### The save base (R449) -/

/-- KEP_SAVE_BASE is written while no seal holds it. -/
theorem regPage_saveBase {s s1 : State} {path : Path} {v : Word} {ok : Bool} (h : CanWrite s path .kep) (hm : v &&& 0x3FFF000 = v)
    (hseal : (hdr s.chip .kep).sealedBit = false) (hb : ∀ row, blockWrite path .kep 0x050 row v s = (s1, ok)) :
    regPage path .kep 0x050 v s = onChip (if ok then taken path .kep 0x050 else ended path .kep 0x050) s1 :=
  regPage_plain ok h (by decide) (by decide) (by decide) rfl rfl (by decide) (.inr hseal) hm rfl rfl (hb _)

theorem saveBaseOk_within {c : Chip} {v : Word} (hm : v &&& 0x3FFF000 = v) (hboot : c.keep.bootEnd ≤ v.toNat)
    (hend : v.toNat + 524288 + 4096 ≤ c.keep.mib * 2 ^ 20) : saveBaseOk c v = true := by
  unfold saveBaseOk
  rw [fldTop v hm]
  exact (Bool.and_eq_true _ _).mpr ⟨decide_eq_true hboot, decide_eq_true hend⟩

theorem saveBaseOk_beyond {c : Chip} {v : Word} (hm : v &&& 0x3FFF000 = v) (hend : c.keep.mib * 2 ^ 20 < v.toNat + 524288 + 4096) :
    saveBaseOk c v = false := by
  unfold saveBaseOk
  rw [fldTop v hm]
  exact (Bool.and_eq_false_iff).mpr (.inr (decide_eq_false (Nat.not_le.mpr hend)))

/-! ### The statement -/

/-- Settles O42: the scrub step of a due SRAM word, the DRAM's events while they are due, and the registers of MEM and KEP. -/
theorem memoryScrubDramAndLog : Obligations.MemoryScrubDramAndLog := by
  unfold Obligations.MemoryScrubDramAndLog
  refine ⟨?scrub, ?passDone, ?refresh, ?temp, ?zq, ?trained, ?failed, ?selfRefresh, ?logEmpty, ?logPop, ?inject, ?base, ?beyond⟩
  case scrub =>
    rintro s u _ h hpos rfl
    exact congrArg Host.Outcome.next ((scrubStep_sram h).trans (if_pos hpos))
  case passDone =>
    rintro s u _ h hpos rfl
    exact congrArg Host.Outcome.next ((scrubStep_sram h).trans (if_neg (by omega)))
  case refresh =>
    intro s hm hruns hdue
    exact run_live_as hm (dramRefreshStep_due hruns hdue)
  case temp =>
    intro s hot hm hruns hdue
    exact run_live_as hm (dramTemp_due hruns hot hdue)
  case zq =>
    intro s hm hruns hdue
    exact run_live_as hm (zqCal_due hruns hdue)
  case trained =>
    intro s hm hok hclk hstand
    exact congrArg Host.Outcome.next ((if_pos hm).trans (dramTrained_passes hok hclk hstand))
  case failed =>
    intro s k hm hok hclk hstand hhits
    exact congrArg Host.Outcome.next ((if_pos hm).trans (dramTrained_fails hok hclk hstand hhits))
  case selfRefresh =>
    intro s hm hdoze hruns hidle
    exact run_live_as hm (dramSelf_due hruns hdoze hidle)
  case logEmpty =>
    intro s path h hlog
    exact congrArg Host.Outcome.next ((regRead_elog h).trans (onChip_congr (by rw [elogPop_empty hlog])))
  case logPop =>
    intro s path x l h hlog
    exact congrArg Host.Outcome.next ((regRead_elog h).trans (onChip_congr (by rw [elogPop_oldest hlog])))
  case inject =>
    intro s path v h hm hregion hbits
    exact congrArg Host.Outcome.next ((regPage_took (f := memInject v) inject_free h hm (fun _ => rfl) (fun _ => rfl)).trans
      (onChip_congr (congrArg (taken path .mem 0x05C) (memInject_arms hregion hbits))))
  case base =>
    intro s path v h hm hseal hboot hend
    exact congrArg Host.Outcome.next (regPage_saveBase (s1 := onChip (wr .kep 0x050 v) s) (ok := true) h hm hseal (fun _ => if_pos (saveBaseOk_within hm hboot hend)))
  case beyond =>
    intro s path v h hm hseal hend
    exact congrArg Host.Outcome.next (regPage_saveBase (s1 := onChip (raise .kep 1) s) (ok := false) h hm hseal
      (fun _ => if_neg (by rw [saveBaseOk_beyond hm hend]; decide)))

end Sys2Proof.Proofs.Memory
end

section
/-!
The resets of the main die (chapter 20): PORST_N, a warm reset by pin or register, and FLR; with the statement about what they leave.
-/

namespace Sys2Proof.Proofs.Resets

open Sys2Proof Sys2Proof.Machine Sys2Proof.Laws.ResetFacts Sys2Proof.Proofs.FreeRegisters

/-! ### What a reset of the main die leaves -/

/-- What a warm reset leaves: everything fresh, its cause, every register of other pages at its reset value, and the memories that it keeps. -/
def WarmLeft (cause : Nat) (s t : State) : Prop :=
  Fresh t.chip ∧ rd t.chip .pwr 0x048 = BitVec.ofNat 32 cause ∧
  (∀ (p : Page) (off : Nat), off < 0x1000 → p ≠ .pwr → p ≠ .kep → p ≠ .tim → rd t.chip p off = regReset (pageBase p + off)) ∧
  t.mem = resetMem true s.mem ∧ t.pending = s.pending

theorem warmReset_leaves {cause : Nat} {s : State} (h : s.chip.pwr.state ≠ .save) : WarmLeft cause s (warmReset cause s) := by
  obtain ⟨hfresh, hcause, hregs, hmem, _, hpending⟩ := warmReset_facts cause s h
  exact ⟨hfresh, hcause, hregs, hmem, hpending⟩

/-- A later change of the chip that keeps it fresh, and the registers as they are, keeps what the reset left. -/
theorem WarmLeft.onChip {cause : Nat} {s t : State} {f : Chip → Chip} (h : WarmLeft cause s t) (hfresh : Fresh t.chip → Fresh (f t.chip))
    (hregs : ∀ p off, rd (f t.chip) p off = rd t.chip p off) : WarmLeft cause s (onChip f t) := by
  obtain ⟨h1, h2, h3, h4, h5⟩ := h
  exact ⟨hfresh h1, (hregs _ _).trans h2, fun p off hoff hpwr hkep htim => (hregs p off).trans (h3 p off hoff hpwr hkep htim), h4, h5⟩

/-! ### PORST_N (R455) -/

/-- The die that PORST_N leaves keeps field die and belay, and the keep memory where no save was cut. -/
theorem coldReset_keeps (cause : Nat) (s : State) :
    (coldReset cause s).chip.field = s.chip.field ∧ (coldReset cause s).chip.bly = s.chip.bly ∧
    (s.chip.pwr.saveSince = none → (coldReset cause s).chip.keep = s.chip.keep) := by
  obtain ⟨hfield, hbly⟩ := cutSave_field s.chip
  refine ⟨?_, ?_, fun hnone => ?_⟩
  · exact keeps_field (·.field) false cause (cutSave s.chip) (fun _ _ _ => rfl) (fun _ _ _ _ => rfl) _ (fun _ h _ _ => h.trans hfield)
  · exact keeps_field (·.bly) false cause (cutSave s.chip) (fun _ _ _ => rfl) (fun _ _ _ _ => rfl) _ (fun _ _ h _ => h.trans hbly)
  · exact keeps_field (·.keep) false cause (cutSave s.chip) (fun _ _ _ => rfl) (fun _ _ _ _ => rfl) _
      (fun _ _ _ h => h.trans (congrArg (·.keep) (cutSave_none s.chip hnone)))

/-! ### WARM_RESET (R454) -/

/-- PWR_CTL, whatever the seal. -/
theorem powerControl_free : FreeReg .pwr 0x040 0xFFFF0007 := ⟨⟨by decide, by decide, by decide⟩, rfl, _, rfl, rfl, by decide, by decide, rfl, rfl⟩

section
variable {s : State} {path : Path} {v : Word} (h : CanWrite s path .pwr) (hm : v &&& 0xFFFF0007 = v)
include h hm

/-- With its bit and its key the write resets, after it has stored the two other bits. -/
theorem regPage_warmReset (hbit : bit v 2 = true) (hkey : fld v 31 16 = 0x5752) :
    regPage path .pwr 0x040 v s = onChip (ended path .pwr 0x040) (warmReset causeReg (onChip (wr .pwr 0x040 (v &&& 3)) s)) :=
  regPage_free (s1 := warmReset causeReg (onChip (wr .pwr 0x040 (v &&& 3)) s)) (ok := false) powerControl_free h hm (fun _ => rfl)
    (fun _ => if_pos ⟨hbit, hkey⟩)

/-- Else it only stores them. -/
theorem regPage_powerControl (hno : bit v 2 = false ∨ fld v 31 16 ≠ 0x5752) :
    regPage path .pwr 0x040 v s = onChip (fun c => taken path .pwr 0x040 (wr .pwr 0x040 (v &&& 3) c)) s := by
  refine regPage_took powerControl_free h hm (fun _ => rfl) (fun _ => if_neg ?_)
  rintro ⟨hbit, hkey⟩
  rcases hno with hno | hno
  · rw [hno] at hbit
    exact Bool.false_ne_true hbit
  · exact hno hkey

end

/-! ### FLR (R454) -/

/-- The pages that PCI Express owned. -/
def ownedByPcie (c : Chip) : List Page := (c.pages.filter (fun p => p.2.owner = 1)).filterMap (fun p => pageOfNum p.1)

/-- The end of an FLR: the link is as it was, and the pages whose owner lapsed report it. -/
def lapseOwners (l : List Page) (up : Bool) (c : Chip) : Chip := each l (fun p c => raise p 6 c) { c with svcPcie := up }

theorem flrReset_runs {s : State} (h : s.chip.pwr.state ≠ .save) :
    flrReset s = onChip (lapseOwners (ownedByPcie s.chip) s.chip.svcPcie) (warmReset causeFlr s) :=
  if_neg h

theorem lapseOwners_fresh (l : List Page) (up : Bool) (c : Chip) (h : Fresh c) : Fresh (lapseOwners l up c) :=
  each_fresh _ (fun p c hc => fresh_raise c p 6 hc) l _ (pushes_pages c _ rfl rfl rfl rfl rfl rfl h)

theorem lapseOwners_rd (l : List Page) (up : Bool) (c : Chip) (p : Page) (off : Nat) : rd (lapseOwners l up c) p off = rd c p off :=
  each_keeps (fun c => rd c p off) _ (fun _ _ => rd_raise _ _ _ _ _) l _

theorem lapseOwners_link (l : List Page) (up : Bool) (c : Chip) : (lapseOwners l up c).svcPcie = up :=
  each_keeps (fun c => c.svcPcie) _ (fun _ _ => raise_svcPcie _ _ _) l _

/-! ### The statement -/

/-- Settles O43: what the four resets leave, and when each of them does nothing. -/
theorem resetsOfTheMainDie : Obligations.ResetsOfTheMainDie := by
  unfold Obligations.ResetsOfTheMainDie
  refine ⟨?porst, ?pin, ?pinDropped, ?register, ?stored, ?flr, ?flrDropped⟩
  case porst =>
    intro s
    obtain ⟨hfield, hbly, hkeep⟩ := coldReset_keeps causePowerOn s
    exact ⟨coldReset causePowerOn s, rfl, resetChip_fresh _ _ _, resetChip_cause _ _ _, fun p off hp => resetChip_rd _ _ _ p off hp, rfl, hfield, hbly, hkeep, rfl⟩
  case pin =>
    intro s ns hns hstate
    obtain ⟨hfresh, hcause, hregs, hmem, hheld, hpending⟩ := warmReset_facts causePin s hstate
    exact ⟨_, congrArg Host.Outcome.next (if_pos hns), hfresh, hcause, hregs, hmem, hheld, hpending⟩
  case pinDropped =>
    intro s ns hno
    refine congrArg Host.Outcome.next ?_
    by_cases hns : 1000 ≤ ns
    · exact (if_pos hns).trans (if_pos (hno.resolve_left (Nat.not_lt.mpr hns)))
    · exact if_neg hns
  case register =>
    intro s path v h hstate hm hbit hkey
    have hleft : WarmLeft causeReg s (onChip (ended path .pwr 0x040) (warmReset causeReg (onChip (wr .pwr 0x040 (v &&& 3)) s))) :=
      (warmReset_leaves (s := onChip (wr .pwr 0x040 (v &&& 3)) s) hstate).onChip (fresh_emit _ _) (fun _ _ => rfl)
    exact ⟨_, congrArg Host.Outcome.next (regPage_warmReset h hm hbit hkey), hleft⟩
  case stored =>
    intro s path v h hm hno
    exact congrArg Host.Outcome.next (regPage_powerControl h hm hno)
  case flr =>
    intro s hstate
    obtain ⟨hfresh, hcause, hregs, hmem, hpending⟩ := (warmReset_leaves (cause := causeFlr) hstate).onChip
      (lapseOwners_fresh (ownedByPcie s.chip) s.chip.svcPcie _) (lapseOwners_rd _ _ _)
    exact ⟨_, congrArg Host.Outcome.next (flrReset_runs hstate), hfresh, hcause, hregs, hmem, lapseOwners_link _ _ _, hpending⟩
  case flrDropped =>
    intro s hstate
    exact congrArg Host.Outcome.next (if_pos hstate)

end Sys2Proof.Proofs.Resets
end

section
/-!
Start-up after power-on and after a save (chapter 20): the keep memory, the boot image, the save record and the end of boot; with the statement
about them.
-/

namespace Sys2Proof.Proofs.StartUp

open Sys2Proof Sys2Proof.Machine Sys2Proof.Laws.ResetFacts Sys2Proof.Laws.StartUpFacts

/-! ### The keep memory (R449, R457) -/

/-- The state as start-up has left it after a cold reset, the keep memory found and nothing read of it. -/
def keptState (n : Nat) (env : BootEnv) (s : State) : State := onChip (fun c => newEpoch (transitionFailed (bootKeep env c))) (coldReset n s)

theorem startUp_kept (n : Nat) (env : BootEnv) (s : State) : startUp env (coldReset n s) = bootSave env (bootImage env (keptState n env s)) := rfl

/-- What holds of a state after the search for the keep memory: nothing booted or restored, and the record of the save as it was found. -/
structure Kept (n : Nat) (env : BootEnv) (s t : State) : Prop where
  mem : t.mem = resetMem false s.mem
  pending : t.pending = s.pending
  cause : rd t.chip .pwr 0x048 = BitVec.ofNat 32 n
  started : t.chip.pwr.started = true
  lastSave : t.chip.pwr.lastSave = 0
  booted : t.chip.pwr.bootedFromKeep = false
  bootFail : t.chip.pwr.bootFail = false
  present : t.chip.keep.present = decide (4 ≤ env.keepMiB)
  size : t.chip.keep.mib = if 4 ≤ env.keepMiB then min 255 env.keepMiB else 0
  record : t.chip.keep.startRec = (cutSave s.chip).keep.startRec
  marker : t.chip.keep.marker = (cutSave s.chip).keep.marker
  image : t.chip.keep.image = (cutSave s.chip).keep.image
  base : t.chip.keep.base = (cutSave s.chip).keep.base
  area : rd t.chip .kep 0x050 = BitVec.ofNat 32 (saveTop (if 4 ≤ env.keepMiB then min 255 env.keepMiB else 0))
  absent : env.keepMiB < 4 → standing t.chip .kep 0xC2 = true
  pages : ∀ p, (hdr t.chip p).en = false
  axes : ∀ k, (axis t.chip k).state = .disabled ∨ (axis t.chip k).state = .safe

theorem keptState_kept (n : Nat) (env : BootEnv) (s : State) : Kept n env s (keptState n env s) := by
  obtain ⟨hfresh, hmem, hpending, hpwr, hkeep, hcause, hconds⟩ := cold_facts n s
  obtain ⟨hpages, haxes, hstarted, hlast, hbooted, hfail, hpresent, hsize, hrecord, hmarker, himage, hbase, hrd, harea, habsent⟩ :=
    keep_facts env (coldReset n s).chip hfresh hpwr (hconds .kep)
  rw [hkeep] at hrecord hmarker himage hbase
  exact ⟨hmem, hpending, hrd.trans hcause, hstarted, hlast, hbooted, hfail, hpresent, hsize, hrecord, hmarker, himage, hbase, harea, habsent, hpages, haxes⟩

/-! ### The boot image (R456, R458) -/

/-- With no keep memory, or no image in it, the host boots. -/
theorem bootImage_host {env : BootEnv} {s : State} (h : s.chip.keep.present = false ∨ bootMagic env = false) : bootImage env s = s :=
  if_pos (by rcases h with h | h <;> simp [h])

/-- An image that is not whole ends the boot. -/
theorem bootImage_bad {env : BootEnv} {s : State} (hpresent : s.chip.keep.present = true) (hmagic : bootMagic env = true) (hform : bootForm env = false) :
    bootImage env s = onChip bootFailed s :=
  (if_neg (by simp [hpresent, hmagic])).trans (if_pos (.inl (by simp [hform])))

theorem bootFailed_facts (c : Chip) :
    (bootFailed c).keep = c.keep ∧ (bootFailed c).pwr = { c.pwr with bootFail := true } ∧ ∀ p, (hdr (bootFailed c) p).en = (hdr c p).en := by
  refine ⟨by simp [bootFailed, modPwr], by simp [bootFailed, modPwr], fun p => ?_⟩
  unfold bootFailed
  rw [hdr_raise_en, hdr_latchFault_en]
  rfl

/-! ### The save record (R465) -/

/-- With no record at the save area nothing is restored. -/
theorem bootSave_none {env : BootEnv} {s : State} (h : s.chip.keep.present = false ∨ s.chip.keep.startRec = false) :
    bootSave env s = onChip (modPwr (fun w => { w with lastSave := 0, notSaved := true })) s :=
  if_pos (by rcases h with h | h <;> simp [h])

/-- The record is erased once it is read. -/
def eraseRecord (c : Chip) : Chip := { c with keep := { c.keep with startRec := false, marker := none, image := none } }

/-- A save that cannot be restored: why, and the fault that says so. -/
def saveLost (why : Nat) (code : Byte) (c : Chip) : Chip := latchFault .pwr code (modPwr (fun w => { w with lastSave := why, notSaved := true }) c)

theorem saveLost_facts (why : Nat) (code : Byte) (c : Chip) :
    (saveLost why code c).keep = c.keep ∧ (saveLost why code c).pwr.lastSave = why ∧ (saveLost why code c).pwr.notSaved = true := by
  simp [saveLost, modPwr]

/-- What the reading of a record leaves: LAST_SAVE by marker, integrity and image, and the held completions of an image that is restored. -/
def RecordRead (env : BootEnv) (k : KeepSt) (t : State) : Prop :=
  (t.chip.pwr.lastSave ≠ 1 → t.chip.keep.startRec = false ∧ t.chip.keep.image = none) ∧
  (t.chip.pwr.lastSave = if k.marker = none then 3 else if k.marker = some true ∧ env.saveCrcOk = true ∧ k.image.isSome then 1 else 2) ∧
  t.chip.pwr.notSaved = !(decide (t.chip.pwr.lastSave = 1)) ∧
  (∀ m, k.image = some m → t.chip.pwr.lastSave = 1 → t.chip.cmd.held = m.ring)

/-- A save that is lost, for the reason that its marker, integrity and image give. -/
theorem recordRead_lost {env : BootEnv} {k : KeepSt} {why : Nat} {code : Byte} {s : State} (hwhy : why ≠ 1)
    (hcase : why = if k.marker = none then 3 else if k.marker = some true ∧ env.saveCrcOk = true ∧ k.image.isSome then 1 else 2) :
    RecordRead env k (onChip (saveLost why code) (onChip eraseRecord s)) := by
  obtain ⟨hkeep, hlast, hnot⟩ := saveLost_facts why code (eraseRecord s.chip)
  refine ⟨fun _ => ?_, hlast.trans hcase, ?_, fun m _ hone => absurd (hlast.symm.trans hone) hwhy⟩
  · exact ⟨congrArg KeepSt.startRec hkeep, congrArg KeepSt.image hkeep⟩
  · refine hnot.trans ?_
    simp only [onChip_chip, hlast, hwhy, decide_false, Bool.not_false]

/-- An image that is restored. -/
theorem recordRead_restored {env : BootEnv} {k : KeepSt} {m : SaveImg} {s : State} (hmarker : k.marker = some true) (himage : k.image = some m)
    (hcrc : env.saveCrcOk = true) : RecordRead env k (restoreSave m (onChip eraseRecord s)) := by
  obtain ⟨hlast, hnot, hheld⟩ := restore_facts m (onChip eraseRecord s)
  refine ⟨fun hno => absurd hlast hno, ?_, ?_, fun m' himage' _ => ?_⟩
  · rw [hlast, hmarker, himage, hcrc]
    rfl
  · rw [hlast, hnot]
    rfl
  · rw [hheld]
    exact congrArg SaveImg.ring (Option.some.inj (himage.symm.trans himage'))

/-- A record where the save area says it is. -/
theorem bootSave_record {env : BootEnv} {s : State} (hpresent : s.chip.keep.present = true) (hrecord : s.chip.keep.startRec = true)
    (hbase : s.chip.keep.base = saveBase s.chip) : RecordRead env s.chip.keep (bootSave env s) := by
  unfold bootSave
  dsimp only
  rw [if_neg (by simp [hpresent, hrecord, hbase])]
  cases hmarker : s.chip.keep.marker with
  | none => exact recordRead_lost (why := 3) (by decide) (by simp [hmarker])
  | some whole =>
    cases whole with
    | false => exact recordRead_lost (why := 2) (by decide) (by simp [hmarker])
    | true =>
      cases himage : s.chip.keep.image with
      | none => exact recordRead_lost (why := 2) (by decide) (by simp [hmarker, himage])
      | some m =>
        cases hcrc : env.saveCrcOk with
        | false => exact recordRead_lost (why := 2) (by decide) (by simp [hmarker, hcrc])
        | true => exact recordRead_restored hmarker himage hcrc

/-! ### Start-up -/

section
variable {n : Nat} {env : BootEnv} {s : State}

/-- Where nothing is booted and no record stands, start-up ends with what the keep memory left. -/
theorem startUp_nothing (himage : env.keepMiB < 4 ∨ bootMagic env = false) (hrecord : env.keepMiB < 4 ∨ (cutSave s.chip).keep.startRec = false) :
    startUp env (coldReset n s) = onChip (modPwr (fun w => { w with lastSave := 0, notSaved := true })) (keptState n env s) := by
  have hk := keptState_kept n env s
  have habsent : env.keepMiB < 4 → (keptState n env s).chip.keep.present = false := fun h => hk.present.trans (decide_eq_false (Nat.not_le.mpr h))
  rw [startUp_kept, bootImage_host (himage.imp_left habsent), bootSave_none (hrecord.imp habsent hk.record.trans)]

/-- An image that is not whole, with no record. -/
theorem startUp_bad (hsize : 4 ≤ env.keepMiB) (hmagic : bootMagic env = true) (hform : bootForm env = false)
    (hrecord : (cutSave s.chip).keep.startRec = false) :
    startUp env (coldReset n s) = onChip (modPwr (fun w => { w with lastSave := 0, notSaved := true })) (onChip bootFailed (keptState n env s)) := by
  have hk := keptState_kept n env s
  have hpresent : (keptState n env s).chip.keep.present = true := hk.present.trans (decide_eq_true hsize)
  have hnone : (onChip bootFailed (keptState n env s)).chip.keep.startRec = false :=
    (congrArg KeepSt.startRec (bootFailed_facts _).1).trans (hk.record.trans hrecord)
  rw [startUp_kept, bootImage_bad hpresent hmagic hform, bootSave_none (.inr hnone)]

/-- A record at the save area, and no image. -/
theorem startUp_record (hlow : 4 ≤ env.keepMiB) (hhigh : env.keepMiB ≤ 64) (hmagic : bootMagic env = false)
    (hrecord : (cutSave s.chip).keep.startRec = true) (hbase : (cutSave s.chip).keep.base = saveTop env.keepMiB) :
    RecordRead env (cutSave s.chip).keep (startUp env (coldReset n s)) := by
  have hk := keptState_kept n env s
  have hpresent : (keptState n env s).chip.keep.present = true := hk.present.trans (decide_eq_true hlow)
  have harea : saveBase (keptState n env s).chip = saveTop env.keepMiB := by
    unfold saveBase rdF
    rw [hk.area, if_pos hlow, Nat.min_eq_right (by omega), saveTop_field _ hlow hhigh]
  have hread := bootSave_record (env := env) hpresent (hk.record.trans hrecord) (hk.base.trans (hbase.trans harea.symm))
  unfold RecordRead at hread ⊢
  rw [hk.marker, hk.image] at hread
  rw [startUp_kept, bootImage_host (.inr hmagic)]
  exact hread

/-- A command that comes to start-up after a cold reset leaves what the table of start-up says. -/
theorem starts_of_startUp {i : Instr} (h : exec i s = .next (startUp env (coldReset n s))) : Starts i (BitVec.ofNat 32 n) env s := by
  have hk := keptState_kept n env s
  refine ⟨fun habsent => ?_, fun hsize hmagic hrecord => ?_, fun hsize hmagic hform hrecord => ?_, fun hlow hhigh hmagic hrecord hbase => ?_⟩
  · rw [startUp_nothing (.inl habsent) (.inl habsent)] at h
    exact ⟨_, h, hk.mem, hk.pending, hk.cause, hk.started, hk.present.trans (decide_eq_false (Nat.not_le.mpr habsent)), rfl, rfl, hk.booted, hk.bootFail, hk.absent habsent, hk.pages, hk.axes⟩
  · rw [startUp_nothing (.inr hmagic) (.inr hrecord)] at h
    exact ⟨_, h, hk.mem, hk.cause, hk.present.trans (decide_eq_true hsize), hk.size.trans (if_pos hsize), hk.area.trans (by rw [if_pos hsize]), rfl, hk.booted, hk.bootFail, hk.pages, hk.axes⟩
  · rw [startUp_bad hsize hmagic hform hrecord] at h
    obtain ⟨_, hpwr, hen⟩ := bootFailed_facts (keptState n env s).chip
    exact ⟨_, h, hk.mem, congrArg PwrSt.bootFail hpwr, (congrArg PwrSt.bootedFromKeep hpwr).trans hk.booted, rfl, fun p => (hen p).trans (hk.pages p)⟩
  · exact ⟨_, h, startUp_record hlow hhigh hmagic hrecord hbase⟩

end

/-! ### After a save, and the end of boot (R457, R462) -/

/-- A save whose 4 ms are over, and which did not fail, ends in a start-up. -/
theorem saveRestart_runs {env : BootEnv} {s : State} {t : Nat} (hstate : s.chip.pwr.state = .save) (hsince : s.chip.pwr.saveSince = some t)
    (hdue : t + 4000000 ≤ s.chip.clk.now) (hgood : s.chip.pwr.saveFailed = false) : saveRestart env s = startUp env (coldReset causeSave s) := by
  unfold saveRestart
  rw [hsince]
  dsimp only
  rw [if_neg (by simp [hstate, hdue]), if_neg (by simp [hgood])]

theorem saveRestart_outside {env : BootEnv} {s : State} (h : s.chip.pwr.state ≠ .save ∨ s.chip.pwr.saveSince = none) : saveRestart env s = s := by
  unfold saveRestart
  cases hsince : s.chip.pwr.saveSince with
  | none => rfl
  | some t => exact if_pos (.inl (h.resolve_right (by simp [hsince])))

theorem not_saving {c : Chip} (h : mainRuns c = true) : c.pwr.state ≠ .save := by
  intro hs
  simp [mainRuns, hs] at h

theorem bootDone_trained {c : Chip} (hm : mainRuns c = true) (hstarted : c.pwr.started = true) (hbooted : c.pwr.booted = false)
    (htrained : c.memc.trained = true) : bootDone c = raise .pwr 12 { c with pwr := { c.pwr with booted := true } } :=
  if_neg (by simp [hstarted, hbooted, htrained, not_saving hm])

/-- Boot is not done while the DRAM neither works nor has failed. -/
theorem bootDone_waits {c : Chip} (htrained : c.memc.trained = false) (hfault : standing c .mem 0xC0 = false) : bootDone c = c :=
  if_pos (.inr (.inr (.inr (by rw [htrained, hfault]; rfl))))

/-! ### The statement -/

/-- Settles O44: both commands come to start-up after a cold reset, whose four cases are those of the keep memory, the image and the record. -/
theorem startUpFromKeepMemoryOrHost : Obligations.StartUpFromKeepMemoryOrHost := by
  unfold Obligations.StartUpFromKeepMemoryOrHost
  refine ⟨?powerOn, ?restart, ?outside, ?done, ?waits⟩
  case powerOn =>
    intro env s
    exact starts_of_startUp (n := causePowerOn) rfl
  case restart =>
    intro env s t hstate hsince hdue hgood
    exact starts_of_startUp (n := causeSave) (congrArg Host.Outcome.next (saveRestart_runs hstate hsince hdue hgood))
  case outside =>
    intro env s h
    exact congrArg Host.Outcome.next (saveRestart_outside h)
  case done =>
    intro s hm hstarted hbooted htrained
    exact run_live_as hm (bootDone_trained hm hstarted hbooted htrained)
  case waits =>
    intro s hm htrained hfault
    exact run_live_as (g := id) hm (bootDone_waits htrained hfault)

end Sys2Proof.Proofs.StartUp
end

section
/-!
Lost rails and sags (chapter 20), with the statement about them.
-/

namespace Sys2Proof.Proofs.RailsAndSags

open Sys2Proof Sys2Proof.Machine Sys2Proof.Laws.SaveFacts Sys2Proof.Laws.ResetFacts

/-! ### A lost rail (R453) -/

/-- The chip once a rail is lost: marked, its cause raised, 0xCB latched. -/
def railLost (r : Nat) (c : Chip) : Chip :=
  latchFault .pwr 0xCB (modHdr .pwr (fun h => { h with conds := 0xCB :: h.conds.filter (· != 0xCB) }) (raise .pwr 14 (wr .pwr 0x05C (rd c .pwr 0x05C &&& ~~~(1#32 <<< r)) c)))

theorem railLow_lost (r : Nat) (env : SaveEnv) (s : State) : railLow r env s = sagOn env (onChip (railLost r) s) := rfl

/-- A page that is not splicing keeps the registers when a fault latches. -/
theorem latchFault_regs {p : Page} {code : Byte} {c : Chip} (h : (hdr c p).state ≠ .splicing) : (latchFault p code c).regs = c.regs := by
  unfold latchFault
  dsimp only
  split
  · rw [setState_regs]; split <;> simp
  · rw [setState_regs]; split <;> simp
  · exact absurd ‹_› h
  · split <;> simp

theorem railLost_control {r : Nat} {c : Chip} (h : (hdr c .pwr).state ≠ .splicing) : rd (railLost r c) .pwr 0x040 = rd c .pwr 0x040 := by
  unfold railLost
  rw [rd_regs (latchFault_regs (by simpa using h)), rd_modHdr, rd_raise, rd_wr_ne _ _ _ _ _ _ (by decide)]

theorem railLost_pwr (r : Nat) (c : Chip) : (railLost r c).pwr = c.pwr := by
  simp [railLost]

/-! ### A sag (R459, R460) -/

/-- The end of a sag's first step: an image written, or why not. -/
def sagEnd (env : SaveEnv) (able : Bool) (c : Chip) : Chip :=
  if c.sec.life = 3 then c
  else if !able ∨ 262144 < env.bytes then saveNot c
  else if !env.keepOk then saveNot (keepBad c)
  else saveWrite env.bytes c

/-- The device may save: SAVE_EN, and a keep memory that takes it. -/
def mayWrite (c : Chip) : Bool := bit (rd c .pwr 0x040) 0 && saveCapable c

/-- The device as the sag stops it. -/
def sagStop (s : State) : State := saveStop (onChip (fun c => raise .pwr 8 (cntWrap .pwr 0x04C 15 0 c)) s)

theorem sagOn_saves {env : SaveEnv} {s : State} (hen : bit (rd s.chip .pwr 0x040) 1 = true) (hstarted : s.chip.pwr.started = true)
    (hstate : s.chip.pwr.state ≠ .save) : sagOn env s = onChip (sagEnd env (mayWrite s.chip)) (sagStop s) :=
  (if_pos hen).trans (if_neg (by simp [hstarted, hstate]))

theorem sagOn_ignored {env : SaveEnv} {s : State}
    (h : bit (rd s.chip .pwr 0x040) 1 = false ∨ s.chip.pwr.started = false ∨ s.chip.pwr.state = .save) : sagOn env s = s := by
  unfold sagOn
  split
  · refine if_pos ?_
    rcases h with h | h | h
    · simp_all
    · simp [h]
    · exact .inr h
  · rfl

theorem sagStop_pwr (s : State) :
    (sagStop s).chip.pwr = { s.chip.pwr with sag := true, state := .save, req := none, test := none, saveSince := some s.chip.clk.now } := by
  rw [sagStop, stop_pwr]
  simp [cntWrap]

theorem sagStop_sec (s : State) : (sagStop s).chip.sec = s.chip.sec := by
  rw [sagStop, stop_sec]
  simp [cntWrap]

theorem sagStop_keep (s : State) : (sagStop s).chip.keep = s.chip.keep := by
  rw [sagStop, stop_keep]
  simp [cntWrap]

theorem sagStop_mem (s : State) : (sagStop s).mem = s.mem := stop_mem _

theorem sagStop_pending (s : State) : (sagStop s).pending = s.pending := stop_pending _

theorem saveNot_keep (c : Chip) : (saveNot c).keep = c.keep := by
  simp [saveNot, modPwr]

theorem saveNot_pwr (c : Chip) : (saveNot c).pwr = { c.pwr with saveFailed := true } := by
  simp [saveNot, modPwr]

/-- A save that fails raises its cause. -/
theorem saveNot_event (c : Chip) : bit (hdr (saveNot c) .pwr).evt 10 = true := evt_raise_self _ _ _ (by decide)

/-- Whatever the end, the save has begun, and PCI Express is gone. -/
theorem sagEnd_saving (env : SaveEnv) (able : Bool) (c : Chip) :
    (sagEnd env able c).pwr.state = c.pwr.state ∧ (sagEnd env able c).pwr.sag = c.pwr.sag ∧ (sagEnd env able c).svcPcie = c.svcPcie := by
  have hnot : ∀ c, (saveNot c).pwr.state = c.pwr.state ∧ (saveNot c).pwr.sag = c.pwr.sag ∧ (saveNot c).svcPcie = c.svcPcie := by
    intro c
    simp [saveNot, modPwr]
  unfold sagEnd
  split
  · exact ⟨rfl, rfl, rfl⟩
  · split
    · exact hnot c
    · split
      · obtain ⟨hstate, hsag, hlink⟩ := hnot (keepBad c)
        exact ⟨hstate.trans (by simp [keepBad]), hsag.trans (by simp [keepBad]), hlink.trans (by simp [keepBad])⟩
      · obtain ⟨hpwr, _⟩ := saveWrite_facts env.bytes c
        exact ⟨congrArg PwrSt.state hpwr, congrArg PwrSt.sag hpwr, by simp [saveWrite, cntWrap, useFresh]⟩

theorem sagEnd_writes {env : SaveEnv} {c : Chip} (hlife : c.sec.life ≠ 3) (hbytes : env.bytes ≤ 262144) (hkeep : env.keepOk = true) :
    sagEnd env true c = saveWrite env.bytes c :=
  (if_neg hlife).trans ((if_neg (by simp [hbytes])).trans (if_neg (by simp [hkeep])))

theorem sagEnd_cannot {env : SaveEnv} {able : Bool} {c : Chip} (hlife : c.sec.life ≠ 3) (h : able = false ∨ 262144 < env.bytes) :
    sagEnd env able c = saveNot c :=
  (if_neg hlife).trans (if_pos (h.imp_left (by rintro rfl; rfl)))

section
variable {s : State} {env : SaveEnv} (hen : bit (rd s.chip .pwr 0x040) 1 = true) (hstarted : s.chip.pwr.started = true)
  (hstate : s.chip.pwr.state ≠ .save)
include hen hstarted hstate

theorem sagOn_begins : ∃ t, sagOn env s = t ∧ t.chip.pwr.state = .save ∧ t.chip.pwr.sag = true ∧ t.chip.svcPcie = false := by
  obtain ⟨hsave, hsag, hlink⟩ := sagEnd_saving env (mayWrite s.chip) (sagStop s).chip
  refine ⟨_, sagOn_saves hen hstarted hstate, ?_, ?_, ?_⟩
  · rw [onChip_chip, hsave, sagStop_pwr]
  · rw [onChip_chip, hsag, sagStop_pwr]
  · rw [onChip_chip, hlink, sagStop, stop_pcie]

/-- A device that may save writes record, marker and image. -/
theorem sagOn_writes (hable : mayWrite s.chip = true) (hlife : s.chip.sec.life ≠ 3) (hbytes : env.bytes ≤ 262144) (hkeep : env.keepOk = true) :
    sagOn env s = onChip (saveWrite env.bytes) (sagStop s) := by
  rw [sagOn_saves hen hstarted hstate, hable]
  exact onChip_congr (sagEnd_writes (by rw [sagStop_sec]; exact hlife) hbytes hkeep)

/-- One that may not leaves the keep memory, and the save counts as failed. -/
theorem sagOn_cannot (hno : mayWrite s.chip = false ∨ 262144 < env.bytes) (hlife : s.chip.sec.life ≠ 3) :
    sagOn env s = onChip saveNot (sagStop s) := by
  rw [sagOn_saves hen hstarted hstate]
  exact onChip_congr (sagEnd_cannot (by rw [sagStop_sec]; exact hlife) hno)

end

/-! ### The statement -/

/-- Settles O45: a rail that is lost is a fault and then a sag; a sag stops the device, and then writes or not. -/
theorem railsAndSag : Obligations.RailsAndSag := by
  unfold Obligations.RailsAndSag
  refine ⟨?rail, ?railSag, ?writes, ?cannot, ?ignored⟩
  case rail =>
    intro s r env hoff hsplice
    exact congrArg Host.Outcome.next (sagOn_ignored (s := onChip (railLost r.val) s) (.inl (by rw [onChip_chip, railLost_control hsplice]; exact hoff)))
  case railSag =>
    intro s r env hen hsplice hstarted hstate
    obtain ⟨t, ht, hsave, hsag, hlink⟩ := sagOn_begins (s := onChip (railLost r.val) s) (env := env) (by rw [onChip_chip, railLost_control hsplice]; exact hen)
      (by rw [onChip_chip, railLost_pwr]; exact hstarted) (by rw [onChip_chip, railLost_pwr]; exact hstate)
    exact ⟨t, congrArg Host.Outcome.next ht, hsave, hsag, hlink⟩
  case writes =>
    intro s env hen hstarted hstate hsaveEn hcapable hlife hbytes hkeep
    have hable : mayWrite s.chip = true := by rw [mayWrite, hsaveEn, hcapable]; rfl
    obtain ⟨hpwr, hrecord, hmarker, himage⟩ := saveWrite_facts env.bytes (sagStop s).chip
    rw [sagStop_pwr] at hpwr
    refine ⟨_, congrArg Host.Outcome.next (sagOn_writes hen hstarted hstate hable hlife hbytes hkeep), ?_, ?_, ?_, ?_, ?_, ?_, ?_, ?_, ?_⟩
    · rw [onChip_chip, hpwr]
    · rw [onChip_chip, hpwr]
    · rw [onChip_chip, hpwr]
    · rw [onChip_chip, hpwr]
    · exact hrecord
    · exact hmarker
    · exact himage
    · exact sagStop_mem s
    · exact sagStop_pending s
  case cannot =>
    intro s env hen hstarted hstate hno hlife
    have hno' : mayWrite s.chip = false ∨ 262144 < env.bytes := by
      rcases hno with h | h | h
      · exact .inl (by rw [mayWrite, h]; rfl)
      · exact .inl (by rw [mayWrite, h, Bool.and_false])
      · exact .inr h
    have hpwr := saveNot_pwr (sagStop s).chip
    rw [sagStop_pwr] at hpwr
    refine ⟨_, congrArg Host.Outcome.next (sagOn_cannot hen hstarted hstate hno' hlife), ?_, ?_, ?_, ?_, ?_⟩
    · rw [onChip_chip, hpwr]
    · rw [onChip_chip, hpwr]
    · rw [onChip_chip, hpwr]
    · rw [onChip_chip]
      exact saveNot_event (sagStop s).chip
    · rw [onChip_chip, saveNot_keep, sagStop_keep]
  case ignored =>
    intro s env h
    exact congrArg Host.Outcome.next (sagOn_ignored h)

end Sys2Proof.Proofs.RailsAndSags
end

section
/-!
Resets during a save, and the restart at its end (chapter 20), with the statement about them.
-/

namespace Sys2Proof.Proofs.ResetsInSave

open Sys2Proof Sys2Proof.Machine Sys2Proof.Laws.ResetFacts Sys2Proof.Laws.StartUpFacts

/-- A cold reset takes effect in every state: the power state is RUN, every page disabled, the cause its own. -/
theorem coldReset_acts (n : Nat) (s : State) :
    (coldReset n s).chip.pwr.state = .run ∧ rd (coldReset n s).chip .pwr 0x048 = BitVec.ofNat 32 n ∧ ∀ p, (hdr (coldReset n s).chip p).en = false := by
  obtain ⟨⟨hpages, _, _, _, _, hrun⟩, _, _, _, _, hcause, _⟩ := cold_facts n s
  exact ⟨hrun, hcause, fun p => (hpages p).1⟩

/-- In a save the fabric answers no path. -/
theorem fabricUp_save {c : Chip} (path : Path) (h : c.pwr.state = .save) : fabricUp c path = false := by
  simp [fabricUp, h]

/-- A register write in a save does nothing. -/
theorem regPage_save {s : State} (path : Path) (p : Page) (off : Nat) (v : Word) (h : s.chip.pwr.state = .save) : regPage path p off v s = s :=
  if_pos (by rw [fabricUp_save path h]; rfl)

/-- The end of a save is the restart; a save that failed latches its fault then. -/
theorem saveRestart_due {env : BootEnv} {s : State} {t : Nat} (hstate : s.chip.pwr.state = .save) (hsince : s.chip.pwr.saveSince = some t)
    (hdue : t + 4000000 ≤ s.chip.clk.now) :
    saveRestart env s = if s.chip.pwr.saveFailed then onChip (latchFault .pwr 0xCA) (startUp env (coldReset causeSave s)) else startUp env (coldReset causeSave s) := by
  unfold saveRestart
  rw [hsince]
  exact if_neg (by simp [hstate, hdue])

/-- Settles O58: PORST_N is a cold reset whatever the state; in a save the other resets find no fabric or are dropped; the end of the save restarts. -/
theorem resetsDuringASave : Obligations.ResetsDuringASave := by
  unfold Obligations.ResetsDuringASave
  refine ⟨?porst, ?dropped, ?restart, ?cold⟩
  case porst =>
    intro s
    obtain ⟨hrun, hcause, hpages⟩ := coldReset_acts causePowerOn s
    exact ⟨coldReset causePowerOn s, rfl, hrun, hpages, hcause⟩
  case dropped =>
    intro s hsave
    refine ⟨fun ns => congrArg Host.Outcome.next ?_, fun path v => congrArg Host.Outcome.next (regPage_save path .pwr 0x040 v hsave),
      congrArg Host.Outcome.next (if_pos hsave), fun path p => congrArg Host.Outcome.next (regPage_save path p 0x008 4 hsave)⟩
    split
    · exact if_pos hsave
    · rfl
  case restart =>
    intro s env t hsave hsince hdue
    exact congrArg Host.Outcome.next (saveRestart_due hsave hsince hdue)
  case cold =>
    intro s
    exact coldReset_acts causeSave s

end Sys2Proof.Proofs.ResetsInSave
end

section
/-!
Requests for a power state (R480), with the statement about them.
-/

namespace Sys2Proof.Proofs.PowerRequests

open Sys2Proof Sys2Proof.Machine Sys2Proof.Laws.SaveFacts

/-- The chip once a request for a state is noted, to be taken at the next frame knot. -/
def asked (q : Power) (c : Chip) : Chip := { c with pwr := { c.pwr with req := some q } }

theorem pwrRequest_noted {q : Power} {c : Chip} (hc : c.pwr.state ≠ .save) (hq : q ≠ .save) (h : q = .run ∨ axesQuiet c = true) :
    pwrRequest q c = asked q c := by
  unfold pwrRequest
  rw [if_neg (by simp [hc, hq]), if_neg]
  · rfl
  · rcases h with rfl | h
    · simp
    · simp [h]

theorem pwrRequest_turned {q : Power} {c : Chip} (hc : c.pwr.state ≠ .save) (h : q = .hold ∨ q = .doze) (hquiet : axesQuiet c = false) :
    pwrRequest q c = raise .pwr 15 c := by
  unfold pwrRequest
  rw [if_neg, if_pos ⟨h, by simp [hquiet]⟩]
  rcases h with rfl | rfl <;> simp [hc]

/-- Settles O46: a request is noted when it is for RUN or every axis is quiet, and raises its cause otherwise. -/
theorem powerStateRequests : Obligations.PowerStateRequests := by
  unfold Obligations.PowerStateRequests
  refine ⟨?run, ?hold, ?doze, ?refused⟩
  case run =>
    intro s path h hc
    exact congrArg Host.Outcome.next (reqKey s path 0 (by omega) h true .run _ rfl (pwrRequest_noted hc (by decide) (.inl rfl)))
  case hold =>
    intro s path h hc hquiet
    exact congrArg Host.Outcome.next (reqKey s path 1 (by omega) h true .hold _ (by simp [blockWrite, pwrWrite, hquiet, fld]) (pwrRequest_noted hc (by decide) (.inr hquiet)))
  case doze =>
    intro s path h hc hquiet
    exact congrArg Host.Outcome.next (reqKey s path 2 (by omega) h true .doze _ (by simp [blockWrite, pwrWrite, hquiet, fld]) (pwrRequest_noted hc (by decide) (.inr hquiet)))
  case refused =>
    intro s path h hc hquiet
    exact ⟨congrArg Host.Outcome.next (reqKey s path 1 (by omega) h false .hold _ (by simp [blockWrite, pwrWrite, hquiet, fld]) (pwrRequest_turned hc (.inl rfl) hquiet)),
      congrArg Host.Outcome.next (reqKey s path 2 (by omega) h false .doze _ (by simp [blockWrite, pwrWrite, hquiet, fld]) (pwrRequest_turned hc (.inr rfl) hquiet))⟩

end Sys2Proof.Proofs.PowerRequests
end

section
/-!
Lifecycle transitions (R470, R471), with the statement about them.
-/

namespace Sys2Proof.Proofs.Lifecycle

open Sys2Proof Sys2Proof.Machine Sys2Proof.Laws.SecOps

/-! ### The reason of a refusal: the first condition that fails (R471) -/

theorem transReason_axes {c : Chip} {target : Nat} (h : axesQuiet c = false) : transReason c target = 1 := if_pos (by simp [h])

theorem transReason_power {c : Chip} {target : Nat} (ha : axesQuiet c = true) (h : c.pwr.state ≠ .run) : transReason c target = 2 :=
  (if_neg (by simp [ha])).trans (if_pos h)

/-- With the axes quiet and the power state RUN, OPEN and SEALED are refused by the lifecycle, the owner hash or the key. -/
theorem transReason_able {c : Chip} {target : Nat} (ha : axesQuiet c = true) (hp : c.pwr.state = .run) (ht : target ≠ 3) :
    transReason c target = if target ≠ c.sec.life + 1 then 3 else if target = 1 ∧ c.sec.ownerHash ≠ 0xFF then 4
      else if target = 2 ∧ c.sec.programmed &&& ~~~c.sec.revoked = 0 then 5 else 0 := by
  simp [transReason, ha, hp, ht]

theorem transReason_scrap_unsealed {c : Chip} (ha : axesQuiet c = true) (hp : c.pwr.state = .run) (hlife : c.sec.life ≠ 2) : transReason c 3 = 0 := by
  simp [transReason, ha, hp, hlife]

theorem transReason_scrap_authorised {c : Chip} {t : Nat} (ha : axesQuiet c = true) (hp : c.pwr.state = .run) (hauth : c.sec.scrapAuth = some t)
    (ht : c.clk.now ≤ t + 60000000000) : transReason c 3 = 0 := by
  simp [transReason, ha, hp, hauth, ht]

theorem transReason_scrap_unauthorised {c : Chip} (ha : axesQuiet c = true) (hp : c.pwr.state = .run) (hlife : c.sec.life = 2)
    (hauth : c.sec.scrapAuth = none) : transReason c 3 = 6 := by
  simp [transReason, ha, hp, hlife, hauth]

/-! ### The writes of SEC_CMD that ask for a transition -/

/-- The command that asks for the lifecycle state `target`. -/
def Asks (path : Path) (key : BitVec 16) (target : Nat) (i : Instr) : Prop :=
  (target = 1 ∧ i = .provision path key) ∨ (target = 2 ∧ i = .sealDevice path key) ∨ (target = 3 ∧ i = .scrap path key)

theorem asks_provision (path : Path) (key : BitVec 16) : Asks path key 1 (.provision path key) := .inl ⟨rfl, rfl⟩

theorem asks_seal (path : Path) (key : BitVec 16) : Asks path key 2 (.sealDevice path key) := .inr (.inl ⟨rfl, rfl⟩)

theorem asks_scrap (path : Path) (key : BitVec 16) : Asks path key 3 (.scrap path key) := .inr (.inr ⟨rfl, rfl⟩)

/-- Each of the three commands asks for one of the three states. -/
theorem asks_of_mem {path : Path} {key : BitVec 16} {i : Instr} (h : i ∈ [Instr.provision path key, .sealDevice path key, .scrap path key]) :
    ∃ target, Asks path key target i := by
  simp only [List.mem_cons, List.not_mem_nil, or_false] at h
  rcases h with rfl | rfl | rfl
  · exact ⟨1, asks_provision path key⟩
  · exact ⟨2, asks_seal path key⟩
  · exact ⟨3, asks_scrap path key⟩

/-- The chip once a command of a path has ended refused. -/
def refused (path : Path) (reason : Nat) (c : Chip) : Chip := { c with sec := secEnd path 3 reason c.sec }

/-- The chip once a transition has begun. -/
def begun (path : Path) (target : Nat) (c : Chip) : Chip := { c with sec := secBegin path target c.clk.now c.sec }

theorem exec_asks {s : State} {path : Path} {key : BitVec 16} {target : Nat} {i : Instr} {g : Chip → Chip} (hi : Asks path key target i)
    (h : CanWrite s path .sec) (hg : transition path key target s.chip = g s.chip) :
    exec i s = .next (onChip (fun c => secWritten path (g c)) s) := by
  rcases hi with ⟨rfl, rfl⟩ | ⟨rfl, rfl⟩ | ⟨rfl, rfl⟩
  · exact doProv s path key h g hg
  · exact doSeal s path key h g hg
  · exact doScrap s path key h g hg

theorem secWritten_refused (path : Path) (reason : Nat) (c : Chip) : secWritten path (refused path reason c) = ended path .sec 0x04C (refused path reason c) :=
  secWritten_ended path _ reason (secEnd_res path 3 reason c.sec)

theorem secWritten_begun (path : Path) (target : Nat) (c : Chip) : secWritten path (begun path target c) = taken path .sec 0x04C (begun path target c) :=
  secWritten_taken path _ 1 0 (secEnd_res path 1 0 _) (by decide)

/-- With no reason against it, the transition begins. -/
theorem asks_begins {s : State} {path : Path} {target : Nat} {i : Instr} (hi : Asks path 0x4C43 target i) (h : CanWrite s path .sec)
    (hbusy : s.chip.sec.busy = none) (hr : transReason s.chip target = 0) :
    exec i s = .next (onChip (fun c => taken path .sec 0x04C (begun path target c)) s) :=
  (exec_asks hi h (trans_go path target s.chip hbusy hr)).trans (congrArg Host.Outcome.next (onChip_congr (secWritten_begun path target s.chip)))

/-- With one, it is refused with that reason. -/
theorem asks_refused {s : State} {path : Path} {target r : Nat} {i : Instr} (hi : Asks path 0x4C43 target i) (h : CanWrite s path .sec)
    (hbusy : s.chip.sec.busy = none) (hr : transReason s.chip target = r) (h0 : r ≠ 0) :
    exec i s = .next (onChip (fun c => ended path .sec 0x04C (refused path r c)) s) :=
  (exec_asks hi h (trans_ref path target r s.chip hbusy hr h0)).trans (congrArg Host.Outcome.next (onChip_congr (secWritten_refused path r s.chip)))

/-- A wrong KEY is refused with reason 0. -/
theorem asks_wrongKey {s : State} {path : Path} {key : BitVec 16} {target : Nat} {i : Instr} (hi : Asks path key target i)
    (h : CanWrite s path .sec) (hkey : key ≠ 0x4C43) :
    exec i s = .next (onChip (fun c => ended path .sec 0x04C (refused path 0 c)) s) :=
  (exec_asks (g := refused path 0) hi h (if_pos (.inl hkey))).trans (congrArg Host.Outcome.next (onChip_congr (secWritten_refused path 0 s.chip)))

/-! ### The end of a transition (R471) -/

/-- What the device holds in the state it enters. -/
def enter (target : Nat) (x : SecSt) : SecSt :=
  { x with life := target, busy := none, ownerFused := if target = 1 then true else if target = 3 then false else x.ownerFused, fusedOwner := if target = 1 then x.ownerWords else if target = 3 then [] else x.fusedOwner }

/-- The chip once the transition of a path has ended in the state `target`. -/
def entered (path : Path) (target : Nat) (c : Chip) : Chip :=
  raise .sec 11 (secRes path 2 0 (if target = 3 then { modSec (enter target) c with keep := { c.keep with psk := [] } } else modSec (enter target) c))

theorem transitionDone_enters {s : State} {target t : Nat} {path : Path} (hm : mainRuns s.chip = true) (h : s.chip.sec.busy = some (target, t, path)) :
    exec .transitionDone s = .next (onChip (entered path target) s) := by
  refine run_live_as hm ?_
  unfold transitionEnd
  rw [h]
  rfl

theorem entered_open (path : Path) (c : Chip) : entered path 1 c = raise .sec 11 { c with sec := secEnd path 2 0 { c.sec with life := 1, busy := none, ownerFused := true, fusedOwner := c.sec.ownerWords } } := rfl

theorem entered_sealed (path : Path) (c : Chip) : entered path 2 c = raise .sec 11 { c with sec := secEnd path 2 0 { c.sec with life := 2, busy := none } } := rfl

theorem entered_scrapped (path : Path) (c : Chip) :
    entered path 3 c = raise .sec 11 { c with sec := secEnd path 2 0 { c.sec with life := 3, busy := none, ownerFused := false, fusedOwner := [] }, keep := { c.keep with psk := [] } } := rfl

/-- Settles O47: the command goes by the first reason against it, and the end of a transition by its target. -/
theorem lifecycleTransitions : Obligations.LifecycleTransitions := by
  unfold Obligations.LifecycleTransitions
  refine ⟨?provision, ?sealing, ?scrap, ?axes, ?power, ?reasons, ?key, ?opened, ?sealedDone, ?scrapped⟩
  case provision =>
    intro s path h hbusy ha hp hlife howner
    exact asks_begins (asks_provision _ _) h hbusy ((transReason_able ha hp (by decide)).trans (by simp [hlife, howner]))
  case sealing =>
    intro s path h hbusy ha hp hlife hkeys
    exact asks_begins (asks_seal _ _) h hbusy ((transReason_able ha hp (by decide)).trans (by simpa [hlife] using hkeys))
  case scrap =>
    intro s path h hbusy ha hp hauth
    refine asks_begins (asks_scrap _ _) h hbusy ?_
    rcases hauth with hlife | ⟨t, hauth, ht⟩
    · exact transReason_scrap_unsealed ha hp hlife
    · exact transReason_scrap_authorised ha hp hauth ht
  case axes =>
    intro s path h hbusy ha i hi
    obtain ⟨target, hi⟩ := asks_of_mem hi
    exact asks_refused hi h hbusy (transReason_axes ha) (by decide)
  case power =>
    intro s path h hbusy ha hp i hi
    obtain ⟨target, hi⟩ := asks_of_mem hi
    exact asks_refused hi h hbusy (transReason_power ha hp) (by decide)
  case reasons =>
    intro s path h hbusy ha hp
    refine ⟨fun hlife => ?_, fun hlife => ?_, fun hlife howner => ?_, fun hlife hkeys => ?_, fun hlife hauth => ?_⟩
    · exact asks_refused (asks_provision _ _) h hbusy ((transReason_able ha hp (by decide)).trans (if_pos (by omega))) (by decide)
    · exact asks_refused (asks_seal _ _) h hbusy ((transReason_able ha hp (by decide)).trans (if_pos (by omega))) (by decide)
    · exact asks_refused (asks_provision _ _) h hbusy ((transReason_able ha hp (by decide)).trans (by simpa [hlife] using howner)) (by decide)
    · exact asks_refused (asks_seal _ _) h hbusy ((transReason_able ha hp (by decide)).trans (by simpa [hlife] using hkeys)) (by decide)
    · exact asks_refused (asks_scrap _ _) h hbusy (transReason_scrap_unauthorised ha hp hlife hauth) (by decide)
  case key =>
    intro s path key h hkey i hi
    obtain ⟨target, hi⟩ := asks_of_mem hi
    exact asks_wrongKey hi h hkey
  case opened =>
    intro s path t hm hbusy
    exact (transitionDone_enters hm hbusy).trans (congrArg Host.Outcome.next (onChip_congr (entered_open path s.chip)))
  case sealedDone =>
    intro s path t hm hbusy
    exact (transitionDone_enters hm hbusy).trans (congrArg Host.Outcome.next (onChip_congr (entered_sealed path s.chip)))
  case scrapped =>
    intro s path t hm hbusy
    exact (transitionDone_enters hm hbusy).trans (congrArg Host.Outcome.next (onChip_congr (entered_scrapped path s.chip)))

end Sys2Proof.Proofs.Lifecycle
end

section
/-!
Image keys and YCP keys (R472, R473), with the statement about them.
-/

namespace Sys2Proof.Proofs.Keys

open Sys2Proof Sys2Proof.Machine Sys2Proof.Laws.SecOps

/-! ### The three writes of SEC_CMD -/

theorem exec_programKey {s : State} {path : Path} {g : Chip → Chip} (h : CanWrite s path .sec) (hg : keyProgram path s.chip = g s.chip) :
    exec (.programKey path) s = .next (onChip (fun c => secWritten path (g c)) s) :=
  congrArg Host.Outcome.next (secPage0 s path 6 (by decide) h g hg)

theorem exec_revokeKey {s : State} {path : Path} {g : Chip → Chip} (h : CanWrite s path .sec) (hg : keyRevoke path s.chip = g s.chip) :
    exec (.revokeKey path) s = .next (onChip (fun c => secWritten path (g c)) s) :=
  congrArg Host.Outcome.next (secPage0 s path 7 (by decide) h g hg)

theorem exec_storePsk {s : State} {path : Path} {g : Chip → Chip} (h : CanWrite s path .sec) (hg : pskStore path s.chip = g s.chip) :
    exec (.storePsk path) s = .next (onChip (fun c => secWritten path (g c)) s) :=
  congrArg Host.Outcome.next (secPage0 s path 8 (by decide) h g hg)

/-! ### A refused command and one that was done -/

theorem secWritten_keyRefused (path : Path) (c : Chip) :
    secWritten path (keyRefused path c) = ended path .sec 0x04C (raise .sec 14 { c with sec := secEnd path 3 0 c.sec }) :=
  secWritten_ended path _ 0 (by unfold keyRefused secRes modSec; simp)

/-- A command that ended with DONE counts as a write, whatever cause it raised. -/
theorem secWritten_raised (path : Path) (b : Nat) (x : SecSt) (c : Chip) (h : c.sec = secEnd path 2 0 x) :
    secWritten path (raise .sec b c) = taken path .sec 0x04C (raise .sec b c) :=
  secWritten_taken path _ 2 0 (by rw [raise_sec, h]; exact secEnd_res path 2 0 x) (by decide)

theorem secWritten_done (path : Path) (x : SecSt) (c : Chip) (h : c.sec = secEnd path 2 0 x) : secWritten path c = taken path .sec 0x04C c :=
  secWritten_taken path _ 2 0 (by rw [h]; exact secEnd_res path 2 0 x) (by decide)

/-! ### What each command comes to -/

/-- The chip with the key of SEC_KEY_DATA in its slot. -/
def programmed (path : Path) (c : Chip) : Chip :=
  raise .sec 13 { c with sec := secEnd path 2 0 { c.sec with slots := tabSet 0 c.sec.slots (rdF c .sec 0x054 1 0) (keyData c), programmed := c.sec.programmed ||| (1#4 <<< rdF c .sec 0x054 1 0) } }

theorem keyProgram_empty {path : Path} {c : Chip} (hlife : c.sec.life < 2) (hslot : bit c.sec.programmed (rdF c .sec 0x054 1 0) = false) :
    keyProgram path c = programmed path c := by
  unfold keyProgram programmed
  dsimp only
  rw [if_neg (by simp [hlife, hslot])]
  generalize keyData c = key
  rfl

theorem keyProgram_refused {path : Path} {c : Chip} (h : 2 ≤ c.sec.life ∨ bit c.sec.programmed (rdF c .sec 0x054 1 0) = true) :
    keyProgram path c = keyRefused path c := if_pos h

/-- The chip with the slot revoked. -/
def revoked (path : Path) (c : Chip) : Chip :=
  { c with sec := secEnd path 2 0 { c.sec with revoked := c.sec.revoked ||| (1#4 <<< rdF c .sec 0x054 1 0) } }

theorem keyRevoke_free {path : Path} {c : Chip} (hlife : c.sec.life ≠ 3)
    (hlast : c.sec.life = 2 → c.sec.programmed &&& ~~~c.sec.revoked ≠ 1#4 <<< rdF c .sec 0x054 1 0) : keyRevoke path c = revoked path c :=
  if_neg (not_or.mpr ⟨hlife, fun ⟨hsealed, hone⟩ => hlast hsealed hone⟩)

theorem keyRevoke_refused {path : Path} {c : Chip}
    (h : c.sec.life = 3 ∨ (c.sec.life = 2 ∧ c.sec.programmed &&& ~~~c.sec.revoked = 1#4 <<< rdF c .sec 0x054 1 0)) :
    keyRevoke path c = keyRefused path c := if_pos h

/-- The YCP key of SEC_PSK. -/
def pskData (c : Chip) : BitVec 128 := rd c .sec 0x150 ++ rd c .sec 0x14C ++ rd c .sec 0x148 ++ rd c .sec 0x144

/-- The chip with the YCP key stored in the state and in keep memory. -/
def pskStored (path : Path) (c : Chip) : Chip :=
  raise .sec 13 { c with sec := secEnd path 2 0 { c.sec with psk := tabSet none c.sec.psk (rdF c .sec 0x140 1 0) (some (pskData c)) }, keep := { c.keep with psk := tabSet none c.keep.psk (rdF c .sec 0x140 1 0) (some (pskData c)) } }

/-- Outside SEALED and SCRAPPED every path but a core may store a YCP key. -/
theorem pskAllowed_open {c : Chip} {path : Path} (i : Nat) (hlife : c.sec.life < 2) (hpath : ∀ k, path ≠ .core k) : pskAllowed c path i = true := by
  cases path with
  | core k => exact absurd rfl (hpath k)
  | pcie => simp [pskAllowed]; omega
  | ycp n => simp [pskAllowed, hlife]
  | uart => simp [pskAllowed, hlife]

theorem pskStore_open {c : Chip} {path : Path} (hkeep : c.keep.present = true) (hlife : c.sec.life < 2) (hpath : ∀ k, path ≠ .core k) :
    pskStore path c = pskStored path c := by
  unfold pskStore
  dsimp only
  rw [if_neg (by simp [pskAllowed_open _ hlife hpath])]
  exact congrArg (fun d => raise .sec 13 (secRes path 2 0 d)) (if_pos hkeep)

theorem pskStore_core (k : Fin 8) (c : Chip) : pskStore (.core k) c = keyRefused (.core k) c := rfl

/-- Settles O48: each command goes by its one condition, and counts as a write but where it is refused. -/
theorem keySlots : Obligations.KeySlots := by
  unfold Obligations.KeySlots
  refine ⟨?program, ?programRefused, ?revoke, ?revokeRefused, ?store, ?storeCore⟩
  case program =>
    intro s path h hlife hslot
    exact (exec_programKey h (keyProgram_empty hlife hslot)).trans (congrArg Host.Outcome.next (onChip_congr (secWritten_raised path 13 _ _ rfl)))
  case programRefused =>
    intro s path h hno
    exact (exec_programKey h (keyProgram_refused hno)).trans (congrArg Host.Outcome.next (onChip_congr (secWritten_keyRefused path s.chip)))
  case revoke =>
    intro s path h hlife hlast
    exact (exec_revokeKey h (keyRevoke_free hlife hlast)).trans (congrArg Host.Outcome.next (onChip_congr (secWritten_done path _ _ rfl)))
  case revokeRefused =>
    intro s path h hno
    exact (exec_revokeKey h (keyRevoke_refused hno)).trans (congrArg Host.Outcome.next (onChip_congr (secWritten_keyRefused path s.chip)))
  case store =>
    intro s path h hkeep hlife hpath
    exact (exec_storePsk h (pskStore_open hkeep hlife hpath)).trans (congrArg Host.Outcome.next (onChip_congr (secWritten_raised path 13 _ _ rfl)))
  case storeCore =>
    intro s k h
    exact (exec_storePsk h (pskStore_core k s.chip)).trans (congrArg Host.Outcome.next (onChip_congr (secWritten_keyRefused (.core k) s.chip)))

end Sys2Proof.Proofs.Keys
end

section
/-!
Challenges, unlock tokens, the lockout and the lapse of a level (R475, R476), with the statement about them.
-/

namespace Sys2Proof.Proofs.Unlocking

open Sys2Proof Sys2Proof.Machine Sys2Proof.Laws.SecOps Sys2Proof.Laws.UnlockOps Sys2Proof.Laws.LevelOps

/-! ### Challenges -/

/-- The chip with a challenge drawn for a path. -/
def drawn (path : Path) (rnd : BitVec 128) (c : Chip) : Chip := { c with sec := secEnd path 2 0 { c.sec with challenge := some (rnd, c.clk.now) } }

theorem exec_newChallenge {s : State} {path : Path} (rnd : BitVec 128) (h : CanWrite s path .sec) :
    exec (.newChallenge path rnd) s = .next (onChip (fun c => taken path .sec 0x04C (drawn path rnd c)) s) :=
  congrArg Host.Outcome.next ((secOp_can path (drawn path rnd) s h).trans (onChip_congr (secWritten_taken path _ 2 0 (secEnd_res path 2 0 _) (by decide))))

theorem lapseChallenge_due {c : Chip} {x : BitVec 128} {t : Nat} (h : c.sec.challenge = some (x, t)) (hdue : t + 60000000000 ≤ c.clk.now) :
    lapseChallenge c = modSec (fun x => { x with challenge := none }) c := by
  unfold lapseChallenge
  rw [h]
  exact if_pos hdue

theorem lapseChallenge_early {c : Chip} {x : BitVec 128} {t : Nat} (h : c.sec.challenge = some (x, t)) (hearly : c.clk.now < t + 60000000000) :
    lapseChallenge c = c := by
  unfold lapseChallenge
  rw [h]
  exact if_neg (by omega)

/-! ### Refused tokens -/

/-- The chip once a command of a path has ended refused. -/
def refused (path : Path) (c : Chip) : Chip := { c with sec := secEnd path 3 0 c.sec }

/-- The chip once a token was refused: the challenge is used up, the lockout begins, the cause is raised. -/
def tokenRefused (path : Path) (c : Chip) : Chip :=
  raise .sec 9 { c with sec := secEnd path 3 0 { c.sec with challenge := none, lockout := some c.clk.now } }

theorem unlock_locked {s : State} {path : Path} {h g : Bool} {t : Nat} (hc : CanWrite s path .sec) (hl : s.chip.sec.lockout = some t)
    (hnow : s.chip.clk.now < t + 1000000000) :
    exec (.unlock path h g) s = .next (onChip (fun c => ended path .sec 0x04C (refused path c)) s) := by
  have hlocked : unlockLocked s.chip = true := by simp [unlockLocked, hl, hnow]
  exact (doUnlock s path h g hc (refused path) (if_pos hlocked)).trans
    (congrArg Host.Outcome.next (onChip_congr (secWritten_ended path _ 0 (secEnd_res path 3 0 _))))

theorem unlock_refused {s : State} {path : Path} {h g : Bool} (hc : CanWrite s path .sec) (hn : NotLocked s.chip)
    (hbad : tokenOk s.chip path h g = false) :
    exec (.unlock path h g) s = .next (onChip (fun c => ended path .sec 0x04C (tokenRefused path c)) s) := by
  refine (doUnlock s path h g hc (tokenRefused path) (unlock_bad path h g s.chip hn hbad)).trans ?_
  exact congrArg Host.Outcome.next (onChip_congr (secWritten_ended path _ 0 (by rw [tokenRefused, raise_sec]; exact secEnd_res path 3 0 _)))

/-- A wrong field, hash or signature spoils a token. -/
theorem tokenOk_wrong {c : Chip} {path : Path} {h g : Bool}
    (hw : h = false ∨ g = false ∨ c.sec.challenge = none ∨ token c path 0 ≠ 0x4E4B4F54 ∨ joinHalves (token c path 3) (token c path 2) ≠ Config.uid ∨
      (token c path 8).toNat = 0 ∨ 86400 < (token c path 8).toNat) : tokenOk c path h g = false := by
  by_contra hok
  simp only [Bool.not_eq_false] at hok
  unfold tokenOk at hok
  simp only [Bool.and_eq_true, decide_eq_true_eq, beq_iff_eq] at hok
  obtain ⟨⟨⟨⟨⟨⟨⟨⟨⟨⟨⟨hmagic, -⟩, -⟩, huid⟩, hchal⟩, hsecs⟩, hmax⟩, -⟩, hhash⟩, hsig⟩, -⟩, -⟩ := hok
  rcases hw with hw | hw | hw | hw | hw | hw | hw
  · simp [hw] at hhash
  · simp [hw] at hsig
  · simp [hw] at hchal
  · exact hw hmagic
  · exact hw huid
  · exact absurd hsecs (by unfold token at hw; unfold tokenWord; omega)
  · exact absurd hmax (by unfold token at hw; unfold tokenWord; omega)

/-! ### Tokens that pass -/

/-- The chip once a token of level 4 has given the authority to SCRAP for `secs` seconds. -/
def scrapAuthorised (path : Path) (secs : Nat) (c : Chip) : Chip :=
  raise .sec 8 { c with sec := secEnd path 2 0 { c.sec with challenge := none, lockout := none, scrapAuth := some c.clk.now }, dbg := { c.dbg with expiry := some (c.clk.now + secs * 1000000000) } }

/-- The chip once a token of level 2 has set that level for `secs` seconds. -/
def steerGiven (path : Path) (secs : Nat) (c : Chip) : Chip :=
  raise .sec 8 { c with sec := secEnd path 2 0 { c.sec with challenge := none, lockout := none }, dbg := { c.dbg with byToken := true, issuer := bit (token c path 1) 8, level := 2, expiry := some (c.clk.now + secs * 1000000000) } }

/-- The level and the seconds that the fields of a token give. -/
theorem tokenFields_level {c : Chip} {path : Path} {level issuer secs : Nat} (h : TokenFields c path level issuer secs) :
    fld (token c path 1) 7 0 = level ∧ (token c path 8).toNat = secs := by
  obtain ⟨-, hlevel, -, -, -, -, hsecs, -⟩ := h
  exact ⟨hlevel, hsecs⟩

theorem unlockToken_scrap {c : Chip} {path : Path} {secs : Nat} (hn : NotLocked c) (h : TokenFields c path 4 0 secs) :
    unlockToken path true true c = scrapAuthorised path secs c := by
  obtain ⟨hlevel, hsecs⟩ := tokenFields_level h
  have hok : tokenOk c path true true = true := (tokenOk_fields c path 4 0 secs h (by decide)).trans (by simp [tokenPermits, levelAllowed])
  rw [unlock_good path true true c hn hok 4 hlevel, hsecs, if_pos rfl]
  simp only [scrapAuthorised, secRes, modDbg, modSec, secEnd]

/-- STEER is the level below which halts are released: to set it releases none. -/
theorem setLevel_steer (c : Chip) : setLevel 2 c = modDbg (fun d => { d with level := 2 }) c := by
  unfold setLevel
  simp

theorem unlockToken_steer {c : Chip} {path : Path} {secs : Nat} (hn : NotLocked c) (hlife : c.sec.life = 2) (h : TokenFields c path 2 0 secs) :
    unlockToken path true true c = steerGiven path secs c := by
  obtain ⟨hlevel, hsecs⟩ := tokenFields_level h
  have hok : tokenOk c path true true = true := (tokenOk_fields c path 2 0 secs h (by decide)).trans (by simp [tokenPermits, levelAllowed, hlife])
  rw [unlock_good path true true c hn hok 2 hlevel, hsecs, if_neg (by decide), setLevel_steer]
  simp only [steerGiven, secRes, modDbg, modSec, secEnd]

/-- In SEALED no token of the vendor gives FACTORY. -/
theorem tokenOk_vendorFactory {c : Chip} {path : Path} {secs : Nat} (hlife : c.sec.life = 2) (h : TokenFields c path 3 1 secs) :
    tokenOk c path true true = false :=
  (tokenOk_fields c path 3 1 secs h (by decide)).trans (by simp [tokenPermits, levelFree, hlife])

/-- UNLOCK with a token that passes is taken. -/
theorem unlock_done {s : State} {path : Path} {x : SecSt} {g : Chip → Chip} (hc : CanWrite s path .sec)
    (hg : unlockToken path true true s.chip = g s.chip) (hsec : (g s.chip).sec = secEnd path 2 0 x) :
    exec (.unlock path true true) s = .next (onChip (fun c => taken path .sec 0x04C (g c)) s) :=
  (doUnlock s path true true hc g hg).trans
    (congrArg Host.Outcome.next (onChip_congr (secWritten_taken path _ 2 0 (by rw [hsec]; exact secEnd_res path 2 0 x) (by decide))))

/-! ### The lockout and the lapse -/

theorem lockoutEnd_due {c : Chip} {t : Nat} (h : c.sec.lockout = some t) (hdue : t + 1000000000 ≤ c.clk.now) :
    lockoutEnd c = modSec (fun x => { x with lockout := none }) c := by
  unfold lockoutEnd
  rw [h]
  exact if_pos hdue

theorem levelLapse_due {c : Chip} {t : Nat} (h : c.dbg.expiry = some t) (hdue : t ≤ c.clk.now) (hhalts : haltedUnits c = []) :
    levelLapse c = raise .sec 10 { c with dbg := { c.dbg with level := 0, byToken := false, issuer := false, expiry := none } } := by
  unfold levelLapse
  rw [h]
  exact (if_pos hdue).trans (congrArg (raise .sec 10) (setLevel_zero c hhalts))

theorem levelLapse_early {c : Chip} {t : Nat} (h : c.dbg.expiry = some t) (hearly : c.clk.now < t) : levelLapse c = c := by
  unfold levelLapse
  rw [h]
  exact if_neg (by omega)

/-- Settles O49: UNLOCK goes by the lockout and by what the token says; the rest acts when it is due. -/
theorem challengeAndUnlock : Obligations.ChallengeAndUnlock := by
  unfold Obligations.ChallengeAndUnlock
  refine ⟨?draw, ?lapse, ?lapseEarly, ?locked, ?wrong, ?scrap, ?steer, ?factory, ?lockoutOver, ?levelOver, ?levelEarly⟩
  case draw =>
    intro s path rnd h
    exact exec_newChallenge rnd h
  case lapse =>
    intro s x t hm h hdue
    exact run_live_as hm (lapseChallenge_due h hdue)
  case lapseEarly =>
    intro s x t hm h hearly
    exact run_live_as (g := id) hm (lapseChallenge_early h hearly)
  case locked =>
    intro s path h g t hc hl hnow
    exact unlock_locked hc hl hnow
  case wrong =>
    intro s path h g hc hn hw
    exact unlock_refused hc hn (tokenOk_wrong hw)
  case scrap =>
    intro s path secs hc hn h
    exact unlock_done hc (unlockToken_scrap hn h) (raise_sec _ _ _)
  case steer =>
    intro s path secs hc hn hlife h
    exact unlock_done hc (unlockToken_steer hn hlife h) (raise_sec _ _ _)
  case factory =>
    intro s path secs hc hn hlife h
    exact unlock_refused hc hn (tokenOk_vendorFactory hlife h)
  case lockoutOver =>
    intro s t hm h hdue
    exact run_live_as hm (lockoutEnd_due h hdue)
  case levelOver =>
    intro s t hm h hdue hhalts
    exact run_live_as hm (levelLapse_due h hdue hhalts)
  case levelEarly =>
    intro s t hm h hearly
    exact run_live_as (g := id) hm (levelLapse_early h hearly)

end Sys2Proof.Proofs.Unlocking
end

section
/-!
Debug levels, halts and single steps of cores (R476, R479, R482), with the statement about them.
-/

namespace Sys2Proof.Proofs.DebugHalts

open Sys2Proof Sys2Proof.Machine Sys2Proof.Laws.LevelOps Sys2Proof.Laws.SaveFacts Sys2Proof.Proofs.FreeRegisters

/-! ### Writes of the debug page -/

/-- DBG_LEVEL. -/
theorem freeReg_level : FreeReg .dbg 0x040 0x3 := ⟨⟨by decide, by decide, by decide⟩, rfl, _, rfl, rfl, by decide, by decide, rfl, rfl⟩

/-- DBG_HALT_CMD. -/
theorem freeReg_halt : FreeReg .dbg 0x054 0x3 := ⟨⟨by decide, by decide, by decide⟩, rfl, _, rfl, rfl, by decide, by decide, rfl, rfl⟩

/-- DBG_FCO_STEP. -/
theorem freeReg_step : FreeReg .dbg 0x0A0 0xFF := ⟨⟨by decide, by decide, by decide⟩, rfl, _, rfl, rfl, by decide, by decide, rfl, rfl⟩

/-- A write of DBG_LEVEL is taken when the level it names is then in force. -/
theorem exec_dbgLevelWrite {s : State} {path : Path} {v : Word} {ok : Bool} {d : Chip} (h : CanWrite s path .dbg) (hv : v &&& 3 = v)
    (hd : writeLevel path v s.chip = d) (hok : decide (d.dbg.level = fld v 1 0) = ok) :
    exec (.dbgLevelWrite path v) s = .next { s with chip := (if ok then taken path .dbg 0x040 else ended path .dbg 0x040) d } := by
  subst hd hok
  exact congrArg Host.Outcome.next (regPage_free freeReg_level h hv (fun _ => rfl) (fun _ => rfl))

/-- DBG_HALT_CMD is taken at STEER or above with a unit selected. -/
def haltTaken (c : Chip) : Bool := decide (2 ≤ c.dbg.level) && (haltSelected c).isSome

theorem exec_halt {s : State} {path : Path} {ok : Bool} {d : Chip} (h : CanWrite s path .dbg) (hd : haltCmd 1 s.chip = d) (hok : haltTaken s.chip = ok) :
    exec (.halt path) s = .next { s with chip := (if ok then taken path .dbg 0x054 else ended path .dbg 0x054) d } := by
  subst hd hok
  exact congrArg Host.Outcome.next (regPage_free freeReg_halt h (by decide) (fun _ => rfl) (fun _ => rfl))

theorem exec_debugResume {s : State} {path : Path} {ok : Bool} {d : Chip} (h : CanWrite s path .dbg) (hd : haltCmd 2 s.chip = d)
    (hok : haltTaken s.chip = ok) :
    exec (.debugResume path) s = .next { s with chip := (if ok then taken path .dbg 0x054 else ended path .dbg 0x054) d } := by
  subst hd hok
  exact congrArg Host.Outcome.next (regPage_free freeReg_halt h (by decide) (fun _ => rfl) (fun _ => rfl))

theorem exec_dbgFcoStep {s : State} {path : Path} {v : Word} {ok : Bool} {d : Chip} (h : CanWrite s path .dbg) (hv : v &&& 0xFF = v)
    (hd : coreStep v s.chip = d) (hok : decide (2 ≤ s.chip.dbg.level) = ok) :
    exec (.dbgFcoStep path v) s = .next { s with chip := (if ok then taken path .dbg 0x0A0 else ended path .dbg 0x0A0) d } := by
  subst hd hok
  exact congrArg Host.Outcome.next (regPage_free freeReg_step h hv (fun _ => rfl) (fun _ => rfl))

theorem taken_dbg (path : Path) (p : Page) (off : Nat) (c : Chip) : (taken path p off c).dbg = c.dbg := rfl

/-! ### Levels (R476) -/

/-- The chip at a level reached without a token. -/
def atLevel (l : Nat) (c : Chip) : Chip := { c with dbg := { c.dbg with level := l, byToken := false, issuer := false, expiry := none } }

theorem writeLevel_raises {path : Path} {v : Word} {c : Chip} (hup : c.dbg.level < fld v 1 0) (hfree : levelFree c.sec.life (fld v 1 0) = true)
    (hhalts : haltedUnits c = []) : writeLevel path v c = atLevel (fld v 1 0) c := by
  have hallowed : levelAllowed c (fld v 1 0) = true := by simp [levelAllowed, free_lt _ _ hfree]
  exact (if_neg (by omega)).trans ((if_pos ⟨hup, hfree, hallowed⟩).trans (setLevel_plain (fld v 1 0) _ hhalts (by omega)))

theorem writeLevel_notFree {path : Path} {v : Word} {c : Chip} (hup : c.dbg.level < fld v 1 0) (hfree : levelFree c.sec.life (fld v 1 0) = false) :
    writeLevel path v c = c :=
  (if_neg (by omega)).trans (if_neg (by simp [hfree]))

theorem writeLevel_off {path : Path} {c : Chip} (hpath : ∀ k, path ≠ .core k) (hlevel : 0 < c.dbg.level) (hhalts : haltedUnits c = []) :
    writeLevel path 0 c = atLevel 0 c := by
  refine (if_pos hlevel).trans (Eq.trans ?_ (setLevel_zero c hhalts))
  cases path with
  | core k => exact absurd rfl (hpath k)
  | pcie => rfl
  | ycp n => rfl
  | uart => rfl

theorem writeLevel_core {k : Fin 8} {v : Word} {c : Chip} (hdown : fld v 1 0 < c.dbg.level) : writeLevel (.core k) v c = c := if_pos hdown

/-! ### Halts (R479) -/

theorem haltCmd_refused {v : Word} {c : Chip} (hv : fld v 1 0 = 1 ∨ fld v 1 0 = 2) (h : c.dbg.level < 2 ∨ haltSelected c = none) :
    haltCmd v c = raise .dbg 10 c := by
  unfold haltCmd
  rw [if_neg (by omega)]
  by_cases hlevel : c.dbg.level < 2
  · exact if_pos hlevel
  · rw [if_neg hlevel, h.resolve_left hlevel]

theorem haltTaken_refused {c : Chip} (h : c.dbg.level < 2 ∨ haltSelected c = none) : haltTaken c = false := by
  rcases h with h | h
  · simp [haltTaken, h]
  · simp [haltTaken, h]

theorem haltTaken_unit {c : Chip} {u : HaltUnit} (hlevel : 2 ≤ c.dbg.level) (hsel : haltSelected c = some u) : haltTaken c = true := by
  simp [haltTaken, hlevel, hsel]

theorem haltCmd_halt {c : Chip} {u : HaltUnit} (hlevel : 2 ≤ c.dbg.level) (hsel : haltSelected c = some u) (hnew : u ∉ haltedUnits c) :
    haltCmd 1 c = haltOn u c := by
  have hone : fld (1 : Word) 1 0 = 1 := by decide
  unfold haltCmd
  rw [hone, if_neg (by decide), if_neg (by omega), hsel]
  dsimp only
  rw [if_pos rfl, if_neg (by simpa using hnew)]

theorem haltCmd_resume {c : Chip} {u : HaltUnit} (hlevel : 2 ≤ c.dbg.level) (hsel : haltSelected c = some u) (hold : u ∈ haltedUnits c) :
    haltCmd 2 c = haltOff u c := by
  have htwo : fld (2 : Word) 1 0 = 2 := by decide
  unfold haltCmd
  rw [htwo, if_neg (by decide), if_neg (by omega), hsel]
  dsimp only
  rw [if_neg (by decide), if_pos (by simpa using hold)]

theorem haltOn_core (k : Fin 8) (c : Chip) :
    haltOn (.page (.fco k)) c = raise .dbg 8 (demandOn (.fco k) (fun h => { h with halted := true }) (modCore k.val (fun x => { x with halted := true }) c)) := rfl

theorem haltOff_core (k : Fin 8) (c : Chip) :
    haltOff (.page (.fco k)) c = resumeRun (.fco k) (demandOff (.fco k) (fun h => { h with halted := false }) (modCore k.val (fun x => { x with halted := false, stepping := false }) c)) := rfl

/-- A halted planner is marked so: the demands on its pages leave the mark. -/
theorem haltOn_planner (c : Chip) : (haltOn .planner c).dbg.plannerHalt = true := by
  unfold haltOn
  rw [raise_dbg]
  exact each_keeps (·.dbg.plannerHalt) _ (fun p c => demandOn_keeps (·.dbg.plannerHalt) (fun _ _ _ => by simp) (fun _ _ _ => by simp) (fun _ _ => by simp) p _ c) _ _

/-! ### Steps of cores (R482) -/

/-- Each core that the list names lets one instruction pass; the others stay. -/
theorem core_eachStepping (l : List Nat) (c : Chip) (k : Nat) :
    Machine.core (each l (fun k c => modCore k (fun x => { x with stepping := true }) c) c) k = if k ∈ l then { Machine.core c k with stepping := true } else Machine.core c k := by
  induction l generalizing c with
  | nil => simp [each]
  | cons j l ih =>
    refine (ih (modCore j (fun x => { x with stepping := true }) c)).trans ?_
    by_cases hk : k = j
    · subst hk
      simp
    · simp [core_modCore_ne _ _ _ _ hk, hk]

theorem core_coreStep {v : Word} {c : Chip} (hlevel : 2 ≤ c.dbg.level) {k : Nat} (hk : k < 8) :
    Machine.core (coreStep v c) k = if bit v k = true ∧ (Machine.core c k).halted = true then { Machine.core c k with stepping := true } else Machine.core c k := by
  unfold coreStep
  rw [if_neg (by omega), core_eachStepping]
  simp [hk]

/-- Settles O50: levels go by what is free and by the path, halts by level and selection, steps by the halted cores named. -/
theorem debugLevelsHaltsAndSteps : Obligations.DebugLevelsHaltsAndSteps := by
  unfold Obligations.DebugLevelsHaltsAndSteps
  refine ⟨?raised, ?notFree, ?lowered, ?byCore, ?haltCore, ?haltPlanner, ?refused, ?resumeCore, ?step, ?stepLow⟩
  case raised =>
    intro s path v h hv hup hfree hhalts
    exact exec_dbgLevelWrite (ok := true) h hv (writeLevel_raises hup hfree hhalts) (by simp)
  case notFree =>
    intro s path v h hv hup hfree
    exact exec_dbgLevelWrite (ok := false) h hv (writeLevel_notFree hup hfree) (by simp; omega)
  case lowered =>
    intro s path h hpath hlevel hhalts
    exact exec_dbgLevelWrite (ok := true) h (by decide) (writeLevel_off hpath hlevel hhalts) (by simp [fld])
  case byCore =>
    intro s k v h hv hdown
    exact exec_dbgLevelWrite (ok := false) h hv (writeLevel_core hdown) (by simp; omega)
  case haltCore =>
    intro s path k h hlevel hsel hnew
    exact exec_halt h ((haltCmd_halt hlevel hsel hnew).trans (haltOn_core k s.chip)) (haltTaken_unit hlevel hsel)
  case haltPlanner =>
    intro s path h hlevel hsel hnew
    refine ⟨_, exec_halt h (haltCmd_halt hlevel hsel hnew) (haltTaken_unit hlevel hsel), ?_⟩
    exact (congrArg DbgSt.plannerHalt (taken_dbg path .dbg 0x054 _)).trans (haltOn_planner s.chip)
  case refused =>
    intro s path h hno
    exact ⟨exec_halt h (haltCmd_refused (.inl (by decide)) hno) (haltTaken_refused hno),
      exec_debugResume h (haltCmd_refused (.inr (by decide)) hno) (haltTaken_refused hno)⟩
  case resumeCore =>
    intro s path k h hlevel hsel hold
    exact exec_debugResume h ((haltCmd_resume hlevel hsel hold).trans (haltOff_core k s.chip)) (haltTaken_unit hlevel hsel)
  case step =>
    intro s path v h hv hlevel
    exact ⟨onChip (coreStep v) s, exec_dbgFcoStep (ok := true) h hv rfl (by simpa using hlevel), rfl, rfl, fun k hk => core_coreStep hlevel hk⟩
  case stepLow =>
    intro s path v h hv hlevel
    exact exec_dbgFcoStep (ok := false) h hv (if_pos hlevel) (by simpa using hlevel)

end Sys2Proof.Proofs.DebugHalts
end

section
/-!
Requests of the debug UART (R478), with the statement about them.
-/

namespace Sys2Proof.Proofs.DebugUartRequests

open Sys2Proof Sys2Proof.Machine Sys2Proof.Laws.UartOps Sys2Proof.Proofs.FreeRegisters

/-! ### What the level allows (R477) -/

theorem uartMay_read {c : Chip} {p : Page} {off : Nat} (h : off < 0x1000) (hmay : 1 ≤ c.dbg.level ∨ p = .sec ∨ off = 0) :
    uartMay c false (pageBase p + off) = true := by
  obtain ⟨hdiv, hmod, hwindow⟩ := base_div p off h
  unfold uartMay
  dsimp only
  rw [hdiv, hmod]
  rcases hmay with hlevel | rfl | rfl
  · simp [hlevel]
  · simp
  · rw [decide_eq_true hwindow]
    rfl

/-- The offset of DBG_STA is that of no other register of a page. -/
theorem pageBase_ne_dbgSta {p : Page} {off : Nat} (h : off < 0x1000) (hsta : p = .dbg → off ≠ 0x044) : pageBase p + off ≠ pageBase .dbg + 0x044 := by
  intro heq
  obtain ⟨hdiv, hmod, -⟩ := base_div p off h
  obtain ⟨hdiv', hmod', -⟩ := base_div .dbg 0x044 (by decide)
  rw [heq] at hdiv hmod
  exact hsta (pageNum_inj (hdiv.symm.trans hdiv')) (hmod.symm.trans hmod')

theorem uartMay_read_off {c : Chip} {p : Page} {off : Nat} (h : off < 0x1000) (hlevel : c.dbg.level = 0) (hp : p ≠ .sec) (h0 : off ≠ 0)
    (hsta : p = .dbg → off ≠ 0x044) : uartMay c false (pageBase p + off) = false := by
  obtain ⟨hdiv, hmod, -⟩ := base_div p off h
  have hne := pageBase_ne_dbgSta h hsta
  unfold uartMay
  dsimp only
  rw [hdiv, hmod, sec_num p hp]
  simp [hlevel, h0, hne]

theorem uartMay_token {c : Chip} {i : Nat} (hi : i < 48) : uartMay c true (pageBase .sec + (0x200 + 4 * i)) = true := by
  obtain ⟨hdiv, hmod, -⟩ := base_div .sec (0x200 + 4 * i) (by omega)
  unfold uartMay
  dsimp only
  rw [hdiv, hmod]
  simp
  omega

theorem uartMay_write {c : Chip} (off : Nat) (hlevel : 2 ≤ c.dbg.level) : uartMay c true off = true := by
  simp [uartMay, hlevel]

/-! ### The window, as a request sees it -/

theorem pageOffset_aligned {s : State} {r : UartReq} {p : Page} {off : Nat} (h : UartNew s r) (hoff : r.off.toNat = pageBase p + off) :
    (pageBase p + off) % 4 = 0 := by
  obtain ⟨-, -, haligned, -⟩ := h
  rwa [hoff] at haligned

theorem readWindow_page {path : Path} {p : Page} {off : Nat} {s : State} (h : off < 0x1000) (ha : (pageBase p + off) % 4 = 0) :
    readWindow path (pageBase p + off) s = ({ s with chip := (pageRead path p off s.chip).1 }, .ok (pageRead path p off s.chip).2) := by
  simp [readWindow, ha, targetOf_page p off h]

theorem writeWindow_page {path : Path} {p : Page} {off : Nat} (v : Word) (s : State) (h : off < 0x1000) (ha : (pageBase p + off) % 4 = 0) :
    writeWindow path (pageBase p + off) v s = pageWrite path p off v s := by
  simp [writeWindow, ha, targetOf_page p off h]

/-- A path that does not own an owned page is denied (R41). -/
theorem pageWrite_denied {path : Path} {p : Page} {off : Nat} {v : Word} {s : State} (hs : isStaging p off = false) (h0 : (hdr s.chip p).owner ≠ 0)
    (hne : (hdr s.chip p).owner ≠ pathCode path) : pageWrite path p off v s = (onChip (raise p 2) s, .denied) :=
  (if_neg (by simp [hs])).trans (if_pos ⟨h0, hne⟩)

/-- A write of a register that no seal closes and of which no encoding is reserved stores what its chapter makes of it (R39). -/
theorem pageWrite_free {s s1 : State} {path : Path} {p : Page} {off : Nat} {mask v : Word} (hreg : FreeReg p off mask)
    (h : CanWrite s path p) (hm : v &&& mask = v) (hx : ∀ old, crossKeep s.chip p off old v = (v, false))
    (hb : ∀ row, blockWrite path p off row v s = (s1, true)) : pageWrite path p off v s = (onChip (countWrite p) s1, .ok) := by
  obtain ⟨⟨h1, h2, h3⟩, hmore, row, hrow, hpair, hro, hrwl, rfl, hlegal⟩ := hreg
  obtain ⟨hup, howner, hreset⟩ := h
  have hstaging : isStaging p off = false := by simp [isStaging, hrow, hpair]
  have hclean : cleanReg s.chip path p off row v = (v, false) := cleanReg_eq s.chip path p off row v hm (by rw [hlegal, hmore]; rfl) (hx _)
  have howned : ¬ ((hdr s.chip p).owner ≠ 0 ∧ (hdr s.chip p).owner ≠ pathCode path) := fun ⟨h0, hne⟩ => howner.elim h0 hne
  have hstore : blockStore path p off v s = onChip (countWrite p) s1 := by
    simp [blockStore, hreset, h2, hrow, hro, hrwl, hpair, hclean, hm, hb, onChip, raiseIf]
  exact (if_neg (by simp [hstaging])).trans ((if_neg howned).trans ((if_neg (by omega)).trans (by rw [hstore])))

/-- Each word of SEC_TOKEN takes any value. -/
theorem freeReg_token {i : Nat} (hi : i < 48) : FreeReg .sec (0x200 + 4 * i) (BitVec.allOnes 32) := by
  have hrow : ∀ j : Fin 48, findRow (pageRows .sec) (0x200 + 4 * j.val) = some ({ name := "SEC_TOKEN", off := 0x200, stride := 0x4, n := 48, acc := .wo }, false) := by
    decide
  exact ⟨⟨by omega, by omega, by omega⟩, rfl, _, hrow ⟨i, hi⟩, rfl, by decide, by decide, rfl, rfl⟩

/-- A token word is kept for the path that wrote it. -/
theorem secWrite_token {path : Path} {i : Nat} {v : Word} {s : State} (hi : i < 48) :
    secWrite path (0x200 + 4 * i) v s = (onChip (heldSet path (pageBase .sec + (0x200 + 4 * i)) v) s, true) :=
  (if_neg (by omega)).trans ((if_neg (by omega)).trans (if_pos (by omega)))

/-- No seal closes the token words. -/
theorem sealDrop_token {c : Chip} {i : Nat} (hi : i < 48) : sealDrop c (pageBase .sec + (0x200 + 4 * i)) = false := by
  obtain ⟨_, -, row, hrow, -, -, hrwl, -, -⟩ := freeReg_token hi
  simp [sealDrop, targetOf_page .sec (0x200 + 4 * i) (by omega), hrow, hrwl]

/-! ### A new request (R478) -/

theorem uartRead_page {s : State} {r : UartReq} {p : Page} {off : Nat} (h : UartNew s r) (hop : r.op = 1) (hlt : off < 0x1000)
    (hoff : r.off.toNat = pageBase p + off) (hmay : uartMay s.chip false (pageBase p + off) = true) :
    uartRequest r s = { s with chip := uartAnswer r 0 (pageRead .uart p off s.chip).2 (pageRead .uart p off s.chip).1 } := by
  rw [uart_new s r h, uartRequest.go, if_pos hop, hoff, hmay, readWindow_page hlt (pageOffset_aligned h hoff)]
  rfl

theorem uartRead_denied {s : State} {r : UartReq} (h : UartNew s r) (hop : r.op = 1) (hmay : uartMay s.chip false r.off.toNat = false) :
    uartRequest r s = onChip (uartAnswer r 8 0) s := by
  rw [uart_new s r h, uartRequest.go, if_pos hop, hmay]
  rfl

theorem uartWrite_denied {s : State} {r : UartReq} (h : UartNew s r) (hop : r.op = 2) (hmay : uartMay s.chip true r.off.toNat = false) :
    uartRequest r s = onChip (uartAnswer r 8 0) s := by
  rw [uart_new s r h, uartRequest.go, hop, hmay]
  rfl

theorem uartWrite_token {s : State} {r : UartReq} {i : Nat} (h : UartNew s r) (hop : r.op = 2) (hi : i < 48)
    (hoff : r.off.toNat = pageBase .sec + (0x200 + 4 * i)) (hcan : CanWrite s .uart .sec) :
    uartRequest r s = onChip (fun c => uartAnswer r 0 0 (countWrite .sec (heldSet .uart (pageBase .sec + (0x200 + 4 * i)) r.data c))) s := by
  have hwrite : pageWrite .uart .sec (0x200 + 4 * i) r.data s = (onChip (countWrite .sec) (onChip (heldSet .uart (pageBase .sec + (0x200 + 4 * i)) r.data) s), .ok) :=
    pageWrite_free (freeReg_token hi) hcan BitVec.and_allOnes (fun _ => rfl) (fun _ => secWrite_token hi)
  rw [uart_new s r h, uartRequest.go, hop, hoff, uartMay_token hi, sealDrop_token hi, writeWindow_page _ _ (by omega) (pageOffset_aligned h hoff), hwrite]
  rfl

theorem uartWrite_owned {s : State} {r : UartReq} {p : Page} {off : Nat} (h : UartNew s r) (hop : r.op = 2) (hlt : off < 0x1000)
    (hoff : r.off.toNat = pageBase p + off) (hlevel : 2 ≤ s.chip.dbg.level) (hs : isStaging p off = false) (h0 : (hdr s.chip p).owner ≠ 0)
    (hne : (hdr s.chip p).owner ≠ 16) : uartRequest r s = onChip (fun c => uartAnswer r 8 0 (raise p 2 c)) s := by
  rw [uart_new s r h, uartRequest.go, hop, hoff, uartMay_write _ hlevel, writeWindow_page _ _ hlt (pageOffset_aligned h hoff), pageWrite_denied (path := .uart) hs h0 hne]
  rfl

/-! ### Requests that are not new, and the gap -/

/-- The chip that has answered 0x12 to what it could not take. -/
def uartBad (r : UartReq) (c : Chip) : Chip := emit (uartReply r.seq 0x12 0) { c with dbg := { c.dbg with uartPartial := none } }

theorem uartRequest_bad {s : State} {r : UartReq} (hup : fabricUp s.chip .uart = true) (h : uartIntact r = false ∨ r.off.toNat % 4 ≠ 0) :
    uartRequest r s = onChip (uartBad r) s :=
  (if_neg (by simp [hup])).trans (if_pos (by simpa using h))

theorem uartRequest_repeated {s : State} {r : UartReq} {st : Byte} {v : Word} (hup : fabricUp s.chip .uart = true) (hintact : uartIntact r = true)
    (haligned : r.off.toNat % 4 = 0) (hlast : s.chip.dbg.uartLast = some (r, st, v)) :
    uartRequest r s = onChip (emit (uartReply r.seq st v)) s := by
  unfold uartRequest
  dsimp only
  rw [if_neg (by simp [hup]), if_neg (by simp [hintact, haligned]), hlast]
  exact if_pos rfl

/-- A read and a write are one request to the UART. -/
theorem exec_uartRequest {s : State} {r : UartReq} {i : Instr} (hi : i ∈ [Instr.uartRead r, .uartWrite r]) : exec i s = .next (uartRequest r s) := by
  simp only [List.mem_cons, List.not_mem_nil, or_false] at hi
  rcases hi with rfl | rfl
  · rfl
  · rfl

theorem uartGap_due {c : Chip} {t : Nat} (h : c.dbg.uartPartial = some t) (hdue : t + 10000000 ≤ c.clk.now) :
    uartGap c = modDbg (fun d => { d with uartPartial := none }) c := by
  unfold uartGap
  rw [h]
  exact if_pos hdue

theorem uartGap_none {c : Chip} (h : c.dbg.uartPartial = none) : uartGap c = c := by
  unfold uartGap
  rw [h]

/-- Settles O51: a request is answered by what the level and the page's owner let it do; a bad or repeated one by itself. -/
theorem debugUart : Obligations.DebugUart := by
  unfold Obligations.DebugUart
  refine ⟨?read, ?readDenied, ?token, ?writeDenied, ?owned, ?bad, ?repeated, ?gap, ?gapNone⟩
  case read =>
    intro s r p off h hop hlt hoff hmay
    exact congrArg Host.Outcome.next (uartRead_page h hop hlt hoff (uartMay_read hlt hmay))
  case readDenied =>
    intro s r p off h hop hlt hoff hlevel hp h0 hsta
    exact congrArg Host.Outcome.next (uartRead_denied h hop (by rw [hoff]; exact uartMay_read_off hlt hlevel hp h0 hsta))
  case token =>
    intro s r i h hop hi hoff hcan
    exact congrArg Host.Outcome.next (uartWrite_token h hop hi hoff hcan)
  case writeDenied =>
    intro s r p off h hop hlt hoff hlevel hp
    exact congrArg Host.Outcome.next (uartWrite_denied h hop (by rw [hoff]; exact may_write_no s.chip p off hlt hlevel hp))
  case owned =>
    intro s r p off h hop hlt hoff hlevel hs h0 hne
    exact congrArg Host.Outcome.next (uartWrite_owned h hop hlt hoff hlevel hs h0 hne)
  case bad =>
    intro s r hup h i hi
    exact (exec_uartRequest hi).trans (congrArg Host.Outcome.next (uartRequest_bad hup h))
  case repeated =>
    intro s r st v hup hintact haligned hlast i hi
    exact (exec_uartRequest hi).trans (congrArg Host.Outcome.next (uartRequest_repeated hup hintact haligned hlast))
  case gap =>
    intro s t hm h hdue
    exact run_live_as hm (uartGap_due h hdue)
  case gapNone =>
    intro s hm h
    exact run_live_as (g := id) hm (uartGap_none h)

end Sys2Proof.Proofs.DebugUartRequests
end
